-- ==== Sys2Proof/Word.lean ====
section
/-! DEFINITION. The words of the block: a byte and its widest plain arithmetic (R12, R13). -/

namespace Sys2Proof

/-- A byte. -/
abbrev Byte := BitVec 8

/-- Bytes of a granule: 64 KiB (R12). -/
abbrev granuleBytes : Nat := 65536

/-- Bytes of a sector (R12). -/
abbrev sectorBytes : Nat := 4096

end Sys2Proof
end

