-- ==== Sys2Proof/Config.lean ====
section
/-! DEFINITION. What the spec leaves open: the free values. None has a body, so no statement can rest on a value of one. -/

namespace Sys2Proof

/-- Draw `k` of the CTR_DRBG (R61, R192, R414, R454, R462): a fresh 64-bit value. DESIGN CHOICE, assumption log 9. -/
opaque Config.drbg : Nat → BitVec 64

/-- ECDSA P-384 verification of (public key, SHA-384 digest, r, s) (R77, R454, R462); FIPS 186 is named and not restated.
DESIGN CHOICE, assumption log 8. -/
opaque Config.ecdsaP384 : List Byte → BitVec 384 → BitVec 384 → BitVec 384 → Bool

/-- SHA-384 of the mask ROM, extended into SG0 at step 4 of the cold start (R79); the ROM's contents are not given.
DESIGN CHOICE, assumption log 10. -/
opaque Config.romDigest : BitVec 384

/-- A byte of memory that the spec calls undefined: draw `k`, byte `i` (R122, R129, R257). DESIGN CHOICE, assumption log 11. -/
opaque Config.undefByte : Nat → Nat → Byte

/-- A number the spec gives no rule for (a duration in its units, a count of bytes the park record needs ...): draw `k` (R128, R470).
DESIGN CHOICE, assumption log 12. -/
opaque Config.freeNat : Nat → Nat

/-- The program counter and branch trace words of a control core as read (R475): core, index. DESIGN CHOICE, assumption log 13. -/
opaque Config.coreWord : Nat → Nat → BitVec 64

end Sys2Proof
end

