-- ==== Sys2Proof/Syntax.lean ====
section
/-! DEFINITION. The commands of the block: one constructor of `Instr` per row of the table of operations and events, with what
arrives at the boundary with it. -/

namespace Sys2Proof

/-- A FAB_S request: its lane, requester identity and privilege (Table 6 of chapter 02: bit 5 management, bits 4:0 chamber). -/
structure Access where
  lane : Nat
  src  : BitVec 12
  priv : BitVec 6
  deriving DecidableEq, Repr

/-- A submission entry as Krytra reads it, with the queue it came from (R93, Table 2 of chapter 04). -/
structure Sub where
  chamber    : Nat
  sq         : Nat
  opcode     : BitVec 8
  flags      : BitVec 8
  cid        : BitVec 16
  handle     : BitVec 32
  statusAddr : BitVec 64
  a : BitVec 64
  b : BitVec 64
  c : BitVec 64
  d : BitVec 64
  e : BitVec 64
  f : BitVec 64
  deriving DecidableEq, Repr

/-- A twin entry of a veneer slot (R137, Table 20 of chapter 05). `second` marks the half at bytes 32-63. -/
structure Twin where
  chamber : Nat
  sq      : Nat
  second  : Bool
  opcode  : BitVec 8
  flags   : BitVec 8
  cid     : BitVec 16
  handle  : BitVec 32
  p0 : BitVec 64
  p1 : BitVec 64
  p2 : BitVec 64
  deriving DecidableEq, Repr

/-- How the storage commands of an operation end: in order, with an error status, with a second timeout, with a sector that fails its
check after the re-read, or in order after a sector passed its check at the re-read only (R201, R233). -/
inductive NvmeAns where
  | ok | media | timeout | check | recheck
  deriving DecidableEq, Repr

/-- What the fabric and the SSDs answer to a command: a structure read answered with ERR or POISON, a write answered with ERR (R122),
and the storage commands. -/
structure Ext where
  readErr  : Bool
  writeErr : Bool
  nvme     : NvmeAns
  deriving DecidableEq, Repr

/-- Every answer good. -/
def Ext.good : Ext := ⟨false, false, .ok⟩

/-- The answer to the read of one submission entry (R109). -/
inductive FetchAns where
  | ok | err | poison
  deriving DecidableEq, Repr

/-- A firmware image as its fetch and its header show it (R77). The header's byte layout is not given: assumption log 14. -/
structure Image where
  fetchErr   : Bool
  headerOk   : Bool
  version    : BitVec 32
  rollback   : Nat
  pubKey     : List Byte
  sigR       : BitVec 384
  sigS       : BitVec 384
  digest     : BitVec 384
  liveCompat : Bool
  deriving DecidableEq, Repr

/-- Whether the intent row and the commit row count as burnt after at most three tries (R455). -/
structure Burn where
  intentOk : Bool
  commitOk : Bool
  deriving DecidableEq, Repr

/-- One index record of a stored object (Table 5 of chapter 08). -/
structure IndexRec where
  digest   : BitVec 256
  iv       : BitVec 96
  tag      : BitVec 128
  kcv      : BitVec 64
  n        : Nat
  codec    : Nat
  kind     : Nat
  poisoned : Bool
  refLeaf  : Nat
  refObj   : BitVec 64
  replica  : Nat
  refShard : Nat
  refTensor : BitVec 32
  deriving DecidableEq, Repr

/-- A coordinate descriptor (Table 1 of chapter 06). -/
structure Coord where
  tensorId : BitVec 32
  elemType : Nat
  rank     : Nat
  tiled    : Bool
  extents  : List Nat
  starts   : List Nat
  sizes    : List Nat
  tiles    : List (Nat × Nat)
  members  : Nat
  idStep   : BitVec 32
  stride   : Nat
  deriving DecidableEq, Repr

/-- One shard of a stored object: its shard record, its index records, its poison entries (leaf, beats), its written blocks
(leaf, first SLBA of the place, bytes) (R218, Table 7 of chapter 08). -/
structure Shard where
  tensorId : BitVec 32
  coord    : Coord
  region   : Nat
  member   : Nat
  firstSector : Nat
  repIndex : Nat
  repCount : Nat
  repGroup : BitVec 64
  digest   : Option (BitVec 256)
  recs     : List IndexRec
  poison   : List (Nat × List Nat)
  places   : List (Nat × Nat × List Byte)
  deriving DecidableEq, Repr

/-- A stored object: the bytes of its manifest, its shards, and its standing in the store (R218, R225). -/
structure StoredObj where
  id        : BitVec 64
  label     : BitVec 64
  epoch     : BitVec 32
  stepCount : BitVec 48
  stepState : Nat
  midstep   : Bool
  sealed    : Bool
  kcv       : BitVec 64
  ssf       : Nat
  manifest  : List Byte
  shards    : List Shard
  expired   : Bool
  commitSeq : Nat
  deriving DecidableEq, Repr

/-- What a store's namespaces hold: superblock fields, serial mark, journal and map positions, zone states, objects (R212, R214-R218). -/
structure Media where
  ns        : List (Nat × BitVec 32)
  idents    : List (List Byte)
  major     : Nat
  deleting  : Bool
  damaged   : Bool
  keepCount : Nat
  identity  : BitVec 128
  log2Stripe : Nat
  perNs     : Nat
  zones     : Nat
  generation : Nat
  ckptNo    : Nat
  ckptSeq   : Nat
  ckptLen   : Nat
  serialHigh : Nat
  nextSerial : Nat
  journalSeq : Nat
  creatorFw  : BitVec 32
  zoneState : List (Nat × Nat)
  objects   : List StoredObj
  deriving DecidableEq, Repr

/-- A namespace as Identify reports it (R84, R212). -/
structure NsInfo where
  nsid   : BitVec 32
  usable : Bool
  size   : Nat
  ident  : List Byte
  deriving DecidableEq, Repr

/-- What an NVMe controller answers during STORAGE_ATTACH (R84), and the stores its namespaces hold. -/
structure CtrlInfo where
  regErr   : Bool
  notReady : Bool
  cmdErr   : Bool
  identify : List Byte
  spaces   : List NsInfo
  stores   : List Media
  deriving DecidableEq, Repr

/-- An inline request on HREQ (Table 2 of chapter 02): `two` is LEN, `data` and `be` have one entry per byte, `poison` one per beat. -/
structure HReq where
  op     : BitVec 3
  two    : Bool
  addr   : BitVec 52
  tag    : BitVec 16
  data   : List Byte
  be     : List Bool
  poison : List Bool
  user   : BitVec 8
  deriving DecidableEq, Repr

/-- A response beat on MRSP (Table 2 of chapter 02): `kind` true is a write completion. -/
structure MResp where
  kind   : Bool
  tag    : BitVec 17
  data   : List Byte
  poison : Bool
  err    : Bool
  last   : Bool
  user   : BitVec 8
  deriving DecidableEq, Repr

/-- A Krytra-origin tag (R39, R478). -/
inductive TagRef where
  | mreq (st tag : Nat) (write : Bool)
  | fab (port tag : Nat) (write : Bool)
  deriving DecidableEq, Repr

/-- A chain frame that passed its checks of damage (Table 1 of chapter 15), without the CRC. -/
structure DclFrame where
  version : BitVec 8
  type    : BitVec 8
  dest    : BitVec 8
  source  : BitVec 8
  hops    : BitVec 8
  payload : List Byte
  deriving DecidableEq, Repr

/-- An NVMe completion entry as CC3 polls it (Table 1 of chapter 18). -/
structure Cqe where
  cid    : Nat
  sqId   : Nat
  sqHead : Nat
  status : Nat
  deriving DecidableEq, Repr

/-- Whose violation count a decay period lowers (Table 1 of chapter 18). -/
inductive Partner where
  | sq (ch q : Nat)
  | cq (ch q : Nat)
  | nvme (c : Nat)
  | sdx (ch p : Nat)
  | chain (source : Nat)
  deriving DecidableEq, Repr

/-- The SRAM row in which a fault is found (Table 10 of chapter 18). -/
inductive SramUnit where
  | rebate (st : Nat)
  | streamRow (index : Nat)
  | cell (st cell : Nat)
  | syncObject (obj : Nat)
  | sumpEntry
  deriving DecidableEq, Repr

/-- One jig slice: the monitors before it, whether it and its repeat miscompared, and the first miscomparing segment (R503, R505). -/
structure SliceOutcome where
  vdd     : BitVec 10
  tj      : BitVec 8
  miss    : Bool
  missAgain : Bool
  segment : Nat
  deriving DecidableEq, Repr

/-- The slices of a SELF_TEST: positions that miscompared twice, positions that miscompared once, and yields (R505, R506). -/
structure SliceOutcomes where
  failed     : List Nat
  transients : List Nat
  yields     : Nat
  segment    : Nat
  deriving DecidableEq, Repr

/-- The commands: one constructor per row of the table of operations and events. -/
inductive Instr where
  /-- R126: Writes the identity data of the block, a chamber, a controller or a store to a 4 KiB host buffer. -/
  | identify (x : Sub) (e : Ext)
  /-- R83: Selects the highest KCQ version that both sides offer for the chamber, or the VENEER command set. -/
  | negotiate (x : Sub) (e : Ext)
  /-- R90: Creates submission or completion queue 1-15 of the chamber. -/
  | queueCreate (x : Sub) (e : Ext)
  /-- R115: Deletes a queue, first aborting every outstanding command of an SQ. -/
  | queueDelete (x : Sub) (e : Ext)
  /-- R124: Returns the value of a feature. -/
  | featureGet (x : Sub) (e : Ext)
  /-- R124: FEATURE_SET of the chamber's status-word update interval. -/
  | statusInterval (x : Sub) (e : Ext)
  /-- R504: FEATURE_SET that turns periodic self-test on or off and sets the slice period. -/
  | periodicSelfTest (x : Sub) (e : Ext)
  /-- R483: FEATURE_SET that configures or disables the sump spill ring in host memory. -/
  | sumpSpill (x : Sub) (e : Ext)
  /-- R156: FEATURE_SET of the reserve warn and stall watermarks of the chamber. -/
  | reserveWatermarks (x : Sub) (e : Ext)
  /-- R476: FEATURE_SET of the NVMe, SDX peer and chain violation thresholds. -/
  | partnerThreshold (x : Sub) (e : Ext)
  /-- R469: FEATURE_SET of the target power state and the idle time before LEAN. -/
  | powerPolicy (x : Sub) (e : Ext)
  /-- R424: FEATURE_SET of the token rate for originated chain notices. -/
  | chainNoticeRate (x : Sub) (e : Ext)
  /-- R484: Copies the selected log (sump, capture statistics, NVMe, stale generations or self-test) into a host buffer. -/
  | logRead (x : Sub) (e : Ext)
  /-- R506: Runs one quick or one deep jig slice on every built unit not already declared failed. -/
  | selfTest (x : Sub) (e : Ext) (o : SliceOutcomes)
  /-- R234: Formats namespaces into a new store: zeroes the system zones, writes checkpoint 0, then writes the superblocks. -/
  | storeCreate (x : Sub) (e : Ext)
  /-- R234: STORE_CREATE with A[24] set: reads the superblocks, replays the journal, runs the orphan scan and sets the next serial. -/
  | storeMount (x : Sub) (e : Ext)
  /-- R234: STORE_DELETE with A[0] = 0: checkpoints the store and detaches it. -/
  | storeUnmount (x : Sub) (e : Ext)
  /-- R234: STORE_DELETE with A[0] = 1: marks the superblocks deleting and deallocates every extent, the superblocks last. -/
  | storeDelete (x : Sub) (e : Ext)
  /-- R125: Checks and applies a chamber's mode word, quotas, reserve, credits and window list as one whole. -/
  | chamberConfig (x : Sub) (e : Ext)
  /-- R124: Unwraps a sealed key blob under a wrapping slot and commits it to an empty target slot. -/
  | keySlotLoad (x : Sub) (e : Ext)
  /-- R403: KEY_SLOT_LOAD with A[8] set: zeroises the named key slot once its assigned invocations have finished. -/
  | keySlotZeroise (x : Sub) (e : Ext)
  /-- R86: Checks an image in host memory as R77 does and records its address, length and digest. -/
  | fwStage (x : Sub) (e : Ext) (img : Image)
  /-- R86: Activates the staged image by live hand-over through CC2 or by warm reset, and may advance the anti-rollback counter. -/
  | fwActivate (x : Sub) (e : Ext) (img : Image)
  /-- R455: Checks the authorisation, zeroises keys where needed, then burns the intent row and the commit row of the target state. -/
  | lifecycleAdvance (x : Sub) (e : Ext) (burn : Burn)
  /-- R414: CHAIN_CONTROL action 0: the unit draws a nonce, takes address 1 and sends ENUM as master. -/
  | chainMasterEnumerate (x : Sub) (e : Ext)
  /-- R416: CHAIN_CONTROL action 1: sets role MEMBER and writes dcl_max. -/
  | chainSetMember (x : Sub) (e : Ext)
  /-- R416: CHAIN_CONTROL action 2: sets role ISOLATED. -/
  | chainSetIsolated (x : Sub) (e : Ext)
  /-- R416: CHAIN_CONTROL action 3: starts a new enumeration of the ring. -/
  | chainReenumerate (x : Sub) (e : Ext)
  /-- R416: CHAIN_CONTROL action 4: returns the unit's address, unit count, role and ring version. -/
  | chainStatus (x : Sub) (e : Ext)
  /-- R115: Aborts a named command: it never runs if not yet dispatched, or stops at its next unit boundary if running. -/
  | abort (x : Sub) (e : Ext)
  /-- R84: Initialises an NVMe controller, identifies its namespaces and creates its I/O queue pairs. -/
  | storageAttach (x : Sub) (e : Ext) (ci : CtrlInfo)
  /-- R84: STORAGE_ATTACH with A[8] set: releases and disables the controller. -/
  | storageDetach (x : Sub) (e : Ext)
  /-- R346: Disables a chamber's queues, ends its commands and checks for leftover links, watches and barriers. -/
  | chamberQuiesce (x : Sub) (e : Ext)
  /-- R123: A manufacturing test opcode 0xF0-0xFF, accepted only in MANUF and RETURN. -/
  | testOpcode (x : Sub) (e : Ext)
  /-- R143: Checks a coordinate descriptor, enters a region in the table and sets all its granules DIRTY. -/
  | regionDeclare (x : Sub) (e : Ext)
  /-- R144: Removes a region from the region table. -/
  | regionRetire (x : Sub) (e : Ext)
  /-- R150: Starts a capture of the chamber's regions to its store and returns the object ID. -/
  | capture (x : Sub) (e : Ext)
  /-- R163: Sets the drain rank of a region. -/
  | drainHint (x : Sub) (e : Ext)
  /-- R174: Ends the chamber's running capture at its next granule boundary. -/
  | captureCancel (x : Sub) (e : Ext)
  /-- R166: Marks a region as replica i of n in a replica group. -/
  | replicaSet (x : Sub) (e : Ext)
  /-- R169: Arms an early-warning rule for the chamber and its store. -/
  | triggerArm (x : Sub) (e : Ext)
  /-- R169: TRIGGER_ARM with A[4] = 0: disarms an early-warning rule. -/
  | triggerDisarm (x : Sub) (e : Ext)
  /-- R324: Converts a region's elements with RNE into a destination region of another type. -/
  | condense (x : Sub) (e : Ext)
  /-- R247: Forms the object set, builds the plan and writes every destination region back from stored leaves. -/
  | restore (x : Sub) (e : Ext)
  /-- R242: Restores one region from a named source tensor of an object set. -/
  | restoreSlice (x : Sub) (e : Ext)
  /-- R259: Checks an object's manifest and optionally every leaf, without writing host memory. -/
  | verify (x : Sub) (e : Ext)
  /-- R260: Writes an accepted manifest, from a given page onward, into a host buffer. -/
  | manifestRead (x : Sub) (e : Ext)
  /-- R266: Checks a stream descriptor, assigns a stream ID and reserves landing space and clamps. -/
  | streamOpen (x : Sub) (e : Ext)
  /-- R283: Stops a stream, waits for its tags to return and frees its resources. -/
  | streamClose (x : Sub) (e : Ext)
  /-- R282: Moves a stream to a new position at the end of its present segment. -/
  | streamSeek (x : Sub) (e : Ext)
  /-- R284: Stops a stream at once, ends its bound command and frees its landing space and clamp. -/
  | streamCancel (x : Sub) (e : Ext)
  /-- R348: Runs 1-8 linked stage entries as one command under hand-over rules. -/
  | dovetail (x : Sub) (e : Ext) (stages : List Sub)
  /-- R306: Loads and checks an element program into a program slot of the chamber. -/
  | programLoad (x : Sub) (e : Ext)
  /-- R311: Checks the step plan, flips the step epoch in GUARDED mode and moves the step state to BEGUN. -/
  | stepBegin (x : Sub) (e : Ext)
  /-- R313: Sums the squares of the unscaled gradients in a fixed order in FP64. -/
  | stepMeasure (x : Sub) (e : Ext)
  /-- R314: Records the global norm and loss and fixes the INVS and CLIP operands. -/
  | stepNorm (x : Sub) (e : Ext)
  /-- R315: Runs each plan entry's program over its blocks and writes the finite outputs. -/
  | stepApply (x : Sub) (e : Ext)
  /-- R132: Returns a begun, measured or normed step to IDLE without writing anything. -/
  | stepAbort (x : Sub) (e : Ext)
  /-- R320: Writes every step copy back and restores the step counter and loss-scale state. -/
  | stepRollback (x : Sub) (e : Ext)
  /-- R323: Moves a region between host memory and the slow tier, granule by granule. -/
  | tierPlace (x : Sub) (e : Ext)
  /-- R358: Fixes the site set and writes the weights into the anchor, clearing the accumulator, outer state and block records. -/
  | anchorSet (x : Sub) (e : Ext)
  /-- R360: Forms weight minus anchor per site block, seals it and writes frames to the transmit rings. -/
  | deltaEmit (x : Sub) (e : Ext)
  /-- R368: Applies the outer program to each site block once its contributions are in or the deadline has passed. -/
  | deltaApply (x : Sub) (e : Ext)
  /-- R373: PEER_CONFIG with A[0] = 1: assigns a peer slot and rings, and clears quarantine and violations. -/
  | peerEnable (x : Sub) (e : Ext)
  /-- R373: PEER_CONFIG with A[0] = 0: stops the peer's rings and marks it missing in the pending sequence. -/
  | peerDisable (x : Sub) (e : Ext)
  /-- R377: Computes a SHA-384 over the shard digests and coordinates of the scope as held in memory. -/
  | replicaDigest (x : Sub) (e : Ext)
  /-- R381: Digests a message in host memory with SHA-256, SHA-384 or SHA-512. -/
  | digest (x : Sub) (e : Ext)
  /-- R391: Computes an HMAC of a message in host memory with the key state of an HMAC slot. -/
  | hmac (x : Sub) (e : Ext)
  /-- R134: Seals a buffer with AES-256-GCM under a key slot and writes IV, ciphertext and tag. -/
  | seal (x : Sub) (e : Ext)
  /-- R134: Decrypts and authenticates a buffer, zeroing the destination if the tag fails. -/
  | unseal (x : Sub) (e : Ext)
  /-- R135: Extends a stalagmite register with the SHA-384 of host data. -/
  | extend (x : Sub) (e : Ext)
  /-- R326: Allocates sync objects from the chamber's range and sets their value. -/
  | syncAlloc (x : Sub) (e : Ext)
  /-- R336: Returns sync objects to the chamber's free set. -/
  | syncFree (x : Sub) (e : Ext)
  /-- R331: Adds an increment to a local sync object at dispatch, or sends a remote signal on the chain. -/
  | syncSignal (x : Sub) (e : Ext)
  /-- R337: Registers a watch on a sync object, which fires once at its threshold. -/
  | watchSet (x : Sub) (e : Ext)
  /-- R337: Frees a watch and reports whether it had fired. -/
  | watchClear (x : Sub) (e : Ext)
  /-- R340: Counts an arrival at a local or chain-wide barrier, which releases when n arrivals are counted. -/
  | barrierJoin (x : Sub) (e : Ext)
  /-- R288: Veneer twin that sets the chamber's credit count. -/
  | k2Credit (x : Twin) (e : Ext)
  /-- R138: A Krytra 2 twin entry runs as its native opcode, and its status is mapped through the K2 status set. -/
  | twinEntry (x : Twin) (e : Ext)
  /-- R110: Write of an SQ tail doorbell that starts fetching, or is ignored and counted as a violation. -/
  | sqTailDoorbell (a : Access) (ch q : Nat) (v : BitVec 32)
  /-- R100: Write of a CQ head doorbell that frees completion slots, or is ignored and counted as a violation. -/
  | cqHeadDoorbell (a : Access) (ch q : Nat) (v : BitVec 32)
  /-- R100: Krytra fetches an SQ entry once a CQ slot is reserved for it. -/
  | sqEntryFetch (ans : FetchAns)
  /-- R101: A fetched entry is dispatched under fences, priority and weighted round robin, after the submission checks. -/
  | commandDispatch (ch : Nat) (e : Ext)
  /-- R104: A waiting command is granted all its clamps at once when no conflict remains and entries are free. -/
  | clampGrant
  /-- R95: Krytra writes a completion entry in two ordered writes, the phase half last. -/
  | completionPost (e : Ext)
  /-- R97: A running long command's status word is rewritten with its units count at the status interval. -/
  | statusWordUpdate (ch sq : Nat) (cid : BitVec 16) (e : Ext)
  /-- R91: Setting the enable bit of the admin SQ or CQ checks its registers and enables the queue. -/
  | adminQueueEnable (a : Access) (ch : Nat) (cq : Bool)
  /-- R521: Clearing SQ0's enable stops fetching and ends its outstanding commands. -/
  | adminSqDisable (a : Access) (ch : Nat)
  /-- R521: Clearing CQ0's enable forgets its entries and resets its head and tail, unless a bound SQ is still active. -/
  | adminCqDisable (a : Access) (ch : Nat)
  /-- R48: Validates the interleave entries against rules 1-8 and locks the table, or reports the failure. -/
  | ilvApply (a : Access)
  /-- R77: Writing GLB_FW_CTL.load in WAIT_IMAGE fetches, digests and checks the posted image. -/
  | fwLoad (a : Access) (img : Image)
  /-- R329: A write of SYN_CTL makes a mortise and tenon link, dissolves one, or updates the remote fields. -/
  | syncLinkWrite (a : Access) (obj : Nat) (v : BitVec 64)
  /-- R345: At LAMP2 or above, a PRIV[5] write of SYN_VALUE raises an object's value and evaluates its watches. -/
  | syncHandSet (a : Access) (obj : Nat) (v : BitVec 64) (e : Ext)
  /-- R54: An 8-byte write to the signal aperture acts as SYNC_SIGNAL once earlier writes of its lane and source have taken effect. -/
  | signalApertureWrite (a : Access) (off : Nat) (v : BitVec 64) (sizeOk : Bool) (e : Ext)
  /-- R203: An SSD reads a sealed sector from the staging aperture and is served, held or answered by a rebuild. -/
  | stagingRead (a : Access) (off len : Nat)
  /-- R201: An SSD writes read data into the staging aperture for checking by the ingress frame engine. -/
  | stagingWrite (a : Access) (off : Nat) (data : List Byte)
  /-- R203: A staging read not served within 2 ms completes with ERR and the block is written again. -/
  | stagingReadTimeout (off : Nat)
  /-- R511: A control-aperture read whose word holds RC fields returns them and clears them. -/
  | readClearAccess (a : Access) (addr : Nat)
  /-- R160: A read of CHM_RSV_WM clears the watermark fields and the peak and re-arms the interrupt. -/
  | rsvWmRead (a : Access) (ch : Nat)
  /-- R512: A 4-byte write of half a 64-bit register is held or paired with its other half, or discarded. -/
  | halfWordWrite (a : Access) (addr : Nat) (v : BitVec 32) (e : Ext) (img : Image)
  /-- R514: A write to a register with no behaviour of its own changes only its writable fields, or is ignored and logged. -/
  | registerWrite (a : Access) (addr : Nat) (wide : Bool) (v : BitVec 64) (e : Ext) (img : Image)
  /-- R383: Writing open = 1 claims a free digest context for the writing chamber. -/
  | dgtContextClaim (a : Access) (c : Nat) (v : BitVec 32)
  /-- R383: Writing open = 0 discards the context's message and returns it to FREE. -/
  | dgtContextRelease (a : Access) (c : Nat) (v : BitVec 32)
  /-- R386: Writing abort discards the message and returns the context to IDLE. -/
  | dgtContextAbort (a : Access) (c : Nat) (v : BitVec 32)
  /-- R393: Writing restore loads a saved context state if its checks pass, or puts the context in ERROR. -/
  | dgtContextRestore (a : Access) (c : Nat) (v : BitVec 32)
  /-- R384: Adds eight message bytes to a digest context. -/
  | dgtData (a : Access) (c : Nat) (w : BitVec 64) (wide : Bool)
  /-- R384: Adds the first b bytes of a word and ends the message. -/
  | dgtLast (a : Access) (c b : Nat) (w : BitVec 64) (wide : Bool)
  /-- R384: Ends the message without adding bytes. -/
  | dgtFinish (a : Access) (c : Nat) (wide : Bool)
  /-- R387: The final compression completes, the output is written and msgs increments. -/
  | dgtMessageDone (c : Nat)
  /-- R392: A read of DGT_STATE_c_0 at a block boundary latches the saved context state. -/
  | dgtStateRead (a : Access) (c : Nat)
  /-- R390: Builds an HMAC key state from direct key words or by derivation from a key slot. -/
  | hslotLoad (a : Access) (h : Nat) (v : BitVec 32)
  /-- R391: Clears an HMAC slot unless it is busy. -/
  | hslotClear (a : Access) (h : Nat)
  /-- R471: PWR_CTL.wake sets the target to RUN and wakes the block from PASS or OFF. -/
  | pwrWake (a : Access)
  /-- R469: PWR_CTL.off_req moves the block from PASS to OFF. -/
  | pwrOffReq (a : Access)
  /-- R463: LMP_CTL.lower drops the lamp level without a signature. -/
  | lampLower (a : Access) (level : Nat)
  /-- R465: Setting a halt bit in LMP_CC_CTL at LAMP2 stops a control core at its next instruction boundary. -/
  | coreHalt (a : Access) (mask : BitVec 3)
  /-- R465: Clearing a halt bit resumes the control core. -/
  | coreResume (a : Access) (mask : BitVec 3)
  /-- R484: SMP_CTL.clear empties the general area of the sump. -/
  | sumpClear (a : Access)
  /-- R483: A write of SMP_SPILL_CONS frees spill ring entries so that spilling can resume. -/
  | spillConsume (a : Access) (v : BitVec 64)
  /-- R364: A write to CHM_SDX_KICK makes Krytra read the named peers' host-written ring counts now. -/
  | sdxKick (a : Access) (ch : Nat) (peers : BitVec 15)
  /-- R462: A request scan lowers the lamp level, or accepts a higher level and issues a challenge. -/
  | lampUnlockRequest (v : BitVec 8)
  /-- R462: A response scan is verified as a P-384 signature over the challenge and raises the lamp level on success. -/
  | lampUnlockResponse (r s : BitVec 384)
  /-- R466: At LAMP3 in OFF, enters internal scan and refuses every wake until cold reset. -/
  | scanEnter
  /-- R507: Loading or leaving the JIG_MANUAL instruction opens or ends a manual jig session. -/
  | jigManualSession (open_ : Bool)
  /-- R507: An Update-DR with go set starts one manual slice once the jig is free. -/
  | jigManualSlice (v : BitVec 64) (o : SliceOutcome)
  /-- R70: A test port instruction is loaded, and acts as BYPASS with LAMP_DENIED logged if its condition is not met. -/
  | tapInstruction (code : BitVec 6)
  /-- R40: The pass-through accepts a host request and forwards it, or holds a capture write to an uncopied granule. -/
  | hreqRequest (st : Nat) (r : HReq)
  /-- R155: A copy becomes safe and the held write and the requests behind it are released. -/
  | copyComplete (st : Nat)
  /-- R157: A free cell reads a stalled granule into scratch and the held write is released. -/
  | stallRelease (st cell : Nat)
  /-- R159: A write held for 1 ms ends the capture with RESERVE_EXHAUSTED and releases every held write. -/
  | heldWriteLimit (st : Nat)
  /-- R40: A memory controller response is forwarded on HRSP, or consumed by Krytra if it is Krytra-origin. -/
  | mrspResponse (st : Nat) (r : MResp)
  /-- R50: A read data beat arrives on a fabric master port for an outstanding tag. -/
  | fabReadData (port tag : Nat) (data : List Byte) (poison err : Bool)
  /-- R50: A write acknowledgement arrives on a fabric master port and completes the write. -/
  | fabWriteAck (port tag : Nat) (err : Bool)
  /-- R478: A Krytra-origin tag unanswered after 10 ms counts as answered with ERR and is held out of its pool. -/
  | tagTimeout (ref : TagRef)
  /-- R150: After its waits, a capture allocates its object ID, runs the prepare sweep and raises FRZ_HOLD. -/
  | captureStart (ch : Nat)
  /-- R57: FRZ_HOLD_ACK rises: the epoch flip is broadcast and acknowledged, and FRZ_HOLD is lowered. -/
  | freezeAck
  /-- R57: FRZ_HOLD_ACK falls, which allows FRZ_HOLD to be raised again. -/
  | freezeAckFall
  /-- R58: No FRZ_HOLD_ACK within timeout_us: FRZ_HOLD falls and the operation ends with PARTNER_TIMEOUT. -/
  | freezeTimeout
  /-- R295: A free cell takes its next unit of work by priority and weighted round robin. -/
  | cellTakeUnit (st cell : Nat) (e : Ext)
  /-- R167: The gallery ring answers a digest lookup, and the granule is disposed of or encoded. -/
  | directoryLookupAnswer (st cell : Nat) (hit : Bool)
  /-- R206: The scheduler assigns a block to a free cipher core and draws its IV. -/
  | cipherAssign (core : Nat)
  /-- R207: A core that fails a self-check leaves service and its block is sealed again elsewhere. -/
  | cipherCoreFail (core : Nat)
  /-- R180: The NVMe Write of a block completes and its granule counts as drained. -/
  | blockWriteComplete (st granule : Nat)
  /-- R204: A failed block Write is rebuilt and rewritten, and the capture ends after the third failure. -/
  | blockWriteFailed (st granule : Nat)
  /-- R197: A capture whose sealing has waited 10 ms for masked cores ends with NOT_IN_THIS_STATE. -/
  | sealWaitTimeout
  /-- R228: After the last granule is stored, the manifest is written, flushed, journaled and committed. -/
  | captureCommit (e : Ext)
  /-- R176: A mover loses power or is reset: held writes are released, forwarding is untracked and a covering capture fails. -/
  | moverLoss (st : Nat)
  /-- R59: A rising edge on an EVT_PULSE input is counted. -/
  | eventPulse (i : Nat)
  /-- R59: A change on an EVT_LEVEL input is seen. -/
  | eventLevel (i : Nat) (v : Bool)
  /-- R169: The 1 µs evaluation of level rules finds an input held for the rule's window. -/
  | levelRuleTimer
  /-- R60: The key port loads one 64-bit word of a slot's key. -/
  | keyLoadWord (slot w : Nat) (data : BitVec 64) (par : BitVec 8)
  /-- R401: The key port commits a fully loaded slot, drawing its fixed field and computing its check value and manifest key. -/
  | keyCommit (slot : Nat)
  /-- R403: The key port zeroises a slot. -/
  | keyZeroise (slot : Nat)
  /-- R400: A slot in LOADING for 10 ms without a commit is cleared to EMPTY. -/
  | keyLoadingTimeout (slot : Nat)
  /-- R61: An entropy word arrives on the entropy port for instantiation or reseed. -/
  | entropyWord (w : BitVec 32) (fail : Bool)
  /-- R61: A reseed falls due after 2^20 generate requests or 1 s. -/
  | drbgReseedDue
  /-- R61: A reseed not complete within 100 ms stops the cipher cores taking masked work. -/
  | drbgReseedTimeout
  /-- R64: A stable new WAKE_BUDGET value is adopted. -/
  | wakeBudgetChange (v : BitVec 8)
  /-- R473: SUPPLY_WARN rises or falls, suspending or resuming the start of wakes. -/
  | supplyWarn (v : Bool)
  /-- R472: A queued wake starts when the bucket holds its tokens, in tier order. -/
  | wakeStart
  /-- R472: A woken domain becomes usable after its repair and SRAM initialisation. -/
  | domainWakeComplete (d : Nat) (img : Image)
  /-- R468: A unit idle for the POWER_POLICY idle time is gated in LEAN. -/
  | idleTimer (d : Nat)
  /-- R470: Once the R445 conditions hold, CC1 unmounts the stores, parks the state and the block enters PASS. -/
  | passEntry (e : Ext)
  /-- R75: VDD_KX is detected in range and GLB_BOOT_STATUS.kx_rail is set. -/
  | kxRailDetect (up : Bool)
  /-- R65: KX_COLD_RST_N asserts, resetting everything except the pass-through. -/
  | coldResetAssert
  /-- R75: KX_COLD_RST_N is released and the cold start sequence runs up to stage READY. -/
  | coldReset (burn : Burn) (fuseErr : List Nat)
  /-- R66: KX_WARM_RST_N asserts, ending commands in flight without completion. -/
  | warmResetAssert
  /-- R85: KX_WARM_RST_N is released: the image is fetched again and start-up runs from step 9. -/
  | warmReset (img : Image)
  /-- R66: STL_PRST_N_s asserts: the stile's held and in-flight requests are dropped and its granules set dirty. -/
  | stileReset (st : Nat)
  /-- R66: STL_PRST_N_s is released and HREQ_READY rises within 4 cycles. -/
  | stileResetRelease (st : Nat)
  /-- R63: Loss of VDD_KA with VDD_KX up acts as KX_COLD_RST_N. -/
  | vddKaLoss
  /-- R68: TIME_IN reads below the last value used, so time holds and the event is logged. -/
  | timeInRegress (t : Nat)
  /-- R411: A whole DCL frame arrives and is checked, stripped, discarded, consumed or forwarded. -/
  | chainFrameReceived (bytes : List Byte) (damaged : Bool) (e : Ext)
  /-- R412: The transmitter sends the next forwarded or originated frame once it is idle. -/
  | chainTransmit
  /-- R407: CHN_RX_LOCK or comma alignment is lost or regained on the incoming link. -/
  | chainLinkDown (up : Bool)
  /-- R414: An ENUM frame gives the unit an address and updates the counts and version mask, or ends the master's enumeration. -/
  | enum (f : DclFrame)
  /-- R414: A BEACON frame confirms the master and the new epoch and lets the unit use its address. -/
  | beacon (f : DclFrame)
  /-- R421: A TRIGGER frame fires the receiving unit's rule if its CHN_TRIG.in bit is set and the rule is armed. -/
  | trigger (f : DclFrame)
  /-- R424: A NOTICE frame reports a replacement request, FATAL entry or cleared request. -/
  | notice (f : DclFrame)
  /-- R419: A JOIN frame makes the master re-enumerate, or only log it if auto_reenum is 0. -/
  | join (f : DclFrame)
  /-- R334: A remote SIGNAL frame is applied in sequence order if the object admits it, or refused. -/
  | signal (f : DclFrame) (e : Ext)
  /-- R422: A SIGNAL_ACK completes the matching remote signal with OK. -/
  | signalAck (f : DclFrame)
  /-- R422: A SIGNAL_REFUSE completes the matching remote signal with PARTNER_TIMEOUT. -/
  | signalRefuse (f : DclFrame)
  /-- R423: The master counts a member's chain-wide barrier arrival, or refuses one whose n differs. -/
  | barArrive (f : DclFrame)
  /-- R423: The master withdraws a member's arrival and acknowledges it. -/
  | barWithdraw (f : DclFrame)
  /-- R342: A member's waiting chain-wide join completes PARTNER_TIMEOUT on the master's answer. -/
  | barAck (f : DclFrame)
  /-- R342: A release from the master completes the unit's waiting chain-wide joins. -/
  | barRelease (f : DclFrame) (e : Ext)
  /-- R414: The master sends a BEACON every 1 ms. -/
  | beaconTimer
  /-- R416: An ENUM not returned within enum_ms ends the enumeration with PARTNER_TIMEOUT. -/
  | enumTimeout
  /-- R418: No BEACON for loss_ms: the unit marks the master lost and ends its chain-wide joins. -/
  | masterLoss
  /-- R418: After its random wait without a BEACON or ENUM, a candidate enumerates as master. -/
  | electionTimer
  /-- R333: No acknowledgement within ack_us: the remote signal is retransmitted, or ends with PARTNER_TIMEOUT after the last retry. -/
  | remoteSignalRetry (dest : Nat) (seq : BitVec 16)
  /-- R424: While a replacement request stands, a kind 1 NOTICE is sent again every 10 s. -/
  | noticeRepeat
  /-- R336: A freed object that admitted remote signals becomes allocatable once its hold time has passed. -/
  | syncRemoteHoldExpiry (obj : Nat)
  /-- R341: A join whose timeout expires withdraws its arrival and completes with PARTNER_TIMEOUT. -/
  | barrierTimeout (ch sq : Nat) (cid : BitVec 16)
  /-- R476: A partner's or queue's non-zero violation count falls by 1 at the end of each decay period. -/
  | violationDecay (p : Partner)
  /-- R279: The stream walker issues its next span once a tag and landing space are free and no marker blocks it. -/
  | streamIssue (idx : Nat) (e : Ext)
  /-- R285: Stream data lands, is checked against the present generation and position, and is delivered or discarded. -/
  | streamLanding (idx : Nat) (e : Ext)
  /-- R281: A consumer waiting at an unresolved marker beyond dep_timeout_ms ends its command. -/
  | dependenceTimeout (idx : Nat)
  /-- R364: Every 20 µs Krytra reads host-written ring counts while site exchange is not OFF. -/
  | sdxRingPoll (ch p : Nat) (e : Ext)
  /-- R365: A received SDX frame is classified and is discarded, counted, parked, or unsealed and used. -/
  | sdxFrameReceive (ch p : Nat) (e : Ext)
  /-- R370: A received NACK for the peer's own last sequence rebuilds and resends the listed frames. -/
  | sdxNack (ch p : Nat) (e : Ext)
  /-- R371: A received CATCHUP_REQ for the applied sequence makes the unit send its ANCHOR and OUTER frames. -/
  | sdxCatchupReq (ch p : Nat) (e : Ext)
  /-- R370: At deadline minus nack_lead_ms, NACK frames are sent for blocks still missing. -/
  | nackLeadTimer (ch : Nat) (e : Ext)
  /-- R368: At the deadline, absent contributors are marked missing and the remaining blocks are applied. -/
  | deltaDeadline (ch : Nat) (e : Ext)
  /-- R232: CC3 polls an NVMe completion and finishes the command, or discards a bad entry as a violation. -/
  | nvmeCompletion (c : Nat) (cqe : Cqe)
  /-- R233: A command not complete within 4 s resets the controller and is reissued, or fails on the second timeout. -/
  | nvmeCommandTimeout (c cid : Nat)
  /-- R232: Every 60 s CC3 reads SMART / Health and logs a critical warning. -/
  | nvmeSmartPoll (c : Nat) (log : List Byte) (critical : BitVec 8)
  /-- R217: When the live journal exceeds three quarters of the ring, a checkpoint is written and then the superblocks. -/
  | journalCheckpoint (store : Nat) (e : Ext)
  /-- R229: A data zone under a quarter mapped is compacted into a new zone and then deallocated. -/
  | gcCompact (store zone : Nat) (e : Ext)
  /-- R487: A background pass absorbs every bitmap row at least once every 2^20 flips. -/
  | bitmapRowSweep (st : Nat)
  /-- R483: An entry that leaves the 32 newest, or has had no repeat for 1 ms, is written to the spill ring. -/
  | sumpSpillEntry (e : Ext)
  /-- R489: CC0 declares CC1 failed after 200 µs without a heartbeat, or at once on a self-check or SRAM error. -/
  | heartbeatTimeout
  /-- R490: CC1 copies a service-state slab to CC2 every 1 ms or when the journal is three quarters full. -/
  | slabCopy
  /-- R494: The keep-alive watchdog restarts CC0 from ROM and logs a FATAL entry. -/
  | cc0Watchdog
  /-- R504: A standard slice falls due each slice period and takes the unit at the sweep position. -/
  | periodicSlice (o : SliceOutcome)
  /-- R501: At a segment boundary a slice whose unit is needed ends and returns the unit within 20 µs. -/
  | sliceYield
  /-- R505: A slice ends, passing or miscomparing, is repeated on a miscompare, and may declare its unit failed. -/
  | sliceComplete (o : SliceOutcome)
  /-- R322: A cell fails a self-check while it works on a step block, gives the block up before write-back, and another cell of the stile reruns it. -/
  | cellSelfCheckFail (st cell : Nat)
  /-- R494: CC2 or CC3 fails: CC0 restarts it, storage work in flight ends for CC3, and reason 4 is raised if the restart fails. -/
  | controlCoreFailure (core : Nat) (restartOk : Bool)
  /-- R497: An SRAM fault is found: a spare row replaces it, or the row is retired with its rebate slot, descriptor, cell, sync object or sump entry, and reason 3 is raised when no spare row is left. -/
  | sramFault (u : SramUnit) (spare : Bool)
  /-- R63: VDD_KX leaves its range in power state OFF: kx_rail clears and the pass-through is isolated as untracked until the rail returns. -/
  | vddKxRemoval
  /-- R463: The lamp unlock back-off time runs out, LMP_STATUS.backoff clears and requests are accepted again. -/
  | lampBackoffExpiry
  /-- R503: VDD_KX and junction temperature return inside the jig operating window, and a commanded slice waiting for it starts. -/
  | jigWindowRegained (vdd : BitVec 10) (tj : BitVec 8)
  /-- R424: A token accrues in the chain notice bucket and the oldest queued notice is originated. -/
  | noticeToken
  /-- R512: A lower-half read of a 64-bit register latches bits [63:32] for its FAB_S lane, and a following upper-half read returns the latched bits. -/
  | halfWordRead (a : Access) (addr : Nat)
  deriving DecidableEq, Repr

end Sys2Proof
end

