-- ==== Sys2Proof/Machine/SMap.lean ====
section
/-! DEFINITION. Indexed state as plain data in one canonical form: a default value, and the entries that differ from it in rising key order. -/

namespace Sys2Proof.Machine

/-- A total map from Nat held as data: `dflt` everywhere but at the listed keys. -/
structure SMap (V : Type) where
  dflt    : V
  entries : List (Nat × V)
  deriving DecidableEq, Repr

variable {V : Type}

/-- The map that is `d` everywhere. -/
def SMap.const (d : V) : SMap V := ⟨d, []⟩

/-- The first entry of key `k`. -/
def smLookup (k : Nat) : List (Nat × V) → Option V
  | [] => none
  | (j, v) :: r => if j = k then some v else smLookup k r

/-- Remove key `k`. -/
def smErase (k : Nat) : List (Nat × V) → List (Nat × V)
  | [] => []
  | (j, v) :: r => if j = k then smErase k r else (j, v) :: smErase k r

/-- Insert key `k`, absent before, at its place in rising order. -/
def smInsert (k : Nat) (v : V) : List (Nat × V) → List (Nat × V)
  | [] => [(k, v)]
  | (j, w) :: r => if k < j then (k, v) :: (j, w) :: r else (j, w) :: smInsert k v r

/-- The value at `k`. -/
def SMap.get (m : SMap V) (k : Nat) : V := (smLookup k m.entries).getD m.dflt

/-- The map with `v` at `k`; writing the default removes the entry. -/
def SMap.set [DecidableEq V] (m : SMap V) (k : Nat) (v : V) : SMap V :=
  if v = m.dflt then ⟨m.dflt, smErase k m.entries⟩ else ⟨m.dflt, smInsert k v (smErase k m.entries)⟩

/-- Change the value at `k` by `f`. -/
def SMap.modify [DecidableEq V] (m : SMap V) (k : Nat) (f : V → V) : SMap V := m.set k (f (m.get k))

/-- Keys strictly rise. -/
def smSorted : List (Nat × V) → Bool
  | [] => true
  | [_] => true
  | (j, _) :: (k, w) :: r => decide (j < k) && smSorted ((k, w) :: r)

/-- The canonical form: keys strictly rising, no entry equal to the default. -/
def SMap.wf [DecidableEq V] (m : SMap V) : Bool :=
  smSorted m.entries && m.entries.all (fun p => decide (p.2 ≠ m.dflt))

/-- Change every listed entry and the default by `f` (an event that acts on all). -/
def SMap.mapAll [DecidableEq V] (m : SMap V) (f : V → V) : SMap V :=
  ⟨f m.dflt, (m.entries.map (fun p => (p.1, f p.2))).filter (fun p => decide (p.2 ≠ f m.dflt))⟩

/-- Change the value at every listed key by `f`. -/
def SMap.mapKeys [DecidableEq V] (m : SMap V) (f : Nat → V → V) : SMap V :=
  ⟨m.dflt, (m.entries.map (fun p => (p.1, f p.1 p.2))).filter (fun p => decide (p.2 ≠ m.dflt))⟩

/-- The keys listed, with their values. -/
def SMap.listed (m : SMap V) : List (Nat × V) := m.entries

end Sys2Proof.Machine
end

