-- ==== Sys2Proof/Machine/State.lean ====
section
/-! DEFINITION. The state of the block as plain data, the state after reset, and the reasons a step can stop. -/

namespace Sys2Proof.Machine

/-- Why the machine stops with a fault. No command of this block faults: every partner error is an answer, a status or a log entry. -/
inductive Fault where
  /-- Raised by nothing; safe. The type must not be empty for the interface to be readable. -/
  | none
  deriving DecidableEq, Repr

/-- Why a command has no meaning. -/
inductive Refusal where
  /-- Raised by a dispatch arm that has no meaning yet; safe. -/
  | notModelled (mnemonic : String)
  /-- Raised by TEST_OPCODE in MANUF and RETURN: the manual does not describe the test opcodes' parameters (R123); safe. -/
  | undescribedTestOpcode
  deriving DecidableEq, Repr

/-- The build (R3). -/
inductive Build where
  | kx32 | kx16 | kx8
  deriving DecidableEq, Repr

/-- Start-up stages (Table 5 of chapter 03). -/
inductive Stage where
  | rom | fuses | waitImage | verify | wake | init | ready | passOnly
  deriving DecidableEq, Repr

/-- Lifecycle states (R451). -/
inductive Life where
  | manuf | prov | field | fieldOpen | ret | spent
  deriving DecidableEq, Repr

/-- Power states (R64). -/
inductive Power where
  | run | lean | pass | off
  deriving DecidableEq, Repr

/-- Step states (R132). -/
inductive StepPhase where
  | idle | begun | measured | normed | applied
  deriving DecidableEq, Repr

/-- A granule's two bitmap bits (R145). -/
structure GBits where
  dirty  : Bool
  copied : Bool
  deriving DecidableEq, Repr

/-! ## Ports -/

/-- One interleave entry (Table 4 of chapter 02). -/
structure IlvEntry where
  base      : BitVec 36
  valid     : Bool
  stileBase : BitVec 5
  width     : BitVec 3
  log2Size  : BitVec 6
  keep      : BitVec 36
  localBase : BitVec 20
  mask0 : BitVec 36
  mask1 : BitVec 36
  mask2 : BitVec 36
  mask3 : BitVec 36
  mask4 : BitVec 36
  deriving DecidableEq, Repr

/-- The port control registers and the interleave table (Tables 4 and 16 of chapter 02, Table 5 of chapter 16). -/
structure PortRegs where
  ownShare    : BitVec 2
  holdAll     : Bool
  frzTimeout  : BitVec 16
  irqRoute    : BitVec 24
  irqStatus   : BitVec 8
  irqMask     : BitVec 8
  supplyWarn  : Bool
  wakeBudget  : BitVec 8
  stepReserve : Bool
  stepFloor   : BitVec 5
  ilvLocked   : Bool
  ilvEntry    : BitVec 4
  ilvError    : BitVec 8
  ilvMismatch : BitVec 32
  ilv         : SMap IlvEntry
  evtCount    : SMap (BitVec 32)
  evtLevel    : BitVec 16
  deriving DecidableEq, Repr

/-- The answer a FAB_S lane gave last: its ERR code and data (R55). -/
structure FabAns where
  err  : Nat
  data : BitVec 64
  deriving DecidableEq, Repr

/-- A FAB_S lane: the held lower half of a 64-bit write, the latch of a lower-half read (R512), the last answer. -/
structure Lane where
  held  : Option (Nat × BitVec 32)
  latch : Option (Nat × BitVec 32)
  ans   : FabAns
  deriving DecidableEq, Repr

/-- The freeze handshake: the two levels, who asked (none; a capture; a chamber's step), the timeout it read, who waits for the low
acknowledgement (R57, R58, R513). -/
structure Freeze where
  hold    : Bool
  ack     : Bool
  asker   : Option (Option Nat)
  timeout : BitVec 16
  waiting : List (Option Nat)
  deriving DecidableEq, Repr

/-! ## Start-up, lifecycle, lamp, power -/

/-- The image recorded by FW_STAGE (R86). -/
structure Staged where
  addr : BitVec 64
  len  : BitVec 32
  img  : Image
  deriving DecidableEq, Repr

/-- Start-up state and registers (Tables 4 and 5 of chapter 03). `resetHeld`: 0 none, 1 warm, 2 cold asserted. -/
structure Boot where
  stage      : Stage
  error      : BitVec 8
  imageKey   : BitVec 2
  kxRail     : Bool
  fwLen      : BitVec 32
  fwAddr     : BitVec 64
  running    : BitVec 32
  imageIndex : Nat
  fuseCount  : Nat
  sg1Digest  : Option (BitVec 384)
  runKey     : List Byte
  compat     : Bool
  staged     : Option Staged
  resetHeld  : Nat
  fuses      : SMap (BitVec 32)
  fuseErr    : List Nat
  deriving DecidableEq, Repr

/-- Lifecycle and lamp state (Table 12 of chapter 17). `tapIr` is the test port's instruction (R70). -/
structure LifeLamp where
  life        : Life
  pending     : Option Life
  commitFails : Nat
  nonce       : BitVec 64
  level       : Nat
  request     : Option (Nat × BitVec 64)
  fails       : Nat
  backoff     : Bool
  halt        : BitVec 3
  halted      : BitVec 3
  tapIr       : BitVec 6
  deriving DecidableEq, Repr

/-- Power state and governor (Table 12 of chapter 17, R64, R472). Domains by index (R475). `park`: the length of the park record and its SHA-384 (R470). -/
structure Pwr where
  state      : Power
  target     : Power
  idleMs     : BitVec 16
  parkError  : Bool
  wakeError  : Bool
  scanned    : Bool
  parkBase   : BitVec 64
  parkSize   : BitVec 24
  park       : Option (Nat × BitVec 384)
  parkStores : List (Nat × Nat)
  on         : BitVec 128
  wakes      : Nat
  warnEvents : Nat
  warnLongest : Nat
  warnSince  : Option Nat
  tokens     : Nat
  queue      : List Nat
  ramping    : List Nat
  waking     : Bool
  deriving DecidableEq, Repr

/-! ## Chambers: queues, commands -/

/-- A submission queue: its CFG and BASE fields, doorbell, fetch position, violations (Table 1 of chapter 04). -/
structure Sq where
  enable  : Bool
  closing : Bool
  base    : BitVec 64
  weight  : Nat
  cq      : Nat
  sizeM1  : Nat
  tail    : Nat
  head    : Nat
  viol    : Nat
  quar    : Bool
  deriving DecidableEq, Repr

/-- A completion queue: registers, post index, phase, reserved slots, the posted and not consumed entries with their source SQ and ID. -/
structure Cq where
  enable   : Bool
  irqEn    : Bool
  base     : BitVec 64
  sizeM1   : Nat
  head     : Nat
  tail     : Nat
  phase    : Bool
  reserved : Nat
  posted   : List (Nat × BitVec 16)
  viol     : Nat
  quar     : Bool
  deriving DecidableEq, Repr

/-- An internal status slot: status word, seven partial words, the command whose completion must be consumed before reuse (R98). -/
structure Slot where
  word  : BitVec 64
  res   : List (BitVec 64)
  owner : Option (Nat × BitVec 16)
  deriving DecidableEq, Repr

/-- An address window in granules: [base, limit) (R126). -/
structure Win where
  valid : Bool
  base  : Nat
  limit : Nat
  deriving DecidableEq, Repr

/-- A capture statistics record (R522). -/
structure CapStat where
  id        : BitVec 64
  label     : BitVec 64
  epoch     : BitVec 32
  status    : BitVec 16
  flags     : BitVec 8
  rule      : Nat
  flipTime  : Nat
  endTime   : Nat
  toDrain   : Nat
  written   : Nat
  skipped   : Nat
  poisoned  : Nat
  dirFull   : Nat
  freezeNs  : Nat
  heldWrites : Nat
  peak      : Nat
  bytes     : Nat
  deriving DecidableEq, Repr

/-- The capture registers of a chamber (Table 9 of chapter 06), and its statistics. -/
structure CapRegs where
  trigRule   : Nat
  triggered  : Bool
  midstep    : Bool
  policy     : Bool
  degraded   : Bool
  phase      : Nat
  epoch      : BitVec 32
  stallCount : Nat
  warnCount  : Nat
  stallCross : Bool
  warnCross  : Bool
  peak       : Nat
  level      : Nat
  fired      : BitVec 16
  stats      : List CapStat
  deriving DecidableEq, Repr

/-- The step of a chamber (R132, Table 10 of chapter 11): the plan is its address and entry count; `saved` the counter and loss-scale state
before the apply; `scope` the regions of a guarded step's scope; `written` the blocks applied. -/
structure StepRec where
  phase      : StepPhase
  guardLost  : Bool
  epochOpen  : Bool
  count      : BitVec 48
  scale      : BitVec 32
  clean      : BitVec 32
  skips      : Nat
  loss       : BitVec 32
  norm       : BitVec 32
  clip       : BitVec 32
  plan       : Option (Nat × Nat)
  saved      : Option (BitVec 48 × BitVec 32 × BitVec 32 × Nat)
  scope      : List Nat
  beginSub   : Option Sub
  rejected   : Bool
  written    : Nat
  deriving DecidableEq, Repr

/-- A program slot (R306). -/
structure Prog where
  loaded : Bool
  level  : Nat
  words  : List (BitVec 32)
  deriving DecidableEq, Repr

/-- An SDX peer slot (R373, R374): registers, ring bases and size, the four counts, the parked frames (ring counts). -/
structure Peer where
  used     : Bool
  enabled  : Bool
  quar     : Bool
  v2       : Bool
  site     : Nat
  viol     : Nat
  rxBase   : Nat
  txBase   : Nat
  pages    : Nat
  rxProd   : Nat
  rxNext   : Nat
  rxCons   : Nat
  txProd   : Nat
  txCons   : Nat
  parkedAt : List Nat
  deriving DecidableEq, Repr

/-- A running DELTA_APPLY (R368, R369, R372): catch-up or not, whether its NACKs went out, K0-K15 and the NACK lead at dispatch, counts so far,
the sites that missed a block (of a catch-up, that supplied one), the blocks a catch-up has an anchor of: block, site, outer parts. -/
structure ApplyRun where
  sub      : Sub
  catchup  : Bool
  nacked   : Bool
  k        : List (BitVec 32)
  lead     : Nat
  done     : Nat
  renorm   : Nat
  skippedBlocks : Nat
  nonfinite : Nat
  late     : Nat
  sites    : BitVec 64
  inst     : List (Nat × Nat × List Nat)
  deriving DecidableEq, Repr

/-- Site exchange of a chamber (Table 9 of chapter 13), with what ANCHOR_SET fixed (the area's first granule, the site set, whether it holds
accumulators and outer state), the contributor set of the pending sequence, an emission begun and its key slot, and the catch-up requests to
serve, the first from frame `serveAt` on. -/
structure Site where
  listAddr  : BitVec 64
  listLen   : Nat
  outer     : Bool
  nackLead  : Nat
  seed      : BitVec 64
  emitted   : BitVec 32
  applied   : BitVec 32
  anchored  : Bool
  seqSet    : Bool
  area      : Nat
  blocks    : Nat
  ks        : SMap (BitVec 32)
  peers     : SMap Peer
  own       : Nat
  late      : Nat
  dup       : Nat
  ignored   : Nat
  parkedPeak : Nat
  regions   : List Nat
  anchorType : Nat
  outerUse  : Bool
  contrib   : List Nat
  run       : Option ApplyRun
  emitOpen  : Bool
  emitSlot  : Nat
  accUse    : Bool
  serveQ    : List Nat
  serveAt   : Nat
  serveSlot : Nat
  deriving DecidableEq, Repr

/-- An entry fetched and waiting for dispatch: the entry (of a twin: its native form, `raw` its 32 bytes), the stages of a Dovetail, whether all
of it has been fetched, how many priority entries passed it (R100, R103, R113); `dead`: aborted before all of it was fetched (R115). -/
structure Fetched where
  sub    : Sub
  raw    : List Byte
  stages : List Sub
  done   : Bool
  passed : Nat
  dead   : Bool
  deriving DecidableEq, Repr

/-- A chamber's page and service state (Table 1 of chapter 04 and the chapters it names); the SQ whose turn it is and its turns left (R100). -/
structure Chamber where
  configured : Bool
  negotiated : Bool
  veneer     : Bool
  quiescing  : Bool
  quiesced   : Bool
  setupError : Bool
  major      : Nat
  minor      : Nat
  irqPend    : BitVec 16
  threshold  : BitVec 8
  quotaSync  : Nat
  quotaWatch : Nat
  quotaClamp : Nat
  quotaRegion : Nat
  quotaStream : Nat
  mode       : BitVec 64
  credits    : Nat
  rsvBase    : Nat
  rsvSize    : Nat
  interval   : Nat
  rsvWarn    : Nat
  rsvStall   : Nat
  sqs        : SMap Sq
  cqs        : SMap Cq
  wins       : SMap Win
  slots      : SMap Slot
  turnSq     : Nat
  turnLeft   : Nat
  fetched    : List Fetched
  deriving DecidableEq, Repr

/-- Per-chamber state of the units beside the queues. -/
structure ChUnit where
  cap       : CapRegs
  step      : StepRec
  progs     : SMap Prog
  site      : Site
  stmBase   : Nat
  depTimeout : BitVec 16
  stmDiscard : Nat
  syncBase  : Nat
  overruns  : Nat
  forbidden : Nat
  wirqCount : Nat
  wirqGen   : Nat
  wirqIndex : Nat
  deriving DecidableEq, Repr

/-- What a clamp covers (R104): granules [lo, hi), every window of a chamber (R105), a store, a stored object, a region. -/
inductive ClampOn where
  | granules (lo hi : Nat)
  | windows (ch : Nat)
  | store (h : Nat)
  | object (id : BitVec 64)
  | region (r : Nat)
  deriving DecidableEq, Repr

/-- A clamp: what, exclusive or shared, whose (chamber; a command by SQ and ID, or a stream by index). -/
structure Clamp where
  on     : ClampOn
  excl   : Bool
  chamber : Nat
  owner  : Option (Nat × BitVec 16)
  stream : Nat
  deriving DecidableEq, Repr

/-- An accepted command that has not completed (R97): its entry, phase, units, its clamp request while it waits, the words of its partial
result area; `prog` and `acc` are how far its present unit of work, or a Dovetail's present stage, has come; of a Dovetail, the landing frames its links
reserve by stile (R449) and the first status other than OK of its completed stages. -/
structure Cmd where
  sub     : Sub
  twin    : Bool
  stages  : List Sub
  phase   : Nat
  units   : Nat
  granted : Bool
  wants   : List Clamp
  res     : List (BitVec 64)
  prog    : Nat
  acc     : List (BitVec 64)
  links   : List (Nat × Nat)
  seen    : BitVec 16
  deriving DecidableEq, Repr

/-- A completion not yet posted: source SQ, ID, status, result. -/
structure Fin where
  chamber : Nat
  sq      : Nat
  cid     : BitVec 16
  status  : BitVec 16
  result  : BitVec 64
  deriving DecidableEq, Repr

/-- A declared region (R140-R144): descriptor, rank, replica, and its slow-tier base and the ordinals of the granules that
lie there (R323). -/
structure Region where
  chamber : Nat
  base    : Nat
  bytes   : Nat
  coord   : Coord
  rank    : Nat
  repIndex : Nat
  repCount : Nat
  repGroup : BitVec 64
  slowBase : Nat
  slow    : SMap Bool
  deriving DecidableEq, Repr

/-! ## Stiles -/

/-- A request held in the pass-through (R42): its granule; `copying` its copy is under way, `stalled` it has no place (R157). -/
structure Held where
  req     : HReq
  granule : Nat
  lead    : Bool
  stalled : Bool
  deriving DecidableEq, Repr

/-- A copy (R155, R161, R437): its granule, place (reserve granule, or none for a rebate slot), the two shares, content, marked beats. -/
structure Copy where
  loc     : Nat
  granule : Nat
  reserve : Option Nat
  forCap  : Bool
  forStep : Option Nat
  ready   : Bool
  data    : List Byte
  beats   : List Nat
  deriving DecidableEq, Repr

/-- A directory entry (R167): set, way tag, and where the leaf lies. -/
structure DirEntry where
  set     : Nat
  tag     : BitVec 64
  chamber : Nat
  store   : Nat
  object  : BitVec 64
  shard   : Nat
  leaf    : Nat
  deriving DecidableEq, Repr

/-- A drain granule on its way (Table 1 of chapter 07): where it is, its leaf, its block, its digest, IV and tag. `stage`: 0 in the cell,
1 lookup sent, 2 waiting for a cipher core, 3 in the frame engine, 4 to be rebuilt. -/
structure Block where
  stile   : Nat
  granule : Nat
  loc     : Nat
  cell    : Nat
  region  : Nat
  member  : Nat
  leaf    : Nat
  stalled : Bool
  stage   : Nat
  core    : Nat
  content : List Byte
  bytes   : List Byte
  codec   : Nat
  digest  : BitVec 256
  iv      : Option (BitVec 96)
  tag     : BitVec 128
  beats   : List Nat
  fails   : Nat
  place   : Nat
  ctrl    : Nat
  cid     : Nat
  deriving DecidableEq, Repr

/-- A cell (R293): the granule it works on, its directory, its program cache (chamber, slot), newest first. -/
structure Cell where
  granule : Option Nat
  dir     : List DirEntry
  cache   : List (Nat × Nat)
  deriving DecidableEq, Repr

/-- A Krytra-origin request that has no answer yet, or is held out of its pool (R39, R66, R478): its tag and, of a slow-tier span, the home
stile's tag with it (R277); its host stream and generation; `len` of a held-out read counts the bytes of its answer still to come;
`dropped` by STL_PRST_N. -/
structure TagUse where
  tag     : TagRef
  also    : Option TagRef
  stream  : Option (Nat × Nat)
  addr    : Nat
  len     : Nat
  elem    : Nat
  heldOut : Bool
  dropped : Bool
  mark    : Bool
  deriving DecidableEq, Repr

/-- A host request forwarded on MREQ and not yet answered (R39). -/
structure PassReq where
  tag   : BitVec 16
  write : Bool
  beats : Nat
  deriving DecidableEq, Repr

/-- A stile: pass-through, bitmaps with the last flip each row absorbed (R147), copies, cells, repair (R80). `moverOn`: in service. -/
structure Stile where
  inReset   : Bool
  moverOn   : Bool
  removed   : Bool
  gen       : BitVec 8
  isOpen    : Bool
  unknownOp : Bool
  gran      : SMap GBits
  flips     : Nat
  rowFlip   : SMap Nat
  held      : List Held
  passing   : List PassReq
  copies    : List Copy
  cells     : SMap Cell
  spareAt   : Option Nat
  spareBad  : Bool
  disabled  : List Nat
  rebateLost : Nat
  lastMreq  : Option (HReq × Bool)
  lastHrsp  : Option MResp
  deriving DecidableEq, Repr

/-! ## Capture, drain -/

/-- The running capture (R149, R150). `cmd` is its command; a triggered capture has a rule. `regs` are the
regions of its scope as they stood at dispatch. `full` lists granules written in full whatever
R432 would do with a dirty one; `places` the first SLBA reserved for each leaf of the scope; `cancel` a cancel waits for the freeze to end (R174). -/
structure CapRun where
  chamber  : Nat
  cmd      : Option Sub
  rule     : Nat
  id       : BitVec 64
  store    : Nat
  label    : BitVec 64
  policy   : Bool
  immediate : Bool
  phase    : Nat
  regs     : List (Nat × Region)
  sealed   : Bool
  flow     : Bool
  dedup    : Nat
  slot     : Nat
  kcvs     : List (BitVec 64)
  mode     : BitVec 64
  reserved : Nat
  flipped  : Bool
  epoch    : BitVec 32
  flipTime : Nat
  holdTime : Nat
  stepCount : BitVec 48
  stepCode : Nat
  midstep  : Bool
  degraded : Bool
  toDrain  : Nat
  drained  : Nat
  skipped  : Nat
  bytes    : Nat
  freezeNs : Nat
  heldWrites : Nat
  peak     : Nat
  poisoned : Nat
  dirFull  : Nat
  full     : List Nat
  places   : List Nat
  cancel   : Bool
  deriving DecidableEq, Repr

/-- A capture that waits (R149, R152, R523), as fixed at its dispatch, and whether a rejected step keeps a triggered one back (R171). -/
structure CapWait where
  run      : CapRun
  rejected : Bool
  deriving DecidableEq, Repr

/-- A leaf disposed of (R180): where it belongs, its index record, its poisoned beats, its place and block when written. -/
structure LeafRec where
  region : Nat
  member : Nat
  leaf   : Nat
  rec_   : IndexRec
  beats  : List Nat
  place  : Nat
  block  : List Byte
  deriving DecidableEq, Repr

/-- Capture state of the block: the epoch, the running capture, those that wait, the blocks under way, the records made (region, member,
leaf), the early-warning rules' counters. -/
structure Cap where
  epoch   : BitVec 32
  run     : Option CapRun
  waits   : List CapWait
  blocks  : List Block
  recs    : List LeafRec
  deriving DecidableEq, Repr

/-- An early-warning rule (R169). -/
structure Trig where
  armed   : Option Nat
  store   : Nat
  input   : Nat
  param   : BitVec 32
  window  : BitVec 32
  base    : BitVec 32
  since   : Nat
  edges   : List Nat
  deriving DecidableEq, Repr

/-- Cipher scheduler, frame engines and their counters (Table 10 of chapter 07). -/
structure Cipher where
  cmdCores  : BitVec 3
  wCmd      : BitVec 4
  wSdx      : BitVec 4
  wIngress  : BitVec 4
  wEgress   : BitVec 4
  failed    : BitVec 16
  assigned  : SMap (Option (Nat × Nat))
  crcMis    : Nat
  sdxMis    : Nat
  rebuilds  : Nat
  holdPeak  : Nat
  flowBad   : Nat
  deriving DecidableEq, Repr

/-- CTR_DRBG and entropy port (R61). `draws` is the model's own counter of values drawn (assumption log 9). -/
structure Drbg where
  live      : Bool
  draws     : Nat
  generates : Nat
  words     : Nat
  due       : Bool
  stop      : Bool
  entFail   : Bool
  fails     : Nat
  deriving DecidableEq, Repr

/-- A key slot (R192, R193, R195, R400). `state`: 0 EMPTY, 1 LOADING, 2 COMMITTED. -/
structure KeySlot where
  state    : Nat
  source   : Nat
  words    : BitVec 4
  key      : BitVec 256
  fixed    : BitVec 64
  count    : Nat
  reserved : Nat
  deriving DecidableEq, Repr

/-- A staging buffer posted for an outstanding NVMe command (R55): offset, length, direction, its sectors. -/
structure StageBuf where
  off    : Nat
  len    : Nat
  toSsd  : Bool
  stile  : Nat
  granule : Nat
  data   : List Byte
  deriving DecidableEq, Repr

/-- Posted buffers, held reads (offset, length, access, time), sectors freed of a granule's frame, the bytes of the last read served (R203). -/
structure Staging where
  posted : List StageBuf
  heldReads : List (Nat × Nat × Access × Nat)
  freed  : List (Nat × Nat)
  viol   : Nat
  last   : List Byte
  deriving DecidableEq, Repr

/-! ## Streams -/

/-- A host stream slot (R263, R265). -/
structure Stm where
  gen      : Nat
  isOpen   : Bool
  retired  : Bool
  lost     : Bool
  chamber  : Nat
  writeBack : Bool
  credit   : Bool
  source   : Nat
  indexed  : Bool
  gated    : Bool
  elemType : Nat
  home     : Nat
  depth    : Nat
  segLen   : Nat
  base     : Nat
  extent   : Nat
  gateObj  : Nat
  gateBase : BitVec 64
  index    : Nat
  deriving DecidableEq, Repr

/-- A host stream's progress: the walker's entry and elements of it issued (linear: element of the buffer); elements issued and delivered (or
written and acknowledged) in stream order; the first element whose write failed; landed spans not delivered, each byte with its poison; data of the producer not written; ends of the segments
issued; jump counters (entry, taken); a seek that waits for the segment's end; posts due (object, increment, elements before); credit
frames out; entries in a row without a SEGMENT. -/
structure StmRun where
  entry    : Nat
  elem     : Nat
  issued   : Nat
  delivered : Nat
  stuck    : Option Nat
  landed   : List (Nat × List (Byte × Bool))
  unused   : List (Byte × Bool)
  ends     : List Nat
  jumps    : List (Nat × Nat)
  bytes    : Nat
  seek     : Option Nat
  ended    : Bool
  fault    : Option (BitVec 16)
  bound    : Option (Nat × BitVec 16)
  closing  : Option (Nat × BitVec 16)
  posts    : List (Nat × BitVec 64 × Nat)
  frames   : List (Nat × Nat)
  barren   : Nat
  deriving DecidableEq, Repr

/-- Read data that arrived for a tag and has not landed, each byte with its poison; an answer with ERR; the last beat has come. -/
structure Answer where
  use  : TagUse
  data : List (Byte × Bool)
  err  : Bool
  full : Bool
  deriving DecidableEq, Repr

/-- The stream tracker (Table 6 of chapter 10). -/
structure Trk where
  stm     : SMap Stm
  run     : SMap StmRun
  stale   : Nat
  discard : Nat
  staleBy : SMap Nat
  answers : List Answer
  deriving DecidableEq, Repr

/-! ## Sync unit -/

/-- A sync object (Table 6 of chapter 12), the baseline of its link (R329), and whether it waits out R336. -/
structure SyncObj where
  alloc    : Bool
  value    : BitVec 64
  handSet  : Bool
  overrun  : Bool
  link     : Bool
  remoteOk : Bool
  chamber  : Nat
  remoteCh : BitVec 5
  linkTo   : BitVec 14
  tenon    : Bool
  bound    : BitVec 32
  baseline : BitVec 64
  holdOff  : Bool
  retired  : Bool
  deriving DecidableEq, Repr

/-- A watch (R337-R339). -/
structure Watch where
  used    : Bool
  chamber : Nat
  object  : Nat
  level   : BitVec 64
  irq     : Bool
  addr    : BitVec 64
  value   : BitVec 64
  fired   : Bool
  gen     : Nat
  deriving DecidableEq, Repr

/-- A barrier (R340): waiting joins by chamber, SQ, ID, token and whether a withdrawal is sent. -/
structure Bar where
  claimed : Bool
  chain   : Bool
  chamber : Nat
  n       : Nat
  arrived : Nat
  gen     : BitVec 32
  joins   : List (Nat × Nat × BitVec 16 × Nat × Bool)
  deriving DecidableEq, Repr

/-- A remote signal not yet answered (R333). -/
structure RemoteSig where
  dest    : Nat
  seq     : BitVec 16
  object  : Nat
  chamber : Nat
  incr    : BitVec 64
  tries   : Nat
  sq      : Nat
  cid     : BitVec 16
  deriving DecidableEq, Repr

/-- The sync unit (R326-R347). -/
structure Sync where
  objs      : SMap SyncObj
  watches   : SMap Watch
  bars      : SMap Bar
  retries   : BitVec 3
  ackUs     : BitVec 16
  dupRemote : Nat
  staleGen  : Nat
  handSets  : Nat
  remote    : List RemoteSig
  nextSeq   : SMap (BitVec 16)
  lastSeq   : SMap (Option (BitVec 16))
  deriving DecidableEq, Repr

/-! ## Chain -/

/-- The Dramusal chain port (Table 4 of chapter 15). Frames to send: (forwarded, originated). -/
structure Chain where
  dclMax     : BitVec 2
  autoReenum : Bool
  candidate  : Bool
  lossMs     : BitVec 8
  enumMs     : BitVec 8
  unassigned : Nat
  units      : Nat
  lock       : Bool
  stale      : Bool
  full       : Bool
  version    : Nat
  role       : Nat
  address    : Nat
  pendAddr   : Option Nat
  epoch      : BitVec 32
  trigOut    : BitVec 16
  trigIn     : BitVec 16
  damaged    : Nat
  crc        : Nat
  undeliv    : Nat
  expired    : Nat
  sent       : Nat
  dropped    : Nat
  quar       : BitVec 256
  viol       : SMap Nat
  deriving DecidableEq, Repr

/-- The chain port's work: enumeration in progress (nonce, command, previous role and address), whether it must send JOIN, whether that is out and
its previous address (R419), transmit queues, notices, tokens. -/
structure ChainWork where
  enumNonce  : Option (BitVec 64)
  enumCmd    : Option Sub
  prevRole   : Nat
  prevAddr   : Nat
  masterNonce : BitVec 64
  electing   : Bool
  needJoin   : Bool
  joined     : Bool
  joinPrev   : Nat
  forwardQ   : List DclFrame
  ownQ       : List DclFrame
  passedBy   : Nat
  notices    : List (Nat × List Byte)
  tokens     : Nat
  token      : Nat
  lastTx     : Option DclFrame
  masterBar  : SMap (Nat × Nat)
  barTokens  : List (Nat × Nat × Nat)
  deriving DecidableEq, Repr

/-! ## Digests -/

/-- A digest context of the register interface (R383-R393). `state`: 0 FREE, 1 IDLE, 2 ABSORBING, 3 FINISHING, 4 DONE, 5 ERROR. -/
structure DgtCtx where
  state   : Nat
  owner   : Nat
  alg     : Nat
  hmac    : Bool
  hslot   : Nat
  mAlg    : Nat
  mHmac   : Bool
  mSlot   : Nat
  mGen    : Nat
  count   : Nat
  chain   : List Nat
  buf     : List Byte
  msgs    : Nat
  error   : Nat
  out     : List Byte
  latch   : List (BitVec 64)
  written : List (BitVec 64)
  queued  : List (Nat × BitVec 64)
  deriving DecidableEq, Repr

/-- An HMAC slot (R389, R390): the two chaining values. -/
structure HSlot where
  loaded    : Bool
  alg       : Nat
  derived   : Bool
  gen       : Nat
  lastError : Nat
  inner     : List Nat
  outer     : List Nat
  deriving DecidableEq, Repr

/-- Digest engines, contexts, HMAC slots, stalagmite registers, key port counters (Tables 5 and 6 of chapter 14). -/
structure Digest where
  failed   : BitVec 8
  ctx      : SMap DgtCtx
  hslots   : SMap HSlot
  hkeys    : SMap (BitVec 64)
  waits    : Nat
  errors   : Nat
  sg       : SMap (BitVec 384)
  sgCount  : SMap (BitVec 32)
  portRefused : Nat
  portParity  : Nat
  lastKeyErr  : Nat
  deriving DecidableEq, Repr

/-! ## Storage -/

/-- An NVMe controller (R84, R232, R233). -/
structure Nvme where
  attached : Bool
  base     : BitVec 64
  pairs    : Nat
  depth    : Nat
  identify : List Byte
  spaces   : List NsInfo
  open_    : List Nat
  timed    : List Nat
  sqHead   : SMap Nat
  viol     : Nat
  quar     : Bool
  health   : List Byte
  errLog   : List Byte
  deriving DecidableEq, Repr

/-- Storage: controllers, what is mounted (handle, position in `media`), and the media the attached namespaces hold. -/
structure Storage where
  ctrls  : SMap Nvme
  mount  : SMap (Option Nat)
  media  : List Media
  down   : Bool
  deriving DecidableEq, Repr

/-! ## Sump, service, jig -/

/-- A sump entry (Table 2 of chapter 18). -/
structure SumpEntry where
  seq      : Nat
  first    : Nat
  last     : Nat
  count    : Nat
  code     : BitVec 16
  severity : Nat
  kind     : Nat
  index    : Nat
  chamber  : Option Nat
  coalesced : Bool
  spilled  : Bool
  fatalArea : Bool
  detail   : List Byte
  detailLast : List Byte
  deriving DecidableEq, Repr

/-- The sump (Table 11 of chapter 18). Oldest entry first. -/
structure Sump where
  entries   : List SumpEntry
  minSev    : Nat
  wm        : Nat
  loss      : SMap Nat
  ringCount : Nat
  sumpCount : Nat
  peak      : Nat
  ringCross : Bool
  sumpCross : Bool
  prod      : Nat
  cons      : Nat
  seq       : Nat
  spillBase : Nat
  spillSize : Nat
  spillFault : Bool
  lostPlaces : Nat
  deriving DecidableEq, Repr

/-- Service cores, failover, replacement (Table 11 of chapter 18). `cores`: bit k-1 for CCk running. -/
structure Svc where
  active    : Nat
  standby   : Nat
  standbyOk : Bool
  slab      : Nat
  failovers : Nat
  pauseUs   : Nat
  journal   : List (Nat × Nat × BitVec 16 × Nat)
  coreDead  : BitVec 3
  reasons   : BitVec 16
  deriving DecidableEq, Repr

/-- A unit record of the jig (R508). -/
structure JigUnit where
  passed    : Nat
  failedN   : Nat
  transients : Nat
  failed    : Bool
  pattern   : Nat
  time      : Nat
  deriving DecidableEq, Repr

/-- The jig (Table 5 of chapter 19). The slice under way, and a manual slice that waits: position, pattern, kind (0 periodic, 1 manual, 2 manual
with hold). `deferred`: the commanded slice that waits has counted in JIG_DEFER.window.
`deferAll`, `yieldAll`, `run`: the totals of LOG_READ log 5 (R508). -/
structure Jig where
  manual    : Bool
  slice     : Option (Nat × Nat × Nat)
  waitSlice : Option (Nat × Nat × Nat)
  sweep     : Nat
  passedOver : List Nat
  sweeps    : Nat
  defWindow : Nat
  yields    : Nat
  deferAll  : Nat
  yieldAll  : Nat
  failures  : Nat
  transients : Nat
  lastFail  : BitVec 32
  vdd       : BitVec 10
  tj        : BitVec 8
  units     : SMap JigUnit
  run       : Nat
  lastRes   : Nat
  lastClass : Nat
  lastUnit  : Nat
  lastSeg   : Nat
  inSession : Nat
  deferred  : Bool
  deriving DecidableEq, Repr

/-- Block features (Table 4 of chapter 05). -/
structure Feat where
  selfTest  : Bool
  period    : Nat
  thNvme    : Nat
  thSdx     : Nat
  thChain   : Nat
  noticeRate : Nat
  deriving DecidableEq, Repr

/-- Host memory and the slow tier behind the fabric ports, as one address space of bytes, with the beats stored poisoned. -/
structure Memory where
  bytes  : SMap Byte
  poison : SMap Bool
  deriving DecidableEq, Repr

/-- The block. -/
structure State where
  build    : Build
  fabPorts : Nat
  pending  : List Instr
  timeIn   : Nat
  timeUsed : Nat
  timeBack : Bool
  free     : Nat
  mem      : Memory
  port     : PortRegs
  lanes    : SMap Lane
  frz      : Freeze
  boot     : Boot
  life     : LifeLamp
  pwr      : Pwr
  chambers : SMap Chamber
  units    : SMap ChUnit
  turnCh   : Nat
  turnLeft : Nat
  cmds     : List Cmd
  fins     : List Fin
  clamps   : List Clamp
  regions  : SMap (Option Region)
  stiles   : SMap Stile
  cap      : Cap
  trigs    : SMap Trig
  ciph     : Cipher
  drbg     : Drbg
  keys     : SMap KeySlot
  stage    : Staging
  tags     : List TagUse
  trk      : Trk
  sync     : Sync
  chain    : Chain
  chainW   : ChainWork
  dgt      : Digest
  sto      : Storage
  sump     : Sump
  svc      : Svc
  jig      : Jig
  feat     : Feat
  deriving DecidableEq, Repr

/-! ## Reset -/

/-- An interleave entry at reset. -/
def IlvEntry.zero : IlvEntry := ⟨0, false, 0, 0, 0, 0, 0, 0, 0, 0, 0, 0⟩

/-- The port registers at reset (Tables 4 and 16 of chapter 02). -/
def PortRegs.reset : PortRegs :=
  { ownShare := 1, holdAll := false, frzTimeout := 0x64, irqRoute := 0xFAC688, irqStatus := 0, irqMask := 0xFF, supplyWarn := false,
    wakeBudget := 0, stepReserve := false, stepFloor := 8, ilvLocked := false, ilvEntry := 0, ilvError := 0, ilvMismatch := 0,
    ilv := .const .zero, evtCount := .const 0, evtLevel := 0 }

/-- A lane at reset. -/
def Lane.zero : Lane := ⟨none, none, ⟨0, 0⟩⟩

/-- The freeze handshake at reset: FRZ_HOLD low (R72). -/
def Freeze.reset : Freeze := ⟨false, false, none, 0, []⟩

/-- Start-up state as KX_COLD_RST_N is released (step 1 of R75). -/
def Boot.reset : Boot :=
  { stage := .rom, error := 0, imageKey := 0, kxRail := false, fwLen := 0, fwAddr := 0, running := 0, imageIndex := 0, fuseCount := 0,
    sg1Digest := none, runKey := [], compat := false, staged := none, resetHeld := 0, fuses := .const 0, fuseErr := [] }

/-- Lifecycle and lamp at reset: the state of blank fuses, LAMP0. -/
def LifeLamp.reset : LifeLamp :=
  { life := .manuf, pending := none, commitFails := 0, nonce := 0, level := 0, request := none, fails := 0, backoff := false,
    halt := 0, halted := 0, tapIr := 0x3F }

/-- Power at reset: OFF, target RUN (R72, Table 12 of chapter 17). -/
def Pwr.reset : Pwr :=
  { state := .off, target := .run, idleMs := 0, parkError := false, wakeError := false, scanned := false, parkBase := 0, parkSize := 0,
    park := none, parkStores := [], on := 0, wakes := 0, warnEvents := 0, warnLongest := 0, warnSince := none,
    tokens := 0, queue := [], ramping := [], waking := false }

/-- A submission queue at reset. -/
def Sq.zero : Sq := ⟨false, false, 0, 0, 0, 0, 0, 0, 0, false⟩

/-- A completion queue at reset: the first pass writes phase 1 (R92). -/
def Cq.zero : Cq := ⟨false, false, 0, 0, 0, 0, true, 0, [], 0, false⟩

/-- A status slot at reset. -/
def Slot.zero : Slot := ⟨0, [0, 0, 0, 0, 0, 0, 0], none⟩

/-- A window not in use. -/
def Win.zero : Win := ⟨false, 0, 0⟩

/-- A chamber at reset: unconfigured. -/
def Chamber.zero : Chamber :=
  { configured := false, negotiated := false, veneer := false, quiescing := false, quiesced := false, setupError := false, major := 0,
    minor := 0, irqPend := 0, threshold := 0x10, quotaSync := 0, quotaWatch := 0, quotaClamp := 0, quotaRegion := 0, quotaStream := 0,
    mode := 0, credits := 0, rsvBase := 0, rsvSize := 0, interval := 50, rsvWarn := 75, rsvStall := 95, sqs := .const .zero,
    cqs := .const .zero, wins := .const .zero, slots := .const .zero, turnSq := 0, turnLeft := 0,
    fetched := [] }

/-- Chamber 0 at reset: configured with the whole block's quotas (R81, R517). -/
def Chamber.zeroth : Chamber :=
  { Chamber.zero with
    configured := true, quotaSync := 16384, quotaWatch := 4096, quotaClamp := 4096, quotaRegion := 65536,
    quotaStream := 262144, mode := 0x0008010000000000 }

/-- Capture registers at reset. -/
def CapRegs.zero : CapRegs :=
  { trigRule := 0, triggered := false, midstep := false, policy := false, degraded := false, phase := 0, epoch := 0, stallCount := 0,
    warnCount := 0, stallCross := false, warnCross := false, peak := 0, level := 0, fired := 0, stats := [] }

/-- The step at reset: IDLE, loss scale and CLIP 1.0 (Table 10 of chapter 11). -/
def StepRec.zero : StepRec :=
  { phase := .idle, guardLost := false, epochOpen := false, count := 0, scale := 0x3F800000, clean := 0, skips := 0, loss := 0, norm := 0,
    clip := 0x3F800000, plan := none, saved := none, scope := [], beginSub := none, rejected := false, written := 0 }

/-- An empty program slot. -/
def Prog.zero : Prog := ⟨false, 0, []⟩

/-- A free peer slot. -/
def Peer.zero : Peer := ⟨false, false, false, false, 0, 0, 0, 0, 0, 0, 0, 0, 0, 0, []⟩

/-- Site exchange at reset: unanchored, no peers (R378). -/
def Site.zero : Site :=
  { listAddr := 0, listLen := 0, outer := false, nackLead := 0, seed := 0, emitted := 0, applied := 0, anchored := false, seqSet := false,
    area := 0, blocks := 0, ks := .const 0, peers := .const .zero, own := 0, late := 0, dup := 0, ignored := 0, parkedPeak := 0,
    regions := [], anchorType := 0, outerUse := false, contrib := [], run := none, emitOpen := false, emitSlot := 0,
    accUse := false, serveQ := [], serveAt := 0, serveSlot := 0 }

/-- The units of a chamber at reset. -/
def ChUnit.zero : ChUnit :=
  { cap := .zero, step := .zero, progs := .const .zero, site := .zero, stmBase := 0, depTimeout := 0, stmDiscard := 0, syncBase := 0,
    overruns := 0, forbidden := 0, wirqCount := 0, wirqGen := 0, wirqIndex := 0 }

/-- A cell at reset: free, cache and directory empty. -/
def Cell.zero : Cell := ⟨none, [], []⟩

/-- A stile at reset: pass-through forwarding, mover off, every granule DIRTY (R81, R176). -/
def Stile.zero : Stile :=
  { inReset := false, moverOn := false, removed := false, gen := 0, isOpen := false, unknownOp := false, gran := .const ⟨true, false⟩,
    flips := 0, rowFlip := .const 0, held := [], passing := [], copies := [], cells := .const .zero, spareAt := none, spareBad := false,
    disabled := [], rebateLost := 0, lastMreq := none, lastHrsp := none }

/-- Capture at reset: epoch 0, none running. -/
def Cap.zero : Cap := ⟨0, none, [], [], []⟩

/-- A disarmed rule. -/
def Trig.zero : Trig := ⟨none, 0, 0, 0, 0, 0, 0, []⟩

/-- Cipher scheduler at reset (Table 10 of chapter 07). -/
def Cipher.reset : Cipher :=
  { cmdCores := 2, wCmd := 1, wSdx := 4, wIngress := 4, wEgress := 4, failed := 0,
    assigned := .const none, crcMis := 0, sdxMis := 0, rebuilds := 0, holdPeak := 0, flowBad := 0 }

/-- The DRBG at reset: not instantiated. -/
def Drbg.reset : Drbg := ⟨false, 0, 0, 0, false, false, false, 0⟩

/-- An empty key slot. -/
def KeySlot.zero : KeySlot := ⟨0, 0, 0, 0, 0, 0, 0⟩

/-- Staging at reset. -/
def Staging.zero : Staging := ⟨[], [], [], 0, []⟩

/-- A stream slot at reset. The first opening takes generation 1 (R263: previous + 1). -/
def Stm.zero : Stm := ⟨0, false, false, false, 0, false, false, 0, false, false, 0, 0, 0, 0, 0, 0, 0, 0, 0⟩

/-- A stream's progress at its opening. -/
def StmRun.zero : StmRun :=
  { entry := 0, elem := 0, issued := 0, delivered := 0, stuck := none, landed := [], unused := [], ends := [0], jumps := [], bytes := 0, seek := none,
    ended := false, fault := none, bound := none, closing := none, posts := [], frames := [], barren := 0 }

/-- The stream tracker at reset. -/
def Trk.zero : Trk := ⟨.const .zero, .const .zero, 0, 0, .const 0, []⟩

/-- A sync object at reset: unallocated. -/
def SyncObj.zero : SyncObj := ⟨false, 0, false, false, false, false, 0, 0, 0, false, 0, 0, false, false⟩

/-- A free watch slot. -/
def Watch.zero : Watch := ⟨false, 0, 0, 0, false, 0, 0, false, 0⟩

/-- A free barrier. -/
def Bar.zero : Bar := ⟨false, false, 0, 0, 0, 0, []⟩

/-- The sync unit at reset (Table 6 of chapter 12). -/
def Sync.reset : Sync :=
  { objs := .const .zero, watches := .const .zero, bars := .const .zero, retries := 3, ackUs := 0xFA, dupRemote := 0, staleGen := 0,
    handSets := 0, remote := [], nextSeq := .const 0, lastSeq := .const none }

/-- The chain port at reset (Table 4 of chapter 15): MEMBER, no address. -/
def Chain.reset : Chain :=
  { dclMax := 2, autoReenum := true, candidate := false, lossMs := 0x0A, enumMs := 0x32, unassigned := 0, units := 0, lock := false,
    stale := false, full := false, version := 0, role := 0, address := 0, pendAddr := none, epoch := 0, trigOut := 0, trigIn := 0,
    damaged := 0, crc := 0, undeliv := 0, expired := 0, sent := 0, dropped := 0, quar := 0, viol := .const 0 }

/-- The chain's work at reset: nothing queued, a full notice bucket (R424). -/
def ChainWork.zero : ChainWork :=
  { enumNonce := none, enumCmd := none, prevRole := 0, prevAddr := 0, masterNonce := 0, electing := false, needJoin := true, joined := false, joinPrev := 0,
    forwardQ := [], ownQ := [], passedBy := 0, notices := [], tokens := 16, token := 0, lastTx := none, masterBar := .const (0, 0),
    barTokens := [] }

/-- A free context. -/
def DgtCtx.zero : DgtCtx :=
  { state := 0, owner := 0, alg := 0, hmac := false, hslot := 0, mAlg := 0, mHmac := false, mSlot := 0, mGen := 0, count := 0, chain := [],
    buf := [], msgs := 0, error := 0, out := [], latch := [], written := [], queued := [] }

/-- An empty HMAC slot. -/
def HSlot.zero : HSlot := ⟨false, 0, false, 0, 0, [], []⟩

/-- Digest state at reset: stalagmite registers zero (R397). -/
def Digest.zero : Digest :=
  { failed := 0, ctx := .const .zero, hslots := .const .zero, hkeys := .const 0, waits := 0, errors := 0,
    sg := .const 0, sgCount := .const 0, portRefused := 0, portParity := 0, lastKeyErr := 0 }

/-- A controller not attached. -/
def Nvme.zero : Nvme := ⟨false, 0, 0, 0, [], [], [], [], .const 0, 0, false, [], []⟩

/-- Storage at reset: nothing attached, nothing mounted (R81). -/
def Storage.zero : Storage := ⟨.const .zero, .const none, [], false⟩

/-- The sump at reset: empty, watermark 0x4B (Table 11 of chapter 18). -/
def Sump.reset : Sump :=
  { entries := [], minSev := 0, wm := 0x4B, loss := .const 0, ringCount := 0, sumpCount := 0, peak := 0, ringCross := false,
    sumpCross := false, prod := 0, cons := 0, seq := 0, spillBase := 0, spillSize := 0, spillFault := false, lostPlaces := 0 }

/-- Service at reset: CC1 active, no standby (Table 11 of chapter 18). -/
def Svc.reset : Svc :=
  { active := 1, standby := 0, standbyOk := false, slab := 0, failovers := 0, pauseUs := 0, journal := [], coreDead := 0,
    reasons := 0 }

/-- A jig record at reset. -/
def JigUnit.zero : JigUnit := ⟨0, 0, 0, false, 0, 0⟩

/-- The jig at reset (Table 5 of chapter 19). -/
def Jig.zero : Jig :=
  { manual := false, slice := none, waitSlice := none, sweep := 0, passedOver := [], sweeps := 0, defWindow := 0, yields := 0, deferAll := 0,
    yieldAll := 0, failures := 0,
    transients := 0, lastFail := 0, vdd := 0, tj := 0, units := .const .zero, run := 0, lastRes := 0, lastClass := 0,
    lastUnit := 0, lastSeg := 0, inSession := 0, deferred := false }

/-- Features at reset (Table 4 of chapter 05). -/
def Feat.reset : Feat := ⟨true, 10, 16, 16, 16, 100⟩

/-- The block as KX_COLD_RST_N is released, with blank fuses, as KX3-32 with four fabric ports (assumption logs 1, 2). -/
def State.reset : State :=
  { build := .kx32, fabPorts := 4, pending := [], timeIn := 0, timeUsed := 0, timeBack := false, free := 0, mem := ⟨.const 0, .const false⟩,
    port := .reset, lanes := .const .zero, frz := .reset, boot := .reset, life := .reset, pwr := .reset,
    chambers := (SMap.const Chamber.zero).set 0 .zeroth, units := .const .zero, turnCh := 0, turnLeft := 0, cmds := [], fins := [],
    clamps := [], regions := .const none, stiles := .const .zero, cap := .zero, trigs := .const .zero, ciph := .reset, drbg := .reset,
    keys := .const .zero, stage := .zero, tags := [], trk := .zero, sync := .reset, chain := .reset, chainW := .zero, dgt := .zero,
    sto := .zero, sump := .reset, svc := .reset, jig := .zero, feat := .reset }

end Sys2Proof.Machine
end

