-- ==== Sys2Proof/Machine/Flags.lean ====
section
/-! DEFINITION. Bits, bytes and counts: little-endian fields (R13), saturating counts, status codes (R16), fault descriptions (R107). -/

namespace Sys2Proof.Machine

/-- Bit `i` of a word. -/
abbrev bit {w : Nat} (v : BitVec w) (i : Nat) : Bool := v.getLsbD i

/-- Bits [hi:lo] of a word, as a number. -/
def fld {w : Nat} (v : BitVec w) (hi lo : Nat) : Nat := (v.toNat >>> lo) % 2 ^ (hi + 1 - lo)

/-- A word with bit `i` set to `b`. -/
def setBit {w : Nat} (v : BitVec w) (i : Nat) (b : Bool) : BitVec w :=
  if b then v ||| (1#w <<< i) else v &&& ~~~(1#w <<< i)

/-- A flag as a number. -/
def b2n (b : Bool) : Nat := if b then 1 else 0

/-- Add `k` to a count that saturates at `2 ^ w - 1`. -/
def satAdd (w n k : Nat) : Nat := if n + k < 2 ^ w then n + k else 2 ^ w - 1

/-- `n` little-endian bytes of a number. -/
def leBytes : Nat → Nat → List Byte
  | 0, _ => []
  | k + 1, v => BitVec.ofNat 8 v :: leBytes k (v / 256)

/-- The number little-endian bytes spell. -/
def leNat : List Byte → Nat
  | [] => 0
  | b :: r => b.toNat + 256 * leNat r

/-- `n` big-endian bytes of a number. -/
def beBytes (n v : Nat) : List Byte := (leBytes n v).reverse

/-- The number big-endian bytes spell. -/
def beNat (l : List Byte) : Nat := leNat l.reverse

/-- `n` zero bytes. -/
def zeros (n : Nat) : List Byte := List.replicate n 0

/-- Bytes `o` to `o + n - 1` of a structure, zero past its end. -/
def bytesAt (l : List Byte) (o n : Nat) : List Byte := let t := (l.drop o).take n; t ++ zeros (n - t.length)

/-- The little-endian field of `n` bytes at `o`. -/
def leAt (l : List Byte) (o n : Nat) : Nat := leNat (bytesAt l o n)

/-- A list padded with zeros to `n` bytes, and cut there. -/
def padTo (n : Nat) (l : List Byte) : List Byte := bytesAt l 0 n

/-- The list with `v` at position `i` (unchanged past the end). -/
def setAt {α : Type} (l : List α) (i : Nat) (v : α) : List α := l.set i v

/-- The exclusive or of two byte lists. -/
def xorBytes (a b : List Byte) : List Byte := List.zipWith (· ^^^ ·) a b

/-- Quotient rounded up. -/
def ceilDiv (a b : Nat) : Nat := (a + b - 1) / b

/-- The position of the first byte of a range that is not zero, with its first set bit. -/
def firstSet (l : List Byte) (o n : Nat) : Option (Nat × Nat) :=
  (List.range n).findSome? fun i =>
    let v := (bytesAt l (o + i) 1).headD 0
    (List.range 8).findSome? fun k => if v.getLsbD k then some (o + i, k) else none

/-! ## Status codes (Table 9 of chapter 00) -/

abbrev sOk : BitVec 16 := 0x0000
abbrev sOkPartial : BitVec 16 := 0x0001
abbrev sAborted : BitVec 16 := 0x0002
abbrev sInvalidOpcode : BitVec 16 := 0x0003
abbrev sInvalidField : BitVec 16 := 0x0004
abbrev sReservedBit : BitVec 16 := 0x0005
abbrev sVersion : BitVec 16 := 0x0006
abbrev sWrongChamber : BitVec 16 := 0x0007
abbrev sNotInState : BitVec 16 := 0x0008
abbrev sRegionOverlap : BitVec 16 := 0x1001
abbrev sRegionFull : BitVec 16 := 0x1002
abbrev sCaptureBusy : BitVec 16 := 0x1003
abbrev sNonfinite : BitVec 16 := 0x1004
abbrev sApplyNonfinite : BitVec 16 := 0x1005
abbrev sUncovered : BitVec 16 := 0x1006
abbrev sDepTimeout : BitVec 16 := 0x1007
abbrev sStreamCancelled : BitVec 16 := 0x1008
abbrev sLeftover : BitVec 16 := 0x1009
abbrev sFlowDamaged : BitVec 16 := 0x2001
abbrev sCheckMismatch : BitVec 16 := 0x2002
abbrev sAuthFailed : BitVec 16 := 0x2003
abbrev sManifestMismatch : BitVec 16 := 0x2004
abbrev sMediaError : BitVec 16 := 0x2005
abbrev sLengthLimit : BitVec 16 := 0x2006
abbrev sKeyEmpty : BitVec 16 := 0x3001
abbrev sKeyWorn : BitVec 16 := 0x3002
abbrev sForbidden : BitVec 16 := 0x3003
abbrev sLampDenied : BitVec 16 := 0x3004
abbrev sStreamIds : BitVec 16 := 0x4001
abbrev sReserveExhausted : BitVec 16 := 0x4002
abbrev sSyncExhausted : BitVec 16 := 0x4003
abbrev sStoreFull : BitVec 16 := 0x4004
abbrev sMalformed : BitVec 16 := 0x5001
abbrev sTimeout : BitVec 16 := 0x5002
abbrev sQuarantined : BitVec 16 := 0x5003
abbrev sChainFull : BitVec 16 := 0x5004
abbrev sDegraded : BitVec 16 := 0x6001

/-! ## Event codes (Table 3 of chapter 18) -/

abbrev eStaleGen : BitVec 16 := 0x8001
abbrev eWatermark : BitVec 16 := 0x8002
abbrev eReplRaised : BitVec 16 := 0x8003
abbrev eReplCleared : BitVec 16 := 0x8004
abbrev eFailover : BitVec 16 := 0x8005
abbrev eCoreRestart : BitVec 16 := 0x8006
abbrev eTagHeld : BitVec 16 := 0x8007
abbrev eLifeLamp : BitVec 16 := 0x8008
abbrev eKeyWear : BitVec 16 := 0x8009
abbrev eIgnoredWrite : BitVec 16 := 0x800A
abbrev eUnknownOp : BitVec 16 := 0x800B
abbrev ePoisonedLeaf : BitVec 16 := 0x800C
abbrev eExcluded : BitVec 16 := 0x800D

/-- The fault description of Table 6 of chapter 04. -/
def faultDesc (reason whr entry bitNo byteNo : Nat) : BitVec 64 :=
  BitVec.ofNat 64 (reason * 2 ^ 56 + whr * 2 ^ 52 + entry % 2 ^ 16 * 2 ^ 32 + bitNo % 256 * 2 ^ 16 + byteNo % 2 ^ 16)

/-- Whether a completion with this status carries a fault description and is logged as PARTNER_MALFORMED (R107). -/
def isRefusal (st : BitVec 16) : Bool :=
  st == sInvalidOpcode || st == sInvalidField || st == sReservedBit || st == sWrongChamber || st == sForbidden

/-- The severity a status is logged at (Table 4 of chapter 18). -/
def severityOf (st : BitVec 16) : Nat :=
  if (0x2001 ≤ st.toNat ∧ st.toNat ≤ 0x2006) ∨ st = sQuarantined ∨ st = sTimeout then 3
  else if st = sMalformed ∨ st = sForbidden ∨ st = sLampDenied then 2 else 0

/-! ## Names as codes -/

/-- Stage code (Table 5 of chapter 03). -/
def Stage.code : Stage → Nat
  | .rom => 0 | .fuses => 1 | .waitImage => 2 | .verify => 3 | .wake => 4 | .init => 5 | .ready => 6 | .passOnly => 7

/-- Lifecycle code (Table 1 of chapter 17). -/
def Life.code : Life → Nat
  | .manuf => 0 | .prov => 1 | .field => 2 | .fieldOpen => 3 | .ret => 4 | .spent => 5

/-- The lifecycle of a code. -/
def Life.ofCode : Nat → Option Life
  | 0 => some .manuf | 1 => some .prov | 2 => some .field | 3 => some .fieldOpen | 4 => some .ret | 5 => some .spent | _ => none

/-- Power code, as KX_PWR_STATE (R64). -/
def Power.code : Power → Nat
  | .run => 0 | .lean => 1 | .pass => 2 | .off => 3

/-- Step state code (Table 10 of chapter 11). -/
def StepPhase.code : StepPhase → Nat
  | .idle => 0 | .begun => 1 | .measured => 2 | .normed => 3 | .applied => 4

/-- The lamp ceiling of a lifecycle state (Table 1 of chapter 17). -/
def Life.ceiling : Life → Nat
  | .prov => 2 | .field => 2 | .spent => 0 | _ => 3

/-- STILE_COUNT (R3). -/
def Build.stiles : Build → Nat
  | .kx32 => 32 | .kx16 => 16 | .kx8 => 8

end Sys2Proof.Machine
end

