-- ==== Sys2Proof/Machine/Ops.lean ====
section
/-! DEFINITION. The named operations every meaning uses: time, memory, the parts of the state by number, the sump (R479-R485), interrupt
causes (R67), chain notices (R424), free values. A block takes no exception: an error is an answer, a status or a log entry. -/

namespace Sys2Proof.Machine

/-! ## Parts of the state by number -/

/-- Chamber `n`. -/
def State.ch (s : State) (n : Nat) : Chamber := s.chambers.get n
/-- Change chamber `n`. -/
def State.onCh (s : State) (n : Nat) (f : Chamber → Chamber) : State := { s with chambers := s.chambers.modify n f }
/-- The units beside the queues of chamber `n`. -/
def State.un (s : State) (n : Nat) : ChUnit := s.units.get n
/-- Change the units of chamber `n`. -/
def State.onUn (s : State) (n : Nat) (f : ChUnit → ChUnit) : State := { s with units := s.units.modify n f }
/-- Change the capture registers of chamber `n`. -/
def State.onCapRegs (s : State) (n : Nat) (f : CapRegs → CapRegs) : State := s.onUn n fun u => { u with cap := f u.cap }
/-- Change the step of chamber `n`. -/
def State.onStep (s : State) (n : Nat) (f : StepRec → StepRec) : State := s.onUn n fun u => { u with step := f u.step }
/-- Change the site exchange of chamber `n`. -/
def State.onSite (s : State) (n : Nat) (f : Site → Site) : State := s.onUn n fun u => { u with site := f u.site }
/-- Change SQ `q` of chamber `n`. -/
def State.onSq (s : State) (n q : Nat) (f : Sq → Sq) : State := s.onCh n fun c => { c with sqs := c.sqs.modify q f }
/-- Change CQ `q` of chamber `n`. -/
def State.onCq (s : State) (n q : Nat) (f : Cq → Cq) : State := s.onCh n fun c => { c with cqs := c.cqs.modify q f }
/-- Stile `n`. -/
def State.st (s : State) (n : Nat) : Stile := s.stiles.get n
/-- Change stile `n`. -/
def State.onSt (s : State) (n : Nat) (f : Stile → Stile) : State := { s with stiles := s.stiles.modify n f }
/-- Change sync object `i`. -/
def State.onObj (s : State) (i : Nat) (f : SyncObj → SyncObj) : State :=
  { s with sync := { s.sync with objs := s.sync.objs.modify i f } }
/-- Change key slot `i`. -/
def State.onKey (s : State) (i : Nat) (f : KeySlot → KeySlot) : State := { s with keys := s.keys.modify i f }
/-- Change NVMe controller `c`. -/
def State.onNvme (s : State) (c : Nat) (f : Nvme → Nvme) : State := { s with sto := { s.sto with ctrls := s.sto.ctrls.modify c f } }
/-- The number of stiles built (R3). -/
def State.stileCount (s : State) : Nat := s.build.stiles

/-! ## Time and free values -/

/-- The time Krytra uses: TIME_IN, held at the last value used while it reads lower (R68). -/
def State.now (s : State) : Nat := if s.timeIn < s.timeUsed then s.timeUsed else s.timeIn

/-- Use the time. -/
def State.useTime (s : State) : State := { s with timeUsed := s.now }

/-- A number the spec leaves open, a fresh one each time (assumption log 12). -/
def State.freeNat (s : State) : Nat × State := (Config.freeNat s.free, { s with free := s.free + 1 })

/-- Draw 64 bits from the CTR_DRBG (assumption log 9). A generate request is counted (R61). -/
def State.draw (s : State) : BitVec 64 × State :=
  (Config.drbg s.drbg.draws,
   { s with drbg := { s.drbg with live := true, draws := s.drbg.draws + 1, generates := s.drbg.generates + 1 } })

/-! ## Memory -/

/-- The byte at an address. -/
def Memory.byte (m : Memory) (a : Nat) : Byte := m.bytes.get a

/-- `n` bytes from `a`. -/
def Memory.read (m : Memory) (a n : Nat) : List Byte := (List.range n).map fun i => m.bytes.get (a + i)

/-- Write bytes from `a`. -/
def Memory.write (m : Memory) (a : Nat) : List Byte → Memory
  | [] => m
  | b :: r => Memory.write { m with bytes := m.bytes.set a b } (a + 1) r

/-- Mark the 128-byte beats of `[a, a + n)` poisoned or clean (R44). -/
def Memory.mark (m : Memory) (a n : Nat) (p : Bool) : Memory :=
  { m with poison := ((List.range (ceilDiv (a % 128 + n) 128)).foldl (fun q i => q.set (a / 128 + i) p) m.poison) }

/-- The beats, counted from the one holding `a`, of `[a, a + n)` that are stored poisoned. -/
def Memory.badBeats (m : Memory) (a n : Nat) : List Nat :=
  (List.range (ceilDiv (a % 128 + n) 128)).filter fun i => m.poison.get (a / 128 + i)

/-- The canonical form: both maps list rising keys and no default. -/
abbrev Memory.wf (m : Memory) : Bool := m.bytes.wf && m.poison.wf

/-- Write bytes to memory without capture tracking: queue entries, status words, notifications (R51). -/
def State.poke (s : State) (a : Nat) (d : List Byte) : State := { s with mem := (s.mem.write a d).mark a d.length false }

/-- Read bytes of memory. -/
def State.peek (s : State) (a n : Nat) : List Byte := s.mem.read a n

/-! ## Interrupt causes -/

/-- Set cause `c` in GLB_IRQ_STATUS (R67). -/
def State.cause (s : State) (c : Nat) : State := { s with port := { s.port with irqStatus := setBit s.port.irqStatus c true } }

/-- KX_IRQ line `l` (R67). -/
def State.irqLine (s : State) (l : Nat) : Bool :=
  (List.range 8).any fun c => bit s.port.irqStatus c && !bit s.port.irqMask c && fld s.port.irqRoute (3 * c + 2) (3 * c) == l

/-! ## Chain notices -/

/-- Whether this unit originates frames: READY, an address in use, not ISOLATED (R411, R413, R414). -/
def State.onChain (s : State) : Bool :=
  s.boot.stage == .ready && s.chain.address != 0 && s.chain.role != 2 && s.chain.pendAddr.isNone && !s.chainW.needJoin

/-- Queue a frame this unit originates (R412). -/
def State.sendFrame (s : State) (type dest : Nat) (payload : List Byte) : State :=
  let v := if type = 1 ∨ type = 2 ∨ type = 5 then 1 else if s.chain.version = 1 then 1 else 2
  { s with chainW := { s.chainW with
      ownQ := s.chainW.ownQ ++ [⟨BitVec.ofNat 8 v, BitVec.ofNat 8 type, BitVec.ofNat 8 dest, BitVec.ofNat 8 s.chain.address, 0, payload⟩] } }

/-- The notice to drop from a full queue: lowest priority (kind 3, then 2, then 1), the oldest of them (R424). -/
def dropNotice (l : List (Nat × List Byte)) : List (Nat × List Byte) :=
  match l.find? (fun p => p.1 == (l.foldl (fun m p => max m p.1) 0)) with
  | some p => l.erase p
  | none => l

/-- Originate a NOTICE of a kind (R424): at once with a token, else queued, the queue holding 16. -/
def State.notice (s : State) (kind : Nat) (code : BitVec 16) : State :=
  if !s.onChain then s else
  let p := leBytes 2 kind ++ leBytes 2 s.svc.reasons.toNat ++ leBytes 2 code.toNat ++ zeros 2 ++ leBytes 8 s.now
  if s.chainW.tokens > 0 then
    let s := s.sendFrame 4 255 p
    { s with chain := { s.chain with sent := satAdd 16 s.chain.sent 1 }, chainW := { s.chainW with tokens := s.chainW.tokens - 1 } }
  else if s.chainW.notices.length < 16 then { s with chainW := { s.chainW with notices := s.chainW.notices ++ [(kind, p)] } }
  else { s with
    chainW := { s.chainW with notices := dropNotice (s.chainW.notices ++ [(kind, p)]) }
    chain := { s.chain with dropped := satAdd 16 s.chain.dropped 1 } }

/-! ## The sump -/

/-- Places of the general area in use (R479). -/
def Sump.general (u : Sump) : Nat := (u.entries.filter (fun e => !e.fatalArea)).length
/-- Reserved FATAL places in use. -/
def Sump.fatals (u : Sump) : Nat := (u.entries.filter (fun e => e.fatalArea)).length
/-- One more entry of a severity removed or dropped (R482). -/
def Sump.lose (u : Sump) (sev : Nat) : Sump := { u with loss := u.loss.modify sev fun n => satAdd 32 n 1 }

/-- The entry among the 32 newest that a new occurrence coalesces into (R481). -/
def Sump.match (u : Sump) (code : BitVec 16) (kind index : Nat) (ch : Option Nat) : Option Nat :=
  ((u.entries.reverse.take 32).find? fun e =>
    e.code == code && e.kind == kind && e.index == index && e.chamber == ch && decide (e.count < 2 ^ 32 - 1)).map (·.seq)

/-- Put a new entry into the sump by R482: a free general place; a FATAL entry a reserved place; else the oldest of a lower severity goes;
else the new entry is dropped. -/
def Sump.place (u : Sump) (e : SumpEntry) : Sump :=
  let lowest := (u.entries.filter (fun x => !x.fatalArea)).foldl (fun m x => min m x.severity) 5
  if u.general < 1984 - u.lostPlaces then { u with entries := u.entries ++ [e] }
  else if e.severity = 4 ∧ u.fatals < 64 then { u with entries := u.entries ++ [{ e with fatalArea := true }] }
  else if lowest < e.severity then
    match u.entries.find? (fun x => !x.fatalArea && x.severity == lowest) with
    | some x => { (u.lose x.severity) with entries := u.entries.erase x ++ [e] }
    | none => u.lose e.severity
  else u.lose e.severity

/-- Record one occurrence (R481, R482). -/
def Sump.record (u : Sump) (now : Nat) (code : BitVec 16) (sev kind index : Nat) (ch : Option Nat) (d : List Byte) : Sump :=
  if sev < u.minSev then u else
  match u.match code kind index ch with
  | some q => { u with entries := u.entries.map fun e =>
      if e.seq = q then { e with count := e.count + 1, last := now, detailLast := padTo 14 d, coalesced := true } else e }
  | none =>
    ({ u with seq := u.seq + 1 }).place
      { seq := u.seq, first := now, last := now, count := 1, code := code, severity := sev, kind := kind, index := index, chamber := ch,
        coalesced := false, spilled := false, fatalArea := false, detail := padTo 14 d, detailLast := padTo 14 d }

/-- Whether the sump fill is at its watermark (R485). 0 is treated as 1. -/
def Sump.atWm (u : Sump) : Bool := decide ((if u.wm = 0 then 1 else u.wm) * 2048 ≤ u.entries.length * 100)

/-- Log one occurrence: record it, keep the fill watermark (R485), and for a FATAL entry set cause 0 and send a notice (R484). -/
def State.log (s : State) (code : BitVec 16) (sev kind index : Nat) (ch : Option Nat) (d : List Byte) : State :=
  let s := s.useTime
  let u := s.sump.record s.now code sev kind index ch d
  let crossed := !s.sump.atWm && u.atWm
  let first := crossed && !u.sumpCross
  let u := { u with
    peak := max u.peak u.entries.length, sumpCross := u.sumpCross || crossed,
    sumpCount := if crossed then min 255 (u.sumpCount + 1) else u.sumpCount }
  let u := if crossed then u.record s.now eWatermark 1 0 0 none [] else u
  let s := { s with sump := u }
  let s := if first then s.cause 1 else s
  if sev = 4 ∧ u.minSev ≤ 4 then (s.cause 0).notice 2 code else s

/-- Log a status at the severity of its class, source kind 0. -/
def State.logStatus (s : State) (st : BitVec 16) (kind index : Nat) (ch : Option Nat) (d : List Byte) : State :=
  s.log st (severityOf st) kind index ch d

/-- Log a partner's violation and set cause 6 (R67, R476). -/
def State.logPartner (s : State) (st : BitVec 16) (kind index : Nat) (ch : Option Nat) (d : List Byte) : State :=
  (s.logStatus st kind index ch d).cause 6

/-- Log an ignored write (R514), under the chamber of the page written (DEDUCED, assumption log 20). -/
def State.ignoredWrite (s : State) (addr : Nat) : State :=
  s.log eIgnoredWrite 0 0 0 (if 0x100000 ≤ addr ∧ addr < 0x300000 then some ((addr - 0x100000) / 0x10000) else none) (leBytes 4 addr)

/-! ## Replacement requests (R495, R496) -/

/-- Raise or clear bits of the replacement reasons, with the entry, cause 0 and the notice. -/
def State.setReasons (s : State) (v : BitVec 16) : State :=
  if v = s.svc.reasons then s else
  let old := s.svc.reasons
  let s := { s with svc := { s.svc with reasons := v } }
  let s := s.cause 0
  if v &&& ~~~old ≠ 0 then (s.log eReplRaised 3 0 0 none (leBytes 2 v.toNat)).notice 1 eReplRaised
  else if v = 0 then (s.log eReplCleared 1 0 0 none []).notice 3 eReplCleared
  else s

/-- Raise reason `r`. -/
def State.raise (s : State) (r : Nat) : State := s.setReasons (setBit s.svc.reasons r true)

/-- Clear reason `r`. -/
def State.unraise (s : State) (r : Nat) : State := s.setReasons (setBit s.svc.reasons r false)

/-! ## FAB_S answers -/

/-- Answer the lane of an access. -/
def State.answer (s : State) (a : Access) (err : Nat) (data : BitVec 64) : State :=
  { s with lanes := s.lanes.modify a.lane fun l => { l with ans := ⟨err, data⟩ } }

/-- Bits 4:0 of PRIV: the chamber. -/
def privCh (a : Access) : Nat := a.priv.toNat % 32

/-- Refuse an access with an ERR code, zero data, and the log of Table 7 of chapter 02, under the requester's chamber (DEDUCED,
assumption log 20). -/
def State.refuse (s : State) (a : Access) (err : Nat) : State :=
  (s.logPartner (if err = 1 then sMalformed else sForbidden) 9 a.lane (some (privCh a))
    (leBytes 2 a.src.toNat ++ leBytes 1 a.priv.toNat)).answer a err 0

/-- Bit 5 of PRIV: management. -/
def mgmt (a : Access) : Bool := bit a.priv 5

/-- Whether an access may write chamber page `ch`: only its own chamber (R55), and management where `open_` (R292, R378). -/
def ownsPage (a : Access) (ch : Nat) (open_ : Bool) : Bool := privCh a == ch || open_ && mgmt a

/-- Address of offset `off` of chamber page `ch` (R89). -/
def pageAddr (ch off : Nat) : Nat := 0x100000 + ch * 0x10000 + off

/-- A write on a lane ends a held lower half: discarded and logged (R512). -/
def State.dropHalf (s : State) (a : Access) : State :=
  match (s.lanes.get a.lane).held with
  | some (addr, _) => { (s.ignoredWrite addr) with lanes := s.lanes.modify a.lane fun l => { l with held := none } }
  | none => s

/-- A FAB_S write: none while KX_COLD_RST_N is asserted; refused with `err`; discarded and counted before READY where `page` (R74); else its
effect, answered with ERR 0 (R55). -/
def State.fabWrite (s : State) (a : Access) (err : Nat) (page : Bool) (addr : Nat) (f : State → State) : State :=
  if s.boot.resetHeld = 2 then s
  else
    let s := s.dropHalf a
    if err ≠ 0 then s.refuse a err
    else if page && s.boot.stage != .ready then (s.ignoredWrite addr).answer a 0 0
    else (f s).answer a 0 0

/-- A write to a chamber page register. -/
def State.pageWrite (s : State) (a : Access) (ch off : Nat) (open_ : Bool) (f : State → State) : State :=
  s.fabWrite a (if ownsPage a ch open_ then 0 else 3) true (pageAddr ch off) f

/-- A write to a global register (R55). -/
def State.globalWrite (s : State) (a : Access) (addr : Nat) (f : State → State) : State :=
  s.fabWrite a (if mgmt a then 0 else 3) false addr f

/-! ## Domains (R475) -/

/-- Whether domain `d` is powered and usable. -/
def State.dom (s : State) (d : Nat) : Bool := bit s.pwr.on d && !s.pwr.ramping.contains d

/-- The cost of waking a domain in tokens (Table of R75). -/
def domCost (d : Nat) : Nat := if d < 96 then (if d % 3 = 0 then 3 else 4) else if 99 ≤ d ∧ d ≤ 102 then 2 else 1

/-- Whether domain `d` is built. -/
def State.domBuilt (s : State) (d : Nat) : Bool :=
  if d < 96 then decide (d / 3 < s.stileCount) else decide (d < 111 + s.fabPorts)

/-- The tier of a queued wake (R472). -/
def domTier (d : Nat) : Nat :=
  if d < 96 then (if d % 3 = 0 then 1 else 5) else if d ≤ 98 then 2 else if 99 ≤ d ∧ d ≤ 102 then 4 else 3

/-- Insert a wake in the governor's order: tier, then index (R472). -/
def insertWake (d : Nat) : List Nat → List Nat
  | [] => [d]
  | x :: r => if domTier d < domTier x ∨ (domTier d = domTier x ∧ d < x) then d :: x :: r else x :: insertWake d r

/-- Ask the governor for a domain (R472). After SCAN_ENTER every wake is refused (R466). -/
def State.wantDom (s : State) (d : Nat) : State :=
  if bit s.pwr.on d || s.pwr.queue.contains d || s.pwr.scanned || !s.domBuilt d then s
  else { s with pwr := { s.pwr with queue := insertWake d s.pwr.queue } }

/-- Ask for several domains. -/
def State.wantDoms (s : State) (l : List Nat) : State := l.foldl State.wantDom s

/-- Every switched domain that is built. -/
def State.allDoms (s : State) : List Nat := (List.range 115).filter s.domBuilt

/-- Begin a wake from PASS or OFF: every domain is asked for; from OFF it waits for the rail (R471, R472). -/
def State.beginWake (s : State) : State :=
  if (s.pwr.state == .pass || s.pwr.state == .off) && s.boot.stage == .ready && !s.pwr.waking && !s.pwr.scanned then
    let s := { s with pwr := { s.pwr with waking := true } }
    if s.boot.kxRail then s.wantDoms s.allDoms else s
  else s

end Sys2Proof.Machine
end

