-- ==== Sys2Proof/Machine/Operands.lean ====
section
/-! DEFINITION. Every operand form: the opcodes' fields (Tables 1, 3, 9, 11, 13, 14, 17, 18 and 19 of chapter 05), the interleave map
(R47), windows, regions and handles. -/

namespace Sys2Proof.Machine

/-! ## Opcodes -/

/-- What the tables of chapter 05 say of an opcode. `group` is its row of Table 2: 0 admin, 1 regions, capture, restore, steps, sites,
2 streams, digest, sync, 3 seal and key load, 4 test, 5 Dovetail. Masks mark the bits the opcode defines. -/
structure OpInfo where
  long   : Bool
  mgmt   : Bool
  since  : Nat
  group  : Nat
  handle : Nat
  ma : Nat
  mb : Nat
  mc : Nat
  md : Nat
  me : Nat
  mf : Nat
  deriving DecidableEq, Repr

/-- Every bit of a parameter. -/
abbrev m64 : Nat := 0xFFFFFFFFFFFFFFFF

/-- The bits B and C of a feature define (Table 4 of chapter 05). -/
def featureMask (id : Nat) : Option (Nat × Nat) :=
  match id with
  | 1 => some (0xFFFF, 0)
  | 2 => some (0xFF01, 0)
  | 3 => some (m64, 0x1FFFFFF)
  | 4 => some (0xFFFF, 0)
  | 5 => some (0xFFFFFF, 0)
  | 6 => some (0xFFFF0003, 0)
  | 7 => some (0xFFFF, 0)
  | _ => none

/-- The opcodes (chapter 05). -/
def opInfo (x : Sub) : Option OpInfo :=
  match x.opcode.toNat with
  | 0x01 => some ⟨false, false, 30, 0, 0, 0x3F00FF, m64, 0, 0, 0, 0⟩
  | 0x02 => some ⟨false, false, 30, 0, 0, 0xF, 0, 0, 0, 0, 0⟩
  | 0x03 => some ⟨false, false, 30, 0, 0, 0x10F0F0FFF0F01, m64, 0, 0, 0, 0⟩
  | 0x04 => some ⟨false, false, 30, 0, 0, 0xF01, 0, 0, 0, 0, 0⟩
  | 0x05 => let m := (featureMask (fld x.a 15 0)).getD (m64, m64); some ⟨false, false, 30, 0, 0, 0xFFFF, m.1, m.2, 0, 0, 0⟩
  | 0x06 => some ⟨false, false, 30, 0, 0, 0xFFFF, 0, 0, 0, 0, 0⟩
  | 0x07 => some ⟨false, false, 30, 0, 0, 0x3F00FF, m64, m64, 0, 0, 0⟩
  | 0x08 => some ⟨true, false, 30, 0, 0, 3, 0, 0, 0, 0, 0⟩
  | 0x09 => some ⟨true, true, 30, 0, 0x3F, 0x1FFFF7F, m64, 0, 0, 0, 0⟩
  | 0x0A => some ⟨true, true, 30, 0, 0x3F, 1, 0, 0, 0, 0, 0⟩
  | 0x0B => some ⟨false, true, 30, 0, 0x1F, 0x1F3F3F07FF0FFF, 0x1FFF7FFF0001FFFF, 0xFFFF1FFF0007FFFF, 0xFFFFFFFFF0000, 0xFFFFFFFFF,
      0xFFFFFFFFFFF8F⟩
  | 0x0C => some ⟨false, false, 30, 3, 0x3F, 0x13F, m64, 0, 0, 0, 0⟩
  | 0x0D => some ⟨true, true, 30, 0, 0, 0, m64, 0xFFFFFFFF, 0, 0, 0⟩
  | 0x0E => some ⟨false, true, 30, 0, 0, 1, 0, 0, 0, 0, 0⟩
  | 0x0F => some ⟨true, true, 30, 0, 0, 7, m64, 0, 0, 0, 0⟩
  | 0x10 => some ⟨true, true, 30, 0, 0, 0x30F, 0, 0, 0, 0, 0⟩
  | 0x11 => some ⟨false, false, 30, 0, 0, 0xFFFF0F1F, 0, 0, 0, 0, 0⟩
  | 0x12 => some ⟨true, true, 30, 0, 0, 0x13F, m64, 0xFFF001F, 0, 0, 0⟩
  | 0x13 => some ⟨true, true, 32, 0, 0x1F, 0, 0, 0, 0, 0, 0⟩
  | 0x20 => some ⟨false, false, 30, 1, 0, m64, m64, m64, 0, 0, 0⟩
  | 0x21 => some ⟨false, false, 30, 1, 0xFFFF, 0, 0, 0, 0, 0, 0⟩
  | 0x22 => some ⟨true, false, 30, 1, 0x3F, 7, m64, 0xFFFF, m64, 0, 0⟩
  | 0x23 => some ⟨false, false, 30, 1, 0xFFFF, 0xFF, 0, 0, 0, 0, 0⟩
  | 0x24 => some ⟨false, false, 30, 1, 0, 0, 0, 0, 0, 0, 0⟩
  | 0x25 => some ⟨false, false, 30, 1, 0xFFFF, 0xFFFFFFFF, m64, 0, 0, 0, 0⟩
  | 0x26 => some ⟨false, false, 30, 1, 0x3F, 0x7F1F, 0xFFFFFFFF, 0xFFFFFFFF, 0, 0, 0⟩
  | 0x27 => some ⟨true, false, 32, 1, 0xFFFF, 0xFFFFF, 0, 0, 0, 0, 0⟩
  | 0x40 => some ⟨true, false, 30, 1, 0x3F, m64, m64, 0x1FFFF, 0, 0, 0⟩
  | 0x41 => some ⟨true, false, 30, 1, 0xFFFF, m64, 0xFFFFFFFF, 0, 0, 0, 0⟩
  | 0x42 => some ⟨true, false, 30, 1, 0x3F, m64, 1, 0, 0, 0, 0⟩
  | 0x43 => some ⟨true, false, 30, 1, 0x3F, m64, m64, m64, 0, 0, 0⟩
  | 0x50 => some ⟨false, false, 30, 2, 0, m64, 1, 0, 0, 0, 0⟩
  | 0x51 => some ⟨false, false, 30, 2, 0xFFFFFF, 0, 0, 0, 0, 0, 0⟩
  | 0x52 => some ⟨false, false, 30, 2, 0xFFFFFF, 0xFFFFFFFFFFFF, 0, 0, 0, 0, 0⟩
  | 0x53 => some ⟨false, false, 30, 2, 0xFFFFFF, 0, 0, 0, 0, 0, 0⟩
  | 0x54 => some ⟨true, false, 32, 5, 0, 0xF, 0, 0, 0, 0, 0⟩
  | 0x60 => some ⟨false, false, 30, 1, 7, m64, 0x31FF, 0, 0, 0, 0⟩
  | 0x61 => some ⟨false, false, 30, 1, 0, 0xFFFFFFFFFFFF, m64, 0xFFFF, 0, 0, 0⟩
  | 0x62 => some ⟨true, false, 30, 1, 0, 0, 0, 0, 0, 0, 0⟩
  | 0x63 => some ⟨false, false, 30, 1, 0, m64, 0, 0, 0, 0, 0⟩
  | 0x64 => some ⟨true, false, 30, 1, 0, 0, m64, 0xFFFFFFFF, 0, 0, 0⟩
  | 0x65 => some ⟨false, false, 30, 1, 0, 0, 0, 0, 0, 0, 0⟩
  | 0x66 => some ⟨true, false, 30, 1, 0, 0, 0, 0, 0, 0, 0⟩
  | 0x67 => some ⟨true, false, 32, 1, 0xFFFF, 1, m64, 0, 0, 0, 0⟩
  | 0x70 => some ⟨true, false, 31, 1, 0, m64, 0xF, 0, 0, 0, 0⟩
  | 0x71 => some ⟨true, false, 31, 1, 0, 0xFFFFFFFF, 0, 0, 0, 0, 0⟩
  | 0x72 => some ⟨true, false, 31, 1, 0, 0xFFFFFFFF, m64, 7, 0, 0, 0⟩
  | 0x73 => some ⟨false, false, 31, 1, 0x3F, 0x3F03, m64, m64, 0xFFFFFF, 0, 0⟩
  | 0x74 => some ⟨true, false, 31, 1, 0xFFFF, m64, m64, 0, 0, 0, 0⟩
  | 0x80 => some ⟨true, false, 30, 2, 0, 3, m64, 0xFFFFFFFFFF, m64, 0, 0⟩
  | 0x81 => some ⟨true, false, 30, 2, 0, 0x1F03, m64, 0xFFFFFFFFFF, m64, 0, 0⟩
  | 0x82 => some ⟨true, false, 30, 3, 0x3F, 0, m64, m64, 0x1FFFFFFFFF, m64, 0xFFFF⟩
  | 0x83 => some ⟨true, false, 30, 3, 0x3F, 0, m64, m64, 0x1FFFFFFFFF, m64, 0xFFFF⟩
  | 0x84 => some ⟨false, false, 30, 2, 0x1F, m64, 0xFFFF, 0, 0, 0, 0⟩
  | 0xA0 => some ⟨false, false, 30, 2, 0, 0x1FFFF, m64, 0, 0, 0, 0⟩
  | 0xA1 => some ⟨false, false, 30, 2, 0x3FFF, 0xFFFF, 0, 0, 0, 0, 0⟩
  | 0xA2 => some ⟨false, false, 30, 2, 0x3FFF, m64, 0xFF, 0, 0, 0, 0⟩
  | 0xA3 => some ⟨false, false, 30, 2, 0x3FFF, m64, 1, m64, m64, 0, 0⟩
  | 0xA4 => some ⟨false, false, 30, 2, 0xFFFF, 0, 0, 0, 0, 0, 0⟩
  | 0xA5 => some ⟨true, false, 30, 2, 0xFF, 0x1FFFF, 0xFFFFFFFF, 0, 0, 0, 0⟩
  | n => if 0xF0 ≤ n then some ⟨false, false, 30, 4, 0xFFFFFFFF, m64, m64, m64, m64, m64, m64⟩ else none

/-- The opcodes that may be Dovetail stages (R131). -/
def isStage (op : Nat) : Bool :=
  [0x41, 0x27, 0x67, 0x62, 0x64, 0x70, 0x71, 0x74, 0x80, 0x81, 0x82, 0x83, 0xA2].contains op

/-- The byte form of an entry (Table 2 of chapter 04). -/
def subBytes (x : Sub) : List Byte :=
  [x.opcode, x.flags] ++ leBytes 2 x.cid.toNat ++ leBytes 4 x.handle.toNat ++ leBytes 8 x.statusAddr.toNat ++ leBytes 8 x.a.toNat ++
    leBytes 8 x.b.toNat ++ leBytes 8 x.c.toNat ++ leBytes 8 x.d.toNat ++ leBytes 8 x.e.toNat ++ leBytes 8 x.f.toNat

/-- The entry 64 bytes spell. -/
def subOfBytes (ch q : Nat) (l : List Byte) : Sub :=
  { chamber := ch, sq := q, opcode := BitVec.ofNat 8 (leAt l 0 1), flags := BitVec.ofNat 8 (leAt l 1 1), cid := BitVec.ofNat 16 (leAt l 2 2),
    handle := BitVec.ofNat 32 (leAt l 4 4), statusAddr := BitVec.ofNat 64 (leAt l 8 8), a := BitVec.ofNat 64 (leAt l 16 8),
    b := BitVec.ofNat 64 (leAt l 24 8), c := BitVec.ofNat 64 (leAt l 32 8), d := BitVec.ofNat 64 (leAt l 40 8),
    e := BitVec.ofNat 64 (leAt l 48 8), f := BitVec.ofNat 64 (leAt l 56 8) }

/-- The twin entry 32 bytes spell (Table 20 of chapter 05). -/
def twinOfBytes (ch q : Nat) (second : Bool) (l : List Byte) : Twin :=
  { chamber := ch, sq := q, second := second, opcode := BitVec.ofNat 8 (leAt l 0 1), flags := BitVec.ofNat 8 (leAt l 1 1),
    cid := BitVec.ofNat 16 (leAt l 2 2), handle := BitVec.ofNat 32 (leAt l 4 4), p0 := BitVec.ofNat 64 (leAt l 8 8),
    p1 := BitVec.ofNat 64 (leAt l 16 8), p2 := BitVec.ofNat 64 (leAt l 24 8) }

/-- Flag bits of an entry. -/
def fence (x : Sub) : Bool := bit x.flags 0
def linked (x : Sub) : Bool := bit x.flags 1
def priority (x : Sub) : Bool := bit x.flags 2
def extStatus (x : Sub) : Bool := bit x.flags 3

/-- The internal slot of a command: command_id[8:0] (R96). -/
def slotOf (x : Sub) : Nat := x.cid.toNat % 512

/-! ## The mode word (Table 6 of chapter 05) -/

def Chamber.incremental (c : Chamber) : Bool := bit c.mode 0
def Chamber.immediate (c : Chamber) : Bool := bit c.mode 1
def Chamber.creditMode (c : Chamber) : Bool := bit c.mode 2
def Chamber.flow (c : Chamber) : Bool := bit c.mode 3
def Chamber.sealed (c : Chamber) : Bool := bit c.mode 4
/-- 0 NONE, 1 RESIDENT, 2 TIERED. -/
def Chamber.offload (c : Chamber) : Nat := fld c.mode 6 5
def Chamber.guarded (c : Chamber) : Bool := bit c.mode 7
/-- 0 OFF, 1 ELECTED, 2 ELECTED_DIRECTORY. -/
def Chamber.dedup (c : Chamber) : Nat := fld c.mode 9 8
/-- 0 OFF, 1 EMIT, 2 EMIT_APPLY. -/
def Chamber.siteMode (c : Chamber) : Nat := fld c.mode 11 10
def Chamber.weight (c : Chamber) : Nat := fld c.mode 19 16 + 1
def Chamber.store (c : Chamber) : Nat := fld c.mode 25 20
def Chamber.storeValid (c : Chamber) : Bool := bit c.mode 26
def Chamber.keyActive (c : Chamber) : Nat := fld c.mode 37 32
def Chamber.keySecond (c : Chamber) : Nat := fld c.mode 45 40
def Chamber.sg (c : Chamber) : Nat := fld c.mode 52 48

/-! ## The interleave map (R47) -/

/-- Mask `i` of an entry. -/
def IlvEntry.mask (e : IlvEntry) : Nat → BitVec 36
  | 0 => e.mask0 | 1 => e.mask1 | 2 => e.mask2 | 3 => e.mask3 | 4 => e.mask4 | _ => 0

/-- Whether an entry covers granule `g`. -/
def IlvEntry.covers (e : IlvEntry) (g : Nat) : Bool :=
  e.valid && decide (e.base.toNat ≤ g) && decide (g < e.base.toNat + 2 ^ e.log2Size.toNat)

/-- The parity of a word. -/
def parity (v : BitVec 36) : Bool := (List.range 36).foldl (fun p i => p != v.getLsbD i) false

/-- The bits of `v` that `keep` selects, packed towards bit 0. -/
def packBits (keep v : BitVec 36) : Nat :=
  ((List.range 36).foldl (fun (r : Nat × Nat) i => if keep.getLsbD i then (r.1 + b2n (v.getLsbD i) * 2 ^ r.2, r.2 + 1) else r) (0, 0)).1

/-- The stile of a granule under an entry. -/
def IlvEntry.stileOf (e : IlvEntry) (g : Nat) : Nat :=
  let rel := BitVec.ofNat 36 (g - e.base.toNat)
  e.stileBase.toNat + (List.range e.width.toNat).foldl (fun n i => n + b2n (parity (rel &&& e.mask i)) * 2 ^ i) 0

/-- The local index of a granule under an entry. -/
def IlvEntry.localOf (e : IlvEntry) (g : Nat) : Nat :=
  e.localBase.toNat + packBits e.keep (BitVec.ofNat 36 (g - e.base.toNat))

/-- The stile and local index of granule `g`; none outside every valid entry, or while the table is not locked. -/
def State.place (s : State) (g : Nat) : Option (Nat × Nat) :=
  if !s.port.ilvLocked then none else
  (List.range 16).findSome? fun n =>
    let e := s.port.ilv.get n
    if e.covers g then some (e.stileOf g, e.localOf g) else none

/-! ## Windows and regions -/

/-- Whether granules [lo, hi) lie in the valid windows of a chamber, walking from window to window. -/
def coverFrom (ws : List Win) : Nat → Nat → Nat → Bool
  | 0, lo, hi => decide (hi ≤ lo)
  | k + 1, lo, hi =>
    if hi ≤ lo then true
    else match ws.find? (fun w => w.valid && decide (w.base ≤ lo) && decide (lo < w.limit)) with
      | some w => coverFrom ws k w.limit hi
      | none => false

/-- The eight windows of a chamber. -/
def Chamber.winList (c : Chamber) : List Win := (List.range 8).map c.wins.get

/-- Whether bytes [a, a + n) lie in the chamber's windows (R121). -/
def State.inWin (s : State) (ch a n : Nat) : Bool :=
  coverFrom (s.ch ch).winList 8 (a / 65536) (ceilDiv (a + max n 1) 65536)

/-- The region of an ID. -/
def State.region (s : State) (r : Nat) : Option Region := s.regions.get r

/-- The chamber's regions, by ascending ID. -/
def State.regionsOf (s : State) (ch : Nat) : List (Nat × Region) :=
  s.regions.entries.filterMap fun p => match p.2 with
    | some r => if r.chamber = ch then some (p.1, r) else none
    | none => none

/-- Granules of a region. -/
def Region.granules (r : Region) : Nat := r.bytes / 65536

/-- Two ranges [a, b) and [c, d) meet. -/
def meets (a b c d : Nat) : Bool := decide (a < d) && decide (c < b)

/-- Whether granules [lo, hi) meet any region of any chamber. -/
def State.meetsRegion (s : State) (lo hi : Nat) : Bool :=
  s.regions.entries.any fun p => match p.2 with
    | some r => meets lo hi (r.base) (r.base + r.granules)
    | none => false

/-- Whether granules [lo, hi) meet any chamber's reserve. -/
def State.meetsReserve (s : State) (lo hi : Nat) : Bool :=
  s.chambers.entries.any fun p => meets lo hi p.2.rsvBase (p.2.rsvBase + p.2.rsvSize)

/-- Whether granules [lo, hi) meet a chamber's SDX rings or site area. -/
def State.meetsSite (s : State) (ch lo hi : Nat) : Bool :=
  let u := (s.un ch).site
  (u.peers.entries.any fun p => p.2.used &&
    (meets (lo * 65536) (hi * 65536) p.2.rxBase (p.2.rxBase + p.2.pages * 4096) ||
     meets (lo * 65536) (hi * 65536) p.2.txBase (p.2.txBase + p.2.pages * 4096)))

/-! ## Element types and slices (Table 16 of chapter 05, R142) -/

/-- Bytes of an element. -/
def elemSize (t : Nat) : Nat := if t = 2 then 4 else if t ≤ 1 then 2 else 1

/-- E: elements of a granule. -/
def perGranule (t : Nat) : Nat := 65536 / elemSize t

/-- The product of a list. -/
def prod (l : List Nat) : Nat := l.foldl (· * ·) 1

end Sys2Proof.Machine

namespace Sys2Proof

open Sys2Proof.Machine

/-- Elements of a member's slice. -/
def Coord.elems (c : Coord) : Nat := prod (c.sizes.take c.rank)

/-- Leaves of a member (R142). -/
def Coord.leaves (c : Coord) : Nat := ceilDiv c.elems (perGranule c.elemType)

/-- Elements of leaf `k`. -/
def Coord.leafElems (c : Coord) (k : Nat) : Nat := min (perGranule c.elemType) (c.elems - k * perGranule c.elemType)

/-- Whether a request counts as a capture write (Table 3 of chapter 02). -/
def HReq.captureWrite (r : HReq) : Bool :=
  match r.op.toNat with
  | 0 => false | 4 => false | 1 => r.be.any id | _ => true

/-- Beats of a request. -/
def HReq.beats (r : HReq) : Nat := if r.two then 2 else 1

/-- Tensor ID of member `m`. -/
def Coord.tensor (c : Coord) (m : Nat) : BitVec 32 := c.tensorId + c.idStep * BitVec.ofNat 32 m

end Sys2Proof

namespace Sys2Proof.Machine

/-- The host address of byte 0 of member `m`. -/
def Region.memberBase (r : Region) (m : Nat) : Nat := r.base * 65536 + m * r.coord.stride

/-- The granule of leaf `k` of member `m`. -/
def Region.leafGranule (r : Region) (m k : Nat) : Nat := r.base + m * (r.coord.stride / 65536) + k

/-- Every (member, leaf) of a region, in order. -/
def Region.leafList (r : Region) : List (Nat × Nat) :=
  (List.range r.coord.members).flatMap fun m => (List.range r.coord.leaves).map fun k => (m, k)

/-- The ordinal of a granule among the granules TIER_PLACE moves (R323). -/
def Region.ordinal (r : Region) (g : Nat) : Nat := g - r.base

/-- The address that now holds byte `o` of the region's granule `g`: its slow-tier place once moved (R256). -/
def Region.addrOf (r : Region) (g o : Nat) : Nat :=
  if r.slow.get (r.ordinal g) then r.slowBase + r.ordinal g * 65536 + o else g * 65536 + o

/-! ## The site area (R355-R357) -/

/-- Site blocks of a region under an anchor type. -/
def Region.siteBlocks (r : Region) (t : Nat) : Nat := r.coord.members * ceilDiv r.coord.elems (perGranule t)

/-- Granules of the accumulator part, and of the outer-state part where kept. -/
def accGranules (n t : Nat) (acc : Bool) : Nat := if acc then n * 4 / elemSize t else 0

/-- Granules of a site area of `n` blocks (Table 1 of chapter 13). -/
def areaGranules (n t : Nat) (acc outer : Bool) : Nat :=
  2 * n + accGranules n t acc + accGranules n t (acc && outer) + ceilDiv (64 * n) 65536

/-! ## Handles -/

/-- The object an object ID names (R120). -/
def objChamber (o : BitVec 64) : Nat := fld o 63 59
def objStore (o : BitVec 64) : Nat := fld o 58 53
def objSerial (o : BitVec 64) : Nat := fld o 52 0
/-- The object ID of a chamber, store and serial. -/
def objId (ch st serial : Nat) : BitVec 64 := BitVec.ofNat 64 (ch % 32 * 2 ^ 59 + st % 64 * 2 ^ 53 + serial % 2 ^ 53)

/-- The mounted store of a handle. -/
def State.mounted (s : State) (h : Nat) : Option Media :=
  match s.sto.mount.get h with
  | some i => s.sto.media[i]?
  | none => none

/-- Change the media mounted at a handle. -/
def State.onMedia (s : State) (h : Nat) (f : Media → Media) : State :=
  match s.sto.mount.get h with
  | some i => match s.sto.media[i]? with
    | some m => { s with sto := { s.sto with media := s.sto.media.set i (f m) } }
    | none => s
  | none => s

/-- The open stream a 24-bit handle names, with its index. -/
def streamOf (s : State) (v : Nat) : Option (Nat × Stm) :=
  let i := v % 2 ^ 18
  let t := s.trk.stm.get i
  if t.isOpen && t.gen == v / 2 ^ 18 % 64 then some (i, t) else none

end Sys2Proof.Machine
end

