-- ==== Sys2Proof/Machine/Queue.lean ====
section
/-! DEFINITION. The command engine: status words (R96-R98), completions (R94, R95), submission checks (R108), violations and quarantine
(R109-R111), the clamp table (R104-R106), and how a command row runs a command. -/

namespace Sys2Proof.Machine

/-! ## Where a command stands -/

/-- Whether `c` is the command of this entry. -/
def isCmd (x : Sub) (c : Cmd) : Bool := c.sub.chamber == x.chamber && c.sub.sq == x.sq && c.sub.cid == x.cid

/-- The accepted command of an entry. -/
def State.cmd? (s : State) (x : Sub) : Option Cmd := s.cmds.find? (isCmd x)

/-- The accepted command of a chamber, SQ and ID. -/
def State.cmdAt (s : State) (ch q : Nat) (cid : BitVec 16) : Option Cmd :=
  s.cmds.find? fun c => c.sub.chamber == ch && c.sub.sq == q && c.sub.cid == cid

/-- Change the accepted command of an entry. -/
def State.onCmd (s : State) (x : Sub) (f : Cmd → Cmd) : State :=
  { s with cmds := s.cmds.map fun c => if isCmd x c then f c else c }

/-- Whether an opcode is long. -/
def isLong (x : Sub) : Bool := match opInfo x with | some i => i.long | none => false

/-- Whether the service answers commands: READY, CC1 not halted, no reset asserted, not in OFF (R465, R468). -/
def State.serving (s : State) : Bool :=
  s.boot.stage == .ready && s.boot.resetHeld == 0 && s.pwr.state != .off && !bit s.life.halted (s.svc.active - 1)

/-- The status word (Table 4 of chapter 04). -/
def statusWord (phase : Nat) (final : BitVec 16) (units : Nat) : BitVec 64 :=
  BitVec.ofNat 64 (phase * 2 ^ 60 + final.toNat * 2 ^ 44 + units % 2 ^ 40)

/-- Write a long command's partial words and then its status word, to its slot or its external block (R96, R97). A twin has none (R138). -/
def State.putStatus (s : State) (x : Sub) (twin : Bool) (phase : Nat) (final : BitVec 16) (units : Nat) (res : List (BitVec 64)) : State :=
  if !isLong x || twin then s
  else if extStatus x then
    let s := s.poke (x.statusAddr.toNat + 8) ((res.take 7).flatMap fun w => leBytes 8 w.toNat)
    s.poke x.statusAddr.toNat (leBytes 8 (statusWord phase final units).toNat)
  else s.onCh x.chamber fun c => { c with slots := c.slots.modify (slotOf x) fun t =>
    { word := statusWord phase final units, res := (res ++ t.res.drop res.length).take 7, owner := some (x.sq, x.cid) } }

/-- Whether a status is a completion and not a failure (R98). -/
def isDone (st : BitVec 16) : Bool := st == sOk || st == sOkPartial || st == sDegraded || st == sApplyNonfinite

/-- The terminal phase of a status (R97, R98). -/
def termPhase (st : BitVec 16) : Nat := if isDone st then 4 else if st = sAborted then 6 else 5

/-- Release every clamp a command holds (R106). -/
def State.unclamp (s : State) (x : Sub) : State :=
  { s with clamps := s.clamps.filter fun k => !(k.chamber == x.chamber && k.owner == some (x.sq, x.cid)) }

/-! ## The veneer's statuses (Table 22 of chapter 05) -/

/-- The Krytra 2 status of a native status, and the KCQ status in the completion. -/
def k2Status (st : BitVec 16) : Nat × BitVec 16 :=
  if st = sOk ∨ st = sOkPartial ∨ st = sDegraded then (0x00, sOk)
  else if st = sInvalidOpcode then (0x01, sInvalidOpcode)
  else if st = sInvalidField ∨ st = sReservedBit ∨ st = sVersion then (0x02, sInvalidField)
  else if st = sCaptureBusy ∨ st = sNotInState then (0x03, sNotInState)
  else if st = sAborted ∨ st = sStreamCancelled then (0x04, sAborted)
  else if st = sRegionFull ∨ st = sStoreFull ∨ st = sReserveExhausted then (0x05, sStoreFull)
  else if st = sStreamIds ∨ st = sSyncExhausted then (0x06, sStreamIds)
  else if st = sRegionOverlap then (0x07, sRegionOverlap)
  else if st = sFlowDamaged ∨ st = sCheckMismatch ∨ st = sManifestMismatch then (0x08, sCheckMismatch)
  else if st = sAuthFailed then (0x09, sAuthFailed)
  else if st = sMediaError then (0x0A, sMediaError)
  else if st = sKeyEmpty ∨ st = sKeyWorn then (0x0B, sKeyEmpty)
  else if st = sWrongChamber ∨ st = sForbidden ∨ st = sLampDenied then (0x0C, sForbidden)
  else if st = sTimeout ∨ st = sDepTimeout then (0x0D, sTimeout)
  else if st = sLengthLimit then (0x0E, sLengthLimit)
  else (0x0F, sMalformed)

/-- The result of a twin's completion: the Krytra 2 status above bits [55:0] of the native result (R138). -/
def k2Result (st : BitVec 16) (r : BitVec 64) : BitVec 64 :=
  BitVec.ofNat 64 ((k2Status st).1 * 2 ^ 56 + r.toNat % 2 ^ 56)

/-! ## Completions and quarantine -/

/-- A dispatch journal record (R491): 0 dispatched, 1 effect applied, 2 completion posted. -/
def State.jot (s : State) (ch q : Nat) (cid : BitVec 16) (kind : Nat) : State :=
  { s with svc := { s.svc with journal := s.svc.journal ++ [(ch, q, cid, kind)] } }

/-- Queue a completion for posting. A twin's is mapped, its native status logged (R139). -/
def State.pushFin (s : State) (x : Sub) (twin : Bool) (st : BitVec 16) (result : BitVec 64) : State :=
  if twin then
    let s := s.logStatus st 1 (x.chamber * 32 + x.sq) (some x.chamber) (leBytes 2 x.cid.toNat ++ leBytes 2 st.toNat)
    { s with fins := s.fins ++ [⟨x.chamber, x.sq, x.cid, (k2Status st).2, k2Result st result⟩] }
  else { s with fins := s.fins ++ [⟨x.chamber, x.sq, x.cid, st, result⟩] }

/-- Quarantine SQ `q` of a chamber: its undispatched commands complete with PARTNER_QUARANTINED (R111). -/
def State.quarSq (s : State) (ch q : Nat) : State :=
  if ((s.ch ch).sqs.get q).quar then s else
  let dead := (s.ch ch).fetched.filter fun f => f.sub.sq == q && !f.dead
  let s := s.onSq ch q fun t => { t with quar := true }
  let s := s.onCh ch fun c => { c with fetched := c.fetched.filter fun f => f.sub.sq != q }
  let s := dead.foldl (fun s f => s.pushFin f.sub (f.raw.length == 32) sQuarantined 0) s
  s.logPartner sQuarantined 1 (ch * 32 + q) (some ch) []

/-- Quarantine CQ `q` of a chamber; with `all`, every SQ bound to it (R109, R111). -/
def State.quarCq (s : State) (ch q : Nat) (all : Bool) : State :=
  if ((s.ch ch).cqs.get q).quar then s else
  let s := s.onCq ch q fun t => { t with quar := true }
  let s := s.logPartner sQuarantined 1 (ch * 32 + 16 + q) (some ch) []
  if all then (List.range 16).foldl (fun s i =>
    let t := (s.ch ch).sqs.get i
    if t.enable && t.cq == q then s.quarSq ch i else s) s
  else s

/-- The threshold in use: 0 is treated as 1 (CHM_FAULT). -/
def Chamber.limit (c : Chamber) : Nat := max c.threshold.toNat 1

/-- One violation against an SQ (R110, R111). -/
def State.violSq (s : State) (ch q : Nat) : State :=
  let s := s.onSq ch q fun t => { t with viol := t.viol + 1 }
  if ((s.ch ch).sqs.get q).viol ≥ (s.ch ch).limit then s.quarSq ch q else s

/-- One violation against a CQ. -/
def State.violCq (s : State) (ch q : Nat) : State :=
  let s := s.onCq ch q fun t => { t with viol := t.viol + 1 }
  if ((s.ch ch).cqs.get q).viol ≥ (s.ch ch).limit then s.quarCq ch q false else s

/-- An access to another chamber's sync state counts for its owner (R344). -/
def State.syncForbid (s : State) (owner : Nat) : State := s.onUn owner fun u => { u with forbidden := satAdd 16 u.forbidden 1 }

/-- The chamber that owns the sync object or watch an entry names. -/
def State.syncOwner (s : State) (x : Sub) : Option Nat :=
  if x.opcode = 0xA4 then
    let w := s.sync.watches.get (x.handle.toNat % 4096)
    if w.used then some w.chamber else none
  else if x.opcode = 0xA1 ∨ x.opcode = 0xA2 ∨ x.opcode = 0xA3 then
    let o := s.sync.objs.get x.handle.toNat
    if o.alloc then some o.chamber else none
  else none

/-- A completion of R107: logged as PARTNER_MALFORMED with chamber, SQ and ID, one violation for the SQ. -/
def State.noteRefusal (s : State) (x : Sub) (st : BitVec 16) : State :=
  if isRefusal st then
    (s.logPartner sMalformed 1 (x.chamber * 32 + x.sq) (some x.chamber)
      (leBytes 1 x.chamber ++ leBytes 1 x.sq ++ leBytes 2 x.cid.toNat)).violSq x.chamber x.sq
    |> fun t => match if st = sForbidden then s.syncOwner x else none with
      | some o => if o = x.chamber then t else t.syncForbid o
      | none => t
  else s

/-- Complete an entry that was never accepted (R97). -/
def State.refuseSub (s : State) (x : Sub) (twin : Bool) (st : BitVec 16) (desc : BitVec 64) : State :=
  (s.pushFin x twin st (if isRefusal st then desc else 0)).noteRefusal x st

/-- A stream is bound to a command only while it runs (R269). -/
def State.unbind (s : State) (x : Sub) : State :=
  let free (i : Nat) (r : StmRun) : StmRun :=
    if r.bound = some (x.sq, x.cid) ∧ (s.trk.stm.get i).chamber = x.chamber then { r with bound := none } else r
  { s with trk := { s.trk with run := s.trk.run.mapKeys free } }

/-- End an accepted command: clamps released, terminal status word, then its completion (R97, R98, R106). -/
def State.finish (s : State) (x : Sub) (phase : Nat) (st : BitVec 16) (result : BitVec 64) (units : Nat) (res : List (BitVec 64)) : State :=
  match s.cmd? x with
  | none => s
  | some c =>
    let u := max c.units units
    let s := { s with cmds := s.cmds.filter fun d => !isCmd x d }
    let s := (s.unclamp x).unbind x
    let s := s.putStatus x c.twin phase st u (if res.isEmpty then c.res else res)
    (s.pushFin x c.twin st result).noteRefusal x st

/-! ## Submission checks (R108) -/

/-- Whether the negotiated version assigns an element that begins with version `v` (R112, R113). -/
def State.hasVersion (s : State) (x : Sub) (v : Nat) : Bool :=
  let c := s.ch x.chamber
  c.veneer || !c.negotiated && v == 30 || decide (v ≤ c.major * 10 + c.minor)

/-- Whether a lifecycle state grants manual jig, EXTEST and the test opcodes (Table 1 of chapter 17). -/
def Life.grants (l : Life) : Bool := l == .manuf || l == .ret

/-- Whether a test opcode is assigned: in MANUF and RETURN, of two combined states in both (R108, R123, R452). -/
def State.testOps (s : State) : Bool :=
  s.life.life.grants && (match s.life.pending with | some t => t.grants | none => true)

/-- Acceptance by lifecycle and power state (Table 2 of chapter 05). -/
def State.accepts (s : State) (x : Sub) : Bool :=
  match opInfo x with
  | none => false
  | some i =>
    let life := match i.group with
      | 1 => s.life.life != .ret && s.life.pending != some .ret
      | 3 => s.life.life != .ret && s.life.pending != some .ret
      | _ => true
    let pass := x.opcode == 0x01 || x.opcode == 0x05 || x.opcode == 0x06 || x.opcode == 0x07 || x.opcode == 0x11
    life && (s.pwr.state != .pass || pass)

/-- The first reserved bit of an entry that is set, as (byte, bit). -/
def State.reservedBit (s : State) (x : Sub) (i : OpInfo) : Option (Nat × Nat) :=
  let fmask := 0x05 + (if s.hasVersion x 31 then 8 else 0) + (if s.hasVersion x 32 then 2 else 0)
  let extra (v m : Nat) : Nat := v &&& (m64 - m)
  let l := leBytes 1 0 ++ leBytes 1 (extra x.flags.toNat fmask) ++ leBytes 2 0 ++ leBytes 4 (extra x.handle.toNat i.handle) ++ leBytes 8 0 ++
    leBytes 8 (extra x.a.toNat i.ma) ++ leBytes 8 (extra x.b.toNat i.mb) ++ leBytes 8 (extra x.c.toNat i.mc) ++
    leBytes 8 (extra x.d.toNat i.md) ++ leBytes 8 (extra x.e.toNat i.me) ++ leBytes 8 (extra x.f.toNat i.mf)
  firstSet l 0 64

/-- Whether the SQ has a command of this ID whose completion has not been consumed (R108). -/
def State.idInUse (s : State) (x : Sub) : Bool :=
  (s.cmds.any (isCmd x)) || (s.fins.any fun f => f.chamber == x.chamber && f.sq == x.sq && f.cid == x.cid) ||
    ((List.range 16).any fun q => ((s.ch x.chamber).cqs.get q).posted.contains (x.sq, x.cid))

/-- Whether internal slot k is held by a command whose completion has not been consumed (R98, R99). -/
def State.slotBusy (s : State) (x : Sub) : Bool :=
  match ((s.ch x.chamber).slots.get (slotOf x)).owner with
  | none => false
  | some (q, id) => s.idInUse { x with sq := q, cid := id }

/-- Region IDs a list of `n` 2-byte entries names. -/
def State.idList (s : State) (a n : Nat) : List Nat := (List.range n).map fun i => leNat (s.peek (a + 2 * i) 2)

/-- Whether the chamber owns region `r`. -/
def State.ownsRegion (s : State) (ch r : Nat) : Bool :=
  match s.region r with | some g => g.chamber == ch | none => false

/-- Order 8 of Table 7: the byte of a handle or address outside the chamber's objects or windows (R119, R121). The region IDs of a list
that is not 8-byte aligned are not read: order 9 answers it. -/
def State.outside (s : State) (x : Sub) : Option Nat :=
  let ch := x.chamber
  let h := x.handle.toNat
  let buf (v : BitVec 64) (n byteNo : Nat) : Option Nat := if s.inWin ch v.toNat n then none else some byteNo
  let orElse (a b : Option Nat) : Option Nat := match a with | some k => some k | none => b
  let region : Option Nat := if s.ownsRegion ch h then none else some 4
  let list (v : BitVec 64) (n : Nat) : Option Nat :=
    if v = 0 then none else orElse (buf v (2 * n) 24) (if v.toNat % 8 ≠ 0 ∨ (s.idList v.toNat n).all (s.ownsRegion ch) then none else some 24)
  let obj : Option Nat := if (s.sync.objs.get h).alloc && (s.sync.objs.get h).chamber == ch then none else some 4
  match x.opcode.toNat with
  | 0x01 => buf x.b 4096 24
  | 0x03 => buf x.b ((fld x.a 27 16 + 1) * (if bit x.a 0 then 16 else 64)) 24
  | 0x07 => buf x.b (fld x.c 31 0) 24
  | 0x09 => buf x.b (8 * fld x.a 6 0) 24
  | 0x0B => if fld x.f 3 0 = 0 then none else buf (BitVec.ofNat 64 (fld x.f 51 7 * 128)) (16 * fld x.f 3 0) 56
  | 0x0C => if h / 2 ≠ ch then some 4 else if bit x.a 8 then none else if fld x.a 5 0 / 2 ≠ ch then some 16 else buf x.b 60 24
  | 0x0D => buf x.b (fld x.c 31 0) 24
  | 0x0F => if fld x.a 2 0 = 3 ∨ fld x.a 2 0 = 4 then buf x.b 128 24 else none
  | 0x20 => orElse (buf x.a x.b.toNat 16) (buf x.c 256 32)
  | 0x21 => region | 0x23 => region | 0x25 => region
  | 0x22 => list x.b (fld x.c 15 0)
  | 0x27 => orElse region (if s.ownsRegion ch (fld x.a 15 0) then none else some 16)
  | 0x40 => list x.b (fld x.c 15 0)
  | 0x41 => region
  | 0x43 => buf x.b (fld x.c 31 0) 24
  | 0x50 => buf x.a 32 16
  | 0x51 => if (s.trk.stm.get (h % 2 ^ 18)).chamber == ch then none else some 4
  | 0x52 => if (s.trk.stm.get (h % 2 ^ 18)).chamber == ch then none else some 4
  | 0x53 => if (s.trk.stm.get (h % 2 ^ 18)).chamber == ch then none else some 4
  | 0x60 => buf x.a (4 * fld x.b 8 0) 16
  | 0x61 => buf x.b (128 + 64 * fld x.c 15 0) 24
  | 0x64 => if x.b = 0 then none else buf x.b (8 * fld x.c 31 0) 24
  | 0x67 => orElse region (if bit x.a 0 then
      match s.region h with | some r => buf x.b r.bytes 24 | none => some 4
    else none)
  | 0x70 => buf x.a 65536 16
  | 0x73 => orElse (buf x.b (fld x.d 23 0 * 4096) 24) (buf x.c (fld x.d 23 0 * 4096) 32)
  | 0x74 => orElse (if h = 0 then none else region) (buf x.b 48 24)
  | 0x80 => orElse (if x.c = 0 then none else buf x.b (fld x.c 39 0) 24) (buf x.d 64 40)
  | 0x81 => if fld x.a 12 8 ≠ ch then some 17 else orElse (if x.c = 0 then none else buf x.b (fld x.c 39 0) 24) (buf x.d 64 40)
  | 0x82 => if h / 2 ≠ ch then some 4 else orElse (orElse (if x.d = 0 then none else buf x.b (fld x.d 36 0) 24)
      (buf x.c (fld x.d 36 0 + 28) 32)) (if x.e = 0 then none else buf x.e (fld x.f 15 0) 48)
  | 0x83 => if h / 2 ≠ ch then some 4 else orElse (orElse (buf x.b (fld x.d 36 0 + 28) 24)
      (if x.d = 0 then none else buf x.c (fld x.d 36 0) 32)) (if x.e = 0 then none else buf x.e (fld x.f 15 0) 48)
  | 0x84 => if h < 8 ∨ (ch ≠ 0 ∧ h ≠ (s.ch ch).sg) then some 4 else buf x.a (fld x.b 15 0) 16
  | 0xA1 => if (List.range (fld x.a 15 0)).all (fun i => let o := s.sync.objs.get (h + i); o.alloc && o.chamber == ch) then none else some 4
  | 0xA2 => if fld x.b 7 0 = 0 ∨ fld x.b 7 0 = s.chain.address then obj else none
  | 0xA3 => orElse obj (if x.c = 0 then none else buf x.c 8 32)
  | 0xA4 => let w := s.sync.watches.get (h % 4096); if w.used && w.chamber != ch then some 4 else none
  | _ => none

/-- Order 9 of Table 7: the byte of a parameter value out of range. -/
def badValue (x : Sub) : Option Nat :=
  let al (v : BitVec 64) (n byteNo : Nat) : Option Nat := if v.toNat % n = 0 then none else some byteNo
  let orElse (a b : Option Nat) : Option Nat := match a with | some k => some k | none => b
  let req (ok : Bool) (byteNo : Nat) : Option Nat := if ok then none else some byteNo
  match x.opcode.toNat with
  | 0x01 => orElse (req (fld x.a 7 0 ≤ 3) 16) (al x.b 4096 24)
  | 0x03 => orElse (req (1 ≤ fld x.a 11 8) 17) (orElse (req (1 ≤ fld x.a 27 16) 18) (al x.b 4096 24))
  | 0x04 => req (1 ≤ fld x.a 11 8) 17
  | 0x05 => req (featureMask (fld x.a 15 0)).isSome 16
  | 0x06 => req (featureMask (fld x.a 15 0)).isSome 16
  | 0x07 => orElse (req (fld x.a 7 0 ≤ 5) 16) (orElse (al x.b 4096 24) (req (fld x.c 31 0 % 4096 = 0) 32))
  | 0x08 => req (fld x.a 1 0 = 1 ∨ fld x.a 1 0 = 2) 16
  | 0x09 => orElse (req (1 ≤ fld x.a 6 0 ∧ fld x.a 6 0 ≤ 64) 16) (orElse (req (bit x.a 24 ∨ fld x.a 15 8 = 2 ∨ fld x.a 15 8 = 3) 17)
      (orElse (req (bit x.a 24 ∨ (4 ≤ fld x.a 23 16 ∧ fld x.a 23 16 ≤ 12)) 18) (al x.b 8 24)))
  | 0x0C => if bit x.a 8 then none else al x.b 64 24
  | 0x0D => al x.b 4096 24
  | 0x0F => orElse (req (fld x.a 2 0 ≤ 5) 16) (if fld x.a 2 0 = 3 ∨ fld x.a 2 0 = 4 then al x.b 64 24 else req (x.b = 0) 24)
  | 0x10 => orElse (req (fld x.a 3 0 ≤ 4) 16) (req (fld x.a 3 0 = 2 ∨ fld x.a 3 0 = 4 ∨ fld x.a 9 8 = 1 ∨ fld x.a 9 8 = 2) 17)
  | 0x12 => if bit x.a 8 then none else req (1 ≤ fld x.c 4 0 ∧ fld x.c 4 0 ≤ 16) 32
  | 0x20 => orElse (al x.a 65536 16) (orElse (req (0 < x.b.toNat ∧ x.b.toNat % 65536 = 0) 24) (al x.c 64 32))
  | 0x22 => orElse (req (fld x.a 1 0 ≤ 2) 16) (orElse (al x.b 8 24) (req (x.b = 0 ∨ 1 ≤ fld x.c 15 0) 32))
  | 0x25 => req (fld x.a 15 0 < fld x.a 31 16) 16
  | 0x26 => req (fld x.a 14 8 < 80) 17
  | 0x27 => req (fld x.a 19 16 ≤ 4) 18
  | 0x40 => orElse (al x.b 8 24) (req (x.b = 0 ∨ 1 ≤ fld x.c 15 0) 32)
  | 0x43 => orElse (al x.b 4096 24) (req (fld x.c 31 0 % 4096 = 0) 32)
  | 0x50 => al x.a 32 16
  | 0x60 => orElse (al x.a 64 16) (orElse (req (1 ≤ fld x.b 8 0 ∧ fld x.b 8 0 ≤ 256) 24) (req (fld x.b 13 12 = 1 ∨ fld x.b 13 12 = 2) 25))
  | 0x61 => orElse (al x.b 64 24) (req (1 ≤ fld x.c 15 0) 32)
  | 0x64 => al x.b 8 24
  | 0x67 => orElse (al x.b 65536 24) (req (bit x.a 0 ∨ x.b = 0) 24)
  | 0x70 => orElse (al x.a 65536 16) (req (fld x.b 3 0 ≤ 2) 24)
  | 0x71 => req (x.a ≠ 0) 16
  | 0x72 => req (x.a ≠ 0) 16
  | 0x73 => req (1 ≤ x.handle.toNat) 4
  | 0x74 => al x.b 64 24
  | 0x80 => orElse (req (fld x.a 1 0 ≤ 2) 16) (al x.d 64 40)
  | 0x81 => orElse (req (fld x.a 1 0 ≤ 2) 16) (al x.d 64 40)
  | 0x82 => al x.e 16 48
  | 0x83 => al x.e 16 48
  | 0x84 => req (1 ≤ fld x.b 15 0) 24
  | 0xA0 => req (1 ≤ fld x.a 15 0 ∧ fld x.a 15 0 ≤ 1024) 16
  | 0xA1 => req (1 ≤ fld x.a 15 0) 16
  | 0xA2 => orElse (req (1 ≤ x.a.toNat ∧ x.a.toNat ≤ 2 ^ 32) 16) (req (fld x.b 7 0 ≤ 247) 24)
  | 0xA3 => al x.c 8 32
  | 0xA5 => req (2 ≤ fld x.a 15 0) 16
  | _ => none

/-- Orders 1 to 11 of Table 7 of chapter 04; order 2 is not asked of a twin. -/
def State.checkBody (s : State) (x : Sub) (native : Bool) : Option (BitVec 16 × BitVec 64) :=
  let c := s.ch x.chamber
  match opInfo x with
  | none => some (sInvalidOpcode, faultDesc 4 0 0 0 0)
  | some i =>
    if !s.hasVersion x i.since ∨ (i.group = 4 ∧ !s.testOps) then some (sInvalidOpcode, faultDesc 4 0 0 0 0)
    else if native ∧ x.opcode.toNat ≤ 0x13 ∧ x.sq ≠ 0 then some (sInvalidOpcode, faultDesc 8 0 0 0 0)
    else match s.reservedBit x i with
    | some p => some (sReservedBit, faultDesc 2 0 0 p.2 p.1)
    | none =>
      if x.cid = 0xFFFF ∨ s.idInUse x then some (sInvalidField, faultDesc 3 0 0 0 2)
      else if extStatus x != (x.statusAddr != 0) ∨ x.statusAddr.toNat % 64 ≠ 0 ∨ (extStatus x ∧ !i.long) then
        some (sInvalidField, faultDesc 5 0 0 0 8)
      else if !c.configured ∧ !(x.opcode = 0x02 ∧ x.sq = 0) then some (sWrongChamber, 0)
      else if i.mgmt ∧ x.chamber ≠ 0 then some (sWrongChamber, faultDesc 9 0 0 0 0)
      else if (x.opcode = 0x20 ∨ x.opcode = 0x22) ∧ !s.port.ilvLocked then some (sNotInState, 0)
      else if linked x ∧ x.opcode ≠ 0x54 then some (sInvalidField, faultDesc 6 0 0 1 1)
      else match s.outside x with
      | some b => some (sForbidden, faultDesc 10 0 0 0 b)
      | none => match badValue x with
        | some b => some (sInvalidField, faultDesc 1 0 0 0 b)
        | none =>
          if native ∧ i.long ∧ !extStatus x ∧ s.slotBusy x then some (sInvalidField, faultDesc 7 0 0 0 2)
          else if !s.accepts x then some (sNotInState, 0)
          else none

/-- The first submission check an entry fails, with its fault description (R108, Table 7 of chapter 04). -/
def State.check (s : State) (x : Sub) : Option (BitVec 16 × BitVec 64) :=
  if x.sq = 0 ∧ !(s.ch x.chamber).negotiated ∧ x.opcode ≠ 0x02 then some (sNotInState, 0) else s.checkBody x true

/-! ## Clamps (R104-R106) -/

/-- Whether two clamped things overlap. -/
def State.overlap (s : State) : ClampOn → ClampOn → Bool
  | .granules a b, .granules c d => meets a b c d
  | .granules a b, .windows ch => (s.ch ch).winList.any fun w => w.valid && meets a b w.base w.limit
  | .windows ch, .granules a b => (s.ch ch).winList.any fun w => w.valid && meets a b w.base w.limit
  | .windows a, .windows b => a == b
  | .store a, .store b => a == b
  | .object a, .object b => a == b
  | .store a, .object b => a == objStore b
  | .object a, .store b => objStore a == b
  | .region a, .region b => a == b
  | _, _ => false

/-- Two clamps conflict: they overlap and one is exclusive. -/
def State.conflict (s : State) (k l : Clamp) : Bool := (k.excl || l.excl) && s.overlap k.on l.on

/-- Whether the chamber's step plan names stream `i` (R268). -/
def State.planHasStream (s : State) (ch i : Nat) : Bool :=
  match (s.un ch).step.plan with
  | none => false
  | some (a, n) => (List.range n).any fun j => (List.range 8).any fun k =>
      let v := leNat (s.peek (a + 128 + 64 * j + 8 + 4 * k) 4)
      v / 2 ^ 30 == 2 && v % 2 ^ 18 == i

/-- Whether a command's clamps may pass a stream's clamp: a CAPTURE, another stream's, or a step command that uses the stream (R268). -/
def State.passesStream (s : State) (x : Sub) (i : Nat) : Bool :=
  x.opcode == 0x22 || x.opcode == 0x50 || ((x.opcode == 0x62 || x.opcode == 0x64 || x.opcode == 0x54) && s.planHasStream x.chamber i)

/-- The clamp of a region. -/
def regionClamp (ch : Nat) (x : Sub) (excl : Bool) (r : Region) : Clamp :=
  ⟨.granules r.base (r.base + r.granules), excl, ch, some (x.sq, x.cid), 0⟩

/-- Regions the step plan names in measured grad slots (false) or in out slots (true). -/
def State.planRegions (s : State) (ch : Nat) (out : Bool) : List Nat :=
  match (s.un ch).step.plan with
  | none => []
  | some (a, n) => (List.range n).flatMap fun j =>
      let e := s.peek (a + 128 + 64 * j) 64
      let slots := (List.range 8).map fun k => leAt e (8 + 4 * k) 4
      let pick (k : Nat) : List Nat := let v := slots.getD k 0; if v / 2 ^ 30 = 1 then [v % 65536] else []
      if out then (List.range 4).flatMap fun o => let k := leAt e 4 2 / 16 ^ o % 16; if k < 8 then pick k else []
      else pick (leAt e 2 1 % 8)

/-- The regions of an ID list. -/
def State.regionsNamed (s : State) (l : List Nat) : List Region := l.filterMap s.region

/-- The live objects a restore's set is formed from: those of the object's chamber and label in every mounted store (R238). -/
def State.candidates (s : State) (o : BitVec 64) : List StoredObj :=
  let live := s.sto.mount.entries.flatMap fun p => match s.mounted p.1 with
    | some m => m.objects.filter fun t => !t.expired
    | none => []
  match live.find? (fun t => t.id == o) with
  | none => []
  | some t => live.filter fun u => objChamber u.id == objChamber o && u.label == t.label

/-- The clamps a command takes at dispatch (Table 5 of chapter 04). A CAPTURE requests its clamps later (R152). -/
def State.clampsOf (s : State) (x : Sub) : List Clamp :=
  let ch := x.chamber
  let k (o : ClampOn) (e : Bool) : Clamp := ⟨o, e, ch, some (x.sq, x.cid), 0⟩
  let reg (e : Bool) (l : List Region) : List Clamp := l.map (regionClamp ch x e)
  let listed (v : BitVec 64) (n : Nat) : List Region :=
    if v = 0 then (s.regionsOf ch).map (·.2) else s.regionsNamed (s.idList v.toNat n)
  let site := (s.un ch).site
  let span (a n t : Nat) (acc outer : Bool) : ClampOn := .granules a (a + areaGranules n t acc outer)
  let area (e : Bool) : List Clamp :=
    if site.anchored then [k (span site.area site.blocks site.anchorType site.accUse site.outerUse) e] else []
  match x.opcode.toNat with
  | 0x40 => reg true (listed x.b (fld x.c 15 0)) ++ (s.candidates x.a).map fun o => k (.object o.id) false
  | 0x41 => reg true (s.regionsNamed [x.handle.toNat]) ++ (s.candidates x.a).map fun o => k (.object o.id) false
  | 0x42 => [k (.object x.a) false]
  | 0x43 => [k (.object x.a) false]
  | 0x21 => reg true (s.regionsNamed [x.handle.toNat])
  | 0x62 => reg false (s.regionsNamed (s.planRegions ch false))
  | 0x64 => reg true (s.regionsNamed (s.planRegions ch true)) ++ reg false (s.regionsNamed (s.planRegions ch false))
  | 0x66 => reg true (s.regionsNamed (s.un ch).step.scope)
  | 0x67 => reg true (s.regionsNamed [x.handle.toNat])
  | 0x27 => reg false (s.regionsNamed [x.handle.toNat]) ++ reg true (s.regionsNamed [fld x.a 15 0])
  | 0x70 =>
    let l := s.regionsNamed (s.idList (site.listAddr.toNat) site.listLen)
    let t := fld x.b 3 0
    reg false l ++ [k (span (x.a.toNat / 65536) (l.map fun r => r.siteBlocks t).sum t ((s.ch ch).siteMode == 2) site.outer) true]
  | 0x71 => reg false (s.regionsNamed site.regions) ++ area false
  | 0x72 => reg true (s.regionsNamed site.regions) ++ area true
  | 0x0A => [k (.store x.handle.toNat) true]
  | 0x50 =>
    let d := s.peek x.a.toNat 32
    let base := leAt d 8 8
    [k (.granules (base / 65536) (ceilDiv (base + leAt d 16 6 * elemSize (leAt d 1 1 % 16)) 65536)) (bit x.b 0)]
  | _ => []

/-- Whether a clamp is an address clamp. -/
def isAddr : ClampOn → Bool
  | .granules _ _ => true | .windows _ => true | _ => false

/-- Free entries of the table and of the chamber's quota (R105). -/
def State.clampRoom (s : State) (ch : Nat) : Nat :=
  min (4096 - s.clamps.length) ((s.ch ch).quotaClamp - (s.clamps.filter fun k => k.chamber == ch).length)

/-- Insert an address clamp into a list in rising order, merged with an adjacent one of its kind (R105). -/
def mergeInto (k : Clamp) : List Clamp → List Clamp
  | [] => [k]
  | h :: r => match k.on, h.on with
    | .granules a b, .granules c d =>
      if k.excl = h.excl ∧ b = c then { h with on := .granules a d } :: r
      else if k.excl = h.excl ∧ d = a then mergeInto { h with on := .granules c b } r
      else if b ≤ c then k :: h :: r else h :: mergeInto k r
    | _, _ => h :: mergeInto k r

/-- The request after R105: adjacent ranges merged; one clamp over the chamber's windows in place of the address clamps when they are more
than 64, or more entries are needed than are free. -/
def State.squeeze (s : State) (ch : Nat) (l : List Clamp) : List Clamp :=
  let addr := (l.filter fun k => isAddr k.on).foldl (fun m k => mergeInto k m) []
  let rest := l.filter fun k => !isAddr k.on
  match addr with
  | [] => rest
  | k :: _ =>
    if addr.length > 64 ∨ addr.length + rest.length > s.clampRoom ch then
      { k with on := .windows ch, excl := addr.any (·.excl) } :: rest
    else addr ++ rest

/-- The waiting commands ahead of an entry's. -/
def State.ahead (s : State) (x : Sub) : List Cmd := (s.cmds.takeWhile fun c => !isCmd x c).filter fun c => !c.granted

/-- Whether the request of a command can be granted now: no conflict with a held clamp or with an earlier waiting request, and room (R104,
R105). -/
def State.grantable (s : State) (x : Sub) (l : List Clamp) : Bool :=
  (l.all fun k =>
    (s.clamps.all fun h => (h.owner == some (x.sq, x.cid) && h.chamber == x.chamber) ||
      (h.owner == none && s.passesStream x h.stream) || !s.conflict k h) &&
    ((s.ahead x).all fun c => c.wants.all fun h => !s.conflict k h)) &&
  decide (l.length ≤ s.clampRoom x.chamber) &&
  (l.isEmpty || (s.ahead x).all fun c => c.wants.any fun h => s.clamps.any fun k => s.conflict h k)

/-- Take a command's clamps, all or none (R104). -/
def State.tryGrant (s : State) (x : Sub) : State × Bool :=
  match s.cmd? x with
  | none => (s, true)
  | some c =>
    if c.granted then (s, true)
    else
      let l := s.squeeze x.chamber c.wants
      if s.grantable x l then ((s.onCmd x fun c => { c with granted := true }) |> fun t => { t with clamps := t.clamps ++ l }, true)
      else (s, false)

/-! ## Running a command -/

/-- An accepted command that has not begun. -/
def Cmd.start (x : Sub) (twin : Bool) (stages : List Sub) (wants : List Clamp) : Cmd :=
  { sub := x, twin := twin, stages := stages, phase := 1, units := 0, granted := wants.isEmpty, wants := wants, res := [], prog := 0, acc := [],
    links := [], seen := 0 }

/-- Accept an entry: its dispatch record (R491), phase 1 in its status word before any effect (R97), its clamp request (R105). -/
def State.accept (s : State) (x : Sub) (twin : Bool) (stages : List Sub) : State :=
  let wants := s.clampsOf x ++ stages.flatMap fun y => s.clampsOf { y with chamber := x.chamber, sq := x.sq, cid := x.cid }
  let s := s.jot x.chamber x.sq x.cid 0
  let s := { s with cmds := s.cmds ++ [Cmd.start x twin stages (s.squeeze x.chamber wants)] }
  s.putStatus x twin 1 0 0 (List.replicate 7 0)

/-- What a command's body answers: the state, its final status (none: it waits or goes on in later steps), result, units, partial words. -/
structure Res where
  s      : State
  status : Option (BitVec 16)
  result : BitVec 64
  units  : Nat
  res    : List (BitVec 64)

/-- The command completes with a result. -/
def done (s : State) (r : BitVec 64) : Res := ⟨s, some sOk, r, 0, []⟩
/-- The command ends with another status. -/
def fail (s : State) (st : BitVec 16) : Res := ⟨s, some st, 0, 0, []⟩
/-- The command ends as in R107, naming the byte: reason, where, entry, byte. -/
def reject (s : State) (st : BitVec 16) (reason whr entry byteNo : Nat) : Res := ⟨s, some st, faultDesc reason whr entry 0 byteNo, 0, []⟩
/-- A parameter out of range found in the body: INVALID_FIELD, reason 1, where 0. -/
def badParam (s : State) (byteNo : Nat) : Res := reject s sInvalidField 1 0 0 byteNo
/-- The command waits in phase 1, or goes on in later steps. -/
def wait (s : State) : Res := ⟨s, none, 0, 0, []⟩
/-- A long command ends. -/
def ended (s : State) (st : BitVec 16) (r : BitVec 64) (units : Nat) (res : List (BitVec 64)) : Res := ⟨s, some st, r, units, res⟩

/-- What a body answered becomes the command's completion; a short command's effect is recorded with it (R491). -/
def conclude (x : Sub) (r : Res) : State :=
  match r.status with
  | none => r.s
  | some st => (if isLong x then r.s else r.s.jot x.chamber x.sq x.cid 1).finish x (termPhase st) st r.result r.units r.res

/-- The command goes on in later steps: phase 2 and its units. -/
def running (x : Sub) (s : State) (units : Nat) : Res :=
  let s := s.onCmd x fun c => { c with phase := 2, units := max c.units units }
  match s.cmd? x with
  | some c => wait (s.putStatus x c.twin 2 0 c.units c.res)
  | none => wait s

/-- The commands whose row, issued again, goes on where a stream, a ring, an engine or a stage made it wait: STEP_MEASURE, STEP_APPLY,
DELTA_EMIT, DIGEST, HMAC, DOVETAIL, and CHAMBER_QUIESCE, which waits for completions. -/
def resumes (op : BitVec 8) : Bool := [0x62, 0x64, 0x71, 0x80, 0x81, 0x54, 0x13].contains op.toNat

/-- The hub domains an opcode works through, and whether it works in cells (R446, R448; Table 8 of chapter 17). -/
def opDoms (op : Nat) : List Nat × Bool :=
  match op with
  | 0x09 => ([98, 108], false) | 0x0A => ([98, 108], false) | 0x12 => ([98, 108], false)
  | 0x40 => ([98, 107, 108], true) | 0x41 => ([98, 107, 108], true) | 0x42 => ([98, 107, 108], false) | 0x43 => ([98, 107, 108], false)
  | 0x50 => ([104, 105], false) | 0x51 => ([104, 105], false) | 0x52 => ([104, 105], false) | 0x53 => ([104, 105], false)
  | 0x62 => ([109, 112, 113, 114], true) | 0x64 => ([109, 112, 113, 114], true) | 0x66 => ([], true)
  | 0x67 => ([109, 112, 113, 114], true) | 0x27 => ([], true)
  | 0x70 => ([112, 113, 114], true) | 0x71 => ([112, 113, 114], true) | 0x72 => ([112, 113, 114], true) | 0x74 => ([], true)
  | 0x22 => ([106], false)
  | _ => ([], false)

/-- Both cell groups of the stiles that own what is clamped. -/
def State.cellDoms (s : State) (l : List Clamp) : List Nat :=
  let stiles := l.flatMap fun k => match k.on with
    | .granules a b => ((List.range (b - a)).filterMap fun i => (s.place (a + i)).map (·.1)).eraseDups
    | .windows _ => List.range s.stileCount
    | _ => []
  stiles.eraseDups.flatMap fun st => [3 * st + 1, 3 * st + 2]

/-- The domains a command waits for: those of its opcode and its stages that are not usable. -/
def State.needDoms (s : State) (x : Sub) : List Nat :=
  if s.allDoms.all s.dom then []
  else match s.cmd? x with
    | none => []
    | some c =>
      let ops := x.opcode.toNat :: c.stages.map fun y => y.opcode.toNat
      let cells := if ops.any fun o => (opDoms o).2 then s.cellDoms c.wants else []
      ((ops.flatMap fun o => (opDoms o).1) ++ cells).filter fun d => s.domBuilt d && !s.dom d

/-- Run an accepted command that waits: its clamps, the domains it needs (R446), then its body. -/
def State.runAccepted (s : State) (x : Sub) (body : State → Res) : State :=
  if s.cmds.any (fun c => isCmd x c && c.phase != 1 && !resumes x.opcode) then s else
  match s.tryGrant x with
  | (s, true) =>
    let off := s.needDoms x
    if off.isEmpty then conclude x (body s) else s.wantDoms off
  | (s, false) => s

/-- Run a command row: nothing while the service is down; a command accepted before and still waiting goes on; else the submission checks,
acceptance and the command's clamps (R97, R104, R108). -/
def State.runOp (s : State) (x : Sub) (stages : List Sub) (body : State → Res) : State :=
  if !s.serving then s
  else if s.cmds.any (fun c => c.sub == x) then s.runAccepted x body
  else match s.check x with
    | some (st, desc) => s.refuseSub x false st desc
    | none => (s.accept x false stages).runAccepted x body

/-! ## Twins (Tables 20 and 21 of chapter 05) -/

/-- The native opcode of a Krytra 2 opcode. K2_CREDIT keeps its own. -/
def k2Native (k : Nat) : Nat :=
  match k with
  | 0xC0 => 0x01 | 0xC1 => 0x20 | 0xC2 => 0x21 | 0xC3 => 0x22 | 0xC4 => 0x40 | 0xC5 => 0x42 | 0xC6 => 0x50 | 0xC7 => 0x51
  | 0xC8 => 0x52 | 0xC9 => 0x53 | 0xCA => 0x80 | 0xCB => 0x82 | 0xCC => 0x83 | 0xCD => 0xA2 | 0xCE => 0xA3 | 0xCF => 0xA4
  | 0xD0 => 0xA5 | 0xD1 => 0xA0 | 0xD2 => 0xA1 | 0xD3 => 0x11 | 0xD4 => 0x07 | 0xD5 => 0xD5 | _ => 0

/-- The native entry a twin runs as (R138): P0-P2 in the places of A-C, no external status; K2_CHECK reads every leaf. -/
def twinSub (t : Twin) : Sub :=
  { chamber := t.chamber, sq := t.sq, opcode := BitVec.ofNat 8 (k2Native t.opcode.toNat), flags := t.flags &&& 1, cid := t.cid,
    handle := t.handle, statusAddr := 0, a := t.p0, b := if t.opcode = 0xC5 then t.p1 ||| 1 else t.p1, c := t.p2, d := 0, e := 0, f := 0 }

/-- The native entry of a twin in its chamber: a veneer stream handle has the index from the chamber's first in [15:0] and the generation in
[21:16] (R287). -/
def State.nativeSub (s : State) (t : Twin) : Sub :=
  let x := twinSub t
  if t.opcode = 0xC7 ∨ t.opcode = 0xC8 ∨ t.opcode = 0xC9 then
    { x with handle := BitVec.ofNat 32 (fld t.handle 15 0 + (s.un t.chamber).stmBase + fld t.handle 21 16 * 2 ^ 18) }
  else x

/-- What Table 21 takes away from a twin's native opcode: the byte of the field that asks for more. -/
def twinBad (t : Twin) : Option Nat :=
  let req (ok : Bool) (byteNo : Nat) : Option Nat := if ok then none else some byteNo
  match t.opcode.toNat with
  | 0xC0 => req (fld t.p0 7 0 = 0) 8
  | 0xC3 => req (fld t.p0 1 0 = 0) 8
  | 0xCA => req (fld t.p0 1 0 = 0) 8
  | 0xCD => req (fld t.p1 7 0 = 0) 16
  | 0xCE => req (fld t.p1 0 0 = 0 ∧ t.p2 ≠ 0) 16
  | 0xD0 => req (fld t.p0 16 16 = 0) 10
  | 0xD1 => req (1 ≤ fld t.p0 15 0 ∧ fld t.p0 15 0 ≤ 64) 8
  | 0xD3 => req (fld t.p0 4 0 = t.chamber) 8
  | 0xD4 => req (fld t.p0 7 0 = 0) 8
  | _ => none

/-- The submission checks of a twin entry (R113): a veneer chamber, an assigned opcode, no reserved flag, Table 21, then Table 7 as for the
native entry under the flags of 3.0; the admin opcodes of Table 21 are not held to SQ0. -/
def State.checkTwin (s : State) (t : Twin) : Option (BitVec 16 × BitVec 64) :=
  let x := s.nativeSub t
  if !(s.ch t.chamber).veneer ∨ t.sq = 0 ∨ k2Native t.opcode.toNat = 0 then some (sInvalidOpcode, faultDesc 4 0 0 0 0)
  else if t.flags.toNat / 2 ≠ 0 then some (sReservedBit, faultDesc 2 0 0 ((firstSet [t.flags &&& 0xFE] 0 1).getD (0, 0)).2 1)
  else if t.opcode = 0xD5 then
    if t.cid = 0xFFFF ∨ s.idInUse x then some (sInvalidField, faultDesc 3 0 0 0 2) else none
  else match twinBad t with
    | some b => some (sInvalidField, faultDesc 1 0 0 0 b)
    | none => s.checkBody x false

/-- Run a twin row. -/
def State.runTwin (s : State) (t : Twin) (body : State → Res) : State :=
  let x := s.nativeSub t
  if !s.serving then s
  else if s.cmds.any (fun c => c.sub == x && c.twin) then s.runAccepted x body
  else match s.checkTwin t with
    | some (st, desc) => s.refuseSub x true st desc
    | none => (s.accept x true []).runAccepted x body

end Sys2Proof.Machine
end

