-- ==== Sys2Proof/Machine/Crypto.lean ====
section
/-! DEFINITION. The algorithms the spec names by their standards and does not restate: SHA-2 and HMAC (R381, R391), AES-256 and GCM (R191,
R193, R390), the CRC-64 of sectors (R199), the CRC-16 of frames (R409), Philox4x32-10 (R302). PRESUMED, assumption log 7: their constants
and steps are those of the standards. -/

namespace Sys2Proof.Machine

/-! ## SHA-2. Algorithm codes: 0 SHA-256, 1 SHA-384, 2 SHA-512. -/

/-- The 80 round constants, eight to a number; SHA-256 uses the upper halves of the first 64. -/
def shaKs : List Nat :=
  [0x428A2F98D728AE227137449123EF65CDB5C0FBCFEC4D3B2FE9B5DBA58189DBBC3956C25BF348B53859F111F1B605D019923F82A4AF194F9BAB1C5ED5DA6D8118,
   0xD807AA98A303024212835B0145706FBE243185BE4EE4B28C550C7DC3D5FFB4E272BE5D74F27B896F80DEB1FE3B1696B19BDC06A725C71235C19BF174CF692694,
   0xE49B69C19EF14AD2EFBE4786384F25E30FC19DC68B8CD5B5240CA1CC77AC9C652DE92C6F592B02754A7484AA6EA6E4835CB0A9DCBD41FBD476F988DA831153B5,
   0x983E5152EE66DFABA831C66D2DB43210B00327C898FB213FBF597FC7BEEF0EE4C6E00BF33DA88FC2D5A79147930AA72506CA6351E003826F142929670A0E6E70,
   0x27B70A8546D22FFC2E1B21385C26C9264D2C6DFC5AC42AED53380D139D95B3DF650A73548BAF63DE766A0ABB3C77B2A881C2C92E47EDAEE692722C851482353B,
   0xA2BFE8A14CF10364A81A664BBC423001C24B8B70D0F89791C76C51A30654BE30D192E819D6EF5218D69906245565A910F40E35855771202A106AA07032BBD1B8,
   0x19A4C116B8D2D0C81E376C085141AB532748774CDF8EEB9934B0BCB5E19B48A8391C0CB3C5C95A634ED8AA4AE3418ACB5B9CCA4F7763E373682E6FF3D6B2B8A3,
   0x748F82EE5DEFB2FC78A5636F43172F6084C87814A1F0AB728CC702081A6439EC90BEFFFA23631E28A4506CEBDE82BDE9BEF9A3F7B2C67915C67178F2E372532B,
   0xCA273ECEEA26619CD186B8C721C0C207EADA7DD6CDE0EB1EF57D4F7FEE6ED17806F067AA72176FBA0A637DC5A2C898A6113F9804BEF90DAE1B710B35131C471B,
   0x28DB77F523047D8432CAAB7B40C724933C9EBE0A15C9BEBC431D67C49C100D4C4CC5D4BECB3E42B6597F299CFC657E2A5FCB6FAB3AD6FAEC6C44198C4A475817]

/-- The initial values of SHA-512, and of SHA-256 in their upper halves. -/
def shaH512 : Nat :=
  0x6A09E667F3BCC908BB67AE8584CAA73B3C6EF372FE94F82BA54FF53A5F1D36F1510E527FADE682D19B05688C2B3E6C1F1F83D9ABFB41BD6B5BE0CD19137E2179

/-- The initial values of SHA-384. -/
def shaH384 : Nat :=
  0xCBBB9D5DC1059ED8629A292A367CD5079159015A3070DD17152FECD8F70E593967332667FFC00B318EB44A8768581511DB0C2E0D64F98FA747B5481DBEFA4FA4

/-- Bits of a word. -/
def shaBits (alg : Nat) : Nat := if alg = 0 then 32 else 64

/-- Bytes of a block. -/
def shaBlock (alg : Nat) : Nat := if alg = 0 then 64 else 128

/-- Bytes of a digest. -/
def shaLen (alg : Nat) : Nat := if alg = 0 then 32 else if alg = 1 then 48 else 64

/-- Round constant `i` in words of `w` bits. -/
def shaK (w i : Nat) : BitVec w := BitVec.ofNat w (((shaKs.getD (i / 8) 0 >>> (64 * (7 - i % 8))) % 2 ^ 64) >>> (64 - w))

/-- The chaining value a message begins with. -/
def shaInit (alg : Nat) : List Nat :=
  (List.range 8).map fun i =>
    let v := ((if alg = 1 then shaH384 else shaH512) >>> (64 * (7 - i))) % 2 ^ 64
    if alg = 0 then v >>> 32 else v

/-- The rotations of the six sums: of Sigma0, Sigma1, then sigma0 and sigma1 with their last a shift. -/
def shaRot (alg : Nat) : List Nat :=
  if alg = 0 then [2, 13, 22, 6, 11, 25, 7, 18, 3, 17, 19, 10] else [28, 34, 39, 14, 18, 41, 1, 8, 7, 19, 61, 6]

/-- Sum `k` of the four. -/
def shaSum (alg k : Nat) {w : Nat} (x : BitVec w) : BitVec w :=
  let r := shaRot alg
  x.rotateRight (r.getD (3 * k) 0) ^^^ x.rotateRight (r.getD (3 * k + 1) 0) ^^^
    (if k < 2 then x.rotateRight (r.getD (3 * k + 2) 0) else x >>> r.getD (3 * k + 2) 0)

/-- `n` more words of the message schedule, newest first. -/
def shaSchedule (alg w : Nat) : Nat → List (BitVec w) → List (BitVec w)
  | 0, l => l
  | n + 1, l => shaSchedule alg w n
      ((shaSum alg 3 (l.getD 1 0) + l.getD 6 0 + shaSum alg 2 (l.getD 14 0) + l.getD 15 0) :: l)

/-- The rounds over the schedule from round `i`; `h` is a to h. -/
def shaRounds (alg w : Nat) : List (BitVec w) → Nat → List (BitVec w) → List (BitVec w)
  | [], _, h => h
  | m :: r, i, h =>
    let a := h.getD 0 0; let b := h.getD 1 0; let c := h.getD 2 0; let d := h.getD 3 0
    let e := h.getD 4 0; let f := h.getD 5 0; let g := h.getD 6 0; let k := h.getD 7 0
    let t1 := k + shaSum alg 1 e + ((e &&& f) ^^^ (~~~e &&& g)) + shaK w i + m
    let t2 := shaSum alg 0 a + ((a &&& b) ^^^ (a &&& c) ^^^ (b &&& c))
    shaRounds alg w r (i + 1) [t1 + t2, a, b, c, d + t1, e, f, g]

/-- One compression. -/
def shaCompress (alg : Nat) (h : List Nat) (block : List Byte) : List Nat :=
  let w := shaBits alg
  let h0 := h.map (BitVec.ofNat w)
  let m := (List.range 16).map fun i => BitVec.ofNat w (beNat (bytesAt block (i * (w / 8)) (w / 8)))
  let sched := (shaSchedule alg w (if alg = 0 then 48 else 64) m.reverse).reverse
  (List.zipWith (· + ·) h0 (shaRounds alg w sched 0 h0)).map (·.toNat)

/-- `n` blocks from the front of a list. -/
def shaBlocks (alg : Nat) : Nat → List Nat → List Byte → List Nat
  | 0, h, _ => h
  | n + 1, h, l => shaBlocks alg n (shaCompress alg h (l.take (shaBlock alg))) (l.drop (shaBlock alg))

/-- The padding of a message of `total` bytes. -/
def shaPad (alg total : Nat) : List Byte :=
  let b := shaBlock alg
  let len := b / 8
  let z := (2 * b - 1 - len - total % b) % b
  0x80 :: zeros z ++ beBytes len (8 * total)

/-- The digest from a chaining value. -/
def shaOut (alg : Nat) (h : List Nat) : List Byte := (h.flatMap fun v => beBytes (shaBits alg / 8) v).take (shaLen alg)

/-- The digest, from a chaining value, of the rest of a message of `total` bytes. -/
def shaFinish (alg : Nat) (h : List Nat) (rest : List Byte) (total : Nat) : List Byte :=
  let l := rest ++ shaPad alg total
  shaOut alg (shaBlocks alg (l.length / shaBlock alg) h l)

/-- The digest of a message. -/
def sha (alg : Nat) (l : List Byte) : List Byte := shaFinish alg (shaInit alg) l l.length

/-- The inner (0x36) or outer (0x5C) chaining value of a key no longer than a block. -/
def hmacKey (alg : Nat) (pad : Byte) (key : List Byte) : List Nat :=
  shaCompress alg (shaInit alg) ((padTo (shaBlock alg) key).map (· ^^^ pad))

/-- HMAC from the two chaining values. -/
def hmacFrom (alg : Nat) (inner outer : List Nat) (l : List Byte) : List Byte :=
  let d := shaFinish alg inner l (shaBlock alg + l.length)
  shaFinish alg outer d (shaBlock alg + d.length)

/-- A key as FIPS 198-1 takes it: hashed when longer than a block. -/
def hmacFit (alg : Nat) (key : List Byte) : List Byte := if key.length > shaBlock alg then sha alg key else key

/-- HMAC of a message. -/
def hmacOf (alg : Nat) (key l : List Byte) : List Byte :=
  let k := hmacFit alg key
  hmacFrom alg (hmacKey alg 0x36 k) (hmacKey alg 0x5C k) l

/-! ## AES-256 -/

/-- The substitution box, 64 bytes to a number. -/
def aesSbox : List Nat :=
  [0x637C777BF26B6FC53001672BFED7AB76CA82C97DFA5947F0ADD4A2AF9CA472C0B7FD9326363FF7CC34A5E5F171D8311504C723C31896059A071280E2EB27B275,
   0x09832C1A1B6E5AA0523BD6B329E32F8453D100ED20FCB15B6ACBBE394A4C58CFD0EFAAFB434D338545F9027F503C9FA851A3408F929D38F5BCB6DA2110FFF3D2,
   0xCD0C13EC5F974417C4A77E3D645D197360814FDC222A908846EEB814DE5E0BDBE0323A0A4906245CC2D3AC629195E479E7C8376D8DD54EA96C56F4EA657AAE08,
   0xBA78252E1CA6B4C6E8DD741F4BBD8B8A703EB5664803F60E613557B986C11D9EE1F8981169D98E949B1E87E9CE5528DF8CA1890DBFE6426841992D0FB054BB16]

/-- The substitution of a byte. -/
def aesSub (b : Byte) : Byte := BitVec.ofNat 8 (aesSbox.getD (b.toNat / 64) 0 >>> (8 * (63 - b.toNat % 64)))

/-- Doubling in GF(2^8). -/
def aesX (b : Byte) : Byte := (b <<< 1) ^^^ (if b.getLsbD 7 then 0x1B else 0)

/-- `n` more words of the key schedule, newest first; `i` is the index of the next. -/
def aesKeys : Nat → Nat → List (List Byte) → List (List Byte)
  | 0, _, l => l
  | n + 1, i, l =>
    let t := l.getD 0 []
    let u := if i % 8 = 0 then
        xorBytes ((t.drop 1 ++ t.take 1).map aesSub) [BitVec.ofNat 8 (2 ^ (i / 8 - 1)), 0, 0, 0]
      else if i % 8 = 4 then t.map aesSub else t
    aesKeys n (i + 1) (xorBytes (l.getD 7 []) u :: l)

/-- The 15 round keys of a 32-byte key. -/
def aesRoundKeys (key : List Byte) : List (List Byte) :=
  let w := (aesKeys 52 8 ((List.range 8).map fun i => bytesAt key (4 * i) 4).reverse).reverse
  (List.range 15).map fun r => (List.range 4).flatMap fun c => w.getD (4 * r + c) []

/-- The row shift of a block in column order. -/
def aesShift (b : List Byte) : List Byte := (List.range 16).map fun i => b.getD ((i + 4 * (i % 4)) % 16) 0

/-- The column mix. -/
def aesMix (b : List Byte) : List Byte :=
  (List.range 16).map fun i =>
    let at_ (k : Nat) : Byte := b.getD (i / 4 * 4 + (i + k) % 4) 0
    aesX (at_ 0) ^^^ aesX (at_ 1) ^^^ at_ 1 ^^^ at_ 2 ^^^ at_ 3

/-- The rounds of a block under the round keys that remain. -/
def aesRounds : List (List Byte) → List Byte → List Byte
  | [], b => b
  | [k], b => xorBytes (aesShift (b.map aesSub)) k
  | k :: r, b => aesRounds r (xorBytes (aesMix (aesShift (b.map aesSub))) k)

/-- AES-256 of a block under expanded keys. -/
def aesWith (ks : List (List Byte)) (b : List Byte) : List Byte := aesRounds (ks.drop 1) (xorBytes b (ks.headD []))

/-- AES-256 of a block under a key. -/
def aes (key b : List Byte) : List Byte := aesWith (aesRoundKeys key) b

/-! ## GCM -/

/-- `n` steps of the product in GF(2^128): the bits of `x` from the first, `v` the shifted factor, `z` the sum. -/
def gfMul : Nat → Nat → Nat → Nat → Nat
  | 0, _, _, z => z
  | n + 1, x, v, z =>
    gfMul n x (if v % 2 = 1 then (v >>> 1) ^^^ (0xE1 <<< 120) else v >>> 1) (if x.testBit n then z ^^^ v else z)

/-- GHASH over `n` blocks. -/
def ghash (h : Nat) : Nat → Nat → List Byte → Nat
  | 0, y, _ => y
  | n + 1, y, l => ghash h n (gfMul 128 (y ^^^ beNat (bytesAt l 0 16)) h 0) (l.drop 16)

/-- Zero padding to a whole number of blocks. -/
def pad16 (l : List Byte) : List Byte := l ++ zeros ((16 - l.length % 16) % 16)

/-- Counter mode from counter `c`, over `n` blocks. -/
def gcmCtr (ks : List (List Byte)) (iv : List Byte) : Nat → Nat → List Byte → List Byte
  | 0, _, _ => []
  | n + 1, c, l => xorBytes (l.take 16) (aesWith ks (iv ++ beBytes 4 c)) ++ gcmCtr ks iv n (c + 1) (l.drop 16)

/-- The tag over additional data and ciphertext. -/
def gcmTag (ks : List (List Byte)) (iv aad c : List Byte) : List Byte :=
  let h := beNat (aesWith ks (zeros 16))
  let l := pad16 aad ++ pad16 c ++ beBytes 8 (8 * aad.length) ++ beBytes 8 (8 * c.length)
  xorBytes (beBytes 16 (ghash h (l.length / 16) 0 l)) (aesWith ks (iv ++ beBytes 4 1))

/-- AES-256-GCM: ciphertext and tag. -/
def gcmSeal (key iv aad p : List Byte) : List Byte × List Byte :=
  let ks := aesRoundKeys key
  let c := gcmCtr ks iv (ceilDiv p.length 16) 2 p
  (c, gcmTag ks iv aad c)

/-- The plaintext, where the tag matches. -/
def gcmOpen (key iv aad c tag : List Byte) : Option (List Byte) :=
  let ks := aesRoundKeys key
  if gcmTag ks iv aad c = tag then some (gcmCtr ks iv (ceilDiv c.length 16) 2 c) else none

/-- The bytes of a key. -/
def keyBytes (k : BitVec 256) : List Byte := leBytes 32 k.toNat

/-- The key check value: AES-256 of sixteen 0xA5 bytes, first 8 bytes (R193). -/
def kcvOf (k : BitVec 256) : BitVec 64 := BitVec.ofNat 64 (leNat ((aes (keyBytes k) (List.replicate 16 0xA5)).take 8))

/-! ## Check values -/

/-- Eight steps of the reflected CRC-64. -/
def crc64Bits : Nat → Nat → Nat
  | 0, c => c
  | n + 1, c => crc64Bits n (if c % 2 = 1 then (c >>> 1) ^^^ 0x9A6C9329AC4BC9B5 else c >>> 1)

/-- The CRC-64 register over bytes. -/
def crc64From : Nat → List Byte → Nat
  | c, [] => c
  | c, b :: r => crc64From (crc64Bits 8 (c ^^^ b.toNat)) r

/-- The check value of R199. -/
def crc64 (l : List Byte) : Nat := crc64From 0xFFFFFFFFFFFFFFFF l ^^^ 0xFFFFFFFFFFFFFFFF

/-- Eight steps of the CRC-16. -/
def crc16Bits : Nat → Nat → Nat
  | 0, c => c
  | n + 1, c => crc16Bits n (if c.testBit 15 then (c * 2 ^^^ 0x1021) % 65536 else c * 2 % 65536)

/-- The CRC-16 register over bytes. -/
def crc16From : Nat → List Byte → Nat
  | c, [] => c
  | c, b :: r => crc16From (crc16Bits 8 (c ^^^ b.toNat * 256)) r

/-- The CRC of a chain frame (R409). -/
def crc16 (l : List Byte) : Nat := crc16From 0xFFFF l

/-! ## Philox4x32-10 -/

/-- `n` rounds over the counter words and the key words. -/
def philoxRounds : Nat → BitVec 32 × BitVec 32 × BitVec 32 × BitVec 32 → BitVec 32 × BitVec 32 → List (BitVec 32)
  | 0, (a, b, c, d), _ => [a, b, c, d]
  | n + 1, (a, b, c, d), (k0, k1) =>
    let p0 := a.toNat * 0xD2511F53
    let p1 := c.toNat * 0xCD9E8D57
    philoxRounds n
      (BitVec.ofNat 32 (p1 >>> 32) ^^^ b ^^^ k0, BitVec.ofNat 32 p1, BitVec.ofNat 32 (p0 >>> 32) ^^^ d ^^^ k1, BitVec.ofNat 32 p0)
      (k0 + 0x9E3779B9, k1 + 0xBB67AE85)

/-- The four words of a counter and key (R302). -/
def philox (c : BitVec 32 × BitVec 32 × BitVec 32 × BitVec 32) (k : BitVec 32 × BitVec 32) : List (BitVec 32) := philoxRounds 10 c k

end Sys2Proof.Machine
end

