-- ==== Sys2Proof/Machine/Flowstone.lean ====
section
/-! DEFINITION. Flowstone, the exponent-only lossless codec (R182-R190). -/

namespace Sys2Proof.Machine

/-- The exponent width and mantissa width of an element type (Table 2 of chapter 07). -/
def flowFields (t : Nat) : Nat × Nat :=
  match t with
  | 0 => (8, 7) | 1 => (5, 10) | 2 => (8, 23) | 3 => (4, 3) | _ => (5, 2)

/-- Bits of a residue: sign and mantissa. -/
def flowK (t : Nat) : Nat := (flowFields t).2 + 1

/-- Bytes of the length table, and of the residue plane. -/
def flowT (t : Nat) : Nat := 2 ^ (flowFields t).1 / 2
def flowR (t : Nat) : Nat := perGranule t * flowK t / 8

/-- The elements bytes spell, little-endian; structural on a count. -/
def elemsFrom (size : Nat) : Nat → List Byte → List Nat
  | 0, _ => []
  | n + 1, l => leNat (l.take size) :: elemsFrom size n (l.drop size)

/-- The elements of a granule. -/
def elemsOf (t : Nat) (l : List Byte) : List Nat := elemsFrom (elemSize t) (l.length / elemSize t) l

/-- The exponent and the residue of an element (R182). -/
def expOf (t v : Nat) : Nat := v / 2 ^ (flowFields t).2 % 2 ^ (flowFields t).1
def resOf (t v : Nat) : Nat :=
  let m := (flowFields t).2
  v / 2 ^ (m + (flowFields t).1) % 2 * 2 ^ m + v % 2 ^ m

/-- The element of an exponent and a residue. -/
def elemBack (t e r : Nat) : Nat :=
  let m := (flowFields t).2
  r / 2 ^ m * 2 ^ (m + (flowFields t).1) + e * 2 ^ m + r % 2 ^ m

/-- The exponent histogram. -/
def histogram (t : Nat) (l : List Nat) : List Nat :=
  l.foldl (fun h v => h.modify (expOf t v) (· + 1)) (List.replicate (2 ^ (flowFields t).1) 0)

/-- A node of the code tree: weight, whether merged and when, its value when a leaf, its leaves with their depths. -/
structure HNode where
  weight : Nat
  merged : Bool
  order  : Nat
  leaves : List (Nat × Nat)
  deriving DecidableEq, Repr

/-- Whether `a` is taken before `b` (R185): less weight, a merged node, an earlier one, a leaf of lower value. -/
def HNode.before (a b : HNode) : Bool :=
  decide (a.weight < b.weight) || decide (a.weight = b.weight) &&
    (a.merged && !b.merged || (a.merged == b.merged) && decide (a.order < b.order))

/-- Insert a node in taking order. -/
def hInsert (n : HNode) : List HNode → List HNode
  | [] => [n]
  | x :: r => if n.before x then n :: x :: r else x :: hInsert n r

/-- Merge the two first nodes `k` times; `seq` numbers the merges. -/
def hMerge : Nat → Nat → List HNode → List HNode
  | k + 1, seq, a :: b :: r =>
    let deeper (n : HNode) : List (Nat × Nat) := n.leaves.map fun p => (p.1, p.2 + 1)
    hMerge k (seq + 1) (hInsert ⟨a.weight + b.weight, true, seq, deeper a ++ deeper b⟩ r)
  | _, _, l => l

/-- The used values with their counts. -/
def usedOf (h : List Nat) : List (Nat × Nat) :=
  (List.range h.length).filterMap fun v => if h.getD v 0 > 0 then some (v, h.getD v 0) else none

/-- Leaves by depth, indices 0 to 24. -/
def depthCounts (h : List Nat) : List Nat :=
  let nodes := (usedOf h).foldl (fun l p => hInsert ⟨p.2, false, p.1, [(p.1, 0)]⟩ l) []
  let leaves := ((hMerge h.length 0 nodes).headD ⟨0, false, 0, []⟩).leaves
  leaves.foldl (fun b p => b.modify p.2 (· + 1)) (List.replicate 25 0)

/-- The largest j at or below `k` with a leaf. -/
def lowerFull (b : List Nat) : Nat → Nat
  | 0 => 0
  | k + 1 => if b.getD (k + 1) 0 = 0 then lowerFull b k else k + 1

/-- One round of the inner loop of R185 at depth `i`. -/
def limitOnce (i : Nat) (b : List Nat) : List Nat :=
  let j := lowerFull b (i - 2)
  let b := b.modify i (· - 2)
  let b := b.modify (i - 1) (· + 1)
  let b := b.modify (j + 1) (· + 2)
  b.modify j (· - 1)

/-- The inner loop: at most 128 rounds empty a depth of at most 256 leaves. -/
def limitAt (i : Nat) : Nat → List Nat → List Nat
  | 0, b => b
  | n + 1, b => if b.getD i 0 = 0 then b else limitAt i n (limitOnce i b)

/-- Lengths limited to 12 bits. -/
def limitAll (b : List Nat) : List Nat := [24, 23, 22, 21, 20, 19, 18, 17, 16, 15, 14, 13].foldl (fun b i => limitAt i 128 b) b

/-- Insert a used value by count descending, then value ascending. -/
def byCount (p : Nat × Nat) : List (Nat × Nat) → List (Nat × Nat)
  | [] => [p]
  | q :: r => if q.2 < p.2 ∨ (q.2 = p.2 ∧ p.1 < q.1) then p :: q :: r else q :: byCount p r

/-- The code lengths of a histogram (R185). -/
def codeLens (h : List Nat) : List Nat :=
  match usedOf h with
  | [] => h.map fun _ => 0
  | [p] => (h.map fun _ => 0).set p.1 1
  | used =>
    let bl := limitAll (depthCounts h)
    let order := used.foldl (fun l p => byCount p l) []
    let lens := (List.range 12).flatMap fun i => List.replicate (bl.getD (i + 1) 0) (i + 1)
    (List.zip order lens).foldl (fun t p => t.set p.1.1 p.2) (h.map fun _ => 0)

/-- The codewords of a length table: (value, length, code), in canonical order (R187). -/
def codewords (lens : List Nat) : List (Nat × Nat × Nat) :=
  ((List.range 12).foldl (fun (a : Nat × List (Nat × Nat × Nat)) i =>
    let vs := (List.range lens.length).filter fun v => lens.getD v 0 == i + 1
    ((a.1 + vs.length) * 2, a.2 ++ (List.range vs.length).map fun j => (vs.getD j 0, i + 1, a.1 + j))) (0, [])).2

/-- Whether a length table is valid (R186). -/
def lensValid (lens : List Nat) : Bool :=
  lens.all (· ≤ 12) &&
    (decide ((lens.map fun l => if l = 0 then 0 else 2 ^ (12 - l)).sum = 4096) ||
      decide (lens.filter (· ≠ 0) = [1]))

/-- The bits of a word of `n` bits, most significant first. -/
def bitsOf : Nat → Nat → List Bool
  | 0, _ => []
  | n + 1, v => v.testBit n :: bitsOf n v

/-- The number bits spell, most significant first. -/
def bitsNat (l : List Bool) : Nat := l.foldl (fun n b => 2 * n + b2n b) 0

/-- Pack `n` bytes of a plane (R183). -/
def packPlane : Nat → List Bool → List Byte
  | 0, _ => []
  | n + 1, l => BitVec.ofNat 8 (bitsNat ((l.take 8) ++ List.replicate (8 - (l.take 8).length) false)) :: packPlane n (l.drop 8)

/-- The bits of a plane. -/
def planeBits (l : List Byte) : List Bool := l.flatMap fun b => bitsOf 8 b.toNat

/-- Bits of codewords of a histogram. -/
def expBits (h lens : List Nat) : Nat := (List.zipWith (· * ·) h lens).sum

/-- The encoded length of a histogram (R184). -/
def flowLen (t : Nat) (h : List Nat) : Nat := 8 + flowT t + ceilDiv (expBits h (codeLens h)) 8 + flowR t

/-- The length table's bytes. -/
def lenTable (lens : List Nat) : List Byte :=
  (List.range (lens.length / 2)).map fun i => BitVec.ofNat 8 (lens.getD (2 * i) 0 + 16 * lens.getD (2 * i + 1) 0)

/-- The encoded block of a granule (Table 3 of chapter 07). -/
def flowEncode (t : Nat) (l : List Byte) : List Byte :=
  let es := elemsOf t l
  let h := histogram t es
  let lens := codeLens h
  let cw := codewords lens
  let bits := expBits h lens
  let word (v : Nat) : List Bool := match cw.find? (·.1 == v) with
    | some (_, n, c) => bitsOf n c
    | none => []
  let words := (List.range h.length).map word
  [0x01, BitVec.ofNat 8 t, BitVec.ofNat 8 (lens.foldl max 0), 0] ++ leBytes 4 bits ++ lenTable lens ++
    packPlane (ceilDiv bits 8) (es.flatMap fun v => words.getD (expOf t v) []) ++
    packPlane (flowR t) (es.flatMap fun v => bitsOf (flowK t) (resOf t v))

/-- The codec of a block in a FLOW chamber, and its bytes: (1, encoded) when at most 65,472 bytes, else (0, the granule) (R188). -/
def flowBlock (t : Nat) (l : List Byte) : Nat × List Byte :=
  if flowLen t (histogram t (elemsOf t l)) ≤ 65472 then (1, flowEncode t l) else (0, l)

/-- Decode at most `n` codewords: the values and the bits left; `fuel` bits at most, `acc` and `len` the word so far. -/
def decodeExps (cw : List (Nat × Nat × Nat)) : Nat → List Bool → Nat → Nat → Option (List Nat × List Bool)
  | 0, l, _, _ => some ([], l)
  | _ + 1, [], _, _ => none
  | n + 1, b :: r, acc, len =>
    let c := 2 * acc + b2n b
    match cw.find? fun p => p.2.1 == len + 1 && p.2.2 == c with
    | some p => (decodeExps cw n r 0 0).map fun q => (p.1 :: q.1, q.2)
    | none => if len ≥ 12 then none else decodeExps cw (n + 1) r c (len + 1)

/-- Split the residue plane into `n` residues of `k` bits. -/
def residues (k : Nat) : Nat → List Bool → List Nat
  | 0, _ => []
  | n + 1, l => bitsNat (l.take k) :: residues k n (l.drop k)

/-- The expander (R190): the granule of a block of length `n`, codec and type; none is FLOW_DAMAGED. -/
def flowDecode (t codec n : Nat) (l : List Byte) : Option (List Byte) :=
  if codec = 0 then (if n = 65536 then some (padTo 65536 l) else none)
  else
    let tb := flowT t
    let bits := leAt l 4 4
    let lens := (bytesAt l 8 tb).flatMap fun b => [b.toNat % 16, b.toNat / 16]
    let np := perGranule t
    if bytesAt l 0 2 ≠ [0x01, BitVec.ofNat 8 t] ∨ bytesAt l 3 1 ≠ [0] then none
    else if !lensValid lens ∨ leAt l 2 1 ≠ lens.foldl max 0 then none
    else if n ≠ 8 + tb + ceilDiv bits 8 + flowR t then none
    else if bits < np ∨ 12 * np < bits then none
    else
      let plane := planeBits (bytesAt l (8 + tb) (ceilDiv bits 8))
      match decodeExps (codewords lens) np (plane.take bits) 0 0 with
      | some (es, []) =>
        if (plane.drop bits).any id then none
        else
          let rs := residues (flowK t) np (planeBits (bytesAt l (8 + tb + ceilDiv bits 8) (flowR t)))
          some ((List.zipWith (elemBack t) es rs).flatMap fun v => leBytes (elemSize t) v)
      | _ => none

end Sys2Proof.Machine
end

