-- ==== Sys2Proof/Machine/Ssf.lean ====
section
/-! DEFINITION. The Sulen State Format: digests (R221), index records (R219), poison entries (R220), manifests (R222, R223), superblocks
(R212), additional authenticated data (R194), sector frames (R200), and the space of a store (R210, R226). -/

namespace Sys2Proof

open Sys2Proof.Machine

/-! ## Digests (R221) -/

/-- A SHA-256 as a number, its bytes little-endian. -/
def sha256Of (l : List Byte) : BitVec 256 := BitVec.ofNat 256 (leNat (sha 0 l))

/-- The bytes of a digest. -/
def digestBytes (d : BitVec 256) : List Byte := leBytes 32 d.toNat

/-- The digest of a leaf of `count` elements of type `t`. -/
def leafDigest (t count : Nat) (l : List Byte) : BitVec 256 := sha256Of (0x00 :: leBytes 1 t ++ leBytes 4 count ++ l)

/-- One level of the tree; a last node without a partner is carried up. -/
def treeLevel : List (BitVec 256) → List (BitVec 256)
  | a :: b :: r => sha256Of (0x01 :: digestBytes a ++ digestBytes b) :: treeLevel r
  | l => l

/-- The root over leaf digests, `n` levels at most. -/
def treeRoot : Nat → List (BitVec 256) → BitVec 256
  | 0, l => l.headD 0
  | n + 1, l => if l.length ≤ 1 then l.headD 0 else treeRoot n (treeLevel l)

/-- The digest of a shard. -/
def shardDigest (tensor : BitVec 32) (leaves : List (BitVec 256)) : BitVec 256 :=
  sha256Of (0x02 :: leBytes 4 tensor.toNat ++ leBytes 8 leaves.length ++ digestBytes (treeRoot 48 leaves))

/-- The digest of an SSF v2 shard (Table 11 of chapter 08). -/
def shardDigestV2 (tensor : BitVec 32) (leaves : List (BitVec 256)) : BitVec 256 :=
  sha256Of (0x03 :: leBytes 4 tensor.toNat ++ leBytes 8 leaves.length ++ leaves.flatMap digestBytes)

/-! ## Records -/

/-- The 128 bytes of an index record (Table 5 of chapter 08). -/
def recBytes (r : IndexRec) : List Byte :=
  if r.kind = 3 then zeros 73 ++ [3] ++ zeros 18 ++ leBytes 2 r.replica ++ zeros 34
  else digestBytes r.digest ++ leBytes 12 r.iv.toNat ++ leBytes 16 r.tag.toNat ++ leBytes 8 r.kcv.toNat ++ leBytes 4 r.n ++
    leBytes 1 r.codec ++ leBytes 1 r.kind ++ leBytes 1 (b2n r.poisoned) ++ [0] ++ leBytes 6 r.refLeaf ++ zeros 2 ++
    leBytes 8 r.refObj.toNat ++ leBytes 2 r.replica ++ leBytes 4 r.refShard ++ leBytes 4 r.refTensor.toNat ++ zeros 26

/-- Whether a record is well formed (R219). -/
def recOk (r : IndexRec) : Bool := decide (r.codec ≤ 1) && decide (r.kind ≤ 3)

/-- The 128 bytes of a poison entry (R220). -/
def poisonBytes (p : Nat × List Nat) : List Byte :=
  leBytes 6 p.1 ++ zeros 2 ++ (List.range 64).map (fun i => BitVec.ofNat 8 ((List.range 8).foldl (fun n k =>
    n + b2n (p.2.contains (8 * i + k)) * 2 ^ k) 0)) ++ zeros 56

/-- Bytes 4 to 183 of a coordinate descriptor (Table 1 of chapter 06). -/
def coordBytes (c : Coord) : List Byte :=
  leBytes 1 c.elemType ++ leBytes 1 c.rank ++ leBytes 1 (b2n c.tiled) ++ leBytes 1 c.tiles.length ++
    padTo 48 (c.extents.flatMap (leBytes 8)) ++ padTo 48 (c.starts.flatMap (leBytes 8)) ++ padTo 48 (c.sizes.flatMap (leBytes 8)) ++
    padTo 32 (c.tiles.flatMap fun p => leBytes 8 (p.1 + p.2 * 65536))

/-- Index sectors of a shard (R218). -/
def shardSectors (leaves poisons : Nat) : Nat := ceilDiv leaves 32 + ceilDiv poisons 32

/-- The 256 bytes of a shard record (Table 7 of chapter 08). -/
def shardBytes (s : Shard) : List Byte :=
  leBytes 4 s.tensorId.toNat ++ coordBytes s.coord ++ leBytes 2 s.region ++ leBytes 2 s.member ++ leBytes 4 s.recs.length ++
    leBytes 8 s.firstSector ++ leBytes 2 s.repIndex ++ leBytes 2 s.repCount ++ leBytes 4 s.poison.length ++ leBytes 8 s.repGroup.toNat ++
    (match s.digest with | some d => digestBytes d | none => zeros 32) ++ zeros 8

/-! ## Manifest (R222-R224) -/

/-- The manifest key of a key. -/
def manifestKey (k : BitVec 256) : List Byte := aes (keyBytes k) (List.replicate 16 0x4D) ++ aes (keyBytes k) (List.replicate 16 0x6D)

/-- What a manifest header holds beside the shards. -/
structure ManHead where
  major : Nat
  flags : Nat
  id    : BitVec 64
  label : BitVec 64
  epoch : BitVec 32
  count : BitVec 48
  state : Nat
  time  : Nat
  kcv   : BitVec 64
  leaves : Nat
  bytes : Nat
  glbVersion : BitVec 32
  fw    : BitVec 32

/-- Every manifest byte before the trailer. -/
def manifestBody (h : ManHead) (shards : List Shard) : List Byte :=
  ([0x53, 0x55, 0x4C, 0x45, 0x4E, 0x4D, 0x41, 0x4E] ++ leBytes 1 h.major ++ leBytes 1 h.flags ++ zeros 2 ++ leBytes 4 shards.length ++
    leBytes 8 h.id.toNat ++ leBytes 8 h.label.toNat ++ leBytes 4 h.epoch.toNat ++ zeros 4 ++ leBytes 6 h.count.toNat ++ leBytes 1 h.state ++
    zeros 1 ++ leBytes 8 h.time ++ leBytes 8 h.kcv.toNat ++ leBytes 8 h.leaves ++ leBytes 8 h.bytes ++ leBytes 4 h.glbVersion.toNat ++
    leBytes 4 h.fw.toNat ++ leBytes 8 (256 + 256 * shards.length + 64) ++ zeros 160) ++ shards.flatMap shardBytes

/-- A manifest with its trailer; the key of a sealed object's authenticator. -/
def manifestOf (h : ManHead) (shards : List Shard) (key : Option (BitVec 256)) : List Byte :=
  let b := manifestBody h shards
  match key with
  | some k => b ++ hmacOf 1 (manifestKey k) b ++ [1] ++ zeros 15
  | none => b ++ sha 1 b ++ [0] ++ zeros 15

/-- A leaf digest the tree of a shard is over, with kind 3 records given by `f`. -/
def Shard.leafDigests (s : Shard) : List (BitVec 256) := s.recs.map (·.digest)

/-- The shard digest present equals the tree of its records (R224). -/
def Shard.digestOk (ssf : Nat) (s : Shard) : Bool :=
  match s.digest with
  | none => true
  | some d => d == (if ssf = 2 then shardDigestV2 s.tensorId s.leafDigests else shardDigest s.tensorId s.leafDigests)

/-- The checks of R224 on an object with the keys of the chamber's two slots: a status, or none. -/
def manifestFault (id : BitVec 64) (keys : List (BitVec 256)) (o : StoredObj) : Option (BitVec 16) :=
  let m := o.manifest
  let len := m.length
  if bytesAt m 0 8 ≠ [0x53, 0x55, 0x4C, 0x45, 0x4E, 0x4D, 0x41, 0x4E] ∨ leAt m 8 1 ≠ o.ssf ∨ leAt m 9 1 ≥ 128 ∨ leAt m 16 8 ≠ id.toNat then
    some sManifestMismatch
  else if leAt m 88 8 ≠ len ∨ len ≠ 256 + 256 * leAt m 12 4 + 64 ∨ leAt m 12 4 ≠ o.shards.length then some sManifestMismatch
  else
    let body := m.take (len - 64)
    let auth := bytesAt m (len - 64) 48
    let typ := leAt m (len - 16) 1
    let tree := if o.shards.all (Shard.digestOk o.ssf) then none else some sManifestMismatch
    if typ = 1 then
      match keys.find? fun k => (kcvOf k).toNat == leAt m 56 8 with
      | none => some sKeyEmpty
      | some k => if hmacOf 1 (manifestKey k) body = auth then tree else some sAuthFailed
    else if typ = 0 then (if sha 1 body = auth then tree else some sAuthFailed)
    else some sManifestMismatch

/-! ## Blocks -/

/-- The additional authenticated data of a drain block (Table 8 of chapter 07). -/
def aadOf (id : BitVec 64) (tensor : BitVec 32) (leaf codec type n kind : Nat) : List Byte :=
  leBytes 8 id.toNat ++ leBytes 4 tensor.toNat ++ leBytes 6 leaf ++ leBytes 1 codec ++ leBytes 1 type ++ leBytes 4 n ++ leBytes 1 kind ++ zeros 7

/-- A sector with its check value over data and SLBA (R200). -/
def sectorOf (slba : Nat) (l : List Byte) : List Byte := let d := padTo 4096 l; d ++ leBytes 8 (crc64 (d ++ leBytes 8 slba))

/-- The frame of a block of `n` sectors from an SLBA. -/
def frameOf : Nat → Nat → List Byte → List Byte
  | 0, _, _ => []
  | n + 1, slba, l => sectorOf slba (l.take 4096) ++ frameOf n (slba + 1) (l.drop 4096)

/-! ## Space (R210, R211, R226) -/

/-- Sectors of the data zones. -/
def Media.capacity (m : Media) : Nat := (m.zones - 3) * 2 ^ 18

/-- Sectors an object holds: its places, its index space, its manifest. -/
def StoredObj.sectors (o : StoredObj) : Nat :=
  (o.shards.map fun s => 16 * s.places.length + shardSectors s.recs.length s.poison.length).sum + ceilDiv o.manifest.length 4096

/-- Free sectors of a store. -/
def Media.free (m : Media) : Nat := m.capacity - (m.objects.map StoredObj.sectors).sum

/-- The SLBA after every place in use. DESIGN CHOICE, assumption log 15: places are allocated upward from there, and again from zone 3 past the end. -/
def Media.topPlace (m : Media) : Nat :=
  m.objects.foldl (fun a o => o.shards.foldl (fun a s => s.places.foldl (fun a p => max a (p.2.1 + 16)) a) a) (3 * 2 ^ 18)

/-- Whether a place is mapped. -/
def Media.mapped (m : Media) (slba : Nat) : Bool := m.objects.any fun o => o.shards.any fun s => s.places.any fun p => p.2.1 == slba

/-- The first SLBAs of `n` places (R226): one run above every place in use where it fits, else the free places in rising order. -/
def Media.reservePlaces (m : Media) (n : Nat) : List Nat :=
  let a := m.topPlace
  if a + 16 * n ≤ m.zones * 2 ^ 18 then (List.range n).map fun i => a + 16 * i
  else (((List.range (m.capacity / 16)).map fun i => 3 * 2 ^ 18 + 16 * i).filter fun p => !m.mapped p).take n

/-- The namespace (controller, NSID) that holds an SLBA. -/
def Media.nsOf (m : Media) (slba : Nat) : Nat × BitVec 32 := m.ns.getD (slba / 2 ^ m.log2Stripe % max m.ns.length 1) (0, 0)

/-- The first 512 bytes of a store's superblock (Table 2 of chapter 08). -/
def Media.superblock (m : Media) (glbVersion : BitVec 32) : List Byte :=
  padTo 512 ([0x53, 0x55, 0x4C, 0x45, 0x4E, 0x53, 0x53, 0x46] ++ leBytes 1 m.major ++ [0] ++ leBytes 1 (b2n m.deleting) ++ leBytes 1 m.keepCount ++
    zeros 4 ++ leBytes 16 m.identity.toNat ++ leBytes 1 m.ns.length ++ leBytes 1 m.log2Stripe ++ [18] ++ zeros 1 ++ leBytes 4 m.zones ++
    leBytes 8 m.generation ++ leBytes 6 (if m.ckptNo % 2 = 0 then 2 ^ 18 else 2 ^ 19) ++ zeros 2 ++ leBytes 8 m.ckptSeq ++ leBytes 4 m.ckptLen ++
    zeros 4 ++ leBytes 8 m.serialHigh ++ leBytes 4 glbVersion.toNat ++ leBytes 4 m.creatorFw.toNat)

/-- Runs of adjacent places in a list in leaf order. -/
def placeRuns : List (Nat × Nat × List Byte) → Nat
  | [] => 0
  | [_] => 1
  | a :: b :: r => (if b.1 = a.1 + 1 ∧ b.2.1 = a.2.1 + 16 then 0 else 1) + placeRuns (b :: r)

/-- The EXTENT records of an object: runs of places of each shard, its index sectors, its manifest (R215). -/
def StoredObj.extents (o : StoredObj) : Nat := (o.shards.map fun s => placeRuns s.places).sum + 2

/-- The map extents of a store. -/
def Media.extents (m : Media) : Nat := (m.objects.map StoredObj.extents).sum

/-- Sectors of a checkpoint's zone table (R217). -/
def Media.zoneSectors (m : Media) : Nat := ceilDiv (ceilDiv m.zones 4) 4096

/-- The records of a checkpoint. -/
def Media.ckptRecords (m : Media) : Nat := m.extents + m.objects.length

/-- Write a checkpoint and then the superblock pair (R217). -/
def Media.checkpoint (m : Media) : Media :=
  { m with
    ckptNo := m.ckptNo + 1, ckptSeq := m.journalSeq, ckptLen := 1 + ceilDiv m.ckptRecords 128 + m.zoneSectors
    generation := m.generation + 1 }

/-- Sectors of the journal ring (R211). -/
def Media.ring (m : Media) : Nat := 2 ^ 18 - 2 * 2 ^ m.log2Stripe

/-- Zones that hold a place. -/
def Media.zoneUsed (m : Media) (z : Nat) : Bool := m.objects.any fun o => o.shards.any fun s => s.places.any fun p => p.2.1 / 2 ^ 18 == z

/-- After the orphan scan every zone marked open is data or free (R230). -/
def Media.settleZones (m : Media) : Media :=
  { m with zoneState := (m.zoneState.map fun p => if p.2 = 2 then (p.1, if m.zoneUsed p.1 then 1 else 0) else p).filter fun p => p.2 != 0 }

/-- A live object by ID (R225). -/
def Media.live (m : Media) (id : BitVec 64) : Option StoredObj := m.objects.find? fun o => o.id == id && !o.expired

/-- An object held, live or expired and referenced. -/
def Media.held (m : Media) (id : BitVec 64) : Option StoredObj := m.objects.find? fun o => o.id == id

/-- The objects an object's records refer to. -/
def StoredObj.refs (o : StoredObj) : List (BitVec 64) :=
  o.shards.flatMap fun s => s.recs.filterMap fun r => if r.kind = 1 ∨ r.kind = 2 then some r.refObj else none

/-- Drop the expired objects that no live object refers to (R225). -/
def Media.sweepExpired (m : Media) : Media :=
  let keep := (m.objects.filter fun o => !o.expired).flatMap StoredObj.refs
  { m with objects := m.objects.filter fun o => !o.expired || keep.contains o.id }

/-- GLB_VERSION of a build (Table 2 of chapter 20). -/
def glbVersion (s : State) : BitVec 32 := BitVec.ofNat 32 (0x03020000 + s.stileCount)

/-- The record of a leaf. -/
def Shard.record (s : Shard) (k : Nat) : Option IndexRec := s.recs[k]?

/-- The poisoned beats of the leaf a record refers to. -/
def Media.refBeats (m : Media) (q : IndexRec) : List Nat :=
  match (m.held q.refObj).bind fun o => o.shards[q.refShard]? with
  | some h => ((h.poison.find? fun p => p.1 == q.refLeaf).map (·.2)).getD []
  | none => []

/-- The live objects of a chamber pushed out beyond the newest `keep` (R225). -/
def Media.expireBeyond (m : Media) (ch keep : Nat) : Media :=
  let live := m.objects.filter fun o => objChamber o.id == ch && !o.expired
  if keep = 0 then m
  else
    let newer (o : StoredObj) : Nat := (live.filter fun u => decide (o.commitSeq < u.commitSeq)).length
    { m with objects := m.objects.map fun o => if objChamber o.id = ch ∧ keep ≤ newer o then { o with expired := true } else o }

/-- Enter an object into its store: EXTENT and EXPIRE sectors, then the COMMIT sector (steps 5, 6 and 8 of Table 8 of chapter 08). -/
def Media.commit (m : Media) (o : StoredObj) : Media :=
  let ch := objChamber o.id
  let expired := ((m.objects ++ [o]).filter fun u => objChamber u.id == ch && !u.expired).length - m.keepCount
  let seq := m.journalSeq + ceilDiv (o.extents + (if m.keepCount = 0 then 0 else expired)) 127
  (({ m with objects := m.objects ++ [{ o with commitSeq := seq }], journalSeq := seq + 1 }).expireBeyond ch m.keepCount).sweepExpired

/-- A media entry that holds no store any more. -/
def Media.blank (m : Media) : Media := { m with ns := [], idents := [], objects := [], damaged := true }

/-- What a mount does to a store: replay keeps what was committed, the orphan scan settles the zones, a checkpoint is written (R216, R217, R230,
R234). -/
def Media.remount (m : Media) : Media := ({ m.settleZones.sweepExpired with nextSerial := m.serialHigh + 1 }).checkpoint

/-- Sectors of a zone that are mapped to places. -/
def Media.zoneMapped (m : Media) (z : Nat) : Nat :=
  16 * (m.objects.map fun o => (o.shards.map fun s => (s.places.filter fun p => p.2.1 / 2 ^ 18 == z).length).sum).sum

/-- Objects with a place in a zone. -/
def Media.zoneObjects (m : Media) (z : Nat) : List (BitVec 64) :=
  (m.objects.filter fun o => o.shards.any fun s => s.places.any fun p => p.2.1 / 2 ^ 18 == z).map (·.id)

/-- Move a zone's places to the start of another zone, in order. -/
def Media.moveZone (m : Media) (z target : Nat) : Media :=
  let olds := (m.objects.flatMap fun o => o.shards.flatMap fun s => s.places.map (·.2.1)).filter fun p => p / 2 ^ 18 == z
  let new (p : Nat) : Nat := if p / 2 ^ 18 = z then target * 2 ^ 18 + 16 * (olds.takeWhile (· != p)).length else p
  { m with
    objects := m.objects.map fun o => { o with shards := o.shards.map fun s => { s with places := s.places.map fun p => (p.1, new p.2.1, p.2.2) } }
    zoneState := (m.zoneState.filter fun q => q.1 != z && q.1 != target) ++ (if olds.isEmpty then [] else [(target, 2)])
    journalSeq := m.journalSeq + (if olds.isEmpty then 1 else 1 + ceilDiv (2 * olds.length) 127 + 1) }

end Sys2Proof
end

