-- ==== Sys2Proof/Machine/Granule.lean ====
section
/-! DEFINITION. Granules: the bitmaps and their transitions (R145-R148), copies and where they go (R155, R437-R439), watermarks (R160), guarded
step copies (R318, R319), requests the pass-through holds and forwards (R38-R46). -/

namespace Sys2Proof.Machine

/-! ## States (Table 2 of chapter 06) -/

abbrev gClean : GBits := ⟨false, false⟩
abbrev gDirty : GBits := ⟨true, false⟩
/-- ARMED in closed mode, TAKEN in open mode. -/
abbrev gTaken : GBits := ⟨false, true⟩
/-- PENDING in closed mode, OWED in open mode. -/
abbrev gOwed : GBits := ⟨true, true⟩

/-- The first access to a row after a flip turns its ARMED granules CLEAN (R147). -/
def Stile.absorb (t : Stile) (row : Nat) : Stile :=
  if t.rowFlip.get row = t.flips then t
  else { t with
    gran := ⟨t.gran.dflt, t.gran.entries.map fun p => if p.1 / 512 = row ∧ p.2 = gTaken then (p.1, gClean) else p⟩
    rowFlip := t.rowFlip.set row t.flips }

/-- The state of a granule by local index. -/
def Stile.bits (t : Stile) (loc : Nat) : GBits := (t.absorb (loc / 512)).gran.get loc

/-- Set the state of a granule. -/
def Stile.setBits (t : Stile) (loc : Nat) (b : GBits) : Stile :=
  let t := t.absorb (loc / 512)
  { t with gran := t.gran.set loc b }

/-- Set the state of granule `g`, where the table places it. -/
def State.setGran (s : State) (g : Nat) (b : GBits) : State :=
  match s.place g with
  | some (st, loc) => s.onSt st fun t => t.setBits loc b
  | none => s

/-- The state of granule `g`; DIRTY outside the table. -/
def State.gran (s : State) (g : Nat) : GBits :=
  match s.place g with
  | some (st, loc) => (s.st st).bits loc
  | none => gDirty

/-- Set granules [lo, lo + n) DIRTY. -/
def State.dirtyRange (s : State) (lo n : Nat) : State := (List.range n).foldl (fun s i => s.setGran (lo + i) gDirty) s

/-- Set every granule of a chamber's regions DIRTY (R165, R431). -/
def State.dirtyChamber (s : State) (ch : Nat) : State :=
  (s.regionsOf ch).foldl (fun s p => s.dirtyRange p.2.base p.2.granules) s

/-! ## Where granules belong -/

/-- The region that holds granule `g`. -/
def State.regionAt (s : State) (g : Nat) : Option (Nat × Region) :=
  s.regions.entries.findSome? fun p => match p.2 with
    | some r => if r.base ≤ g ∧ g < r.base + r.granules then some (p.1, r) else none
    | none => none

/-- The member and leaf of granule `g` of a region; none where it holds no leaf. -/
def Region.leafAt (r : Region) (g : Nat) : Option (Nat × Nat) :=
  let per := if r.coord.members ≤ 1 then r.granules else r.coord.stride / 65536
  let m := (g - r.base) / max per 1
  let k := (g - r.base) % max per 1
  if m < r.coord.members ∧ k < r.coord.leaves then some (m, k) else none

/-- The bytes of granule `g` as the spec's readers see it: at its slow-tier place once moved there (R256, R441). -/
def State.granAddr (s : State) (g : Nat) : Nat :=
  match s.regionAt g with
  | some (_, r) => r.addrOf g 0
  | none => g * 65536

/-- The content of granule `g` and its poisoned beats. -/
def State.granRead (s : State) (g : Nat) : List Byte × List Nat :=
  let a := s.granAddr g
  (s.peek a 65536, s.mem.badBeats a 65536)

/-! ## Copies -/

/-- Rebate slots in use. -/
def Stile.rebateUsed (t : Stile) : Nat := (t.copies.filter fun c => c.reserve.isNone).length

/-- Free rebate slots of the 32. -/
def Stile.rebateFree (t : Stile) : Nat := 32 - t.rebateLost - t.rebateUsed

/-- Whether reserve granule `g` holds a copy. -/
def State.reserveHolds (s : State) (g : Nat) : Bool := s.stiles.entries.any fun p => p.2.copies.any fun c => c.reserve == some g

/-- A free reserve granule of a chamber that stile `st` owns (R155). -/
def State.reserveFree (s : State) (ch st : Nat) : Option Nat :=
  let c := s.ch ch
  ((List.range c.rsvSize).map (c.rsvBase + ·)).find? fun g =>
    (match s.place g with | some (t, _) => t == st | none => false) && !s.reserveHolds g

/-- The reserve level of a chamber: reserve granules that hold copies (R156). -/
def State.reserveLevel (s : State) (ch : Nat) : Nat :=
  let c := s.ch ch
  ((s.stiles.entries.flatMap fun p => p.2.copies).filter fun k => match k.reserve with
    | some g => decide (c.rsvBase ≤ g ∧ g < c.rsvBase + c.rsvSize)
    | none => false).length

/-- Whether a level is at `pct` percent of the reserve (R156). -/
def Chamber.atLevel (c : Chamber) (level pct : Nat) : Bool := decide (pct * c.rsvSize ≤ level * 100)

/-- Take note of the reserve level: its registers, peak, and the crossings of R160. -/
def State.relevel (s : State) (ch : Nat) : State :=
  let c := s.ch ch
  let r := (s.un ch).cap
  let n := s.reserveLevel ch
  let up (pct : Nat) : Bool := decide (r.level < n) && !c.atLevel r.level pct && c.atLevel n pct
  let warn := up c.rsvWarn
  let stall := up c.rsvStall
  let s := s.onCapRegs ch fun r => { r with
    level := n, peak := max r.peak n, warnCross := r.warnCross || warn, stallCross := r.stallCross || stall,
    warnCount := if warn then min 255 (r.warnCount + 1) else r.warnCount
    stallCount := if stall then min 255 (r.stallCount + 1) else r.stallCount }
  let s := { s with cap := { s.cap with run := s.cap.run.map fun u => if u.chamber = ch then { u with peak := max u.peak n } else u } }
  let s := if warn && !r.warnCross || stall && !r.stallCross then s.cause 1 else s
  if warn || stall then s.log eWatermark 1 0 0 (some ch) [] else s

/-- Take note of every chamber's reserve level. -/
def State.relevelAll (s : State) : State := (s.chambers.entries.map (·.1)).foldl State.relevel s

/-- Where a capture's copy goes: a rebate slot, a reserve granule below the stall watermark, or nowhere (Table 7 of chapter 06). -/
def State.capPlace (s : State) (ch st : Nat) : Option (Option Nat) :=
  let c := s.ch ch
  if (s.st st).rebateFree > 0 then some none
  else if c.atLevel (s.reserveLevel ch) c.rsvStall then none
  else (s.reserveFree ch st).map some

/-- Where a copy for the step alone goes (R438). -/
def State.stepPlace (s : State) (ch st : Nat) : Option (Option Nat) :=
  let c := s.ch ch
  let t := s.st st
  if t.isOpen then
    if s.port.stepFloor.toNat < t.rebateFree then some none
    else if c.atLevel (s.reserveLevel ch) (if s.port.stepReserve then c.rsvStall else c.rsvWarn) then none
    else (s.reserveFree ch st).map some
  else if t.rebateFree > 0 then some none
  else (s.reserveFree ch st).map some

/-- Drop shares: copies left with none are freed (R439). -/
def State.dropShares (s : State) (cap : Copy → Bool) (step : Copy → Bool) : State :=
  let f (k : Copy) : Copy := { k with forCap := k.forCap && !cap k, forStep := if step k then none else k.forStep }
  let s := { s with stiles := s.stiles.mapAll fun t => { t with
    copies := (t.copies.map f).filter fun k => k.forCap || k.forStep.isSome } }
  s.relevelAll

/-- End every step share of a chamber, and its step epoch (R439, R254). -/
def State.freeStepCopies (s : State) (ch : Nat) : State :=
  (s.dropShares (fun _ => false) (fun k => k.forStep == some ch)).onStep ch fun t => { t with epochOpen := false, scope := [] }

/-- The guard of a chamber's step is lost (R319, R439). -/
def State.loseGuard (s : State) (ch : Nat) : State :=
  if (s.un ch).step.guardLost then s else
  let s := s.dropShares (fun _ => false) (fun k => k.forStep == some ch)
  (s.onStep ch fun t => { t with guardLost := true }).log sReserveExhausted 0 0 0 (some ch) []

/-- The chamber whose open, guarded step epoch covers granule `g` (R318). -/
def State.stepOf (s : State) (g : Nat) : Option Nat :=
  match s.regionAt g with
  | some (i, r) =>
    let t := (s.un r.chamber).step
    if t.epochOpen && !t.guardLost && t.scope.contains i then some r.chamber else none
  | none => none

/-- Add a copy of granule `g` in stile `st`. -/
def State.addCopy (s : State) (st loc g : Nat) (place : Option Nat) (cap : Bool) (step : Option Nat) (ready : Bool) : State :=
  let (d, b) := s.granRead g
  let s := s.onSt st fun t => { t with copies := t.copies ++ [⟨loc, g, place, cap, step, ready, d, b⟩] }
  let s := match place with
    | some r => { s with mem := ((s.mem.write (r * 65536) d).mark (r * 65536) 65536 false) }
    | none => s
  s.relevelAll

/-- What a capture write to granule `g` does before it goes on: transitions of Table 3 of chapter 06, and its copies (R155, R437, R438).
Answers whether a copy was begun, and whether the granule is stalled. -/
def State.track (s : State) (g : Nat) (ready : Bool) : State × Bool × Bool :=
  match s.place g with
  | none => (s, false, false)
  | some (st, loc) =>
    let t := s.st st
    if !t.moverOn && !t.removed then (s, false, false)
    else
      let b := t.bits loc
      let mine := t.copies.any fun k => k.loc == loc && k.forStep.isSome
      let step := if mine || t.removed then none else s.stepOf g
      if t.isOpen && b == gOwed then
        match s.cap.run with
        | none => (s.onSt st fun t => t.setBits loc gDirty, false, false)
        | some run =>
          match if t.removed then none else s.capPlace run.chamber st with
          | some p => ((s.addCopy st loc g p true step ready).onSt st fun t => t.setBits loc gTaken, true, false)
          | none => (match step with | some c => s.loseGuard c | none => s, false, true)
      else
        let s2 := s.onSt st fun t => t.setBits loc (if b == gClean then gDirty else if !t.isOpen && b == gTaken then gOwed else b)
        match step with
        | none => (s2, false, false)
        | some c => match s.stepPlace c st with
          | some p => ((s.addCopy st loc g p false (some c) ready).onSt st fun t =>
              t.setBits loc (if b == gClean then gDirty else if !t.isOpen && b == gTaken then gOwed else b), true, false)
          | none => (s2.loseGuard c, false, false)

/-! ## Forwarding -/

/-- The effect on memory of a request the controller performs: a WRITE stores its enabled bytes and marks their beats; the effect of an ATOMIC
or an unknown op is not given: its beats are undefined (assumption log 11). -/
def State.memReq (s : State) (r : HReq) : State :=
  let a := r.addr.toNat
  match r.op.toNat with
  | 0 => s
  | 4 => s
  | 1 =>
    let m := (List.range (128 * r.beats)).foldl (fun m i => if r.be.getD i false then
      { m with bytes := m.bytes.set (a + i) (r.data.getD i 0) } else m) s.mem
    let m := (List.range r.beats).foldl (fun m i =>
      if (r.be.drop (128 * i)).take 128 |>.any id then { m with poison := m.poison.set (a / 128 + i) (r.poison.getD i false) } else m) m
    { s with mem := m }
  | _ => { s with
      mem := s.mem.write a ((List.range (128 * r.beats)).map fun i => Config.undefByte s.free i)
      free := s.free + 1 }

/-- Present a host request on MREQ (R39, R40). -/
def State.forward (s : State) (st : Nat) (r : HReq) : State :=
  (s.memReq r).onSt st fun t => { t with
    lastMreq := some (r, false)
    passing := if r.op = 4 then t.passing else t.passing ++ [⟨r.tag, r.op != 0, if r.op = 0 then r.beats else 1⟩] }

/-- Release the held requests of one granule, in held order (R41, R155). -/
def State.releaseGran (s : State) (st g : Nat) : State :=
  let go := (s.st st).held.filter fun h => h.granule == g
  let s := s.onSt st fun t => { t with held := t.held.filter fun h => h.granule != g }
  go.foldl (fun s h => s.forward st h.req) s

/-- Release every held request of a stile, in held order (R46, R159). -/
def State.releaseAll (s : State) (st : Nat) : State :=
  let go := (s.st st).held
  let s := s.onSt st fun t => { t with held := [] }
  go.foldl (fun s h => s.forward st h.req) s

/-- Whether a cell index is built and in service (R80, R505). -/
def State.cellIn (s : State) (st cell : Nat) : Bool :=
  decide (cell < 16) && decide (st < s.stileCount) && !(s.st st).disabled.contains cell

/-- Whether a stile's cell work runs in the next one: its mover is removed, or it has no cell left (R177, R497). -/
def State.thin (s : State) (st : Nat) : Bool := (s.st st).removed || (List.range 16).all fun c => !s.cellIn st c

/-- The stiles, by number. -/
def State.stileList (s : State) : List Nat := List.range s.stileCount

end Sys2Proof.Machine
end

