-- ==== Sys2Proof/Machine/Capture.lean ====
section
/-! DEFINITION. Regions (R140-R144), captures up to the flip and their end (R149-R152, R164-R175, R522, R523), early-warning rules (R169-R172),
the freeze (R57, R58). -/

namespace Sys2Proof.Machine

/-! ## Coordinate descriptors -/

/-- The descriptor 256 bytes spell. -/
def coordOf (l : List Byte) : Coord :=
  let rank := leAt l 5 1 % 8
  let dims (o : Nat) : List Nat := (List.range rank).map fun d => leAt l (o + 8 * d) 6
  { tensorId := BitVec.ofNat 32 (leAt l 0 4), elemType := leAt l 4 1 % 16, rank := rank, tiled := leAt l 6 1 % 2 == 1, extents := dims 8,
    starts := dims 56, sizes := dims 104
    tiles := (List.range (leAt l 7 1 % 8)).map fun j => (leAt l (152 + 8 * j) 1 % 8, leAt l (154 + 8 * j) 6)
    members := leAt l 184 2, idStep := BitVec.ofNat 32 (leAt l 188 4), stride := leAt l 192 8 }

/-- The first byte and bit of a descriptor's own fields that break R141, in byte order. -/
def coordFault (l : List Byte) : Option (Nat × Nat) :=
  let c := coordOf l
  let bad (b : Bool) (byteNo : Nat) : List (Nat × Nat) := if b then [(byteNo, 0)] else []
  let zero (o n : Nat) : List (Nat × Nat) := (firstSet l o n).toList
  let bits (o mask : Nat) : List (Nat × Nat) := (firstSet [BitVec.ofNat 8 (leAt l o 1) &&& BitVec.ofNat 8 mask] 0 1).toList.map fun p => (o, p.2)
  let count := leAt l 7 1 % 8
  let dim (o d : Nat) : List (Nat × Nat) := if d < c.rank then zero (o + 8 * d + 6) 2 else zero (o + 8 * d) 8
  let tile (j : Nat) : List (Nat × Nat) :=
    if j < count then
      let p := c.tiles.getD j (0, 0)
      bad (p.1 ≥ c.rank ∨ ((c.tiles.take j).any fun q => q.1 == p.1)) (152 + 8 * j) ++ bits (152 + 8 * j) 0xF8 ++ zero (153 + 8 * j) 1 ++
        bad (p.2 = 0 ∨ c.sizes.getD p.1 0 % p.2 ≠ 0) (154 + 8 * j)
    else zero (152 + 8 * j) 8
  (bad (c.elemType > 4) 4 ++ bits 4 0xF0 ++ bad (c.rank = 0 ∨ 6 < c.rank) 5 ++ bits 5 0xF8 ++ bits 6 0xFE ++
    bad (if c.tiled then count = 0 ∨ 4 < count else count ≠ 0) 7 ++ bits 7 0xF8 ++
    (List.range 6).flatMap (dim 8) ++ (List.range 6).flatMap (dim 56) ++
    ((List.range 6).flatMap fun d => dim 104 d ++
      bad (d < c.rank ∧ (c.sizes.getD d 0 = 0 ∨ c.extents.getD d 0 < c.starts.getD d 0 + c.sizes.getD d 0)) (104 + 8 * d)) ++
    (List.range 4).flatMap tile ++ bad (c.members = 0) 184 ++ zero 186 2 ++
    bad (c.stride % 65536 ≠ 0 ∨ (c.members = 1 ∧ c.stride ≠ 0)) 192 ++ zero 200 56).head?

/-- Whether a descriptor fits a region of `n` bytes (R141). -/
def coordFits (c : Coord) (n : Nat) : Bool :=
  let data := c.elems * elemSize c.elemType
  if c.members = 1 then decide (data ≤ n) else decide (n = c.members * c.stride ∧ ceilDiv data 65536 * 65536 ≤ c.stride)

/-- The lowest free region ID from 1, ID 0 last. DESIGN CHOICE, assumption log 16. -/
def State.freeRegion (s : State) : Option Nat :=
  if 65536 ≤ (s.regions.entries.filter fun p => p.2.isSome).length then none
  else match (List.range 65535).find? fun i => (s.regions.get (i + 1)).isNone with
    | some i => some (i + 1)
    | none => some 0

/-- REGION_DECLARE (R140-R143, R49). -/
def bodyRegionDeclare (x : Sub) (e : Ext) (twin : Bool) (s : State) : Res :=
  let l := s.peek x.c.toNat 256
  let base := x.a.toNat / 65536
  let n := x.b.toNat / 65536
  let c := coordOf l
  if e.readErr then fail s sMalformed
  else match coordFault l with
  | some p => ⟨s, some sInvalidField, faultDesc 1 1 0 p.2 p.1, 0, []⟩
  | none =>
    if twin ∧ 4 < c.rank then reject s sInvalidField 1 1 0 5
    else if !coordFits c x.b.toNat then badParam s 24
    else if (List.range n).any fun i => (s.place (base + i)).isNone then badParam s 16
    else if s.meetsRegion base (base + n) || s.meetsReserve base (base + n) then fail s sRegionOverlap
    else if (s.ch x.chamber).quotaRegion ≤ (s.regionsOf x.chamber).length then fail s sRegionFull
    else match s.freeRegion with
    | none => fail s sRegionFull
    | some i =>
      let r : Region := ⟨x.chamber, base, x.b.toNat, c, 128, 0, 1, 0, 0, .const false⟩
      done ({ s with regions := s.regions.set i (some r) }.dirtyRange base n) (BitVec.ofNat 64 i)

/-- Change a region. -/
def State.onRegion (s : State) (i : Nat) (f : Region → Region) : State := { s with regions := s.regions.modify i (Option.map f) }

/-- Whether granule `g` is undrained in an open capture: OWED or TAKEN. -/
def State.undrained (s : State) (g : Nat) : Bool :=
  match s.place g with
  | some (st, loc) => (s.st st).isOpen && ((s.st st).bits loc).copied
  | none => false

/-- Whether a region has undrained granules. -/
def State.regionBusy (s : State) (r : Region) : Bool := (List.range r.granules).any fun i => s.undrained (r.base + i)

/-- REGION_RETIRE (R144). -/
def bodyRegionRetire (x : Sub) (s : State) : Res :=
  match s.region x.handle.toNat with
  | none => badParam s 4
  | some r =>
    if s.regionBusy r || (s.cap.blocks.any fun b => b.region == x.handle.toNat) then fail s sCaptureBusy
    else done { s with regions := s.regions.set x.handle.toNat none } 0

/-- DRAIN_HINT (R163). -/
def bodyDrainHint (x : Sub) (s : State) : Res := done (s.onRegion x.handle.toNat fun r => { r with rank := fld x.a 7 0 }) 0

/-- REPLICA_SET (R166). -/
def bodyReplicaSet (x : Sub) (s : State) : Res :=
  done (s.onRegion x.handle.toNat fun r => { r with repIndex := fld x.a 15 0, repCount := fld x.a 31 16, repGroup := x.b }) 0

/-! ## Freeze -/

/-- Ask for a freeze: FRZ_HOLD rises unless it or FRZ_HOLD_ACK is high (R57). -/
def State.askFreeze (s : State) (who : Option Nat) : State :=
  if s.frz.hold || s.frz.ack then { s with frz := { s.frz with waiting := s.frz.waiting ++ [who] } }
  else { s with frz := { s.frz with hold := true, asker := some who, timeout := if s.port.frzTimeout = 0 then 1 else s.port.frzTimeout } }

/-- FRZ_HOLD rises for the next asker that waits (R57, step 8). -/
def State.nextFreeze (s : State) : State :=
  match s.frz.waiting with
  | w :: r => if s.frz.hold || s.frz.ack then s else { s with frz := { s.frz with waiting := r } }.askFreeze w
  | [] => s

/-- Lower FRZ_HOLD. Where FRZ_HOLD_ACK is low, the next asker has it (R57, R58). -/
def State.lowerFreeze (s : State) : State := { s with frz := { s.frz with hold := false, asker := none } }.nextFreeze

/-- An asker that no longer waits. -/
def State.dropFreeze (s : State) (who : Option Nat) : State :=
  let s := { s with frz := { s.frz with waiting := s.frz.waiting.filter (· != who) } }
  if s.frz.asker = some who then s.lowerFreeze else s

/-! ## The scope of a capture -/

/-- A leaf of a scope: region ID, region, member, leaf, granule. -/
def CapRun.leaves (r : CapRun) : List (Nat × Region × Nat × Nat × Nat) :=
  r.regs.flatMap fun p => p.2.leafList.map fun q => (p.1, p.2, q.1, q.2, p.2.leafGranule q.1 q.2)

/-- Sectors a capture reserves: places, index sectors with a poison entry per leaf, manifest (R226). -/
def CapRun.sectors (r : CapRun) : Nat :=
  16 * r.leaves.length + (r.regs.map fun p => p.2.coord.members * shardSectors p.2.coord.leaves p.2.coord.leaves).sum +
    ceilDiv (256 + 256 * (r.regs.map fun p => p.2.coord.members).sum + 64) 4096

/-- The stiles of a scope. -/
def State.scopeStiles (s : State) (r : CapRun) : List Nat :=
  s.stileList.filter fun st => r.leaves.any fun q => match s.place q.2.2.2.2 with | some (t, _) => t == st | none => false

/-- A capture of the chamber that has not ended. -/
def State.capBusy (s : State) (ch : Nat) : Bool :=
  (match s.cap.run with | some r => r.chamber == ch | none => false) || s.cap.waits.any fun w => w.run.chamber == ch

/-- Set the phase of CHM_CAP_STATE, with cause 3 (R67). -/
def State.capPhase (s : State) (ch n : Nat) : State := (s.onCapRegs ch fun r => { r with phase := n }).cause 3

/-- The words of the partial result area (R128). -/
def CapRun.words (r : CapRun) : List (BitVec 64) :=
  [r.id, BitVec.ofNat 64 r.epoch.toNat, BitVec.ofNat 64 r.toDrain, BitVec.ofNat 64 r.skipped, BitVec.ofNat 64 r.bytes,
   BitVec.ofNat 64 (r.freezeNs % 2 ^ 32 + r.heldWrites % 2 ^ 32 * 2 ^ 32), BitVec.ofNat 64 r.peak]

/-- A store whose storage cannot serve: CC3 down, or a controller of it quarantined or detached (R477, R494). -/
def State.storeDown (s : State) (h : Nat) : Option (BitVec 16) :=
  if s.sto.down then some sNotInState
  else match s.mounted h with
  | none => some sNotInState
  | some m => if m.ns.any fun p => (s.sto.ctrls.get p.1).quar || !(s.sto.ctrls.get p.1).attached then some sTimeout else none

/-- The capture a CAPTURE or a rule starts, as its chamber stands at dispatch. -/
def State.capNew (s : State) (ch : Nat) (cmd : Option Sub) (rule : Nat) (label : BitVec 64) (policy immediate : Bool)
    (regs : List (Nat × Region)) : CapRun :=
  let c := s.ch ch
  let kcv (k : Nat) : List (BitVec 64) := if (s.keys.get k).state = 2 then [kcvOf (s.keys.get k).key] else []
  { chamber := ch, cmd := cmd, rule := rule, id := 0, store := c.store, label := label, policy := policy, immediate := immediate, phase := 1,
    regs := regs, sealed := c.sealed, flow := c.flow, dedup := c.dedup, slot := c.keyActive, kcvs := kcv c.keyActive ++ kcv c.keySecond,
    mode := c.mode, reserved := 0, flipped := false, epoch := 0, flipTime := 0, holdTime := 0, stepCount := 0, stepCode := 0, midstep := false,
    degraded := false, toDrain := 0, drained := 0, skipped := 0, bytes := 0, freezeNs := 0, heldWrites := 0, peak := 0, poisoned := 0,
    dirFull := 0, full := [], places := [], cancel := false }

/-- What refuses a capture at dispatch (R49, R61, R127, R149, R193, R195, R226, R237, R523). -/
def State.capRefuse (s : State) (r : CapRun) (v2Bad : Bool) : Option (BitVec 16) :=
  let c := s.ch r.chamber
  let k := s.keys.get r.slot
  if s.capBusy r.chamber then some sCaptureBusy
  else if !c.storeValid || (s.mounted c.store).isNone || s.port.ilvMismatch != 0 then some sNotInState
  else match s.storeDown c.store with
  | some st => some st
  | none =>
    let v2 := match s.mounted c.store with | some m => m.major == 2 | none => false
    if v2 && (v2Bad || r.regs.any fun p => p.2.coord.tiled || decide (4 < p.2.coord.rank)) then some sInvalidField
    else if r.sealed && s.drbg.stop then some sNotInState
    else if r.sealed && k.state != 2 then some sKeyEmpty
    else if r.sealed && decide (2 ^ 32 < k.count + k.reserved + r.leaves.length) then some sKeyWorn
    else
      let others := (s.cap.run.toList ++ s.cap.waits.map (·.run)).filter fun o => o.store == r.store
      match s.mounted c.store with
      | some m =>
        let shards := (r.regs.map fun p => p.2.coord.members).sum
        if m.free < r.sectors + (others.map CapRun.sectors).sum then some sStoreFull
        else if 128 * (2 ^ 18 - 1 - m.zoneSectors) < m.ckptRecords + shards + 3 then some sStoreFull
        else none
      | none => none

/-- Enter a capture as waiting: its invocations reserved (R195), phase 1. A CAPTURE in state APPLIED releases the step copies (Table 15 of
chapter 05); a triggered one stays behind a rejected step (R171). -/
def State.capEnter (s : State) (r : CapRun) : State :=
  let n := if r.sealed then r.leaves.length else 0
  let s := if r.sealed then s.onKey r.slot fun k => { k with reserved := k.reserved + n } else s
  let t := (s.un r.chamber).step
  let s := if r.cmd.isSome && t.phase == .applied then s.freeStepCopies r.chamber else s
  let s := { s with cap := { s.cap with waits := s.cap.waits ++ [CapWait.mk { r with reserved := n } (r.cmd.isNone && t.rejected)] } }
  (s.onCapRegs r.chamber fun c => { c with
    trigRule := r.rule, triggered := r.cmd.isNone, midstep := false, policy := r.policy, degraded := false }).capPhase r.chamber 1

/-- CAPTURE (R127, R149, R150 step 1). It goes on with CAPTURE_START. -/
def bodyCapture (x : Sub) (e : Ext) (s : State) : Res :=
  let c := s.ch x.chamber
  let inc := if fld x.a 1 0 = 0 then c.incremental else fld x.a 1 0 == 2
  let regs := if x.b = 0 then s.regionsOf x.chamber else
    let ids := s.idList x.b.toNat (fld x.c 15 0)
    (s.regionsOf x.chamber).filter fun p => ids.contains p.1
  let r := s.capNew x.chamber (some x) 0 x.d inc (bit x.a 2 || c.immediate) regs
  if s.cap.waits.any (fun w => w.run.cmd == some x) then wait s
  else if e.readErr && x.b != 0 then fail s sMalformed
  else if c.storeValid ∧ x.handle.toNat ≠ c.store then badParam s 4
  else match s.capRefuse r (bit x.a 2 || fld x.a 1 0 == 2) with
  | some st => if st = sInvalidField then badParam s 16 else fail s st
  | none => wait (s.capEnter r)

/-! ## The end of a capture -/

/-- The record of LOG_READ log 1 (R522). -/
def CapRun.record (r : CapRun) (st : BitVec 16) (now : Nat) (byReset : Bool) : CapStat :=
  { id := r.id, label := r.label, epoch := if r.flipped then r.epoch else 0, status := st
    flags := BitVec.ofNat 8 (b2n r.policy + 2 * b2n r.cmd.isNone + 4 * b2n r.midstep + 8 * b2n r.degraded + 16 * b2n byReset + 32 * b2n r.sealed +
      64 * b2n r.flow)
    rule := r.rule, flipTime := if r.flipped then r.flipTime else 0, endTime := now, toDrain := r.toDrain, written := r.drained - r.skipped,
    skipped := r.skipped, poisoned := r.poisoned, dirFull := r.dirFull, freezeNs := r.freezeNs, heldWrites := r.heldWrites, peak := r.peak,
    bytes := r.bytes }

/-- Keep the last 64 records. -/
def keep64 (l : List CapStat) : List CapStat := l.drop (l.length - 64)

/-- The scope's granules after a capture that did not succeed: before the flip the prepare sweep is undone (R151), after it all are DIRTY
(R175). -/
def State.capUndo (s : State) (r : CapRun) : State :=
  r.leaves.foldl (fun s q =>
    let g := q.2.2.2.2
    if r.flipped then s.setGran g gDirty
    else if 2 ≤ r.phase then (let b := s.gran g; s.setGran g (if b = gTaken then gClean else if b = gOwed then gDirty else b))
    else s) s

/-- Take the capture out: held writes released, capture shares ended, stiles closed, blocks and frames gone, reservations released. -/
def State.capClear (s : State) (r : CapRun) : State :=
  let s := s.stileList.foldl State.releaseAll s
  let s := s.dropShares (fun _ => true) (fun _ => false)
  let s := { s with
    stiles := s.stiles.mapAll fun t => { t with isOpen := false, cells := t.cells.mapAll fun c => { c with granule := none } }
    cap := { s.cap with run := none, waits := s.cap.waits.filter (·.run != r), blocks := [], recs := [] }
    ciph := { s.ciph with assigned := .const none }
    stage := { s.stage with posted := s.stage.posted.filter fun b => !b.toSsd, heldReads := [], freed := [] } }
  let s := s.dropFreeze none
  if r.sealed then s.onKey r.slot fun k => { k with reserved := k.reserved - r.reserved } else s

/-- Record the end and report it, with the terminal phase of its command: statistics, CHM_CAP_STATE, the command or the log (R170, R522). -/
def State.capReportAs (s : State) (r : CapRun) (st : BitVec 16) (byReset : Bool) (phase : Nat) : State :=
  let s := s.useTime
  let s := s.onCapRegs r.chamber fun c => { c with stats := keep64 (c.stats ++ [r.record st s.now byReset]), degraded := false }
  let s := s.capPhase r.chamber 0
  if byReset then s
  else match r.cmd with
  | some x => s.finish x phase st r.id r.drained r.words
  | none => s.logStatus st 0 0 (some r.chamber) (leBytes 8 r.id.toNat ++ leBytes 2 st.toNat)

/-- Record the end and report it. -/
def State.capReport (s : State) (r : CapRun) (st : BitVec 16) (byReset : Bool) : State := s.capReportAs r st byReset (termPhase st)

/-- Remove a waiting capture, with a status. -/
def State.waitEnd (s : State) (r : CapRun) (st : BitVec 16) (byReset : Bool) : State :=
  let s := { s with cap := { s.cap with waits := s.cap.waits.filter (·.run != r) } }
  let s := if r.sealed then s.onKey r.slot fun k => { k with reserved := k.reserved - r.reserved } else s
  s.capReport r st byReset

/-- End the running capture without an object (R151, R159, R175). -/
def State.capFail (s : State) (st : BitVec 16) (byReset : Bool) : State :=
  match s.cap.run with
  | none => s
  | some r => (((s.capUndo r).capClear r).capReport r st byReset)

/-- Every capture, running or waiting, ends with ABORTED_BY_HOST in phase 5 at a failover or a CC3 failure (R493, R494). -/
def State.capAllEnd (s : State) : State :=
  let s := match s.cap.run with
    | some r => ((s.capUndo r).capClear r).capReportAs r sAborted false 5
    | none => s
  s.cap.waits.foldl (fun s w =>
    let s := { s with cap := { s.cap with waits := s.cap.waits.filter (·.run != w.run) } }
    let s := if w.run.sealed then s.onKey w.run.slot fun k => { k with reserved := k.reserved - w.run.reserved } else s
    s.capReportAs w.run sAborted false 5) s

/-- End the capture of a key slot that is zeroised (R403). -/
def State.capFailSlot (s : State) (slot : Nat) (st : BitVec 16) : State :=
  let s := match s.cap.run with
    | some r => if r.sealed && r.slot == slot then s.capFail st false else s
    | none => s
  (s.cap.waits.filter fun w => w.run.sealed && w.run.slot == slot).foldl (fun s w => s.waitEnd w.run st false) s

/-- Cancel a chamber's capture (R174): a waiting one goes at once; in the freeze it waits until FRZ_HOLD has been lowered. Answers the units. -/
def State.capCancel (s : State) (ch : Nat) : Option (State × Nat) :=
  match s.cap.waits.find? fun w => w.run.chamber == ch with
  | some w => some (s.waitEnd w.run sAborted false, 0)
  | none => match s.cap.run with
    | none => none
    | some r =>
      if r.chamber ≠ ch then none
      else if r.flipped then some (s.capFail sAborted false, r.drained)
      else some ({ s with cap := { s.cap with run := some { r with cancel := true } } }, r.drained)

/-- CAPTURE_CANCEL (R174). -/
def bodyCaptureCancel (x : Sub) (s : State) : Res :=
  match s.capCancel x.chamber with
  | some (s, n) => done s (BitVec.ofNat 64 n)
  | none => fail s sNotInState

/-! ## Prepare and flip -/

/-- The reference a CLEAN leaf is given: the newest record of it in the store, while the object that stored it is held and its key qualifies
(R164, R165, R432, R433). -/
def State.refOf (s : State) (r : CapRun) (rid : Nat) (g : Region) (m k : Nat) : Option IndexRec :=
  match s.mounted r.store with
  | none => none
  | some md =>
    let mine := md.objects.filter fun o => objChamber o.id == r.chamber
    let found := mine.foldl (fun (best : Option (Nat × IndexRec)) o =>
      match o.shards.find? fun h => h.region == rid && h.member == m && h.tensorId == g.coord.tensor m with
      | none => best
      | some h => match h.record k with
        | none => best
        | some q => match best with
          | some (n, _) => if n ≤ o.commitSeq then some (o.commitSeq, q) else best
          | none => some (o.commitSeq, q)) none
    match found with
    | some (_, q) =>
      if q.kind ≠ 3 ∧ (md.held q.refObj).isSome ∧ (!r.sealed ∨ r.kcvs.contains q.kcv) then some { q with kind := 1 } else none
    | none => none

/-- The prepare sweep (Table 3 of chapter 06; R165, R177, R432): the granules owed become PENDING, the others ARMED. -/
def State.prepare (s : State) (r : CapRun) : State :=
  let (s, full) := r.leaves.foldl (fun (a : State × List Nat) q =>
    let (rid, g, m, k, n) := q
    let s := a.1
    let gone := match s.place n with | some (st, _) => (s.st st).removed | none => false
    if s.gran n = gClean ∧ r.policy ∧ !gone then
      if (s.refOf r rid g m k).isSome then (s.setGran n gTaken, a.2) else (s.setGran n gOwed, a.2 ++ [n])
    else (s.setGran n gOwed, a.2)) (s, [])
  { s with cap := { s.cap with run := s.cap.run.map fun u => { u with full := full } } }

/-- Hand out the next serial of a store, raising SERIAL_HIGH by 64 first where it is at the mark (R228 step 3). -/
def State.takeSerial (s : State) (h : Nat) : Nat × State :=
  match s.mounted h with
  | none => (0, s)
  | some m => (m.nextSerial, s.onMedia h fun m => { m with
      nextSerial := m.nextSerial + 1
      serialHigh := if m.serialHigh < m.nextSerial then m.serialHigh + 64 else m.serialHigh
      journalSeq := if m.serialHigh < m.nextSerial then m.journalSeq + 1 else m.journalSeq })

/-- The clamps of a capture: shared on its regions (Table 5 of chapter 04). -/
def CapRun.clamps (r : CapRun) : List Clamp :=
  let owner := match r.cmd with | some x => (x.sq, x.cid) | none => (16, 0xFFFF)
  r.regs.map fun p => ⟨.granules p.2.base (p.2.base + p.2.granules), false, r.chamber, some owner, 0⟩

/-- The entry that stands for a capture in the clamp table. -/
def CapRun.sub (r : CapRun) : Sub :=
  match r.cmd with
  | some x => x
  | none => ⟨r.chamber, 16, 0x22, 0, 0xFFFF, 0, 0, 0, 0, 0, 0, 0, 0⟩

/-- Whether a waiting capture stands at its step boundary (R152, R171). -/
def State.atBoundary (s : State) (w : CapWait) : Bool :=
  w.run.immediate || (s.ch w.run.chamber).offload == 0 ||
    ((s.un w.run.chamber).step.phase == .idle || (s.un w.run.chamber).step.phase == .applied) && !w.rejected

/-- The movers of a scope that are away (R523). -/
def State.awayMovers (s : State) (r : CapRun) : List Nat := (s.scopeStiles r).filter fun st => !(s.st st).moverOn && !(s.st st).removed

/-- Start a waiting capture whose waits are over: object ID, prepare sweep, freeze (R150 steps 2-4). -/
def State.capStart (s : State) (w : CapWait) : State :=
  let (n, s) := s.takeSerial w.run.store
  let deg := (s.scopeStiles w.run).any s.thin
  let s := s.useTime
  let r := { w.run with
    id := objId w.run.chamber w.run.store n, phase := 3, degraded := deg, holdTime := s.now
    places := match s.mounted w.run.store with | some m => m.reservePlaces w.run.leaves.length | none => [] }
  let s := { s with cap := { s.cap with run := some r, waits := s.cap.waits.filter (·.run != w.run) } }
  let s := s.onCapRegs r.chamber fun c => { c with degraded := deg }
  let s := match r.cmd with
    | some x => (running x s 0).s
    | none => s
  ((s.prepare r).capPhase r.chamber 3).askFreeze none

/-- The scope at step 2 of Table 4: every region of the chamber, or the listed ones still declared. -/
def State.scopeNow (s : State) (r : CapRun) : List (Nat × Region) :=
  (s.regionsOf r.chamber).filter fun p => (match r.cmd with | some x => x.b == 0 | none => true) || r.regs.any fun q => q.1 == p.1

/-- A waiting capture whose scope has changed since its dispatch reserves for the new scope, or ends as a dispatch would (DEDUCED,
assumption log 21). -/
def State.rescope (s : State) (w : CapWait) : Except (BitVec 16) (State × CapWait) :=
  let r := { w.run with regs := s.scopeNow w.run }
  if r.regs = w.run.regs then .ok (s, w)
  else
    let t := { s with cap := { s.cap with waits := s.cap.waits.filter (·.run != w.run) } }
    let t := if w.run.sealed then t.onKey w.run.slot fun k => { k with reserved := k.reserved - w.run.reserved } else t
    match t.capRefuse r false with
    | some st => .error st
    | none =>
      let n := if r.sealed then r.leaves.length else 0
      let t := if r.sealed then t.onKey r.slot fun k => { k with reserved := k.reserved + n } else t
      let w := CapWait.mk { r with reserved := n } w.rejected
      .ok ({ t with cap := { t.cap with waits := w :: t.cap.waits } }, w)

/-- Start a capture at the head of the waiting ones (R150): movers in service, clamps granted. -/
def State.capGo (s : State) (ch : Nat) (w : CapWait) : State :=
  let away := s.awayMovers w.run
  if !away.isEmpty then s.wantDoms (away.map (3 * ·))
  else
    let l := s.squeeze ch w.run.clamps
    if s.grantable w.run.sub l then { s with clamps := s.clamps ++ l }.capStart w else s

/-- CAPTURE_START (R149, R150, R152): the chamber's capture starts when no other runs or has waited longer, it stands at its boundary, its movers
are in service and its clamps are granted. -/
def execCaptureStart (ch : Nat) (s : State) : Host.Outcome State Fault Refusal :=
  .next (match s.cap.waits with
    | [] => s
    | w :: _ =>
      if w.run.chamber ≠ ch ∨ !s.serving ∨ s.pwr.state = .pass ∨ s.cap.run.isSome ∨ !s.atBoundary w then s
      else match s.rescope w with
      | .error st => s.waitEnd w.run st false
      | .ok (s, w) => s.capGo ch w)

/-- Release a capture's clamps at the end of its freeze (R106). -/
def State.capUnclamp (s : State) (r : CapRun) : State := s.unclamp r.sub

/-- Words and phase of a running capture's command. -/
def State.capWord (s : State) (r : CapRun) (phase : Nat) : State :=
  match r.cmd with
  | some x =>
    let s := s.onCmd x fun c => { c with phase := phase, units := r.drained, res := r.words }
    match s.cmd? x with
    | some c => s.putStatus x c.twin phase 0 r.drained r.words
    | none => s
  | none => s

/-- After a change of the running capture: every granule disposed of means closing (R150 step 6). -/
def State.capCheck (s : State) : State :=
  match s.cap.run with
  | some r =>
    if r.phase = 4 ∧ r.toDrain ≤ r.drained ∧ s.cap.blocks = [] then
      let r := { r with phase := 5 }
      ({ s with
        cap := { s.cap with run := some r }
        stiles := s.stiles.mapAll fun t => { t with isOpen := false } }.capPhase r.chamber 5).capWord r 3
    else s.capWord r 2
  | none => s

/-- The capture flip (R147, R150 step 4): the epoch rises, every stile's mode changes, what the step state is goes into the manifest (R172), and the
peak reserve use of R128 starts at the present level (DEDUCED, assumption log 21). -/
def State.capFlip (s : State) (r : CapRun) : State :=
  let s := s.useTime
  let t := (s.un r.chamber).step
  let off := (s.ch r.chamber).offload
  let mid := off != 0 && (t.phase == .begun || t.phase == .measured || t.phase == .normed)
  let ep := s.cap.epoch + 1
  let owed (s : State) (st : Nat) : Bool := r.leaves.any fun q => match s.place q.2.2.2.2 with
    | some (u, loc) => u == st && (s.st st).bits loc == gOwed
    | none => false
  let n := (r.leaves.filter fun q => s.gran q.2.2.2.2 == gOwed).length
  let opens := s.stileList.filter (owed s)
  let s := { s with stiles := s.stiles.mapAll fun t => { t with flips := t.flips + 1 } }
  let s := opens.foldl (fun s st => s.onSt st fun t => { t with isOpen := true }) s
  let r := { r with
    flipped := true, epoch := ep, flipTime := s.now, freezeNs := s.now - r.holdTime, phase := 4, toDrain := n, midstep := mid,
    stepCount := t.count, stepCode := if off = 0 then 0 else t.phase.code, peak := (s.un r.chamber).cap.level }
  let s := { s with cap := { s.cap with epoch := ep, run := some r } }
  let s := s.onCapRegs r.chamber fun c => { c with epoch := ep, midstep := mid }
  (((s.capUnclamp r).capPhase r.chamber 4)).capCheck

/-- The capture's freeze ended without a flip (R58, R151). -/
def State.capFreezeTimeout (s : State) : State :=
  match s.cap.run with
  | some r => (s.capUnclamp r).capFail sTimeout false
  | none => s

/-- The flip of the capture that asked, and a cancel that waited for FRZ_HOLD to fall (R174). -/
def State.capFreezeAck (s : State) : State :=
  match s.cap.run with
  | some r =>
    let s := s.capFlip r
    if r.cancel then s.capFail sAborted false else s
  | none => s

/-- BITMAP_ROW_SWEEP (R487): the next row of a stile that has not absorbed the last flip absorbs it. -/
def execBitmapRowSweep (st : Nat) (s : State) : Host.Outcome State Fault Refusal :=
  .next (let t := s.st st
    match (t.gran.entries.map fun p => p.1 / 512).find? fun r => t.rowFlip.get r != t.flips with
    | some r => s.onSt st fun t => t.absorb r
    | none => s)

/-! ## Early-warning rules -/

/-- The label of a triggered capture (R170). -/
def trigLabel (rule now : Nat) : BitVec 64 := BitVec.ofNat 64 (2 ^ 63 + rule * 2 ^ 56 + now % 2 ^ 56)

/-- The state with the stores that PASS unmounted counted as mounted (R447, R470). -/
def State.withParked (s : State) : State :=
  { s with sto := { s.sto with mount := s.pwr.parkStores.foldl (fun m p => m.set p.1 (some p.2)) s.sto.mount } }

/-- A rule fires (R169-R171): it disarms; its capture starts waiting, or the log says why not; a TRIGGER frame goes out where CHN_TRIG.out
asks for it (R421); in PASS or OFF the block wakes (R447). -/
def State.fireRule (s : State) (i : Nat) (send : Bool) : State :=
  let t := s.trigs.get i
  match t.armed with
  | none => s
  | some ch =>
    let s := s.useTime
    let s := { s with trigs := s.trigs.set i { t with armed := none } }
    let s := s.onCapRegs ch fun r => { r with fired := setBit r.fired i true }
    let s := if send && bit s.chain.trigOut i && s.onChain then
        s.sendFrame 3 255 (leBytes 1 i ++ zeros 3)
      else s
    let s := s.beginWake
    let r := s.capNew ch none i (trigLabel i s.now) (s.ch ch).incremental (s.ch ch).immediate (s.regionsOf ch)
    match s.withParked.capRefuse r false with
    | some st => s.log st 0 0 0 (some ch) (leBytes 1 i)
    | none => s.capEnter r

/-- TRIGGER_ARM and its disarm (R169). -/
def bodyTrigger (x : Sub) (s : State) : Res :=
  let c := s.ch x.chamber
  let i := fld x.a 3 0
  let t := s.trigs.get i
  let other := match t.armed with | some ch => ch != x.chamber | none => false
  let input := fld x.a 14 8
  if !c.storeValid then fail s sNotInState
  else if x.handle.toNat ≠ c.store then badParam s 4
  else if other then badParam s 16
  else if bit x.a 4 then
    let s := s.useTime
    let t : Trig := ⟨some x.chamber, c.store, input, BitVec.ofNat 32 (fld x.b 31 0), BitVec.ofNat 32 (fld x.c 31 0),
      s.port.evtCount.get input, s.now, []⟩
    done { s with trigs := s.trigs.set i t } 0
  else done { s with trigs := s.trigs.set i { t with armed := none } } 0

/-- EVENT_PULSE (R59, R169): the input's count rises; a pulse rule on it whose window holds enough edges fires. -/
def execEventPulse (i : Nat) (s : State) : Host.Outcome State Fault Refusal :=
  .next (if 64 ≤ i ∨ s.boot.resetHeld ≠ 0 then s else
    let s := { s with port := { s.port with evtCount := s.port.evtCount.modify i (· + 1) } }
    let n := s.port.evtCount.get i
    (List.range 16).foldl (fun s r =>
      let t := s.trigs.get r
      if t.armed.isNone || t.input != i then s
      else
        let edges := (t.edges ++ [s.now]).filter fun e => decide (s.now < e + t.window.toNat * 1000)
        let s := { s with trigs := s.trigs.set r { t with edges := edges } }
        let rise := if t.window = 0 then (n - t.base).toNat else edges.length
        if t.param.toNat ≤ rise then s.fireRule r true else s) s)

/-- EVENT_LEVEL (R59): the level is seen; rules on it start their wait again. -/
def execEventLevel (i : Nat) (v : Bool) (s : State) : Host.Outcome State Fault Refusal :=
  .next (if 16 ≤ i ∨ s.boot.resetHeld ≠ 0 ∨ bit s.port.evtLevel i = v then s else
    let s := { s with port := { s.port with evtLevel := setBit s.port.evtLevel i v } }
    { s with trigs := s.trigs.mapAll fun t => if t.input = 64 + i then { t with since := s.now } else t })

/-- LEVEL_RULE_TIMER (R169): every armed level rule whose input has held its value for the window fires. -/
def execLevelRuleTimer (s : State) : Host.Outcome State Fault Refusal :=
  .next ((List.range 16).foldl (fun s r =>
    let t := s.trigs.get r
    if t.armed.isSome && decide (64 ≤ t.input) && (bit s.port.evtLevel (t.input - 64) == bit t.param 0) &&
        decide (t.since + t.window.toNat * 1000 ≤ s.now) then s.fireRule r true
    else s) s)

/-! ## Rows -/

/-- REGION_DECLARE (R143). -/
def execRegionDeclare (x : Sub) (e : Ext) (s : State) : Host.Outcome State Fault Refusal :=
  .next (s.runOp { x with opcode := 0x20 } [] (bodyRegionDeclare { x with opcode := 0x20 } e false))

/-- REGION_RETIRE (R144). -/
def execRegionRetire (x : Sub) (_e : Ext) (s : State) : Host.Outcome State Fault Refusal :=
  .next (s.runOp { x with opcode := 0x21 } [] (bodyRegionRetire { x with opcode := 0x21 }))

/-- CAPTURE (R150). -/
def execCapture (x : Sub) (e : Ext) (s : State) : Host.Outcome State Fault Refusal :=
  .next (s.runOp { x with opcode := 0x22 } [] (bodyCapture { x with opcode := 0x22 } e))

/-- DRAIN_HINT (R163). -/
def execDrainHint (x : Sub) (_e : Ext) (s : State) : Host.Outcome State Fault Refusal :=
  .next (s.runOp { x with opcode := 0x23 } [] (bodyDrainHint { x with opcode := 0x23 }))

/-- CAPTURE_CANCEL (R174). -/
def execCaptureCancel (x : Sub) (_e : Ext) (s : State) : Host.Outcome State Fault Refusal :=
  .next (s.runOp { x with opcode := 0x24 } [] (bodyCaptureCancel { x with opcode := 0x24 }))

/-- REPLICA_SET (R166). -/
def execReplicaSet (x : Sub) (_e : Ext) (s : State) : Host.Outcome State Fault Refusal :=
  .next (s.runOp { x with opcode := 0x25 } [] (bodyReplicaSet { x with opcode := 0x25 }))

/-- A TRIGGER_ARM entry that arms (A[4] = 1). -/
def armSub (x : Sub) : Sub := { x with opcode := 0x26, a := setBit x.a 4 true }

/-- A TRIGGER_ARM entry that disarms (A[4] = 0). -/
def disarmSub (x : Sub) : Sub := { x with opcode := 0x26, a := setBit x.a 4 false }

/-- TRIGGER_ARM (R169). -/
def execTriggerArm (x : Sub) (_e : Ext) (s : State) : Host.Outcome State Fault Refusal :=
  .next (s.runOp (armSub x) [] (bodyTrigger (armSub x)))

/-- TRIGGER_DISARM (R169). -/
def execTriggerDisarm (x : Sub) (_e : Ext) (s : State) : Host.Outcome State Fault Refusal :=
  .next (s.runOp (disarmSub x) [] (bodyTrigger (disarmSub x)))

end Sys2Proof.Machine
end

