-- ==== Sys2Proof/Machine/Sync.lean ====
section
/-! DEFINITION. The sync unit (R326-R347): objects, links, signals, watches, barriers, remote signals. -/

namespace Sys2Proof.Machine

/-! ## Signals -/

/-- The largest value. -/
abbrev vMax : Nat := 2 ^ 64 - 1

/-- The mortise whose tenon object `i` is. -/
def State.mortiseOf (s : State) (i : Nat) : Option (Nat × SyncObj) :=
  s.sync.objs.entries.find? fun p => p.2.link && p.2.linkTo.toNat == i

/-- A fired watch (R337, R338): it has fired, its notification is written, its interrupt recorded. FABM0 is woken for the write. -/
def State.fireWatch (s : State) (err : Bool) (w : Nat) : State :=
  let k := s.sync.watches.get w
  let s := { s with sync := { s.sync with watches := s.sync.watches.set w { k with fired := true } } }
  let s :=
    if k.addr = 0 then s
    else
      let s := if s.dom 111 then s else s.wantDom 111
      if err then s.log sMalformed 2 0 0 (some k.chamber) (leBytes 8 k.addr.toNat)
      else s.poke k.addr.toNat (leBytes 8 k.value.toNat)
  if k.irq then
    (s.onUn k.chamber fun u => { u with wirqCount := satAdd 16 u.wirqCount 1, wirqGen := k.gen, wirqIndex := w }).cause 4
  else s

/-- Insert a watch by threshold, then index. -/
def insertWatch (p : Nat × Watch) : List (Nat × Watch) → List (Nat × Watch)
  | [] => [p]
  | q :: r => if p.2.level.toNat < q.2.level.toNat then p :: q :: r else q :: insertWatch p r

/-- Evaluate the watches of an object (R331, R337, R338). -/
def State.evalWatches (s : State) (i : Nat) (err : Bool) : State :=
  let v := (s.sync.objs.get i).value
  let due := s.sync.watches.entries.filter fun p => p.2.used && !p.2.fired && p.2.object == i && decide (p.2.level.toNat ≤ v.toNat)
  (due.foldl (fun l p => insertWatch p l) []).foldl (fun s p => s.fireWatch err p.1) s

/-- One overrun event on object `i` (R327, R330). -/
def State.overran (s : State) (i : Nat) : State :=
  let o := s.sync.objs.get i
  let s := s.onObj i fun o => { o with overrun := true }
  let s := s.onUn o.chamber fun u => { u with overruns := satAdd 16 u.overruns 1 }
  s.log sNotInState 0 0 0 (some o.chamber) (leBytes 2 i ++ leBytes 8 o.value.toNat)

/-- Add an increment to an object: saturation, link order, watches, in one event (R327, R330, R331). An unallocated object drops it (R336). -/
def State.signal (s : State) (i incr : Nat) (err : Bool) : State :=
  let o := s.sync.objs.get i
  if !o.alloc then s.log sNotInState 0 0 0 none (leBytes 2 i)
  else
    let v := o.value.toNat + incr
    let s := s.onObj i fun o => { o with value := BitVec.ofNat 64 (min v vMax) }
    let s := if v > vMax then s.overran i else s
    let n := min v vMax
    let s := if o.link && decide (n > (s.sync.objs.get o.linkTo.toNat).value.toNat + o.bound.toNat) then s.overran i else s
    let s := match if o.tenon then s.mortiseOf i else none with
      | some m => if n > m.2.value.toNat then s.overran i else s
      | none => s
    s.evalWatches i err

/-- Whether a marker or gate of chamber `ch` may name object `i` (R276). -/
def State.ownsObj (s : State) (ch i : Nat) : Bool := let o := s.sync.objs.get i; o.alloc && o.chamber == ch

/-- Whether object `i` has reached a value (R327). -/
def State.reached (s : State) (i v : Nat) : Bool := decide (v ≤ (s.sync.objs.get i).value.toNat)

/-- Whether a post of `incr` to object `i` respects the bound of its link (R330). -/
def State.postFits (s : State) (i incr : Nat) : Bool :=
  let o := s.sync.objs.get i
  !o.link || decide (o.value.toNat + incr ≤ (s.sync.objs.get o.linkTo.toNat).value.toNat + o.bound.toNat)

/-! ## Objects -/

/-- The chamber's range of objects. -/
def State.objRange (s : State) (ch : Nat) : List Nat := (List.range (s.ch ch).quotaSync).map ((s.un ch).syncBase + ·)

/-- Whether an object can be allocated. -/
def SyncObj.free (o : SyncObj) : Bool := !o.alloc && !o.holdOff && !o.retired

/-- The objects a SYNC_ALLOC takes (R326). -/
def State.objPick (s : State) (ch n : Nat) (run : Bool) : Option (List Nat) :=
  let ok (i : Nat) : Bool := (s.sync.objs.get i).free
  let l := s.objRange ch
  if run then
    (l.find? fun i => decide (i + n ≤ (s.un ch).syncBase + (s.ch ch).quotaSync) && (List.range n).all fun k => ok (i + k)).map fun i =>
      (List.range n).map (i + ·)
  else
    let f := (l.filter ok).take n
    if f.length = n then some f else none

/-- SYNC_ALLOC (R326, R136). -/
def bodySyncAlloc (x : Sub) (s : State) : Res :=
  match s.objPick x.chamber (fld x.a 15 0) (bit x.a 16) with
  | none => fail s sSyncExhausted
  | some l =>
    let s := l.foldl (fun s i => s.onObj i fun _ => { SyncObj.zero with alloc := true, value := x.b, chamber := x.chamber }) s
    done s (BitVec.ofNat 64 (l.headD 0 + l.getLastD 0 * 2 ^ 32))

/-- Dissolve the link an object is in (R329). -/
def State.unlink (s : State) (i : Nat) : State :=
  let o := s.sync.objs.get i
  let s := if o.link then (s.onObj o.linkTo.toNat fun t => { t with tenon := false }).onObj i fun o => { o with link := false } else s
  match if o.tenon then s.mortiseOf i else none with
  | some m => (s.onObj m.1 fun t => { t with link := false }).onObj i fun o => { o with tenon := false }
  | none => s

/-- Free an object: its link is dissolved; one that admitted remote signals waits out R336. -/
def State.freeObj (s : State) (i : Nat) : State :=
  let s := s.unlink i
  s.onObj i fun o => { SyncObj.zero with holdOff := o.remoteOk, retired := o.retired }

/-- SYNC_FREE (R336, R136). -/
def bodySyncFree (x : Sub) (s : State) : Res :=
  let l := (List.range (fld x.a 15 0)).map (x.handle.toNat + ·)
  if s.sync.watches.entries.any fun p => p.2.used && l.contains p.2.object then fail s sNotInState
  else done (l.foldl State.freeObj s) 0

/-! ## Remote signals (R333, R422) -/

/-- The SIGNAL frame of a remote signal. -/
def State.sendSignal (s : State) (r : RemoteSig) : State :=
  if s.onChain then
    s.sendFrame 0x10 r.dest ([BitVec.ofNat 8 r.chamber, 0] ++ leBytes 2 r.object ++ leBytes 2 r.seq.toNat ++ zeros 2 ++
      leBytes 4 (r.incr.toNat - 1))
  else s

/-- The outcome of a remote signal reaches its command; a Dovetail's stage keeps it for the Dovetail's row (R351). -/
def State.endRemote (s : State) (r : RemoteSig) (st : BitVec 16) (result : BitVec 64) : State :=
  let s := { s with sync := { s.sync with remote := s.sync.remote.erase r } }
  match s.cmdAt r.chamber r.sq r.cid with
  | none => s
  | some c =>
    if c.sub.opcode = 0xA2 then conclude c.sub ⟨s, some st, result, 0, []⟩
    else s.onCmd c.sub fun c => { c with acc := [1, st.zeroExtend 64, result] }

/-- SYNC_SIGNAL (R331, R333, R415, R420). -/
def bodySyncSignal (x : Sub) (e : Ext) (s : State) : Res :=
  let dest := fld x.b 7 0
  if dest = 0 ∨ (s.chain.address ≠ 0 ∧ dest = s.chain.address) then
    let s := s.signal x.handle.toNat x.a.toNat e.writeErr
    done s (s.sync.objs.get x.handle.toNat).value
  else if s.sync.remote.any fun r => r.chamber == x.chamber && r.sq == x.sq && r.cid == x.cid then wait s
  else match s.cmd? x with
    | some { acc := [1, st, r], .. } => ⟨s.onCmd x fun c => { c with acc := [] }, some (st.truncate 16), r, 0, []⟩
    | _ =>
      if s.chain.version = 1 ∨ s.chain.address = 0 then fail s sNotInState
      else
        let seq := s.sync.nextSeq.get dest
        let r : RemoteSig := ⟨dest, seq, x.handle.toNat, x.chamber, x.a, 0, x.sq, x.cid⟩
        let s := { s with sync := { s.sync with remote := s.sync.remote ++ [r], nextSeq := s.sync.nextSeq.set dest (seq + 1) } }
        wait (s.sendSignal r)

/-- A received SIGNAL (R334): refused where the object does not admit it, acknowledged and not applied where it is a duplicate, else applied. -/
def State.recvSignal (s : State) (f : DclFrame) (err : Bool) : State :=
  let src := f.source.toNat
  let ch := leAt f.payload 0 1 % 32
  let i := leAt f.payload 2 2 % 16384
  let seq : BitVec 16 := BitVec.ofNat 16 (leAt f.payload 4 2)
  let o := s.sync.objs.get i
  let ack := leBytes 2 seq.toNat ++ leBytes 2 i
  let dup := match s.sync.lastSeq.get src with
    | some l => decide ((l - seq).toNat < 2 ^ 15)
    | none => false
  if dup then
    { s with sync := { s.sync with dupRemote := satAdd 16 s.sync.dupRemote 1 } }.sendFrame 0x11 src ack
  else if o.alloc && o.remoteOk && o.remoteCh.toNat == ch then
    let s := { s with sync := { s.sync with lastSeq := s.sync.lastSeq.set src (some seq) } }
    (s.signal i (leAt f.payload 8 4 + 1) err).sendFrame 0x11 src ack
  else
    let s := if o.alloc then s.syncForbid o.chamber else s
    (s.logStatus sForbidden 8 src none (leBytes 2 i)).sendFrame 0x12 src ack

/-! ## Watches -/

/-- WATCH_SET (R337, R136). -/
def bodyWatchSet (x : Sub) (e : Ext) (s : State) : Res :=
  let mine := (s.sync.watches.entries.filter fun p => p.2.used && p.2.chamber == x.chamber).length
  match if (s.ch x.chamber).quotaWatch ≤ mine then none else (List.range 4096).find? fun w => !(s.sync.watches.get w).used with
  | none => fail s sSyncExhausted
  | some w =>
    let g := (s.sync.watches.get w).gen
    let k : Watch := ⟨true, x.chamber, x.handle.toNat, x.a, bit x.b 0, x.c, x.d, false, g⟩
    let s := { s with sync := { s.sync with watches := s.sync.watches.set w k } }
    let s := if s.reached x.handle.toNat x.a.toNat then s.fireWatch e.writeErr w else s
    done s (BitVec.ofNat 64 (w + g * 4096))

/-- WATCH_CLEAR (R337, R339, R136). -/
def bodyWatchClear (x : Sub) (s : State) : Res :=
  let i := x.handle.toNat % 4096
  let w := s.sync.watches.get i
  if !w.used ∨ w.gen ≠ x.handle.toNat / 4096 % 16 then reject s sInvalidField 10 0 0 4
  else
    let s := { s with sync := { s.sync with watches := s.sync.watches.set i { Watch.zero with gen := (w.gen + 1) % 16 } } }
    done s (BitVec.ofNat 64 (b2n w.fired))

/-! ## Barriers -/

/-- Change barrier `b`. -/
def State.onBar (s : State) (b : Nat) (f : Bar → Bar) : State := { s with sync := { s.sync with bars := s.sync.bars.modify b f } }

/-- The bytes of BAR_ARRIVE and BAR_WITHDRAW. -/
def barPayload (b n token : Nat) : List Byte := [BitVec.ofNat 8 b, 0] ++ leBytes 2 n ++ leBytes 2 token ++ zeros 2

/-- End one waiting join. -/
def State.endJoin (s : State) (j : Nat × Nat × BitVec 16 × Nat × Bool) (st : BitVec 16) (gen : BitVec 32) : State :=
  match s.cmdAt j.1 j.2.1 j.2.2.1 with
  | none => s
  | some c => s.finish c.sub (termPhase st) st (if st = sOk then gen.zeroExtend 64 else 0) (b2n (st == sOk)) []

/-- Release barrier `b` with the generation it had (R340). -/
def State.releaseBar (s : State) (b : Nat) (gen : BitVec 32) : State :=
  let k := s.sync.bars.get b
  let s := s.onBar b fun _ => { Bar.zero with gen := gen + 1 }
  k.joins.foldl (fun s j => s.endJoin j sOk gen) s

/-- Drop a join and its arrival; a barrier without arrivals loses its claim (R340, R341). -/
def State.dropJoin (s : State) (b : Nat) (j : Nat × Nat × BitVec 16 × Nat × Bool) : State :=
  s.onBar b fun k =>
    let n := k.arrived - 1
    if n = 0 then { Bar.zero with gen := k.gen } else { k with arrived := n, joins := k.joins.erase j }

/-- Whether this unit counts chain-wide barriers. -/
def State.isMaster (s : State) : Bool := s.chain.role == 1

/-- The master counts one arrival at barrier `b`, and releases it at n (R342, R423). -/
def State.masterArrive (s : State) (b n : Nat) : State :=
  let m := s.chainW.masterBar.get b
  let c := m.2 + 1
  if c < n then { s with chainW := { s.chainW with masterBar := s.chainW.masterBar.set b (n, c) } }
  else
    let gen := (s.sync.bars.get b).gen
    let s := { s with chainW := { s.chainW with
      masterBar := s.chainW.masterBar.set b (0, 0), barTokens := s.chainW.barTokens.filter fun t => t.2.1 != b } }
    let s := s.sendFrame 0x1B 255 ([BitVec.ofNat 8 b, 0, 0, 0] ++ leBytes 4 gen.toNat)
    if (s.sync.bars.get b).chain then s.releaseBar b gen else s.onBar b fun k => if k.claimed then k else { k with gen := gen + 1 }

/-- The master drops one arrival at barrier `b`. -/
def State.masterWithdraw (s : State) (b : Nat) : State :=
  let m := s.chainW.masterBar.get b
  { s with chainW := { s.chainW with masterBar := s.chainW.masterBar.set b (if m.2 ≤ 1 then (0, 0) else (m.1, m.2 - 1)) } }

/-- Withdraw a join (R341, R342). On a member, a chain-wide join waits for the master's answer; `leave`: its command ends without it. -/
def State.withdraw (s : State) (b : Nat) (j : Nat × Nat × BitVec 16 × Nat × Bool) (leave : Bool) : State :=
  let k := s.sync.bars.get b
  if !k.chain then s.dropJoin b j
  else if s.isMaster then (s.masterWithdraw b).dropJoin b j
  else
    let s := if j.2.2.2.2 ∨ !s.onChain then s else s.sendFrame 0x19 1 (barPayload b k.n j.2.2.2.1)
    if leave then s.dropJoin b j
    else s.onBar b fun k => { k with joins := k.joins.map fun i => if i = j then (j.1, j.2.1, j.2.2.1, j.2.2.2.1, true) else i }

/-- The barrier and join of a command. -/
def State.joinOf (s : State) (ch q : Nat) (cid : BitVec 16) : Option (Nat × (Nat × Nat × BitVec 16 × Nat × Bool)) :=
  s.sync.bars.entries.findSome? fun p => (p.2.joins.find? fun j => j.1 == ch && j.2.1 == q && j.2.2.1 == cid).map fun j => (p.1, j)

/-- BARRIER_JOIN (R340, R342, R415, R420). -/
def bodyBarrierJoin (x : Sub) (s : State) : Res :=
  let b := x.handle.toNat
  let k := s.sync.bars.get b
  let n := fld x.a 15 0
  let wide := bit x.a 16
  if (s.joinOf x.chamber x.sq x.cid).isSome then wait s
  else if k.claimed ∧ k.chamber ≠ x.chamber then
    reject ((s.syncForbid k.chamber).logStatus sForbidden 0 0 (some k.chamber) []) sForbidden 10 0 0 4
  else if wide ∧ (s.chain.role = 2 ∨ s.chain.address = 0 ∨ s.chain.version = 1) then fail s sNotInState
  else if (k.claimed ∧ (k.n ≠ n ∨ k.chain ≠ wide)) ∨
      (wide ∧ s.isMaster ∧ (s.chainW.masterBar.get b).1 ≠ 0 ∧ (s.chainW.masterBar.get b).1 ≠ n) then badParam s 16
  else
    let token := if wide then s.chainW.token else 0
    let s := if wide then { s with chainW := { s.chainW with token := (s.chainW.token + 1) % 2 ^ 16 } } else s
    let s := s.onBar b fun k =>
      { k with claimed := true, chain := wide, chamber := x.chamber, n := n, arrived := k.arrived + 1,
               joins := k.joins ++ [(x.chamber, x.sq, x.cid, token, false)] }
    let r := running x s 0
    let s := r.s
    if wide then
      if s.isMaster then wait (s.masterArrive b n)
      else wait (if s.onChain then s.sendFrame 0x18 1 (barPayload b n token) else s)
    else if (s.sync.bars.get b).arrived = n then wait (s.releaseBar b (s.sync.bars.get b).gen)
    else r

/-- Every pending chain-wide join ends with PARTNER_TIMEOUT, its arrival withdrawn, and the master's counts are lost (R343). -/
def State.endChainJoins (s : State) : State :=
  let l := s.sync.bars.entries.filter fun p => p.2.chain
  let s := l.foldl (fun s p =>
    let s := s.onBar p.1 fun k => { Bar.zero with gen := k.gen }
    p.2.joins.foldl (fun s j => s.endJoin j sTimeout 0) s) s
  { s with chainW := { s.chainW with masterBar := .const (0, 0), barTokens := [] } }

/-- BARRIER_TIMEOUT (R341, R342): the join's timeout B has run out. -/
def execBarrierTimeout (ch sq : Nat) (cid : BitVec 16) (s : State) : Host.Outcome State Fault Refusal :=
  .next (match s.joinOf ch sq cid, s.cmdAt ch sq cid with
    | some (b, j), some c =>
      if fld c.sub.b 31 0 = 0 then s
      else if (s.sync.bars.get b).chain && !s.isMaster then s.withdraw b j false
      else (s.withdraw b j false).endJoin j sTimeout 0
    | _, _ => s)

/-- SYNC_REMOTE_HOLD_EXPIRY (R336). -/
def execSyncRemoteHoldExpiry (obj : Nat) (s : State) : Host.Outcome State Fault Refusal :=
  .next (s.onObj obj fun o => { o with holdOff := false })

/-- REMOTE_SIGNAL_RETRY (R333): the frame is sent again, or the signal ends. -/
def execRemoteSignalRetry (dest : Nat) (seq : BitVec 16) (s : State) : Host.Outcome State Fault Refusal :=
  .next (match s.sync.remote.find? fun r => r.dest == dest && r.seq == seq with
    | none => s
    | some r =>
      if r.tries < s.sync.retries.toNat then
        let q := { r with tries := r.tries + 1 }
        ({ s with sync := { s.sync with remote := s.sync.remote.map fun t => if t = r then q else t } }).sendSignal q
      else s.endRemote r sTimeout 1)

/-! ## The sync window and the signal aperture -/

/-- The chamber that owns an object and is not the accessing one: the access is refused (R55, R344). -/
def State.objForeign (s : State) (a : Access) (i : Nat) : Option Nat :=
  let o := s.sync.objs.get i
  if o.alloc && o.chamber != privCh a then some o.chamber else none

/-- Address of SYN_VALUE of object `i` (R328). -/
def synAddr (i : Nat) : Nat := 0x300000 + i * 16

/-- The write of an object's control word (R329). Reserved bits: ignored whole (R514). -/
def State.linkWrite (s : State) (i : Nat) (v : BitVec 64) : State :=
  if fld v 33 32 ≠ 0 then s.ignoredWrite (synAddr i + 8) else
  let o := s.sync.objs.get i
  let t := fld v 48 35
  let p := s.sync.objs.get t
  let bound := fld v 31 0
  let s := s.onObj i fun o => { o with overrun := o.overrun && !bit v 61, remoteOk := bit v 59, remoteCh := BitVec.ofNat 5 (fld v 53 49) }
  if o.link then (if bit v 60 then s else s.unlink i)
  else if !bit v 60 then s.onObj i fun o => { o with linkTo := BitVec.ofNat 14 t, bound := BitVec.ofNat 32 bound }
  else if p.alloc && p.chamber == o.chamber && t != i && !o.tenon && !p.link && !p.tenon && bound != 0 &&
      decide (p.value.toNat ≤ o.value.toNat) && decide (o.value.toNat - p.value.toNat ≤ bound) then
    (s.onObj i fun o => { o with
      link := true, linkTo := BitVec.ofNat 14 t, bound := BitVec.ofNat 32 bound, baseline := o.value - p.value }).onObj t
      fun p => { p with tenon := true }
  else if p.alloc && p.chamber != o.chamber then
    (s.syncForbid p.chamber).logStatus sForbidden 0 0 (some o.chamber) (leBytes 2 i)
  else s.log sInvalidField 0 0 0 (some o.chamber) (leBytes 2 i)

/-- SYNC_LINK_WRITE (R328, R329). -/
def execSyncLinkWrite (a : Access) (obj : Nat) (v : BitVec 64) (s : State) : Host.Outcome State Fault Refusal :=
  .next (match s.objForeign a obj with
    | some o => s.fabWrite a 3 false (synAddr obj + 8) id |>.syncForbid o
    | none => s.fabWrite a (if obj < 16384 then 0 else 1) false (synAddr obj + 8) fun s =>
        if (s.sync.objs.get obj).alloc then s.linkWrite obj v else s.ignoredWrite (synAddr obj + 8))

/-- A write of SYN_VALUE (R345). -/
def State.handWrite (s : State) (a : Access) (i : Nat) (v : BitVec 64) (err : Bool) : State :=
  let o := s.sync.objs.get i
  if s.life.level < 2 then s.logStatus sLampDenied 0 0 none (leBytes 2 i)
  else if !mgmt a ∨ !o.alloc ∨ v.toNat < o.value.toNat then s.ignoredWrite (synAddr i)
  else
    let s := s.onObj i fun o => { o with value := v, handSet := true }
    let s := { s with sync := { s.sync with handSets := satAdd 32 s.sync.handSets 1 } }
    (s.log eLifeLamp 1 0 0 (some o.chamber) (leBytes 1 o.chamber ++ leBytes 2 i ++ leBytes 8 o.value.toNat ++ leBytes 8 v.toNat)).evalWatches
      i err

/-- SYNC_HAND_SET (R345). -/
def execSyncHandSet (a : Access) (obj : Nat) (v : BitVec 64) (e : Ext) (s : State) : Host.Outcome State Fault Refusal :=
  .next (match if mgmt a then none else s.objForeign a obj with
    | some o => s.fabWrite a 3 false (synAddr obj) id |>.syncForbid o
    | none => s.fabWrite a (if obj < 16384 then 0 else 1) false (synAddr obj) fun s => s.handWrite a obj v e.writeErr)

/-- SIGNAL_APERTURE_WRITE (R54, R55, R331). An increment outside R327 is discarded and logged. -/
def execSignalApertureWrite (a : Access) (off : Nat) (v : BitVec 64) (sizeOk : Bool) (e : Ext) (s : State) :
    Host.Outcome State Fault Refusal :=
  let i := off / 16
  .next (if !sizeOk ∨ off % 16 ≠ 0 ∨ 0x40000 ≤ off then s.fabWrite a 1 false off id
    else match s.objForeign a i with
      | some o => s.fabWrite a 3 false off id |>.syncForbid o
      | none => s.fabWrite a 0 true off fun s =>
          if 1 ≤ v.toNat ∧ v.toNat ≤ 2 ^ 32 then s.signal i v.toNat e.writeErr
          else s.logPartner sMalformed 9 a.lane (some (privCh a)) (leBytes 4 off))

/-! ## Commands -/

/-- SYNC_ALLOC. -/
def execSyncAlloc (x : Sub) (_e : Ext) (s : State) : Host.Outcome State Fault Refusal :=
  .next (s.runOp { x with opcode := 0xA0 } [] (bodySyncAlloc { x with opcode := 0xA0 }))

/-- SYNC_FREE. -/
def execSyncFree (x : Sub) (_e : Ext) (s : State) : Host.Outcome State Fault Refusal :=
  .next (s.runOp { x with opcode := 0xA1 } [] (bodySyncFree { x with opcode := 0xA1 }))

/-- SYNC_SIGNAL. -/
def execSyncSignal (x : Sub) (e : Ext) (s : State) : Host.Outcome State Fault Refusal :=
  .next (s.runOp { x with opcode := 0xA2 } [] (bodySyncSignal { x with opcode := 0xA2 } e))

/-- WATCH_SET. -/
def execWatchSet (x : Sub) (e : Ext) (s : State) : Host.Outcome State Fault Refusal :=
  .next (s.runOp { x with opcode := 0xA3 } [] (bodyWatchSet { x with opcode := 0xA3 } e))

/-- WATCH_CLEAR. -/
def execWatchClear (x : Sub) (_e : Ext) (s : State) : Host.Outcome State Fault Refusal :=
  .next (s.runOp { x with opcode := 0xA4 } [] (bodyWatchClear { x with opcode := 0xA4 }))

/-- BARRIER_JOIN. -/
def execBarrierJoin (x : Sub) (_e : Ext) (s : State) : Host.Outcome State Fault Refusal :=
  .next (s.runOp { x with opcode := 0xA5 } [] (bodyBarrierJoin { x with opcode := 0xA5 }))

end Sys2Proof.Machine
end

