-- ==== Sys2Proof/Machine/Chain.lean ====
section
/-! DEFINITION. The Dramusal chain: frames, forwarding, enumeration, the master, notices, quarantine (R406-R426). -/

namespace Sys2Proof.Machine

/-! ## Frames (R408-R410) -/

/-- A frame that passed its checks, from its bytes; else whether the CRC alone failed (R407, R409, R411). -/
def parseFrame (l : List Byte) : Except Bool DclFrame :=
  let v := leAt l 0 1
  let n := leAt l 5 1
  if l.length < 8 ∨ l.length ≠ n + 8 ∨ (if v = 1 then 64 else 240) < n then .error false
  else if crc16 (l.take 4 ++ [0] ++ bytesAt l 5 (n + 1)) ≠ beNat (bytesAt l (n + 6) 2) then .error true
  else .ok ⟨BitVec.ofNat 8 v, BitVec.ofNat 8 (leAt l 1 1), BitVec.ofNat 8 (leAt l 2 1), BitVec.ofNat 8 (leAt l 3 1),
    BitVec.ofNat 8 (leAt l 4 1), bytesAt l 6 n⟩

/-- The payload length of a type (Table 2 of chapter 15), and its bytes and bits that are reserved, as (byte, mask). -/
def frameType (t : Nat) : Option (Nat × List (Nat × Nat)) :=
  match t with
  | 0x01 => some (16, [(11, 0xFC), (12, 0xFF), (13, 0xFF), (14, 0xFF), (15, 0xFF)])
  | 0x02 => some (16, [(11, 0xFF)])
  | 0x03 => some (4, [(0, 0xF0), (1, 0xFF), (2, 0xFF), (3, 0xFF)])
  | 0x04 => some (16, [(1, 0xFF), (6, 0xFF), (7, 0xFF)])
  | 0x05 => some (4, [(1, 0xFF), (2, 0xFF), (3, 0xFF)])
  | 0x10 => some (12, [(0, 0xE0), (1, 0xFF), (3, 0xC0), (6, 0xFF), (7, 0xFF)])
  | 0x11 => some (4, [(3, 0xC0)])
  | 0x12 => some (4, [(3, 0xC0)])
  | 0x18 => some (8, [(1, 0xFF), (6, 0xFF), (7, 0xFF)])
  | 0x19 => some (8, [(1, 0xFF), (6, 0xFF), (7, 0xFF)])
  | 0x1A => some (4, [])
  | 0x1B => some (8, [(1, 0xFF), (2, 0xFF), (3, 0xFF)])
  | _ => none

/-- Whether a frame breaks the chapter's rules (R425). ENUM, BEACON and JOIN are version 1 frames (R410). -/
def State.malformedFrame (s : State) (f : DclFrame) : Bool :=
  let t := f.type.toNat
  let v := f.version.toNat
  match frameType t with
  | none => true
  | some (n, rsvd) =>
    (v != 1 && v != 2) || ((t == 1 || t == 2 || t == 5) && v != 1) || (decide (5 < t) && (v != 2 || s.chain.version == 1)) ||
      f.payload.length != n || (rsvd.any fun p => leAt f.payload p.1 1 &&& p.2 != 0) || (f.source == 0 && t != 5)

/-- One violation of a source, logged; at the threshold it is quarantined (R425). -/
def State.violChain (s : State) (src : Nat) : State :=
  let s := s.logPartner sMalformed 8 src none []
  let n := s.chain.viol.get src + 1
  let s := { s with chain := { s.chain with viol := s.chain.viol.set src n } }
  if n < s.feat.thChain ∨ bit s.chain.quar src then s
  else ({ s with chain := { s.chain with quar := setBit s.chain.quar src true } }).logPartner sQuarantined 8 src none []

/-! ## Enumeration (R413-R420) -/

/-- What every enumeration clears: sequence state, quarantines, pending chain-wide joins (R419, R343). -/
def State.newRing (s : State) : State :=
  { s.endChainJoins with
    sync := { s.endChainJoins.sync with nextSeq := .const 0, lastSeq := .const none }
    chain := { s.endChainJoins.chain with quar := 0, viol := .const 0 } }

/-- Whether an enumeration offers version 2: A[9:8] of its command, else CHN_CTL.dcl_max. -/
def State.offersV2 (s : State) (cmd : Option Sub) : Bool :=
  match cmd with
  | some x => fld x.a 9 8 == 2
  | none => s.chain.dclMax != 1

/-- Start an enumeration as master (R414). -/
def State.enumStart (s : State) (cmd : Option Sub) : State :=
  let v2 := s.offersV2 cmd
  let (n, s) := s.draw
  let s := s.newRing
  let was := s.chainW.enumNonce.isSome
  let s := { s with
    chainW := { s.chainW with
      enumNonce := some n, enumCmd := cmd, prevRole := if was then s.chainW.prevRole else s.chain.role,
      prevAddr := if was then s.chainW.prevAddr else s.chain.address, needJoin := false, electing := false }
    chain := { s.chain with role := 1, address := 1, pendAddr := none, full := false } }
  s.sendFrame 1 255 (leBytes 8 n.toNat ++ [2, 1, 0, if v2 then 3 else 1] ++ zeros 4)

/-- The result of CHAIN_CONTROL (chapter 05). -/
def State.chainResult (s : State) : BitVec 64 :=
  BitVec.ofNat 64 (s.chain.address + s.chain.units * 2 ^ 8 + s.chain.role * 2 ^ 16 + s.chain.version * 2 ^ 18)

/-- End the command of an enumeration. -/
def State.enumEnd (s : State) (st : BitVec 16) : State :=
  let cmd := s.chainW.enumCmd
  let s := ({ s with chainW := { s.chainW with enumNonce := none, enumCmd := none } }).cause 5
  match cmd with
  | some x => conclude x (ended s st (if st = sOk then s.chainResult else 0) (if st = sOk then s.chain.units else 0) [])
  | none => s

/-- Send a BEACON (R414, R415). -/
def State.beacon (s : State) : State :=
  s.sendFrame 2 255 (leBytes 8 s.chainW.masterNonce.toNat ++ leBytes 1 s.chain.version ++ leBytes 1 s.chain.units ++
    leBytes 1 s.chain.unassigned ++ [0] ++ leBytes 4 s.chain.epoch.toNat)

/-- The master's own ENUM has returned: a new epoch, the first BEACON, the command's end (R414-R416, R420). -/
def State.enumDone (s : State) (f : DclFrame) : State :=
  let s := { s with
    chain := { s.chain with
      version := if leAt f.payload 11 1 / 2 % 2 = 1 then 2 else 1, units := leAt f.payload 9 1, unassigned := leAt f.payload 10 1,
      epoch := s.chain.epoch + 1, stale := false }
    chainW := { s.chainW with masterNonce := BitVec.ofNat 64 (leAt f.payload 0 8) } }
  s.beacon.enumEnd sOk

/-- A member takes its part in an ENUM (R414): an address or none, the version mask, its sequence state. -/
def State.enumMember (s : State) (f : DclFrame) : State × DclFrame :=
  let next := leAt f.payload 8 1
  let given := decide (next ≤ 247)
  let up (i : Nat) (l : List Byte) : List Byte := setAt l i (BitVec.ofNat 8 (leAt l i 1 + 1))
  let p := if given then up 9 (up 8 f.payload) else up 10 f.payload
  let p := if s.chain.dclMax = 1 then setAt p 11 (BitVec.ofNat 8 (leAt p 11 1) &&& 0xFD) else p
  let s := s.newRing
  ({ s with
    chain := { s.chain with role := 0, pendAddr := some (if given then next else 0), full := !given }
    chainW := { s.chainW with needJoin := false, joined := false, electing := false } }, { f with payload := p })

/-- An ENUM arrives (R414, R417): the frame to forward, if any. -/
def State.enumIn (s : State) (f : DclFrame) : State × Option DclFrame :=
  let m := leAt f.payload 0 8
  match s.chainW.enumNonce with
  | some n =>
    if m = n.toNat then (if f.source.toNat = s.chain.address then s.enumDone f else s.enumStart s.chainW.enumCmd, none)
    else if m < n.toNat then (s, none)
    else
      let s := ({ s with chain := { s.chain with role := 0, address := 0 } }).enumEnd sOk
      let (s, g) := s.enumMember f
      (s, some g)
  | none =>
    if s.chain.role = 2 then (s, some f)
    else
      let (s, g) := s.enumMember f
      (s, some g)

/-- A BEACON arrives (R414, R415, R419): the ring's version, counts and epoch; a new epoch's first one puts the new address in use; a unit that has
to join asks for it. -/
def State.beaconIn (s : State) (f : DclFrame) : State :=
  let ep : BitVec 32 := BitVec.ofNat 32 (leAt f.payload 12 4)
  let s := { s with
    chain := { s.chain with
      version := leAt f.payload 8 1, units := leAt f.payload 9 1, unassigned := leAt f.payload 10 1, epoch := ep, stale := false,
      address := s.chain.pendAddr.getD s.chain.address, pendAddr := none }
    chainW := { s.chainW with electing := false } }
  if s.chainW.needJoin && !s.chainW.joined then
    ({ s with chainW := { s.chainW with joined := true } }).sendFrame 5 1 (leBytes 1 s.chainW.joinPrev ++ zeros 3)
  else s

/-- The master meets a unit it did not enumerate (R419). -/
def State.reEnum (s : State) (src : Nat) : State :=
  if s.chainW.enumNonce.isSome then s
  else
    let s := s.log sDegraded 1 8 src none []
    if s.chain.autoReenum then s.enumStart none else s.cause 5

/-! ## Acting on frames -/

/-- A SIGNAL_ACK or SIGNAL_REFUSE (R422): the remote signal ends; one that matches none is a violation. -/
def State.signalAnswer (s : State) (f : DclFrame) (st : BitVec 16) (r : BitVec 64) : State :=
  let seq : BitVec 16 := BitVec.ofNat 16 (leAt f.payload 0 2)
  match s.sync.remote.find? fun t => t.dest == f.source.toNat && t.seq == seq with
  | some t => s.endRemote t st r
  | none => s.violChain f.source.toNat

/-- A BAR_ARRIVE at the master (R423): a token is counted once; another n is refused, with a log. -/
def State.barArrive (s : State) (f : DclFrame) : State :=
  let b := leAt f.payload 0 1
  let n := leAt f.payload 2 2
  let t := leAt f.payload 4 2
  let src := f.source.toNat
  if !s.isMaster ∨ s.chainW.barTokens.contains (src, b, t) then s
  else if (s.chainW.masterBar.get b).1 ≠ 0 ∧ (s.chainW.masterBar.get b).1 ≠ n then
    (s.logPartner sMalformed 8 src none [BitVec.ofNat 8 b]).sendFrame 0x1A src ([BitVec.ofNat 8 b, 1] ++ leBytes 2 t)
  else ({ s with chainW := { s.chainW with barTokens := s.chainW.barTokens ++ [(src, b, t)] } }).masterArrive b n

/-- A BAR_WITHDRAW at the master (R423): the arrival is dropped and the withdrawal acknowledged. -/
def State.barWithdraw (s : State) (f : DclFrame) : State :=
  let b := leAt f.payload 0 1
  let t := leAt f.payload 4 2
  let src := f.source.toNat
  if !s.isMaster then s
  else
    let s := if s.chainW.barTokens.contains (src, b, t) then
        ({ s with chainW := { s.chainW with barTokens := s.chainW.barTokens.erase (src, b, t) } }).masterWithdraw b
      else s
    s.sendFrame 0x1A src ([BitVec.ofNat 8 b, 0] ++ leBytes 2 t)

/-- A BAR_ACK at a member (R342, R423): the join ends; a refusal is logged here too. -/
def State.barAck (s : State) (f : DclFrame) : State :=
  let b := leAt f.payload 0 1
  let k := s.sync.bars.get b
  match if f.source = 1 ∧ k.chain then k.joins.find? (fun j => j.2.2.2.1 == leAt f.payload 2 2) else none with
  | none => s
  | some j =>
    let s := if leAt f.payload 1 1 = 1 then s.logPartner sMalformed 8 1 none [BitVec.ofNat 8 b] else s
    (s.dropJoin b j).endJoin j sTimeout 0

/-- A BAR_RELEASE (R342, R423): from the master only. -/
def State.barRelease (s : State) (f : DclFrame) : State :=
  let b := leAt f.payload 0 1
  let gen : BitVec 32 := BitVec.ofNat 32 (leAt f.payload 4 4)
  if f.source ≠ 1 then s.violChain f.source.toNat
  else if (s.sync.bars.get b).chain then s.releaseBar b gen
  else s.onBar b fun k => if k.claimed then k else { k with gen := gen + 1 }

/-- Act on a consumed frame that is well formed and not from a quarantined source. ENUM is handled apart. -/
def State.actOn (s : State) (f : DclFrame) (e : Ext) : State :=
  match f.type.toNat with
  | 0x02 => s.beaconIn f
  | 0x03 => let r := leAt f.payload 0 1; if bit s.chain.trigIn r then s.fireRule r false else s
  | 0x04 => s.cause 5
  | 0x05 => if s.isMaster then s.reEnum f.source.toNat else s
  | 0x10 => s.recvSignal f e.writeErr
  | 0x11 => s.signalAnswer f sOk 0
  | 0x12 => s.signalAnswer f sTimeout 2
  | 0x18 => s.barArrive f
  | 0x19 => s.barWithdraw f
  | 0x1A => s.barAck f
  | 0x1B => s.barRelease f
  | _ => s

/-- Whether this unit consumes a frame type (R411, R413): ISOLATED none; without an address ENUM and BEACON; one not READY acts only while it keeps
an address, on ENUM, BEACON and TRIGGER. -/
def State.consumes (s : State) (type : Nat) : Bool :=
  if s.chain.role = 2 then false
  else if s.boot.stage != .ready then s.chain.address != 0 && (type == 1 || type == 2 || type == 3)
  else if s.chain.address = 0 then type == 1 || type == 2
  else true

/-- Whether this unit is one of R411's that strip nothing and consume only ENUM, BEACON and TRIGGER. -/
def State.bystander (s : State) : Bool := s.chain.role == 2 || s.chain.address == 0 || s.boot.stage != .ready

/-- Queue a frame for forwarding (R411). -/
def State.forwardFrame (s : State) (f : DclFrame) : State :=
  { s with chainW := { s.chainW with forwardQ := s.chainW.forwardQ ++ [{ f with hops := f.hops + 1 }] } }

/-- Consume a frame: malformed ones count against their source, quarantined sources are heard for ENUM and BEACON only (R425). Answers what is
forwarded of a broadcast. -/
def State.consume (s : State) (f : DclFrame) (e : Ext) : State × Option DclFrame :=
  if s.malformedFrame f then (s.violChain f.source.toNat, some f)
  else if bit s.chain.quar f.source.toNat ∧ 2 < f.type.toNat then (s, some f)
  else if f.type = 1 then s.enumIn f
  else (s.actOn f e, some f)

/-- Handle a frame by Table 3 of chapter 15, order 2 onwards (R411). A returned or foreign ENUM is compared before it is stripped (R417). -/
def State.frameIn (s : State) (f : DclFrame) (e : Ext) : State :=
  let own := s.chain.address
  let strange := s.isMaster && f.source != 0 && decide (s.chain.units < f.source.toNat) && s.chainW.enumNonce.isNone
  if !s.bystander && f.source.toNat == own && !(f.type == 1 && s.chainW.enumNonce.isSome) then
    if f.dest = 255 then s else { s with chain := { s.chain with undeliv := satAdd 16 s.chain.undeliv 1 } }
  else if f.hops.toNat = 254 then { s with chain := { s.chain with expired := satAdd 16 s.chain.expired 1 } }
  else
    let s := if strange && f.type != 5 then s.reEnum f.source.toNat else s
    if f.dest.toNat = own ∧ own ≠ 0 ∧ !s.bystander then (s.consume f e).1
    else if f.dest = 255 ∧ s.consumes f.type.toNat then
      match s.consume f e with
      | (s, some g) => s.forwardFrame g
      | (s, none) => s
    else s.forwardFrame f

/-- Whether frames are received: the incoming link is up and no cold reset is asserted (R407). -/
def State.listening (s : State) : Bool := s.chain.lock && s.boot.resetHeld != 2

/-- A frame event of one type. -/
def State.frameRow (s : State) (type : BitVec 8) (f : DclFrame) (e : Ext) : State :=
  if s.listening && f.type == type then s.frameIn f e else s

/-- CHAIN_FRAME_RECEIVED (R411): a damaged frame is discarded and counted. -/
def execChainFrameReceived (bytes : List Byte) (damaged : Bool) (e : Ext) (s : State) : Host.Outcome State Fault Refusal :=
  .next (if !s.listening then s
    else if damaged then { s with chain := { s.chain with damaged := satAdd 16 s.chain.damaged 1 } }
    else match parseFrame bytes with
    | .ok f => s.frameIn f e
    | .error true => { s with chain := { s.chain with crc := satAdd 16 s.chain.crc 1 } }
    | .error false => { s with chain := { s.chain with damaged := satAdd 16 s.chain.damaged 1 } })

/-- ENUM (R414). -/
def execEnum (f : DclFrame) (s : State) : Host.Outcome State Fault Refusal := .next (s.frameRow 0x01 f .good)
/-- BEACON (R414). -/
def execBeacon (f : DclFrame) (s : State) : Host.Outcome State Fault Refusal := .next (s.frameRow 0x02 f .good)
/-- TRIGGER (R421). -/
def execTrigger (f : DclFrame) (s : State) : Host.Outcome State Fault Refusal := .next (s.frameRow 0x03 f .good)
/-- NOTICE (R424). -/
def execNotice (f : DclFrame) (s : State) : Host.Outcome State Fault Refusal := .next (s.frameRow 0x04 f .good)
/-- JOIN (R419). -/
def execJoin (f : DclFrame) (s : State) : Host.Outcome State Fault Refusal := .next (s.frameRow 0x05 f .good)
/-- SIGNAL (R334). -/
def execSignal (f : DclFrame) (e : Ext) (s : State) : Host.Outcome State Fault Refusal := .next (s.frameRow 0x10 f e)
/-- SIGNAL_ACK (R422). -/
def execSignalAck (f : DclFrame) (s : State) : Host.Outcome State Fault Refusal := .next (s.frameRow 0x11 f .good)
/-- SIGNAL_REFUSE (R422). -/
def execSignalRefuse (f : DclFrame) (s : State) : Host.Outcome State Fault Refusal := .next (s.frameRow 0x12 f .good)
/-- BAR_ARRIVE (R423). -/
def execBarArrive (f : DclFrame) (s : State) : Host.Outcome State Fault Refusal := .next (s.frameRow 0x18 f .good)
/-- BAR_WITHDRAW (R423). -/
def execBarWithdraw (f : DclFrame) (s : State) : Host.Outcome State Fault Refusal := .next (s.frameRow 0x19 f .good)
/-- BAR_ACK (R342). -/
def execBarAck (f : DclFrame) (s : State) : Host.Outcome State Fault Refusal := .next (s.frameRow 0x1A f .good)
/-- BAR_RELEASE (R342). -/
def execBarRelease (f : DclFrame) (e : Ext) (s : State) : Host.Outcome State Fault Refusal := .next (s.frameRow 0x1B f e)

/-! ## The transmitter and the link -/

/-- CHAIN_TRANSMIT (R412): forwarded frames first; an originated one waits behind no more than 8 of them. -/
def execChainTransmit (s : State) : Host.Outcome State Fault Refusal :=
  .next (let w := s.chainW
    match w.forwardQ, w.ownQ with
    | [], [] => s
    | f :: r, [] => { s with chainW := { w with forwardQ := r, lastTx := some f } }
    | [], f :: r => { s with chainW := { w with ownQ := r, lastTx := some f, passedBy := 0 } }
    | f :: r, g :: q =>
      if w.passedBy < 8 then { s with chainW := { w with forwardQ := r, lastTx := some f, passedBy := w.passedBy + 1 } }
      else { s with chainW := { w with ownQ := q, lastTx := some g, passedBy := 0 } })

/-- The unit leaves the ring's traffic until it has joined again (R419). -/
def State.mustJoin (s : State) (prev : Nat) : State :=
  { s with chainW := { s.chainW with needJoin := true, joined := false, joinPrev := prev } }

/-- CHAIN_LINK_DOWN (R407, R419): CHN_RX_LOCK or alignment lost or regained. -/
def execChainLinkDown (up : Bool) (s : State) : Host.Outcome State Fault Refusal :=
  .next (let down := s.chain.lock && !up
    let s := { s with chain := { s.chain with lock := up } }
    if down && s.chain.role == 0 then (s.mustJoin s.chain.address).cause 5 else s)

/-! ## Timers -/

/-- BEACON_TIMER (R414): the master of a finished enumeration. -/
def execBeaconTimer (s : State) : Host.Outcome State Fault Refusal :=
  .next (if s.isMaster && s.chainW.enumNonce.isNone && s.chain.version != 0 && s.boot.stage == .ready then s.beacon else s)

/-- ENUM_TIMEOUT (R416): the unit goes back to its role. -/
def execEnumTimeout (s : State) : Host.Outcome State Fault Refusal :=
  .next (if s.chainW.enumNonce.isNone then s else
    let s := { s with chain := { s.chain with role := s.chainW.prevRole, address := s.chainW.prevAddr } }
    (s.logStatus sTimeout 8 0 none []).enumEnd sTimeout)

/-- MASTER_LOSS (R418, R343). -/
def execMasterLoss (s : State) : Host.Outcome State Fault Refusal :=
  .next (if s.chain.role ≠ 0 ∨ s.chain.stale ∨ s.boot.stage ≠ .ready then s else
    let s := s.endChainJoins
    let s := { s with chain := { s.chain with stale := true }, chainW := { s.chainW with electing := s.chain.candidate } }
    (s.mustJoin s.chain.address).cause 5)

/-- ELECTION_TIMER (R418): no BEACON or ENUM came in the candidate's wait. -/
def execElectionTimer (s : State) : Host.Outcome State Fault Refusal :=
  .next (if s.chain.role = 0 ∧ s.chain.stale ∧ s.chainW.electing ∧ s.chain.candidate ∧ s.chainW.enumNonce.isNone then
      (s.log sDegraded 1 8 s.chain.address none []).enumStart none
    else s)

/-- NOTICE_REPEAT (R424): while a replacement request stands. -/
def execNoticeRepeat (s : State) : Host.Outcome State Fault Refusal :=
  .next (if s.svc.reasons = 0 then s else s.notice 1 eReplRaised)

/-- NOTICE_TOKEN (R424): a token accrues; the oldest queued notice takes it. -/
def execNoticeToken (s : State) : Host.Outcome State Fault Refusal :=
  .next (match if s.onChain then s.chainW.notices else [] with
    | [] => { s with chainW := { s.chainW with tokens := min 16 (s.chainW.tokens + 1) } }
    | (_, p) :: r =>
      let s := { s with chainW := { s.chainW with notices := r }, chain := { s.chain with sent := satAdd 16 s.chain.sent 1 } }
      s.sendFrame 4 255 p)

/-! ## CHAIN_CONTROL (R414, R416, R420) -/

/-- Actions 0 and 3: the command ends when its ENUM returns. One that finds an enumeration running waits for its end. -/
def bodyChainEnum (x : Sub) (s : State) : Res :=
  if s.chainW.enumNonce.isSome then wait s
  else running x (s.enumStart (some x)) 0

/-- Leave the master's part: an enumeration under way is given up (R416). -/
def State.leaveMaster (s : State) (role : Nat) : State :=
  let was := s.chain.role
  let s := { s with chain := { s.chain with
    role := role, address := if role = 2 ∨ was = 1 then 0 else s.chain.address, pendAddr := if role = 2 then none else s.chain.pendAddr } }
  let s := if was = 1 ∨ role = 2 then s.endChainJoins else s
  let s := if was ≠ 0 ∧ role = 0 then s.mustJoin 0 else s
  if s.chainW.enumNonce.isSome then s.enumEnd sOk else s

/-- Action 1: role MEMBER, dcl_max written. -/
def bodyChainMember (x : Sub) (s : State) : Res :=
  if s.chain.full ∧ s.chain.address = 0 then fail s sChainFull
  else
    let s := s.leaveMaster 0
    let s := { s with chain := { s.chain with dclMax := BitVec.ofNat 2 (fld x.a 9 8) } }
    done s s.chainResult

/-- Action 2: role ISOLATED. -/
def bodyChainIsolated (s : State) : Res := let s := s.leaveMaster 2; done s s.chainResult

/-- Action 4: status. -/
def bodyChainStatus (s : State) : Res :=
  if s.chain.full ∧ s.chain.address = 0 then fail s sChainFull else done s s.chainResult

/-- The entry of a CHAIN_CONTROL action. -/
def chainSub (x : Sub) (action : Nat) : Sub := { x with opcode := 0x10, a := (x.a &&& ~~~0xF#64) ||| BitVec.ofNat 64 action }

/-- CHAIN_MASTER_ENUMERATE (R414). -/
def execChainMasterEnumerate (x : Sub) (_e : Ext) (s : State) : Host.Outcome State Fault Refusal :=
  .next (s.runOp (chainSub x 0) [] (bodyChainEnum (chainSub x 0)))

/-- CHAIN_SET_MEMBER (R416). -/
def execChainSetMember (x : Sub) (_e : Ext) (s : State) : Host.Outcome State Fault Refusal :=
  .next (s.runOp (chainSub x 1) [] (bodyChainMember (chainSub x 1)))

/-- CHAIN_SET_ISOLATED (R416). -/
def execChainSetIsolated (x : Sub) (_e : Ext) (s : State) : Host.Outcome State Fault Refusal :=
  .next (s.runOp (chainSub x 2) [] bodyChainIsolated)

/-- CHAIN_REENUMERATE (R416). -/
def execChainReenumerate (x : Sub) (_e : Ext) (s : State) : Host.Outcome State Fault Refusal :=
  .next (s.runOp (chainSub x 3) [] (bodyChainEnum (chainSub x 3)))

/-- CHAIN_STATUS (R416). -/
def execChainStatus (x : Sub) (_e : Ext) (s : State) : Host.Outcome State Fault Refusal :=
  .next (s.runOp (chainSub x 4) [] bodyChainStatus)

end Sys2Proof.Machine
end

