-- ==== Sys2Proof/Machine/Drain.lean ====
section
/-! DEFINITION. The drain: units of cells (R162, R295), stalled granules (R157-R159, R177), the directory (R167, R433), cipher cores (R206, R207),
staging (R203), blocks written or failed (R180, R204), the commit (R222-R228), a mover's loss (R176). -/

namespace Sys2Proof.Machine

/-! ## Cells -/

/-- The power domain of a cell's group (R475). -/
def cellDom (st cell : Nat) : Nat := 3 * st + 1 + cell / 8 % 2

/-- The physical cell behind an index (R80). -/
def Stile.phys (t : Stile) (cell : Nat) : Nat := if t.spareAt = some cell then 16 else cell

/-- Whether a jig slice holds a cell (Table 1 of chapter 19). -/
def State.jigCell (s : State) (st cell : Nat) : Bool :=
  match s.jig.slice with
  | some (p, _) => p == st * 18 + (s.st st).phys cell
  | none => false

/-- Whether a jig slice holds a cipher core. -/
def State.jigCore (s : State) (core : Nat) : Bool :=
  match s.jig.slice with
  | some (p, _) => p == s.stileCount * 18 + core
  | none => false

/-- Change a cell. -/
def State.onCell (s : State) (st cell : Nat) (f : Cell → Cell) : State := s.onSt st fun t => { t with cells := t.cells.modify cell f }

/-- Whether a cell is free for a unit: in service, powered, not held by the jig, with no granule. -/
def State.cellFree (s : State) (st cell : Nat) : Bool :=
  s.cellIn st cell && s.dom (cellDom st cell) && !s.jigCell st cell && ((s.st st).cells.get cell).granule.isNone

/-- The stile whose cells serve the granules of stile `st` (R177, R497). -/
def State.server (s : State) (st : Nat) : Nat := if s.thin st then (st + 1) % max s.stileCount 1 else st

/-- The stiles whose granules the cells of stile `st` serve. -/
def State.serves (s : State) (st : Nat) : List Nat := s.stileList.filter fun t => s.server t == st

/-! ## Blocks -/

/-- The blocks under way. -/
def State.onBlock (s : State) (st g : Nat) (f : Block → Block) : State :=
  { s with cap := { s.cap with blocks := s.cap.blocks.map fun b => if b.stile = st ∧ b.granule = g then f b else b } }

/-- The block of a granule. -/
def State.block? (s : State) (st g : Nat) : Option Block := s.cap.blocks.find? fun b => b.stile == st && b.granule == g

/-- Where a granule stands in the running capture's scope: position, region ID, region, member, leaf. -/
def CapRun.leafOf (r : CapRun) (g : Nat) : Option (Nat × Nat × Region × Nat × Nat) :=
  let l := r.leaves
  (List.range l.length).findSome? fun i => match l[i]? with
    | some (rid, reg, m, k, n) => if n = g then some (i, rid, reg, m, k) else none
    | none => none

/-- The content of a leaf as it is digested and encoded: bytes past its last element read as zero (R142, Table 1 of chapter 07). -/
def leafContent (c : Coord) (k : Nat) (d : List Byte) : List Byte := padTo 65536 (d.take (c.leafElems k * elemSize c.elemType))

/-- The digest of a leaf's content. -/
def contentDigest (c : Coord) (k : Nat) (d : List Byte) : BitVec 256 :=
  leafDigest c.elemType (c.leafElems k) (d.take (c.leafElems k * elemSize c.elemType))

/-- The source of an owed granule: its copy while TAKEN, else host memory (R179, R180). -/
def State.drainSource (s : State) (st g : Nat) : List Byte × List Nat :=
  match (s.st st).copies.find? fun k => k.granule == g && k.forCap with
  | some k => (k.data, k.beats)
  | none => s.granRead g

/-- Blocks the egress frame engine holds a sector of (R203): each at most one. -/
def State.engineBlocks (s : State) : Nat := (s.cap.blocks.filter fun b => b.stage == 3).length

/-- Sectors a block occupies (R189). -/
def Block.sectors (b : Block) : Nat := ceilDiv b.bytes.length 4096

/-- The lowest command identifier of a controller that is not outstanding. DESIGN CHOICE, assumption log 15. -/
def Nvme.freeCid (n : Nvme) : Nat := ((List.range 1024).find? fun i => !n.open_.contains i).getD 0

/-- The lowest staging slot of 16 extended sectors that no posted buffer uses. DESIGN CHOICE, assumption log 15. -/
def Staging.freeSlot (g : Staging) : Nat :=
  ((List.range 4087).find? fun i => !(g.posted.any fun b => b.off == i * 65664)).getD 0

/-- CC3 posts the NVMe Write of a block with its staging buffer (step 5 of Table 1 of chapter 07). -/
def State.postWrite (s : State) (b : Block) : State :=
  let cid := (s.sto.ctrls.get b.ctrl).freeCid
  let s := s.onNvme b.ctrl fun n => { n with open_ := n.open_ ++ [cid] }
  let s := { s with stage := { s.stage with
    posted := (s.stage.posted.filter fun (p : StageBuf) => !(p.toSsd && p.stile == b.stile && p.granule == b.granule)) ++
      [StageBuf.mk (s.stage.freeSlot * 65664) (b.sectors * 4104) true b.stile b.granule []] } }
  s.onBlock b.stile b.granule fun b => { b with cid := cid }

/-- Open the zone of a place if it is free (step 1 of Table 8 of chapter 08): ZONE_OPEN is journaled. -/
def openZone (slba : Nat) (m : Media) : Media :=
  let z := slba / 2 ^ 18
  match m.zoneState.find? fun p => p.1 == z with
  | some p => if p.2 = 0 then { m with
      zoneState := m.zoneState.map fun q => if q.1 = z then (z, 2) else q
      journalSeq := m.journalSeq + 1 } else m
  | none => { m with zoneState := m.zoneState ++ [(z, 2)], journalSeq := m.journalSeq + 1 }

/-- Release what a block still holds once the engine has taken its last sector: its core, and its cell unless it was stalled. -/
def State.streamed (s : State) (b : Block) : State :=
  let s := { s with ciph := { s.ciph with assigned := ⟨s.ciph.assigned.dflt, s.ciph.assigned.entries.filter fun p => p.2 != some (b.stile, b.granule)⟩ } }
  if b.stalled then s
  else s.onSt (s.server b.stile) fun t => { t with cells := t.cells.mapAll fun c => if c.granule = some b.granule then { c with granule := none } else c }

/-- Sectors of a granule's frame freed so far. -/
def Staging.freedOf (g : Staging) (n : Nat) : Nat := ((g.freed.find? fun f => f.1 == n).map (·.2)).getD 0

/-- Set the sectors freed of a granule's frame. -/
def Staging.setFreed (g : Staging) (n k : Nat) : Staging := { g with freed := (g.freed.filter fun f => f.1 != n) ++ [(n, k)] }

/-- Answer a staging read with bytes. -/
def State.answerRead (s : State) (a : Access) (d : List Byte) : State :=
  { (s.answer a 0 (BitVec.ofNat 64 (leNat (d.take 8)))) with stage := { s.stage with last := d } }

/-- Serve, hold or rebuild for a read of a posted block buffer (R203). The sectors from the first one not freed are built one after another. -/
def State.serveRead (s : State) (p : StageBuf) (b : Block) (off len : Nat) (a : Access) (since : Nat) : State :=
  let n := s.stage.freedOf b.granule
  let first := (off - p.off) / 4104
  let hold (s : State) : State := { s with stage := { s.stage with heldReads := s.stage.heldReads ++ [(off, len, a, since)] } }
  if b.stage ≠ 3 then hold s
  else if first < n then hold ((s.streamed b).onBlock b.stile b.granule fun b => { b with stage := 4 })
  else if n < first then hold s
  else
    let k := min b.sectors ((off - p.off + len) / 4104)
    let s := { s with
      stage := s.stage.setFreed b.granule k
      ciph := { s.ciph with holdPeak := max s.ciph.holdPeak (min 65535 ((s.now - since) / 1000)) } }
    let s := s.answerRead a (bytesAt p.data (off - p.off) len)
    if b.sectors ≤ k + 1 then s.streamed b else s

/-- Serve the reads held for a granule's buffer. -/
def State.serveHeld (s : State) (g : Nat) : State :=
  match s.stage.posted.find? fun (p : StageBuf) => p.toSsd && p.granule == g with
  | none => s
  | some p =>
    let mine := s.stage.heldReads.filter fun h => decide (p.off ≤ h.1 ∧ h.1 < p.off + p.len)
    let s := { s with stage := { s.stage with heldReads := s.stage.heldReads.filter fun h => !decide (p.off ≤ h.1 ∧ h.1 < p.off + p.len) } }
    mine.foldl (fun s h => match s.block? p.stile g with
      | some b => s.serveRead p b h.1 h.2.1 h.2.2.1 h.2.2.2
      | none => s) s

/-- The sectors of a built block reach the frame engine: the first it owes is the one a held read asks for, else the first (R203). The cell and
the core end with the last sector taken (R180). -/
def State.fillFrame (s : State) (b : Block) : State :=
  let frame := frameOf b.sectors b.place b.bytes
  let s := { s with stage := { s.stage with
    posted := s.stage.posted.map fun (p : StageBuf) => if p.toSsd ∧ p.stile = b.stile ∧ p.granule = b.granule then { p with data := frame } else p } }
  let base := ((s.stage.posted.find? fun (p : StageBuf) => p.toSsd && p.granule == b.granule).map (·.off)).getD 0
  let n := match s.stage.heldReads.find? fun (h : Nat × Nat × Access × Nat) => decide (base ≤ h.1 ∧ h.1 < base + b.sectors * 4104) with
    | some h => (h.1 - base) / 4104
    | none => 0
  let s := { s with stage := s.stage.setFreed b.granule n }
  let s := s.onBlock b.stile b.granule fun b => { b with stage := 3 }
  let s := if b.sectors ≤ n + 1 then s.streamed b else s
  s.serveHeld b.granule

/-- A block leaves the cell for the cipher, or for the frame engine in a CLEAR chamber. -/
def State.emitBlock (s : State) (b : Block) : State :=
  match s.cap.run with
  | some r => if r.sealed then s.onBlock b.stile b.granule fun b => { b with stage := 2 } else s.fillFrame b
  | none => s

/-- A block is encoded and its Write posted (steps 3, 5, 6 of Table 1 of chapter 07). -/
def State.startBlock (s : State) (r : CapRun) (b : Block) (elemType : Nat) : State :=
  let (codec, bytes) := if r.flow then flowBlock elemType b.content else (0, b.content)
  let s := s.onMedia r.store (openZone b.place)
  let b := { b with codec := codec, bytes := bytes }
  let s := s.onBlock b.stile b.granule fun _ => b
  let s := s.postWrite b
  match s.block? b.stile b.granule with
  | some b => s.emitBlock b
  | none => s

/-! ## A granule disposed of (R180) -/

/-- Close a stile whose last owed granule is drained (R150). -/
def State.closeStile (s : State) (r : CapRun) (st : Nat) : State :=
  let owed := r.leaves.any fun q => match s.place q.2.2.2.2 with
    | some (t, loc) => t == st && ((s.st st).bits loc).copied
    | none => false
  let held := s.cap.blocks.any fun b => b.stile == st
  if owed || held then s else s.onSt st fun t => { t with isOpen := false }

/-- A granule is disposed of: its record, its state, its copy's capture share, what the pass-through held for it, the counts, the phase. -/
def State.dispose (s : State) (r : CapRun) (st loc g : Nat) (stalled skip : Bool) (l : LeafRec) : State :=
  let s := { s with cap := { s.cap with
    recs := s.cap.recs ++ [l]
    blocks := s.cap.blocks.filter fun b => !(b.stile == st && b.granule == g)
    run := some { r with
      drained := r.drained + 1
      skipped := r.skipped + b2n skip
      bytes := r.bytes + (if skip then 0 else l.rec_.n) } } }
  let s := { s with stage := { s.stage with
    posted := s.stage.posted.filter fun (p : StageBuf) => !(p.toSsd && p.stile == st && p.granule == g)
    freed := s.stage.freed.filter fun f => f.1 != g } }
  let s := if stalled then s
    else s.onSt st fun t => t.setBits loc (if t.bits loc = gTaken then gDirty else if t.bits loc = gOwed then gClean else t.bits loc)
  let s := { s with stiles := s.stiles.modify st fun t => { t with copies := (t.copies.map fun (k : Copy) =>
    if k.granule = g then { k with forCap := false } else k).filter fun k => k.forCap || k.forStep.isSome } }
  let s := s.relevel r.chamber
  let s := if (s.st st).held.any (fun h => h.granule == g && h.lead && !h.stalled) &&
      !((s.st st).copies.any fun k => k.granule == g && !k.ready) then s.releaseGran st g else s
  let s := match s.cap.run with
    | some r => s.closeStile r st
    | none => s
  s.capCheck

/-- Beats of a leaf that were read with POISON (R154): the leaf is counted, the capture's first is logged. -/
def State.notePoison (s : State) (beats : List Nat) (rid k : Nat) : State :=
  match s.cap.run with
  | none => s
  | some r =>
    if beats = [] then s
    else
      let s := if r.poisoned = 0 then
          s.log ePoisonedLeaf 2 0 0 (some r.chamber) (leBytes 8 r.id.toNat ++ leBytes 2 rid ++ leBytes 4 k)
        else s
      { s with cap := { s.cap with run := s.cap.run.map fun r => { r with poisoned := r.poisoned + 1 } } }

/-- The position of a member's shard in the object (R219). -/
def CapRun.shardIx (r : CapRun) (rid m : Nat) : Nat :=
  ((r.regs.takeWhile fun p => p.1 != rid).map fun p => p.2.coord.members).sum + m

/-- The record of a leaf written by this object (R219). -/
def CapRun.ownRec (r : CapRun) (b : Block) (reg : Region) (kcv : BitVec 64) : IndexRec :=
  { digest := b.digest, iv := b.iv.getD 0, tag := b.tag, kcv := kcv, n := b.bytes.length, codec := b.codec, kind := 0,
    poisoned := !b.beats.isEmpty, refLeaf := b.leaf, refObj := r.id, replica := 0, refShard := r.shardIx b.region b.member,
    refTensor := reg.coord.tensor b.member }

/-- The region a capture holds under an ID. -/
def CapRun.reg (r : CapRun) (rid : Nat) : Option Region := (r.regs.find? fun p => p.1 == rid).map (·.2)

/-- The Write of a block completed (R180). -/
def State.blockDone (s : State) (b : Block) : State :=
  match s.cap.run with
  | none => s
  | some r => match r.reg b.region with
    | none => s
    | some reg =>
      let s := (s.onNvme b.ctrl fun n => { n with open_ := n.open_.filter (· != b.cid) }).streamed { b with stalled := false }
      let kcv := if r.sealed then kcvOf (s.keys.get r.slot).key else 0
      s.dispose r b.stile b.loc b.granule b.stalled false
        ⟨b.region, b.member, b.leaf, r.ownRec b reg kcv, b.beats, b.place, b.bytes⟩

/-- The Write of a block failed (R204): it is built and written again; the third failure ends the capture. -/
def State.blockFailed (s : State) (b : Block) : State :=
  if b.stage = 4 then s
  else
    let s := (s.onNvme b.ctrl fun n => { n with open_ := n.open_.filter (· != b.cid) }).streamed b
    if 2 ≤ b.fails then s.capFail sMediaError false
    else s.onBlock b.stile b.granule fun b => { b with fails := b.fails + 1, stage := 4 }

/-! ## Taking granules -/

/-- A fresh block of a leaf, in a cell. -/
def newBlock (st g loc cell rid m k place ctrl : Nat) (c : Coord) (d : List Byte) (beats : List Nat) (stalled : Bool) : Block :=
  { stile := st, granule := g, loc := loc, cell := cell, region := rid, member := m, leaf := k, stalled := stalled, stage := 0, core := 0,
    content := leafContent c k d, bytes := [], codec := 0, digest := contentDigest c k d, iv := none, tag := 0, beats := beats, fails := 0,
    place := place, ctrl := ctrl, cid := 0 }

/-- A cell takes an owed granule (R166, R167, R179): an elected-away leaf is skipped; else it is read and digested, and looked up or encoded. -/
def State.takeGranule (s : State) (r : CapRun) (st cell g loc : Nat) (stalled : Bool) : State :=
  match r.leafOf g with
  | none => s
  | some (i, rid, reg, m, k) =>
    let full := r.full.contains g
    if r.dedup ≠ 0 ∧ !full ∧ 1 < reg.repCount ∧ (k + reg.repGroup.toNat % 65536) % reg.repCount ≠ reg.repIndex then
      let q : IndexRec := ⟨0, 0, 0, 0, 0, 0, 3, false, 0, 0, (k + reg.repGroup.toNat % 65536) % reg.repCount, 0, 0⟩
      s.dispose r st loc g stalled true ⟨rid, m, k, q, [], 0, []⟩
    else
      let (d, beats) := s.drainSource st g
      let place := r.places.getD i 0
      let ctrl := match s.mounted r.store with | some md => (md.nsOf place).1 | none => 0
      let b := newBlock st g loc cell rid m k place ctrl reg.coord d beats stalled
      let s := s.notePoison beats rid k
      let s := s.onCell (s.server st) cell fun c => { c with granule := some g }
      let s := { s with cap := { s.cap with blocks := s.cap.blocks ++ [b] } }
      if r.dedup = 2 ∧ !full then s.onBlock st g fun b => { b with stage := 1 } else s.startBlock r b reg.coord.elemType

/-- A cell takes a granule that counts as drained from memory at once (R157, R177): it becomes CLEAN, its held writes go on and make it
DIRTY. -/
def State.takeNow (s : State) (st cell g : Nat) : State :=
  match s.cap.run, s.place g with
  | some r, some (_, loc) =>
    let held := (s.st st).held.any fun h => h.granule == g
    let s := s.onSt st fun t => t.setBits loc gClean
    let s := if held then s.onSt st fun t => t.setBits loc gDirty else s
    (s.takeGranule r st cell g loc true).releaseGran st g
  | _, _ => s

/-- The first stalled granule a stile's cells serve. -/
def State.stalledFor (s : State) (st : Nat) : Option (Nat × Nat) :=
  (s.serves st).findSome? fun t => match (s.st t).held.find? fun h => h.stalled && h.lead with
    | some h => some (t, h.granule)
    | none => none

/-- The key of R162 for OWED granules: rank, region ID, granule. -/
def owedBefore (a b : Nat × Nat × Nat) : Bool :=
  decide (a.1 < b.1 ∨ (a.1 = b.1 ∧ (a.2.1 < b.2.1 ∨ (a.2.1 = b.2.1 ∧ a.2.2 < b.2.2))))

/-- The next granule of a stile by the order of R162: TAKEN with a reserve copy, TAKEN with a rebate copy, OWED by rank, region, index. -/
def State.nextGranule (s : State) (r : CapRun) (st : Nat) : Option (Nat × Nat) :=
  let t := s.st st
  let busy (g : Nat) : Bool := s.cap.blocks.any fun b => b.granule == g
  let taken (inReserve : Bool) : Option (Nat × Nat) := (t.copies.find? fun k =>
    k.forCap && k.ready && k.reserve.isSome == inReserve && !busy k.granule).map fun k => (k.granule, k.loc)
  match taken true with
  | some p => some p
  | none => match taken false with
    | some p => some p
    | none =>
      let l := r.leaves.filterMap fun q => match s.place q.2.2.2.2 with
        | some (u, loc) =>
          if u = st ∧ t.bits loc = gOwed ∧ !busy q.2.2.2.2 ∧ !(t.held.any fun h => h.granule == q.2.2.2.2 && h.stalled) then
            some ((((s.region q.1).map (·.rank)).getD q.2.1.rank, q.1, q.2.2.2.2), loc)
          else none
        | none => none
      match l with
      | [] => none
      | x :: rest => let y := rest.foldl (fun a b => if owedBefore b.1 a.1 then b else a) x; some (y.1.2.2, y.2)

/-- A rebuild: the block again from its source with the same IV, its Write posted again where it failed (R181, R203, R204). -/
def State.startAgain (s : State) (b : Block) : State :=
  let out := (s.sto.ctrls.get b.ctrl).open_.contains b.cid
  let base := ((s.stage.posted.find? fun (p : StageBuf) => p.toSsd && p.granule == b.granule).map (·.off)).getD 0
  let n := match s.stage.heldReads.find? fun (h : Nat × Nat × Access × Nat) => decide (base ≤ h.1 ∧ h.1 < base + b.sectors * 4104) with
    | some h => if out then (h.1 - base) / 4104 + 1 else b.sectors
    | none => b.sectors
  let s := { s with ciph := { s.ciph with rebuilds := satAdd 16 s.ciph.rebuilds n } }
  let s := s.onBlock b.stile b.granule fun _ => b
  let s := if out then s else s.postWrite b
  match s.block? b.stile b.granule with
  | some b => s.emitBlock b
  | none => s

/-- What a free cell takes (R162, R295): a stalled granule, a rebuild, or the capture's next granule. -/
def State.cellTakes (s : State) (r : CapRun) (st cell : Nat) : State :=
  match s.stalledFor st with
  | some (t, g) => s.takeNow t cell g
  | none => match s.cap.blocks.find? fun b => b.stage == 4 && !b.stalled && s.server b.stile == st with
    | some b => (s.onCell st cell fun c => { c with granule := some b.granule }).startAgain { b with cell := cell }
    | none =>
      if 512 ≤ s.engineBlocks then s
      else match (s.serves st).findSome? fun t => (s.nextGranule r t).map fun p => (t, p) with
      | some (t, g, loc) => if (s.st t).removed then s.takeNow t cell g else s.takeGranule r t cell g loc false
      | none => s

/-- CELL_TAKE_UNIT (R162, R295): a cell takes its next unit; a stalled block's own cell rebuilds it; a gated group is asked for. Units of
commands run with their command's row (assumption log 6). -/
def execCellTakeUnit (st cell : Nat) (_e : Ext) (s : State) : Host.Outcome State Fault Refusal :=
  .next (match s.cap.run with
    | none => s
    | some r =>
      if r.phase ≠ 4 ∨ !s.cellIn st cell then s
      else if !s.dom (cellDom st cell) then s.wantDom (cellDom st cell)
      else match s.cap.blocks.find? fun b => b.stage == 4 && b.stalled && s.server b.stile == st && b.cell == cell with
      | some b => s.startAgain b
      | none => if s.cellFree st cell then s.cellTakes r st cell else s)

/-- STALL_RELEASE (R157): a free cell reads a stalled granule and the held write goes on. -/
def execStallRelease (st cell : Nat) (s : State) : Host.Outcome State Fault Refusal :=
  .next (if !s.cellFree st cell then s else
    match s.stalledFor st with
    | some (t, g) => s.takeNow t cell g
    | none => s)

/-! ## The directory (R167) -/

/-- The home of a digest: stile, cell, set; its tag. -/
def State.home (s : State) (d : BitVec 256) : Nat × Nat × Nat × BitVec 64 :=
  (d.toNat % 32 % s.stileCount, d.toNat / 32 % 16, d.toNat / 512 % 256, BitVec.ofNat 64 (d.toNat / 2 ^ 64))

/-- The record a directory hit refers to: an entry of the chamber and store whose object is live and whose key qualifies (R167, R433). -/
def State.lookup (s : State) (r : CapRun) (d : BitVec 256) : Option (DirEntry × IndexRec) :=
  let (st, cell, set, tag) := s.home d
  match s.mounted r.store with
  | none => none
  | some md => ((s.st st).cells.get cell).dir.findSome? fun e =>
    if e.set ≠ set ∨ e.tag ≠ tag ∨ e.chamber ≠ r.chamber ∨ e.store ≠ r.store then none
    else match md.live e.object with
      | none => none
      | some o => match (o.shards[e.shard]?).bind fun h => h.record e.leaf with
        | some q => if q.kind ≠ 3 ∧ (!r.sealed ∨ r.kcvs.contains q.kcv) then some (e, q) else none
        | none => none

/-- Insert an entry for a leaf written here, where its set has a free way; else DIRECTORY_FULL is counted. -/
def State.insertDir (s : State) (r : CapRun) (b : Block) : State :=
  let (st, cell, set, tag) := s.home b.digest
  let full := 4 ≤ (((s.st st).cells.get cell).dir.filter fun e => e.set == set).length
  if !s.cellIn st cell || !s.dom (cellDom st cell) then s
  else if full then { s with cap := { s.cap with run := some { r with dirFull := r.dirFull + 1 } } }
  else s.onCell st cell fun c => { c with
    dir := c.dir ++ [DirEntry.mk set tag r.chamber r.store r.id (r.shardIx b.region b.member) b.leaf] }

/-- DIRECTORY_LOOKUP_ANSWER (R167): a hit disposes of the granule; a miss encodes it. A tag match whose entry no longer qualifies is a miss. -/
def execDirectoryLookupAnswer (st cell : Nat) (hit : Bool) (s : State) : Host.Outcome State Fault Refusal :=
  .next (match s.cap.run, s.cap.blocks.find? fun b => b.stage == 1 && s.server b.stile == st && b.cell == cell with
    | some r, some b =>
      match (if hit then s.lookup r b.digest else none), r.reg b.region with
      | some (e, q), _ =>
        let q := { q with
          digest := b.digest, kind := 2, refLeaf := e.leaf, refObj := e.object, replica := 0, refShard := e.shard
          refTensor := q.refTensor }
        (s.streamed { b with stalled := false }).dispose r b.stile b.loc b.granule b.stalled true ⟨b.region, b.member, b.leaf, q, [], 0, []⟩
      | none, some reg =>
        let s := s.insertDir r b
        match s.cap.run with
        | some r => s.startBlock r b reg.coord.elemType
        | none => s
      | none, none => s
    | _, _ => s)

/-! ## Cipher cores -/

/-- The power domain of a cipher core's group. -/
def coreDom (core : Nat) : Nat := 99 + core / 4

/-- Whether a core takes an invocation now (R206, R207). -/
def State.coreFree (s : State) (core : Nat) : Bool :=
  decide (core < 16) && !bit s.ciph.failed core && !s.jigCore core && s.dom (coreDom core) && (s.ciph.assigned.get core).isNone

/-- The IV of a slot's next invocation (R192). -/
def KeySlot.iv (k : KeySlot) : BitVec 96 := BitVec.ofNat 96 (k.fixed.toNat + k.count % 2 ^ 32 * 2 ^ 64)

/-- Use one invocation of a slot, warning when the count passes its mark (R192, R195). -/
def State.useKey (s : State) (slot : Nat) : State :=
  let n := (s.keys.get slot).count + 1
  let s := s.onKey slot fun k => { k with count := n }
  if n = 2 ^ 32 - 2 ^ 26 + 1 then s.log eKeyWear 2 10 slot none [] else s

/-- Seal a waiting block on a core (R191-R194, R206): its IV is drawn at its first assignment. -/
def State.sealOn (s : State) (r : CapRun) (core : Nat) (b : Block) (reg : Region) : State :=
  let k := s.keys.get r.slot
  let iv := b.iv.getD k.iv
  let aad := aadOf r.id (reg.coord.tensor b.member) b.leaf b.codec reg.coord.elemType b.bytes.length 1
  let plain := if b.iv.isSome then (if r.flow then (flowBlock reg.coord.elemType b.content).2 else b.content) else b.bytes
  let (c, tag) := gcmSeal (keyBytes k.key) (leBytes 12 iv.toNat) aad plain
  let s := if b.iv.isSome then s else (s.useKey r.slot).onKey r.slot fun k => { k with reserved := k.reserved - 1 }
  let s := if b.iv.isSome then s else
    { s with cap := { s.cap with run := s.cap.run.map fun r => { r with reserved := r.reserved - 1 } } }
  let b := { b with iv := some iv, tag := BitVec.ofNat 128 (leNat tag), bytes := c, core := core }
  let s := s.onBlock b.stile b.granule fun _ => b
  let s := { s with ciph := { s.ciph with assigned := s.ciph.assigned.set core (some (b.stile, b.granule)) } }
  s.fillFrame b

/-- CIPHER_ASSIGN (R206): a free core takes the block that has waited longest. Masked work waits while the DRBG stops it (R197). A gated group is
asked for (R207). -/
def execCipherAssign (core : Nat) (s : State) : Host.Outcome State Fault Refusal :=
  .next (match s.cap.run, s.cap.blocks.find? fun b => b.stage == 2 with
    | some r, some b =>
      if s.drbg.stop || decide (512 ≤ s.engineBlocks) then s
      else if decide (core < 16) && !s.dom (coreDom core) then s.wantDom (coreDom core)
      else if !s.coreFree core then s
      else match r.reg b.region with
      | some reg => s.sealOn r core b reg
      | none => s
    | _, _ => s)

/-- SEAL_WAIT_TIMEOUT (R197): the capture whose sealing waits for masked work ends. -/
def execSealWaitTimeout (s : State) : Host.Outcome State Fault Refusal :=
  .next (if s.drbg.stop && s.cap.blocks.any (fun b => b.stage == 2) then s.capFail sNotInState false else s)

/-- A core fails a self-check (R207): its block is sealed again elsewhere with the same IV, the core is out until cold reset; below 8 cores the
replacement request is raised. -/
def State.coreFailed (s : State) (core : Nat) : State :=
  let s := match s.ciph.assigned.get core with
    | some (st, g) => s.onBlock st g fun b => { b with stage := 2 }
    | none => s
  let s := { s with ciph := { s.ciph with assigned := s.ciph.assigned.set core none, failed := setBit s.ciph.failed core true } }
  let s := s.log sDegraded 0 4 core none []
  let up := ((List.range 16).filter fun c => !bit s.ciph.failed c).length
  if up < 8 then s.raise 2 else s

/-- CIPHER_CORE_FAIL (R207). -/
def execCipherCoreFail (core : Nat) (s : State) : Host.Outcome State Fault Refusal :=
  .next (if 16 ≤ core ∨ bit s.ciph.failed core then s else s.coreFailed core)

/-- Whether captures and restores complete DEGRADED_COMPLETED for want of cores (R207). -/
def State.fewCores (s : State) : Bool := decide (((List.range 16).filter fun c => !bit s.ciph.failed c).length < 8)

/-! ## Staging (R54, R55, R203) -/

/-- What a staging access meets before its buffer: an access of wrong form refused (R55); the aperture's unit off (R20). -/
def State.staging (s : State) (a : Access) (off len dom : Nat) (f : State → State) : State :=
  if s.boot.resetHeld = 2 then s
  else if off % 128 ≠ 0 ∨ (len ≠ 128 ∧ len ≠ 256) ∨ 2 ^ 28 ≤ off then s.refuse a 1
  else if !s.dom 108 || !s.dom dom then (s.logStatus sNotInState 9 a.lane none (leBytes 4 off)).answer a 0 0
  else f s

/-- A staging access outside every posted buffer: zero data or nothing written, logged and counted. -/
def State.stageViol (s : State) (a : Access) (off : Nat) : State :=
  let s := { s with stage := { s.stage with viol := s.stage.viol + 1, last := [] } }
  (s.logPartner sMalformed 9 a.lane none (leBytes 4 off)).answer a 0 0

/-- STAGING_READ (R203): the bytes of a posted buffer; a sealed sector is served, held, or asked for again. -/
def execStagingRead (a : Access) (off len : Nat) (s : State) : Host.Outcome State Fault Refusal :=
  .next (s.staging a off len 106 fun s =>
    match s.stage.posted.find? fun (p : StageBuf) => decide (p.off ≤ off ∧ off < p.off + p.len) with
    | some p =>
      if p.toSsd then
        match s.block? p.stile p.granule with
        | some b => s.useTime.serveRead p b off len a s.now
        | none => s.stageViol a off
      else s.answerRead a (bytesAt p.data (off - p.off) len)
    | none => s.stageViol a off)

/-- STAGING_WRITE (R201): read data into a posted buffer; the last 4 KiB of the aperture take a controller's interrupt writes (R232). -/
def execStagingWrite (a : Access) (off : Nat) (data : List Byte) (s : State) : Host.Outcome State Fault Refusal :=
  .next (s.staging a off data.length 107 fun s =>
    if 2 ^ 28 - 4096 ≤ off then s.answer a 0 0
    else match s.stage.posted.find? fun (p : StageBuf) => !p.toSsd && decide (p.off ≤ off ∧ off < p.off + p.len) with
    | some p =>
      let d := p.data ++ zeros (p.len - p.data.length)
      let d := d.take (off - p.off) ++ data ++ d.drop (off - p.off + data.length)
      { (s.answer a 0 0) with stage := { s.stage with posted := s.stage.posted.map fun q => if q.off = p.off then { q with data := d } else q } }
    | none => s.stageViol a off)

/-- STAGING_READ_TIMEOUT (R203): the read held longest at the offset completes with ERR and its block is written again (R204). -/
def execStagingReadTimeout (off : Nat) (s : State) : Host.Outcome State Fault Refusal :=
  .next (match s.stage.heldReads.find? fun (h : Nat × Nat × Access × Nat) => h.1 == off with
    | none => s
    | some h =>
      let s := { s with stage := { s.stage with heldReads := s.stage.heldReads.erase h } }
      let s := (s.logStatus sTimeout 9 h.2.2.1.lane none (leBytes 4 off)).answer h.2.2.1 1 0
      match s.stage.posted.find? fun (p : StageBuf) => p.toSsd && decide (p.off ≤ off ∧ off < p.off + p.len) with
      | some p => match s.block? p.stile p.granule with
        | some b => s.blockFailed { b with stage := 3 }
        | none => s
      | none => s)

/-! ## Writes that end -/

/-- BLOCK_WRITE_COMPLETE (R180). -/
def execBlockWriteComplete (st granule : Nat) (s : State) : Host.Outcome State Fault Refusal :=
  .next (match s.block? st granule with
    | some b => if b.stage = 3 then s.blockDone b else s
    | none => s)

/-- BLOCK_WRITE_FAILED (R204). -/
def execBlockWriteFailed (st granule : Nat) (s : State) : Host.Outcome State Fault Refusal :=
  .next (match s.block? st granule with
    | some b => if b.stage = 2 ∨ b.stage = 3 then s.blockFailed b else s
    | none => s)

/-- COPY_COMPLETE (R155): the copy that has waited longest is safe, and what was held for its granule goes on. -/
def execCopyComplete (st : Nat) (s : State) : Host.Outcome State Fault Refusal :=
  .next (match (s.st st).copies.find? fun k => !k.ready with
    | some k =>
      (s.onSt st fun t => { t with copies := t.copies.map fun (q : Copy) =>
        if q.granule = k.granule ∧ q.ready = false then { q with ready := true } else q }).releaseGran st k.granule
    | none => s)

/-- HELD_WRITE_LIMIT (R159): the running capture ends with RESERVE_EXHAUSTED and every held write goes on. -/
def execHeldWriteLimit (st : Nat) (s : State) : Host.Outcome State Fault Refusal :=
  .next (if (s.st st).held.isEmpty then s
    else match s.cap.run with
    | some _ => s.capFail sReserveExhausted false
    | none => s.releaseAll st)

/-- A mover is lost (R46, R176): its held requests go on untracked, its bitmaps and copies are gone, guards that had copies there are lost, and a
capture that covers the stile ends. -/
def State.loseMover (s : State) (st : Nat) : State :=
  let steps := ((s.st st).copies.filterMap (·.forStep)).eraseDups
  let s := s.releaseAll st
  let covered := match s.cap.run with
    | some r => (s.scopeStiles r).contains st
    | none => false
  let s := if covered then s.capFail sNotInState false else s
  let s := steps.foldl State.loseGuard s
  let s := s.onSt st fun t => { t with
    moverOn := false, isOpen := false, copies := [], gran := .const ⟨true, false⟩, rowFlip := .const 0, flips := t.flips }
  let s := { s with pwr := { s.pwr with on := setBit s.pwr.on (3 * st) false } }
  s.relevelAll

/-- MOVER_LOSS (R176). -/
def execMoverLoss (st : Nat) (s : State) : Host.Outcome State Fault Refusal :=
  .next (if (s.st st).moverOn then s.loseMover st else s)

/-! ## Krytra-origin writes (R153, R440, R441) -/

/-- A cell for a granule that must be taken at once: the first free one of the serving stile, else its first. -/
def State.someCell (s : State) (st : Nat) : Nat := ((List.range 16).find? fun c => s.cellFree (s.server st) c).getD 0

/-- Write bytes at offset `off` of granule `g`, at its slow-tier place once moved there: a capture write of the granule (Table 6 of chapter 06). A
stalled granule is taken by a cell first. -/
def State.kWrite (s : State) (g off : Nat) (d : List Byte) : State :=
  let (s, _, stalled) := s.track g true
  let s := match stalled, s.place g with
    | true, some (st, _) => let s := s.takeNow st (s.someCell st) g; s.setGran g gDirty
    | _, _ => s
  s.poke (s.granAddr g + off) d

/-- The granule holds undefined data (assumption log 11). -/
def State.kUndef (s : State) (g : Nat) : State :=
  { (s.kWrite g 0 ((List.range 65536).map (Config.undefByte s.free))) with free := s.free + 1 }

/-- A buffer that a failing write reached holds undefined data (R122). -/
def State.undefBuf (s : State) (a n : Nat) : State :=
  { (s.poke a ((List.range n).map (Config.undefByte s.free))) with free := s.free + 1 }

end Sys2Proof.Machine
end

