-- ==== Sys2Proof/Machine/Store.lean ====
section
/-! DEFINITION. Stores: the commit of a capture (R222-R228), store commands (R210-R217, R230, R234), NVMe controllers (R84, R232, R233, R476,
R477), checkpoints, compaction (R229), stalagmite extends (R397, R398). -/

namespace Sys2Proof.Machine

/-! ## Stalagmite registers -/

/-- Extend register `n` with data (R397). -/
def State.extendSg (s : State) (n : Nat) (data : List Byte) : State :=
  let old := leBytes 48 (s.dgt.sg.get n).toNat
  let new := sha 1 (old ++ sha 1 data)
  { s with dgt := { s.dgt with sg := s.dgt.sg.set n (BitVec.ofNat 384 (leNat new)), sgCount := s.dgt.sgCount.modify n (· + 1) } }

/-! ## What storage commands answer -/

/-- The status writes to storage end with (R204, R233). -/
def storeFault (e : Ext) : Option (BitVec 16) :=
  match e.nvme with
  | .media => some sMediaError
  | .timeout => some sTimeout
  | _ => none

/-- The status reads from storage end with (R201, R233). -/
def loadFault (e : Ext) : Option (BitVec 16) :=
  match e.nvme with
  | .media => some sMediaError
  | .timeout => some sTimeout
  | .check => some sCheckMismatch
  | .ok | .recheck => none

/-! ## Commit -/

/-- The shard of member `m` of a captured region, from sector `first` of the index space (R218-R222). -/
def State.shardOf (s : State) (r : CapRun) (md : Media) (rid : Nat) (g : Region) (m first : Nat) : Shard :=
  let mine := s.cap.recs.filter fun l => l.region == rid && l.member == m
  let leaf (k : Nat) : IndexRec × List Nat × List (Nat × Nat × List Byte) :=
    match mine.find? fun l => l.leaf == k with
    | some l => (l.rec_, if l.rec_.kind = 0 then l.beats else md.refBeats l.rec_, if l.rec_.kind = 0 then [(k, l.place, l.block)] else [])
    | none => match s.refOf r rid g m k with
      | some q => (q, md.refBeats q, [])
      | none => (⟨0, 0, 0, 0, 0, 0, 0, false, 0, 0, 0, 0, 0⟩, [], [])
  let l := (List.range g.coord.leaves).map fun k => (k, leaf k)
  let recs := l.map fun p => p.2.1
  let digs := recs.map (·.digest)
  let tensor := g.coord.tensor m
  { tensorId := tensor, coord := g.coord, region := rid, member := m, firstSector := first, repIndex := g.repIndex, repCount := g.repCount,
    repGroup := g.repGroup
    digest := if recs.any (fun q => q.kind == 3) then none
      else some (if md.major = 2 then shardDigestV2 tensor digs else shardDigest tensor digs)
    recs := recs, poison := l.filterMap fun p => if p.2.1.poisoned then some (p.1, p.2.2.1) else none
    places := l.flatMap fun p => p.2.2.2 }

/-- The shards of a capture, in shard-record order. -/
def State.shardsOf (s : State) (r : CapRun) (md : Media) : List Shard :=
  ((r.regs.flatMap fun p => (List.range p.2.coord.members).map fun m => (p.1, p.2, m)).foldl (fun (a : List Shard × Nat) q =>
    let h := s.shardOf r md q.1 q.2.1 q.2.2 a.2
    (a.1 ++ [h], a.2 + shardSectors h.recs.length h.poison.length)) ([], 0)).1

/-- The object of a capture (R218-R223). -/
def State.objectOf (s : State) (r : CapRun) (md : Media) : StoredObj :=
  let shards := s.shardsOf r md
  let key := if r.sealed then some (s.keys.get r.slot).key else none
  let kcv := match key with | some k => kcvOf k | none => 0
  let h : ManHead := ⟨md.major, b2n r.midstep + 2 * b2n r.policy + 4 * b2n r.sealed + 8 * b2n r.flow + 16 * b2n r.degraded +
    32 * b2n r.cmd.isNone + 64 * b2n (shards.any fun t => t.digest.isNone), r.id, r.label, r.epoch, r.stepCount, r.stepCode, r.flipTime, kcv,
    r.drained - r.skipped, r.bytes, glbVersion s, s.boot.running⟩
  { id := r.id, label := r.label, epoch := r.epoch, stepCount := r.stepCount, stepState := r.stepCode, midstep := r.midstep,
    sealed := r.sealed, kcv := kcv, ssf := md.major, manifest := manifestOf h shards key, shards := shards, expired := false, commitSeq := 0 }

/-- CAPTURE_COMMIT (R150 step 6, R173, R228): the manifest is built, written and committed, the register extended, the command completed. -/
def execCaptureCommit (e : Ext) (s : State) : Host.Outcome State Fault Refusal :=
  .next (match s.cap.run with
    | none => s
    | some r =>
      if r.phase ≠ 5 then s
      else match s.mounted r.store with
      | none => s.capFail sNotInState false
      | some md => match (match s.storeDown r.store with | some st => some st | none => storeFault e) with
        | some st => s.capFail st false
        | none =>
          let o := s.objectOf r md
          let s := (s.onMedia r.store fun m => m.commit o).extendSg (s.ch r.chamber).sg o.manifest
          let s := { s with cap := { s.cap with run := none, recs := [] } }
          let s := if r.sealed then s.onKey r.slot fun k => { k with reserved := k.reserved - r.reserved } else s
          s.capReport r (if r.degraded || s.fewCores then sDegraded else sOk) false)

/-! ## Store commands -/

/-- The namespaces a list names: controller, NSID. -/
def State.nsList (s : State) (a n : Nat) : List (Nat × BitVec 32) :=
  (List.range n).map fun i => (leAt (s.peek (a + 8 * i) 8) 0 1 % 64, BitVec.ofNat 32 (leAt (s.peek (a + 8 * i) 8) 4 4))

/-- The byte of a list entry that is not well formed. -/
def State.nsListBad (s : State) (a n : Nat) : Option Nat :=
  (List.range n).findSome? fun i =>
    let l := s.peek (a + 8 * i) 8
    if leAt l 0 4 / 64 ≠ 0 then some (8 * i) else none

/-- What Identify reported of a namespace of an attached controller. -/
def State.nsInfo (s : State) (p : Nat × BitVec 32) : Option NsInfo :=
  let c := s.sto.ctrls.get p.1
  if c.attached then c.spaces.find? fun n => n.nsid == p.2 && n.usable else none

/-- Whether a namespace belongs to a store mounted on the block. -/
def State.nsMounted (s : State) (p : Nat × BitVec 32) : Bool :=
  s.sto.mount.entries.any fun q => match s.mounted q.1 with | some m => m.ns.contains p | none => false

/-- What refuses STORE_CREATE and a mount before any effect (R210, R225, R234, R477). -/
def State.storeRefuse (s : State) (x : Sub) (e : Ext) : Option Res :=
  let n := fld x.a 6 0
  let l := s.nsList x.b.toNat n
  if e.readErr then some (fail s sMalformed)
  else match s.nsListBad x.b.toNat n with
  | some i => some (reject s sInvalidField 1 1 0 i)
  | none =>
    if (s.mounted x.handle.toNat).isSome || l.any s.nsMounted then some (fail s sNotInState)
    else if s.sto.down then some (fail s sNotInState)
    else if l.any fun p => (s.sto.ctrls.get p.1).quar then some (fail s sTimeout)
    else match (List.range n).find? fun i => (s.nsInfo (l.getD i (0, 0))).isNone || (l.take i).contains (l.getD i (0, 0)) with
    | some i => some (reject s sInvalidField 1 1 0 (8 * i))
    | none => none

/-- STORE_CREATE that formats (R210, R212, R217, R234). The new store is mounted under the handle (DEDUCED). -/
def bodyStoreCreate (x : Sub) (e : Ext) (s : State) : Res :=
  match s.storeRefuse x e with
  | some r => r
  | none =>
    let l := s.nsList x.b.toNat (fld x.a 6 0)
    let infos := l.filterMap s.nsInfo
    let u := 2 ^ fld x.a 23 16
    let per := (infos.foldl (fun m i => min m i.size) ((infos.headD ⟨0, false, 0, []⟩).size)) / u * u
    let z := l.length * per / 2 ^ 18
    if z < 4 then badParam s 16
    else
      let old := { s with sto := { s.sto with media := s.sto.media.map fun m => if m.ns.any l.contains then m.blank else m } }
      match storeFault e with
      | some st => fail old st
      | none =>
        let (a, s) := old.draw
        let (b, s) := s.draw
        let v2 := fld x.a 15 8 = 2
        let m : Media := ⟨l, infos.map (·.ident), fld x.a 15 8, false, false, if v2 then 0 else 4, BitVec.ofNat 128 (a.toNat + b.toNat * 2 ^ 64),
          fld x.a 23 16, per, z, 1, 0, 1, 0, 0, 1, 1, s.boot.running, [], []⟩
        let m := { m with ckptLen := 1 + m.zoneSectors }
        let s := { s with sto := { s.sto with
          media := s.sto.media ++ [m]
          mount := s.sto.mount.set x.handle.toNat (some s.sto.media.length) } }
        ended s sOk (BitVec.ofNat 64 m.capacity) z []

/-- STORE_CREATE with A[24] = 1: mount (R213, R216, R230, R234). -/
def bodyStoreMount (x : Sub) (e : Ext) (s : State) : Res :=
  match s.storeRefuse x e with
  | some r => r
  | none =>
    let l := s.nsList x.b.toNat (fld x.a 6 0)
    let ids := (l.filterMap s.nsInfo).map (·.ident)
    match (List.range s.sto.media.length).find? fun i => match s.sto.media[i]? with
      | some m => m.idents.any ids.contains
      | none => false with
    | none => fail s sManifestMismatch
    | some i => match s.sto.media[i]? with
      | none => fail s sManifestMismatch
      | some m =>
        if m.damaged then fail s sManifestMismatch
        else if !(ids.all m.idents.contains && m.idents.all ids.contains && ids.length == m.idents.length) then badParam s 24
        else match loadFault e with
        | some st => fail s (if st = sCheckMismatch then sManifestMismatch else st)
        | none =>
          if m.deleting then ended { s with sto := { s.sto with media := s.sto.media.set i m.blank } } sOk 0 m.zones []
          else
            let order := m.idents.map fun d => ((l.find? fun p => match s.nsInfo p with | some n => n.ident == d | none => false).getD (0, 0))
            let m := { m.remount with ns := order }
            ended { s with sto := { s.sto with
              media := s.sto.media.set i m
              mount := s.sto.mount.set x.handle.toNat (some i) } } sOk (BitVec.ofNat 64 m.capacity) m.zones []

/-- Whether some configured chamber names store `h`. -/
def State.storeNamed (s : State) (h : Nat) : Bool :=
  s.chambers.entries.any fun p => p.2.configured && p.2.storeValid && p.2.store == h

/-- STORE_DELETE and its unmount (R234). -/
def bodyStoreDelete (x : Sub) (e : Ext) (s : State) : Res :=
  let h := x.handle.toNat
  match s.mounted h with
  | none => fail s sNotInState
  | some m =>
    if s.storeNamed h then fail s sNotInState
    else match s.storeDown h with
    | some st => fail s st
    | none =>
      let off (s : State) : State := { s with sto := { s.sto with mount := s.sto.mount.set h none } }
      if bit x.a 0 then
        match storeFault e with
        | some st => fail (off (s.onMedia h fun m => { m with deleting := true, generation := m.generation + 1 })) st
        | none => ended (off (s.onMedia h Media.blank)) sOk (BitVec.ofNat 64 m.extents) m.extents []
      else match storeFault e with
        | some st => fail s st
        | none => done (off (s.onMedia h Media.checkpoint)) 0

/-! ## Controllers -/

/-- The handles of mounted stores that use a controller. -/
def State.storesOn (s : State) (c : Nat) : List Nat :=
  s.sto.mount.entries.filterMap fun p => match s.mounted p.1 with
    | some m => if m.ns.any (fun q => q.1 == c) then some p.1 else none
    | none => none

/-- End every capture whose store uses a controller (R477). -/
def State.endStorage (s : State) (handles : List Nat) (st : BitVec 16) : State :=
  let s := match s.cap.run with
    | some r => if handles.contains r.store then s.capFail st false else s
    | none => s
  (s.cap.waits.filter fun w => handles.contains w.run.store).foldl (fun s w => s.waitEnd w.run st false) s

/-- Disable a controller: its commands fail, and what needs it ends with PARTNER_TIMEOUT. -/
def State.disableCtrl (s : State) (c : Nat) : State :=
  let s := s.endStorage (s.storesOn c) sTimeout
  s.onNvme c fun n => { n with attached := false, open_ := [], timed := [] }

/-- One violation of a controller (R476, R477). -/
def State.violNvme (s : State) (c : Nat) (d : List Byte) : State :=
  let s := (s.logPartner sMalformed 6 c none d).onNvme c fun n => { n with viol := n.viol + 1 }
  if s.feat.thNvme ≤ (s.sto.ctrls.get c).viol ∧ !(s.sto.ctrls.get c).quar then
    ((s.disableCtrl c).onNvme c fun n => { n with quar := true }).logPartner sQuarantined 6 c none []
  else s

/-- STORAGE_ATTACH (R84). -/
def bodyStorageAttach (x : Sub) (_e : Ext) (ci : CtrlInfo) (s : State) : Res :=
  let c := fld x.a 5 0
  let n := s.sto.ctrls.get c
  let off (s : State) : State := s.disableCtrl c
  if s.sto.down then fail s sNotInState
  else if ci.regErr || ci.notReady then fail (off s) sTimeout
  else if ci.cmdErr then fail (off s) sMediaError
  else
    let ok := ci.spaces.filter (·.usable)
    if ok = [] then ⟨off s, some sInvalidField, BitVec.ofNat 64 ((ci.spaces.headD ⟨0, false, 0, []⟩).nsid.toNat), 0, []⟩
    else
      let known (m : Media) : Bool := s.sto.media.any fun o => !o.idents.isEmpty && o.identity == m.identity
      let fresh := ci.stores.filter fun m => !known m
      let s := s.onNvme c fun _ =>
        { attached := true, base := x.b, pairs := fld x.c 4 0, depth := fld x.c 27 16 + 1, identify := ci.identify, spaces := ci.spaces,
          open_ := n.open_, timed := [], sqHead := .const 0, viol := 0, quar := false, health := n.health, errLog := n.errLog }
      ended { s with sto := { s.sto with media := s.sto.media ++ fresh } } sOk (BitVec.ofNat 64 ok.length) ok.length []

/-- STORAGE_ATTACH with A[8] set: detach (R84). -/
def bodyStorageDetach (x : Sub) (s : State) : Res :=
  let c := fld x.a 5 0
  if !(s.storesOn c).isEmpty then fail s sNotInState
  else done (s.onNvme c fun n => { Nvme.zero with health := n.health, errLog := n.errLog }) 0

/-- NVME_COMPLETION (R232, R476): an entry that is not valid is discarded as a violation; else the command it names is finished. After an error
status the controller's error log is read; its bytes are not given (assumption log 11). -/
def execNvmeCompletion (c : Nat) (cqe : Cqe) (s : State) : Host.Outcome State Fault Refusal :=
  .next (let n := s.sto.ctrls.get c
    if !n.attached || s.sto.down then s
    else
      let old := n.sqHead.get cqe.sqId
      if !n.open_.contains cqe.cid ∨ cqe.sqId = 0 ∨ n.pairs < cqe.sqId ∨ n.depth ≤ cqe.sqHead ∨
          n.open_.length < (cqe.sqHead + n.depth - old) % max n.depth 1 then
        s.violNvme c (leBytes 2 cqe.cid ++ leBytes 2 cqe.sqId ++ leBytes 2 cqe.sqHead)
      else
        let s := s.onNvme c fun n => { n with
          open_ := n.open_.filter (· != cqe.cid), timed := n.timed.filter (· != cqe.cid), sqHead := n.sqHead.set cqe.sqId cqe.sqHead }
        let s := if cqe.status = 0 then s else
          { (s.onNvme c fun n => { n with errLog := (List.range 64).map (Config.undefByte s.free) }) with free := s.free + 1 }
        match s.cap.blocks.find? fun b => b.ctrl == c && b.cid == cqe.cid && b.stage != 4 with
        | some b => if cqe.status = 0 then (if b.stage = 3 then s.blockDone b else s) else s.blockFailed b
        | none => s)

/-- NVME_COMMAND_TIMEOUT (R233): a violation; the controller is reset and the command issued again; the second time the operation ends and the
controller stays disabled. -/
def execNvmeCommandTimeout (c cid : Nat) (s : State) : Host.Outcome State Fault Refusal :=
  .next (let n := s.sto.ctrls.get c
    if !n.attached || !n.open_.contains cid then s
    else
      let again := n.timed.contains cid
      let s := s.violNvme c (leBytes 2 cid)
      if !(s.sto.ctrls.get c).attached then s
      else if again then (s.logStatus sTimeout 6 c none (leBytes 2 cid)).disableCtrl c
      else s.onNvme c fun n => { n with timed := n.timed ++ [cid], sqHead := .const 0 })

/-- NVME_SMART_POLL (R232): the health log as received; a critical warning is logged. -/
def execNvmeSmartPoll (c : Nat) (log : List Byte) (critical : BitVec 8) (s : State) : Host.Outcome State Fault Refusal :=
  .next (if !(s.sto.ctrls.get c).attached || s.sto.down then s
    else
      let s := s.onNvme c fun n => { n with health := padTo 512 log }
      if critical ≠ 0 then s.log sDegraded 0 6 c none [critical] else s)

/-! ## Checkpoints and compaction -/

/-- JOURNAL_CHECKPOINT (R217): once the live part of the ring exceeds three quarters of it. A failed write leaves the older checkpoint in force. -/
def execJournalCheckpoint (store : Nat) (e : Ext) (s : State) : Host.Outcome State Fault Refusal :=
  .next (match s.mounted store with
    | none => s
    | some m =>
      if 4 * (m.journalSeq - m.ckptSeq) ≤ 3 * m.ring ∨ (s.storeDown store).isSome then s
      else match storeFault e with
      | some st => s.logStatus st 0 store none []
      | none => s.onMedia store Media.checkpoint)

/-- GC_COMPACT (R229): a data zone under a quarter mapped, not open to the running capture, with no clamp on its objects, moves to a zone with
no mapped place and is deallocated. -/
def execGcCompact (store zone : Nat) (e : Ext) (s : State) : Host.Outcome State Fault Refusal :=
  .next (match s.mounted store with
    | none => s
    | some m =>
      let reserved := match s.cap.run with
        | some r => if r.store = store then r.places.map (· / 2 ^ 18) else []
        | none => []
      let clamped := (m.zoneObjects zone).any fun o => s.clamps.any fun k => s.overlap k.on (.object o)
      if m.major = 2 ∨ zone < 3 ∨ m.zones ≤ zone ∨ 2 ^ 16 ≤ m.zoneMapped zone ∨ reserved.contains zone ∨ clamped ∨
          (s.storeDown store).isSome ∨ (loadFault e).isSome then s
      else match (List.range m.zones).find? fun z => decide (3 ≤ z ∧ z ≠ zone) && !m.zoneUsed z && !reserved.contains z with
      | some t => s.onMedia store fun m => m.moveZone zone t
      | none => s)

/-! ## Rows -/

/-- A STORE_CREATE entry without A[24]. -/
def createSub (x : Sub) : Sub := { x with opcode := 0x09, a := setBit x.a 24 false }
/-- A STORE_CREATE entry with A[24]. -/
def mountSub (x : Sub) : Sub := { x with opcode := 0x09, a := setBit x.a 24 true }
/-- A STORE_DELETE entry with A[0] = 0. -/
def unmountSub (x : Sub) : Sub := { x with opcode := 0x0A, a := setBit x.a 0 false }
/-- A STORE_DELETE entry with A[0] = 1. -/
def deleteSub (x : Sub) : Sub := { x with opcode := 0x0A, a := setBit x.a 0 true }
/-- A STORAGE_ATTACH entry without A[8]. -/
def attachSub (x : Sub) : Sub := { x with opcode := 0x12, a := setBit x.a 8 false }
/-- A STORAGE_ATTACH entry with A[8]. -/
def detachSub (x : Sub) : Sub := { x with opcode := 0x12, a := setBit x.a 8 true }

/-- STORE_CREATE (R234). -/
def execStoreCreate (x : Sub) (e : Ext) (s : State) : Host.Outcome State Fault Refusal :=
  .next (s.runOp (createSub x) [] (bodyStoreCreate (createSub x) e))

/-- STORE_MOUNT (R234). -/
def execStoreMount (x : Sub) (e : Ext) (s : State) : Host.Outcome State Fault Refusal :=
  .next (s.runOp (mountSub x) [] (bodyStoreMount (mountSub x) e))

/-- STORE_UNMOUNT (R234). -/
def execStoreUnmount (x : Sub) (e : Ext) (s : State) : Host.Outcome State Fault Refusal :=
  .next (s.runOp (unmountSub x) [] (bodyStoreDelete (unmountSub x) e))

/-- STORE_DELETE (R234). -/
def execStoreDelete (x : Sub) (e : Ext) (s : State) : Host.Outcome State Fault Refusal :=
  .next (s.runOp (deleteSub x) [] (bodyStoreDelete (deleteSub x) e))

/-- STORAGE_ATTACH (R84). -/
def execStorageAttach (x : Sub) (e : Ext) (ci : CtrlInfo) (s : State) : Host.Outcome State Fault Refusal :=
  .next (s.runOp (attachSub x) [] (bodyStorageAttach (attachSub x) e ci))

/-- STORAGE_DETACH (R84). -/
def execStorageDetach (x : Sub) (_e : Ext) (s : State) : Host.Outcome State Fault Refusal :=
  .next (s.runOp (detachSub x) [] (bodyStorageDetach (detachSub x)))

end Sys2Proof.Machine
end

