-- ==== Sys2Proof/Machine/Keys.lean ====
section
/-! DEFINITION. Key slots, the key port, the CTR_DRBG and the cipher commands (R60, R61, R124, R134, R400-R403, R467; KEY_SLOT_LOAD,
SEAL, UNSEAL). -/

namespace Sys2Proof.Machine

/-! ## Zeroising (R403, R467) -/

/-- Clear a key slot: the key, its check value and manifest key, its count; what needs it next ends with KEY_SLOT_EMPTY (R403). -/
def State.zeroKey (s : State) (slot : Nat) : State := (s.onKey slot fun _ => KeySlot.zero).capFailSlot slot sKeyEmpty

/-- An HMAC slot cleared: its generation stays, so a saved state never continues (R389-R393). -/
def HSlot.clear (h : HSlot) : HSlot := { HSlot.zero with gen := h.gen }

/-- Clear every key slot and HMAC slot (R467). -/
def State.zeroAllKeys (s : State) : State :=
  let s := { s with keys := .const .zero, dgt := { s.dgt with hslots := s.dgt.hslots.mapAll HSlot.clear, hkeys := .const 0 } }
  (List.range 64).foldl (fun s k => s.capFailSlot k sKeyEmpty) s

/-- Whether a slot may be used now: committed. -/
def KeySlot.usable (k : KeySlot) : Bool := k.state == 2

/-- Invocations used or reserved (R195). -/
def KeySlot.used (k : KeySlot) : Nat := k.count + k.reserved

/-- Commit a key into a slot: the fixed field is drawn, the count is 0 (R401). -/
def State.commitKey (s : State) (slot source : Nat) (key : BitVec 256) : State :=
  let (f, s) := s.draw
  s.onKey slot fun _ => { KeySlot.zero with state := 2, source := source, key := key, fixed := f }

/-! ## The key port (R60, R400, R401) -/

/-- Whether the port refuses everything: SPENT, LAMP3 open, or start-up has not resolved a lifecycle state that zeroises keys (R60, R458). -/
def State.portRefuses (s : State) : Bool :=
  s.life.life == .spent || decide (3 ≤ s.life.level) || s.boot.stage == .rom ||
    s.life.pending == some .fieldOpen || s.life.pending == some .ret || s.life.pending == some .spent

/-- Answer a port operation with a KEY_ERR code, counted and logged where it is a violation (R60, R476). -/
def State.keyErr (s : State) (slot code : Nat) : State :=
  let s := { s with dgt := { s.dgt with
    lastKeyErr := code
    portParity := if code = 1 then satAdd 16 s.dgt.portParity 1 else s.dgt.portParity
    portRefused := if code = 2 ∨ code = 3 then satAdd 16 s.dgt.portRefused 1 else s.dgt.portRefused } }
  if code = 0 then s else s.logPartner sMalformed 10 slot none [BitVec.ofNat 8 code]

/-- Whether each byte with its parity bit has an odd number of ones. -/
def oddParity (data : BitVec 64) (par : BitVec 8) : Bool :=
  (List.range 8).all fun i =>
    (((List.range 8).filter fun k => bit data (8 * i + k)).length + b2n (bit par i)) % 2 == 1

/-- KEY_LOAD_WORD (R60, R400). -/
def execKeyLoadWord (slot w : Nat) (data : BitVec 64) (par : BitVec 8) (s : State) : Host.Outcome State Fault Refusal :=
  .next (if s.boot.resetHeld = 2 then s else
    let k := slot % 64
    let i := w % 4
    let t := s.keys.get k
    if s.portRefuses then s.keyErr k 3
    else if !oddParity data par then s.keyErr k 1
    else if t.state = 2 then s.keyErr k 2
    else
      let mask : BitVec 256 := 0xFFFFFFFFFFFFFFFF#256 <<< (64 * i)
      (s.onKey k fun t => { t with
        state := 1, words := setBit t.words i true
        key := (t.key &&& ~~~mask) ||| ((data.zeroExtend 256) <<< (64 * i)) }).keyErr k 0)

/-- KEY_COMMIT (R60, R401): a slot loaded in full becomes COMMITTED; one not loaded in full is cleared. -/
def execKeyCommit (slot : Nat) (s : State) : Host.Outcome State Fault Refusal :=
  .next (if s.boot.resetHeld = 2 then s else
    let k := slot % 64
    let t := s.keys.get k
    if s.portRefuses then s.keyErr k 3
    else if t.state ≠ 1 ∨ t.words ≠ 15 then (s.zeroKey k).keyErr k 2
    else if s.drbg.stop then s.keyErr k 3
    else (s.commitKey k 1 t.key).keyErr k 0)

/-- KEY_ZEROISE (R403). -/
def execKeyZeroise (slot : Nat) (s : State) : Host.Outcome State Fault Refusal :=
  .next (if s.boot.resetHeld = 2 then s else
    let k := slot % 64
    if s.portRefuses then s.keyErr k 3 else (s.zeroKey k).keyErr k 0)

/-- KEY_LOADING_TIMEOUT (R400): 10 ms in LOADING. -/
def execKeyLoadingTimeout (slot : Nat) (s : State) : Host.Outcome State Fault Refusal :=
  .next (if (s.keys.get slot).state = 1 then (s.onKey slot fun _ => KeySlot.zero).logStatus sTimeout 10 slot none [] else s)

/-! ## The entropy port (R61) -/

/-- ENTROPY_WORD: words that arrive while ENT_FAIL is high are discarded; 32 instantiate, 16 reseed. -/
def execEntropyWord (_w : BitVec 32) (fail : Bool) (s : State) : Host.Outcome State Fault Refusal :=
  .next (if s.boot.resetHeld = 2 then s else
    let s := { s with drbg := { s.drbg with entFail := fail } }
    if s.drbg.live && !s.drbg.due then s
    else if fail then s.logPartner sMalformed 10 0 none []
    else
      let n := s.drbg.words + 1
      if n < (if s.drbg.live then 16 else 32) then { s with drbg := { s.drbg with words := n } }
      else { s with drbg := { s.drbg with live := true, words := 0, due := false, stop := false, generates := 0 } })

/-- DRBG_RESEED_DUE: 2^20 generate requests, or 1 s. -/
def execDrbgReseedDue (s : State) : Host.Outcome State Fault Refusal :=
  .next (if s.drbg.live && !s.drbg.due then { s with drbg := { s.drbg with due := true, words := 0 } } else s)

/-- DRBG_RESEED_TIMEOUT: a due reseed has not completed within 100 ms; masked work stops. -/
def execDrbgReseedTimeout (s : State) : Host.Outcome State Fault Refusal :=
  .next (if s.drbg.due then
      ({ s with drbg := { s.drbg with stop := true, fails := satAdd 16 s.drbg.fails 1 } }).logPartner sTimeout 10 0 none []
    else s)

/-! ## Cipher commands -/

/-- A cipher core in service serves a command, its group on; else the groups are asked for (R206, R207). -/
def State.cipherUp (s : State) : Bool :=
  (List.range 16).any fun c => !bit s.ciph.failed c && s.dom (coreDom c)

/-- Ask for the groups of the cores in service. -/
def State.wantCipher (s : State) : State :=
  s.wantDoms (((List.range 16).filter fun c => !bit s.ciph.failed c).map coreDom).eraseDups

/-- The additional data of SEAL and UNSEAL. -/
def State.cipherAad (s : State) (x : Sub) : List Byte := if x.e = 0 then [] else s.peek x.e.toNat (fld x.f 15 0)

/-- SEAL (R134, R192, R195). -/
def bodySeal (x : Sub) (e : Ext) (s : State) : Res :=
  let n := fld x.d 36 0
  let slot := x.handle.toNat % 64
  let k := s.keys.get slot
  if n > 2 ^ 36 - 32 then fail s sLengthLimit
  else if !k.usable then fail s sKeyEmpty
  else if k.used ≥ 2 ^ 32 then fail s sKeyWorn
  else if s.drbg.stop then fail s sNotInState
  else if !s.cipherUp then wait s.wantCipher
  else
    let iv := leBytes 12 k.iv.toNat
    let (c, tag) := gcmSeal (keyBytes k.key) iv (s.cipherAad x) (s.peek x.b.toNat n)
    let s := s.useKey slot
    if e.writeErr then fail (s.undefBuf x.c.toNat (n + 28)) sMalformed
    else ended (s.poke x.c.toNat (iv ++ c ++ tag)) sOk (BitVec.ofNat 64 (k.count + 1)) (ceilDiv n 65536) []

/-- UNSEAL (R134, R198): a tag that fails leaves zeros. -/
def bodyUnseal (x : Sub) (e : Ext) (s : State) : Res :=
  let n := fld x.d 36 0
  let k := s.keys.get (x.handle.toNat % 64)
  if n > 2 ^ 36 - 32 then fail s sLengthLimit
  else if !k.usable then fail s sKeyEmpty
  else if s.drbg.stop then fail s sNotInState
  else if !s.cipherUp then wait s.wantCipher
  else
    let iv := s.peek x.b.toNat 12
    let c := s.peek (x.b.toNat + 12) n
    let tag := s.peek (x.b.toNat + 12 + n) 16
    if e.writeErr then fail (s.undefBuf x.c.toNat n) sMalformed
    else match gcmOpen (keyBytes k.key) iv (s.cipherAad x) c tag with
    | some p => ended (s.poke x.c.toNat p) sOk 0 (ceilDiv n 65536) []
    | none => ended (s.poke x.c.toNat (zeros n)) sAuthFailed 0 (ceilDiv n 65536) []

/-- KEY_SLOT_LOAD (R124, R400, R401): unwraps the blob under the wrapping slot and commits it. -/
def bodyKeySlotLoad (x : Sub) (e : Ext) (s : State) : Res :=
  let slot := x.handle.toNat % 64
  let w := s.keys.get (fld x.a 5 0)
  if 3 ≤ s.life.level ∨ (s.keys.get slot).state ≠ 0 then fail s sNotInState
  else if !w.usable then fail s sKeyEmpty
  else if w.count ≥ 2 ^ 32 then fail s sKeyWorn
  else if s.drbg.stop then fail s sNotInState
  else if e.readErr ∨ (s.mem.badBeats x.b.toNat 60) ≠ [] then fail s sMalformed
  else if !s.cipherUp then wait s.wantCipher
  else
    let b := s.peek x.b.toNat 60
    let aad := [BitVec.ofNat 8 slot, BitVec.ofNat 8 x.chamber] ++ zeros 6
    match gcmOpen (keyBytes w.key) (bytesAt b 0 12) aad (bytesAt b 12 32) (bytesAt b 44 16) with
    | none => fail s sAuthFailed
    | some key => done (s.commitKey slot 2 (BitVec.ofNat 256 (leNat key))) 0

/-- KEY_SLOT_LOAD with A[8]: zeroise (R403). -/
def bodyKeySlotZeroise (x : Sub) (s : State) : Res := done (s.zeroKey (x.handle.toNat % 64)) 0

/-! ## Rows -/

/-- The entry of a KEY_SLOT_LOAD. -/
def keyLoadSub (x : Sub) : Sub := { x with opcode := 0x0C, a := setBit x.a 8 false }
/-- The entry of a KEY_SLOT_LOAD with A[8]. -/
def keyZeroSub (x : Sub) : Sub := { x with opcode := 0x0C, a := setBit x.a 8 true }

/-- KEY_SLOT_LOAD (R124). -/
def execKeySlotLoad (x : Sub) (e : Ext) (s : State) : Host.Outcome State Fault Refusal :=
  .next (s.runOp (keyLoadSub x) [] (bodyKeySlotLoad (keyLoadSub x) e))

/-- KEY_SLOT_ZEROISE (R403). -/
def execKeySlotZeroise (x : Sub) (_e : Ext) (s : State) : Host.Outcome State Fault Refusal :=
  .next (s.runOp (keyZeroSub x) [] (bodyKeySlotZeroise (keyZeroSub x)))

/-- SEAL (R134). -/
def execSeal (x : Sub) (e : Ext) (s : State) : Host.Outcome State Fault Refusal :=
  .next (s.runOp { x with opcode := 0x82 } [] (bodySeal { x with opcode := 0x82 } e))

/-- UNSEAL (R134). -/
def execUnseal (x : Sub) (e : Ext) (s : State) : Host.Outcome State Fault Refusal :=
  .next (s.runOp { x with opcode := 0x83 } [] (bodyUnseal { x with opcode := 0x83 } e))

end Sys2Proof.Machine
end

