-- ==== Sys2Proof/Machine/Digest.lean ====
section
/-! DEFINITION. Digest engines: the DIGEST, HMAC and EXTEND commands, the contexts of the register interface, HMAC slots (R379-R399). -/

namespace Sys2Proof.Machine

/-! ## Engines -/

/-- Whether an engine is in service (R395). -/
def State.engineUp (s : State) : Bool := (List.range 8).any fun e => !bit s.dgt.failed e

/-- Contexts 8-31 that commands hold (R380, R381). -/
def State.cmdContexts (s : State) : Nat :=
  (s.cmds.filter fun c => (c.sub.opcode == 0x80 || c.sub.opcode == 0x81) && c.phase == 2).length

/-- Whether a host source can be digested: no beat of it with ERR or POISON (R382). -/
def State.attestable (s : State) (e : Ext) (a n : Nat) : Bool := !e.readErr && (n == 0 || (s.mem.badBeats a n).isEmpty)

/-- Run a digest command: its context, the DGST domain, its source, its output (R381, R382). -/
def State.digestTo (s : State) (x : Sub) (e : Ext) (f : List Byte → List Byte) : Res :=
  let n := fld x.c 39 0
  if !s.dom 103 then wait (s.wantDom 103)
  else if (match s.cmd? x with | some c => c.phase == 1 | none => true) && decide (24 ≤ s.cmdContexts) then
    match s.cmd? x with
    | some c => if c.prog = 0 then
        wait { (s.onCmd x fun c => { c with prog := 1 }) with dgt := { s.dgt with waits := satAdd 16 s.dgt.waits 1 } }
      else wait s
    | none => wait s
  else if !s.engineUp then running x s 0
  else if !s.attestable e x.b.toNat n then fail s sMalformed
  else
    let out := f (s.peek x.b.toNat n)
    if e.writeErr then fail (s.undefBuf x.d.toNat out.length) sMalformed
    else ended (s.poke x.d.toNat out) sOk 0 (ceilDiv n 65536) []

/-- DIGEST (R381). -/
def bodyDigest (x : Sub) (e : Ext) (s : State) : Res := s.digestTo x e (sha (fld x.a 1 0))

/-- HMAC (R391). -/
def bodyHmac (x : Sub) (e : Ext) (s : State) : Res :=
  let h := s.dgt.hslots.get (fld x.a 12 8)
  if !h.loaded then fail s sKeyEmpty
  else if h.alg ≠ fld x.a 1 0 then badParam s 16
  else s.digestTo x e (hmacFrom h.alg h.inner h.outer)

/-- EXTEND (R135, R397). -/
def bodyExtend (x : Sub) (e : Ext) (s : State) : Res :=
  let n := fld x.b 15 0
  if !s.dom 103 then wait (s.wantDom 103)
  else if !s.engineUp then wait s
  else if !s.attestable e x.a.toNat n then fail s sMalformed
  else done (s.extendSg (x.handle.toNat % 32) (s.peek x.a.toNat n)) 0

/-- DIGEST (R381). -/
def execDigest (x : Sub) (e : Ext) (s : State) : Host.Outcome State Fault Refusal :=
  .next (s.runOp { x with opcode := 0x80 } [] (bodyDigest { x with opcode := 0x80 } e))

/-- HMAC (R391). -/
def execHmac (x : Sub) (e : Ext) (s : State) : Host.Outcome State Fault Refusal :=
  .next (s.runOp { x with opcode := 0x81 } [] (bodyHmac { x with opcode := 0x81 } e))

/-- EXTEND (R135). -/
def execExtend (x : Sub) (e : Ext) (s : State) : Host.Outcome State Fault Refusal :=
  .next (s.runOp { x with opcode := 0x84 } [] (bodyExtend { x with opcode := 0x84 } e))

/-! ## HMAC slots (R389-R391) -/

/-- Whether a slot is busy: a context in ABSORBING or FINISHING, or a command, uses it. -/
def State.hslotBusy (s : State) (h : Nat) : Bool :=
  (s.dgt.ctx.listed.any fun p => (p.2.state == 2 || p.2.state == 3) && p.2.mHmac && p.2.mSlot == h) ||
    s.cmds.any fun c => c.sub.opcode == 0x81 && c.phase == 2 && fld c.sub.a 12 8 == h

/-- Change HMAC slot `h`. -/
def State.onHslot (s : State) (h : Nat) (f : HSlot → HSlot) : State :=
  { s with dgt := { s.dgt with hslots := s.dgt.hslots.modify h f } }

/-- The key words of slot `h` are zeroed after every load attempt and at every clear. -/
def State.zeroHkey (s : State) (h : Nat) : State :=
  { s with dgt := { s.dgt with hkeys := (List.range 16).foldl (fun m i => m.set (16 * h + i) 0) s.dgt.hkeys } }

/-- The first `n` bytes of the key words of slot `h`. -/
def State.hkeyBytes (s : State) (h n : Nat) : List Byte :=
  ((List.range 16).flatMap fun i => leBytes 8 (s.dgt.hkeys.get (16 * h + i)).toNat).take n

/-- A write of DGT_HSLOT_CTL_h with load (R390). -/
def State.loadHslot (s : State) (h : Nat) (v : BitVec 32) : State :=
  let alg := fld v 1 0
  let len := fld v 23 16
  let slot := fld v 13 8
  let k := s.keys.get slot
  let bad := if s.hslotBusy h then 3
    else if alg = 3 then 4
    else if bit v 2 then (if slot / 2 ≠ h ∨ !k.usable then 2 else 0)
    else if len = 0 ∨ shaBlock alg < len then 1 else 0
  let key := if bit v 2 then aes (keyBytes k.key) (List.replicate 16 0x48) ++ aes (keyBytes k.key) (List.replicate 16 0x68)
    else s.hkeyBytes h len
  (if bad ≠ 0 then s.onHslot h fun t => { t with lastError := bad }
  else s.onHslot h fun t =>
    { loaded := true, alg := alg, derived := bit v 2, gen := (t.gen + 1) % 256, lastError := 0,
      inner := hmacKey alg 0x36 key, outer := hmacKey alg 0x5C key }).zeroHkey h

/-- A write of DGT_HSLOT_CTL_h with clear (R391). -/
def State.clearHslot (s : State) (h : Nat) : State :=
  if s.hslotBusy h then s.onHslot h fun t => { t with lastError := 3 }
  else (s.onHslot h HSlot.clear).zeroHkey h

/-- An access to a digest window: while DGST is off it wakes it and waits (R396). Under warm reset a write to a context is ignored (R515). -/
def State.dgtWindow (s : State) (a : Access) (err addr : Nat) (f : State → State) : State :=
  if s.boot.resetHeld = 2 then s
  else if s.boot.resetHeld = 1 ∧ 0x348000 ≤ addr then s.fabWrite a err false addr id
  else if !s.dom 103 then s.wantDom 103
  else s.fabWrite a err false addr f

/-- Address of the window of HMAC slot `h`. -/
def hslotAddr (h : Nat) : Nat := 0x342000 + h * 0x100

/-- Whether a write may reach the window of HMAC slot `h`, as an ERR code (R390). -/
def hslotErr (a : Access) (h : Nat) : Nat := if privCh a = h ∨ mgmt a then 0 else 3

/-- A write of DGT_HSLOT_CTL_h (Table 5 of chapter 14). Reserved bits: ignored (R514). -/
def State.hslotCtl (s : State) (h : Nat) (v : BitVec 32) : State :=
  if v &&& 0xFC00C0F8 ≠ 0 then s.ignoredWrite (hslotAddr h + 0x80)
  else if bit v 25 then s.clearHslot h
  else if bit v 24 then s.loadHslot h v
  else s

/-- HSLOT_LOAD (R390). -/
def execHslotLoad (a : Access) (h : Nat) (v : BitVec 32) (s : State) : Host.Outcome State Fault Refusal :=
  .next (if 32 ≤ h then s.fabWrite a 0 false (hslotAddr h) (·.ignoredWrite (hslotAddr h))
    else s.dgtWindow a (hslotErr a h) (hslotAddr h + 0x80) fun s => s.hslotCtl h (setBit v 24 true))

/-- HSLOT_CLEAR (R391). -/
def execHslotClear (a : Access) (h : Nat) (s : State) : Host.Outcome State Fault Refusal :=
  .next (if 32 ≤ h then s.fabWrite a 0 false (hslotAddr h) (·.ignoredWrite (hslotAddr h))
    else s.dgtWindow a (hslotErr a h) (hslotAddr h + 0x80) fun s => s.hslotCtl h (setBit 0 25 true))

/-! ## Contexts (R383-R388) -/

/-- Address of the window of context `c`. -/
def ctxAddr (c : Nat) : Nat := 0x348000 + (c - 32) * 0x400

/-- Change context `c`. -/
def State.onCtx (s : State) (c : Nat) (f : DgtCtx → DgtCtx) : State := { s with dgt := { s.dgt with ctx := s.dgt.ctx.modify c f } }

/-- Context `c`. -/
def State.ctx (s : State) (c : Nat) : DgtCtx := s.dgt.ctx.get c

/-- The context enters ERROR, keeping its previous output (R388). -/
def State.ctxError (s : State) (c code : Nat) : State :=
  let s := s.onCtx c fun t => { t with state := 5, error := code, buf := [], queued := [] }
  ({ s with dgt := { s.dgt with errors := satAdd 16 s.dgt.errors 1 } }).logPartner sMalformed 0 c none [BitVec.ofNat 8 c, BitVec.ofNat 8 code]

/-- Whether the slot serves an HMAC of this owner and algorithm (Table 3 of chapter 14). -/
def State.hslotServes (s : State) (h owner alg : Nat) : Bool :=
  let t := s.dgt.hslots.get h
  h == owner && t.loaded && t.alg == alg

/-- The context starts a message under its present CTL (R386, R387). -/
def DgtCtx.begin (t : DgtCtx) (h : HSlot) : DgtCtx :=
  { t with
    state := 2, mAlg := t.alg, mHmac := t.hmac, mSlot := t.hslot, mGen := h.gen, count := 0, buf := [],
    chain := if t.hmac then h.inner else shaInit t.alg }

/-- Compress the whole blocks of the buffer. -/
def DgtCtx.compress (t : DgtCtx) : DgtCtx :=
  let k := t.buf.length / shaBlock t.mAlg
  { t with chain := shaBlocks t.mAlg k t.chain t.buf, buf := t.buf.drop (k * shaBlock t.mAlg) }

/-- A message write that is not held: `op` 0 DATA, b LAST_b, 9 FINISH, 10 a 4-byte write (R384, R386, R388). -/
def State.ctxPut (s : State) (c op : Nat) (w : BitVec 64) : State :=
  let t := s.ctx c
  if t.state = 5 then s.ignoredWrite (ctxAddr c)
  else if op = 10 then s.ctxError c 1
  else
    let fresh := t.state == 1 || t.state == 4
    if fresh && t.hmac && !s.hslotServes t.hslot t.owner t.alg then s.ctxError c 3
    else
      let t := if fresh then t.begin (s.dgt.hslots.get t.hslot) else t
      let d := if op = 9 then [] else (leBytes 8 w.toNat).take (if op = 0 then 8 else op)
      if 2 ^ 40 ≤ t.count + d.length then (s.onCtx c fun _ => t).ctxError c 2
      else
        let t := { t with count := t.count + d.length, buf := t.buf ++ d }
        let t := if s.engineUp then t.compress else t
        s.onCtx c fun _ => if op = 0 then t else { t with state := 3 }

/-- A message write: held while the context is FINISHING, or while its 256 bytes are full (R385, R386). -/
def State.ctxWrite (s : State) (c op : Nat) (w : BitVec 64) : State :=
  let t := s.ctx c
  if t.state = 3 ∨ t.queued ≠ [] ∨ (t.state = 2 ∧ 248 < t.buf.length) then s.onCtx c fun t => { t with queued := t.queued ++ [(op, w)] }
  else s.ctxPut c op w

/-- The ERR code of a message write: a FREE context and another chamber's are refused (R383, R386). -/
def State.ctxErr (s : State) (a : Access) (c : Nat) : Nat :=
  if (s.ctx c).state = 0 ∨ (s.ctx c).owner ≠ privCh a then 3 else 0

/-- A message write from FAB_S. -/
def State.message (s : State) (a : Access) (c off op : Nat) (w : BitVec 64) (wide : Bool) : State :=
  if c < 32 ∨ 64 ≤ c then s.fabWrite a 0 false (ctxAddr c + off) (·.ignoredWrite (ctxAddr c + off))
  else s.dgtWindow a (s.ctxErr a c) (ctxAddr c + off) fun s => s.ctxWrite c (if wide then op else 10) w

/-- DGT_DATA (R384). -/
def execDgtData (a : Access) (c : Nat) (w : BitVec 64) (wide : Bool) (s : State) : Host.Outcome State Fault Refusal :=
  .next (s.message a c 0x40 0 w wide)

/-- DGT_LAST (R384): b from 1 to 8. -/
def execDgtLast (a : Access) (c b : Nat) (w : BitVec 64) (wide : Bool) (s : State) : Host.Outcome State Fault Refusal :=
  .next (if b = 0 ∨ 8 < b then s else s.message a c (0x40 + 8 * b) b w wide)

/-- DGT_FINISH (R384). -/
def execDgtFinish (a : Access) (c : Nat) (wide : Bool) (s : State) : Host.Outcome State Fault Refusal :=
  .next (s.message a c 0x88 9 0 wide)

/-- The digest of a finished message. -/
def DgtCtx.digest (t : DgtCtx) (h : HSlot) : List Byte :=
  let inner := shaFinish t.mAlg t.chain t.buf (t.count + (if t.mHmac then shaBlock t.mAlg else 0))
  if t.mHmac then shaFinish t.mAlg h.outer inner (shaBlock t.mAlg + inner.length) else inner

/-- Writes that were held take effect in order, up to the next that is held. -/
def State.drainCtx (s : State) (c : Nat) : List (Nat × BitVec 64) → State
  | [] => s
  | (op, w) :: r =>
    if (s.ctx c).state = 3 then s.onCtx c fun t => { t with queued := (op, w) :: r }
    else State.drainCtx (s.ctxPut c op w) c r

/-- DGT_MESSAGE_DONE (R387): the output is written and msgs increments. -/
def execDgtMessageDone (c : Nat) (s : State) : Host.Outcome State Fault Refusal :=
  .next (let t := s.ctx c
    if t.state ≠ 3 ∨ !s.engineUp then s
    else if !s.dom 103 then s.wantDom 103
    else
      let h := s.dgt.hslots.get t.mSlot
      if t.mHmac && !h.loaded then s.ctxError c 3
      else
        let q := t.queued
        let s := s.onCtx c fun t =>
          { t with state := 4, out := padTo 64 (t.digest h), msgs := (t.msgs + 1) % 2 ^ 16, buf := [], queued := [] }
        s.drainCtx c q)

/-! ## Saved states (R392, R393) -/

/-- Whether the context is at a block boundary. -/
def DgtCtx.atBoundary (t : DgtCtx) : Bool := t.count % shaBlock t.mAlg == 0 && t.buf.isEmpty

/-- The eight chaining words of Table 4. -/
def chainWords (alg : Nat) (chain : List Nat) : List (BitVec 64) :=
  if alg = 0 then ((List.range 4).map fun i => BitVec.ofNat 64 (chain.getD (2 * i) 0 + chain.getD (2 * i + 1) 0 * 2 ^ 32)) ++ List.replicate 4 0
  else (List.range 8).map fun i => BitVec.ofNat 64 (chain.getD i 0)

/-- The chaining value the words spell. -/
def wordsChain (alg : Nat) (l : List (BitVec 64)) : List Nat :=
  if alg = 0 then (l.take 4).flatMap fun w => [fld w 31 0, fld w 63 32] else l.map (·.toNat)

/-- The saved state of a context (Table 4): of one in IDLE, what its CTL starts. -/
def DgtCtx.saved (t : DgtCtx) (h : HSlot) : List (BitVec 64) :=
  let t := if t.state = 1 then t.begin h else t
  let w0 := BitVec.ofNat 64 (t.mAlg + b2n t.mHmac * 4 + (if t.mHmac then t.mSlot * 2 ^ 8 + t.mGen * 2 ^ 16 else 0))
  let l := [w0, BitVec.ofNat 64 t.count] ++ chainWords t.mAlg t.chain
  l ++ [BitVec.ofNat 64 (crc64 (l.flatMap fun w => leBytes 8 w.toNat))]

/-- Whether a written state is accepted (R393). -/
def State.stateFits (s : State) (owner : Nat) (l : List (BitVec 64)) : Bool :=
  let w (i : Nat) : BitVec 64 := l.getD i 0
  let alg := fld (w 0) 1 0
  let count := fld (w 1) 39 0
  let slot := fld (w 0) 12 8
  let h := s.dgt.hslots.get slot
  w 10 == BitVec.ofNat 64 (crc64 ((List.range 10).flatMap fun i => leBytes 8 (w i).toNat)) &&
    (w 0).toNat &&& 0xFFFFFFFFFF00E0F8 == 0 && fld (w 1) 63 40 == 0 && alg != 3 && count % shaBlock alg == 0 &&
    (!bit (w 0) 2 || s.hslotServes slot owner alg && h.gen == fld (w 0) 23 16)

/-- A restore of an IDLE context (R393). -/
def State.restoreCtx (s : State) (c : Nat) : State :=
  let t := s.ctx c
  let l := t.written
  if !s.stateFits t.owner l then s.ctxError c 4
  else
    let w0 := l.getD 0 0
    let alg := fld w0 1 0
    let n := fld (l.getD 1 0) 39 0
    s.onCtx c fun t => { t with
      state := if n = 0 then 1 else 2, alg := alg, hmac := bit w0 2, hslot := fld w0 12 8, mAlg := alg, mHmac := bit w0 2,
      mSlot := fld w0 12 8, mGen := fld w0 23 16, count := n, chain := wordsChain alg ((l.drop 2).take 8), buf := [], written := [] }

/-- A write of word `i` of DGT_STATE_c (R393): kept while the context is IDLE. -/
def State.putState (s : State) (c i : Nat) (v : BitVec 64) : State :=
  if (s.ctx c).state ≠ 1 then s.ignoredWrite (ctxAddr c + 0x180 + 8 * i)
  else s.onCtx c fun t => { t with written := setAt (t.written ++ List.replicate (11 - t.written.length) 0) i v }

/-- A read of word `i` of DGT_STATE_c: word 0 latches the saved state at a boundary (R392). -/
def State.readState (s : State) (c i : Nat) : BitVec 64 × State :=
  let t := s.ctx c
  if t.state = 0 ∨ !t.atBoundary then (0, s)
  else if i = 0 then
    let l := t.saved (s.dgt.hslots.get (if t.state = 1 then t.hslot else t.mSlot))
    (l.getD 0 0, s.onCtx c fun t => { t with latch := l })
  else (t.latch.getD i 0, s)

/-! ## DGT_CTX_CTL (R383, R386) -/

/-- The ERR code of a CTL write: another chamber may, with PRIV[5], only abort or release (R383). -/
def State.ctlErr (s : State) (a : Access) (c : Nat) (v : BitVec 32) : Nat :=
  let t := s.ctx c
  if t.state = 0 ∨ t.owner = privCh a then 0
  else if mgmt a ∧ (!bit v 16 ∨ bit v 18) then 0 else 3

/-- A held lower half of a DGT_STATE word of the context is discarded by its release or abort (R519). -/
def State.dropStateHalf (s : State) (c : Nat) : State :=
  { s with lanes := s.lanes.mapKeys fun _ l =>
      match l.held with
      | some (ad, _) => if ctxAddr c + 0x180 ≤ ad ∧ ad < ctxAddr c + 0x1D8 then { l with held := none } else l
      | none => l }

/-- A write of DGT_CTX_CTL_c. A reserved bit or algorithm: ignored whole (R514). -/
def State.ctxCtl (s : State) (a : Access) (c : Nat) (v : BitVec 32) : State :=
  let t := s.ctx c
  let set (t : DgtCtx) : DgtCtx := { t with alg := fld v 1 0, hmac := bit v 2, hslot := fld v 12 8 }
  if v &&& 0xFFF8E0F8 ≠ 0 ∨ fld v 1 0 = 3 then s.ignoredWrite (ctxAddr c)
  else if t.state = 0 then
    if bit v 16 then s.onCtx c fun _ => set { DgtCtx.zero with state := 1, owner := privCh a } else s
  else if !bit v 16 then (s.onCtx c fun _ => DgtCtx.zero).dropStateHalf c
  else if bit v 18 then
    let s := s.dropStateHalf c
    if mgmt a ∧ (t.state = 2 ∨ t.state = 3) then s.ctxError c 5
    else s.onCtx c fun t =>
      let u := { t with state := 1, error := 0, count := 0, buf := [], queued := [] }
      if t.state = 1 ∨ t.state = 4 then set u else u
  else if t.state = 1 then (if bit v 17 then s.restoreCtx c else s.onCtx c set)
  else if t.state = 4 then (if bit v 17 then s.ignoredWrite (ctxAddr c) else s.onCtx c set)
  else if t.state = 5 then s
  else s.ignoredWrite (ctxAddr c)

/-- A CTL write from FAB_S. -/
def State.ctlWrite (s : State) (a : Access) (c : Nat) (v : BitVec 32) : State :=
  if c < 32 ∨ 64 ≤ c then s.fabWrite a 0 false (ctxAddr c) (·.ignoredWrite (ctxAddr c))
  else s.dgtWindow a (s.ctlErr a c v) (ctxAddr c) fun s => s.ctxCtl a c v

/-- DGT_CONTEXT_CLAIM (R383): open = 1. -/
def execDgtContextClaim (a : Access) (c : Nat) (v : BitVec 32) (s : State) : Host.Outcome State Fault Refusal :=
  .next (s.ctlWrite a c (setBit (setBit (setBit v 16 true) 17 false) 18 false))

/-- DGT_CONTEXT_RELEASE (R383): open = 0. -/
def execDgtContextRelease (a : Access) (c : Nat) (v : BitVec 32) (s : State) : Host.Outcome State Fault Refusal :=
  .next (s.ctlWrite a c (setBit v 16 false))

/-- DGT_CONTEXT_ABORT (R386): abort, open kept. -/
def execDgtContextAbort (a : Access) (c : Nat) (v : BitVec 32) (s : State) : Host.Outcome State Fault Refusal :=
  .next (s.ctlWrite a c (setBit (setBit v 16 true) 18 true))

/-- DGT_CONTEXT_RESTORE (R393): restore, open kept. -/
def execDgtContextRestore (a : Access) (c : Nat) (v : BitVec 32) (s : State) : Host.Outcome State Fault Refusal :=
  .next (s.ctlWrite a c (setBit (setBit (setBit v 16 true) 17 true) 18 false))

end Sys2Proof.Machine
end

