-- ==== Sys2Proof/Machine/Fp.lean ====
section
/-! DEFINITION. Number formats and element programs: element types (R297, R298), FP32 arithmetic (R299), output rounding (R300, R301), random
words (R302), the instruction set (R303-R306), the FP64 sums of STEP_MEASURE (R313). -/

namespace Sys2Proof.Machine

/-! ## Formats -/

/-- A binary format: mantissa bits, exponent bias, pattern of the largest finite magnitude, total bits, the NaN cells write. -/
structure Fmt where
  mw   : Nat
  bias : Nat
  top  : Nat
  bits : Nat
  nan  : Nat
  deriving DecidableEq, Repr

/-- binary32. -/
def fp32 : Fmt := ⟨23, 127, 0x7F7FFFFF, 32, 0x7FC00000⟩

/-- binary64. -/
def fp64 : Fmt := ⟨52, 1023, 0x7FEFFFFFFFFFFFFF, 64, 0x7FF8000000000000⟩

/-- The element types by code (Table 16 of chapter 05, Table 2 of chapter 11). -/
def fmtOf (t : Nat) : Fmt :=
  match t with
  | 0 => ⟨7, 127, 0x7F7F, 16, 0x7FC0⟩
  | 1 => ⟨10, 15, 0x7BFF, 16, 0x7E00⟩
  | 2 => fp32
  | 3 => ⟨3, 7, 0x7E, 8, 0x7F⟩
  | _ => ⟨2, 15, 0x7B, 8, 0x7E⟩

/-- A number: NaN, an infinity, or (-1)^neg * m * 2^e. -/
inductive Fl where
  | nan
  | inf (neg : Bool)
  | fin (neg : Bool) (m : Nat) (e : Int)
  deriving DecidableEq, Repr

/-- The number of a pattern (R298). Above the largest finite magnitude lies the infinity, where the format has one, then NaN. -/
def unpack (f : Fmt) (v : Nat) : Fl :=
  let mag := v % 2 ^ (f.bits - 1)
  let neg := decide (v / 2 ^ (f.bits - 1) % 2 = 1)
  if mag > f.top then (if mag = f.top + 1 ∧ f.top % 2 ^ f.mw = 2 ^ f.mw - 1 then .inf neg else .nan)
  else
    let x := mag / 2 ^ f.mw
    if x = 0 then .fin neg mag (1 - f.bias - f.mw) else .fin neg (mag % 2 ^ f.mw + 2 ^ f.mw) ((x : Int) - f.bias - f.mw)

/-- A sign above a magnitude. -/
def signed (f : Fmt) (neg : Bool) (mag : Nat) : Nat := b2n neg * 2 ^ (f.bits - 1) + mag

/-- Exponent of the spacing of a format at m * 2^e (R301). -/
def spacing (f : Fmt) (m : Nat) (e : Int) : Int := max ((m.log2 : Int) + e - f.mw) (1 - (f.bias : Int) - f.mw)

/-- The magnitude pattern of m * 2^e, m not 0: rounded to nearest even, or by the random word `u` (R300, R301). May exceed the top. -/
def roundMag (f : Fmt) (m : Nat) (e : Int) (u : Option (BitVec 32)) : Nat :=
  let q := spacing f m e
  let base := (q - (1 - (f.bias : Int) - f.mw)).toNat * 2 ^ f.mw
  if q ≤ e then base + m * 2 ^ (e - q).toNat
  else
    let d := (q - e).toNat
    let n := m / 2 ^ d
    let r := m % 2 ^ d
    let up := match u with
      | some w => decide (w.toNat < r * 2 ^ 32 / 2 ^ d)
      | none => decide (2 ^ d < 2 * r) || decide (2 * r = 2 ^ d) && decide (n % 2 = 1)
    base + n + b2n up

/-- A number in a format, nearest even. -/
def pack (f : Fmt) : Fl → Nat
  | .nan => f.nan
  | .inf n => signed f n (f.top + 1)
  | .fin n m e => if m = 0 then signed f n 0 else signed f n (min (roundMag f m e none) (f.top + 1))

/-- An output write (R300): mode 0 nearest, 1 stochastic, 2 saturating nearest, 3 saturating stochastic. -/
def packOut (f : Fmt) (rm : Nat) (u : BitVec 32) : Fl → Nat
  | .nan => f.nan
  | .inf n => signed f n (if rm ≥ 2 then f.top else f.top + 1)
  | .fin n m e =>
    if m = 0 then signed f n 0
    else
      let g := roundMag f m e (if rm % 2 = 1 then some u else none)
      signed f n (if g > f.top then (if rm ≥ 2 then f.top else f.top + 1) else g)

/-- Whether a pattern is finite. -/
def finiteBits (f : Fmt) (v : Nat) : Bool := decide (v % 2 ^ (f.bits - 1) ≤ f.top)

/-! ## Exact arithmetic, rounded once (R299) -/

/-- The sum of two finite numbers; an exact zero of unlike signs is +0. -/
def addFin (n1 : Bool) (m1 : Nat) (e1 : Int) (n2 : Bool) (m2 : Nat) (e2 : Int) : Fl :=
  let e := min e1 e2
  let a : Int := (m1 * 2 ^ (e1 - e).toNat : Nat)
  let b : Int := (m2 * 2 ^ (e2 - e).toNat : Nat)
  let v := (if n1 then -a else a) + (if n2 then -b else b)
  if v = 0 then .fin (n1 && n2) 0 0 else .fin (decide (v < 0)) v.natAbs e

/-- Sum. -/
def flAdd : Fl → Fl → Fl
  | .nan, _ => .nan
  | _, .nan => .nan
  | .inf a, .inf b => if a = b then .inf a else .nan
  | .inf a, _ => .inf a
  | _, .inf b => .inf b
  | .fin n1 m1 e1, .fin n2 m2 e2 => addFin n1 m1 e1 n2 m2 e2

/-- Product. -/
def flMul : Fl → Fl → Fl
  | .nan, _ => .nan
  | _, .nan => .nan
  | .inf a, .inf b => .inf (a != b)
  | .inf a, .fin n m _ => if m = 0 then .nan else .inf (a != n)
  | .fin n m _, .inf b => if m = 0 then .nan else .inf (n != b)
  | .fin n1 m1 e1, .fin n2 m2 e2 => .fin (n1 != n2) (m1 * m2) (e1 + e2)

/-- Sign inverted. -/
def flNeg : Fl → Fl
  | .nan => .nan
  | .inf n => .inf (!n)
  | .fin n m e => .fin (!n) m e

/-- Quotient: 80 quotient bits and a sticky bit. -/
def flDiv : Fl → Fl → Fl
  | .nan, _ => .nan
  | _, .nan => .nan
  | .inf _, .inf _ => .nan
  | .inf a, .fin n _ _ => .inf (a != n)
  | .fin n _ _, .inf b => .fin (n != b) 0 0
  | .fin n1 m1 e1, .fin n2 m2 e2 =>
    if m2 = 0 then (if m1 = 0 then .nan else .inf (n1 != n2))
    else if m1 = 0 then .fin (n1 != n2) 0 0
    else
      let a := m1 * 2 ^ 128
      .fin (n1 != n2) (a / m2 * 2 + b2n (a % m2 != 0)) (e1 - e2 - 129)

/-- The integer square root, bit by bit from bit `k`. -/
def isqrt (n : Nat) : Nat → Nat → Nat
  | 0, r => r
  | k + 1, r => isqrt n k (if (r + 2 ^ k) * (r + 2 ^ k) ≤ n then r + 2 ^ k else r)

/-- Square root, with a sticky bit. -/
def flSqrt : Fl → Fl
  | .nan => .nan
  | .inf n => if n then .nan else .inf false
  | .fin n m e =>
    if m = 0 then .fin n 0 0
    else if n then .nan
    else
      let k := (e % 2).toNat
      let a := m * 2 ^ (128 + k)
      let r := isqrt a (a.log2 / 2 + 1) 0
      .fin false (r * 2 + b2n (r * r != a)) ((e - k - 128) / 2 - 1)

/-- a < b, and a = b: false with a NaN. -/
def flCmp : Fl → Fl → Option Ordering
  | .nan, _ => none
  | _, .nan => none
  | a, b =>
    let v : Fl → Int × Int := fun x => match x with
      | .inf n => (if n then -1 else 1, 0)
      | _ => (0, 0)
    if (v a).1 ≠ (v b).1 then some (compare (v a).1 (v b).1)
    else match a, b with
      | .fin n1 m1 e1, .fin n2 m2 e2 =>
        let e := min e1 e2
        let x : Int := (m1 * 2 ^ (e1 - e).toNat : Nat)
        let y : Int := (m2 * 2 ^ (e2 - e).toNat : Nat)
        some (compare (if n1 then -x else x) (if n2 then -y else y))
      | _, _ => some .eq

/-- Whether a is not above b, with -0 below +0 (MIN and MAX). -/
def flBelow (a b : Fl) : Bool :=
  match flCmp a b with
  | some .lt => true
  | some .eq => match a, b with
    | .fin n1 _ _, .fin n2 _ _ => n1 || !n2
    | _, _ => true
  | _ => false

/-! ## FP32 registers -/

/-- A pattern as a number. -/
def num (v : BitVec 32) : Fl := unpack fp32 v.toNat
/-- A number as a pattern. -/
def re (x : Fl) : BitVec 32 := BitVec.ofNat 32 (pack fp32 x)
/-- 1.0 or 0.0. -/
def flBool (b : Bool) : BitVec 32 := if b then 0x3F800000 else 0
/-- Whether a pattern is NaN, is finite. -/
def isNan (v : BitVec 32) : Bool := num v == .nan
def isFin (v : BitVec 32) : Bool := finiteBits fp32 v.toNat

/-- The smaller, and the larger, of two (R299). -/
def f32Min (a b : BitVec 32) : BitVec 32 := if isNan a || isNan b then 0x7FC00000 else if flBelow (num a) (num b) then a else b
def f32Max (a b : BitVec 32) : BitVec 32 := if isNan a || isNan b then 0x7FC00000 else if flBelow (num a) (num b) then b else a

/-- An input element in FP32, every NaN as 0x7FC0_0000 (R298). -/
def convertIn (t v : Nat) : BitVec 32 := re (unpack (fmtOf t) v)

/-- A power of two 2^e. -/
def pow2 (e : Int) : Fl := .fin false 1 e

/-! ## Programs -/

/-- The beats, level, and use of d, a, b, c of an operation (Table 5 of chapter 11); b of RAND is its immediate. -/
def opForm (op : Nat) : Option (Nat × Bool × Bool × Bool × Bool) :=
  match op with
  | 0x00 => some (1, false, false, false, false)
  | 0x01 => some (1, true, true, false, false)
  | 0x02 => some (1, true, true, true, false) | 0x03 => some (1, true, true, true, false) | 0x04 => some (1, true, true, true, false)
  | 0x05 => some (1, true, true, true, true) | 0x06 => some (1, true, true, true, true)
  | 0x07 => some (1, true, true, true, false) | 0x08 => some (1, true, true, true, false)
  | 0x09 => some (1, true, true, false, false) | 0x0A => some (1, true, true, false, false) | 0x0B => some (1, true, true, false, false)
  | 0x0C => some (1, true, true, false, false) | 0x0D => some (1, true, true, true, false) | 0x0E => some (1, true, true, false, false)
  | 0x10 => some (1, true, true, true, false) | 0x11 => some (1, true, true, true, false) | 0x12 => some (1, true, true, true, false)
  | 0x13 => some (1, true, true, false, false) | 0x14 => some (1, true, true, true, true)
  | 0x20 => some (2, true, false, true, false) | 0x21 => some (2, true, true, true, true)
  | _ => none

/-- Fields of a word (Table 4 of chapter 11). -/
def wOp (w : BitVec 32) : Nat := fld w 31 26
def wRm (w : BitVec 32) : Nat := fld w 25 24
def wD (w : BitVec 32) : Nat := fld w 23 18
def wA (w : BitVec 32) : Nat := fld w 17 12
def wB (w : BitVec 32) : Nat := fld w 11 6
def wC (w : BitVec 32) : Nat := fld w 5 0

/-- Whether a code may be a source, a destination, is an output (Table 3 of chapter 11). -/
def srcOk (c : Nat) : Bool := decide (c < 0x18) || decide (0x1C ≤ c ∧ c ≤ 0x35)
def isOut (c : Nat) : Bool := decide (0x18 ≤ c ∧ c ≤ 0x1B)
def dstOk (c : Nat) : Bool := decide (c < 0x10) || isOut c

/-- Whether a word is well formed at a level, given the outputs written before it (R306). -/
def wordOk (level : Nat) (before : List Nat) (w : BitVec 32) : Bool :=
  match opForm (wOp w) with
  | none => false
  | some (l, d, a, b, c) =>
    decide (l ≤ level) && (decide (level = 2) || decide (wRm w % 2 = 0)) &&
      (if d then dstOk (wD w) else decide (wD w = 0)) && (if a then srcOk (wA w) else decide (wA w = 0)) &&
      (if b then decide (wOp w = 0x20) || srcOk (wB w) else decide (wB w = 0)) && (if c then srcOk (wC w) else decide (wC w = 0)) &&
      (decide (wRm w = 0) || d && isOut (wD w)) && !(d && isOut (wD w) && before.contains (wD w))

/-- The outputs a program writes, as codes. -/
def outsOf (p : List (BitVec 32)) : List Nat := p.filterMap fun w => if wOp w ≠ 0 ∧ isOut (wD w) then some (wD w) else none

/-- The byte of the first bad word of a program; past the end where nothing is written (R306). -/
def programBad (level : Nat) (p : List (BitVec 32)) : Option Nat :=
  match (List.range p.length).find? fun i => !wordOk level (outsOf (p.take i)) (p.getD i 0) with
  | some i => some (4 * i)
  | none => if outsOf p = [] then some (4 * p.length) else none

/-- The inputs a program reads, as slots. -/
def insOf (p : List (BitVec 32)) : List Nat :=
  p.flatMap fun w => match opForm (wOp w) with
    | none => []
    | some (_, _, a, b, c) =>
      ((if a then [wA w] else []) ++ (if b ∧ wOp w ≠ 0x20 then [wB w] else []) ++ (if c then [wC w] else [])).filterMap fun k =>
        if 0x10 ≤ k ∧ k ≤ 0x17 then some (k - 0x10) else none

/-- Whether a program draws random words: a stochastic write or RAND (R311). -/
def drawsOf (p : List (BitVec 32)) : Bool := p.any fun w => wOp w == 0x20 || wOp w != 0 && wRm w % 2 == 1

/-- What an element's run is given: inputs, constants K0-K21, INVS, CLIP, seed, step, tensor, logical index, output types. -/
structure Env where
  inp  : List (BitVec 32)
  k    : List (BitVec 32)
  invs : BitVec 32
  clip : BitVec 32
  seed : BitVec 64
  step : BitVec 48
  tensor : BitVec 32
  g    : Nat
  out  : List Nat

/-- Word `j` of draw `d` (R302). -/
def Env.rnd (v : Env) (d j : Nat) : BitVec 32 :=
  (philox (BitVec.ofNat 32 v.g, BitVec.ofNat 32 (v.g / 2 ^ 32 % 65536 + d * 65536), v.tensor, BitVec.ofNat 32 v.step.toNat)
    (BitVec.ofNat 32 v.seed.toNat, BitVec.ofNat 32 (v.seed.toNat / 2 ^ 32) ^^^ BitVec.ofNat 32 (v.step.toNat / 2 ^ 32))).getD j 0

/-- A source operand. -/
def Env.src (v : Env) (r : List (BitVec 32)) (c : Nat) : BitVec 32 :=
  if c < 0x10 then r.getD c 0
  else if c < 0x18 then v.inp.getD (c - 0x10) 0
  else match c with
    | 0x1D => 0x3F800000
    | 0x1E => v.invs
    | 0x1F => v.clip
    | _ => if 0x20 ≤ c then v.k.getD (c - 0x20) 0 else 0

/-- The result of an operation. -/
def Env.result (v : Env) (w : BitVec 32) (a b c : BitVec 32) : BitVec 32 :=
  match wOp w with
  | 0x01 => a
  | 0x02 => re (flAdd (num a) (num b))
  | 0x03 => re (flAdd (num a) (flNeg (num b)))
  | 0x04 => re (flMul (num a) (num b))
  | 0x05 => re (flAdd (flMul (num a) (num b)) (num c))
  | 0x06 => re (flAdd (num c) (flMul (flNeg (num a)) (num b)))
  | 0x07 => f32Min a b
  | 0x08 => f32Max a b
  | 0x09 => a &&& 0x7FFFFFFF
  | 0x0A => a ^^^ 0x80000000
  | 0x0B => re (flDiv (num 0x3F800000) (num a))
  | 0x0C => re (flSqrt (num a))
  | 0x0D => re (flDiv (num a) (num b))
  | 0x0E => re (flDiv (num 0x3F800000) (num (re (flSqrt (num a)))))
  | 0x10 => flBool (flCmp (num a) (num b) == some .lt)
  | 0x11 => flBool (flCmp (num a) (num b) == some .lt || flCmp (num a) (num b) == some .eq)
  | 0x12 => flBool (flCmp (num a) (num b) == some .eq)
  | 0x13 => flBool (isFin a)
  | 0x14 => if a &&& 0x7FFFFFFF = 0 then c else b
  | 0x20 => re (.fin false ((v.rnd (1 + wB w / 4) (wB w % 4)).toNat / 256) (-24))
  | 0x21 => f32Min (f32Max a b) c
  | _ => 0

/-- Run a program's words on an element: registers and output patterns. -/
def Env.run (v : Env) : List (BitVec 32) → List (BitVec 32) → List (Option Nat) → List (Option Nat)
  | [], _, o => o
  | w :: p, r, o =>
    if wOp w = 0 then v.run p r o
    else
      let x := v.result w (v.src r (wA w)) (v.src r (wB w)) (v.src r (wC w))
      if isOut (wD w) then
        let j := wD w - 0x18
        v.run p r (o.set j (some (packOut (fmtOf (v.out.getD j 2)) (wRm w) (v.rnd 0 j) (num x))))
      else v.run p (r.set (wD w) x) o

/-- The outputs of a program on one element. -/
def Env.outputs (v : Env) (p : List (BitVec 32)) : List (Option Nat) := v.run p (List.replicate 16 0) [none, none, none, none]

/-! ## The sums of STEP_MEASURE (R313) -/

/-- An FP64 sum. -/
def add64 (a b : Nat) : Nat := pack fp64 (flAdd (unpack fp64 a) (unpack fp64 b))

/-- Add neighbours pairwise, `n` times. -/
def pairSum : Nat → List Nat → Nat
  | 0, l => l.headD 0
  | n + 1, l => pairSum n ((List.range (l.length / 2)).map fun i => add64 (l.getD (2 * i) 0) (l.getD (2 * i + 1) 0))

/-- The sum of x * x over a block's finite gradients, x = g * 2^-s: lanes in order, then pairwise. -/
def blockSquares (t : Nat) (s : Int) (vals : List Nat) : Nat :=
  let sq (v : Nat) : Nat := match unpack (fmtOf t) v with
    | .fin _ m e => pack fp64 (.fin false (m * m) (2 * (e - s)))
    | _ => 0
  let lanes := (List.range 64).map fun l =>
    (List.range (ceilDiv (vals.length - l) 64)).foldl (fun a i => match vals[l + 64 * i]? with
      | some v => add64 a (sq v)
      | none => a) 0
  pairSum 6 lanes

end Sys2Proof.Machine
end

