-- ==== Sys2Proof/Machine/Restore.lean ====
section
/-! DEFINITION. Restore, verification and re-slicing (chapter 09): the object set, the plan, leaves, RESTORE, RESTORE_SLICE, VERIFY, MANIFEST_READ. -/

namespace Sys2Proof.Machine

/-! ## Coordinates -/

/-- The tile extent of a dimension (R142). -/
def tileOf (c : Coord) (d : Nat) : Nat := ((c.tiles.find? fun p => p.1 == d).map (·.2)).getD (c.sizes.getD d 1)

/-- The position of a global index in a slice's layout order (R245). -/
def posIn (c : Coord) (x : List Nat) : Nat :=
  let r := (List.range c.rank).foldl (fun (a : Nat × Nat × Nat) d =>
    let t := max (tileOf c d) 1
    let rel := x.getD d 0 - c.starts.getD d 0
    (a.1 * (c.sizes.getD d 0 / t) + rel / t, a.2.1 * t + rel % t, a.2.2 * t)) (0, 0, 1)
  r.1 * r.2.2 + r.2.1

/-- The logical index of a global index: row-major over the global extents (R302). -/
def globalIx (c : Coord) (x : List Nat) : Nat :=
  (List.range c.rank).foldl (fun n d => n * c.extents.getD d 1 + x.getD d 0) 0

/-- The index vectors of a box, in row-major order. -/
def boxRows : List (Nat × Nat) → List (List Nat)
  | [] => [[]]
  | (s, n) :: r => (List.range n).flatMap fun i => (boxRows r).map fun v => (s + i) :: v

/-- The box of a slice over its first `n` dimensions. -/
def boxOf (c : Coord) (n : Nat) : List (Nat × Nat) := (List.range n).map fun d => (c.starts.getD d 0, c.sizes.getD d 0)

/-- Whether a slice holds a row, by the dimensions before the last. -/
def holdsRow (c : Coord) (y : List Nat) : Bool :=
  (List.range (c.rank - 1)).all fun d => decide (c.starts.getD d 0 ≤ y.getD d 0 ∧ y.getD d 0 < c.starts.getD d 0 + c.sizes.getD d 0)

/-- Whether a slice holds element `a` of a row. -/
def holdsAt (c : Coord) (y : List Nat) (a : Nat) : Bool :=
  let last := c.rank - 1
  holdsRow c y && decide (c.starts.getD last 0 ≤ a ∧ a < c.starts.getD last 0 + c.sizes.getD last 0)

/-! ## The object set (R238, R240) -/

/-- The keys of a chamber's two slots. -/
def State.chKeys (s : State) (ch : Nat) : List (BitVec 256) :=
  [(s.ch ch).keyActive, (s.ch ch).keySecond].filterMap fun i => if (s.keys.get i).state = 2 then some (s.keys.get i).key else none

/-- The key whose check value matches (R193). -/
def State.keyFor (s : State) (ch : Nat) (kcv : BitVec 64) : Option (BitVec 256) := (s.chKeys ch).find? fun k => kcvOf k == kcv

/-- Whether a candidate stays in the set of `o`. -/
def sameState (o p : StoredObj) : Bool :=
  p.ssf == o.ssf && p.stepCount == o.stepCount && p.stepState == o.stepState && p.midstep == o.midstep

/-- Insert an object in ascending ID order. -/
def insertObj (o : StoredObj) : List StoredObj → List StoredObj
  | [] => [o]
  | p :: r => if o.id.toNat < p.id.toNat then o :: p :: r else p :: insertObj o r

/-- The set of `o`: `o` first, the others by ascending ID (R244); the candidates left out are logged. -/
def State.objectSet (s : State) (ch : Nat) (o : StoredObj) : List StoredObj × State :=
  let l := (s.candidates o.id).filter fun p => p.id != o.id
  let out := l.filter fun p => !sameState o p
  let s := out.foldl (fun s p => s.log eExcluded 1 0 0 (some ch) (leBytes 8 p.id.toNat ++ leBytes 8 o.id.toNat)) s
  (o :: (l.filter (sameState o)).foldl (fun a p => insertObj p a) [], s)

/-! ## The plan (R242-R245) -/

/-- A source: the object's position in the set, the shard's position, the shard. -/
structure Src where
  obj   : Nat
  shard : Nat
  sh    : Shard

/-- A run (R245): source, leaf, offset; destination granule of the member, offset; elements. -/
structure Run where
  src  : Nat
  leaf : Nat
  off  : Nat
  gran : Nat
  doff : Nat
  len  : Nat

/-- The compatible sources of a destination, in priority order (R243, R244). -/
def sourcesOf (set : List StoredObj) (tensor : BitVec 32) (c : Coord) : List Src :=
  (List.range set.length).flatMap fun i => match set[i]? with
    | none => []
    | some o => (List.range o.shards.length).filterMap fun j => match o.shards[j]? with
      | some h => if h.tensorId = tensor ∧ h.coord.elemType = c.elemType ∧ h.coord.rank = c.rank ∧ h.coord.extents = c.extents then
          some ⟨i, j, h⟩ else none
      | none => none

/-- Add a run, joined to the one before where both sides continue. Runs are kept newest first. -/
def addRun (r : Run) : List Run → List Run
  | [] => [r]
  | p :: rest =>
    if p.src = r.src ∧ p.leaf = r.leaf ∧ p.gran = r.gran ∧ p.off + p.len = r.off ∧ p.doff + p.len = r.doff then
      { p with len := p.len + r.len } :: rest
    else r :: p :: rest

/-- emit_runs (R245). -/
def emitRuns (c d : Coord) (src : Nat) (y : List Nat) : Nat → Nat → Nat → List Run → List Run
  | 0, _, _, acc => acc
  | k + 1, a, b, acc =>
    if b ≤ a then acc
    else
      let last := c.rank - 1
      let e := perGranule c.elemType
      let p := posIn c (y ++ [a])
      let q := posIn d (y ++ [a])
      let edge (m : Coord) : Nat := let t := max (tileOf m last) 1; t - (a - m.starts.getD last 0) % t
      let n := min (min (b - a) (min (edge c) (edge d))) (min (e - p % e) (e - q % e))
      emitRuns c d src y k (a + n) b (addRun ⟨src, p / e, p % e, q / e, q % e, n⟩ acc)

/-- The inner loop of plan for one row: the runs, or the granule of the first uncovered element. -/
def planRow (d : Coord) (srcs : List Src) (y : List Nat) : Nat → Nat → Nat → List Run → Except Nat (List Run)
  | 0, _, _, acc => .ok acc
  | k + 1, a, stop, acc =>
    if stop ≤ a then .ok acc
    else match (List.range srcs.length).find? fun i => match srcs[i]? with | some t => holdsAt t.sh.coord y a | none => false with
      | none => .error (posIn d (y ++ [a]) / perGranule d.elemType)
      | some i => match srcs[i]? with
        | none => .ok acc
        | some t =>
          let last := d.rank - 1
          let b := min stop (t.sh.coord.starts.getD last 0 + t.sh.coord.sizes.getD last 0)
          let b := (srcs.take i).foldl (fun b u =>
            let v := u.sh.coord.starts.getD last 0
            if holdsRow u.sh.coord y ∧ a < v ∧ v < b then v else b) b
          planRow d srcs y k b stop (emitRuns t.sh.coord d i y (b - a) a b acc)

/-- The plan of one destination member, in the order emitted. -/
def planMember (d : Coord) (srcs : List Src) : Except Nat (List Run) :=
  let last := d.rank - 1
  let a := d.starts.getD last 0
  let n := d.sizes.getD last 0
  ((boxRows (boxOf d last)).foldl (fun (acc : Except Nat (List Run)) y => match acc with
    | .error g => .error g
    | .ok l => planRow d srcs y n a (a + n) l) (.ok [])).map List.reverse

/-! ## Leaves (R248, R251) -/

/-- Where a leaf's data lies: the storing object, the tensor and leaf of its AAD, the record with its IV, tag and key, its place, the digest
to compare. -/
structure LeafAt where
  obj    : StoredObj
  tensor : BitVec 32
  leaf   : Nat
  rec_   : IndexRec
  block  : List Byte
  beats  : List Nat
  digest : BitVec 256

/-- The block a shard stores for a leaf. -/
def Shard.block (h : Shard) (k : Nat) : Option (List Byte) := (h.places.find? fun p => p.1 == k).map (·.2.2)

/-- The poisoned beats of a leaf. -/
def Shard.beats (h : Shard) (k : Nat) : List Nat := ((h.poison.find? fun p => p.1 == k).map (·.2)).getD []

/-- The data of kind 0 leaf `k` of a shard, compared with digest `d`. -/
def leafOwn (o : StoredObj) (h : Shard) (k : Nat) (q : IndexRec) (d : BitVec 256) : Option LeafAt :=
  (Shard.block h k).map fun b => ⟨o, h.tensorId, k, q, b, if q.poisoned then Shard.beats h k else [], d⟩

/-- The stores mounted, as media. -/
def State.mountedAll (s : State) : List Media := s.sto.mount.entries.filterMap fun p => s.mounted p.1

/-- Where leaf `k` of a shard of an object lies (R251); none where its place cannot be found. -/
def State.leafAt (s : State) (set : List StoredObj) (o : StoredObj) (h : Shard) (k : Nat) : Option LeafAt :=
  match Sys2Proof.Shard.record h k with
  | none => none
  | some q =>
    if q.kind = 0 then leafOwn o h k q q.digest
    else if q.kind = 3 then
      match set.findSome? fun u => (u.shards.find? fun t =>
        t.tensorId == h.tensorId && t.coord == h.coord && t.repGroup == h.repGroup && t.repIndex == q.replica).map fun t => (u, t) with
      | none => none
      | some (u, t) => match Sys2Proof.Shard.record t k with
        | some q => if q.kind = 0 then leafOwn u t k q q.digest else none
        | none => none
    else
      match s.mountedAll.findSome? fun m => Sys2Proof.Media.held m q.refObj with
      | none => none
      | some u => match u.shards[q.refShard]? with
        | none => none
        | some t => (Shard.block t q.refLeaf).map fun b =>
            ⟨u, q.refTensor, q.refLeaf, q, b, if q.poisoned then Shard.beats t q.refLeaf else [], q.digest⟩

/-- What a leaf yields: its element bytes, or the status and whether its place had been read. `ext` is the storage answer to it. -/
def State.leafLoad (s : State) (ch : Nat) (c : Coord) (k : Nat) (l : LeafAt) (ext : Option (BitVec 16)) : Except (BitVec 16 × Bool) (List Byte) :=
  if !recOk l.rec_ then .error (sManifestMismatch, false)
  else match ext with
  | some st => .error (st, false)
  | none =>
    let plain : Except (BitVec 16 × Bool) (List Byte) :=
      if l.obj.sealed then match s.keyFor ch l.rec_.kcv with
        | none => .error (sKeyEmpty, true)
        | some key => match gcmOpen (keyBytes key) (leBytes 12 l.rec_.iv.toNat)
            (aadOf l.obj.id l.tensor l.leaf l.rec_.codec c.elemType l.rec_.n 1) l.block (leBytes 16 l.rec_.tag.toNat) with
          | some p => .ok p
          | none => .error (sAuthFailed, true)
      else .ok l.block
    match plain with
    | .error e => .error e
    | .ok p => match flowDecode c.elemType l.rec_.codec l.rec_.n p with
      | none => .error (sFlowDamaged, true)
      | some d => if contentDigest c k d = l.digest then .ok d else .error (sManifestMismatch, true)

/-- Counts of the frame engine for a failed leaf (R190, R201): a sector that failed twice, a block the expander refused. -/
def State.countFault (s : State) (st : BitVec 16) : State :=
  if st = sCheckMismatch then { s with ciph := { s.ciph with crcMis := satAdd 16 s.ciph.crcMis 2 } }
  else if st = sFlowDamaged then { s with ciph := { s.ciph with flowBad := satAdd 16 s.ciph.flowBad 1 } }
  else s

/-! ## Restore -/

/-- One destination member with its plan: region ID, region, member, sources, runs. -/
structure Dest where
  rid  : Nat
  reg  : Region
  mem  : Nat
  srcs : List Src
  runs : List Run

/-- The key that names a source leaf. -/
def Dest.key (d : Dest) (r : Run) : Nat × Nat × Nat := match d.srcs[r.src]? with | some t => (t.obj, t.shard, r.leaf) | none => (0, 0, r.leaf)

/-- The granule a run reaches. -/
def Dest.granOf (d : Dest) (r : Run) : Nat := d.reg.leafGranule d.mem r.gran

/-- Word 4 of a failure: the region, and the granule counted across members (R257). -/
def Dest.word (d : Dest) (gran : Nat) : BitVec 64 := BitVec.ofNat 64 (d.rid + (d.mem * (d.reg.coord.stride / 65536) + gran) * 65536)

/-- Build the plans of the destinations, or the word of the first uncovered element (R243, R251). -/
def State.plans (s : State) (set : List StoredObj) (ds : List (Nat × Region × Nat × BitVec 32)) : Except (BitVec 64) (List Dest) :=
  ds.foldl (fun acc q => match acc with
    | .error w => .error w
    | .ok l =>
      let srcs := sourcesOf set q.2.2.2 q.2.1.coord
      let base : Dest := ⟨q.1, q.2.1, q.2.2.1, srcs, []⟩
      match planMember q.2.1.coord srcs with
      | .error g => .error (base.word g)
      | .ok runs =>
        let d := { base with runs := runs }
        match runs.find? fun r => match srcs[r.src]? with
          | some t => match set[t.obj]? with
            | some o => (s.leafAt set o t.sh r.leaf).isNone
            | none => true
          | none => true with
        | some r => .error (d.word r.gran)
        | none => .ok (l ++ [d])) (.ok [])

/-- The source leaves of a plan, in order of first use, with the first run each feeds. -/
def planLeaves (ds : List Dest) : List ((Nat × Nat × Nat) × Dest × Run) :=
  (ds.flatMap fun d => d.runs.map fun r => (d.key r, d, r)).foldl (fun acc q => if acc.any fun p => p.1 == q.1 then acc else acc ++ [q]) []

/-- The outcome of the leaves of a plan in order: the data of those that passed, and the first failure. The storage fault, if any, meets
leaf `k`. -/
def State.loadLeaves (s : State) (ch : Nat) (set : List StoredObj) (ext : Option (BitVec 16)) (wr : Bool) (k : Nat) :
    Nat → List ((Nat × Nat × Nat) × Dest × Run) → List ((Nat × Nat × Nat) × List Byte × List Nat × Nat) →
    List ((Nat × Nat × Nat) × List Byte × List Nat × Nat) × Option (BitVec 16 × BitVec 64 × Nat)
  | _, [], acc => (acc, none)
  | i, (key, d, r) :: rest, acc =>
    match (set[key.1]?).bind fun o => (o.shards[key.2.1]?).bind fun h => (s.leafAt set o h key.2.2).map fun l => (h, l) with
    | none => (acc, some (sManifestMismatch, d.word r.gran, 0))
    | some (h, l) => match s.leafLoad ch h.coord key.2.2 l (if i = k then ext else none) with
      | .error (st, read) => (acc, some (st, d.word r.gran, if read then l.rec_.n else 0))
      | .ok data =>
        if wr && i == k then (acc, some (sMalformed, d.word r.gran, l.rec_.n))
        else s.loadLeaves ch set ext wr k (i + 1) rest (acc ++ [(key, data, l.beats, l.rec_.n)])

/-- A sector that failed its check and passed at the re-read counts once (R201). -/
def State.rechecked (s : State) (e : Ext) : State :=
  if e.nvme = .recheck then { s with ciph := { s.ciph with crcMis := satAdd 16 s.ciph.crcMis 1 } } else s

/-- Write one run of a leaf's data. -/
def State.writeRun (s : State) (d : Dest) (r : Run) (data : List Byte) : State :=
  let z := elemSize d.reg.coord.elemType
  s.kWrite (d.granOf r) (r.doff * z) (bytesAt data (r.off * z) (r.len * z))

/-- Mark the destination beats that a run's flagged source beats reach (R250). -/
def State.flagRun (s : State) (d : Dest) (r : Run) (beats : List Nat) : State :=
  let z := elemSize d.reg.coord.elemType
  (List.range r.len).foldl (fun s i =>
    if beats.contains ((r.off + i) * z / 128) then
      { s with mem := s.mem.mark (s.granAddr (d.granOf r) + (r.doff + i) * z) z true }
    else s) s

/-- Carry out a plan (R247-R250, R257): every run of a leaf that passed; the granules some run of which did not are undefined. -/
def State.restorePlan (s : State) (x : Sub) (e : Ext) (o : StoredObj) (set : List StoredObj) (ds : List Dest) : Res :=
  let (f, s) := s.freeNat
  let leaves := planLeaves ds
  let s := if leaves.isEmpty then s else s.rechecked e
  let ext := loadFault e
  let (got, bad) := s.loadLeaves x.chamber set ext e.writeErr (f % max leaves.length 1) 0 leaves []
  let runs := ds.flatMap fun d => d.runs.map fun r => (d, r)
  let data (d : Dest) (r : Run) : Option (List Byte × List Nat) :=
    (got.find? fun p => p.1 == d.key r).map fun p => (p.2.1, p.2.2.1)
  let grans := (runs.map fun p => p.1.granOf p.2).eraseDups
  let valid := grans.filter fun g => runs.all fun p => p.1.granOf p.2 != g || (data p.1 p.2).isSome
  let s := runs.foldl (fun s p => if valid.contains (p.1.granOf p.2) then
    (match data p.1 p.2 with | some q => s.writeRun p.1 p.2 q.1 | none => s) else s) s
  let s := runs.foldl (fun s p => if valid.contains (p.1.granOf p.2) then
    (match data p.1 p.2 with | some q => s.flagRun p.1 p.2 q.2 | none => s) else s) s
  let words (w : BitVec 64) (extra : Nat) : List (BitVec 64) :=
    [o.id, BitVec.ofNat 64 grans.length, BitVec.ofNat 64 got.length, BitVec.ofNat 64 ((got.map fun p => p.2.2.2).sum + extra), w, 0, 0]
  match bad with
  | some (st, w, n) =>
    let s := (grans.filter fun g => !valid.contains g).foldl State.kUndef s
    ended (s.countFault st) st (BitVec.ofNat 64 valid.length) valid.length (words w n)
  | none =>
    let deg := s.fewCores || (runs.any fun p => match s.place (p.1.granOf p.2) with | some (st, _) => s.thin st | none => false)
    ended s (if deg then sDegraded else sOk) (BitVec.ofNat 64 valid.length) valid.length (words 0 0)

/-- Release a finished step's copies and return the step to IDLE (R254, R435). -/
def State.endApplied (s : State) (ch : Nat) : State :=
  if (s.un ch).step.phase = .applied then (s.freeStepCopies ch).onStep ch fun t => { t with phase := .idle } else s

/-- What refuses a restore before any effect (R225, R241, R254, R477). -/
def State.restoreRefuse (s : State) (x : Sub) (store : Nat) (refuseMid : Bool) : Except (BitVec 16 × Nat) StoredObj :=
  let p := (s.un x.chamber).step.phase
  match s.mounted store with
  | none => .error (sNotInState, 0)
  | some m =>
    if objStore x.a ≠ store then .error (sInvalidField, 16)
    else match Sys2Proof.Media.live m x.a with
    | none => .error (sInvalidField, 16)
    | some o =>
      if p = .begun ∨ p = .measured ∨ p = .normed then .error (sNotInState, 0)
      else if refuseMid && o.midstep then .error (sNotInState, 0)
      else match s.storeDown store with
      | some st => .error (st, 0)
      | none => .ok o

/-- Restore destinations from the set of an object (R238-R251). -/
def State.restoreTo (s : State) (x : Sub) (e : Ext) (o : StoredObj) (ds : List (Nat × Region × Nat × BitVec 32)) : Res :=
  let s := s.endApplied x.chamber
  let (set, s) := s.objectSet x.chamber o
  match set.findSome? fun p => manifestFault p.id (s.chKeys x.chamber) p with
  | some st => ended s st 0 0 [o.id, 0, 0, 0, 0, 0, 0]
  | none => match s.plans set ds with
    | .error w => ended s sUncovered 0 0 [o.id, 0, 0, 0, w, 0, 0]
    | .ok l => s.restorePlan x e o set l

/-- Every member of a list of regions, under its own tensor ID. -/
def ownDests (l : List (Nat × Region)) : List (Nat × Region × Nat × BitVec 32) :=
  l.flatMap fun p => (List.range p.2.coord.members).map fun m => (p.1, p.2, m, p.2.coord.tensor m)

/-- RESTORE (R238-R258). -/
def bodyRestore (x : Sub) (e : Ext) (s : State) : Res :=
  let ch := x.chamber
  match s.restoreRefuse x x.handle.toNat (bit x.c 16) with
  | .error (st, b) => if st = sInvalidField then badParam s b else fail s st
  | .ok o =>
    if e.readErr && x.b != 0 then fail s sMalformed
    else
      let regs := if x.b = 0 then s.regionsOf ch else (s.idList x.b.toNat (fld x.c 15 0)).filterMap fun i => (s.region i).map fun r => (i, r)
      let r := s.restoreTo x e o (ownDests regs)
      if x.b = 0 ∧ (s.ch ch).offload ≠ 0 ∧ (r.status = some sOk ∨ r.status = some sDegraded) then
        { r with s := r.s.onStep ch fun t => { t with count := o.stepCount, phase := .idle } }
      else r

/-- RESTORE_SLICE (R241, R242). -/
def bodyRestoreSlice (x : Sub) (e : Ext) (s : State) : Res :=
  match s.restoreRefuse x (objStore x.a) false, s.region x.handle.toNat with
  | .error (st, b), _ => if st = sInvalidField then badParam s b else fail s st
  | .ok o, some r =>
    s.restoreTo x e o ((List.range r.coord.members).map fun m =>
      (x.handle.toNat, r, m, BitVec.ofNat 32 (fld x.b 31 0) + r.coord.idStep * BitVec.ofNat 32 m))
  | .ok _, none => badParam s 4

/-! ## VERIFY and MANIFEST_READ -/

/-- What refuses VERIFY and MANIFEST_READ (R225, R477). -/
def State.readRefuse (s : State) (x : Sub) : Except (BitVec 16 × Nat) StoredObj :=
  match s.mounted x.handle.toNat with
  | none => .error (sNotInState, 0)
  | some m =>
    if objStore x.a ≠ x.handle.toNat then .error (sInvalidField, 16)
    else match Sys2Proof.Media.live m x.a with
    | none => .error (sInvalidField, 16)
    | some o => match s.storeDown x.handle.toNat with
      | some st => .error (st, 0)
      | none => .ok o

/-- Check leaves in order (R259): how many passed, and the first failure. -/
def State.verifyLeaves (s : State) (ch : Nat) (ext : Option (BitVec 16)) (k : Nat) (o : StoredObj) :
    Nat → List (Shard × Nat) → Nat × Option (BitVec 16 × BitVec 64)
  | i, [] => (i, none)
  | i, (h, n) :: rest =>
    let w := BitVec.ofNat 64 (h.region + n * 65536)
    match s.leafAt [o] o h n with
    | none => (i, some (sManifestMismatch, w))
    | some l => match s.leafLoad ch h.coord n l (if i = k then ext else none) with
      | .error (st, _) => (i, some (st, w))
      | .ok _ => s.verifyLeaves ch ext k o (i + 1) rest

/-- VERIFY (R224, R259). -/
def bodyVerify (x : Sub) (e : Ext) (s : State) : Res :=
  match s.readRefuse x with
  | .error (st, b) => if st = sInvalidField then badParam s b else fail s st
  | .ok o => match manifestFault o.id (s.chKeys x.chamber) o with
    | some st => fail s st
    | none =>
      let (f, s) := (s.rechecked e).freeNat
      let leaves := o.shards.flatMap fun h => (List.range h.recs.length).filterMap fun k => match h.recs[k]? with
        | some q => if q.kind = 3 then none else some (h, k)
        | none => none
      let ext := loadFault e
      if !bit x.b 0 || leaves.isEmpty then
        match ext with | some st => fail (s.countFault st) st | none => done s 0
      else match s.verifyLeaves x.chamber ext (f % leaves.length) o 0 leaves with
      | (n, none) => ended s sOk (BitVec.ofNat 64 n) n []
      | (n, some (st, w)) => ended (s.countFault st) st (BitVec.ofNat 64 n) n [o.id, 0, 0, 0, w, 0, 0]

/-- MANIFEST_READ (R224, R260). -/
def bodyManifestRead (x : Sub) (e : Ext) (s : State) : Res :=
  match s.readRefuse x with
  | .error (st, b) => if st = sInvalidField then badParam s b else fail s st
  | .ok o => match loadFault e with
    | some st => fail (s.countFault st) st
    | none => match manifestFault o.id (s.chKeys x.chamber) o with
      | some st => fail s st
      | none =>
        let d := (o.manifest.drop (fld x.c 63 32 * 4096)).take (fld x.c 31 0)
        let n := o.manifest.length
        if e.writeErr then fail (s.undefBuf x.b.toNat d.length) sMalformed
        else
          let s := (s.rechecked e).poke x.b.toNat d
          let st := if fld x.c 63 32 * 4096 + fld x.c 31 0 < n then sOkPartial else sOk
          ended s st (BitVec.ofNat 64 n) (ceilDiv d.length 4096) []

/-! ## Rows -/

/-- RESTORE (R247). -/
def execRestore (x : Sub) (e : Ext) (s : State) : Host.Outcome State Fault Refusal :=
  .next (s.runOp { x with opcode := 0x40 } [] (bodyRestore { x with opcode := 0x40 } e))

/-- RESTORE_SLICE (R242). -/
def execRestoreSlice (x : Sub) (e : Ext) (s : State) : Host.Outcome State Fault Refusal :=
  .next (s.runOp { x with opcode := 0x41 } [] (bodyRestoreSlice { x with opcode := 0x41 } e))

/-- VERIFY (R259). -/
def execVerify (x : Sub) (e : Ext) (s : State) : Host.Outcome State Fault Refusal :=
  .next (s.runOp { x with opcode := 0x42 } [] (bodyVerify { x with opcode := 0x42 } e))

/-- MANIFEST_READ (R260). -/
def execManifestRead (x : Sub) (e : Ext) (s : State) : Host.Outcome State Fault Refusal :=
  .next (s.runOp { x with opcode := 0x43 } [] (bodyManifestRead { x with opcode := 0x43 } e))

end Sys2Proof.Machine
end

