-- ==== Sys2Proof/Machine/Streams.lean ====
section
/-! DEFINITION. Host streams (R262-R292): descriptors, the walker, issue and landing, delivery to and writes of a step command, seek, close and
cancel. -/

namespace Sys2Proof.Machine

/-! ## Parts -/

/-- Change the progress of stream `i`. -/
def State.onRun (s : State) (i : Nat) (f : StmRun → StmRun) : State := { s with trk := { s.trk with run := s.trk.run.modify i f } }

/-- Change the slot of stream `i`. -/
def State.onStm (s : State) (i : Nat) (f : Stm → Stm) : State := { s with trk := { s.trk with stm := s.trk.stm.modify i f } }

/-- Bytes of an element of a stream. -/
def Stm.size (t : Stm) : Nat := elemSize t.elemType

/-- Outstanding tags of a stream's slot, of every generation. -/
def State.tagsOf (s : State) (i : Nat) : List TagUse := s.tags.filter fun u => match u.stream with | some p => p.1 == i | none => false

/-- Whether a tag is a read's. -/
def isRead : TagRef → Bool
  | .mreq _ _ w => !w
  | .fab _ _ w => !w

/-- The stream ID of a slot. -/
def Stm.idOf (t : Stm) (i : Nat) : Nat := i + t.gen * 2 ^ 18

/-- Count discarded bytes of a chamber's streams (Table 6 of chapter 10). -/
def State.discard (s : State) (ch n : Nat) : State :=
  (s.onUn ch fun u => { u with stmDiscard := satAdd 48 u.stmDiscard n }) |> fun s =>
    { s with trk := { s.trk with discard := satAdd 48 s.trk.discard n } }

/-- Count a message with a stale stream generation (R286). -/
def State.staleGen (s : State) (i : Nat) : State :=
  ({ s with trk := { s.trk with stale := satAdd 32 s.trk.stale 1, staleBy := s.trk.staleBy.modify i (· + 1) } }).log eStaleGen 0 0 0 none
    (leBytes 3 i)

/-- Drop the clamp of stream `i`. -/
def State.dropStreamClamp (s : State) (i : Nat) : State :=
  { s with clamps := s.clamps.filter fun k => !(k.owner == none && k.stream == i) }

/-- Free the slot of stream `i`: its next generation 0 retires it (R264). -/
def State.freeStream (s : State) (i : Nat) : State :=
  let t := s.trk.stm.get i
  let s := s.dropStreamClamp i
  { s with trk := { s.trk with
      stm := s.trk.stm.set i { Stm.zero with gen := t.gen, retired := t.gen == 63, lost := t.lost }, run := s.trk.run.set i .zero } }

/-! ## Ending a command that waits on a stream -/

/-- A STEP_APPLY that ends early leaves the step APPLIED (Table 15 of chapter 05). -/
def State.stopApply (s : State) (ch : Nat) : State :=
  s.onStep ch fun t => if t.phase = .normed then { t with phase := .applied } else t

/-- End a running step command or Dovetail early with a status: units and words as reached (R98, R281). -/
def State.endRunning (s : State) (c : Cmd) (st : BitVec 16) : State :=
  let x := c.sub
  if x.opcode = 0x54 then
    let op := ((c.stages[c.units]?).map (·.opcode)).getD 0
    let s := if op = 0x64 then s.stopApply x.chamber else s
    s.finish x (termPhase st) st (BitVec.ofNat 64 (c.units + 1)) c.units c.res
  else
    let s := if x.opcode = 0x64 then s.stopApply x.chamber else s
    s.finish x (termPhase st) st 0 c.units c.res

/-- End the command bound to stream `i` (R276, R281, R284). -/
def State.endBound (s : State) (i : Nat) (st : BitVec 16) : State :=
  match (s.trk.run.get i).bound with
  | none => s
  | some (q, id) =>
    match s.cmdAt (s.trk.stm.get i).chamber q id with
    | some c => s.endRunning c st
    | none => s

/-- The stream is FAULTED (R276). -/
def State.faultStream (s : State) (i : Nat) (st : BitVec 16) (whr : Nat) : State :=
  let t := s.trk.stm.get i
  let s := s.endBound i st
  (s.onRun i fun r => { r with fault := some st }).logStatus st 0 0 (some t.chamber) (leBytes 3 (t.idOf i) ++ leBytes 7 whr)

/-! ## The walker (R270-R274) -/

/-- Where the walker stands: at a segment, with the first element and the elements left; at an unresolved marker; at the end; at a fault. -/
inductive Walk where
  | seg (first left : Nat)
  | wait
  | fin
  | bad (st : BitVec 16)
  deriving DecidableEq, Repr

/-- Whether a write-back stream is kept from its next segment by a capture's freeze (R268). -/
def State.frozenFor (s : State) (t : Stm) : Bool :=
  t.writeBack && s.frz.hold && s.frz.asker == some none &&
    match s.cap.run with
    | some r => r.regs.any fun p =>
        meets (t.base / 65536) (ceilDiv (t.base + t.extent * t.size) 65536) p.2.base (p.2.base + p.2.granules)
    | none => false

/-- Increments of an object that wait for acknowledgements (R330). -/
def StmRun.due (r : StmRun) (obj : Nat) : Nat := ((r.posts.filter fun p => p.1 == obj).map fun p => p.2.1.toNat).sum

/-- A linear stream's walker (R274, R330). -/
def State.walkLinear (s : State) (t : Stm) (r : StmRun) : Walk × StmRun :=
  if t.extent ≤ r.elem then (.fin, { r with ended := true })
  else
    let k := r.elem / t.segLen
    let left := min t.extent ((k + 1) * t.segLen) - r.elem
    if t.gated ∧ !s.ownsObj t.chamber t.gateObj then (.bad sForbidden, r)
    else if t.gated ∧ !t.writeBack ∧ !s.reached t.gateObj (t.gateBase.toNat + k) then (.wait, r)
    else if r.elem % t.segLen = 0 ∧ s.frozenFor t then (.wait, r)
    else if t.gated ∧ t.writeBack ∧ !s.postFits t.gateObj (1 + r.due t.gateObj) then (.wait, r)
    else (.seg r.elem left, r)

/-- The jump counters after a JUMP at entry `i` of count `c`: whether it is taken, and the counters; none at a fifth counted JUMP (R272). -/
def countJump (i c : Nat) (l : List (Nat × Nat)) : Option (Bool × List (Nat × Nat)) :=
  if c = 0 then some (true, l)
  else match l.find? fun p => p.1 == i with
    | some p => if p.2 < c then some (true, l.map fun q => if q.1 = i then (i, q.2 + 1) else q) else some (false, l.filter fun q => q.1 != i)
    | none => if 4 ≤ l.length then none else some (true, l ++ [(i, 1)])

/-- An index stream's walker: entries are taken until a segment, a wait, the end or a fault (R270-R273, R276). -/
def State.walkIndex (s : State) (t : Stm) (err : Bool) : Nat → StmRun → Walk × StmRun
  | 0, r => (.bad sInvalidField, r)
  | n + 1, r =>
    let a := t.index + 16 * r.entry
    let l := s.peek a 16
    let obj := leAt l 2 2
    let z (o k : Nat) : Bool := leAt l o k == 0
    let next : StmRun := { r with entry := r.entry + 1, barren := r.barren + 1 }
    if r.ended then (.fin, r)
    else if !s.inWin t.chamber a 16 then (.bad sForbidden, r)
    else if err then (.bad sMalformed, r)
    else if !z 1 1 ∨ (leAt l 0 1 ≠ 1 ∧ 64 ≤ r.barren) then (.bad sInvalidField, r)
    else match leAt l 0 1 with
    | 0 => if z 0 16 then (.fin, { r with ended := true }) else (.bad sInvalidField, r)
    | 1 =>
      let first := leAt l 2 6
      let len := leAt l 8 4
      let b := s.peek (a + 16) 16
      if !z 12 4 ∨ len = 0 ∨ t.extent < first + len then (.bad sInvalidField, r)
      else if r.elem = 0 ∧ s.frozenFor t then (.wait, r)
      else if t.writeBack ∧ leAt b 0 1 = 4 ∧ !s.postFits (leAt b 2 2) (leAt b 8 4 + r.due (leAt b 2 2)) then (.wait, r)
      else (.seg (first + r.elem) (len - r.elem), r)
    | 2 =>
      if !z 10 6 then (.bad sInvalidField, r)
      else match countJump r.entry (leAt l 8 2) r.jumps with
        | none => (.bad sInvalidField, r)
        | some (true, j) => s.walkIndex t err n { next with entry := leAt l 2 6, jumps := j }
        | some (false, j) => s.walkIndex t err n { next with jumps := j }
    | 3 =>
      if !z 4 4 ∨ 16384 ≤ obj then (.bad sInvalidField, r)
      else if !s.ownsObj t.chamber obj then (.bad sForbidden, r)
      else if s.reached obj (leAt l 8 8) then s.walkIndex t err n next else (.wait, r)
    | 4 =>
      if !z 4 4 ∨ !z 12 4 ∨ 16384 ≤ obj ∨ leAt l 8 4 = 0 then (.bad sInvalidField, r)
      else if !s.ownsObj t.chamber obj then (.bad sForbidden, r)
      else s.walkIndex t err n { next with posts := r.posts ++ [(obj, BitVec.ofNat 64 (leAt l 8 4), r.issued)] }
    | _ => (.bad sInvalidField, r)

/-- The walker of a stream. -/
def State.walk (s : State) (t : Stm) (err : Bool) (r : StmRun) : Walk × StmRun :=
  if t.indexed then s.walkIndex t err 66 r else s.walkLinear t r

/-- A stream waits at an unresolved marker (CHM_STM_PARKED). -/
def State.atMarker (s : State) (i : Nat) : Bool :=
  let t := s.trk.stm.get i
  let r := s.trk.run.get i
  t.isOpen && r.fault.isNone && (s.walk t false r).1 == .wait

/-- The walker goes to a seek's target (R282). -/
def Stm.jumpTo (t : Stm) (r : StmRun) (target : Nat) : StmRun :=
  if t.indexed then { r with entry := target, elem := 0, jumps := [], barren := 0, seek := none, ended := false }
  else { r with elem := target, seek := none, ended := false }

/-- `n` elements of a segment with `left` to go have been issued: the end of the segment is noted, a gate's post falls due, and a seek that
waited for it takes effect (R271, R274, R282). -/
def Stm.advance (t : Stm) (r : StmRun) (n left : Nat) : StmRun :=
  let r := { r with issued := r.issued + n, elem := r.elem + n }
  if n < left then r
  else
    let r := { r with ends := r.ends ++ [r.issued], barren := 0 }
    let r := if t.indexed then { r with entry := r.entry + 1, elem := 0 } else r
    let r := if t.gated && t.writeBack then { r with posts := r.posts ++ [(t.gateObj, 1, r.issued)] } else r
    match r.seek with
    | some g => t.jumpTo r g
    | none => r

/-- Posts whose earlier elements have all been delivered or written raise their objects, in order (R273, R274). -/
def State.firePosts (s : State) (i : Nat) : State :=
  let r := s.trk.run.get i
  let due := r.posts.filter fun p => decide (p.2.2 ≤ r.delivered)
  let s := s.onRun i fun r => { r with posts := r.posts.filter fun p => !decide (p.2.2 ≤ r.delivered) }
  due.foldl (fun s p => s.signal p.1 p.2.1.toNat false) s

/-- Segment ends behind the delivery position are forgotten. -/
def StmRun.prune (r : StmRun) : StmRun := { r with ends := r.ends.filter fun e => decide (r.delivered ≤ e) }

/-- Credit frames that have ended return their credit: released whole, and every tag of them returned (R289). -/
def State.returnCredits (s : State) (i : Nat) : State :=
  let out := s.tagsOf i
  let gen := (s.trk.stm.get i).gen
  let keep (r : StmRun) (f : Nat × Nat) : Bool :=
    decide (r.delivered < min f.2 r.issued) || (decide (f.2 > r.issued) && !r.ended && decide (f.1 < r.issued)) ||
      out.any fun u => decide (f.1 ≤ u.elem ∧ u.elem < f.2) && u.stream == some (i, gen)
  s.onRun i fun r => { r with frames := r.frames.filter (keep r) }

/-! ## Issue (R275, R277-R279, R289) -/

/-- The master port of an address (R51). -/
def State.portOf (s : State) (addr : Nat) : Nat := addr / 4096 % max s.fabPorts 1

/-- Whether a tag is out. -/
def State.tagOut (s : State) (r : TagRef) : Bool := s.tags.any fun u => u.tag == r || u.also == some r

/-- A free Krytra-origin tag of a stile, of 1,024 for reads and 512 for writes (R39, R277). -/
def State.freeMtag (s : State) (st : Nat) (write : Bool) : Option Nat :=
  (List.range (if write then 512 else 1024)).find? fun n => !s.tagOut (.mreq st n write)

/-- A free tag of a master port. -/
def State.freeFtag (s : State) (p : Nat) (write : Bool) : Option Nat :=
  (List.range 4096).find? fun n => !s.tagOut (.fab p n false) && !s.tagOut (.fab p n true) && !s.tagOut (.fab p n write)

/-- The tags of a stream's span: the home stile's, with a tag of the port for the slow tier (R277). -/
def State.spanTags (s : State) (t : Stm) (addr : Nat) (write : Bool) : Option (TagRef × Option TagRef) :=
  match s.freeMtag t.home write with
  | none => none
  | some m =>
    if t.source = 1 then (s.freeFtag (s.portOf addr) write).map fun k => (.fab (s.portOf addr) k write, some (.mreq t.home m write))
    else some (.mreq t.home m write, none)

/-- Whether the discipline lets a span at stream position `pos` be issued: landing space (R278), or a credit for its frame (R289). Data of a
bound stream leaves the ring as it lands. -/
def State.spanRoom (s : State) (i : Nat) (t : Stm) (r : StmRun) : Bool :=
  let flying := 256 * (s.tagsOf i).length
  let held := if r.bound.isSome then 0 else (r.landed.map fun p => p.2.length).foldl (· + ·) 0
  if t.credit then
    (match r.frames.getLast? with | some f => decide (r.issued < f.2) | none => false) || decide (r.frames.length < t.depth)
  else decide (flying + held + 256 ≤ t.depth * 4096 - 2048)

/-- Issue the next span of a fetch stream: the tags it needs, and its place in stream order. -/
def State.issueSpan (s : State) (i : Nat) (t : Stm) (r : StmRun) (first left : Nat) : State :=
  let addr := t.base + first * t.size
  let n := min left (((addr / 256 + 1) * 256 - addr) / t.size)
  match s.spanTags t addr false with
  | none => s
  | some (tag, also) =>
    let use : TagUse := ⟨tag, also, some (i, t.gen), addr, n * t.size, r.issued, false, false, false⟩
    let s := { s with tags := s.tags ++ [use] }
    let s := match tag with
      | .mreq st m _ => s.onSt st fun st => { st with
          lastMreq := some (⟨0, true, BitVec.ofNat 52 (addr / 256 * 256), BitVec.ofNat 16 m, [], [], [], 0⟩, true) }
      | .fab _ _ _ => s
    let frames := if t.credit && !(match r.frames.getLast? with | some f => decide (r.issued < f.2) | none => false) then
      r.frames ++ [(r.issued, r.issued + 4096 / t.size)] else r.frames
    s.onRun i fun _ => t.advance { r with frames := frames } n left

/-- Write bytes of a stream or a command from an address, at most `k` granules: tracked as writes of the granules they belong to (R153, R441),
poisoned data poisoned (R44). -/
def State.streamWrite (s : State) : Nat → Nat → List (Byte × Bool) → State
  | 0, _, _ => s
  | _, _, [] => s
  | k + 1, addr, d =>
    let n := 65536 - addr % 65536
    let part := d.take n
    let slow := s.regions.entries.findSome? fun p => match p.2 with
      | some r => if r.slowBase ≤ addr ∧ r.slow.get ((addr - r.slowBase) / 65536) then some (r.base + (addr - r.slowBase) / 65536) else none
      | none => none
    let g := slow.getD (addr / 65536)
    let s := if slow.isSome || s.granAddr g == g * 65536 then s.kWrite g (addr % 65536) (part.map (·.1))
      else s.poke addr (part.map (·.1))
    let s := { s with mem := (List.range part.length).foldl (fun m o =>
      if (part.getD o (0, false)).2 then { m with poison := m.poison.set ((addr + o) / 128) true } else m) s.mem }
    s.streamWrite k (addr + n) (d.drop n)

/-- Whether a write of the stream to this 256-byte span is outstanding (R275). -/
def State.spanBusy (s : State) (i addr : Nat) : Bool := (s.tagsOf i).any fun u => !isRead u.tag && u.addr / 256 == addr / 256

/-- The request of a span's write on MREQ: byte enables cover the span's part of its 256 bytes (R44, R275). -/
def writeReq (addr m : Nat) (d : List (Byte × Bool)) : HReq :=
  let o := addr % 256
  let beat (k : Nat) : Bool := ((List.replicate o (0, false) ++ d).drop (128 * k)).take 128 |>.any fun (p : Byte × Bool) => p.2
  { op := 1, two := true, addr := BitVec.ofNat 52 (addr / 256 * 256), tag := BitVec.ofNat 16 m
    data := padTo 256 (zeros o ++ d.map fun p => p.1)
    be := (List.range 256).map fun i => decide (o ≤ i ∧ i < o + d.length)
    poison := [beat 0, beat 1], user := 0 }

/-- A span of a write-back stream as it goes out: the tags it takes, its bytes in memory (R269, R275, R277). -/
def State.writeSpan (s : State) (i : Nat) (t : Stm) (r : StmRun) (tag : TagRef × Option TagRef) (addr n : Nat) : State :=
  let d := r.unused.take (n * t.size)
  let use : TagUse := ⟨tag.1, tag.2, some (i, t.gen), addr, n * t.size, r.issued, false, false, false⟩
  let s := { s with tags := s.tags ++ [use] }
  let s := match tag.1 with
    | .mreq st m _ => s.onSt st fun st => { st with
        lastMreq := some (writeReq addr m d, true) }
    | .fab _ _ _ => s
  s.streamWrite 2 addr d

/-- Write what a write-back stream's producer gave it, span by span, as far as the walker and the free write tags let it, at most `k` spans; past
END it is discarded (R271, R275, R277). -/
def State.drainStream (s : State) (i : Nat) (err : Bool) : Nat → State
  | 0 => s
  | k + 1 =>
    let t := s.trk.stm.get i
    let r := s.trk.run.get i
    if r.unused.isEmpty ∨ r.fault.isSome then s
    else match s.walk t err r with
    | (.bad st, r) => (s.onRun i fun _ => r).faultStream i st (if t.indexed then r.entry else t.base + r.elem * t.size)
    | (.wait, r) => (s.onRun i fun _ => r).firePosts i
    | (.fin, r) => ((s.onRun i fun _ => { r with unused := [] }).discard t.chamber r.unused.length).firePosts i
    | (.seg first left, r) =>
      let addr := t.base + first * t.size
      let n := min (min left (((addr / 256 + 1) * 256 - addr) / t.size)) (r.unused.length / t.size)
      match (if s.spanBusy i addr ∨ n = 0 then none else s.spanTags t addr true) with
      | none => (s.onRun i fun _ => r).firePosts i
      | some tag =>
        let s := s.writeSpan i t r tag addr n
        (s.onRun i fun _ => t.advance { r with unused := r.unused.drop (n * t.size) } n left).drainStream i err k

/-- STREAM_ISSUE (R276, R279). -/
def execStreamIssue (idx : Nat) (e : Ext) (s : State) : Host.Outcome State Fault Refusal :=
  let t := s.trk.stm.get idx
  let r := s.trk.run.get idx
  .next (if !t.isOpen || r.fault.isSome || r.closing.isSome then s
    else if t.writeBack then s.drainStream idx e.readErr (r.unused.length + 1)
    else match s.walk t e.readErr r with
    | (.bad st, r) => (s.onRun idx fun _ => r).faultStream idx st (if t.indexed then r.entry else t.base + r.elem * t.size)
    | (.seg first left, r) =>
      if s.spanRoom idx t r then (s.issueSpan idx t r first left).firePosts idx else (s.onRun idx fun _ => r).firePosts idx
    | (_, r) => (s.onRun idx fun _ => r).firePosts idx)

/-! ## Closing (R283) -/

/-- A stream whose close waits for its tags is freed once all have returned; the close completes with the bytes moved. -/
def State.settleClose (s : State) (i : Nat) : State :=
  let r := s.trk.run.get i
  let t := s.trk.stm.get i
  match r.closing with
  | none => s
  | some (q, id) =>
    if (s.tagsOf i).any fun u => u.stream == some (i, t.gen) && !u.heldOut then s
    else
      let s := s.freeStream i
      match s.cmdAt t.chamber q id with
      | some c => conclude c.sub (done s (BitVec.ofNat 64 r.bytes))
      | none => s

/-! ## Acknowledged writes (R273-R276, R332) -/

/-- The elements of a write-back stream before its first write without a completion count as written; posts before them fall due. -/
def State.settleWrites (s : State) (i : Nat) : State :=
  let t := s.trk.stm.get i
  let out := (s.tagsOf i).filter fun u => u.stream == some (i, t.gen) && !isRead u.tag
  let s := s.onRun i fun r => StmRun.prune { r with delivered := max r.delivered (out.foldl (fun m u => min m u.elem) (min r.issued (r.stuck.getD r.issued))) }
  (s.firePosts i).settleClose i

/-- A write that counts as answered with ERR (R122, R276, R478): its memory is undefined, the stream is FAULTED, nothing that waits on it is
released. -/
def State.writeFails (s : State) (i : Nat) (u : TagUse) : State :=
  let s := (s.undefBuf u.addr u.len).onRun i fun r => { r with stuck := some (min u.elem (r.stuck.getD u.elem)) }
  if (s.trk.run.get i).fault.isSome then s else s.faultStream i sMalformed u.addr

/-- The completion or WACK of a write of a host stream returns: its tags are free; of the slot's present generation it counts (R286). -/
def State.acked (s : State) (u : TagUse) (err : Bool) : State :=
  let s := { s with tags := s.tags.erase u }
  match u.stream with
  | none => s
  | some (i, g) =>
    let t := s.trk.stm.get i
    if u.heldOut then s.settleClose i
    else if t.gen ≠ g ∨ !t.isOpen then
      let s := if err then s.undefBuf u.addr u.len else s
      if t.gen ≠ g then s.staleGen i else s
    else if err then (s.writeFails i u).settleClose i
    else (s.onRun i fun r => { r with bytes := r.bytes + u.len }).settleWrites i

/-! ## Landing (R285, R286) -/

/-- Insert a landed span in stream order. -/
def insertLanded (p : Nat × List (Byte × Bool)) : List (Nat × List (Byte × Bool)) → List (Nat × List (Byte × Bool))
  | [] => [p]
  | q :: r => if p.1 < q.1 then p :: q :: r else q :: insertLanded p r

/-- One answer lands: its tag is freed (unless held out), its generation and position are checked, then it is delivered to the ring, counted as
discarded, or faults its stream. -/
def State.land (s : State) (i : Nat) (w : Answer) : State :=
  let t := s.trk.stm.get i
  let r := s.trk.run.get i
  let u := w.use
  let s := { s with tags := if u.heldOut then s.tags else s.tags.erase u, trk := { s.trk with answers := s.trk.answers.erase w } }
  let now := match u.stream with | some p => t.gen == p.2 | none => false
  let s :=
    if !now then (s.staleGen i).discard t.chamber 256
    else if !t.isOpen || u.mark || r.closing.isSome then s.discard t.chamber 256
    else if w.err then s.faultStream i sMalformed u.addr
    else s.onRun i fun r => { r with landed := insertLanded (u.elem, (w.data.drop (u.addr % 256)).take u.len) r.landed }
  (s.returnCredits i).settleClose i

/-- STREAM_LANDING (R285): the first whole answer of the stream lands. -/
def execStreamLanding (idx : Nat) (_e : Ext) (s : State) : Host.Outcome State Fault Refusal :=
  .next (match s.trk.answers.find? fun w => w.full && (match w.use.stream with | some p => p.1 == idx | none => false) with
    | some w => s.land idx w
    | none => s)

/-! ## Delivery and production -/

/-- The landed bytes from the delivery position on, without a gap. -/
def contiguous (size : Nat) : Nat → List (Nat × List (Byte × Bool)) → List (Byte × Bool)
  | _, [] => []
  | pos, (p, d) :: r => if p = pos then d ++ contiguous size (pos + d.length / size) r else []

/-- Take `n` elements of a fetch stream for its consumer. None: they have not landed. Elements past END are undefined (assumption log 11). -/
def State.takeStream (s : State) (i n : Nat) : Option (List (Byte × Bool) × State) :=
  let t := s.trk.stm.get i
  let r := s.trk.run.get i
  let have_ := contiguous t.size r.delivered r.landed
  let past := r.ended && (s.tagsOf i).isEmpty && decide (r.issued < r.delivered + n)
  if n * t.size ≤ have_.length ∨ past then
    let got := min n (have_.length / t.size)
    let pad := (List.range ((n - got) * t.size)).map fun k => (Config.undefByte s.free k, false)
    let rest := have_.drop (got * t.size)
    let s := { s with free := if past then s.free + 1 else s.free }
    let s := s.onRun i fun r =>
      let tail := r.landed.filter fun p => decide (r.delivered + have_.length / t.size ≤ p.1)
      StmRun.prune { r with
        delivered := r.delivered + got, bytes := r.bytes + got * t.size
        landed := (if rest.isEmpty then [] else [(r.delivered + got, rest)]) ++ tail }
    some (have_.take (got * t.size) ++ pad, (s.firePosts i).returnCredits i)
  else none

/-- Give a write-back stream elements its producer made, and write what may be written (R269). -/
def State.giveStream (s : State) (i : Nat) (d : List (Byte × Bool)) : State :=
  (s.onRun i fun r => { r with unused := r.unused ++ d }).drainStream i false (d.length + (s.trk.run.get i).unused.length + 1)

/-! ## Opening (R263-R267, R287, R288) -/

/-- 4 KiB frames of a stile's landing pool (R267). -/
def State.poolFrames (s : State) (st : Nat) : Nat := 4 * (16 - (s.st st).disabled.length)

/-- Frames of the pool that open streams and the links of Dovetails hold (R267, R449). -/
def State.poolUsed (s : State) (st : Nat) : Nat :=
  (s.trk.stm.entries.filter fun p => p.2.isOpen && p.2.home == st).foldl (fun n p => n + p.2.depth) 0 +
    s.cmds.foldl (fun n c => n + ((c.links.filter fun l => l.1 == st).map (·.2)).sum) 0

/-- Whether a CREDIT stream of the chamber is open (R288). -/
def State.creditOpen (s : State) (ch : Nat) : Bool := s.trk.stm.entries.any fun p => p.2.isOpen && p.2.chamber == ch && p.2.credit

/-- Whether a slot may be allocated: free, present, and not retired, or retired with every tag returned (R263, R264). -/
def State.slotFree (s : State) (i : Nat) : Bool :=
  let t := s.trk.stm.get i
  !t.isOpen && !t.lost && (!t.retired || (s.tagsOf i).isEmpty)

/-- The slot a descriptor's 32 bytes ask for. -/
def stmOf (ch : Nat) (wb credit : Bool) (frames : Nat) (l : List Byte) : Stm :=
  let indexed := leAt l 0 1 / 4 % 2 == 1
  { Stm.zero with
    isOpen := true, chamber := ch, writeBack := wb, credit := credit, source := leAt l 0 1 % 4, indexed := indexed,
    gated := leAt l 0 1 / 8 % 2 == 1, elemType := leAt l 1 1 % 16, home := leAt l 2 1 % 32, depth := if credit then frames else leAt l 3 1,
    segLen := leAt l 4 4, base := leAt l 8 8, extent := leAt l 16 6, gateObj := leAt l 22 2 % 16384,
    gateBase := BitVec.ofNat 64 (leAt l 24 8), index := if indexed then leAt l 24 8 else 0 }

/-- Row 1 of R266: the byte of an address outside the windows or an object not owned. -/
def State.stmOutside (s : State) (t : Stm) : Option Nat :=
  if !s.inWin t.chamber t.base (t.extent * t.size) then some 8
  else if t.indexed ∧ !s.inWin t.chamber t.index 16 then some 24
  else if t.gated ∧ !s.ownsObj t.chamber t.gateObj then some 22
  else none

/-- Rows 2 to 4 of R266: the byte of a malformed field. -/
def State.stmBad (s : State) (t : Stm) (l : List Byte) : Option Nat :=
  let bad (b : Bool) (byteNo : Nat) : List Nat := if b then [byteNo] else []
  let owned := (List.range (ceilDiv (t.base % 65536 + t.extent * t.size) 65536)).all fun k => match s.place (t.base / 65536 + k) with
    | some p => p.1 == t.home
    | none => true
  (bad (decide (leAt l 0 1 ≥ 16) || decide (t.source ≥ 2) || (t.gated && t.indexed) || (t.credit && (t.indexed || t.gated))) 0 ++
    bad (decide (leAt l 1 1 > 4)) 1 ++ bad (decide (leAt l 2 1 ≥ s.stileCount)) 2 ++
    bad (if t.credit || t.writeBack then decide (leAt l 3 1 ≠ 0) else decide (leAt l 3 1 = 0) || decide (leAt l 3 1 > 64)) 3 ++
    bad (t.indexed != decide (t.segLen = 0)) 4 ++ bad (decide (t.base % 256 ≠ 0)) 8 ++ bad (decide (leAt l 14 2 ≥ 16)) 14 ++
    bad (decide (t.extent = 0)) 16 ++ bad (decide (leAt l 22 2 ≥ 16384) || (!t.gated && decide (leAt l 22 2 ≠ 0))) 22 ++
    bad (if t.indexed then decide (t.index % 64 ≠ 0) || decide (t.index ≥ 2 ^ 52) else !t.gated && decide (leAt l 24 8 ≠ 0)) 24 ++
    bad (decide (t.source = 0) && !owned) 8).head?

/-- STREAM_OPEN (R263-R267, R287, R288). `twin`: K2_SOPEN. -/
def bodyStreamOpen (x : Sub) (e : Ext) (twin : Bool) (s : State) : Res :=
  let c := s.ch x.chamber
  let base := (s.un x.chamber).stmBase
  let l := s.peek x.a.toNat 32
  let t := stmOf x.chamber (bit x.b 0) c.creditMode c.credits l
  if twin ∧ !c.creditMode then fail s sNotInState
  else if e.readErr then fail s sMalformed
  else match s.stmOutside t with
  | some b => reject s sForbidden 10 1 0 b
  | none => match s.stmBad t l with
    | some b => reject s sInvalidField 1 1 0 b
    | none =>
      if t.credit ∧ c.credits = 0 then fail s sNotInState
      else
        let range := if t.credit then min c.quotaStream 65536 else c.quotaStream
        match (List.range range).find? fun k => s.slotFree (base + k) with
        | none => fail s sStreamIds
        | some k =>
          if s.poolFrames t.home < s.poolUsed t.home + t.depth then fail s sStreamIds
          else
            let i := base + k
            let g := ((s.trk.stm.get i).gen + 1) % 64
            let s := { s with
              clamps := s.clamps.map fun k =>
                if k.chamber = x.chamber ∧ k.owner = some (x.sq, x.cid) then { k with owner := none, stream := i } else k
              trk := { s.trk with stm := s.trk.stm.set i { t with gen := g }, run := s.trk.run.set i .zero } }
            done s (BitVec.ofNat 64 (if twin then k + g * 2 ^ 16 else i + g * 2 ^ 18))

/-- STREAM_CLOSE (R283). -/
def bodyStreamClose (x : Sub) (s : State) : Res :=
  match streamOf s x.handle.toNat with
  | none => reject s sInvalidField 10 0 0 4
  | some (i, t) =>
    let r := s.trk.run.get i
    if r.closing = some (x.sq, x.cid) then wait s
    else if r.bound.isSome ∨ r.closing.isSome then fail s sNotInState
    else
      let n := (r.landed.map fun p => p.2.length).foldl (· + ·) 0 + r.unused.length
      let s := s.discard t.chamber n
      if (s.tagsOf i).any fun u => u.stream == some (i, t.gen) && !u.heldOut then
        wait (s.onRun i fun r => { r with closing := some (x.sq, x.cid), landed := [], unused := [] })
      else done (s.freeStream i) (BitVec.ofNat 64 r.bytes)

/-- Tags of a stream's data from position `b` on carry data of the abandoned path (R282). -/
def State.markTags (s : State) (i gen b : Nat) : State :=
  let f (u : TagUse) : TagUse := if u.stream = some (i, gen) ∧ b ≤ u.elem then { u with mark := true } else u
  let answers := s.trk.answers.map fun (w : Answer) => { w with use := f w.use }
  { s with tags := s.tags.map f, trk := { s.trk with answers := answers } }

/-- STREAM_SEEK (R282). The segment is the one of the delivery position; a boundary already issued is cut there. -/
def bodyStreamSeek (x : Sub) (s : State) : Res :=
  match streamOf s x.handle.toNat with
  | none => reject s sInvalidField 10 0 0 4
  | some (i, t) =>
    let r := s.trk.run.get i
    let g := fld x.a 47 0
    if !(if t.indexed then s.inWin t.chamber (t.index + 16 * g) 16 else decide (g < t.extent)) then badParam s 16
    else if r.closing.isSome then fail s sNotInState
    else match r.ends.find? fun e => decide ((if t.writeBack then r.issued else r.delivered) ≤ e) with
      | none =>
        let keep := if !t.writeBack then r.unused.length else match (s.walk t false r).1 with
          | .seg _ left => left * t.size
          | _ => r.unused.length
        let s := s.discard t.chamber (r.unused.length - keep)
        done (s.onRun i fun r => { r with seek := some g, unused := r.unused.take keep }) 0
      | some b =>
        let size := t.size
        let cut := r.landed.filterMap fun p => if p.1 < b then some (p.1, p.2.take ((b - p.1) * size)) else none
        let lost := (r.landed.map fun p => p.2.length).foldl (· + ·) 0 - (cut.map fun p => p.2.length).foldl (· + ·) 0
        let s := s.discard t.chamber (lost + r.unused.length)
        let s := s.markTags i t.gen b
        let s := s.onRun i fun r => t.jumpTo { r with
          issued := b, landed := cut, unused := [], ends := r.ends.filter fun e => decide (e ≤ b)
          posts := r.posts.filter fun p => decide (p.2.2 ≤ b) } g
        done (s.returnCredits i) 0

/-- STREAM_CANCEL (R284). -/
def bodyStreamCancel (x : Sub) (s : State) : Res :=
  match streamOf s x.handle.toNat with
  | none => reject s sInvalidField 10 0 0 4
  | some (i, t) =>
    let r := s.trk.run.get i
    let own := (s.tagsOf i).filter fun u => u.stream == some (i, t.gen)
    let n := (r.landed.map fun p => p.2.length).foldl (· + ·) 0 + r.unused.length
    let s := s.endBound i sStreamCancelled
    let s := match r.closing with
      | some (q, id) => match s.cmdAt t.chamber q id with
        | some (c : Cmd) => conclude c.sub (fail s sStreamCancelled)
        | none => s
      | none => s
    done ((s.discard t.chamber n).freeStream i)
      (BitVec.ofNat 64 ((r.landed.map fun p => p.2.length).foldl (· + ·) 0 + 256 * (own.filter fun u => isRead u.tag).length))

/-- K2_CREDIT (R288). -/
def bodyK2Credit (x : Sub) (s : State) : Res :=
  if 64 < fld x.a 15 0 ∨ fld x.a 15 0 = 0 then badParam s 8
  else if s.creditOpen x.chamber then fail s sNotInState
  else done (s.onCh x.chamber fun c => { c with credits := fld x.a 15 0 }) 0

/-- DEPENDENCE_TIMEOUT (R281): the consumer has waited at the marker for dep_timeout_ms. -/
def execDependenceTimeout (idx : Nat) (s : State) : Host.Outcome State Fault Refusal :=
  let t := s.trk.stm.get idx
  let r := s.trk.run.get idx
  .next (if t.isOpen && !t.writeBack && r.bound.isSome && (s.un t.chamber).depTimeout != 0 && r.landed.isEmpty && s.atMarker idx then
    s.endBound idx sDepTimeout else s)

/-- STREAM_OPEN. -/
def execStreamOpen (x : Sub) (e : Ext) (s : State) : Host.Outcome State Fault Refusal :=
  .next (s.runOp { x with opcode := 0x50 } [] (bodyStreamOpen { x with opcode := 0x50 } e false))

/-- STREAM_CLOSE. -/
def execStreamClose (x : Sub) (_e : Ext) (s : State) : Host.Outcome State Fault Refusal :=
  .next (s.runOp { x with opcode := 0x51 } [] (bodyStreamClose { x with opcode := 0x51 }))

/-- STREAM_SEEK. -/
def execStreamSeek (x : Sub) (_e : Ext) (s : State) : Host.Outcome State Fault Refusal :=
  .next (s.runOp { x with opcode := 0x52 } [] (bodyStreamSeek { x with opcode := 0x52 }))

/-- STREAM_CANCEL. -/
def execStreamCancel (x : Sub) (_e : Ext) (s : State) : Host.Outcome State Fault Refusal :=
  .next (s.runOp { x with opcode := 0x53 } [] (bodyStreamCancel { x with opcode := 0x53 }))

/-- K2_CREDIT. -/
def execK2Credit (x : Twin) (_e : Ext) (s : State) : Host.Outcome State Fault Refusal :=
  .next (s.runTwin { x with opcode := 0xD5 } (bodyK2Credit (s.nativeSub { x with opcode := 0xD5 })))

end Sys2Proof.Machine
end

