-- ==== Sys2Proof/Machine/Steps.lean ====
section
/-! DEFINITION. Element programs and optimiser steps (R306-R323), CONDENSE (R324), the freeze rows (R57, R58), a cell that fails (R322, R505). -/

namespace Sys2Proof

open Sys2Proof.Machine

/-- Blocks of a member (R310). -/
def Coord.blocks (c : Coord) : Nat := ceilDiv c.elems 4096

/-- Elements of a block. -/
def Coord.blockElems (c : Coord) (b : Nat) : Nat := min 4096 (c.elems - 4096 * b)

end Sys2Proof

namespace Sys2Proof.Machine

/-! ## Programs (R296, R306, R307) -/

/-- Whether a program slot is in use (R307): the plan of a begun, measured or normed step names it, or a running command. A DELTA_APPLY names its
outer program in C[2:0]. -/
def State.progInUse (s : State) (ch p : Nat) : Bool :=
  let t := (s.un ch).step
  let planned := match t.plan with
    | some (a, n) => (List.range n).any fun j => leNat (s.peek (a + 128 + 64 * j) 1) % 8 == p
    | none => false
  (t.phase == .begun || t.phase == .measured || t.phase == .normed) && planned ||
    (s.cmds.any fun c => c.sub.chamber == ch && c.phase == 2 && (c.sub.opcode == 0x64 ||
      c.sub.opcode == 0x54 && c.stages.any fun y => y.opcode == 0x64) && planned) ||
    match (s.un ch).site.run with
    | some r => fld r.sub.c 2 0 == p
    | none => false

/-- PROGRAM_LOAD (R306, R307). -/
def bodyProgramLoad (x : Sub) (e : Ext) (s : State) : Res :=
  let n := fld x.b 8 0
  let level := fld x.b 13 12
  let w := (List.range n).map fun i => BitVec.ofNat 32 (leNat (s.peek (x.a.toNat + 4 * i) 4))
  if s.progInUse x.chamber x.handle.toNat then fail s sNotInState
  else if e.readErr then fail s sMalformed
  else match programBad level w with
  | some b => reject s sInvalidField 1 1 0 b
  | none => done (s.onUn x.chamber fun u => { u with progs := u.progs.set x.handle.toNat ⟨true, level, w⟩ }) 0

/-! ## The plan (R308-R311) -/

/-- A plan entry (Table 7 of chapter 11): slots as kind and ID. -/
structure PlanEntry where
  prog    : Nat
  measure : Bool
  grad    : Nat
  outs    : List Nat
  slots   : List (Nat × Nat)
  k       : List (BitVec 32)

/-- The entry 64 bytes spell. -/
def planEntryOf (l : List Byte) : PlanEntry :=
  { prog := leAt l 0 1 % 8, measure := leAt l 1 1 % 2 == 1, grad := leAt l 2 1 % 8
    outs := (List.range 4).map fun j => leAt l 4 2 / 16 ^ j % 16
    slots := (List.range 8).map fun k =>
      let v := leAt l (8 + 4 * k) 4
      (v / 2 ^ 30, v % 2 ^ 24)
    k := (List.range 6).map fun i => BitVec.ofNat 32 (leAt l (40 + 4 * i) 4) }

/-- Slot `k` of an entry. -/
def PlanEntry.slot (e : PlanEntry) (k : Nat) : Nat × Nat := e.slots.getD k (0, 0)

/-- The region of a slot. -/
def State.slotRegion (s : State) (v : Nat × Nat) : Option Region := if v.1 = 1 then s.region v.2 else none

/-- The stream of a slot. -/
def State.slotStream (s : State) (v : Nat × Nat) : Option (Nat × Stm) := if v.1 = 2 then streamOf s v.2 else none

/-- The element type of a slot. -/
def State.slotType (s : State) (v : Nat × Nat) : Option Nat :=
  match s.slotRegion v, s.slotStream v with
  | some r, _ => some r.coord.elemType
  | _, some p => some p.2.elemType
  | _, _ => none

/-- The first region slot of an entry: its ID and region. -/
def State.firstRegion (s : State) (e : PlanEntry) : Option (Nat × Region) :=
  e.slots.findSome? fun v => (s.slotRegion v).map fun r => (v.2, r)

/-- The words of an entry's program. -/
def State.progOf (s : State) (ch : Nat) (e : PlanEntry) : List (BitVec 32) := ((s.un ch).progs.get e.prog).words

/-- The slots an entry's program writes, with the output's number. -/
def State.outSlots (s : State) (ch : Nat) (e : PlanEntry) : List (Nat × Nat) :=
  ((outsOf (s.progOf ch e)).map fun c => (c - 0x18, e.outs.getD (c - 0x18) 15))

/-- Whether a bit pattern is a power of two in [2^-126, 2^127]. -/
def isPow2 (v : Nat) : Bool := v % 2 ^ 23 == 0 && decide (1 ≤ v / 2 ^ 23 ∧ v / 2 ^ 23 ≤ 254)

/-- The first byte and bit of a plan header that breaks R311, its checks in the order of the rule. -/
def headFault (l : List Byte) : Option (Nat × Nat) :=
  let bad (b : Bool) (byteNo : Nat) : List (Nat × Nat) := if b then [(byteNo, 0)] else []
  let u (o : Nat) : Nat := leAt l o 4
  let load := leAt l 1 1 % 2 == 1
  (bad (leAt l 0 1 != 1) 0 ++ ((firstSet [BitVec.ofNat 8 (leAt l 1 1) &&& 0xFC] 0 1).toList.map fun (p : Nat × Nat) => (1, p.2)) ++ (firstSet l 2 2).toList ++
    bad (!isPow2 (u 12)) 12 ++ bad (!isPow2 (u 16) || decide (u 16 < u 12)) 16 ++
    bad (if load then !isPow2 (u 8) || decide (u 8 < u 12 ∨ u 16 < u 8) else u 8 != 0) 8 ++
    bad (if leAt l 1 1 / 2 % 2 = 1 then u 20 == 0 || decide (0x7F800000 ≤ u 20) else u 20 != 0) 20 ++ (firstSet l 32 32).toList).head?

/-- The first byte and bit of an entry's own fields that is reserved, in byte order. Bits [23:16] of a slot are zero but in a host
stream's (Table 7; DEDUCED for kind 0). -/
def entryFault (l : List Byte) : Option (Nat × Nat) :=
  let bits (o mask : Nat) : List (Nat × Nat) := (firstSet [BitVec.ofNat 8 (leAt l o 1) &&& BitVec.ofNat 8 mask] 0 1).toList.map fun p => (o, p.2)
  let out (j : Nat) : List (Nat × Nat) := let v := leAt l 4 2 / 16 ^ j % 16; if 8 ≤ v ∧ v ≤ 14 then [(4 + j / 2, j % 2 * 4)] else []
  let slot (k : Nat) : List (Nat × Nat) :=
    let o := 8 + 4 * k
    let kind := leAt l o 4 / 2 ^ 30
    (if kind = 2 then [] else (firstSet l (o + 2) 1).toList) ++ bits (o + 3) 0x3F ++ (if kind = 3 then [(o + 3, 6)] else [])
  (bits 0 0xF8 ++ bits 1 0xFE ++ bits 2 0xF8 ++ (firstSet l 3 1).toList ++ (List.range 4).flatMap out ++ (firstSet l 6 2).toList ++
    (List.range 8).flatMap slot).head?

/-- The byte of an entry that breaks a check of R311, in the order of the rule; `written` are the regions earlier entries write. -/
def State.entryBad (s : State) (ch : Nat) (e : PlanEntry) (written : List Nat) : Option Nat :=
  let p := (s.un ch).progs.get e.prog
  let bad (b : Bool) (byteNo : Nat) : List Nat := if b then [byteNo] else []
  let stream (v : Nat × Nat) (wb : Bool) : Bool := match s.slotStream v with | some q => q.2.writeBack == wb | none => false
  let outs := s.outSlots ch e
  let shape (r : Region) : Nat × Nat := (r.coord.members, r.coord.elems)
  let named (v : Nat × Nat) : Bool := match v.1 with
    | 1 => s.ownsRegion ch v.2
    | 2 => (match s.slotStream v with | some q => q.2.chamber == ch | none => false)
    | _ => true
  let outRegion (o : Nat × Nat) : Option Nat := let v := e.slot o.2; if v.1 = 1 then some v.2 else none
  (bad (!p.loaded) 0 ++
    ((List.range 8).flatMap fun k => bad ((insOf p.words).contains k && !((e.slot k).1 == 1 || stream (e.slot k) false)) (8 + 4 * k)) ++
    ((List.range 4).flatMap fun j => match outs.find? fun o => o.1 == j with
      | some o => bad (o.2 == 15 || !((e.slot o.2).1 == 1 || stream (e.slot o.2) true)) (4 + j / 2)
      | none => []) ++
    ((List.range 8).flatMap fun k => bad (!named (e.slot k)) (8 + 4 * k)) ++
    ((List.range 8).flatMap fun k => match s.slotRegion (e.slot k), s.firstRegion e with
      | some r, some f => bad (shape r != shape f.2) (8 + 4 * k)
      | _, _ => []) ++
    ((List.range 8).flatMap fun k => match s.slotStream (e.slot k), s.firstRegion e with
      | some q, some f => bad (q.2.elemType != f.2.coord.elemType) (8 + 4 * k)
      | _, _ => []) ++
    bad (e.measure && !(s.slotType (e.slot e.grad) == some 0 || s.slotType (e.slot e.grad) == some 1)) 2 ++
    bad (drawsOf p.words && (s.firstRegion e).isNone) 0 ++
    ((List.range 4).flatMap fun j => match outs.find? fun o => o.1 == j with
      | some o => match outRegion o with
        | some r => bad (written.contains r || (outs.any fun q => decide (q.1 < j) && outRegion q == some r)) (4 + j / 2)
        | none => []
      | none => [])).head?

/-- The regions an entry's program writes. -/
def State.entryWrites (s : State) (ch : Nat) (e : PlanEntry) : List Nat :=
  (s.outSlots ch e).filterMap fun o => let v := e.slot o.2; if v.1 = 1 then some v.2 else none

/-- The first fault of a plan's entries from entry `j` on: entry, byte, bit. -/
def State.entriesFault (s : State) (ch a : Nat) : Nat → Nat → List Nat → Option (Nat × Nat × Nat)
  | 0, _, _ => none
  | k + 1, j, written =>
    let l := s.peek (a + 128 + 64 * j) 64
    let e := planEntryOf l
    match entryFault l with
    | some p => some (j, p)
    | none => match s.entryBad ch e written with
      | some b => some (j, b, 0)
      | none => s.entriesFault ch a k (j + 1) (written ++ s.entryWrites ch e)

/-- Entry `j` of the present plan. -/
def State.planEntry (s : State) (ch j : Nat) : PlanEntry :=
  match (s.un ch).step.plan with
  | some (a, _) => planEntryOf (s.peek (a + 128 + 64 * j) 64)
  | none => planEntryOf []

/-- The header of the present plan. -/
def State.planHead (s : State) (ch : Nat) : List Byte :=
  match (s.un ch).step.plan with
  | some (a, _) => s.peek a 128
  | none => []

/-- Entries of the present plan. -/
def State.planLen (s : State) (ch : Nat) : Nat := match (s.un ch).step.plan with | some (_, n) => n | none => 0

/-! ## The loss scale (R316) -/

/-- A loss scale clamped into [scale_min, scale_max] of a header. -/
def clampScale (l : List Byte) (v : BitVec 32) : BitVec 32 :=
  BitVec.ofNat 32 (min (max v.toNat (leAt l 12 4)) (leAt l 16 4))

/-- The state a rejected step leaves (Table 8 of chapter 11): scale halved down to scale_min, clean count 0, one skip more, IDLE. Triggered
captures that wait stay behind it (R171). -/
def State.rejectStep (s : State) (ch : Nat) : State :=
  let l := s.planHead ch
  let s := s.freeStepCopies ch
  let s := s.onStep ch fun t => { t with
    scale := BitVec.ofNat 32 (max (t.scale.toNat - 2 ^ 23) (leAt l 12 4)), clean := 0, skips := satAdd 32 t.skips 1, phase := .idle
    plan := none, rejected := true }
  { s with cap := { s.cap with waits := s.cap.waits.map fun w =>
      if w.run.chamber = ch ∧ w.run.cmd.isNone then { w with rejected := true } else w } }

/-- A step boundary that a STEP_ABORT or a completed STEP_APPLY made lets triggered captures go (R171). -/
def State.boundary (s : State) (ch : Nat) : State :=
  let s := s.onStep ch fun t => { t with rejected := false }
  { s with cap := { s.cap with waits := s.cap.waits.map fun w => if w.run.chamber = ch then { w with rejected := false } else w } }

/-! ## STEP_BEGIN (R311, R312, R318, R523) -/

/-- Whether a chamber's STEP_MEASURE, STEP_APPLY or Dovetail of one runs, beside an entry's own. -/
def State.stepBusy (s : State) (x : Sub) : Bool :=
  s.cmds.any fun c => c.sub.chamber == x.chamber && !isCmd x c && c.phase == 2 &&
    (c.sub.opcode == 0x62 || c.sub.opcode == 0x64 || c.sub.opcode == 0x54 &&
      match c.stages[c.units]? with | some y => y.opcode == 0x62 || y.opcode == 0x64 | none => false)

/-- Whether a step opcode is out of place: offload NONE (R312), another phase (R132), or another step command at work. -/
def State.stepOut (s : State) (x : Sub) (l : List StepPhase) : Bool :=
  (s.ch x.chamber).offload == 0 || !l.contains (s.un x.chamber).step.phase || s.stepBusy x

/-- Whether a STEP_BOUNDARY capture stands between the request of its clamps and its flip (R152). -/
def State.boundaryHeld (s : State) (ch : Nat) : Bool :=
  (match s.cap.run with
    | some r => r.chamber == ch && !r.immediate && !r.flipped
    | none => s.cap.waits.any fun w => w.run.chamber == ch && !w.run.immediate && s.atBoundary w)

/-- The stiles of a list of regions. -/
def State.regionStiles (s : State) (l : List Nat) : List Nat :=
  let gs := (s.regionsNamed l).flatMap fun r => (List.range r.granules).map (r.base + ·)
  s.stileList.filter fun st => gs.any fun g => match s.place g with | some p => p.1 == st | none => false

/-- The step enters BEGUN (Table 15 of chapter 05), its loss scale loaded or clamped (R311). -/
def State.enterStep (s : State) (x : Sub) : State :=
  let s := s.onStep x.chamber fun t => { t with phase := .begun, plan := some (x.b.toNat, fld x.c 15 0), saved := none, written := 0, guardLost := false }
  let l := s.planHead x.chamber
  s.onStep x.chamber fun t => { t with
    scale := if leAt l 1 1 % 2 = 1 then BitVec.ofNat 32 (leAt l 8 4) else clampScale l t.scale, beginSub := none }

/-- The step flip (R318): the step epoch opens over the regions the plan names in out slots; BEGUN. -/
def State.stepFlip (s : State) (ch : Nat) : State :=
  match (s.un ch).step.beginSub with
  | none => s
  | some x =>
    let s := s.enterStep x
    let scope := (s.planRegions ch true).eraseDups
    let s := s.onStep ch fun t => { t with epochOpen := true, scope := scope }
    let s := if (s.regionStiles scope).any fun st => (s.st st).removed then s.loseGuard ch else s
    conclude x (done s (BitVec.ofNat 64 (s.un ch).step.count.toNat))

/-- STEP_BEGIN. A guarded one goes on with the freeze. -/
def bodyStepBegin (x : Sub) (e : Ext) (s : State) : Res :=
  let ch := x.chamber
  let t := (s.un ch).step
  let a := x.b.toNat
  if t.beginSub = some x then wait s
  else if fld x.a 47 0 ≠ t.count.toNat then badParam s 16
  else if s.stepOut x [.idle, .applied] || t.beginSub.isSome then fail s sNotInState
  else if e.readErr then fail s sMalformed
  else match headFault (s.peek a 128) with
  | some p =>
    ⟨s.log sInvalidField 0 0 0 (some ch) (leBytes 2 0xFFFF ++ leBytes 2 p.1), some sInvalidField, faultDesc 1 1 0 p.2 p.1, 0, []⟩
  | none => match s.entriesFault ch a (fld x.c 15 0) 0 [] with
    | some p =>
      ⟨s.log sInvalidField 0 0 0 (some ch) (leBytes 2 p.1 ++ leBytes 2 p.2.1), some sInvalidField, faultDesc 1 2 p.1 p.2.2 p.2.1, 0, []⟩
    | none =>
      if s.boundaryHeld ch then wait s
      else if (s.ch ch).guarded then
        let s1 := s.onStep ch fun t => { t with plan := some (a, fld x.c 15 0) }
        let away := (s.regionStiles (s1.planRegions ch true)).filter fun st => !(s.st st).moverOn && !(s.st st).removed
        if !away.isEmpty then wait (s.wantDoms (away.map (3 * ·)))
        else
          let s := (s.freeStepCopies ch).onStep ch fun t => { t with phase := .idle, beginSub := some x }
          wait (s.askFreeze (some ch))
      else
        let s := (s.freeStepCopies ch).enterStep x
        done s (BitVec.ofNat 64 (s.un ch).step.count.toNat)

/-! ## Blocks (R309, R310) -/

/-- A block: plan entry, member, index. -/
structure StepBlk where
  entry : Nat
  m     : Nat
  b     : Nat

/-- The granule that holds element `i` of member `m` of a region, and the offset in it. -/
def Region.at_ (r : Region) (m i : Nat) : Nat × Nat :=
  let o := m * r.coord.stride + i * elemSize r.coord.elemType
  (r.base + o / 65536, o % 65536)

/-- The blocks of entry `j`, member by member: those of the home stile of its streams, where it has any (R309). An entry without a region slot
has none. -/
def State.entryBlocks (s : State) (e : PlanEntry) (j : Nat) : List StepBlk :=
  match s.firstRegion e with
  | none => []
  | some (_, r) =>
    let homes := e.slots.filterMap fun v => (s.slotStream v).map (·.2.home)
    let all := (List.range r.coord.members).flatMap fun m => (List.range r.coord.blocks).map fun b => StepBlk.mk j m b
    all.filter fun k => homes.all fun h => match s.place (r.at_ k.m (4096 * k.b)).1 with
      | some p => p.1 == h
      | none => false

/-- The blocks of the present plan; of its measured entries only where `measured`. -/
def State.planBlocks (s : State) (ch : Nat) (measured : Bool) : List StepBlk :=
  (List.range (s.planLen ch)).flatMap fun j =>
    let e := s.planEntry ch j
    if measured && !e.measure then [] else s.entryBlocks e j

/-- Whether a region slot lies in host memory. -/
def Region.resident (r : Region) : Bool := r.slow.entries.isEmpty

/-- The stile a block runs in (R310). -/
def State.blockStile (s : State) (e : PlanEntry) (k : StepBlk) : Nat :=
  let res (v : Nat × Nat) : Option Region := match s.slotRegion v with | some r => if r.resident then some r else none | none => none
  let n := match s.firstRegion e with | some p => k.m * p.2.coord.blocks + k.b | none => k.b
  match (res (e.slot e.grad)).orElse fun _ => e.slots.findSome? res with
  | some r => (match s.place (r.at_ k.m (4096 * k.b)).1 with | some p => p.1 | none => n % max s.stileCount 1)
  | none => n % max s.stileCount 1

/-- The place of a block in a list entry (R310, R132). -/
def State.blockEntry (s : State) (e : PlanEntry) (k : StepBlk) : Nat :=
  match s.firstRegion e with
  | some (i, r) => i + (k.m * r.coord.blocks + k.b) * 65536
  | none => 0

/-- Elements as patterns with their poison, from bytes. -/
def patsOf (size : Nat) (d : List (Byte × Bool)) : List (Nat × Bool) :=
  (List.range (d.length / size)).map fun i =>
    let l := (d.drop (i * size)).take size
    (leNat (l.map (·.1)), l.any (·.2))

/-- `n` elements of a region from element `i` of member `m`, within one granule. -/
def State.regionRead (s : State) (r : Region) (m i n : Nat) : List (Nat × Bool) :=
  let (g, o) := r.at_ m i
  let a := r.addrOf g o
  let z := elemSize r.coord.elemType
  let d := s.peek a (n * z)
  (List.range n).map fun k => (leNat ((d.drop (k * z)).take z), s.mem.poison.get ((a + k * z) / 128))

/-- Write elements to a region from element `i` of member `m`, granule by granule, at most `k`. -/
def State.regionWrite (s : State) (r : Region) (m : Nat) : Nat → Nat → List (Nat × Bool) → State
  | 0, _, _ => s
  | _, _, [] => s
  | k + 1, i, d =>
    let z := elemSize r.coord.elemType
    let (g, o) := r.at_ m i
    let n := (65536 - o) / z
    let part := (d.take n).flatMap fun p => (leBytes z p.1).map fun b => (b, p.2)
    (s.streamWrite 2 (r.addrOf g o) part).regionWrite r m k (i + n) (d.drop n)

/-- The elements of a block in slot `v`: read from its region, taken from its stream, or none where the stream's data has not landed. -/
def State.slotRead (s : State) (v : Nat × Nat) (k : StepBlk) (n : Nat) : Option (List (Nat × Bool) × State) :=
  match s.slotRegion v, s.slotStream v with
  | some r, _ => some (s.regionRead r k.m (4096 * k.b) n, s)
  | none, some (i, t) => (s.takeStream i n).map fun p => (patsOf t.size p.1, p.2)
  | none, none => some ([], s)

/-- The elements of a block in several slots; none where any stream's data has not landed. -/
def State.slotsRead (s : State) (k : StepBlk) (n : Nat) : List (Nat × Nat) → Option (List (List (Nat × Bool)) × State)
  | [] => some ([], s)
  | v :: r => match s.slotRead v k n with
    | none => none
    | some (d, s) => (s.slotsRead k n r).map fun p => (d :: p.1, p.2)

/-- Global coordinates of element `i` of a slice, in its layout order (R142, R245). -/
def coordsAt (c : Coord) (i : Nat) : List Nat :=
  let tv := (List.range c.rank).foldl (fun n d => n * max (tileOf c d) 1) 1
  let step (a : Nat × Nat × List Nat) (d : Nat) : Nat × Nat × List Nat :=
    let t := max (tileOf c d) 1
    let n := max (c.sizes.getD d 1 / t) 1
    (a.1 / n, a.2.1 / t, (c.starts.getD d 0 + a.1 % n * t + a.2.1 % t) :: a.2.2)
  ((List.range c.rank).reverse.foldl step (i / tv, i % tv, [])).2.2

/-- A cell loads a program on a miss (R296): the cache of the cell that runs a block holds four, newest first. -/
def State.useProg (s : State) (st ch p : Nat) : State :=
  s.onCell (s.server st) (s.someCell st) fun c => { c with cache := ((ch, p) :: c.cache.filter (· != (ch, p))).take 4 }

/-! ## Streams of a step command (R269) -/

/-- The stream slots a step command uses: grad slots of measured entries, or every slot its programs read or write. -/
def State.stepStreams (s : State) (ch : Nat) (apply : Bool) : List (Nat × Nat × Nat) :=
  (List.range (s.planLen ch)).flatMap fun j =>
    let e := s.planEntry ch j
    let ks := if apply then insOf (s.progOf ch e) ++ (s.outSlots ch e).map (·.2) else if e.measure then [e.grad] else []
    ks.filterMap fun k => let v := e.slot k; if v.1 = 2 then some (j, k, v.2) else none

/-- Bind the streams of a command: the state, or what keeps it from running (none: it waits). -/
def State.bindStreams (s : State) (x : Sub) (l : List (Nat × Nat × Nat)) : Except (Option (BitVec 16 × BitVec 64)) State :=
  let me := some (x.sq, x.cid)
  match l.findSome? fun p => match streamOf s p.2.2 with
    | none => some (sInvalidField, faultDesc 1 2 p.1 0 (8 + 4 * p.2.1))
    | some (i, _) => (s.trk.run.get i).fault.map fun st => (st, (0 : BitVec 64)) with
  | some q => .error (some q)
  | none =>
    let idx := l.filterMap fun p => (streamOf s p.2.2).map (·.1)
    if idx.any fun i => (s.trk.run.get i).bound.isSome && (s.trk.run.get i).bound != me then .error none
    else .ok (idx.foldl (fun s i => s.onRun i fun r => { r with bound := me }) s)

/-- A row answers that its command runs on in later steps: result 1 of a body that has no status. -/
def goesOn (s : State) (units : Nat) : Res := ⟨s, none, 1, units, []⟩

/-- Phase 2 for a command that goes on. -/
def phased (x : Sub) (r : Res) : Res := if r.status.isNone ∧ r.result = 1 then running x r.s r.units else r

/-- Progress of an entry's command. -/
def State.progress (s : State) (x : Sub) : Nat × List (BitVec 64) :=
  match s.cmd? x with | some c => (c.prog, c.acc) | none => (0, [])

/-- Note progress. -/
def State.noteProg (s : State) (x : Sub) (n : Nat) (acc : List (BitVec 64)) : State := s.onCmd x fun c => { c with prog := n, acc := acc }

/-- DEGRADED_COMPLETED where a block's stile runs its work in another (R497). -/
def State.stepOk (s : State) (ch : Nat) (l : List StepBlk) : BitVec 16 :=
  if l.any fun k => s.thin (s.blockStile (s.planEntry ch k.entry) k) then sDegraded else sOk

/-! ## STEP_MEASURE (R313) -/

/-- The blocks of a measure from the one at hand on. `acc`: the sum, the non-finite count, the first location above its presence bit. -/
def State.measureLoop (s : State) (x : Sub) : List StepBlk → Nat → BitVec 64 → Nat → Option Nat → Res
  | [], n, sum, bad, loc =>
    let ch := x.chamber
    let l := s.planBlocks ch true
    let words := [if bad = 0 then sum else 0x7FF8000000000000, BitVec.ofNat 64 bad, BitVec.ofNat 64 (loc.getD 0)]
    if bad = 0 then ended (s.onStep ch fun t => { t with phase := .measured }) (s.stepOk ch l) sum n words
    else ended (s.rejectStep ch) sNonfinite 0x7FF8000000000000 n words
  | k :: rest, n, sum, bad, loc =>
    let ch := x.chamber
    let e := s.planEntry ch k.entry
    let v := e.slot e.grad
    let t := (s.slotType v).getD 0
    let cnt := match s.firstRegion e with | some p => p.2.coord.blockElems k.b | none => 0
    match s.slotRead v k cnt with
    | none => goesOn (s.noteProg x n [sum, BitVec.ofNat 64 bad, BitVec.ofNat 64 (match loc with | some q => 2 * q + 1 | none => 0)]) n
    | some (d, s) =>
      let nf := (d.filter fun p => !finiteBits (fmtOf t) p.1).length
      let sc := ((s.un ch).step.scale.toNat / 2 ^ 23 % 256 : Nat)
      let sum := BitVec.ofNat 64 (add64 sum.toNat (blockSquares t ((sc : Int) - 127) (d.map (·.1))))
      s.measureLoop x rest (n + 1) sum (bad + nf) (match loc with
        | some q => some q
        | none => if nf = 0 then none else some (s.blockEntry e k))

/-- STEP_MEASURE. -/
def bodyStepMeasure (x : Sub) (e : Ext) (s : State) : Res :=
  let ch := x.chamber
  if s.stepOut x [.begun] then fail s sNotInState
  else if e.readErr then fail s sMalformed
  else match s.bindStreams x (s.stepStreams ch false) with
  | .error none => wait s
  | .error (some (st, d)) => ⟨s, some st, d, 0, []⟩
  | .ok s =>
    let (n, acc) := s.progress x
    let loc := (acc.getD 2 0).toNat
    s.measureLoop x ((s.planBlocks ch true).drop n) n (acc.getD 0 0) (acc.getD 1 0).toNat (if loc % 2 = 1 then some (loc / 2) else none)

/-! ## STEP_NORM, STEP_ABORT (R314, R132) -/

/-- INVS: 2^-s (R314). -/
def StepRec.invs (t : StepRec) : BitVec 32 := re (flDiv (num 0x3F800000) (num t.scale))

/-- STEP_NORM. -/
def bodyStepNorm (x : Sub) (s : State) : Res :=
  let ch := x.chamber
  let norm : BitVec 32 := BitVec.ofNat 32 (fld x.a 31 0)
  let loss : BitVec 32 := BitVec.ofNat 32 (fld x.a 63 32)
  let l := s.planHead ch
  let top : BitVec 32 := BitVec.ofNat 32 (leAt l 20 4)
  let scale := BitVec.ofNat 64 (s.un ch).step.scale.toNat
  if isFin norm && decide (0x80000000 < norm.toNat) then badParam s 16
  else if s.stepOut x [.measured] then fail s sNotInState
  else if !isFin norm || !isFin loss then ⟨s.rejectStep ch, some sNonfinite, scale, 0, []⟩
  else
    let clip : BitVec 32 := if leAt l 1 1 / 2 % 2 = 1 ∧ flCmp (num norm) (num top) = some .gt then re (flDiv (num top) (num norm)) else 0x3F800000
    done (s.onStep ch fun t => { t with phase := .normed, norm := norm, loss := loss, clip := clip }) scale

/-- STEP_ABORT. -/
def bodyStepAbort (x : Sub) (s : State) : Res :=
  let ch := x.chamber
  if s.stepOut x [.begun, .measured, .normed] then fail s sNotInState
  else done (((s.freeStepCopies ch).onStep ch fun t => { t with phase := .idle, plan := none }).boundary ch) 0

/-! ## STEP_APPLY (R315, R316) -/

/-- What an element's run is given. -/
def State.stepEnv (s : State) (ch : Nat) (e : PlanEntry) (ins : List (Nat × List (Nat × Bool))) (m i j : Nat) : Env :=
  let t := (s.un ch).step
  let l := s.planHead ch
  let at_ (k : Nat) : BitVec 32 := match ins.find? fun p => p.1 == k with
    | some p => convertIn ((s.slotType (e.slot k)).getD 2) ((p.2.getD j (0, false)).1)
    | none => 0
  let f := s.firstRegion e
  { inp := (List.range 8).map at_
    k := ((List.range 16).map fun k => BitVec.ofNat 32 (leAt l (64 + 4 * k) 4)) ++ e.k
    invs := t.invs, clip := t.clip, seed := BitVec.ofNat 64 (leAt l 24 8), step := t.count
    tensor := match f with | some p => p.2.coord.tensor m | none => 0
    g := match f with | some p => globalIx p.2.coord (coordsAt p.2.coord i) | none => 0
    out := e.outs.map fun k => (s.slotType (e.slot k)).getD 2 }

/-- The outputs of a block: for each output slot its elements, poisoned where an input of the element was (R44). -/
def State.blockOut (s : State) (ch : Nat) (e : PlanEntry) (k : StepBlk) (n : Nat) (ins : List (Nat × List (Nat × Bool))) :
    List (Nat × List (Nat × Bool)) :=
  let p := s.progOf ch e
  let rows := (List.range n).map fun j =>
    ((s.stepEnv ch e ins k.m (4096 * k.b + j) j).outputs p, ins.any fun q => (q.2.getD j (0, false)).2)
  (s.outSlots ch e).map fun o => (o.2, rows.map fun r => (((r.1.getD o.1 none).getD 0), r.2))

/-- Write a block's outputs. -/
def State.blockWrite (s : State) (x : Sub) (e : PlanEntry) (k : StepBlk) (l : List (Nat × List (Nat × Bool))) : State :=
  l.foldl (fun s o =>
    match s.slotRegion (e.slot o.1), s.slotStream (e.slot o.1) with
    | some r, _ => s.regionWrite r k.m 2 (4096 * k.b) o.2
    | none, some (i, t) => if (s.cmd? x).isSome then s.giveStream i (o.2.flatMap fun p => (leBytes t.size p.1).map fun b => (b, p.2)) else s
    | none, none => s) s

/-- The end of a STEP_APPLY (R132, R316). `bad` are the blocks not written; the tier stall is a number the spec leaves open, 0 outside TIERED. -/
def State.applyEnd (s : State) (x : Sub) (n bad : Nat) : Res :=
  let ch := x.chamber
  let l := s.planHead ch
  let (f, s) := s.freeNat
  let ns := if (s.ch ch).offload = 2 then f % 2 ^ 42 else 0
  let t := (s.un ch).step
  let clean := t.clean + 1
  let grow := leAt l 4 4 ≠ 0 ∧ leAt l 4 4 ≤ clean.toNat
  let s := s.onStep ch fun t => { t with phase := .applied, count := t.count + 1 }
  let s := if bad ≠ 0 then s else s.onStep ch fun t => { t with
    clean := if grow then 0 else clean
    scale := if grow then BitVec.ofNat 32 (min (t.scale.toNat + 2 ^ 23) (leAt l 16 4)) else t.scale }
  let s := s.boundary ch
  let words := [BitVec.ofNat 64 (n - bad), BitVec.ofNat 64 bad, BitVec.ofNat 64 ns,
    BitVec.ofNat 64 (((s.un ch).step.count).toNat + b2n (s.un ch).step.guardLost * 2 ^ 63)]
  ended s (if bad ≠ 0 then sApplyNonfinite else s.stepOk ch (s.planBlocks ch false)) (BitVec.ofNat 64 (bad % 2 ^ 32 + ns / 1000 * 2 ^ 32)) n words

/-- The blocks of an apply from the one at hand on. `stop`: the block whose write-back is answered with ERR (R122). -/
def State.applyLoop (s : State) (x : Sub) (stop : Option Nat) : List StepBlk → Nat → Nat → Res
  | [], n, bad =>
    if (s.stepStreams x.chamber true).any fun p => match streamOf s p.2.2 with
      | some (i, t) => t.writeBack && !(s.trk.run.get i).unused.isEmpty
      | none => false
    then goesOn (s.noteProg x n [BitVec.ofNat 64 bad]) n
    else s.applyEnd x n bad
  | k :: rest, n, bad =>
    let ch := x.chamber
    let e := s.planEntry ch k.entry
    let cnt := match s.firstRegion e with | some p => p.2.coord.blockElems k.b | none => 0
    let ks := (insOf (s.progOf ch e)).eraseDups
    match s.slotsRead k cnt (ks.map e.slot) with
    | none => goesOn (s.noteProg x n [BitVec.ofNat 64 bad]) n
    | some (d, s) =>
      let s := s.useProg (s.blockStile e k) ch e.prog
      let outs := s.blockOut ch e k cnt (ks.zip d)
      let typ (o : Nat) : Nat := (s.slotType (e.slot o)).getD 2
      let finite := outs.all fun o => o.2.all fun p => finiteBits (fmtOf (typ o.1)) p.1
      if finite then
        if stop = some n then
          let junk := outs.map fun o => (o.1, (List.range o.2.length).map fun i =>
            ((Config.undefByte s.free (2 * i)).toNat + 256 * (Config.undefByte s.free (2 * i + 1)).toNat, false))
          let s := { (s.blockWrite x e k junk) with free := s.free + 1 }
          ended (s.stopApply ch) sMalformed 0 n
            [BitVec.ofNat 64 (n - bad), BitVec.ofNat 64 bad, 0,
             BitVec.ofNat 64 ((s.un ch).step.count.toNat + b2n (s.un ch).step.guardLost * 2 ^ 63)]
        else
          let s := s.blockWrite x e k outs
          if (s.cmd? x).isNone then wait s
          else (s.onStep ch fun t => { t with written := t.written + 1 }).applyLoop x stop rest (n + 1) bad
      else
        let s := if x.b ≠ 0 ∧ bad < fld x.c 31 0 then s.poke (x.b.toNat + 8 * bad) (leBytes 8 (s.blockEntry e k)) else s
        s.applyLoop x stop rest (n + 1) (bad + 1)

/-- STEP_APPLY. -/
def bodyStepApply (x : Sub) (e : Ext) (s : State) : Res :=
  let ch := x.chamber
  if s.stepOut x [.normed] then fail s sNotInState
  else if e.readErr then fail s sMalformed
  else match s.bindStreams x (s.stepStreams ch true) with
  | .error none => wait s
  | .error (some (st, d)) => ⟨s, some st, d, 0, []⟩
  | .ok s =>
    let (n, acc) := s.progress x
    let s := s.onStep ch fun t => if t.saved.isNone then { t with saved := some (t.count, t.scale, t.clean, t.skips) } else t
    let l := s.planBlocks ch false
    let (f, s) := s.freeNat
    s.applyLoop x (if e.writeErr then some (n + f % max (l.length - n) 1) else none) (l.drop n) n (acc.getD 0 0).toNat

/-! ## STEP_ROLLBACK (R320, R440) -/

/-- The step copies of a chamber, by stile. -/
def State.stepCopies (s : State) (ch : Nat) : List (Nat × Copy) :=
  s.stiles.entries.flatMap fun p => (p.2.copies.filter fun k => k.forStep == some ch).map fun k => (p.1, k)

/-- Write a step copy back. -/
def State.putBack (s : State) (k : Copy) : State :=
  let s := s.kWrite k.granule 0 k.data
  { s with mem := k.beats.foldl (fun m i => { m with poison := m.poison.set (s.granAddr k.granule / 128 + i) true }) s.mem }

/-- STEP_ROLLBACK. -/
def bodyStepRollback (x : Sub) (e : Ext) (s : State) : Res :=
  let ch := x.chamber
  let t := (s.un ch).step
  if s.stepOut x [.applied] || !(s.ch ch).guarded || t.guardLost || !t.epochOpen then fail s sNotInState
  else
    let l := s.stepCopies ch
    if e.writeErr then
      let (f, s) := s.freeNat
      let k := f % max l.length 1
      let s := (l.take k).foldl (fun s p => s.putBack p.2) s
      let s := match l[k]? with | some p => s.kUndef p.2.granule | none => s
      let gone := (l.take k).map (·.2.granule)
      let s := s.dropShares (fun _ => false) fun c => c.forStep == some ch && gone.contains c.granule
      ended s sMalformed 0 (f % (t.written + 1)) []
    else
      let s := l.foldl (fun s p => s.putBack p.2) s
      let deg := l.any fun p => s.thin p.1
      let s := s.freeStepCopies ch
      let s := s.onStep ch fun t => match t.saved with
        | some (c, sc, cl, sk) => { t with count := c, scale := sc, clean := cl, skips := sk, phase := .idle, saved := none, plan := none }
        | none => { t with phase := .idle, plan := none }
      ended s (if deg then sDegraded else sOk) (BitVec.ofNat 64 t.written) t.written []

/-! ## TIER_PLACE (R323, R441, R443) -/

/-- Move granule `k` of region `i` to its place in the slow tier or in host memory: a capture write of the granule. -/
def State.tierMove (s : State) (i : Nat) (toSlow : Bool) (k : Nat) (ok : Bool) : State :=
  match s.region i with
  | none => s
  | some r =>
    let g := r.base + k
    let (d, beats) := s.granRead g
    let (s, _, _) := s.track g true
    let s := s.setGran g gDirty
    let a := if toSlow then r.slowBase + k * 65536 else g * 65536
    if ok then
      let s := s.poke a d
      let s := { s with mem := beats.foldl (fun m b => { m with poison := m.poison.set (a / 128 + b) true }) s.mem }
      s.onRegion i fun r => { r with slow := r.slow.set k toSlow }
    else s.undefBuf a 65536

/-- TIER_PLACE. -/
def bodyTierPlace (x : Sub) (e : Ext) (s : State) : Res :=
  let i := x.handle.toNat
  let toSlow := bit x.a 0
  match s.region i with
  | none => badParam s 4
  | some r =>
    let left := (List.range r.granules).filter fun k => r.slow.get k != toSlow
    let hit := s.regions.entries.any fun p => match p.2 with
      | some q => p.1 != i && !q.resident && meets x.b.toNat (x.b.toNat + r.bytes) q.slowBase (q.slowBase + q.bytes)
      | none => false
    if (s.ch x.chamber).offload ≠ 2 then fail s sNotInState
    else if left = [] then ended s sOk 0 0 []
    else if toSlow && (hit || !r.resident && r.slowBase != x.b.toNat) then badParam s 24
    else if s.regionBusy r then wait s
    else
      let s := if toSlow then s.onRegion i fun r => { r with slowBase := x.b.toNat } else s
      if e.writeErr then
        let (f, s) := s.freeNat
        let n := f % left.length
        let s := (left.take n).foldl (fun s k => s.tierMove i toSlow k true) s
        ended (s.tierMove i toSlow (left.getD n 0) false) sMalformed 0 n []
      else ended (left.foldl (fun s k => s.tierMove i toSlow k true) s) sOk (BitVec.ofNat 64 left.length) left.length []

/-! ## CONDENSE (R324) -/

/-- The granules of a destination that elements [i, i + n) of member `m` touch. -/
def Region.touched (r : Region) (m i n : Nat) : List Nat := ((List.range n).map fun k => (r.at_ m (i + k)).1).eraseDups

/-- The source granules of a CONDENSE from the one at hand on. -/
def State.condenseLoop (s : State) (src dst : Region) (stop : Option Nat) : List (Nat × Nat) → Nat → List Nat → Res
  | [], n, gs =>
    let deg := (List.range src.granules).any fun k => match s.place (src.base + k) with | some p => s.thin p.1 | none => false
    ended s (if deg then sDegraded else sOk) (BitVec.ofNat 64 gs.length) n []
  | (m, leaf) :: rest, n, gs =>
    let per := perGranule src.coord.elemType
    let cnt := src.coord.leafElems leaf
    let f := fmtOf dst.coord.elemType
    let out := (s.regionRead src m (leaf * per) cnt).map fun p => (packOut f 0 0 (num (convertIn src.coord.elemType p.1)), p.2)
    if out.any fun p => !finiteBits f p.1 then ended s sNonfinite (BitVec.ofNat 64 gs.length) n []
    else if stop = some n then
      let s := (dst.touched m (leaf * per) cnt).foldl State.kUndef s
      ended s sMalformed (BitVec.ofNat 64 gs.length) n []
    else
      (s.regionWrite dst m 8 (leaf * per) out).condenseLoop src dst stop rest (n + 1) ((gs ++ dst.touched m (leaf * per) cnt).eraseDups)

/-- CONDENSE. -/
def bodyCondense (x : Sub) (e : Ext) (s : State) : Res :=
  match s.region x.handle.toNat, s.region (fld x.a 15 0) with
  | some src, some dst =>
    if dst.coord.elemType ≠ fld x.a 19 16 then badParam s 18
    else if dst.coord.members ≠ src.coord.members ∨ dst.coord.elems < src.coord.elems then badParam s 16
    else
      let (f, s) := s.freeNat
      s.condenseLoop src dst (if e.writeErr then some (f % max src.leafList.length 1) else none) src.leafList 0 []
  | _, _ => badParam s 4

/-! ## The freeze (R57, R58) -/

/-- FREEZE_ACK: FRZ_HOLD_ACK rises. The asker flips, then FRZ_HOLD falls; while it is low the rise is logged and ignored. -/
def execFreezeAck (s : State) : Host.Outcome State Fault Refusal :=
  .next (if s.boot.resetHeld ≠ 0 ∨ s.frz.ack = true then s
    else
      let who := s.frz.asker
      let held := s.frz.hold
      let s := { s with frz := { s.frz with ack := true } }
      if !held then s.logPartner sMalformed 0 0 none []
      else
        let s := s.lowerFreeze
        match who with
        | some none => s.capFreezeAck
        | some (some ch) => s.stepFlip ch
        | none => s)

/-- FREEZE_ACK_FALL: FRZ_HOLD_ACK falls, and the next asker may raise FRZ_HOLD. -/
def execFreezeAckFall (s : State) : Host.Outcome State Fault Refusal :=
  .next { s with frz := { s.frz with ack := false } }.nextFreeze

/-- FREEZE_TIMEOUT: FRZ_HOLD falls and its asker ends with PARTNER_TIMEOUT, nothing flipped; a partner fault (R67, R476). -/
def execFreezeTimeout (s : State) : Host.Outcome State Fault Refusal :=
  .next (if !s.frz.hold then s
    else
      let who := s.frz.asker
      let s := s.lowerFreeze.logPartner sTimeout 0 0 none []
      match who with
      | some none => s.capFreezeTimeout
      | some (some ch) =>
        (match (s.un ch).step.beginSub with
        | some x => conclude x (fail (s.onStep ch fun t => { t with beginSub := none }) sTimeout)
        | none => s)
      | none => s)

/-! ## A cell that fails (R80, R322, R505) -/

/-- A cell index loses its cell: the spare takes the index where it is free and good, else the index is disabled and reason 0 is raised. -/
def State.cellOut (s : State) (st cell : Nat) : State :=
  let t := s.st st
  let s := s.onCell st cell fun _ => .zero
  if t.spareAt = none ∧ !t.spareBad then s.onSt st fun t => { t with spareAt := some cell }
  else (s.onSt st fun t => { t with
    spareBad := t.spareBad || t.spareAt == some cell, spareAt := if t.spareAt = some cell then none else t.spareAt
    disabled := t.disabled ++ [cell] }).raise 0

/-- CELL_SELF_CHECK_FAIL (R322): the step block runs again on another cell; the cell is lost. -/
def execCellSelfCheckFail (st cell : Nat) (s : State) : Host.Outcome State Fault Refusal :=
  .next (if s.cellFree st cell then s.cellOut st cell else s)

/-! ## Rows -/

/-- PROGRAM_LOAD. -/
def execProgramLoad (x : Sub) (e : Ext) (s : State) : Host.Outcome State Fault Refusal :=
  .next (s.runOp { x with opcode := 0x60 } [] (bodyProgramLoad { x with opcode := 0x60 } e))

/-- STEP_BEGIN. -/
def execStepBegin (x : Sub) (e : Ext) (s : State) : Host.Outcome State Fault Refusal :=
  .next (s.runOp { x with opcode := 0x61 } [] (bodyStepBegin { x with opcode := 0x61 } e))

/-- STEP_MEASURE. -/
def execStepMeasure (x : Sub) (e : Ext) (s : State) : Host.Outcome State Fault Refusal :=
  let x := { x with opcode := 0x62 }
  .next (s.runOp x [] fun s => phased x (bodyStepMeasure x e s))

/-- STEP_NORM. -/
def execStepNorm (x : Sub) (_e : Ext) (s : State) : Host.Outcome State Fault Refusal :=
  .next (s.runOp { x with opcode := 0x63 } [] (bodyStepNorm { x with opcode := 0x63 }))

/-- STEP_APPLY. -/
def execStepApply (x : Sub) (e : Ext) (s : State) : Host.Outcome State Fault Refusal :=
  let x := { x with opcode := 0x64 }
  .next (s.runOp x [] fun s => phased x (bodyStepApply x e s))

/-- STEP_ABORT. -/
def execStepAbort (x : Sub) (_e : Ext) (s : State) : Host.Outcome State Fault Refusal :=
  .next (s.runOp { x with opcode := 0x65 } [] (bodyStepAbort { x with opcode := 0x65 }))

/-- STEP_ROLLBACK. -/
def execStepRollback (x : Sub) (e : Ext) (s : State) : Host.Outcome State Fault Refusal :=
  .next (s.runOp { x with opcode := 0x66 } [] (bodyStepRollback { x with opcode := 0x66 } e))

/-- TIER_PLACE. -/
def execTierPlace (x : Sub) (e : Ext) (s : State) : Host.Outcome State Fault Refusal :=
  .next (s.runOp { x with opcode := 0x67 } [] (bodyTierPlace { x with opcode := 0x67 } e))

/-- CONDENSE. -/
def execCondense (x : Sub) (e : Ext) (s : State) : Host.Outcome State Fault Refusal :=
  .next (s.runOp { x with opcode := 0x27 } [] (bodyCondense { x with opcode := 0x27 } e))

end Sys2Proof.Machine
end

