-- ==== Sys2Proof/Machine/Boot.lean ====
section
/-! DEFINITION. Start-up: resets (R65, R66, R520), fuses and repair (R76, R80, R456-R458), the firmware image (R77, R78, R85-R87), wakes of
domains up to stage READY (R75, R471, R472). -/

namespace Sys2Proof.Machine

/-! ## Fuses (R62, R456, R457) -/

/-- The number of 1 bits of a row. -/
def ones (v : BitVec 32) : Nat := ((List.range 32).filter fun i => bit v i).length

/-- A fuse row as the cold start read it (R476): with FUSE_ERR after three attempts a lifecycle or rollback row reads as all ones, a repair row
as absent; what a key row reads as is open (assumption log 12), its key matches nothing. -/
def Boot.row (b : Boot) (n : Nat) : BitVec 32 :=
  if !b.fuseErr.contains n then b.fuses.get n
  else if n < 16 ∨ 0x30 ≤ n ∧ n < 0x40 then 0xFFFFFFFF
  else if 0x40 ≤ n then 0
  else BitVec.ofNat 32 (Config.freeNat n)

/-- Whether a lifecycle row counts as burnt (R62). -/
def Boot.burnt (b : Boot) (row : Nat) : Bool := decide (24 ≤ ones (b.row row))

/-- The rows `lo` to `lo + n - 1`, four bytes each. -/
def Boot.rows (b : Boot) (lo n : Nat) : List Byte := (List.range n).flatMap fun i => leBytes 4 (b.row (lo + i)).toNat

/-- Whether one of the rows `lo` to `lo + n - 1`, or the revocation row, could not be read. -/
def Boot.unread (b : Boot) (lo n : Nat) : Bool := b.fuseErr.any fun r => decide (lo ≤ r ∧ r < lo + n) || r == 0x28

/-- The lifecycle state of the commit rows (R456). -/
def Boot.lifeCode (b : Boot) : Nat := ((List.range 6).reverse.find? fun k => k != 0 && b.burnt (2 * k + 1)).getD 0

/-- The target of a pending transition (R457). -/
def Boot.pendingCode (b : Boot) : Option Nat :=
  (List.range 6).reverse.find? fun k => decide (b.lifeCode < k) && b.burnt (2 * k) && !b.burnt (2 * k + 1)

/-- Program a row in full. -/
def State.burnRow (s : State) (row : Nat) : State :=
  { s with boot := { s.boot with fuses := s.boot.fuses.set row 0xFFFFFFFF } }

/-- The anti-rollback counter (R77). -/
def Boot.rollback (b : Boot) : Nat := ((List.range 16).map fun i => ones (b.row (0x30 + i))).sum

/-- Advance the anti-rollback counter to `n`, row by row (R87). -/
def State.burnRollback (s : State) (n : Nat) : State :=
  let row (i : Nat) : BitVec 32 := BitVec.ofNat 32 (2 ^ min 32 (n - 32 * i) - 1)
  let fuses := (List.range 16).foldl (fun f i => f.set (0x30 + i) (f.get (0x30 + i) ||| row i)) s.boot.fuses
  let s := { s with boot := { s.boot with fuses := fuses } }
  { s with boot := { s.boot with fuseCount := s.boot.rollback } }

/-- Record a lifecycle (1) or lamp (2) change: SG2, the log, cause 7 (R460, R67). -/
def State.noteChange (s : State) (kind old new : Nat) (atBoot : Bool) : State :=
  ((s.extendSg 2 ([BitVec.ofNat 8 kind, BitVec.ofNat 8 old, BitVec.ofNat 8 new, if atBoot then 1 else 0] ++ zeros 4)).log eLifeLamp 1 0 0 none
    [BitVec.ofNat 8 kind, BitVec.ofNat 8 old, BitVec.ofNat 8 new]).cause 7

/-- A burn that failed: counted, a FATAL entry (R455, R458, R480). -/
def State.burnFailed (s : State) (row : Nat) (commit : Bool) : State :=
  let s := if commit then { s with life := { s.life with commitFails := satAdd 8 s.life.commitFails 1 } } else s
  s.log sNotInState 4 10 0 none (leBytes 2 row)

/-- Resolve a pending transition at cold start (R458). -/
def State.resolveLife (s : State) (burn : Burn) : State :=
  match s.boot.pendingCode with
  | none => s
  | some k =>
    if burn.commitOk then
      let old := s.life.life.code
      let s := s.burnRow (2 * k + 1)
      let s := { s with life := { s.life with life := (Life.ofCode k).getD .manuf, pending := none } }
      s.noteChange 1 old k true
    else ({ s with life := { s.life with pending := Life.ofCode k } }).burnFailed (2 * k + 1) true

/-- The cell repair of a stile's fuse row (R80). -/
def State.repairStile (s : State) (st : Nat) : State :=
  let r := s.boot.row (0x40 + st)
  if fld r 31 13 ≠ 0 ∨ !bit r 4 then s
  else
    let s := s.onSt st fun t => { t with spareAt := some (fld r 3 0) }
    if bit r 12 then (s.onSt st fun t => { t with disabled := [fld r 11 8] }).raise 0 else s

/-! ## Wakes (R472) -/

/-- The cells of a group: indexes 0-7 or 8-15. -/
def groupCells (d : Nat) : List Nat := (List.range 8).map fun i => i + (if d % 3 = 2 then 8 else 0)

/-- A domain that has become usable: a mover starts a new bitmap generation, all DIRTY (R81, R176), and the tags dropped in
its stile return to their pool (R66); a cell group starts empty. -/
def State.domainUp (s : State) (d : Nat) : State :=
  if 96 ≤ d then s
  else if d % 3 = 0 then (s.onSt (d / 3) fun t => { t with
    moverOn := !t.removed, gen := t.gen + 1, gran := .const ⟨true, false⟩, rowFlip := .const 0, copies := [] }) |> fun s => { s with
      tags := s.tags.filter fun u => !(u.dropped && match u.tag with | .mreq st _ _ => st == d / 3 | .fab _ _ _ => false) }
  else (groupCells d).foldl (fun s c => s.onCell (d / 3) c fun _ => .zero) s

/-- Switch a domain off: a mover's tracking and a cell group's directories and caches are lost (R46, R446). -/
def State.domainOff (s : State) (d : Nat) : State :=
  let s := if d < 96 ∧ d % 3 = 0 ∧ (s.st (d / 3)).moverOn then s.loseMover (d / 3) else s
  let s := if d < 96 ∧ d % 3 ≠ 0 then (groupCells d).foldl (fun s c => s.onCell (d / 3) c fun _ => .zero) s else s
  let s := if d = 95 + s.svc.standby then { s with svc := { s.svc with standbyOk := false } } else s
  { s with pwr := { s.pwr with on := setBit s.pwr.on d false, ramping := s.pwr.ramping.filter (· != d), queue := s.pwr.queue.filter (· != d) } }

/-- Chamber 0's window 0 covers every valid interleave entry once the table is locked (R81). -/
def State.zeroWindow (s : State) : State :=
  let es := ((List.range 16).map s.port.ilv.get).filter (·.valid)
  match es with
  | [] => s
  | e :: _ =>
    let lo := es.foldl (fun m e => min m e.base.toNat) e.base.toNat
    let hi := es.foldl (fun m e => max m (e.base.toNat + 2 ^ e.log2Size.toNat)) 0
    if s.port.ilvLocked then s.onCh 0 fun c => { c with wins := c.wins.set 0 ⟨true, lo, hi⟩ } else s

/-- Stage READY (step 12 of R75): power state RUN, a new LCY_NONCE (R454). -/
def State.becomeReady (s : State) : State :=
  let (n, s) := s.draw
  ({ s with
    boot := { s.boot with stage := .ready }
    pwr := { s.pwr with state := .run }
    life := { s.life with nonce := n } }).zeroWindow

/-! ## The image (R77-R79, R85) -/

/-- Whether both key-hash row sets read zero. -/
def Boot.noKeys (b : Boot) : Bool := !b.unread 0x10 24 && (List.range 24).all fun i => b.row (0x10 + i) == 0

/-- The key an image is signed with: 1 key A, 2 key B, 3 unsigned; none matches (R76, R77). -/
def State.imageKeyOf (s : State) (img : Image) : Option Nat :=
  let h := sha 1 img.pubKey
  if s.life.life = .manuf ∧ s.boot.noKeys then some 3
  else if h = s.boot.rows 0x10 12 ∧ !s.boot.unread 0x10 12 ∧ !bit (s.boot.row 0x28) 0 then some 1
  else if h = s.boot.rows 0x1C 12 ∧ !s.boot.unread 0x1C 12 ∧ !bit (s.boot.row 0x28) 1 then some 2
  else none

/-- The checks of R77 on an image at an address: the key, or the error code of Table 5 of chapter 03. -/
def State.checkImage (s : State) (addr len : Nat) (img : Image) : Except Nat Nat :=
  if addr % 4096 ≠ 0 ∨ len % 4096 ≠ 0 ∨ len < 65536 ∨ 8 * 2 ^ 20 < len then .error 1
  else if img.fetchErr then .error 5
  else if !img.headerOk then .error 1
  else match s.imageKeyOf img with
  | none => .error 2
  | some 3 => .ok 3
  | some k =>
    if !Config.ecdsaP384 img.pubKey img.digest img.sigR img.sigS then .error 3
    else if img.rollback < s.boot.rollback ∨ 512 < img.rollback then .error 4
    else .ok k

/-- Reject an image (R78). -/
def State.rejectImage (s : State) (code : Nat) : State :=
  let s := s.logStatus (if code = 1 ∨ code = 5 then sMalformed else sAuthFailed) 0 0 none [BitVec.ofNat 8 code]
  { s with boot := { s.boot with stage := .waitImage, error := BitVec.ofNat 8 code } }

/-- The running image. -/
def State.runImage (s : State) (img : Image) (key : Nat) : State :=
  { s with boot := { s.boot with
      error := 0, imageKey := BitVec.ofNat 2 key, running := img.version, imageIndex := img.rollback, runKey := img.pubKey,
      compat := img.liveCompat, sg1Digest := some img.digest } }

/-- Measure an accepted image into SG1 and SG3 (R79). -/
def State.measureImage (s : State) (img : Image) (key : Nat) : State :=
  let rows := if key = 1 then s.boot.rows 0x10 12 else if key = 2 then s.boot.rows 0x1C 12 else zeros 48
  (s.extendSg 1 (leBytes 48 img.digest.toNat)).extendSg 3 (rows ++ leBytes 8 img.rollback)

/-- Check an image and take it: one with the digest measured last skips the signature and is not measured again (R85). -/
def State.takeImage (s : State) (img : Image) (onOk : State → State) : State :=
  let addr := s.boot.fwAddr.toNat
  let len := s.boot.fwLen.toNat
  if s.boot.sg1Digest = some img.digest ∧ !img.fetchErr then onOk (s.runImage img s.boot.imageKey.toNat)
  else match s.checkImage addr len img with
  | .error c => s.rejectImage c
  | .ok key => onOk ((s.measureImage img key).runImage img key)

/-- Step 9 of R75: CC1 to CC3 are woken. -/
def State.wakeCores (s : State) : State :=
  ({ s with boot := { s.boot with stage := .wake } }).wantDoms [96, 97, 98]

/-! ## The wake's progress (R75, R471) -/

/-- A wake from PASS or OFF cannot run the image: the block is in PASS (R471). -/
def State.wakeRefused (s : State) (was : State) : State :=
  if s.boot.stage = .waitImage then
    let s := (List.range 115).foldl (fun s d => if d = 111 then s else s.domainOff d) s
    { s with pwr := { s.pwr with state := .pass, wakeError := true, waking := false, queue := [] } }
  else { s with boot := { s.boot with stage := was.boot.stage } }

/-- Whether every built domain is usable. -/
def State.allUp (s : State) : Bool := s.allDoms.all s.dom

/-- What warm reset keeps of the units beside the queues: capture records (R522). -/
def ChUnit.warmed (u : ChUnit) : ChUnit := { ChUnit.zero with cap := { CapRegs.zero with stats := u.cap.stats } }

/-- Parked state that cannot be trusted is that of R85 after a warm reset, with the key slots kept (R471). -/
def State.dropParked (s : State) : State :=
  ({ s with
    chambers := (SMap.const Chamber.zero).set 0 .zeroth, units := s.units.mapKeys fun _ u => u.warmed, regions := .const none
    trigs := .const .zero, clamps := [], feat := .reset
    sto := { s.sto with ctrls := .const .zero, mount := .const none } }).zeroWindow

/-- RUN and LEAN by the policy (Table 9 of chapter 17): LEAN while the target is below RUN and the idle time is not 0, back in RUN with every domain
asked for when the target is RUN, or LEAN with idle time 0. -/
def State.policyMoves (s : State) : State :=
  let p := s.pwr
  if p.state = .run ∧ p.target ≠ .run ∧ p.idleMs ≠ 0 then { s with pwr := { p with state := .lean } }
  else if p.state = .lean ∧ (p.target = .run ∨ p.target = .lean ∧ p.idleMs = 0) then
    ({ s with pwr := { p with state := .run } }).wantDoms s.allDoms
  else s

/-- The end of a wake (steps 4 to 7 of R471): the park record's digest, the stores, the target state. -/
def State.wakeDone (s : State) : State :=
  let bad := match s.pwr.park with
    | some (n, d) => BitVec.ofNat 384 (leNat (sha 1 (s.peek s.pwr.parkBase.toNat n))) != d
    | none => false
  let s := if bad then (s.log sCheckMismatch 4 0 0 none []).dropParked
    else s.pwr.parkStores.foldl (fun s p => s.onMedia p.1 Media.remount) s.withParked
  ({ s with pwr := { s.pwr with
      state := if s.pwr.target = Power.lean then Power.lean else Power.run
      waking := false, wakeError := false, parkError := bad, park := none, parkStores := [] } }).policyMoves

/-- What a usable domain lets go on: the image, the remaining wakes, the stages. -/
def State.wakeOn (s : State) (img : Image) : State :=
  let s := if s.boot.stage = .verify ∧ s.dom 111 ∧ s.dom 103 then s.takeImage img State.wakeCores else s
  let s := if s.boot.stage = .wake ∧ s.dom 96 ∧ s.dom 97 ∧ s.dom 98 then s.wantDoms s.allDoms else s
  let s := if s.boot.stage = .wake ∧ s.pwr.queue.isEmpty ∧ s.dom 96 ∧ s.dom 97 ∧ s.dom 98 then
      { s with boot := { s.boot with stage := .init } } else s
  if s.boot.stage = .init ∧ s.allUp then s.becomeReady else s

/-- WAKE_START (R472, R473): the first queued wake, once the bucket holds its cost. The row is that moment: with a rate above 0 the missing
tokens have come (assumption log 4). -/
def execWakeStart (s : State) : Host.Outcome State Fault Refusal :=
  .next (match s.pwr.queue with
    | [] => s
    | d :: r =>
      let c := domCost d
      if s.port.supplyWarn || s.pwr.scanned || (s.port.wakeBudget == 0 && decide (s.pwr.tokens < c)) || !s.boot.kxRail then s
      else { s with pwr := { s.pwr with
        queue := r, on := setBit s.pwr.on d true, ramping := s.pwr.ramping ++ [d], tokens := max s.pwr.tokens c - c
        wakes := satAdd 32 s.pwr.wakes 1 } })

/-! ## Resets (R65, R66, R520) -/

/-- Step 5 of R75: with VDD_KX in range FABM0 and DGST are asked for, and the image is awaited. -/
def State.awaitRail (s : State) : State :=
  if s.boot.stage = .fuses ∧ s.boot.kxRail then ({ s with boot := { s.boot with stage := .waitImage } }).wantDoms [111, 103] else s

/-- Hold requests are released: the movers are gone (R46). -/
def State.freeHeld (s : State) : State := s.stileList.foldl State.releaseAll s

/-- KX_COLD_RST_N asserted: everything is reset but the pass-through; what lies outside the block, its inputs and the model's own counters stay. -/
def State.coldAssert (s : State) : State :=
  let s := s.freeHeld
  let r := State.reset
  { r with
    build := s.build, fabPorts := s.fabPorts, pending := s.pending, timeIn := s.timeIn, free := s.free, mem := s.mem
    port := { r.port with supplyWarn := s.port.supplyWarn, wakeBudget := s.port.wakeBudget, evtLevel := s.port.evtLevel }
    frz := { r.frz with ack := s.frz.ack }
    boot := { r.boot with resetHeld := 2, fuses := s.boot.fuses }
    life := { r.life with tapIr := s.life.tapIr }
    stiles := s.stiles.mapKeys fun _ t =>
      { Stile.zero with inReset := t.inReset, passing := t.passing, lastMreq := t.lastMreq, lastHrsp := t.lastHrsp }
    drbg := { r.drbg with draws := s.drbg.draws, entFail := s.drbg.entFail }
    chain := { r.chain with lock := s.chain.lock }
    sto := { r.sto with media := s.sto.media } }

/-- COLD_RESET_ASSERT (R65). -/
def execColdResetAssert (s : State) : Host.Outcome State Fault Refusal := .next s.coldAssert

/-- VDD_KA_LOSS (R63): as KX_COLD_RST_N. -/
def execVddKaLoss (s : State) : Host.Outcome State Fault Refusal := .next s.coldAssert

/-- The release of KX_COLD_RST_N (steps 1 to 6 of R75): fuses, lifecycle, repair, SG0, then the wait for the image. -/
def State.coldStart (s : State) (burn : Burn) (fuseErr : List Nat) : State :=
  let s := { s with boot := { s.boot with fuseErr := fuseErr } }
  let s := fuseErr.foldl (fun (s : State) r => s.log sNotInState 4 10 r none (leBytes 2 r)) s
  let rows := s.boot.rows 0 0x40
  let s := { s with boot := { s.boot with resetHeld := 0, stage := .fuses, fuseCount := s.boot.rollback } }
  let s := { s with life := { s.life with life := (Life.ofCode s.boot.lifeCode).getD .manuf, pending := none } }
  let s := s.resolveLife burn
  let s := s.stileList.foldl State.repairStile s
  let s := (s.extendSg 0 (leBytes 48 Config.romDigest.toNat)).extendSg 0 (sha 1 rows)
  if s.life.life = .spent then { s with boot := { s.boot with stage := .passOnly } } else s.awaitRail

/-- COLD_RESET (R75, R76): up to the wait for the rail, for the image, or PASS_ONLY; FW_LOAD and the wakes lead on to READY. -/
def execColdReset (burn : Burn) (fuseErr : List Nat) (s : State) : Host.Outcome State Fault Refusal :=
  .next (if s.boot.resetHeld = 2 ∨ s.boot.stage = .rom ∧ s.boot.resetHeld = 0 then s.coldStart burn fuseErr else s)

/-- Captures end with a record and no completion (R66, R522). -/
def State.capReset (s : State) : State :=
  let s := s.cap.waits.foldl (fun s w => s.waitEnd w.run sAborted true) s
  s.capFail sAborted true

/-- The block after KX_WARM_RST_N asserts (R65, R66, R520 and what each chapter keeps). -/
def State.warmAssert (s : State) : State :=
  let s := s.capReset.freeHeld
  let r := State.reset
  { r with
    build := s.build, fabPorts := s.fabPorts, pending := s.pending, timeIn := s.timeIn, timeUsed := s.timeUsed, timeBack := s.timeBack
    free := s.free, mem := s.mem
    port := { s.port with irqRoute := r.port.irqRoute, irqStatus := 0, irqMask := r.port.irqMask, evtCount := .const 0 }
    frz := { r.frz with ack := s.frz.ack }
    boot := { s.boot with stage := .rom, error := 0, imageKey := s.boot.imageKey, staged := none, resetHeld := 1, compat := false }
    life := s.life
    pwr := { r.pwr with
      scanned := s.pwr.scanned, parkBase := s.pwr.parkBase, parkSize := s.pwr.parkSize, tokens := s.pwr.tokens
      on := s.pwr.on &&& (1#128 <<< 111 ||| 1#128 <<< 103) }
    units := s.units.mapKeys fun _ u => u.warmed
    stiles := s.stiles.mapKeys fun _ t => { Stile.zero with
      inReset := t.inReset, removed := t.removed, gen := t.gen, unknownOp := t.unknownOp, passing := t.passing, spareAt := t.spareAt
      spareBad := t.spareBad, disabled := t.disabled, rebateLost := t.rebateLost, lastMreq := t.lastMreq, lastHrsp := t.lastHrsp }
    ciph := { r.ciph with failed := s.ciph.failed }
    drbg := { s.drbg with fails := 0 }
    keys := s.keys.mapKeys fun _ k => { k with reserved := 0 }
    trk := { r.trk with
      stale := s.trk.stale, discard := s.trk.discard, staleBy := s.trk.staleBy
      stm := s.trk.stm.mapKeys fun _ t => { Stm.zero with lost := t.lost } }
    sync := { r.sync with
      retries := s.sync.retries, ackUs := s.sync.ackUs, objs := s.sync.objs.mapKeys fun _ o => { SyncObj.zero with retired := o.retired } }
    chain := { r.chain with
      dclMax := s.chain.dclMax, autoReenum := s.chain.autoReenum, candidate := s.chain.candidate, lossMs := s.chain.lossMs
      enumMs := s.chain.enumMs, trigOut := s.chain.trigOut, trigIn := s.chain.trigIn, address := s.chain.address, role := s.chain.role
      lock := s.chain.lock }
    chainW := { r.chainW with forwardQ := s.chainW.forwardQ, lastTx := s.chainW.lastTx }
    dgt := { r.dgt with
      failed := s.dgt.failed, hslots := s.dgt.hslots, sg := s.dgt.sg, sgCount := s.dgt.sgCount, portRefused := s.dgt.portRefused
      portParity := s.dgt.portParity, lastKeyErr := s.dgt.lastKeyErr }
    sto := { r.sto with media := s.sto.media }
    sump := { s.sump with
      wm := s.sump.wm, ringCount := 0, sumpCount := 0, peak := 0, ringCross := false, sumpCross := false, spillBase := 0, spillSize := 0 }
    svc := { r.svc with failovers := s.svc.failovers, pauseUs := s.svc.pauseUs, reasons := s.svc.reasons }
    jig := { r.jig with
      sweep := s.jig.sweep, sweeps := s.jig.sweeps, failures := s.jig.failures, transients := s.jig.transients, lastFail := s.jig.lastFail
      units := s.jig.units, run := s.jig.run, deferAll := s.jig.deferAll, yieldAll := s.jig.yieldAll } }

/-- WARM_RESET_ASSERT (R66). In PASS_ONLY and while KX_COLD_RST_N is asserted it changes nothing. -/
def execWarmResetAssert (s : State) : Host.Outcome State Fault Refusal :=
  .next (if s.boot.resetHeld = 2 ∨ s.boot.stage = .passOnly then s else s.warmAssert)

/-- The release of KX_WARM_RST_N (R85): the image is fetched again, at once where FABM0 and DGST are on, else when they are usable. -/
def State.warmStart (s : State) (img : Image) : State :=
  let s := { s with boot := { s.boot with resetHeld := 0, stage := .verify } }
  if s.pwr.scanned then s
  else if s.dom 111 && s.dom 103 then s.takeImage img State.wakeCores
  else s.wantDoms [111, 103]

/-- WARM_RESET (R85). -/
def execWarmReset (img : Image) (s : State) : Host.Outcome State Fault Refusal :=
  .next (if s.boot.resetHeld = 1 then s.warmStart img else s)

/-- GLB_FW_CTL.load (R77, R78): in WAIT_IMAGE the posted image is checked, at once where FABM0 and DGST are usable. After a refused wake it goes on
with the wake (R471). -/
def State.loadFirmware (s : State) (img : Image) : State :=
  if s.boot.stage ≠ .waitImage ∨ s.boot.resetHeld ≠ 0 then s
  else if s.pwr.wakeError then
    (s.takeImage img fun t => { t with boot := { t.boot with stage := .ready } }.beginWake)
  else
    let s := { s with boot := { s.boot with stage := .verify } }
    if s.dom 111 && s.dom 103 then s.takeImage img State.wakeCores else s

/-- FW_LOAD (R77). -/
def execFwLoad (a : Access) (img : Image) (s : State) : Host.Outcome State Fault Refusal :=
  .next (s.globalWrite a 0x50 fun s => s.loadFirmware img)

/-- KX_RAIL_DETECT (R63, R75): a start-up or a wake that waits for VDD_KX goes on. -/
def State.railUp (s : State) : State :=
  let s := { s with boot := { s.boot with kxRail := true } }
  if s.pwr.waking then s.wantDoms s.allDoms else s.awaitRail

/-- VDD_KX out of range: the rail bit clears and every switched domain is gone (R63). -/
def State.railDown (s : State) : State :=
  let s := (List.range 115).foldl State.domainOff s
  { s with boot := { s.boot with kxRail := false } }

/-- KX_RAIL_DETECT (R75). -/
def execKxRailDetect (up : Bool) (s : State) : Host.Outcome State Fault Refusal :=
  .next (if s.boot.resetHeld = 2 then s else if up then s.railUp else s.railDown)

/-- VDD_KX_REMOVAL (R63). -/
def execVddKxRemoval (s : State) : Host.Outcome State Fault Refusal :=
  .next (if s.boot.resetHeld = 2 ∨ s.pwr.state ≠ .off then s else s.railDown)

/-! ## Firmware commands (R86, R87) -/

/-- FW_STAGE (R86): its result is the error code of Table 5 of chapter 03. -/
def bodyFwStage (x : Sub) (e : Ext) (img : Image) (s : State) : Res :=
  let len := fld x.c 31 0
  if e.readErr ∨ img.fetchErr then fail s sMalformed
  else match s.checkImage x.b.toNat len img with
  | .error 1 => badParam s (if len % 4096 ≠ 0 ∨ len < 65536 ∨ 8 * 2 ^ 20 < len then 32 else 24)
  | .error c => ended s sAuthFailed (BitVec.ofNat 64 c) 0 []
  | .ok _ => ended { s with boot := { s.boot with staged := some ⟨x.b, BitVec.ofNat 32 len, img⟩ } } sOk 0 (len / 4096) []

/-- Whether a chamber's work keeps firmware from being activated (R86). -/
def State.activeWork (s : State) : Bool :=
  s.cap.run.isSome || (s.cmds.any fun c => c.phase == 2 && [0x40, 0x41, 0x62, 0x64, 0x71, 0x72].contains c.sub.opcode.toNat) ||
    s.units.entries.any fun p => p.2.step.phase == .measured || p.2.step.phase == .normed || p.2.site.emitOpen || p.2.site.run.isSome

/-- FW_ACTIVATE (R86, R87): live through CC2 where the image declares it and a standby stands by, else by warm reset. -/
def bodyFwActivate (x : Sub) (e : Ext) (img : Image) (s : State) : Res :=
  match s.boot.staged with
  | none => fail s sNotInState
  | some g =>
    if s.activeWork then fail s sNotInState
    else if e.readErr ∨ img.fetchErr then fail s sMalformed
    else if img.digest ≠ g.img.digest then fail { s with boot := { s.boot with error := 6 } } sAuthFailed
    else match s.checkImage g.addr.toNat g.len.toNat g.img with
    | .error c => fail { s with boot := { s.boot with error := BitVec.ofNat 8 c } } sAuthFailed
    | .ok key =>
      let s := { s with boot := { s.boot with fwAddr := g.addr, fwLen := g.len } }
      let s := if bit x.a 0 && decide (s.boot.rollback < g.img.rollback) then s.burnRollback g.img.rollback else s
      let s := s.extendSg 1 (leBytes 48 g.img.digest.toNat)
      if g.img.liveCompat && s.svc.standbyOk then
        let s := s.runImage g.img key
        done { s with boot := { s.boot with staged := none } } 0
      else
        let s := { s with boot := { s.boot with sg1Digest := some g.img.digest, imageKey := BitVec.ofNat 2 key } }
        wait (s.warmAssert.warmStart img)

/-- FW_STAGE (R86). -/
def execFwStage (x : Sub) (e : Ext) (img : Image) (s : State) : Host.Outcome State Fault Refusal :=
  .next (s.runOp { x with opcode := 0x0D } [] (bodyFwStage { x with opcode := 0x0D } e img))

/-- FW_ACTIVATE (R86). -/
def execFwActivate (x : Sub) (e : Ext) (img : Image) (s : State) : Host.Outcome State Fault Refusal :=
  .next (s.runOp { x with opcode := 0x0E } [] (bodyFwActivate { x with opcode := 0x0E } e img))

end Sys2Proof.Machine
end

