-- ==== Sys2Proof/Machine/QueueRows.lean ====
section
/-! DEFINITION. The rows of the queues: doorbells (R100, R110), fetch (R100, R103, R109, R113), dispatch (R101), clamp grants (R104),
completions (R95), status words (R97), the admin pair (R90, R91). -/

namespace Sys2Proof.Machine

/-! ## Doorbells -/

/-- A write of an SQ tail doorbell (R110). -/
def State.tailWrite (s : State) (ch q : Nat) (v : BitVec 32) : State :=
  let t := (s.ch ch).sqs.get q
  let d := t.sizeM1 + 1
  let n := v.toNat % 4096
  let addr := pageAddr ch (q * 16)
  if v.toNat ≥ 4096 ∨ q ≥ 16 ∨ ch ≥ 32 then s.ignoredWrite addr
  else if !t.enable ∨ n ≥ d ∨ (n + d - t.tail) % d + (t.tail + d - t.head) % d > t.sizeM1 then
    (s.logPartner sMalformed 1 (ch * 32 + q) (some ch) (leBytes 4 addr ++ leBytes 4 v.toNat)).violSq ch q
  else s.onSq ch q fun t => { t with tail := n }

/-- A write of a CQ head doorbell (R100, R110): the slots up to it become free. -/
def State.headWrite (s : State) (ch q : Nat) (v : BitVec 32) : State :=
  let t := (s.ch ch).cqs.get q
  let d := t.sizeM1 + 1
  let n := v.toNat % 4096
  let addr := pageAddr ch (q * 16 + 8)
  if v.toNat ≥ 4096 ∨ q ≥ 16 ∨ ch ≥ 32 then s.ignoredWrite addr
  else if !t.enable ∨ n ≥ d ∨ (n + d - t.head) % d > t.posted.length then
    (s.logPartner sMalformed 1 (ch * 32 + 16 + q) (some ch) (leBytes 4 addr ++ leBytes 4 v.toNat)).violCq ch q
  else s.onCq ch q fun t => { t with head := n, posted := t.posted.drop ((n + d - t.head) % d) }

/-- SQ_TAIL_DOORBELL (R110). -/
def execSqTailDoorbell (a : Access) (ch q : Nat) (v : BitVec 32) (s : State) : Host.Outcome State Fault Refusal :=
  .next (s.pageWrite a ch (q * 16) false fun s => s.tailWrite ch q v)

/-- CQ_HEAD_DOORBELL (R100, R110). -/
def execCqHeadDoorbell (a : Access) (ch q : Nat) (v : BitVec 32) (s : State) : Host.Outcome State Fault Refusal :=
  .next (s.pageWrite a ch (q * 16 + 8) false fun s => s.headWrite ch q v)

/-! ## Fetch -/

/-- Free slots of a CQ: D - 1 less those posted and those reserved (R91, R100). -/
def Cq.room (t : Cq) : Nat := t.sizeM1 - t.posted.length - t.reserved

/-- Whether entries of this SQ are twin slots (R113). -/
def Chamber.twins (c : Chamber) (q : Nat) : Bool := c.veneer && q != 0

/-- Whether Krytra may fetch from SQ `q`: enabled, not closing, not quarantined, not empty, with a completion slot (two for a twin slot). -/
def Chamber.fetchable (c : Chamber) (q : Nat) : Bool :=
  let t := c.sqs.get q
  let k := c.cqs.get t.cq
  t.enable && !t.closing && !t.quar && t.head != t.tail && k.enable && !k.quar &&
    decide ((if c.twins q then 2 else 1) ≤ k.room)

/-- The SQ whose turn it is in a chamber, and the chamber with its turns counted down: the one served last while it has turns left, else the
next in a circle (R100). -/
def Chamber.pickSq (c : Chamber) : Option (Nat × Chamber) :=
  if c.turnLeft ≠ 0 ∧ c.fetchable c.turnSq then some (c.turnSq, { c with turnLeft := c.turnLeft - 1 })
  else match (List.range 16).find? fun i => c.fetchable ((c.turnSq + 1 + i) % 16) with
    | some i => let q := (c.turnSq + 1 + i) % 16; some (q, { c with turnSq := q, turnLeft := (c.sqs.get q).weight })
    | none => none

/-- The chamber whose turn it is, by weighted round robin over those with an SQ to fetch. -/
def State.pickCh (s : State) : Option (Nat × Nat) :=
  let ok (n : Nat) : Bool := (List.range 16).any (s.ch n).fetchable
  if s.turnLeft ≠ 0 ∧ ok s.turnCh then some (s.turnCh, s.turnLeft - 1)
  else match (List.range 32).find? fun i => ok ((s.turnCh + 1 + i) % 32) with
    | some i => let n := (s.turnCh + 1 + i) % 32; some (n, (s.ch n).weight - 1)
    | none => none

/-- Add entries to the chamber's dispatch. A stage goes to the Dovetail being assembled on its SQ (R103). -/
def addFetched (v32 : Bool) (x : Sub) (raw : List Byte) (l : List Fetched) : List Fetched :=
  let more := v32 && linked x
  if l.any fun f => f.sub.sq == x.sq && !f.done then
    (l.map fun f => if f.sub.sq == x.sq && !f.done then
      { f with stages := f.stages ++ [x], done := !more || f.stages.length ≥ 7 } else f).filter fun f => !(f.dead && f.done)
  else l ++ [Fetched.mk x raw [] (!more) 0 false]

/-- Take in the entry read at the head of SQ `q` (R100, R103, R109, R113). -/
def State.takeEntry (s : State) (ch q : Nat) (bad : Bool) : State :=
  let c := s.ch ch
  let t := c.sqs.get q
  let a := t.base.toNat + t.head * 64
  let l := s.peek a 64
  let second := (l.drop 32).any (· != 0)
  let stage := c.fetched.any fun f => f.sub.sq == q && !f.done
  let slots := if bad then 1 else if c.twins q then (if second then 2 else 1) else if stage then 0 else 1
  let s := s.onSq ch q fun t => { t with head := (t.head + 1) % (t.sizeM1 + 1) }
  let s := s.onCq ch t.cq fun k => { k with reserved := k.reserved + slots }
  if bad then
    let s := s.onCh ch fun c => { c with
      fetched := (c.fetched.map fun f => if f.sub.sq == q && !f.done then
        { f with stages := f.stages ++ [{ f.sub with opcode := 0 }], done := true } else f).filter fun f => !(f.dead && f.done) }
    let s := { s with fins := s.fins ++ [Fin.mk ch q 0xFFFF sMalformed (BitVec.ofNat 64 t.head)] }
    (s.logPartner sMalformed 1 (ch * 32 + q) (some ch) (leBytes 8 a)).violSq ch q
  else if c.twins q then
    let one (r : List Byte) (h : Bool) : Fetched := ⟨twinSub (twinOfBytes ch q h r), r, [], true, 0, false⟩
    s.onCh ch fun c => { c with
      fetched := c.fetched ++ (one (l.take 32) false :: (if second then [one (l.drop 32) true] else [])) }
  else
    let x := subOfBytes ch q l
    let v32 := s.hasVersion x 32
    s.onCh ch fun c => { c with fetched := addFetched v32 x l c.fetched }

/-- SQ_ENTRY_FETCH (R100): the entry of the SQ whose turn it is. A poisoned entry counts as answered with POISON (R109). -/
def execSqEntryFetch (ans : FetchAns) (s : State) : Host.Outcome State Fault Refusal :=
  .next (if !s.serving then s else
    match s.pickCh with
    | none => s
    | some (n, left) => match (s.ch n).pickSq with
      | none => s
      | some (q, c) =>
        let t := c.sqs.get q
        let bad := ans != .ok || !(s.mem.badBeats (t.base.toNat + t.head * 64) 64).isEmpty
        ({ (s.onCh n fun _ => c) with turnCh := n, turnLeft := left }).takeEntry n q bad)

/-! ## Dispatch -/

/-- Whether the entry at the head of a split of a chamber's waiting entries may be dispatched, with what waits before it (R100, R101, R103). -/
def State.mayGo (s : State) (before : List Fetched) (f : Fetched) : Bool :=
  let mine := before.filter fun g => g.sub.sq == f.sub.sq
  f.done && (if priority f.sub then mine.all fun g => !fence g.sub && !priority g.sub else mine.isEmpty) &&
    (!fence f.sub || mine.isEmpty && (s.cmds.all fun c => !(c.sub.chamber == f.sub.chamber && c.sub.sq == f.sub.sq)) &&
      (s.fins.all fun c => !(c.chamber == f.sub.chamber && c.sq == f.sub.sq)))

/-- The positions of a chamber's entries that may go. -/
def State.goable (s : State) (ch : Nat) : List (Nat × Fetched) :=
  let l := (s.ch ch).fetched
  (List.range l.length).filterMap fun i => match l[i]? with
    | some f => if s.mayGo (l.take i) f then some (i, f) else none
    | none => none

/-- The entry dispatched next: one passed 16 times, else the first with priority, else the first (R100). -/
def State.nextEntry (s : State) (ch : Nat) : Option (Nat × Fetched) :=
  let l := s.goable ch
  match l.find? fun p => !priority p.2.sub && decide (16 ≤ p.2.passed) with
  | some p => some p
  | none => match l.find? fun p => priority p.2.sub with
    | some p => some p
    | none => l.head?

/-- The stage entries of a Dovetail that make it malformed (R103, R131): more than eight, the last still linked, a stage of another opcode,
one with an external status block, a count other than A[3:0]. -/
def dovetailBad (x : Sub) (stages : List Sub) : Bool :=
  stages.isEmpty || decide (8 < stages.length) || (match stages.getLast? with | some y => linked y | none => true) ||
    stages.any (fun y => !isStage y.opcode.toNat || extStatus y) || fld x.a 3 0 != stages.length

/-- The submission checks of a stage entry: those of Table 7 but for command ID and status block, which a stage does not use (R103, R108). -/
def State.checkStage (s : State) (x : Sub) : Option (BitVec 16 × BitVec 64) :=
  match opInfo x with
  | none => some (sInvalidOpcode, faultDesc 4 0 0 0 0)
  | some i =>
    if !s.hasVersion x i.since then some (sInvalidOpcode, faultDesc 4 0 0 0 0)
    else match s.reservedBit x i with
    | some p => some (sReservedBit, faultDesc 2 0 0 p.2 p.1)
    | none => match s.outside x with
      | some b => some (sForbidden, faultDesc 10 0 0 0 b)
      | none => (badValue x).map fun b => (sInvalidField, faultDesc 1 0 0 0 b)

/-- The checks of a whole Dovetail: its own entry, its form, its stages' entries and acceptance (R103, R107, R123). -/
def State.checkAll (s : State) (x : Sub) (stages : List Sub) : Option (BitVec 16 × BitVec 64) :=
  match s.check x with
  | some r => some r
  | none =>
    if x.opcode ≠ 0x54 then none
    else if dovetailBad x stages then some (sInvalidField, faultDesc 6 0 0 1 1)
    else match stages.findSome? fun y => s.checkStage { y with chamber := x.chamber, sq := x.sq } with
      | some r => some r
      | none => if stages.all s.accepts then none else some (sNotInState, 0)

/-- Dispatch a waiting entry: the submission checks, then acceptance (R97, R101, R108). -/
def State.dispatch (s : State) (ch i : Nat) (f : Fetched) : State :=
  let s := s.onCh ch fun c => { c with
    fetched := (c.fetched.take i).map (fun g => if priority f.sub && !priority g.sub then { g with passed := g.passed + 1 } else g) ++
      c.fetched.drop (i + 1) }
  if f.raw.length = 32 then
    let t := twinOfBytes ch f.sub.sq false f.raw
    match s.checkTwin t with
    | some (st, d) => s.refuseSub (s.nativeSub t) true st d
    | none => s.accept (s.nativeSub t) true []
  else match s.checkAll f.sub f.stages with
    | some (st, d) => s.refuseSub f.sub false st d
    | none => s.accept f.sub false f.stages

/-- COMMAND_DISPATCH (R101): the chamber's next entry is checked and accepted; its opcode's row then runs it (assumption log 6). -/
def execCommandDispatch (ch : Nat) (_e : Ext) (s : State) : Host.Outcome State Fault Refusal :=
  .next (if !s.serving then s else
    match s.nextEntry ch with
    | some (i, f) => s.dispatch ch i f
    | none => s)

/-- CLAMP_GRANT (R104): the first waiting command that can be granted all its clamps is. -/
def execClampGrant (s : State) : Host.Outcome State Fault Refusal :=
  .next (match s.cmds.find? fun c => !c.granted && (s.tryGrant c.sub).2 with
    | some c => (s.tryGrant c.sub).1
    | none => s)

/-! ## Completions and status words -/

/-- A closing SQ whose commands and completions are gone reads disabled (R521). -/
def State.settleSq (s : State) (ch q : Nat) : State :=
  let busy := (s.cmds.any fun c => c.sub.chamber == ch && c.sub.sq == q) || (s.fins.any fun c => c.chamber == ch && c.sq == q) ||
    ((s.ch ch).fetched.any fun f => f.sub.sq == q)
  if ((s.ch ch).sqs.get q).closing && !busy then s.onSq ch q fun t => { t with enable := false, closing := false } else s

/-- The bytes of a completion entry (R94). -/
def finBytes (f : Fin) (head : Nat) (phase : Bool) : List Byte :=
  leBytes 8 f.result.toNat ++ leBytes 2 head ++ leBytes 2 (f.sq % 16 + f.chamber % 32 * 16 + b2n phase * 32768) ++
    leBytes 2 f.cid.toNat ++ leBytes 2 f.status.toNat

/-- Post a completion: the entry, the next place and phase (R92), the interrupt cause (R67), the journal record (R491). A write answered with
ERR quarantines the CQ and its SQs (R109); a quarantined CQ's completions are discarded (R521). -/
def State.post (s : State) (f : Fin) (err : Bool) : State :=
  let t := (s.ch f.chamber).sqs.get f.sq
  let k := (s.ch f.chamber).cqs.get t.cq
  let s := { s with fins := s.fins.erase f }
  let s := s.onCq f.chamber t.cq fun k => { k with reserved := k.reserved - 1 }
  let s :=
    if k.quar then s
    else if err then s.quarCq f.chamber t.cq true
    else
      let s := s.poke (k.base.toNat + k.tail * 16) (finBytes f t.head k.phase)
      let wrap := k.tail ≥ k.sizeM1
      let s := s.onCq f.chamber t.cq fun k => { k with
        tail := if wrap then 0 else k.tail + 1, phase := if wrap then !k.phase else k.phase, posted := k.posted ++ [(f.sq, f.cid)] }
      if k.irqEn then
        (s.onCh f.chamber fun c => { c with irqPend := setBit c.irqPend t.cq true }).cause 2
      else s
  (s.jot f.chamber f.sq f.cid 2).settleSq f.chamber f.sq

/-- COMPLETION_POST (R95): the first finished command whose CQ can take it. -/
def execCompletionPost (e : Ext) (s : State) : Host.Outcome State Fault Refusal :=
  .next (match s.fins.find? fun f =>
      let k := (s.ch f.chamber).cqs.get ((s.ch f.chamber).sqs.get f.sq).cq
      k.quar || k.enable with
    | some f => s.post f e.writeErr
    | none => s)

/-- STATUS_WORD_UPDATE (R97): the word of a running long command shows its units. -/
def execStatusWordUpdate (ch sq : Nat) (cid : BitVec 16) (e : Ext) (s : State) : Host.Outcome State Fault Refusal :=
  .next (match s.cmdAt ch sq cid with
    | some c =>
      if c.phase = 2 ∨ c.phase = 3 then
        if e.writeErr && extStatus c.sub && isLong c.sub then s.quarCq ch ((s.ch ch).sqs.get sq).cq true
        else s.putStatus c.sub c.twin c.phase 0 c.units c.res
      else s
    | none => s)

/-! ## The admin pair -/

/-- Set the enable bit of the admin SQ or CQ of a chamber (R90, R91, R111). The queue starts empty from entry 0 (R521 for the CQ; DEDUCED for
the SQ, assumption log 22). -/
def State.enableAdmin (s : State) (ch : Nat) (cq : Bool) : State :=
  let c := s.ch ch
  let q := c.sqs.get 0
  let k := c.cqs.get 0
  if cq then
    if k.enable then s
    else if k.sizeM1 = 0 then
      (s.onCh ch fun c => { c with setupError := true }).logPartner sMalformed 1 (ch * 32 + 16) (some ch) []
    else s.onCh ch fun c => { c with
      setupError := false
      cqs := c.cqs.modify 0 fun k => { k with enable := true, head := 0, tail := 0, phase := true, posted := [], viol := 0, quar := false } }
  else if q.enable then s
  else if q.sizeM1 = 0 ∨ !(c.cqs.get q.cq).enable then
    (s.onCh ch fun c => { c with setupError := true }).logPartner sMalformed 1 (ch * 32) (some ch) []
  else s.onCh ch fun c => { c with
    setupError := false
    quiesced := false
    sqs := c.sqs.modify 0 fun q => { q with enable := true, head := 0, tail := 0, closing := false, viol := 0, quar := false } }

/-- ADMIN_QUEUE_ENABLE (R91). -/
def execAdminQueueEnable (a : Access) (ch : Nat) (cq : Bool) (s : State) : Host.Outcome State Fault Refusal :=
  .next (s.pageWrite a ch (if cq then 0x218 else 0x208) false fun s => s.enableAdmin ch cq)

/-- Clear the enable bit of CQ0 (R521). -/
def State.disableCq0 (s : State) (ch : Nat) : State :=
  let c := s.ch ch
  let bound := (List.range 16).filter fun i => (c.sqs.get i).cq == 0
  let quar := (c.cqs.get 0).quar
  if bound.any fun i => (c.sqs.get i).enable || (!quar && s.fins.any fun f => f.chamber == ch && f.sq == i) then
    s.ignoredWrite (pageAddr ch 0x218)
  else
    let s := { s with fins := s.fins.filter fun f => !(f.chamber == ch && bound.contains f.sq) }
    s.onCq ch 0 fun k => { k with enable := false, head := 0, tail := 0, phase := true, posted := [], reserved := 0, viol := 0, quar := false }

/-- ADMIN_CQ_DISABLE (R521). -/
def execAdminCqDisable (a : Access) (ch : Nat) (s : State) : Host.Outcome State Fault Refusal :=
  .next (s.pageWrite a ch 0x218 false fun s => s.disableCq0 ch)

end Sys2Proof.Machine
end

