-- ==== Sys2Proof/Machine/Lamp.lean ====
section
/-! DEFINITION. Lifecycle advance and debug access (R451-R467, R474, R475): LIFECYCLE_ADVANCE, the lamp, halts, scan. -/

namespace Sys2Proof.Machine

/-! ## The lamp -/

/-- The lamp ceiling: of two lifecycle states combined, the lower (R451, R452). -/
def LifeLamp.ceiling (l : LifeLamp) : Nat :=
  match l.pending with
  | some t => min l.life.ceiling t.ceiling
  | none => l.life.ceiling

/-- Clear the CTR_DRBG state: it is instantiated again before its next use (R464). -/
def State.clearDrbg (s : State) : State :=
  { s with drbg := { s.drbg with live := false, generates := 0, words := 0, due := false, stop := false } }

/-- Set the lamp level: a rise to LAMP3 zeroises first (R464); below LAMP2 no halt bit stays (R465); then SG2 (R460). -/
def State.setLamp (s : State) (v : Nat) : State :=
  let old := s.life.level
  if v = old then s
  else
    let s := if v = 3 then s.zeroAllKeys.clearDrbg else s
    let s := { s with life := { s.life with
      level := v, halt := if v < 2 then 0 else s.life.halt, halted := if v < 2 then 0 else s.life.halted } }
    s.noteChange 2 old v false

/-- LAMP_DENIED is logged (R461). -/
def State.lampDenied (s : State) (d : List Byte) : State := s.logStatus sLampDenied 0 0 none d

/-- A request scan (R462): lower at once, equal nothing, higher a challenge where it is accepted. -/
def State.lampRequest (s : State) (v : BitVec 8) : State :=
  let l := v.toNat % 4
  if 4 ≤ v.toNat then s.lampDenied [v]
  else if l < s.life.level then s.setLamp l
  else if l = s.life.level then s
  else if l ≤ s.life.ceiling ∧ s.boot.stage = .ready ∧ !s.life.backoff then
    let (n, s) := s.draw
    { s with life := { s.life with request := some (l, n) } }
  else s.lampDenied [v]

/-- The challenge (R462). -/
def State.challenge (s : State) : List Byte :=
  match s.life.request with
  | none => zeros 96
  | some (l, n) =>
    padTo 96 ([0x4C, 0x41, 0x4D, 0x50, BitVec.ofNat 8 l, BitVec.ofNat 8 s.life.level, BitVec.ofNat 8 s.life.life.code, 0] ++
      leBytes 8 n.toNat ++ leBytes 4 (glbVersion s).toNat)

/-- The running image is unsigned (R76). -/
def State.unsigned (s : State) : Bool := s.boot.imageKey == 3

/-- Whether a signature holds over bytes under the running image's key. -/
def State.signedBy (s : State) (l : List Byte) (r t : BitVec 384) : Bool :=
  Config.ecdsaP384 s.boot.runKey (BitVec.ofNat 384 (leNat (sha 1 l))) r t

/-- A response scan (R462, R463): each challenge is answered once. -/
def State.lampResponse (s : State) (r t : BitVec 384) : State :=
  match s.life.request with
  | none => s
  | some (l, _) =>
    let good := s.life.life = .manuf ∧ s.unsigned ∨ s.signedBy (s.challenge.take 48) r t
    let s := { s with life := { s.life with request := none } }
    if good then ({ s with life := { s.life with fails := 0, backoff := false } }).setLamp l
    else { s with life := { s.life with fails := satAdd 8 s.life.fails 1, backoff := true } }

/-- LAMP_UNLOCK_REQUEST (R462). -/
def execLampUnlockRequest (v : BitVec 8) (s : State) : Host.Outcome State Fault Refusal :=
  .next (if s.boot.resetHeld = 2 then s else s.lampRequest v)

/-- LAMP_UNLOCK_RESPONSE (R462): a scan whose bits [767:8] are all zero is a request. -/
def execLampUnlockResponse (r t : BitVec 384) (s : State) : Host.Outcome State Fault Refusal :=
  .next (if s.boot.resetHeld = 2 then s
    else if r = 0 ∧ t.toNat < 256 then s.lampRequest (BitVec.ofNat 8 t.toNat)
    else s.lampResponse r t)

/-- LAMP_BACKOFF_EXPIRY (R463). -/
def execLampBackoffExpiry (s : State) : Host.Outcome State Fault Refusal :=
  .next { s with life := { s.life with backoff := false } }

/-- A write of LMP_CTL: lower the level where it is below the present one (R463). -/
def State.lampCtl (s : State) (lower : Bool) (v : Nat) : State :=
  if !lower then s else if v < s.life.level then s.setLamp v else s.ignoredWrite 0xA204

/-- LAMP_LOWER (R463). -/
def execLampLower (a : Access) (level : Nat) (s : State) : Host.Outcome State Fault Refusal :=
  .next (s.globalWrite a 0xA204 fun s => s.lampCtl true (level % 4))

/-- A write of LMP_CC_CTL.halt: at LAMP2 the named cores stop and the others go on (R465); below it, LAMP_DENIED (R461). -/
def State.haltCtl (s : State) (mask : BitVec 3) : State :=
  if s.life.level < 2 then s.lampDenied (leBytes 4 0xA208)
  else { s with life := { s.life with halt := mask, halted := mask } }

/-- CORE_HALT (R465): the halt bits of the mask are set. -/
def execCoreHalt (a : Access) (mask : BitVec 3) (s : State) : Host.Outcome State Fault Refusal :=
  .next (s.globalWrite a 0xA208 fun s => s.haltCtl (s.life.halt ||| mask))

/-- CORE_RESUME (R465): the halt bits of the mask are cleared. -/
def execCoreResume (a : Access) (mask : BitVec 3) (s : State) : Host.Outcome State Fault Refusal :=
  .next (s.globalWrite a 0xA208 fun s => s.haltCtl (s.life.halt &&& ~~~mask))

/-- SCAN_ENTER (R466): in OFF at LAMP3; otherwise BYPASS, with LAMP_DENIED logged. -/
def State.scan (s : State) : State :=
  if s.pwr.state = .off ∧ s.life.level = 3 then { s with pwr := { s.pwr with scanned := true, waking := false, queue := [] } }
  else s.lampDenied [0x20]

/-- SCAN_ENTER (R466). -/
def execScanEnter (s : State) : Host.Outcome State Fault Refusal :=
  .next (if s.boot.resetHeld = 2 then s else s.scan)

/-! ## The lifecycle -/

/-- Work that keeps the block from RETURN and SPENT: a mounted store, a chamber not quiesced, another command of chamber 0 (R453). -/
def State.inService (s : State) (x : Sub) : Bool :=
  (s.sto.mount.entries.any fun p => p.2.isSome) ||
    (s.chambers.entries.any fun p => p.1 != 0 && p.2.configured && !p.2.quiesced) ||
    (s.cmds.any fun c => c.sub.chamber == 0 && !isCmd x c) || !(s.ch 0).fetched.isEmpty

/-- The checks of R453. -/
def State.advanceRefused (s : State) (x : Sub) (t : Nat) : Bool :=
  decide (t ≤ s.life.life.code) || s.life.pending.isSome || ((t == 3 || t == 4) && s.unsigned) || ((t == 4 || t == 5) && s.inService x)

/-- Whether an authorisation blob is good (R454). -/
def State.authorised (s : State) (t : Nat) (l : List Byte) : Bool :=
  l.take 4 == [0x4C, 0x43, 0x59, 0x41] && leAt l 4 1 == s.life.life.code && leAt l 5 1 == t && leAt l 6 2 == 0 &&
    leAt l 8 8 == s.life.nonce.toNat && bytesAt l 16 16 == zeros 16 &&
    s.signedBy (l.take 32) (BitVec.ofNat 384 (beNat (bytesAt l 32 48))) (BitVec.ofNat 384 (beNat (bytesAt l 80 48)))

/-- A lifecycle change takes effect (step 5 of Table 3): SG2, then a lamp level above the new ceiling is lowered. A challenge above the ceiling ends. -/
def State.enterLife (s : State) (t : Life) : State :=
  let old := s.life.life.code
  let s := { s with life := { s.life with life := t, pending := none } }
  let s := s.noteChange 1 old t.code false
  let s := match s.life.request with
    | some (l, _) => if s.life.ceiling < l then { s with life := { s.life with request := none } } else s
    | none => s
  if s.life.ceiling < s.life.level then s.setLamp s.life.ceiling else s

/-- Steps 2 to 5 of Table 3. -/
def State.burnLife (s : State) (t : Life) (burn : Burn) : Res :=
  let k := t.code
  let s := if 3 ≤ k then s.zeroAllKeys else s
  if !burn.intentOk then ended (s.burnFailed (2 * k) false) sNotInState 0 0 []
  else
    let s := s.burnRow (2 * k)
    if !burn.commitOk then
      ended (({ s with life := { s.life with pending := some t } }).burnFailed (2 * k + 1) true) sNotInState 0 1 []
    else ended ((s.burnRow (2 * k + 1)).enterLife t) sOk (BitVec.ofNat 64 k) 2 []

/-- LIFECYCLE_ADVANCE (R453-R455). -/
def bodyLifecycleAdvance (x : Sub) (e : Ext) (burn : Burn) (s : State) : Res :=
  let k := fld x.a 2 0
  match Life.ofCode k with
  | none => badParam s 16
  | some t =>
    if s.advanceRefused x k then fail s sNotInState
    else if k = 3 ∨ k = 4 then
      if e.readErr ∨ !(s.mem.badBeats x.b.toNat 128).isEmpty then fail s sMalformed
      else
        let good := s.authorised k (s.peek x.b.toNat 128)
        let (n, s) := s.draw
        let s := { s with life := { s.life with nonce := n } }
        if good then s.burnLife t burn else fail s sAuthFailed
    else s.burnLife t burn

/-- Step 6 of Table 3: after the completion every command ends, every switched domain goes off, OFF, PASS_ONLY. -/
def State.retire (s : State) : State :=
  let s := s.fins.foldl (fun s f => s.post f false) s
  let s := s.capReset.freeHeld
  let s := (List.range 115).foldl State.domainOff s
  { s with
    cmds := [], fins := [], clamps := [], chambers := s.chambers.mapKeys fun _ c => { c with fetched := [] }
    boot := { s.boot with stage := .passOnly }, pwr := { s.pwr with state := .off, waking := false, queue := [] } }

/-- LIFECYCLE_ADVANCE (R455). -/
def execLifecycleAdvance (x : Sub) (e : Ext) (burn : Burn) (s : State) : Host.Outcome State Fault Refusal :=
  let x := { x with opcode := 0x0F }
  let s := s.runOp x [] (bodyLifecycleAdvance x e burn)
  .next (if s.life.life = .spent ∧ s.boot.stage = .ready then s.retire else s)

end Sys2Proof.Machine
end

