-- ==== Sys2Proof/Machine/Sites.lean ====
section
/-! DEFINITION. Site exchange (R355-R378): the site area and its records, sequences, SDX frames and rings, emission, reception, applying, catch-up,
peers, replica digests. -/

namespace Sys2Proof.Machine

/-! ## The site set and area (R355-R357) -/

/-- A site block: region, member, block of the member. -/
structure SiteBlk where
  rid : Nat
  reg : Region
  m   : Nat
  b   : Nat

/-- The site blocks of a list of regions, in list, member and block order (R356). -/
def State.siteBlks (s : State) (ids : List Nat) (t : Nat) : List SiteBlk :=
  ids.flatMap fun i => match s.region i with
    | some r => (List.range r.coord.members).flatMap fun m =>
        (List.range (ceilDiv r.coord.elems (perGranule t))).map fun b => ⟨i, r, m, b⟩
    | none => []

/-- Site exchange of chamber `ch`. -/
def State.site (s : State) (ch : Nat) : Site := (s.un ch).site

/-- The site blocks of a chamber's present site set, each with its number. -/
def State.blks (s : State) (ch : Nat) : List (Nat × SiteBlk) :=
  let l := s.siteBlks (s.site ch).regions (s.site ch).anchorType
  (List.range l.length).zip l

/-- First element of a block in its member, and its elements. -/
def SiteBlk.first (k : SiteBlk) (t : Nat) : Nat := k.b * perGranule t
def SiteBlk.count (k : SiteBlk) (t : Nat) : Nat := min (perGranule t) (k.reg.coord.elems - k.first t)

/-- Where the parts of block `n` lie: anchor, own delta, accumulator, outer state, record (Table 1 of chapter 13). -/
def Site.anchorAt (u : Site) (n : Nat) : Nat := u.area * 65536 + n * 65536
def Site.ownAt (u : Site) (n : Nat) : Nat := u.area * 65536 + (u.blocks + n) * 65536
def Site.accBytes (u : Site) : Nat := perGranule u.anchorType * 4
def Site.accAt (u : Site) (n : Nat) : Nat := u.area * 65536 + 2 * u.blocks * 65536 + n * u.accBytes
def Site.outerAt (u : Site) (n : Nat) : Nat := u.area * 65536 + (2 * u.blocks + accGranules u.blocks u.anchorType u.accUse) * 65536 + n * u.accBytes
def Site.recAt (u : Site) (n : Nat) : Nat :=
  u.area * 65536 + (2 * u.blocks + accGranules u.blocks u.anchorType u.accUse + accGranules u.blocks u.anchorType (u.accUse && u.outerUse)) * 65536 +
    64 * n

/-- A block record (Table 2 of chapter 13). -/
structure BlkRec where
  mask    : BitVec 64
  missing : BitVec 64
  emitted : Bool
  applied : Bool
  void_   : Bool
  caught  : Bool
  n       : Nat
  iv2     : BitVec 96
  iv1     : BitVec 96

/-- A block's record. -/
def State.siteRec (s : State) (ch n : Nat) : BlkRec :=
  let l := s.peek ((s.site ch).recAt n) 64
  let f : BitVec 8 := BitVec.ofNat 8 (leAt l 16 1)
  ⟨BitVec.ofNat 64 (leAt l 0 8), BitVec.ofNat 64 (leAt l 8 8), bit f 0, bit f 1, bit f 2, bit f 3, leAt l 20 4,
    BitVec.ofNat 96 (leAt l 24 12), BitVec.ofNat 96 (leAt l 36 12)⟩

/-- The bytes of a record. -/
def BlkRec.bytes (r : BlkRec) : List Byte :=
  leBytes 8 r.mask.toNat ++ leBytes 8 r.missing.toNat ++
    leBytes 1 (b2n r.emitted + 2 * b2n r.applied + 4 * b2n r.void_ + 8 * b2n r.caught) ++ zeros 3 ++ leBytes 4 r.n ++
    leBytes 12 r.iv2.toNat ++ leBytes 12 r.iv1.toNat ++ zeros 16

/-- Change a block's record. -/
def State.onRec (s : State) (ch n : Nat) (f : BlkRec → BlkRec) : State := s.poke ((s.site ch).recAt n) (f (s.siteRec ch n)).bytes

/-- Elements of a memory area, with their poison. -/
def State.areaRead (s : State) (a z n : Nat) : List (Nat × Bool) :=
  let d := s.peek a (n * z)
  (List.range n).map fun k => (leNat ((d.drop (k * z)).take z), s.mem.poison.get ((a + k * z) / 128))

/-- Write elements to a memory area, padded with zeros to `len` bytes, poisoned elements marking their beats (R44). -/
def State.areaWrite (s : State) (a z len : Nat) (d : List (Nat × Bool)) : State :=
  let s := s.poke a (padTo len (d.flatMap fun p => leBytes z p.1))
  { s with mem := (List.range d.length).foldl (fun m k =>
    if (d.getD k (0, false)).2 then { m with poison := m.poison.set ((a + k * z) / 128) true } else m) s.mem }

/-- `n` elements of a member from element `i` on, granule by granule. -/
def State.memberRead (s : State) (r : Region) (m : Nat) : Nat → Nat → Nat → List (Nat × Bool)
  | 0, _, _ => []
  | k + 1, i, n =>
    let here := min n ((65536 - (r.at_ m i).2) / elemSize r.coord.elemType)
    if n = 0 then [] else s.regionRead r m i here ++ s.memberRead r m k (i + here) (n - here)

/-- The weights of a block as FP32 patterns. -/
def State.weights (s : State) (k : SiteBlk) (t : Nat) : List (BitVec 32 × Bool) :=
  (s.memberRead k.reg k.m 4 (k.first t) (k.count t)).map fun p => (convertIn k.reg.coord.elemType p.1, p.2)

/-- Elements of an area as FP32 patterns. -/
def State.areaVals (s : State) (a t n : Nat) : List (BitVec 32 × Bool) :=
  (s.areaRead a (elemSize t) n).map fun p => (convertIn t p.1, p.2)

/-- A sum, a difference of FP32 patterns. -/
def addF (a b : BitVec 32) : BitVec 32 := re (flAdd (num a) (num b))
def subF (a b : BitVec 32) : BitVec 32 := re (flAdd (num a) (flNeg (num b)))

/-- FP32 to an element type, RNE. -/
def roundTo (t : Nat) (v : BitVec 32) : Nat := packOut (fmtOf t) 0 0 (num v)

/-- The sequence after `q` (R359). -/
def seqNext (q : BitVec 32) : BitVec 32 := if q = 0xFFFFFFFF then 1 else q + 1

/-- Whether sequence `a` is below `b`, in a window of 2^31. -/
def seqBelow (a b : BitVec 32) : Bool := decide (0 < (b - a).toNat ∧ (b - a).toNat < 2 ^ 31)

/-- Whether a chamber's DELTA_EMIT or DELTA_APPLY runs, beside an entry's own. -/
def State.siteBusy (s : State) (x : Sub) : Bool :=
  s.cmds.any fun c => c.sub.chamber == x.chamber && !isCmd x c && c.phase == 2 && (c.sub.opcode == 0x71 || c.sub.opcode == 0x72 ||
    c.sub.opcode == 0x54 && match c.stages[c.units]? with | some y => y.opcode == 0x71 | none => false)

/-! ## Peers (R373, R374) -/

/-- Change peer slot `p` of a chamber. -/
def State.onPeer (s : State) (ch p : Nat) (f : Peer → Peer) : State := s.onSite ch fun u => { u with peers := u.peers.modify p f }

/-- The members of C for a new sequence: the own site and every peer enabled and not quarantined, in ascending order (R366). -/
def Site.members (u : Site) : List Nat :=
  (List.range 64).filter fun c => c == u.own || u.peers.entries.any fun p => p.2.used && p.2.enabled && !p.2.quar && p.2.site == c

/-- The pending sequence, where the chamber has one (R359). -/
def State.pendingSeq (s : State) (ch : Nat) : Option (BitVec 32) :=
  let u := s.site ch
  if u.seqSet && (s.ch ch).siteMode == 2 && u.accUse then some (seqNext u.applied) else none

/-- Mark site `c` missing in block `n`. -/
def State.missBlock (s : State) (ch n c : Nat) : State :=
  s.onRec ch n fun r => { r with mask := setBit r.mask c true, missing := setBit r.missing c true }

/-- Mark a site missing in every unapplied block of the pending sequence where it is not in the mask (R373, R374). -/
def State.missSite (s : State) (ch c : Nat) : State :=
  if !(s.site ch).contrib.contains c then s
  else (s.blks ch).foldl (fun s k =>
    let r := s.siteRec ch k.1
    if r.applied || bit r.mask c then s else s.missBlock ch k.1 c) s

/-- A violation of an SDX peer (R374, R476). -/
def State.violSdx (s : State) (ch p : Nat) : State :=
  let s := s.logPartner sMalformed 7 p (some ch) []
  let s := s.onPeer ch p fun t => { t with viol := t.viol + 1 }
  let t := (s.site ch).peers.get p
  if t.quar || t.viol < max s.feat.thSdx 1 then s
  else
    let s := (s.onPeer ch p fun t => { t with quar := true, parkedAt := [] }).logPartner sQuarantined 7 p (some ch) []
    s.missSite ch t.site

/-! ## Frames (R362, R363) -/

/-- A frame's header fields and its payload as sent. -/
structure SdxFrame where
  version : Nat
  kind    : Nat
  source  : Nat
  sealed  : Bool
  codec   : Nat
  type    : Nat
  seq     : BitVec 32
  tensor  : BitVec 32
  block   : Nat
  n       : Nat
  iv      : BitVec 96
  tag     : BitVec 128
  kcv     : BitVec 64
  payload : List Byte

/-- Header bytes 0 to 7. -/
def SdxFrame.head8 (f : SdxFrame) : List Byte :=
  [0x53, 0x58] ++ leBytes 1 f.version ++ leBytes 1 f.kind ++ leBytes 1 f.source ++ leBytes 1 (b2n f.sealed + 2 * f.codec) ++ leBytes 1 f.type ++ [0]

/-- The 64 bytes of a header. -/
def SdxFrame.header (f : SdxFrame) : List Byte :=
  f.head8 ++ leBytes 4 f.seq.toNat ++ leBytes 4 f.tensor.toNat ++ leBytes 6 f.block ++ zeros 2 ++ leBytes 4 f.n ++ leBytes 12 f.iv.toNat ++
    leBytes 16 f.tag.toNat ++ leBytes 8 f.kcv.toNat

/-- The additional authenticated data (Table 4 of chapter 13). -/
def SdxFrame.aad (f : SdxFrame) : List Byte :=
  f.head8 ++ leBytes 4 f.tensor.toNat ++ leBytes 6 f.block ++ leBytes 1 f.codec ++ leBytes 1 f.type ++ leBytes 4 f.n ++ [2] ++ leBytes 4 f.seq.toNat ++
    zeros 3

/-- A frame's bytes: header, payload padded to 8 bytes, trailer (R202). -/
def SdxFrame.bytes (f : SdxFrame) : List Byte :=
  let b := f.header ++ padTo (ceilDiv f.n 8 * 8) f.payload
  b ++ leBytes 8 (crc64 b)

/-- The frame 64 header bytes spell, without its payload. -/
def sdxOf (l : List Byte) : SdxFrame :=
  { version := leAt l 2 1, kind := leAt l 3 1, source := leAt l 4 1 % 64, sealed := leAt l 5 1 % 2 == 1, codec := leAt l 5 1 / 2 % 2
    type := leAt l 6 1 % 16, seq := BitVec.ofNat 32 (leAt l 8 4), tensor := BitVec.ofNat 32 (leAt l 12 4), block := leAt l 16 6, n := leAt l 24 4
    iv := BitVec.ofNat 96 (leAt l 28 12), tag := BitVec.ofNat 128 (leAt l 40 16), kcv := BitVec.ofNat 64 (leAt l 56 8), payload := [] }

/-- Pages a frame with an `n`-byte payload takes. -/
def sdxPages (n : Nat) : Nat := ceilDiv (64 + ceilDiv n 8 * 8 + 8) 4096

/-- A frame of `payload`, sealed under a key and IV where one is given. -/
def sdxBuild (u : Site) (version kind codec type : Nat) (seq tensor : BitVec 32) (block : Nat) (payload : List Byte)
    (key : Option (BitVec 256 × BitVec 96)) : SdxFrame :=
  let f : SdxFrame := ⟨version, kind, u.own, key.isSome, codec, type, seq, tensor, block, payload.length, 0, 0, 0, payload⟩
  match key with
  | none => f
  | some (k, iv) =>
    let (c, tag) := gcmSeal (keyBytes k) (leBytes 12 iv.toNat) f.aad payload
    { f with iv := iv, tag := BitVec.ofNat 128 (leNat tag), kcv := kcvOf k, payload := c }

/-- A payload for a peer version: an encoded block under FLOW towards v2, else the block itself. -/
def sdxPayload (flow : Bool) (version t : Nat) (d : List Byte) : Nat × List Byte := if flow && version == 2 then flowBlock t d else (0, d)

/-! ## Transmit rings (R364) -/

/-- The address of ring count `c`. -/
def ringAt (base pages c : Nat) : Nat := base + 4096 * (1 + c % (pages - 1))

/-- Pages a frame needs on the transmit ring, with those a PAD covers before the ring's end. -/
def Peer.txNeed (t : Peer) (pages : Nat) : Nat :=
  let left := t.pages - 1 - t.txProd % (t.pages - 1)
  if pages ≤ left then pages else left + pages

/-- Whether the transmit ring has room for a frame. -/
def Peer.txRoom (t : Peer) (pages : Nat) : Bool := decide (t.txNeed pages + (t.txProd - t.txCons) ≤ t.pages - 1)

/-- Write a frame to a peer's transmit ring, after a PAD where it would wrap, and then the producer count. Poisoned contents mark its beats. -/
def State.sdxSend (s : State) (ch p : Nat) (f : SdxFrame) (bad : Bool) : State :=
  let t := (s.site ch).peers.get p
  let pages := sdxPages f.n
  let left := t.pages - 1 - t.txProd % (t.pages - 1)
  let pad := decide (left < pages)
  let s := if pad then
      let h : SdxFrame := ⟨f.version, 0, f.source, false, 0, 0, 0, 0, 0, left, 0, 0, 0, []⟩
      s.poke (ringAt t.txBase t.pages t.txProd) h.header
    else s
  let at_ := t.txProd + if pad then left else 0
  let a := ringAt t.txBase t.pages at_
  let s := s.poke a f.bytes
  let s := if bad then { s with mem := s.mem.mark a f.bytes.length true } else s
  let s := s.onPeer ch p fun t => { t with txProd := at_ + pages }
  s.poke t.txBase (leBytes 8 (at_ + pages))

/-- The enabled peers, with their slots. -/
def Site.enabledPeers (u : Site) : List (Nat × Peer) := u.peers.entries.filter fun p => p.2.used && p.2.enabled

/-- SDX versions in use among the enabled peers, newest first. -/
def Site.versions (u : Site) : List Nat :=
  (if u.enabledPeers.any (fun p => p.2.v2) then [2] else []) ++ (if u.enabledPeers.any (fun p => !p.2.v2) then [1] else [])

/-- The version of a peer. -/
def Peer.version (t : Peer) : Nat := if t.v2 then 2 else 1

/-- One invocation of a slot: its key and IV. -/
def State.takeInvocation (s : State) (slot : Nat) (reserved : Bool) : (BitVec 256 × BitVec 96) × State :=
  let k := s.keys.get slot
  let s := s.useKey slot
  ((k.key, k.iv), if reserved then s.onKey slot fun k => { k with reserved := k.reserved - 1 } else s)

/-- Whether a slot has an invocation that nothing has reserved. -/
def KeySlot.spare (k : KeySlot) : Bool := k.state == 2 && decide (k.count + k.reserved < 2 ^ 32)

/-- A control frame (NACK, CATCHUP_REQ) to a peer: sealed under the active slot in a SEALED chamber. Without room or a usable key none is sent
(assumption log 40). -/
def State.sdxControl (s : State) (ch p kind : Nat) (seq : BitVec 32) (payload : List Byte) : State :=
  let u := s.site ch
  let c := s.ch ch
  if !(u.peers.get p).txRoom (sdxPages payload.length) then s
  else if c.sealed then
    if !(s.keys.get c.keyActive).spare || s.drbg.stop then s
    else
      let (k, s) := s.takeInvocation c.keyActive false
      s.sdxSend ch p (sdxBuild u 2 kind 0 0 seq 0 0 payload (some k)) false
  else s.sdxSend ch p (sdxBuild u 2 kind 0 0 seq 0 0 payload none) false

/-! ## ANCHOR_SET (R355, R357, R358) -/

/-- Whether the site list breaks R355: the entry. -/
def State.siteListBad (s : State) (ch : Nat) (ids : List Nat) : Option Nat :=
  (List.range ids.length).find? fun i =>
    let r := ids.getD i 0
    !s.ownsRegion ch r || (ids.take i).contains r || match s.region r with | some g => decide (2 < g.coord.elemType) | none => true

/-- The anchor of blocks from one on: the number written, and whether one did not fit. -/
def State.anchorLoop (s : State) (ch t : Nat) (stop : Option Nat) : List (Nat × SiteBlk) → Nat → State × Nat × Option (BitVec 16)
  | [], n => (s, n, none)
  | (i, k) :: rest, n =>
    let w := (s.weights k t).map fun p => (roundTo t p.1, p.2)
    let a := (s.site ch).anchorAt i
    if w.any fun p => !finiteBits (fmtOf t) p.1 then (s, n, some sNonfinite)
    else if stop = some i then (s.undefBuf a 65536, n, some sMalformed)
    else (s.areaWrite a (elemSize t) 65536 w).anchorLoop ch t stop rest (n + 1)

/-- ANCHOR_SET. -/
def bodyAnchorSet (x : Sub) (e : Ext) (s : State) : Res :=
  let ch := x.chamber
  let c := s.ch ch
  let u := s.site ch
  let t := fld x.b 3 0
  let ids := s.idList u.listAddr.toNat u.listLen
  let n := ((s.regionsNamed ids).map fun r => r.siteBlocks t).sum
  let acc := c.siteMode == 2
  let lo := x.a.toNat / 65536
  let hi := lo + areaGranules n t acc u.outer
  let ph := (s.un ch).step.phase
  let bad (whr byteNo : Nat) : Res :=
    reject (s.onSite ch fun u => { u with anchored := false }) sInvalidField 1 whr 0 byteNo
  if c.siteMode = 0 ∨ ph = .begun ∨ ph = .measured ∨ ph = .normed ∨ s.siteBusy x then fail s sNotInState
  else if e.readErr then fail s sMalformed
  else match s.siteListBad ch ids with
  | some i => bad 1 (2 * i)
  | none =>
    if ids = [] then bad 1 0
    else if !s.inWin ch (lo * 65536) ((hi - lo) * 65536) || s.meetsRegion lo hi || s.meetsReserve lo hi || s.meetsSite ch lo hi then bad 0 16
    else
      let s := s.onSite ch fun u => { u with
        anchored := false, area := lo, blocks := n, regions := ids, anchorType := t, outerUse := u.outer, accUse := acc, contrib := []
        emitOpen := false }
      let (f, s) := s.freeNat
      match s.anchorLoop ch t (if e.writeErr then some (f % max n 1) else none) (s.blks ch) 0 with
      | (s, k, some st) => ended s st 0 k []
      | (s, k, none) =>
        let z := s.site ch
        let rest := z.accAt 0
        let s := s.poke rest (zeros ((hi * 65536) - rest))
        ended (s.onSite ch fun u => { u with anchored := true, seqSet := false }) sOk (BitVec.ofNat 64 k) k []

/-! ## Reception: contributions (R365-R367) -/

/-- The contributors of the pending sequence with a site below `c`. -/
def Site.below (u : Site) (c : Nat) : List Nat := u.contrib.filter fun d => decide (d < c)

/-- Whether every lower member is set in a block's mask. -/
def Site.ranked (u : Site) (r : BlkRec) (c : Nat) : Bool := (u.below c).all fun d => bit r.mask d

/-- Add a contribution to block `n`'s accumulator and set its site in the mask (R366). -/
def State.contribute (s : State) (ch n c : Nat) (d : List (BitVec 32 × Bool)) : State :=
  let u := s.site ch
  let old := s.areaVals (u.accAt n) 2 d.length
  let sum := (List.range d.length).map fun i =>
    let p := old.getD i (0, false)
    let q := d.getD i (0, false)
    ((addF p.1 q.1).toNat, p.2 || q.2)
  (s.areaWrite (u.accAt n) 4 u.accBytes sum).onRec ch n fun r => { r with mask := setBit r.mask c true }

/-- Add the own contribution to every block whose lower members are all set. Answers whether any was. -/
def State.ownTurns (s : State) (ch : Nat) : State × Bool :=
  (s.blks ch).foldl (fun (a : State × Bool) k =>
    let s := a.1
    let u := s.site ch
    let r := s.siteRec ch k.1
    if !u.contrib.contains u.own || r.applied || !r.emitted || bit r.mask u.own || !u.ranked r u.own then a
    else if r.void_ then (s.missBlock ch k.1 u.own, true)
    else (s.contribute ch k.1 u.own (s.areaVals (u.ownAt k.1) u.anchorType (k.2.count u.anchorType)), true)) (s, false)

/-- The frame that starts at ring count `c` of a peer, with its payload, whether its trailer holds, whether a beat of it is poisoned. -/
def State.sdxAt (s : State) (t : Peer) (c : Nat) : SdxFrame × List Byte × Bool × Bool :=
  let a := ringAt t.rxBase t.pages c
  let h := s.peek a 64
  let f := sdxOf h
  let len := 64 + ceilDiv f.n 8 * 8
  let room := (t.pages - 1 - c % (t.pages - 1)) * 4096
  if room < len + 8 then (f, h, false, false)
  else
    let b := s.peek a (len + 8)
    ({ f with payload := (b.drop 64).take f.n }, h, leNat (b.drop len) == crc64 (b.take len), !(s.mem.badBeats a (len + 8)).isEmpty)

/-- Order 3 of Table 5: whether a frame's header is in order for its peer. -/
def State.sdxHeadOk (s : State) (ch : Nat) (t : Peer) (f : SdxFrame) (h : List Byte) : Bool :=
  let u := s.site ch
  let c := s.ch ch
  let zero (o n : Nat) : Bool := leAt h o n == 0
  let elems : Bool := match f.kind with
    | 1 | 5 => f.type == u.anchorType && decide (0 < f.n ∧ f.n ≤ 65536)
    | 6 => f.type == 2 && decide (0 < f.n ∧ f.n ≤ 65536)
    | 3 => f.type == 0 && decide (f.n % 16 = 0 ∧ 0 < f.n ∧ f.n ≤ 4000) && f.tensor == 0 && f.block == 0
    | 4 => f.type == 0 && f.n == 0 && f.tensor == 0 && f.block == 0
    | _ => f.n == 0
  bytesAt h 0 2 == [0x53, 0x58] && f.version == t.version && f.source == t.site && decide (1 ≤ f.kind ∧ f.kind ≤ (if t.v2 then 6 else 2)) &&
    decide (leAt h 4 1 < 64 ∧ leAt h 5 1 < 4 ∧ leAt h 6 1 < 16) && zero 7 1 && zero 22 2 && f.sealed == c.sealed &&
    (f.sealed || zero 28 36) && elems && (t.v2 || f.codec == 0)

/-- The site block a frame names: number, block, part of its outer state. -/
def State.sdxBlock (s : State) (ch : Nat) (f : SdxFrame) : Option (Nat × SiteBlk × Nat) :=
  let per := if f.kind = 6 then 4 / elemSize (s.site ch).anchorType else 1
  ((s.blks ch).find? fun k => k.2.reg.coord.tensor k.2.m == f.tensor && k.2.b == f.block / per).map fun k => (k.1, k.2, f.block % per)

/-- Classification (order 5 of Table 5): consumed as late or duplicate, parked, or usable. -/
inductive SdxClass where
  | late | dup | park | use
  deriving DecidableEq, Repr

/-- Where a block frame stands (R365-R367, R372). -/
def State.classify (s : State) (ch : Nat) (f : SdxFrame) (n part : Nat) : SdxClass :=
  let u := s.site ch
  let r := s.siteRec ch n
  if f.kind = 5 ∨ f.kind = 6 then
    match u.run with
    | none => .late
    | some run =>
      if !run.catchup || f.seq.toNat != fld run.sub.a 31 0 then .late
      else
        let have_ := run.inst.find? fun p => p.1 == n
        if f.kind = 5 then (if r.caught || have_.isSome then .dup else .use)
        else match have_ with
          | some (_, c, l) => if r.caught || l.contains part then .dup else if c = f.source ∧ u.outerUse then .use else .late
          | none => if r.caught then .dup else .late
  else if (s.ch ch).siteMode ≠ 2 ∨ !u.accUse then .late
  else match s.pendingSeq ch with
    | none => .park
    | some q =>
      if seqBelow f.seq q then .late
      else if f.seq ≠ q then .park
      else if r.applied then .late
      else if bit r.mask f.source then .dup
      else if u.contrib = [] then .park
      else if !u.contrib.contains f.source then .late
      else if u.ranked r f.source then .use else .park

/-- Count a late or duplicate frame. -/
def State.sdxCount (s : State) (ch : Nat) (k : SdxClass) : State :=
  s.onSite ch fun u =>
    match k with
    | .late => { u with late := satAdd 16 u.late 1, run := u.run.map fun r => { r with late := r.late + 1 } }
    | .dup => { u with dup := satAdd 16 u.dup 1 }
    | _ => u

/-- The plaintext of a frame (orders 6 and 7): or the status to log. -/
def State.sdxOpen (s : State) (ch : Nat) (f : SdxFrame) : Except (BitVec 16) (List Byte) :=
  if !f.sealed then .ok f.payload
  else match s.keyFor ch f.kcv with
  | none => .error sKeyEmpty
  | some key => match gcmOpen (keyBytes key) (leBytes 12 f.iv.toNat) f.aad f.payload (leBytes 16 f.tag.toNat) with
    | some p => .ok p
    | none => .error sAuthFailed

/-- The elements of a block frame (order 8). -/
def sdxElems (f : SdxFrame) (plain : List Byte) (count : Nat) (bad : Bool) : Option (List (BitVec 32 × Bool)) :=
  if f.kind = 2 then some []
  else match flowDecode f.type f.codec f.n plain with
  | none => none
  | some d => some ((List.range count).map fun i =>
      (convertIn f.type (leNat ((d.drop (i * elemSize f.type)).take (elemSize f.type))), bad))

/-- Elements of part `part` of a block's outer state. -/
def SiteBlk.partCount (k : SiteBlk) (t part : Nat) : Nat := min 16384 (k.count t - 16384 * part)

/-- A block of a catch-up is whole: its record says so, and the site that supplied it is noted (R372). -/
def State.catchDone (s : State) (ch n : Nat) : State :=
  let u := s.site ch
  match u.run with
  | none => s
  | some run => match run.inst.find? fun p => p.1 == n with
    | none => s
    | some (_, c, l) =>
      if u.outerUse && decide (l.length < 4 / elemSize u.anchorType) then s
      else
        let s := s.onRec ch n fun r => { r with caught := true }
        s.onSite ch fun u => { u with run := u.run.map fun r => { r with sites := setBit r.sites c true, done := r.done + 1 } }

/-- Use a block frame that is usable (order 9). -/
def State.sdxUse (s : State) (ch : Nat) (f : SdxFrame) (n : Nat) (k : SiteBlk) (part : Nat) (d : List (BitVec 32 × Bool)) : State :=
  let u := s.site ch
  let t := u.anchorType
  match f.kind with
  | 1 => s.contribute ch n f.source d
  | 2 => s.missBlock ch n f.source
  | 5 =>
    let s := s.areaWrite (u.anchorAt n) (elemSize t) 65536 (d.map fun p => (roundTo t p.1, p.2))
    let s := s.regionWrite k.reg k.m 4 (k.first t) (d.map fun p => (roundTo k.reg.coord.elemType p.1, p.2))
    let s := s.onSite ch fun u => { u with run := u.run.map fun r => { r with inst := r.inst ++ [(n, f.source, [])] } }
    s.catchDone ch n
  | 6 =>
    let s := s.areaWrite (u.outerAt n + 65536 * part) 4 (4 * d.length) (d.map fun p => (p.1.toNat, p.2))
    let s := s.onSite ch fun u => { u with run := u.run.map fun r => { r with
      inst := r.inst.map fun p => if p.1 = n then (p.1, p.2.1, part :: p.2.2) else p } }
    s.catchDone ch n
  | _ => s

/-! ### NACK and CATCHUP_REQ (R370, R371) -/

/-- The frames of the own delta that a NACK lists, rebuilt with their recorded IVs; no invocation is used. Frames without room are not sent. -/
def State.sdxRebuild (s : State) (ch p : Nat) (entries : List Byte) : State :=
  let u := s.site ch
  let c := s.ch ch
  let key := s.keys.get u.emitSlot
  let named (k : SiteBlk) : Bool := (List.range (entries.length / 16)).any fun i =>
    let o := 16 * i
    BitVec.ofNat 32 (leAt entries o 4) == k.reg.coord.tensor k.m && decide (leAt entries (o + 4) 6 ≤ k.b ∧ k.b < leAt entries (o + 4) 6 + leAt entries (o + 12) 4)
  (s.blks ch).foldl (fun s k =>
    let r := s.siteRec ch k.1
    if !named k.2 || !r.emitted || (c.sealed && key.state != 2) then s
    else
      let d := s.peek (u.ownAt k.1) 65536
      let (codec, pay) := if r.void_ then (0, []) else sdxPayload c.flow 2 u.anchorType d
      let f := sdxBuild u 2 (if r.void_ then 2 else 1) codec (if r.void_ then 0 else u.anchorType) u.emitted (k.2.reg.coord.tensor k.2.m) k.2.b pay
        (if c.sealed then some (key.key, r.iv2) else none)
      if (((s.site ch).peers.get p).txRoom (sdxPages f.n)) then s.sdxSend ch p f (!(s.mem.badBeats (u.ownAt k.1) 65536).isEmpty) else s) s

/-- A received NACK: served for the own last emitted sequence, else ignored and counted (R370). -/
def State.nackIn (s : State) (ch p : Nat) (f : SdxFrame) (entries : List Byte) : State :=
  let u := s.site ch
  if u.anchored && u.seqSet && f.seq == u.emitted then s.sdxRebuild ch p entries
  else s.onSite ch fun u => { u with ignored := satAdd 16 u.ignored 1 }

/-- The clamp a catch-up service holds on the area (R371). -/
def serveClamp (ch : Nat) (u : Site) : Clamp :=
  ⟨.granules u.area (u.area + areaGranules u.blocks u.anchorType u.accUse u.outerUse), false, ch, some (17, 0xFFFF), 0⟩

/-- Frame `j` of a catch-up service: the anchor of a block, then its outer state's parts. -/
def State.serveFrame (s : State) (ch j : Nat) (key : Option (BitVec 256 × BitVec 96)) : Option SdxFrame :=
  let u := s.site ch
  let c := s.ch ch
  let parts := if u.outerUse then 4 / elemSize u.anchorType else 0
  match (s.blks ch)[j / (1 + parts)]? with
  | none => none
  | some (n, k) =>
    let tensor := k.reg.coord.tensor k.m
    match j % (1 + parts) with
    | 0 =>
      let (codec, pay) := sdxPayload c.flow 2 u.anchorType (s.peek (u.anchorAt n) 65536)
      some (sdxBuild u 2 5 codec u.anchorType u.applied tensor k.b pay key)
    | q + 1 =>
      let (codec, pay) := sdxPayload c.flow 2 2 (s.peek (u.outerAt n + 65536 * q) 65536)
      some (sdxBuild u 2 6 codec 2 u.applied tensor (k.b * parts + q) pay key)

/-- Send the frames of the catch-up service at hand, until it ends or its ring is full. -/
def State.serveLoop (s : State) (ch p : Nat) : Nat → State × Bool
  | 0 => (s, true)
  | fuel + 1 =>
    let u := s.site ch
    let sealed := (s.ch ch).sealed
    match s.serveFrame ch u.serveAt none with
    | none => (s, true)
    | some f =>
      if !(u.peers.get p).txRoom (sdxPages f.n) then (s, false)
      else if sealed && (!(s.keys.get u.serveSlot).spare || s.drbg.stop) then (s, true)
      else
        let (key, s) := if sealed then (let (k, s) := s.takeInvocation u.serveSlot false; (some k, s)) else (none, s)
        let s := match s.serveFrame ch u.serveAt key with | some f => s.sdxSend ch p f false | none => s
        (s.onSite ch fun u => { u with serveAt := u.serveAt + 1 }).serveLoop ch p fuel

/-- Serve the first waiting catch-up request, where no DELTA_APPLY or ANCHOR_SET holds the area; its sequence must still be the applied one. -/
def State.serve (s : State) (ch : Nat) : State :=
  let u := s.site ch
  match u.serveQ with
  | [] => s
  | p :: rest =>
    let k := serveClamp ch u
    let holds := s.clamps.contains k
    if !holds && s.clamps.any (s.conflict k) then s
    else
      let s := if holds then s else { s with clamps := s.clamps ++ [k] }.onSite ch fun u =>
        { u with serveAt := 0, serveSlot := (s.ch ch).keyActive }
      match s.serveLoop ch p (u.blocks * 3 + 1) with
      | (s, true) => { s with clamps := s.clamps.erase k }.onSite ch fun u => { u with serveQ := rest, serveAt := 0 }
      | (s, false) => s

/-- A received CATCHUP_REQ (R371). -/
def State.catchupIn (s : State) (ch p : Nat) (f : SdxFrame) : State :=
  let u := s.site ch
  if u.anchored && u.seqSet && (s.ch ch).siteMode == 2 && f.seq == u.applied then
    (s.onSite ch fun u => { u with serveQ := u.serveQ ++ [p] }).serve ch
  else s.onSite ch fun u => { u with ignored := satAdd 16 u.ignored 1 }

/-! ### One frame -/

/-- Handle the frame at ring count `c` of a peer by Table 5 from order 2 on. Answers whether it is parked. -/
def State.sdxHandle (s : State) (ch p c : Nat) (err : Bool) : State × Bool :=
  let t := (s.site ch).peers.get p
  let (f, h, ok, bad) := s.sdxAt t c
  if err ∨ !ok then ({ s with ciph := { s.ciph with sdxMis := satAdd 16 s.ciph.sdxMis 1 } }, false)
  else if !s.sdxHeadOk ch t f h then (s.violSdx ch p, false)
  else if f.kind = 3 ∨ f.kind = 4 then
    match s.sdxOpen ch f with
    | .error st => ((s.logStatus st 7 p (some ch) []).violSdx ch p, false)
    | .ok d => (if f.kind = 3 then s.nackIn ch p f d else s.catchupIn ch p f, false)
  else match s.sdxBlock ch f with
  | none => (s.violSdx ch p, false)
  | some (n, k, part) =>
    match s.classify ch f n part with
    | .park => (s, true)
    | .use =>
      (match s.sdxOpen ch f with
      | .error st => ((s.logStatus st 7 p (some ch) []).violSdx ch p, false)
      | .ok d =>
        let count := if f.kind = 6 then k.partCount (s.site ch).anchorType part else k.count (s.site ch).anchorType
        match sdxElems f d count bad with
        | none => ((s.logStatus sFlowDamaged 7 p (some ch) []).violSdx ch p, false)
        | some l => (s.sdxUse ch f n k part l, false))
    | w => (s.sdxCount ch w, false)

/-- Publish a peer's consumer count: the oldest parked frame, else the next page to read (R367). -/
def State.sdxConsume (s : State) (ch p : Nat) : State :=
  let t := (s.site ch).peers.get p
  let c := (t.parkedAt.head?).getD t.rxNext
  (s.onPeer ch p fun t => { t with rxCons := c }).poke (t.rxBase + 64) (leBytes 8 c)

/-- Read a peer's parked frames again, once each. -/
def State.rereadPeer (s : State) (ch p : Nat) : State :=
  let l := ((s.site ch).peers.get p).parkedAt
  if l = [] then s
  else
    let s := l.foldl (fun s c =>
      if !((s.site ch).peers.get p).parkedAt.contains c then s
      else match s.sdxHandle ch p c false with
        | (s, true) => s
        | (s, false) => s.onPeer ch p fun t => { t with parkedAt := t.parkedAt.filter (· != c) }) s
    s.sdxConsume ch p

/-- Add what may be added now: own contributions and parked frames, until nothing changes. -/
def State.reread (s : State) (ch : Nat) : Nat → State
  | 0 => s
  | fuel + 1 =>
    let parked (s : State) : Nat := ((s.site ch).peers.entries.map fun p => p.2.parkedAt.length).foldl (· + ·) 0
    let (s1, own) := s.ownTurns ch
    let s2 := ((s1.site ch).peers.entries.map (·.1)).foldl (fun s p => s.rereadPeer ch p) s1
    if own || decide (parked s2 < parked s1) then s2.reread ch fuel else s2

/-- Rounds enough for `reread`. -/
def State.rereadFuel (s : State) (ch : Nat) : Nat :=
  (s.site ch).blocks + ((s.site ch).peers.entries.map fun p => p.2.parkedAt.length).foldl (· + ·) 0 + 1

/-! ## Applying (R368, R369) -/

/-- Run the outer program on a block; none where an output is not finite. -/
def State.outerRun (s : State) (ch : Nat) (run : ApplyRun) (n : Nat) (k : SiteBlk) (r cnt : Nat) : Option State :=
  let u := s.site ch
  let t := u.anchorType
  let slot := fld run.sub.c 2 0
  let p := ((s.un ch).progs.get slot).words
  let w := s.weights k t
  let an := s.areaVals (u.anchorAt n) t (k.count t)
  let ac := s.areaVals (u.accAt n) 2 (k.count t)
  let ou := if u.outerUse then s.areaVals (u.outerAt n) 2 (k.count t) else []
  let rec_ := s.siteRec ch n
  let ow := if rec_.void_ then [] else s.areaVals (u.ownAt n) t (k.count t)
  let nat (v : Nat) : BitVec 32 := re (.fin false v 0)
  let ratio := re (flDiv (num (nat cnt)) (num (nat r)))
  let rows := (List.range (k.count t)).map fun i =>
    let g (l : List (BitVec 32 × Bool)) : BitVec 32 × Bool := l.getD i (0, false)
    let scaled := if r = cnt then (g ac).1 else re (flMul (num (g ac).1) (num ratio))
    let env : Env := { inp := [(g w).1, (g an).1, scaled, (g ou).1, (g ow).1, 0, 0, 0], k := run.k ++ [nat r, nat cnt, 0, 0, 0, 0]
                       invs := 0x3F800000, clip := 0x3F800000, seed := u.seed, step := BitVec.ofNat 48 (fld run.sub.a 31 0)
                       tensor := k.reg.coord.tensor k.m, g := globalIx k.reg.coord (coordsAt k.reg.coord (k.first t + i))
                       out := [k.reg.coord.elemType, t, 2, 2] }
    (env.outputs p, (g w).2 || (g an).2 || (g ac).2 || (g ou).2 || (g ow).2)
  let col (j : Nat) : List (Nat × Bool) := rows.map fun q => ((q.1.getD j none).getD 0, q.2)
  let outs := (outsOf p).map (· - 0x18)
  let typ (j : Nat) : Nat := if j = 0 then k.reg.coord.elemType else if j = 1 then t else 2
  if outs.all fun j => (col j).all fun q => finiteBits (fmtOf (typ j)) q.1 then
    let s := if outs.contains 0 then s.regionWrite k.reg k.m 4 (k.first t) (col 0) else s
    let s := if outs.contains 1 then s.areaWrite (u.anchorAt n) (elemSize t) 65536 (col 1) else s
    some (if outs.contains 2 then s.areaWrite (u.outerAt n) 4 u.accBytes (col 2) else s)
  else none

/-- Apply one block whose mask covers C (R368). -/
def State.applyBlock (s : State) (ch : Nat) (run : ApplyRun) (n : Nat) (k : SiteBlk) : State :=
  let u := s.site ch
  let r := s.siteRec ch n
  let added := (u.contrib.filter fun c => bit r.mask c && !bit r.missing c).length
  let cnt := u.contrib.length
  let (s, bad) := if added = 0 then (s, false) else match s.outerRun ch run n k added cnt with
    | some s => (s, false)
    | none => (s, true)
  let s := s.poke (u.accAt n) (zeros u.accBytes)
  let s := s.onRec ch n fun r => { r with mask := 0, missing := 0, applied := true }
  s.onSite ch fun u => { u with run := u.run.map fun q => { q with
    done := q.done + 1, skippedBlocks := q.skippedBlocks + b2n (added == 0), renorm := q.renorm + b2n (decide (0 < added ∧ added < cnt))
    nonfinite := q.nonfinite + b2n bad, sites := q.sites ||| r.missing } }

/-- Blocks that can be applied now. -/
def State.readyBlks (s : State) (ch : Nat) : List (Nat × SiteBlk) :=
  let u := s.site ch
  (s.blks ch).filter fun k => let r := s.siteRec ch k.1; !r.applied && u.contrib.all fun c => bit r.mask c

/-- The words of a DELTA_APPLY (R369). -/
def ApplyRun.words (r : ApplyRun) : List (BitVec 64) :=
  [r.done - r.skippedBlocks, r.renorm, r.skippedBlocks, r.nonfinite, r.late].map (BitVec.ofNat 64)

/-- The end of a DELTA_APPLY: its status and the sequences (R359, R369, R372, R133). -/
def State.applyOver (s : State) (ch : Nat) (st : BitVec 16) : State :=
  let u := s.site ch
  match u.run with
  | none => s
  | some r =>
    let q : BitVec 32 := BitVec.ofNat 32 (fld r.sub.a 31 0)
    let ok := st == sOk || st == sOkPartial || st == sApplyNonfinite
    let result : BitVec 64 := if r.catchup then r.sites else (u.contrib.filter fun c => !bit r.sites c).foldl (fun v c => setBit v c true) (0 : BitVec 64)
    let s := s.onSite ch fun u => { u with run := none }
    let s := if r.catchup then
        (if st = sOk then s.onSite ch fun u => { u with emitted := q, applied := q, seqSet := true, emitOpen := false, contrib := [] } else s)
      else if ok then
        let s := (s.blks ch).foldl (fun s k => s.onRec ch k.1 fun r => { r with applied := false }) s
        s.onSite ch fun u => { u with applied := q, contrib := [] }
      else s
    let s := conclude r.sub (ended s st (if ok then result else 0) r.done r.words)
    (s.reread ch (s.rereadFuel ch)).serve ch

/-- A DELTA_APPLY goes on: blocks that are ready are applied, and it ends once all are, or all are installed. `stop`: the block whose write is
answered with ERR (R122). -/
def State.applyGo (s : State) (ch : Nat) (stop : Option Nat) : State :=
  let u := s.site ch
  match u.run with
  | none => s
  | some run =>
    if run.catchup then
      if (s.blks ch).all fun k => (s.siteRec ch k.1).caught then s.applyOver ch sOk
      else s.onCmd run.sub fun c => { c with units := max c.units run.done }
    else
      let l := s.readyBlks ch
      match stop, l with
      | some f, _ :: _ =>
        let j := f % l.length
        let s := (l.take j).foldl (fun s k => s.applyBlock ch run k.1 k.2) s
        let s := match l[j]? with
          | some k => ((k.2.reg.touched k.2.m (k.2.first u.anchorType) (k.2.count u.anchorType)).foldl State.kUndef s).undefBuf (u.anchorAt k.1) 65536
          | none => s
        s.applyOver ch sMalformed
      | _, _ =>
        let s := l.foldl (fun s k => s.applyBlock ch run k.1 k.2) s
        match (s.site ch).run with
        | none => s
        | some r =>
          if (s.blks ch).all fun k => (s.siteRec ch k.1).applied then
            let peers := r.sites &&& ~~~(1#64 <<< u.own)
            s.applyOver ch (if r.nonfinite ≠ 0 then sApplyNonfinite else if peers ≠ 0 ∨ r.skippedBlocks ≠ 0 then sOkPartial else sOk)
          else
            let s := s.onCmd r.sub fun c => { c with units := max c.units r.done, res := r.words }
            match s.cmd? r.sub with
            | some c => s.putStatus r.sub c.twin 2 0 c.units c.res
            | none => s

/-- After frames or masks changed: contributions, then a running apply. -/
def State.siteSettle (s : State) (ch : Nat) (e : Ext) : State :=
  let s := s.reread ch (s.rereadFuel ch)
  let (f, s) := s.freeNat
  s.applyGo ch (if e.writeErr then some f else none)

/-- At the deadline every absent contributor of every unapplied block is marked missing (R368). -/
def State.missAll (s : State) (ch : Nat) : Nat → State
  | 0 => s
  | fuel + 1 =>
    let s := s.reread ch (s.rereadFuel ch)
    let u := s.site ch
    let gap := (s.blks ch).findSome? fun k =>
      let r := s.siteRec ch k.1
      if r.applied then none else (u.contrib.find? fun c => !bit r.mask c).map fun c => (k.1, c)
    match gap with
    | some (n, c) => (s.missBlock ch n c).missAll ch fuel
    | none => s

/-- The deadline of a running DELTA_APPLY. -/
def State.atDeadline (s : State) (ch : Nat) (stop : Option Nat) : State :=
  let u := s.site ch
  match u.run with
  | none => s
  | some r =>
    if r.catchup then
      (if (s.blks ch).all fun k => (s.siteRec ch k.1).caught then s.applyOver ch sOk else s.applyOver ch sOkPartial)
    else (s.missAll ch (u.blocks * u.contrib.length + 1)).applyGo ch stop

/-- What refuses an outer program (R368). -/
def outerBad (p : Prog) (outer : Bool) : Bool :=
  let outs := outsOf p.words
  !p.loaded || !outs.contains 0x19 || outs.contains 0x1B || (!outer && (outs.contains 0x1A || (insOf p.words).contains 3))

/-- DELTA_APPLY (R359, R368, R369, R372, R435). -/
def bodyDeltaApply (x : Sub) (e : Ext) (s : State) : Res :=
  let ch := x.chamber
  let u := s.site ch
  let ph := (s.un ch).step.phase
  let q : BitVec 32 := BitVec.ofNat 32 (fld x.a 31 0)
  let catchup := !u.seqSet
  if (s.ch ch).siteMode ≠ 2 ∨ !u.anchored ∨ !u.accUse ∨ ph = .begun ∨ ph = .measured ∨ ph = .normed ∨ s.siteBusy x then fail s sNotInState
  else if !catchup && q != seqNext u.applied then badParam s 16
  else if !catchup && u.emitted != q then fail s sNotInState
  else if !catchup && outerBad ((s.un ch).progs.get (fld x.c 2 0)) u.outerUse then badParam s 32
  else
    let s := s.endApplied ch
    let s := s.useTime
    let run : ApplyRun := ⟨x, catchup, false, (List.range 16).map u.ks.get, u.nackLead, 0, 0, 0, 0, 0, 0, []⟩
    let s := s.onSite ch fun u => { u with run := some run }
    let s := (running x s 0).s
    let s := if catchup then u.enabledPeers.foldl (fun s p => if p.2.v2 then s.sdxControl ch p.1 4 q [] else s) s else s
    let (f, s) := s.freeNat
    let stop := if e.writeErr then some f else none
    let s := s.reread ch (s.rereadFuel ch)
    wait (if x.b.toNat ≤ s.now then s.atDeadline ch stop else s.applyGo ch stop)

/-! ## Emission (R359-R361) -/

/-- Release the invocations a DELTA_EMIT reserved and has not used: its slot and their number are its command's progress. -/
def State.emitRelease (s : State) (x : Sub) : State :=
  match (s.progress x).2 with
  | slot :: left :: _ => s.onKey slot.toNat fun k => { k with reserved := k.reserved - left.toNat }
  | _ => s

/-- One block's delta: elements in the anchor type with their poison, and whether the block is VOID. -/
def State.deltaOf (s : State) (ch n : Nat) (k : SiteBlk) : List (Nat × Bool) × Bool :=
  let u := s.site ch
  let t := u.anchorType
  let an := s.areaVals (u.anchorAt n) t (k.count t)
  let d := (List.range (k.count t)).map fun i =>
    let w := (s.weights k t).getD i (0, false)
    let a := an.getD i (0, false)
    let v := subF w.1 a.1
    (v, roundTo t v, w.2 || a.2)
  (d.map fun p => p.2, d.any fun p => !isFin p.1 || !finiteBits (fmtOf t) p.2.1)

/-- Seal and frame a block once per version in use, and write it to the rings. `acc`: slot, invocations left, frames, VOID blocks, bytes. -/
def State.emitBlk (s : State) (ch n : Nat) (k : SiteBlk) (q : BitVec 32) (d : List (Nat × Bool)) (void_ : Bool) (slot : Nat)
    (acc : Nat × Nat × Nat) : State × (Nat × Nat × Nat) :=
  let u := s.site ch
  let c := s.ch ch
  let s := s.areaWrite (u.ownAt n) (elemSize u.anchorType) 65536 (if void_ then [] else d)
  let bytes := s.peek (u.ownAt n) 65536
  let bad := !(s.mem.badBeats (u.ownAt n) 65536).isEmpty
  let (s, acc) := u.versions.foldl (fun (a : State × (Nat × Nat × Nat)) v =>
    let (s, left, frames, total) := a
    let (codec, pay) := if void_ then (0, []) else sdxPayload c.flow v u.anchorType bytes
    let (key, s) := if c.sealed then (let (k, s) := s.takeInvocation slot true; (some k, s)) else (none, s)
    let f := sdxBuild u v (if void_ then 2 else 1) codec (if void_ then 0 else u.anchorType) q (k.reg.coord.tensor k.m) k.b pay key
    let s := s.onRec ch n fun r => if v = 2 then { r with n := pay.length, iv2 := f.iv } else { r with iv1 := f.iv }
    let dest := u.enabledPeers.filter fun p => p.2.version == v
    let s := dest.foldl (fun s p => s.sdxSend ch p.1 f bad) s
    (s, left - b2n c.sealed, frames + dest.length, total + dest.length * pay.length)) (s, acc)
  (s.onRec ch n fun r => { r with emitted := true, void_ := void_ }, acc)

/-- The blocks of an emission still to do, in block order. -/
def State.emitLoop (s : State) (x : Sub) (q : BitVec 32) (slot : Nat) (stop : Option Nat) : List (Nat × SiteBlk) → Nat → Nat × Nat × Nat → Nat → Res
  | [], n, (left, frames, total), voids =>
    let ch := x.chamber
    let s := s.onKey slot fun k => { k with reserved := k.reserved - left }
    let s := s.onSite ch fun u => { u with emitted := q, emitOpen := false }
    let s := s.reread ch (s.rereadFuel ch)
    ended s (if voids = 0 then sOk else sOkPartial) (BitVec.ofNat 64 frames) n [BitVec.ofNat 64 n, BitVec.ofNat 64 voids, BitVec.ofNat 64 total]
  | (i, k) :: rest, n, (left, frames, total), voids =>
    let ch := x.chamber
    let u := s.site ch
    let acc := [BitVec.ofNat 64 slot, BitVec.ofNat 64 left, BitVec.ofNat 64 frames, BitVec.ofNat 64 voids, BitVec.ofNat 64 total]
    let words := [BitVec.ofNat 64 n, BitVec.ofNat 64 voids, BitVec.ofNat 64 total]
    let (d, void_) := s.deltaOf ch i k
    let bytes := padTo 65536 (d.flatMap fun p => leBytes (elemSize u.anchorType) p.1)
    let room := u.enabledPeers.all fun p =>
      p.2.txRoom (sdxPages (if void_ then 0 else (sdxPayload (s.ch ch).flow p.2.version u.anchorType bytes).2.length))
    if (s.ch ch).sealed && (s.keys.get slot).state != 2 then ended (s.emitRelease x) sKeyEmpty 0 n words
    else if !room || ((s.ch ch).sealed && s.drbg.stop) then goesOn (s.noteProg x n acc) n
    else if stop = some n then
      ended ((s.undefBuf (u.ownAt i) 65536).onKey slot fun k => { k with reserved := k.reserved - left }) sMalformed 0 n words
    else
      let (s, a) := s.emitBlk ch i k q d void_ slot (left, frames, total)
      s.emitLoop x q slot stop rest (n + 1) a (voids + b2n void_)

/-- The blocks whose emitted bit is clear (R360). -/
def State.toEmit (s : State) (ch : Nat) : List (Nat × SiteBlk) := (s.blks ch).filter fun k => !(s.siteRec ch k.1).emitted

/-- DELTA_EMIT. -/
def bodyDeltaEmit (x : Sub) (e : Ext) (s : State) : Res :=
  let ch := x.chamber
  let u := s.site ch
  let c := s.ch ch
  let q : BitVec 32 := BitVec.ofNat 32 (fld x.a 31 0)
  let (f, s) := s.freeNat
  match s.progress x with
  | (n, slot :: left :: frames :: voids :: total :: _) =>
    let l := s.toEmit ch
    s.emitLoop x q slot.toNat (if e.writeErr then some (n + f % max l.length 1) else none) l n (left.toNat, frames.toNat, total.toNat) voids.toNat
  | _ =>
    let need := if c.sealed then u.blocks * u.versions.length else 0
    let k := s.keys.get c.keyActive
    if c.siteMode = 0 ∨ !u.anchored ∨ s.siteBusy x then fail s sNotInState
    else if u.seqSet && q != seqNext u.emitted then badParam s 16
    else if u.seqSet && c.siteMode == 2 && u.applied != u.emitted then fail s sNotInState
    else if c.sealed && k.state != 2 then fail s sKeyEmpty
    else if c.sealed && decide (2 ^ 32 < k.count + k.reserved + need) then fail s sKeyWorn
    else
      let s := if u.emitOpen then s else
        (s.blks ch).foldl (fun s k => s.onRec ch k.1 fun r => { r with emitted := false, applied := false, void_ := false, mask := 0, missing := 0 }) s
      let s := if need = 0 then s else s.onKey c.keyActive fun k => { k with reserved := k.reserved + need }
      let s := s.onSite ch fun u => { u with
        emitOpen := true, emitSlot := c.keyActive, contrib := u.members, seqSet := true
        emitted := if u.seqSet then u.emitted else q - 1, applied := if u.seqSet then u.applied else q - 1 }
      let s := s.noteProg x 0 [BitVec.ofNat 64 c.keyActive, BitVec.ofNat 64 need, 0, 0, 0]
      let l := s.toEmit ch
      s.emitLoop x q c.keyActive (if e.writeErr then some (f % max l.length 1) else none) l 0 (need, 0, 0) 0

/-! ## PEER_CONFIG (R373) -/

/-- Whether a ring is out of place. -/
def State.ringBad (s : State) (ch skip a pages : Nat) (other : Nat) : Bool :=
  let lo := a / 65536
  let hi := ceilDiv (a + pages * 4096) 65536
  let u := s.site ch
  let hit (b n : Nat) : Bool := meets a (a + pages * 4096) b (b + n)
  decide (a % 4096 ≠ 0) || !s.inWin ch a (pages * 4096) || s.meetsRegion lo hi || s.meetsReserve lo hi ||
    (u.anchored && hit (u.area * 65536) (areaGranules u.blocks u.anchorType u.accUse u.outerUse * 65536)) || hit other (pages * 4096) ||
    s.units.entries.any fun c => c.2.site.peers.entries.any fun p => p.2.used && !(c.1 == ch && p.1 == skip) &&
      (hit p.2.rxBase (p.2.pages * 4096) || hit p.2.txBase (p.2.pages * 4096))

/-- PEER_CONFIG. -/
def bodyPeerConfig (x : Sub) (s : State) : Res :=
  let ch := x.chamber
  let u := s.site ch
  let site := x.handle.toNat
  let own := fld x.a 13 8
  let pages := fld x.d 23 0
  let slot := match u.peers.entries.find? fun p => p.2.used && p.2.site == site with
    | some p => some p.1
    | none => (List.range 15).find? fun p => !(u.peers.get p).used
  if (s.ch ch).siteMode = 0 ∨ s.siteBusy x then fail s sNotInState
  else if own = 0 ∨ own = site ∨ (u.own ≠ 0 ∧ u.own ≠ own) then badParam s 17
  else match slot with
  | none => badParam s 4
  | some p =>
    if pages < 18 then badParam s 40
    else if s.ringBad ch p x.b.toNat pages x.c.toNat then badParam s 24
    else if s.ringBad ch p x.c.toNat pages x.b.toNat then badParam s 32
    else
      let s := s.onSite ch fun u => { u with own := own }
      if bit x.a 0 then
        let s := s.onPeer ch p fun _ => { Peer.zero with
          used := true, enabled := true, v2 := bit x.a 1, site := site, rxBase := x.b.toNat, txBase := x.c.toNat, pages := pages }
        done ((s.poke x.b.toNat (zeros 4096)).poke x.c.toNat (zeros 4096)) 0
      else
        let s := s.onPeer ch p fun t => { t with
          used := true, enabled := false, v2 := bit x.a 1, site := site, rxBase := x.b.toNat, txBase := x.c.toNat, pages := pages, parkedAt := [] }
        let s := s.missSite ch site
        done (s.reread ch (s.rereadFuel ch)) 0

/-! ## REPLICA_DIGEST (R377) -/

/-- Lists in lexicographic order. -/
def lexBefore : List Nat → List Nat → Bool
  | _, [] => false
  | [], _ :: _ => true
  | a :: r, b :: t => decide (a < b) || decide (a = b) && lexBefore r t

/-- Insert a shard in ascending tensor ID, then slice start. -/
def insertShard (k : BitVec 32 × List Nat × List Byte) : List (BitVec 32 × List Nat × List Byte) → List (BitVec 32 × List Nat × List Byte)
  | [] => [k]
  | h :: r => if k.1.toNat < h.1.toNat ∨ (k.1 = h.1 ∧ lexBefore k.2.1 h.2.1) then k :: h :: r else h :: insertShard k r

/-- The shard digest of a member as it stands in memory. -/
def State.memberDigest (s : State) (r : Region) (m : Nat) : BitVec 256 :=
  shardDigest (r.coord.tensor m) ((List.range r.coord.leaves).map fun k =>
    contentDigest r.coord k (leafContent r.coord k (s.granRead (r.leafGranule m k)).1))

/-- REPLICA_DIGEST. -/
def bodyReplicaDigest (x : Sub) (e : Ext) (s : State) : Res :=
  let regs := if x.handle = 0 then (s.regionsOf x.chamber).map (·.2) else (s.region x.handle.toNat).toList
  let shards := (regs.flatMap fun r => (List.range r.coord.members).map fun m => (r, m)).foldl (fun l p =>
    insertShard (p.1.coord.tensor p.2, p.1.coord.starts,
      leBytes 4 (p.1.coord.tensor p.2).toNat ++ padTo 48 (p.1.coord.starts.flatMap (leBytes 8)) ++ digestBytes (s.memberDigest p.1 p.2)) l) []
  let d := sha 1 ([0x10] ++ leBytes 8 x.a.toNat ++ leBytes 4 shards.length ++ shards.flatMap fun p => p.2.2)
  let n := (regs.map fun r => r.coord.members * r.coord.leaves).sum
  if e.writeErr then ended (s.undefBuf x.b.toNat 48) sMalformed 0 n []
  else ended (s.poke x.b.toNat d) sOk (BitVec.ofNat 64 (leNat (d.take 8))) n []

/-! ## Receive rows (R364-R372) -/

/-- Read a peer's host-written counts (R364). A count that falls, or is too far ahead, is ignored and a violation. -/
def State.sdxPoll (s : State) (ch p : Nat) (e : Ext) : State :=
  let t := (s.site ch).peers.get p
  if !t.used || !t.enabled || (s.ch ch).siteMode == 0 || !s.serving || s.pwr.state == .pass || e.readErr then s
  else
    let rx := leNat (s.peek t.rxBase 8)
    let tx := leNat (s.peek (t.txBase + 64) 8)
    let s := if rx < t.rxProd ∨ t.rxCons + (t.pages - 1) < rx then s.violSdx ch p else s.onPeer ch p fun t => { t with rxProd := rx }
    let s := if tx < t.txCons ∨ t.txProd < tx then s.violSdx ch p else s.onPeer ch p fun t => { t with txCons := tx }
    let s := if ((s.site ch).peers.get p).quar then
        (s.onPeer ch p fun t => { t with rxNext := t.rxProd, parkedAt := [] }).sdxConsume ch p
      else s
    (s.siteSettle ch e).serve ch

/-- Receive the next frame of a peer's ring (R365). With a full house of parked frames nothing more is parked. -/
def State.sdxReceive (s : State) (ch p : Nat) (e : Ext) : State :=
  let t := (s.site ch).peers.get p
  if !t.used || !t.enabled || t.quar || !(s.site ch).anchored || (s.ch ch).siteMode == 0 || !s.serving || s.pwr.state == .pass ||
      decide (t.rxProd ≤ t.rxNext) then s
  else
    let c := t.rxNext
    let f := (s.sdxAt t c).1
    let pages := min (max (if f.kind = 0 then f.n else sdxPages f.n) 1) (t.rxProd - c)
    let step (s : State) (parked : Bool) : State := s.onPeer ch p fun t => { t with
      rxNext := c + pages, parkedAt := if parked then t.parkedAt ++ [c] else t.parkedAt }
    if !e.readErr && f.kind == 0 && (bytesAt (s.peek (ringAt t.rxBase t.pages c) 64) 0 2 == [0x53, 0x58]) then
      let s := if t.rxProd < c + f.n ∨ f.n = 0 then s.violSdx ch p else s
      (step s false).sdxConsume ch p
    else
      let (s2, parked) := s.sdxHandle ch p c e.readErr
      if parked ∧ 4096 ≤ t.parkedAt.length then s
      else
        let s := (step s2 parked).sdxConsume ch p
        let n := ((s.site ch).peers.entries.map fun q => q.2.parkedAt.length).foldl (· + ·) 0
        (s.onSite ch fun u => { u with parkedPeak := max u.parkedPeak n }).siteSettle ch e

/-- The kind of the next frame of a ring. -/
def State.sdxKind (s : State) (ch p : Nat) : Option Nat :=
  let t := (s.site ch).peers.get p
  if t.rxNext < t.rxProd then some (s.sdxAt t t.rxNext).1.kind else none

/-- SDX_RING_POLL. -/
def execSdxRingPoll (ch p : Nat) (e : Ext) (s : State) : Host.Outcome State Fault Refusal := .next (s.sdxPoll ch p e)

/-- SDX_KICK (R364, R378). -/
def execSdxKick (a : Access) (ch : Nat) (peers : BitVec 15) (s : State) : Host.Outcome State Fault Refusal :=
  .next (s.pageWrite a ch 0x0B04 true fun s => (List.range 15).foldl (fun s p => if bit peers p then s.sdxPoll ch p .good else s) s)

/-- SDX_FRAME_RECEIVE. -/
def execSdxFrameReceive (ch p : Nat) (e : Ext) (s : State) : Host.Outcome State Fault Refusal := .next (s.sdxReceive ch p e)

/-- SDX_NACK: the next frame of the ring where it is a NACK. -/
def execSdxNack (ch p : Nat) (e : Ext) (s : State) : Host.Outcome State Fault Refusal :=
  .next (if s.sdxKind ch p = some 3 then s.sdxReceive ch p e else s)

/-- SDX_CATCHUP_REQ: the next frame of the ring where it is a CATCHUP_REQ. -/
def execSdxCatchupReq (ch p : Nat) (e : Ext) (s : State) : Host.Outcome State Fault Refusal :=
  .next (if s.sdxKind ch p = some 4 then s.sdxReceive ch p e else s)

/-- Runs of blocks of one member that follow one another: tensor, first, count. -/
def blkRuns : List (BitVec 32 × Nat) → List (BitVec 32 × Nat × Nat)
  | [] => []
  | (t, b) :: r => match blkRuns r with
    | (u, c, n) :: q => if u = t ∧ c = b + 1 then (t, b, n + 1) :: q else (t, b, 1) :: (u, c, n) :: q
    | [] => [(t, b, 1)]

/-- NACK frames for a list of ranges, 250 to a frame. -/
def State.sendNacks (s : State) (ch p : Nat) (q : BitVec 32) : Nat → List (BitVec 32 × Nat × Nat) → State
  | 0, _ => s
  | _, [] => s
  | k + 1, l =>
    let pay := (l.take 250).flatMap fun r => leBytes 4 r.1.toNat ++ leBytes 6 r.2.1 ++ zeros 2 ++ leBytes 4 r.2.2
    (s.sdxControl ch p 3 q pay).sendNacks ch p q k (l.drop 250)

/-- NACK_LEAD_TIMER (R370). -/
def execNackLeadTimer (ch : Nat) (_e : Ext) (s : State) : Host.Outcome State Fault Refusal :=
  .next (match (s.site ch).run with
    | none => s
    | some run =>
      if run.catchup || run.nacked || run.lead == 0 then s
      else
        let u := s.site ch
        let s := s.onSite ch fun u => { u with run := u.run.map fun r => { r with nacked := true } }
        u.enabledPeers.foldl (fun s p =>
          if !p.2.v2 || !u.contrib.contains p.2.site then s
          else
            let l := (s.blks ch).filterMap fun k =>
              let r := s.siteRec ch k.1
              let parked := p.2.parkedAt.any fun c =>
                let f := (s.sdxAt p.2 c).1
                f.seq.toNat == fld run.sub.a 31 0 && f.tensor == k.2.reg.coord.tensor k.2.m && f.block == k.2.b
              if r.applied || bit r.mask p.2.site || parked then none else some (k.2.reg.coord.tensor k.2.m, k.2.b)
            let rs := blkRuns l
            s.sendNacks ch p.1 (BitVec.ofNat 32 (fld run.sub.a 31 0)) (rs.length + 1) rs) s)

/-- DELTA_DEADLINE (R368, R372). -/
def execDeltaDeadline (ch : Nat) (e : Ext) (s : State) : Host.Outcome State Fault Refusal :=
  .next (let (f, s) := s.freeNat
    s.atDeadline ch (if e.writeErr then some f else none))

/-! ## Command rows -/

/-- ANCHOR_SET. -/
def execAnchorSet (x : Sub) (e : Ext) (s : State) : Host.Outcome State Fault Refusal :=
  .next (s.runOp { x with opcode := 0x70 } [] (bodyAnchorSet { x with opcode := 0x70 } e))

/-- DELTA_EMIT. -/
def execDeltaEmit (x : Sub) (e : Ext) (s : State) : Host.Outcome State Fault Refusal :=
  let x := { x with opcode := 0x71 }
  .next (let s := s.runOp x [] fun s => phased x (bodyDeltaEmit x e s)
    if (s.site x.chamber).run.isSome then s.siteSettle x.chamber .good else s)

/-- DELTA_APPLY. -/
def execDeltaApply (x : Sub) (e : Ext) (s : State) : Host.Outcome State Fault Refusal :=
  .next (s.runOp { x with opcode := 0x72 } [] (bodyDeltaApply { x with opcode := 0x72 } e))

/-- PEER_CONFIG with A[0] = 1. -/
def execPeerEnable (x : Sub) (_e : Ext) (s : State) : Host.Outcome State Fault Refusal :=
  let x := { x with opcode := 0x73, a := setBit x.a 0 true }
  .next (s.runOp x [] (bodyPeerConfig x))

/-- PEER_CONFIG with A[0] = 0. -/
def execPeerDisable (x : Sub) (_e : Ext) (s : State) : Host.Outcome State Fault Refusal :=
  let x := { x with opcode := 0x73, a := setBit x.a 0 false }
  .next (s.runOp x [] (bodyPeerConfig x))

/-- REPLICA_DIGEST. -/
def execReplicaDigest (x : Sub) (e : Ext) (s : State) : Host.Outcome State Fault Refusal :=
  .next (s.runOp { x with opcode := 0x74 } [] (bodyReplicaDigest { x with opcode := 0x74 } e))

end Sys2Proof.Machine
end

