-- ==== Sys2Proof/Machine/Power.lean ====
section
/-! DEFINITION. Power states (R445-R448, R468-R473), the power inputs (R64, R473), time (R68), POWER_POLICY. -/

namespace Sys2Proof.Machine

/-! ## Features (R124, Table 4 of chapter 05) -/

/-- The entry of a feature row: FEATURE_SET or FEATURE_GET with the feature's number in A[15:0]. -/
def featSub (x : Sub) (id : Nat) : Sub :=
  { x with opcode := 0x05, a := (x.a &&& 0xFFFFFFFFFFFF0000) ||| BitVec.ofNat 64 id }

/-- A block-wide feature is set from chamber 0 only. -/
def blockWide (x : Sub) (s : State) (r : Res) : Res := if x.chamber ≠ 0 then reject s sWrongChamber 9 0 0 0 else r

/-- FEATURE_SET POWER_POLICY (R469): the target and the idle time; in PASS a target above PASS wakes the block. -/
def bodyPowerPolicy (x : Sub) (s : State) : Res :=
  blockWide x s (
    let t := fld x.b 1 0
    if t = 3 then badParam s 24
    else
      let s := { s with pwr := { s.pwr with
        target := if t = 0 then .run else if t = 1 then .lean else .pass, idleMs := BitVec.ofNat 16 (fld x.b 31 16) } }
      done (if s.pwr.state = .pass ∧ t ≠ 2 then s.beginWake else s.policyMoves) 0)

/-- POWER_POLICY (R469). -/
def execPowerPolicy (x : Sub) (_e : Ext) (s : State) : Host.Outcome State Fault Refusal :=
  .next (s.runOp (featSub x 6) [] (bodyPowerPolicy (featSub x 6)))

/-! ## PWR_CTL -/

/-- PWR_CTL.wake (R471). -/
def State.wakeReq (s : State) : State :=
  ({ s with pwr := { s.pwr with target := .run } }).policyMoves.beginWake

/-- PWR_CTL.off_req: PASS to OFF; ignored and logged in any other state (R469). -/
def State.offReq (s : State) : State :=
  if s.pwr.state = .pass ∧ !s.pwr.waking then
    let s := s.domainOff 111
    { s with pwr := { s.pwr with state := .off } }
  else s.ignoredWrite 0xA004

/-- PWR_WAKE (R471). -/
def execPwrWake (a : Access) (s : State) : Host.Outcome State Fault Refusal :=
  .next (s.globalWrite a 0xA004 State.wakeReq)

/-- PWR_OFF_REQ (R469). -/
def execPwrOffReq (a : Access) (s : State) : Host.Outcome State Fault Refusal :=
  .next (s.globalWrite a 0xA004 State.offReq)

/-! ## PASS (R445, R470) -/

/-- PWR_PARK_NEED: the spec gives no rule for the size of the park record (assumption log 12). -/
def State.parkNeed (s : State) : Nat := Config.freeNat s.free % 2 ^ 24

/-- Whether bytes [a, a + n) meet a ring: of a queue, of a peer, the sump spill ring (R470, R483). -/
def State.meetsRing (s : State) (a n : Nat) (spill : Bool) : Bool :=
  let hit (b k : Nat) : Bool := meets a (a + n) b (b + k)
  (s.chambers.entries.any fun p =>
    (p.2.sqs.entries.any fun q => q.2.enable && hit q.2.base.toNat ((q.2.sizeM1 + 1) * 64)) ||
    (p.2.cqs.entries.any fun q => q.2.enable && hit q.2.base.toNat ((q.2.sizeM1 + 1) * 16))) ||
  (s.units.entries.any fun c => c.2.site.peers.entries.any fun p => p.2.used &&
    (hit p.2.rxBase (p.2.pages * 4096) || hit p.2.txBase (p.2.pages * 4096))) ||
  (spill && hit s.sump.spillBase s.sump.spillSize)

/-- Whether granules [lo, hi) meet a site area. -/
def State.meetsArea (s : State) (lo hi : Nat) : Bool :=
  s.units.entries.any fun c =>
    let u := c.2.site
    u.anchored && meets lo hi u.area (u.area + areaGranules u.blocks u.anchorType u.accUse u.outerUse)

/-- Whether bytes [a, a + n) may hold a structure of the block: in chamber 0's windows, outside every region, reserve, site area and ring. -/
def State.clearOf (s : State) (a n : Nat) (spill : Bool) : Bool :=
  let lo := a / 65536
  let hi := ceilDiv (a + n) 65536
  s.inWin 0 a n && !s.meetsRegion lo hi && !s.meetsReserve lo hi && !s.meetsArea lo hi && !s.meetsRing a n spill

/-- Whether the park area holds the record: large enough and in place (R470). -/
def State.parkFits (s : State) : Bool :=
  decide (s.parkNeed ≤ s.pwr.parkSize.toNat) && s.clearOf s.pwr.parkBase.toNat (s.pwr.parkSize.toNat * 65536) true

/-- Whether the work in progress lets the block into PASS (R445). -/
def State.quiet (s : State) : Bool :=
  s.cap.run.isNone && s.cap.waits.isEmpty && (s.stiles.entries.all fun p => p.2.copies.all fun k => k.forStep.isNone) &&
    (s.trk.stm.entries.all fun p => !p.2.isOpen) && (s.dgt.ctx.entries.all fun p => p.2.state == 0) &&
    s.cmds.all fun c => [0x01, 0x05, 0x06, 0x07, 0x11].contains c.sub.opcode.toNat

/-- PASS_ENTRY (R469, R470): CC1 checkpoints and unmounts the stores and parks the state, in a form the
spec leaves open (assumption log 11); every domain but FABM0 goes off. -/
def execPassEntry (e : Ext) (s : State) : Host.Outcome State Fault Refusal :=
  .next (if (s.pwr.state = .run ∨ s.pwr.state = .lean) ∧ s.pwr.target = .pass ∧ s.boot.stage = .ready ∧ s.boot.resetHeld = 0 ∧
      s.life.halted = 0 ∧ s.quiet ∧ s.parkFits ∧ (storeFault e).isNone then
    let l := s.sto.mount.entries.filterMap fun p => p.2.map fun i => (p.1, i)
    let s := l.foldl (fun s p => s.onMedia p.1 Media.checkpoint) s
    let n := s.parkNeed * 65536
    let s := s.undefBuf s.pwr.parkBase.toNat n
    let d := BitVec.ofNat 384 (leNat (sha 1 (s.peek s.pwr.parkBase.toNat n)))
    let s := (List.range 115).foldl (fun s d => if d = 111 then s else s.domainOff d) s
    { s with
      sto := { s.sto with mount := .const none }
      pwr := { s.pwr with state := .pass, park := some (n, d), parkStores := l } }
  else s)

/-! ## LEAN (R446, R468) -/

/-- Whether the cells of a group are free of work and not landing a stream. -/
def State.groupIdle (s : State) (d : Nat) : Bool :=
  let st := d / 3
  !(s.st st).isOpen && (groupCells d).all (fun c => ((s.st st).cells.get c).granule.isNone) && decide (s.poolUsed st = 0) &&
    (s.st st).held.isEmpty && s.cmds.all fun c => !(opDoms c.sub.opcode.toNat).2

/-- Whether a domain that LEAN gates has no queued or running work (Table 8 of chapter 17, R446). -/
def State.domIdle (s : State) (d : Nat) : Bool :=
  let busy (l : List Nat) : Bool := s.cmds.any fun c => l.contains c.sub.opcode.toNat
  if d < 96 then decide (d % 3 ≠ 0) && s.groupIdle d
  else if d = 98 ∨ d = 108 then
    (s.sto.mount.entries.all fun p => p.2.isNone) && !busy [0x09, 0x0A, 0x12, 0x22, 0x40, 0x41, 0x42, 0x43]
  else if 99 ≤ d ∧ d ≤ 102 then
    ((List.range 16).all fun c => coreDom c != d || (s.ciph.assigned.get c).isNone) && (s.cap.blocks.all fun b => b.stage != 2) &&
      !busy [0x0C, 0x40, 0x41, 0x42, 0x43, 0x71, 0x72, 0x82, 0x83]
  else if d = 103 then
    !busy [0x0D, 0x0E, 0x80, 0x81, 0x84] && s.dgt.ctx.entries.all fun p => p.2.state == 0
  else if d = 104 ∨ d = 105 then s.tags.isEmpty && s.trk.stm.entries.all fun p => !p.2.isOpen
  else if d = 106 then s.cap.run.isNone && s.cap.waits.isEmpty && s.stage.heldReads.isEmpty
  else if d = 107 then !busy [0x40, 0x41, 0x42, 0x43]
  else if d = 110 then s.jig.slice.isNone && s.jig.waitSlice.isNone && !busy [0x08]
  else if 112 ≤ d ∧ d ≤ 114 then
    (s.tags.all fun t => match t.tag with | .fab p _ _ => 111 + p != d | .mreq _ _ _ => true) && !busy [0x62, 0x64, 0x67, 0x70, 0x71, 0x72]
  else false

/-- IDLE_TIMER (R468): in LEAN a domain idle for the idle time is gated. -/
def execIdleTimer (d : Nat) (s : State) : Host.Outcome State Fault Refusal :=
  .next (if s.pwr.state = .lean ∧ s.dom d ∧ s.domBuilt d ∧ s.domIdle d then s.domainOff d else s)

/-! ## Power inputs and time -/

/-- WAKE_BUDGET_CHANGE (R64): the bucket holds at most max(WAKE_BUDGET, 4). -/
def execWakeBudgetChange (v : BitVec 8) (s : State) : Host.Outcome State Fault Refusal :=
  .next { s with port := { s.port with wakeBudget := v }, pwr := { s.pwr with tokens := min s.pwr.tokens (max v.toNat 4) } }

/-- SUPPLY_WARN (R473): suspensions are counted, the longest kept in microseconds. -/
def execSupplyWarn (v : Bool) (s : State) : Host.Outcome State Fault Refusal :=
  .next (if s.port.supplyWarn = v then s
    else
      let s := { s with port := { s.port with supplyWarn := v } }
      if s.boot.resetHeld = 2 then s
      else
        let s := s.useTime
        if v then { s with pwr := { s.pwr with warnEvents := satAdd 16 s.pwr.warnEvents 1, warnSince := some s.now } }
        else match s.pwr.warnSince with
          | none => s
          | some t => { s with pwr := { s.pwr with
              warnLongest := max s.pwr.warnLongest (min ((s.now - t) / 1000) 65535), warnSince := none } })

/-- TIME_IN_REGRESS (R68): TIME_IN reads below the last value used; logged once per occurrence. -/
def execTimeInRegress (t : Nat) (s : State) : Host.Outcome State Fault Refusal :=
  .next (if s.boot.resetHeld = 2 ∨ s.timeUsed ≤ t then s
    else
      let first := !s.timeBack
      let s := { s with timeIn := t, timeBack := true }
      if first then s.logStatus sNotInState 0 0 none (leBytes 8 t) else s)

/-- One nanosecond of TIME_IN (R64, R68): a held time is over once TIME_IN passes it; tokens accrue each microsecond up to the bucket's size.
DESIGN CHOICE, assumption log 3: this is what the block does when no command waits. -/
def State.tick (s : State) : State :=
  let t := s.timeIn + 1
  { s with
    timeIn := t
    timeBack := s.timeBack && decide (t ≤ s.timeUsed)
    pwr := { s.pwr with tokens :=
      if t % 1000 = 0 ∧ s.boot.resetHeld ≠ 2 then min (max s.port.wakeBudget.toNat 4) (s.pwr.tokens + s.port.wakeBudget.toNat)
      else s.pwr.tokens } }

end Sys2Proof.Machine
end

