-- ==== Sys2Proof/Machine/Jig.lean ====
section
/-! DEFINITION. Built-in self-test (R499-R509) and the test port's instructions (R70): periodic, commanded and manual slices. -/

namespace Sys2Proof.Machine

/-! ## Units and positions (R499) -/

/-- The positions of a sweep. -/
def State.sweepLen (s : State) : Nat := s.stileCount * 18 + 24

/-- Class and unit index of a position (Table 1 of chapter 19). -/
def State.unitAt (s : State) (p : Nat) : Nat × Nat :=
  let n := s.stileCount * 18
  if p < n then (if p % 18 = 17 then (1, p / 18) else (0, p / 18 * 17 + p % 18))
  else if p < n + 16 then (2, p - n) else (3, p - n - 16)

/-- The position of a unit, where it is built. -/
def State.posOf (s : State) (cls u : Nat) : Option Nat :=
  let n := s.stileCount
  match cls with
  | 0 => if u < n * 17 then some (u / 17 * 18 + u % 17) else none
  | 1 => if u < n then some (u * 18 + 17) else none
  | 2 => if u < 16 then some (n * 18 + u) else none
  | _ => if u < 8 then some (n * 18 + 16 + u) else none

/-- The domain of a unit. -/
def State.unitDom (s : State) (p : Nat) : Nat :=
  match s.unitAt p with
  | (0, _) => p / 18 * 3 + (if p % 18 < 8 then 1 else 2)
  | (1, u) => 3 * u
  | (2, u) => coreDom u
  | _ => 103

/-- The cell index a physical cell serves, if it does. -/
def Stile.indexOf (t : Stile) (phys : Nat) : Option Nat :=
  if phys = 16 then t.spareAt else if t.spareAt = some phys ∨ t.disabled.contains phys then none else some phys

/-- Whether a unit has been declared failed. -/
def State.unitFailed (s : State) (p : Nat) : Bool :=
  (s.jig.units.get p).failed ||
    (match s.unitAt p with
    | (1, u) => (s.st u).removed
    | (2, u) => bit s.ciph.failed u
    | (3, u) => bit s.dgt.failed u
    | _ => false)

/-- Whether a unit is free for a slice (Table 2 of chapter 19). -/
def State.unitFree (s : State) (p : Nat) : Bool :=
  match s.unitAt p with
  | (0, _) =>
    let t := s.st (p / 18)
    (match t.indexOf (p % 18) with
    | some i => (t.cells.get i).granule.isNone
    | none => true)
  | (1, u) => !(s.st u).isOpen && (s.st u).copies.isEmpty && (s.st u).held.isEmpty
  | (2, u) => (s.ciph.assigned.get u).isNone
  | _ => true

/-! ## The window (R503) -/

/-- The junction temperature as a signed number of degrees, offset by 128. -/
def tjOff (v : BitVec 8) : Nat := (v.toNat + 128) % 256

/-- Whether monitor readings lie in the operating window. -/
def inWindow (vdd : BitVec 10) (tj : BitVec 8) : Bool :=
  decide (700 ≤ vdd.toNat ∧ vdd.toNat ≤ 850) && decide (118 ≤ tjOff tj ∧ tjOff tj ≤ 228)

/-- JIG_MON after a reading. -/
def State.monitor (s : State) (vdd : BitVec 10) (tj : BitVec 8) : State := { s with jig := { s.jig with vdd := vdd, tj := tj } }

/-- A slice deferred by the window. -/
def State.deferWindow (s : State) : State :=
  { s with jig := { s.jig with defWindow := satAdd 16 s.jig.defWindow 1, deferAll := s.jig.deferAll + 1 } }

/-- A slice yielded, or a unit passed over. -/
def State.yielded (s : State) : State :=
  { s with jig := { s.jig with yields := satAdd 16 s.jig.yields 1, yieldAll := s.jig.yieldAll + 1 } }

/-! ## The end of a slice -/

/-- Re-initialise a unit as it returns (Table 2 of chapter 19): a cell's program cache and directory are empty. -/
def State.reinit (s : State) (p : Nat) : State :=
  match s.unitAt p with
  | (0, _) => match (s.st (p / 18)).indexOf (p % 18) with
    | some i => if ((s.st (p / 18)).cells.get i).granule.isNone then s.onCell (p / 18) i fun _ => .zero else s
    | none => s
  | _ => s

/-- The consequences of a failed unit (R505). -/
def State.unitFail (s : State) (p : Nat) : State :=
  match s.unitAt p with
  | (0, _) =>
    let st := p / 18
    let s := match (s.st st).indexOf (p % 18) with
      | some i => s.cellOut st i
      | none => s
    if p % 18 = 16 then s.onSt st fun t => { t with spareBad := true } else s
  | (1, u) =>
    let s := if (s.st u).moverOn then s.loseMover u else s
    (s.onSt u fun t => { t with removed := true, moverOn := false }).raise 1
  | (2, u) => if bit s.ciph.failed u then s else s.coreFailed u
  | (_, u) =>
    let s := { s with dgt := { s.dgt with failed := setBit s.dgt.failed u true } }
    if ((List.range 8).filter fun e => !bit s.dgt.failed e).length < 4 then s.raise 5 else s

/-- The sump's source kind of a class. -/
def classKind (cls : Nat) : Nat := match cls with | 0 => 3 | 1 => 2 | 2 => 4 | _ => 5

/-- Record a completed slice: it passed, passed on its repeat, or failed twice (R505, R508). -/
def State.sliceRecord (s : State) (p pattern : Nat) (miss again : Bool) (segment : Nat) : State :=
  let s := s.useTime
  let (cls, u) := s.unitAt p
  let bad := miss && again
  let rec_ (r : JigUnit) : JigUnit := { r with
    passed := if bad then r.passed else satAdd 32 r.passed 1, failedN := if bad then satAdd 16 r.failedN 1 else r.failedN
    transients := if miss && !again then satAdd 16 r.transients 1 else r.transients, failed := r.failed || bad
    pattern := pattern, time := s.now / 10 ^ 9 % 2 ^ 32 }
  let s := { s with jig := { s.jig with
    run := s.jig.run + 1, units := s.jig.units.modify p rec_
    transients := if miss && !again then satAdd 16 s.jig.transients 1 else s.jig.transients
    failures := if bad then satAdd 16 s.jig.failures 1 else s.jig.failures
    lastFail := if bad then BitVec.ofNat 32 (segment % 65536 * 65536 + pattern * 4096 + cls * 1024 + u) else s.jig.lastFail } }
  let s := if miss then s.log sDegraded 0 (classKind cls) u none (leBytes 1 pattern ++ leBytes 2 segment) else s
  if bad then s.unitFail p else s.reinit p

/-- Start the manual slice that waits, once the jig and its unit are free and the window holds. -/
def State.startWaiting (s : State) : State :=
  match s.jig.waitSlice with
  | none => s
  | some w =>
    if s.jig.slice.isSome ∨ !inWindow s.jig.vdd s.jig.tj ∨ !s.dom 110 ∨ !s.dom (s.unitDom w.1) then s
    else if !s.unitFree w.1 then s.yielded
    else { s with jig := { s.jig with slice := some w, waitSlice := none, deferred := false } }

/-- The slice under way ends without a result: its unit is re-initialised and returned. -/
def State.dropSlice (s : State) : State :=
  match s.jig.slice with
  | none => s
  | some (p, _) => ({ s with jig := { s.jig with slice := none } }).reinit p

/-! ## Periodic slices (R504) -/

/-- Whether periodic slices run now. -/
def State.periodicOn (s : State) : Bool :=
  s.feat.selfTest && (s.life.life == .prov || s.life.life == .field || s.life.life == .fieldOpen) &&
    (s.pwr.state == .run || s.pwr.state == .lean) && s.boot.stage == .ready && s.boot.resetHeld == 0 && !s.jig.manual && s.jig.slice.isNone &&
    !s.cmds.any fun c => c.sub.opcode == 0x08 && c.phase == 2

/-- Try positions in turn: those whose unit is free take the slice; those passed over are noted and counted, but for a failed unit and one whose
domain is gated. -/
def State.tryUnits (s : State) : List Nat → State × Option Nat
  | [] => (s, none)
  | p :: r =>
    if s.unitFailed p then s.tryUnits r
    else if !s.dom (s.unitDom p) then
      ({ s with jig := { s.jig with passedOver := s.jig.passedOver ++ [p] } }).tryUnits r
    else if s.unitFree p then (s, some p)
    else ({ s with jig := { s.jig with passedOver := s.jig.passedOver ++ [p] } }).yielded.tryUnits r

/-- Move the sweep past a position. -/
def State.sweepPast (s : State) (p : Nat) : State :=
  let n := p + 1
  if s.sweepLen ≤ n then { s with jig := { s.jig with sweep := 0, sweeps := satAdd 32 s.jig.sweeps 1 } }
  else { s with jig := { s.jig with sweep := n } }

/-- The slice takes a unit for a standard periodic slice. -/
def State.takePeriodic (s : State) (p : Nat) : State := { s with jig := { s.jig with slice := some (p, 1, 0) } }

/-- PERIODIC_SLICE (R504): units passed over before are tried first, then the sweep position and the eight after it in this sweep. -/
def execPeriodicSlice (o : SliceOutcome) (s : State) : Host.Outcome State Fault Refusal :=
  .next (if !s.periodicOn then s
    else if !s.dom 110 then s.wantDom 110
    else
      let s := s.monitor o.vdd o.tj
      if !inWindow o.vdd o.tj then s.deferWindow
      else
        let old := s.jig.passedOver
        let s := { s with jig := { s.jig with passedOver := [] } }
        match s.tryUnits old with
        | (s, some p) =>
          let left := old.drop ((old.takeWhile fun q => q != p).length + 1)
          ({ s with jig := { s.jig with passedOver := s.jig.passedOver ++ left } }).takePeriodic p
        | (s, none) =>
          let l := (List.range (min 9 (s.sweepLen - s.jig.sweep))).map (s.jig.sweep + ·)
          match s.tryUnits l with
          | (s, some p) => (s.sweepPast p).takePeriodic p
          | (s, none) => s.sweepPast (l.getLastD s.jig.sweep))

/-- SLICE_YIELD (R501): the unit is needed; the slice is run again from its start at its next opportunity. A held manual slice does not yield. -/
def execSliceYield (s : State) : Host.Outcome State Fault Refusal :=
  .next (match s.jig.slice with
    | none => s
    | some (p, pat, kind) =>
      if kind = 2 then s
      else
        let s := s.dropSlice.yielded
        if kind = 0 then { s with jig := { s.jig with passedOver := s.jig.passedOver ++ [p] } }
        else { s with jig := { s.jig with waitSlice := some (p, pat, kind) } })

/-- A manual slice's result in the JIG_MANUAL register (Table 4 of chapter 19). -/
def State.manualResult (s : State) (p : Nat) (bad : Bool) (segment : Nat) : State :=
  let (cls, u) := s.unitAt p
  { s with jig := { s.jig with
    lastRes := if bad then 2 else 1, lastClass := cls, lastUnit := u, lastSeg := segment % 65536
    inSession := (s.jig.inSession + 1) % 65536 } }

/-- SLICE_COMPLETE (R505). -/
def execSliceComplete (o : SliceOutcome) (s : State) : Host.Outcome State Fault Refusal :=
  .next (match s.jig.slice with
    | none => s
    | some (p, pat, kind) =>
      let s := { s with jig := { s.jig with slice := none } }
      let s := s.sliceRecord p pat o.miss o.missAgain o.segment
      let s := if kind = 0 then s else s.manualResult p (o.miss && o.missAgain) (if o.miss then o.segment else 0)
      s.startWaiting)

/-! ## SELF_TEST (R506) -/

/-- One commanded slice of a SELF_TEST at position `p`. -/
def State.testUnit (s : State) (pattern : Nat) (o : SliceOutcomes) (p : Nat) : State :=
  s.sliceRecord p pattern (o.failed.contains p || o.transients.contains p) (o.failed.contains p) o.segment

/-- SELF_TEST (R506). A slice due outside the window waits for JIG_WINDOW_REGAINED. -/
def bodySelfTest (x : Sub) (o : SliceOutcomes) (s : State) : Res :=
  let pattern := if fld x.a 1 0 = 1 then 0 else 2
  let units := (List.range s.sweepLen).filter fun p => !s.unitFailed p
  let off := ((110 :: units.map s.unitDom).eraseDups).filter fun d => !s.dom d
  if s.jig.manual ∨ s.jig.slice.isSome then wait s
  else if !off.isEmpty then wait (s.wantDoms off)
  else if !inWindow s.jig.vdd s.jig.tj then
    wait (if s.jig.deferred then s else { s.deferWindow with jig := { s.deferWindow.jig with deferred := true } })
  else
    let bad := units.filter o.failed.contains
    let s := units.foldl (fun s p => s.testUnit pattern o p) s
    let s := { s with jig := { s.jig with yields := satAdd 16 s.jig.yields o.yields, yieldAll := s.jig.yieldAll + o.yields, deferred := false } }
    let first := match bad with
      | p :: _ => let (cls, u) := s.unitAt p; cls * 1024 + u
      | [] => 0
    ended s (if bad.isEmpty then sOk else sDegraded) (BitVec.ofNat 64 bad.length) units.length
      [BitVec.ofNat 64 units.length, BitVec.ofNat 64 bad.length, BitVec.ofNat 64 o.yields, BitVec.ofNat 64 first]

/-- SELF_TEST (R506). -/
def execSelfTest (x : Sub) (_e : Ext) (o : SliceOutcomes) (s : State) : Host.Outcome State Fault Refusal :=
  .next (s.runOp { x with opcode := 0x08 } [] (bodySelfTest { x with opcode := 0x08 } o))

/-- FEATURE_SET PERIODIC_SELF_TEST (R504). -/
def bodyPeriodicSelfTest (x : Sub) (s : State) : Res :=
  blockWide x s (
    if fld x.b 15 8 = 0 then badParam s 25
    else done { s with feat := { s.feat with selfTest := bit x.b 0, period := fld x.b 15 8 } } 0)

/-- PERIODIC_SELF_TEST (R504). -/
def execPeriodicSelfTest (x : Sub) (_e : Ext) (s : State) : Host.Outcome State Fault Refusal :=
  .next (s.runOp (featSub x 2) [] (bodyPeriodicSelfTest (featSub x 2)))

/-- JIG_WINDOW_REGAINED (R503): the commanded slice that waits may start. -/
def execJigWindowRegained (vdd : BitVec 10) (tj : BitVec 8) (s : State) : Host.Outcome State Fault Refusal :=
  .next (if s.boot.resetHeld = 2 then s else
    let s := s.monitor vdd tj
    if inWindow vdd tj then ({ s with jig := { s.jig with deferred := false } }).startWaiting else s)

/-- DOMAIN_WAKE_COMPLETE (R472). A manual slice that waits for its unit's domain may start (R507). -/
def execDomainWakeComplete (d : Nat) (img : Image) (s : State) : Host.Outcome State Fault Refusal :=
  .next (if !s.pwr.ramping.contains d then s
    else
      let early := s.dom 111 && s.dom 103
      let s := { s with pwr := { s.pwr with ramping := s.pwr.ramping.filter (· != d) } }
      let s := s.domainUp d
      if s.pwr.waking then
        let s := if !early && s.dom 111 && s.dom 103 then (s.takeImage img id).wakeRefused s else s
        (if s.pwr.waking && s.allUp then s.wakeDone else s).startWaiting
      else (s.wakeOn img).startWaiting)

/-! ## The test port (R70, R507) -/

/-- Whether a lifecycle state grants the manual jig at a lamp level (Table 1 of chapter 17). -/
def Life.jigAt (l : Life) (level : Nat) : Bool := l.grants || (l == .fieldOpen && level == 3)

/-- Whether the manual jig may be opened (R452, R507). -/
def State.jigAllowed (s : State) : Bool :=
  s.life.life.jigAt s.life.level && (match s.life.pending with | some t => t.jigAt s.life.level | none => true)

/-- The instruction register takes a value; leaving JIG_MANUAL ends the session and its slice. -/
def State.loadIr (s : State) (code : BitVec 6) : State :=
  let s := if s.jig.manual && code != 0x21 then
      let s := match s.jig.slice with | some (_, _, k) => if k = 0 then s else s.dropSlice | none => s
      { s with jig := { s.jig with manual := false, waitSlice := none, deferred := false } }
    else s
  { s with life := { s.life with tapIr := code } }

/-- A JIG_MANUAL load: a session where its condition holds, else BYPASS and LAMP_DENIED. -/
def State.openJig (s : State) : State :=
  if !s.jigAllowed then (s.loadIr 0x3F).lampDenied [0x21]
  else if s.jig.manual then s
  else
    let s := s.loadIr 0x21
    { s with jig := { s.jig with manual := true, inSession := 0, lastRes := 0, lastClass := 0, lastUnit := 0, lastSeg := 0 } }

/-- JIG_MANUAL_SESSION (R507). -/
def execJigManualSession (open_ : Bool) (s : State) : Host.Outcome State Fault Refusal :=
  .next (if s.boot.resetHeld = 2 then s else if open_ then s.openJig else s.loadIr 0x3F)

/-- TAP_INSTRUCTION (R70): an instruction whose condition is not met acts as BYPASS, with LAMP_DENIED logged; unassigned codes are BYPASS. -/
def execTapInstruction (code : BitVec 6) (s : State) : Host.Outcome State Fault Refusal :=
  .next (if s.boot.resetHeld = 2 then { s with life := { s.life with tapIr := 0x3F } } else
    match code.toNat with
    | 0x00 => if s.testOps then s.loadIr 0x00 else (s.loadIr 0x3F).lampDenied [0x00]
    | 0x01 => s.loadIr 0x01
    | 0x10 => s.loadIr 0x10
    | 0x11 => s.loadIr 0x11
    | 0x20 => if s.pwr.state = .off ∧ s.life.level = 3 then (s.loadIr 0x20).scan else (s.loadIr 0x3F).scan
    | 0x21 => s.openJig
    | _ => s.loadIr 0x3F)

/-- An Update-DR of JIG_MANUAL (Table 4 of chapter 19). -/
def State.manualSlice (s : State) (v : BitVec 64) (o : SliceOutcome) : State :=
  if !s.jig.manual ∨ !bit v 63 then s
  else
    let pattern := fld v 61 60
    let hold := bit v 62
    match s.posOf (fld v 59 58) (fld v 57 48) with
    | some p =>
      if fld v 47 0 ≠ 0 ∨ pattern = 3 ∨ (hold && !s.testOps) ∨ !(s.pwr.state = .run ∨ s.pwr.state = Power.lean) then
        { s with jig := { s.jig with lastRes := 3 } }
      else
        let s := s.monitor o.vdd o.tj
        let s := { s with jig := { s.jig with waitSlice := some (p, pattern, if hold then 2 else 1) } }
        let s := if inWindow o.vdd o.tj then s else { s.deferWindow with jig := { s.deferWindow.jig with deferred := true } }
        let off := [110, s.unitDom p].filter fun d => !s.dom d
        (s.wantDoms off).startWaiting
    | none => { s with jig := { s.jig with lastRes := 3 } }

/-- JIG_MANUAL_SLICE (R507). -/
def execJigManualSlice (v : BitVec 64) (o : SliceOutcome) (s : State) : Host.Outcome State Fault Refusal :=
  .next (if s.boot.resetHeld = 2 then s else s.manualSlice v o)

end Sys2Proof.Machine
end

