-- ==== Sys2Proof/Machine/Faults.lean ====
section
/-! DEFINITION. Faults and degraded service (R476-R498): the sump's registers and spill ring, violation decay, tags without an answer, the service
slabs and failover, core failures, SRAM faults. -/

namespace Sys2Proof.Machine

/-! ## The sump (R479-R485) -/

/-- SMP_CTL.clear: the general area is emptied (R484). -/
def State.clearSump (s : State) : State :=
  { s with sump := { s.sump with entries := s.sump.entries.filter fun e => e.fatalArea } }

/-- SUMP_CLEAR (R484). -/
def execSumpClear (a : Access) (s : State) : Host.Outcome State Fault Refusal :=
  .next (s.globalWrite a 0xF004 State.clearSump)

/-- A write of SMP_SPILL_CONS: below the present value or above the producer count it is ignored (Table 11 of chapter 18). -/
def State.spillCons (s : State) (v : Nat) : State :=
  if v < s.sump.cons ∨ s.sump.prod < v then s.ignoredWrite 0xF040 else { s with sump := { s.sump with cons := v } }

/-- SPILL_CONSUME (R483). -/
def execSpillConsume (a : Access) (v : BitVec 64) (s : State) : Host.Outcome State Fault Refusal :=
  .next (s.globalWrite a 0xF040 fun s => s.spillCons v.toNat)

/-- The 64 bytes of a sump entry (Table 2 of chapter 18). -/
def SumpEntry.bytes (e : SumpEntry) : List Byte :=
  leBytes 8 e.seq ++ leBytes 8 e.first ++ leBytes 8 e.last ++ leBytes 4 e.count ++ leBytes 2 e.code.toNat ++ leBytes 1 e.severity ++
    leBytes 1 e.kind ++ leBytes 2 e.index ++ leBytes 1 (match e.chamber with | some c => 128 + c % 32 | none => 0) ++
    leBytes 1 (b2n e.coalesced + 2 * b2n e.spilled) ++ padTo 14 e.detail ++ padTo 14 e.detailLast

/-- Entries the spill ring holds. -/
def Sump.ringSize (u : Sump) : Nat := u.spillSize / 64

/-- Whether the ring fill is at the watermark (R485). -/
def Sump.ringAtWm (u : Sump) : Bool := decide ((if u.wm = 0 then 1 else u.wm) * u.ringSize ≤ (u.prod - u.cons) * 100)

/-- The ring's watermark after a write: one count, entry and, first since a read, interrupt per crossing (R485). -/
def State.ringCheck (s : State) (was : Bool) : State :=
  if was || !s.sump.ringAtWm then s
  else
    let first := !s.sump.ringCross
    let s := { s with sump := { s.sump with ringCross := true, ringCount := min 255 (s.sump.ringCount + 1) } }
    let s := s.log eWatermark 1 0 0 none []
    if first then s.cause 1 else s

/-- Write one entry to the ring: it leaves the sump, a FATAL one stays with its spilled flag; a write answered with ERR stops spilling. -/
def State.spillOne (s : State) (x : SumpEntry) (err : Bool) : State :=
  let a := s.sump.spillBase + s.sump.prod % s.sump.ringSize * 64
  if err then { (s.undefBuf a 64) with sump := { s.sump with spillFault := true } }
  else
    let was := s.sump.ringAtWm
    let s := s.poke a x.bytes
    let left := s.sump.entries.filterMap fun y =>
      if y.seq = x.seq then (if x.severity = 4 then some { y with spilled := true } else none) else some y
    ({ s with sump := { s.sump with entries := left, prod := s.sump.prod + 1 } }).ringCheck was

/-- SUMP_SPILL_ENTRY (R483): the oldest entry not yet spilled goes to the ring, while the ring has room and FABM0 is on. -/
def execSumpSpillEntry (e : Ext) (s : State) : Host.Outcome State Fault Refusal :=
  .next (if s.sump.spillSize = 0 ∨ s.sump.spillFault ∨ s.sump.ringSize ≤ s.sump.prod - s.sump.cons ∨ s.boot.stage ≠ .ready then s
    else match s.sump.entries.find? fun x => !x.spilled with
    | none => s
    | some x => if !s.dom 111 then s.wantDom 111 else s.spillOne x e.writeErr)

/-- Whether the ring lies in the park area. -/
def State.inPark (s : State) (a n : Nat) : Bool :=
  meets a (a + n) s.pwr.parkBase.toNat (s.pwr.parkBase.toNat + s.pwr.parkSize.toNat * 65536)

/-- FEATURE_SET SUMP_SPILL (R483). -/
def bodySumpSpill (x : Sub) (s : State) : Res :=
  blockWide x s (
    let n := fld x.c 24 0
    let a := x.b.toNat
    if n = 0 then done { s with sump := { s.sump with spillBase := 0, spillSize := 0, spillFault := false } } 0
    else if n % 4096 ≠ 0 ∨ 2 ^ 24 < n then badParam s 32
    else if a % 4096 ≠ 0 ∨ !s.clearOf a n false ∨ s.inPark a n then badParam s 24
    else done { s with sump := { s.sump with spillBase := a, spillSize := n, spillFault := false } } 0)

/-- SUMP_SPILL (R483). -/
def execSumpSpill (x : Sub) (_e : Ext) (s : State) : Host.Outcome State Fault Refusal :=
  .next (s.runOp (featSub x 3) [] (bodySumpSpill (featSub x 3)))

/-! ## Violations (R476) -/

/-- FEATURE_SET PARTNER_THRESHOLD: each threshold 1 to 255. -/
def bodyPartnerThreshold (x : Sub) (s : State) : Res :=
  blockWide x s (
    let n := fld x.b 7 0
    let p := fld x.b 15 8
    let c := fld x.b 23 16
    if n = 0 then badParam s 24 else if p = 0 then badParam s 25 else if c = 0 then badParam s 26
    else done { s with feat := { s.feat with thNvme := n, thSdx := p, thChain := c } } 0)

/-- PARTNER_THRESHOLD (R476). -/
def execPartnerThreshold (x : Sub) (_e : Ext) (s : State) : Host.Outcome State Fault Refusal :=
  .next (s.runOp (featSub x 5) [] (bodyPartnerThreshold (featSub x 5)))

/-- VIOLATION_DECAY (R476): at the end of a decay period a count above zero falls by one. -/
def execViolationDecay (p : Partner) (s : State) : Host.Outcome State Fault Refusal :=
  .next (match p with
    | .sq ch q => s.onSq ch q fun t => { t with viol := t.viol - 1 }
    | .cq ch q => s.onCq ch q fun t => { t with viol := t.viol - 1 }
    | .nvme c => s.onNvme c fun t => { t with viol := t.viol - 1 }
    | .sdx ch i => s.onSite ch fun u => { u with peers := u.peers.modify i fun t => { t with viol := t.viol - 1 } }
    | .chain src => { s with chain := { s.chain with viol := s.chain.viol.modify src (· - 1) } })

/-! ## Tags without an answer (R478) -/

/-- A tag counts as answered with ERR on every beat and stays out of its pool until its real answer, of which `len` bytes are still to come; its
owner fails as for ERR (R44, R52, R276). -/
def State.holdTag (s : State) (u : TagUse) (dropped : Bool) : State :=
  let got := ((s.trk.answers.find? fun (w : Answer) => w.use == u).map fun (w : Answer) => w.data.length).getD 0
  let held : TagUse := { u with heldOut := true, dropped := dropped, len := if isRead u.tag then 256 - got else u.len }
  let s := { s with tags := s.tags.map fun t => if t = u then held else t }
  if isRead u.tag then
    let answers := (s.trk.answers.filter fun (w : Answer) => w.use != u) ++ (if u.stream.isSome then [Answer.mk held [] true true] else [])
    { s with trk := { s.trk with answers := answers } }
  else match u.stream with
    | some (i, g) => if (s.trk.stm.get i).gen = g ∧ (s.trk.stm.get i).isOpen then (s.writeFails i u).settleClose i else s
    | none => s

/-- TAG_TIMEOUT (R67, R478). -/
def execTagTimeout (ref : TagRef) (s : State) : Host.Outcome State Fault Refusal :=
  .next (match s.tags.find? fun u => u.tag == ref && !u.heldOut with
    | none => s
    | some u =>
      let s := s.holdTag u false
      match ref with
      | .mreq st _ _ => (s.log eTagHeld 3 2 st none []).cause 6
      | .fab port _ _ => (s.log eTagHeld 3 9 port none []).cause 6)

/-! ## Service cores (R489-R494) -/

/-- Whether service core `k` (1 to 3) is powered, alive and not halted. -/
def State.coreRuns (s : State) (k : Nat) : Bool := s.dom (95 + k) && !bit s.svc.coreDead (k - 1) && !bit s.life.halted (k - 1)

/-- SLAB_COPY (R490): the standby acknowledges the next slab; the journal records it covers are freed (R491). -/
def execSlabCopy (s : State) : Host.Outcome State Fault Refusal :=
  .next (let other := 3 - s.svc.active
    if s.boot.stage = .ready ∧ s.boot.resetHeld = 0 ∧ s.coreRuns s.svc.active ∧ s.coreRuns other then
      { s with svc := { s.svc with standby := other, standbyOk := true, slab := s.svc.slab + 1, journal := [] } }
    else s)

/-- The outcome of a core's restart: a log entry, and reason 4 while a core does not run (R494, R495). -/
def State.restarted (s : State) (core : Nat) (ok : Bool) : State :=
  let s := s.log eCoreRestart 1 11 core none (leBytes 1 core ++ leBytes 1 (b2n ok))
  let s := { s with svc := { s.svc with coreDead := setBit s.svc.coreDead (core - 1) (!ok) } }
  if !ok then s.raise 4 else if s.svc.coreDead = 0 then s.unraise 4 else s

/-- The image in host memory as it was measured last: what a warm reset without host action fetches. -/
def State.sameImage (s : State) : Image :=
  { fetchErr := false, headerOk := true, version := s.boot.running, rollback := s.boot.imageIndex, pubKey := s.boot.runKey, sigR := 0, sigS := 0,
    digest := s.boot.sg1Digest.getD 0, liveCompat := s.boot.compat }

/-- A long command, or the present stage of a Dovetail, stops at its unit boundary: STEP_APPLY leaves APPLIED, DELTA_EMIT gives back invocations,
DELTA_APPLY ends its run (R115, R352). -/
def State.stopStage (s : State) (c : Cmd) : State :=
  let x := c.sub
  let op := if x.opcode = 0x54 then ((c.stages[c.units]?).map (·.opcode)).getD 0 else x.opcode
  if c.phase = 1 then s
  else if op = 0x64 then s.stopApply x.chamber
  else if op = 0x71 then s.emitRelease x
  else if op = 0x72 then s.onSite x.chamber fun u => { u with run := none }
  else s

/-- Settle one command in flight (Table 7 of chapter 18): a DOVETAIL ends in phase 5; a STEP_MEASURE begins again; an enumeration is started again;
the others go on or run again where their rows next run. -/
def State.settleCmd (s : State) (c : Cmd) : State :=
  let x := c.sub
  if x.opcode = 0x54 then
    let s := s.stopStage c
    let s := s.log eFailover 3 1 (x.chamber * 32 + x.sq) (some x.chamber) (leBytes 2 x.cid.toNat)
    s.finish x 5 sAborted (BitVec.ofNat 64 (c.units + 1)) c.units c.res
  else if x.opcode = 0x62 then s.onCmd x fun c => { c with prog := 0, acc := [] }
  else if x.opcode = 0x10 ∧ s.chainW.enumCmd = some x then s.enumStart (some x)
  else s

/-- Note the captures that a failover ends. -/
def State.noteCaptures (s : State) : State :=
  (s.cap.run.toList ++ s.cap.waits.map (·.run)).foldl (fun s r =>
    s.log eFailover 3 1 (r.chamber * 32 + (match r.cmd with | some x => x.sq | none => 0)) (some r.chamber)
      (leBytes 2 (match r.cmd with | some x => x.cid.toNat | none => 0))) s

/-- The active core has failed (R492-R494): the standby takes over with its slab and the journal, settles the commands in flight, and the failed
core is restarted as standby; without a standby that holds a slab, the warm reset of R85. -/
def State.failover (s : State) (restartOk : Bool) : State :=
  let old := s.svc.active
  let other := 3 - old
  if s.svc.standbyOk && s.coreRuns other then
    let ended := (s.cap.run.toList ++ s.cap.waits.map (·.run)).length + (s.cmds.filter fun c => c.sub.opcode == 0x54).length
    let s := s.log eFailover 3 11 old none (leBytes 8 s.svc.slab ++ leBytes 4 ended)
    let s := s.noteCaptures.capAllEnd
    let s := s.cmds.foldl State.settleCmd s
    let (n, s) := s.freeNat
    let s := { s with svc := { s.svc with
      active := other, standby := if restartOk then old else 0, standbyOk := false, failovers := satAdd 16 s.svc.failovers 1
      pauseUs := min n 65535, journal := [] } }
    s.restarted old restartOk
  else
    let img := s.sameImage
    ((s.log eFailover 4 11 old none (leBytes 8 s.svc.slab ++ leBytes 4 0)).warmAssert).warmStart img

/-- Whether the active core's heartbeat is watched: in service and not halted (R489). -/
def State.beating (s : State) : Bool :=
  s.boot.stage == .ready && s.boot.resetHeld == 0 && s.dom (95 + s.svc.active) && !bit s.life.halted (s.svc.active - 1)

/-- HEARTBEAT_TIMEOUT (R489, R492). -/
def execHeartbeatTimeout (s : State) : Host.Outcome State Fault Refusal :=
  .next (if s.beating then s.failover true else s)

/-- CC3 fails (R494): captures end, the other storage commands run again; a restart attaches the controllers and mounts the stores again. -/
def State.storageCore (s : State) (ok : Bool) : State :=
  let s := s.noteCaptures.capAllEnd
  let s := if ok then
      (s.sto.mount.entries.filterMap fun p => p.2.map fun _ => p.1).foldl (fun s h => s.onMedia h Media.remount) s
    else s
  ({ s with sto := { s.sto with down := !ok } }).restarted 3 ok

/-- CONTROL_CORE_FAILURE (R494). -/
def execControlCoreFailure (core : Nat) (restartOk : Bool) (s : State) : Host.Outcome State Fault Refusal :=
  .next (if core = 0 ∨ 3 < core ∨ s.boot.stage ≠ .ready ∨ s.boot.resetHeld ≠ 0 then s
    else if core = 3 then s.storageCore restartOk
    else if core = s.svc.active then (if s.beating then s.failover restartOk else s)
    else ({ s with svc := { s.svc with standby := if restartOk then core else 0, standbyOk := false } }).restarted core restartOk)

/-- CC0_WATCHDOG (R494): CC0 starts again from ROM without a fuse read; a FATAL entry. -/
def execCc0Watchdog (s : State) : Host.Outcome State Fault Refusal :=
  .next (if s.boot.resetHeld = 2 then s else s.log eCoreRestart 4 11 0 none (leBytes 1 0 ++ leBytes 1 1))

/-! ## SRAM faults (R495, R497) -/

/-- Retire the row's unit (Table 10 of chapter 18). -/
def State.retireRow (s : State) (u : SramUnit) : State :=
  let fatal (s : State) (kind index : Nat) : State := s.log sNotInState 4 kind index none []
  match u with
  | .rebate st => s.onSt st fun t => { t with rebateLost := min 32 (t.rebateLost + 1) }
  | .streamRow i => s.onStm i fun t => { t with lost := true }
  | .cell st c => if s.cellIn st c then s.cellOut st c else s
  | .syncObject o => fatal (s.onObj o fun t => { t with retired := true }) 0 (o % 65536)
  | .sumpEntry => fatal { s with sump := { s.sump with lostPlaces := min 1984 (s.sump.lostPlaces + 1) } } 0 0

/-- SRAM_FAULT (R497): a spare row replaces the faulty one, or the row is retired and reason 3 raised. -/
def execSramFault (u : SramUnit) (spare : Bool) (s : State) : Host.Outcome State Fault Refusal :=
  .next (if s.boot.resetHeld = 2 ∨ spare then s else (s.retireRow u).raise 3)

end Sys2Proof.Machine
end

