-- ==== Sys2Proof/Machine/Port.lean ====
section
/-! DEFINITION. The inline ports (R36-R46, R66), the answers on the fabric master ports (R50-R52, R478), the interleave table (R47-R49). -/

namespace Sys2Proof.Machine

/-! ## Requests (R38-R43) -/

/-- A stile's first request with an unknown op is logged (R38). -/
def State.noteOp (s : State) (st : Nat) (r : HReq) : State :=
  if r.op = 0 ∨ r.op = 1 ∨ r.op = 3 ∨ r.op = 4 ∨ (s.st st).unknownOp ∨ s.boot.resetHeld = 2 then s
  else (s.onSt st fun t => { t with unknownOp := true }).log eUnknownOp 0 2 st none
    (leBytes 1 r.op.toNat ++ leBytes 2 r.tag.toNat ++ leBytes 7 r.addr.toNat)

/-- Put a request into the held queue (R42). -/
def State.hold (s : State) (st : Nat) (h : Held) : State :=
  let s := if h.req.captureWrite && (s.st st).isOpen then
    { s with cap := { s.cap with run := s.cap.run.map fun u => { u with heldWrites := u.heldWrites + 1 } } } else s
  s.onSt st fun t => { t with held := t.held ++ [h] }

/-- Whether the stile takes a request: its port out of reset, the held queue not full, nothing held under hold_all (R41, R42, R72). -/
def State.hreqReady (s : State) (st : Nat) : Bool :=
  decide (st < s.stileCount) && !(s.st st).inReset && decide ((s.st st).held.length < 32) && !(s.port.holdAll && !(s.st st).held.isEmpty)

/-- A request the stile has taken (R38-R43, R46, R49): behind held requests of its granule; untracked where the mover is off or the table
places it elsewhere; a capture write held until its granule's copy is safe or a cell has taken it; else forwarded. -/
def State.hreq (s : State) (st : Nat) (r : HReq) : State :=
  let s := s.noteOp st r
  let t := s.st st
  let g := r.addr.toNat / 65536
  if t.held.any fun h => h.granule == g then s.hold st ⟨r, g, false, false⟩
  else if !r.captureWrite || (!t.moverOn && !t.removed) then s.forward st r
  else match s.place g with
  | none => s.forward st r
  | some (u, _) =>
    if u ≠ st then
      ({ s with port := { s.port with ilvMismatch := setBit s.port.ilvMismatch st true } }).forward st r
    else match s.track g false with
    | (s, begun, stalled) => if begun || stalled then s.hold st ⟨r, g, true, stalled⟩ else s.forward st r

/-- HREQ_REQUEST (R40). -/
def execHreqRequest (st : Nat) (r : HReq) (s : State) : Host.Outcome State Fault Refusal :=
  .next (if s.hreqReady st then s.hreq st r else s)

/-! ## Responses (R39, R40, R44, R476, R478) -/

/-- Answer data arrives for an outstanding read: up to its 256 bytes, ERR anywhere marks the answer (R44, R52). -/
def State.gather (s : State) (u : TagUse) (data : List Byte) (poison err last : Bool) : State :=
  let w := (s.trk.answers.find? fun (w : Answer) => w.use == u).getD (Answer.mk u [] false false)
  let d := w.data ++ (padTo 128 data).map fun b => (b, poison)
  let w2 : Answer := { w with data := d, err := w.err || err, full := last || decide (256 ≤ d.length) }
  { s with trk := { s.trk with answers := s.trk.answers.erase w ++ [w2] } }

/-- The real answer of a held-out tag is discarded; with its end the tag returns to its pool (R66, R478). -/
def State.lateAnswer (s : State) (u : TagUse) (last : Bool) : State :=
  if last ∨ u.len ≤ 128 then { s with tags := s.tags.erase u }
  else { s with tags := s.tags.map fun t => if t = u then { u with len := u.len - 128 } else t }

/-- A response of Krytra's own: its tag and KIND must match an outstanding request (R39, R476). -/
def State.ownResponse (s : State) (st : Nat) (r : MResp) : State :=
  match s.tags.find? fun u => u.tag == .mreq st (r.tag.toNat % 65536) r.kind with
  | none => s.logPartner sMalformed 2 st none (leBytes 3 r.tag.toNat ++ leBytes 1 (b2n r.kind))
  | some u =>
    if r.kind then s.acked u r.err
    else if u.heldOut then s.lateAnswer u r.last
    else s.gather u r.data r.poison r.err r.last

/-- MRSP_RESPONSE (R40): a host response goes out on HRSP unchanged, one of Krytra's own is consumed. -/
def execMrspResponse (st : Nat) (r : MResp) (s : State) : Host.Outcome State Fault Refusal :=
  .next (if s.stileCount ≤ st ∨ (s.st st).inReset then s
    else if bit r.tag 16 then s.ownResponse st r
    else s.onSt st fun t => { t with
      lastHrsp := some r
      passing := match t.passing.find? fun p => p.tag.toNat == r.tag.toNat && p.write == r.kind with
        | some p => if r.last then t.passing.erase p else t.passing
        | none => t.passing })

/-- The log of R52: port, tag, address, chamber. -/
def State.logFab (s : State) (u : TagUse) (port tag : Nat) : State :=
  let ch := match u.stream with | some (i, _) => (s.trk.stm.get i).chamber | none => 0
  s.logPartner sMalformed 9 port (some ch) (leBytes 1 port ++ leBytes 2 tag ++ leBytes 7 u.addr ++ leBytes 1 ch)

/-- FAB_READ_DATA (R50, R52, R478): a beat for an outstanding tag; ERR ends its transfer. -/
def execFabReadData (port tag : Nat) (data : List Byte) (poison err : Bool) (s : State) : Host.Outcome State Fault Refusal :=
  .next (if s.boot.resetHeld = 2 ∨ s.fabPorts ≤ port ∨ !s.dom (111 + port) then s
    else match s.tags.find? fun u => u.tag == .fab port tag false with
    | none => s.logPartner sMalformed 9 port none (leBytes 2 tag)
    | some u =>
      if u.heldOut then s.lateAnswer u err
      else
        let s := if err then s.logFab u port tag else s
        s.gather u data poison err err)

/-- FAB_WRITE_ACK (R50, R52, R332, R478). -/
def execFabWriteAck (port tag : Nat) (err : Bool) (s : State) : Host.Outcome State Fault Refusal :=
  .next (if s.boot.resetHeld = 2 ∨ s.fabPorts ≤ port ∨ !s.dom (111 + port) then s
    else match s.tags.find? fun u => u.tag == .fab port tag true with
    | none => s.logPartner sMalformed 9 port none (leBytes 2 tag)
    | some u => (if err && !u.heldOut then s.logFab u port tag else s).acked u err)

/-! ## STL_PRST_N (R66) -/

/-- Krytra's own requests in the pass-through of a stile are dropped: each counts as answered with ERR on every beat. -/
def State.dropOwn (s : State) (st : Nat) : State :=
  let mine := s.tags.filter fun u => !u.heldOut && match u.tag with | .mreq t _ _ => t == st | .fab _ _ _ => false
  let s := mine.foldl (fun s u => s.holdTag u true) s
  s.onSt st fun t => { t with copies := t.copies.map fun (k : Copy) =>
    if k.ready then k else { k with ready := true, beats := List.range 512 } }

/-- STL_PRST_N_s asserted: what the pass-through holds or has in flight is dropped, its granules are dirty, a capture that covers it ends. -/
def State.stileReset (s : State) (st : Nat) : State :=
  let s := s.onSt st fun t => { t with inReset := true, held := [], passing := [] }
  let s := s.dropOwn st
  let s := s.onSt st fun t => { t with gran := .const ⟨true, false⟩ }
  match s.cap.run with
  | some r => if (s.scopeStiles r).contains st then
      (s.capFail sNotInState false).onSt st fun t => { t with gran := .const ⟨true, false⟩ }
    else s
  | none => s

/-- STILE_RESET (R66). -/
def execStileReset (st : Nat) (s : State) : Host.Outcome State Fault Refusal :=
  .next (if s.stileCount ≤ st then s else s.stileReset st)

/-- STILE_RESET_RELEASE (R66): HREQ_READY rises. -/
def execStileResetRelease (st : Nat) (s : State) : Host.Outcome State Fault Refusal :=
  .next (if s.stileCount ≤ st then s else s.onSt st fun t => { t with inReset := false })

/-! ## The interleave table (R47, R48) -/

/-- The number of 1 bits. -/
def popcount (v : BitVec 36) : Nat := ((List.range 36).filter fun i => bit v i).length

/-- Whether some bit at or above `n` is set. -/
def above (v : BitVec 36) (n : Nat) : Bool := v.toNat / 2 ^ n != 0

/-- The masks in use. -/
def IlvEntry.masks (e : IlvEntry) : List (BitVec 36) := (List.range e.width.toNat).map e.mask

/-- Whether the rows are linearly independent over GF(2). -/
def independent (rows : List (BitVec 36)) : Bool :=
  (List.range (2 ^ rows.length)).all fun k => k == 0 ||
    (List.range rows.length).foldl (fun v i => if k / 2 ^ i % 2 = 1 then v ^^^ rows.getD i 0 else v) (0 : BitVec 36) != 0

/-- The local indexes an entry takes. -/
def IlvEntry.locals (e : IlvEntry) : Nat := 2 ^ (e.log2Size.toNat - e.width.toNat)

/-- The first of rules 1 to 8 of R48 that an entry breaks, against the valid entries of lower number; `stiles` is STILE_COUNT. -/
def IlvEntry.broken (e : IlvEntry) (lower : List IlvEntry) (stiles : Nat) : Option Nat :=
  let n := e.log2Size.toNat
  let w := e.width.toNat
  let lo := e.base.toNat
  if lo % 2 ^ n ≠ 0 then some 1
  else if lower.any fun o => meets lo (lo + 2 ^ n) o.base.toNat (o.base.toNat + 2 ^ o.log2Size.toNat) then some 2
  else if stiles < e.stileBase.toNat + 2 ^ w then some 3
  else if above e.keep n || e.masks.any fun m => above m n then some 4
  else if popcount e.keep + w ≠ n then some 5
  else if !independent (e.masks.map fun m => m &&& ~~~e.keep) then some 6
  else if 1048576 < e.localBase.toNat + e.locals then some 7
  else if lower.any fun o => meets e.stileBase.toNat (e.stileBase.toNat + 2 ^ w) o.stileBase.toNat (o.stileBase.toNat + 2 ^ o.width.toNat) &&
      meets e.localBase.toNat (e.localBase.toNat + e.locals) o.localBase.toNat (o.localBase.toNat + o.locals) then some 8
  else none

/-- The first failure of the check, in ascending entry number: entry and rule. -/
def ilvFailure (ilv : SMap IlvEntry) (stiles : Nat) : Option (Nat × Nat) :=
  (List.range 16).findSome? fun n =>
    let e := ilv.get n
    if !e.valid then none
    else ((e.broken (((List.range n).map ilv.get).filter (·.valid)) stiles).map fun k => (n, k))

/-- BASE_n and SHAPE_n as read (Table 4 of chapter 02). -/
def IlvEntry.shape (e : IlvEntry) : Nat :=
  e.log2Size.toNat + e.width.toNat * 2 ^ 8 + e.stileBase.toNat * 2 ^ 16 + b2n e.valid * 2 ^ 31

/-- Word `i` of an entry's 128 bytes. -/
def IlvEntry.word (e : IlvEntry) (i : Nat) : Nat :=
  match i with
  | 0 => e.base.toNat | 1 => e.shape | 2 => e.keep.toNat | 3 => e.localBase.toNat
  | 4 => e.mask0.toNat | 5 => e.mask1.toNat | 6 => e.mask2.toNat | 7 => e.mask3.toNat | 8 => e.mask4.toNat | _ => 0

/-- The 16 entries as they are laid out in registers (R79). -/
def ilvBytes (ilv : SMap IlvEntry) : List Byte :=
  (List.range 16).flatMap fun n => (List.range 16).flatMap fun i => leBytes 8 ((ilv.get n).word i)

/-- GLB_ILV_CTL.apply (R48): a table that passes is locked and measured (R79); it is done by firmware, so not before READY (R74). -/
def State.applyIlv (s : State) : State :=
  if s.port.ilvLocked ∨ s.boot.stage ≠ .ready then s.ignoredWrite 0x1000
  else match ilvFailure s.port.ilv s.stileCount with
  | some (n, k) => { s with port := { s.port with ilvError := BitVec.ofNat 8 k, ilvEntry := BitVec.ofNat 4 n } }
  | none =>
    let s := { s with port := { s.port with ilvLocked := true, ilvError := 0, ilvEntry := 0 } }
    (s.extendSg 3 (sha 1 (ilvBytes s.port.ilv))).zeroWindow

/-- ILV_APPLY (R48). -/
def execIlvApply (a : Access) (s : State) : Host.Outcome State Fault Refusal :=
  .next (s.globalWrite a 0x1000 State.applyIlv)

end Sys2Proof.Machine
end

