-- ==== Sys2Proof/Machine/Admin.lean ====
section
/-! DEFINITION. The admin commands (R81-R83, R90, R112-R115, R124-R126, R156, R346, R431, R484, R508, R521, R522), the twin entries (R137-R139)
and the Dovetail (R103, R131, R348-R353, R449). -/

namespace Sys2Proof.Machine

/-! ## Stopping commands (R115) -/

/-- Stop an accepted long command at its unit boundary: it keeps its units and words, ABORTED_BY_HOST, phase 6. A capture ends as R174 says, a
barrier arrival is withdrawn, an enumeration gives the role back. -/
def State.stopCmd (s : State) (c : Cmd) : State :=
  let x := c.sub
  let capturing := (match s.cap.run with | some r => r.cmd == some x | none => false) || s.cap.waits.any fun w => w.run.cmd == some x
  if x.opcode = 0x22 ∧ capturing then
    match s.capCancel x.chamber with
    | some (t, _) => t
    | none => s
  else if x.opcode = 0x10 ∧ s.chainW.enumCmd = some x then
    ({ s with chain := { s.chain with role := s.chainW.prevRole, address := s.chainW.prevAddr } }).enumEnd sAborted
  else
    let s := match s.joinOf x.chamber x.sq x.cid with
      | some (b, j) => s.withdraw b j true
      | none => s
    (s.stopStage c).finish x 6 sAborted (if x.opcode = 0x54 ∧ c.phase ≠ 1 then BitVec.ofNat 64 (c.units + 1) else 0) c.units c.res

/-- Abort an entry that waits for dispatch: it completes and never runs. A Dovetail not yet fetched whole stays until its last entry is in. -/
def State.abortFetched (s : State) (f : Fetched) (keep : Bool) : State :=
  let x := f.sub
  let twin := f.raw.length == 32
  let s := s.onCh x.chamber fun c => { c with
    fetched := c.fetched.filterMap fun g => if g = f then (if keep && !f.done then some { g with dead := true } else none) else some g }
  let s := if (s.check x).isNone then s.putStatus x twin 6 sAborted 0 (List.replicate 7 0) else s
  s.pushFin x twin sAborted 0

/-- ABORT's effect and its result: 0 stopped, 1 finished or short, 2 no such command. -/
def State.abortAt (s : State) (ch q : Nat) (cid : BitVec 16) : Nat × State :=
  match (s.ch ch).fetched.find? fun f => f.sub.sq == q && f.sub.cid == cid && !f.dead with
  | some f => (0, s.abortFetched f true)
  | none => match s.cmdAt ch q cid with
    | some c => if isLong c.sub then (0, s.stopCmd c) else (1, s)
    | none =>
      if (s.fins.any fun f => f.chamber == ch && f.sq == q && f.cid == cid) ||
          ((List.range 16).any fun k => ((s.ch ch).cqs.get k).posted.contains (q, cid)) then (1, s)
      else (2, s)

/-- ABORT (R114, R115): of another chamber's command only from chamber 0. -/
def bodyAbort (x : Sub) (s : State) : Res :=
  let ch := fld x.a 4 0
  if x.chamber ≠ 0 ∧ ch ≠ x.chamber then reject s sForbidden 10 0 0 16
  else
    let (r, s) := s.abortAt ch (fld x.a 11 8) (BitVec.ofNat 16 (fld x.a 31 16))
    done s (BitVec.ofNat 64 r)

/-- End every outstanding command of an SQ, which takes no more entries: how many were stopped (R115, R521). `me` is spared. -/
def State.endSq (s : State) (ch q : Nat) (me : Option Sub) : Nat × State :=
  let waiting := (s.ch ch).fetched.filter fun f => f.sub.sq == q && !f.dead
  let going := s.cmds.filter fun c => c.sub.chamber == ch && c.sub.sq == q && isLong c.sub && some c.sub != me
  let s := s.onSq ch q fun t => { t with closing := t.enable }
  let s := waiting.foldl (fun s f => s.abortFetched f false) s
  let s := s.onCh ch fun c => { c with fetched := c.fetched.filter fun f => f.sub.sq != q }
  let s := going.foldl State.stopCmd s
  (waiting.length + going.length, s.settleSq ch q)

/-! ## NEGOTIATE (R83, R112) -/

/-- The version an offer selects: major, minor, veneer. The veneer is version 2.x: minor 0. -/
def selectKcq (offer : Nat) : Option (Nat × Nat × Bool) :=
  if offer / 8 % 2 = 1 then some (3, 2, false) else if offer / 4 % 2 = 1 then some (3, 1, false)
  else if offer / 2 % 2 = 1 then some (3, 0, false) else if offer % 2 = 1 then some (2, 0, true) else none

/-- Whether anything but the entry itself is outstanding in its chamber, or a queue other than the admin pair's SQ is enabled. -/
def State.chamberBusy (s : State) (x : Sub) : Bool :=
  (s.cmds.any fun c => c.sub.chamber == x.chamber && !isCmd x c) || (s.fins.any fun f => f.chamber == x.chamber) ||
    !(s.ch x.chamber).fetched.isEmpty || (List.range 15).any fun q => ((s.ch x.chamber).sqs.get (q + 1)).enable

/-- NEGOTIATE. -/
def bodyNegotiate (x : Sub) (s : State) : Res :=
  if s.chamberBusy x then fail s sNotInState
  else match selectKcq (fld x.a 3 0) with
  | none => fail s sVersion
  | some (major, minor, veneer) =>
    done (s.onCh x.chamber fun c => { c with negotiated := true, major := major, minor := minor, veneer := veneer })
      (BitVec.ofNat 64 (major * 2 ^ 8 + minor + b2n veneer * 2 ^ 16))

/-! ## Queues (R90, R91, R115) -/

/-- QUEUE_CREATE. -/
def bodyQueueCreate (x : Sub) (s : State) : Res :=
  let ch := x.chamber
  let c := s.ch ch
  let q := fld x.a 11 8
  let size := fld x.a 27 16
  if bit x.a 0 then
    if (c.cqs.get q).enable then badParam s 17
    else done (s.onCq ch q fun _ => { Cq.zero with enable := true, irqEn := bit x.a 48, base := x.b, sizeM1 := size }) 0
  else
    let cq := fld x.a 35 32
    if (c.sqs.get q).enable then badParam s 17
    else if !(c.cqs.get cq).enable then badParam s 20
    else done ((s.onSq ch q fun _ => { Sq.zero with enable := true, base := x.b, weight := fld x.a 43 40, cq := cq, sizeM1 := size }).onCh ch
      fun c => { c with quiesced := false }) 0

/-- QUEUE_DELETE: an SQ's commands are aborted first, and the command waits until their completions are posted. -/
def bodyQueueDelete (x : Sub) (s : State) : Res :=
  let ch := x.chamber
  let q := fld x.a 11 8
  if bit x.a 0 then
    if (List.range 16).any fun i => let t := (s.ch ch).sqs.get i; t.enable && t.cq == q then badParam s 17
    else done (s.onCq ch q fun _ => Cq.zero) 0
  else
    let (n, s) := match (s.cmd? x).map (·.prog) with
      | some (n + 1) => (n, s)
      | _ => let (n, s) := s.endSq ch q none; (n, s.onCmd x fun c => { c with prog := n + 1 })
    if ((s.ch ch).sqs.get q).enable then wait s
    else done (s.onSq ch q fun _ => Sq.zero) (BitVec.ofNat 64 n)

/-- Clear the enable bit of SQ0 (R521). -/
def State.disableSq0 (s : State) (ch : Nat) : State :=
  if ((s.ch ch).sqs.get 0).enable then (s.endSq ch 0 none).2 else s

/-! ## Features (R124, Table 4 of chapter 05) -/

/-- The present value of B of a feature. -/
def State.feature (s : State) (ch id : Nat) : Nat :=
  let c := s.ch ch
  match id with
  | 1 => c.interval
  | 2 => b2n s.feat.selfTest + s.feat.period * 2 ^ 8
  | 3 => s.sump.spillBase
  | 4 => c.rsvWarn + c.rsvStall * 2 ^ 8
  | 5 => s.feat.thNvme + s.feat.thSdx * 2 ^ 8 + s.feat.thChain * 2 ^ 16
  | 6 => (match s.pwr.target with | .run => 0 | .lean => 1 | _ => 2) + s.pwr.idleMs.toNat * 2 ^ 16
  | 7 => s.feat.noticeRate
  | _ => 0

/-- FEATURE_GET. -/
def bodyFeatureGet (x : Sub) (s : State) : Res := done s (BitVec.ofNat 64 (s.feature x.chamber (fld x.a 15 0)))

/-- FEATURE_SET STATUS_INTERVAL: 10 to 50 microseconds. -/
def bodyStatusInterval (x : Sub) (s : State) : Res :=
  let n := fld x.b 15 0
  if n < 10 ∨ 50 < n then badParam s 24 else done (s.onCh x.chamber fun c => { c with interval := n }) 0

/-- FEATURE_SET RESERVE_WATERMARKS: warn below stall, stall at most 100 (R156). -/
def bodyReserveWatermarks (x : Sub) (s : State) : Res :=
  let w := fld x.b 7 0
  let t := fld x.b 15 8
  if t ≤ w ∨ 100 < t then badParam s 24 else done (s.onCh x.chamber fun c => { c with rsvWarn := w, rsvStall := t }) 0

/-- FEATURE_SET CHAIN_NOTICE_RATE: 1 to 1,000 a second (R424). -/
def bodyChainNoticeRate (x : Sub) (s : State) : Res :=
  blockWide x s (
    let n := fld x.b 15 0
    if n = 0 ∨ 1000 < n then badParam s 24 else done { s with feat := { s.feat with noticeRate := n } } 0)

/-! ## IDENTIFY (Table 8 of chapter 05, R235) -/

/-- Write bytes a command owes to its buffer: a write answered with ERR leaves what it reaches undefined (R122). -/
def State.deliver (s : State) (a : Nat) (l : List Byte) (e : Ext) : Res :=
  if e.writeErr then fail (s.undefBuf a l.length) sMalformed else done (s.poke a l) (BitVec.ofNat 64 l.length)

/-- Cell indexes lost: those disabled in every stile built. -/
def State.lostCells (s : State) : Nat := (s.stileList.map fun st => (s.st st).disabled.length).sum

/-- Free stream descriptors of the block: slots not open and not lost to SRAM faults. -/
def State.freeStreams (s : State) : Nat := 262144 - (s.trk.stm.entries.filter fun p => p.2.isOpen || p.2.lost).length

/-- GLB_CONFIG (R9): ISA level 2 and FAB_PORTS. -/
def State.config (s : State) : Nat := 0x200 + s.fabPorts

/-- The block's data. -/
def State.identBlock (s : State) : List Byte :=
  leBytes 4 0x4B525954 ++ leBytes 4 (glbVersion s).toNat ++ leBytes 4 s.config ++ leBytes 4 s.boot.running.toNat ++
    leBytes 1 s.life.life.code ++ leBytes 1 s.life.level ++ leBytes 1 s.pwr.state.code ++ leBytes 1 s.chain.role ++
    [0xF, 3, 3, 3, 3] ++ leBytes 1 s.lostCells ++ leBytes 2 s.svc.reasons.toNat ++
    leBytes 4 (65536 - (s.regions.entries.filter fun p => p.2.isSome).length) ++ leBytes 4 s.freeStreams

/-- A store's data (R235). -/
def State.identStore (s : State) (m : Media) : List Byte :=
  m.superblock (glbVersion s) ++ leBytes 8 m.free ++ leBytes 8 (m.objects.filter fun o => !o.expired).length ++
    leBytes 8 (m.objects.map fun o => (o.shards.map fun t => placeRuns t.places).sum).sum ++ leBytes 8 m.nextSerial ++ [if m.deleting then 1 else 0]

/-- IDENTIFY. The places of a chamber's fields in its data are not given: undefined bytes (assumption log 17). -/
def bodyIdentify (x : Sub) (e : Ext) (s : State) : Res :=
  let a := x.b.toNat
  let i := fld x.a 21 16
  match fld x.a 7 0 with
  | 0 => s.deliver a (padTo 4096 s.identBlock) e
  | 1 => let s := s.undefBuf a 4096; if e.writeErr then fail s sMalformed else done s 4096
  | 2 => if (s.sto.ctrls.get i).attached then s.deliver a (padTo 4096 (s.sto.ctrls.get i).identify) e else badParam s 18
  | _ => match s.mounted i with
    | some m => s.deliver a (padTo 4096 (s.identStore m)) e
    | none => badParam s 18

/-! ## LOG_READ (Table 5 of chapter 05) -/

/-- A capture statistics record (Table 10 of chapter 06). -/
def statBytes (r : CapStat) : List Byte :=
  padTo 128 (leBytes 8 r.id.toNat ++ leBytes 8 r.label.toNat ++ leBytes 4 r.epoch.toNat ++ leBytes 2 r.status.toNat ++ leBytes 1 r.flags.toNat ++
    leBytes 1 r.rule ++ leBytes 8 r.flipTime ++ leBytes 8 r.endTime ++ leBytes 4 r.toDrain ++ leBytes 4 r.written ++ leBytes 4 r.skipped ++
    leBytes 4 r.poisoned ++ leBytes 4 r.dirFull ++ leBytes 4 r.freezeNs ++ leBytes 4 r.heldWrites ++ leBytes 4 r.peak ++ leBytes 8 r.bytes)

/-- State code of a jig unit record (R508). -/
def State.unitState (s : State) (p : Nat) : Nat :=
  if s.unitFailed p then 1
  else if (s.unitAt p).1 = 0 ∧ p % 18 = 16 then (if (s.st (p / 18)).spareAt.isSome then 3 else 2)
  else 0

/-- The jig's log (R508). -/
def State.jigLog (s : State) : List Byte :=
  let n := s.sweepLen
  let unit (p : Nat) : List Byte :=
    let u := s.jig.units.get p
    leBytes 4 u.passed ++ leBytes 2 u.failedN ++ leBytes 2 u.transients ++ leBytes 1 (s.unitState p) ++ leBytes 1 u.pattern ++ zeros 2 ++ leBytes 4 u.time
  padTo 64 (leBytes 8 s.jig.sweeps ++ leBytes 8 s.jig.run ++ leBytes 8 s.jig.deferAll ++ leBytes 8 s.jig.yieldAll ++ leBytes 4 s.jig.sweep ++
    leBytes 4 n) ++ (List.range n).flatMap unit

/-- The bytes of a log; none for log 4, whose layout is not given. -/
def State.logBytes (s : State) (ch k ctrl : Nat) : Option (List Byte) :=
  match k with
  | 0 => some ((s.sump.entries.filter fun e => ch == 0 || e.chamber == some ch).flatMap SumpEntry.bytes)
  | 1 => some (padTo 8192 ((s.un ch).cap.stats.flatMap statBytes))
  | 2 => some (s.sto.ctrls.get ctrl).errLog
  | 3 => some (s.sto.ctrls.get ctrl).health
  | 5 => some s.jigLog
  | _ => none

/-- LOG_READ: the part of the log from the page offset that the buffer holds. Log 4 leaves undefined bytes (assumption log 17). -/
def bodyLogRead (x : Sub) (e : Ext) (s : State) : Res :=
  let k := fld x.a 7 0
  let n := fld x.c 31 0
  let ctrl := fld x.a 21 16
  if (k = 2 ∨ k = 3) ∧ !(s.sto.ctrls.get ctrl).attached then badParam s 18
  else match s.logBytes x.chamber k ctrl with
  | some l => s.deliver x.b.toNat ((l.drop (fld x.c 63 32 * 4096)).take n) e
  | none =>
    let (f, s) := s.freeNat
    let s := s.undefBuf x.b.toNat n
    if e.writeErr then fail s sMalformed else done s (BitVec.ofNat 64 (f % (n + 1)))

/-! ## CHAMBER_CONFIG (R125, R126, R156, R428, R431) -/

/-- A quota kind: present use, present quota, its quota in every chamber, the block's total. -/
def quotaOk (use total others v : Nat) : Bool := decide (use ≤ v) && decide (v + others ≤ total)

/-- The sum of a quota over the other chambers. -/
def State.others (s : State) (ch : Nat) (f : Chamber → Nat) : Nat := ((s.chambers.entries.filter fun p => p.1 != ch).map fun p => f p.2).sum

/-- Windows of the entries of a window list: none where one breaks R126, as (byte, bit) 0. -/
def winOf (l : List Byte) (w : Nat) : Option Win :=
  let b := leAt l (16 * w) 8
  let t := leAt l (16 * w + 8) 8
  if b % 65536 ≠ 0 ∨ t % 65536 ≠ 0 ∨ 2 ^ 52 ≤ b ∨ 2 ^ 52 ≤ t ∨ t ≤ b then none else some ⟨true, b / 65536, t / 65536⟩

/-- The ranges of the valid interleave entries, once the table is locked. -/
def State.mapped (s : State) : List Win :=
  (List.range 16).map fun n =>
    let e := s.port.ilv.get n
    ⟨e.valid && s.port.ilvLocked, e.base.toNat, e.base.toNat + 2 ^ e.log2Size.toNat⟩

/-- The granule ranges a chamber holds in its windows (R126): regions, open streams' buffers and indexes, SDX rings, its site area. -/
def State.holds (s : State) (ch : Nat) : List (Nat × Nat) :=
  let u := (s.un ch).site
  let span (a n : Nat) : Nat × Nat := (a / 65536, ceilDiv (a + n) 65536)
  (s.regionsOf ch).map (fun p => (p.2.base, p.2.base + p.2.granules)) ++
    ((s.trk.stm.entries.filter fun p => p.2.isOpen && p.2.chamber == ch).flatMap fun p =>
      span p.2.base (p.2.extent * elemSize p.2.elemType) :: (if p.2.indexed then [span p.2.index 64] else [])) ++
    ((u.peers.entries.filter fun p => p.2.used).flatMap fun p => [span p.2.rxBase (p.2.pages * 4096), span p.2.txBase (p.2.pages * 4096)]) ++
    (if u.anchored then [(u.area, u.area + areaGranules u.blocks u.anchorType u.accUse u.outerUse)] else [])

/-- The byte of the first window at fault (R125, R126). -/
def State.winFault (s : State) (ch : Nat) (l : List (Option Win)) : Option Nat :=
  let ws := l.filterMap id
  (List.range l.length).findSome? fun i => match l.getD i none with
    | none => some (16 * i)
    | some w =>
      if ((l.take i).any fun v => match v with | some v => meets v.base v.limit w.base w.limit | none => false) ||
          !(coverFrom s.mapped 17 w.base w.limit) ||
          (s.chambers.entries.any fun p => p.1 != ch && p.2.winList.any fun v => v.valid && meets v.base v.limit w.base w.limit) ||
          !((s.holds ch).all fun r => coverFrom ws 9 r.1 r.2) then some (16 * i)
      else none

/-- The byte of the first mode field out of range or forbidden (R125, R428, Table 6 of chapter 05). -/
def State.modeFault (s : State) (ch : Nat) (c : Chamber) : Option Nat :=
  let v2 := c.storeValid && (match s.mounted c.store with | some m => m.major == 2 | none => false)
  if c.offload = 3 ∨ (c.guarded ∧ c.offload = 0) then some 16
  else if c.dedup = 3 ∨ c.siteMode = 3 then some 17
  else if fld c.mode 37 32 / 2 ≠ ch then some 20
  else if fld c.mode 45 40 / 2 ≠ ch then some 21
  else if c.sg < 8 then some 22
  else if v2 && (c.sealed || c.flow || c.incremental || c.immediate || c.dedup != 0) then some 18
  else none

/-- Whether the target has work that a change of mode, store or reserve would disturb (R125). -/
def State.inWork (s : State) (ch : Nat) : Bool :=
  let ph := (s.un ch).step.phase
  (match s.cap.run with | some r => r.chamber == ch | none => false) || (s.cap.waits.any fun w => w.run.chamber == ch) ||
    ph == .begun || ph == .measured || ph == .normed || !(s.stepCopies ch).isEmpty ||
    (s.cmds.any fun c => c.sub.chamber == ch && (c.sub :: c.stages).any fun y =>
      [0x22, 0x40, 0x41, 0x61, 0x62, 0x64, 0x66, 0x71, 0x72].contains y.opcode.toNat) ||
    s.trk.stm.entries.any fun p => p.2.isOpen && p.2.chamber == ch

/-- The mode word without its key slots. -/
def modeNoKeys (m : BitVec 64) : BitVec 64 := m &&& 0xFFFFC0C0FFFFFFFF

/-- Whether a range of `n` indexes may start at `b`: inside the table, and clear of the other chambers' ranges. -/
def rangeFits (others : List (Nat × Nat)) (total n b : Nat) : Bool := decide (b + n ≤ total) && others.all fun r => !meets b (b + n) r.1 (r.1 + r.2)

/-- Where a range of `n` indexes is placed anew: where it is if it fits, else the lowest place (assumption log 15). -/
def placeRange (others : List (Nat × Nat)) (total n now : Nat) : Option Nat :=
  let fits := rangeFits others total n
  if n = 0 then some now else ((now :: 0 :: others.map fun r => r.1 + r.2).mergeSort.find? fits).map fun b => if fits now then now else b

/-- What CHAMBER_CONFIG asks for: the target as it will be, the new reserve, where its ranges go. -/
def bodyChamberConfig (x : Sub) (e : Ext) (s : State) : Res :=
  let t := x.handle.toNat
  let c := s.ch t
  let n := fld x.f 3 0
  let addr := fld x.f 51 7 * 128
  let list := s.peek addr (16 * n)
  let wl := (List.range n).map (winOf list)
  let ws := wl.filterMap id
  let qr := fld x.b 16 0
  let qs := fld x.b 46 32
  let qw := fld x.b 60 48
  let qt := fld x.c 18 0
  let qc := fld x.c 44 32
  let credits := fld x.c 63 48
  let rb := fld x.d 51 16
  let rs := fld x.e 35 0
  let want : Chamber := { c with mode := x.a }
  let owned (p : Nat × SyncObj) : Bool := p.2.alloc && p.2.chamber == t
  let useR := (s.regionsOf t).length
  let useS := (s.sync.objs.entries.filter owned).length
  let useW := (s.sync.watches.entries.filter fun p => p.2.used && p.2.chamber == t).length
  let useT := (s.trk.stm.entries.filter fun p => p.2.isOpen && p.2.chamber == t).length
  let useC := (s.clamps.filter fun k => k.chamber == t).length
  let rest := s.chambers.entries.filter fun p => p.1 != t
  let stmAt := if qt = c.quotaStream then some (s.un t).stmBase
    else placeRange (rest.map fun p => ((s.un p.1).stmBase, p.2.quotaStream)) 262144 qt (s.un t).stmBase
  let synAt := if qs = c.quotaSync then some (s.un t).syncBase
    else placeRange (rest.map fun p => ((s.un p.1).syncBase, p.2.quotaSync)) 16384 qs (s.un t).syncBase
  if n ≠ 0 ∧ (e.readErr ∨ !(s.mem.badBeats addr (16 * n)).isEmpty) then fail s sMalformed
  else match s.modeFault t want with
  | some b => badParam s b
  | none =>
  if !quotaOk useR 65536 (s.others t (·.quotaRegion)) qr then badParam s 24
  else if !quotaOk useS 16384 (s.others t (·.quotaSync)) qs then badParam s 28
  else if !quotaOk useW 4096 (s.others t (·.quotaWatch)) qw then badParam s 30
  else if !quotaOk useT 262144 (s.others t (·.quotaStream)) qt then badParam s 32
  else if qc = 0 ∨ !quotaOk useC 4096 (s.others t (·.quotaClamp)) qc then badParam s 36
  else if 64 < credits then badParam s 38
  else if 8 < n then badParam s 56
  else match s.winFault t wl with
  | some b => reject s sInvalidField 1 1 0 b
  | none =>
    if rs ≠ 0 ∧ (!(coverFrom ws 9 rb (rb + rs)) ∨ s.meetsRegion rb (rb + rs)) then badParam s 42
    else if (ws.map fun w => w.limit - w.base).sum < 8 * rs then badParam s 48
    else if !((s.holds t).all fun r => coverFrom ws 9 r.1 r.2) then reject s sInvalidField 1 1 0 0
    else if (modeNoKeys x.a ≠ modeNoKeys c.mode ∨ rs ≠ c.rsvSize ∨ (rs ≠ 0 ∧ rb ≠ c.rsvBase)) ∧ s.inWork t then fail s sNotInState
    else if credits ≠ c.credits ∧ s.creditOpen t then fail s sNotInState
    else match stmAt, synAt with
    | some sb, some yb =>
      if (s.trk.stm.entries.any fun p => p.2.isOpen && p.2.chamber == t && !(decide (sb ≤ p.1) && decide (p.1 < sb + qt))) ||
          (s.sync.objs.entries.any fun p => owned p && !(decide (yb ≤ p.1) && decide (p.1 < yb + qs))) then fail s sNotInState
      else
        let dirty := want.storeValid != c.storeValid || want.store != c.store || want.flow != c.flow || want.sealed != c.sealed
        let s := s.onCh t fun c => { c with
          configured := true, mode := x.a, credits := credits, rsvBase := rb, rsvSize := rs, quotaSync := qs, quotaWatch := qw
          quotaClamp := qc, quotaRegion := qr, quotaStream := qt
          wins := (List.range n).foldl (fun m w => m.set w (ws.getD w .zero)) (.const .zero) }
        let s := s.onUn t fun u => { u with stmBase := sb, syncBase := yb }
        let s := if dirty then s.dirtyChamber t else s
        done (s.relevel t) 0
    | _, _ => fail s sNotInState

/-! ## CHAMBER_QUIESCE (R114, R346) -/

/-- What is left over in a chamber's sync state: kind (0 link, 1 watch, 2 barrier) and index. -/
def State.leftovers (s : State) (ch : Nat) : List (Nat × Nat) :=
  (s.sync.objs.entries.filterMap fun p =>
    if p.2.alloc && p.2.chamber == ch && p.2.link && p.2.value - (s.sync.objs.get p.2.linkTo.toNat).value != p.2.baseline then some (0, p.1) else none) ++
    (s.sync.watches.entries.filterMap fun p => if p.2.used && p.2.chamber == ch then some (1, p.1) else none) ++
    (s.sync.bars.entries.filterMap fun p => if p.2.claimed && p.2.chamber == ch then some (2, p.1) else none)

/-- One entry for each leftover, up to 64, then one with the total count. -/
def State.logLeftovers (s : State) (ch : Nat) : State :=
  let l := s.leftovers ch
  let s := (l.take 64).foldl (fun s p => s.logStatus sLeftover 0 p.2 (some ch) (leBytes 1 p.1 ++ leBytes 2 p.2)) s
  s.logStatus sLeftover 0 65535 (some ch) (leBytes 4 l.length)

/-- CHAMBER_QUIESCE: every SQ ends its commands; once their completions are posted every queue is disabled and the sync state checked. -/
def bodyChamberQuiesce (x : Sub) (s : State) : Res :=
  let t := x.handle.toNat
  let (n, s) := match (s.cmd? x).map (·.prog) with
    | some (n + 1) => (n, s)
    | _ =>
      let s := s.onCh t fun c => { c with quiescing := true }
      let (n, s) := (List.range 16).foldl (fun (a : Nat × State) q => let (k, s) := a.2.endSq t q (some x); (a.1 + k, s)) (0, s)
      (n, s.onCmd x fun c => { c with prog := n + 1 })
  if (List.range 16).any fun q => ((s.ch t).sqs.get q).enable && !(t == 0 && q == x.sq) then running x s n
  else
    let s := s.onCh t fun c => { c with
      quiescing := false, quiesced := true
      cqs := (List.range 16).foldl (fun m q => if t = x.chamber ∧ q = (c.sqs.get x.sq).cq then m
        else m.modify q fun k => { Cq.zero with irqEn := k.irqEn, base := k.base, sizeM1 := k.sizeM1 }) c.cqs }
    let clean := (s.leftovers t).isEmpty
    let s := if clean then s else s.logLeftovers t
    ended s (if clean then sOk else sLeftover) (BitVec.ofNat 64 n) n []

/-! ## Twins (R137, R138) and Dovetails (R348-R353) -/

/-- The effect of an opcode that a twin or a stage may carry (R131, Table 21 of chapter 05). -/
def bodyOf (x : Sub) (e : Ext) (twin : Bool) (s : State) : Res :=
  match x.opcode.toNat with
  | 0x01 => bodyIdentify x e s | 0x07 => bodyLogRead x e s | 0x11 => bodyAbort x s
  | 0x20 => bodyRegionDeclare x e twin s | 0x21 => bodyRegionRetire x s | 0x22 => bodyCapture x e s | 0x27 => bodyCondense x e s
  | 0x40 => bodyRestore x e s | 0x41 => bodyRestoreSlice x e s | 0x42 => bodyVerify x e s
  | 0x50 => bodyStreamOpen x e twin s | 0x51 => bodyStreamClose x s | 0x52 => bodyStreamSeek x s | 0x53 => bodyStreamCancel x s
  | 0x62 => bodyStepMeasure x e s | 0x64 => bodyStepApply x e s | 0x67 => bodyTierPlace x e s
  | 0x70 => bodyAnchorSet x e s | 0x71 => bodyDeltaEmit x e s | 0x74 => bodyReplicaDigest x e s
  | 0x80 => bodyDigest x e s | 0x81 => bodyHmac x e s | 0x82 => bodySeal x e s | 0x83 => bodyUnseal x e s
  | 0xA0 => bodySyncAlloc x s | 0xA1 => bodySyncFree x s | 0xA2 => bodySyncSignal x e s | 0xA3 => bodyWatchSet x e s
  | 0xA4 => bodyWatchClear x s | 0xA5 => bodyBarrierJoin x s | 0xD5 => bodyK2Credit x s
  | _ => fail s sInvalidOpcode

/-- The partial words of a Dovetail (R353): `k` stages completed, whether the next has started, its units, the last result. -/
def dovetailWords (k : Nat) (begun : Bool) (units : Nat) (last : BitVec 64) : List (BitVec 64) :=
  [BitVec.ofNat 64 (2 ^ (k + b2n begun) - 1 + (k + 1) * 2 ^ 8), BitVec.ofNat 64 units, last]

/-- What a stage that had started ahead may have written when an earlier one fails (R349, R352): undefined bytes. -/
def State.partialStage (s : State) (y : Sub) : State :=
  if y.opcode = 0x82 then s.undefBuf y.c.toNat (fld y.d 36 0 + 28)
  else if y.opcode = 0x83 then s.undefBuf y.c.toNat (fld y.d 36 0)
  else s

/-- Run the stages from stage `k` on: each under the Dovetail's own queue and ID; the first that fails ends it with its status and index. Stages
run one after another (assumption log 41). -/
def State.stages (s : State) (x : Sub) (e : Ext) : List Sub → Nat → BitVec 64 → Res
  | [], k, last => ended s (((s.cmd? x).map (·.seen)).getD 0) last k (dovetailWords k false 0 last)
  | y :: rest, k, last =>
    let y := { y with chamber := x.chamber, sq := x.sq, cid := x.cid, flags := 0, statusAddr := 0 }
    let r := bodyOf y e false s
    match r.status with
    | none => running x (r.s.onCmd x fun c => { c with res := dovetailWords k true r.units last }) k
    | some st =>
      if isDone st then
        let s := r.s.onCmd x fun c => { c with
          units := k + 1, prog := 0, acc := [], res := dovetailWords (k + 1) false 0 r.result, seen := if c.seen = 0 then st else c.seen }
        s.stages x e rest (k + 1) r.result
      else ended (rest.foldl State.partialStage r.s) st (BitVec.ofNat 64 (k + 1)) k (dovetailWords k true r.units last)

/-- The landing frames that each link of a Dovetail reserves in a CREDIT chamber (R449). -/
def State.linksOf (s : State) (x : Sub) (l : List Sub) : List (Nat × Nat) :=
  if !(s.ch x.chamber).creditMode then [] else
  l.tail.flatMap fun y =>
    ((s.cellDoms (s.clampsOf { y with chamber := x.chamber, sq := x.sq, cid := x.cid })).map (· / 3)).eraseDups.map fun st => (st, (s.ch x.chamber).credits)

/-- DOVETAIL. -/
def bodyDovetail (x : Sub) (e : Ext) (s : State) : Res :=
  match s.cmd? x with
  | none => wait s
  | some c =>
    let links := s.linksOf x c.stages
    if c.phase = 1 ∧ (links.any fun l => decide (s.poolFrames l.1 < s.poolUsed l.1 + ((links.filter fun m => m.1 == l.1).map (·.2)).sum)) then wait s
    else
      let s := if c.phase = 1 then s.onCmd x fun c => { c with links := links } else s
      s.stages x e (c.stages.drop c.units) c.units (c.res.getD 2 0)

/-- The stage entries that follow a DOVETAIL entry: up to the first not linked, at most eight (R103). -/
def chainOf (x : Sub) (l : List Sub) : List Sub :=
  if !linked x then [] else (l.takeWhile linked ++ (l.dropWhile linked).take 1).take 8

/-- Run a DOVETAIL row. -/
def State.runDovetail (s : State) (x : Sub) (l : List Sub) (e : Ext) : State :=
  if !s.serving then s
  else if s.cmds.any (fun c => c.sub == x) then s.runAccepted x (bodyDovetail x e)
  else match s.checkAll x l with
    | some (st, desc) => s.refuseSub x false st desc
    | none => (s.accept x false l).runAccepted x (bodyDovetail x e)

/-! ## The rows -/

/-- IDENTIFY. -/
def execIdentify (x : Sub) (e : Ext) (s : State) : Host.Outcome State Fault Refusal :=
  .next (s.runOp { x with opcode := 0x01 } [] (bodyIdentify { x with opcode := 0x01 } e))

/-- NEGOTIATE (R83). -/
def execNegotiate (x : Sub) (_e : Ext) (s : State) : Host.Outcome State Fault Refusal :=
  .next (s.runOp { x with opcode := 0x02 } [] (bodyNegotiate { x with opcode := 0x02 }))

/-- QUEUE_CREATE (R90). -/
def execQueueCreate (x : Sub) (_e : Ext) (s : State) : Host.Outcome State Fault Refusal :=
  .next (s.runOp { x with opcode := 0x03 } [] (bodyQueueCreate { x with opcode := 0x03 }))

/-- QUEUE_DELETE (R115). -/
def execQueueDelete (x : Sub) (_e : Ext) (s : State) : Host.Outcome State Fault Refusal :=
  .next (s.runOp { x with opcode := 0x04 } [] (bodyQueueDelete { x with opcode := 0x04 }))

/-- FEATURE_GET (R124). -/
def execFeatureGet (x : Sub) (_e : Ext) (s : State) : Host.Outcome State Fault Refusal :=
  .next (s.runOp { x with opcode := 0x06 } [] (bodyFeatureGet { x with opcode := 0x06 }))

/-- STATUS_INTERVAL (R124). -/
def execStatusInterval (x : Sub) (_e : Ext) (s : State) : Host.Outcome State Fault Refusal :=
  .next (s.runOp (featSub x 1) [] (bodyStatusInterval (featSub x 1)))

/-- RESERVE_WATERMARKS (R156). -/
def execReserveWatermarks (x : Sub) (_e : Ext) (s : State) : Host.Outcome State Fault Refusal :=
  .next (s.runOp (featSub x 4) [] (bodyReserveWatermarks (featSub x 4)))

/-- CHAIN_NOTICE_RATE (R424). -/
def execChainNoticeRate (x : Sub) (_e : Ext) (s : State) : Host.Outcome State Fault Refusal :=
  .next (s.runOp (featSub x 7) [] (bodyChainNoticeRate (featSub x 7)))

/-- LOG_READ (R484). -/
def execLogRead (x : Sub) (e : Ext) (s : State) : Host.Outcome State Fault Refusal :=
  .next (s.runOp { x with opcode := 0x07 } [] (bodyLogRead { x with opcode := 0x07 } e))

/-- CHAMBER_CONFIG (R125). -/
def execChamberConfig (x : Sub) (e : Ext) (s : State) : Host.Outcome State Fault Refusal :=
  .next (s.runOp { x with opcode := 0x0B } [] (bodyChamberConfig { x with opcode := 0x0B } e))

/-- ABORT (R115). -/
def execAbort (x : Sub) (_e : Ext) (s : State) : Host.Outcome State Fault Refusal :=
  .next (s.runOp { x with opcode := 0x11 } [] (bodyAbort { x with opcode := 0x11 }))

/-- CHAMBER_QUIESCE (R346). -/
def execChamberQuiesce (x : Sub) (_e : Ext) (s : State) : Host.Outcome State Fault Refusal :=
  .next (s.runOp { x with opcode := 0x13 } [] (bodyChamberQuiesce { x with opcode := 0x13 }))

/-- A test opcode entry: the row's opcode in 0xF0 to 0xFF. -/
def testSub (x : Sub) : Sub := { x with opcode := x.opcode ||| 0xF0 }

/-- TEST_OPCODE (R123): refused as unassigned where it is not; where it is, the manual does not describe it. -/
def execTestOpcode (x : Sub) (_e : Ext) (s : State) : Host.Outcome State Fault Refusal :=
  if !s.serving then .next s
  else match s.check (testSub x) with
    | some (st, desc) => .next (s.refuseSub (testSub x) false st desc)
    | none => .refused .undescribedTestOpcode

/-- TWIN_ENTRY (R137, R138). -/
def execTwinEntry (x : Twin) (e : Ext) (s : State) : Host.Outcome State Fault Refusal :=
  .next (s.runTwin x (bodyOf (s.nativeSub x) e true))

/-- DOVETAIL (R348). -/
def execDovetail (x : Sub) (e : Ext) (stages : List Sub) (s : State) : Host.Outcome State Fault Refusal :=
  .next (let x := { x with opcode := 0x54 }
    s.runDovetail x (chainOf x stages) e)

/-- ADMIN_SQ_DISABLE (R521). -/
def execAdminSqDisable (a : Access) (ch : Nat) (s : State) : Host.Outcome State Fault Refusal :=
  .next (s.pageWrite a ch 0x208 false fun s => s.disableSq0 ch)

end Sys2Proof.Machine
end

