-- ==== Sys2Proof/Machine/Regs.lean ====
section
/-! DEFINITION. The register map (R510-R519): every register of the control aperture as it is read, the fields a read clears, the effect of a
write, and the halves of 64-bit registers (R512). -/

namespace Sys2Proof.Machine

/-! ## Global registers as read (Table 2 of chapter 20) -/

/-- The capture that is between dispatch and completion: the running one, else the first that waits. -/
def State.capOwner (s : State) : Option Nat := match s.cap.run with | some r => some r.chamber | none => s.cap.waits.head?.map fun w => w.run.chamber

/-- GLB_CAP_OWNER. -/
def State.capOwnerWord (s : State) : Nat := match s.capOwner with | some c => 32 + c % 32 | none => 0

/-- The bits of a list of numbered conditions. -/
def maskOf (n : Nat) (f : Nat → Bool) : Nat := (List.range n).foldl (fun v i => v + b2n (f i) * 2 ^ i) 0

/-- GLB_CIPH_STATUS.in_service. -/
def State.coreServes (s : State) (c : Nat) : Bool := s.dom (coreDom c) && !bit s.ciph.failed c && !s.jigCore c

/-- Ports, start-up and capture: 4-byte registers below 0x1000. -/
def State.portReg (s : State) (o : Nat) : Option Nat :=
  match o with
  | 0x00 => some 0x4B525954
  | 0x04 => some (glbVersion s).toNat
  | 0x08 => some s.config
  | 0x10 => some (b2n s.port.holdAll + s.port.ownShare.toNat * 2)
  | 0x14 => some s.port.frzTimeout.toNat
  | 0x18 => some s.port.irqRoute.toNat
  | 0x1C => some s.port.irqStatus.toNat
  | 0x20 => some s.port.irqMask.toNat
  | 0x24 => some (s.port.wakeBudget.toNat + b2n (!s.pwr.queue.isEmpty) * 2 ^ 8 + b2n s.port.supplyWarn * 2 ^ 9)
  | 0x40 => some (s.boot.stage.code + s.boot.error.toNat * 2 ^ 8 + b2n s.boot.kxRail * 2 ^ 21 + s.boot.imageKey.toNat * 2 ^ 22)
  | 0x44 => some s.boot.fwLen.toNat
  | 0x50 => some 0
  | 0x54 => some s.boot.running.toNat
  | 0x58 => some (s.boot.fuseCount % 2 ^ 10 + s.boot.imageIndex % 2 ^ 10 * 2 ^ 16)
  | 0x60 => some s.cap.epoch.toNat
  | 0x64 => some s.capOwnerWord
  | 0x68 => some (s.port.stepFloor.toNat + b2n s.port.stepReserve * 2 ^ 8)
  | _ => none

/-- The interleave control, the cipher scheduler, keys, streams and sync: 4-byte registers from 0x1000 to 0x6FFF. -/
def State.unitReg (s : State) (o : Nat) : Option Nat :=
  match o with
  | 0x1000 => some (b2n s.port.ilvLocked * 2)
  | 0x1004 => some (s.port.ilvError.toNat + s.port.ilvEntry.toNat * 2 ^ 12)
  | 0x1008 => some s.port.ilvMismatch.toNat
  | 0x3000 => some (s.ciph.wEgress.toNat + s.ciph.wIngress.toNat * 2 ^ 4 + s.ciph.wSdx.toNat * 2 ^ 8 + s.ciph.wCmd.toNat * 2 ^ 12 +
      s.ciph.cmdCores.toNat * 2 ^ 16)
  | 0x3004 => some (maskOf 16 s.coreServes + s.ciph.failed.toNat * 2 ^ 16)
  | 0x3008 => some (b2n s.drbg.entFail + b2n s.drbg.due * 2 + b2n s.drbg.stop * 4 + s.drbg.fails * 2 ^ 16)
  | 0x3010 => some (s.ciph.crcMis + s.ciph.sdxMis * 2 ^ 16)
  | 0x3014 => some (s.ciph.holdPeak + s.ciph.rebuilds * 2 ^ 16)
  | 0x3018 => some s.ciph.flowBad
  | 0x4500 => some (s.dgt.portParity + s.dgt.portRefused * 2 ^ 16)
  | 0x5000 => some (s.trk.stm.entries.filter fun p => p.2.isOpen).length
  | 0x5004 => some (s.trk.stm.entries.filter fun p => p.2.retired).length
  | 0x5008 => some s.trk.stale
  | 0x6000 => some (s.sync.ackUs.toNat + s.sync.retries.toNat * 2 ^ 16)
  | 0x6004 => some ((s.sync.objs.entries.filter fun p => p.2.alloc).length + (s.sync.watches.entries.filter fun p => p.2.used).length * 2 ^ 16)
  | 0x6008 => some (s.sync.staleGen + s.sync.dupRemote * 2 ^ 16)
  | 0x600C => some s.sync.handSets
  | _ => none

/-- KEY_SLOT_STATE_n. -/
def KeySlot.word (k : KeySlot) : Nat := k.state + k.source * 2 ^ 4 + (if k.state = 1 then k.words.toNat else 0) * 2 ^ 8

/-- A barrier's three registers; on the master the count takes in chain-wide arrivals. -/
def State.barReg (s : State) (b i : Nat) : Option Nat :=
  let k := s.sync.bars.get b
  let m := s.chainW.masterBar.get b
  let wide := s.isMaster && m.1 != 0
  match i with
  | 0 => some (k.chamber % 32 * 2 ^ 25 + b2n k.chain * 2 ^ 30 + b2n k.claimed * 2 ^ 31)
  | 4 => some ((if wide then m.2 else k.arrived) % 2 ^ 16 + (if wide then m.1 else k.n) % 2 ^ 16 * 2 ^ 16)
  | 8 => some k.gen.toNat
  | _ => none

/-- JIG_STATUS. -/
def State.jigStatus (s : State) : Nat :=
  let u := match s.jig.slice with | some (p, _, _) => s.unitAt p | none => (0, 0)
  let command := s.cmds.any fun c => c.sub.opcode == 0x08 && (c.phase == 2 || s.jig.deferred)
  u.2 % 2 ^ 10 + u.1 * 2 ^ 24 + b2n (inWindow s.jig.vdd s.jig.tj) * 2 ^ 28 + b2n s.jig.slice.isSome * 2 ^ 29 + b2n command * 2 ^ 30 +
    b2n s.jig.manual * 2 ^ 31

/-- The jig: 4-byte registers from 0x7000. -/
def State.jigReg (s : State) (o : Nat) : Option Nat :=
  match o with
  | 0x7000 => some s.jigStatus
  | 0x7004 => some (s.jig.sweep % 2 ^ 10)
  | 0x7008 => some (min s.jig.sweeps (2 ^ 32 - 1))
  | 0x700C => some (s.jig.yields + s.jig.defWindow * 2 ^ 16)
  | 0x7010 => some (s.jig.transients + s.jig.failures * 2 ^ 16)
  | 0x7014 => some s.jig.lastFail.toNat
  | 0x7018 => some (s.jig.tj.toNat + s.jig.vdd.toNat * 2 ^ 16)
  | _ => none

/-- CHN_STATUS. -/
def Chain.status (c : Chain) : Nat :=
  c.address % 2 ^ 8 + c.role * 2 ^ 8 + c.version * 2 ^ 10 + b2n c.full * 2 ^ 12 + b2n c.stale * 2 ^ 13 + b2n c.lock * 2 ^ 14 +
    c.units % 2 ^ 8 * 2 ^ 16 + c.unassigned % 2 ^ 8 * 2 ^ 24

/-- The chain: 4-byte registers from 0x9000. -/
def State.chainReg (s : State) (o : Nat) : Option Nat :=
  let c := s.chain
  match o with
  | 0x9000 => some (c.enumMs.toNat + c.lossMs.toNat * 2 ^ 8 + b2n c.candidate * 2 ^ 16 + b2n c.autoReenum * 2 ^ 17 + c.dclMax.toNat * 2 ^ 24)
  | 0x9004 => some c.status
  | 0x9008 => some c.epoch.toNat
  | 0x900C => some (c.trigIn.toNat + c.trigOut.toNat * 2 ^ 16)
  | 0x9010 => some (c.crc + c.damaged * 2 ^ 16)
  | 0x9014 => some (c.expired + c.undeliv * 2 ^ 16)
  | 0x9018 => some (c.dropped + c.sent * 2 ^ 16)
  | _ => if 0x9100 ≤ o ∧ o < 0x9120 then some (fld c.quar ((o - 0x9100) * 8 + 31) ((o - 0x9100) * 8)) else none

/-- PWR_STATE. -/
def State.pwrStatus (s : State) : Nat :=
  let p := s.pwr
  p.state.code + p.target.code * 2 ^ 8 + b2n (p.target == .pass && p.state != .pass) * 2 ^ 12 + b2n p.scanned * 2 ^ 13 +
    b2n p.wakeError * 2 ^ 14 + b2n p.parkError * 2 ^ 15

/-- LMP_STATUS, the word the test port shows as well. -/
def LifeLamp.status (l : LifeLamp) : Nat :=
  l.level + l.ceiling * 2 ^ 4 + (match l.request with | some (v, _) => v % 4 * 2 ^ 8 + 2 ^ 10 | none => 0) + b2n l.backoff * 2 ^ 11 + l.fails * 2 ^ 16

/-- Lifecycle, lamp, power: 4-byte registers from 0xA000. -/
def State.pwrReg (s : State) (o : Nat) : Option Nat :=
  match o with
  | 0xA000 => some s.pwrStatus
  | 0xA004 => some 0
  | 0xA010 => some s.pwr.parkSize.toNat
  | 0xA014 => some s.parkNeed
  | 0xA020 => some (fld s.pwr.on 31 0)
  | 0xA024 => some (fld s.pwr.on 63 32)
  | 0xA028 => some (fld s.pwr.on 95 64)
  | 0xA02C => some (fld s.pwr.on 127 96)
  | 0xA030 => some s.pwr.wakes
  | 0xA034 => some (s.pwr.warnLongest + s.pwr.warnEvents * 2 ^ 16)
  | 0xA038 => some (min s.pwr.queue.length 255 + min s.pwr.tokens 255 * 2 ^ 8)
  | 0xA100 => some (s.life.life.code + (match s.life.pending with | some t => 8 + t.code * 2 ^ 4 | none => 0) + min s.life.commitFails 255 * 2 ^ 8)
  | 0xA200 => some s.life.status
  | 0xA204 => some 0
  | 0xA208 => some (s.life.halt.toNat + s.life.halted.toNat * 2 ^ 8)
  | _ => none

/-- The sump, service and replacement: 4-byte registers from 0xF000. -/
def State.svcReg (s : State) (o : Nat) : Option Nat :=
  let u := s.sump
  match o with
  | 0xF000 => some (u.entries.length + u.fatals * 2 ^ 16 + b2n (u.spillSize != 0) * 2 ^ 24 + b2n u.spillFault * 2 ^ 25)
  | 0xF004 => some (u.wm * 2 ^ 8 + u.minSev * 2 ^ 16)
  | 0xF010 => some (u.loss.get 0)
  | 0xF014 => some (u.loss.get 1)
  | 0xF018 => some (u.loss.get 2)
  | 0xF01C => some (u.loss.get 3)
  | 0xF020 => some (u.loss.get 4)
  | 0xF030 => some (b2n u.sumpCross + b2n u.ringCross * 2 + u.peak * 2 ^ 4 + u.sumpCount * 2 ^ 16 + u.ringCount * 2 ^ 24)
  | 0xF100 => some s.svc.reasons.toNat
  | 0xF104 => some (maskOf s.stileCount fun i => !(s.st i).disabled.isEmpty)
  | 0xF108 => some (maskOf s.stileCount fun i => (s.st i).removed)
  | 0xF200 => some (s.svc.active + s.svc.standby * 2 ^ 2 + b2n s.svc.standbyOk * 2 ^ 4)
  | 0xF210 => some (min s.svc.pauseUs (2 ^ 16 - 1) + min s.svc.failovers (2 ^ 16 - 1) * 2 ^ 16)
  | 0xF300 =>
    let held := s.tags.filter fun t => t.heldOut
    let fab := (held.filter fun t => match t.tag with | .fab _ _ _ => true | .mreq _ _ _ => false).length
    some (min (held.length - fab) (2 ^ 16 - 1) + min fab (2 ^ 16 - 1) * 2 ^ 16)
  | _ => none

/-- The 4-byte global register at an address. -/
def State.global32 (s : State) (o : Nat) : Option Nat :=
  if o < 0x1000 then s.portReg o
  else if 0x4400 ≤ o ∧ o < 0x4500 then some (s.keys.get ((o - 0x4400) / 4)).word
  else if 0x6100 ≤ o ∧ o < 0x7000 then s.barReg ((o - 0x6100) / 16) (o % 16)
  else if o < 0x7000 then s.unitReg o
  else if 0x7100 ≤ o ∧ o < 0x7200 then s.barReg (240 + (o - 0x7100) / 16) (o % 16)
  else if o < 0x8000 then s.jigReg o
  else if o < 0x9000 then (if o < 0x8800 ∧ o % 64 = 0x30 then some (s.dgt.sgCount.get ((o - 0x8000) / 64)).toNat else none)
  else if o < 0xA000 then s.chainReg o
  else if o < 0xB000 then s.pwrReg o
  else s.svcReg o

/-- Whether control core `k` is powered and not halted; CC0 always is. -/
def State.coreOn (s : State) (k : Nat) : Bool := k == 0 || s.dom (95 + k) && !bit s.life.halted (k - 1)

/-- A word of the debug window of control core `k` (R475). -/
def State.coreReg (s : State) (k i : Nat) : Option Nat :=
  if i = 0 then some (b2n (s.coreOn k) + (Config.coreWord k 0).toNat % 2 ^ 32 * 2 ^ 32)
  else if 0x800 ≤ i then some (Config.coreWord k (1 + (i - 0x800) / 8)).toNat
  else none

/-- The 8-byte global register at an aligned address. -/
def State.global64 (s : State) (o : Nat) : Option Nat :=
  if 0x1100 ≤ o ∧ o < 0x1900 then
    (if (o - 0x1100) % 0x80 < 0x48 then some ((s.port.ilv.get ((o - 0x1100) / 0x80)).word ((o - 0x1100) % 0x80 / 8)) else none)
  else if 0x4000 ≤ o ∧ o < 0x4400 then
    let k := s.keys.get ((o - 0x4000) / 16)
    some (if o % 16 = 0 then k.count else if k.state = 2 then (kcvOf k.key).toNat else 0)
  else if 0x8000 ≤ o ∧ o < 0x8800 then
    (if o % 64 < 0x30 then some (fld (s.dgt.sg.get ((o - 0x8000) / 64)) (o % 64 * 8 + 63) (o % 64 * 8)) else none)
  else if 0xB000 ≤ o ∧ o < 0xF000 then s.coreReg ((o - 0xB000) / 0x1000) (o % 0x1000)
  else match o with
  | 0x48 => some s.boot.fwAddr.toNat
  | 0x5010 => some s.trk.discard
  | 0xA008 => some s.pwr.parkBase.toNat
  | 0xA108 => some s.life.nonce.toNat
  | 0xF038 => some s.sump.prod
  | 0xF040 => some s.sump.cons
  | 0xF048 => some s.sump.seq
  | 0xF208 => some s.svc.slab
  | 0xF308 => some (maskOf 64 fun c => (s.sto.ctrls.get c).quar)
  | _ => none

/-! ## Chamber pages as read (Table 3 of chapter 20) -/

/-- CHM_STATUS. -/
def Chamber.status (c : Chamber) : Nat :=
  let fault := (List.range 16).any fun q => (c.sqs.get q).quar || (c.cqs.get q).quar
  b2n c.configured + b2n c.negotiated * 2 + b2n c.veneer * 4 + b2n c.quiescing * 8 + b2n fault * 16 + b2n c.setupError * 32

/-- CHM_SQ_CFG_q. -/
def Sq.cfg (q : Sq) : Nat := q.sizeM1 + q.cq * 2 ^ 12 + q.weight * 2 ^ 16 + b2n q.enable * 2 ^ 31
/-- CHM_CQ_CFG_q. -/
def Cq.cfg (q : Cq) : Nat := q.sizeM1 + b2n q.irqEn * 2 ^ 12 + b2n q.enable * 2 ^ 31

/-- CHM_CAP_STATE. -/
def CapRegs.word (r : CapRegs) : Nat :=
  r.phase + b2n r.degraded * 2 ^ 16 + b2n r.policy * 2 ^ 17 + b2n r.midstep * 2 ^ 18 + b2n r.triggered * 2 ^ 19 + r.trigRule % 16 * 2 ^ 20

/-- The streams of a chamber that are open. -/
def State.openStreams (s : State) (ch : Nat) : List (Nat × Stm) := s.trk.stm.entries.filter fun p => p.2.isOpen && p.2.chamber == ch

/-- CHM_STEP_STATE. -/
def State.stepWord (s : State) (ch : Nat) : Nat :=
  let t := (s.un ch).step
  t.phase.code + b2n (s.ch ch).guarded * 8 + b2n t.guardLost * 16 + b2n (!(s.stepCopies ch).isEmpty) * 32

/-- CHM_PROG_p. -/
def State.progWord (s : State) (ch p : Nat) : Nat :=
  let t := (s.un ch).progs.get p
  t.words.length + t.level * 2 ^ 28 + b2n (s.progInUse ch p) * 2 ^ 30 + b2n t.loaded * 2 ^ 31

/-- CHM_SDX_PEER_p. -/
def Peer.word (t : Peer) : Nat :=
  t.viol % 2 ^ 8 + t.site * 2 ^ 8 + b2n t.v2 * 2 ^ 29 + b2n t.quar * 2 ^ 30 + b2n (t.used && t.enabled) * 2 ^ 31

/-- Command queue, capture and stream registers of a chamber page: 4-byte registers below 0x800. -/
def State.pageLow (s : State) (ch o : Nat) : Option Nat :=
  let c := s.ch ch
  let u := s.un ch
  match o with
  | 0x100 => some c.status
  | 0x104 => some (c.minor + c.major * 2 ^ 8)
  | 0x110 => some c.irqPend.toNat
  | 0x118 => some c.threshold.toNat
  | 0x11C => some (maskOf 16 (fun q => (c.sqs.get q).quar) + maskOf 16 (fun q => (c.cqs.get q).quar) * 2 ^ 16)
  | 0x400 => some (c.quotaSync + c.quotaWatch * 2 ^ 16)
  | 0x404 => some c.quotaClamp
  | 0x408 => some c.quotaRegion
  | 0x40C => some c.quotaStream
  | 0x600 => some u.cap.word
  | 0x604 => some u.cap.epoch.toNat
  | 0x610 => some (b2n u.cap.warnCross + b2n u.cap.stallCross * 2 + u.cap.warnCount * 2 ^ 8 + u.cap.stallCount * 2 ^ 16)
  | 0x614 => some u.cap.peak
  | 0x618 => some u.cap.level
  | 0x620 => some (u.cap.fired.toNat + maskOf 16 (fun r => (s.trigs.get r).armed == some ch) * 2 ^ 16)
  | 0x700 => some u.stmBase
  | 0x704 => some u.depTimeout.toNat
  | 0x708 => some (c.credits + b2n (s.creditOpen ch) * 2 ^ 8)
  | 0x70C => some (s.openStreams ch).length
  | 0x710 => some ((s.openStreams ch).filter fun p => s.atMarker p.1).length
  | _ => none

/-- Step, sync and site registers of a chamber page: 4-byte registers from 0x800 to 0xBFF. -/
def State.pageHigh (s : State) (ch o : Nat) : Option Nat :=
  let u := s.un ch
  match o with
  | 0x800 => some (s.stepWord ch)
  | 0x810 => some u.step.scale.toNat
  | 0x814 => some u.step.clean.toNat
  | 0x818 => some u.step.skips
  | 0x81C => some u.step.loss.toNat
  | 0x820 => some u.step.norm.toNat
  | 0x824 => some u.step.clip.toNat
  | 0x828 => some (s.stepCopies ch).length
  | 0x900 => some u.syncBase
  | 0x904 => some ((s.sync.objs.entries.filter fun p => p.2.alloc && p.2.chamber == ch).length +
      (s.sync.watches.entries.filter fun p => p.2.used && p.2.chamber == ch).length * 2 ^ 16)
  | 0x908 => some (u.forbidden + u.overruns * 2 ^ 16)
  | 0x90C => some (u.wirqIndex + u.wirqGen * 2 ^ 12 + u.wirqCount * 2 ^ 16)
  | 0xA08 => some u.site.listLen
  | 0xA0C => some (u.site.nackLead + b2n u.site.outer * 2 ^ 31)
  | 0xA18 => some u.site.emitted.toNat
  | 0xA1C => some u.site.applied.toNat
  | 0xA20 => some (b2n (u.site.emitted != u.site.applied) + b2n u.site.seqSet * 2 + b2n u.site.anchored * 4)
  | 0xA30 => some u.site.blocks
  | 0xB00 => some (maskOf 15 fun p => (u.site.peers.get p).quar)
  | 0xB04 => some 0
  | 0xB08 => some (u.site.dup + u.site.late * 2 ^ 16)
  | 0xB0C => some (u.site.parkedPeak % 2 ^ 16 + u.site.ignored * 2 ^ 16)
  | _ =>
    if 0x840 ≤ o ∧ o < 0x860 then some (s.progWord ch ((o - 0x840) / 4))
    else if 0xA40 ≤ o ∧ o < 0xA80 then some (u.site.ks.get ((o - 0xA40) / 4)).toNat
    else if 0xA80 ≤ o ∧ o < 0xAF8 ∧ o % 8 = 0 then some (u.site.peers.get ((o - 0xA80) / 8)).word
    else none

/-- The 4-byte register at an offset of a chamber page. -/
def State.page32 (s : State) (ch o : Nat) : Option Nat :=
  if o < 0x100 then
    (if o % 16 = 0 then some ((s.ch ch).sqs.get (o / 16)).tail else if o % 16 = 8 then some ((s.ch ch).cqs.get (o / 16)).head else none)
  else if 0x200 ≤ o ∧ o < 0x400 then
    (if o % 32 = 8 then some ((s.ch ch).sqs.get ((o - 0x200) / 32)).cfg
     else if o % 32 = 0x18 then some ((s.ch ch).cqs.get ((o - 0x200) / 32)).cfg else none)
  else if o < 0x800 then s.pageLow ch o
  else s.pageHigh ch o

/-- The 8-byte register at an aligned offset of a chamber page. -/
def State.page64 (s : State) (ch o : Nat) : Option Nat :=
  if 0x200 ≤ o ∧ o < 0x400 then
    (if o % 32 = 0 then some ((s.ch ch).sqs.get ((o - 0x200) / 32)).base.toNat
     else if o % 32 = 0x10 then some ((s.ch ch).cqs.get ((o - 0x200) / 32)).base.toNat else none)
  else if 0x500 ≤ o ∧ o < 0x580 then
    let w := (s.ch ch).wins.get ((o - 0x500) / 16)
    some (if o % 16 = 0 then b2n w.valid + w.base * 2 ^ 16 else w.limit * 2 ^ 16)
  else if 0x8000 ≤ o then
    let k := (s.ch ch).slots.get ((o - 0x8000) / 64)
    some (if o % 64 = 0 then k.word.toNat else (k.res.getD (o % 64 / 8 - 1) 0).toNat)
  else match o with
  | 0x718 => some (s.un ch).stmDiscard
  | 0x808 => some (s.un ch).step.count.toNat
  | 0xA00 => some (s.un ch).site.listAddr.toNat
  | 0xA10 => some (s.un ch).site.seed.toNat
  | 0xA28 => some ((s.un ch).site.area * 2 ^ 16)
  | _ => none

/-! ## The sync window and the digest interface as read -/

/-- SYN_CTL of an object: zero while unallocated (R328). -/
def SyncObj.ctl (o : SyncObj) : Nat :=
  if !o.alloc then 0
  else o.bound.toNat + b2n o.tenon * 2 ^ 34 + o.linkTo.toNat * 2 ^ 35 + o.remoteCh.toNat * 2 ^ 49 + o.chamber % 32 * 2 ^ 54 +
    b2n o.remoteOk * 2 ^ 59 + b2n o.link * 2 ^ 60 + b2n o.overrun * 2 ^ 61 + b2n o.handSet * 2 ^ 62 + 2 ^ 63

/-- A word of the sync window (R328). -/
def State.syn64 (s : State) (addr : Nat) : Nat :=
  let o := s.sync.objs.get ((addr - 0x300000) / 16)
  if addr % 16 = 0 then (if o.alloc then o.value.toNat else 0) else o.ctl

/-- DGT_HSLOT_STATUS_h. -/
def State.hslotStatus (s : State) (h : Nat) : Nat :=
  let t := s.dgt.hslots.get h
  t.alg + b2n t.loaded * 4 + b2n t.derived * 8 + b2n (s.hslotBusy h) * 16 + t.gen % 2 ^ 8 * 2 ^ 8 + t.lastError * 2 ^ 16

/-- The 4-byte register of the digest interface at an address. -/
def State.dgt32 (s : State) (addr : Nat) : Option Nat :=
  if addr < 0x342000 then
    match addr with
    | 0x340000 => some (maskOf 8 (fun e => s.dom 103 && !bit s.dgt.failed e) + s.dgt.failed.toNat * 2 ^ 8 +
        ((List.range 32).filter fun i => (s.ctx (32 + i)).state != 0).length * 2 ^ 16)
    | 0x340004 => some s.dgt.waits
    | 0x340008 => some s.dgt.errors
    | _ => none
  else if addr < 0x344000 then
    (if addr % 0x100 = 0x80 then some 0 else if addr % 0x100 = 0x88 then some (s.hslotStatus ((addr - 0x342000) / 0x100)) else none)
  else if 0x348000 ≤ addr ∧ addr < 0x350000 then
    let t := s.ctx (32 + (addr - 0x348000) / 0x400)
    (if addr % 0x400 = 0 then some (t.alg + b2n t.hmac * 4 + t.hslot * 2 ^ 8 + b2n (t.state != 0) * 2 ^ 16)
     else if addr % 0x400 = 8 then
       some (t.state + b2n t.atBoundary * 8 + (if t.state = 5 then t.error else 0) * 2 ^ 4 + t.owner * 2 ^ 8 + t.msgs % 2 ^ 16 * 2 ^ 16)
     else none)
  else none

/-- The 8-byte register of the digest interface at an aligned address; a word of the saved state as a read now returns it. -/
def State.dgt64 (s : State) (addr : Nat) : Option Nat :=
  if 0x342000 ≤ addr ∧ addr < 0x344000 then (if addr % 0x100 < 0x80 then some 0 else none)
  else if 0x348000 ≤ addr ∧ addr < 0x350000 then
    let c := 32 + (addr - 0x348000) / 0x400
    let o := addr % 0x400
    (if o = 0x10 then some (s.ctx c).count
     else if 0x40 ≤ o ∧ o < 0x90 then some 0
     else if 0x100 ≤ o ∧ o < 0x140 then some (leAt (s.ctx c).out (o - 0x100) 8)
     else if 0x180 ≤ o ∧ o < 0x1D8 then some (s.readState c ((o - 0x180) / 8)).1.toNat
     else none)
  else none

/-! ## The whole aperture -/

/-- The 4-byte register at an address, as a read returns it; none where the map has none there. -/
def State.reg32 (s : State) (addr : Nat) : Option Nat :=
  if addr < 0x10000 then s.global32 addr
  else if 0x100000 ≤ addr ∧ addr < 0x300000 then s.page32 ((addr - 0x100000) / 0x10000) (addr % 0x10000)
  else if 0x340000 ≤ addr ∧ addr < 0x350000 then s.dgt32 addr
  else none

/-- The 8-byte register at an aligned address. -/
def State.reg64 (s : State) (addr : Nat) : Option Nat :=
  if addr < 0x10000 then s.global64 addr
  else if 0x100000 ≤ addr ∧ addr < 0x300000 then s.page64 ((addr - 0x100000) / 0x10000) (addr % 0x10000)
  else if 0x300000 ≤ addr ∧ addr < 0x340000 then some (s.syn64 addr)
  else if 0x340000 ≤ addr ∧ addr < 0x350000 then s.dgt64 addr
  else none

/-- The aligned 8-byte word at an address (R511); reserved addresses read zero (R14). -/
def State.word (s : State) (w : Nat) : BitVec 64 :=
  BitVec.ofNat 64 (match s.reg64 w with | some v => v | none => (s.reg32 w).getD 0 + (s.reg32 (w + 4)).getD 0 * 2 ^ 32)

/-! ## Read-to-clear fields (R511, R513) -/

/-- What a read of a global word clears. -/
def State.clearGlobal (s : State) (w : Nat) : State :=
  match w with
  | 0x3008 => { s with drbg := { s.drbg with fails := 0 } }
  | 0x3010 => { s with ciph := { s.ciph with crcMis := 0, sdxMis := 0, rebuilds := 0, holdPeak := 0 } }
  | 0x3018 => { s with ciph := { s.ciph with flowBad := 0 } }
  | 0x4500 => { s with dgt := { s.dgt with portRefused := 0, portParity := 0 } }
  | 0x5008 => { s with trk := { s.trk with stale := 0 } }
  | 0x5010 => { s with trk := { s.trk with discard := 0 } }
  | 0x6008 => { s with sync := { s.sync with dupRemote := 0, staleGen := 0, handSets := 0 } }
  | 0x7008 => { s with jig := { s.jig with defWindow := 0, yields := 0 } }
  | 0x7010 => { s with jig := { s.jig with failures := 0, transients := 0 } }
  | 0x9010 => { s with chain := { s.chain with damaged := 0, crc := 0, undeliv := 0, expired := 0 } }
  | 0x9018 => { s with chain := { s.chain with sent := 0, dropped := 0 } }
  | 0xA030 => { s with pwr := { s.pwr with wakes := 0, warnEvents := 0, warnLongest := 0 } }
  | 0xF010 => { s with sump := { s.sump with loss := (s.sump.loss.set 0 0).set 1 0 } }
  | 0xF018 => { s with sump := { s.sump with loss := (s.sump.loss.set 2 0).set 3 0 } }
  | 0xF020 => { s with sump := { s.sump with loss := s.sump.loss.set 4 0 } }
  | 0xF030 => { s with sump := { s.sump with
      ringCount := 0, sumpCount := 0, peak := s.sump.entries.length, ringCross := false, sumpCross := false } }
  | 0x340000 => { s with dgt := { s.dgt with waits := 0 } }
  | 0x340008 => { s with dgt := { s.dgt with errors := 0 } }
  | _ => s

/-- What a read of a word of chamber page `ch` clears (R160, R178). Peaks restart from the present level. -/
def State.clearPage (s : State) (ch o : Nat) : State :=
  match o with
  | 0x610 => s.onCapRegs ch fun r => { r with
      stallCount := 0, warnCount := 0, stallCross := false, warnCross := false, peak := r.level }
  | 0x718 => s.onUn ch fun u => { u with stmDiscard := 0 }
  | 0x908 => s.onUn ch fun u => { u with overruns := 0, forbidden := 0, wirqCount := 0, wirqGen := 0, wirqIndex := 0 }
  | 0xB08 => s.onSite ch fun u => { u with
      late := 0, dup := 0, ignored := 0, parkedPeak := (u.peers.entries.map fun p => p.2.parkedAt.length).foldl (· + ·) 0 }
  | _ => s

/-- The side effects of a read of the word at `w`. DGT_STATE_c_0 latches the saved state (R392). -/
def State.readEffects (s : State) (w : Nat) : State :=
  if 0x100000 ≤ w ∧ w < 0x300000 then s.clearPage ((w - 0x100000) / 0x10000) (w % 0x10000)
  else if 0x348000 ≤ w ∧ w < 0x350000 ∧ w % 0x400 = 0x180 then (s.readState (32 + (w - 0x348000) / 0x400) 0).2
  else s.clearGlobal w

/-! ## Reads -/

/-- Whether an address lies in a digest context or slot window. -/
def inWindowRange (addr : Nat) : Bool := decide (0x342000 ≤ addr ∧ addr < 0x344000 ∨ 0x348000 ≤ addr ∧ addr < 0x350000)

/-- The latch of a lane. -/
def State.setLatch (s : State) (a : Access) (v : Option (Nat × BitVec 32)) : State :=
  { s with lanes := s.lanes.modify a.lane fun l => { l with latch := v } }

/-- A read that needs a higher lamp level returns zero and is logged (R461). -/
def State.readDark (s : State) (a : Access) (addr : Nat) : State := ((s.lampDenied (leBytes 4 addr)).answer a 0 0).setLatch a none

/-- A read that is accepted (R511, R512): the whole word; a lower half of an 8-byte register latches its upper half; an upper half after it
returns the latched bits, and has no side effect; two 4-byte registers in one word are both read. -/
def State.readWord (s : State) (a : Access) (addr : Nat) : State :=
  let w := addr / 8 * 8
  let v := s.word w
  let hi := BitVec.ofNat 32 (fld v 63 32)
  if (s.reg64 w).isNone then ((s.readEffects w).answer a 0 v).setLatch a none
  else if addr % 8 = 0 then ((s.readEffects w).answer a 0 v).setLatch a (some (w, hi))
  else
    let h := match (s.lanes.get a.lane).latch with | some (x, l) => if x = w then l else hi | none => hi
    (s.answer a 0 (BitVec.ofNat 64 (fld v 31 0 + h.toNat * 2 ^ 32))).setLatch a none

/-- A read of the sync window (R55, R328, R344, R461): the owner; with PRIV[5] at LAMP1 any object. -/
def State.readSync (s : State) (a : Access) (addr : Nat) : State :=
  match s.objForeign a ((addr - 0x300000) / 16) with
  | none => s.readWord a addr
  | some o =>
    if !mgmt a then ((s.refuse a 3).setLatch a none).syncForbid o
    else if s.life.level = 0 then s.readDark a addr
    else s.readWord a addr

/-- A read of a digest window (R383, R396): another chamber's context needs PRIV[5]; while DGST is off the read wakes it and waits. -/
def State.readDigest (s : State) (a : Access) (addr : Nat) : State :=
  let t := s.ctx (32 + (addr - 0x348000) / 0x400)
  if !s.dom 103 then s.wantDom 103
  else if 0x348000 ≤ addr ∧ t.state ≠ 0 ∧ t.owner ≠ privCh a ∧ !mgmt a then (s.refuse a 3).setLatch a none
  else s.readWord a addr

/-- A read of the control aperture (R54, R55, R74, R511, R512, R515). -/
def State.readReg (s : State) (a : Access) (addr : Nat) : State :=
  if s.boot.resetHeld = 2 then s
  else if addr % 4 ≠ 0 ∨ 0x800000 ≤ addr then (s.refuse a 1).setLatch a none
  else if 0x100000 ≤ addr ∧ addr < 0x300000 then
    if !ownsPage a ((addr - 0x100000) / 0x10000) true then (s.refuse a 3).setLatch a none
    else if s.boot.stage ≠ .ready then (s.answer a 0 0).setLatch a none
    else s.readWord a addr
  else if 0xB000 ≤ addr ∧ addr < 0xF000 then
    if !mgmt a ∨ s.life.level = 0 then s.readDark a addr else s.readWord a addr
  else if 0x300000 ≤ addr ∧ addr < 0x340000 then s.readSync a addr
  else if inWindowRange addr then s.readDigest a addr
  else s.readWord a addr

/-- READ_CLEAR_ACCESS (R511). -/
def execReadClearAccess (a : Access) (addr : Nat) (s : State) : Host.Outcome State Fault Refusal := .next (s.readReg a addr)

/-- HALF_WORD_READ (R512). -/
def execHalfWordRead (a : Access) (addr : Nat) (s : State) : Host.Outcome State Fault Refusal := .next (s.readReg a addr)

/-- RSV_WM_READ (R160): a read of CHM_RSV_WM of a chamber. -/
def execRsvWmRead (a : Access) (ch : Nat) (s : State) : Host.Outcome State Fault Refusal :=
  .next (if ch < 32 then s.readReg a (pageAddr ch 0x610) else s)

/-- DGT_STATE_READ (R392): a read of DGT_STATE_c_0. -/
def execDgtStateRead (a : Access) (c : Nat) (s : State) : Host.Outcome State Fault Refusal :=
  .next (if 32 ≤ c ∧ c < 64 then s.readReg a (ctxAddr c + 0x180) else s)

/-! ## Writes of global registers -/

/-- A change of the port registers. -/
def State.onPort (s : State) (f : PortRegs → PortRegs) : State := { s with port := f s.port }

/-- A write with a reserved bit or a value out of range is ignored whole (R514); else its effect. -/
def State.legal (s : State) (ok : Bool) (addr : Nat) (f : State → State) : State := if ok then f s else s.ignoredWrite addr

/-- A write of PWR_CTL: `wake` goes first. -/
def State.pwrCtl (s : State) (wake off : Bool) : State :=
  let s := if wake then s.wakeReq else s
  if off then s.offReq else s

/-- A write of SMP_CTL (Table 11 of chapter 18): the watermark is compared anew; `clear` empties the general area. -/
def State.smpCtl (s : State) (v : BitVec 32) : State :=
  let u := { s.sump with minSev := fld v 18 16, wm := fld v 15 8 }
  let crossed := !s.sump.atWm && u.atWm
  let first := crossed && !u.sumpCross
  let s := { s with sump := u }
  let s := if crossed then
      ({ s with sump := { s.sump with sumpCross := true, sumpCount := min 255 (s.sump.sumpCount + 1) } }).log eWatermark 1 0 0 none [] else s
  let s := if first then s.cause 1 else s
  if bit v 0 then s.clearSump else s

/-- Whether an address belongs to a register wholly of units that are not built: its writes are not logged (R516). -/
def State.unbuiltReg (s : State) (addr : Nat) : Bool := addr == 0xA024 && s.build == .kx8 || addr == 0xA028 && s.build != .kx32

/-- A write of a 4-byte global register. -/
def State.putGlobal32 (s : State) (addr : Nat) (v : BitVec 32) (img : Image) : State :=
  let n := v.toNat
  match addr with
  | 0x10 => s.legal (n < 8) addr (·.onPort fun p => { p with holdAll := bit v 0, ownShare := BitVec.ofNat 2 (fld v 2 1) })
  | 0x14 => s.legal (n < 2 ^ 16) addr (·.onPort fun p => { p with frzTimeout := BitVec.ofNat 16 n })
  | 0x18 => s.legal (n < 2 ^ 24) addr (·.onPort fun p => { p with irqRoute := BitVec.ofNat 24 n })
  | 0x1C => s.legal (n < 2 ^ 8) addr (·.onPort fun p => { p with irqStatus := p.irqStatus &&& ~~~BitVec.ofNat 8 n })
  | 0x20 => s.legal (n < 2 ^ 8) addr (·.onPort fun p => { p with irqMask := BitVec.ofNat 8 n })
  | 0x44 => { s with boot := { s.boot with fwLen := v } }
  | 0x50 => s.legal (n < 2) addr fun s => if bit v 0 then s.loadFirmware img else s
  | 0x68 => s.legal (v &&& 0xFFFFFEE0 == 0) addr (·.onPort fun p => { p with stepReserve := bit v 8, stepFloor := BitVec.ofNat 5 (fld v 4 0) })
  | 0x1000 => s.legal (n < 4) addr fun s => if bit v 0 then s.applyIlv else s
  | 0x1008 => s.onPort fun p => { p with ilvMismatch := p.ilvMismatch &&& ~~~v }
  | 0x3000 => s.legal (n < 2 ^ 19) addr fun s => { s with ciph := { s.ciph with
      wEgress := BitVec.ofNat 4 (fld v 3 0), wIngress := BitVec.ofNat 4 (fld v 7 4), wSdx := BitVec.ofNat 4 (fld v 11 8)
      wCmd := BitVec.ofNat 4 (fld v 15 12), cmdCores := BitVec.ofNat 3 (fld v 18 16) } }
  | 0x6000 => s.legal (n < 2 ^ 19) addr fun s => { s with sync := { s.sync with
      ackUs := BitVec.ofNat 16 (fld v 15 0), retries := BitVec.ofNat 3 (fld v 18 16) } }
  | 0x9000 => s.legal (v &&& 0xFCFC0000 == 0) addr fun s => { s with chain := { s.chain with
      enumMs := BitVec.ofNat 8 (fld v 7 0), lossMs := BitVec.ofNat 8 (fld v 15 8), candidate := bit v 16, autoReenum := bit v 17
      dclMax := BitVec.ofNat 2 (fld v 25 24) } }
  | 0x900C => { s with chain := { s.chain with trigIn := BitVec.ofNat 16 (fld v 15 0), trigOut := BitVec.ofNat 16 (fld v 31 16) } }
  | 0xA004 => s.legal (n < 4) addr fun s => s.pwrCtl (bit v 0) (bit v 1)
  | 0xA010 => s.legal (n < 2 ^ 24) addr fun s => { s with pwr := { s.pwr with parkSize := BitVec.ofNat 24 n } }
  | 0xA204 => s.legal (n < 8) addr fun s => s.lampCtl (bit v 2) (fld v 1 0)
  | 0xA208 => s.legal (v &&& 0xFFFFF8F8 == 0) addr fun s => s.haltCtl (BitVec.ofNat 3 (fld v 2 0))
  | 0xF004 => s.legal (v &&& 0xFFF800FE == 0 && decide (fld v 15 8 ≤ 100)) addr fun s => s.smpCtl v
  | _ => if s.unbuiltReg addr then s else s.ignoredWrite addr

/-- A write of word `i` of an interleave entry, while the table is not locked (Table 4 of chapter 02). -/
def State.putIlv (s : State) (addr n i : Nat) (v : BitVec 64) : State :=
  let w := v.toNat
  let put (ok : Bool) (f : IlvEntry → IlvEntry) : State :=
    s.legal (ok && !s.port.ilvLocked) addr (·.onPort fun p => { p with ilv := p.ilv.modify n f })
  let g := BitVec.ofNat 36 w
  match i with
  | 0 => put (w < 2 ^ 36) fun e => { e with base := g }
  | 1 => put (v &&& 0xFFFFFFFF7FE0F8C0 == 0 && decide (fld v 10 8 ≤ 5) && decide (fld v 5 0 ≤ 36)) fun e => { e with
      valid := bit v 31, stileBase := BitVec.ofNat 5 (fld v 20 16), width := BitVec.ofNat 3 (fld v 10 8), log2Size := BitVec.ofNat 6 (fld v 5 0) }
  | 2 => put (w < 2 ^ 36) fun e => { e with keep := g }
  | 3 => put (w < 2 ^ 20) fun e => { e with localBase := BitVec.ofNat 20 w }
  | 4 => put (w < 2 ^ 36) fun e => { e with mask0 := g }
  | 5 => put (w < 2 ^ 36) fun e => { e with mask1 := g }
  | 6 => put (w < 2 ^ 36) fun e => { e with mask2 := g }
  | 7 => put (w < 2 ^ 36) fun e => { e with mask3 := g }
  | _ => put (w < 2 ^ 36) fun e => { e with mask4 := g }

/-- A write of an 8-byte global register. -/
def State.putGlobal64 (s : State) (addr : Nat) (v : BitVec 64) : State :=
  if 0x1100 ≤ addr ∧ addr < 0x1900 then s.putIlv addr ((addr - 0x1100) / 0x80) ((addr - 0x1100) % 0x80 / 8) v
  else match addr with
  | 0x48 => s.legal (v &&& 0xFFF0000000000FFF == 0) addr fun s => { s with boot := { s.boot with fwAddr := v } }
  | 0xA008 => s.legal (v &&& 0xFFF000000000FFFF == 0) addr fun s => { s with pwr := { s.pwr with parkBase := v } }
  | 0xF040 => s.spillCons v.toNat
  | _ => s.ignoredWrite addr

/-! ## Writes of chamber page registers -/

/-- A write of CHM_SQ_CFG_0 (R90, R91, R521). The fields of an enabled queue do not change. -/
def State.sqCfg (s : State) (ch : Nat) (v : BitVec 32) : State :=
  let addr := pageAddr ch 0x208
  let q := (s.ch ch).sqs.get 0
  let n := fld v 11 0
  let same := q.cfg % 2 ^ 20 == v.toNat % 2 ^ 20
  if v &&& 0x7FF00000 ≠ 0 then s.ignoredWrite addr
  else if q.enable then
    let s := if same then s else s.ignoredWrite addr
    if bit v 31 || q.closing then s else s.disableSq0 ch
  else if n = 0 ∧ ¬(bit v 31 ∧ q.sizeM1 = 0) then s.ignoredWrite addr
  else
    let s := s.onSq ch 0 fun q => { q with sizeM1 := n, cq := fld v 15 12, weight := fld v 19 16 }
    if bit v 31 then s.enableAdmin ch false else s

/-- A write of CHM_CQ_CFG_q (R90, R91, R521): irq_en at any time, the rest of CQ0 only. -/
def State.cqCfg (s : State) (ch q : Nat) (v : BitVec 32) : State :=
  let addr := pageAddr ch (0x218 + q * 32)
  let k := (s.ch ch).cqs.get q
  let n := fld v 11 0
  let irq (s : State) : State := s.onCq ch q fun k => { k with irqEn := bit v 12 }
  if v &&& 0x7FFFE000 ≠ 0 then s.ignoredWrite addr
  else if q ≠ 0 then
    irq (if k.enable && (k.sizeM1 != n || !bit v 31) then s.ignoredWrite addr else s)
  else if k.enable then
    let s := irq (if k.sizeM1 = n then s else s.ignoredWrite addr)
    if bit v 31 then s else s.disableCq0 ch
  else if n = 0 ∧ ¬(bit v 31 ∧ k.sizeM1 = 0) then s.ignoredWrite addr
  else
    let s := irq (s.onCq ch 0 fun k => { k with sizeM1 := n })
    if bit v 31 then s.enableAdmin ch true else s

/-- A write of CHM_SDX_KICK: the counts of the peers of its bits are read now (R364, R378). -/
def State.kick (s : State) (ch : Nat) (peers : BitVec 32) (e : Ext) : State :=
  (List.range 15).foldl (fun s p => if bit peers p then s.sdxPoll ch p e else s) s

/-- A write of a 4-byte register of a chamber page. -/
def State.putPage32 (s : State) (ch o : Nat) (v : BitVec 32) (e : Ext) : State :=
  let addr := pageAddr ch o
  let n := v.toNat
  if o < 0x100 ∧ o % 16 = 0 then s.tailWrite ch (o / 16) v
  else if o < 0x100 ∧ o % 16 = 8 then s.headWrite ch (o / 16) v
  else if 0x200 ≤ o ∧ o < 0x400 ∧ o % 32 = 0x18 then s.cqCfg ch ((o - 0x200) / 32) v
  else if 0xA40 ≤ o ∧ o < 0xA80 then s.onSite ch fun u => { u with ks := u.ks.set ((o - 0xA40) / 4) v }
  else match o with
  | 0x110 => s.legal (n < 2 ^ 16) addr (·.onCh ch fun c => { c with irqPend := c.irqPend &&& ~~~BitVec.ofNat 16 n })
  | 0x118 => s.legal (n < 2 ^ 8) addr (·.onCh ch fun c => { c with threshold := BitVec.ofNat 8 n })
  | 0x208 => s.sqCfg ch v
  | 0x620 => s.onCapRegs ch fun r => { r with fired := r.fired &&& ~~~BitVec.ofNat 16 n }
  | 0x704 => s.legal (n < 2 ^ 16) addr (·.onUn ch fun u => { u with depTimeout := BitVec.ofNat 16 n })
  | 0xA08 => s.legal (n < 2 ^ 16 && n != 0) addr (·.onSite ch fun u => { u with listLen := n })
  | 0xA0C => s.legal (v &&& 0x7FFF0000 == 0) addr (·.onSite ch fun u => { u with outer := bit v 31, nackLead := fld v 15 0 })
  | 0xB04 => s.legal (n < 2 ^ 15) addr fun s => s.kick ch v e
  | _ => s.ignoredWrite addr

/-- A write of an 8-byte register of a chamber page. The bases of the admin pair change only while the queue is disabled (R90). -/
def State.putPage64 (s : State) (ch o : Nat) (v : BitVec 64) : State :=
  let addr := pageAddr ch o
  let ring := v &&& 0xFFF0000000000FFF == 0
  match o with
  | 0x200 => s.legal (ring && !((s.ch ch).sqs.get 0).enable) addr (·.onSq ch 0 fun q => { q with base := v })
  | 0x210 => s.legal (ring && !((s.ch ch).cqs.get 0).enable) addr (·.onCq ch 0 fun q => { q with base := v })
  | 0xA00 => s.legal (v &&& 0xFFF0000000000007 == 0) addr (·.onSite ch fun u => { u with listAddr := v })
  | 0xA10 => s.onSite ch fun u => { u with seed := v }
  | _ => s.ignoredWrite addr

/-! ## Writes of the sync window and the digest interface -/

/-- A write of a word of the sync window (R328, R329, R345). -/
def State.putSync (s : State) (a : Access) (addr : Nat) (v : BitVec 64) (e : Ext) : State :=
  let i := (addr - 0x300000) / 16
  if addr % 16 = 0 then s.handWrite a i v e.writeErr
  else if (s.sync.objs.get i).alloc then s.linkWrite i v
  else s.ignoredWrite addr

/-- A write of a 4-byte register of the digest interface. -/
def State.putDgt32 (s : State) (a : Access) (addr : Nat) (v : BitVec 32) : State :=
  if 0x342000 ≤ addr ∧ addr < 0x344000 ∧ addr % 0x100 = 0x80 then s.hslotCtl ((addr - 0x342000) / 0x100) v
  else if 0x348000 ≤ addr ∧ addr < 0x350000 ∧ addr % 0x400 = 0 then s.ctxCtl a (32 + (addr - 0x348000) / 0x400) v
  else s.ignoredWrite addr

/-- The message operation of an offset of a context window (R384): 0 DGT_DATA, 1 to 8 DGT_LAST, 9 DGT_FINISH. -/
def messageOp (o : Nat) : Option Nat := if 0x40 ≤ o ∧ o < 0x90 then some ((o - 0x40) / 8) else none

/-- A write of an 8-byte register of the digest interface. -/
def State.putDgt64 (s : State) (addr : Nat) (v : BitVec 64) : State :=
  if 0x342000 ≤ addr ∧ addr < 0x344000 then
    { s with dgt := { s.dgt with hkeys := s.dgt.hkeys.set ((addr - 0x342000) / 0x100 * 16 + addr % 0x100 / 8) v } }
  else
    let c := 32 + (addr - 0x348000) / 0x400
    let o := addr % 0x400
    match messageOp o with
    | some k => s.ctxWrite c k v
    | none => if 0x180 ≤ o ∧ o < 0x1D8 then s.putState c ((o - 0x180) / 8) v else s.ignoredWrite addr

/-! ## The whole aperture -/

/-- A write of a 4-byte register. -/
def State.put32 (s : State) (a : Access) (addr : Nat) (v : BitVec 32) (e : Ext) (img : Image) : State :=
  if addr < 0x10000 then s.putGlobal32 addr v img
  else if 0x100000 ≤ addr ∧ addr < 0x300000 then s.putPage32 ((addr - 0x100000) / 0x10000) (addr % 0x10000) v e
  else if 0x340000 ≤ addr ∧ addr < 0x350000 then s.putDgt32 a addr v
  else s.ignoredWrite addr

/-- A write of an 8-byte register. -/
def State.put64 (s : State) (a : Access) (addr : Nat) (v : BitVec 64) (e : Ext) : State :=
  if addr < 0x10000 then s.putGlobal64 addr v
  else if 0x100000 ≤ addr ∧ addr < 0x300000 then s.putPage64 ((addr - 0x100000) / 0x10000) (addr % 0x10000) v
  else if 0x300000 ≤ addr ∧ addr < 0x340000 then s.putSync a addr v e
  else s.putDgt64 addr v

/-- The registers of chamber pages that PRIV[5] may write as well (R292, R378). -/
def pageOpen (o : Nat) : Bool := o / 8 * 8 == 0x700 || decide (0xA00 ≤ o ∧ o < 0xB10)

/-- The registers that keep their values across warm reset and take writes while it is asserted (R515). -/
def keptReg (addr : Nat) : Bool :=
  [0x10, 0x14, 0x44, 0x48, 0x68, 0x1000, 0x1008, 0x6000, 0x9000, 0x900C, 0xA008, 0xA010, 0xA204, 0xA208, 0xF004, 0xF040].contains addr ||
    decide (0x1100 ≤ addr ∧ addr < 0x1900)

/-- The ERR code of a write, with the owner of a sync object it may not reach (R55, R74, R344, R383, R390). `v` is the word written at `addr`. -/
def State.writeErr (s : State) (a : Access) (addr : Nat) (v : BitVec 32) : Nat × Option Nat :=
  if addr < 0x10000 then (if mgmt a then 0 else 3, none)
  else if 0x100000 ≤ addr ∧ addr < 0x300000 then
    (if ownsPage a ((addr - 0x100000) / 0x10000) (pageOpen (addr % 0x10000)) then 0 else 3, none)
  else if 0x300000 ≤ addr ∧ addr < 0x340000 then
    (match if mgmt a && addr % 16 < 8 then none else s.objForeign a ((addr - 0x300000) / 16) with
    | some o => (3, some o)
    | none => (0, none))
  else if 0x342000 ≤ addr ∧ addr < 0x344000 then (hslotErr a ((addr - 0x342000) / 0x100), none)
  else if 0x348000 ≤ addr ∧ addr < 0x350000 then
    let c := 32 + (addr - 0x348000) / 0x400
    if addr % 0x400 < 8 then (s.ctlErr a c v, none)
    else if (messageOp (addr % 0x400)).isSome then (s.ctxErr a c, none)
    else (if (s.ctx c).state ≠ 0 ∧ (s.ctx c).owner ≠ privCh a then 3 else 0, none)
  else (0, none)

/-- A write that has passed the checks of the lane: refused, discarded before READY, left waiting for DGST, or done. Under warm reset only the
registers it does not clear take writes. -/
def State.writeGate (s : State) (a : Access) (addr : Nat) (v : BitVec 32) (f : State → State) : State :=
  let g (s : State) : State := if s.boot.resetHeld = 1 ∧ addr < 0x10000 ∧ !keptReg addr then s else f s
  match s.writeErr a addr v with
  | (err, owner) =>
    let t := if inWindowRange addr then s.dgtWindow a err addr f
      else s.fabWrite a err (decide (0x100000 ≤ addr ∧ addr < 0x300000)) addr g
    match owner with
    | some o => t.syncForbid o
    | none => t

/-- An 8-byte write (R511): an 8-byte register, or two 4-byte ones, lower address first. -/
def State.writeWide (s : State) (a : Access) (addr : Nat) (v : BitVec 64) (e : Ext) (img : Image) : State :=
  let lo := BitVec.ofNat 32 (fld v 31 0)
  let hi := BitVec.ofNat 32 (fld v 63 32)
  s.writeGate a addr lo fun s =>
    if (s.reg64 addr).isSome then s.put64 a addr v e else (s.put32 a addr lo e img).put32 a (addr + 4) hi e img

/-- A 4-byte write (R512, R519): of a 4-byte register; of half an 8-byte one, held or paired or discarded; of a message register, a context
error. -/
def State.writeHalf (s : State) (a : Access) (addr : Nat) (v : BitVec 32) (e : Ext) (img : Image) : State :=
  let w := addr / 8 * 8
  if (s.reg64 w).isNone then s.writeGate a addr v fun s => s.put32 a addr v e img
  else if 0x348000 ≤ addr ∧ addr < 0x350000 ∧ (messageOp (addr % 0x400)).isSome then
    s.writeGate a addr v fun s => s.ctxWrite (32 + (addr - 0x348000) / 0x400) 10 (v.zeroExtend 64)
  else if addr % 8 = 0 then
    s.writeGate a addr v fun s => { s with lanes := s.lanes.modify a.lane fun l => { l with held := some (w, v) } }
  else match (s.lanes.get a.lane).held with
  | some (x, lo) =>
    if x = w ∧ (s.writeErr a addr v).1 = 0 then
      let t := if inWindowRange addr && !s.dom 103 then s else { s with lanes := s.lanes.modify a.lane fun l => { l with held := none } }
      t.writeGate a addr v fun s => s.put64 a w (v ++ lo) e
    else s.writeGate a addr v fun s => s.ignoredWrite addr
  | none => s.writeGate a addr v fun s => s.ignoredWrite addr

/-- A write of the control aperture. -/
def State.writeReg (s : State) (a : Access) (addr : Nat) (wide : Bool) (v : BitVec 64) (e : Ext) (img : Image) : State :=
  if s.boot.resetHeld = 2 then s
  else if addr % (if wide then 8 else 4) ≠ 0 ∨ 0x800000 ≤ addr then s.fabWrite a 1 false addr id
  else if wide then s.writeWide a addr v e img
  else s.writeHalf a addr (BitVec.ofNat 32 (fld v 31 0)) e img

/-- REGISTER_WRITE (R514). -/
def execRegisterWrite (a : Access) (addr : Nat) (wide : Bool) (v : BitVec 64) (e : Ext) (img : Image) (s : State) :
    Host.Outcome State Fault Refusal :=
  .next (s.writeReg a addr wide v e img)

/-- HALF_WORD_WRITE (R512). -/
def execHalfWordWrite (a : Access) (addr : Nat) (v : BitVec 32) (e : Ext) (img : Image) (s : State) : Host.Outcome State Fault Refusal :=
  .next (s.writeReg a addr false (v.zeroExtend 64) e img)

end Sys2Proof.Machine
end

