-- ==== Sys2Proof/Machine/Dispatch.lean ====
section
/-! DEFINITION. The effect of a command on everything but the queue of waiting commands: one arm per constructor. -/

namespace Sys2Proof.Machine

/-- The effect of a command. -/
def exec (i : Instr) (s : State) : Host.Outcome State Fault Refusal :=
  match i with
  | .identify x e => Sys2Proof.Machine.execIdentify x e s
  | .negotiate x e => Sys2Proof.Machine.execNegotiate x e s
  | .queueCreate x e => Sys2Proof.Machine.execQueueCreate x e s
  | .queueDelete x e => Sys2Proof.Machine.execQueueDelete x e s
  | .featureGet x e => Sys2Proof.Machine.execFeatureGet x e s
  | .statusInterval x e => Sys2Proof.Machine.execStatusInterval x e s
  | .periodicSelfTest x e => Sys2Proof.Machine.execPeriodicSelfTest x e s
  | .sumpSpill x e => Sys2Proof.Machine.execSumpSpill x e s
  | .reserveWatermarks x e => Sys2Proof.Machine.execReserveWatermarks x e s
  | .partnerThreshold x e => Sys2Proof.Machine.execPartnerThreshold x e s
  | .powerPolicy x e => Sys2Proof.Machine.execPowerPolicy x e s
  | .chainNoticeRate x e => Sys2Proof.Machine.execChainNoticeRate x e s
  | .logRead x e => Sys2Proof.Machine.execLogRead x e s
  | .selfTest x e o => Sys2Proof.Machine.execSelfTest x e o s
  | .storeCreate x e => Sys2Proof.Machine.execStoreCreate x e s
  | .storeMount x e => Sys2Proof.Machine.execStoreMount x e s
  | .storeUnmount x e => Sys2Proof.Machine.execStoreUnmount x e s
  | .storeDelete x e => Sys2Proof.Machine.execStoreDelete x e s
  | .chamberConfig x e => Sys2Proof.Machine.execChamberConfig x e s
  | .keySlotLoad x e => Sys2Proof.Machine.execKeySlotLoad x e s
  | .keySlotZeroise x e => Sys2Proof.Machine.execKeySlotZeroise x e s
  | .fwStage x e img => Sys2Proof.Machine.execFwStage x e img s
  | .fwActivate x e img => Sys2Proof.Machine.execFwActivate x e img s
  | .lifecycleAdvance x e burn => Sys2Proof.Machine.execLifecycleAdvance x e burn s
  | .chainMasterEnumerate x e => Sys2Proof.Machine.execChainMasterEnumerate x e s
  | .chainSetMember x e => Sys2Proof.Machine.execChainSetMember x e s
  | .chainSetIsolated x e => Sys2Proof.Machine.execChainSetIsolated x e s
  | .chainReenumerate x e => Sys2Proof.Machine.execChainReenumerate x e s
  | .chainStatus x e => Sys2Proof.Machine.execChainStatus x e s
  | .abort x e => Sys2Proof.Machine.execAbort x e s
  | .storageAttach x e ci => Sys2Proof.Machine.execStorageAttach x e ci s
  | .storageDetach x e => Sys2Proof.Machine.execStorageDetach x e s
  | .chamberQuiesce x e => Sys2Proof.Machine.execChamberQuiesce x e s
  | .testOpcode x e => Sys2Proof.Machine.execTestOpcode x e s
  | .regionDeclare x e => Sys2Proof.Machine.execRegionDeclare x e s
  | .regionRetire x e => Sys2Proof.Machine.execRegionRetire x e s
  | .capture x e => Sys2Proof.Machine.execCapture x e s
  | .drainHint x e => Sys2Proof.Machine.execDrainHint x e s
  | .captureCancel x e => Sys2Proof.Machine.execCaptureCancel x e s
  | .replicaSet x e => Sys2Proof.Machine.execReplicaSet x e s
  | .triggerArm x e => Sys2Proof.Machine.execTriggerArm x e s
  | .triggerDisarm x e => Sys2Proof.Machine.execTriggerDisarm x e s
  | .condense x e => Sys2Proof.Machine.execCondense x e s
  | .restore x e => Sys2Proof.Machine.execRestore x e s
  | .restoreSlice x e => Sys2Proof.Machine.execRestoreSlice x e s
  | .verify x e => Sys2Proof.Machine.execVerify x e s
  | .manifestRead x e => Sys2Proof.Machine.execManifestRead x e s
  | .streamOpen x e => Sys2Proof.Machine.execStreamOpen x e s
  | .streamClose x e => Sys2Proof.Machine.execStreamClose x e s
  | .streamSeek x e => Sys2Proof.Machine.execStreamSeek x e s
  | .streamCancel x e => Sys2Proof.Machine.execStreamCancel x e s
  | .dovetail x e stages => Sys2Proof.Machine.execDovetail x e stages s
  | .programLoad x e => Sys2Proof.Machine.execProgramLoad x e s
  | .stepBegin x e => Sys2Proof.Machine.execStepBegin x e s
  | .stepMeasure x e => Sys2Proof.Machine.execStepMeasure x e s
  | .stepNorm x e => Sys2Proof.Machine.execStepNorm x e s
  | .stepApply x e => Sys2Proof.Machine.execStepApply x e s
  | .stepAbort x e => Sys2Proof.Machine.execStepAbort x e s
  | .stepRollback x e => Sys2Proof.Machine.execStepRollback x e s
  | .tierPlace x e => Sys2Proof.Machine.execTierPlace x e s
  | .anchorSet x e => Sys2Proof.Machine.execAnchorSet x e s
  | .deltaEmit x e => Sys2Proof.Machine.execDeltaEmit x e s
  | .deltaApply x e => Sys2Proof.Machine.execDeltaApply x e s
  | .peerEnable x e => Sys2Proof.Machine.execPeerEnable x e s
  | .peerDisable x e => Sys2Proof.Machine.execPeerDisable x e s
  | .replicaDigest x e => Sys2Proof.Machine.execReplicaDigest x e s
  | .digest x e => Sys2Proof.Machine.execDigest x e s
  | .hmac x e => Sys2Proof.Machine.execHmac x e s
  | .seal x e => Sys2Proof.Machine.execSeal x e s
  | .unseal x e => Sys2Proof.Machine.execUnseal x e s
  | .extend x e => Sys2Proof.Machine.execExtend x e s
  | .syncAlloc x e => Sys2Proof.Machine.execSyncAlloc x e s
  | .syncFree x e => Sys2Proof.Machine.execSyncFree x e s
  | .syncSignal x e => Sys2Proof.Machine.execSyncSignal x e s
  | .watchSet x e => Sys2Proof.Machine.execWatchSet x e s
  | .watchClear x e => Sys2Proof.Machine.execWatchClear x e s
  | .barrierJoin x e => Sys2Proof.Machine.execBarrierJoin x e s
  | .k2Credit x e => Sys2Proof.Machine.execK2Credit x e s
  | .twinEntry x e => Sys2Proof.Machine.execTwinEntry x e s
  | .sqTailDoorbell a ch q v => Sys2Proof.Machine.execSqTailDoorbell a ch q v s
  | .cqHeadDoorbell a ch q v => Sys2Proof.Machine.execCqHeadDoorbell a ch q v s
  | .sqEntryFetch ans => Sys2Proof.Machine.execSqEntryFetch ans s
  | .commandDispatch ch e => Sys2Proof.Machine.execCommandDispatch ch e s
  | .clampGrant => Sys2Proof.Machine.execClampGrant s
  | .completionPost e => Sys2Proof.Machine.execCompletionPost e s
  | .statusWordUpdate ch sq cid e => Sys2Proof.Machine.execStatusWordUpdate ch sq cid e s
  | .adminQueueEnable a ch cq => Sys2Proof.Machine.execAdminQueueEnable a ch cq s
  | .adminSqDisable a ch => Sys2Proof.Machine.execAdminSqDisable a ch s
  | .adminCqDisable a ch => Sys2Proof.Machine.execAdminCqDisable a ch s
  | .ilvApply a => Sys2Proof.Machine.execIlvApply a s
  | .fwLoad a img => Sys2Proof.Machine.execFwLoad a img s
  | .syncLinkWrite a obj v => Sys2Proof.Machine.execSyncLinkWrite a obj v s
  | .syncHandSet a obj v e => Sys2Proof.Machine.execSyncHandSet a obj v e s
  | .signalApertureWrite a off v sizeOk e => Sys2Proof.Machine.execSignalApertureWrite a off v sizeOk e s
  | .stagingRead a off len => Sys2Proof.Machine.execStagingRead a off len s
  | .stagingWrite a off data => Sys2Proof.Machine.execStagingWrite a off data s
  | .stagingReadTimeout off => Sys2Proof.Machine.execStagingReadTimeout off s
  | .readClearAccess a addr => Sys2Proof.Machine.execReadClearAccess a addr s
  | .rsvWmRead a ch => Sys2Proof.Machine.execRsvWmRead a ch s
  | .halfWordWrite a addr v e img => Sys2Proof.Machine.execHalfWordWrite a addr v e img s
  | .registerWrite a addr wide v e img => Sys2Proof.Machine.execRegisterWrite a addr wide v e img s
  | .dgtContextClaim a c v => Sys2Proof.Machine.execDgtContextClaim a c v s
  | .dgtContextRelease a c v => Sys2Proof.Machine.execDgtContextRelease a c v s
  | .dgtContextAbort a c v => Sys2Proof.Machine.execDgtContextAbort a c v s
  | .dgtContextRestore a c v => Sys2Proof.Machine.execDgtContextRestore a c v s
  | .dgtData a c w wide => Sys2Proof.Machine.execDgtData a c w wide s
  | .dgtLast a c b w wide => Sys2Proof.Machine.execDgtLast a c b w wide s
  | .dgtFinish a c wide => Sys2Proof.Machine.execDgtFinish a c wide s
  | .dgtMessageDone c => Sys2Proof.Machine.execDgtMessageDone c s
  | .dgtStateRead a c => Sys2Proof.Machine.execDgtStateRead a c s
  | .hslotLoad a h v => Sys2Proof.Machine.execHslotLoad a h v s
  | .hslotClear a h => Sys2Proof.Machine.execHslotClear a h s
  | .pwrWake a => Sys2Proof.Machine.execPwrWake a s
  | .pwrOffReq a => Sys2Proof.Machine.execPwrOffReq a s
  | .lampLower a level => Sys2Proof.Machine.execLampLower a level s
  | .coreHalt a mask => Sys2Proof.Machine.execCoreHalt a mask s
  | .coreResume a mask => Sys2Proof.Machine.execCoreResume a mask s
  | .sumpClear a => Sys2Proof.Machine.execSumpClear a s
  | .spillConsume a v => Sys2Proof.Machine.execSpillConsume a v s
  | .sdxKick a ch peers => Sys2Proof.Machine.execSdxKick a ch peers s
  | .lampUnlockRequest v => Sys2Proof.Machine.execLampUnlockRequest v s
  | .lampUnlockResponse r sg => Sys2Proof.Machine.execLampUnlockResponse r sg s
  | .scanEnter => Sys2Proof.Machine.execScanEnter s
  | .jigManualSession open_ => Sys2Proof.Machine.execJigManualSession open_ s
  | .jigManualSlice v o => Sys2Proof.Machine.execJigManualSlice v o s
  | .tapInstruction code => Sys2Proof.Machine.execTapInstruction code s
  | .hreqRequest st r => Sys2Proof.Machine.execHreqRequest st r s
  | .copyComplete st => Sys2Proof.Machine.execCopyComplete st s
  | .stallRelease st cell => Sys2Proof.Machine.execStallRelease st cell s
  | .heldWriteLimit st => Sys2Proof.Machine.execHeldWriteLimit st s
  | .mrspResponse st r => Sys2Proof.Machine.execMrspResponse st r s
  | .fabReadData port tag data poison err => Sys2Proof.Machine.execFabReadData port tag data poison err s
  | .fabWriteAck port tag err => Sys2Proof.Machine.execFabWriteAck port tag err s
  | .tagTimeout ref => Sys2Proof.Machine.execTagTimeout ref s
  | .captureStart ch => Sys2Proof.Machine.execCaptureStart ch s
  | .freezeAck => Sys2Proof.Machine.execFreezeAck s
  | .freezeAckFall => Sys2Proof.Machine.execFreezeAckFall s
  | .freezeTimeout => Sys2Proof.Machine.execFreezeTimeout s
  | .cellTakeUnit st cell e => Sys2Proof.Machine.execCellTakeUnit st cell e s
  | .directoryLookupAnswer st cell hit => Sys2Proof.Machine.execDirectoryLookupAnswer st cell hit s
  | .cipherAssign core => Sys2Proof.Machine.execCipherAssign core s
  | .cipherCoreFail core => Sys2Proof.Machine.execCipherCoreFail core s
  | .blockWriteComplete st granule => Sys2Proof.Machine.execBlockWriteComplete st granule s
  | .blockWriteFailed st granule => Sys2Proof.Machine.execBlockWriteFailed st granule s
  | .sealWaitTimeout => Sys2Proof.Machine.execSealWaitTimeout s
  | .captureCommit e => Sys2Proof.Machine.execCaptureCommit e s
  | .moverLoss st => Sys2Proof.Machine.execMoverLoss st s
  | .eventPulse k => Sys2Proof.Machine.execEventPulse k s
  | .eventLevel k v => Sys2Proof.Machine.execEventLevel k v s
  | .levelRuleTimer => Sys2Proof.Machine.execLevelRuleTimer s
  | .keyLoadWord slot w data par => Sys2Proof.Machine.execKeyLoadWord slot w data par s
  | .keyCommit slot => Sys2Proof.Machine.execKeyCommit slot s
  | .keyZeroise slot => Sys2Proof.Machine.execKeyZeroise slot s
  | .keyLoadingTimeout slot => Sys2Proof.Machine.execKeyLoadingTimeout slot s
  | .entropyWord w fail => Sys2Proof.Machine.execEntropyWord w fail s
  | .drbgReseedDue => Sys2Proof.Machine.execDrbgReseedDue s
  | .drbgReseedTimeout => Sys2Proof.Machine.execDrbgReseedTimeout s
  | .wakeBudgetChange v => Sys2Proof.Machine.execWakeBudgetChange v s
  | .supplyWarn v => Sys2Proof.Machine.execSupplyWarn v s
  | .wakeStart => Sys2Proof.Machine.execWakeStart s
  | .domainWakeComplete d img => Sys2Proof.Machine.execDomainWakeComplete d img s
  | .idleTimer d => Sys2Proof.Machine.execIdleTimer d s
  | .passEntry e => Sys2Proof.Machine.execPassEntry e s
  | .kxRailDetect up => Sys2Proof.Machine.execKxRailDetect up s
  | .coldResetAssert => Sys2Proof.Machine.execColdResetAssert s
  | .coldReset burn fuseErr => Sys2Proof.Machine.execColdReset burn fuseErr s
  | .warmResetAssert => Sys2Proof.Machine.execWarmResetAssert s
  | .warmReset img => Sys2Proof.Machine.execWarmReset img s
  | .stileReset st => Sys2Proof.Machine.execStileReset st s
  | .stileResetRelease st => Sys2Proof.Machine.execStileResetRelease st s
  | .vddKaLoss => Sys2Proof.Machine.execVddKaLoss s
  | .timeInRegress t => Sys2Proof.Machine.execTimeInRegress t s
  | .chainFrameReceived bytes damaged e => Sys2Proof.Machine.execChainFrameReceived bytes damaged e s
  | .chainTransmit => Sys2Proof.Machine.execChainTransmit s
  | .chainLinkDown up => Sys2Proof.Machine.execChainLinkDown up s
  | .enum f => Sys2Proof.Machine.execEnum f s
  | .beacon f => Sys2Proof.Machine.execBeacon f s
  | .trigger f => Sys2Proof.Machine.execTrigger f s
  | .notice f => Sys2Proof.Machine.execNotice f s
  | .join f => Sys2Proof.Machine.execJoin f s
  | .signal f e => Sys2Proof.Machine.execSignal f e s
  | .signalAck f => Sys2Proof.Machine.execSignalAck f s
  | .signalRefuse f => Sys2Proof.Machine.execSignalRefuse f s
  | .barArrive f => Sys2Proof.Machine.execBarArrive f s
  | .barWithdraw f => Sys2Proof.Machine.execBarWithdraw f s
  | .barAck f => Sys2Proof.Machine.execBarAck f s
  | .barRelease f e => Sys2Proof.Machine.execBarRelease f e s
  | .beaconTimer => Sys2Proof.Machine.execBeaconTimer s
  | .enumTimeout => Sys2Proof.Machine.execEnumTimeout s
  | .masterLoss => Sys2Proof.Machine.execMasterLoss s
  | .electionTimer => Sys2Proof.Machine.execElectionTimer s
  | .remoteSignalRetry dest seq => Sys2Proof.Machine.execRemoteSignalRetry dest seq s
  | .noticeRepeat => Sys2Proof.Machine.execNoticeRepeat s
  | .syncRemoteHoldExpiry obj => Sys2Proof.Machine.execSyncRemoteHoldExpiry obj s
  | .barrierTimeout ch sq cid => Sys2Proof.Machine.execBarrierTimeout ch sq cid s
  | .violationDecay p => Sys2Proof.Machine.execViolationDecay p s
  | .streamIssue idx e => Sys2Proof.Machine.execStreamIssue idx e s
  | .streamLanding idx e => Sys2Proof.Machine.execStreamLanding idx e s
  | .dependenceTimeout idx => Sys2Proof.Machine.execDependenceTimeout idx s
  | .sdxRingPoll ch p e => Sys2Proof.Machine.execSdxRingPoll ch p e s
  | .sdxFrameReceive ch p e => Sys2Proof.Machine.execSdxFrameReceive ch p e s
  | .sdxNack ch p e => Sys2Proof.Machine.execSdxNack ch p e s
  | .sdxCatchupReq ch p e => Sys2Proof.Machine.execSdxCatchupReq ch p e s
  | .nackLeadTimer ch e => Sys2Proof.Machine.execNackLeadTimer ch e s
  | .deltaDeadline ch e => Sys2Proof.Machine.execDeltaDeadline ch e s
  | .nvmeCompletion c cqe => Sys2Proof.Machine.execNvmeCompletion c cqe s
  | .nvmeCommandTimeout c cid => Sys2Proof.Machine.execNvmeCommandTimeout c cid s
  | .nvmeSmartPoll c log critical => Sys2Proof.Machine.execNvmeSmartPoll c log critical s
  | .journalCheckpoint store e => Sys2Proof.Machine.execJournalCheckpoint store e s
  | .gcCompact store zone e => Sys2Proof.Machine.execGcCompact store zone e s
  | .bitmapRowSweep st => Sys2Proof.Machine.execBitmapRowSweep st s
  | .sumpSpillEntry e => Sys2Proof.Machine.execSumpSpillEntry e s
  | .heartbeatTimeout => Sys2Proof.Machine.execHeartbeatTimeout s
  | .slabCopy => Sys2Proof.Machine.execSlabCopy s
  | .cc0Watchdog => Sys2Proof.Machine.execCc0Watchdog s
  | .periodicSlice o => Sys2Proof.Machine.execPeriodicSlice o s
  | .sliceYield => Sys2Proof.Machine.execSliceYield s
  | .sliceComplete o => Sys2Proof.Machine.execSliceComplete o s
  | .cellSelfCheckFail st cell => Sys2Proof.Machine.execCellSelfCheckFail st cell s
  | .controlCoreFailure core restartOk => Sys2Proof.Machine.execControlCoreFailure core restartOk s
  | .sramFault u spare => Sys2Proof.Machine.execSramFault u spare s
  | .vddKxRemoval => Sys2Proof.Machine.execVddKxRemoval s
  | .lampBackoffExpiry => Sys2Proof.Machine.execLampBackoffExpiry s
  | .jigWindowRegained vdd tj => Sys2Proof.Machine.execJigWindowRegained vdd tj s
  | .noticeToken => Sys2Proof.Machine.execNoticeToken s
  | .halfWordRead a addr => Sys2Proof.Machine.execHalfWordRead a addr s

end Sys2Proof.Machine
end

