-- ==== Sys2Proof/Safety.lean ====
section
/-! DEFINITION. What counts as a safe run, and the words the claims use: a command in hand, a command completed, an access granted. -/

namespace Sys2Proof.Machine

/-- A state a run may be in: the host memory in its canonical form. -/
abbrev State.Inv (s : State) : Prop := s.mem.wf = true

/-- The service runs, and the entry's command has been accepted, holds the clamps it asked for, has not begun, and finds the domains it works in
usable (R97, R104, R446). -/
def State.inHand (s : State) (x : Sub) : Bool :=
  s.serving && s.cmds.any (isCmd x) &&
    (s.cmds.filter (isCmd x)).all (fun c => c.sub == x && !c.twin && c.phase == 1 && c.units == 0 && c.granted && c.prog == 0 && c.acc == [] && c.res == [] && c.seen == 0) && (s.needDoms x).isEmpty

/-- What the end of a command leaves where its status word is: a short command has none; an external block has the word first and nothing
outside its 64 bytes changes; else the chamber's slot has it (R96, R97). -/
def StatusLeft (x : Sub) (st : BitVec 16) (units : Nat) (u t : State) : Prop :=
  let w := statusWord (termPhase st) st units
  if isLong x = false then t.chambers = u.chambers ∧ t.mem = u.mem
  else if extStatus x then
    t.chambers = u.chambers ∧ t.peek x.statusAddr.toNat 8 = leBytes 8 w.toNat ∧
      ∀ a, a < x.statusAddr.toNat ∨ x.statusAddr.toNat + 64 ≤ a → t.mem.bytes.get a = u.mem.bytes.get a
  else t.mem = u.mem ∧ ∃ v, v.word = w ∧ v.owner = some (x.sq, x.cid) ∧
    t.chambers = u.chambers.modify x.chamber fun c => { c with slots := c.slots.set (slotOf x) v }

/-- `t` is `u` after the entry's command ended with a status and a result: its completion waits for posting behind the others, the command is
gone and its clamps with it, its status word is written, no stream is bound to it, and nothing else but the dispatch journal changed. -/
def Completed (x : Sub) (st : BitVec 16) (r : BitVec 64) (units : Nat) (u t : State) : Prop :=
  t.fins = u.fins ++ [⟨x.chamber, x.sq, x.cid, st, r⟩] ∧
  t.cmds = u.cmds.filter (fun c => !isCmd x c) ∧
  t.clamps = u.clamps.filter (fun k => !(k.chamber == x.chamber && k.owner == some (x.sq, x.cid))) ∧
  StatusLeft x st units u t ∧
  (∀ p ∈ t.trk.run.entries, p.2.bound = some (x.sq, x.cid) → (u.trk.stm.get p.1).chamber ≠ x.chamber) ∧
  t = { u with
    fins := t.fins
    cmds := t.cmds
    clamps := t.clamps
    chambers := t.chambers
    mem := t.mem
    svc := { u.svc with journal := t.svc.journal }
    trk := { u.trk with run := t.trk.run } }

end Sys2Proof.Machine

namespace Sys2Proof
open Machine

/-- The submission entry that an opcode's row runs: the row's operands with the opcode, and where a row is one form of an opcode the field that
selects it, as Table 3 of chapter 05 has them; none for the rows that are no submission (a twin's entry is another form, Table 20). -/
def Instr.entry : Instr → Option Sub
  | .identify x _ => some { x with opcode := 0x01 }
  | .negotiate x _ => some { x with opcode := 0x02 }
  | .queueCreate x _ => some { x with opcode := 0x03 }
  | .queueDelete x _ => some { x with opcode := 0x04 }
  | .featureGet x _ => some { x with opcode := 0x06 }
  | .statusInterval x _ => some (featSub x 1)
  | .periodicSelfTest x _ => some (featSub x 2)
  | .sumpSpill x _ => some (featSub x 3)
  | .reserveWatermarks x _ => some (featSub x 4)
  | .partnerThreshold x _ => some (featSub x 5)
  | .powerPolicy x _ => some (featSub x 6)
  | .chainNoticeRate x _ => some (featSub x 7)
  | .logRead x _ => some { x with opcode := 0x07 }
  | .selfTest x _ _ => some { x with opcode := 0x08 }
  | .storeCreate x _ => some (createSub x)
  | .storeMount x _ => some (mountSub x)
  | .storeUnmount x _ => some (unmountSub x)
  | .storeDelete x _ => some (deleteSub x)
  | .chamberConfig x _ => some { x with opcode := 0x0B }
  | .keySlotLoad x _ => some (keyLoadSub x)
  | .keySlotZeroise x _ => some (keyZeroSub x)
  | .fwStage x _ _ => some { x with opcode := 0x0D }
  | .fwActivate x _ _ => some { x with opcode := 0x0E }
  | .lifecycleAdvance x _ _ => some { x with opcode := 0x0F }
  | .chainMasterEnumerate x _ => some (chainSub x 0)
  | .chainSetMember x _ => some (chainSub x 1)
  | .chainSetIsolated x _ => some (chainSub x 2)
  | .chainReenumerate x _ => some (chainSub x 3)
  | .chainStatus x _ => some (chainSub x 4)
  | .abort x _ => some { x with opcode := 0x11 }
  | .storageAttach x _ _ => some (attachSub x)
  | .storageDetach x _ => some (detachSub x)
  | .chamberQuiesce x _ => some { x with opcode := 0x13 }
  | .testOpcode x _ => some (testSub x)
  | .regionDeclare x _ => some { x with opcode := 0x20 }
  | .regionRetire x _ => some { x with opcode := 0x21 }
  | .capture x _ => some { x with opcode := 0x22 }
  | .drainHint x _ => some { x with opcode := 0x23 }
  | .captureCancel x _ => some { x with opcode := 0x24 }
  | .replicaSet x _ => some { x with opcode := 0x25 }
  | .triggerArm x _ => some (armSub x)
  | .triggerDisarm x _ => some (disarmSub x)
  | .condense x _ => some { x with opcode := 0x27 }
  | .restore x _ => some { x with opcode := 0x40 }
  | .restoreSlice x _ => some { x with opcode := 0x41 }
  | .verify x _ => some { x with opcode := 0x42 }
  | .manifestRead x _ => some { x with opcode := 0x43 }
  | .streamOpen x _ => some { x with opcode := 0x50 }
  | .streamClose x _ => some { x with opcode := 0x51 }
  | .streamSeek x _ => some { x with opcode := 0x52 }
  | .streamCancel x _ => some { x with opcode := 0x53 }
  | .dovetail x _ _ => some { x with opcode := 0x54 }
  | .programLoad x _ => some { x with opcode := 0x60 }
  | .stepBegin x _ => some { x with opcode := 0x61 }
  | .stepMeasure x _ => some { x with opcode := 0x62 }
  | .stepNorm x _ => some { x with opcode := 0x63 }
  | .stepApply x _ => some { x with opcode := 0x64 }
  | .stepAbort x _ => some { x with opcode := 0x65 }
  | .stepRollback x _ => some { x with opcode := 0x66 }
  | .tierPlace x _ => some { x with opcode := 0x67 }
  | .anchorSet x _ => some { x with opcode := 0x70 }
  | .deltaEmit x _ => some { x with opcode := 0x71 }
  | .deltaApply x _ => some { x with opcode := 0x72 }
  | .peerEnable x _ => some { x with opcode := 0x73, a := setBit x.a 0 true }
  | .peerDisable x _ => some { x with opcode := 0x73, a := setBit x.a 0 false }
  | .replicaDigest x _ => some { x with opcode := 0x74 }
  | .digest x _ => some { x with opcode := 0x80 }
  | .hmac x _ => some { x with opcode := 0x81 }
  | .seal x _ => some { x with opcode := 0x82 }
  | .unseal x _ => some { x with opcode := 0x83 }
  | .extend x _ => some { x with opcode := 0x84 }
  | .syncAlloc x _ => some { x with opcode := 0xA0 }
  | .syncFree x _ => some { x with opcode := 0xA1 }
  | .syncSignal x _ => some { x with opcode := 0xA2 }
  | .watchSet x _ => some { x with opcode := 0xA3 }
  | .watchClear x _ => some { x with opcode := 0xA4 }
  | .barrierJoin x _ => some { x with opcode := 0xA5 }
  | .k2Credit _ _ => none
  | .twinEntry _ _ => none
  | .sqTailDoorbell _ _ _ _ => none
  | .cqHeadDoorbell _ _ _ _ => none
  | .sqEntryFetch _ => none
  | .commandDispatch _ _ => none
  | .clampGrant => none
  | .completionPost _ => none
  | .statusWordUpdate _ _ _ _ => none
  | .adminQueueEnable _ _ _ => none
  | .adminSqDisable _ _ => none
  | .adminCqDisable _ _ => none
  | .ilvApply _ => none
  | .fwLoad _ _ => none
  | .syncLinkWrite _ _ _ => none
  | .syncHandSet _ _ _ _ => none
  | .signalApertureWrite _ _ _ _ _ => none
  | .stagingRead _ _ _ => none
  | .stagingWrite _ _ _ => none
  | .stagingReadTimeout _ => none
  | .readClearAccess _ _ => none
  | .rsvWmRead _ _ => none
  | .halfWordWrite _ _ _ _ _ => none
  | .registerWrite _ _ _ _ _ _ => none
  | .dgtContextClaim _ _ _ => none
  | .dgtContextRelease _ _ _ => none
  | .dgtContextAbort _ _ _ => none
  | .dgtContextRestore _ _ _ => none
  | .dgtData _ _ _ _ => none
  | .dgtLast _ _ _ _ _ => none
  | .dgtFinish _ _ _ => none
  | .dgtMessageDone _ => none
  | .dgtStateRead _ _ => none
  | .hslotLoad _ _ _ => none
  | .hslotClear _ _ => none
  | .pwrWake _ => none
  | .pwrOffReq _ => none
  | .lampLower _ _ => none
  | .coreHalt _ _ => none
  | .coreResume _ _ => none
  | .sumpClear _ => none
  | .spillConsume _ _ => none
  | .sdxKick _ _ _ => none
  | .lampUnlockRequest _ => none
  | .lampUnlockResponse _ _ => none
  | .scanEnter => none
  | .jigManualSession _ => none
  | .jigManualSlice _ _ => none
  | .tapInstruction _ => none
  | .hreqRequest _ _ => none
  | .copyComplete _ => none
  | .stallRelease _ _ => none
  | .heldWriteLimit _ => none
  | .mrspResponse _ _ => none
  | .fabReadData _ _ _ _ _ => none
  | .fabWriteAck _ _ _ => none
  | .tagTimeout _ => none
  | .captureStart _ => none
  | .freezeAck => none
  | .freezeAckFall => none
  | .freezeTimeout => none
  | .cellTakeUnit _ _ _ => none
  | .directoryLookupAnswer _ _ _ => none
  | .cipherAssign _ => none
  | .cipherCoreFail _ => none
  | .blockWriteComplete _ _ => none
  | .blockWriteFailed _ _ => none
  | .sealWaitTimeout => none
  | .captureCommit _ => none
  | .moverLoss _ => none
  | .eventPulse _ => none
  | .eventLevel _ _ => none
  | .levelRuleTimer => none
  | .keyLoadWord _ _ _ _ => none
  | .keyCommit _ => none
  | .keyZeroise _ => none
  | .keyLoadingTimeout _ => none
  | .entropyWord _ _ => none
  | .drbgReseedDue => none
  | .drbgReseedTimeout => none
  | .wakeBudgetChange _ => none
  | .supplyWarn _ => none
  | .wakeStart => none
  | .domainWakeComplete _ _ => none
  | .idleTimer _ => none
  | .passEntry _ => none
  | .kxRailDetect _ => none
  | .coldResetAssert => none
  | .coldReset _ _ => none
  | .warmResetAssert => none
  | .warmReset _ => none
  | .stileReset _ => none
  | .stileResetRelease _ => none
  | .vddKaLoss => none
  | .timeInRegress _ => none
  | .chainFrameReceived _ _ _ => none
  | .chainTransmit => none
  | .chainLinkDown _ => none
  | .enum _ => none
  | .beacon _ => none
  | .trigger _ => none
  | .notice _ => none
  | .join _ => none
  | .signal _ _ => none
  | .signalAck _ => none
  | .signalRefuse _ => none
  | .barArrive _ => none
  | .barWithdraw _ => none
  | .barAck _ => none
  | .barRelease _ _ => none
  | .beaconTimer => none
  | .enumTimeout => none
  | .masterLoss => none
  | .electionTimer => none
  | .remoteSignalRetry _ _ => none
  | .noticeRepeat => none
  | .syncRemoteHoldExpiry _ => none
  | .barrierTimeout _ _ _ => none
  | .violationDecay _ => none
  | .streamIssue _ _ => none
  | .streamLanding _ _ => none
  | .dependenceTimeout _ => none
  | .sdxRingPoll _ _ _ => none
  | .sdxFrameReceive _ _ _ => none
  | .sdxNack _ _ _ => none
  | .sdxCatchupReq _ _ _ => none
  | .nackLeadTimer _ _ => none
  | .deltaDeadline _ _ => none
  | .nvmeCompletion _ _ => none
  | .nvmeCommandTimeout _ _ => none
  | .nvmeSmartPoll _ _ _ => none
  | .journalCheckpoint _ _ => none
  | .gcCompact _ _ _ => none
  | .bitmapRowSweep _ => none
  | .sumpSpillEntry _ => none
  | .heartbeatTimeout => none
  | .slabCopy => none
  | .cc0Watchdog => none
  | .periodicSlice _ => none
  | .sliceYield => none
  | .sliceComplete _ => none
  | .cellSelfCheckFail _ _ => none
  | .controlCoreFailure _ _ => none
  | .sramFault _ _ => none
  | .vddKxRemoval => none
  | .lampBackoffExpiry => none
  | .jigWindowRegained _ _ => none
  | .noticeToken => none
  | .halfWordRead _ _ => none

end Sys2Proof

namespace Sys2Proof.Machine

/-- The row's entry is in hand. -/
abbrev State.holdsCmd (s : State) (c : Instr) (x : Sub) : Prop := c.entry = some x ∧ s.inHand x = true

/-- The command goes to a next state in which its entry has ended with a status and a result after the effect `u`. -/
def Ends (c : Instr) (s : State) (x : Sub) (st : BitVec 16) (r : BitVec 64) (units : Nat) (u : State) : Prop :=
  ∃ t, exec c s = .next t ∧ Completed x st r units u t

/-- An increment of object `i` overruns nothing and reaches no watch's threshold: the object is allocated, in no link, does not saturate, and every
watch on it that has not fired asks for more (R327, R330, R337). -/
def State.plainSignal (s : State) (i incr : Nat) : Bool :=
  let o := s.sync.objs.get i
  o.alloc && !o.link && !o.tenon && decide (o.value.toNat + incr < 2 ^ 64) &&
    s.sync.watches.entries.all fun p => !(p.2.used && !p.2.fired && p.2.object == i && decide (p.2.level.toNat ≤ o.value.toNat + incr))

/-- A write reaches its register: no cold reset is held and no half of a 64-bit register waits on the access's lane (R55, R512). -/
def State.laneFree (s : State) (a : Access) : Bool := s.boot.resetHeld != 2 && (s.lanes.get a.lane).held.isNone

/-- The block answers the access with ERR 0 and zero data after the effect `u` (R55). -/
def Answered (a : Access) (u t : State) : Prop := t = u.answer a 0 0

/-- A received frame that the unit acts on: the link is up, no cold reset is asserted, the unit is READY and not ISOLATED, the frame is well formed,
addressed to the unit or to all, of a type the unit consumes, from another unit, not at its last hop, and from neither a quarantined unit nor one a
master did not enumerate (R411, R413, R419, R425). -/
def State.heeds (s : State) (f : DclFrame) : Bool :=
  s.listening && s.boot.stage == .ready && s.chain.role != 2 && decide (s.chain.address ≤ 247) && f.source.toNat != s.chain.address &&
    f.hops.toNat != 254 && !s.malformedFrame f && !bit s.chain.quar f.source.toNat && (f.type == 5 || !s.isMaster || decide (f.source.toNat ≤ s.chain.units)) &&
    s.consumes f.type.toNat && (f.dest == 255 || s.chain.address != 0 && f.dest.toNat == s.chain.address)

/-- After a frame was acted on: a broadcast goes on to the next unit, one hop further (R411). -/
def State.passOn (s : State) (f : DclFrame) : State := if f.dest = 255 then s.forwardFrame f else s

/-- A twin's native entry is in hand: as `State.inHand`, for a twin (R138). -/
def State.twinInHand (s : State) (t : Twin) : Bool :=
  let x := s.nativeSub t
  s.serving && s.cmds.any (isCmd x) &&
    (s.cmds.filter (isCmd x)).all (fun c => c.sub == x && c.twin && c.phase == 1 && c.units == 0 && c.granted && c.prog == 0 && c.acc == [] && c.res == [] && c.seen == 0) && (s.needDoms x).isEmpty

/-- A write of its own chamber's page that has its effect: the lane is free and the block is READY (R55, R74). -/
def State.pageOpen (s : State) (a : Access) (ch : Nat) : Bool := s.laneFree a && s.boot.stage == .ready && privCh a == ch

/-- The running capture `r` of command `x` has ended with a status: no capture runs and no block is under way, the chamber's register shows none,
and the command's completion waits for posting (R175, R522). -/
def CaptureEnded (r : CapRun) (x : Sub) (st : BitVec 16) (s t : State) : Prop :=
  t.cap.run = none ∧ t.cap.blocks = [] ∧ (t.un r.chamber).cap.phase = 0 ∧ t.cmds = s.cmds.filter (fun c => !isCmd x c) ∧
  t.fins = s.fins ++ [⟨x.chamber, x.sq, x.cid, st, r.id⟩]

/-- The running capture is of command `x`, which is accepted and no twin. -/
def State.capturing (s : State) (r : CapRun) (x : Sub) : Prop :=
  s.cap.run = some r ∧ r.cmd = some x ∧ ∃ c, s.cmd? x = some c ∧ c.twin = false

/-- A digest context has absorbed the message `m` so far: its chaining value is that of the whole blocks, its buffer what is behind them, and no
write is held (R385, R386). -/
def DgtCtx.absorbed (t : DgtCtx) (m : List Byte) : Prop :=
  t.mHmac = false ∧ t.count = m.length ∧ t.queued = [] ∧
    t.chain = shaBlocks t.mAlg (m.length / shaBlock t.mAlg) (shaInit t.mAlg) m ∧ t.buf = m.drop (m.length / shaBlock t.mAlg * shaBlock t.mAlg)

/-- A digest window takes the chamber's access: no reset is asserted, the lane is free, DGST is up (R396, R515). -/
def State.windowOpen (s : State) (a : Access) : Bool := s.boot.resetHeld == 0 && (s.lanes.get a.lane).held.isNone && s.dom 103

/-- The key port takes operations: no cold reset is asserted and the port does not refuse (R60). -/
def State.keyPortOpen (s : State) : Bool := s.boot.resetHeld != 2 && !s.portRefuses

/-- A chamber's site exchange is still: no DELTA_APPLY runs, no catch-up waits to be served, no frame is parked. -/
def State.siteStill (s : State) (ch : Nat) : Bool :=
  let u := s.site ch
  u.run.isNone && u.serveQ == [] && u.peers.entries.all fun p => p.2.parkedAt == []

/-- Peer `p` of a chamber may be read: the block serves outside PASS, the chamber exchanges deltas, the peer is enabled, not quarantined, and has no
frame parked (R364, R365). -/
def State.peerUp (s : State) (ch p : Nat) : Bool :=
  let t := (s.site ch).peers.get p
  s.serving && s.pwr.state != .pass && (s.ch ch).siteMode != 0 && t.used && t.enabled && !t.quar && t.parkedAt == []

/-- The next frame of a peer's ring, in an anchored chamber, lies whole below its producer count and its header is in order (R362, R365). -/
def State.nextFrame (s : State) (ch p : Nat) (f : SdxFrame) : Prop :=
  let t := (s.site ch).peers.get p
  (s.site ch).anchored = true ∧ t.rxNext + max (sdxPages f.n) 1 ≤ t.rxProd ∧ s.sdxAt t t.rxNext = (f, s.peek (ringAt t.rxBase t.pages t.rxNext) 64, true, false) ∧
    s.sdxHeadOk ch t f (s.peek (ringAt t.rxBase t.pages t.rxNext) 64) = true

/-- The rows that act on registers, keys, contexts, wakes, the lamp, the self-test, timers or counters and on nothing that commands work with. -/
def quietRow : Instr → Bool
  | .readClearAccess _ _ | .halfWordRead _ _ | .rsvWmRead _ _ | .dgtStateRead _ _ | .dgtContextClaim _ _ _ | .dgtContextRelease _ _ _
  | .dgtContextAbort _ _ _ | .dgtContextRestore _ _ _ | .dgtData _ _ _ _ | .dgtLast _ _ _ _ _ | .dgtFinish _ _ _ | .dgtMessageDone _
  | .hslotLoad _ _ _ | .hslotClear _ _ | .keyLoadWord _ _ _ _ | .keyLoadingTimeout _ | .entropyWord _ _ | .drbgReseedDue | .drbgReseedTimeout
  | .ilvApply _ | .coreHalt _ _ | .coreResume _ _ | .sumpClear _ | .spillConsume _ _ | .wakeBudgetChange _ | .supplyWarn _ | .wakeStart
  | .timeInRegress _ | .lampBackoffExpiry | .scanEnter | .jigManualSession _ | .jigManualSlice _ _ | .jigWindowRegained _ _ | .periodicSlice _
  | .sliceYield | .beaconTimer | .noticeRepeat | .noticeToken | .chainTransmit | .violationDecay _ | .bitmapRowSweep _ | .stileResetRelease _
  | .slabCopy | .cc0Watchdog | .nvmeSmartPoll _ _ _ | .cellSelfCheckFail _ _ => true
  | _ => false

end Sys2Proof.Machine
end

