-- ==== Sys2Proof/Certificates/Slice0/Obligations.lean ====
section
/-! DEFINITION. The statements for the provers, from the spec's rules. Each docstring names the rules it rests on; what OBLIGATIONS.json calls stated
says its rule whole. -/

open Sys2Proof Sys2Proof.Machine

/-- IDENTIFY (R126, Table 8 of chapter 05): 4,096 bytes of the block's data, of an attached controller's identify data or of a mounted store's
data go to the buffer, and nothing else of memory changes; a chamber's data is 4,096 bytes whose places the spec does not give
(assumption log 17), so only its length is stated.

LOG_READ (Table 5 of chapter 05): the log's bytes from the page offset, at most the length asked for, go to the buffer; the result is how
many.

NEGOTIATE (R83, R112): with nothing outstanding in the chamber the highest version offered is taken, 3.2 before 3.1 before 3.0 before the
Krytra 2 veneer.
Rests also on readings and choices of the model: assumption log entries 17, 31. -/
def Obligations.IdentityLogsAndVersions : Prop :=
  (∀ (s : State) (x0 x : Sub) (e : Ext), s.holdsCmd (.identify x0 e) x → e.writeErr = false →
     (fld x.a 7 0 = 0 → Ends (.identify x0 e) s x sOk 4096 0 (s.poke x.b.toNat (padTo 4096 s.identBlock))) ∧
     (fld x.a 7 0 = 1 → ∃ u, Ends (.identify x0 e) s x sOk 4096 0 u ∧ u = { s with mem := u.mem, free := u.free } ∧
       ∀ k, k < x.b.toNat ∨ x.b.toNat + 4096 ≤ k → u.mem.bytes.get k = s.mem.bytes.get k) ∧
     (fld x.a 7 0 = 2 → (s.sto.ctrls.get (fld x.a 21 16)).attached = true →
       Ends (.identify x0 e) s x sOk 4096 0 (s.poke x.b.toNat (padTo 4096 (s.sto.ctrls.get (fld x.a 21 16)).identify))) ∧
     (∀ m, fld x.a 7 0 = 3 → s.mounted (fld x.a 21 16) = some m →
       Ends (.identify x0 e) s x sOk 4096 0 (s.poke x.b.toNat (padTo 4096 (s.identStore m))))) ∧
  (∀ (s : State) (x0 x : Sub) (e : Ext) (l : List Byte), s.holdsCmd (.logRead x0 e) x → e.writeErr = false →
     (fld x.a 7 0 = 2 ∨ fld x.a 7 0 = 3 → (s.sto.ctrls.get (fld x.a 21 16)).attached = true) →
     s.logBytes x.chamber (fld x.a 7 0) (fld x.a 21 16) = some l →
     let out := (l.drop (fld x.c 63 32 * 4096)).take (fld x.c 31 0)
     Ends (.logRead x0 e) s x sOk (BitVec.ofNat 64 out.length) 0 (s.poke x.b.toNat out)) ∧
  (∀ (s : State) (x0 x : Sub) (e : Ext), s.holdsCmd (.negotiate x0 e) x → s.chamberBusy x = false →
     let got (major minor : Nat) (veneer : Bool) (r : BitVec 64) : Prop := Ends (.negotiate x0 e) s x sOk r 0
       (s.onCh x.chamber fun c => { c with negotiated := true, major := major, minor := minor, veneer := veneer })
     (bit x.a 3 = true → got 3 2 false 0x302) ∧
     (bit x.a 3 = false → bit x.a 2 = true → got 3 1 false 0x301) ∧
     (bit x.a 3 = false → bit x.a 2 = false → bit x.a 1 = true → got 3 0 false 0x300) ∧
     (bit x.a 3 = false → bit x.a 2 = false → bit x.a 1 = false → bit x.a 0 = true → got 2 0 true 0x10200))

/-- QUEUE_CREATE and QUEUE_DELETE (R90, R91, R115): a free CQ, or a free SQ bound to an enabled CQ, is set up empty and enabled; a CQ no enabled SQ
is bound to is taken away.

The admin pair (R90, R91, R521): a CQ0 or an SQ0 with its size set is enabled empty; an SQ0 with nothing outstanding and a CQ0 no enabled SQ is
bound to are disabled.
Rests also on readings and choices of the model: assumption log entries 22, 24, 32. -/
def Obligations.QueuesComeAndGo : Prop :=
  (∀ (s : State) (x0 x : Sub) (e : Ext),
     (s.holdsCmd (.queueCreate x0 e) x → bit x.a 0 = true → ((s.ch x.chamber).cqs.get (fld x.a 11 8)).enable = false →
       Ends (.queueCreate x0 e) s x sOk 0 0 (s.onCq x.chamber (fld x.a 11 8) fun _ =>
         { Cq.zero with enable := true, irqEn := bit x.a 48, base := x.b, sizeM1 := fld x.a 27 16 })) ∧
     (s.holdsCmd (.queueCreate x0 e) x → bit x.a 0 = false → ((s.ch x.chamber).sqs.get (fld x.a 11 8)).enable = false →
       ((s.ch x.chamber).cqs.get (fld x.a 35 32)).enable = true →
       Ends (.queueCreate x0 e) s x sOk 0 0 ((s.onSq x.chamber (fld x.a 11 8) fun _ =>
         { Sq.zero with enable := true, base := x.b, weight := fld x.a 43 40, cq := fld x.a 35 32, sizeM1 := fld x.a 27 16 }).onCh x.chamber
           fun c => { c with quiesced := false })) ∧
     (s.holdsCmd (.queueDelete x0 e) x → bit x.a 0 = true →
       (∀ i, i < 16 → ((s.ch x.chamber).sqs.get i).enable = true → ((s.ch x.chamber).sqs.get i).cq ≠ fld x.a 11 8) →
       Ends (.queueDelete x0 e) s x sOk 0 0 (s.onCq x.chamber (fld x.a 11 8) fun _ => Cq.zero)) ∧
     (s.holdsCmd (.queueDelete x0 e) x → bit x.a 0 = false → ((s.ch x.chamber).sqs.get (fld x.a 11 8)).enable = true →
       (∀ f ∈ (s.ch x.chamber).fetched, f.sub.sq ≠ fld x.a 11 8) →
       (∀ c ∈ s.cmds, c.sub.chamber = x.chamber → c.sub.sq ≠ fld x.a 11 8) →
       (∀ c ∈ s.fins, c.chamber = x.chamber → c.sq ≠ fld x.a 11 8) →
       ∃ u, Ends (.queueDelete x0 e) s x sOk 0 0 u ∧ ((u.ch x.chamber).sqs.get (fld x.a 11 8)) = Sq.zero ∧
         u = { s with chambers := u.chambers, cmds := u.cmds })) ∧
  (∀ (s : State) (a : Access) (ch : Nat), s.pageOpen a ch = true →
     let c := s.ch ch
     ((c.cqs.get 0).enable = false → (c.cqs.get 0).sizeM1 ≠ 0 →
       exec (.adminQueueEnable a ch true) s = .next ((s.onCh ch fun c => { c with
         setupError := false
         cqs := c.cqs.modify 0 fun k => { k with enable := true, head := 0, tail := 0, phase := true, posted := [], viol := 0, quar := false } }).answer a 0 0)) ∧
     ((c.sqs.get 0).enable = false → (c.sqs.get 0).sizeM1 ≠ 0 → (c.cqs.get (c.sqs.get 0).cq).enable = true →
       exec (.adminQueueEnable a ch false) s = .next ((s.onCh ch fun c => { c with
         setupError := false
         quiesced := false
         sqs := c.sqs.modify 0 fun q => { q with enable := true, head := 0, tail := 0, closing := false, viol := 0, quar := false } }).answer a 0 0)) ∧
     ((c.sqs.get 0).enable = true → (∀ d ∈ s.cmds, d.sub.chamber = ch → d.sub.sq ≠ 0) → (∀ d ∈ s.fins, d.chamber = ch → d.sq ≠ 0) →
       (∀ f ∈ c.fetched, f.sub.sq ≠ 0) →
       ∃ t, exec (.adminSqDisable a ch) s = .next t ∧ (t.ch ch).sqs.get 0 = { c.sqs.get 0 with enable := false, closing := false } ∧
         (∀ i, i ≠ 0 → (t.ch ch).sqs.get i = c.sqs.get i) ∧ t.cmds = s.cmds ∧ t.fins = s.fins ∧ t.mem = s.mem) ∧
     ((∀ i, i < 16 → (c.sqs.get i).cq = 0 → (c.sqs.get i).enable = false) → (∀ f ∈ s.fins, f.chamber ≠ ch) →
       ∃ t, exec (.adminCqDisable a ch) s = .next t ∧ ((t.ch ch).cqs.get 0).enable = false ∧ ((t.ch ch).cqs.get 0).posted = [] ∧
         ((t.ch ch).cqs.get 0).base = (c.cqs.get 0).base ∧ (∀ i, i ≠ 0 → (t.ch ch).cqs.get i = c.cqs.get i) ∧ t.fins = s.fins ∧ t.cmds = s.cmds))

/-- FEATURE_GET (R124, Table 4 of chapter 05): the result is the feature's present value, laid out as FEATURE_SET's B; nothing changes.

FEATURE_SET of a chamber's own features (R124, R156, Table 4 of chapter 05): STATUS_INTERVAL takes 10 to 50 microseconds, RESERVE_WATERMARKS a
warning level below a stall level of at most 100 percent; only the entry's chamber changes.

FEATURE_SET of the block-wide features, from chamber 0 (R424, R476, R483, R504, Table 4 of chapter 05): each setting takes the values of B in
its range; a spill ring of length 0 turns spilling off, another is 4 KiB aligned, at most 16 MiB long, and clear of what the block holds and of
the park area. Nothing else changes.

FEATURE_SET POWER_POLICY (R469, R471): the target and the idle time take B's values; in PASS a target above PASS begins the wake, else the
block moves as the new policy says.
Rests also on readings and choices of the model: assumption log entry 60. -/
def Obligations.FeaturesAreReadAndSet : Prop :=
  (∀ (s : State) (x0 x : Sub) (e : Ext), s.holdsCmd (.featureGet x0 e) x →
     let reads (id v : Nat) : Prop := fld x.a 15 0 = id → Ends (.featureGet x0 e) s x sOk (BitVec.ofNat 64 v) 0 s
     reads 1 (s.ch x.chamber).interval ∧
     reads 2 (b2n s.feat.selfTest + s.feat.period * 2 ^ 8) ∧
     reads 3 s.sump.spillBase ∧
     reads 4 ((s.ch x.chamber).rsvWarn + (s.ch x.chamber).rsvStall * 2 ^ 8) ∧
     reads 5 (s.feat.thNvme + s.feat.thSdx * 2 ^ 8 + s.feat.thChain * 2 ^ 16) ∧
     reads 6 ((match s.pwr.target with | .run => 0 | .lean => 1 | _ => 2) + s.pwr.idleMs.toNat * 2 ^ 16) ∧
     reads 7 s.feat.noticeRate) ∧
  (∀ (s : State) (x0 x : Sub) (e : Ext),
     (s.holdsCmd (.statusInterval x0 e) x → 10 ≤ fld x.b 15 0 → fld x.b 15 0 ≤ 50 →
       Ends (.statusInterval x0 e) s x sOk 0 0 (s.onCh x.chamber fun c => { c with interval := fld x.b 15 0 })) ∧
     (s.holdsCmd (.reserveWatermarks x0 e) x → fld x.b 7 0 < fld x.b 15 8 → fld x.b 15 8 ≤ 100 →
       Ends (.reserveWatermarks x0 e) s x sOk 0 0 (s.onCh x.chamber fun c => { c with rsvWarn := fld x.b 7 0, rsvStall := fld x.b 15 8 }))) ∧
  (∀ (s : State) (x0 x : Sub) (e : Ext), x.chamber = 0 →
     (s.holdsCmd (.periodicSelfTest x0 e) x → fld x.b 15 8 ≠ 0 →
       Ends (.periodicSelfTest x0 e) s x sOk 0 0 { s with feat := { s.feat with selfTest := bit x.b 0, period := fld x.b 15 8 } }) ∧
     (s.holdsCmd (.sumpSpill x0 e) x → fld x.c 24 0 = 0 →
       Ends (.sumpSpill x0 e) s x sOk 0 0 { s with sump := { s.sump with spillBase := 0, spillSize := 0, spillFault := false } }) ∧
     (s.holdsCmd (.sumpSpill x0 e) x → fld x.c 24 0 ≠ 0 → fld x.c 24 0 % 4096 = 0 → fld x.c 24 0 ≤ 2 ^ 24 → x.b.toNat % 4096 = 0 →
       s.clearOf x.b.toNat (fld x.c 24 0) false = true → s.inPark x.b.toNat (fld x.c 24 0) = false →
       Ends (.sumpSpill x0 e) s x sOk 0 0 { s with sump := { s.sump with
         spillBase := x.b.toNat, spillSize := fld x.c 24 0, spillFault := false } }) ∧
     (s.holdsCmd (.partnerThreshold x0 e) x → fld x.b 7 0 ≠ 0 → fld x.b 15 8 ≠ 0 → fld x.b 23 16 ≠ 0 →
       Ends (.partnerThreshold x0 e) s x sOk 0 0 { s with feat := { s.feat with
         thNvme := fld x.b 7 0, thSdx := fld x.b 15 8, thChain := fld x.b 23 16 } }) ∧
     (s.holdsCmd (.chainNoticeRate x0 e) x → 1 ≤ fld x.b 15 0 → fld x.b 15 0 ≤ 1000 →
       Ends (.chainNoticeRate x0 e) s x sOk 0 0 { s with feat := { s.feat with noticeRate := fld x.b 15 0 } })) ∧
  (∀ (s : State) (x0 x : Sub) (e : Ext), s.holdsCmd (.powerPolicy x0 e) x → x.chamber = 0 → fld x.b 1 0 < 3 →
     let target : Power := if fld x.b 1 0 = 0 then .run else if fld x.b 1 0 = 1 then .lean else .pass
     let u := { s with pwr := { s.pwr with target := target, idleMs := BitVec.ofNat 16 (fld x.b 31 16) } }
     Ends (.powerPolicy x0 e) s x sOk 0 0 (if s.pwr.state = .pass ∧ target ≠ .pass then u.beginWake else u.policyMoves))

/-- CHAMBER_CONFIG (R125, R126, R428): an entry that passes every check of its fields and windows gives the target chamber its mode, quotas,
windows, reserve and credits and makes it configured, and touches no other chamber; `sb` and `yb` are where the chamber's stream and
sync ranges go (assumption log 15). The target has no work, no open stream and no sync object here.

CHAMBER_QUIESCE (R114, R346): a target other than the entry's chamber, with nothing outstanding and no sync state left over, has all its queues
disabled and is quiesced; the result is 0 commands ended.

ABORT (R114, R115): an entry that waits for dispatch is stopped, result 0: its completion ABORTED_BY_HOST waits for posting, and it no longer
waits. Of a finished command whose completion is not consumed the result is 1, of one the chamber does not have it is 2; neither changes
anything. A chamber other than 0 may name only its own commands.
Rests also on readings and choices of the model: assumption log entries 30, 33. -/
def Obligations.ChambersAreConfiguredAndQuieted : Prop :=
  (∀ (s : State) (x0 x : Sub) (e : Ext) (ws : List Win) (sb yb : Nat), s.holdsCmd (.chamberConfig x0 e) x →
     let t := x.handle.toNat
     let c := s.ch t
     let n := fld x.f 3 0
     let addr := fld x.f 51 7 * 128
     let rb := fld x.d 51 16
     let rs := fld x.e 35 0
     let rest := s.chambers.entries.filter fun p => p.1 != t
     n ≤ 8 → (n ≠ 0 → e.readErr = false ∧ s.mem.badBeats addr (16 * n) = []) →
     (List.range n).map (winOf (s.peek addr (16 * n))) = ws.map some → s.winFault t (ws.map some) = none →
     s.modeFault t { c with mode := x.a } = none →
     quotaOk (s.regionsOf t).length 65536 (s.others t (·.quotaRegion)) (fld x.b 16 0) = true →
     quotaOk 0 16384 (s.others t (·.quotaSync)) (fld x.b 46 32) = true →
     quotaOk (s.sync.watches.entries.filter fun p => p.2.used && p.2.chamber == t).length 4096 (s.others t (·.quotaWatch)) (fld x.b 60 48) = true →
     quotaOk 0 262144 (s.others t (·.quotaStream)) (fld x.c 18 0) = true →
     fld x.c 44 32 ≠ 0 → quotaOk (s.clamps.filter fun k => k.chamber == t).length 4096 (s.others t (·.quotaClamp)) (fld x.c 44 32) = true →
     fld x.c 63 48 ≤ 64 →
     (rs ≠ 0 → coverFrom ws 9 rb (rb + rs) = true ∧ s.meetsRegion rb (rb + rs) = false) →
     8 * rs ≤ (ws.map fun w => w.limit - w.base).sum → (s.holds t).all (fun r => coverFrom ws 9 r.1 r.2) = true →
     s.inWork t = false → s.creditOpen t = false →
     (∀ p ∈ s.trk.stm.entries, p.2.isOpen = true → p.2.chamber ≠ t) → (∀ p ∈ s.sync.objs.entries, p.2.alloc = true → p.2.chamber ≠ t) →
     (if fld x.c 18 0 = c.quotaStream then some (s.un t).stmBase else placeRange (rest.map fun p => ((s.un p.1).stmBase, p.2.quotaStream)) 262144
       (fld x.c 18 0) (s.un t).stmBase) = some sb →
     (if fld x.b 46 32 = c.quotaSync then some (s.un t).syncBase else placeRange (rest.map fun p => ((s.un p.1).syncBase, p.2.quotaSync)) 16384
       (fld x.b 46 32) (s.un t).syncBase) = some yb →
     ∃ u, Ends (.chamberConfig x0 e) s x sOk 0 0 u ∧
       u.ch t = { c with
         configured := true
         mode := x.a
         credits := fld x.c 63 48
         rsvBase := rb
         rsvSize := rs
         quotaSync := fld x.b 46 32
         quotaWatch := fld x.b 60 48
         quotaClamp := fld x.c 44 32
         quotaRegion := fld x.b 16 0
         quotaStream := fld x.c 18 0
         wins := (List.range n).foldl (fun m w => m.set w (ws.getD w .zero)) (.const .zero) } ∧
       (u.un t).stmBase = sb ∧ (u.un t).syncBase = yb ∧ (∀ m, m ≠ t → u.ch m = s.ch m) ∧ u.mem = s.mem ∧ u.regions = s.regions ∧ u.keys = s.keys) ∧
  (∀ (s : State) (x0 x : Sub) (e : Ext), s.holdsCmd (.chamberQuiesce x0 e) x →
     let t := x.handle.toNat
     t ≠ x.chamber → (s.ch t).fetched = [] → (∀ c ∈ s.cmds, c.sub.chamber ≠ t) → (∀ c ∈ s.fins, c.chamber ≠ t) → s.leftovers t = [] →
     ∃ u, Ends (.chamberQuiesce x0 e) s x sOk 0 0 u ∧ (u.ch t).quiesced = true ∧ (u.ch t).quiescing = false ∧
       (∀ q, q < 16 → ((u.ch t).sqs.get q).enable = false ∧ ((u.ch t).cqs.get q).enable = false) ∧
       (∀ m, m ≠ t → u.ch m = s.ch m) ∧ u = { s with chambers := u.chambers, cmds := u.cmds }) ∧
  (∀ (s : State) (x0 x : Sub) (e : Ext), s.holdsCmd (.abort x0 e) x → (x.chamber = 0 ∨ fld x.a 4 0 = x.chamber) →
     let ch := fld x.a 4 0
     let q := fld x.a 11 8
     let id := BitVec.ofNat 16 (fld x.a 31 16)
     let finished := (s.fins.any fun f => f.chamber == ch && f.sq == q && f.cid == id) ||
       ((List.range 16).any fun k => ((s.ch ch).cqs.get k).posted.contains (q, id))
     ((∀ f ∈ (s.ch ch).fetched, f.sub.sq = q → f.sub.cid = id → f.dead = true) → s.cmdAt ch q id = none →
       Ends (.abort x0 e) s x sOk (if finished then 1 else 2) 0 s) ∧
     (∀ f, (s.ch ch).fetched = [f] → f.sub.chamber = ch → f.sub.sq = q → f.sub.cid = id → f.dead = false → f.done = true → f.raw.length = 64 →
       ∃ u, Ends (.abort x0 e) s x sOk 0 0 u ∧ (u.ch ch).fetched = [] ∧ u.fins = s.fins ++ [⟨ch, q, id, sAborted, 0⟩] ∧
         u = { s with chambers := u.chambers, fins := u.fins, mem := u.mem }))

/-- STORE_CREATE (R210, R234): an accepted list of namespaces becomes one empty store of the chosen major and stripe, mounted under the handle; the
result is its capacity in sectors.

STORE_CREATE with A[24] = 1 (R213, R230, R234): a list that holds exactly the namespaces of one whole store mounts it under the handle, its
namespaces in the store's own order; the result is its capacity.

STORE_DELETE (R234): with A[0] = 0 a mounted store no chamber names writes a checkpoint and leaves its handle; with A[0] = 1 it is made blank and
leaves its handle, and the result is its extents.

STORAGE_ATTACH (R84): a ready controller with a usable namespace is attached with the queue pairs and depth of C, and the result is the count of
its usable namespaces; with A[8] set a controller no mounted store uses is detached.
Rests also on readings and choices of the model: assumption log entry 36. -/
def Obligations.StoresAreFormattedAndMounted : Prop :=
  (∀ (s : State) (x0 x : Sub) (e : Ext), s.holdsCmd (.storeCreate x0 e) x → s.storeRefuse x e = none → storeFault e = none →
     let l := s.nsList x.b.toNat (fld x.a 6 0)
     let infos := l.filterMap s.nsInfo
     let unit := 2 ^ fld x.a 23 16
     let per := infos.foldl (fun m i => min m i.size) ((infos.headD ⟨0, false, 0, []⟩).size) / unit * unit
     4 ≤ l.length * per / 2 ^ 18 →
     ∃ u m, Ends (.storeCreate x0 e) s x sOk (BitVec.ofNat 64 m.capacity) (l.length * per / 2 ^ 18) u ∧ u.mounted x.handle.toNat = some m ∧
       m.ns = l ∧ m.idents = infos.map (·.ident) ∧ m.major = fld x.a 15 8 ∧ m.log2Stripe = fld x.a 23 16 ∧ m.zones = l.length * per / 2 ^ 18 ∧
       m.objects = [] ∧ m.damaged = false ∧ m.deleting = false ∧ u = { s with sto := { s.sto with media := u.sto.media, mount := u.sto.mount }, drbg := u.drbg }) ∧
  (∀ (s : State) (x0 x : Sub) (e : Ext) (i : Nat) (m : Media), s.holdsCmd (.storeMount x0 e) x → s.storeRefuse x e = none → loadFault e = none →
     let l := s.nsList x.b.toNat (fld x.a 6 0)
     let ids := (l.filterMap s.nsInfo).map (·.ident)
     let order := m.idents.map fun d => ((l.find? fun p => match s.nsInfo p with | some n => n.ident == d | none => false).getD (0, 0))
     s.sto.media[i]? = some m → m.idents.any ids.contains = true →
     (∀ j o, j < i → s.sto.media[j]? = some o → o.idents.any ids.contains = false) →
     m.damaged = false → m.deleting = false → ids.all m.idents.contains = true → m.idents.all ids.contains = true → ids.length = m.idents.length →
     Ends (.storeMount x0 e) s x sOk (BitVec.ofNat 64 { m.remount with ns := order }.capacity) m.remount.zones { s with sto := { s.sto with
       media := s.sto.media.set i { m.remount with ns := order }
       mount := s.sto.mount.set x.handle.toNat (some i) } }) ∧
  (∀ (s : State) (x0 x : Sub) (e : Ext) (i : Nat) (m : Media), s.sto.mount.get x.handle.toNat = some i → s.sto.media[i]? = some m →
     s.storeNamed x.handle.toNat = false → s.storeDown x.handle.toNat = none → storeFault e = none →
     (s.holdsCmd (.storeUnmount x0 e) x → Ends (.storeUnmount x0 e) s x sOk 0 0 { s with sto := { s.sto with
       media := s.sto.media.set i m.checkpoint
       mount := s.sto.mount.set x.handle.toNat none } }) ∧
     (s.holdsCmd (.storeDelete x0 e) x → Ends (.storeDelete x0 e) s x sOk (BitVec.ofNat 64 m.extents) m.extents { s with sto := { s.sto with
       media := s.sto.media.set i m.blank
       mount := s.sto.mount.set x.handle.toNat none } })) ∧
  (∀ (s : State) (x0 x : Sub) (e : Ext) (ci : CtrlInfo),
     (s.holdsCmd (.storageAttach x0 e ci) x → s.sto.down = false → ci.regErr = false → ci.notReady = false → ci.cmdErr = false →
       ci.spaces.filter (·.usable) ≠ [] →
       ∃ u, Ends (.storageAttach x0 e ci) s x sOk (BitVec.ofNat 64 (ci.spaces.filter (·.usable)).length) (ci.spaces.filter (·.usable)).length u ∧
         (u.sto.ctrls.get (fld x.a 5 0)).attached = true ∧ (u.sto.ctrls.get (fld x.a 5 0)).base = x.b ∧
         (u.sto.ctrls.get (fld x.a 5 0)).pairs = fld x.c 4 0 ∧ (u.sto.ctrls.get (fld x.a 5 0)).depth = fld x.c 27 16 + 1 ∧
         (u.sto.ctrls.get (fld x.a 5 0)).spaces = ci.spaces ∧ (∀ k, k ≠ fld x.a 5 0 → u.sto.ctrls.get k = s.sto.ctrls.get k) ∧
         u = { s with sto := { s.sto with ctrls := u.sto.ctrls, media := u.sto.media } }) ∧
     (s.holdsCmd (.storageDetach x0 e) x → s.storesOn (fld x.a 5 0) = [] →
       Ends (.storageDetach x0 e) s x sOk 0 0 (s.onNvme (fld x.a 5 0) fun n => { Nvme.zero with health := n.health, errLog := n.errLog })))

/-- KEY_SLOT_LOAD (R124, R400, R401): below LAMP3 an EMPTY slot takes the key its blob unwraps to under a committed wrapping slot, with source 2, an
invocation count of 0 and a fixed field drawn anew. With A[8] set the slot is cleared.
Rests also on readings and choices of the model: assumption log entries 7, 9. -/
def Obligations.KeySlotCommandsLoadAndClear : Prop :=
  ∀ (s : State) (x0 x : Sub) (e : Ext) (key : List Byte),
    let slot := x.handle.toNat % 64
    let w := s.keys.get (fld x.a 5 0)
    let b := s.peek x.b.toNat 60
    (s.holdsCmd (.keySlotLoad x0 e) x → s.life.level < 3 → (s.keys.get slot).state = 0 → w.state = 2 → w.count < 2 ^ 32 → s.drbg.stop = false →
      e.readErr = false → s.mem.badBeats x.b.toNat 60 = [] → s.cipherUp = true →
      gcmOpen (keyBytes w.key) (bytesAt b 0 12) ([BitVec.ofNat 8 slot, BitVec.ofNat 8 x.chamber] ++ zeros 6) (bytesAt b 12 32) (bytesAt b 44 16) =
        some key →
      Ends (.keySlotLoad x0 e) s x sOk 0 0 (s.draw.2.onKey slot fun _ =>
        { KeySlot.zero with state := 2, source := 2, key := BitVec.ofNat 256 (leNat key), fixed := s.draw.1 })) ∧
    (s.holdsCmd (.keySlotZeroise x0 e) x → s.cap.run = none → s.cap.waits = [] →
      Ends (.keySlotZeroise x0 e) s x sOk 0 0 (s.onKey slot fun _ => KeySlot.zero))

/-- LIFECYCLE_ADVANCE to PROV or FIELD (R453, R455): where nothing refuses it and both rows burn, the intent and the commit row of the target are
blown, the target is the state, its code the result, and memory, keys and chambers keep what they hold.

LIFECYCLE_ADVANCE to SPENT (R455): after its completion every command has ended, the block is in OFF and takes no further command.
Rests also on readings and choices of the model: assumption log entry 59. -/
def Obligations.LifecycleMovesOn : Prop :=
  (∀ (s : State) (x0 x : Sub) (e : Ext) (burn : Burn) (target : Life), s.holdsCmd (.lifecycleAdvance x0 e burn) x →
     fld x.a 2 0 = 1 ∧ target = .prov ∨ fld x.a 2 0 = 2 ∧ target = .field →
     s.advanceRefused x (fld x.a 2 0) = false → burn.intentOk = true → burn.commitOk = true →
     ∃ u, Ends (.lifecycleAdvance x0 e burn) s x sOk (BitVec.ofNat 64 (fld x.a 2 0)) 2 u ∧ u.life.life = target ∧ u.life.pending = none ∧
       u.boot.fuses.get (2 * fld x.a 2 0) = 0xFFFFFFFF ∧ u.boot.fuses.get (2 * fld x.a 2 0 + 1) = 0xFFFFFFFF ∧
       (∀ r, r ≠ 2 * fld x.a 2 0 → r ≠ 2 * fld x.a 2 0 + 1 → u.boot.fuses.get r = s.boot.fuses.get r) ∧
       u.mem = s.mem ∧ u.keys = s.keys ∧ u.chambers = s.chambers ∧ u.regions = s.regions) ∧
  (∀ (s : State) (x0 x : Sub) (e : Ext) (burn : Burn), s.holdsCmd (.lifecycleAdvance x0 e burn) x →
     fld x.a 2 0 = 5 → s.advanceRefused x 5 = false → burn.intentOk = true → burn.commitOk = true →
     ∃ t, exec (.lifecycleAdvance x0 e burn) s = .next t ∧ t.life.life = .spent ∧ t.boot.stage = .passOnly ∧ t.pwr.state = .off ∧ t.cmds = [] ∧
       t.fins = [] ∧ t.clamps = [] ∧ t.boot.fuses.get 10 = 0xFFFFFFFF ∧ t.boot.fuses.get 11 = 0xFFFFFFFF ∧ t.serving = false)

/-- FW_STAGE (R86): an image that passes the checks of R77 is staged; the result is 0 and the units are its 4 KiB pages.

FW_ACTIVATE (R86, R87): a staged image that still passes the checks is measured into SG1 and runs: live where it declares it and a standby core
stands by, with nothing staged after it; else the block restarts from it as a warm reset does. No anti-rollback row is asked for here.
Rests also on readings and choices of the model: assumption log entries 8, 13, 14, 57. -/
def Obligations.FirmwareIsStagedAndActivated : Prop :=
  (∀ (s : State) (x0 x : Sub) (e : Ext) (img : Image) (key : Nat), s.holdsCmd (.fwStage x0 e img) x → e.readErr = false → img.fetchErr = false →
     s.checkImage x.b.toNat (fld x.c 31 0) img = .ok key →
     Ends (.fwStage x0 e img) s x sOk 0 (fld x.c 31 0 / 4096)
       { s with boot := { s.boot with staged := some ⟨x.b, BitVec.ofNat 32 (fld x.c 31 0), img⟩ } }) ∧
  (∀ (s : State) (x0 x : Sub) (e : Ext) (img : Image) (g : Staged) (key : Nat), s.holdsCmd (.fwActivate x0 e img) x → s.boot.staged = some g →
     s.activeWork = false → e.readErr = false → img.fetchErr = false → img.digest = g.img.digest →
     s.checkImage g.addr.toNat g.len.toNat g.img = .ok key → bit x.a 0 = false →
     let m := { s with boot := { s.boot with fwAddr := g.addr, fwLen := g.len } }.extendSg 1 (leBytes 48 g.img.digest.toNat)
     (g.img.liveCompat = true → s.svc.standbyOk = true → Ends (.fwActivate x0 e img) s x sOk 0 0 { m with boot := { m.boot with
       error := 0
       imageKey := BitVec.ofNat 2 key
       running := g.img.version
       imageIndex := g.img.rollback
       runKey := g.img.pubKey
       compat := true
       sg1Digest := some g.img.digest
       staged := none } }) ∧
     (g.img.liveCompat = false ∨ s.svc.standbyOk = false → exec (.fwActivate x0 e img) s = .next
       ({ m with boot := { m.boot with sg1Digest := some g.img.digest, imageKey := BitVec.ofNat 2 key } }.warmAssert.warmStart img)))

/-- SYNC_ALLOC (R136, R326): the objects picked, the lowest free ones of the chamber's range or the lowest free run, are allocated to the chamber at
value B; the result holds the first and the last index; no other object changes.

SYNC_FREE (R136, R336): objects no watch names are free again; one that admitted remote signals is held off; of another object at most the link of a
pair dissolves.

WATCH_SET and WATCH_CLEAR (R136, R337, R339): the lowest free slot takes the watch, the result its slot and generation, and where the value is not yet
reached nothing else happens; clearing frees the slot under the next generation and answers whether it had fired.

BARRIER_JOIN of a block's own barrier (R340): the last of n arrivals releases it: the generation it had is the result, and the barrier is unclaimed
under the next generation; an earlier one is counted and its command waits. -/
def Obligations.SyncObjectsWatchesAndBarriers : Prop :=
  (∀ (s : State) (x0 x : Sub) (e : Ext) (l : List Nat), s.holdsCmd (.syncAlloc x0 e) x → s.objPick x.chamber (fld x.a 15 0) (bit x.a 16) = some l →
     ∃ u, Ends (.syncAlloc x0 e) s x sOk (BitVec.ofNat 64 (l.headD 0 + l.getLastD 0 * 2 ^ 32)) 0 u ∧
       (∀ i ∈ l, u.sync.objs.get i = { SyncObj.zero with alloc := true, value := x.b, chamber := x.chamber }) ∧
       (∀ i, i ∉ l → u.sync.objs.get i = s.sync.objs.get i) ∧ u = { s with sync := { s.sync with objs := u.sync.objs } }) ∧
  (∀ (s : State) (x0 x : Sub) (e : Ext), s.holdsCmd (.syncFree x0 e) x →
     let first := x.handle.toNat
     let n := fld x.a 15 0
     (∀ p ∈ s.sync.watches.entries, p.2.used = true → ¬ (first ≤ p.2.object ∧ p.2.object < first + n)) →
     ∃ u, Ends (.syncFree x0 e) s x sOk 0 0 u ∧
       (∀ i, first ≤ i → i < first + n → u.sync.objs.get i =
         { SyncObj.zero with holdOff := (s.sync.objs.get i).remoteOk, retired := (s.sync.objs.get i).retired }) ∧
       (∀ i, i < first ∨ first + n ≤ i → ∃ k t, u.sync.objs.get i = { s.sync.objs.get i with link := k, tenon := t }) ∧
       u = { s with sync := { s.sync with objs := u.sync.objs } }) ∧
  (∀ (s : State) (x0 x : Sub) (e : Ext) (w : Nat),
     (s.holdsCmd (.watchSet x0 e) x →
       (s.sync.watches.entries.filter fun p => p.2.used && p.2.chamber == x.chamber).length < (s.ch x.chamber).quotaWatch →
       w < 4096 → (s.sync.watches.get w).used = false → (∀ k, k < w → (s.sync.watches.get k).used = true) →
       s.reached x.handle.toNat x.a.toNat = false →
       Ends (.watchSet x0 e) s x sOk (BitVec.ofNat 64 (w + (s.sync.watches.get w).gen * 4096)) 0 { s with sync := { s.sync with
         watches := s.sync.watches.set w ⟨true, x.chamber, x.handle.toNat, x.a, bit x.b 0, x.c, x.d, false, (s.sync.watches.get w).gen⟩ } }) ∧
     (s.holdsCmd (.watchClear x0 e) x → w = x.handle.toNat % 4096 → (s.sync.watches.get w).used = true →
       (s.sync.watches.get w).gen = x.handle.toNat / 4096 % 16 →
       Ends (.watchClear x0 e) s x sOk (BitVec.ofNat 64 (b2n (s.sync.watches.get w).fired)) 0 { s with sync := { s.sync with
         watches := s.sync.watches.set w { Watch.zero with gen := ((s.sync.watches.get w).gen + 1) % 16 } } })) ∧
  (∀ (s : State) (x0 x : Sub) (e : Ext), s.holdsCmd (.barrierJoin x0 e) x → bit x.a 16 = false → s.joinOf x.chamber x.sq x.cid = none →
     let b := x.handle.toNat
     let k := s.sync.bars.get b
     (k.claimed = false → k.arrived = 0 → k.joins = [] → fld x.a 15 0 = 1 →
       ∃ t, exec (.barrierJoin x0 e) s = .next t ∧ t.fins = s.fins ++ [⟨x.chamber, x.sq, x.cid, sOk, k.gen.zeroExtend 64⟩] ∧
         t.cmds = s.cmds.filter (fun c => !isCmd x c) ∧ t.sync.bars.get b = { Bar.zero with gen := k.gen + 1 } ∧
         (∀ i, i ≠ b → t.sync.bars.get i = s.sync.bars.get i)) ∧
     (k.claimed = true → k.chamber = x.chamber → k.n = fld x.a 15 0 → k.chain = false → k.arrived + 1 < k.n →
       ∃ t, exec (.barrierJoin x0 e) s = .next t ∧ t.fins = s.fins ∧
         t.sync.bars.get b = { k with arrived := k.arrived + 1, joins := k.joins ++ [(x.chamber, x.sq, x.cid, 0, false)] } ∧
         (∃ c, t.cmd? x = some c ∧ c.phase = 2) ∧ (∀ i, i ≠ b → t.sync.bars.get i = s.sync.bars.get i)))

/-- SYNC_SIGNAL and a write of the signal aperture (R54, R327, R331): an increment of an own object that overruns nothing and reaches no watch's
threshold adds to its value, and nothing else changes; the command's result is the new value.

Signals saturate (R327): an increment that would carry a value past 2^64 - 1 leaves it there with the overrun bit set, counts an overrun of its chamber and
is logged; here on an object that no link and no watch names.

SYNC_SIGNAL to another unit (R333): from a unit with an address on a version 2 ring the signal is kept with the destination's next sequence number,
its frame is queued, and the command waits for the answer.
Rests also on readings and choices of the model: assumption log entry 34. -/
def Obligations.SignalsReachTheirObject : Prop :=
  (∀ (s : State) (e : Ext),
     (∀ x0 x, s.holdsCmd (.syncSignal x0 e) x → (fld x.b 7 0 = 0 ∨ s.chain.address ≠ 0 ∧ fld x.b 7 0 = s.chain.address) →
       s.plainSignal x.handle.toNat x.a.toNat = true →
       Ends (.syncSignal x0 e) s x sOk ((s.sync.objs.get x.handle.toNat).value + x.a) 0
         (s.onObj x.handle.toNat fun o => { o with value := o.value + x.a })) ∧
     (∀ (a : Access) (off : Nat) (v : BitVec 64), s.laneFree a = true → s.boot.stage = .ready → off % 16 = 0 → off < 0x40000 →
       s.objForeign a (off / 16) = none → 1 ≤ v.toNat → v.toNat ≤ 2 ^ 32 → s.plainSignal (off / 16) v.toNat = true →
       exec (.signalApertureWrite a off v true e) s = .next ((s.onObj (off / 16) fun o => { o with value := o.value + v }).answer a 0 0))) ∧
  (∀ (s : State) (x0 x : Sub) (e : Ext), s.holdsCmd (.syncSignal x0 e) x → fld x.b 7 0 = 0 →
     let i := x.handle.toNat
     let o := s.sync.objs.get i
     o.alloc = true → o.link = false → o.tenon = false → 2 ^ 64 ≤ o.value.toNat + x.a.toNat → (∀ p ∈ s.sync.watches.entries, p.2.object ≠ i) →
     ∃ u, Ends (.syncSignal x0 e) s x sOk (BitVec.ofNat 64 (2 ^ 64 - 1)) 0 u ∧ u.sync.objs.get i = { o with value := BitVec.ofNat 64 (2 ^ 64 - 1), overrun := true } ∧
       (∀ j, j ≠ i → u.sync.objs.get j = s.sync.objs.get j) ∧ (u.un o.chamber).overruns = satAdd 16 (s.un o.chamber).overruns 1 ∧ u.mem = s.mem ∧ u.cmds = s.cmds) ∧
  (∀ (s : State) (x0 x : Sub) (e : Ext), s.holdsCmd (.syncSignal x0 e) x →
     let dest := fld x.b 7 0
     let seq := s.sync.nextSeq.get dest
     let r : RemoteSig := ⟨dest, seq, x.handle.toNat, x.chamber, x.a, 0, x.sq, x.cid⟩
     dest ≠ 0 → dest ≠ s.chain.address → s.chain.address ≠ 0 → s.chain.version ≠ 1 → s.onChain = true →
     (∀ t ∈ s.sync.remote, ¬ (t.chamber = x.chamber ∧ t.sq = x.sq ∧ t.cid = x.cid)) →
     ∃ t, exec (.syncSignal x0 e) s = .next t ∧ t.sync.remote = s.sync.remote ++ [r] ∧ t.sync.nextSeq.get dest = seq + 1 ∧ t.cmds = s.cmds ∧
       t.fins = s.fins ∧ (t.chainW.ownQ.drop s.chainW.ownQ.length).map (fun f => (f.type, f.dest.toNat % 256)) = [(0x10, dest % 256)] ∧
       t = { s with sync := t.sync, chainW := { s.chainW with ownQ := t.chainW.ownQ } })

/-- The rows of the sync unit that are no submission (R328, R329, R333, R336, R341, R345): the control word of an own object links it, a management
write below no value hand-sets it under LAMP2 or above, a retry sends the frame again or ends the signal with PARTNER_TIMEOUT, the hold on a freed
object ends, and a join that times out is withdrawn with PARTNER_TIMEOUT. -/
def Obligations.SyncRowsTakeEffect : Prop :=
  ∀ (s : State) (a : Access) (i : Nat) (v : BitVec 64) (e : Ext),
    (s.laneFree a = true → i < 16384 → s.objForeign a i = none → (s.sync.objs.get i).alloc = true → fld v 33 32 = 0 →
      exec (.syncLinkWrite a i v) s = .next ((s.linkWrite i v).answer a 0 0) ∧
      (let o := s.sync.objs.get i
       let t := fld v 48 35
       let p := s.sync.objs.get t
       bit v 60 = true → o.link = false → o.tenon = false → t ≠ i → p.alloc = true → p.chamber = o.chamber → p.link = false → p.tenon = false →
       fld v 31 0 ≠ 0 → p.value.toNat ≤ o.value.toNat → o.value.toNat - p.value.toNat ≤ fld v 31 0 →
       (s.linkWrite i v).sync.objs.get i = { o with
         overrun := o.overrun && !bit v 61
         remoteOk := bit v 59
         remoteCh := BitVec.ofNat 5 (fld v 53 49)
         link := true
         linkTo := BitVec.ofNat 14 t
         bound := BitVec.ofNat 32 (fld v 31 0)
         baseline := o.value - p.value } ∧
       (s.linkWrite i v).sync.objs.get t = { p with tenon := true })) ∧
    (s.laneFree a = true → i < 16384 → mgmt a = true → 2 ≤ s.life.level → (s.sync.objs.get i).alloc = true → (s.sync.objs.get i).value.toNat ≤ v.toNat →
      ∃ t, exec (.syncHandSet a i v e) s = .next t ∧ (t.sync.objs.get i).value = v ∧ (t.sync.objs.get i).handSet = true ∧
        (∀ j, j ≠ i → t.sync.objs.get j = s.sync.objs.get j) ∧ t.chambers = s.chambers ∧ (t.lanes.get a.lane).ans = ⟨0, 0⟩) ∧
    (exec (.syncRemoteHoldExpiry i) s = .next (s.onObj i fun o => { o with holdOff := false })) ∧
    (∀ (dest : Nat) (seq : BitVec 16) (r : RemoteSig), s.sync.remote.find? (fun r => r.dest == dest && r.seq == seq) = some r →
      (r.tries < s.sync.retries.toNat → exec (.remoteSignalRetry dest seq) s = .next
        ({ s with sync := { s.sync with remote := s.sync.remote.map fun t => if t = r then { r with tries := r.tries + 1 } else t } }.sendSignal
          { r with tries := r.tries + 1 })) ∧
      (s.sync.retries.toNat ≤ r.tries → exec (.remoteSignalRetry dest seq) s = .next (s.endRemote r sTimeout 1))) ∧
    (∀ (ch sq b : Nat) (cid : BitVec 16) (j : Nat × Nat × BitVec 16 × Nat × Bool) (c : Cmd), s.joinOf ch sq cid = some (b, j) →
      s.cmdAt ch sq cid = some c → fld c.sub.b 31 0 ≠ 0 → (s.sync.bars.get b).chain = false → c.twin = false → j.1 = ch → j.2.1 = sq → j.2.2.1 = cid →
      ∃ t, exec (.barrierTimeout ch sq cid) s = .next t ∧ t.fins = s.fins ++ [⟨ch, sq, cid, sTimeout, 0⟩] ∧
        (t.sync.bars.get b).arrived = (s.sync.bars.get b).arrived - 1 ∧ (∀ i, i ≠ b → t.sync.bars.get i = s.sync.bars.get i))

/-- CHAIN_CONTROL (R414, R416): actions 0 and 3 draw a nonce, take address 1 as master and send ENUM, and the command runs until the ENUM returns;
action 1 sets a unit that is a member and does not enumerate to its highest version, action 2 isolates it, action 4 changes nothing; these three end
at once with the address, the assigned count, the role and the ring version.

ENUM at a member (R414, R420): a unit that finds an address left takes it from the next BEACON on and passes the frame on with the next address and
the assigned count one higher; one that finds none takes no address and counts itself unassigned. Sequence state and quarantines are cleared.
Rests also on readings and choices of the model: assumption log entries 34, 35, 53. -/
def Obligations.ChainRolesAndAddresses : Prop :=
  (∀ (s : State) (x0 x : Sub) (e : Ext), (∀ p ∈ s.sync.bars.entries, p.2.chain = false) → s.chainW.enumNonce = none →
     (∀ c, (c = .chainMasterEnumerate x0 e ∨ c = .chainReenumerate x0 e) → s.holdsCmd c x →
       ∃ t, exec c s = .next t ∧ t.chain.role = 1 ∧ t.chain.address = 1 ∧ t.chain.quar = 0 ∧ t.chainW.enumNonce = some s.draw.1 ∧ t.chainW.enumCmd = some x ∧
         t.chainW.ownQ = s.chainW.ownQ ++ [⟨1, 1, 255, 1, 0, leBytes 8 s.draw.1.toNat ++ [2, 1, 0, if fld x.a 9 8 = 2 then 3 else 1] ++ zeros 4⟩] ∧
         (∃ c, t.cmd? x = some c ∧ c.phase = 2) ∧ t.fins = s.fins ∧ t.chain.version = s.chain.version ∧ t.chain.epoch = s.chain.epoch) ∧
     (s.holdsCmd (.chainSetMember x0 e) x → s.chain.role = 0 → s.chain.full = false →
       Ends (.chainSetMember x0 e) s x sOk (BitVec.ofNat 64 (s.chain.address + s.chain.units * 2 ^ 8 + s.chain.version * 2 ^ 18)) 0
         { s with chain := { s.chain with dclMax := BitVec.ofNat 2 (fld x.a 9 8) } }) ∧
     (s.holdsCmd (.chainSetIsolated x0 e) x →
       Ends (.chainSetIsolated x0 e) s x sOk (BitVec.ofNat 64 (s.chain.units * 2 ^ 8 + 2 * 2 ^ 16 + s.chain.version * 2 ^ 18)) 0
         { s with
           chain := { s.chain with role := 2, address := 0, pendAddr := none }
           chainW := { s.chainW with masterBar := .const (0, 0), barTokens := [] } }) ∧
     (s.holdsCmd (.chainStatus x0 e) x → s.chain.full = false →
       Ends (.chainStatus x0 e) s x sOk (BitVec.ofNat 64 (s.chain.address + s.chain.units * 2 ^ 8 + s.chain.role * 2 ^ 16 + s.chain.version * 2 ^ 18)) 0 s)) ∧
  (∀ (s : State) (f : DclFrame), s.heeds f = true → f.type = 1 → f.dest = 255 → s.chainW.enumNonce = none → (∀ p ∈ s.sync.bars.entries, p.2.chain = false) →
     let next := leAt f.payload 8 1
     ∃ t g, exec (.enum f) s = .next t ∧ t.chainW.forwardQ = s.chainW.forwardQ ++ [g] ∧
       g.type = 1 ∧ g.source = f.source ∧ g.hops = f.hops + 1 ∧ g.payload.length = 16 ∧ leAt g.payload 0 8 = leAt f.payload 0 8 ∧
       (next ≤ 247 → t.chain.pendAddr = some next ∧ t.chain.full = false ∧ leAt g.payload 8 1 = next + 1 ∧
         leAt g.payload 9 1 = (leAt f.payload 9 1 + 1) % 256 ∧ leAt g.payload 10 1 = leAt f.payload 10 1) ∧
       (247 < next → t.chain.pendAddr = some 0 ∧ t.chain.full = true ∧ leAt g.payload 8 1 = next ∧
         leAt g.payload 9 1 = leAt f.payload 9 1 ∧ leAt g.payload 10 1 = (leAt f.payload 10 1 + 1) % 256) ∧
       leAt g.payload 11 1 = (if s.chain.dclMax = 1 then leAt f.payload 11 1 % 2 else leAt f.payload 11 1) ∧
       t.chain.role = 0 ∧ t.chain.quar = 0 ∧ t.sync.nextSeq = .const 0 ∧ t.sync.lastSeq = .const none ∧ t.chain.address = s.chain.address ∧
       t.sync.objs = s.sync.objs ∧ t.cmds = s.cmds ∧ t.fins = s.fins ∧ t.mem = s.mem)

/-- The frames a unit acts on, each passed on when it was broadcast (R411, R414, R419, R421, R422, R424, R334): BEACON puts the ring's version, counts,
epoch and a pending address in use; TRIGGER of a rule not admitted and NOTICE change no more than cause 5; JOIN makes a master with automatic
re-enumeration send ENUM; SIGNAL adds to an object that admits it and is acknowledged; SIGNAL_ACK and SIGNAL_REFUSE end the signal they answer.
Rests also on readings and choices of the model: assumption log entries 34, 35, 52, 54. -/
def Obligations.ChainFramesTakeEffect : Prop :=
  ∀ (s : State) (f : DclFrame) (e : Ext), s.heeds f = true →
    (f.type = 2 → s.chainW.needJoin = false →
      exec (.beacon f) s = .next (({ s with
        chain := { s.chain with
          version := leAt f.payload 8 1
          units := leAt f.payload 9 1
          unassigned := leAt f.payload 10 1
          epoch := BitVec.ofNat 32 (leAt f.payload 12 4)
          stale := false
          address := s.chain.pendAddr.getD s.chain.address
          pendAddr := none }
        chainW := { s.chainW with electing := false } } : State).passOn f)) ∧
    (f.type = 3 → bit s.chain.trigIn (leAt f.payload 0 1) = false ∨ (s.trigs.get (leAt f.payload 0 1)).armed = none → exec (.trigger f) s = .next (s.passOn f)) ∧
    (f.type = 4 → exec (.notice f) s = .next ((s.cause 5).passOn f)) ∧
    (f.type = 5 → s.isMaster = false → exec (.join f) s = .next (s.passOn f)) ∧
    (f.type = 5 → f.dest = 1 → s.isMaster = true → s.chainW.enumNonce = none → s.chain.autoReenum = true → (∀ p ∈ s.sync.bars.entries, p.2.chain = false) →
      ∃ t, exec (.join f) s = .next t ∧ t.chain.address = 1 ∧ t.chain.role = 1 ∧ t.chainW.enumNonce = some s.draw.1 ∧ t.chain.quar = 0 ∧
        (t.chainW.ownQ.drop s.chainW.ownQ.length).map (fun g => (g.type, g.dest)) = [(1, 255)] ∧ t.fins = s.fins) ∧
    (f.type = 0x10 → f.dest ≠ 255 → (s.sync.objs.get (leAt f.payload 2 2 % 16384)).remoteOk = true →
      (s.sync.objs.get (leAt f.payload 2 2 % 16384)).remoteCh.toNat = leAt f.payload 0 1 % 32 → s.sync.lastSeq.get f.source.toNat = none →
      s.plainSignal (leAt f.payload 2 2 % 16384) (leAt f.payload 8 4 + 1) = true →
      exec (.signal f e) s = .next ((({ s with
        sync := { s.sync with lastSeq := s.sync.lastSeq.set f.source.toNat (some (BitVec.ofNat 16 (leAt f.payload 4 2))) } } : State).onObj
          (leAt f.payload 2 2 % 16384) fun o => { o with value := o.value + BitVec.ofNat 64 (leAt f.payload 8 4 + 1) }).sendFrame 0x11 f.source.toNat
            (leBytes 2 (leAt f.payload 4 2) ++ leBytes 2 (leAt f.payload 2 2 % 16384)))) ∧
    (∀ (st : BitVec 16) (r : BitVec 64) (c : Instr), (c = .signalAck f ∧ f.type = 0x11 ∧ st = sOk ∧ r = 0 ∨ c = .signalRefuse f ∧ f.type = 0x12 ∧ st = sTimeout ∧ r = 2) →
      ∀ (m : RemoteSig) (k : Cmd), s.sync.remote.find? (fun t => t.dest == f.source.toNat && t.seq == BitVec.ofNat 16 (leAt f.payload 0 2)) = some m →
        s.cmdAt m.chamber m.sq m.cid = some k → k.sub.opcode = 0xA2 → k.twin = false → f.dest ≠ 255 →
        ∃ t, exec c s = .next t ∧ t.sync.remote = s.sync.remote.erase m ∧ t.fins = s.fins ++ [⟨k.sub.chamber, k.sub.sq, k.sub.cid, st, r⟩] ∧
          t.cmds = s.cmds.filter (fun d => !isCmd k.sub d) ∧ t.sync.objs = s.sync.objs)

/-- Chain-wide barriers (R342, R423): the master counts an arrival's token once, and at n broadcasts BAR_RELEASE and starts its count again; it drops a
withdrawn arrival and answers BAR_ACK; a member ends the join a BAR_ACK names with PARTNER_TIMEOUT, and a BAR_RELEASE of the master ends the joins of
the barrier with the generation released.

The link, the transmitter and the timers of the chain (R407, R411, R412, R414, R416, R418, R419, R424).
Rests also on readings and choices of the model: assumption log entries 4, 34, 35. -/
def Obligations.ChainBarriersAndTimers : Prop :=
  (∀ (s : State) (f : DclFrame) (e : Ext), s.heeds f = true →
     let b := leAt f.payload 0 1
     let n := leAt f.payload 2 2
     let token := leAt f.payload 4 2
     let src := f.source.toNat
     (f.type = 0x18 → f.dest ≠ 255 → s.isMaster = true → s.chainW.barTokens.contains (src, b, token) = false →
       (s.chainW.masterBar.get b).1 = 0 ∨ (s.chainW.masterBar.get b).1 = n →
       ((s.chainW.masterBar.get b).2 + 1 < n → exec (.barArrive f) s = .next { s with chainW := { s.chainW with
         barTokens := s.chainW.barTokens ++ [(src, b, token)]
         masterBar := s.chainW.masterBar.set b (n, (s.chainW.masterBar.get b).2 + 1) } }) ∧
       (n ≤ (s.chainW.masterBar.get b).2 + 1 → (s.sync.bars.get b).claimed = false → (s.sync.bars.get b).chain = false →
         ∃ t, exec (.barArrive f) s = .next t ∧ t.chainW.masterBar = s.chainW.masterBar.set b (0, 0) ∧ (∀ p ∈ t.chainW.barTokens, p.2.1 ≠ b) ∧
           t.chainW.ownQ = s.chainW.ownQ ++ [⟨if s.chain.version = 1 then 1 else 2, 0x1B, 255, BitVec.ofNat 8 s.chain.address, 0,
             [BitVec.ofNat 8 b, 0, 0, 0] ++ leBytes 4 (s.sync.bars.get b).gen.toNat⟩] ∧
           (t.sync.bars.get b).gen = (s.sync.bars.get b).gen + 1 ∧ t.cmds = s.cmds ∧ t.fins = s.fins)) ∧
     (f.type = 0x19 → f.dest ≠ 255 → s.isMaster = true → s.chainW.barTokens.contains (src, b, token) = true →
       exec (.barWithdraw f) s = .next ({ s with chainW := { s.chainW with
         barTokens := s.chainW.barTokens.erase (src, b, token)
         masterBar := s.chainW.masterBar.set b
           (if (s.chainW.masterBar.get b).2 ≤ 1 then (0, 0) else ((s.chainW.masterBar.get b).1, (s.chainW.masterBar.get b).2 - 1)) } }.sendFrame 0x1A src
             ([BitVec.ofNat 8 b, 0] ++ leBytes 2 token))) ∧
     (f.type = 0x1A → f.dest ≠ 255 → f.source = 1 → (s.sync.bars.get b).chain = true → leAt f.payload 1 1 = 0 →
       ∀ j c, (s.sync.bars.get b).joins.find? (fun j => j.2.2.2.1 == n) = some j → s.cmdAt j.1 j.2.1 j.2.2.1 = some c → c.twin = false →
         ∃ t, exec (.barAck f) s = .next t ∧ t.fins = s.fins ++ [⟨c.sub.chamber, c.sub.sq, c.sub.cid, sTimeout, 0⟩] ∧
           (t.sync.bars.get b).arrived = (s.sync.bars.get b).arrived - 1) ∧
     (f.type = 0x1B → f.source = 1 → (s.sync.bars.get b).claimed = false → (s.sync.bars.get b).chain = false →
       exec (.barRelease f e) s = .next ((s.onBar b fun k => { k with gen := BitVec.ofNat 32 (leAt f.payload 4 4) + 1 }).passOn f)) ∧
     (f.type = 0x1B → f.source = 1 → (s.sync.bars.get b).chain = true → ∀ j c, (s.sync.bars.get b).joins = [j] → s.cmdAt j.1 j.2.1 j.2.2.1 = some c → c.twin = false →
       ∃ t, exec (.barRelease f e) s = .next t ∧
         t.fins = s.fins ++ [⟨c.sub.chamber, c.sub.sq, c.sub.cid, sOk, BitVec.ofNat 64 (leAt f.payload 4 4 % 2 ^ 32)⟩] ∧
         t.sync.bars.get b = { Bar.zero with gen := BitVec.ofNat 32 (leAt f.payload 4 4) + 1 })) ∧
  (∀ (s : State),
     (∀ l e, s.listening = true → exec (.chainFrameReceived l true e) s = .next { s with chain := { s.chain with damaged := satAdd 16 s.chain.damaged 1 } }) ∧
     (∀ l e, s.listening = true → parseFrame l = .error true →
       exec (.chainFrameReceived l false e) s = .next { s with chain := { s.chain with crc := satAdd 16 s.chain.crc 1 } }) ∧
     (∀ l e f, s.listening = true → parseFrame l = .ok f → s.boot.stage = .ready → s.chain.role = 0 → f.source.toNat ≠ s.chain.address → f.hops ≠ 254 →
       f.dest ≠ 255 → f.dest.toNat ≠ s.chain.address →
       exec (.chainFrameReceived l false e) s = .next { s with chainW := { s.chainW with forwardQ := s.chainW.forwardQ ++ [{ f with hops := f.hops + 1 }] } }) ∧
     (∀ f r g q, s.chainW.forwardQ = f :: r → s.chainW.ownQ = g :: q →
       exec .chainTransmit s = .next { s with chainW := if s.chainW.passedBy < 8
         then { s.chainW with forwardQ := r, lastTx := some f, passedBy := s.chainW.passedBy + 1 }
         else { s.chainW with ownQ := q, lastTx := some g, passedBy := 0 } }) ∧
     (∀ g q, s.chainW.forwardQ = [] → s.chainW.ownQ = g :: q →
       exec .chainTransmit s = .next { s with chainW := { s.chainW with ownQ := q, lastTx := some g, passedBy := 0 } }) ∧
     (s.chain.role = 0 → s.chain.lock = true →
       exec (.chainLinkDown false) s = .next (({ s with
         chain := { s.chain with lock := false }
         chainW := { s.chainW with needJoin := true, joined := false, joinPrev := s.chain.address } } : State).cause 5)) ∧
     (exec (.chainLinkDown true) s = .next { s with chain := { s.chain with lock := true } }) ∧
     (s.chain.role = 1 → s.chainW.enumNonce = none → s.chain.version ≠ 0 → s.boot.stage = .ready →
       exec .beaconTimer s = .next { s with chainW := { s.chainW with ownQ := s.chainW.ownQ ++ [⟨1, 2, 255, BitVec.ofNat 8 s.chain.address, 0,
         leBytes 8 s.chainW.masterNonce.toNat ++ leBytes 1 s.chain.version ++ leBytes 1 s.chain.units ++ leBytes 1 s.chain.unassigned ++ [0] ++
           leBytes 4 s.chain.epoch.toNat⟩] } }) ∧
     (∀ n x c, s.chainW.enumNonce = some n → s.chainW.enumCmd = some x → s.cmd? x = some c → c.twin = false →
       ∃ t, exec .enumTimeout s = .next t ∧ t.chain.role = s.chainW.prevRole ∧ t.chain.address = s.chainW.prevAddr ∧ t.chainW.enumNonce = none ∧
         t.fins = s.fins ++ [⟨x.chamber, x.sq, x.cid, sTimeout, 0⟩]) ∧
     (s.chain.role = 0 → s.chain.stale = false → s.boot.stage = .ready → (∀ p ∈ s.sync.bars.entries, p.2.chain = false) →
       ∃ t, exec .masterLoss s = .next t ∧ t.chain = { s.chain with stale := true } ∧ t.chainW.electing = s.chain.candidate ∧
         t.chainW.needJoin = true ∧ t.chainW.joinPrev = s.chain.address ∧ t.sync = s.sync ∧ bit t.port.irqStatus 5 = true) ∧
     (s.chain.role = 0 → s.chain.stale = true → s.chainW.electing = true → s.chain.candidate = true → s.chainW.enumNonce = none →
       (∀ p ∈ s.sync.bars.entries, p.2.chain = false) →
       ∃ t, exec .electionTimer s = .next t ∧ t.chain.role = 1 ∧ t.chain.address = 1 ∧ t.chainW.enumNonce = some s.draw.1 ∧
         (t.chainW.ownQ.drop s.chainW.ownQ.length).map (fun g => (g.type, g.dest)) = [(1, 255)]) ∧
     (s.svc.reasons ≠ 0 → s.onChain = true → 0 < s.chainW.tokens →
       ∃ t g, exec .noticeRepeat s = .next t ∧ t.chainW.ownQ = s.chainW.ownQ ++ [g] ∧ g.type = 4 ∧ g.dest = 255 ∧ leAt g.payload 0 2 = 1 ∧
         t.chainW.tokens = s.chainW.tokens - 1 ∧ t.chain.sent = satAdd 16 s.chain.sent 1 ∧ t.svc = s.svc) ∧
     (s.chainW.notices = [] → exec .noticeToken s = .next { s with chainW := { s.chainW with tokens := min 16 (s.chainW.tokens + 1) } }) ∧
     (∀ k p r, s.onChain = true → s.chainW.notices = (k, p) :: r →
       ∃ t g, exec .noticeToken s = .next t ∧ t.chainW.notices = r ∧ t.chainW.ownQ = s.chainW.ownQ ++ [g] ∧ g.type = 4 ∧ g.payload = p ∧
         t.chain.sent = satAdd 16 s.chain.sent 1 ∧ t.chainW.tokens = s.chainW.tokens))

/-- TEST_OPCODE (R123): where its checks refuse it, as they do with INVALID_OPCODE outside the lifecycle states that assign the test opcodes, it ends with
that status and its description; where they pass, the spec assigns the opcode and describes no effect, and the command is refused by name. -/
def Obligations.TestOpcodesAreAssignedInTwoStates : Prop :=
  ∀ (s : State) (x0 x : Sub) (e : Ext), (Instr.testOpcode x0 e).entry = some x → s.serving = true → x.sq = 0 → (s.ch x.chamber).negotiated = true →
    (s.testOps = false → (∀ f ∈ (s.ch x.chamber).fetched, f.sub.sq ≠ 0) → ∃ t, exec (.testOpcode x0 e) s = .next t ∧
      t.fins = s.fins ++ [⟨x.chamber, x.sq, x.cid, sInvalidOpcode, faultDesc 4 0 0 0 0⟩] ∧ t.cmds = s.cmds ∧ t.mem = s.mem ∧ t.sync = s.sync) ∧
    (s.check x = none → exec (.testOpcode x0 e) s = .refused .undescribedTestOpcode)

/-- TWIN_ENTRY and K2_CREDIT (R138, R139, R288): a twin runs its native opcode and its completion has the mapped status; K2_CREDIT sets the chamber's
credits while no credit stream is open.

DOVETAIL (R348, R352, R353): its stages take effect in order, and its result is the last one's, its units their number; the first stage that fails
ends it with that status and the stage's number, and the stages behind it have no effect. Stated for SYNC_SIGNAL stages.
Rests also on readings and choices of the model: assumption log entries 41, 42, 67. -/
def Obligations.TwinsAndDovetailsRun : Prop :=
  (∀ (s : State) (t : Twin) (e : Ext),
     (t.opcode = 0xCD → s.twinInHand t = true → fld t.p1 7 0 = 0 → s.plainSignal t.handle.toNat t.p0.toNat = true →
       ∃ u, exec (.twinEntry t e) s = .next u ∧ u.sync.objs = s.sync.objs.modify t.handle.toNat (fun o => { o with value := o.value + t.p0 }) ∧
         u.fins = s.fins ++ [⟨t.chamber, t.sq, t.cid, sOk, BitVec.ofNat 64 (((s.sync.objs.get t.handle.toNat).value + t.p0).toNat % 2 ^ 56)⟩] ∧
         u.cmds = s.cmds.filter (fun c => !isCmd (s.nativeSub t) c) ∧ u.mem = s.mem ∧ u.chambers = s.chambers) ∧
     (s.twinInHand { t with opcode := 0xD5 } = true → 1 ≤ fld t.p0 15 0 → fld t.p0 15 0 ≤ 64 → s.creditOpen t.chamber = false →
       ∃ u, exec (.k2Credit t e) s = .next u ∧ (u.ch t.chamber).credits = fld t.p0 15 0 ∧
         u.fins = s.fins ++ [⟨t.chamber, t.sq, t.cid, sOk, 0⟩] ∧ u.sync = s.sync ∧ u.mem = s.mem)) ∧
  (∀ (s : State) (x0 x y z : Sub) (e : Ext) (l : List Sub), s.holdsCmd (.dovetail x0 e l) x → (s.ch x.chamber).creditMode = false →
     (∀ c ∈ s.cmds, isCmd x c = true → c.stages = [y, z]) → y.opcode = 0xA2 → z.opcode = 0xA2 →
     (fld y.b 7 0 = 0 → fld z.b 7 0 = 0 → y.handle ≠ z.handle → s.plainSignal y.handle.toNat y.a.toNat = true → s.plainSignal z.handle.toNat z.a.toNat = true →
       Ends (.dovetail x0 e l) s x sOk ((s.sync.objs.get z.handle.toNat).value + z.a) 2
         ((s.onObj y.handle.toNat fun o => { o with value := o.value + y.a }).onObj z.handle.toNat fun o => { o with value := o.value + z.a })) ∧
     (fld y.b 7 0 ≠ 0 → s.chain.address = 0 → s.sync.remote = [] → Ends (.dovetail x0 e l) s x sNotInState 1 0 s))

/-- The doorbells (R100, R110): a tail within the queue and its free places becomes the SQ's tail; a head no further than what was posted frees the CQ's
slots up to it; both are writes of the chamber's own page, answered with ERR 0 and changing nothing else; another chamber's write is answered
with ERR 3. -/
def Obligations.DoorbellsMoveTheQueues : Prop :=
  ∀ (s : State) (a : Access) (ch q : Nat) (v : BitVec 32), v.toNat < 4096 → q < 16 → ch < 32 →
    let sq := (s.ch ch).sqs.get q
    let cq := (s.ch ch).cqs.get q
    let n := v.toNat
    (s.pageOpen a ch = true → sq.enable = true → n ≤ sq.sizeM1 →
      (n + (sq.sizeM1 + 1) - sq.tail) % (sq.sizeM1 + 1) + (sq.tail + (sq.sizeM1 + 1) - sq.head) % (sq.sizeM1 + 1) ≤ sq.sizeM1 →
      exec (.sqTailDoorbell a ch q v) s = .next ((s.onSq ch q fun t => { t with tail := n }).answer a 0 0)) ∧
    (s.pageOpen a ch = true → cq.enable = true → n ≤ cq.sizeM1 → (n + (cq.sizeM1 + 1) - cq.head) % (cq.sizeM1 + 1) ≤ cq.posted.length →
      exec (.cqHeadDoorbell a ch q v) s = .next ((s.onCq ch q fun t =>
        { t with head := n, posted := t.posted.drop ((n + (cq.sizeM1 + 1) - cq.head) % (cq.sizeM1 + 1)) }).answer a 0 0)) ∧
    (s.laneFree a = true → privCh a ≠ ch → ∃ t, exec (.sqTailDoorbell a ch q v) s = .next t ∧ t.chambers = s.chambers ∧ (t.lanes.get a.lane).ans = ⟨3, 0⟩)

/-- SQ_ENTRY_FETCH and COMMAND_DISPATCH (R92, R100, R101, R103): the entry at the head of the SQ whose turn it is waits for dispatch, the head moves on
and a completion slot is reserved; an entry alone in its chamber that passes the submission checks is accepted, one that does not ends with
the status they give.

CLAMP_GRANT, COMPLETION_POST and STATUS_WORD_UPDATE (R92, R94, R95, R97, R104): the one waiting command takes the clamps it asks for where none
is held; the oldest completion is written at its CQ's place, and the place moves on; a running command's status word shows its units.
Rests also on readings and choices of the model: assumption log entries 6, 61, 70. -/
def Obligations.EntriesAreFetchedAndAnswered : Prop :=
  (∀ (s : State),
     (s.serving = true → s.turnLeft ≠ 0 → s.turnCh < 32 → (s.ch s.turnCh).turnLeft ≠ 0 → (s.ch s.turnCh).turnSq < 16 →
       (s.ch s.turnCh).fetchable (s.ch s.turnCh).turnSq = true → (s.ch s.turnCh).twins (s.ch s.turnCh).turnSq = false → (s.ch s.turnCh).fetched = [] →
       let n := s.turnCh
       let q := (s.ch n).turnSq
       let t := (s.ch n).sqs.get q
       let x := subOfBytes n q (s.peek (t.base.toNat + t.head * 64) 64)
       s.mem.badBeats (t.base.toNat + t.head * 64) 64 = [] → linked x = false →
       ∃ u, exec (.sqEntryFetch .ok) s = .next u ∧ (u.ch n).fetched = [⟨x, s.peek (t.base.toNat + t.head * 64) 64, [], true, 0, false⟩] ∧
         (u.ch n).sqs.get q = { t with head := (t.head + 1) % (t.sizeM1 + 1) } ∧
         (u.ch n).cqs.get t.cq = { (s.ch n).cqs.get t.cq with reserved := ((s.ch n).cqs.get t.cq).reserved + 1 } ∧
         u = { s with chambers := u.chambers, turnLeft := s.turnLeft - 1 }) ∧
     (∀ (ch : Nat) (e : Ext) (f : Fetched), s.serving = true → (s.ch ch).fetched = [f] → f.done = true → f.stages = [] → f.raw.length = 64 →
       f.sub.chamber = ch → f.sub.opcode ≠ 0x54 → fence f.sub = false →
       let u := s.onCh ch fun c => { c with fetched := [] }
       (u.check f.sub = none → ∃ t, exec (.commandDispatch ch e) s = .next t ∧ (t.ch ch).fetched = [] ∧ t.fins = s.fins ∧
         (∃ c, t.cmds = s.cmds ++ [c] ∧ c.sub = f.sub ∧ c.twin = false ∧ c.phase = 1 ∧ c.units = 0)) ∧
       (∀ st d, u.check f.sub = some (st, d) → ∃ t, exec (.commandDispatch ch e) s = .next t ∧ (t.ch ch).fetched = [] ∧ t.cmds = s.cmds ∧
         ∃ r, t.fins = s.fins ++ [⟨f.sub.chamber, f.sub.sq, f.sub.cid, st, r⟩]))) ∧
  (∀ (s : State) (e : Ext), e.writeErr = false →
     (∀ c, s.cmds = [c] → c.granted = false → s.clamps = [] → s.squeeze c.sub.chamber c.wants = c.wants → c.wants.length ≤ s.clampRoom c.sub.chamber →
       exec .clampGrant s = .next { s with clamps := c.wants, cmds := [{ c with granted := true }] }) ∧
     (∀ f l, s.fins = f :: l → let t := (s.ch f.chamber).sqs.get f.sq
       let k := (s.ch f.chamber).cqs.get t.cq
       k.enable = true → k.quar = false → t.closing = false →
       ∃ u, exec (.completionPost e) s = .next u ∧ u.fins = l ∧ u.peek (k.base.toNat + k.tail * 16) 16 = finBytes f t.head k.phase ∧
         (∀ p, p < k.base.toNat + k.tail * 16 ∨ k.base.toNat + k.tail * 16 + 16 ≤ p → u.mem.bytes.get p = s.mem.bytes.get p) ∧
         (u.ch f.chamber).cqs.get t.cq = { k with
           reserved := k.reserved - 1
           tail := if k.sizeM1 ≤ k.tail then 0 else k.tail + 1
           phase := if k.sizeM1 ≤ k.tail then !k.phase else k.phase
           posted := k.posted ++ [(f.sq, f.cid)] } ∧
         (bit u.port.irqStatus 2 = (bit s.port.irqStatus 2 || k.irqEn)) ∧ u.cmds = s.cmds ∧ u.sync = s.sync) ∧
     (∀ ch q cid c, s.cmdAt ch q cid = some c → c.phase = 2 → c.twin = false → isLong c.sub = true → extStatus c.sub = true →
       ∃ u, exec (.statusWordUpdate ch q cid e) s = .next u ∧ u.peek c.sub.statusAddr.toNat 8 = leBytes 8 (statusWord 2 0 c.units).toNat ∧
         (∀ p, p < c.sub.statusAddr.toNat ∨ c.sub.statusAddr.toNat + 64 ≤ p → u.mem.bytes.get p = s.mem.bytes.get p) ∧ u = { s with mem := u.mem }))

/-- REGION_DECLARE, REGION_RETIRE, DRAIN_HINT and REPLICA_SET (R140, R143, R144, R163, R166): a region over granules no region or reserve has is
entered under a free ID, which is the result, and its granules are DIRTY; a region with no undrained granule is retired; its rank and its
replica registers are set.
Rests also on readings and choices of the model: assumption log entry 16. -/
def Obligations.RegionsAreDeclaredAndRetired : Prop :=
  ∀ (s : State) (x0 x : Sub) (e : Ext),
    (∀ i, s.holdsCmd (.regionDeclare x0 e) x → e.readErr = false →
      let l := s.peek x.c.toNat 256
      let base := x.a.toNat / 65536
      let n := x.b.toNat / 65536
      coordFault l = none → coordFits (coordOf l) x.b.toNat = true → (∀ k, k < n → (s.place (base + k)).isSome = true) →
      s.meetsRegion base (base + n) = false → s.meetsReserve base (base + n) = false →
      (s.regionsOf x.chamber).length < (s.ch x.chamber).quotaRegion → s.freeRegion = some i →
      ∃ u, Ends (.regionDeclare x0 e) s x sOk (BitVec.ofNat 64 i) 0 u ∧
        u.regions = s.regions.set i (some ⟨x.chamber, base, x.b.toNat, coordOf l, 128, 0, 1, 0, 0, .const false⟩) ∧
        (∀ k, k < n → u.gran (base + k) = gDirty) ∧ u = { s with regions := u.regions, stiles := u.stiles }) ∧
    (∀ r, s.holdsCmd (.regionRetire x0 e) x → s.region x.handle.toNat = some r → s.regionBusy r = false → s.cap.blocks = [] →
      Ends (.regionRetire x0 e) s x sOk 0 0 { s with regions := s.regions.set x.handle.toNat none }) ∧
    (s.holdsCmd (.drainHint x0 e) x → Ends (.drainHint x0 e) s x sOk 0 0
      { s with regions := s.regions.modify x.handle.toNat (Option.map fun r => { r with rank := fld x.a 7 0 }) }) ∧
    (s.holdsCmd (.replicaSet x0 e) x → Ends (.replicaSet x0 e) s x sOk 0 0
      { s with regions := s.regions.modify x.handle.toNat (Option.map fun r =>
        { r with repIndex := fld x.a 15 0, repCount := fld x.a 31 16, repGroup := x.b }) })

/-- CAPTURE and CAPTURE_CANCEL (R127, R149, R150 step 1, R174): a capture nothing refuses waits behind the others under its own label, policy and
regions, and its command goes on with it; a cancel ends a waiting capture with ABORTED_BY_HOST and completes.

The freeze (R57, R58, R147, R149, R150 steps 2 to 4): a waiting capture at its boundary, with its movers and clamps, gets its object ID and asks for
FRZ_HOLD; the acknowledge flips it under the next epoch and FRZ_HOLD falls; the fall of the acknowledge lets the next asker raise it; on a timeout
the capture ends with PARTNER_TIMEOUT.
Rests also on readings and choices of the model: assumption log entries 21, 73. -/
def Obligations.CapturesWaitFreezeAndFlip : Prop :=
  (∀ (s : State) (x0 x : Sub) (e : Ext),
     (s.holdsCmd (.capture x0 e) x → e.readErr = false → (s.ch x.chamber).storeValid = true → x.handle.toNat = (s.ch x.chamber).store →
       (∀ w ∈ s.cap.waits, w.run.cmd ≠ some x) → (s.un x.chamber).step.phase ≠ .applied → x.b = 0 → fld x.a 1 0 = 1 →
       let r := s.capNew x.chamber (some x) 0 x.d false (bit x.a 2 || (s.ch x.chamber).immediate) (s.regionsOf x.chamber)
       s.capRefuse r (bit x.a 2) = none →
       ∃ t w, exec (.capture x0 e) s = .next t ∧ t.cap.waits = s.cap.waits ++ [w] ∧ w.run = { r with reserved := if r.sealed then r.leaves.length else 0 } ∧
         w.rejected = false ∧ t.fins = s.fins ∧ t.cmds = s.cmds ∧ t.mem = s.mem ∧ (t.un x.chamber).cap.phase = 1 ∧
         (r.sealed = true → (t.keys.get r.slot).reserved = (s.keys.get r.slot).reserved + r.leaves.length)) ∧
     (∀ w y c, s.holdsCmd (.captureCancel x0 e) x → s.cap.waits = [w] → w.run.chamber = x.chamber → w.run.cmd = some y → s.cmd? y = some c → c.twin = false →
       isCmd y c = true → isCmd x c = false →
       ∃ u, Ends (.captureCancel x0 e) s x sOk 0 0 u ∧ u.cap.waits = [] ∧ u.fins = s.fins ++ [⟨y.chamber, y.sq, y.cid, sAborted, w.run.id⟩] ∧
         u.cmds = s.cmds.filter (fun c => !isCmd y c) ∧ (u.un x.chamber).cap.phase = 0)) ∧
  (∀ (s : State),
     (∀ w l m, s.cap.waits = w :: l → s.serving = true → s.pwr.state ≠ .pass → s.cap.run = none → s.atBoundary w = true → s.scopeNow w.run = w.run.regs →
       s.awayMovers w.run = [] → s.grantable w.run.sub (s.squeeze w.run.chamber w.run.clamps) = true → s.mounted w.run.store = some m →
       s.frz.hold = false → s.frz.ack = false →
       ∃ t r, exec (.captureStart w.run.chamber) s = .next t ∧ t.cap.run = some r ∧ r.id = objId w.run.chamber w.run.store m.nextSerial ∧ r.phase = 3 ∧
         r.chamber = w.run.chamber ∧ r.cmd = w.run.cmd ∧ r.regs = w.run.regs ∧ r.label = w.run.label ∧ t.frz.hold = true ∧ t.frz.asker = some none ∧
         t.clamps = s.clamps ++ s.squeeze w.run.chamber w.run.clamps ∧ t.cap.waits = s.cap.waits.filter (·.run != w.run) ∧ t.fins = s.fins) ∧
     (∀ r, s.boot.resetHeld = 0 → s.frz.ack = false → s.frz.hold = true → s.frz.asker = some none → s.cap.run = some r → r.cancel = false →
       ∃ t q, exec .freezeAck s = .next t ∧ t.frz = { s.frz with ack := true, hold := false, asker := none } ∧ t.cap.epoch = s.cap.epoch + 1 ∧
         t.cap.run = some q ∧ q.flipped = true ∧ q.epoch = s.cap.epoch + 1 ∧ q.flipTime = s.now ∧ q.id = r.id ∧ q.chamber = r.chamber ∧
         (t.un r.chamber).cap.epoch = s.cap.epoch + 1 ∧ t.fins = s.fins) ∧
     (s.frz.waiting = [] → exec .freezeAckFall s = .next { s with frz := { s.frz with ack := false } }) ∧
     (∀ w l, s.frz.hold = false → s.frz.waiting = w :: l →
       exec .freezeAckFall s = .next { s with frz := ⟨true, false, some w, if s.port.frzTimeout = 0 then 1 else s.port.frzTimeout, l⟩ }) ∧
     (∀ r x, s.frz.hold = true → s.frz.asker = some none → s.frz.waiting = [] → s.capturing r x →
       ∃ t, exec .freezeTimeout s = .next t ∧ t.frz.hold = false ∧ CaptureEnded r x sTimeout s t))

/-- TRIGGER_ARM and TRIGGER_DISARM (R169): a rule that is free or the chamber's own is armed for the chamber on the input, parameter and window given,
with its edge count and wait starting now; disarming leaves it unarmed.

Event inputs and their rules (R59, R169, R170): a pulse is counted; a rule with no window on it fires at its edge count, one with no count left;
a level is seen; a level rule whose input has held its value for the window fires. A rule that fires is disarmed and its bit in CHM_FIRED set. -/
def Obligations.RulesAreArmedAndFire : Prop :=
  (∀ (s : State) (x0 x : Sub) (e : Ext), (s.ch x.chamber).storeValid = true → x.handle.toNat = (s.ch x.chamber).store →
     ((s.trigs.get (fld x.a 3 0)).armed = none ∨ (s.trigs.get (fld x.a 3 0)).armed = some x.chamber) →
     (s.holdsCmd (.triggerArm x0 e) x → Ends (.triggerArm x0 e) s x sOk 0 0 (
       let rule : Trig := ⟨some x.chamber, (s.ch x.chamber).store, fld x.a 14 8, BitVec.ofNat 32 (fld x.b 31 0), BitVec.ofNat 32 (fld x.c 31 0),
         s.port.evtCount.get (fld x.a 14 8), s.now, []⟩
       { s.useTime with trigs := s.trigs.set (fld x.a 3 0) rule })) ∧
     (s.holdsCmd (.triggerDisarm x0 e) x → Ends (.triggerDisarm x0 e) s x sOk 0 0 
       { s with trigs := s.trigs.set (fld x.a 3 0) { s.trigs.get (fld x.a 3 0) with armed := none } })) ∧
  (∀ (s : State), s.boot.resetHeld = 0 →
     (∀ k, k < 64 → (∀ r, r < 16 → (s.trigs.get r).armed = none ∨ (s.trigs.get r).input ≠ k) →
       exec (.eventPulse k) s = .next { s with port := { s.port with evtCount := s.port.evtCount.modify k (· + 1) } }) ∧
     (∀ k r ch, k < 64 → r < 16 → (s.trigs.get r).armed = some ch → (s.trigs.get r).input = k → (s.trigs.get r).window = 0 →
       (s.trigs.get r).param.toNat ≤ (s.port.evtCount.get k + 1 - (s.trigs.get r).base).toNat →
       (∀ q, q < 16 → q ≠ r → (s.trigs.get q).armed = none ∨ (s.trigs.get q).input ≠ k) →
       ∃ t, exec (.eventPulse k) s = .next t ∧ t.port.evtCount.get k = s.port.evtCount.get k + 1 ∧ (t.trigs.get r).armed = none ∧
         bit (t.un ch).cap.fired r = true ∧ (∀ q, q ≠ r → t.trigs.get q = s.trigs.get q)) ∧
     (∀ k v, k < 16 → bit s.port.evtLevel k ≠ v →
       exec (.eventLevel k v) s = .next { s with
         port := { s.port with evtLevel := setBit s.port.evtLevel k v }
         trigs := s.trigs.mapAll fun t => if t.input = 64 + k then { t with since := s.now } else t }) ∧
     (∀ r ch, r < 16 → (s.trigs.get r).armed = some ch → 64 ≤ (s.trigs.get r).input → bit s.port.evtLevel ((s.trigs.get r).input - 64) = bit (s.trigs.get r).param 0 →
       (s.trigs.get r).since + (s.trigs.get r).window.toNat * 1000 ≤ s.now → (∀ q, q < 16 → q ≠ r → (s.trigs.get q).armed = none) →
       ∃ t, exec .levelRuleTimer s = .next t ∧ (t.trigs.get r).armed = none ∧ bit (t.un ch).cap.fired r = true ∧
         (∀ q, q ≠ r → t.trigs.get q = s.trigs.get q)))

/-- A capture's blocks (R162, R167, R179, R191, R192, R206): with none under way, a free cell takes its stile's next granule, digests and encodes it and posts its
Write; a directory miss encodes the block, a hit disposes of the granule as a duplicate; a free cipher core seals the block with the key slot's next
IV, which is used once.

The end of a block (R180, R204, R207): a Write that completed records the leaf and disposes of its granule; one that failed is built again, and at the
third failure ends the capture with MEDIA_ERROR; a failed core is out and its block waits for another.
Rests also on readings and choices of the model: assumption log entries 9, 11, 38. -/
def Obligations.BlocksAreMadeAndEnd : Prop :=
  (∀ (s : State) (r : CapRun), s.cap.run = some r → r.sealed = true → s.stage.heldReads = [] →
     (∀ st cell g loc i rid reg m k (e : Ext), r.phase = 4 → s.cap.blocks = [] → s.cellFree st cell = true → s.serves st = [st] → s.thin st = false →
       (s.st st).held = [] → s.nextGranule r st = some (g, loc) → r.leafOf g = some (i, rid, reg, m, k) → r.dedup = 0 →
       let content := leafContent reg.coord k (s.drainSource st g).1
       ∃ t b, exec (.cellTakeUnit st cell e) s = .next t ∧ t.cap.blocks = [b] ∧ b.stile = st ∧ b.granule = g ∧ b.cell = cell ∧ b.stage = 2 ∧
         b.region = rid ∧ b.member = m ∧ b.leaf = k ∧ b.content = content ∧ b.digest = contentDigest reg.coord k (s.drainSource st g).1 ∧
         b.bytes = (if r.flow then (flowBlock reg.coord.elemType content).2 else content) ∧ b.iv = none ∧ b.place = r.places.getD i 0 ∧
         ((t.st st).cells.get cell).granule = some g ∧ t.fins = s.fins ∧ t.cmds = s.cmds) ∧
     (∀ st cell b reg, s.cap.blocks = [b] → b.stage = 1 → s.server b.stile = st → b.cell = cell → r.reg b.region = some reg →
       (∃ t q, exec (.directoryLookupAnswer st cell false) s = .next t ∧ t.cap.blocks = [q] ∧ q.stage = 2 ∧ q.granule = b.granule ∧ q.content = b.content ∧
         t.cap.recs = s.cap.recs) ∧
       (∀ d q, s.lookup r b.digest = some (d, q) → ∃ t u, exec (.directoryLookupAnswer st cell true) s = .next t ∧ t.cap.blocks = [] ∧ t.cap.run = some u ∧
         u.drained = r.drained + 1 ∧ u.skipped = r.skipped + 1 ∧ u.bytes = r.bytes ∧
         t.cap.recs = s.cap.recs ++ [⟨b.region, b.member, b.leaf, { q with
           digest := b.digest, kind := 2, refLeaf := d.leaf, refObj := d.object, replica := 0, refShard := d.shard }, [], 0, []⟩])) ∧
     (∀ core b reg, s.cap.blocks = [b] → b.stage = 2 → b.iv = none → s.drbg.stop = false → s.coreFree core = true → r.reg b.region = some reg →
       let k := s.keys.get r.slot
       let sealing := gcmSeal (keyBytes k.key) (leBytes 12 k.iv.toNat)
         (aadOf r.id (reg.coord.tensor b.member) b.leaf b.codec reg.coord.elemType b.bytes.length 1) b.bytes
       ∃ t q, exec (.cipherAssign core) s = .next t ∧ t.cap.blocks = [q] ∧ q.stage = 3 ∧ q.iv = some k.iv ∧ q.bytes = sealing.1 ∧
         q.tag = BitVec.ofNat 128 (leNat sealing.2) ∧ (t.keys.get r.slot).count = k.count + 1 ∧ t.fins = s.fins)) ∧
  (∀ (s : State),
     (∀ st g b r reg, s.block? st g = some b → b.stage = 3 → s.cap.run = some r → r.reg b.region = some reg →
       ∃ t u, exec (.blockWriteComplete st g) s = .next t ∧ t.cap.run = some u ∧ u.drained = r.drained + 1 ∧ u.bytes = r.bytes + b.bytes.length ∧
         t.cap.blocks = s.cap.blocks.filter (fun q => !(q.stile == b.stile && q.granule == b.granule)) ∧
         t.cap.recs = s.cap.recs ++ [⟨b.region, b.member, b.leaf, r.ownRec b reg (if r.sealed then kcvOf (s.keys.get r.slot).key else 0), b.beats, b.place, b.bytes⟩] ∧
         t.fins = s.fins) ∧
     (∀ st g b, s.block? st g = some b → b.stage = 3 → b.fails < 2 →
       ∃ t, exec (.blockWriteFailed st g) s = .next t ∧ t.block? st g = some { b with fails := b.fails + 1, stage := 4 } ∧ t.fins = s.fins) ∧
     (∀ st g b r x, s.block? st g = some b → b.stage = 3 → 2 ≤ b.fails → s.capturing r x →
       ∃ t, exec (.blockWriteFailed st g) s = .next t ∧ CaptureEnded r x sMediaError s t) ∧
     (∀ core, core < 16 → bit s.ciph.failed core = false →
       ∃ t, exec (.cipherCoreFail core) s = .next t ∧ t.ciph.failed = setBit s.ciph.failed core true ∧ t.ciph.assigned.get core = none ∧
         (∀ st g, s.ciph.assigned.get core = some (st, g) → t.cap.blocks = s.cap.blocks.map fun b =>
           if b.stile = st ∧ b.granule = g then { b with stage := 2 } else b) ∧
         (s.ciph.assigned.get core = none → t.cap = s.cap)))

/-- The end of a capture (R46, R150 step 6, R159, R173, R176, R197, R228): the commit puts the capture's object into its store and completes it; a sealing that
waits too long for masked work, a held-write limit and a mover's loss end what they must.

Staging and the copies (R155, R157, R203): a read or write of a posted data buffer returns or stores its bytes, an access outside every buffer is counted;
a read held too long is answered with ERR 1 and its block built again; a safe copy and a stalled granule that a cell takes let the held requests go.
Rests also on readings and choices of the model: assumption log entries 37, 70, 73. -/
def Obligations.CapturesEndAndCopiesMoveOn : Prop :=
  (∀ (s : State),
     (∀ r x md (e : Ext), s.capturing r x → r.phase = 5 → s.mounted r.store = some md → s.storeDown r.store = none → storeFault e = none →
       r.degraded = false → s.fewCores = false →
       ∃ t, exec (.captureCommit e) s = .next t ∧ t.cap.run = none ∧ t.mounted r.store = some (md.commit (s.objectOf r md)) ∧
         t.fins = s.fins ++ [⟨x.chamber, x.sq, x.cid, sOk, r.id⟩] ∧ t.cmds = s.cmds.filter (fun c => !isCmd x c) ∧ (t.un r.chamber).cap.phase = 0) ∧
     (∀ r x b, s.capturing r x → s.drbg.stop = true → s.cap.blocks = [b] → b.stage = 2 →
       ∃ t, exec .sealWaitTimeout s = .next t ∧ CaptureEnded r x sNotInState s t) ∧
     (∀ r x st, s.capturing r x → st < s.stileCount → (s.st st).held ≠ [] →
       ∃ t, exec (.heldWriteLimit st) s = .next t ∧ CaptureEnded r x sReserveExhausted s t ∧ (t.st st).held = []) ∧
     (∀ st, s.cap.run = none → (s.st st).held ≠ [] → ∃ t, exec (.heldWriteLimit st) s = .next t ∧ (t.st st).held = [] ∧ t.cap = s.cap ∧ t.fins = s.fins) ∧
     (∀ st, s.cap.run = none → (s.st st).moverOn = true →
       ∃ t, exec (.moverLoss st) s = .next t ∧ (t.st st).moverOn = false ∧ (t.st st).held = [] ∧ (t.st st).copies = [] ∧
         (∀ g loc, s.place g = some (st, loc) → t.gran g = gDirty) ∧ bit t.pwr.on (3 * st) = false ∧ t.fins = s.fins ∧ t.cmds = s.cmds)) ∧
  (∀ (s : State) (a : Access) (off : Nat), s.boot.resetHeld ≠ 2 → s.dom 106 = true → s.dom 107 = true → s.dom 108 = true → off % 128 = 0 → off < 2 ^ 28 - 4096 →
     (∀ p l, s.stage.posted = p :: l → p.off ≤ off → off < p.off + p.len → p.toSsd = false →
       exec (.stagingRead a off 128) s = .next ({ s.answer a 0 (BitVec.ofNat 64 (leNat ((bytesAt p.data (off - p.off) 128).take 8))) with
         stage := { s.stage with last := bytesAt p.data (off - p.off) 128 } })) ∧
     (∀ p d, s.stage.posted = [p] → p.off ≤ off → off + d.length ≤ p.off + p.len → p.data.length = p.len → p.toSsd = false → d.length = 128 →
       exec (.stagingWrite a off d) s = .next { s.answer a 0 0 with stage := { s.stage with
         posted := [{ p with data := p.data.take (off - p.off) ++ d ++ p.data.drop (off - p.off + 128) }] } }) ∧
     (s.stage.posted = [] → ∃ t, exec (.stagingRead a off 128) s = .next t ∧ t.stage.viol = s.stage.viol + 1 ∧ (t.lanes.get a.lane).ans = ⟨0, 0⟩ ∧ t.mem = s.mem) ∧
     (∀ p b len since, s.stage.heldReads = [(off, len, a, since)] → s.stage.posted = [p] → p.toSsd = true → p.off ≤ off → off < p.off + p.len →
       s.block? p.stile p.granule = some b → b.fails < 2 →
       ∃ t, exec (.stagingReadTimeout off) s = .next t ∧ t.stage.heldReads = [] ∧ (t.lanes.get a.lane).ans = ⟨1, 0⟩ ∧
         t.block? p.stile p.granule = some { b with fails := b.fails + 1, stage := 4 }) ∧
     (∀ st k, (s.st st).copies = [k] → k.ready = false → (∀ h ∈ (s.st st).held, h.granule ≠ k.granule) →
       ∃ t, exec (.copyComplete st) s = .next t ∧ t.st st = { s.st st with copies := [{ k with ready := true }] } ∧ (∀ i, i ≠ st → t.st i = s.st i) ∧
         t.mem = s.mem ∧ t.cap = s.cap) ∧
     (∀ r st cell u g loc q, s.cellFree st cell = true → s.stalledFor st = some (u, g) → s.cap.run = some r → s.place g = some (u, loc) → r.leafOf g = some q →
       r.dedup = 0 → r.sealed = true →
       ∃ t, exec (.stallRelease st cell) s = .next t ∧ (∀ h ∈ (t.st u).held, h.granule ≠ g) ∧ (∃ b ∈ t.cap.blocks, b.granule = g ∧ b.stile = u ∧ b.stalled = true) ∧
         t.fins = s.fins))

/-- RESTORE and RESTORE_SLICE (R238 to R251): where the plan of the destinations is one run of one leaf, and the leaf reads good, the command ends OK with one
granule restored, and the run's elements stand at their place in the destination.

VERIFY, MANIFEST_READ and CONDENSE (R224, R259, R260, R324): a header whose manifest passes verifies; with the leaves asked for, their number is the result
once each has passed; the manifest's bytes from the page offset go to the buffer; a leaf whose converted elements are finite is written to the
destination.
Rests also on readings and choices of the model: assumption log entry 72. -/
def Obligations.StoredObjectsAreRestoredAndRead : Prop :=
  (∀ (s : State) (c : Instr) (x : Sub) (e : Ext) (o : StoredObj) (set : List StoredObj) (d : Dest) (r : Run) (i j k : Nat) (o' : StoredObj) (h : Shard)
     (l : LeafAt) (data : List Byte) (ds : List (Nat × Region × Nat × BitVec 32)), s.holdsCmd c x →
     ((∃ x0, c = .restore x0 e) ∧ x.b = 0 ∧ s.restoreRefuse x x.handle.toNat (bit x.c 16) = .ok o ∧ ds = ownDests (s.regionsOf x.chamber) ∨
       (∃ x0 g, c = .restoreSlice x0 e ∧ s.restoreRefuse x (objStore x.a) false = .ok o ∧ s.region x.handle.toNat = some g ∧
         ds = (List.range g.coord.members).map fun m => (x.handle.toNat, g, m, BitVec.ofNat 32 (fld x.b 31 0) + g.coord.idStep * BitVec.ofNat 32 m))) →
     (s.ch x.chamber).offload = 0 → (s.un x.chamber).step.phase = .idle → s.cap.run = none → e.nvme = .ok → e.writeErr = false →
     s.objectSet x.chamber o = (set, s) → (∀ p ∈ set, manifestFault p.id (s.chKeys x.chamber) p = none) → s.plans set ds = .ok [d] → d.runs = [r] →
     d.key r = (i, j, k) → set[i]? = some o' → o'.shards[j]? = some h → s.leafAt set o' h k = some l → l.beats = [] →
     s.leafLoad x.chamber h.coord k l none = .ok data → s.fewCores = false → (∀ st loc, s.place (d.granOf r) = some (st, loc) → s.thin st = false) →
     let z := elemSize d.reg.coord.elemType
     ∃ u, Ends c s x sOk 1 1 u ∧ u.peek (s.granAddr (d.granOf r) + r.doff * z) (r.len * z) = bytesAt data (r.off * z) (r.len * z) ∧ u.regions = s.regions ∧
       u.sto = s.sto ∧ u.sync = s.sync) ∧
  (∀ (s : State) (x0 x : Sub) (e : Ext), e.nvme = .ok → e.writeErr = false →
     (∀ o, s.holdsCmd (.verify x0 e) x → s.readRefuse x = .ok o → manifestFault o.id (s.chKeys x.chamber) o = none → bit x.b 0 = false →
       Ends (.verify x0 e) s x sOk 0 0 { s with free := s.free + 1 }) ∧
     (∀ o h q l data, s.holdsCmd (.verify x0 e) x → s.readRefuse x = .ok o → manifestFault o.id (s.chKeys x.chamber) o = none → bit x.b 0 = true →
       o.shards = [h] → h.recs = [q] → q.kind ≠ 3 → s.leafAt [o] o h 0 = some l → s.leafLoad x.chamber h.coord 0 l none = .ok data →
       Ends (.verify x0 e) s x sOk 1 1 { s with free := s.free + 1 }) ∧
     (∀ o, s.holdsCmd (.manifestRead x0 e) x → s.readRefuse x = .ok o → manifestFault o.id (s.chKeys x.chamber) o = none →
       let out := (o.manifest.drop (fld x.c 63 32 * 4096)).take (fld x.c 31 0)
       Ends (.manifestRead x0 e) s x (if fld x.c 63 32 * 4096 + fld x.c 31 0 < o.manifest.length then sOkPartial else sOk)
         (BitVec.ofNat 64 o.manifest.length) (ceilDiv out.length 4096) (s.poke x.b.toNat out)) ∧
     (∀ src dst m leaf, s.holdsCmd (.condense x0 e) x → s.cap.run = none → s.region x.handle.toNat = some src → s.region (fld x.a 15 0) = some dst →
       dst.coord.elemType = fld x.a 19 16 → dst.coord.members = src.coord.members → src.coord.elems ≤ dst.coord.elems → src.leafList = [(m, leaf)] →
       (∀ k st loc, k < src.granules → s.place (src.base + k) = some (st, loc) → s.thin st = false) →
       let per := perGranule src.coord.elemType
       let cnt := src.coord.leafElems leaf
       let f := fmtOf dst.coord.elemType
       let out := (s.regionRead src m (leaf * per) cnt).map fun p => (packOut f 0 0 (num (convertIn src.coord.elemType p.1)), p.2)
       (∀ p ∈ out, finiteBits f p.1 = true) →
       ∃ u, Ends (.condense x0 e) s x sOk (BitVec.ofNat 64 (dst.touched m (leaf * per) cnt).eraseDups.length) 1 u ∧
         u = { s with free := s.free + 1 }.regionWrite dst m 8 (leaf * per) out))

/-- STREAM_OPEN and STREAM_CLOSE (R263 to R267, R283): a good descriptor takes the first free slot of the chamber's range under its next generation, with the
command's clamps; the close of a stream with nothing outstanding frees the slot and answers the bytes moved.

STREAM_SEEK and STREAM_CANCEL (R282, R284): a linear fetch stream that stands at a segment's end goes on at the target; a stream in the middle of a segment
notes it; a cancel frees the slot and answers the bytes dropped.
Rests also on readings and choices of the model: assumption log entry 51. -/
def Obligations.StreamsAreOpenedMovedAndClosed : Prop :=
  (∀ (s : State) (x0 x : Sub) (e : Ext),
     (∀ k, s.holdsCmd (.streamOpen x0 e) x → e.readErr = false →
       let c := s.ch x.chamber
       let l := s.peek x.a.toNat 32
       let t := stmOf x.chamber (bit x.b 0) c.creditMode c.credits l
       let i := (s.un x.chamber).stmBase + k
       let g := ((s.trk.stm.get i).gen + 1) % 64
       s.stmOutside t = none → s.stmBad t l = none → c.creditMode = false → k < c.quotaStream → s.slotFree i = true →
       (∀ j, j < k → s.slotFree ((s.un x.chamber).stmBase + j) = false) → s.poolUsed t.home + t.depth ≤ s.poolFrames t.home →
       ∃ u, Ends (.streamOpen x0 e) s x sOk (BitVec.ofNat 64 (i + g * 2 ^ 18)) 0 u ∧ u.trk.stm.get i = { t with gen := g } ∧ u.trk.run.get i = .zero ∧
         (∀ j, j ≠ i → u.trk.stm.get j = s.trk.stm.get j) ∧ u = { s with clamps := u.clamps, trk := u.trk }) ∧
     (∀ i t, s.holdsCmd (.streamClose x0 e) x → streamOf s x.handle.toNat = some (i, t) → (s.trk.run.get i).closing = none → (s.trk.run.get i).bound = none →
       s.tagsOf i = [] →
       ∃ u, Ends (.streamClose x0 e) s x sOk (BitVec.ofNat 64 (s.trk.run.get i).bytes) 0 u ∧
         u.trk.stm.get i = { Stm.zero with gen := t.gen, retired := t.gen == 63, lost := t.lost } ∧ u.trk.run.get i = .zero ∧
         (∀ j, j ≠ i → u.trk.stm.get j = s.trk.stm.get j) ∧ u.clamps = s.clamps.filter (fun k => !(k.owner == none && k.stream == i)) ∧ u.mem = s.mem ∧
         u.tags = s.tags)) ∧
  (∀ (s : State) (x0 x : Sub) (e : Ext) (i : Nat) (t : Stm), streamOf s x.handle.toNat = some (i, t) →
     let r := s.trk.run.get i
     let g := fld x.a 47 0
     (s.holdsCmd (.streamSeek x0 e) x → t.indexed = false → t.writeBack = false → t.credit = false → g < t.extent → r.closing = none → r.unused = [] → r.landed = [] →
       r.frames = [] → (r.ends.find? (fun b => decide (r.delivered ≤ b)) = none →
         ∃ u, Ends (.streamSeek x0 e) s x sOk 0 0 u ∧ u.trk.run.get i = { r with seek := some g } ∧ u.tags = s.tags ∧ u.mem = s.mem) ∧
       (∀ b, r.ends.find? (fun b => decide (r.delivered ≤ b)) = some b →
         ∃ u, Ends (.streamSeek x0 e) s x sOk 0 0 u ∧ (u.trk.run.get i).elem = g ∧ (u.trk.run.get i).issued = b ∧ (u.trk.run.get i).seek = none ∧
           (u.trk.run.get i).ended = false ∧ (u.trk.run.get i).delivered = r.delivered ∧ u.mem = s.mem ∧ u.trk.stm = s.trk.stm)) ∧
     (s.holdsCmd (.streamCancel x0 e) x → r.bound = none → r.closing = none →
       ∃ u, Ends (.streamCancel x0 e) s x sOk (BitVec.ofNat 64 ((r.landed.map fun p => p.2.length).foldl (· + ·) 0 +
           256 * (((s.tagsOf i).filter fun u => u.stream == some (i, (s.trk.stm.get i).gen)).filter fun u => isRead u.tag).length)) 0 u ∧
         (u.trk.stm.get i).isOpen = false ∧ u.trk.run.get i = .zero ∧ (∀ j, j ≠ i → u.trk.stm.get j = s.trk.stm.get j) ∧ u.mem = s.mem ∧ u.fins = s.fins))

/-- STREAM_ISSUE, STREAM_LANDING and DEPENDENCE_TIMEOUT (R277, R279, R281, R285, R286): an open linear fetch stream with room issues its next span under a free
tag; an answer of its generation lands in stream order and frees its tag; a consumer that has waited too long at a marker ends with
DEPENDENCE_TIMEOUT.
Rests also on readings and choices of the model: assumption log entry 15. -/
def Obligations.StreamsIssueAndLand : Prop :=
  ∀ (s : State) (i : Nat) (e : Ext),
    let t := s.trk.stm.get i
    let r := s.trk.run.get i
    (∀ tag also, t.isOpen = true → r.fault = none → r.closing = none → t.writeBack = false → t.indexed = false → t.gated = false → t.credit = false →
      r.elem < t.extent → 0 < t.segLen → r.posts = [] →
      let addr := t.base + r.elem * t.size
      let left := min t.extent ((r.elem / t.segLen + 1) * t.segLen) - r.elem
      let n := min left (((addr / 256 + 1) * 256 - addr) / t.size)
      s.spanRoom i t r = true → s.spanTags t addr false = some (tag, also) →
      ∃ u, exec (.streamIssue i e) s = .next u ∧ u.tags = s.tags ++ [⟨tag, also, some (i, t.gen), addr, n * t.size, r.issued, false, false, false⟩] ∧
        (u.trk.run.get i).issued = r.issued + n ∧ (n < left → (u.trk.run.get i).elem = r.elem + n) ∧ u.mem = s.mem ∧ u.trk.stm = s.trk.stm ∧ u.sync = s.sync) ∧
    (∀ w k, s.trk.answers.find? (fun w => w.full && (match w.use.stream with | some p => p.1 == i | none => false)) = some w → w.use.stream = some (i, k) →
      t.gen = k → t.isOpen = true → w.use.mark = false → w.use.heldOut = false → r.closing = none → w.err = false → r.frames = [] →
      ∃ u, exec (.streamLanding i e) s = .next u ∧ u.trk.run.get i = { r with
          landed := insertLanded (w.use.elem, (w.data.drop (w.use.addr % 256)).take w.use.len) r.landed } ∧
        u.tags = s.tags.erase w.use ∧ u.trk.answers = s.trk.answers.erase w ∧ u.mem = s.mem) ∧
    (∀ q id c, t.isOpen = true → t.writeBack = false → r.bound = some (q, id) → (s.un t.chamber).depTimeout ≠ 0 → r.landed = [] → s.atMarker i = true →
      s.cmdAt t.chamber q id = some c → c.sub.opcode = 0x62 → c.twin = false →
      ∃ u, exec (.dependenceTimeout i) s = .next u ∧ u.fins = s.fins ++ [⟨c.sub.chamber, c.sub.sq, c.sub.cid, sDepTimeout, 0⟩] ∧
        u.cmds = s.cmds.filter (fun d => !isCmd c.sub d) ∧ u.trk.stm = s.trk.stm)

/-- PROGRAM_LOAD, STEP_BEGIN and STEP_ABORT (R306, R307, R311, R312, R132): an accepted program stands in its slot; an unguarded step with an accepted plan begins at
the chamber's step count, its loss scale loaded or clamped; an abort returns the chamber to IDLE without a plan.

STEP_MEASURE and STEP_NORM (R313, R314): a plan of one measured block over a region answers the block's sum of squares under the loss scale and the chamber is
MEASURED; a norm and a loss that are finite make it NORMED, with the clip factor of the plan's bound.
Rests also on readings and choices of the model: assumption log entries 43, 44. -/
def Obligations.StepsBeginMeasureAndAbort : Prop :=
  (∀ (s : State) (x0 x : Sub) (e : Ext), e.readErr = false →
     let ch := x.chamber
     let t := (s.un ch).step
     let w := (List.range (fld x.b 8 0)).map fun i => BitVec.ofNat 32 (leNat (s.peek (x.a.toNat + 4 * i) 4))
     (s.holdsCmd (.programLoad x0 e) x → s.progInUse ch x.handle.toNat = false → programBad (fld x.b 13 12) w = none →
       Ends (.programLoad x0 e) s x sOk 0 0 (s.onUn ch fun u => { u with progs := u.progs.set x.handle.toNat ⟨true, fld x.b 13 12, w⟩ })) ∧
     (s.holdsCmd (.stepBegin x0 e) x → fld x.a 47 0 = t.count.toNat → s.stepOut x [.idle, .applied] = false → t.beginSub = none →
       headFault (s.peek x.b.toNat 128) = none → s.entriesFault ch x.b.toNat (fld x.c 15 0) 0 [] = none → s.boundaryHeld ch = false →
       (s.ch ch).guarded = false →
       let l := s.peek x.b.toNat 128
       ∃ u, Ends (.stepBegin x0 e) s x sOk (BitVec.ofNat 64 t.count.toNat) 0 u ∧ (u.un ch).step.phase = .begun ∧
         (u.un ch).step.plan = some (x.b.toNat, fld x.c 15 0) ∧ (u.un ch).step.count = t.count ∧ (u.un ch).step.written = 0 ∧
         (u.un ch).step.scale = (if leAt l 1 1 % 2 = 1 then BitVec.ofNat 32 (leAt l 8 4) else clampScale l t.scale) ∧ u.mem = s.mem ∧ u.sync = s.sync) ∧
     (s.holdsCmd (.stepAbort x0 e) x → s.stepOut x [.begun, .measured, .normed] = false →
       ∃ u, Ends (.stepAbort x0 e) s x sOk 0 0 u ∧ (u.un ch).step.phase = .idle ∧ (u.un ch).step.plan = none ∧ (u.un ch).step.count = t.count ∧
         (u.un ch).step.epochOpen = false ∧ u.mem = s.mem)) ∧
  (∀ (s : State) (x0 x : Sub) (e : Ext),
     let ch := x.chamber
     let t := (s.un ch).step
     (∀ k r p, s.holdsCmd (.stepMeasure x0 e) x → e.readErr = false → s.stepOut x [.begun] = false → s.stepStreams ch false = [] →
       s.planBlocks ch true = [k] → s.slotRegion ((s.planEntry ch k.entry).slot (s.planEntry ch k.entry).grad) = some r →
       s.firstRegion (s.planEntry ch k.entry) = some p → s.thin (s.blockStile (s.planEntry ch k.entry) k) = false →
       let d := s.regionRead r k.m (4096 * k.b) (p.2.coord.blockElems k.b)
       (∀ q ∈ d, finiteBits (fmtOf r.coord.elemType) q.1 = true) →
       ∃ u, Ends (.stepMeasure x0 e) s x sOk (BitVec.ofNat 64 (add64 0 (blockSquares r.coord.elemType ((t.scale.toNat / 2 ^ 23 % 256 : Nat) - 127) (d.map (·.1))))) 1 u ∧
         (u.un ch).step = { t with phase := .measured } ∧ u.mem = s.mem ∧ u.regions = s.regions) ∧
     (s.holdsCmd (.stepNorm x0 e) x → s.stepOut x [.measured] = false →
       let norm : BitVec 32 := BitVec.ofNat 32 (fld x.a 31 0)
       let loss : BitVec 32 := BitVec.ofNat 32 (fld x.a 63 32)
       let top : BitVec 32 := BitVec.ofNat 32 (leAt (s.planHead ch) 20 4)
       isFin norm = true → isFin loss = true → norm.toNat ≤ 0x80000000 →
       Ends (.stepNorm x0 e) s x sOk (BitVec.ofNat 64 t.scale.toNat) 0 (s.onStep ch fun t =>
         { t with phase := .normed, norm := norm, loss := loss, clip := if leAt (s.planHead ch) 1 1 / 2 % 2 = 1 ∧ flCmp (num norm) (num top) = some .gt
           then re (flDiv (num top) (num norm)) else 0x3F800000 })))

/-- STEP_APPLY and STEP_ROLLBACK (R315, R316, R320): a plan of one block over regions whose outputs are finite writes them, and the chamber is APPLIED with its count
one higher; a rollback with one step copy writes the copy back and restores the count, scale, clean count and skips.

TIER_PLACE (R323, R441): in offload TIERED one granule of a resident region goes to its place in the slow tier, with its data, and the command's result and units
are the granules moved; a region that is there already moves none.
Rests also on readings and choices of the model: assumption log entries 45, 46, 48. -/
def Obligations.StepsApplyAndTiersMove : Prop :=
  (∀ (s : State) (x0 x : Sub) (e : Ext), e.readErr = false → e.writeErr = false → s.cap.run = none →
     let ch := x.chamber
     let t := (s.un ch).step
     (∀ k p d, s.holdsCmd (.stepApply x0 e) x → s.stepOut x [.normed] = false → s.stepStreams ch true = [] → s.planBlocks ch false = [k] → (s.ch ch).offload = 1 →
       (∀ j, j < 8 → s.slotStream ((s.planEntry ch k.entry).slot j) = none) → s.firstRegion (s.planEntry ch k.entry) = some p →
       s.thin (s.blockStile (s.planEntry ch k.entry) k) = false →
       let en := s.planEntry ch k.entry
       let cnt := p.2.coord.blockElems k.b
       let ks := (insOf (s.progOf ch en)).eraseDups
       s.slotsRead k cnt (ks.map en.slot) = some (d, s) →
       let u0 := ((s.onStep ch fun t => if t.saved.isNone then { t with saved := some (t.count, t.scale, t.clean, t.skips) } else t).freeNat.2.useProg
         (s.blockStile en k) ch en.prog)
       let outs := u0.blockOut ch en k cnt (ks.zip d)
       (∀ o ∈ outs, ∀ q ∈ o.2, finiteBits (fmtOf ((s.slotType (en.slot o.1)).getD 2)) q.1 = true) →
       let v := u0.blockWrite x en k outs
       v.stepStreams ch true = [] → v.stepOk ch (v.planBlocks ch false) = sOk →
       ∃ u, Ends (.stepApply x0 e) s x sOk 0 1 u ∧ u.mem = v.mem ∧ (u.un ch).step.phase = .applied ∧
         (u.un ch).step.count = t.count + 1 ∧ (u.un ch).step.saved = some (t.saved.getD (t.count, t.scale, t.clean, t.skips)) ∧ u.sync = s.sync) ∧
     (∀ st k c sc cl sk, s.holdsCmd (.stepRollback x0 e) x → s.stepOut x [.applied] = false → (s.ch ch).guarded = true → t.guardLost = false → t.epochOpen = true →
       s.stepCopies ch = [(st, k)] → s.thin st = false → t.saved = some (c, sc, cl, sk) →
       ∃ u, Ends (.stepRollback x0 e) s x sOk (BitVec.ofNat 64 t.written) t.written u ∧ u.peek (s.granAddr k.granule) k.data.length = k.data ∧
         (u.un ch).step.count = c ∧ (u.un ch).step.scale = sc ∧ (u.un ch).step.clean = cl ∧ (u.un ch).step.skips = sk ∧ (u.un ch).step.phase = .idle ∧
         (u.un ch).step.plan = none ∧ u.sync = s.sync)) ∧
  (∀ (s : State) (x0 x : Sub) (e : Ext) (r : Region), s.holdsCmd (.tierPlace x0 e) x → s.region x.handle.toNat = some r → (s.ch x.chamber).offload = 2 →
     e.writeErr = false → s.cap.run = none →
     ((∀ k, k < r.granules → r.slow.get k = bit x.a 0) → Ends (.tierPlace x0 e) s x sOk 0 0 s) ∧
     (bit x.a 0 = true → r.granules = 1 → r.slow = .const false → 
       (∀ p ∈ s.regions.entries, ∀ q, p.2 = some q → p.1 = x.handle.toNat ∨ q.resident = true ∧ ¬ (q.base ≤ r.base ∧ r.base < q.base + q.granules)) → s.regionBusy r = false →
       ∃ u, Ends (.tierPlace x0 e) s x sOk 1 1 u ∧ u.peek x.b.toNat 65536 = s.peek (r.base * 65536) 65536 ∧
         u.region x.handle.toNat = some { r with slowBase := x.b.toNat, slow := r.slow.set 0 true } ∧ u.sync = s.sync))

/-- DIGEST, HMAC and EXTEND (R135, R381, R391, R397): the digest of the source, and the MAC of the source under a loaded slot of its algorithm, are
written to the output; EXTEND takes the source into the digest of a start group.

SEAL and UNSEAL (R134, R195, R198): a sealed buffer is the IV the slot gives next, the cipher text and the tag, and the key's count goes up by one;
unsealing writes the plain text where the tag agrees and zeros where it does not, the command then ending with its status.
Rests also on readings and choices of the model: assumption log entry 7. -/
def Obligations.DigestsAndSealsOfMemory : Prop :=
  (∀ (s : State) (x0 x : Sub) (e : Ext), s.dom 103 = true → s.cmdContexts < 24 → s.engineUp = true → e.writeErr = false →
     let n := fld x.c 39 0
     let src := s.peek x.b.toNat n
     (s.holdsCmd (.digest x0 e) x → s.attestable e x.b.toNat n = true →
       Ends (.digest x0 e) s x sOk 0 (ceilDiv n 65536) (s.poke x.d.toNat (sha (fld x.a 1 0) src))) ∧
     (∀ key, s.holdsCmd (.hmac x0 e) x → s.attestable e x.b.toNat n = true →
       let h := s.dgt.hslots.get (fld x.a 12 8)
       h.loaded = true → h.alg = fld x.a 1 0 → h.inner = hmacKey h.alg 0x36 (hmacFit h.alg key) → h.outer = hmacKey h.alg 0x5C (hmacFit h.alg key) →
       Ends (.hmac x0 e) s x sOk 0 (ceilDiv n 65536) (s.poke x.d.toNat (hmacOf (fld x.a 1 0) key src))) ∧
     (s.holdsCmd (.extend x0 e) x → s.attestable e x.a.toNat (fld x.b 15 0) = true →
       Ends (.extend x0 e) s x sOk 0 0 (s.extendSg (x.handle.toNat % 32) (s.peek x.a.toNat (fld x.b 15 0))))) ∧
  (∀ (s : State) (x0 x : Sub) (e : Ext), e.writeErr = false → s.drbg.stop = false → s.cipherUp = true →
     let n := fld x.d 36 0
     let slot := x.handle.toNat % 64
     let k := s.keys.get slot
     n ≤ 2 ^ 36 - 32 → k.usable = true →
     (s.holdsCmd (.seal x0 e) x → k.used + 2 ^ 26 < 2 ^ 32 →
       let iv := leBytes 12 k.iv.toNat
       let g := gcmSeal (keyBytes k.key) iv (s.cipherAad x) (s.peek x.b.toNat n)
       Ends (.seal x0 e) s x sOk (BitVec.ofNat 64 (k.count + 1)) (ceilDiv n 65536)
         ((s.onKey slot fun k => { k with count := k.count + 1 }).poke x.c.toNat (iv ++ g.1 ++ g.2))) ∧
     (s.holdsCmd (.unseal x0 e) x →
       let g := gcmOpen (keyBytes k.key) (s.peek x.b.toNat 12) (s.cipherAad x) (s.peek (x.b.toNat + 12) n) (s.peek (x.b.toNat + 12 + n) 16)
       (∀ p, g = some p → Ends (.unseal x0 e) s x sOk 0 (ceilDiv n 65536) (s.poke x.c.toNat p)) ∧
       (g = none → Ends (.unseal x0 e) s x sAuthFailed 0 (ceilDiv n 65536) (s.poke x.c.toNat (zeros n)))))

/-- The message registers of a digest context (R383, R384, R386, R387): a word written to DGT_DATA, and the bytes written to DGT_LAST, follow what the
context has absorbed; a first word written to an IDLE context begins its message; DGT_FINISH and DGT_LAST end the message, and its output is
then the digest of all that was written, one message more counted.

Digest contexts and HMAC slots as they are claimed and given up (R383, R386, R389-R393): a FREE context is claimed for the writing chamber with
the settings written; its owner's release frees it and its abort returns it to IDLE; the state of one at a block boundary is read and latched,
and a state that fits is restored into an IDLE one; an HMAC slot is loaded from the key words written, which are zeroised, and cleared.
Rests also on readings and choices of the model: assumption log entries 7, 56. -/
def Obligations.DigestContextsWork : Prop :=
  (∀ (s : State) (a : Access) (c : Nat) (w : BitVec 64) (m : List Byte), 32 ≤ c → c < 64 → s.engineUp = true →
     (∀ i d, (i = .dgtData a c w true ∧ d = leBytes 8 w.toNat ∨ (∃ b, 1 ≤ b ∧ b ≤ 8 ∧ i = .dgtLast a c b w true ∧ d = (leBytes 8 w.toNat).take b) ∨
         i = .dgtFinish a c true ∧ d = []) →
       s.windowOpen a = true → (s.ctx c).owner = privCh a → m.length + d.length < 2 ^ 40 →
       ((s.ctx c).state = 2 ∧ (s.ctx c).absorbed m ∨ (s.ctx c).state = 1 ∧ (s.ctx c).hmac = false ∧ (s.ctx c).queued = [] ∧ m = []) →
       ∃ t, exec i s = .next t ∧ (t.ctx c).absorbed (m ++ d) ∧ (t.ctx c).state = (if i = .dgtData a c w true then 2 else 3) ∧
         (t.ctx c).mAlg = (if (s.ctx c).state = 1 then (s.ctx c).alg else (s.ctx c).mAlg) ∧ (t.ctx c).owner = privCh a ∧
         (t.lanes.get a.lane).ans = ⟨0, 0⟩ ∧ (∀ k, k ≠ c → t.ctx k = s.ctx k) ∧
         t = { s with dgt := { s.dgt with ctx := t.dgt.ctx }, lanes := t.lanes }) ∧
     (s.dom 103 = true → (s.ctx c).state = 3 → (s.ctx c).absorbed m →
       ∃ t, exec (.dgtMessageDone c) s = .next t ∧ t.ctx c = { s.ctx c with
           state := 4
           out := padTo 64 (sha (s.ctx c).mAlg m)
           msgs := ((s.ctx c).msgs + 1) % 2 ^ 16
           buf := [] } ∧
         (∀ k, k ≠ c → t.ctx k = s.ctx k) ∧ t = { s with dgt := { s.dgt with ctx := t.dgt.ctx } })) ∧
  (∀ (s : State) (a : Access) (c h : Nat) (v : BitVec 32), 32 ≤ c → c < 64 → h < 32 → s.windowOpen a = true →
     let t := s.ctx c
     let ctxIs (i : Instr) (n : DgtCtx) : Prop :=
       ∃ u, exec i s = .next u ∧ u.ctx c = n ∧ (∀ k, k ≠ c → u.ctx k = s.ctx k) ∧ (u.lanes.get a.lane).ans = ⟨0, 0⟩ ∧
         u = { s with dgt := { s.dgt with ctx := u.dgt.ctx }, lanes := u.lanes }
     (t.state = 0 → v &&& 0xFFF8E0F8 = 0 → fld v 1 0 ≠ 3 →
       ctxIs (.dgtContextClaim a c v) { DgtCtx.zero with state := 1, owner := privCh a, alg := fld v 1 0, hmac := bit v 2, hslot := fld v 12 8 }) ∧
     (t.state ≠ 0 → t.owner = privCh a → v &&& 0xFFF8E0F8 = 0 → fld v 1 0 ≠ 3 → ctxIs (.dgtContextRelease a c v) DgtCtx.zero) ∧
     ((t.state = 2 ∨ t.state = 3 ∨ t.state = 5) → t.owner = privCh a → mgmt a = false → v &&& 0xFFF8E0F8 = 0 → fld v 1 0 ≠ 3 →
       ctxIs (.dgtContextAbort a c v) { t with state := 1, error := 0, count := 0, buf := [], queued := [] }) ∧
     (t.state = 1 → t.owner = privCh a → v &&& 0xFFF8E0F8 = 0 → fld v 1 0 ≠ 3 → s.stateFits t.owner t.written = true →
       let l := t.written
       let n := fld (l.getD 1 0) 39 0
       let alg := fld (l.getD 0 0) 1 0
       ctxIs (.dgtContextRestore a c v) { t with
         state := if n = 0 then 1 else 2
         alg := alg
         hmac := bit (l.getD 0 0) 2
         hslot := fld (l.getD 0 0) 12 8
         mAlg := alg
         mHmac := bit (l.getD 0 0) 2
         mSlot := fld (l.getD 0 0) 12 8
         mGen := fld (l.getD 0 0) 23 16
         count := n
         chain := wordsChain alg ((l.drop 2).take 8)
         buf := []
         written := [] }) ∧
     (2 ≤ t.state → t.owner = privCh a → t.atBoundary = true →
       let l := t.saved (s.dgt.hslots.get t.mSlot)
       ∃ u, exec (.dgtStateRead a c) s = .next u ∧ u.ctx c = { t with latch := l } ∧ (u.lanes.get a.lane).ans = ⟨0, l.getD 0 0⟩ ∧ u.dgt.hslots = s.dgt.hslots) ∧
     (h = privCh a → s.hslotBusy h = false → v &&& 0xFC00C0F8 = 0 → bit v 25 = false → bit v 2 = false → fld v 1 0 ≠ 3 → fld v 23 16 ≠ 0 →
       fld v 23 16 ≤ shaBlock (fld v 1 0) →
       let key := s.hkeyBytes h (fld v 23 16)
       let n : HSlot := ⟨true, fld v 1 0, false, ((s.dgt.hslots.get h).gen + 1) % 256, 0, hmacKey (fld v 1 0) 0x36 key, hmacKey (fld v 1 0) 0x5C key⟩
       ∃ u, exec (.hslotLoad a h v) s = .next u ∧ u.dgt.hslots.get h = n ∧
         (∀ i, i < 16 → u.dgt.hkeys.get (16 * h + i) = 0) ∧ u.dgt.ctx = s.dgt.ctx ∧ u.keys = s.keys) ∧
     (h = privCh a → s.hslotBusy h = false →
       ∃ u, exec (.hslotClear a h) s = .next u ∧ (u.dgt.hslots.get h).loaded = false ∧ (u.dgt.hslots.get h).gen = (s.dgt.hslots.get h).gen ∧
         (∀ i, i < 16 → u.dgt.hkeys.get (16 * h + i) = 0) ∧ u.dgt.ctx = s.dgt.ctx ∧ u.keys = s.keys))

/-- The key port and the entropy port (R60, R61, R400, R401, R403): a word with odd parity goes into its place of a slot that is not COMMITTED; a slot
loaded in full is committed with its count at 0; zeroising and the loading timer clear a slot; 32 words instantiate the generator and 16 reseed it
when that is due, and a reseed that is late stops masked work.
Rests also on readings and choices of the model: assumption log entry 9. -/
def Obligations.KeyPortLoadsKeys : Prop :=
  ∀ (s : State) (slot w : Nat) (data : BitVec 64) (par : BitVec 8) (word : BitVec 32), slot < 64 → w < 4 →
    let k := s.keys.get slot
    (s.keyPortOpen = true → oddParity data par = true → k.state ≠ 2 →
      ∃ t, exec (.keyLoadWord slot w data par) s = .next t ∧ (t.keys.get slot).state = 1 ∧ (t.keys.get slot).words = setBit k.words w true ∧
        (∀ i, i < 256 → (t.keys.get slot).key.getLsbD i = if 64 * w ≤ i ∧ i < 64 * w + 64 then data.getLsbD (i - 64 * w) else k.key.getLsbD i) ∧
        (∀ j, j ≠ slot → t.keys.get j = s.keys.get j) ∧ t = { s with keys := t.keys, dgt := { s.dgt with lastKeyErr := 0 } }) ∧
    (s.keyPortOpen = true → k.state = 1 → k.words = 15 → s.drbg.stop = false →
      ∃ t, exec (.keyCommit slot) s = .next t ∧
        t.keys = s.keys.set slot { KeySlot.zero with state := 2, source := 1, key := k.key, fixed := s.draw.1 } ∧ t.dgt.lastKeyErr = 0 ∧
        t.cmds = s.cmds ∧ t.sump = s.sump) ∧
    (s.keyPortOpen = true → s.cap.run = none → s.cap.waits = [] →
      exec (.keyZeroise slot) s = .next { s with keys := s.keys.set slot .zero, dgt := { s.dgt with lastKeyErr := 0 } }) ∧
    (k.state = 1 → ∃ t, exec (.keyLoadingTimeout slot) s = .next t ∧ t.keys = s.keys.set slot .zero ∧ t.dgt = s.dgt ∧ t.cmds = s.cmds) ∧
    (s.boot.resetHeld ≠ 2 → (s.drbg.live = false ∨ s.drbg.due = true) →
      exec (.entropyWord word false) s = .next { s with drbg :=
        if s.drbg.words + 1 < (if s.drbg.live then 16 else 32) then { s.drbg with entFail := false, words := s.drbg.words + 1 }
        else { s.drbg with entFail := false, live := true, words := 0, due := false, stop := false, generates := 0 } }) ∧
    (s.drbg.live = true → s.drbg.due = false → exec .drbgReseedDue s = .next { s with drbg := { s.drbg with due := true, words := 0 } }) ∧
    (s.drbg.due = true → ∃ t, exec .drbgReseedTimeout s = .next t ∧ t.drbg = { s.drbg with stop := true, fails := satAdd 16 s.drbg.fails 1 } ∧
      bit t.port.irqStatus 6 = true ∧ t.keys = s.keys)

/-- Reads of the aperture (R54, R160, R511, R512, R513): a read of the lower half of an 8-byte register answers the whole word and keeps its upper half
for the lane, which the read of the upper half after it answers; a read of a word with counters answers and clears them; CHM_RSV_WM clears its
crossings and its peak starts again from the present level; an address that is misaligned or beyond the aperture is answered with ERR 1.

Writes of the aperture (R55, R512, R514): a management write sets the register's fields, one with a reserved bit set is ignored whole, one without
PRIV[5] is answered with ERR 3; the lower half of an 8-byte register waits on its lane and its upper half writes both; an 8-byte write at a pair of
4-byte registers writes both.
Rests also on readings and choices of the model: assumption log entries 20, 23, 25, 27. -/
def Obligations.RegistersAreReadAndWritten : Prop :=
  (∀ (s : State) (a : Access) (addr v : Nat), s.boot.resetHeld ≠ 2 →
     (addr < 0xB000 → addr % 8 = 0 → s.reg64 addr = some v →
       ∃ t, exec (.halfWordRead a addr) s = .next t ∧ (t.lanes.get a.lane).ans = ⟨0, BitVec.ofNat 64 v⟩ ∧
         (t.lanes.get a.lane).latch = some (addr, BitVec.ofNat 32 (v / 2 ^ 32)) ∧ t.chambers = s.chambers ∧ t.mem = s.mem ∧ t.cmds = s.cmds) ∧
     (∀ l, addr < 0xB000 → addr % 8 = 0 → s.reg64 addr = some v → (s.lanes.get a.lane).latch = some (addr, l) →
       ∃ t, exec (.halfWordRead a (addr + 4)) s = .next t ∧ (t.lanes.get a.lane).ans = ⟨0, BitVec.ofNat 64 (v % 2 ^ 32 + l.toNat * 2 ^ 32)⟩ ∧
         (t.lanes.get a.lane).latch = none ∧ t = { s with lanes := t.lanes }) ∧
     (∃ t, exec (.readClearAccess a 0xA030) s = .next t ∧
       (t.lanes.get a.lane).ans = ⟨0, BitVec.ofNat 64 (s.pwr.wakes + (s.pwr.warnLongest + s.pwr.warnEvents * 2 ^ 16) * 2 ^ 32)⟩ ∧
       t = { s with pwr := { s.pwr with wakes := 0, warnEvents := 0, warnLongest := 0 }, lanes := t.lanes }) ∧
     (∀ ch, s.boot.stage = .ready → ch < 32 → privCh a = ch →
       let r := (s.un ch).cap
       ∃ t, exec (.rsvWmRead a ch) s = .next t ∧ (t.lanes.get a.lane).ans = ⟨0, BitVec.ofNat 64
           (b2n r.warnCross + b2n r.stallCross * 2 + r.warnCount * 2 ^ 8 + r.stallCount * 2 ^ 16 + r.peak * 2 ^ 32)⟩ ∧
         (t.un ch).cap = { r with stallCount := 0, warnCount := 0, stallCross := false, warnCross := false, peak := r.level } ∧
         t = { s with units := t.units, lanes := t.lanes }) ∧
     (addr % 4 ≠ 0 ∨ 0x800000 ≤ addr → ∃ t, exec (.readClearAccess a addr) s = .next t ∧ (t.lanes.get a.lane).ans = ⟨1, 0⟩ ∧ bit t.port.irqStatus 6 = true ∧
       t.chambers = s.chambers ∧ t.pwr = s.pwr)) ∧
  (∀ (s : State) (a : Access) (v : BitVec 64) (h : BitVec 32) (e : Ext) (img : Image), s.boot.resetHeld = 0 →
     (s.laneFree a = true → mgmt a = true → v.toNat < 2 ^ 8 → exec (.registerWrite a 0x20 false v e img) s =
       .next (({ s with port := { s.port with irqMask := BitVec.ofNat 8 v.toNat } } : State).answer a 0 0)) ∧
     (s.laneFree a = true → mgmt a = true → 2 ^ 8 ≤ v.toNat → v.toNat < 2 ^ 32 → ∃ t, exec (.registerWrite a 0x20 false v e img) s = .next t ∧ t.port.irqMask = s.port.irqMask ∧
       (t.lanes.get a.lane).ans = ⟨0, 0⟩ ∧ t.chambers = s.chambers ∧ t.pwr = s.pwr) ∧
     (s.laneFree a = true → mgmt a = false → ∃ t, exec (.registerWrite a 0x20 false v e img) s = .next t ∧ t.port.irqMask = s.port.irqMask ∧
       (t.lanes.get a.lane).ans = ⟨3, 0⟩ ∧ bit t.port.irqStatus 6 = true) ∧
     (s.laneFree a = true → mgmt a = true → fld v 31 0 < 2 ^ 24 → fld v 63 32 < 2 ^ 8 →
       exec (.registerWrite a 0x18 true v e img) s = .next (({ s with port := { s.port with
         irqRoute := BitVec.ofNat 24 (fld v 31 0)
         irqStatus := s.port.irqStatus &&& ~~~BitVec.ofNat 8 (fld v 63 32) } } : State).answer a 0 0)) ∧
     (s.laneFree a = true → mgmt a = true → ∃ t, exec (.halfWordWrite a 0xA008 h e img) s = .next t ∧ (t.lanes.get a.lane).held = some (0xA008, h) ∧
       t.pwr = s.pwr ∧ (t.lanes.get a.lane).ans = ⟨0, 0⟩) ∧
     (∀ lo : BitVec 32, (s.lanes.get a.lane).held = some (0xA008, lo) → mgmt a = true → (h ++ lo : BitVec 64) &&& 0xFFF000000000FFFF = 0 →
       ∃ t, exec (.halfWordWrite a 0xA00C h e img) s = .next t ∧ t.pwr = { s.pwr with parkBase := h ++ lo } ∧ (t.lanes.get a.lane).held = none ∧
         (t.lanes.get a.lane).ans = ⟨0, 0⟩ ∧ t = { s with pwr := t.pwr, lanes := t.lanes }))

/-- The control registers (R48, R77, R463, R465, R469, R471, R483, R484): a table that passes its check is locked and measured, and one that fails names
its first failure; a posted image that passes its checks is measured and the service cores are woken; a wake from PASS asks for every domain, and
OFF is entered from PASS; the lamp is lowered, cores are halted and resumed at LAMP2, the sump's general area is cleared, the ring is consumed.
Rests also on readings and choices of the model: assumption log entry 39. -/
def Obligations.ControlRegistersTakeEffect : Prop :=
  ∀ (s : State) (a : Access) (img : Image) (mask : BitVec 3) (v : BitVec 64) (level : Nat), s.laneFree a = true → mgmt a = true →
    (s.port.ilvLocked = false → s.boot.stage = .ready → ilvFailure s.port.ilv s.stileCount = none →
      ∃ t, exec (.ilvApply a) s = .next t ∧ t.port = { s.port with ilvLocked := true, ilvError := 0, ilvEntry := 0 } ∧
        t.dgt = (s.extendSg 3 (sha 1 (ilvBytes s.port.ilv))).dgt ∧ (t.lanes.get a.lane).ans = ⟨0, 0⟩) ∧
    (∀ n k, s.port.ilvLocked = false → s.boot.stage = .ready → ilvFailure s.port.ilv s.stileCount = some (n, k) →
      exec (.ilvApply a) s = .next (({ s with port := { s.port with ilvError := BitVec.ofNat 8 k, ilvEntry := BitVec.ofNat 4 n } } : State).answer a 0 0)) ∧
    (∀ key, s.boot.stage = .waitImage → s.boot.resetHeld = 0 → s.pwr.wakeError = false → s.dom 111 = true → s.dom 103 = true →
      s.boot.sg1Digest ≠ some img.digest → s.checkImage s.boot.fwAddr.toNat s.boot.fwLen.toNat img = .ok key →
      ∃ t, exec (.fwLoad a img) s = .next t ∧ t.dgt = (s.measureImage img key).dgt ∧ t.boot = { s.boot with
          stage := .wake
          error := 0
          imageKey := BitVec.ofNat 2 key
          running := img.version
          imageIndex := img.rollback
          runKey := img.pubKey
          compat := img.liveCompat
          sg1Digest := some img.digest } ∧
        (t.lanes.get a.lane).ans = ⟨0, 0⟩ ∧ t.keys = s.keys) ∧
    (s.pwr.state = .pass → s.boot.stage = .ready → s.pwr.waking = false → s.pwr.scanned = false → s.boot.kxRail = true →
      ∃ t, exec (.pwrWake a) s = .next t ∧ t.pwr.state = .pass ∧ t.pwr.waking = true ∧ t.pwr.target = .run ∧ t.pwr.on = s.pwr.on ∧
        (∀ d, d < 115 → s.domBuilt d = true → bit s.pwr.on d = true ∨ d ∈ t.pwr.queue) ∧ t.boot = s.boot) ∧
    (s.pwr.state = .pass → s.pwr.waking = false →
      ∃ t, exec (.pwrOffReq a) s = .next t ∧ t.pwr.state = .off ∧ bit t.pwr.on 111 = false ∧ t.boot = s.boot ∧ t.mem = s.mem ∧ t.keys = s.keys) ∧
    (level < s.life.level → s.life.level ≤ 3 →
      ∃ t, exec (.lampLower a level) s = .next t ∧ t.life = { s.life with
          level := level
          halt := if level < 2 then 0 else s.life.halt
          halted := if level < 2 then 0 else s.life.halted } ∧
        bit t.port.irqStatus 7 = true ∧ t.keys = s.keys) ∧
    (2 ≤ s.life.level →
      exec (.coreHalt a mask) s = .next (({ s with life := { s.life with halt := s.life.halt ||| mask, halted := s.life.halt ||| mask } } : State).answer a 0 0) ∧
      exec (.coreResume a mask) s =
        .next (({ s with life := { s.life with halt := s.life.halt &&& ~~~mask, halted := s.life.halt &&& ~~~mask } } : State).answer a 0 0)) ∧
    (exec (.sumpClear a) s = .next (({ s with sump := { s.sump with entries := s.sump.entries.filter fun e => e.fatalArea } } : State).answer a 0 0)) ∧
    (s.sump.cons ≤ v.toNat → v.toNat ≤ s.sump.prod → exec (.spillConsume a v) s = .next (({ s with sump := { s.sump with cons := v.toNat } } : State).answer a 0 0))

/-- The inline ports (R39, R40, R42, R46, R66, R147, R155): a host read goes on at once; a host write stores its enabled bytes and its granule's bits
change by Table 3 of chapter 06; a write to a granule owed to the open capture is held until the copy of the granule is safe; a response to a
host request goes out; a stile's reset drops what its pass-through holds and its granules count as DIRTY, and its release takes requests again.
Rests also on readings and choices of the model: assumption log entry 66. -/
def Obligations.InlinePortsCarryRequests : Prop :=
  ∀ (s : State) (st : Nat) (r : HReq), let t := s.st st
    let g := r.addr.toNat / 65536
    (s.hreqReady st = true → (∀ h ∈ t.held, h.granule ≠ g) → r.op = 0 → exec (.hreqRequest st r) s = .next (s.onSt st fun t =>
      { t with lastMreq := some (r, false), passing := t.passing ++ [⟨r.tag, false, r.beats⟩] })) ∧
    (∀ loc, s.hreqReady st = true → (∀ h ∈ t.held, h.granule ≠ g) → r.op = 1 → r.be.any id = true → t.moverOn = true → t.isOpen = false →
      s.place g = some (st, loc) → s.stepOf g = none →
      ∃ u, exec (.hreqRequest st r) s = .next u ∧
        (∀ i, i < 128 * r.beats → u.mem.bytes.get (r.addr.toNat + i) = if r.be.getD i false then r.data.getD i 0 else s.mem.bytes.get (r.addr.toNat + i)) ∧
        (∀ k, k < r.addr.toNat ∨ r.addr.toNat + 128 * r.beats ≤ k → u.mem.bytes.get k = s.mem.bytes.get k) ∧
        (u.st st).bits loc = (if t.bits loc = gClean then gDirty else if t.bits loc = gTaken then gOwed else t.bits loc) ∧
        (u.st st).lastMreq = some (r, false) ∧ (∀ k, k ≠ st → u.st k = s.st k) ∧ u = { s with mem := u.mem, stiles := u.stiles }) ∧
    (∀ loc run, s.hreqReady st = true → t.held = [] → r.op = 1 → r.be.any id = true → t.moverOn = true → t.removed = false → t.isOpen = true →
      s.cap.run = some run → s.place g = some (st, loc) → t.bits loc = gOwed → 0 < t.rebateFree → s.stepOf g = none →
      ∃ u k, exec (.hreqRequest st r) s = .next u ∧ (u.st st).held = [⟨r, g, true, false⟩] ∧ (u.st st).copies = t.copies ++ [k] ∧ k.granule = g ∧
        k.data = (s.granRead g).1 ∧ k.reserve = none ∧ k.ready = false ∧ (u.st st).bits loc = gTaken ∧ (u.st st).lastMreq = t.lastMreq ∧ u.mem = s.mem) ∧
    (∀ p, st < s.stileCount → t.inReset = false → bit p.tag 16 = false → ∃ u, exec (.mrspResponse st p) s = .next u ∧ (u.st st).lastHrsp = some p ∧
      (∀ k, k ≠ st → u.st k = s.st k) ∧ u = { s with stiles := u.stiles }) ∧
    (st < s.stileCount → s.cap.run = none → (∀ u ∈ s.tags, ∀ n w, u.tag = .mreq st n w → u.heldOut = true) →
      ∃ u, exec (.stileReset st) s = .next u ∧ (u.st st).inReset = true ∧ (u.st st).held = [] ∧ (u.st st).passing = [] ∧
        (∀ loc, (u.st st).gran.get loc = gDirty) ∧ (∀ k, k ≠ st → u.st k = s.st k) ∧ u = { s with stiles := u.stiles }) ∧
    (st < s.stileCount → exec (.stileResetRelease st) s = .next (s.onSt st fun t => { t with inReset := false }))

/-- Answers to Krytra's own requests (R39, R50, R52, R476, R478): data for an outstanding read is kept for it; an acknowledgement frees its tag; a tag
that names no outstanding request is a violation of the partner; a tag without an answer in time counts as answered with ERR and stays out of
its pool.
Rests also on readings and choices of the model: assumption log entry 15. -/
def Obligations.AnswersMatchTheirTags : Prop :=
  ∀ (s : State) (st port tag : Nat) (data : List Byte) (r : MResp) (u : TagUse),
    (s.boot.resetHeld ≠ 2 → port < s.fabPorts → s.dom (111 + port) = true → s.tags.find? (fun u => u.tag == .fab port tag false) = some u →
      u.heldOut = false → (∀ w ∈ s.trk.answers, w.use ≠ u) →
      exec (.fabReadData port tag data false false) s = .next { s with trk := { s.trk with
        answers := s.trk.answers ++ [⟨u, (padTo 128 data).map fun b => (b, false), false, false⟩] } }) ∧
    (s.boot.resetHeld ≠ 2 → port < s.fabPorts → s.dom (111 + port) = true → s.tags.find? (fun u => u.tag == .fab port tag true) = some u →
      u.stream = none → exec (.fabWriteAck port tag false) s = .next { s with tags := s.tags.erase u }) ∧
    (s.boot.resetHeld ≠ 2 → port < s.fabPorts → s.dom (111 + port) = true → s.tags.find? (fun u => u.tag == .fab port tag true) = none →
      ∃ t, exec (.fabWriteAck port tag false) s = .next t ∧ bit t.port.irqStatus 6 = true ∧ t.tags = s.tags ∧ t.trk = s.trk ∧ t.mem = s.mem) ∧
    (st < s.stileCount → (s.st st).inReset = false → bit r.tag 16 = true → r.kind = true →
      s.tags.find? (fun u => u.tag == .mreq st (r.tag.toNat % 65536) true) = some u → u.stream = none →
      exec (.mrspResponse st r) s = .next { s with tags := s.tags.erase u }) ∧
    (st < s.stileCount → (s.st st).inReset = false → bit r.tag 16 = true → s.tags.find? (fun u => u.tag == .mreq st (r.tag.toNat % 65536) r.kind) = none →
      ∃ t, exec (.mrspResponse st r) s = .next t ∧ bit t.port.irqStatus 6 = true ∧ t.tags = s.tags ∧ t.trk = s.trk ∧ t.mem = s.mem) ∧
    (∀ ref, s.tags.find? (fun u => u.tag == ref && !u.heldOut) = some u → u.stream = none →
      ∃ t v, exec (.tagTimeout ref) s = .next t ∧ t.tags = s.tags.map (fun w => if w = u then v else w) ∧ v.heldOut = true ∧ v.tag = u.tag ∧
        bit t.port.irqStatus 6 = true ∧ t.mem = s.mem ∧ t.stiles = s.stiles)

/-- ANCHOR_SET, REPLICA_DIGEST and PEER_CONFIG (R355, R357, R358, R373, R377): an accepted list of one site block is anchored, its anchor the block's
weights in the anchor type; the digest of a one-member region is that of its one shard; a peer is enabled with empty rings and disabled.
Rests also on readings and choices of the model: assumption log entry 49. -/
def Obligations.SitesAreSetUp : Prop :=
  ∀ (s : State) (x0 x : Sub) (e : Ext), e.readErr = false → e.writeErr = false →
    let ch := x.chamber
    let z := s.site ch
    let t := fld x.b 3 0
    let ids := s.idList z.listAddr.toNat z.listLen
    let lo := x.a.toNat / 65536
    let acc := (s.ch ch).siteMode == 2
    let hi := lo + areaGranules 1 t acc z.outer
    let own := fld x.a 13 8
    let site := x.handle.toNat
    let pages := fld x.d 23 0
    (∀ k, s.holdsCmd (.anchorSet x0 e) x → (s.ch ch).siteMode ≠ 0 → (s.un ch).step.phase = .idle → s.siteBusy x = false → s.siteListBad ch ids = none → ids ≠ [] →
      s.siteBlks ids t = [k] → ((s.regionsNamed ids).map fun r => r.siteBlocks t).sum = 1 → s.inWin ch (lo * 65536) ((hi - lo) * 65536) = true →
      s.meetsRegion lo hi = false → s.meetsReserve lo hi = false → s.meetsSite ch lo hi = false →
      let w := (s.weights k t).map fun p => (roundTo t p.1, p.2)
      (∀ p ∈ w, finiteBits (fmtOf t) p.1 = true) →
      ∃ u, Ends (.anchorSet x0 e) s x sOk 1 1 u ∧ (u.site ch).anchored = true ∧ (u.site ch).area = lo ∧ (u.site ch).blocks = 1 ∧ (u.site ch).regions = ids ∧
        (u.site ch).anchorType = t ∧ (u.site ch).seqSet = false ∧ (u.site ch).contrib = [] ∧ (u.site ch).peers = z.peers ∧
        u.peek (lo * 65536) 65536 = padTo 65536 (w.flatMap fun p => leBytes (elemSize t) p.1) ∧ u.regions = s.regions ∧ u.sync = s.sync) ∧
    (∀ r, s.holdsCmd (.replicaDigest x0 e) x → x.handle ≠ 0 → s.region x.handle.toNat = some r → r.coord.members = 1 →
      let d := sha 1 ([0x10] ++ leBytes 8 x.a.toNat ++ leBytes 4 1 ++ (leBytes 4 (r.coord.tensor 0).toNat ++ padTo 48 (r.coord.starts.flatMap (leBytes 8)) ++
        digestBytes (s.memberDigest r 0)))
      Ends (.replicaDigest x0 e) s x sOk (BitVec.ofNat 64 (leNat (d.take 8))) r.coord.leaves (s.poke x.b.toNat d)) ∧
    (s.holdsCmd (.peerEnable x0 e) x → (s.ch ch).siteMode ≠ 0 → s.siteBusy x = false → own ≠ 0 → own ≠ site → (z.own = 0 ∨ z.own = own) → z.peers = .const .zero →
      18 ≤ pages → s.ringBad ch 0 x.b.toNat pages x.c.toNat = false → s.ringBad ch 0 x.c.toNat pages x.b.toNat = false →
      ∃ u, Ends (.peerEnable x0 e) s x sOk 0 0 u ∧ (u.site ch).own = own ∧
        (u.site ch).peers.get 0 = { Peer.zero with
          used := true
          enabled := true
          v2 := bit x.a 1
          site := site
          rxBase := x.b.toNat
          txBase := x.c.toNat
          pages := pages } ∧
        u.mem = ((s.poke x.b.toNat (zeros 4096)).poke x.c.toNat (zeros 4096)).mem ∧ u.sync = s.sync) ∧
    (∀ p q, s.holdsCmd (.peerDisable x0 e) x → (s.ch ch).siteMode ≠ 0 → s.siteBusy x = false → own ≠ 0 → own ≠ site → (z.own = 0 ∨ z.own = own) →
      z.peers.entries.find? (fun p => p.2.used && p.2.site == site) = some (p, q) → 18 ≤ pages → s.ringBad ch p x.b.toNat pages x.c.toNat = false →
      s.ringBad ch p x.c.toNat pages x.b.toNat = false → s.siteStill ch = true → z.contrib = [] →
      ∃ u, Ends (.peerDisable x0 e) s x sOk 0 0 u ∧ ((u.site ch).peers.get p).enabled = false ∧ ((u.site ch).peers.get p).site = site ∧ u.mem = s.mem ∧ u.sync = s.sync)

/-- DELTA_EMIT and DELTA_APPLY (R359, R360, R361, R368, R369), for a site set of one block: an emission towards one peer writes one frame and the chamber has
emitted the sequence; an apply whose one contribution, the own, is in the accumulator runs the outer program once, clears the block's mask and the chamber
has applied the sequence, its result the contributing sites, its status APPLY_NONFINITE where an output is not finite.
Rests also on readings and choices of the model: assumption log entry 7. -/
def Obligations.DeltasAreEmittedAndApplied : Prop :=
  ∀ (s : State) (x0 x : Sub) (e : Ext) (k : SiteBlk), e.writeErr = false →
    let ch := x.chamber
    let z := s.site ch
    let q : BitVec 32 := BitVec.ofNat 32 (fld x.a 31 0)
    z.anchored = true → s.siteBusy x = false → s.siteStill ch = true → s.blks ch = [(0, k)] → (s.un ch).step.phase = .idle →
    (∀ p t, s.holdsCmd (.deltaEmit x0 e) x → (s.ch ch).siteMode ≠ 0 → (z.seqSet = false ∨ q = seqNext z.emitted ∧ z.applied = z.emitted) →
      (s.ch ch).sealed = false → (s.ch ch).flow = false → z.emitOpen = false → z.enabledPeers = [(p, t)] → z.peers.get p = t → 2 ≤ t.pages →
      t.txRoom (sdxPages 65536) = true →
      ∃ u st, Ends (.deltaEmit x0 e) s x st 1 1 u ∧ (st = sOk ∨ st = sOkPartial) ∧ (u.site ch).emitted = q ∧ (u.site ch).emitOpen = false ∧
        (u.site ch).seqSet = true ∧ t.txProd < ((u.site ch).peers.get p).txProd ∧ (u.site ch).contrib = z.members ∧ (∀ j, u.keys.get j = s.keys.get j) ∧ u.regions = s.regions) ∧
    (s.holdsCmd (.deltaApply x0 e) x → extStatus x = false → (s.ch ch).siteMode = 2 → z.accUse = true → z.seqSet = true → q = seqNext z.applied → z.emitted = q →
      outerBad ((s.un ch).progs.get (fld x.c 2 0)) z.outerUse = false → s.now < x.b.toNat → z.peers.entries = [] → z.contrib = [z.own] → z.own < 64 →
      (s.siteRec ch 0).applied = false → (s.siteRec ch 0).mask = setBit 0 z.own true → (s.siteRec ch 0).missing = 0 →
      ∃ t st, exec (.deltaApply x0 e) s = .next t ∧ (st = sOk ∨ st = sApplyNonfinite) ∧
        t.fins = s.fins ++ [⟨ch, x.sq, x.cid, st, setBit 0 z.own true⟩] ∧ t.cmds = s.cmds.filter (fun c => !isCmd x c) ∧ (t.site ch).applied = q ∧
        (t.site ch).run = none ∧ (t.site ch).contrib = [] ∧ (t.siteRec ch 0).mask = 0 ∧ t.keys = s.keys)

/-- The rings of a site's peers (R364, R365, R366): a poll, and a kick of the peer's bit, read its two counts; a PAD is consumed and the consumer count
published; a frame with a bad trailer is counted and consumed; a contribution that is usable sets its site in its block's mask.
Rests also on readings and choices of the model: assumption log entry 50. -/
def Obligations.PeerRingsAreRead : Prop :=
  ∀ (s : State) (ch p : Nat) (e : Ext) (f : SdxFrame), e = .good → s.peerUp ch p = true → s.siteStill ch = true →
    let z := s.site ch
    let t := z.peers.get p
    let rx := leNat (s.peek t.rxBase 8)
    let tx := leNat (s.peek (t.txBase + 64) 8)
    (z.contrib = [] → t.rxProd ≤ rx → rx ≤ t.rxCons + (t.pages - 1) → t.txCons ≤ tx → tx ≤ t.txProd →
      (∀ i, i = .sdxRingPoll ch p e ∨ (∃ a m, i = .sdxKick a ch m ∧ ch < 32 ∧ p < 15 ∧ s.pageOpen a ch = true ∧ ∀ j, j < 15 → bit m j = (j == p)) →
        ∃ u, exec i s = .next u ∧ (u.site ch).peers.get p = { t with rxProd := rx, txCons := tx } ∧
          (∀ j, j ≠ p → (u.site ch).peers.get j = z.peers.get j) ∧ u = { s with units := u.units, free := u.free, lanes := u.lanes })) ∧
    (z.contrib = [] → z.anchored = true → t.rxNext < t.rxProd → f = (s.sdxAt t t.rxNext).1 → f.kind = 0 → 0 < f.n → t.rxNext + f.n ≤ t.rxProd →
      bytesAt (s.peek (ringAt t.rxBase t.pages t.rxNext) 64) 0 2 = [0x53, 0x58] →
      ∃ u, exec (.sdxFrameReceive ch p e) s = .next u ∧ (u.site ch).peers.get p = { t with rxNext := t.rxNext + f.n, rxCons := t.rxNext + f.n } ∧
        u.peek (t.rxBase + 64) 8 = leBytes 8 (t.rxNext + f.n) ∧ u = { s with units := u.units, mem := u.mem }) ∧
    (z.contrib = [] → z.anchored = true → t.rxNext < t.rxProd → f = (s.sdxAt t t.rxNext).1 → f.kind ≠ 0 → (s.sdxAt t t.rxNext).2.2.1 = false →
      ∃ u, exec (.sdxFrameReceive ch p e) s = .next u ∧ u.ciph = { s.ciph with sdxMis := satAdd 16 s.ciph.sdxMis 1 } ∧
        t.rxNext < ((u.site ch).peers.get p).rxNext ∧ ((u.site ch).peers.get p).rxCons = ((u.site ch).peers.get p).rxNext ∧
        ((u.site ch).peers.get p).viol = t.viol) ∧
    (∀ n k l, s.nextFrame ch p f → f.kind = 1 → f.sealed = false → f.source < 64 → s.sdxBlock ch f = some (n, k, 0) → s.classify ch f n 0 = .use → z.contrib = [f.source] →
      z.own ≠ f.source → sdxElems f f.payload (k.count z.anchorType) false = some l →
      (t.rxBase + 72 ≤ z.recAt n ∨ z.recAt n + 64 ≤ t.rxBase + 64) →
      ∃ u, exec (.sdxFrameReceive ch p e) s = .next u ∧ bit (u.siteRec ch n).mask f.source = true ∧
        ((u.site ch).peers.get p).rxNext = t.rxNext + max (sdxPages f.n) 1 ∧ ((u.site ch).peers.get p).rxCons = t.rxNext + max (sdxPages f.n) 1 ∧
        (u.site ch).late = z.late ∧ (u.site ch).dup = z.dup)

/-- NACK, CATCHUP_REQ and the timers of an apply (R368, R370, R371, R372), for a site set of one block in an unsealed chamber without FLOW: a NACK and a
catch-up request of another sequence are ignored and counted; those of the present one are answered with the block's frame; the NACK lead timer asks
each contributor whose block is missing; at its deadline a catch-up that is not whole ends with OK_PARTIAL, and an apply marks the absent
contributor missing, skips the block and ends with OK_PARTIAL.
Rests also on readings and choices of the model: assumption log entry 40. -/
def Obligations.SitesRepairAndCatchUp : Prop :=
  ∀ (s : State) (ch p : Nat) (e : Ext) (f : SdxFrame) (k : SiteBlk), e = .good → (s.ch ch).sealed = false → (s.ch ch).flow = false → s.blks ch = [(0, k)] →
    let z := s.site ch
    let t := z.peers.get p
    let lo := t.rxNext + max (sdxPages f.n) 1
    (∀ i, (i = .sdxNack ch p e ∧ f.kind = 3 ∧ f.seq ≠ z.emitted ∨ i = .sdxCatchupReq ch p e ∧ f.kind = 4 ∧ f.seq ≠ z.applied) → s.peerUp ch p = true →
      s.siteStill ch = true → s.nextFrame ch p f → f.sealed = false → z.contrib = [] →
      ∃ u, exec i s = .next u ∧ (u.site ch).ignored = satAdd 16 z.ignored 1 ∧ (u.site ch).peers.get p = { t with rxNext := lo, rxCons := lo } ∧ u.keys = s.keys) ∧
    (s.peerUp ch p = true → s.siteStill ch = true → s.nextFrame ch p f → f.kind = 3 → f.sealed = false → z.contrib = [] → z.seqSet = true → f.seq = z.emitted →
      f.payload.length = 16 → BitVec.ofNat 32 (leAt f.payload 0 4) = k.reg.coord.tensor k.m → leAt f.payload 4 6 ≤ k.b →
      k.b < leAt f.payload 4 6 + leAt f.payload 12 4 → (s.siteRec ch 0).emitted = true → (s.siteRec ch 0).void_ = false →
      17 ≤ t.pages - 1 - t.txProd % (t.pages - 1) → t.txRoom 17 = true →
      ∃ u, exec (.sdxNack ch p e) s = .next u ∧ (u.site ch).peers.get p = { t with rxNext := lo, rxCons := lo, txProd := t.txProd + 17 } ∧
        (u.site ch).ignored = z.ignored ∧ u.keys = s.keys) ∧
    (s.peerUp ch p = true → s.siteStill ch = true → s.nextFrame ch p f → f.kind = 4 → f.sealed = false → z.contrib = [] → z.seqSet = true → (s.ch ch).siteMode = 2 →
      f.seq = z.applied → z.outerUse = false → 1 ≤ z.blocks → s.clamps = [] → 17 ≤ t.pages - 1 - t.txProd % (t.pages - 1) → t.txRoom 17 = true →
      ∃ u, exec (.sdxCatchupReq ch p e) s = .next u ∧ (u.site ch).peers.get p = { t with rxNext := lo, rxCons := lo, txProd := t.txProd + 17 } ∧
        (u.site ch).serveQ = [] ∧ u.clamps = [] ∧ (u.site ch).ignored = z.ignored ∧ u.keys = s.keys) ∧
    (∀ r, z.run = some r → r.catchup = false → r.nacked = false → r.lead ≠ 0 → z.enabledPeers = [(p, t)] → t.v2 = true → t.parkedAt = [] → z.contrib.contains t.site = true →
      (s.siteRec ch 0).applied = false → bit (s.siteRec ch 0).mask t.site = false → 2 ≤ t.pages → t.txRoom 1 = true →
      ∃ u, exec (.nackLeadTimer ch e) s = .next u ∧ (u.site ch).run = some { r with nacked := true } ∧
        ((u.site ch).peers.get p).txProd = t.txProd + 1 ∧ u.cmds = s.cmds ∧ u.fins = s.fins) ∧
    (∀ r c, z.run = some r → s.cmd? r.sub = some c → c.twin = false → r.sub.chamber = ch → extStatus r.sub = false → z.serveQ = [] → z.peers.entries = [] →
      (r.catchup = true → (s.siteRec ch 0).caught = false →
        ∃ u, exec (.deltaDeadline ch e) s = .next u ∧ u.fins = s.fins ++ [⟨ch, r.sub.sq, r.sub.cid, sOkPartial, r.sites⟩] ∧ (u.site ch).run = none ∧
          (u.site ch).applied = z.applied) ∧
      (∀ d, r.catchup = false → z.contrib = [d] → d ≠ z.own → d < 64 → 1 ≤ z.blocks → (s.siteRec ch 0).applied = false → bit (s.siteRec ch 0).mask d = false →
        r.nonfinite = 0 →
        ∃ u, exec (.deltaDeadline ch e) s = .next u ∧ u.fins = s.fins ++ [⟨ch, r.sub.sq, r.sub.cid, sOkPartial, 0⟩] ∧ (u.site ch).run = none ∧
          (u.site ch).applied = BitVec.ofNat 32 (fld r.sub.a 31 0) ∧ (u.siteRec ch 0).mask = 0))

/-- Resets (R65, R66, R520, R85, R75): KX_COLD_RST_N, and the loss of VDD_KA, return every register to its reset value and leave fuses, media and
memory; its release reads the lifecycle state from the fuses and waits for the image or, in SPENT, ends in PASS_ONLY; KX_WARM_RST_N ends all
commands and keeps what the chapters keep; its release runs the image that was measured last without measuring it again.
Rests also on readings and choices of the model: assumption log entries 10, 18, 27, 58. -/
def Obligations.ResetsRestart : Prop :=
  ∀ (s : State) (burn : Burn) (img : Image),
    (∀ c, (c = .coldResetAssert ∨ c = .vddKaLoss) → (∀ st, (s.st st).held = []) → ∃ t, exec c s = .next t ∧ t.boot = { State.reset.boot with
        resetHeld := 2
        fuses := s.boot.fuses } ∧
      t.chambers = State.reset.chambers ∧ t.units = State.reset.units ∧ t.regions = State.reset.regions ∧ t.keys = State.reset.keys ∧ t.pwr = State.reset.pwr ∧
      t.dgt = State.reset.dgt ∧ t.sync = State.reset.sync ∧ t.trk = State.reset.trk ∧ t.sump = State.reset.sump ∧ t.svc = State.reset.svc ∧ t.jig = State.reset.jig ∧
      t.cap = State.reset.cap ∧ t.cmds = [] ∧ t.fins = [] ∧ t.clamps = [] ∧ t.lanes = State.reset.lanes ∧ t.sto.media = s.sto.media ∧ t.mem = s.mem ∧
      t.build = s.build ∧ t.pending = s.pending) ∧
    (∀ b, b = { s.boot with fuseErr := [] } → s.boot.resetHeld = 2 → b.pendingCode = none → ∃ t, exec (.coldReset burn []) s = .next t ∧ t.boot.resetHeld = 0 ∧ t.boot.fuses = s.boot.fuses ∧
        t.life.life = (Life.ofCode b.lifeCode).getD .manuf ∧ t.life.pending = none ∧
        t.boot.stage = (if b.lifeCode = 5 then .passOnly else if s.boot.kxRail then .waitImage else .fuses) ∧
        t.dgt.sgCount.get 0 = s.dgt.sgCount.get 0 + 2 ∧ t.mem = s.mem) ∧
    (s.boot.resetHeld ≠ 2 → s.boot.stage ≠ .passOnly → s.cap.run = none → s.cap.waits = [] → (∀ st, (s.st st).held = []) →
      ∃ t, exec .warmResetAssert s = .next t ∧ t.boot.resetHeld = 1 ∧ t.boot.stage = .rom ∧ t.boot.fuses = s.boot.fuses ∧ t.boot.sg1Digest = s.boot.sg1Digest ∧
        t.cmds = [] ∧ t.fins = [] ∧ t.clamps = [] ∧ t.chambers = State.reset.chambers ∧ t.regions = State.reset.regions ∧ t.trigs = State.reset.trigs ∧
        t.life = s.life ∧ t.dgt.sg = s.dgt.sg ∧ t.dgt.hslots = s.dgt.hslots ∧ t.svc.reasons = s.svc.reasons ∧ t.sump.entries = s.sump.entries ∧
        t.sto.media = s.sto.media ∧ t.sto.mount = State.reset.sto.mount ∧ t.timeIn = s.timeIn ∧ t.mem = s.mem ∧ t.build = s.build) ∧
    (s.boot.resetHeld = 1 → s.pwr.scanned = false → s.dom 111 = true → s.dom 103 = true → s.boot.sg1Digest = some img.digest → img.fetchErr = false →
      ∃ t, exec (.warmReset img) s = .next t ∧ t.boot.resetHeld = 0 ∧ t.boot.stage = .wake ∧ t.boot.error = 0 ∧ t.boot.running = img.version ∧ t.dgt = s.dgt ∧
        (∀ d, 96 ≤ d → d ≤ 98 → bit s.pwr.on d = true ∨ d ∈ t.pwr.queue) ∧ t.life = s.life)

/-- The wakes of domains (R64, R75, R472, R473): the bucket holds no more than the larger of 4 and the budget; the first queued wake starts once its cost is
there and not while SUPPLY_WARN is high, which is counted and timed; a hub domain that has come up is usable, and the last one of a start-up
brings stage READY and power state RUN with a new nonce; the rail brings a waiting start-up on and its loss switches every domain off.
Rests also on readings and choices of the model: assumption log entry 4. -/
def Obligations.DomainsWake : Prop :=
  ∀ (s : State) (v : BitVec 8) (img : Image),
    (exec (.wakeBudgetChange v) s = .next { s with
      port := { s.port with wakeBudget := v }
      pwr := { s.pwr with tokens := min s.pwr.tokens (max v.toNat 4) } }) ∧
    (s.boot.resetHeld ≠ 2 → s.port.supplyWarn = false → exec (.supplyWarn true) s = .next { s with
      port := { s.port with supplyWarn := true }
      timeUsed := s.now
      pwr := { s.pwr with warnEvents := satAdd 16 s.pwr.warnEvents 1, warnSince := some s.now } }) ∧
    (∀ t, s.boot.resetHeld ≠ 2 → s.port.supplyWarn = true → s.pwr.warnSince = some t → exec (.supplyWarn false) s = .next { s with
      port := { s.port with supplyWarn := false }
      timeUsed := s.now
      pwr := { s.pwr with warnLongest := max s.pwr.warnLongest (min ((s.now - t) / 1000) 65535), warnSince := none } }) ∧
    (∀ d r, s.pwr.queue = d :: r → s.pwr.scanned = false → s.boot.kxRail = true → domCost d ≤ s.pwr.tokens →
      (s.port.supplyWarn = false → exec .wakeStart s = .next { s with pwr := { s.pwr with
        queue := r
        on := setBit s.pwr.on d true
        ramping := s.pwr.ramping ++ [d]
        tokens := s.pwr.tokens - domCost d
        wakes := satAdd 32 s.pwr.wakes 1 } }) ∧
      (s.port.supplyWarn = true → exec .wakeStart s = .next s)) ∧
    (∀ d, 96 ≤ d → d ∈ s.pwr.ramping → s.pwr.waking = false → s.jig.waitSlice = none →
      (s.boot.stage = .ready → exec (.domainWakeComplete d img) s = .next { s with pwr := { s.pwr with ramping := s.pwr.ramping.filter (· != d) } }) ∧
      (s.boot.stage = .init → (∀ k ∈ s.allDoms, bit s.pwr.on k = true ∧ (k ∈ s.pwr.ramping → k = d)) →
        ∃ t, exec (.domainWakeComplete d img) s = .next t ∧ t.boot.stage = .ready ∧ t.pwr.state = .run ∧ t.life.nonce = s.draw.1 ∧ t.cmds = s.cmds ∧ t.mem = s.mem)) ∧
    (s.boot.resetHeld ≠ 2 → s.boot.stage = .fuses → s.pwr.waking = false → s.pwr.scanned = false → 1 ≤ s.fabPorts →
      ∃ t, exec (.kxRailDetect true) s = .next t ∧ t.boot = { s.boot with kxRail := true, stage := .waitImage } ∧
        (bit s.pwr.on 111 = true ∨ 111 ∈ t.pwr.queue) ∧ (bit s.pwr.on 103 = true ∨ 103 ∈ t.pwr.queue) ∧ t.mem = s.mem) ∧
    (∀ c, (c = .kxRailDetect false ∨ c = .vddKxRemoval ∧ s.pwr.state = .off) → s.boot.resetHeld ≠ 2 → s.cap.run = none →
      ∃ t, exec c s = .next t ∧ t.boot = { s.boot with kxRail := false } ∧ (∀ d, d < 115 → bit t.pwr.on d = false) ∧ t.keys = s.keys ∧ t.life = s.life)

/-- LEAN and PASS (R445, R446, R468, R470): in LEAN an idle domain goes off; a quiet block with PASS as its target and a park area that holds the
record unmounts its stores, switches off all but FABM0 and is in PASS.
Rests also on readings and choices of the model: assumption log entries 4, 11, 12. -/
def Obligations.PowerStatesMove : Prop :=
  ∀ (s : State) (d : Nat) (e : Ext),
    (s.pwr.state = .lean → s.dom d = true → s.domBuilt d = true → s.domIdle d = true → 96 ≤ d → d ≠ 95 + s.svc.standby →
      exec (.idleTimer d) s = .next { s with pwr := { s.pwr with
        on := setBit s.pwr.on d false
        ramping := s.pwr.ramping.filter (· != d)
        queue := s.pwr.queue.filter (· != d) } }) ∧
    ((s.pwr.state = .run ∨ s.pwr.state = .lean) → s.pwr.target = .pass → s.boot.stage = .ready → s.boot.resetHeld = 0 → s.life.halted = 0 → s.quiet = true →
      s.parkFits = true → storeFault e = none →
      ∃ t, exec (.passEntry e) s = .next t ∧ t.pwr.state = .pass ∧ t.sto.mount = .const none ∧
        t.pwr.parkStores = s.sto.mount.entries.filterMap (fun p => p.2.map fun i => (p.1, i)) ∧ (∀ k, k < 115 → k ≠ 111 → bit t.pwr.on k = false) ∧
        t.keys = s.keys ∧ t.regions = s.regions ∧ t.sync = s.sync)

/-- The test port (R70, R462, R463, R507): a request below the lamp's level lowers it, one above it within the ceiling draws a challenge; a good answer
gives the level asked for and a bad one starts the back-off, whose end is an event; a manual session is opened where it is granted, runs the slice asked for, and ends when its instruction is left.
Rests also on readings and choices of the model: assumption log entries 8, 59. -/
def Obligations.TestPortIsHeard : Prop :=
  ∀ (s : State) (v : BitVec 8) (r t : BitVec 384) (w : BitVec 64) (o : SliceOutcome), s.boot.resetHeld ≠ 2 →
    (v.toNat < s.life.level → s.life.level ≤ 3 → ∃ u, exec (.lampUnlockRequest v) s = .next u ∧ u.life.level = v.toNat ∧ u.keys = s.keys ∧ bit u.port.irqStatus 7 = true) ∧
    (v.toNat < 4 → s.life.level < v.toNat → v.toNat ≤ s.life.ceiling → s.boot.stage = .ready → s.life.backoff = false →
      ∃ u, exec (.lampUnlockRequest v) s = .next u ∧ u.life = { s.life with request := some (v.toNat, s.draw.1) } ∧ u.sump = s.sump ∧ u.dgt = s.dgt) ∧
    (∀ l n, s.life.request = some (l, n) → r ≠ 0 →
      ∃ u, exec (.lampUnlockResponse r t) s = .next u ∧ u.life.request = none ∧
        (if s.life.life = .manuf ∧ s.unsigned = true ∨ s.signedBy (s.challenge.take 48) r t = true
         then u.life.level = l ∧ u.life.fails = 0 ∧ u.life.life = s.life.life
         else u = { s with life := { s.life with request := none, fails := satAdd 8 s.life.fails 1, backoff := true } })) ∧
    (exec .lampBackoffExpiry s = .next { s with life := { s.life with backoff := false } }) ∧
    (s.jigAllowed = true → s.jig.manual = false → ∀ c, (c = .jigManualSession true ∨ c = .tapInstruction 0x21) → exec c s = .next { s with
      life := { s.life with tapIr := 0x21 }
      jig := { s.jig with manual := true, inSession := 0, lastRes := 0, lastClass := 0, lastUnit := 0, lastSeg := 0 } }) ∧
    (s.jig.slice = none → ∀ c, (c = .jigManualSession false ∨ c = .tapInstruction 0x3F) → ∃ u, exec c s = .next u ∧ u.jig.manual = false ∧
      u.life = { s.life with tapIr := 0x3F } ∧ u.jig.run = s.jig.run ∧ u.cmds = s.cmds) ∧
    (∀ p, s.jig.manual = true → s.jig.slice = none → bit w 63 = true → bit w 62 = false → s.posOf (fld w 59 58) (fld w 57 48) = some p → fld w 47 0 = 0 →
      fld w 61 60 ≠ 3 → s.pwr.state = .run → inWindow o.vdd o.tj = true → s.dom 110 = true → s.dom (s.unitDom p) = true → s.unitFree p = true →
      exec (.jigManualSlice w o) s = .next { s with jig := { s.jig with
        vdd := o.vdd
        tj := o.tj
        slice := some (p, fld w 61 60, 1)
        waitSlice := none
        deferred := false } })

/-- SELF_TEST (R503, R505, R506): outside a manual session and with no slice running, every unit in service is tested once; where every unit passes
the status is SUCCESS, no unit failed, and the units are how many were tested.

The self-test (R501, R503, R504, R505): a periodic slice takes the unit at the sweep position where it is free and the monitors are in the window, and the
sweep moves on; a slice that yields is tried again; a slice that passes is counted for its unit; a manual slice starts when the window holds again; a
cell that fails its own check gives its index to the spare.
Rests also on readings and choices of the model: assumption log entries 4, 64, 65. -/
def Obligations.SelfTestsRun : Prop :=
  (∀ (s : State) (x0 x : Sub) (e : Ext) (o : SliceOutcomes), s.holdsCmd (.selfTest x0 e o) x → s.jig.manual = false → s.jig.slice = none →
     let units := (List.range s.sweepLen).filter fun p => !s.unitFailed p
     s.dom 110 = true → (∀ p ∈ units, s.dom (s.unitDom p) = true) → inWindow s.jig.vdd s.jig.tj = true → o.failed = [] →
     ∃ u, Ends (.selfTest x0 e o) s x sOk 0 units.length u ∧ u.jig.run = s.jig.run + units.length ∧
       u.jig.yieldAll = s.jig.yieldAll + o.yields ∧ u.mem = s.mem ∧ u.chambers = s.chambers ∧ u.regions = s.regions ∧ u.keys = s.keys) ∧
  (∀ (s : State) (o : SliceOutcome) (st cell : Nat),
     (s.periodicOn = true → s.dom 110 = true → inWindow o.vdd o.tj = true → s.jig.passedOver = [] → s.jig.sweep + 1 < s.sweepLen →
       s.unitFailed s.jig.sweep = false → s.dom (s.unitDom s.jig.sweep) = true → s.unitFree s.jig.sweep = true →
       exec (.periodicSlice o) s = .next { s with jig := { s.jig with
         vdd := o.vdd
         tj := o.tj
         slice := some (s.jig.sweep, 1, 0)
         sweep := s.jig.sweep + 1 } }) ∧
     (∀ p, s.jig.slice = some (p, 1, 0) → ∃ u, exec .sliceYield s = .next u ∧ u.jig = { s.jig with
         slice := none
         passedOver := s.jig.passedOver ++ [p]
         yields := satAdd 16 s.jig.yields 1
         yieldAll := s.jig.yieldAll + 1 } ∧
       u.cmds = s.cmds ∧ u.mem = s.mem) ∧
     (∀ p k, s.jig.slice = some (p, k, 0) → s.jig.waitSlice = none → o.miss = false →
       ∃ u, exec (.sliceComplete o) s = .next u ∧ u.jig.slice = none ∧ (u.jig.units.get p).passed = satAdd 32 (s.jig.units.get p).passed 1 ∧
         (u.jig.units.get p).failed = (s.jig.units.get p).failed ∧ u.jig.run = s.jig.run + 1 ∧ u.jig.failures = s.jig.failures ∧ u.sump = s.sump ∧
         u.svc = s.svc ∧ u.mem = s.mem) ∧
     (∀ w, s.boot.resetHeld ≠ 2 → inWindow o.vdd o.tj = true → s.jig.waitSlice = some w → s.jig.slice = none → s.dom 110 = true → s.dom (s.unitDom w.1) = true →
       s.unitFree w.1 = true → exec (.jigWindowRegained o.vdd o.tj) s = .next { s with jig := { s.jig with
         vdd := o.vdd
         tj := o.tj
         slice := some w
         waitSlice := none
         deferred := false } }) ∧
     (s.cellFree st cell = true → (s.st st).spareAt = none → (s.st st).spareBad = false →
       ∃ u, exec (.cellSelfCheckFail st cell) s = .next u ∧ (u.st st).spareAt = some cell ∧ (u.st st).disabled = (s.st st).disabled ∧
         (∀ k, k ≠ st → u.st k = s.st k) ∧ u = { s with stiles := u.stiles }))

/-- Storage and housekeeping events (R217, R229, R232, R233, R476, R483, R487): a valid completion frees its command; the first timeout of a command counts a
violation and issues it again; a health log is kept; a checkpoint covers the journal; a zone that is nearly empty moves; a sweep of a bitmap row
leaves every granule's state; the oldest entry goes to the spill ring; a decay period lowers its partner's count.
Rests also on readings and choices of the model: assumption log entry 4. -/
def Obligations.StorageEventsAreHandled : Prop :=
  ∀ (s : State) (c cid store zone : Nat) (q : Cqe) (log : List Byte) (e : Ext),
    (∀ n, n = s.sto.ctrls.get c → n.attached = true → s.sto.down = false → n.open_.contains q.cid = true → q.sqId ≠ 0 → q.sqId ≤ n.pairs → q.sqHead < n.depth → q.status = 0 →
        (q.sqHead + n.depth - n.sqHead.get q.sqId) % max n.depth 1 ≤ n.open_.length → s.cap.blocks = [] →
        exec (.nvmeCompletion c q) s = .next (s.onNvme c fun n => { n with
          open_ := n.open_.filter (· != q.cid)
          timed := n.timed.filter (· != q.cid)
          sqHead := n.sqHead.set q.sqId q.sqHead })) ∧
    (∀ n, n = s.sto.ctrls.get c → n.attached = true → n.open_.contains cid = true → n.timed.contains cid = false → n.viol + 1 < s.feat.thNvme →
        ∃ t, exec (.nvmeCommandTimeout c cid) s = .next t ∧ t.sto.ctrls.get c = { n with
            timed := n.timed ++ [cid]
            sqHead := .const 0
            viol := n.viol + 1 } ∧
          (∀ k, k ≠ c → t.sto.ctrls.get k = s.sto.ctrls.get k) ∧ bit t.port.irqStatus 6 = true ∧ t.cmds = s.cmds) ∧
    ((s.sto.ctrls.get c).attached = true → s.sto.down = false →
      exec (.nvmeSmartPoll c log 0) s = .next (s.onNvme c fun n => { n with health := padTo 512 log })) ∧
    (∀ i m, s.sto.mount.get store = some i → s.sto.media[i]? = some m → 3 * m.ring < 4 * (m.journalSeq - m.ckptSeq) → s.storeDown store = none → storeFault e = none →
      ∃ t k, exec (.journalCheckpoint store e) s = .next t ∧ t.sto.media[i]? = some k ∧ k.ckptSeq = m.journalSeq ∧ k.ckptNo = m.ckptNo + 1 ∧
        k.objects = m.objects ∧ t = { s with sto := { s.sto with media := t.sto.media } }) ∧
    (∀ i m z, s.sto.mount.get store = some i → s.sto.media[i]? = some m → m.major ≠ 2 → 3 ≤ zone → zone < m.zones → m.zoneMapped zone < 2 ^ 16 → s.cap.run = none →
      s.clamps = [] → s.storeDown store = none → loadFault e = none → 3 ≤ z → z < m.zones → z ≠ zone → m.zoneUsed z = false →
      ∃ t k, exec (.gcCompact store zone e) s = .next t ∧ t.sto.media[i]? = some k ∧ k.zoneUsed zone = false ∧ k.objects.map (·.id) = m.objects.map (·.id) ∧
        t = { s with sto := { s.sto with media := t.sto.media } }) ∧
    (∃ t, exec (.bitmapRowSweep c) s = .next t ∧ (∀ k loc, (t.st k).bits loc = (s.st k).bits loc) ∧ t = { s with stiles := t.stiles }) ∧
    (∀ x, s.sump.spillSize ≠ 0 → s.sump.spillFault = false → s.sump.prod - s.sump.cons < s.sump.ringSize → s.boot.stage = .ready → s.dom 111 = true →
      s.sump.entries.find? (fun x => !x.spilled) = some x → x.severity ≠ 4 → s.sump.ringAtWm = true → e.writeErr = false →
      exec (.sumpSpillEntry e) s = .next { s.poke (s.sump.spillBase + s.sump.prod % s.sump.ringSize * 64) x.bytes with sump := { s.sump with
        entries := s.sump.entries.filter (fun y => y.seq != x.seq)
        prod := s.sump.prod + 1 } }) ∧
    (exec (.violationDecay (.sq c cid)) s = .next (s.onSq c cid fun t => { t with viol := t.viol - 1 }) ∧
      exec (.violationDecay (.nvme c)) s = .next (s.onNvme c fun t => { t with viol := t.viol - 1 }) ∧
      exec (.violationDecay (.chain c)) s = .next { s with chain := { s.chain with viol := s.chain.viol.modify c (· - 1) } })

/-- The service cores and SRAM faults (R489, R490, R491, R494, R495, R497): the standby acknowledges a slab and the journal is freed; without a heartbeat the
standby that holds a slab takes over, here with nothing in flight; a standby core that fails is restarted and the slab it held is gone; the watchdog
of CC0 leaves a FATAL entry; a row replaced by a spare changes nothing and a sync object without one is retired, with reason 3.
Rests also on readings and choices of the model: assumption log entries 13, 63, 68. -/
def Obligations.CoresAndRowsFail : Prop :=
  ∀ (s : State) (o : Nat) (u : SramUnit), 
    let other := 3 - s.svc.active
    (s.boot.stage = .ready → s.boot.resetHeld = 0 → s.coreRuns s.svc.active = true → s.coreRuns other = true → exec .slabCopy s = .next { s with svc := { s.svc with
      standby := other
      standbyOk := true
      slab := s.svc.slab + 1
      journal := [] } }) ∧
    (s.beating = true → s.svc.standbyOk = true → s.coreRuns other = true → s.cap.run = none → s.cap.waits = [] → s.cmds = [] → s.svc.coreDead = 0 →
      ∃ t, exec .heartbeatTimeout s = .next t ∧ t.svc.active = other ∧ t.svc.standby = s.svc.active ∧ t.svc.standbyOk = false ∧
        t.svc.failovers = satAdd 16 s.svc.failovers 1 ∧ t.svc.journal = [] ∧ t.svc.coreDead = 0 ∧ t.chambers = s.chambers ∧ t.fins = s.fins ∧ t.mem = s.mem) ∧
    ((other = 1 ∨ other = 2) → other ≠ s.svc.active → s.boot.stage = .ready → s.boot.resetHeld = 0 → s.svc.coreDead = 0 →
      ∃ t, exec (.controlCoreFailure other true) s = .next t ∧ t.svc.active = s.svc.active ∧ t.svc.standby = other ∧ t.svc.standbyOk = false ∧ t.svc.coreDead = 0 ∧
        t.cmds = s.cmds ∧ t.chambers = s.chambers ∧ t.mem = s.mem) ∧
    (s.boot.resetHeld ≠ 2 → s.sump.minSev ≤ 4 → ∃ t, exec .cc0Watchdog s = .next t ∧ bit t.port.irqStatus 0 = true ∧ t.boot = s.boot ∧ t.cmds = s.cmds ∧
      t.chambers = s.chambers ∧ t.mem = s.mem) ∧
    (exec (.sramFault u true) s = .next s) ∧
    (s.boot.resetHeld ≠ 2 → ∃ t, exec (.sramFault (.syncObject o) false) s = .next t ∧ (t.sync.objs.get o).retired = true ∧ bit t.svc.reasons 3 = true ∧
      (∀ k, k ≠ o → t.sync.objs.get k = s.sync.objs.get k) ∧ t.mem = s.mem)

/-- Two lifecycle states that combine, the present one and the target of a pending transition, grant what the more restrictive of them grants (R452): a request scan
above the lower of the two lamp ceilings is not taken, one within it is; a manual session opens, EXTEST is loaded and a test opcode is assigned only where
both states grant it. -/
def Obligations.TwoLifecycleStatesGrantTheLess : Prop :=
  ∀ (s : State) (a b : Life), s.boot.resetHeld ≠ 2 → s.life.life = a → s.life.pending = some b →
    (∀ v : BitVec 8, s.life.level < v.toNat → v.toNat < 4 → s.boot.stage = .ready → s.life.backoff = false →
      ∃ u, exec (.lampUnlockRequest v) s = .next u ∧ u.life.level = s.life.level ∧
        u.life.request = (if v.toNat ≤ a.ceiling ∧ v.toNat ≤ b.ceiling then some (v.toNat, s.draw.1) else s.life.request)) ∧
    (s.jig.manual = false → ∃ u, exec (.jigManualSession true) s = .next u ∧ u.jig.manual = (a.jigAt s.life.level && b.jigAt s.life.level)) ∧
    (∃ u, exec (.tapInstruction 0) s = .next u ∧ u.life.tapIr = if a.grants = true ∧ b.grants = true then 0 else 0x3F) ∧
    (∀ x, s.serving = true → s.check (testSub x) = none → a.grants = true ∧ b.grants = true)

/-- Pending transitions (R457): the pending target is the highest state above the present one whose intent row counts as burnt and whose commit row does
not; a row that reads fewer than 24 ones does not count; a burn of the row completes it; and no step clears a fuse bit. -/
def Obligations.PendingTransitionsAreFound : Prop :=
  (∀ (b : Boot) (k : Nat), b.pendingCode = some k ↔ b.lifeCode < k ∧ k < 6 ∧ b.burnt (2 * k) = true ∧ b.burnt (2 * k + 1) = false ∧
    ∀ j, k < j → j < 6 → b.burnt (2 * j) = true → b.burnt (2 * j + 1) = true) ∧
  (∀ (b : Boot) (row : Nat), row ∉ b.fuseErr → ones (b.fuses.get row) < 24 → b.burnt row = false) ∧
  (∀ (s : State) (row : Nat), row ∉ s.boot.fuseErr → (s.burnRow row).boot.burnt row = true) ∧
  (∀ (s t : State) (row i : Nat), step s = .next t → bit (s.boot.fuses.get row) i = true → bit (t.boot.fuses.get row) i = true)

/-- The CRC of a chain frame (R409): polynomial 0x1021 from 0xFFFF on, no reflection and no final XOR, with its check value; it covers a frame's bytes up to its
payload with byte 4 taken as zero, so that a frame with other hops is as good and one that is damaged elsewhere than its CRC says is not. -/
def Obligations.FrameChecksCoverTheFrame : Prop :=
  crc16 [] = 0xFFFF ∧
  (∀ (l : List Byte) (b : Byte), crc16 (l ++ [b]) =
    (List.range 8).foldl (fun c _ => if c.testBit 15 then (c * 2 % 65536) ^^^ 0x1021 else c * 2 % 65536) (crc16 l ^^^ b.toNat * 256)) ∧
  crc16 [0x31, 0x32, 0x33, 0x34, 0x35, 0x36, 0x37, 0x38, 0x39] = 0x29B1 ∧
  (∀ (l : List Byte) (f : DclFrame) (h : Byte), parseFrame l = .ok f →
    beNat (l.drop (l.length - 2)) = crc16 ((l.take (l.length - 2)).set 4 0) ∧ parseFrame (l.set 4 h) = .ok { f with hops := h }) ∧
  (∀ (l : List Byte) (f : DclFrame), beNat (l.drop (l.length - 2)) ≠ crc16 ((l.take (l.length - 2)).set 4 0) → parseFrame l ≠ .ok f)

/-- A damaged source is not digested (R382): a source beat with ERR or POISON ends a DIGEST, an HMAC or an EXTEND with PARTNER_MALFORMED; nothing is written to
memory and no register is extended. -/
def Obligations.DamagedSourcesAreNotDigested : Prop :=
  ∀ (s : State) (x0 x : Sub) (e : Ext), s.dom 103 = true → s.cmdContexts < 24 → s.engineUp = true →
    (∀ c, (c = .digest x0 e ∨ c = .hmac x0 e ∧ (s.dgt.hslots.get (fld x.a 12 8)).loaded = true ∧ (s.dgt.hslots.get (fld x.a 12 8)).alg = fld x.a 1 0) →
      s.holdsCmd c x → (e.readErr = true ∨ fld x.c 39 0 ≠ 0 ∧ s.mem.badBeats x.b.toNat (fld x.c 39 0) ≠ []) →
      ∃ u, Ends c s x sMalformed 0 0 u ∧ u.mem = s.mem ∧ u.dgt.sg = s.dgt.sg ∧ u.dgt.sgCount = s.dgt.sgCount) ∧
    (s.holdsCmd (.extend x0 e) x → (e.readErr = true ∨ fld x.b 15 0 ≠ 0 ∧ s.mem.badBeats x.a.toNat (fld x.b 15 0) ≠ []) →
      ∃ u, Ends (.extend x0 e) s x sMalformed 0 0 u ∧ u.mem = s.mem ∧ u.dgt.sg = s.dgt.sg ∧ u.dgt.sgCount = s.dgt.sgCount)

/-- Coalescing (R481): an occurrence at or above the sump's lowest severity goes into an entry of its code, source kind, source index and chamber among the 32
newest held whose count is below 2^32 - 1: the count goes up by one, the last time and last detail are replaced, the coalesced flag is set, the first
time and first detail and every other entry stay; without such an entry no entry held is changed. -/
def Obligations.OccurrencesAreCoalesced : Prop :=
  ∀ (u : Sump) (now sev kind index : Nat) (code : BitVec 16) (ch : Option Nat) (d : List Byte), u.minSev ≤ sev →
    let m (y : SumpEntry) : Bool := y.code == code && y.kind == kind && y.index == index && y.chamber == ch && decide (y.count < 2 ^ 32 - 1)
    ((∃ y ∈ u.entries.reverse.take 32, m y = true) → ∃ y ∈ u.entries.reverse.take 32, m y = true ∧
      u.record now code sev kind index ch d = { u with entries := u.entries.map fun z =>
        if z.seq = y.seq then { z with count := z.count + 1, last := now, detailLast := padTo 14 d, coalesced := true } else z }) ∧
    ((∀ y ∈ u.entries.reverse.take 32, m y = false) → ∀ z ∈ (u.record now code sev kind index ch d).entries, z ∈ u.entries ∨
      z.count = 1 ∧ z.first = now ∧ z.last = now ∧ z.coalesced = false)

/-- SCAN_ENTER (R466): it takes effect only in OFF at LAMP3, where PWR_STATE.scanned is set; elsewhere it changes neither power nor lamp and LAMP_DENIED is
logged; and no command but a cold reset, or the loss of VDD_KA that acts as one, takes a scanned block out of OFF or clears scanned. -/
def Obligations.ScanIsFinal : Prop :=
  (∀ s : State, s.boot.resetHeld ≠ 2 → s.pwr.state = .off → s.life.level = 3 →
    exec .scanEnter s = .next { s with pwr := { s.pwr with scanned := true, waking := false, queue := [] } }) ∧
  (∀ s : State, s.boot.resetHeld ≠ 2 → ¬(s.pwr.state = .off ∧ s.life.level = 3) → exec .scanEnter s = .next (s.logStatus sLampDenied 0 0 none [0x20])) ∧
  (∀ (c : Instr) (s t : State), c ≠ .coldResetAssert → c ≠ .vddKaLoss → s.boot.resetHeld ≠ 2 → s.pwr.scanned = true → s.pwr.state = .off → exec c s = .next t →
    t.pwr.scanned = true ∧ t.pwr.state = .off)

/-- TIME_IN (R68): a reading below the last value used is logged once and the time stays at the last value used until TIME_IN passes it, after which the next such
reading is logged again; and no command but a cold reset takes the time used back. That an idle step is what moves TIME_IN is the model's choice
(assumption log 3).
Rests also on readings and choices of the model: assumption log entries 3, 34. -/
def Obligations.TimeNeverRunsBack : Prop :=
  (∀ (s : State) (n : Nat), s.boot.resetHeld ≠ 2 → n < s.timeUsed →
    let u := { s with timeIn := n, timeBack := true }
    ∃ t, exec (.timeInRegress n) s = .next t ∧ t.now = s.timeUsed ∧ (s.timeBack = true → t = u) ∧
      (s.timeBack = false → ∃ c v d, t = u.log c v 0 0 none d)) ∧
  (∀ s : State, s.pending = [] → ∃ t, step s = .next t ∧ t.timeIn = s.timeIn + 1 ∧ t.timeUsed = s.timeUsed ∧
    t.timeBack = (s.timeBack && decide (t.timeIn ≤ s.timeUsed)) ∧ t.now = max t.timeIn s.timeUsed) ∧
  (∀ (c : Instr) (s t : State), c ≠ .coldResetAssert → c ≠ .vddKaLoss → exec c s = .next t → s.timeUsed ≤ t.timeUsed ∧ t.timeUsed ≤ t.now)

/-- A step with a command at the front of the queue runs that command on the queue's rest.
Rests also on readings and choices of the model: assumption log entry 69. -/
def Obligations.StepRunsTheFrontCommand : Prop :=
  ∀ (c : Instr) (rest : List Instr) (s : State), step { s with pending := c :: rest } = exec c { s with pending := rest }

/-- On an empty queue a step is one nanosecond of TIME_IN; nothing else moves but the wake tokens. The model's choice (assumption log 3).
Rests also on readings and choices of the model: assumption log entry 3. -/
def Obligations.StepOnAnEmptyQueueIsTime : Prop :=
  ∀ s : State, s.pending = [] → ∃ t, step s = .next t ∧ t.timeIn = s.timeIn + 1 ∧
    t = { s with timeIn := t.timeIn, timeBack := t.timeBack, pwr := { s.pwr with tokens := t.pwr.tokens } }

/-- The reset state: no command waits, the block is in ROM with every domain off, no chamber but the first has queues, no key slot holds a key, the
interrupt causes are clear, memory has no byte written and is in its canonical form.
Rests also on readings and choices of the model: assumption log entries 1, 2. -/
def Obligations.ResetIsAsSpecified : Prop :=
  let s := State.reset
  s.pending = [] ∧ s.cmds = [] ∧ s.fins = [] ∧ s.boot.stage = .rom ∧ s.pwr.on = 0 ∧ s.port.irqStatus = 0 ∧ (∀ k, (s.keys.get k).state = 0) ∧
    (∀ i, (s.sync.objs.get i).alloc = false) ∧ (∀ c q, ((s.ch c).sqs.get q).enable = false) ∧ (∀ g, s.region g = none) ∧ s.mem.bytes.entries = [] ∧ s.Inv

/-- Every step keeps the memory in its canonical form.
Rests also on readings and choices of the model: assumption log entry 2. -/
def Obligations.StepKeepsTheMemoryForm : Prop := ∀ s t : State, s.Inv → step s = .next t → t.Inv

/-- Every command completes but a test opcode that its checks let pass, which the spec assigns and gives no effect (R123); and no command changes the
queue of commands that wait, the build or the number of fabric ports.
Rests also on readings and choices of the model: assumption log entries 5, 71. -/
def Obligations.CommandsCompleteAndKeepTheQueue : Prop :=
  ∀ (c : Instr) (s : State),
    ((∃ t, exec c s = .next t) ∨ ∃ x e, c = .testOpcode x e ∧ s.serving = true ∧ s.check (testSub x) = none ∧
      exec c s = .refused .undescribedTestOpcode) ∧
    (∀ t, exec c s = .next t → t.pending = s.pending ∧ t.build = s.build ∧ t.fabPorts = s.fabPorts)

/-- A submission entry that the checks refuse ends with their status and description and has no other effect than its log and its violation: no command is
accepted, no clamp taken, no memory, region, sync or stream state changed (R97, R107, R108). While the service is down no entry has an effect. -/
def Obligations.SubmissionsAreChecked : Prop :=
  ∀ (c : Instr) (s : State) (x : Sub), c.entry = some x → s.life.life ≠ .spent → (∀ ch, (s.site ch).run = none) →
    (s.serving = false → exec c s = .next s) ∧
    (∀ st desc, s.serving = true → (∀ d ∈ s.cmds, d.sub ≠ x) → s.check x = some (st, desc) → (∀ f ∈ (s.ch x.chamber).fetched, f.sub.sq ≠ x.sq) →
      ∃ t, exec c s = .next t ∧ t.fins = s.fins ++ [⟨x.chamber, x.sq, x.cid, st, if isRefusal st then desc else 0⟩] ∧ t.cmds = s.cmds ∧
        t.clamps = s.clamps ∧ t.mem = s.mem ∧ t.regions = s.regions ∧ t.sync = s.sync ∧ t.trk = s.trk ∧ t.keys = s.keys ∧ t.cap = s.cap)

/-- The rows that act on registers, keys, contexts, wakes, the lamp, the self-test, timers or counters leave the commands in flight, their completions and
clamps, the regions, the streams, the stores and every byte of memory as they were.
Rests also on readings and choices of the model: assumption log entry 5. -/
def Obligations.EventsLeaveCommandsAndMemory : Prop :=
  ∀ (c : Instr) (s t : State), quietRow c = true → exec c s = .next t →
    t.mem = s.mem ∧ t.cmds = s.cmds ∧ t.fins = s.fins ∧ t.clamps = s.clamps ∧ t.regions = s.regions ∧ t.trk.stm = s.trk.stm ∧ t.trk.run = s.trk.run ∧
      t.sync.objs = s.sync.objs ∧ t.sync.watches = s.sync.watches ∧ t.sto.media = s.sto.media ∧ t.cap = s.cap ∧ t.trigs = s.trigs
end

