-- ==== Sys2Proof/Laws/SMap.lean ====
section
/-! SUPPORT. The sparse tables and the memory: reading after a write, and that every write keeps the canonical form. -/

namespace Sys2Proof.Laws
open Sys2Proof.Machine
variable {V : Type}

theorem smLookup_erase_self (k : Nat) (l : List (Nat × V)) : smLookup k (smErase k l) = none := by
  induction l with
  | nil => rfl
  | cons p r ih => simp only [smErase]; split <;> simp_all [smLookup]

theorem smLookup_erase_ne {j k : Nat} (h : j ≠ k) (l : List (Nat × V)) : smLookup j (smErase k l) = smLookup j l := by
  induction l with
  | nil => rfl
  | cons p r ih => simp only [smErase]; split <;> simp_all [smLookup] ; omega

theorem smLookup_insert_self (k : Nat) (v : V) (l : List (Nat × V)) (h : smLookup k l = none) : smLookup k (smInsert k v l) = some v := by
  induction l with
  | nil => simp [smInsert, smLookup]
  | cons p r ih =>
    simp only [smInsert]; split
    · simp [smLookup]
    · simp only [smLookup] at h ⊢; split at h
      · simp at h
      · rename_i hne; simp [hne, ih h]

theorem smLookup_insert_ne {j k : Nat} (v : V) (hne : j ≠ k) (l : List (Nat × V)) : smLookup j (smInsert k v l) = smLookup j l := by
  induction l with
  | nil => simp [smInsert, smLookup]; omega
  | cons p r ih => simp only [smInsert]; split <;> simp_all [smLookup]; omega

/-- Reading the key written gives the value written. -/
@[simp] theorem get_set_self [DecidableEq V] (m : SMap V) (k : Nat) (v : V) : (m.set k v).get k = v := by
  simp only [SMap.set, SMap.get]; split
  · rename_i h; simp [smLookup_erase_self, h]
  · simp [smLookup_insert_self _ _ _ (smLookup_erase_self k m.entries)]

/-- Reading another key gives what was there. -/
theorem get_set_ne [DecidableEq V] (m : SMap V) {j k : Nat} (v : V) (h : j ≠ k) : (m.set k v).get j = m.get j := by
  simp only [SMap.set, SMap.get]; split
  · simp [smLookup_erase_ne h]
  · simp [smLookup_insert_ne v h, smLookup_erase_ne h]

theorem get_set [DecidableEq V] (m : SMap V) (j k : Nat) (v : V) : (m.set k v).get j = if j = k then v else m.get j := by
  split
  · subst_vars; exact get_set_self m _ v
  · exact get_set_ne m v ‹_›

@[simp] theorem set_dflt [DecidableEq V] (m : SMap V) (k : Nat) (v : V) : (m.set k v).dflt = m.dflt := by
  simp only [SMap.set]; split <;> rfl

@[simp] theorem get_const (d : V) (k : Nat) : (SMap.const d).get k = d := rfl

@[simp] theorem get_modify_self [DecidableEq V] (m : SMap V) (k : Nat) (f : V → V) : (m.modify k f).get k = f (m.get k) := get_set_self m k _

theorem get_modify_ne [DecidableEq V] (m : SMap V) {j k : Nat} (f : V → V) (h : j ≠ k) : (m.modify k f).get j = m.get j := get_set_ne m _ h

/-- Every key of the list is above `k`. -/
def smAbove (k : Nat) (l : List (Nat × V)) : Bool := l.all fun p => decide (k < p.1)

theorem smSorted_cons (j : Nat) (v : V) (r : List (Nat × V)) : smSorted ((j, v) :: r) = (smAbove j r && smSorted r) := by
  induction r generalizing j v with
  | nil => rfl
  | cons p r ih =>
    obtain ⟨k, w⟩ := p
    show (decide (j < k) && smSorted ((k, w) :: r)) = _
    rw [ih k w]
    show (decide (j < k) && (smAbove k r && smSorted r)) = ((decide (j < k) && smAbove j r) && (smAbove k r && smSorted r))
    cases hjk : decide (j < k) with
    | false => rfl
    | true =>
      have hj := of_decide_eq_true hjk
      cases hk : smAbove k r with
      | false => simp
      | true =>
        have : smAbove j r = true := by
          simp only [smAbove, List.all_eq_true, decide_eq_true_eq] at hk ⊢
          intro p hp; exact Nat.lt_trans hj (hk p hp)
        simp [this]

theorem smErase_mem {k : Nat} {l : List (Nat × V)} {p : Nat × V} (h : p ∈ smErase k l) : p ∈ l ∧ p.1 ≠ k := by
  induction l with
  | nil => simp [smErase] at h
  | cons q r ih =>
    simp only [smErase] at h; split at h
    · have := ih h; exact ⟨List.mem_cons_of_mem _ this.1, this.2⟩
    · rcases List.mem_cons.mp h with e | e
      · subst e; exact ⟨List.mem_cons_self, ‹_›⟩
      · have := ih e; exact ⟨List.mem_cons_of_mem _ this.1, this.2⟩

theorem smErase_sorted {k : Nat} {l : List (Nat × V)} (h : smSorted l = true) : smSorted (smErase k l) = true := by
  induction l with
  | nil => rfl
  | cons q r ih =>
    obtain ⟨j, v⟩ := q
    rw [smSorted_cons, Bool.and_eq_true] at h
    simp only [smErase]; split
    · exact ih h.2
    · rw [smSorted_cons, Bool.and_eq_true]; refine ⟨?_, ih h.2⟩
      simp only [smAbove, List.all_eq_true, decide_eq_true_eq] at h ⊢
      intro p hp; exact h.1 p (smErase_mem hp).1

theorem smInsert_mem {k : Nat} {v : V} {l : List (Nat × V)} {p : Nat × V} (h : p ∈ smInsert k v l) : p = (k, v) ∨ p ∈ l := by
  induction l with
  | nil => simp [smInsert] at h; exact .inl h
  | cons q r ih =>
    simp only [smInsert] at h; split at h
    · simpa using h
    · rcases List.mem_cons.mp h with e | e
      · exact .inr (by simp [e])
      · rcases ih e with e | e
        · exact .inl e
        · exact .inr (List.mem_cons_of_mem _ e)

theorem smInsert_sorted {k : Nat} {v : V} {l : List (Nat × V)} (hn : ∀ p ∈ l, p.1 ≠ k) (h : smSorted l = true) :
    smSorted (smInsert k v l) = true := by
  induction l with
  | nil => rfl
  | cons q r ih =>
    obtain ⟨j, w⟩ := q
    rw [smSorted_cons, Bool.and_eq_true] at h
    simp only [smInsert]; split
    · rename_i hkj
      rw [smSorted_cons, smSorted_cons, Bool.and_eq_true, Bool.and_eq_true]
      refine ⟨?_, h⟩
      simp only [smAbove, List.all_eq_true, decide_eq_true_eq] at h ⊢
      intro p hp; rcases List.mem_cons.mp hp with e | e
      · subst e; exact hkj
      · exact Nat.lt_trans hkj (h.1 p e)
    · have hne := hn (j, w) List.mem_cons_self
      rw [smSorted_cons, Bool.and_eq_true]
      refine ⟨?_, ih (fun p hp => hn p (List.mem_cons_of_mem _ hp)) h.2⟩
      simp only [smAbove, List.all_eq_true, decide_eq_true_eq] at h ⊢
      intro p hp; rcases smInsert_mem hp with e | e
      · subst e; simp at hne ⊢; omega
      · exact h.1 p e

/-- Writing keeps the canonical form. -/
theorem set_wf [DecidableEq V] {m : SMap V} (k : Nat) (v : V) (h : m.wf = true) : (m.set k v).wf = true := by
  simp only [SMap.wf, Bool.and_eq_true, List.all_eq_true, decide_eq_true_eq] at h ⊢
  simp only [SMap.set]; split
  · exact ⟨smErase_sorted h.1, fun p hp => h.2 p (smErase_mem hp).1⟩
  · refine ⟨smInsert_sorted (fun p hp => (smErase_mem hp).2) (smErase_sorted h.1), fun p hp => ?_⟩
    rcases smInsert_mem hp with e | e
    · subst e; assumption
    · exact h.2 p (smErase_mem e).1

theorem const_wf [DecidableEq V] (d : V) : (SMap.const d).wf = true := rfl

theorem write_wf {m : Memory} (a : Nat) (d : List Byte) (h : m.wf = true) : (m.write a d).wf = true := by
  induction d generalizing m a with
  | nil => exact h
  | cons b r ih =>
    refine ih (a + 1) ?_
    simp only [Memory.wf, Bool.and_eq_true] at h ⊢
    exact ⟨set_wf a b h.1, h.2⟩

theorem foldl_set_wf {α : Type} {W : Type} [DecidableEq W] (l : List α) (f : α → Nat) (g : α → W) {m : SMap W} (h : m.wf = true) :
    (l.foldl (fun q i => q.set (f i) (g i)) m).wf = true := by
  induction l generalizing m with
  | nil => exact h
  | cons x r ih => exact ih (set_wf _ _ h)

theorem mark_wf {m : Memory} (a n : Nat) (p : Bool) (h : m.wf = true) : (m.mark a n p).wf = true := by
  simp only [Memory.wf, Bool.and_eq_true] at h ⊢
  exact ⟨h.1, foldl_set_wf _ _ _ h.2⟩

theorem fold_wf {α : Type} (l : List α) (f : Memory → α → Memory) (hf : ∀ m x, m.wf = true → (f m x).wf = true) {m : Memory} (h : m.wf = true) :
    (l.foldl f m).wf = true := by
  induction l generalizing m with
  | nil => exact h
  | cons x r ih => exact ih (hf m x h)
theorem poison_wf {m : Memory} (k : Nat) (v : Bool) (h : m.wf = true) : Memory.wf { m with poison := m.poison.set k v } = true := by
  simp only [Memory.wf, Bool.and_eq_true] at h ⊢
  exact ⟨h.1, set_wf _ _ h.2⟩

theorem byte_wf {m : Memory} (k : Nat) (v : Byte) (h : m.wf = true) : Memory.wf { m with bytes := m.bytes.set k v } = true := by
  simp only [Memory.wf, Bool.and_eq_true] at h ⊢
  exact ⟨set_wf _ _ h.1, h.2⟩

end Sys2Proof.Laws
end

