-- ==== Sys2Proof/Laws/State.lean ====
section
/-! SUPPORT. One lemma per field of State per update: what each small update leaves and what it writes, so that no proof unfolds a record
update. Each is true by computation. -/

namespace Sys2Proof.Machine

variable (s : State)

/-! ## withPending -/

@[simp] theorem State.withPending_build (l : List Instr) : (s.withPending l).build = s.build := rfl
@[simp] theorem State.withPending_fabPorts (l : List Instr) : (s.withPending l).fabPorts = s.fabPorts := rfl
@[simp] theorem State.withPending_pending (l : List Instr) : (s.withPending l).pending = l := rfl
@[simp] theorem State.withPending_timeIn (l : List Instr) : (s.withPending l).timeIn = s.timeIn := rfl
@[simp] theorem State.withPending_timeUsed (l : List Instr) : (s.withPending l).timeUsed = s.timeUsed := rfl
@[simp] theorem State.withPending_timeBack (l : List Instr) : (s.withPending l).timeBack = s.timeBack := rfl
@[simp] theorem State.withPending_free (l : List Instr) : (s.withPending l).free = s.free := rfl
@[simp] theorem State.withPending_mem (l : List Instr) : (s.withPending l).mem = s.mem := rfl
@[simp] theorem State.withPending_port (l : List Instr) : (s.withPending l).port = s.port := rfl
@[simp] theorem State.withPending_lanes (l : List Instr) : (s.withPending l).lanes = s.lanes := rfl
@[simp] theorem State.withPending_frz (l : List Instr) : (s.withPending l).frz = s.frz := rfl
@[simp] theorem State.withPending_boot (l : List Instr) : (s.withPending l).boot = s.boot := rfl
@[simp] theorem State.withPending_life (l : List Instr) : (s.withPending l).life = s.life := rfl
@[simp] theorem State.withPending_pwr (l : List Instr) : (s.withPending l).pwr = s.pwr := rfl
@[simp] theorem State.withPending_chambers (l : List Instr) : (s.withPending l).chambers = s.chambers := rfl
@[simp] theorem State.withPending_units (l : List Instr) : (s.withPending l).units = s.units := rfl
@[simp] theorem State.withPending_turnCh (l : List Instr) : (s.withPending l).turnCh = s.turnCh := rfl
@[simp] theorem State.withPending_turnLeft (l : List Instr) : (s.withPending l).turnLeft = s.turnLeft := rfl
@[simp] theorem State.withPending_cmds (l : List Instr) : (s.withPending l).cmds = s.cmds := rfl
@[simp] theorem State.withPending_fins (l : List Instr) : (s.withPending l).fins = s.fins := rfl
@[simp] theorem State.withPending_clamps (l : List Instr) : (s.withPending l).clamps = s.clamps := rfl
@[simp] theorem State.withPending_regions (l : List Instr) : (s.withPending l).regions = s.regions := rfl
@[simp] theorem State.withPending_stiles (l : List Instr) : (s.withPending l).stiles = s.stiles := rfl
@[simp] theorem State.withPending_cap (l : List Instr) : (s.withPending l).cap = s.cap := rfl
@[simp] theorem State.withPending_trigs (l : List Instr) : (s.withPending l).trigs = s.trigs := rfl
@[simp] theorem State.withPending_ciph (l : List Instr) : (s.withPending l).ciph = s.ciph := rfl
@[simp] theorem State.withPending_drbg (l : List Instr) : (s.withPending l).drbg = s.drbg := rfl
@[simp] theorem State.withPending_keys (l : List Instr) : (s.withPending l).keys = s.keys := rfl
@[simp] theorem State.withPending_stage (l : List Instr) : (s.withPending l).stage = s.stage := rfl
@[simp] theorem State.withPending_tags (l : List Instr) : (s.withPending l).tags = s.tags := rfl
@[simp] theorem State.withPending_trk (l : List Instr) : (s.withPending l).trk = s.trk := rfl
@[simp] theorem State.withPending_sync (l : List Instr) : (s.withPending l).sync = s.sync := rfl
@[simp] theorem State.withPending_chain (l : List Instr) : (s.withPending l).chain = s.chain := rfl
@[simp] theorem State.withPending_chainW (l : List Instr) : (s.withPending l).chainW = s.chainW := rfl
@[simp] theorem State.withPending_dgt (l : List Instr) : (s.withPending l).dgt = s.dgt := rfl
@[simp] theorem State.withPending_sto (l : List Instr) : (s.withPending l).sto = s.sto := rfl
@[simp] theorem State.withPending_sump (l : List Instr) : (s.withPending l).sump = s.sump := rfl
@[simp] theorem State.withPending_svc (l : List Instr) : (s.withPending l).svc = s.svc := rfl
@[simp] theorem State.withPending_jig (l : List Instr) : (s.withPending l).jig = s.jig := rfl
@[simp] theorem State.withPending_feat (l : List Instr) : (s.withPending l).feat = s.feat := rfl

/-! ## onCh -/

@[simp] theorem State.onCh_build (n : Nat) (f : Chamber → Chamber) : (s.onCh n f).build = s.build := rfl
@[simp] theorem State.onCh_fabPorts (n : Nat) (f : Chamber → Chamber) : (s.onCh n f).fabPorts = s.fabPorts := rfl
@[simp] theorem State.onCh_pending (n : Nat) (f : Chamber → Chamber) : (s.onCh n f).pending = s.pending := rfl
@[simp] theorem State.onCh_timeIn (n : Nat) (f : Chamber → Chamber) : (s.onCh n f).timeIn = s.timeIn := rfl
@[simp] theorem State.onCh_timeUsed (n : Nat) (f : Chamber → Chamber) : (s.onCh n f).timeUsed = s.timeUsed := rfl
@[simp] theorem State.onCh_timeBack (n : Nat) (f : Chamber → Chamber) : (s.onCh n f).timeBack = s.timeBack := rfl
@[simp] theorem State.onCh_free (n : Nat) (f : Chamber → Chamber) : (s.onCh n f).free = s.free := rfl
@[simp] theorem State.onCh_mem (n : Nat) (f : Chamber → Chamber) : (s.onCh n f).mem = s.mem := rfl
@[simp] theorem State.onCh_port (n : Nat) (f : Chamber → Chamber) : (s.onCh n f).port = s.port := rfl
@[simp] theorem State.onCh_lanes (n : Nat) (f : Chamber → Chamber) : (s.onCh n f).lanes = s.lanes := rfl
@[simp] theorem State.onCh_frz (n : Nat) (f : Chamber → Chamber) : (s.onCh n f).frz = s.frz := rfl
@[simp] theorem State.onCh_boot (n : Nat) (f : Chamber → Chamber) : (s.onCh n f).boot = s.boot := rfl
@[simp] theorem State.onCh_life (n : Nat) (f : Chamber → Chamber) : (s.onCh n f).life = s.life := rfl
@[simp] theorem State.onCh_pwr (n : Nat) (f : Chamber → Chamber) : (s.onCh n f).pwr = s.pwr := rfl
@[simp] theorem State.onCh_chambers (n : Nat) (f : Chamber → Chamber) : (s.onCh n f).chambers = s.chambers.modify n f := rfl
@[simp] theorem State.onCh_units (n : Nat) (f : Chamber → Chamber) : (s.onCh n f).units = s.units := rfl
@[simp] theorem State.onCh_turnCh (n : Nat) (f : Chamber → Chamber) : (s.onCh n f).turnCh = s.turnCh := rfl
@[simp] theorem State.onCh_turnLeft (n : Nat) (f : Chamber → Chamber) : (s.onCh n f).turnLeft = s.turnLeft := rfl
@[simp] theorem State.onCh_cmds (n : Nat) (f : Chamber → Chamber) : (s.onCh n f).cmds = s.cmds := rfl
@[simp] theorem State.onCh_fins (n : Nat) (f : Chamber → Chamber) : (s.onCh n f).fins = s.fins := rfl
@[simp] theorem State.onCh_clamps (n : Nat) (f : Chamber → Chamber) : (s.onCh n f).clamps = s.clamps := rfl
@[simp] theorem State.onCh_regions (n : Nat) (f : Chamber → Chamber) : (s.onCh n f).regions = s.regions := rfl
@[simp] theorem State.onCh_stiles (n : Nat) (f : Chamber → Chamber) : (s.onCh n f).stiles = s.stiles := rfl
@[simp] theorem State.onCh_cap (n : Nat) (f : Chamber → Chamber) : (s.onCh n f).cap = s.cap := rfl
@[simp] theorem State.onCh_trigs (n : Nat) (f : Chamber → Chamber) : (s.onCh n f).trigs = s.trigs := rfl
@[simp] theorem State.onCh_ciph (n : Nat) (f : Chamber → Chamber) : (s.onCh n f).ciph = s.ciph := rfl
@[simp] theorem State.onCh_drbg (n : Nat) (f : Chamber → Chamber) : (s.onCh n f).drbg = s.drbg := rfl
@[simp] theorem State.onCh_keys (n : Nat) (f : Chamber → Chamber) : (s.onCh n f).keys = s.keys := rfl
@[simp] theorem State.onCh_stage (n : Nat) (f : Chamber → Chamber) : (s.onCh n f).stage = s.stage := rfl
@[simp] theorem State.onCh_tags (n : Nat) (f : Chamber → Chamber) : (s.onCh n f).tags = s.tags := rfl
@[simp] theorem State.onCh_trk (n : Nat) (f : Chamber → Chamber) : (s.onCh n f).trk = s.trk := rfl
@[simp] theorem State.onCh_sync (n : Nat) (f : Chamber → Chamber) : (s.onCh n f).sync = s.sync := rfl
@[simp] theorem State.onCh_chain (n : Nat) (f : Chamber → Chamber) : (s.onCh n f).chain = s.chain := rfl
@[simp] theorem State.onCh_chainW (n : Nat) (f : Chamber → Chamber) : (s.onCh n f).chainW = s.chainW := rfl
@[simp] theorem State.onCh_dgt (n : Nat) (f : Chamber → Chamber) : (s.onCh n f).dgt = s.dgt := rfl
@[simp] theorem State.onCh_sto (n : Nat) (f : Chamber → Chamber) : (s.onCh n f).sto = s.sto := rfl
@[simp] theorem State.onCh_sump (n : Nat) (f : Chamber → Chamber) : (s.onCh n f).sump = s.sump := rfl
@[simp] theorem State.onCh_svc (n : Nat) (f : Chamber → Chamber) : (s.onCh n f).svc = s.svc := rfl
@[simp] theorem State.onCh_jig (n : Nat) (f : Chamber → Chamber) : (s.onCh n f).jig = s.jig := rfl
@[simp] theorem State.onCh_feat (n : Nat) (f : Chamber → Chamber) : (s.onCh n f).feat = s.feat := rfl

/-! ## onUn -/

@[simp] theorem State.onUn_build (n : Nat) (f : ChUnit → ChUnit) : (s.onUn n f).build = s.build := rfl
@[simp] theorem State.onUn_fabPorts (n : Nat) (f : ChUnit → ChUnit) : (s.onUn n f).fabPorts = s.fabPorts := rfl
@[simp] theorem State.onUn_pending (n : Nat) (f : ChUnit → ChUnit) : (s.onUn n f).pending = s.pending := rfl
@[simp] theorem State.onUn_timeIn (n : Nat) (f : ChUnit → ChUnit) : (s.onUn n f).timeIn = s.timeIn := rfl
@[simp] theorem State.onUn_timeUsed (n : Nat) (f : ChUnit → ChUnit) : (s.onUn n f).timeUsed = s.timeUsed := rfl
@[simp] theorem State.onUn_timeBack (n : Nat) (f : ChUnit → ChUnit) : (s.onUn n f).timeBack = s.timeBack := rfl
@[simp] theorem State.onUn_free (n : Nat) (f : ChUnit → ChUnit) : (s.onUn n f).free = s.free := rfl
@[simp] theorem State.onUn_mem (n : Nat) (f : ChUnit → ChUnit) : (s.onUn n f).mem = s.mem := rfl
@[simp] theorem State.onUn_port (n : Nat) (f : ChUnit → ChUnit) : (s.onUn n f).port = s.port := rfl
@[simp] theorem State.onUn_lanes (n : Nat) (f : ChUnit → ChUnit) : (s.onUn n f).lanes = s.lanes := rfl
@[simp] theorem State.onUn_frz (n : Nat) (f : ChUnit → ChUnit) : (s.onUn n f).frz = s.frz := rfl
@[simp] theorem State.onUn_boot (n : Nat) (f : ChUnit → ChUnit) : (s.onUn n f).boot = s.boot := rfl
@[simp] theorem State.onUn_life (n : Nat) (f : ChUnit → ChUnit) : (s.onUn n f).life = s.life := rfl
@[simp] theorem State.onUn_pwr (n : Nat) (f : ChUnit → ChUnit) : (s.onUn n f).pwr = s.pwr := rfl
@[simp] theorem State.onUn_chambers (n : Nat) (f : ChUnit → ChUnit) : (s.onUn n f).chambers = s.chambers := rfl
@[simp] theorem State.onUn_units (n : Nat) (f : ChUnit → ChUnit) : (s.onUn n f).units = s.units.modify n f := rfl
@[simp] theorem State.onUn_turnCh (n : Nat) (f : ChUnit → ChUnit) : (s.onUn n f).turnCh = s.turnCh := rfl
@[simp] theorem State.onUn_turnLeft (n : Nat) (f : ChUnit → ChUnit) : (s.onUn n f).turnLeft = s.turnLeft := rfl
@[simp] theorem State.onUn_cmds (n : Nat) (f : ChUnit → ChUnit) : (s.onUn n f).cmds = s.cmds := rfl
@[simp] theorem State.onUn_fins (n : Nat) (f : ChUnit → ChUnit) : (s.onUn n f).fins = s.fins := rfl
@[simp] theorem State.onUn_clamps (n : Nat) (f : ChUnit → ChUnit) : (s.onUn n f).clamps = s.clamps := rfl
@[simp] theorem State.onUn_regions (n : Nat) (f : ChUnit → ChUnit) : (s.onUn n f).regions = s.regions := rfl
@[simp] theorem State.onUn_stiles (n : Nat) (f : ChUnit → ChUnit) : (s.onUn n f).stiles = s.stiles := rfl
@[simp] theorem State.onUn_cap (n : Nat) (f : ChUnit → ChUnit) : (s.onUn n f).cap = s.cap := rfl
@[simp] theorem State.onUn_trigs (n : Nat) (f : ChUnit → ChUnit) : (s.onUn n f).trigs = s.trigs := rfl
@[simp] theorem State.onUn_ciph (n : Nat) (f : ChUnit → ChUnit) : (s.onUn n f).ciph = s.ciph := rfl
@[simp] theorem State.onUn_drbg (n : Nat) (f : ChUnit → ChUnit) : (s.onUn n f).drbg = s.drbg := rfl
@[simp] theorem State.onUn_keys (n : Nat) (f : ChUnit → ChUnit) : (s.onUn n f).keys = s.keys := rfl
@[simp] theorem State.onUn_stage (n : Nat) (f : ChUnit → ChUnit) : (s.onUn n f).stage = s.stage := rfl
@[simp] theorem State.onUn_tags (n : Nat) (f : ChUnit → ChUnit) : (s.onUn n f).tags = s.tags := rfl
@[simp] theorem State.onUn_trk (n : Nat) (f : ChUnit → ChUnit) : (s.onUn n f).trk = s.trk := rfl
@[simp] theorem State.onUn_sync (n : Nat) (f : ChUnit → ChUnit) : (s.onUn n f).sync = s.sync := rfl
@[simp] theorem State.onUn_chain (n : Nat) (f : ChUnit → ChUnit) : (s.onUn n f).chain = s.chain := rfl
@[simp] theorem State.onUn_chainW (n : Nat) (f : ChUnit → ChUnit) : (s.onUn n f).chainW = s.chainW := rfl
@[simp] theorem State.onUn_dgt (n : Nat) (f : ChUnit → ChUnit) : (s.onUn n f).dgt = s.dgt := rfl
@[simp] theorem State.onUn_sto (n : Nat) (f : ChUnit → ChUnit) : (s.onUn n f).sto = s.sto := rfl
@[simp] theorem State.onUn_sump (n : Nat) (f : ChUnit → ChUnit) : (s.onUn n f).sump = s.sump := rfl
@[simp] theorem State.onUn_svc (n : Nat) (f : ChUnit → ChUnit) : (s.onUn n f).svc = s.svc := rfl
@[simp] theorem State.onUn_jig (n : Nat) (f : ChUnit → ChUnit) : (s.onUn n f).jig = s.jig := rfl
@[simp] theorem State.onUn_feat (n : Nat) (f : ChUnit → ChUnit) : (s.onUn n f).feat = s.feat := rfl

/-! ## onCapRegs -/

@[simp] theorem State.onCapRegs_build (n : Nat) (f : CapRegs → CapRegs) : (s.onCapRegs n f).build = s.build := rfl
@[simp] theorem State.onCapRegs_fabPorts (n : Nat) (f : CapRegs → CapRegs) : (s.onCapRegs n f).fabPorts = s.fabPorts := rfl
@[simp] theorem State.onCapRegs_pending (n : Nat) (f : CapRegs → CapRegs) : (s.onCapRegs n f).pending = s.pending := rfl
@[simp] theorem State.onCapRegs_timeIn (n : Nat) (f : CapRegs → CapRegs) : (s.onCapRegs n f).timeIn = s.timeIn := rfl
@[simp] theorem State.onCapRegs_timeUsed (n : Nat) (f : CapRegs → CapRegs) : (s.onCapRegs n f).timeUsed = s.timeUsed := rfl
@[simp] theorem State.onCapRegs_timeBack (n : Nat) (f : CapRegs → CapRegs) : (s.onCapRegs n f).timeBack = s.timeBack := rfl
@[simp] theorem State.onCapRegs_free (n : Nat) (f : CapRegs → CapRegs) : (s.onCapRegs n f).free = s.free := rfl
@[simp] theorem State.onCapRegs_mem (n : Nat) (f : CapRegs → CapRegs) : (s.onCapRegs n f).mem = s.mem := rfl
@[simp] theorem State.onCapRegs_port (n : Nat) (f : CapRegs → CapRegs) : (s.onCapRegs n f).port = s.port := rfl
@[simp] theorem State.onCapRegs_lanes (n : Nat) (f : CapRegs → CapRegs) : (s.onCapRegs n f).lanes = s.lanes := rfl
@[simp] theorem State.onCapRegs_frz (n : Nat) (f : CapRegs → CapRegs) : (s.onCapRegs n f).frz = s.frz := rfl
@[simp] theorem State.onCapRegs_boot (n : Nat) (f : CapRegs → CapRegs) : (s.onCapRegs n f).boot = s.boot := rfl
@[simp] theorem State.onCapRegs_life (n : Nat) (f : CapRegs → CapRegs) : (s.onCapRegs n f).life = s.life := rfl
@[simp] theorem State.onCapRegs_pwr (n : Nat) (f : CapRegs → CapRegs) : (s.onCapRegs n f).pwr = s.pwr := rfl
@[simp] theorem State.onCapRegs_chambers (n : Nat) (f : CapRegs → CapRegs) : (s.onCapRegs n f).chambers = s.chambers := rfl
@[simp] theorem State.onCapRegs_units (n : Nat) (f : CapRegs → CapRegs) : (s.onCapRegs n f).units = s.units.modify n fun u => { u with cap := f u.cap } := rfl
@[simp] theorem State.onCapRegs_turnCh (n : Nat) (f : CapRegs → CapRegs) : (s.onCapRegs n f).turnCh = s.turnCh := rfl
@[simp] theorem State.onCapRegs_turnLeft (n : Nat) (f : CapRegs → CapRegs) : (s.onCapRegs n f).turnLeft = s.turnLeft := rfl
@[simp] theorem State.onCapRegs_cmds (n : Nat) (f : CapRegs → CapRegs) : (s.onCapRegs n f).cmds = s.cmds := rfl
@[simp] theorem State.onCapRegs_fins (n : Nat) (f : CapRegs → CapRegs) : (s.onCapRegs n f).fins = s.fins := rfl
@[simp] theorem State.onCapRegs_clamps (n : Nat) (f : CapRegs → CapRegs) : (s.onCapRegs n f).clamps = s.clamps := rfl
@[simp] theorem State.onCapRegs_regions (n : Nat) (f : CapRegs → CapRegs) : (s.onCapRegs n f).regions = s.regions := rfl
@[simp] theorem State.onCapRegs_stiles (n : Nat) (f : CapRegs → CapRegs) : (s.onCapRegs n f).stiles = s.stiles := rfl
@[simp] theorem State.onCapRegs_cap (n : Nat) (f : CapRegs → CapRegs) : (s.onCapRegs n f).cap = s.cap := rfl
@[simp] theorem State.onCapRegs_trigs (n : Nat) (f : CapRegs → CapRegs) : (s.onCapRegs n f).trigs = s.trigs := rfl
@[simp] theorem State.onCapRegs_ciph (n : Nat) (f : CapRegs → CapRegs) : (s.onCapRegs n f).ciph = s.ciph := rfl
@[simp] theorem State.onCapRegs_drbg (n : Nat) (f : CapRegs → CapRegs) : (s.onCapRegs n f).drbg = s.drbg := rfl
@[simp] theorem State.onCapRegs_keys (n : Nat) (f : CapRegs → CapRegs) : (s.onCapRegs n f).keys = s.keys := rfl
@[simp] theorem State.onCapRegs_stage (n : Nat) (f : CapRegs → CapRegs) : (s.onCapRegs n f).stage = s.stage := rfl
@[simp] theorem State.onCapRegs_tags (n : Nat) (f : CapRegs → CapRegs) : (s.onCapRegs n f).tags = s.tags := rfl
@[simp] theorem State.onCapRegs_trk (n : Nat) (f : CapRegs → CapRegs) : (s.onCapRegs n f).trk = s.trk := rfl
@[simp] theorem State.onCapRegs_sync (n : Nat) (f : CapRegs → CapRegs) : (s.onCapRegs n f).sync = s.sync := rfl
@[simp] theorem State.onCapRegs_chain (n : Nat) (f : CapRegs → CapRegs) : (s.onCapRegs n f).chain = s.chain := rfl
@[simp] theorem State.onCapRegs_chainW (n : Nat) (f : CapRegs → CapRegs) : (s.onCapRegs n f).chainW = s.chainW := rfl
@[simp] theorem State.onCapRegs_dgt (n : Nat) (f : CapRegs → CapRegs) : (s.onCapRegs n f).dgt = s.dgt := rfl
@[simp] theorem State.onCapRegs_sto (n : Nat) (f : CapRegs → CapRegs) : (s.onCapRegs n f).sto = s.sto := rfl
@[simp] theorem State.onCapRegs_sump (n : Nat) (f : CapRegs → CapRegs) : (s.onCapRegs n f).sump = s.sump := rfl
@[simp] theorem State.onCapRegs_svc (n : Nat) (f : CapRegs → CapRegs) : (s.onCapRegs n f).svc = s.svc := rfl
@[simp] theorem State.onCapRegs_jig (n : Nat) (f : CapRegs → CapRegs) : (s.onCapRegs n f).jig = s.jig := rfl
@[simp] theorem State.onCapRegs_feat (n : Nat) (f : CapRegs → CapRegs) : (s.onCapRegs n f).feat = s.feat := rfl

/-! ## onStep -/

@[simp] theorem State.onStep_build (n : Nat) (f : StepRec → StepRec) : (s.onStep n f).build = s.build := rfl
@[simp] theorem State.onStep_fabPorts (n : Nat) (f : StepRec → StepRec) : (s.onStep n f).fabPorts = s.fabPorts := rfl
@[simp] theorem State.onStep_pending (n : Nat) (f : StepRec → StepRec) : (s.onStep n f).pending = s.pending := rfl
@[simp] theorem State.onStep_timeIn (n : Nat) (f : StepRec → StepRec) : (s.onStep n f).timeIn = s.timeIn := rfl
@[simp] theorem State.onStep_timeUsed (n : Nat) (f : StepRec → StepRec) : (s.onStep n f).timeUsed = s.timeUsed := rfl
@[simp] theorem State.onStep_timeBack (n : Nat) (f : StepRec → StepRec) : (s.onStep n f).timeBack = s.timeBack := rfl
@[simp] theorem State.onStep_free (n : Nat) (f : StepRec → StepRec) : (s.onStep n f).free = s.free := rfl
@[simp] theorem State.onStep_mem (n : Nat) (f : StepRec → StepRec) : (s.onStep n f).mem = s.mem := rfl
@[simp] theorem State.onStep_port (n : Nat) (f : StepRec → StepRec) : (s.onStep n f).port = s.port := rfl
@[simp] theorem State.onStep_lanes (n : Nat) (f : StepRec → StepRec) : (s.onStep n f).lanes = s.lanes := rfl
@[simp] theorem State.onStep_frz (n : Nat) (f : StepRec → StepRec) : (s.onStep n f).frz = s.frz := rfl
@[simp] theorem State.onStep_boot (n : Nat) (f : StepRec → StepRec) : (s.onStep n f).boot = s.boot := rfl
@[simp] theorem State.onStep_life (n : Nat) (f : StepRec → StepRec) : (s.onStep n f).life = s.life := rfl
@[simp] theorem State.onStep_pwr (n : Nat) (f : StepRec → StepRec) : (s.onStep n f).pwr = s.pwr := rfl
@[simp] theorem State.onStep_chambers (n : Nat) (f : StepRec → StepRec) : (s.onStep n f).chambers = s.chambers := rfl
@[simp] theorem State.onStep_units (n : Nat) (f : StepRec → StepRec) : (s.onStep n f).units = s.units.modify n fun u => { u with step := f u.step } := rfl
@[simp] theorem State.onStep_turnCh (n : Nat) (f : StepRec → StepRec) : (s.onStep n f).turnCh = s.turnCh := rfl
@[simp] theorem State.onStep_turnLeft (n : Nat) (f : StepRec → StepRec) : (s.onStep n f).turnLeft = s.turnLeft := rfl
@[simp] theorem State.onStep_cmds (n : Nat) (f : StepRec → StepRec) : (s.onStep n f).cmds = s.cmds := rfl
@[simp] theorem State.onStep_fins (n : Nat) (f : StepRec → StepRec) : (s.onStep n f).fins = s.fins := rfl
@[simp] theorem State.onStep_clamps (n : Nat) (f : StepRec → StepRec) : (s.onStep n f).clamps = s.clamps := rfl
@[simp] theorem State.onStep_regions (n : Nat) (f : StepRec → StepRec) : (s.onStep n f).regions = s.regions := rfl
@[simp] theorem State.onStep_stiles (n : Nat) (f : StepRec → StepRec) : (s.onStep n f).stiles = s.stiles := rfl
@[simp] theorem State.onStep_cap (n : Nat) (f : StepRec → StepRec) : (s.onStep n f).cap = s.cap := rfl
@[simp] theorem State.onStep_trigs (n : Nat) (f : StepRec → StepRec) : (s.onStep n f).trigs = s.trigs := rfl
@[simp] theorem State.onStep_ciph (n : Nat) (f : StepRec → StepRec) : (s.onStep n f).ciph = s.ciph := rfl
@[simp] theorem State.onStep_drbg (n : Nat) (f : StepRec → StepRec) : (s.onStep n f).drbg = s.drbg := rfl
@[simp] theorem State.onStep_keys (n : Nat) (f : StepRec → StepRec) : (s.onStep n f).keys = s.keys := rfl
@[simp] theorem State.onStep_stage (n : Nat) (f : StepRec → StepRec) : (s.onStep n f).stage = s.stage := rfl
@[simp] theorem State.onStep_tags (n : Nat) (f : StepRec → StepRec) : (s.onStep n f).tags = s.tags := rfl
@[simp] theorem State.onStep_trk (n : Nat) (f : StepRec → StepRec) : (s.onStep n f).trk = s.trk := rfl
@[simp] theorem State.onStep_sync (n : Nat) (f : StepRec → StepRec) : (s.onStep n f).sync = s.sync := rfl
@[simp] theorem State.onStep_chain (n : Nat) (f : StepRec → StepRec) : (s.onStep n f).chain = s.chain := rfl
@[simp] theorem State.onStep_chainW (n : Nat) (f : StepRec → StepRec) : (s.onStep n f).chainW = s.chainW := rfl
@[simp] theorem State.onStep_dgt (n : Nat) (f : StepRec → StepRec) : (s.onStep n f).dgt = s.dgt := rfl
@[simp] theorem State.onStep_sto (n : Nat) (f : StepRec → StepRec) : (s.onStep n f).sto = s.sto := rfl
@[simp] theorem State.onStep_sump (n : Nat) (f : StepRec → StepRec) : (s.onStep n f).sump = s.sump := rfl
@[simp] theorem State.onStep_svc (n : Nat) (f : StepRec → StepRec) : (s.onStep n f).svc = s.svc := rfl
@[simp] theorem State.onStep_jig (n : Nat) (f : StepRec → StepRec) : (s.onStep n f).jig = s.jig := rfl
@[simp] theorem State.onStep_feat (n : Nat) (f : StepRec → StepRec) : (s.onStep n f).feat = s.feat := rfl

/-! ## onSite -/

@[simp] theorem State.onSite_build (n : Nat) (f : Site → Site) : (s.onSite n f).build = s.build := rfl
@[simp] theorem State.onSite_fabPorts (n : Nat) (f : Site → Site) : (s.onSite n f).fabPorts = s.fabPorts := rfl
@[simp] theorem State.onSite_pending (n : Nat) (f : Site → Site) : (s.onSite n f).pending = s.pending := rfl
@[simp] theorem State.onSite_timeIn (n : Nat) (f : Site → Site) : (s.onSite n f).timeIn = s.timeIn := rfl
@[simp] theorem State.onSite_timeUsed (n : Nat) (f : Site → Site) : (s.onSite n f).timeUsed = s.timeUsed := rfl
@[simp] theorem State.onSite_timeBack (n : Nat) (f : Site → Site) : (s.onSite n f).timeBack = s.timeBack := rfl
@[simp] theorem State.onSite_free (n : Nat) (f : Site → Site) : (s.onSite n f).free = s.free := rfl
@[simp] theorem State.onSite_mem (n : Nat) (f : Site → Site) : (s.onSite n f).mem = s.mem := rfl
@[simp] theorem State.onSite_port (n : Nat) (f : Site → Site) : (s.onSite n f).port = s.port := rfl
@[simp] theorem State.onSite_lanes (n : Nat) (f : Site → Site) : (s.onSite n f).lanes = s.lanes := rfl
@[simp] theorem State.onSite_frz (n : Nat) (f : Site → Site) : (s.onSite n f).frz = s.frz := rfl
@[simp] theorem State.onSite_boot (n : Nat) (f : Site → Site) : (s.onSite n f).boot = s.boot := rfl
@[simp] theorem State.onSite_life (n : Nat) (f : Site → Site) : (s.onSite n f).life = s.life := rfl
@[simp] theorem State.onSite_pwr (n : Nat) (f : Site → Site) : (s.onSite n f).pwr = s.pwr := rfl
@[simp] theorem State.onSite_chambers (n : Nat) (f : Site → Site) : (s.onSite n f).chambers = s.chambers := rfl
@[simp] theorem State.onSite_units (n : Nat) (f : Site → Site) : (s.onSite n f).units = s.units.modify n fun u => { u with site := f u.site } := rfl
@[simp] theorem State.onSite_turnCh (n : Nat) (f : Site → Site) : (s.onSite n f).turnCh = s.turnCh := rfl
@[simp] theorem State.onSite_turnLeft (n : Nat) (f : Site → Site) : (s.onSite n f).turnLeft = s.turnLeft := rfl
@[simp] theorem State.onSite_cmds (n : Nat) (f : Site → Site) : (s.onSite n f).cmds = s.cmds := rfl
@[simp] theorem State.onSite_fins (n : Nat) (f : Site → Site) : (s.onSite n f).fins = s.fins := rfl
@[simp] theorem State.onSite_clamps (n : Nat) (f : Site → Site) : (s.onSite n f).clamps = s.clamps := rfl
@[simp] theorem State.onSite_regions (n : Nat) (f : Site → Site) : (s.onSite n f).regions = s.regions := rfl
@[simp] theorem State.onSite_stiles (n : Nat) (f : Site → Site) : (s.onSite n f).stiles = s.stiles := rfl
@[simp] theorem State.onSite_cap (n : Nat) (f : Site → Site) : (s.onSite n f).cap = s.cap := rfl
@[simp] theorem State.onSite_trigs (n : Nat) (f : Site → Site) : (s.onSite n f).trigs = s.trigs := rfl
@[simp] theorem State.onSite_ciph (n : Nat) (f : Site → Site) : (s.onSite n f).ciph = s.ciph := rfl
@[simp] theorem State.onSite_drbg (n : Nat) (f : Site → Site) : (s.onSite n f).drbg = s.drbg := rfl
@[simp] theorem State.onSite_keys (n : Nat) (f : Site → Site) : (s.onSite n f).keys = s.keys := rfl
@[simp] theorem State.onSite_stage (n : Nat) (f : Site → Site) : (s.onSite n f).stage = s.stage := rfl
@[simp] theorem State.onSite_tags (n : Nat) (f : Site → Site) : (s.onSite n f).tags = s.tags := rfl
@[simp] theorem State.onSite_trk (n : Nat) (f : Site → Site) : (s.onSite n f).trk = s.trk := rfl
@[simp] theorem State.onSite_sync (n : Nat) (f : Site → Site) : (s.onSite n f).sync = s.sync := rfl
@[simp] theorem State.onSite_chain (n : Nat) (f : Site → Site) : (s.onSite n f).chain = s.chain := rfl
@[simp] theorem State.onSite_chainW (n : Nat) (f : Site → Site) : (s.onSite n f).chainW = s.chainW := rfl
@[simp] theorem State.onSite_dgt (n : Nat) (f : Site → Site) : (s.onSite n f).dgt = s.dgt := rfl
@[simp] theorem State.onSite_sto (n : Nat) (f : Site → Site) : (s.onSite n f).sto = s.sto := rfl
@[simp] theorem State.onSite_sump (n : Nat) (f : Site → Site) : (s.onSite n f).sump = s.sump := rfl
@[simp] theorem State.onSite_svc (n : Nat) (f : Site → Site) : (s.onSite n f).svc = s.svc := rfl
@[simp] theorem State.onSite_jig (n : Nat) (f : Site → Site) : (s.onSite n f).jig = s.jig := rfl
@[simp] theorem State.onSite_feat (n : Nat) (f : Site → Site) : (s.onSite n f).feat = s.feat := rfl

/-! ## onSq -/

@[simp] theorem State.onSq_build (n q : Nat) (f : Sq → Sq) : (s.onSq n q f).build = s.build := rfl
@[simp] theorem State.onSq_fabPorts (n q : Nat) (f : Sq → Sq) : (s.onSq n q f).fabPorts = s.fabPorts := rfl
@[simp] theorem State.onSq_pending (n q : Nat) (f : Sq → Sq) : (s.onSq n q f).pending = s.pending := rfl
@[simp] theorem State.onSq_timeIn (n q : Nat) (f : Sq → Sq) : (s.onSq n q f).timeIn = s.timeIn := rfl
@[simp] theorem State.onSq_timeUsed (n q : Nat) (f : Sq → Sq) : (s.onSq n q f).timeUsed = s.timeUsed := rfl
@[simp] theorem State.onSq_timeBack (n q : Nat) (f : Sq → Sq) : (s.onSq n q f).timeBack = s.timeBack := rfl
@[simp] theorem State.onSq_free (n q : Nat) (f : Sq → Sq) : (s.onSq n q f).free = s.free := rfl
@[simp] theorem State.onSq_mem (n q : Nat) (f : Sq → Sq) : (s.onSq n q f).mem = s.mem := rfl
@[simp] theorem State.onSq_port (n q : Nat) (f : Sq → Sq) : (s.onSq n q f).port = s.port := rfl
@[simp] theorem State.onSq_lanes (n q : Nat) (f : Sq → Sq) : (s.onSq n q f).lanes = s.lanes := rfl
@[simp] theorem State.onSq_frz (n q : Nat) (f : Sq → Sq) : (s.onSq n q f).frz = s.frz := rfl
@[simp] theorem State.onSq_boot (n q : Nat) (f : Sq → Sq) : (s.onSq n q f).boot = s.boot := rfl
@[simp] theorem State.onSq_life (n q : Nat) (f : Sq → Sq) : (s.onSq n q f).life = s.life := rfl
@[simp] theorem State.onSq_pwr (n q : Nat) (f : Sq → Sq) : (s.onSq n q f).pwr = s.pwr := rfl
@[simp] theorem State.onSq_chambers (n q : Nat) (f : Sq → Sq) : (s.onSq n q f).chambers = s.chambers.modify n fun c => { c with sqs := c.sqs.modify q f } := rfl
@[simp] theorem State.onSq_units (n q : Nat) (f : Sq → Sq) : (s.onSq n q f).units = s.units := rfl
@[simp] theorem State.onSq_turnCh (n q : Nat) (f : Sq → Sq) : (s.onSq n q f).turnCh = s.turnCh := rfl
@[simp] theorem State.onSq_turnLeft (n q : Nat) (f : Sq → Sq) : (s.onSq n q f).turnLeft = s.turnLeft := rfl
@[simp] theorem State.onSq_cmds (n q : Nat) (f : Sq → Sq) : (s.onSq n q f).cmds = s.cmds := rfl
@[simp] theorem State.onSq_fins (n q : Nat) (f : Sq → Sq) : (s.onSq n q f).fins = s.fins := rfl
@[simp] theorem State.onSq_clamps (n q : Nat) (f : Sq → Sq) : (s.onSq n q f).clamps = s.clamps := rfl
@[simp] theorem State.onSq_regions (n q : Nat) (f : Sq → Sq) : (s.onSq n q f).regions = s.regions := rfl
@[simp] theorem State.onSq_stiles (n q : Nat) (f : Sq → Sq) : (s.onSq n q f).stiles = s.stiles := rfl
@[simp] theorem State.onSq_cap (n q : Nat) (f : Sq → Sq) : (s.onSq n q f).cap = s.cap := rfl
@[simp] theorem State.onSq_trigs (n q : Nat) (f : Sq → Sq) : (s.onSq n q f).trigs = s.trigs := rfl
@[simp] theorem State.onSq_ciph (n q : Nat) (f : Sq → Sq) : (s.onSq n q f).ciph = s.ciph := rfl
@[simp] theorem State.onSq_drbg (n q : Nat) (f : Sq → Sq) : (s.onSq n q f).drbg = s.drbg := rfl
@[simp] theorem State.onSq_keys (n q : Nat) (f : Sq → Sq) : (s.onSq n q f).keys = s.keys := rfl
@[simp] theorem State.onSq_stage (n q : Nat) (f : Sq → Sq) : (s.onSq n q f).stage = s.stage := rfl
@[simp] theorem State.onSq_tags (n q : Nat) (f : Sq → Sq) : (s.onSq n q f).tags = s.tags := rfl
@[simp] theorem State.onSq_trk (n q : Nat) (f : Sq → Sq) : (s.onSq n q f).trk = s.trk := rfl
@[simp] theorem State.onSq_sync (n q : Nat) (f : Sq → Sq) : (s.onSq n q f).sync = s.sync := rfl
@[simp] theorem State.onSq_chain (n q : Nat) (f : Sq → Sq) : (s.onSq n q f).chain = s.chain := rfl
@[simp] theorem State.onSq_chainW (n q : Nat) (f : Sq → Sq) : (s.onSq n q f).chainW = s.chainW := rfl
@[simp] theorem State.onSq_dgt (n q : Nat) (f : Sq → Sq) : (s.onSq n q f).dgt = s.dgt := rfl
@[simp] theorem State.onSq_sto (n q : Nat) (f : Sq → Sq) : (s.onSq n q f).sto = s.sto := rfl
@[simp] theorem State.onSq_sump (n q : Nat) (f : Sq → Sq) : (s.onSq n q f).sump = s.sump := rfl
@[simp] theorem State.onSq_svc (n q : Nat) (f : Sq → Sq) : (s.onSq n q f).svc = s.svc := rfl
@[simp] theorem State.onSq_jig (n q : Nat) (f : Sq → Sq) : (s.onSq n q f).jig = s.jig := rfl
@[simp] theorem State.onSq_feat (n q : Nat) (f : Sq → Sq) : (s.onSq n q f).feat = s.feat := rfl

/-! ## onCq -/

@[simp] theorem State.onCq_build (n q : Nat) (f : Cq → Cq) : (s.onCq n q f).build = s.build := rfl
@[simp] theorem State.onCq_fabPorts (n q : Nat) (f : Cq → Cq) : (s.onCq n q f).fabPorts = s.fabPorts := rfl
@[simp] theorem State.onCq_pending (n q : Nat) (f : Cq → Cq) : (s.onCq n q f).pending = s.pending := rfl
@[simp] theorem State.onCq_timeIn (n q : Nat) (f : Cq → Cq) : (s.onCq n q f).timeIn = s.timeIn := rfl
@[simp] theorem State.onCq_timeUsed (n q : Nat) (f : Cq → Cq) : (s.onCq n q f).timeUsed = s.timeUsed := rfl
@[simp] theorem State.onCq_timeBack (n q : Nat) (f : Cq → Cq) : (s.onCq n q f).timeBack = s.timeBack := rfl
@[simp] theorem State.onCq_free (n q : Nat) (f : Cq → Cq) : (s.onCq n q f).free = s.free := rfl
@[simp] theorem State.onCq_mem (n q : Nat) (f : Cq → Cq) : (s.onCq n q f).mem = s.mem := rfl
@[simp] theorem State.onCq_port (n q : Nat) (f : Cq → Cq) : (s.onCq n q f).port = s.port := rfl
@[simp] theorem State.onCq_lanes (n q : Nat) (f : Cq → Cq) : (s.onCq n q f).lanes = s.lanes := rfl
@[simp] theorem State.onCq_frz (n q : Nat) (f : Cq → Cq) : (s.onCq n q f).frz = s.frz := rfl
@[simp] theorem State.onCq_boot (n q : Nat) (f : Cq → Cq) : (s.onCq n q f).boot = s.boot := rfl
@[simp] theorem State.onCq_life (n q : Nat) (f : Cq → Cq) : (s.onCq n q f).life = s.life := rfl
@[simp] theorem State.onCq_pwr (n q : Nat) (f : Cq → Cq) : (s.onCq n q f).pwr = s.pwr := rfl
@[simp] theorem State.onCq_chambers (n q : Nat) (f : Cq → Cq) : (s.onCq n q f).chambers = s.chambers.modify n fun c => { c with cqs := c.cqs.modify q f } := rfl
@[simp] theorem State.onCq_units (n q : Nat) (f : Cq → Cq) : (s.onCq n q f).units = s.units := rfl
@[simp] theorem State.onCq_turnCh (n q : Nat) (f : Cq → Cq) : (s.onCq n q f).turnCh = s.turnCh := rfl
@[simp] theorem State.onCq_turnLeft (n q : Nat) (f : Cq → Cq) : (s.onCq n q f).turnLeft = s.turnLeft := rfl
@[simp] theorem State.onCq_cmds (n q : Nat) (f : Cq → Cq) : (s.onCq n q f).cmds = s.cmds := rfl
@[simp] theorem State.onCq_fins (n q : Nat) (f : Cq → Cq) : (s.onCq n q f).fins = s.fins := rfl
@[simp] theorem State.onCq_clamps (n q : Nat) (f : Cq → Cq) : (s.onCq n q f).clamps = s.clamps := rfl
@[simp] theorem State.onCq_regions (n q : Nat) (f : Cq → Cq) : (s.onCq n q f).regions = s.regions := rfl
@[simp] theorem State.onCq_stiles (n q : Nat) (f : Cq → Cq) : (s.onCq n q f).stiles = s.stiles := rfl
@[simp] theorem State.onCq_cap (n q : Nat) (f : Cq → Cq) : (s.onCq n q f).cap = s.cap := rfl
@[simp] theorem State.onCq_trigs (n q : Nat) (f : Cq → Cq) : (s.onCq n q f).trigs = s.trigs := rfl
@[simp] theorem State.onCq_ciph (n q : Nat) (f : Cq → Cq) : (s.onCq n q f).ciph = s.ciph := rfl
@[simp] theorem State.onCq_drbg (n q : Nat) (f : Cq → Cq) : (s.onCq n q f).drbg = s.drbg := rfl
@[simp] theorem State.onCq_keys (n q : Nat) (f : Cq → Cq) : (s.onCq n q f).keys = s.keys := rfl
@[simp] theorem State.onCq_stage (n q : Nat) (f : Cq → Cq) : (s.onCq n q f).stage = s.stage := rfl
@[simp] theorem State.onCq_tags (n q : Nat) (f : Cq → Cq) : (s.onCq n q f).tags = s.tags := rfl
@[simp] theorem State.onCq_trk (n q : Nat) (f : Cq → Cq) : (s.onCq n q f).trk = s.trk := rfl
@[simp] theorem State.onCq_sync (n q : Nat) (f : Cq → Cq) : (s.onCq n q f).sync = s.sync := rfl
@[simp] theorem State.onCq_chain (n q : Nat) (f : Cq → Cq) : (s.onCq n q f).chain = s.chain := rfl
@[simp] theorem State.onCq_chainW (n q : Nat) (f : Cq → Cq) : (s.onCq n q f).chainW = s.chainW := rfl
@[simp] theorem State.onCq_dgt (n q : Nat) (f : Cq → Cq) : (s.onCq n q f).dgt = s.dgt := rfl
@[simp] theorem State.onCq_sto (n q : Nat) (f : Cq → Cq) : (s.onCq n q f).sto = s.sto := rfl
@[simp] theorem State.onCq_sump (n q : Nat) (f : Cq → Cq) : (s.onCq n q f).sump = s.sump := rfl
@[simp] theorem State.onCq_svc (n q : Nat) (f : Cq → Cq) : (s.onCq n q f).svc = s.svc := rfl
@[simp] theorem State.onCq_jig (n q : Nat) (f : Cq → Cq) : (s.onCq n q f).jig = s.jig := rfl
@[simp] theorem State.onCq_feat (n q : Nat) (f : Cq → Cq) : (s.onCq n q f).feat = s.feat := rfl

/-! ## onSt -/

@[simp] theorem State.onSt_build (n : Nat) (f : Stile → Stile) : (s.onSt n f).build = s.build := rfl
@[simp] theorem State.onSt_fabPorts (n : Nat) (f : Stile → Stile) : (s.onSt n f).fabPorts = s.fabPorts := rfl
@[simp] theorem State.onSt_pending (n : Nat) (f : Stile → Stile) : (s.onSt n f).pending = s.pending := rfl
@[simp] theorem State.onSt_timeIn (n : Nat) (f : Stile → Stile) : (s.onSt n f).timeIn = s.timeIn := rfl
@[simp] theorem State.onSt_timeUsed (n : Nat) (f : Stile → Stile) : (s.onSt n f).timeUsed = s.timeUsed := rfl
@[simp] theorem State.onSt_timeBack (n : Nat) (f : Stile → Stile) : (s.onSt n f).timeBack = s.timeBack := rfl
@[simp] theorem State.onSt_free (n : Nat) (f : Stile → Stile) : (s.onSt n f).free = s.free := rfl
@[simp] theorem State.onSt_mem (n : Nat) (f : Stile → Stile) : (s.onSt n f).mem = s.mem := rfl
@[simp] theorem State.onSt_port (n : Nat) (f : Stile → Stile) : (s.onSt n f).port = s.port := rfl
@[simp] theorem State.onSt_lanes (n : Nat) (f : Stile → Stile) : (s.onSt n f).lanes = s.lanes := rfl
@[simp] theorem State.onSt_frz (n : Nat) (f : Stile → Stile) : (s.onSt n f).frz = s.frz := rfl
@[simp] theorem State.onSt_boot (n : Nat) (f : Stile → Stile) : (s.onSt n f).boot = s.boot := rfl
@[simp] theorem State.onSt_life (n : Nat) (f : Stile → Stile) : (s.onSt n f).life = s.life := rfl
@[simp] theorem State.onSt_pwr (n : Nat) (f : Stile → Stile) : (s.onSt n f).pwr = s.pwr := rfl
@[simp] theorem State.onSt_chambers (n : Nat) (f : Stile → Stile) : (s.onSt n f).chambers = s.chambers := rfl
@[simp] theorem State.onSt_units (n : Nat) (f : Stile → Stile) : (s.onSt n f).units = s.units := rfl
@[simp] theorem State.onSt_turnCh (n : Nat) (f : Stile → Stile) : (s.onSt n f).turnCh = s.turnCh := rfl
@[simp] theorem State.onSt_turnLeft (n : Nat) (f : Stile → Stile) : (s.onSt n f).turnLeft = s.turnLeft := rfl
@[simp] theorem State.onSt_cmds (n : Nat) (f : Stile → Stile) : (s.onSt n f).cmds = s.cmds := rfl
@[simp] theorem State.onSt_fins (n : Nat) (f : Stile → Stile) : (s.onSt n f).fins = s.fins := rfl
@[simp] theorem State.onSt_clamps (n : Nat) (f : Stile → Stile) : (s.onSt n f).clamps = s.clamps := rfl
@[simp] theorem State.onSt_regions (n : Nat) (f : Stile → Stile) : (s.onSt n f).regions = s.regions := rfl
@[simp] theorem State.onSt_stiles (n : Nat) (f : Stile → Stile) : (s.onSt n f).stiles = s.stiles.modify n f := rfl
@[simp] theorem State.onSt_cap (n : Nat) (f : Stile → Stile) : (s.onSt n f).cap = s.cap := rfl
@[simp] theorem State.onSt_trigs (n : Nat) (f : Stile → Stile) : (s.onSt n f).trigs = s.trigs := rfl
@[simp] theorem State.onSt_ciph (n : Nat) (f : Stile → Stile) : (s.onSt n f).ciph = s.ciph := rfl
@[simp] theorem State.onSt_drbg (n : Nat) (f : Stile → Stile) : (s.onSt n f).drbg = s.drbg := rfl
@[simp] theorem State.onSt_keys (n : Nat) (f : Stile → Stile) : (s.onSt n f).keys = s.keys := rfl
@[simp] theorem State.onSt_stage (n : Nat) (f : Stile → Stile) : (s.onSt n f).stage = s.stage := rfl
@[simp] theorem State.onSt_tags (n : Nat) (f : Stile → Stile) : (s.onSt n f).tags = s.tags := rfl
@[simp] theorem State.onSt_trk (n : Nat) (f : Stile → Stile) : (s.onSt n f).trk = s.trk := rfl
@[simp] theorem State.onSt_sync (n : Nat) (f : Stile → Stile) : (s.onSt n f).sync = s.sync := rfl
@[simp] theorem State.onSt_chain (n : Nat) (f : Stile → Stile) : (s.onSt n f).chain = s.chain := rfl
@[simp] theorem State.onSt_chainW (n : Nat) (f : Stile → Stile) : (s.onSt n f).chainW = s.chainW := rfl
@[simp] theorem State.onSt_dgt (n : Nat) (f : Stile → Stile) : (s.onSt n f).dgt = s.dgt := rfl
@[simp] theorem State.onSt_sto (n : Nat) (f : Stile → Stile) : (s.onSt n f).sto = s.sto := rfl
@[simp] theorem State.onSt_sump (n : Nat) (f : Stile → Stile) : (s.onSt n f).sump = s.sump := rfl
@[simp] theorem State.onSt_svc (n : Nat) (f : Stile → Stile) : (s.onSt n f).svc = s.svc := rfl
@[simp] theorem State.onSt_jig (n : Nat) (f : Stile → Stile) : (s.onSt n f).jig = s.jig := rfl
@[simp] theorem State.onSt_feat (n : Nat) (f : Stile → Stile) : (s.onSt n f).feat = s.feat := rfl

/-! ## onObj -/

@[simp] theorem State.onObj_build (i : Nat) (f : SyncObj → SyncObj) : (s.onObj i f).build = s.build := rfl
@[simp] theorem State.onObj_fabPorts (i : Nat) (f : SyncObj → SyncObj) : (s.onObj i f).fabPorts = s.fabPorts := rfl
@[simp] theorem State.onObj_pending (i : Nat) (f : SyncObj → SyncObj) : (s.onObj i f).pending = s.pending := rfl
@[simp] theorem State.onObj_timeIn (i : Nat) (f : SyncObj → SyncObj) : (s.onObj i f).timeIn = s.timeIn := rfl
@[simp] theorem State.onObj_timeUsed (i : Nat) (f : SyncObj → SyncObj) : (s.onObj i f).timeUsed = s.timeUsed := rfl
@[simp] theorem State.onObj_timeBack (i : Nat) (f : SyncObj → SyncObj) : (s.onObj i f).timeBack = s.timeBack := rfl
@[simp] theorem State.onObj_free (i : Nat) (f : SyncObj → SyncObj) : (s.onObj i f).free = s.free := rfl
@[simp] theorem State.onObj_mem (i : Nat) (f : SyncObj → SyncObj) : (s.onObj i f).mem = s.mem := rfl
@[simp] theorem State.onObj_port (i : Nat) (f : SyncObj → SyncObj) : (s.onObj i f).port = s.port := rfl
@[simp] theorem State.onObj_lanes (i : Nat) (f : SyncObj → SyncObj) : (s.onObj i f).lanes = s.lanes := rfl
@[simp] theorem State.onObj_frz (i : Nat) (f : SyncObj → SyncObj) : (s.onObj i f).frz = s.frz := rfl
@[simp] theorem State.onObj_boot (i : Nat) (f : SyncObj → SyncObj) : (s.onObj i f).boot = s.boot := rfl
@[simp] theorem State.onObj_life (i : Nat) (f : SyncObj → SyncObj) : (s.onObj i f).life = s.life := rfl
@[simp] theorem State.onObj_pwr (i : Nat) (f : SyncObj → SyncObj) : (s.onObj i f).pwr = s.pwr := rfl
@[simp] theorem State.onObj_chambers (i : Nat) (f : SyncObj → SyncObj) : (s.onObj i f).chambers = s.chambers := rfl
@[simp] theorem State.onObj_units (i : Nat) (f : SyncObj → SyncObj) : (s.onObj i f).units = s.units := rfl
@[simp] theorem State.onObj_turnCh (i : Nat) (f : SyncObj → SyncObj) : (s.onObj i f).turnCh = s.turnCh := rfl
@[simp] theorem State.onObj_turnLeft (i : Nat) (f : SyncObj → SyncObj) : (s.onObj i f).turnLeft = s.turnLeft := rfl
@[simp] theorem State.onObj_cmds (i : Nat) (f : SyncObj → SyncObj) : (s.onObj i f).cmds = s.cmds := rfl
@[simp] theorem State.onObj_fins (i : Nat) (f : SyncObj → SyncObj) : (s.onObj i f).fins = s.fins := rfl
@[simp] theorem State.onObj_clamps (i : Nat) (f : SyncObj → SyncObj) : (s.onObj i f).clamps = s.clamps := rfl
@[simp] theorem State.onObj_regions (i : Nat) (f : SyncObj → SyncObj) : (s.onObj i f).regions = s.regions := rfl
@[simp] theorem State.onObj_stiles (i : Nat) (f : SyncObj → SyncObj) : (s.onObj i f).stiles = s.stiles := rfl
@[simp] theorem State.onObj_cap (i : Nat) (f : SyncObj → SyncObj) : (s.onObj i f).cap = s.cap := rfl
@[simp] theorem State.onObj_trigs (i : Nat) (f : SyncObj → SyncObj) : (s.onObj i f).trigs = s.trigs := rfl
@[simp] theorem State.onObj_ciph (i : Nat) (f : SyncObj → SyncObj) : (s.onObj i f).ciph = s.ciph := rfl
@[simp] theorem State.onObj_drbg (i : Nat) (f : SyncObj → SyncObj) : (s.onObj i f).drbg = s.drbg := rfl
@[simp] theorem State.onObj_keys (i : Nat) (f : SyncObj → SyncObj) : (s.onObj i f).keys = s.keys := rfl
@[simp] theorem State.onObj_stage (i : Nat) (f : SyncObj → SyncObj) : (s.onObj i f).stage = s.stage := rfl
@[simp] theorem State.onObj_tags (i : Nat) (f : SyncObj → SyncObj) : (s.onObj i f).tags = s.tags := rfl
@[simp] theorem State.onObj_trk (i : Nat) (f : SyncObj → SyncObj) : (s.onObj i f).trk = s.trk := rfl
@[simp] theorem State.onObj_chain (i : Nat) (f : SyncObj → SyncObj) : (s.onObj i f).chain = s.chain := rfl
@[simp] theorem State.onObj_chainW (i : Nat) (f : SyncObj → SyncObj) : (s.onObj i f).chainW = s.chainW := rfl
@[simp] theorem State.onObj_dgt (i : Nat) (f : SyncObj → SyncObj) : (s.onObj i f).dgt = s.dgt := rfl
@[simp] theorem State.onObj_sto (i : Nat) (f : SyncObj → SyncObj) : (s.onObj i f).sto = s.sto := rfl
@[simp] theorem State.onObj_sump (i : Nat) (f : SyncObj → SyncObj) : (s.onObj i f).sump = s.sump := rfl
@[simp] theorem State.onObj_svc (i : Nat) (f : SyncObj → SyncObj) : (s.onObj i f).svc = s.svc := rfl
@[simp] theorem State.onObj_jig (i : Nat) (f : SyncObj → SyncObj) : (s.onObj i f).jig = s.jig := rfl
@[simp] theorem State.onObj_feat (i : Nat) (f : SyncObj → SyncObj) : (s.onObj i f).feat = s.feat := rfl

/-! ## onKey -/

@[simp] theorem State.onKey_build (i : Nat) (f : KeySlot → KeySlot) : (s.onKey i f).build = s.build := rfl
@[simp] theorem State.onKey_fabPorts (i : Nat) (f : KeySlot → KeySlot) : (s.onKey i f).fabPorts = s.fabPorts := rfl
@[simp] theorem State.onKey_pending (i : Nat) (f : KeySlot → KeySlot) : (s.onKey i f).pending = s.pending := rfl
@[simp] theorem State.onKey_timeIn (i : Nat) (f : KeySlot → KeySlot) : (s.onKey i f).timeIn = s.timeIn := rfl
@[simp] theorem State.onKey_timeUsed (i : Nat) (f : KeySlot → KeySlot) : (s.onKey i f).timeUsed = s.timeUsed := rfl
@[simp] theorem State.onKey_timeBack (i : Nat) (f : KeySlot → KeySlot) : (s.onKey i f).timeBack = s.timeBack := rfl
@[simp] theorem State.onKey_free (i : Nat) (f : KeySlot → KeySlot) : (s.onKey i f).free = s.free := rfl
@[simp] theorem State.onKey_mem (i : Nat) (f : KeySlot → KeySlot) : (s.onKey i f).mem = s.mem := rfl
@[simp] theorem State.onKey_port (i : Nat) (f : KeySlot → KeySlot) : (s.onKey i f).port = s.port := rfl
@[simp] theorem State.onKey_lanes (i : Nat) (f : KeySlot → KeySlot) : (s.onKey i f).lanes = s.lanes := rfl
@[simp] theorem State.onKey_frz (i : Nat) (f : KeySlot → KeySlot) : (s.onKey i f).frz = s.frz := rfl
@[simp] theorem State.onKey_boot (i : Nat) (f : KeySlot → KeySlot) : (s.onKey i f).boot = s.boot := rfl
@[simp] theorem State.onKey_life (i : Nat) (f : KeySlot → KeySlot) : (s.onKey i f).life = s.life := rfl
@[simp] theorem State.onKey_pwr (i : Nat) (f : KeySlot → KeySlot) : (s.onKey i f).pwr = s.pwr := rfl
@[simp] theorem State.onKey_chambers (i : Nat) (f : KeySlot → KeySlot) : (s.onKey i f).chambers = s.chambers := rfl
@[simp] theorem State.onKey_units (i : Nat) (f : KeySlot → KeySlot) : (s.onKey i f).units = s.units := rfl
@[simp] theorem State.onKey_turnCh (i : Nat) (f : KeySlot → KeySlot) : (s.onKey i f).turnCh = s.turnCh := rfl
@[simp] theorem State.onKey_turnLeft (i : Nat) (f : KeySlot → KeySlot) : (s.onKey i f).turnLeft = s.turnLeft := rfl
@[simp] theorem State.onKey_cmds (i : Nat) (f : KeySlot → KeySlot) : (s.onKey i f).cmds = s.cmds := rfl
@[simp] theorem State.onKey_fins (i : Nat) (f : KeySlot → KeySlot) : (s.onKey i f).fins = s.fins := rfl
@[simp] theorem State.onKey_clamps (i : Nat) (f : KeySlot → KeySlot) : (s.onKey i f).clamps = s.clamps := rfl
@[simp] theorem State.onKey_regions (i : Nat) (f : KeySlot → KeySlot) : (s.onKey i f).regions = s.regions := rfl
@[simp] theorem State.onKey_stiles (i : Nat) (f : KeySlot → KeySlot) : (s.onKey i f).stiles = s.stiles := rfl
@[simp] theorem State.onKey_cap (i : Nat) (f : KeySlot → KeySlot) : (s.onKey i f).cap = s.cap := rfl
@[simp] theorem State.onKey_trigs (i : Nat) (f : KeySlot → KeySlot) : (s.onKey i f).trigs = s.trigs := rfl
@[simp] theorem State.onKey_ciph (i : Nat) (f : KeySlot → KeySlot) : (s.onKey i f).ciph = s.ciph := rfl
@[simp] theorem State.onKey_drbg (i : Nat) (f : KeySlot → KeySlot) : (s.onKey i f).drbg = s.drbg := rfl
@[simp] theorem State.onKey_keys (i : Nat) (f : KeySlot → KeySlot) : (s.onKey i f).keys = s.keys.modify i f := rfl
@[simp] theorem State.onKey_stage (i : Nat) (f : KeySlot → KeySlot) : (s.onKey i f).stage = s.stage := rfl
@[simp] theorem State.onKey_tags (i : Nat) (f : KeySlot → KeySlot) : (s.onKey i f).tags = s.tags := rfl
@[simp] theorem State.onKey_trk (i : Nat) (f : KeySlot → KeySlot) : (s.onKey i f).trk = s.trk := rfl
@[simp] theorem State.onKey_sync (i : Nat) (f : KeySlot → KeySlot) : (s.onKey i f).sync = s.sync := rfl
@[simp] theorem State.onKey_chain (i : Nat) (f : KeySlot → KeySlot) : (s.onKey i f).chain = s.chain := rfl
@[simp] theorem State.onKey_chainW (i : Nat) (f : KeySlot → KeySlot) : (s.onKey i f).chainW = s.chainW := rfl
@[simp] theorem State.onKey_dgt (i : Nat) (f : KeySlot → KeySlot) : (s.onKey i f).dgt = s.dgt := rfl
@[simp] theorem State.onKey_sto (i : Nat) (f : KeySlot → KeySlot) : (s.onKey i f).sto = s.sto := rfl
@[simp] theorem State.onKey_sump (i : Nat) (f : KeySlot → KeySlot) : (s.onKey i f).sump = s.sump := rfl
@[simp] theorem State.onKey_svc (i : Nat) (f : KeySlot → KeySlot) : (s.onKey i f).svc = s.svc := rfl
@[simp] theorem State.onKey_jig (i : Nat) (f : KeySlot → KeySlot) : (s.onKey i f).jig = s.jig := rfl
@[simp] theorem State.onKey_feat (i : Nat) (f : KeySlot → KeySlot) : (s.onKey i f).feat = s.feat := rfl

/-! ## onNvme -/

@[simp] theorem State.onNvme_build (c : Nat) (f : Nvme → Nvme) : (s.onNvme c f).build = s.build := rfl
@[simp] theorem State.onNvme_fabPorts (c : Nat) (f : Nvme → Nvme) : (s.onNvme c f).fabPorts = s.fabPorts := rfl
@[simp] theorem State.onNvme_pending (c : Nat) (f : Nvme → Nvme) : (s.onNvme c f).pending = s.pending := rfl
@[simp] theorem State.onNvme_timeIn (c : Nat) (f : Nvme → Nvme) : (s.onNvme c f).timeIn = s.timeIn := rfl
@[simp] theorem State.onNvme_timeUsed (c : Nat) (f : Nvme → Nvme) : (s.onNvme c f).timeUsed = s.timeUsed := rfl
@[simp] theorem State.onNvme_timeBack (c : Nat) (f : Nvme → Nvme) : (s.onNvme c f).timeBack = s.timeBack := rfl
@[simp] theorem State.onNvme_free (c : Nat) (f : Nvme → Nvme) : (s.onNvme c f).free = s.free := rfl
@[simp] theorem State.onNvme_mem (c : Nat) (f : Nvme → Nvme) : (s.onNvme c f).mem = s.mem := rfl
@[simp] theorem State.onNvme_port (c : Nat) (f : Nvme → Nvme) : (s.onNvme c f).port = s.port := rfl
@[simp] theorem State.onNvme_lanes (c : Nat) (f : Nvme → Nvme) : (s.onNvme c f).lanes = s.lanes := rfl
@[simp] theorem State.onNvme_frz (c : Nat) (f : Nvme → Nvme) : (s.onNvme c f).frz = s.frz := rfl
@[simp] theorem State.onNvme_boot (c : Nat) (f : Nvme → Nvme) : (s.onNvme c f).boot = s.boot := rfl
@[simp] theorem State.onNvme_life (c : Nat) (f : Nvme → Nvme) : (s.onNvme c f).life = s.life := rfl
@[simp] theorem State.onNvme_pwr (c : Nat) (f : Nvme → Nvme) : (s.onNvme c f).pwr = s.pwr := rfl
@[simp] theorem State.onNvme_chambers (c : Nat) (f : Nvme → Nvme) : (s.onNvme c f).chambers = s.chambers := rfl
@[simp] theorem State.onNvme_units (c : Nat) (f : Nvme → Nvme) : (s.onNvme c f).units = s.units := rfl
@[simp] theorem State.onNvme_turnCh (c : Nat) (f : Nvme → Nvme) : (s.onNvme c f).turnCh = s.turnCh := rfl
@[simp] theorem State.onNvme_turnLeft (c : Nat) (f : Nvme → Nvme) : (s.onNvme c f).turnLeft = s.turnLeft := rfl
@[simp] theorem State.onNvme_cmds (c : Nat) (f : Nvme → Nvme) : (s.onNvme c f).cmds = s.cmds := rfl
@[simp] theorem State.onNvme_fins (c : Nat) (f : Nvme → Nvme) : (s.onNvme c f).fins = s.fins := rfl
@[simp] theorem State.onNvme_clamps (c : Nat) (f : Nvme → Nvme) : (s.onNvme c f).clamps = s.clamps := rfl
@[simp] theorem State.onNvme_regions (c : Nat) (f : Nvme → Nvme) : (s.onNvme c f).regions = s.regions := rfl
@[simp] theorem State.onNvme_stiles (c : Nat) (f : Nvme → Nvme) : (s.onNvme c f).stiles = s.stiles := rfl
@[simp] theorem State.onNvme_cap (c : Nat) (f : Nvme → Nvme) : (s.onNvme c f).cap = s.cap := rfl
@[simp] theorem State.onNvme_trigs (c : Nat) (f : Nvme → Nvme) : (s.onNvme c f).trigs = s.trigs := rfl
@[simp] theorem State.onNvme_ciph (c : Nat) (f : Nvme → Nvme) : (s.onNvme c f).ciph = s.ciph := rfl
@[simp] theorem State.onNvme_drbg (c : Nat) (f : Nvme → Nvme) : (s.onNvme c f).drbg = s.drbg := rfl
@[simp] theorem State.onNvme_keys (c : Nat) (f : Nvme → Nvme) : (s.onNvme c f).keys = s.keys := rfl
@[simp] theorem State.onNvme_stage (c : Nat) (f : Nvme → Nvme) : (s.onNvme c f).stage = s.stage := rfl
@[simp] theorem State.onNvme_tags (c : Nat) (f : Nvme → Nvme) : (s.onNvme c f).tags = s.tags := rfl
@[simp] theorem State.onNvme_trk (c : Nat) (f : Nvme → Nvme) : (s.onNvme c f).trk = s.trk := rfl
@[simp] theorem State.onNvme_sync (c : Nat) (f : Nvme → Nvme) : (s.onNvme c f).sync = s.sync := rfl
@[simp] theorem State.onNvme_chain (c : Nat) (f : Nvme → Nvme) : (s.onNvme c f).chain = s.chain := rfl
@[simp] theorem State.onNvme_chainW (c : Nat) (f : Nvme → Nvme) : (s.onNvme c f).chainW = s.chainW := rfl
@[simp] theorem State.onNvme_dgt (c : Nat) (f : Nvme → Nvme) : (s.onNvme c f).dgt = s.dgt := rfl
@[simp] theorem State.onNvme_sto (c : Nat) (f : Nvme → Nvme) : (s.onNvme c f).sto = { s.sto with ctrls := s.sto.ctrls.modify c f } := rfl
@[simp] theorem State.onNvme_sump (c : Nat) (f : Nvme → Nvme) : (s.onNvme c f).sump = s.sump := rfl
@[simp] theorem State.onNvme_svc (c : Nat) (f : Nvme → Nvme) : (s.onNvme c f).svc = s.svc := rfl
@[simp] theorem State.onNvme_jig (c : Nat) (f : Nvme → Nvme) : (s.onNvme c f).jig = s.jig := rfl
@[simp] theorem State.onNvme_feat (c : Nat) (f : Nvme → Nvme) : (s.onNvme c f).feat = s.feat := rfl

/-! ## useTime -/

@[simp] theorem State.useTime_build : (s.useTime).build = s.build := rfl
@[simp] theorem State.useTime_fabPorts : (s.useTime).fabPorts = s.fabPorts := rfl
@[simp] theorem State.useTime_pending : (s.useTime).pending = s.pending := rfl
@[simp] theorem State.useTime_timeIn : (s.useTime).timeIn = s.timeIn := rfl
@[simp] theorem State.useTime_timeUsed : (s.useTime).timeUsed = s.now := rfl
@[simp] theorem State.useTime_timeBack : (s.useTime).timeBack = s.timeBack := rfl
@[simp] theorem State.useTime_free : (s.useTime).free = s.free := rfl
@[simp] theorem State.useTime_mem : (s.useTime).mem = s.mem := rfl
@[simp] theorem State.useTime_port : (s.useTime).port = s.port := rfl
@[simp] theorem State.useTime_lanes : (s.useTime).lanes = s.lanes := rfl
@[simp] theorem State.useTime_frz : (s.useTime).frz = s.frz := rfl
@[simp] theorem State.useTime_boot : (s.useTime).boot = s.boot := rfl
@[simp] theorem State.useTime_life : (s.useTime).life = s.life := rfl
@[simp] theorem State.useTime_pwr : (s.useTime).pwr = s.pwr := rfl
@[simp] theorem State.useTime_chambers : (s.useTime).chambers = s.chambers := rfl
@[simp] theorem State.useTime_units : (s.useTime).units = s.units := rfl
@[simp] theorem State.useTime_turnCh : (s.useTime).turnCh = s.turnCh := rfl
@[simp] theorem State.useTime_turnLeft : (s.useTime).turnLeft = s.turnLeft := rfl
@[simp] theorem State.useTime_cmds : (s.useTime).cmds = s.cmds := rfl
@[simp] theorem State.useTime_fins : (s.useTime).fins = s.fins := rfl
@[simp] theorem State.useTime_clamps : (s.useTime).clamps = s.clamps := rfl
@[simp] theorem State.useTime_regions : (s.useTime).regions = s.regions := rfl
@[simp] theorem State.useTime_stiles : (s.useTime).stiles = s.stiles := rfl
@[simp] theorem State.useTime_cap : (s.useTime).cap = s.cap := rfl
@[simp] theorem State.useTime_trigs : (s.useTime).trigs = s.trigs := rfl
@[simp] theorem State.useTime_ciph : (s.useTime).ciph = s.ciph := rfl
@[simp] theorem State.useTime_drbg : (s.useTime).drbg = s.drbg := rfl
@[simp] theorem State.useTime_keys : (s.useTime).keys = s.keys := rfl
@[simp] theorem State.useTime_stage : (s.useTime).stage = s.stage := rfl
@[simp] theorem State.useTime_tags : (s.useTime).tags = s.tags := rfl
@[simp] theorem State.useTime_trk : (s.useTime).trk = s.trk := rfl
@[simp] theorem State.useTime_sync : (s.useTime).sync = s.sync := rfl
@[simp] theorem State.useTime_chain : (s.useTime).chain = s.chain := rfl
@[simp] theorem State.useTime_chainW : (s.useTime).chainW = s.chainW := rfl
@[simp] theorem State.useTime_dgt : (s.useTime).dgt = s.dgt := rfl
@[simp] theorem State.useTime_sto : (s.useTime).sto = s.sto := rfl
@[simp] theorem State.useTime_sump : (s.useTime).sump = s.sump := rfl
@[simp] theorem State.useTime_svc : (s.useTime).svc = s.svc := rfl
@[simp] theorem State.useTime_jig : (s.useTime).jig = s.jig := rfl
@[simp] theorem State.useTime_feat : (s.useTime).feat = s.feat := rfl

/-! ## freeNat -/

@[simp] theorem State.freeNat_build : (s.freeNat.2).build = s.build := rfl
@[simp] theorem State.freeNat_fabPorts : (s.freeNat.2).fabPorts = s.fabPorts := rfl
@[simp] theorem State.freeNat_pending : (s.freeNat.2).pending = s.pending := rfl
@[simp] theorem State.freeNat_timeIn : (s.freeNat.2).timeIn = s.timeIn := rfl
@[simp] theorem State.freeNat_timeUsed : (s.freeNat.2).timeUsed = s.timeUsed := rfl
@[simp] theorem State.freeNat_timeBack : (s.freeNat.2).timeBack = s.timeBack := rfl
@[simp] theorem State.freeNat_free : (s.freeNat.2).free = s.free + 1 := rfl
@[simp] theorem State.freeNat_mem : (s.freeNat.2).mem = s.mem := rfl
@[simp] theorem State.freeNat_port : (s.freeNat.2).port = s.port := rfl
@[simp] theorem State.freeNat_lanes : (s.freeNat.2).lanes = s.lanes := rfl
@[simp] theorem State.freeNat_frz : (s.freeNat.2).frz = s.frz := rfl
@[simp] theorem State.freeNat_boot : (s.freeNat.2).boot = s.boot := rfl
@[simp] theorem State.freeNat_life : (s.freeNat.2).life = s.life := rfl
@[simp] theorem State.freeNat_pwr : (s.freeNat.2).pwr = s.pwr := rfl
@[simp] theorem State.freeNat_chambers : (s.freeNat.2).chambers = s.chambers := rfl
@[simp] theorem State.freeNat_units : (s.freeNat.2).units = s.units := rfl
@[simp] theorem State.freeNat_turnCh : (s.freeNat.2).turnCh = s.turnCh := rfl
@[simp] theorem State.freeNat_turnLeft : (s.freeNat.2).turnLeft = s.turnLeft := rfl
@[simp] theorem State.freeNat_cmds : (s.freeNat.2).cmds = s.cmds := rfl
@[simp] theorem State.freeNat_fins : (s.freeNat.2).fins = s.fins := rfl
@[simp] theorem State.freeNat_clamps : (s.freeNat.2).clamps = s.clamps := rfl
@[simp] theorem State.freeNat_regions : (s.freeNat.2).regions = s.regions := rfl
@[simp] theorem State.freeNat_stiles : (s.freeNat.2).stiles = s.stiles := rfl
@[simp] theorem State.freeNat_cap : (s.freeNat.2).cap = s.cap := rfl
@[simp] theorem State.freeNat_trigs : (s.freeNat.2).trigs = s.trigs := rfl
@[simp] theorem State.freeNat_ciph : (s.freeNat.2).ciph = s.ciph := rfl
@[simp] theorem State.freeNat_drbg : (s.freeNat.2).drbg = s.drbg := rfl
@[simp] theorem State.freeNat_keys : (s.freeNat.2).keys = s.keys := rfl
@[simp] theorem State.freeNat_stage : (s.freeNat.2).stage = s.stage := rfl
@[simp] theorem State.freeNat_tags : (s.freeNat.2).tags = s.tags := rfl
@[simp] theorem State.freeNat_trk : (s.freeNat.2).trk = s.trk := rfl
@[simp] theorem State.freeNat_sync : (s.freeNat.2).sync = s.sync := rfl
@[simp] theorem State.freeNat_chain : (s.freeNat.2).chain = s.chain := rfl
@[simp] theorem State.freeNat_chainW : (s.freeNat.2).chainW = s.chainW := rfl
@[simp] theorem State.freeNat_dgt : (s.freeNat.2).dgt = s.dgt := rfl
@[simp] theorem State.freeNat_sto : (s.freeNat.2).sto = s.sto := rfl
@[simp] theorem State.freeNat_sump : (s.freeNat.2).sump = s.sump := rfl
@[simp] theorem State.freeNat_svc : (s.freeNat.2).svc = s.svc := rfl
@[simp] theorem State.freeNat_jig : (s.freeNat.2).jig = s.jig := rfl
@[simp] theorem State.freeNat_feat : (s.freeNat.2).feat = s.feat := rfl

/-! ## draw -/

@[simp] theorem State.draw_build : (s.draw.2).build = s.build := rfl
@[simp] theorem State.draw_fabPorts : (s.draw.2).fabPorts = s.fabPorts := rfl
@[simp] theorem State.draw_pending : (s.draw.2).pending = s.pending := rfl
@[simp] theorem State.draw_timeIn : (s.draw.2).timeIn = s.timeIn := rfl
@[simp] theorem State.draw_timeUsed : (s.draw.2).timeUsed = s.timeUsed := rfl
@[simp] theorem State.draw_timeBack : (s.draw.2).timeBack = s.timeBack := rfl
@[simp] theorem State.draw_free : (s.draw.2).free = s.free := rfl
@[simp] theorem State.draw_mem : (s.draw.2).mem = s.mem := rfl
@[simp] theorem State.draw_port : (s.draw.2).port = s.port := rfl
@[simp] theorem State.draw_lanes : (s.draw.2).lanes = s.lanes := rfl
@[simp] theorem State.draw_frz : (s.draw.2).frz = s.frz := rfl
@[simp] theorem State.draw_boot : (s.draw.2).boot = s.boot := rfl
@[simp] theorem State.draw_life : (s.draw.2).life = s.life := rfl
@[simp] theorem State.draw_pwr : (s.draw.2).pwr = s.pwr := rfl
@[simp] theorem State.draw_chambers : (s.draw.2).chambers = s.chambers := rfl
@[simp] theorem State.draw_units : (s.draw.2).units = s.units := rfl
@[simp] theorem State.draw_turnCh : (s.draw.2).turnCh = s.turnCh := rfl
@[simp] theorem State.draw_turnLeft : (s.draw.2).turnLeft = s.turnLeft := rfl
@[simp] theorem State.draw_cmds : (s.draw.2).cmds = s.cmds := rfl
@[simp] theorem State.draw_fins : (s.draw.2).fins = s.fins := rfl
@[simp] theorem State.draw_clamps : (s.draw.2).clamps = s.clamps := rfl
@[simp] theorem State.draw_regions : (s.draw.2).regions = s.regions := rfl
@[simp] theorem State.draw_stiles : (s.draw.2).stiles = s.stiles := rfl
@[simp] theorem State.draw_cap : (s.draw.2).cap = s.cap := rfl
@[simp] theorem State.draw_trigs : (s.draw.2).trigs = s.trigs := rfl
@[simp] theorem State.draw_ciph : (s.draw.2).ciph = s.ciph := rfl
@[simp] theorem State.draw_drbg : (s.draw.2).drbg = { s.drbg with live := true, draws := s.drbg.draws + 1, generates := s.drbg.generates + 1 } := rfl
@[simp] theorem State.draw_keys : (s.draw.2).keys = s.keys := rfl
@[simp] theorem State.draw_stage : (s.draw.2).stage = s.stage := rfl
@[simp] theorem State.draw_tags : (s.draw.2).tags = s.tags := rfl
@[simp] theorem State.draw_trk : (s.draw.2).trk = s.trk := rfl
@[simp] theorem State.draw_sync : (s.draw.2).sync = s.sync := rfl
@[simp] theorem State.draw_chain : (s.draw.2).chain = s.chain := rfl
@[simp] theorem State.draw_chainW : (s.draw.2).chainW = s.chainW := rfl
@[simp] theorem State.draw_dgt : (s.draw.2).dgt = s.dgt := rfl
@[simp] theorem State.draw_sto : (s.draw.2).sto = s.sto := rfl
@[simp] theorem State.draw_sump : (s.draw.2).sump = s.sump := rfl
@[simp] theorem State.draw_svc : (s.draw.2).svc = s.svc := rfl
@[simp] theorem State.draw_jig : (s.draw.2).jig = s.jig := rfl
@[simp] theorem State.draw_feat : (s.draw.2).feat = s.feat := rfl

/-! ## poke -/

@[simp] theorem State.poke_build (a : Nat) (d : List Byte) : (s.poke a d).build = s.build := by cases s; rfl
@[simp] theorem State.poke_fabPorts (a : Nat) (d : List Byte) : (s.poke a d).fabPorts = s.fabPorts := by cases s; rfl
@[simp] theorem State.poke_pending (a : Nat) (d : List Byte) : (s.poke a d).pending = s.pending := by cases s; rfl
@[simp] theorem State.poke_timeIn (a : Nat) (d : List Byte) : (s.poke a d).timeIn = s.timeIn := by cases s; rfl
@[simp] theorem State.poke_timeUsed (a : Nat) (d : List Byte) : (s.poke a d).timeUsed = s.timeUsed := by cases s; rfl
@[simp] theorem State.poke_timeBack (a : Nat) (d : List Byte) : (s.poke a d).timeBack = s.timeBack := by cases s; rfl
@[simp] theorem State.poke_free (a : Nat) (d : List Byte) : (s.poke a d).free = s.free := by cases s; rfl
@[simp] theorem State.poke_mem (a : Nat) (d : List Byte) : (s.poke a d).mem = (s.mem.write a d).mark a d.length false := rfl
@[simp] theorem State.poke_port (a : Nat) (d : List Byte) : (s.poke a d).port = s.port := by cases s; rfl
@[simp] theorem State.poke_lanes (a : Nat) (d : List Byte) : (s.poke a d).lanes = s.lanes := by cases s; rfl
@[simp] theorem State.poke_frz (a : Nat) (d : List Byte) : (s.poke a d).frz = s.frz := by cases s; rfl
@[simp] theorem State.poke_boot (a : Nat) (d : List Byte) : (s.poke a d).boot = s.boot := by cases s; rfl
@[simp] theorem State.poke_life (a : Nat) (d : List Byte) : (s.poke a d).life = s.life := by cases s; rfl
@[simp] theorem State.poke_pwr (a : Nat) (d : List Byte) : (s.poke a d).pwr = s.pwr := by cases s; rfl
@[simp] theorem State.poke_chambers (a : Nat) (d : List Byte) : (s.poke a d).chambers = s.chambers := by cases s; rfl
@[simp] theorem State.poke_units (a : Nat) (d : List Byte) : (s.poke a d).units = s.units := by cases s; rfl
@[simp] theorem State.poke_turnCh (a : Nat) (d : List Byte) : (s.poke a d).turnCh = s.turnCh := by cases s; rfl
@[simp] theorem State.poke_turnLeft (a : Nat) (d : List Byte) : (s.poke a d).turnLeft = s.turnLeft := by cases s; rfl
@[simp] theorem State.poke_cmds (a : Nat) (d : List Byte) : (s.poke a d).cmds = s.cmds := by cases s; rfl
@[simp] theorem State.poke_fins (a : Nat) (d : List Byte) : (s.poke a d).fins = s.fins := by cases s; rfl
@[simp] theorem State.poke_clamps (a : Nat) (d : List Byte) : (s.poke a d).clamps = s.clamps := by cases s; rfl
@[simp] theorem State.poke_regions (a : Nat) (d : List Byte) : (s.poke a d).regions = s.regions := by cases s; rfl
@[simp] theorem State.poke_stiles (a : Nat) (d : List Byte) : (s.poke a d).stiles = s.stiles := by cases s; rfl
@[simp] theorem State.poke_cap (a : Nat) (d : List Byte) : (s.poke a d).cap = s.cap := by cases s; rfl
@[simp] theorem State.poke_trigs (a : Nat) (d : List Byte) : (s.poke a d).trigs = s.trigs := by cases s; rfl
@[simp] theorem State.poke_ciph (a : Nat) (d : List Byte) : (s.poke a d).ciph = s.ciph := by cases s; rfl
@[simp] theorem State.poke_drbg (a : Nat) (d : List Byte) : (s.poke a d).drbg = s.drbg := by cases s; rfl
@[simp] theorem State.poke_keys (a : Nat) (d : List Byte) : (s.poke a d).keys = s.keys := by cases s; rfl
@[simp] theorem State.poke_stage (a : Nat) (d : List Byte) : (s.poke a d).stage = s.stage := by cases s; rfl
@[simp] theorem State.poke_tags (a : Nat) (d : List Byte) : (s.poke a d).tags = s.tags := by cases s; rfl
@[simp] theorem State.poke_trk (a : Nat) (d : List Byte) : (s.poke a d).trk = s.trk := by cases s; rfl
@[simp] theorem State.poke_sync (a : Nat) (d : List Byte) : (s.poke a d).sync = s.sync := by cases s; rfl
@[simp] theorem State.poke_chain (a : Nat) (d : List Byte) : (s.poke a d).chain = s.chain := by cases s; rfl
@[simp] theorem State.poke_chainW (a : Nat) (d : List Byte) : (s.poke a d).chainW = s.chainW := by cases s; rfl
@[simp] theorem State.poke_dgt (a : Nat) (d : List Byte) : (s.poke a d).dgt = s.dgt := by cases s; rfl
@[simp] theorem State.poke_sto (a : Nat) (d : List Byte) : (s.poke a d).sto = s.sto := by cases s; rfl
@[simp] theorem State.poke_sump (a : Nat) (d : List Byte) : (s.poke a d).sump = s.sump := by cases s; rfl
@[simp] theorem State.poke_svc (a : Nat) (d : List Byte) : (s.poke a d).svc = s.svc := by cases s; rfl
@[simp] theorem State.poke_jig (a : Nat) (d : List Byte) : (s.poke a d).jig = s.jig := by cases s; rfl
@[simp] theorem State.poke_feat (a : Nat) (d : List Byte) : (s.poke a d).feat = s.feat := by cases s; rfl

/-! ## cause -/

@[simp] theorem State.cause_build (c : Nat) : (s.cause c).build = s.build := rfl
@[simp] theorem State.cause_fabPorts (c : Nat) : (s.cause c).fabPorts = s.fabPorts := rfl
@[simp] theorem State.cause_pending (c : Nat) : (s.cause c).pending = s.pending := rfl
@[simp] theorem State.cause_timeIn (c : Nat) : (s.cause c).timeIn = s.timeIn := rfl
@[simp] theorem State.cause_timeUsed (c : Nat) : (s.cause c).timeUsed = s.timeUsed := rfl
@[simp] theorem State.cause_timeBack (c : Nat) : (s.cause c).timeBack = s.timeBack := rfl
@[simp] theorem State.cause_free (c : Nat) : (s.cause c).free = s.free := rfl
@[simp] theorem State.cause_mem (c : Nat) : (s.cause c).mem = s.mem := rfl
@[simp] theorem State.cause_port (c : Nat) : (s.cause c).port = { s.port with irqStatus := setBit s.port.irqStatus c true } := rfl
@[simp] theorem State.cause_lanes (c : Nat) : (s.cause c).lanes = s.lanes := rfl
@[simp] theorem State.cause_frz (c : Nat) : (s.cause c).frz = s.frz := rfl
@[simp] theorem State.cause_boot (c : Nat) : (s.cause c).boot = s.boot := rfl
@[simp] theorem State.cause_life (c : Nat) : (s.cause c).life = s.life := rfl
@[simp] theorem State.cause_pwr (c : Nat) : (s.cause c).pwr = s.pwr := rfl
@[simp] theorem State.cause_chambers (c : Nat) : (s.cause c).chambers = s.chambers := rfl
@[simp] theorem State.cause_units (c : Nat) : (s.cause c).units = s.units := rfl
@[simp] theorem State.cause_turnCh (c : Nat) : (s.cause c).turnCh = s.turnCh := rfl
@[simp] theorem State.cause_turnLeft (c : Nat) : (s.cause c).turnLeft = s.turnLeft := rfl
@[simp] theorem State.cause_cmds (c : Nat) : (s.cause c).cmds = s.cmds := rfl
@[simp] theorem State.cause_fins (c : Nat) : (s.cause c).fins = s.fins := rfl
@[simp] theorem State.cause_clamps (c : Nat) : (s.cause c).clamps = s.clamps := rfl
@[simp] theorem State.cause_regions (c : Nat) : (s.cause c).regions = s.regions := rfl
@[simp] theorem State.cause_stiles (c : Nat) : (s.cause c).stiles = s.stiles := rfl
@[simp] theorem State.cause_cap (c : Nat) : (s.cause c).cap = s.cap := rfl
@[simp] theorem State.cause_trigs (c : Nat) : (s.cause c).trigs = s.trigs := rfl
@[simp] theorem State.cause_ciph (c : Nat) : (s.cause c).ciph = s.ciph := rfl
@[simp] theorem State.cause_drbg (c : Nat) : (s.cause c).drbg = s.drbg := rfl
@[simp] theorem State.cause_keys (c : Nat) : (s.cause c).keys = s.keys := rfl
@[simp] theorem State.cause_stage (c : Nat) : (s.cause c).stage = s.stage := rfl
@[simp] theorem State.cause_tags (c : Nat) : (s.cause c).tags = s.tags := rfl
@[simp] theorem State.cause_trk (c : Nat) : (s.cause c).trk = s.trk := rfl
@[simp] theorem State.cause_sync (c : Nat) : (s.cause c).sync = s.sync := rfl
@[simp] theorem State.cause_chain (c : Nat) : (s.cause c).chain = s.chain := rfl
@[simp] theorem State.cause_chainW (c : Nat) : (s.cause c).chainW = s.chainW := rfl
@[simp] theorem State.cause_dgt (c : Nat) : (s.cause c).dgt = s.dgt := rfl
@[simp] theorem State.cause_sto (c : Nat) : (s.cause c).sto = s.sto := rfl
@[simp] theorem State.cause_sump (c : Nat) : (s.cause c).sump = s.sump := rfl
@[simp] theorem State.cause_svc (c : Nat) : (s.cause c).svc = s.svc := rfl
@[simp] theorem State.cause_jig (c : Nat) : (s.cause c).jig = s.jig := rfl
@[simp] theorem State.cause_feat (c : Nat) : (s.cause c).feat = s.feat := rfl

/-! ## answer -/

@[simp] theorem State.answer_build (a : Access) (err : Nat) (data : BitVec 64) : (s.answer a err data).build = s.build := rfl
@[simp] theorem State.answer_fabPorts (a : Access) (err : Nat) (data : BitVec 64) : (s.answer a err data).fabPorts = s.fabPorts := rfl
@[simp] theorem State.answer_pending (a : Access) (err : Nat) (data : BitVec 64) : (s.answer a err data).pending = s.pending := rfl
@[simp] theorem State.answer_timeIn (a : Access) (err : Nat) (data : BitVec 64) : (s.answer a err data).timeIn = s.timeIn := rfl
@[simp] theorem State.answer_timeUsed (a : Access) (err : Nat) (data : BitVec 64) : (s.answer a err data).timeUsed = s.timeUsed := rfl
@[simp] theorem State.answer_timeBack (a : Access) (err : Nat) (data : BitVec 64) : (s.answer a err data).timeBack = s.timeBack := rfl
@[simp] theorem State.answer_free (a : Access) (err : Nat) (data : BitVec 64) : (s.answer a err data).free = s.free := rfl
@[simp] theorem State.answer_mem (a : Access) (err : Nat) (data : BitVec 64) : (s.answer a err data).mem = s.mem := rfl
@[simp] theorem State.answer_port (a : Access) (err : Nat) (data : BitVec 64) : (s.answer a err data).port = s.port := rfl
@[simp] theorem State.answer_lanes (a : Access) (err : Nat) (data : BitVec 64) : (s.answer a err data).lanes = s.lanes.modify a.lane fun l => { l with ans := ⟨err, data⟩ } := rfl
@[simp] theorem State.answer_frz (a : Access) (err : Nat) (data : BitVec 64) : (s.answer a err data).frz = s.frz := rfl
@[simp] theorem State.answer_boot (a : Access) (err : Nat) (data : BitVec 64) : (s.answer a err data).boot = s.boot := rfl
@[simp] theorem State.answer_life (a : Access) (err : Nat) (data : BitVec 64) : (s.answer a err data).life = s.life := rfl
@[simp] theorem State.answer_pwr (a : Access) (err : Nat) (data : BitVec 64) : (s.answer a err data).pwr = s.pwr := rfl
@[simp] theorem State.answer_chambers (a : Access) (err : Nat) (data : BitVec 64) : (s.answer a err data).chambers = s.chambers := rfl
@[simp] theorem State.answer_units (a : Access) (err : Nat) (data : BitVec 64) : (s.answer a err data).units = s.units := rfl
@[simp] theorem State.answer_turnCh (a : Access) (err : Nat) (data : BitVec 64) : (s.answer a err data).turnCh = s.turnCh := rfl
@[simp] theorem State.answer_turnLeft (a : Access) (err : Nat) (data : BitVec 64) : (s.answer a err data).turnLeft = s.turnLeft := rfl
@[simp] theorem State.answer_cmds (a : Access) (err : Nat) (data : BitVec 64) : (s.answer a err data).cmds = s.cmds := rfl
@[simp] theorem State.answer_fins (a : Access) (err : Nat) (data : BitVec 64) : (s.answer a err data).fins = s.fins := rfl
@[simp] theorem State.answer_clamps (a : Access) (err : Nat) (data : BitVec 64) : (s.answer a err data).clamps = s.clamps := rfl
@[simp] theorem State.answer_regions (a : Access) (err : Nat) (data : BitVec 64) : (s.answer a err data).regions = s.regions := rfl
@[simp] theorem State.answer_stiles (a : Access) (err : Nat) (data : BitVec 64) : (s.answer a err data).stiles = s.stiles := rfl
@[simp] theorem State.answer_cap (a : Access) (err : Nat) (data : BitVec 64) : (s.answer a err data).cap = s.cap := rfl
@[simp] theorem State.answer_trigs (a : Access) (err : Nat) (data : BitVec 64) : (s.answer a err data).trigs = s.trigs := rfl
@[simp] theorem State.answer_ciph (a : Access) (err : Nat) (data : BitVec 64) : (s.answer a err data).ciph = s.ciph := rfl
@[simp] theorem State.answer_drbg (a : Access) (err : Nat) (data : BitVec 64) : (s.answer a err data).drbg = s.drbg := rfl
@[simp] theorem State.answer_keys (a : Access) (err : Nat) (data : BitVec 64) : (s.answer a err data).keys = s.keys := rfl
@[simp] theorem State.answer_stage (a : Access) (err : Nat) (data : BitVec 64) : (s.answer a err data).stage = s.stage := rfl
@[simp] theorem State.answer_tags (a : Access) (err : Nat) (data : BitVec 64) : (s.answer a err data).tags = s.tags := rfl
@[simp] theorem State.answer_trk (a : Access) (err : Nat) (data : BitVec 64) : (s.answer a err data).trk = s.trk := rfl
@[simp] theorem State.answer_sync (a : Access) (err : Nat) (data : BitVec 64) : (s.answer a err data).sync = s.sync := rfl
@[simp] theorem State.answer_chain (a : Access) (err : Nat) (data : BitVec 64) : (s.answer a err data).chain = s.chain := rfl
@[simp] theorem State.answer_chainW (a : Access) (err : Nat) (data : BitVec 64) : (s.answer a err data).chainW = s.chainW := rfl
@[simp] theorem State.answer_dgt (a : Access) (err : Nat) (data : BitVec 64) : (s.answer a err data).dgt = s.dgt := rfl
@[simp] theorem State.answer_sto (a : Access) (err : Nat) (data : BitVec 64) : (s.answer a err data).sto = s.sto := rfl
@[simp] theorem State.answer_sump (a : Access) (err : Nat) (data : BitVec 64) : (s.answer a err data).sump = s.sump := rfl
@[simp] theorem State.answer_svc (a : Access) (err : Nat) (data : BitVec 64) : (s.answer a err data).svc = s.svc := rfl
@[simp] theorem State.answer_jig (a : Access) (err : Nat) (data : BitVec 64) : (s.answer a err data).jig = s.jig := rfl
@[simp] theorem State.answer_feat (a : Access) (err : Nat) (data : BitVec 64) : (s.answer a err data).feat = s.feat := rfl

/-! ## sendFrame -/

@[simp] theorem State.sendFrame_build (t d : Nat) (p : List Byte) : (s.sendFrame t d p).build = s.build := rfl
@[simp] theorem State.sendFrame_fabPorts (t d : Nat) (p : List Byte) : (s.sendFrame t d p).fabPorts = s.fabPorts := rfl
@[simp] theorem State.sendFrame_pending (t d : Nat) (p : List Byte) : (s.sendFrame t d p).pending = s.pending := rfl
@[simp] theorem State.sendFrame_timeIn (t d : Nat) (p : List Byte) : (s.sendFrame t d p).timeIn = s.timeIn := rfl
@[simp] theorem State.sendFrame_timeUsed (t d : Nat) (p : List Byte) : (s.sendFrame t d p).timeUsed = s.timeUsed := rfl
@[simp] theorem State.sendFrame_timeBack (t d : Nat) (p : List Byte) : (s.sendFrame t d p).timeBack = s.timeBack := rfl
@[simp] theorem State.sendFrame_free (t d : Nat) (p : List Byte) : (s.sendFrame t d p).free = s.free := rfl
@[simp] theorem State.sendFrame_mem (t d : Nat) (p : List Byte) : (s.sendFrame t d p).mem = s.mem := rfl
@[simp] theorem State.sendFrame_port (t d : Nat) (p : List Byte) : (s.sendFrame t d p).port = s.port := rfl
@[simp] theorem State.sendFrame_lanes (t d : Nat) (p : List Byte) : (s.sendFrame t d p).lanes = s.lanes := rfl
@[simp] theorem State.sendFrame_frz (t d : Nat) (p : List Byte) : (s.sendFrame t d p).frz = s.frz := rfl
@[simp] theorem State.sendFrame_boot (t d : Nat) (p : List Byte) : (s.sendFrame t d p).boot = s.boot := rfl
@[simp] theorem State.sendFrame_life (t d : Nat) (p : List Byte) : (s.sendFrame t d p).life = s.life := rfl
@[simp] theorem State.sendFrame_pwr (t d : Nat) (p : List Byte) : (s.sendFrame t d p).pwr = s.pwr := rfl
@[simp] theorem State.sendFrame_chambers (t d : Nat) (p : List Byte) : (s.sendFrame t d p).chambers = s.chambers := rfl
@[simp] theorem State.sendFrame_units (t d : Nat) (p : List Byte) : (s.sendFrame t d p).units = s.units := rfl
@[simp] theorem State.sendFrame_turnCh (t d : Nat) (p : List Byte) : (s.sendFrame t d p).turnCh = s.turnCh := rfl
@[simp] theorem State.sendFrame_turnLeft (t d : Nat) (p : List Byte) : (s.sendFrame t d p).turnLeft = s.turnLeft := rfl
@[simp] theorem State.sendFrame_cmds (t d : Nat) (p : List Byte) : (s.sendFrame t d p).cmds = s.cmds := rfl
@[simp] theorem State.sendFrame_fins (t d : Nat) (p : List Byte) : (s.sendFrame t d p).fins = s.fins := rfl
@[simp] theorem State.sendFrame_clamps (t d : Nat) (p : List Byte) : (s.sendFrame t d p).clamps = s.clamps := rfl
@[simp] theorem State.sendFrame_regions (t d : Nat) (p : List Byte) : (s.sendFrame t d p).regions = s.regions := rfl
@[simp] theorem State.sendFrame_stiles (t d : Nat) (p : List Byte) : (s.sendFrame t d p).stiles = s.stiles := rfl
@[simp] theorem State.sendFrame_cap (t d : Nat) (p : List Byte) : (s.sendFrame t d p).cap = s.cap := rfl
@[simp] theorem State.sendFrame_trigs (t d : Nat) (p : List Byte) : (s.sendFrame t d p).trigs = s.trigs := rfl
@[simp] theorem State.sendFrame_ciph (t d : Nat) (p : List Byte) : (s.sendFrame t d p).ciph = s.ciph := rfl
@[simp] theorem State.sendFrame_drbg (t d : Nat) (p : List Byte) : (s.sendFrame t d p).drbg = s.drbg := rfl
@[simp] theorem State.sendFrame_keys (t d : Nat) (p : List Byte) : (s.sendFrame t d p).keys = s.keys := rfl
@[simp] theorem State.sendFrame_stage (t d : Nat) (p : List Byte) : (s.sendFrame t d p).stage = s.stage := rfl
@[simp] theorem State.sendFrame_tags (t d : Nat) (p : List Byte) : (s.sendFrame t d p).tags = s.tags := rfl
@[simp] theorem State.sendFrame_trk (t d : Nat) (p : List Byte) : (s.sendFrame t d p).trk = s.trk := rfl
@[simp] theorem State.sendFrame_sync (t d : Nat) (p : List Byte) : (s.sendFrame t d p).sync = s.sync := rfl
@[simp] theorem State.sendFrame_chain (t d : Nat) (p : List Byte) : (s.sendFrame t d p).chain = s.chain := rfl
@[simp] theorem State.sendFrame_dgt (t d : Nat) (p : List Byte) : (s.sendFrame t d p).dgt = s.dgt := rfl
@[simp] theorem State.sendFrame_sto (t d : Nat) (p : List Byte) : (s.sendFrame t d p).sto = s.sto := rfl
@[simp] theorem State.sendFrame_sump (t d : Nat) (p : List Byte) : (s.sendFrame t d p).sump = s.sump := rfl
@[simp] theorem State.sendFrame_svc (t d : Nat) (p : List Byte) : (s.sendFrame t d p).svc = s.svc := rfl
@[simp] theorem State.sendFrame_jig (t d : Nat) (p : List Byte) : (s.sendFrame t d p).jig = s.jig := rfl
@[simp] theorem State.sendFrame_feat (t d : Nat) (p : List Byte) : (s.sendFrame t d p).feat = s.feat := rfl

/-! ## jot -/

@[simp] theorem State.jot_build (ch q : Nat) (cid : BitVec 16) (k : Nat) : (s.jot ch q cid k).build = s.build := rfl
@[simp] theorem State.jot_fabPorts (ch q : Nat) (cid : BitVec 16) (k : Nat) : (s.jot ch q cid k).fabPorts = s.fabPorts := rfl
@[simp] theorem State.jot_pending (ch q : Nat) (cid : BitVec 16) (k : Nat) : (s.jot ch q cid k).pending = s.pending := rfl
@[simp] theorem State.jot_timeIn (ch q : Nat) (cid : BitVec 16) (k : Nat) : (s.jot ch q cid k).timeIn = s.timeIn := rfl
@[simp] theorem State.jot_timeUsed (ch q : Nat) (cid : BitVec 16) (k : Nat) : (s.jot ch q cid k).timeUsed = s.timeUsed := rfl
@[simp] theorem State.jot_timeBack (ch q : Nat) (cid : BitVec 16) (k : Nat) : (s.jot ch q cid k).timeBack = s.timeBack := rfl
@[simp] theorem State.jot_free (ch q : Nat) (cid : BitVec 16) (k : Nat) : (s.jot ch q cid k).free = s.free := rfl
@[simp] theorem State.jot_mem (ch q : Nat) (cid : BitVec 16) (k : Nat) : (s.jot ch q cid k).mem = s.mem := rfl
@[simp] theorem State.jot_port (ch q : Nat) (cid : BitVec 16) (k : Nat) : (s.jot ch q cid k).port = s.port := rfl
@[simp] theorem State.jot_lanes (ch q : Nat) (cid : BitVec 16) (k : Nat) : (s.jot ch q cid k).lanes = s.lanes := rfl
@[simp] theorem State.jot_frz (ch q : Nat) (cid : BitVec 16) (k : Nat) : (s.jot ch q cid k).frz = s.frz := rfl
@[simp] theorem State.jot_boot (ch q : Nat) (cid : BitVec 16) (k : Nat) : (s.jot ch q cid k).boot = s.boot := rfl
@[simp] theorem State.jot_life (ch q : Nat) (cid : BitVec 16) (k : Nat) : (s.jot ch q cid k).life = s.life := rfl
@[simp] theorem State.jot_pwr (ch q : Nat) (cid : BitVec 16) (k : Nat) : (s.jot ch q cid k).pwr = s.pwr := rfl
@[simp] theorem State.jot_chambers (ch q : Nat) (cid : BitVec 16) (k : Nat) : (s.jot ch q cid k).chambers = s.chambers := rfl
@[simp] theorem State.jot_units (ch q : Nat) (cid : BitVec 16) (k : Nat) : (s.jot ch q cid k).units = s.units := rfl
@[simp] theorem State.jot_turnCh (ch q : Nat) (cid : BitVec 16) (k : Nat) : (s.jot ch q cid k).turnCh = s.turnCh := rfl
@[simp] theorem State.jot_turnLeft (ch q : Nat) (cid : BitVec 16) (k : Nat) : (s.jot ch q cid k).turnLeft = s.turnLeft := rfl
@[simp] theorem State.jot_cmds (ch q : Nat) (cid : BitVec 16) (k : Nat) : (s.jot ch q cid k).cmds = s.cmds := rfl
@[simp] theorem State.jot_fins (ch q : Nat) (cid : BitVec 16) (k : Nat) : (s.jot ch q cid k).fins = s.fins := rfl
@[simp] theorem State.jot_clamps (ch q : Nat) (cid : BitVec 16) (k : Nat) : (s.jot ch q cid k).clamps = s.clamps := rfl
@[simp] theorem State.jot_regions (ch q : Nat) (cid : BitVec 16) (k : Nat) : (s.jot ch q cid k).regions = s.regions := rfl
@[simp] theorem State.jot_stiles (ch q : Nat) (cid : BitVec 16) (k : Nat) : (s.jot ch q cid k).stiles = s.stiles := rfl
@[simp] theorem State.jot_cap (ch q : Nat) (cid : BitVec 16) (k : Nat) : (s.jot ch q cid k).cap = s.cap := rfl
@[simp] theorem State.jot_trigs (ch q : Nat) (cid : BitVec 16) (k : Nat) : (s.jot ch q cid k).trigs = s.trigs := rfl
@[simp] theorem State.jot_ciph (ch q : Nat) (cid : BitVec 16) (k : Nat) : (s.jot ch q cid k).ciph = s.ciph := rfl
@[simp] theorem State.jot_drbg (ch q : Nat) (cid : BitVec 16) (k : Nat) : (s.jot ch q cid k).drbg = s.drbg := rfl
@[simp] theorem State.jot_keys (ch q : Nat) (cid : BitVec 16) (k : Nat) : (s.jot ch q cid k).keys = s.keys := rfl
@[simp] theorem State.jot_stage (ch q : Nat) (cid : BitVec 16) (k : Nat) : (s.jot ch q cid k).stage = s.stage := rfl
@[simp] theorem State.jot_tags (ch q : Nat) (cid : BitVec 16) (k : Nat) : (s.jot ch q cid k).tags = s.tags := rfl
@[simp] theorem State.jot_trk (ch q : Nat) (cid : BitVec 16) (k : Nat) : (s.jot ch q cid k).trk = s.trk := rfl
@[simp] theorem State.jot_sync (ch q : Nat) (cid : BitVec 16) (k : Nat) : (s.jot ch q cid k).sync = s.sync := rfl
@[simp] theorem State.jot_chain (ch q : Nat) (cid : BitVec 16) (k : Nat) : (s.jot ch q cid k).chain = s.chain := rfl
@[simp] theorem State.jot_chainW (ch q : Nat) (cid : BitVec 16) (k : Nat) : (s.jot ch q cid k).chainW = s.chainW := rfl
@[simp] theorem State.jot_dgt (ch q : Nat) (cid : BitVec 16) (k : Nat) : (s.jot ch q cid k).dgt = s.dgt := rfl
@[simp] theorem State.jot_sto (ch q : Nat) (cid : BitVec 16) (k : Nat) : (s.jot ch q cid k).sto = s.sto := rfl
@[simp] theorem State.jot_sump (ch q : Nat) (cid : BitVec 16) (k : Nat) : (s.jot ch q cid k).sump = s.sump := rfl
@[simp] theorem State.jot_svc (ch q : Nat) (cid : BitVec 16) (k : Nat) : (s.jot ch q cid k).svc = { s.svc with journal := s.svc.journal ++ [(ch, q, cid, k)] } := rfl
@[simp] theorem State.jot_jig (ch q : Nat) (cid : BitVec 16) (k : Nat) : (s.jot ch q cid k).jig = s.jig := rfl
@[simp] theorem State.jot_feat (ch q : Nat) (cid : BitVec 16) (k : Nat) : (s.jot ch q cid k).feat = s.feat := rfl

/-! ## onCmd -/

@[simp] theorem State.onCmd_build (x : Sub) (f : Cmd → Cmd) : (s.onCmd x f).build = s.build := rfl
@[simp] theorem State.onCmd_fabPorts (x : Sub) (f : Cmd → Cmd) : (s.onCmd x f).fabPorts = s.fabPorts := rfl
@[simp] theorem State.onCmd_pending (x : Sub) (f : Cmd → Cmd) : (s.onCmd x f).pending = s.pending := rfl
@[simp] theorem State.onCmd_timeIn (x : Sub) (f : Cmd → Cmd) : (s.onCmd x f).timeIn = s.timeIn := rfl
@[simp] theorem State.onCmd_timeUsed (x : Sub) (f : Cmd → Cmd) : (s.onCmd x f).timeUsed = s.timeUsed := rfl
@[simp] theorem State.onCmd_timeBack (x : Sub) (f : Cmd → Cmd) : (s.onCmd x f).timeBack = s.timeBack := rfl
@[simp] theorem State.onCmd_free (x : Sub) (f : Cmd → Cmd) : (s.onCmd x f).free = s.free := rfl
@[simp] theorem State.onCmd_mem (x : Sub) (f : Cmd → Cmd) : (s.onCmd x f).mem = s.mem := rfl
@[simp] theorem State.onCmd_port (x : Sub) (f : Cmd → Cmd) : (s.onCmd x f).port = s.port := rfl
@[simp] theorem State.onCmd_lanes (x : Sub) (f : Cmd → Cmd) : (s.onCmd x f).lanes = s.lanes := rfl
@[simp] theorem State.onCmd_frz (x : Sub) (f : Cmd → Cmd) : (s.onCmd x f).frz = s.frz := rfl
@[simp] theorem State.onCmd_boot (x : Sub) (f : Cmd → Cmd) : (s.onCmd x f).boot = s.boot := rfl
@[simp] theorem State.onCmd_life (x : Sub) (f : Cmd → Cmd) : (s.onCmd x f).life = s.life := rfl
@[simp] theorem State.onCmd_pwr (x : Sub) (f : Cmd → Cmd) : (s.onCmd x f).pwr = s.pwr := rfl
@[simp] theorem State.onCmd_chambers (x : Sub) (f : Cmd → Cmd) : (s.onCmd x f).chambers = s.chambers := rfl
@[simp] theorem State.onCmd_units (x : Sub) (f : Cmd → Cmd) : (s.onCmd x f).units = s.units := rfl
@[simp] theorem State.onCmd_turnCh (x : Sub) (f : Cmd → Cmd) : (s.onCmd x f).turnCh = s.turnCh := rfl
@[simp] theorem State.onCmd_turnLeft (x : Sub) (f : Cmd → Cmd) : (s.onCmd x f).turnLeft = s.turnLeft := rfl
@[simp] theorem State.onCmd_cmds (x : Sub) (f : Cmd → Cmd) : (s.onCmd x f).cmds = s.cmds.map fun c => if isCmd x c then f c else c := rfl
@[simp] theorem State.onCmd_fins (x : Sub) (f : Cmd → Cmd) : (s.onCmd x f).fins = s.fins := rfl
@[simp] theorem State.onCmd_clamps (x : Sub) (f : Cmd → Cmd) : (s.onCmd x f).clamps = s.clamps := rfl
@[simp] theorem State.onCmd_regions (x : Sub) (f : Cmd → Cmd) : (s.onCmd x f).regions = s.regions := rfl
@[simp] theorem State.onCmd_stiles (x : Sub) (f : Cmd → Cmd) : (s.onCmd x f).stiles = s.stiles := rfl
@[simp] theorem State.onCmd_cap (x : Sub) (f : Cmd → Cmd) : (s.onCmd x f).cap = s.cap := rfl
@[simp] theorem State.onCmd_trigs (x : Sub) (f : Cmd → Cmd) : (s.onCmd x f).trigs = s.trigs := rfl
@[simp] theorem State.onCmd_ciph (x : Sub) (f : Cmd → Cmd) : (s.onCmd x f).ciph = s.ciph := rfl
@[simp] theorem State.onCmd_drbg (x : Sub) (f : Cmd → Cmd) : (s.onCmd x f).drbg = s.drbg := rfl
@[simp] theorem State.onCmd_keys (x : Sub) (f : Cmd → Cmd) : (s.onCmd x f).keys = s.keys := rfl
@[simp] theorem State.onCmd_stage (x : Sub) (f : Cmd → Cmd) : (s.onCmd x f).stage = s.stage := rfl
@[simp] theorem State.onCmd_tags (x : Sub) (f : Cmd → Cmd) : (s.onCmd x f).tags = s.tags := rfl
@[simp] theorem State.onCmd_trk (x : Sub) (f : Cmd → Cmd) : (s.onCmd x f).trk = s.trk := rfl
@[simp] theorem State.onCmd_sync (x : Sub) (f : Cmd → Cmd) : (s.onCmd x f).sync = s.sync := rfl
@[simp] theorem State.onCmd_chain (x : Sub) (f : Cmd → Cmd) : (s.onCmd x f).chain = s.chain := rfl
@[simp] theorem State.onCmd_chainW (x : Sub) (f : Cmd → Cmd) : (s.onCmd x f).chainW = s.chainW := rfl
@[simp] theorem State.onCmd_dgt (x : Sub) (f : Cmd → Cmd) : (s.onCmd x f).dgt = s.dgt := rfl
@[simp] theorem State.onCmd_sto (x : Sub) (f : Cmd → Cmd) : (s.onCmd x f).sto = s.sto := rfl
@[simp] theorem State.onCmd_sump (x : Sub) (f : Cmd → Cmd) : (s.onCmd x f).sump = s.sump := rfl
@[simp] theorem State.onCmd_svc (x : Sub) (f : Cmd → Cmd) : (s.onCmd x f).svc = s.svc := rfl
@[simp] theorem State.onCmd_jig (x : Sub) (f : Cmd → Cmd) : (s.onCmd x f).jig = s.jig := rfl
@[simp] theorem State.onCmd_feat (x : Sub) (f : Cmd → Cmd) : (s.onCmd x f).feat = s.feat := rfl

/-! ## unclamp -/

@[simp] theorem State.unclamp_build (x : Sub) : (s.unclamp x).build = s.build := rfl
@[simp] theorem State.unclamp_fabPorts (x : Sub) : (s.unclamp x).fabPorts = s.fabPorts := rfl
@[simp] theorem State.unclamp_pending (x : Sub) : (s.unclamp x).pending = s.pending := rfl
@[simp] theorem State.unclamp_timeIn (x : Sub) : (s.unclamp x).timeIn = s.timeIn := rfl
@[simp] theorem State.unclamp_timeUsed (x : Sub) : (s.unclamp x).timeUsed = s.timeUsed := rfl
@[simp] theorem State.unclamp_timeBack (x : Sub) : (s.unclamp x).timeBack = s.timeBack := rfl
@[simp] theorem State.unclamp_free (x : Sub) : (s.unclamp x).free = s.free := rfl
@[simp] theorem State.unclamp_mem (x : Sub) : (s.unclamp x).mem = s.mem := rfl
@[simp] theorem State.unclamp_port (x : Sub) : (s.unclamp x).port = s.port := rfl
@[simp] theorem State.unclamp_lanes (x : Sub) : (s.unclamp x).lanes = s.lanes := rfl
@[simp] theorem State.unclamp_frz (x : Sub) : (s.unclamp x).frz = s.frz := rfl
@[simp] theorem State.unclamp_boot (x : Sub) : (s.unclamp x).boot = s.boot := rfl
@[simp] theorem State.unclamp_life (x : Sub) : (s.unclamp x).life = s.life := rfl
@[simp] theorem State.unclamp_pwr (x : Sub) : (s.unclamp x).pwr = s.pwr := rfl
@[simp] theorem State.unclamp_chambers (x : Sub) : (s.unclamp x).chambers = s.chambers := rfl
@[simp] theorem State.unclamp_units (x : Sub) : (s.unclamp x).units = s.units := rfl
@[simp] theorem State.unclamp_turnCh (x : Sub) : (s.unclamp x).turnCh = s.turnCh := rfl
@[simp] theorem State.unclamp_turnLeft (x : Sub) : (s.unclamp x).turnLeft = s.turnLeft := rfl
@[simp] theorem State.unclamp_cmds (x : Sub) : (s.unclamp x).cmds = s.cmds := rfl
@[simp] theorem State.unclamp_fins (x : Sub) : (s.unclamp x).fins = s.fins := rfl
@[simp] theorem State.unclamp_clamps (x : Sub) : (s.unclamp x).clamps = s.clamps.filter fun k => !(k.chamber == x.chamber && k.owner == some (x.sq, x.cid)) := rfl
@[simp] theorem State.unclamp_regions (x : Sub) : (s.unclamp x).regions = s.regions := rfl
@[simp] theorem State.unclamp_stiles (x : Sub) : (s.unclamp x).stiles = s.stiles := rfl
@[simp] theorem State.unclamp_cap (x : Sub) : (s.unclamp x).cap = s.cap := rfl
@[simp] theorem State.unclamp_trigs (x : Sub) : (s.unclamp x).trigs = s.trigs := rfl
@[simp] theorem State.unclamp_ciph (x : Sub) : (s.unclamp x).ciph = s.ciph := rfl
@[simp] theorem State.unclamp_drbg (x : Sub) : (s.unclamp x).drbg = s.drbg := rfl
@[simp] theorem State.unclamp_keys (x : Sub) : (s.unclamp x).keys = s.keys := rfl
@[simp] theorem State.unclamp_stage (x : Sub) : (s.unclamp x).stage = s.stage := rfl
@[simp] theorem State.unclamp_tags (x : Sub) : (s.unclamp x).tags = s.tags := rfl
@[simp] theorem State.unclamp_trk (x : Sub) : (s.unclamp x).trk = s.trk := rfl
@[simp] theorem State.unclamp_sync (x : Sub) : (s.unclamp x).sync = s.sync := rfl
@[simp] theorem State.unclamp_chain (x : Sub) : (s.unclamp x).chain = s.chain := rfl
@[simp] theorem State.unclamp_chainW (x : Sub) : (s.unclamp x).chainW = s.chainW := rfl
@[simp] theorem State.unclamp_dgt (x : Sub) : (s.unclamp x).dgt = s.dgt := rfl
@[simp] theorem State.unclamp_sto (x : Sub) : (s.unclamp x).sto = s.sto := rfl
@[simp] theorem State.unclamp_sump (x : Sub) : (s.unclamp x).sump = s.sump := rfl
@[simp] theorem State.unclamp_svc (x : Sub) : (s.unclamp x).svc = s.svc := rfl
@[simp] theorem State.unclamp_jig (x : Sub) : (s.unclamp x).jig = s.jig := rfl
@[simp] theorem State.unclamp_feat (x : Sub) : (s.unclamp x).feat = s.feat := rfl

/-! ## unbind -/

@[simp] theorem State.unbind_build (x : Sub) : (s.unbind x).build = s.build := rfl
@[simp] theorem State.unbind_fabPorts (x : Sub) : (s.unbind x).fabPorts = s.fabPorts := rfl
@[simp] theorem State.unbind_pending (x : Sub) : (s.unbind x).pending = s.pending := rfl
@[simp] theorem State.unbind_timeIn (x : Sub) : (s.unbind x).timeIn = s.timeIn := rfl
@[simp] theorem State.unbind_timeUsed (x : Sub) : (s.unbind x).timeUsed = s.timeUsed := rfl
@[simp] theorem State.unbind_timeBack (x : Sub) : (s.unbind x).timeBack = s.timeBack := rfl
@[simp] theorem State.unbind_free (x : Sub) : (s.unbind x).free = s.free := rfl
@[simp] theorem State.unbind_mem (x : Sub) : (s.unbind x).mem = s.mem := rfl
@[simp] theorem State.unbind_port (x : Sub) : (s.unbind x).port = s.port := rfl
@[simp] theorem State.unbind_lanes (x : Sub) : (s.unbind x).lanes = s.lanes := rfl
@[simp] theorem State.unbind_frz (x : Sub) : (s.unbind x).frz = s.frz := rfl
@[simp] theorem State.unbind_boot (x : Sub) : (s.unbind x).boot = s.boot := rfl
@[simp] theorem State.unbind_life (x : Sub) : (s.unbind x).life = s.life := rfl
@[simp] theorem State.unbind_pwr (x : Sub) : (s.unbind x).pwr = s.pwr := rfl
@[simp] theorem State.unbind_chambers (x : Sub) : (s.unbind x).chambers = s.chambers := rfl
@[simp] theorem State.unbind_units (x : Sub) : (s.unbind x).units = s.units := rfl
@[simp] theorem State.unbind_turnCh (x : Sub) : (s.unbind x).turnCh = s.turnCh := rfl
@[simp] theorem State.unbind_turnLeft (x : Sub) : (s.unbind x).turnLeft = s.turnLeft := rfl
@[simp] theorem State.unbind_cmds (x : Sub) : (s.unbind x).cmds = s.cmds := rfl
@[simp] theorem State.unbind_fins (x : Sub) : (s.unbind x).fins = s.fins := rfl
@[simp] theorem State.unbind_clamps (x : Sub) : (s.unbind x).clamps = s.clamps := rfl
@[simp] theorem State.unbind_regions (x : Sub) : (s.unbind x).regions = s.regions := rfl
@[simp] theorem State.unbind_stiles (x : Sub) : (s.unbind x).stiles = s.stiles := rfl
@[simp] theorem State.unbind_cap (x : Sub) : (s.unbind x).cap = s.cap := rfl
@[simp] theorem State.unbind_trigs (x : Sub) : (s.unbind x).trigs = s.trigs := rfl
@[simp] theorem State.unbind_ciph (x : Sub) : (s.unbind x).ciph = s.ciph := rfl
@[simp] theorem State.unbind_drbg (x : Sub) : (s.unbind x).drbg = s.drbg := rfl
@[simp] theorem State.unbind_keys (x : Sub) : (s.unbind x).keys = s.keys := rfl
@[simp] theorem State.unbind_stage (x : Sub) : (s.unbind x).stage = s.stage := rfl
@[simp] theorem State.unbind_tags (x : Sub) : (s.unbind x).tags = s.tags := rfl
@[simp] theorem State.unbind_sync (x : Sub) : (s.unbind x).sync = s.sync := rfl
@[simp] theorem State.unbind_chain (x : Sub) : (s.unbind x).chain = s.chain := rfl
@[simp] theorem State.unbind_chainW (x : Sub) : (s.unbind x).chainW = s.chainW := rfl
@[simp] theorem State.unbind_dgt (x : Sub) : (s.unbind x).dgt = s.dgt := rfl
@[simp] theorem State.unbind_sto (x : Sub) : (s.unbind x).sto = s.sto := rfl
@[simp] theorem State.unbind_sump (x : Sub) : (s.unbind x).sump = s.sump := rfl
@[simp] theorem State.unbind_svc (x : Sub) : (s.unbind x).svc = s.svc := rfl
@[simp] theorem State.unbind_jig (x : Sub) : (s.unbind x).jig = s.jig := rfl
@[simp] theorem State.unbind_feat (x : Sub) : (s.unbind x).feat = s.feat := rfl

/-! ## tick -/

@[simp] theorem State.tick_build : (s.tick).build = s.build := rfl
@[simp] theorem State.tick_fabPorts : (s.tick).fabPorts = s.fabPorts := rfl
@[simp] theorem State.tick_pending : (s.tick).pending = s.pending := rfl
@[simp] theorem State.tick_timeIn : (s.tick).timeIn = s.timeIn + 1 := rfl
@[simp] theorem State.tick_timeUsed : (s.tick).timeUsed = s.timeUsed := rfl
@[simp] theorem State.tick_free : (s.tick).free = s.free := rfl
@[simp] theorem State.tick_mem : (s.tick).mem = s.mem := rfl
@[simp] theorem State.tick_port : (s.tick).port = s.port := rfl
@[simp] theorem State.tick_lanes : (s.tick).lanes = s.lanes := rfl
@[simp] theorem State.tick_frz : (s.tick).frz = s.frz := rfl
@[simp] theorem State.tick_boot : (s.tick).boot = s.boot := rfl
@[simp] theorem State.tick_life : (s.tick).life = s.life := rfl
@[simp] theorem State.tick_chambers : (s.tick).chambers = s.chambers := rfl
@[simp] theorem State.tick_units : (s.tick).units = s.units := rfl
@[simp] theorem State.tick_turnCh : (s.tick).turnCh = s.turnCh := rfl
@[simp] theorem State.tick_turnLeft : (s.tick).turnLeft = s.turnLeft := rfl
@[simp] theorem State.tick_cmds : (s.tick).cmds = s.cmds := rfl
@[simp] theorem State.tick_fins : (s.tick).fins = s.fins := rfl
@[simp] theorem State.tick_clamps : (s.tick).clamps = s.clamps := rfl
@[simp] theorem State.tick_regions : (s.tick).regions = s.regions := rfl
@[simp] theorem State.tick_stiles : (s.tick).stiles = s.stiles := rfl
@[simp] theorem State.tick_cap : (s.tick).cap = s.cap := rfl
@[simp] theorem State.tick_trigs : (s.tick).trigs = s.trigs := rfl
@[simp] theorem State.tick_ciph : (s.tick).ciph = s.ciph := rfl
@[simp] theorem State.tick_drbg : (s.tick).drbg = s.drbg := rfl
@[simp] theorem State.tick_keys : (s.tick).keys = s.keys := rfl
@[simp] theorem State.tick_stage : (s.tick).stage = s.stage := rfl
@[simp] theorem State.tick_tags : (s.tick).tags = s.tags := rfl
@[simp] theorem State.tick_trk : (s.tick).trk = s.trk := rfl
@[simp] theorem State.tick_sync : (s.tick).sync = s.sync := rfl
@[simp] theorem State.tick_chain : (s.tick).chain = s.chain := rfl
@[simp] theorem State.tick_chainW : (s.tick).chainW = s.chainW := rfl
@[simp] theorem State.tick_dgt : (s.tick).dgt = s.dgt := rfl
@[simp] theorem State.tick_sto : (s.tick).sto = s.sto := rfl
@[simp] theorem State.tick_sump : (s.tick).sump = s.sump := rfl
@[simp] theorem State.tick_svc : (s.tick).svc = s.svc := rfl
@[simp] theorem State.tick_jig : (s.tick).jig = s.jig := rfl
@[simp] theorem State.tick_feat : (s.tick).feat = s.feat := rfl

/-! ## Reading what was written -/

@[simp] theorem State.ch_onCh (n : Nat) (f : Chamber → Chamber) : (s.onCh n f).ch n = f (s.ch n) := Laws.get_modify_self _ _ _
theorem State.ch_onCh_ne (n m : Nat) (f : Chamber → Chamber) (h : m ≠ n) : (s.onCh n f).ch m = s.ch m := Laws.get_modify_ne _ _ h
@[simp] theorem State.un_onUn (n : Nat) (f : ChUnit → ChUnit) : (s.onUn n f).un n = f (s.un n) := Laws.get_modify_self _ _ _
theorem State.un_onUn_ne (n m : Nat) (f : ChUnit → ChUnit) (h : m ≠ n) : (s.onUn n f).un m = s.un m := Laws.get_modify_ne _ _ h
@[simp] theorem State.st_onSt (n : Nat) (f : Stile → Stile) : (s.onSt n f).st n = f (s.st n) := Laws.get_modify_self _ _ _
theorem State.st_onSt_ne (n m : Nat) (f : Stile → Stile) (h : m ≠ n) : (s.onSt n f).st m = s.st m := Laws.get_modify_ne _ _ h
@[simp] theorem State.onCh_un (n m : Nat) (f : Chamber → Chamber) : (s.onCh n f).un m = s.un m := rfl
@[simp] theorem State.onUn_ch (n m : Nat) (f : ChUnit → ChUnit) : (s.onUn n f).ch m = s.ch m := rfl
@[simp] theorem State.onSt_ch (n m : Nat) (f : Stile → Stile) : (s.onSt n f).ch m = s.ch m := rfl
@[simp] theorem State.onCh_st (n m : Nat) (f : Chamber → Chamber) : (s.onCh n f).st m = s.st m := rfl
@[simp] theorem State.ch_onSq (n q : Nat) (f : Sq → Sq) : ((s.onSq n q f).ch n).sqs.get q = f ((s.ch n).sqs.get q) := by simp [State.onSq]
@[simp] theorem State.ch_onCq (n q : Nat) (f : Cq → Cq) : ((s.onCq n q f).ch n).cqs.get q = f ((s.ch n).cqs.get q) := by simp [State.onCq]

/-! ## The status word -/

@[simp] theorem State.putStatus_build (x : Sub) (b : Bool) (p : Nat) (st : BitVec 16) (n : Nat) (l : List (BitVec 64)) : (s.putStatus x b p st n l).build = s.build := by
  simp only [State.putStatus, apply_ite State.build, State.poke_build, State.onCh_build, ite_self]
@[simp] theorem State.putStatus_fabPorts (x : Sub) (b : Bool) (p : Nat) (st : BitVec 16) (n : Nat) (l : List (BitVec 64)) : (s.putStatus x b p st n l).fabPorts = s.fabPorts := by
  simp only [State.putStatus, apply_ite State.fabPorts, State.poke_fabPorts, State.onCh_fabPorts, ite_self]
@[simp] theorem State.putStatus_pending (x : Sub) (b : Bool) (p : Nat) (st : BitVec 16) (n : Nat) (l : List (BitVec 64)) : (s.putStatus x b p st n l).pending = s.pending := by
  simp only [State.putStatus, apply_ite State.pending, State.poke_pending, State.onCh_pending, ite_self]
@[simp] theorem State.putStatus_timeIn (x : Sub) (b : Bool) (p : Nat) (st : BitVec 16) (n : Nat) (l : List (BitVec 64)) : (s.putStatus x b p st n l).timeIn = s.timeIn := by
  simp only [State.putStatus, apply_ite State.timeIn, State.poke_timeIn, State.onCh_timeIn, ite_self]
@[simp] theorem State.putStatus_timeUsed (x : Sub) (b : Bool) (p : Nat) (st : BitVec 16) (n : Nat) (l : List (BitVec 64)) : (s.putStatus x b p st n l).timeUsed = s.timeUsed := by
  simp only [State.putStatus, apply_ite State.timeUsed, State.poke_timeUsed, State.onCh_timeUsed, ite_self]
@[simp] theorem State.putStatus_timeBack (x : Sub) (b : Bool) (p : Nat) (st : BitVec 16) (n : Nat) (l : List (BitVec 64)) : (s.putStatus x b p st n l).timeBack = s.timeBack := by
  simp only [State.putStatus, apply_ite State.timeBack, State.poke_timeBack, State.onCh_timeBack, ite_self]
@[simp] theorem State.putStatus_free (x : Sub) (b : Bool) (p : Nat) (st : BitVec 16) (n : Nat) (l : List (BitVec 64)) : (s.putStatus x b p st n l).free = s.free := by
  simp only [State.putStatus, apply_ite State.free, State.poke_free, State.onCh_free, ite_self]
@[simp] theorem State.putStatus_port (x : Sub) (b : Bool) (p : Nat) (st : BitVec 16) (n : Nat) (l : List (BitVec 64)) : (s.putStatus x b p st n l).port = s.port := by
  simp only [State.putStatus, apply_ite State.port, State.poke_port, State.onCh_port, ite_self]
@[simp] theorem State.putStatus_lanes (x : Sub) (b : Bool) (p : Nat) (st : BitVec 16) (n : Nat) (l : List (BitVec 64)) : (s.putStatus x b p st n l).lanes = s.lanes := by
  simp only [State.putStatus, apply_ite State.lanes, State.poke_lanes, State.onCh_lanes, ite_self]
@[simp] theorem State.putStatus_frz (x : Sub) (b : Bool) (p : Nat) (st : BitVec 16) (n : Nat) (l : List (BitVec 64)) : (s.putStatus x b p st n l).frz = s.frz := by
  simp only [State.putStatus, apply_ite State.frz, State.poke_frz, State.onCh_frz, ite_self]
@[simp] theorem State.putStatus_boot (x : Sub) (b : Bool) (p : Nat) (st : BitVec 16) (n : Nat) (l : List (BitVec 64)) : (s.putStatus x b p st n l).boot = s.boot := by
  simp only [State.putStatus, apply_ite State.boot, State.poke_boot, State.onCh_boot, ite_self]
@[simp] theorem State.putStatus_life (x : Sub) (b : Bool) (p : Nat) (st : BitVec 16) (n : Nat) (l : List (BitVec 64)) : (s.putStatus x b p st n l).life = s.life := by
  simp only [State.putStatus, apply_ite State.life, State.poke_life, State.onCh_life, ite_self]
@[simp] theorem State.putStatus_pwr (x : Sub) (b : Bool) (p : Nat) (st : BitVec 16) (n : Nat) (l : List (BitVec 64)) : (s.putStatus x b p st n l).pwr = s.pwr := by
  simp only [State.putStatus, apply_ite State.pwr, State.poke_pwr, State.onCh_pwr, ite_self]
@[simp] theorem State.putStatus_units (x : Sub) (b : Bool) (p : Nat) (st : BitVec 16) (n : Nat) (l : List (BitVec 64)) : (s.putStatus x b p st n l).units = s.units := by
  simp only [State.putStatus, apply_ite State.units, State.poke_units, State.onCh_units, ite_self]
@[simp] theorem State.putStatus_turnCh (x : Sub) (b : Bool) (p : Nat) (st : BitVec 16) (n : Nat) (l : List (BitVec 64)) : (s.putStatus x b p st n l).turnCh = s.turnCh := by
  simp only [State.putStatus, apply_ite State.turnCh, State.poke_turnCh, State.onCh_turnCh, ite_self]
@[simp] theorem State.putStatus_turnLeft (x : Sub) (b : Bool) (p : Nat) (st : BitVec 16) (n : Nat) (l : List (BitVec 64)) : (s.putStatus x b p st n l).turnLeft = s.turnLeft := by
  simp only [State.putStatus, apply_ite State.turnLeft, State.poke_turnLeft, State.onCh_turnLeft, ite_self]
@[simp] theorem State.putStatus_cmds (x : Sub) (b : Bool) (p : Nat) (st : BitVec 16) (n : Nat) (l : List (BitVec 64)) : (s.putStatus x b p st n l).cmds = s.cmds := by
  simp only [State.putStatus, apply_ite State.cmds, State.poke_cmds, State.onCh_cmds, ite_self]
@[simp] theorem State.putStatus_fins (x : Sub) (b : Bool) (p : Nat) (st : BitVec 16) (n : Nat) (l : List (BitVec 64)) : (s.putStatus x b p st n l).fins = s.fins := by
  simp only [State.putStatus, apply_ite State.fins, State.poke_fins, State.onCh_fins, ite_self]
@[simp] theorem State.putStatus_clamps (x : Sub) (b : Bool) (p : Nat) (st : BitVec 16) (n : Nat) (l : List (BitVec 64)) : (s.putStatus x b p st n l).clamps = s.clamps := by
  simp only [State.putStatus, apply_ite State.clamps, State.poke_clamps, State.onCh_clamps, ite_self]
@[simp] theorem State.putStatus_regions (x : Sub) (b : Bool) (p : Nat) (st : BitVec 16) (n : Nat) (l : List (BitVec 64)) : (s.putStatus x b p st n l).regions = s.regions := by
  simp only [State.putStatus, apply_ite State.regions, State.poke_regions, State.onCh_regions, ite_self]
@[simp] theorem State.putStatus_stiles (x : Sub) (b : Bool) (p : Nat) (st : BitVec 16) (n : Nat) (l : List (BitVec 64)) : (s.putStatus x b p st n l).stiles = s.stiles := by
  simp only [State.putStatus, apply_ite State.stiles, State.poke_stiles, State.onCh_stiles, ite_self]
@[simp] theorem State.putStatus_cap (x : Sub) (b : Bool) (p : Nat) (st : BitVec 16) (n : Nat) (l : List (BitVec 64)) : (s.putStatus x b p st n l).cap = s.cap := by
  simp only [State.putStatus, apply_ite State.cap, State.poke_cap, State.onCh_cap, ite_self]
@[simp] theorem State.putStatus_trigs (x : Sub) (b : Bool) (p : Nat) (st : BitVec 16) (n : Nat) (l : List (BitVec 64)) : (s.putStatus x b p st n l).trigs = s.trigs := by
  simp only [State.putStatus, apply_ite State.trigs, State.poke_trigs, State.onCh_trigs, ite_self]
@[simp] theorem State.putStatus_ciph (x : Sub) (b : Bool) (p : Nat) (st : BitVec 16) (n : Nat) (l : List (BitVec 64)) : (s.putStatus x b p st n l).ciph = s.ciph := by
  simp only [State.putStatus, apply_ite State.ciph, State.poke_ciph, State.onCh_ciph, ite_self]
@[simp] theorem State.putStatus_drbg (x : Sub) (b : Bool) (p : Nat) (st : BitVec 16) (n : Nat) (l : List (BitVec 64)) : (s.putStatus x b p st n l).drbg = s.drbg := by
  simp only [State.putStatus, apply_ite State.drbg, State.poke_drbg, State.onCh_drbg, ite_self]
@[simp] theorem State.putStatus_keys (x : Sub) (b : Bool) (p : Nat) (st : BitVec 16) (n : Nat) (l : List (BitVec 64)) : (s.putStatus x b p st n l).keys = s.keys := by
  simp only [State.putStatus, apply_ite State.keys, State.poke_keys, State.onCh_keys, ite_self]
@[simp] theorem State.putStatus_stage (x : Sub) (b : Bool) (p : Nat) (st : BitVec 16) (n : Nat) (l : List (BitVec 64)) : (s.putStatus x b p st n l).stage = s.stage := by
  simp only [State.putStatus, apply_ite State.stage, State.poke_stage, State.onCh_stage, ite_self]
@[simp] theorem State.putStatus_tags (x : Sub) (b : Bool) (p : Nat) (st : BitVec 16) (n : Nat) (l : List (BitVec 64)) : (s.putStatus x b p st n l).tags = s.tags := by
  simp only [State.putStatus, apply_ite State.tags, State.poke_tags, State.onCh_tags, ite_self]
@[simp] theorem State.putStatus_trk (x : Sub) (b : Bool) (p : Nat) (st : BitVec 16) (n : Nat) (l : List (BitVec 64)) : (s.putStatus x b p st n l).trk = s.trk := by
  simp only [State.putStatus, apply_ite State.trk, State.poke_trk, State.onCh_trk, ite_self]
@[simp] theorem State.putStatus_sync (x : Sub) (b : Bool) (p : Nat) (st : BitVec 16) (n : Nat) (l : List (BitVec 64)) : (s.putStatus x b p st n l).sync = s.sync := by
  simp only [State.putStatus, apply_ite State.sync, State.poke_sync, State.onCh_sync, ite_self]
@[simp] theorem State.putStatus_chain (x : Sub) (b : Bool) (p : Nat) (st : BitVec 16) (n : Nat) (l : List (BitVec 64)) : (s.putStatus x b p st n l).chain = s.chain := by
  simp only [State.putStatus, apply_ite State.chain, State.poke_chain, State.onCh_chain, ite_self]
@[simp] theorem State.putStatus_chainW (x : Sub) (b : Bool) (p : Nat) (st : BitVec 16) (n : Nat) (l : List (BitVec 64)) : (s.putStatus x b p st n l).chainW = s.chainW := by
  simp only [State.putStatus, apply_ite State.chainW, State.poke_chainW, State.onCh_chainW, ite_self]
@[simp] theorem State.putStatus_dgt (x : Sub) (b : Bool) (p : Nat) (st : BitVec 16) (n : Nat) (l : List (BitVec 64)) : (s.putStatus x b p st n l).dgt = s.dgt := by
  simp only [State.putStatus, apply_ite State.dgt, State.poke_dgt, State.onCh_dgt, ite_self]
@[simp] theorem State.putStatus_sto (x : Sub) (b : Bool) (p : Nat) (st : BitVec 16) (n : Nat) (l : List (BitVec 64)) : (s.putStatus x b p st n l).sto = s.sto := by
  simp only [State.putStatus, apply_ite State.sto, State.poke_sto, State.onCh_sto, ite_self]
@[simp] theorem State.putStatus_sump (x : Sub) (b : Bool) (p : Nat) (st : BitVec 16) (n : Nat) (l : List (BitVec 64)) : (s.putStatus x b p st n l).sump = s.sump := by
  simp only [State.putStatus, apply_ite State.sump, State.poke_sump, State.onCh_sump, ite_self]
@[simp] theorem State.putStatus_svc (x : Sub) (b : Bool) (p : Nat) (st : BitVec 16) (n : Nat) (l : List (BitVec 64)) : (s.putStatus x b p st n l).svc = s.svc := by
  simp only [State.putStatus, apply_ite State.svc, State.poke_svc, State.onCh_svc, ite_self]
@[simp] theorem State.putStatus_jig (x : Sub) (b : Bool) (p : Nat) (st : BitVec 16) (n : Nat) (l : List (BitVec 64)) : (s.putStatus x b p st n l).jig = s.jig := by
  simp only [State.putStatus, apply_ite State.jig, State.poke_jig, State.onCh_jig, ite_self]
@[simp] theorem State.putStatus_feat (x : Sub) (b : Bool) (p : Nat) (st : BitVec 16) (n : Nat) (l : List (BitVec 64)) : (s.putStatus x b p st n l).feat = s.feat := by
  simp only [State.putStatus, apply_ite State.feat, State.poke_feat, State.onCh_feat, ite_self]

/-- Two states with the same fields are one. -/
theorem State.ext_fields {a b : State} (h_build : a.build = b.build) (h_fabPorts : a.fabPorts = b.fabPorts) (h_pending : a.pending = b.pending) (h_timeIn : a.timeIn = b.timeIn) (h_timeUsed : a.timeUsed = b.timeUsed) (h_timeBack : a.timeBack = b.timeBack) (h_free : a.free = b.free) (h_mem : a.mem = b.mem) (h_port : a.port = b.port) (h_lanes : a.lanes = b.lanes) (h_frz : a.frz = b.frz) (h_boot : a.boot = b.boot) (h_life : a.life = b.life) (h_pwr : a.pwr = b.pwr) (h_chambers : a.chambers = b.chambers) (h_units : a.units = b.units) (h_turnCh : a.turnCh = b.turnCh) (h_turnLeft : a.turnLeft = b.turnLeft) (h_cmds : a.cmds = b.cmds) (h_fins : a.fins = b.fins) (h_clamps : a.clamps = b.clamps) (h_regions : a.regions = b.regions) (h_stiles : a.stiles = b.stiles) (h_cap : a.cap = b.cap) (h_trigs : a.trigs = b.trigs) (h_ciph : a.ciph = b.ciph) (h_drbg : a.drbg = b.drbg) (h_keys : a.keys = b.keys) (h_stage : a.stage = b.stage) (h_tags : a.tags = b.tags) (h_trk : a.trk = b.trk) (h_sync : a.sync = b.sync) (h_chain : a.chain = b.chain) (h_chainW : a.chainW = b.chainW) (h_dgt : a.dgt = b.dgt) (h_sto : a.sto = b.sto) (h_sump : a.sump = b.sump) (h_svc : a.svc = b.svc) (h_jig : a.jig = b.jig) (h_feat : a.feat = b.feat) : a = b := by
  cases a; cases b; simp_all

end Sys2Proof.Machine
end

