-- ==== Sys2Proof/Laws/Engine.lean ====
section
/-! SUPPORT. The command engine: what memory reads after a write, how a command in hand runs, and what its end leaves. -/

namespace Sys2Proof.Laws
open Sys2Proof.Machine

/-! ## Memory -/

/-- A write leaves the bytes outside it. -/
theorem write_get_out (m : Memory) (a : Nat) (d : List Byte) (k : Nat) (h : k < a ∨ a + d.length ≤ k) : (m.write a d).bytes.get k = m.bytes.get k := by
  induction d generalizing m a with
  | nil => rfl
  | cons b r ih =>
    simp only [List.length_cons] at h
    rw [Memory.write, ih _ _ (by omega)]
    exact get_set_ne _ _ (by omega)

/-- A write leaves its bytes. -/
theorem write_get_in (m : Memory) (a : Nat) (d : List Byte) (i : Nat) (h : i < d.length) : (m.write a d).bytes.get (a + i) = d[i] := by
  induction d generalizing m a i with
  | nil => simp at h
  | cons b r ih =>
    rw [Memory.write]
    cases i with
    | zero => rw [write_get_out _ _ _ _ (by omega)]; simp
    | succ i =>
      have := ih (Memory.mk (m.bytes.set a b) m.poison) (a + 1) i (by simpa using h)
      rw [show a + (i + 1) = a + 1 + i by omega]
      simpa using this

@[simp] theorem mark_bytes (m : Memory) (a n : Nat) (p : Bool) : (m.mark a n p).bytes = m.bytes := rfl

/-- Reading what was written. -/
theorem peek_poke (s : State) (a : Nat) (d : List Byte) : (s.poke a d).peek a d.length = d := by
  apply List.ext_getElem
  · simp [State.peek, Memory.read]
  · intro i h1 h2
    simp only [State.peek, Memory.read, List.getElem_map, List.getElem_range, State.poke_mem, mark_bytes]
    exact write_get_in _ _ _ _ h2

/-- Storing bytes leaves every other byte. -/
theorem poke_get_out (s : State) (a : Nat) (d : List Byte) (k : Nat) (h : k < a ∨ a + d.length ≤ k) :
    (s.poke a d).mem.bytes.get k = s.mem.bytes.get k := by
  simp only [State.poke_mem, mark_bytes]; exact write_get_out _ _ _ _ h

theorem leBytes_length (n v : Nat) : (leBytes n v).length = n := by
  induction n generalizing v with
  | zero => rfl
  | succ n ih => simp [leBytes, ih]

/-- An undefined buffer: its bytes and the counter of free values change, nothing else. -/
theorem undefBuf_frame (s : State) (a n : Nat) : s.undefBuf a n = { s with mem := (s.undefBuf a n).mem, free := (s.undefBuf a n).free } := by
  unfold State.undefBuf
  generalize (List.range n).map (Config.undefByte s.free) = l
  cases s; rfl

theorem undefBuf_out (s : State) (a n k : Nat) (h : k < a ∨ a + n ≤ k) : (s.undefBuf a n).mem.bytes.get k = s.mem.bytes.get k := by
  unfold State.undefBuf
  refine poke_get_out _ _ _ _ ?_
  simpa using h

theorem undefBuf_cmds (s : State) (a n : Nat) : (s.undefBuf a n).cmds = s.cmds := by rw [undefBuf_frame]

/-! ## Running a command -/

theorem inHand_serving {s : State} {x : Sub} (h : s.inHand x = true) : s.serving = true := by
  simp only [State.inHand, Bool.and_eq_true] at h; exact h.1.1.1

/-- The command in hand. -/
theorem inHand_cmd {s : State} {x : Sub} (h : s.inHand x = true) :
    ∃ c, s.cmd? x = some c ∧ c.sub = x ∧ c.twin = false ∧ c.phase = 1 ∧ c.units = 0 ∧ c.granted = true ∧ c.prog = 0 ∧ c.acc = [] ∧ c.res = [] ∧ c.seen = 0 := by
  simp only [State.inHand, Bool.and_eq_true] at h
  obtain ⟨⟨⟨_, ha⟩, hf⟩, _⟩ := h
  cases hc : s.cmd? x with
  | none => rw [State.cmd?, List.find?_eq_none] at hc; simp only [List.any_eq_true] at ha; obtain ⟨c, hm, hi⟩ := ha; exact absurd hi (hc c hm)
  | some c =>
    have hm := List.mem_of_find?_eq_some hc
    have hi := List.find?_some hc
    have := List.all_eq_true.mp hf c (List.mem_filter.mpr ⟨hm, hi⟩)
    simp only [Bool.and_eq_true, beq_iff_eq, Bool.not_eq_true'] at this
    exact ⟨c, rfl, by simp_all⟩

/-- A command in hand runs its body. -/
theorem runAccepted_inHand {s : State} {x : Sub} (h : s.inHand x = true) (b : State → Res) : s.runAccepted x b = conclude x (b s) := by
  obtain ⟨c, hc, _, _, _, _, hg, _⟩ := inHand_cmd h
  have hn : s.cmds.any (fun c => isCmd x c && c.phase != 1 && !resumes x.opcode) = false := by
    simp only [State.inHand, Bool.and_eq_true] at h
    rw [List.any_eq_false]
    intro d hd hx
    simp only [Bool.and_eq_true] at hx
    have := List.all_eq_true.mp h.1.2 d (List.mem_filter.mpr ⟨hd, hx.1.1⟩)
    simp only [Bool.and_eq_true, beq_iff_eq] at this
    simp_all
  have ht : s.tryGrant x = (s, true) := by simp [State.tryGrant, hc, hg]
  have hd : (s.needDoms x).isEmpty = true := by simp only [State.inHand, Bool.and_eq_true] at h; exact h.2
  simp only [State.runAccepted, hn, ht, hd]
  rfl

theorem runOp_inHand {s : State} {x : Sub} (h : s.inHand x = true) (l : List Sub) (b : State → Res) : s.runOp x l b = conclude x (b s) := by
  obtain ⟨c, hc, hs, _⟩ := inHand_cmd h
  have hm := List.mem_of_find?_eq_some hc
  have ha : s.cmds.any (fun c => c.sub == x) = true := List.any_eq_true.mpr ⟨c, hm, by simp [hs]⟩
  simp only [State.runOp, inHand_serving h, ha, runAccepted_inHand h]
  simp

theorem noteRefusal_eq {st : BitVec 16} (h : isRefusal st = false) (s : State) (x : Sub) : s.noteRefusal x st = s := by
  simp [State.noteRefusal, h]

/-- The end of a command whose status is no refusal, spelled out. -/
theorem finish_eq {x : Sub} {u : State} {ph : Nat} {st : BitVec 16} {r : BitVec 64} {n : Nat} {l : List (BitVec 64)} {c : Cmd}
    (hc : u.cmd? x = some c) (ht : c.twin = false) (hr : isRefusal st = false) :
    u.finish x ph st r n l =
      (((({ u with cmds := u.cmds.filter fun d => !isCmd x d } : State).unclamp x).unbind x).putStatus x false ph st (max c.units n)
        (if l.isEmpty then c.res else l)).pushFin x false st r := by
  rw [State.finish, hc]; dsimp only; rw [noteRefusal_eq hr, ht]

@[simp] theorem pushFin_eq (s : State) (x : Sub) (st : BitVec 16) (r : BitVec 64) :
    s.pushFin x false st r = { s with fins := s.fins ++ [⟨x.chamber, x.sq, x.cid, st, r⟩] } := rfl

theorem putStatus_short {x : Sub} (h : isLong x = false) (s : State) (b : Bool) (p : Nat) (st : BitVec 16) (n : Nat) (l : List (BitVec 64)) :
    s.putStatus x b p st n l = s := by
  rw [State.putStatus.eq_1, h]; rfl

theorem putStatus_ext {x : Sub} (h : isLong x = true) (g : extStatus x = true) (s : State) (p : Nat) (st : BitVec 16) (n : Nat)
    (l : List (BitVec 64)) :
    s.putStatus x false p st n l = (s.poke (x.statusAddr.toNat + 8) ((l.take 7).flatMap fun w => leBytes 8 w.toNat)).poke
      x.statusAddr.toNat (leBytes 8 (statusWord p st n).toNat) := by
  rw [State.putStatus.eq_1, if_neg (by simp [h]), if_pos g]

theorem putStatus_slot {x : Sub} (h : isLong x = true) (g : extStatus x = false) (s : State) (p : Nat) (st : BitVec 16) (n : Nat)
    (l : List (BitVec 64)) :
    s.putStatus x false p st n l = s.onCh x.chamber fun c => { c with slots := c.slots.modify (slotOf x) fun t =>
      { word := statusWord p st n, res := (l ++ t.res.drop l.length).take 7, owner := some (x.sq, x.cid) } } := by
  rw [State.putStatus.eq_1, if_neg (by simp [h]), if_neg (by simp [g])]

/-- The bytes of the partial words fit behind the status word. -/
theorem words_length (l : List (BitVec 64)) : ((l.take 7).flatMap fun w => leBytes 8 w.toNat).length ≤ 56 := by
  rw [List.length_flatMap]
  simp only [leBytes_length, List.map_const', List.sum_replicate_nat, List.length_take]
  omega

/-- A word and the words behind it, stored: the word reads back and nothing outside the 64 bytes changes. -/
theorem poke_block {s t : State} {a : Nat} {w r : List Byte} (hw : w.length = 8) (hr : r.length ≤ 56)
    (g : t.mem = ((s.poke (a + 8) r).poke a w).mem) :
    t.peek a 8 = w ∧ ∀ k, k < a ∨ a + 64 ≤ k → t.mem.bytes.get k = s.mem.bytes.get k := by
  refine ⟨?_, fun k hk => ?_⟩
  · have e := peek_poke (s.poke (a + 8) r) a w
    rw [hw] at e
    rw [← e, State.peek, State.peek, g]
  · rw [g, poke_get_out _ _ _ _ (by omega), poke_get_out _ _ _ _ (by omega)]

theorem onCh_slot (s : State) (n k : Nat) (f : Slot → Slot) : (s.onCh n fun c => { c with slots := c.slots.modify k f }).chambers =
    s.chambers.modify n fun c => { c with slots := c.slots.set k (f ((s.ch n).slots.get k)) } := rfl

/-- Writing the status word leaves it where its reader looks. -/
theorem putStatus_left {s : State} {x : Sub} {st : BitVec 16} {n : Nat} {l : List (BitVec 64)} {u t : State}
    (hs : s.chambers = u.chambers) (hm : s.mem = u.mem) (h : t.chambers = (s.putStatus x false (termPhase st) st n l).chambers)
    (g : t.mem = (s.putStatus x false (termPhase st) st n l).mem) : StatusLeft x st n u t := by
  unfold StatusLeft
  generalize hw : statusWord (termPhase st) st n = w
  cases hl : isLong x
  · rw [putStatus_short hl] at h g
    exact (if_pos rfl : _ = _) ▸ ⟨h.trans hs, g.trans hm⟩
  · rw [if_neg (by simp)]
    cases he : extStatus x
    · rw [putStatus_slot hl he, hw] at h g
      rw [if_neg (by simp)]
      rw [onCh_slot, hs] at h
      rw [State.onCh_mem] at g
      exact ⟨g.trans hm, _, rfl, rfl, h⟩
    · rw [putStatus_ext hl he, hw] at h g
      rw [State.poke_chambers, State.poke_chambers] at h
      rw [if_pos rfl, ← hm]
      exact ⟨h.trans hs, poke_block (leBytes_length _ _) (words_length l) g⟩

/-- What the end of a command leaves. -/
theorem completed_conclude {x : Sub} {u : State} {st : BitVec 16} {r : BitVec 64} {n m : Nat} {l : List (BitVec 64)} {c : Cmd}
    (hc : u.cmd? x = some c) (ht : c.twin = false) (hr : isRefusal st = false) (hn : max c.units n = m) :
    Completed x st r m u (conclude x ⟨u, some st, r, n, l⟩) := by
  subst hn
  have key : ∀ j : State, j.cmd? x = some c → j = { u with svc := { u.svc with journal := j.svc.journal } } →
      Completed x st r (max c.units n) u (j.finish x (termPhase st) st r n l) := by
    intro j hj e
    rw [finish_eq hj ht hr, pushFin_eq]
    have hf : j.fins = u.fins := by rw [e]
    have hcm : j.cmds = u.cmds := by rw [e]
    have hcl : j.clamps = u.clamps := by rw [e]
    have hch : j.chambers = u.chambers := by rw [e]
    have hme : j.mem = u.mem := by rw [e]
    have htr : j.trk = u.trk := by rw [e]
    refine ⟨?_, ?_, ?_, ?_, ?_, ?_⟩
    · rw [← hf]; show _ = _; simp only [State.putStatus_fins, State.unbind_fins, State.unclamp_fins]
    · rw [← hcm]; show _ = _; simp only [State.putStatus_cmds, State.unbind_cmds, State.unclamp_cmds]
    · rw [← hcl]; show _ = _; simp only [State.putStatus_clamps, State.unbind_clamps, State.unclamp_clamps]
    · refine putStatus_left (s := (({ j with cmds := j.cmds.filter fun d => !isCmd x d } : State).unclamp x).unbind x) ?_ ?_ (by dsimp only) (by dsimp only)
      · rw [← hch]; rfl
      · rw [← hme]; rfl
    · intro p hp hb hx
      simp only [State.putStatus_trk, State.unbind, SMap.mapKeys, List.mem_filter, List.mem_map] at hp
      obtain ⟨⟨q, _, rfl⟩, _⟩ := hp
      simp only [← htr] at hx
      simp only at hb
      split at hb
      · simp at hb
      · rename_i hq; exact hq ⟨hb, hx⟩
    · apply State.ext_fields <;> simp only [State.putStatus_build] <;> first | rfl | (rw [← htr, State.putStatus_trk]; rfl) | (simp; rw [e])
  simp only [conclude]
  split
  · exact key u hc rfl
  · exact key _ hc rfl

/-- The end of a command in hand, run by its body from a state that still holds it. -/
theorem completed_inHand {s u : State} {x : Sub} {st : BitVec 16} {r : BitVec 64} {n : Nat} {l : List (BitVec 64)} (h : s.inHand x = true)
    (hu : u.cmds = s.cmds) (hr : isRefusal st = false) : Completed x st r n u (conclude x ⟨u, some st, r, n, l⟩) := by
  obtain ⟨c, hc, _, ht, _, h0, _⟩ := inHand_cmd h
  exact completed_conclude (c := c) (by simpa [State.cmd?, hu] using hc) ht hr (by omega)

/-- The same, the body having changed the command's own record. -/
theorem completed_of {u : State} {x : Sub} {st : BitVec 16} {r : BitVec 64} {n : Nat} {l : List (BitVec 64)} {c : Cmd} (hc : u.cmd? x = some c)
    (ht : c.twin = false) (h0 : c.units ≤ n) (hr : isRefusal st = false) : Completed x st r n u (conclude x ⟨u, some st, r, n, l⟩) :=
  completed_conclude hc ht hr (by omega)

/-- An opcode row whose body ends the command in hand with a status that is no refusal. -/
theorem ends_runOp {c : Instr} {s u : State} {x : Sub} {l : List Sub} {b : State → Res} {st : BitVec 16} {r : BitVec 64} {n : Nat}
    {w : List (BitVec 64)} (he : exec c s = .next (s.runOp x l b)) (h : s.inHand x = true) (hb : b s = ⟨u, some st, r, n, w⟩)
    (hu : u.cmds = s.cmds) (hr : isRefusal st = false) : Ends c s x st r n u :=
  ⟨_, he, by rw [runOp_inHand h, hb]; exact completed_inHand h hu hr⟩

/-- An opcode row whose body ends the command in hand, having changed the command's own record. -/
theorem ends_runOp_of {c : Instr} {s u : State} {x : Sub} {l : List Sub} {b : State → Res} {st : BitVec 16} {r : BitVec 64} {n : Nat}
    {w : List (BitVec 64)} {d : Cmd} (he : exec c s = .next (s.runOp x l b)) (h : s.inHand x = true) (hb : b s = ⟨u, some st, r, n, w⟩)
    (hc : u.cmd? x = some d) (ht : d.twin = false) (hn : d.units ≤ n) (hr : isRefusal st = false) : Ends c s x st r n u :=
  ⟨_, he, by rw [runOp_inHand h, hb]; exact completed_of hc ht hn hr⟩

/-- Changing the record of a command in hand. -/
theorem cmd_onCmd {s : State} {x : Sub} {c : Cmd} (h : s.cmd? x = some c) (f : Cmd → Cmd) (hf : ∀ d, (f d).sub = d.sub) :
    (s.onCmd x f).cmd? x = some (f c) := by
  have hk : ∀ d, isCmd x (if isCmd x d then f d else d) = isCmd x d := by
    intro d; split
    · simp [isCmd, hf]
    · rfl
  simp only [State.cmd?, State.onCmd, List.find?_map] at h ⊢
  have hi := List.find?_some h
  rw [show (isCmd x ∘ fun c => if isCmd x c = true then f c else c) = isCmd x from funext hk, h]
  simp [hi]

end Sys2Proof.Laws
end

