-- ==== Sys2Proof/Laws/Keeps.lean ====
section
/-! SUPPORT. What no command changes or takes away: the waiting commands, the build, the port count, the canonical form of memory and every blown fuse bit; and how the relation passes through conditionals, pairs, options and folds. -/

namespace Sys2Proof.Laws
open Sys2Proof.Machine

/-- What no command changes or takes away, from `a`. -/
def KeepsData (a : State) (b : Build) (fp : Nat) (pe : List Instr) (m : Memory) (fu : SMap (BitVec 32)) : Prop :=
  pe = a.pending ∧ b = a.build ∧ fp = a.fabPorts ∧ (a.mem.wf = true → m.wf = true) ∧
    ∀ r, a.boot.fuses.get r &&& fu.get r = a.boot.fuses.get r
/-- No command changes the queue, the build or the port count, breaks the canonical form of memory or clears a blown fuse bit. -/
def Keeps (a s : State) : Prop := KeepsData a s.build s.fabPorts s.pending s.mem s.boot.fuses

theorem Keeps.refl (a : State) : Keeps a a := ⟨rfl, rfl, rfl, id, fun _ => BitVec.and_self⟩
def KeepsRes (a : State) (r : Res) : Prop := Keeps a r.s
def KeepsFst {β : Type} (a : State) (p : State × β) : Prop := Keeps a p.1
def KeepsSnd {β : Type} (a : State) (p : β × State) : Prop := Keeps a p.2
def KeepsOut (a : State) (o : Host.Outcome State Fault Refusal) : Prop := ∀ t, o = .next t → Keeps a t

theorem Keeps.ite {a x y : State} {c : Prop} [Decidable c] (h : Keeps a x) (g : Keeps a y) : Keeps a (if c then x else y) := by split <;> assumption
theorem KeepsRes.ite {a : State} {x y : Res} {c : Prop} [Decidable c] (h : KeepsRes a x) (g : KeepsRes a y) : KeepsRes a (if c then x else y) := by split <;> assumption
theorem KeepsFst.ite {β : Type} {a : State} {x y : State × β} {c : Prop} [Decidable c] (h : KeepsFst a x) (g : KeepsFst a y) : KeepsFst a (if c then x else y) := by split <;> assumption
theorem KeepsSnd.ite {β : Type} {a : State} {x y : β × State} {c : Prop} [Decidable c] (h : KeepsSnd a x) (g : KeepsSnd a y) : KeepsSnd a (if c then x else y) := by split <;> assumption
theorem KeepsOut.next {a t : State} (h : Keeps a t) : KeepsOut a (.next t) := fun u e => by cases e; exact h
theorem KeepsFst.mk {β : Type} {a s : State} {b : β} (h : Keeps a s) : KeepsFst a (s, b) := h
theorem KeepsSnd.mk {β : Type} {a s : State} {b : β} (h : Keeps a s) : KeepsSnd a (b, s) := h
theorem KeepsRes.mk {a s : State} {st : Option (BitVec 16)} {r : BitVec 64} {u : Nat} {w : List (BitVec 64)} (h : Keeps a s) : KeepsRes a ⟨s, st, r, u, w⟩ := h
theorem KeepsFst.fst {β : Type} {a : State} {p : State × β} (h : KeepsFst a p) : Keeps a p.1 := h
theorem KeepsSnd.snd {β : Type} {a : State} {p : β × State} (h : KeepsSnd a p) : Keeps a p.2 := h
theorem KeepsRes.fst {a : State} {p : Res} (h : KeepsRes a p) : Keeps a p.s := h
theorem KeepsFst.eq {β : Type} {a t : State} {p : State × β} {b : β} (e : p = (t, b)) (h : KeepsFst a p) : Keeps a t := by subst e; exact h
theorem KeepsSnd.eq {β : Type} {a t : State} {p : β × State} {b : β} (e : p = (b, t)) (h : KeepsSnd a p) : Keeps a t := by subst e; exact h
theorem Keeps.foldl {α : Type} {a : State} {f : State → α → State} (l : List α) {s : State} (hf : ∀ s x, Keeps a s → Keeps a (f s x)) (h : Keeps a s) : Keeps a (l.foldl f s) := by
  induction l generalizing s with
  | nil => exact h
  | cons x r ih => exact ih (hf s x h)

theorem Keeps.lit {a : State} {bd : Build} {fp : Nat} {pe : List Instr} {me : Memory} {ti tu : Nat} {tb : Bool} {fr : Nat} {po : PortRegs} {la : SMap Lane} {fz : Freeze} {bo : Boot} {lf : LifeLamp}
  {pw : Pwr} {chs : SMap Chamber} {un : SMap ChUnit} {tc tl : Nat} {cm : List Cmd} {fi : List Fin} {cl : List Clamp} {rg : SMap (Option Region)}
  {sts : SMap Stile} {cp : Cap} {tr : SMap Trig} {ci : Cipher} {dr : Drbg} {ke : SMap KeySlot} {sg : Staging} {tg : List TagUse} {tk : Trk}
  {sy : Sync} {cn : Chain} {cw : ChainWork} {dg : Digest} {so : Storage} {su : Sump} {sv : Svc} {jg : Jig} {ft : Feat} :
  Keeps a {
        build := bd, fabPorts := fp, pending := pe, timeIn := ti, timeUsed := tu, timeBack := tb, free := fr, mem := me,
        port := po, lanes := la, frz := fz, boot := bo, life := lf, pwr := pw, chambers := chs, units := un, turnCh := tc, turnLeft := tl,
        cmds := cm, fins := fi, clamps := cl, regions := rg, stiles := sts, cap := cp, trigs := tr, ciph := ci, drbg := dr, keys := ke,
        stage := sg, tags := tg, trk := tk, sync := sy, chain := cn, chainW := cw, dgt := dg, sto := so, sump := su, svc := sv, jig := jg,
        feat := ft } ↔ KeepsData a bd fp pe me bo.fuses := Iff.rfl
theorem KeepsData.of {a s : State} (h : Keeps a s) : KeepsData a s.build s.fabPorts s.pending s.mem s.boot.fuses := h
theorem KeepsData.poke {a s : State} {m : Memory} (h : Keeps a s) (g : s.mem.wf = true → m.wf = true) : KeepsData a s.build s.fabPorts s.pending m s.boot.fuses :=
  ⟨h.1, h.2.1, h.2.2.1, fun w => g (h.2.2.2.1 w), h.2.2.2.2⟩
theorem Keeps.id {a s : State} (h : Keeps a s) : Keeps a (id s) := h
theorem KeepsFst.foldl {α β : Type} {a : State} {f : State × β → α → State × β} (l : List α) {p : State × β} (hf : ∀ p x, KeepsFst a p → KeepsFst a (f p x)) (h : KeepsFst a p) :
    KeepsFst a (l.foldl f p) := by
  induction l generalizing p with
  | nil => exact h
  | cons x r ih => exact ih (hf p x h)
theorem KeepsSnd.foldl {α β : Type} {a : State} {f : β × State → α → β × State} (l : List α) {p : β × State} (hf : ∀ p x, KeepsSnd a p → KeepsSnd a (f p x)) (h : KeepsSnd a p) :
    KeepsSnd a (l.foldl f p) := by
  induction l generalizing p with
  | nil => exact h
  | cons x r ih => exact ih (hf p x h)
theorem Keeps.foldl1 {α β : Type} {a : State} {f : State × β → α → State × β} (l : List α) {p : State × β} (hf : ∀ p x, KeepsFst a p → KeepsFst a (f p x)) (h : KeepsFst a p) :
    Keeps a (l.foldl f p).1 := KeepsFst.foldl l hf h
theorem Keeps.foldl2 {α β : Type} {a : State} {f : β × State → α → β × State} (l : List α) {p : β × State} (hf : ∀ p x, KeepsSnd a p → KeepsSnd a (f p x)) (h : KeepsSnd a p) :
    Keeps a (l.foldl f p).2 := KeepsSnd.foldl l hf h
/-- An optional answer. -/
def KeepsOpt {α : Type} (g : α → State) (a : State) (o : Option α) : Prop := ∀ x, o = some x → Keeps a (g x)
theorem KeepsOpt.none {α : Type} {g : α → State} {a : State} : KeepsOpt g a none := fun _ e => by cases e
theorem KeepsOpt.some {α : Type} {g : α → State} {a : State} {x : α} (h : Keeps a (g x)) : KeepsOpt g a (some x) := fun _ e => by cases e; exact h
theorem KeepsOpt.ite {α : Type} {g : α → State} {a : State} {x y : Option α} {c : Prop} [Decidable c] (h : KeepsOpt g a x) (k : KeepsOpt g a y) : KeepsOpt g a (if c then x else y) := by
  split <;> assumption
theorem KeepsOpt.map {α β : Type} {g : α → State} {k : β → State} {f : β → α} {a : State} {o : Option β} (h : KeepsOpt k a o) (e : ∀ x, Keeps a (k x) → Keeps a (g (f x))) : KeepsOpt g a (o.map f) := by
  intro x hx; cases o with
  | none => cases hx
  | some y => cases hx; exact e y (h y rfl)
theorem KeepsOpt.eq {α : Type} {g : α → State} {a : State} {o : Option α} {x : α} (e : o = .some x) (h : KeepsOpt g a o) : Keeps a (g x) := h x e
/-- An answer or an error. -/
def KeepsExc {α ε : Type} (g : α → State) (a : State) (o : Except ε α) : Prop := ∀ x, o = .ok x → Keeps a (g x)
theorem KeepsExc.error {α ε : Type} {g : α → State} {a : State} {e : ε} : KeepsExc g a (.error e) := fun _ e => by cases e
theorem KeepsExc.ok {α ε : Type} {g : α → State} {a : State} {x : α} (h : Keeps a (g x)) : KeepsExc (ε := ε) g a (.ok x) := fun _ e => by cases e; exact h
theorem KeepsExc.ite {α ε : Type} {g : α → State} {a : State} {x y : Except ε α} {c : Prop} [Decidable c] (h : KeepsExc g a x) (k : KeepsExc g a y) : KeepsExc g a (if c then x else y) := by
  split <;> assumption
theorem KeepsExc.eq {α ε : Type} {g : α → State} {a : State} {o : Except ε α} {x : α} (e : o = .ok x) (h : KeepsExc g a o) : Keeps a (g x) := h x e

theorem burn_row {a s : State} (h : Keeps a s) (row : Nat) :
    KeepsData a s.build s.fabPorts s.pending s.mem (s.boot.fuses.set row 0xFFFFFFFF) := by
  refine ⟨h.1, h.2.1, h.2.2.1, h.2.2.2.1, fun r => ?_⟩
  rw [get_set]; split
  · exact BitVec.and_allOnes
  · exact h.2.2.2.2 r

theorem burn_rows {a s : State} (h : Keeps a s) (row : Nat → BitVec 32) :
    KeepsData a s.build s.fabPorts s.pending s.mem
      ((List.range 16).foldl (fun f i => f.set (0x30 + i) (f.get (0x30 + i) ||| row i)) s.boot.fuses) := by
  refine ⟨h.1, h.2.1, h.2.2.1, h.2.2.2.1, fun r => ?_⟩
  have gen : ∀ (l : List Nat) (f : SMap (BitVec 32)), a.boot.fuses.get r &&& f.get r = a.boot.fuses.get r →
      a.boot.fuses.get r &&& (l.foldl (fun f i => f.set (0x30 + i) (f.get (0x30 + i) ||| row i)) f).get r = a.boot.fuses.get r := by
    intro l
    induction l with
    | nil => exact fun f hf => hf
    | cons i t ih =>
      intro f hf
      refine ih _ ?_
      rw [get_set]; split
      · rename_i e; rw [← e, BitVec.and_or_distrib_left, hf]
        ext k; simp; intro h _; exact h
      · exact hf
  exact gen _ _ (h.2.2.2.2 r)
end Sys2Proof.Laws
end

