-- ==== Sys2Proof/Laws/KeepsOps.lean ====
section
/-! SUPPORT. Every function of Machine/Ops.lean that answers a state keeps what no command may change. -/

namespace Sys2Proof.Laws
open Sys2Proof Sys2Proof.Machine
set_option linter.unreachableTactic false
set_option linter.unusedTactic false
set_option linter.unusedVariables false
set_option linter.unusedSimpArgs false
set_option maxRecDepth 4000

theorem keeps_onCh {a : State} (v0 : State) (v1 : ℕ) (v2 : Chamber → Chamber) (h0 : Keeps a v0) : Keeps a (State.onCh v0 v1 v2) := by
  unfold State.onCh
  try dsimp only
  repeat' (first | with_reducible assumption | with_reducible exact Keeps.refl _ | (simp only [Keeps.lit]; with_reducible apply KeepsData.of))

theorem keeps_onUn {a : State} (v0 : State) (v1 : ℕ) (v2 : ChUnit → ChUnit) (h0 : Keeps a v0) : Keeps a (State.onUn v0 v1 v2) := by
  unfold State.onUn
  try dsimp only
  repeat' (first | with_reducible assumption | with_reducible exact Keeps.refl _ | (simp only [Keeps.lit]; with_reducible apply KeepsData.of))

theorem keeps_onCapRegs {a : State} (v0 : State) (v1 : ℕ) (v2 : CapRegs → CapRegs) (h0 : Keeps a v0) : Keeps a (State.onCapRegs v0 v1 v2) := by
  unfold State.onCapRegs
  try dsimp only
  repeat' (first | with_reducible assumption | with_reducible exact Keeps.refl _ | with_reducible apply keeps_onUn | (simp only [Keeps.lit]; with_reducible apply KeepsData.of))

theorem keeps_onStep {a : State} (v0 : State) (v1 : ℕ) (v2 : StepRec → StepRec) (h0 : Keeps a v0) : Keeps a (State.onStep v0 v1 v2) := by
  unfold State.onStep
  try dsimp only
  repeat' (first | with_reducible assumption | with_reducible exact Keeps.refl _ | with_reducible apply keeps_onUn | (simp only [Keeps.lit]; with_reducible apply KeepsData.of))

theorem keeps_onSite {a : State} (v0 : State) (v1 : ℕ) (v2 : Site → Site) (h0 : Keeps a v0) : Keeps a (State.onSite v0 v1 v2) := by
  unfold State.onSite
  try dsimp only
  repeat' (first | with_reducible assumption | with_reducible exact Keeps.refl _ | with_reducible apply keeps_onUn | (simp only [Keeps.lit]; with_reducible apply KeepsData.of))

theorem keeps_onSq {a : State} (v0 : State) (v1 : ℕ) (v2 : ℕ) (v3 : Sq → Sq) (h0 : Keeps a v0) : Keeps a (State.onSq v0 v1 v2 v3) := by
  unfold State.onSq
  try dsimp only
  repeat' (first | with_reducible assumption | with_reducible exact Keeps.refl _ | with_reducible apply keeps_onCh | (simp only [Keeps.lit]; with_reducible apply KeepsData.of))

theorem keeps_onCq {a : State} (v0 : State) (v1 : ℕ) (v2 : ℕ) (v3 : Cq → Cq) (h0 : Keeps a v0) : Keeps a (State.onCq v0 v1 v2 v3) := by
  unfold State.onCq
  try dsimp only
  repeat' (first | with_reducible assumption | with_reducible exact Keeps.refl _ | with_reducible apply keeps_onCh | (simp only [Keeps.lit]; with_reducible apply KeepsData.of))

theorem keeps_onSt {a : State} (v0 : State) (v1 : ℕ) (v2 : Stile → Stile) (h0 : Keeps a v0) : Keeps a (State.onSt v0 v1 v2) := by
  unfold State.onSt
  try dsimp only
  repeat' (first | with_reducible assumption | with_reducible exact Keeps.refl _ | (simp only [Keeps.lit]; with_reducible apply KeepsData.of))

theorem keeps_onObj {a : State} (v0 : State) (v1 : ℕ) (v2 : SyncObj → SyncObj) (h0 : Keeps a v0) : Keeps a (State.onObj v0 v1 v2) := by
  unfold State.onObj
  try dsimp only
  repeat' (first | with_reducible assumption | with_reducible exact Keeps.refl _ | (simp only [Keeps.lit]; with_reducible apply KeepsData.of))

theorem keeps_onKey {a : State} (v0 : State) (v1 : ℕ) (v2 : KeySlot → KeySlot) (h0 : Keeps a v0) : Keeps a (State.onKey v0 v1 v2) := by
  unfold State.onKey
  try dsimp only
  repeat' (first | with_reducible assumption | with_reducible exact Keeps.refl _ | (simp only [Keeps.lit]; with_reducible apply KeepsData.of))

theorem keeps_onNvme {a : State} (v0 : State) (v1 : ℕ) (v2 : Nvme → Nvme) (h0 : Keeps a v0) : Keeps a (State.onNvme v0 v1 v2) := by
  unfold State.onNvme
  try dsimp only
  repeat' (first | with_reducible assumption | with_reducible exact Keeps.refl _ | (simp only [Keeps.lit]; with_reducible apply KeepsData.of))

theorem keeps_useTime {a : State} (v0 : State) (h0 : Keeps a v0) : Keeps a (State.useTime v0) := by
  unfold State.useTime
  try dsimp only
  repeat' (first | with_reducible assumption | with_reducible exact Keeps.refl _ | (simp only [Keeps.lit]; with_reducible apply KeepsData.of))

theorem keeps_freeNat {a : State} (v0 : State) (h0 : Keeps a v0) : KeepsSnd a (State.freeNat v0) := by
  unfold State.freeNat
  try dsimp only
  repeat' (first | with_reducible assumption | with_reducible exact Keeps.refl _ | with_reducible apply KeepsSnd.mk | (simp only [Keeps.lit]; with_reducible apply KeepsData.of))
theorem keeps_freeNat' {a : State} (v0 : State) (h0 : Keeps a v0) : Keeps a (State.freeNat v0).2 := keeps_freeNat v0 h0
theorem keeps_freeNat_e {a t : State} {v0 : State} {b : _} (e : State.freeNat v0 = (b, t)) (h0 : Keeps a v0) : Keeps a t := KeepsSnd.eq e (keeps_freeNat v0 h0)

theorem keeps_draw {a : State} (v0 : State) (h0 : Keeps a v0) : KeepsSnd a (State.draw v0) := by
  unfold State.draw
  try dsimp only
  repeat' (first | with_reducible assumption | with_reducible exact Keeps.refl _ | with_reducible apply KeepsSnd.mk | (simp only [Keeps.lit]; with_reducible apply KeepsData.of))
theorem keeps_draw' {a : State} (v0 : State) (h0 : Keeps a v0) : Keeps a (State.draw v0).2 := keeps_draw v0 h0
theorem keeps_draw_e {a t : State} {v0 : State} {b : _} (e : State.draw v0 = (b, t)) (h0 : Keeps a v0) : Keeps a t := KeepsSnd.eq e (keeps_draw v0 h0)

theorem keeps_poke {a : State} (v0 : State) (v1 : ℕ) (v2 : List Byte) (h0 : Keeps a v0) : Keeps a (State.poke v0 v1 v2) := by
  unfold State.poke
  try dsimp only
  repeat' (first | with_reducible assumption | with_reducible exact Keeps.refl _ | with_reducible apply Keeps.ite | with_reducible apply KeepsRes.ite | with_reducible apply KeepsFst.ite | with_reducible apply KeepsSnd.ite | (simp only [Keeps.lit]; with_reducible apply KeepsData.of) | (simp only [Keeps.lit]; with_reducible refine KeepsData.poke ?_ (fun w => ?_); rotate_left; first | exact mark_wf _ _ _ w | exact fold_wf _ _ (fun m x hm => poison_wf _ _ hm) w | exact fold_wf _ _ (fun m x hm => by split; exact poison_wf _ _ hm; exact hm) w | exact write_wf _ _ w | exact mark_wf _ _ _ (write_wf _ _ w)) | intro s hs | split)

theorem keeps_cause {a : State} (v0 : State) (v1 : ℕ) (h0 : Keeps a v0) : Keeps a (State.cause v0 v1) := by
  unfold State.cause
  try dsimp only
  repeat' (first | with_reducible assumption | with_reducible exact Keeps.refl _ | (simp only [Keeps.lit]; with_reducible apply KeepsData.of))

theorem keeps_sendFrame {a : State} (v0 : State) (v1 : ℕ) (v2 : ℕ) (v3 : List Byte) (h0 : Keeps a v0) : Keeps a (State.sendFrame v0 v1 v2 v3) := by
  unfold State.sendFrame
  try dsimp only
  repeat' (first | with_reducible assumption | with_reducible exact Keeps.refl _ | (simp only [Keeps.lit]; with_reducible apply KeepsData.of))

theorem keeps_notice {a : State} (v0 : State) (v1 : ℕ) (v2 : BitVec 16) (h0 : Keeps a v0) : Keeps a (State.notice v0 v1 v2) := by
  unfold State.notice
  try dsimp only
  repeat' (first | with_reducible assumption | with_reducible exact Keeps.refl _ | with_reducible apply Keeps.ite | with_reducible apply KeepsRes.ite | with_reducible apply KeepsFst.ite | with_reducible apply KeepsSnd.ite | with_reducible apply keeps_sendFrame | (simp only [Keeps.lit]; with_reducible apply KeepsData.of) | (simp only [Keeps.lit]; with_reducible refine KeepsData.poke ?_ (fun w => ?_); rotate_left; first | exact mark_wf _ _ _ w | exact fold_wf _ _ (fun m x hm => poison_wf _ _ hm) w | exact fold_wf _ _ (fun m x hm => by split; exact poison_wf _ _ hm; exact hm) w | exact write_wf _ _ w | exact mark_wf _ _ _ (write_wf _ _ w)) | intro s hs | split)

theorem keeps_log {a : State} (v0 : State) (v1 : BitVec 16) (v2 : ℕ) (v3 : ℕ) (v4 : ℕ) (v5 : Option ℕ) (v6 : List Byte) (h0 : Keeps a v0) : Keeps a (State.log v0 v1 v2 v3 v4 v5 v6) := by
  unfold State.log
  try dsimp only
  repeat' (first | with_reducible assumption | with_reducible exact Keeps.refl _ | with_reducible apply Keeps.ite | with_reducible apply KeepsRes.ite | with_reducible apply KeepsFst.ite | with_reducible apply KeepsSnd.ite | with_reducible apply keeps_useTime | with_reducible apply keeps_cause | with_reducible apply keeps_notice | (simp only [Keeps.lit]; with_reducible apply KeepsData.of) | (simp only [Keeps.lit]; with_reducible refine KeepsData.poke ?_ (fun w => ?_); rotate_left; first | exact mark_wf _ _ _ w | exact fold_wf _ _ (fun m x hm => poison_wf _ _ hm) w | exact fold_wf _ _ (fun m x hm => by split; exact poison_wf _ _ hm; exact hm) w | exact write_wf _ _ w | exact mark_wf _ _ _ (write_wf _ _ w)) | intro s hs | split)

theorem keeps_logStatus {a : State} (v0 : State) (v1 : BitVec 16) (v2 : ℕ) (v3 : ℕ) (v4 : Option ℕ) (v5 : List Byte) (h0 : Keeps a v0) : Keeps a (State.logStatus v0 v1 v2 v3 v4 v5) := by
  unfold State.logStatus
  try dsimp only
  repeat' (first | with_reducible assumption | with_reducible exact Keeps.refl _ | with_reducible apply keeps_log | (simp only [Keeps.lit]; with_reducible apply KeepsData.of))

theorem keeps_logPartner {a : State} (v0 : State) (v1 : BitVec 16) (v2 : ℕ) (v3 : ℕ) (v4 : Option ℕ) (v5 : List Byte) (h0 : Keeps a v0) : Keeps a (State.logPartner v0 v1 v2 v3 v4 v5) := by
  unfold State.logPartner
  try dsimp only
  repeat' (first | with_reducible assumption | with_reducible exact Keeps.refl _ | with_reducible apply keeps_logStatus | with_reducible apply keeps_cause | (simp only [Keeps.lit]; with_reducible apply KeepsData.of))

theorem keeps_ignoredWrite {a : State} (v0 : State) (v1 : ℕ) (h0 : Keeps a v0) : Keeps a (State.ignoredWrite v0 v1) := by
  unfold State.ignoredWrite
  try dsimp only
  repeat' (first | with_reducible assumption | with_reducible exact Keeps.refl _ | with_reducible apply keeps_log | (simp only [Keeps.lit]; with_reducible apply KeepsData.of))

theorem keeps_setReasons {a : State} (v0 : State) (v1 : BitVec 16) (h0 : Keeps a v0) : Keeps a (State.setReasons v0 v1) := by
  unfold State.setReasons
  try dsimp only
  repeat' (first | with_reducible assumption | with_reducible exact Keeps.refl _ | with_reducible apply Keeps.ite | with_reducible apply KeepsRes.ite | with_reducible apply KeepsFst.ite | with_reducible apply KeepsSnd.ite | with_reducible apply keeps_log | with_reducible apply keeps_cause | with_reducible apply keeps_notice | (simp only [Keeps.lit]; with_reducible apply KeepsData.of) | (simp only [Keeps.lit]; with_reducible refine KeepsData.poke ?_ (fun w => ?_); rotate_left; first | exact mark_wf _ _ _ w | exact fold_wf _ _ (fun m x hm => poison_wf _ _ hm) w | exact fold_wf _ _ (fun m x hm => by split; exact poison_wf _ _ hm; exact hm) w | exact write_wf _ _ w | exact mark_wf _ _ _ (write_wf _ _ w)) | intro s hs | split)

theorem keeps_raise {a : State} (v0 : State) (v1 : ℕ) (h0 : Keeps a v0) : Keeps a (State.raise v0 v1) := by
  unfold State.raise
  try dsimp only
  repeat' (first | with_reducible assumption | with_reducible exact Keeps.refl _ | with_reducible apply keeps_setReasons | (simp only [Keeps.lit]; with_reducible apply KeepsData.of))

theorem keeps_unraise {a : State} (v0 : State) (v1 : ℕ) (h0 : Keeps a v0) : Keeps a (State.unraise v0 v1) := by
  unfold State.unraise
  try dsimp only
  repeat' (first | with_reducible assumption | with_reducible exact Keeps.refl _ | with_reducible apply keeps_setReasons | (simp only [Keeps.lit]; with_reducible apply KeepsData.of))

theorem keeps_answer {a : State} (v0 : State) (v1 : Access) (v2 : ℕ) (v3 : BitVec 64) (h0 : Keeps a v0) : Keeps a (State.answer v0 v1 v2 v3) := by
  unfold State.answer
  try dsimp only
  repeat' (first | with_reducible assumption | with_reducible exact Keeps.refl _ | (simp only [Keeps.lit]; with_reducible apply KeepsData.of))

theorem keeps_refuse {a : State} (v0 : State) (v1 : Access) (v2 : ℕ) (h0 : Keeps a v0) : Keeps a (State.refuse v0 v1 v2) := by
  unfold State.refuse
  try dsimp only
  repeat' (first | with_reducible assumption | with_reducible exact Keeps.refl _ | with_reducible apply keeps_answer | with_reducible apply keeps_logPartner | (simp only [Keeps.lit]; with_reducible apply KeepsData.of))

theorem keeps_dropHalf {a : State} (v0 : State) (v1 : Access) (h0 : Keeps a v0) : Keeps a (State.dropHalf v0 v1) := by
  unfold State.dropHalf
  try dsimp only
  repeat' (first | with_reducible assumption | with_reducible exact Keeps.refl _ | with_reducible apply Keeps.ite | with_reducible apply KeepsRes.ite | with_reducible apply KeepsFst.ite | with_reducible apply KeepsSnd.ite | with_reducible apply keeps_ignoredWrite | (simp only [Keeps.lit]; with_reducible apply KeepsData.of) | (simp only [Keeps.lit]; with_reducible refine KeepsData.poke ?_ (fun w => ?_); rotate_left; first | exact mark_wf _ _ _ w | exact fold_wf _ _ (fun m x hm => poison_wf _ _ hm) w | exact fold_wf _ _ (fun m x hm => by split; exact poison_wf _ _ hm; exact hm) w | exact write_wf _ _ w | exact mark_wf _ _ _ (write_wf _ _ w)) | intro s hs | split)

theorem keeps_fabWrite {a : State} (v0 : State) (v1 : Access) (v2 : ℕ) (v3 : Bool) (v4 : ℕ) (v5 : State → State) (h0 : Keeps a v0) (h1 : ∀ s, Keeps a s → Keeps a (v5 s)) : Keeps a (State.fabWrite v0 v1 v2 v3 v4 v5) := by
  unfold State.fabWrite
  try dsimp only
  repeat' (first | with_reducible assumption | with_reducible exact Keeps.refl _ | with_reducible apply Keeps.ite | with_reducible apply KeepsRes.ite | with_reducible apply KeepsFst.ite | with_reducible apply KeepsSnd.ite | with_reducible apply h1 | with_reducible apply keeps_answer | with_reducible apply keeps_refuse | with_reducible apply keeps_ignoredWrite | with_reducible apply keeps_dropHalf | (simp only [Keeps.lit]; with_reducible apply KeepsData.of) | (simp only [Keeps.lit]; with_reducible refine KeepsData.poke ?_ (fun w => ?_); rotate_left; first | exact mark_wf _ _ _ w | exact fold_wf _ _ (fun m x hm => poison_wf _ _ hm) w | exact fold_wf _ _ (fun m x hm => by split; exact poison_wf _ _ hm; exact hm) w | exact write_wf _ _ w | exact mark_wf _ _ _ (write_wf _ _ w)) | intro s hs | split)

theorem keeps_pageWrite {a : State} (v0 : State) (v1 : Access) (v2 : ℕ) (v3 : ℕ) (v4 : Bool) (v5 : State → State) (h0 : Keeps a v0) (h1 : ∀ s, Keeps a s → Keeps a (v5 s)) : Keeps a (State.pageWrite v0 v1 v2 v3 v4 v5) := by
  unfold State.pageWrite
  try dsimp only
  repeat' (first | with_reducible assumption | with_reducible exact Keeps.refl _ | with_reducible apply h1 | with_reducible apply keeps_fabWrite | (simp only [Keeps.lit]; with_reducible apply KeepsData.of))

theorem keeps_globalWrite {a : State} (v0 : State) (v1 : Access) (v2 : ℕ) (v3 : State → State) (h0 : Keeps a v0) (h1 : ∀ s, Keeps a s → Keeps a (v3 s)) : Keeps a (State.globalWrite v0 v1 v2 v3) := by
  unfold State.globalWrite
  try dsimp only
  repeat' (first | with_reducible assumption | with_reducible exact Keeps.refl _ | with_reducible apply h1 | with_reducible apply keeps_fabWrite | (simp only [Keeps.lit]; with_reducible apply KeepsData.of))

theorem keeps_wantDom {a : State} (v0 : State) (v1 : ℕ) (h0 : Keeps a v0) : Keeps a (State.wantDom v0 v1) := by
  unfold State.wantDom
  try dsimp only
  repeat' (first | with_reducible assumption | with_reducible exact Keeps.refl _ | with_reducible apply Keeps.ite | with_reducible apply KeepsRes.ite | with_reducible apply KeepsFst.ite | with_reducible apply KeepsSnd.ite | (simp only [Keeps.lit]; with_reducible apply KeepsData.of) | (simp only [Keeps.lit]; with_reducible refine KeepsData.poke ?_ (fun w => ?_); rotate_left; first | exact mark_wf _ _ _ w | exact fold_wf _ _ (fun m x hm => poison_wf _ _ hm) w | exact fold_wf _ _ (fun m x hm => by split; exact poison_wf _ _ hm; exact hm) w | exact write_wf _ _ w | exact mark_wf _ _ _ (write_wf _ _ w)) | intro s hs | split)

theorem keeps_wantDoms {a : State} (v0 : State) (v1 : List ℕ) (h0 : Keeps a v0) : Keeps a (State.wantDoms v0 v1) := by
  unfold State.wantDoms
  try dsimp only
  repeat' (first | with_reducible assumption | with_reducible exact Keeps.refl _ | with_reducible apply Keeps.ite | with_reducible apply KeepsRes.ite | with_reducible apply KeepsFst.ite | with_reducible apply KeepsSnd.ite | with_reducible apply KeepsFst.mk | with_reducible apply KeepsSnd.mk | with_reducible apply KeepsRes.mk | with_reducible apply Keeps.id | with_reducible apply keeps_wantDom | (with_reducible refine Keeps.foldl _ ?_ ?_; intro s x hs; try dsimp only) | (with_reducible refine Keeps.foldl1 _ ?_ ?_; (intro p x hs; replace hs := KeepsFst.fst hs; try dsimp only)) | (with_reducible refine Keeps.foldl2 _ ?_ ?_; (intro p x hs; replace hs := KeepsSnd.snd hs; try dsimp only)) | (with_reducible refine KeepsFst.foldl _ ?_ ?_; (intro p x hs; replace hs := KeepsFst.fst hs; try dsimp only)) | (with_reducible refine KeepsSnd.foldl _ ?_ ?_; (intro p x hs; replace hs := KeepsSnd.snd hs; try dsimp only)) | (simp only [Keeps.lit]; with_reducible apply KeepsData.of) | (simp only [Keeps.lit]; with_reducible refine KeepsData.poke ?_ (fun w => ?_); rotate_left; first | exact mark_wf _ _ _ w | exact fold_wf _ _ (fun m x hm => poison_wf _ _ hm) w | exact fold_wf _ _ (fun m x hm => by split; exact poison_wf _ _ hm; exact hm) w | exact write_wf _ _ w | exact mark_wf _ _ _ (write_wf _ _ w)) | intro s hs | split | (with_reducible apply KeepsSnd.eq; with_reducible assumption) | (with_reducible apply KeepsFst.eq; with_reducible assumption))

theorem keeps_beginWake {a : State} (v0 : State) (h0 : Keeps a v0) : Keeps a (State.beginWake v0) := by
  unfold State.beginWake
  try dsimp only
  repeat' (first | with_reducible assumption | with_reducible exact Keeps.refl _ | with_reducible apply Keeps.ite | with_reducible apply KeepsRes.ite | with_reducible apply KeepsFst.ite | with_reducible apply KeepsSnd.ite | with_reducible apply keeps_wantDoms | (simp only [Keeps.lit]; with_reducible apply KeepsData.of) | (simp only [Keeps.lit]; with_reducible refine KeepsData.poke ?_ (fun w => ?_); rotate_left; first | exact mark_wf _ _ _ w | exact fold_wf _ _ (fun m x hm => poison_wf _ _ hm) w | exact fold_wf _ _ (fun m x hm => by split; exact poison_wf _ _ hm; exact hm) w | exact write_wf _ _ w | exact mark_wf _ _ _ (write_wf _ _ w)) | intro s hs | split)

end Sys2Proof.Laws
end

