-- ==== Sys2Proof/Laws/KeepsOperands.lean ====
section
/-! SUPPORT. Every function of Machine/Operands.lean that answers a state keeps what no command may change. -/

namespace Sys2Proof.Laws
open Sys2Proof Sys2Proof.Machine
set_option linter.unreachableTactic false
set_option linter.unusedTactic false
set_option linter.unusedVariables false
set_option linter.unusedSimpArgs false
set_option maxRecDepth 4000

theorem keeps_onMedia {a : State} (v0 : State) (v1 : ℕ) (v2 : Media → Media) (h0 : Keeps a v0) : Keeps a (State.onMedia v0 v1 v2) := by
  unfold State.onMedia
  try dsimp only
  repeat' (first | with_reducible assumption | with_reducible exact Keeps.refl _ | with_reducible apply Keeps.ite | with_reducible apply KeepsRes.ite | with_reducible apply KeepsFst.ite | with_reducible apply KeepsSnd.ite | (simp only [Keeps.lit]; with_reducible apply KeepsData.of) | (simp only [Keeps.lit]; with_reducible refine KeepsData.poke ?_ (fun w => ?_); rotate_left; first | exact mark_wf _ _ _ w | exact fold_wf _ _ (fun m x hm => poison_wf _ _ hm) w | exact fold_wf _ _ (fun m x hm => by split; exact poison_wf _ _ hm; exact hm) w | exact write_wf _ _ w | exact mark_wf _ _ _ (write_wf _ _ w)) | intro s hs | split)

end Sys2Proof.Laws
end

