-- ==== Sys2Proof/Laws/KeepsQueue.lean ====
section
/-! SUPPORT. Every function of Machine/Queue.lean that answers a state keeps what no command may change. -/

namespace Sys2Proof.Laws
open Sys2Proof Sys2Proof.Machine
set_option linter.unreachableTactic false
set_option linter.unusedTactic false
set_option linter.unusedVariables false
set_option linter.unusedSimpArgs false
set_option maxRecDepth 4000

theorem keeps_onCmd {a : State} (v0 : State) (v1 : Sub) (v2 : Cmd → Cmd) (h0 : Keeps a v0) : Keeps a (State.onCmd v0 v1 v2) := by
  unfold State.onCmd
  try dsimp only
  repeat' (first | with_reducible assumption | with_reducible exact Keeps.refl _ | (simp only [Keeps.lit]; with_reducible apply KeepsData.of))

theorem keeps_putStatus {a : State} (v0 : State) (v1 : Sub) (v2 : Bool) (v3 : ℕ) (v4 : BitVec 16) (v5 : ℕ) (v6 : List (BitVec 64)) (h0 : Keeps a v0) : Keeps a (State.putStatus v0 v1 v2 v3 v4 v5 v6) := by
  unfold State.putStatus
  try dsimp only
  repeat' (first | with_reducible assumption | with_reducible exact Keeps.refl _ | with_reducible apply Keeps.ite | with_reducible apply KeepsRes.ite | with_reducible apply KeepsFst.ite | with_reducible apply KeepsSnd.ite | with_reducible apply keeps_poke | with_reducible apply keeps_onCh | (simp only [Keeps.lit]; with_reducible apply KeepsData.of) | (simp only [Keeps.lit]; with_reducible refine KeepsData.poke ?_ (fun w => ?_); rotate_left; first | exact mark_wf _ _ _ w | exact fold_wf _ _ (fun m x hm => poison_wf _ _ hm) w | exact fold_wf _ _ (fun m x hm => by split; exact poison_wf _ _ hm; exact hm) w | exact write_wf _ _ w | exact mark_wf _ _ _ (write_wf _ _ w)) | intro s hs | split)

theorem keeps_unclamp {a : State} (v0 : State) (v1 : Sub) (h0 : Keeps a v0) : Keeps a (State.unclamp v0 v1) := by
  unfold State.unclamp
  try dsimp only
  repeat' (first | with_reducible assumption | with_reducible exact Keeps.refl _ | (simp only [Keeps.lit]; with_reducible apply KeepsData.of))

theorem keeps_jot {a : State} (v0 : State) (v1 : ℕ) (v2 : ℕ) (v3 : BitVec 16) (v4 : ℕ) (h0 : Keeps a v0) : Keeps a (State.jot v0 v1 v2 v3 v4) := by
  unfold State.jot
  try dsimp only
  repeat' (first | with_reducible assumption | with_reducible exact Keeps.refl _ | (simp only [Keeps.lit]; with_reducible apply KeepsData.of))

theorem keeps_pushFin {a : State} (v0 : State) (v1 : Sub) (v2 : Bool) (v3 : BitVec 16) (v4 : BitVec 64) (h0 : Keeps a v0) : Keeps a (State.pushFin v0 v1 v2 v3 v4) := by
  unfold State.pushFin
  try dsimp only
  repeat' (first | with_reducible assumption | with_reducible exact Keeps.refl _ | with_reducible apply Keeps.ite | with_reducible apply KeepsRes.ite | with_reducible apply KeepsFst.ite | with_reducible apply KeepsSnd.ite | with_reducible apply keeps_logStatus | (simp only [Keeps.lit]; with_reducible apply KeepsData.of) | (simp only [Keeps.lit]; with_reducible refine KeepsData.poke ?_ (fun w => ?_); rotate_left; first | exact mark_wf _ _ _ w | exact fold_wf _ _ (fun m x hm => poison_wf _ _ hm) w | exact fold_wf _ _ (fun m x hm => by split; exact poison_wf _ _ hm; exact hm) w | exact write_wf _ _ w | exact mark_wf _ _ _ (write_wf _ _ w)) | intro s hs | split)

theorem keeps_quarSq {a : State} (v0 : State) (v1 : ℕ) (v2 : ℕ) (h0 : Keeps a v0) : Keeps a (State.quarSq v0 v1 v2) := by
  unfold State.quarSq
  try dsimp only
  repeat' (first | with_reducible assumption | with_reducible exact Keeps.refl _ | with_reducible apply Keeps.ite | with_reducible apply KeepsRes.ite | with_reducible apply KeepsFst.ite | with_reducible apply KeepsSnd.ite | with_reducible apply KeepsFst.mk | with_reducible apply KeepsSnd.mk | with_reducible apply KeepsRes.mk | with_reducible apply Keeps.id | with_reducible apply keeps_onSq | with_reducible apply keeps_pushFin | with_reducible apply keeps_logPartner | with_reducible apply keeps_onCh | (with_reducible refine Keeps.foldl _ ?_ ?_; intro s x hs; try dsimp only) | (with_reducible refine Keeps.foldl1 _ ?_ ?_; (intro p x hs; replace hs := KeepsFst.fst hs; try dsimp only)) | (with_reducible refine Keeps.foldl2 _ ?_ ?_; (intro p x hs; replace hs := KeepsSnd.snd hs; try dsimp only)) | (with_reducible refine KeepsFst.foldl _ ?_ ?_; (intro p x hs; replace hs := KeepsFst.fst hs; try dsimp only)) | (with_reducible refine KeepsSnd.foldl _ ?_ ?_; (intro p x hs; replace hs := KeepsSnd.snd hs; try dsimp only)) | (simp only [Keeps.lit]; with_reducible apply KeepsData.of) | (simp only [Keeps.lit]; with_reducible refine KeepsData.poke ?_ (fun w => ?_); rotate_left; first | exact mark_wf _ _ _ w | exact fold_wf _ _ (fun m x hm => poison_wf _ _ hm) w | exact fold_wf _ _ (fun m x hm => by split; exact poison_wf _ _ hm; exact hm) w | exact write_wf _ _ w | exact mark_wf _ _ _ (write_wf _ _ w)) | intro s hs | split | (with_reducible apply KeepsSnd.eq; with_reducible assumption) | (with_reducible apply KeepsFst.eq; with_reducible assumption))

theorem keeps_quarCq {a : State} (v0 : State) (v1 : ℕ) (v2 : ℕ) (v3 : Bool) (h0 : Keeps a v0) : Keeps a (State.quarCq v0 v1 v2 v3) := by
  unfold State.quarCq
  try dsimp only
  repeat' (first | with_reducible assumption | with_reducible exact Keeps.refl _ | with_reducible apply Keeps.ite | with_reducible apply KeepsRes.ite | with_reducible apply KeepsFst.ite | with_reducible apply KeepsSnd.ite | with_reducible apply KeepsFst.mk | with_reducible apply KeepsSnd.mk | with_reducible apply KeepsRes.mk | with_reducible apply Keeps.id | with_reducible apply keeps_quarSq | with_reducible apply keeps_onCq | with_reducible apply keeps_logPartner | (with_reducible refine Keeps.foldl _ ?_ ?_; intro s x hs; try dsimp only) | (with_reducible refine Keeps.foldl1 _ ?_ ?_; (intro p x hs; replace hs := KeepsFst.fst hs; try dsimp only)) | (with_reducible refine Keeps.foldl2 _ ?_ ?_; (intro p x hs; replace hs := KeepsSnd.snd hs; try dsimp only)) | (with_reducible refine KeepsFst.foldl _ ?_ ?_; (intro p x hs; replace hs := KeepsFst.fst hs; try dsimp only)) | (with_reducible refine KeepsSnd.foldl _ ?_ ?_; (intro p x hs; replace hs := KeepsSnd.snd hs; try dsimp only)) | (simp only [Keeps.lit]; with_reducible apply KeepsData.of) | (simp only [Keeps.lit]; with_reducible refine KeepsData.poke ?_ (fun w => ?_); rotate_left; first | exact mark_wf _ _ _ w | exact fold_wf _ _ (fun m x hm => poison_wf _ _ hm) w | exact fold_wf _ _ (fun m x hm => by split; exact poison_wf _ _ hm; exact hm) w | exact write_wf _ _ w | exact mark_wf _ _ _ (write_wf _ _ w)) | intro s hs | split | (with_reducible apply KeepsSnd.eq; with_reducible assumption) | (with_reducible apply KeepsFst.eq; with_reducible assumption))

theorem keeps_violSq {a : State} (v0 : State) (v1 : ℕ) (v2 : ℕ) (h0 : Keeps a v0) : Keeps a (State.violSq v0 v1 v2) := by
  unfold State.violSq
  try dsimp only
  repeat' (first | with_reducible assumption | with_reducible exact Keeps.refl _ | with_reducible apply Keeps.ite | with_reducible apply KeepsRes.ite | with_reducible apply KeepsFst.ite | with_reducible apply KeepsSnd.ite | with_reducible apply keeps_quarSq | with_reducible apply keeps_onSq | (simp only [Keeps.lit]; with_reducible apply KeepsData.of) | (simp only [Keeps.lit]; with_reducible refine KeepsData.poke ?_ (fun w => ?_); rotate_left; first | exact mark_wf _ _ _ w | exact fold_wf _ _ (fun m x hm => poison_wf _ _ hm) w | exact fold_wf _ _ (fun m x hm => by split; exact poison_wf _ _ hm; exact hm) w | exact write_wf _ _ w | exact mark_wf _ _ _ (write_wf _ _ w)) | intro s hs | split)

theorem keeps_violCq {a : State} (v0 : State) (v1 : ℕ) (v2 : ℕ) (h0 : Keeps a v0) : Keeps a (State.violCq v0 v1 v2) := by
  unfold State.violCq
  try dsimp only
  repeat' (first | with_reducible assumption | with_reducible exact Keeps.refl _ | with_reducible apply Keeps.ite | with_reducible apply KeepsRes.ite | with_reducible apply KeepsFst.ite | with_reducible apply KeepsSnd.ite | with_reducible apply keeps_onCq | with_reducible apply keeps_quarCq | (simp only [Keeps.lit]; with_reducible apply KeepsData.of) | (simp only [Keeps.lit]; with_reducible refine KeepsData.poke ?_ (fun w => ?_); rotate_left; first | exact mark_wf _ _ _ w | exact fold_wf _ _ (fun m x hm => poison_wf _ _ hm) w | exact fold_wf _ _ (fun m x hm => by split; exact poison_wf _ _ hm; exact hm) w | exact write_wf _ _ w | exact mark_wf _ _ _ (write_wf _ _ w)) | intro s hs | split)

theorem keeps_syncForbid {a : State} (v0 : State) (v1 : ℕ) (h0 : Keeps a v0) : Keeps a (State.syncForbid v0 v1) := by
  unfold State.syncForbid
  try dsimp only
  repeat' (first | with_reducible assumption | with_reducible exact Keeps.refl _ | with_reducible apply keeps_onUn | (simp only [Keeps.lit]; with_reducible apply KeepsData.of))

theorem keeps_noteRefusal {a : State} (v0 : State) (v1 : Sub) (v2 : BitVec 16) (h0 : Keeps a v0) : Keeps a (State.noteRefusal v0 v1 v2) := by
  unfold State.noteRefusal
  try dsimp only
  repeat' (first | with_reducible assumption | with_reducible exact Keeps.refl _ | with_reducible apply Keeps.ite | with_reducible apply KeepsRes.ite | with_reducible apply KeepsFst.ite | with_reducible apply KeepsSnd.ite | with_reducible apply keeps_violSq | with_reducible apply keeps_logPartner | with_reducible apply keeps_syncForbid | (simp only [Keeps.lit]; with_reducible apply KeepsData.of) | (simp only [Keeps.lit]; with_reducible refine KeepsData.poke ?_ (fun w => ?_); rotate_left; first | exact mark_wf _ _ _ w | exact fold_wf _ _ (fun m x hm => poison_wf _ _ hm) w | exact fold_wf _ _ (fun m x hm => by split; exact poison_wf _ _ hm; exact hm) w | exact write_wf _ _ w | exact mark_wf _ _ _ (write_wf _ _ w)) | intro s hs | split)

theorem keeps_refuseSub {a : State} (v0 : State) (v1 : Sub) (v2 : Bool) (v3 : BitVec 16) (v4 : BitVec 64) (h0 : Keeps a v0) : Keeps a (State.refuseSub v0 v1 v2 v3 v4) := by
  unfold State.refuseSub
  try dsimp only
  repeat' (first | with_reducible assumption | with_reducible exact Keeps.refl _ | with_reducible apply keeps_pushFin | with_reducible apply keeps_noteRefusal | (simp only [Keeps.lit]; with_reducible apply KeepsData.of))

theorem keeps_unbind {a : State} (v0 : State) (v1 : Sub) (h0 : Keeps a v0) : Keeps a (State.unbind v0 v1) := by
  unfold State.unbind
  try dsimp only
  repeat' (first | with_reducible assumption | with_reducible exact Keeps.refl _ | (simp only [Keeps.lit]; with_reducible apply KeepsData.of))

theorem keeps_finish {a : State} (v0 : State) (v1 : Sub) (v2 : ℕ) (v3 : BitVec 16) (v4 : BitVec 64) (v5 : ℕ) (v6 : List (BitVec 64)) (h0 : Keeps a v0) : Keeps a (State.finish v0 v1 v2 v3 v4 v5 v6) := by
  unfold State.finish
  try dsimp only
  repeat' (first | with_reducible assumption | with_reducible exact Keeps.refl _ | with_reducible apply Keeps.ite | with_reducible apply KeepsRes.ite | with_reducible apply KeepsFst.ite | with_reducible apply KeepsSnd.ite | with_reducible apply keeps_unbind | with_reducible apply keeps_pushFin | with_reducible apply keeps_putStatus | with_reducible apply keeps_unclamp | with_reducible apply keeps_noteRefusal | (simp only [Keeps.lit]; with_reducible apply KeepsData.of) | (simp only [Keeps.lit]; with_reducible refine KeepsData.poke ?_ (fun w => ?_); rotate_left; first | exact mark_wf _ _ _ w | exact fold_wf _ _ (fun m x hm => poison_wf _ _ hm) w | exact fold_wf _ _ (fun m x hm => by split; exact poison_wf _ _ hm; exact hm) w | exact write_wf _ _ w | exact mark_wf _ _ _ (write_wf _ _ w)) | intro s hs | split)

theorem keeps_tryGrant {a : State} (v0 : State) (v1 : Sub) (h0 : Keeps a v0) : KeepsFst a (State.tryGrant v0 v1) := by
  unfold State.tryGrant
  try dsimp only
  repeat' (first | with_reducible assumption | with_reducible exact Keeps.refl _ | with_reducible apply Keeps.ite | with_reducible apply KeepsRes.ite | with_reducible apply KeepsFst.ite | with_reducible apply KeepsSnd.ite | with_reducible apply KeepsFst.mk | with_reducible apply keeps_onCmd | (simp only [Keeps.lit]; with_reducible apply KeepsData.of) | (simp only [Keeps.lit]; with_reducible refine KeepsData.poke ?_ (fun w => ?_); rotate_left; first | exact mark_wf _ _ _ w | exact fold_wf _ _ (fun m x hm => poison_wf _ _ hm) w | exact fold_wf _ _ (fun m x hm => by split; exact poison_wf _ _ hm; exact hm) w | exact write_wf _ _ w | exact mark_wf _ _ _ (write_wf _ _ w)) | intro s hs | split)
theorem keeps_tryGrant' {a : State} (v0 : State) (v1 : Sub) (h0 : Keeps a v0) : Keeps a (State.tryGrant v0 v1).1 := keeps_tryGrant v0 v1 h0
theorem keeps_tryGrant_e {a t : State} {v0 : State} {v1 : Sub} {b : _} (e : State.tryGrant v0 v1 = (t, b)) (h0 : Keeps a v0) : Keeps a t := KeepsFst.eq e (keeps_tryGrant v0 v1 h0)

theorem keeps_accept {a : State} (v0 : State) (v1 : Sub) (v2 : Bool) (v3 : List Sub) (h0 : Keeps a v0) : Keeps a (State.accept v0 v1 v2 v3) := by
  unfold State.accept
  try dsimp only
  repeat' (first | with_reducible assumption | with_reducible exact Keeps.refl _ | with_reducible apply keeps_jot | with_reducible apply keeps_putStatus | (simp only [Keeps.lit]; with_reducible apply KeepsData.of))

theorem keeps_done {a : State} (v0 : State) (v1 : BitVec 64) (h0 : Keeps a v0) : KeepsRes a (done v0 v1) := by
  unfold done
  try dsimp only
  repeat' (first | with_reducible assumption | with_reducible exact Keeps.refl _ | with_reducible apply KeepsRes.mk | (simp only [Keeps.lit]; with_reducible apply KeepsData.of))
theorem keeps_done' {a : State} (v0 : State) (v1 : BitVec 64) (h0 : Keeps a v0) : Keeps a (done v0 v1).s := keeps_done v0 v1 h0

theorem keeps_fail {a : State} (v0 : State) (v1 : BitVec 16) (h0 : Keeps a v0) : KeepsRes a (fail v0 v1) := by
  unfold fail
  try dsimp only
  repeat' (first | with_reducible assumption | with_reducible exact Keeps.refl _ | with_reducible apply KeepsRes.mk | (simp only [Keeps.lit]; with_reducible apply KeepsData.of))
theorem keeps_fail' {a : State} (v0 : State) (v1 : BitVec 16) (h0 : Keeps a v0) : Keeps a (fail v0 v1).s := keeps_fail v0 v1 h0

theorem keeps_reject {a : State} (v0 : State) (v1 : BitVec 16) (v2 : ℕ) (v3 : ℕ) (v4 : ℕ) (v5 : ℕ) (h0 : Keeps a v0) : KeepsRes a (reject v0 v1 v2 v3 v4 v5) := by
  unfold reject
  try dsimp only
  repeat' (first | with_reducible assumption | with_reducible exact Keeps.refl _ | with_reducible apply KeepsRes.mk | (simp only [Keeps.lit]; with_reducible apply KeepsData.of))
theorem keeps_reject' {a : State} (v0 : State) (v1 : BitVec 16) (v2 : ℕ) (v3 : ℕ) (v4 : ℕ) (v5 : ℕ) (h0 : Keeps a v0) : Keeps a (reject v0 v1 v2 v3 v4 v5).s := keeps_reject v0 v1 v2 v3 v4 v5 h0

theorem keeps_badParam {a : State} (v0 : State) (v1 : ℕ) (h0 : Keeps a v0) : KeepsRes a (badParam v0 v1) := by
  unfold badParam
  try dsimp only
  repeat' (first | with_reducible assumption | with_reducible exact Keeps.refl _ | with_reducible apply KeepsRes.mk | with_reducible apply keeps_reject | with_reducible apply keeps_reject' | (simp only [Keeps.lit]; with_reducible apply KeepsData.of))
theorem keeps_badParam' {a : State} (v0 : State) (v1 : ℕ) (h0 : Keeps a v0) : Keeps a (badParam v0 v1).s := keeps_badParam v0 v1 h0

theorem keeps_wait {a : State} (v0 : State) (h0 : Keeps a v0) : KeepsRes a (wait v0) := by
  unfold wait
  try dsimp only
  repeat' (first | with_reducible assumption | with_reducible exact Keeps.refl _ | with_reducible apply KeepsRes.mk | (simp only [Keeps.lit]; with_reducible apply KeepsData.of))
theorem keeps_wait' {a : State} (v0 : State) (h0 : Keeps a v0) : Keeps a (wait v0).s := keeps_wait v0 h0

theorem keeps_ended {a : State} (v0 : State) (v1 : BitVec 16) (v2 : BitVec 64) (v3 : ℕ) (v4 : List (BitVec 64)) (h0 : Keeps a v0) : KeepsRes a (ended v0 v1 v2 v3 v4) := by
  unfold ended
  try dsimp only
  repeat' (first | with_reducible assumption | with_reducible exact Keeps.refl _ | with_reducible apply KeepsRes.mk | (simp only [Keeps.lit]; with_reducible apply KeepsData.of))
theorem keeps_ended' {a : State} (v0 : State) (v1 : BitVec 16) (v2 : BitVec 64) (v3 : ℕ) (v4 : List (BitVec 64)) (h0 : Keeps a v0) : Keeps a (ended v0 v1 v2 v3 v4).s := keeps_ended v0 v1 v2 v3 v4 h0

theorem keeps_conclude {a : State} (v0 : Sub) (v1 : Res) (h0 : KeepsRes a v1) : Keeps a (conclude v0 v1) := by
  unfold conclude
  try dsimp only
  repeat' (first | with_reducible assumption | with_reducible exact Keeps.refl _ | with_reducible apply Keeps.ite | with_reducible apply KeepsRes.ite | with_reducible apply KeepsFst.ite | with_reducible apply KeepsSnd.ite | with_reducible exact KeepsRes.fst h0 | with_reducible apply keeps_jot | with_reducible apply keeps_finish | (simp only [Keeps.lit]; with_reducible apply KeepsData.of) | (simp only [Keeps.lit]; with_reducible refine KeepsData.poke ?_ (fun w => ?_); rotate_left; first | exact mark_wf _ _ _ w | exact fold_wf _ _ (fun m x hm => poison_wf _ _ hm) w | exact fold_wf _ _ (fun m x hm => by split; exact poison_wf _ _ hm; exact hm) w | exact write_wf _ _ w | exact mark_wf _ _ _ (write_wf _ _ w)) | intro s hs | split)

theorem keeps_running {a : State} (v0 : Sub) (v1 : State) (v2 : ℕ) (h0 : Keeps a v1) : KeepsRes a (running v0 v1 v2) := by
  unfold running
  try dsimp only
  repeat' (first | with_reducible assumption | with_reducible exact Keeps.refl _ | with_reducible apply Keeps.ite | with_reducible apply KeepsRes.ite | with_reducible apply KeepsFst.ite | with_reducible apply KeepsSnd.ite | with_reducible apply KeepsRes.mk | with_reducible apply keeps_wait | with_reducible apply keeps_wait' | with_reducible apply keeps_putStatus | with_reducible apply keeps_onCmd | (simp only [Keeps.lit]; with_reducible apply KeepsData.of) | (simp only [Keeps.lit]; with_reducible refine KeepsData.poke ?_ (fun w => ?_); rotate_left; first | exact mark_wf _ _ _ w | exact fold_wf _ _ (fun m x hm => poison_wf _ _ hm) w | exact fold_wf _ _ (fun m x hm => by split; exact poison_wf _ _ hm; exact hm) w | exact write_wf _ _ w | exact mark_wf _ _ _ (write_wf _ _ w)) | intro s hs | split)
theorem keeps_running' {a : State} (v0 : Sub) (v1 : State) (v2 : ℕ) (h0 : Keeps a v1) : Keeps a (running v0 v1 v2).s := keeps_running v0 v1 v2 h0

theorem keeps_runAccepted {a : State} (v0 : State) (v1 : Sub) (v2 : State → Res) (h0 : Keeps a v0) (h1 : ∀ s, Keeps a s → KeepsRes a (v2 s)) : Keeps a (State.runAccepted v0 v1 v2) := by
  unfold State.runAccepted
  try dsimp only
  repeat' (first | with_reducible assumption | with_reducible exact Keeps.refl _ | with_reducible apply Keeps.ite | with_reducible apply KeepsRes.ite | with_reducible apply KeepsFst.ite | with_reducible apply KeepsSnd.ite | with_reducible apply h1 | (with_reducible refine KeepsRes.fst (h1 _ ?_)) | with_reducible apply keeps_tryGrant | with_reducible apply keeps_tryGrant' | (with_reducible refine keeps_tryGrant_e (by with_reducible assumption) ?_) | with_reducible apply keeps_wantDoms | with_reducible apply keeps_conclude | (simp only [Keeps.lit]; with_reducible apply KeepsData.of) | (simp only [Keeps.lit]; with_reducible refine KeepsData.poke ?_ (fun w => ?_); rotate_left; first | exact mark_wf _ _ _ w | exact fold_wf _ _ (fun m x hm => poison_wf _ _ hm) w | exact fold_wf _ _ (fun m x hm => by split; exact poison_wf _ _ hm; exact hm) w | exact write_wf _ _ w | exact mark_wf _ _ _ (write_wf _ _ w)) | intro s hs | split)

theorem keeps_runOp {a : State} (v0 : State) (v1 : Sub) (v2 : List Sub) (v3 : State → Res) (h0 : Keeps a v0) (h1 : ∀ s, Keeps a s → KeepsRes a (v3 s)) : Keeps a (State.runOp v0 v1 v2 v3) := by
  unfold State.runOp
  try dsimp only
  repeat' (first | with_reducible assumption | with_reducible exact Keeps.refl _ | with_reducible apply Keeps.ite | with_reducible apply KeepsRes.ite | with_reducible apply KeepsFst.ite | with_reducible apply KeepsSnd.ite | with_reducible apply h1 | (with_reducible refine KeepsRes.fst (h1 _ ?_)) | with_reducible apply keeps_refuseSub | with_reducible apply keeps_accept | with_reducible apply keeps_runAccepted | (simp only [Keeps.lit]; with_reducible apply KeepsData.of) | (simp only [Keeps.lit]; with_reducible refine KeepsData.poke ?_ (fun w => ?_); rotate_left; first | exact mark_wf _ _ _ w | exact fold_wf _ _ (fun m x hm => poison_wf _ _ hm) w | exact fold_wf _ _ (fun m x hm => by split; exact poison_wf _ _ hm; exact hm) w | exact write_wf _ _ w | exact mark_wf _ _ _ (write_wf _ _ w)) | intro s hs | split)

theorem keeps_runTwin {a : State} (v0 : State) (v1 : Twin) (v2 : State → Res) (h0 : Keeps a v0) (h1 : ∀ s, Keeps a s → KeepsRes a (v2 s)) : Keeps a (State.runTwin v0 v1 v2) := by
  unfold State.runTwin
  try dsimp only
  repeat' (first | with_reducible assumption | with_reducible exact Keeps.refl _ | with_reducible apply Keeps.ite | with_reducible apply KeepsRes.ite | with_reducible apply KeepsFst.ite | with_reducible apply KeepsSnd.ite | with_reducible apply h1 | (with_reducible refine KeepsRes.fst (h1 _ ?_)) | with_reducible apply keeps_refuseSub | with_reducible apply keeps_accept | with_reducible apply keeps_runAccepted | (simp only [Keeps.lit]; with_reducible apply KeepsData.of) | (simp only [Keeps.lit]; with_reducible refine KeepsData.poke ?_ (fun w => ?_); rotate_left; first | exact mark_wf _ _ _ w | exact fold_wf _ _ (fun m x hm => poison_wf _ _ hm) w | exact fold_wf _ _ (fun m x hm => by split; exact poison_wf _ _ hm; exact hm) w | exact write_wf _ _ w | exact mark_wf _ _ _ (write_wf _ _ w)) | intro s hs | split)

end Sys2Proof.Laws
end

