-- ==== Sys2Proof/Laws/KeepsQueueRows.lean ====
section
/-! SUPPORT. Every function of Machine/QueueRows.lean that answers a state keeps what no command may change. -/

namespace Sys2Proof.Laws
open Sys2Proof Sys2Proof.Machine
set_option linter.unreachableTactic false
set_option linter.unusedTactic false
set_option linter.unusedVariables false
set_option linter.unusedSimpArgs false
set_option maxRecDepth 4000

theorem keeps_tailWrite {a : State} (v0 : State) (v1 : ℕ) (v2 : ℕ) (v3 : BitVec 32) (h0 : Keeps a v0) : Keeps a (State.tailWrite v0 v1 v2 v3) := by
  unfold State.tailWrite
  try dsimp only
  repeat' (first | with_reducible assumption | with_reducible exact Keeps.refl _ | with_reducible apply Keeps.ite | with_reducible apply KeepsRes.ite | with_reducible apply KeepsFst.ite | with_reducible apply KeepsSnd.ite | with_reducible apply keeps_onSq | with_reducible apply keeps_violSq | with_reducible apply keeps_logPartner | with_reducible apply keeps_ignoredWrite | (simp only [Keeps.lit]; with_reducible apply KeepsData.of) | (simp only [Keeps.lit]; with_reducible refine KeepsData.poke ?_ (fun w => ?_); rotate_left; first | exact mark_wf _ _ _ w | exact fold_wf _ _ (fun m x hm => poison_wf _ _ hm) w | exact fold_wf _ _ (fun m x hm => by split; exact poison_wf _ _ hm; exact hm) w | exact write_wf _ _ w | exact mark_wf _ _ _ (write_wf _ _ w)) | intro s hs | split)

theorem keeps_headWrite {a : State} (v0 : State) (v1 : ℕ) (v2 : ℕ) (v3 : BitVec 32) (h0 : Keeps a v0) : Keeps a (State.headWrite v0 v1 v2 v3) := by
  unfold State.headWrite
  try dsimp only
  repeat' (first | with_reducible assumption | with_reducible exact Keeps.refl _ | with_reducible apply Keeps.ite | with_reducible apply KeepsRes.ite | with_reducible apply KeepsFst.ite | with_reducible apply KeepsSnd.ite | with_reducible apply keeps_onCq | with_reducible apply keeps_violCq | with_reducible apply keeps_logPartner | with_reducible apply keeps_ignoredWrite | (simp only [Keeps.lit]; with_reducible apply KeepsData.of) | (simp only [Keeps.lit]; with_reducible refine KeepsData.poke ?_ (fun w => ?_); rotate_left; first | exact mark_wf _ _ _ w | exact fold_wf _ _ (fun m x hm => poison_wf _ _ hm) w | exact fold_wf _ _ (fun m x hm => by split; exact poison_wf _ _ hm; exact hm) w | exact write_wf _ _ w | exact mark_wf _ _ _ (write_wf _ _ w)) | intro s hs | split)

theorem keeps_execSqTailDoorbell {a : State} (v0 : Access) (v1 : ℕ) (v2 : ℕ) (v3 : BitVec 32) (v4 : State) (h0 : Keeps a v4) : KeepsOut a (execSqTailDoorbell v0 v1 v2 v3 v4) := by
  unfold execSqTailDoorbell
  try dsimp only
  repeat' (first | with_reducible assumption | with_reducible exact Keeps.refl _ | with_reducible apply KeepsOut.next | with_reducible apply Keeps.ite | with_reducible apply KeepsRes.ite | with_reducible apply KeepsFst.ite | with_reducible apply KeepsSnd.ite | with_reducible apply keeps_tailWrite | with_reducible apply keeps_pageWrite | (simp only [Keeps.lit]; with_reducible apply KeepsData.of) | (simp only [Keeps.lit]; with_reducible refine KeepsData.poke ?_ (fun w => ?_); rotate_left; first | exact mark_wf _ _ _ w | exact fold_wf _ _ (fun m x hm => poison_wf _ _ hm) w | exact fold_wf _ _ (fun m x hm => by split; exact poison_wf _ _ hm; exact hm) w | exact write_wf _ _ w | exact mark_wf _ _ _ (write_wf _ _ w)) | intro s hs | split)

theorem keeps_execCqHeadDoorbell {a : State} (v0 : Access) (v1 : ℕ) (v2 : ℕ) (v3 : BitVec 32) (v4 : State) (h0 : Keeps a v4) : KeepsOut a (execCqHeadDoorbell v0 v1 v2 v3 v4) := by
  unfold execCqHeadDoorbell
  try dsimp only
  repeat' (first | with_reducible assumption | with_reducible exact Keeps.refl _ | with_reducible apply KeepsOut.next | with_reducible apply Keeps.ite | with_reducible apply KeepsRes.ite | with_reducible apply KeepsFst.ite | with_reducible apply KeepsSnd.ite | with_reducible apply keeps_headWrite | with_reducible apply keeps_pageWrite | (simp only [Keeps.lit]; with_reducible apply KeepsData.of) | (simp only [Keeps.lit]; with_reducible refine KeepsData.poke ?_ (fun w => ?_); rotate_left; first | exact mark_wf _ _ _ w | exact fold_wf _ _ (fun m x hm => poison_wf _ _ hm) w | exact fold_wf _ _ (fun m x hm => by split; exact poison_wf _ _ hm; exact hm) w | exact write_wf _ _ w | exact mark_wf _ _ _ (write_wf _ _ w)) | intro s hs | split)

theorem keeps_takeEntry {a : State} (v0 : State) (v1 : ℕ) (v2 : ℕ) (v3 : Bool) (h0 : Keeps a v0) : Keeps a (State.takeEntry v0 v1 v2 v3) := by
  unfold State.takeEntry
  try dsimp only
  repeat' (first | with_reducible assumption | with_reducible exact Keeps.refl _ | with_reducible apply Keeps.ite | with_reducible apply KeepsRes.ite | with_reducible apply KeepsFst.ite | with_reducible apply KeepsSnd.ite | with_reducible apply keeps_onCq | with_reducible apply keeps_onSq | with_reducible apply keeps_violSq | with_reducible apply keeps_logPartner | with_reducible apply keeps_onCh | (simp only [Keeps.lit]; with_reducible apply KeepsData.of) | (simp only [Keeps.lit]; with_reducible refine KeepsData.poke ?_ (fun w => ?_); rotate_left; first | exact mark_wf _ _ _ w | exact fold_wf _ _ (fun m x hm => poison_wf _ _ hm) w | exact fold_wf _ _ (fun m x hm => by split; exact poison_wf _ _ hm; exact hm) w | exact write_wf _ _ w | exact mark_wf _ _ _ (write_wf _ _ w)) | intro s hs | split)

theorem keeps_execSqEntryFetch {a : State} (v0 : FetchAns) (v1 : State) (h0 : Keeps a v1) : KeepsOut a (execSqEntryFetch v0 v1) := by
  unfold execSqEntryFetch
  try dsimp only
  repeat' (first | with_reducible assumption | with_reducible exact Keeps.refl _ | with_reducible apply KeepsOut.next | with_reducible apply Keeps.ite | with_reducible apply KeepsRes.ite | with_reducible apply KeepsFst.ite | with_reducible apply KeepsSnd.ite | with_reducible apply keeps_takeEntry | with_reducible apply keeps_onCh | (simp only [Keeps.lit]; with_reducible apply KeepsData.of) | (simp only [Keeps.lit]; with_reducible refine KeepsData.poke ?_ (fun w => ?_); rotate_left; first | exact mark_wf _ _ _ w | exact fold_wf _ _ (fun m x hm => poison_wf _ _ hm) w | exact fold_wf _ _ (fun m x hm => by split; exact poison_wf _ _ hm; exact hm) w | exact write_wf _ _ w | exact mark_wf _ _ _ (write_wf _ _ w)) | intro s hs | split)

theorem keeps_dispatch {a : State} (v0 : State) (v1 : ℕ) (v2 : ℕ) (v3 : Fetched) (h0 : Keeps a v0) : Keeps a (State.dispatch v0 v1 v2 v3) := by
  unfold State.dispatch
  try dsimp only
  repeat' (first | with_reducible assumption | with_reducible exact Keeps.refl _ | with_reducible apply Keeps.ite | with_reducible apply KeepsRes.ite | with_reducible apply KeepsFst.ite | with_reducible apply KeepsSnd.ite | with_reducible apply keeps_onCh | with_reducible apply keeps_refuseSub | with_reducible apply keeps_accept | (simp only [Keeps.lit]; with_reducible apply KeepsData.of) | (simp only [Keeps.lit]; with_reducible refine KeepsData.poke ?_ (fun w => ?_); rotate_left; first | exact mark_wf _ _ _ w | exact fold_wf _ _ (fun m x hm => poison_wf _ _ hm) w | exact fold_wf _ _ (fun m x hm => by split; exact poison_wf _ _ hm; exact hm) w | exact write_wf _ _ w | exact mark_wf _ _ _ (write_wf _ _ w)) | intro s hs | split)

theorem keeps_execCommandDispatch {a : State} (v0 : ℕ) (v1 : Ext) (v2 : State) (h0 : Keeps a v2) : KeepsOut a (execCommandDispatch v0 v1 v2) := by
  unfold execCommandDispatch
  try dsimp only
  repeat' (first | with_reducible assumption | with_reducible exact Keeps.refl _ | with_reducible apply KeepsOut.next | with_reducible apply Keeps.ite | with_reducible apply KeepsRes.ite | with_reducible apply KeepsFst.ite | with_reducible apply KeepsSnd.ite | with_reducible apply keeps_dispatch | (simp only [Keeps.lit]; with_reducible apply KeepsData.of) | (simp only [Keeps.lit]; with_reducible refine KeepsData.poke ?_ (fun w => ?_); rotate_left; first | exact mark_wf _ _ _ w | exact fold_wf _ _ (fun m x hm => poison_wf _ _ hm) w | exact fold_wf _ _ (fun m x hm => by split; exact poison_wf _ _ hm; exact hm) w | exact write_wf _ _ w | exact mark_wf _ _ _ (write_wf _ _ w)) | intro s hs | split)

theorem keeps_execClampGrant {a : State} (v0 : State) (h0 : Keeps a v0) : KeepsOut a (execClampGrant v0) := by
  unfold execClampGrant
  try dsimp only
  repeat' (first | with_reducible assumption | with_reducible exact Keeps.refl _ | with_reducible apply KeepsOut.next | with_reducible apply Keeps.ite | with_reducible apply KeepsRes.ite | with_reducible apply KeepsFst.ite | with_reducible apply KeepsSnd.ite | with_reducible apply keeps_tryGrant | with_reducible apply keeps_tryGrant' | (with_reducible refine keeps_tryGrant_e (by with_reducible assumption) ?_) | (simp only [Keeps.lit]; with_reducible apply KeepsData.of) | (simp only [Keeps.lit]; with_reducible refine KeepsData.poke ?_ (fun w => ?_); rotate_left; first | exact mark_wf _ _ _ w | exact fold_wf _ _ (fun m x hm => poison_wf _ _ hm) w | exact fold_wf _ _ (fun m x hm => by split; exact poison_wf _ _ hm; exact hm) w | exact write_wf _ _ w | exact mark_wf _ _ _ (write_wf _ _ w)) | intro s hs | split)

theorem keeps_settleSq {a : State} (v0 : State) (v1 : ℕ) (v2 : ℕ) (h0 : Keeps a v0) : Keeps a (State.settleSq v0 v1 v2) := by
  unfold State.settleSq
  try dsimp only
  repeat' (first | with_reducible assumption | with_reducible exact Keeps.refl _ | with_reducible apply Keeps.ite | with_reducible apply KeepsRes.ite | with_reducible apply KeepsFst.ite | with_reducible apply KeepsSnd.ite | with_reducible apply keeps_onSq | (simp only [Keeps.lit]; with_reducible apply KeepsData.of) | (simp only [Keeps.lit]; with_reducible refine KeepsData.poke ?_ (fun w => ?_); rotate_left; first | exact mark_wf _ _ _ w | exact fold_wf _ _ (fun m x hm => poison_wf _ _ hm) w | exact fold_wf _ _ (fun m x hm => by split; exact poison_wf _ _ hm; exact hm) w | exact write_wf _ _ w | exact mark_wf _ _ _ (write_wf _ _ w)) | intro s hs | split)

theorem keeps_post {a : State} (v0 : State) (v1 : Fin) (v2 : Bool) (h0 : Keeps a v0) : Keeps a (State.post v0 v1 v2) := by
  unfold State.post
  try dsimp only
  repeat' (first | with_reducible assumption | with_reducible exact Keeps.refl _ | with_reducible apply Keeps.ite | with_reducible apply KeepsRes.ite | with_reducible apply KeepsFst.ite | with_reducible apply KeepsSnd.ite | with_reducible apply keeps_onCq | with_reducible apply keeps_jot | with_reducible apply keeps_settleSq | with_reducible apply keeps_poke | with_reducible apply keeps_onCh | with_reducible apply keeps_quarCq | with_reducible apply keeps_cause | (simp only [Keeps.lit]; with_reducible apply KeepsData.of) | (simp only [Keeps.lit]; with_reducible refine KeepsData.poke ?_ (fun w => ?_); rotate_left; first | exact mark_wf _ _ _ w | exact fold_wf _ _ (fun m x hm => poison_wf _ _ hm) w | exact fold_wf _ _ (fun m x hm => by split; exact poison_wf _ _ hm; exact hm) w | exact write_wf _ _ w | exact mark_wf _ _ _ (write_wf _ _ w)) | intro s hs | split)

theorem keeps_execCompletionPost {a : State} (v0 : Ext) (v1 : State) (h0 : Keeps a v1) : KeepsOut a (execCompletionPost v0 v1) := by
  unfold execCompletionPost
  try dsimp only
  repeat' (first | with_reducible assumption | with_reducible exact Keeps.refl _ | with_reducible apply KeepsOut.next | with_reducible apply Keeps.ite | with_reducible apply KeepsRes.ite | with_reducible apply KeepsFst.ite | with_reducible apply KeepsSnd.ite | with_reducible apply keeps_post | (simp only [Keeps.lit]; with_reducible apply KeepsData.of) | (simp only [Keeps.lit]; with_reducible refine KeepsData.poke ?_ (fun w => ?_); rotate_left; first | exact mark_wf _ _ _ w | exact fold_wf _ _ (fun m x hm => poison_wf _ _ hm) w | exact fold_wf _ _ (fun m x hm => by split; exact poison_wf _ _ hm; exact hm) w | exact write_wf _ _ w | exact mark_wf _ _ _ (write_wf _ _ w)) | intro s hs | split)

theorem keeps_execStatusWordUpdate {a : State} (v0 : ℕ) (v1 : ℕ) (v2 : BitVec 16) (v3 : Ext) (v4 : State) (h0 : Keeps a v4) : KeepsOut a (execStatusWordUpdate v0 v1 v2 v3 v4) := by
  unfold execStatusWordUpdate
  try dsimp only
  repeat' (first | with_reducible assumption | with_reducible exact Keeps.refl _ | with_reducible apply KeepsOut.next | with_reducible apply Keeps.ite | with_reducible apply KeepsRes.ite | with_reducible apply KeepsFst.ite | with_reducible apply KeepsSnd.ite | with_reducible apply keeps_putStatus | with_reducible apply keeps_quarCq | (simp only [Keeps.lit]; with_reducible apply KeepsData.of) | (simp only [Keeps.lit]; with_reducible refine KeepsData.poke ?_ (fun w => ?_); rotate_left; first | exact mark_wf _ _ _ w | exact fold_wf _ _ (fun m x hm => poison_wf _ _ hm) w | exact fold_wf _ _ (fun m x hm => by split; exact poison_wf _ _ hm; exact hm) w | exact write_wf _ _ w | exact mark_wf _ _ _ (write_wf _ _ w)) | intro s hs | split)

theorem keeps_enableAdmin {a : State} (v0 : State) (v1 : ℕ) (v2 : Bool) (h0 : Keeps a v0) : Keeps a (State.enableAdmin v0 v1 v2) := by
  unfold State.enableAdmin
  try dsimp only
  repeat' (first | with_reducible assumption | with_reducible exact Keeps.refl _ | with_reducible apply Keeps.ite | with_reducible apply KeepsRes.ite | with_reducible apply KeepsFst.ite | with_reducible apply KeepsSnd.ite | with_reducible apply keeps_logPartner | with_reducible apply keeps_onCh | (simp only [Keeps.lit]; with_reducible apply KeepsData.of) | (simp only [Keeps.lit]; with_reducible refine KeepsData.poke ?_ (fun w => ?_); rotate_left; first | exact mark_wf _ _ _ w | exact fold_wf _ _ (fun m x hm => poison_wf _ _ hm) w | exact fold_wf _ _ (fun m x hm => by split; exact poison_wf _ _ hm; exact hm) w | exact write_wf _ _ w | exact mark_wf _ _ _ (write_wf _ _ w)) | intro s hs | split)

theorem keeps_execAdminQueueEnable {a : State} (v0 : Access) (v1 : ℕ) (v2 : Bool) (v3 : State) (h0 : Keeps a v3) : KeepsOut a (execAdminQueueEnable v0 v1 v2 v3) := by
  unfold execAdminQueueEnable
  try dsimp only
  repeat' (first | with_reducible assumption | with_reducible exact Keeps.refl _ | with_reducible apply KeepsOut.next | with_reducible apply Keeps.ite | with_reducible apply KeepsRes.ite | with_reducible apply KeepsFst.ite | with_reducible apply KeepsSnd.ite | with_reducible apply keeps_enableAdmin | with_reducible apply keeps_pageWrite | (simp only [Keeps.lit]; with_reducible apply KeepsData.of) | (simp only [Keeps.lit]; with_reducible refine KeepsData.poke ?_ (fun w => ?_); rotate_left; first | exact mark_wf _ _ _ w | exact fold_wf _ _ (fun m x hm => poison_wf _ _ hm) w | exact fold_wf _ _ (fun m x hm => by split; exact poison_wf _ _ hm; exact hm) w | exact write_wf _ _ w | exact mark_wf _ _ _ (write_wf _ _ w)) | intro s hs | split)

theorem keeps_disableCq0 {a : State} (v0 : State) (v1 : ℕ) (h0 : Keeps a v0) : Keeps a (State.disableCq0 v0 v1) := by
  unfold State.disableCq0
  try dsimp only
  repeat' (first | with_reducible assumption | with_reducible exact Keeps.refl _ | with_reducible apply Keeps.ite | with_reducible apply KeepsRes.ite | with_reducible apply KeepsFst.ite | with_reducible apply KeepsSnd.ite | with_reducible apply keeps_onCq | with_reducible apply keeps_ignoredWrite | (simp only [Keeps.lit]; with_reducible apply KeepsData.of) | (simp only [Keeps.lit]; with_reducible refine KeepsData.poke ?_ (fun w => ?_); rotate_left; first | exact mark_wf _ _ _ w | exact fold_wf _ _ (fun m x hm => poison_wf _ _ hm) w | exact fold_wf _ _ (fun m x hm => by split; exact poison_wf _ _ hm; exact hm) w | exact write_wf _ _ w | exact mark_wf _ _ _ (write_wf _ _ w)) | intro s hs | split)

theorem keeps_execAdminCqDisable {a : State} (v0 : Access) (v1 : ℕ) (v2 : State) (h0 : Keeps a v2) : KeepsOut a (execAdminCqDisable v0 v1 v2) := by
  unfold execAdminCqDisable
  try dsimp only
  repeat' (first | with_reducible assumption | with_reducible exact Keeps.refl _ | with_reducible apply KeepsOut.next | with_reducible apply Keeps.ite | with_reducible apply KeepsRes.ite | with_reducible apply KeepsFst.ite | with_reducible apply KeepsSnd.ite | with_reducible apply keeps_disableCq0 | with_reducible apply keeps_pageWrite | (simp only [Keeps.lit]; with_reducible apply KeepsData.of) | (simp only [Keeps.lit]; with_reducible refine KeepsData.poke ?_ (fun w => ?_); rotate_left; first | exact mark_wf _ _ _ w | exact fold_wf _ _ (fun m x hm => poison_wf _ _ hm) w | exact fold_wf _ _ (fun m x hm => by split; exact poison_wf _ _ hm; exact hm) w | exact write_wf _ _ w | exact mark_wf _ _ _ (write_wf _ _ w)) | intro s hs | split)

end Sys2Proof.Laws
end

