-- ==== Sys2Proof/Laws/KeepsGranule.lean ====
section
/-! SUPPORT. Every function of Machine/Granule.lean that answers a state keeps what no command may change. -/

namespace Sys2Proof.Laws
open Sys2Proof Sys2Proof.Machine
set_option linter.unreachableTactic false
set_option linter.unusedTactic false
set_option linter.unusedVariables false
set_option linter.unusedSimpArgs false
set_option maxRecDepth 4000

theorem keeps_setGran {a : State} (v0 : State) (v1 : ℕ) (v2 : GBits) (h0 : Keeps a v0) : Keeps a (State.setGran v0 v1 v2) := by
  unfold State.setGran
  try dsimp only
  repeat' (first | with_reducible assumption | with_reducible exact Keeps.refl _ | with_reducible apply Keeps.ite | with_reducible apply KeepsRes.ite | with_reducible apply KeepsFst.ite | with_reducible apply KeepsSnd.ite | with_reducible apply keeps_onSt | (simp only [Keeps.lit]; with_reducible apply KeepsData.of) | (simp only [Keeps.lit]; with_reducible refine KeepsData.poke ?_ (fun w => ?_); rotate_left; first | exact mark_wf _ _ _ w | exact fold_wf _ _ (fun m x hm => poison_wf _ _ hm) w | exact fold_wf _ _ (fun m x hm => by split; exact poison_wf _ _ hm; exact hm) w | exact write_wf _ _ w | exact mark_wf _ _ _ (write_wf _ _ w)) | intro s hs | split)

theorem keeps_dirtyRange {a : State} (v0 : State) (v1 : ℕ) (v2 : ℕ) (h0 : Keeps a v0) : Keeps a (State.dirtyRange v0 v1 v2) := by
  unfold State.dirtyRange
  try dsimp only
  repeat' (first | with_reducible assumption | with_reducible exact Keeps.refl _ | with_reducible apply Keeps.ite | with_reducible apply KeepsRes.ite | with_reducible apply KeepsFst.ite | with_reducible apply KeepsSnd.ite | with_reducible apply KeepsFst.mk | with_reducible apply KeepsSnd.mk | with_reducible apply KeepsRes.mk | with_reducible apply Keeps.id | with_reducible apply keeps_setGran | (with_reducible refine Keeps.foldl _ ?_ ?_; intro s x hs; try dsimp only) | (with_reducible refine Keeps.foldl1 _ ?_ ?_; (intro p x hs; replace hs := KeepsFst.fst hs; try dsimp only)) | (with_reducible refine Keeps.foldl2 _ ?_ ?_; (intro p x hs; replace hs := KeepsSnd.snd hs; try dsimp only)) | (with_reducible refine KeepsFst.foldl _ ?_ ?_; (intro p x hs; replace hs := KeepsFst.fst hs; try dsimp only)) | (with_reducible refine KeepsSnd.foldl _ ?_ ?_; (intro p x hs; replace hs := KeepsSnd.snd hs; try dsimp only)) | (simp only [Keeps.lit]; with_reducible apply KeepsData.of) | (simp only [Keeps.lit]; with_reducible refine KeepsData.poke ?_ (fun w => ?_); rotate_left; first | exact mark_wf _ _ _ w | exact fold_wf _ _ (fun m x hm => poison_wf _ _ hm) w | exact fold_wf _ _ (fun m x hm => by split; exact poison_wf _ _ hm; exact hm) w | exact write_wf _ _ w | exact mark_wf _ _ _ (write_wf _ _ w)) | intro s hs | split | (with_reducible apply KeepsSnd.eq; with_reducible assumption) | (with_reducible apply KeepsFst.eq; with_reducible assumption))

theorem keeps_dirtyChamber {a : State} (v0 : State) (v1 : ℕ) (h0 : Keeps a v0) : Keeps a (State.dirtyChamber v0 v1) := by
  unfold State.dirtyChamber
  try dsimp only
  repeat' (first | with_reducible assumption | with_reducible exact Keeps.refl _ | with_reducible apply Keeps.ite | with_reducible apply KeepsRes.ite | with_reducible apply KeepsFst.ite | with_reducible apply KeepsSnd.ite | with_reducible apply KeepsFst.mk | with_reducible apply KeepsSnd.mk | with_reducible apply KeepsRes.mk | with_reducible apply Keeps.id | with_reducible apply keeps_dirtyRange | (with_reducible refine Keeps.foldl _ ?_ ?_; intro s x hs; try dsimp only) | (with_reducible refine Keeps.foldl1 _ ?_ ?_; (intro p x hs; replace hs := KeepsFst.fst hs; try dsimp only)) | (with_reducible refine Keeps.foldl2 _ ?_ ?_; (intro p x hs; replace hs := KeepsSnd.snd hs; try dsimp only)) | (with_reducible refine KeepsFst.foldl _ ?_ ?_; (intro p x hs; replace hs := KeepsFst.fst hs; try dsimp only)) | (with_reducible refine KeepsSnd.foldl _ ?_ ?_; (intro p x hs; replace hs := KeepsSnd.snd hs; try dsimp only)) | (simp only [Keeps.lit]; with_reducible apply KeepsData.of) | (simp only [Keeps.lit]; with_reducible refine KeepsData.poke ?_ (fun w => ?_); rotate_left; first | exact mark_wf _ _ _ w | exact fold_wf _ _ (fun m x hm => poison_wf _ _ hm) w | exact fold_wf _ _ (fun m x hm => by split; exact poison_wf _ _ hm; exact hm) w | exact write_wf _ _ w | exact mark_wf _ _ _ (write_wf _ _ w)) | intro s hs | split | (with_reducible apply KeepsSnd.eq; with_reducible assumption) | (with_reducible apply KeepsFst.eq; with_reducible assumption))

theorem keeps_relevel {a : State} (v0 : State) (v1 : ℕ) (h0 : Keeps a v0) : Keeps a (State.relevel v0 v1) := by
  unfold State.relevel
  try dsimp only
  repeat' (first | with_reducible assumption | with_reducible exact Keeps.refl _ | with_reducible apply Keeps.ite | with_reducible apply KeepsRes.ite | with_reducible apply KeepsFst.ite | with_reducible apply KeepsSnd.ite | with_reducible apply keeps_onCapRegs | with_reducible apply keeps_log | with_reducible apply keeps_cause | (simp only [Keeps.lit]; with_reducible apply KeepsData.of) | (simp only [Keeps.lit]; with_reducible refine KeepsData.poke ?_ (fun w => ?_); rotate_left; first | exact mark_wf _ _ _ w | exact fold_wf _ _ (fun m x hm => poison_wf _ _ hm) w | exact fold_wf _ _ (fun m x hm => by split; exact poison_wf _ _ hm; exact hm) w | exact write_wf _ _ w | exact mark_wf _ _ _ (write_wf _ _ w)) | intro s hs | split)

theorem keeps_relevelAll {a : State} (v0 : State) (h0 : Keeps a v0) : Keeps a (State.relevelAll v0) := by
  unfold State.relevelAll
  try dsimp only
  repeat' (first | with_reducible assumption | with_reducible exact Keeps.refl _ | with_reducible apply Keeps.ite | with_reducible apply KeepsRes.ite | with_reducible apply KeepsFst.ite | with_reducible apply KeepsSnd.ite | with_reducible apply KeepsFst.mk | with_reducible apply KeepsSnd.mk | with_reducible apply KeepsRes.mk | with_reducible apply Keeps.id | with_reducible apply keeps_relevel | (with_reducible refine Keeps.foldl _ ?_ ?_; intro s x hs; try dsimp only) | (with_reducible refine Keeps.foldl1 _ ?_ ?_; (intro p x hs; replace hs := KeepsFst.fst hs; try dsimp only)) | (with_reducible refine Keeps.foldl2 _ ?_ ?_; (intro p x hs; replace hs := KeepsSnd.snd hs; try dsimp only)) | (with_reducible refine KeepsFst.foldl _ ?_ ?_; (intro p x hs; replace hs := KeepsFst.fst hs; try dsimp only)) | (with_reducible refine KeepsSnd.foldl _ ?_ ?_; (intro p x hs; replace hs := KeepsSnd.snd hs; try dsimp only)) | (simp only [Keeps.lit]; with_reducible apply KeepsData.of) | (simp only [Keeps.lit]; with_reducible refine KeepsData.poke ?_ (fun w => ?_); rotate_left; first | exact mark_wf _ _ _ w | exact fold_wf _ _ (fun m x hm => poison_wf _ _ hm) w | exact fold_wf _ _ (fun m x hm => by split; exact poison_wf _ _ hm; exact hm) w | exact write_wf _ _ w | exact mark_wf _ _ _ (write_wf _ _ w)) | intro s hs | split | (with_reducible apply KeepsSnd.eq; with_reducible assumption) | (with_reducible apply KeepsFst.eq; with_reducible assumption))

theorem keeps_dropShares {a : State} (v0 : State) (v1 : Copy → Bool) (v2 : Copy → Bool) (h0 : Keeps a v0) : Keeps a (State.dropShares v0 v1 v2) := by
  unfold State.dropShares
  try dsimp only
  repeat' (first | with_reducible assumption | with_reducible exact Keeps.refl _ | with_reducible apply keeps_relevelAll | (simp only [Keeps.lit]; with_reducible apply KeepsData.of))

theorem keeps_freeStepCopies {a : State} (v0 : State) (v1 : ℕ) (h0 : Keeps a v0) : Keeps a (State.freeStepCopies v0 v1) := by
  unfold State.freeStepCopies
  try dsimp only
  repeat' (first | with_reducible assumption | with_reducible exact Keeps.refl _ | with_reducible apply keeps_onStep | with_reducible apply keeps_dropShares | (simp only [Keeps.lit]; with_reducible apply KeepsData.of))

theorem keeps_loseGuard {a : State} (v0 : State) (v1 : ℕ) (h0 : Keeps a v0) : Keeps a (State.loseGuard v0 v1) := by
  unfold State.loseGuard
  try dsimp only
  repeat' (first | with_reducible assumption | with_reducible exact Keeps.refl _ | with_reducible apply Keeps.ite | with_reducible apply KeepsRes.ite | with_reducible apply KeepsFst.ite | with_reducible apply KeepsSnd.ite | with_reducible apply keeps_onStep | with_reducible apply keeps_log | with_reducible apply keeps_dropShares | (simp only [Keeps.lit]; with_reducible apply KeepsData.of) | (simp only [Keeps.lit]; with_reducible refine KeepsData.poke ?_ (fun w => ?_); rotate_left; first | exact mark_wf _ _ _ w | exact fold_wf _ _ (fun m x hm => poison_wf _ _ hm) w | exact fold_wf _ _ (fun m x hm => by split; exact poison_wf _ _ hm; exact hm) w | exact write_wf _ _ w | exact mark_wf _ _ _ (write_wf _ _ w)) | intro s hs | split)

theorem keeps_addCopy {a : State} (v0 : State) (v1 : ℕ) (v2 : ℕ) (v3 : ℕ) (v4 : Option ℕ) (v5 : Bool) (v6 : Option ℕ) (v7 : Bool) (h0 : Keeps a v0) : Keeps a (State.addCopy v0 v1 v2 v3 v4 v5 v6 v7) := by
  unfold State.addCopy
  dsimp only
  apply keeps_relevelAll
  have h := keeps_onSt v0 v1 (fun t => { t with copies := t.copies ++ [⟨v2, v3, v4, v5, v6, v7, (v0.granRead v3).1, (v0.granRead v3).2⟩] }) h0
  split
  · simp only [Keeps.lit]
    exact KeepsData.poke h fun w => mark_wf _ _ _ (write_wf _ _ w)
  · exact h

theorem keeps_track {a : State} (v0 : State) (v1 : ℕ) (v2 : Bool) (h0 : Keeps a v0) : KeepsFst a (State.track v0 v1 v2) := by
  unfold State.track
  try dsimp only
  repeat' (first | with_reducible assumption | with_reducible exact Keeps.refl _ | with_reducible apply Keeps.ite | with_reducible apply KeepsRes.ite | with_reducible apply KeepsFst.ite | with_reducible apply KeepsSnd.ite | with_reducible apply KeepsFst.mk | with_reducible apply keeps_onSt | with_reducible apply keeps_addCopy | with_reducible apply keeps_loseGuard | (simp only [Keeps.lit]; with_reducible apply KeepsData.of) | (simp only [Keeps.lit]; with_reducible refine KeepsData.poke ?_ (fun w => ?_); rotate_left; first | exact mark_wf _ _ _ w | exact fold_wf _ _ (fun m x hm => poison_wf _ _ hm) w | exact fold_wf _ _ (fun m x hm => by split; exact poison_wf _ _ hm; exact hm) w | exact write_wf _ _ w | exact mark_wf _ _ _ (write_wf _ _ w)) | intro s hs | split)
theorem keeps_track' {a : State} (v0 : State) (v1 : ℕ) (v2 : Bool) (h0 : Keeps a v0) : Keeps a (State.track v0 v1 v2).1 := keeps_track v0 v1 v2 h0
theorem keeps_track_e {a t : State} {v0 : State} {v1 : ℕ} {v2 : Bool} {b : _} (e : State.track v0 v1 v2 = (t, b)) (h0 : Keeps a v0) : Keeps a t := KeepsFst.eq e (keeps_track v0 v1 v2 h0)

theorem keeps_memReq {a : State} (v0 : State) (v1 : HReq) (h0 : Keeps a v0) : Keeps a (State.memReq v0 v1) := by
  unfold State.memReq
  dsimp only
  split
  · exact h0
  · exact h0
  · simp only [Keeps.lit]
    refine KeepsData.poke h0 fun w => fold_wf _ _ (fun m x hm => ?_) (fold_wf _ _ (fun m x hm => ?_) w)
    · split
      · exact poison_wf _ _ hm
      · exact hm
    · split
      · exact byte_wf _ _ hm
      · exact hm
  · simp only [Keeps.lit]
    exact KeepsData.poke h0 fun w => write_wf _ _ w

theorem keeps_forward {a : State} (v0 : State) (v1 : ℕ) (v2 : HReq) (h0 : Keeps a v0) : Keeps a (State.forward v0 v1 v2) := by
  unfold State.forward
  try dsimp only
  repeat' (first | with_reducible assumption | with_reducible exact Keeps.refl _ | with_reducible apply keeps_onSt | with_reducible apply keeps_memReq | (simp only [Keeps.lit]; with_reducible apply KeepsData.of))

theorem keeps_releaseGran {a : State} (v0 : State) (v1 : ℕ) (v2 : ℕ) (h0 : Keeps a v0) : Keeps a (State.releaseGran v0 v1 v2) := by
  unfold State.releaseGran
  try dsimp only
  repeat' (first | with_reducible assumption | with_reducible exact Keeps.refl _ | with_reducible apply Keeps.ite | with_reducible apply KeepsRes.ite | with_reducible apply KeepsFst.ite | with_reducible apply KeepsSnd.ite | with_reducible apply KeepsFst.mk | with_reducible apply KeepsSnd.mk | with_reducible apply KeepsRes.mk | with_reducible apply Keeps.id | with_reducible apply keeps_onSt | with_reducible apply keeps_forward | (with_reducible refine Keeps.foldl _ ?_ ?_; intro s x hs; try dsimp only) | (with_reducible refine Keeps.foldl1 _ ?_ ?_; (intro p x hs; replace hs := KeepsFst.fst hs; try dsimp only)) | (with_reducible refine Keeps.foldl2 _ ?_ ?_; (intro p x hs; replace hs := KeepsSnd.snd hs; try dsimp only)) | (with_reducible refine KeepsFst.foldl _ ?_ ?_; (intro p x hs; replace hs := KeepsFst.fst hs; try dsimp only)) | (with_reducible refine KeepsSnd.foldl _ ?_ ?_; (intro p x hs; replace hs := KeepsSnd.snd hs; try dsimp only)) | (simp only [Keeps.lit]; with_reducible apply KeepsData.of) | (simp only [Keeps.lit]; with_reducible refine KeepsData.poke ?_ (fun w => ?_); rotate_left; first | exact mark_wf _ _ _ w | exact fold_wf _ _ (fun m x hm => poison_wf _ _ hm) w | exact fold_wf _ _ (fun m x hm => by split; exact poison_wf _ _ hm; exact hm) w | exact write_wf _ _ w | exact mark_wf _ _ _ (write_wf _ _ w)) | intro s hs | split | (with_reducible apply KeepsSnd.eq; with_reducible assumption) | (with_reducible apply KeepsFst.eq; with_reducible assumption))

theorem keeps_releaseAll {a : State} (v0 : State) (v1 : ℕ) (h0 : Keeps a v0) : Keeps a (State.releaseAll v0 v1) := by
  unfold State.releaseAll
  try dsimp only
  repeat' (first | with_reducible assumption | with_reducible exact Keeps.refl _ | with_reducible apply Keeps.ite | with_reducible apply KeepsRes.ite | with_reducible apply KeepsFst.ite | with_reducible apply KeepsSnd.ite | with_reducible apply KeepsFst.mk | with_reducible apply KeepsSnd.mk | with_reducible apply KeepsRes.mk | with_reducible apply Keeps.id | with_reducible apply keeps_onSt | with_reducible apply keeps_forward | (with_reducible refine Keeps.foldl _ ?_ ?_; intro s x hs; try dsimp only) | (with_reducible refine Keeps.foldl1 _ ?_ ?_; (intro p x hs; replace hs := KeepsFst.fst hs; try dsimp only)) | (with_reducible refine Keeps.foldl2 _ ?_ ?_; (intro p x hs; replace hs := KeepsSnd.snd hs; try dsimp only)) | (with_reducible refine KeepsFst.foldl _ ?_ ?_; (intro p x hs; replace hs := KeepsFst.fst hs; try dsimp only)) | (with_reducible refine KeepsSnd.foldl _ ?_ ?_; (intro p x hs; replace hs := KeepsSnd.snd hs; try dsimp only)) | (simp only [Keeps.lit]; with_reducible apply KeepsData.of) | (simp only [Keeps.lit]; with_reducible refine KeepsData.poke ?_ (fun w => ?_); rotate_left; first | exact mark_wf _ _ _ w | exact fold_wf _ _ (fun m x hm => poison_wf _ _ hm) w | exact fold_wf _ _ (fun m x hm => by split; exact poison_wf _ _ hm; exact hm) w | exact write_wf _ _ w | exact mark_wf _ _ _ (write_wf _ _ w)) | intro s hs | split | (with_reducible apply KeepsSnd.eq; with_reducible assumption) | (with_reducible apply KeepsFst.eq; with_reducible assumption))

end Sys2Proof.Laws
end

