-- ==== Sys2Proof/Laws/KeepsCapture.lean ====
section
/-! SUPPORT. Every function of Machine/Capture.lean that answers a state keeps what no command may change. -/

namespace Sys2Proof.Laws
open Sys2Proof Sys2Proof.Machine
set_option linter.unreachableTactic false
set_option linter.unusedTactic false
set_option linter.unusedVariables false
set_option linter.unusedSimpArgs false
set_option maxRecDepth 4000

theorem keeps_bodyRegionDeclare {a : State} (v0 : Sub) (v1 : Ext) (v2 : Bool) (v3 : State) (h0 : Keeps a v3) : KeepsRes a (bodyRegionDeclare v0 v1 v2 v3) := by
  unfold bodyRegionDeclare
  try dsimp only
  repeat' (first | with_reducible assumption | with_reducible exact Keeps.refl _ | with_reducible apply Keeps.ite | with_reducible apply KeepsRes.ite | with_reducible apply KeepsFst.ite | with_reducible apply KeepsSnd.ite | with_reducible apply KeepsRes.mk | with_reducible apply keeps_done | with_reducible apply keeps_done' | with_reducible apply keeps_dirtyRange | with_reducible apply keeps_reject | with_reducible apply keeps_reject' | with_reducible apply keeps_badParam | with_reducible apply keeps_badParam' | with_reducible apply keeps_fail | with_reducible apply keeps_fail' | (simp only [Keeps.lit]; with_reducible apply KeepsData.of) | (simp only [Keeps.lit]; with_reducible refine KeepsData.poke ?_ (fun w => ?_); rotate_left; first | exact mark_wf _ _ _ w | exact fold_wf _ _ (fun m x hm => poison_wf _ _ hm) w | exact fold_wf _ _ (fun m x hm => by split; exact poison_wf _ _ hm; exact hm) w | exact write_wf _ _ w | exact mark_wf _ _ _ (write_wf _ _ w)) | intro s hs | split)
theorem keeps_bodyRegionDeclare' {a : State} (v0 : Sub) (v1 : Ext) (v2 : Bool) (v3 : State) (h0 : Keeps a v3) : Keeps a (bodyRegionDeclare v0 v1 v2 v3).s := keeps_bodyRegionDeclare v0 v1 v2 v3 h0

theorem keeps_onRegion {a : State} (v0 : State) (v1 : ℕ) (v2 : Region → Region) (h0 : Keeps a v0) : Keeps a (State.onRegion v0 v1 v2) := by
  unfold State.onRegion
  try dsimp only
  repeat' (first | with_reducible assumption | with_reducible exact Keeps.refl _ | (simp only [Keeps.lit]; with_reducible apply KeepsData.of))

theorem keeps_bodyRegionRetire {a : State} (v0 : Sub) (v1 : State) (h0 : Keeps a v1) : KeepsRes a (bodyRegionRetire v0 v1) := by
  unfold bodyRegionRetire
  try dsimp only
  repeat' (first | with_reducible assumption | with_reducible exact Keeps.refl _ | with_reducible apply Keeps.ite | with_reducible apply KeepsRes.ite | with_reducible apply KeepsFst.ite | with_reducible apply KeepsSnd.ite | with_reducible apply KeepsRes.mk | with_reducible apply keeps_done | with_reducible apply keeps_done' | with_reducible apply keeps_badParam | with_reducible apply keeps_badParam' | with_reducible apply keeps_fail | with_reducible apply keeps_fail' | (simp only [Keeps.lit]; with_reducible apply KeepsData.of) | (simp only [Keeps.lit]; with_reducible refine KeepsData.poke ?_ (fun w => ?_); rotate_left; first | exact mark_wf _ _ _ w | exact fold_wf _ _ (fun m x hm => poison_wf _ _ hm) w | exact fold_wf _ _ (fun m x hm => by split; exact poison_wf _ _ hm; exact hm) w | exact write_wf _ _ w | exact mark_wf _ _ _ (write_wf _ _ w)) | intro s hs | split)
theorem keeps_bodyRegionRetire' {a : State} (v0 : Sub) (v1 : State) (h0 : Keeps a v1) : Keeps a (bodyRegionRetire v0 v1).s := keeps_bodyRegionRetire v0 v1 h0

theorem keeps_bodyDrainHint {a : State} (v0 : Sub) (v1 : State) (h0 : Keeps a v1) : KeepsRes a (bodyDrainHint v0 v1) := by
  unfold bodyDrainHint
  try dsimp only
  repeat' (first | with_reducible assumption | with_reducible exact Keeps.refl _ | with_reducible apply KeepsRes.mk | with_reducible apply keeps_done | with_reducible apply keeps_done' | with_reducible apply keeps_onRegion | (simp only [Keeps.lit]; with_reducible apply KeepsData.of))
theorem keeps_bodyDrainHint' {a : State} (v0 : Sub) (v1 : State) (h0 : Keeps a v1) : Keeps a (bodyDrainHint v0 v1).s := keeps_bodyDrainHint v0 v1 h0

theorem keeps_bodyReplicaSet {a : State} (v0 : Sub) (v1 : State) (h0 : Keeps a v1) : KeepsRes a (bodyReplicaSet v0 v1) := by
  unfold bodyReplicaSet
  try dsimp only
  repeat' (first | with_reducible assumption | with_reducible exact Keeps.refl _ | with_reducible apply KeepsRes.mk | with_reducible apply keeps_done | with_reducible apply keeps_done' | with_reducible apply keeps_onRegion | (simp only [Keeps.lit]; with_reducible apply KeepsData.of))
theorem keeps_bodyReplicaSet' {a : State} (v0 : Sub) (v1 : State) (h0 : Keeps a v1) : Keeps a (bodyReplicaSet v0 v1).s := keeps_bodyReplicaSet v0 v1 h0

theorem keeps_askFreeze {a : State} (v0 : State) (v1 : Option ℕ) (h0 : Keeps a v0) : Keeps a (State.askFreeze v0 v1) := by
  unfold State.askFreeze
  try dsimp only
  repeat' (first | with_reducible assumption | with_reducible exact Keeps.refl _ | with_reducible apply Keeps.ite | with_reducible apply KeepsRes.ite | with_reducible apply KeepsFst.ite | with_reducible apply KeepsSnd.ite | (simp only [Keeps.lit]; with_reducible apply KeepsData.of) | (simp only [Keeps.lit]; with_reducible refine KeepsData.poke ?_ (fun w => ?_); rotate_left; first | exact mark_wf _ _ _ w | exact fold_wf _ _ (fun m x hm => poison_wf _ _ hm) w | exact fold_wf _ _ (fun m x hm => by split; exact poison_wf _ _ hm; exact hm) w | exact write_wf _ _ w | exact mark_wf _ _ _ (write_wf _ _ w)) | intro s hs | split)

theorem keeps_nextFreeze {a : State} (v0 : State) (h0 : Keeps a v0) : Keeps a (State.nextFreeze v0) := by
  unfold State.nextFreeze
  try dsimp only
  repeat' (first | with_reducible assumption | with_reducible exact Keeps.refl _ | with_reducible apply Keeps.ite | with_reducible apply KeepsRes.ite | with_reducible apply KeepsFst.ite | with_reducible apply KeepsSnd.ite | with_reducible apply keeps_askFreeze | (simp only [Keeps.lit]; with_reducible apply KeepsData.of) | (simp only [Keeps.lit]; with_reducible refine KeepsData.poke ?_ (fun w => ?_); rotate_left; first | exact mark_wf _ _ _ w | exact fold_wf _ _ (fun m x hm => poison_wf _ _ hm) w | exact fold_wf _ _ (fun m x hm => by split; exact poison_wf _ _ hm; exact hm) w | exact write_wf _ _ w | exact mark_wf _ _ _ (write_wf _ _ w)) | intro s hs | split)

theorem keeps_lowerFreeze {a : State} (v0 : State) (h0 : Keeps a v0) : Keeps a (State.lowerFreeze v0) := by
  unfold State.lowerFreeze
  try dsimp only
  repeat' (first | with_reducible assumption | with_reducible exact Keeps.refl _ | with_reducible apply keeps_nextFreeze | (simp only [Keeps.lit]; with_reducible apply KeepsData.of))

theorem keeps_dropFreeze {a : State} (v0 : State) (v1 : Option ℕ) (h0 : Keeps a v0) : Keeps a (State.dropFreeze v0 v1) := by
  unfold State.dropFreeze
  try dsimp only
  repeat' (first | with_reducible assumption | with_reducible exact Keeps.refl _ | with_reducible apply Keeps.ite | with_reducible apply KeepsRes.ite | with_reducible apply KeepsFst.ite | with_reducible apply KeepsSnd.ite | with_reducible apply keeps_lowerFreeze | (simp only [Keeps.lit]; with_reducible apply KeepsData.of) | (simp only [Keeps.lit]; with_reducible refine KeepsData.poke ?_ (fun w => ?_); rotate_left; first | exact mark_wf _ _ _ w | exact fold_wf _ _ (fun m x hm => poison_wf _ _ hm) w | exact fold_wf _ _ (fun m x hm => by split; exact poison_wf _ _ hm; exact hm) w | exact write_wf _ _ w | exact mark_wf _ _ _ (write_wf _ _ w)) | intro s hs | split)

theorem keeps_capPhase {a : State} (v0 : State) (v1 : ℕ) (v2 : ℕ) (h0 : Keeps a v0) : Keeps a (State.capPhase v0 v1 v2) := by
  unfold State.capPhase
  try dsimp only
  repeat' (first | with_reducible assumption | with_reducible exact Keeps.refl _ | with_reducible apply keeps_onCapRegs | with_reducible apply keeps_cause | (simp only [Keeps.lit]; with_reducible apply KeepsData.of))

theorem keeps_capEnter {a : State} (v0 : State) (v1 : CapRun) (h0 : Keeps a v0) : Keeps a (State.capEnter v0 v1) := by
  unfold State.capEnter
  try dsimp only
  repeat' (first | with_reducible assumption | with_reducible exact Keeps.refl _ | with_reducible apply Keeps.ite | with_reducible apply KeepsRes.ite | with_reducible apply KeepsFst.ite | with_reducible apply KeepsSnd.ite | with_reducible apply keeps_onCapRegs | with_reducible apply keeps_freeStepCopies | with_reducible apply keeps_onKey | with_reducible apply keeps_capPhase | (simp only [Keeps.lit]; with_reducible apply KeepsData.of) | (simp only [Keeps.lit]; with_reducible refine KeepsData.poke ?_ (fun w => ?_); rotate_left; first | exact mark_wf _ _ _ w | exact fold_wf _ _ (fun m x hm => poison_wf _ _ hm) w | exact fold_wf _ _ (fun m x hm => by split; exact poison_wf _ _ hm; exact hm) w | exact write_wf _ _ w | exact mark_wf _ _ _ (write_wf _ _ w)) | intro s hs | split)

theorem keeps_bodyCapture {a : State} (v0 : Sub) (v1 : Ext) (v2 : State) (h0 : Keeps a v2) : KeepsRes a (bodyCapture v0 v1 v2) := by
  unfold bodyCapture
  try dsimp only
  repeat' (first | with_reducible assumption | with_reducible exact Keeps.refl _ | with_reducible apply Keeps.ite | with_reducible apply KeepsRes.ite | with_reducible apply KeepsFst.ite | with_reducible apply KeepsSnd.ite | with_reducible apply KeepsRes.mk | with_reducible apply keeps_capEnter | with_reducible apply keeps_wait | with_reducible apply keeps_wait' | with_reducible apply keeps_badParam | with_reducible apply keeps_badParam' | with_reducible apply keeps_fail | with_reducible apply keeps_fail' | (simp only [Keeps.lit]; with_reducible apply KeepsData.of) | (simp only [Keeps.lit]; with_reducible refine KeepsData.poke ?_ (fun w => ?_); rotate_left; first | exact mark_wf _ _ _ w | exact fold_wf _ _ (fun m x hm => poison_wf _ _ hm) w | exact fold_wf _ _ (fun m x hm => by split; exact poison_wf _ _ hm; exact hm) w | exact write_wf _ _ w | exact mark_wf _ _ _ (write_wf _ _ w)) | intro s hs | split)
theorem keeps_bodyCapture' {a : State} (v0 : Sub) (v1 : Ext) (v2 : State) (h0 : Keeps a v2) : Keeps a (bodyCapture v0 v1 v2).s := keeps_bodyCapture v0 v1 v2 h0

theorem keeps_capUndo {a : State} (v0 : State) (v1 : CapRun) (h0 : Keeps a v0) : Keeps a (State.capUndo v0 v1) := by
  unfold State.capUndo
  try dsimp only
  repeat' (first | with_reducible assumption | with_reducible exact Keeps.refl _ | with_reducible apply Keeps.ite | with_reducible apply KeepsRes.ite | with_reducible apply KeepsFst.ite | with_reducible apply KeepsSnd.ite | with_reducible apply KeepsFst.mk | with_reducible apply KeepsSnd.mk | with_reducible apply KeepsRes.mk | with_reducible apply Keeps.id | with_reducible apply keeps_setGran | (with_reducible refine Keeps.foldl _ ?_ ?_; intro s x hs; try dsimp only) | (with_reducible refine Keeps.foldl1 _ ?_ ?_; (intro p x hs; replace hs := KeepsFst.fst hs; try dsimp only)) | (with_reducible refine Keeps.foldl2 _ ?_ ?_; (intro p x hs; replace hs := KeepsSnd.snd hs; try dsimp only)) | (with_reducible refine KeepsFst.foldl _ ?_ ?_; (intro p x hs; replace hs := KeepsFst.fst hs; try dsimp only)) | (with_reducible refine KeepsSnd.foldl _ ?_ ?_; (intro p x hs; replace hs := KeepsSnd.snd hs; try dsimp only)) | (simp only [Keeps.lit]; with_reducible apply KeepsData.of) | (simp only [Keeps.lit]; with_reducible refine KeepsData.poke ?_ (fun w => ?_); rotate_left; first | exact mark_wf _ _ _ w | exact fold_wf _ _ (fun m x hm => poison_wf _ _ hm) w | exact fold_wf _ _ (fun m x hm => by split; exact poison_wf _ _ hm; exact hm) w | exact write_wf _ _ w | exact mark_wf _ _ _ (write_wf _ _ w)) | intro s hs | split | (with_reducible apply KeepsSnd.eq; with_reducible assumption) | (with_reducible apply KeepsFst.eq; with_reducible assumption))

theorem keeps_capClear {a : State} (v0 : State) (v1 : CapRun) (h0 : Keeps a v0) : Keeps a (State.capClear v0 v1) := by
  unfold State.capClear
  try dsimp only
  repeat' (first | with_reducible assumption | with_reducible exact Keeps.refl _ | with_reducible apply Keeps.ite | with_reducible apply KeepsRes.ite | with_reducible apply KeepsFst.ite | with_reducible apply KeepsSnd.ite | with_reducible apply KeepsFst.mk | with_reducible apply KeepsSnd.mk | with_reducible apply KeepsRes.mk | with_reducible apply Keeps.id | with_reducible apply keeps_dropFreeze | with_reducible apply keeps_releaseAll | with_reducible apply keeps_onKey | with_reducible apply keeps_dropShares | (with_reducible refine Keeps.foldl _ ?_ ?_; intro s x hs; try dsimp only) | (with_reducible refine Keeps.foldl1 _ ?_ ?_; (intro p x hs; replace hs := KeepsFst.fst hs; try dsimp only)) | (with_reducible refine Keeps.foldl2 _ ?_ ?_; (intro p x hs; replace hs := KeepsSnd.snd hs; try dsimp only)) | (with_reducible refine KeepsFst.foldl _ ?_ ?_; (intro p x hs; replace hs := KeepsFst.fst hs; try dsimp only)) | (with_reducible refine KeepsSnd.foldl _ ?_ ?_; (intro p x hs; replace hs := KeepsSnd.snd hs; try dsimp only)) | (simp only [Keeps.lit]; with_reducible apply KeepsData.of) | (simp only [Keeps.lit]; with_reducible refine KeepsData.poke ?_ (fun w => ?_); rotate_left; first | exact mark_wf _ _ _ w | exact fold_wf _ _ (fun m x hm => poison_wf _ _ hm) w | exact fold_wf _ _ (fun m x hm => by split; exact poison_wf _ _ hm; exact hm) w | exact write_wf _ _ w | exact mark_wf _ _ _ (write_wf _ _ w)) | intro s hs | split | (with_reducible apply KeepsSnd.eq; with_reducible assumption) | (with_reducible apply KeepsFst.eq; with_reducible assumption))

theorem keeps_capReportAs {a : State} (v0 : State) (v1 : CapRun) (v2 : BitVec 16) (v3 : Bool) (v4 : ℕ) (h0 : Keeps a v0) : Keeps a (State.capReportAs v0 v1 v2 v3 v4) := by
  unfold State.capReportAs
  try dsimp only
  repeat' (first | with_reducible assumption | with_reducible exact Keeps.refl _ | with_reducible apply Keeps.ite | with_reducible apply KeepsRes.ite | with_reducible apply KeepsFst.ite | with_reducible apply KeepsSnd.ite | with_reducible apply keeps_onCapRegs | with_reducible apply keeps_logStatus | with_reducible apply keeps_useTime | with_reducible apply keeps_finish | with_reducible apply keeps_capPhase | (simp only [Keeps.lit]; with_reducible apply KeepsData.of) | (simp only [Keeps.lit]; with_reducible refine KeepsData.poke ?_ (fun w => ?_); rotate_left; first | exact mark_wf _ _ _ w | exact fold_wf _ _ (fun m x hm => poison_wf _ _ hm) w | exact fold_wf _ _ (fun m x hm => by split; exact poison_wf _ _ hm; exact hm) w | exact write_wf _ _ w | exact mark_wf _ _ _ (write_wf _ _ w)) | intro s hs | split)

theorem keeps_capReport {a : State} (v0 : State) (v1 : CapRun) (v2 : BitVec 16) (v3 : Bool) (h0 : Keeps a v0) : Keeps a (State.capReport v0 v1 v2 v3) := by
  unfold State.capReport
  try dsimp only
  repeat' (first | with_reducible assumption | with_reducible exact Keeps.refl _ | with_reducible apply keeps_capReportAs | (simp only [Keeps.lit]; with_reducible apply KeepsData.of))

theorem keeps_waitEnd {a : State} (v0 : State) (v1 : CapRun) (v2 : BitVec 16) (v3 : Bool) (h0 : Keeps a v0) : Keeps a (State.waitEnd v0 v1 v2 v3) := by
  unfold State.waitEnd
  try dsimp only
  repeat' (first | with_reducible assumption | with_reducible exact Keeps.refl _ | with_reducible apply Keeps.ite | with_reducible apply KeepsRes.ite | with_reducible apply KeepsFst.ite | with_reducible apply KeepsSnd.ite | with_reducible apply keeps_capReport | with_reducible apply keeps_onKey | (simp only [Keeps.lit]; with_reducible apply KeepsData.of) | (simp only [Keeps.lit]; with_reducible refine KeepsData.poke ?_ (fun w => ?_); rotate_left; first | exact mark_wf _ _ _ w | exact fold_wf _ _ (fun m x hm => poison_wf _ _ hm) w | exact fold_wf _ _ (fun m x hm => by split; exact poison_wf _ _ hm; exact hm) w | exact write_wf _ _ w | exact mark_wf _ _ _ (write_wf _ _ w)) | intro s hs | split)

theorem keeps_capFail {a : State} (v0 : State) (v1 : BitVec 16) (v2 : Bool) (h0 : Keeps a v0) : Keeps a (State.capFail v0 v1 v2) := by
  unfold State.capFail
  try dsimp only
  repeat' (first | with_reducible assumption | with_reducible exact Keeps.refl _ | with_reducible apply Keeps.ite | with_reducible apply KeepsRes.ite | with_reducible apply KeepsFst.ite | with_reducible apply KeepsSnd.ite | with_reducible apply keeps_capUndo | with_reducible apply keeps_capReport | with_reducible apply keeps_capClear | (simp only [Keeps.lit]; with_reducible apply KeepsData.of) | (simp only [Keeps.lit]; with_reducible refine KeepsData.poke ?_ (fun w => ?_); rotate_left; first | exact mark_wf _ _ _ w | exact fold_wf _ _ (fun m x hm => poison_wf _ _ hm) w | exact fold_wf _ _ (fun m x hm => by split; exact poison_wf _ _ hm; exact hm) w | exact write_wf _ _ w | exact mark_wf _ _ _ (write_wf _ _ w)) | intro s hs | split)

theorem keeps_capAllEnd {a : State} (v0 : State) (h0 : Keeps a v0) : Keeps a (State.capAllEnd v0) := by
  unfold State.capAllEnd
  try dsimp only
  repeat' (first | with_reducible assumption | with_reducible exact Keeps.refl _ | with_reducible apply Keeps.ite | with_reducible apply KeepsRes.ite | with_reducible apply KeepsFst.ite | with_reducible apply KeepsSnd.ite | with_reducible apply KeepsFst.mk | with_reducible apply KeepsSnd.mk | with_reducible apply KeepsRes.mk | with_reducible apply Keeps.id | with_reducible apply keeps_capUndo | with_reducible apply keeps_capReportAs | with_reducible apply keeps_onKey | with_reducible apply keeps_capClear | (with_reducible refine Keeps.foldl _ ?_ ?_; intro s x hs; try dsimp only) | (with_reducible refine Keeps.foldl1 _ ?_ ?_; (intro p x hs; replace hs := KeepsFst.fst hs; try dsimp only)) | (with_reducible refine Keeps.foldl2 _ ?_ ?_; (intro p x hs; replace hs := KeepsSnd.snd hs; try dsimp only)) | (with_reducible refine KeepsFst.foldl _ ?_ ?_; (intro p x hs; replace hs := KeepsFst.fst hs; try dsimp only)) | (with_reducible refine KeepsSnd.foldl _ ?_ ?_; (intro p x hs; replace hs := KeepsSnd.snd hs; try dsimp only)) | (simp only [Keeps.lit]; with_reducible apply KeepsData.of) | (simp only [Keeps.lit]; with_reducible refine KeepsData.poke ?_ (fun w => ?_); rotate_left; first | exact mark_wf _ _ _ w | exact fold_wf _ _ (fun m x hm => poison_wf _ _ hm) w | exact fold_wf _ _ (fun m x hm => by split; exact poison_wf _ _ hm; exact hm) w | exact write_wf _ _ w | exact mark_wf _ _ _ (write_wf _ _ w)) | intro s hs | split | (with_reducible apply KeepsSnd.eq; with_reducible assumption) | (with_reducible apply KeepsFst.eq; with_reducible assumption))

theorem keeps_capFailSlot {a : State} (v0 : State) (v1 : ℕ) (v2 : BitVec 16) (h0 : Keeps a v0) : Keeps a (State.capFailSlot v0 v1 v2) := by
  unfold State.capFailSlot
  try dsimp only
  repeat' (first | with_reducible assumption | with_reducible exact Keeps.refl _ | with_reducible apply Keeps.ite | with_reducible apply KeepsRes.ite | with_reducible apply KeepsFst.ite | with_reducible apply KeepsSnd.ite | with_reducible apply KeepsFst.mk | with_reducible apply KeepsSnd.mk | with_reducible apply KeepsRes.mk | with_reducible apply Keeps.id | with_reducible apply keeps_waitEnd | with_reducible apply keeps_capFail | (with_reducible refine Keeps.foldl _ ?_ ?_; intro s x hs; try dsimp only) | (with_reducible refine Keeps.foldl1 _ ?_ ?_; (intro p x hs; replace hs := KeepsFst.fst hs; try dsimp only)) | (with_reducible refine Keeps.foldl2 _ ?_ ?_; (intro p x hs; replace hs := KeepsSnd.snd hs; try dsimp only)) | (with_reducible refine KeepsFst.foldl _ ?_ ?_; (intro p x hs; replace hs := KeepsFst.fst hs; try dsimp only)) | (with_reducible refine KeepsSnd.foldl _ ?_ ?_; (intro p x hs; replace hs := KeepsSnd.snd hs; try dsimp only)) | (simp only [Keeps.lit]; with_reducible apply KeepsData.of) | (simp only [Keeps.lit]; with_reducible refine KeepsData.poke ?_ (fun w => ?_); rotate_left; first | exact mark_wf _ _ _ w | exact fold_wf _ _ (fun m x hm => poison_wf _ _ hm) w | exact fold_wf _ _ (fun m x hm => by split; exact poison_wf _ _ hm; exact hm) w | exact write_wf _ _ w | exact mark_wf _ _ _ (write_wf _ _ w)) | intro s hs | split | (with_reducible apply KeepsSnd.eq; with_reducible assumption) | (with_reducible apply KeepsFst.eq; with_reducible assumption))

theorem keeps_capCancel {a : State} (v0 : State) (v1 : ℕ) (h0 : Keeps a v0) : KeepsOpt Prod.fst a (State.capCancel v0 v1) := by
  unfold State.capCancel
  try dsimp only
  repeat' (first | with_reducible assumption | with_reducible exact Keeps.refl _ | with_reducible apply Keeps.ite | with_reducible apply KeepsRes.ite | with_reducible apply KeepsFst.ite | with_reducible apply KeepsSnd.ite | with_reducible apply KeepsFst.mk | (with_reducible refine KeepsOpt.map (k := Prod.snd) ?_ (fun _ h => h)) | with_reducible apply KeepsOpt.ite | with_reducible exact KeepsOpt.none | with_reducible apply KeepsOpt.some | with_reducible apply keeps_waitEnd | with_reducible apply keeps_capFail | (simp only [Keeps.lit]; with_reducible apply KeepsData.of) | (simp only [Keeps.lit]; with_reducible refine KeepsData.poke ?_ (fun w => ?_); rotate_left; first | exact mark_wf _ _ _ w | exact fold_wf _ _ (fun m x hm => poison_wf _ _ hm) w | exact fold_wf _ _ (fun m x hm => by split; exact poison_wf _ _ hm; exact hm) w | exact write_wf _ _ w | exact mark_wf _ _ _ (write_wf _ _ w)) | split | intro s hs)
theorem keeps_capCancel_e {a t : State} {v0 : State} {v1 : ℕ} {b : _} (e : State.capCancel v0 v1 = some (t, b)) (h0 : Keeps a v0) : Keeps a t := KeepsOpt.eq e (keeps_capCancel v0 v1 h0)

theorem keeps_bodyCaptureCancel {a : State} (v0 : Sub) (v1 : State) (h0 : Keeps a v1) : KeepsRes a (bodyCaptureCancel v0 v1) := by
  unfold bodyCaptureCancel
  try dsimp only
  repeat' (first | with_reducible assumption | with_reducible exact Keeps.refl _ | with_reducible apply Keeps.ite | with_reducible apply KeepsRes.ite | with_reducible apply KeepsFst.ite | with_reducible apply KeepsSnd.ite | with_reducible apply KeepsRes.mk | with_reducible apply keeps_done | with_reducible apply keeps_done' | with_reducible apply keeps_capCancel | (with_reducible refine keeps_capCancel_e (by with_reducible assumption) ?_) | with_reducible apply keeps_fail | with_reducible apply keeps_fail' | (simp only [Keeps.lit]; with_reducible apply KeepsData.of) | (simp only [Keeps.lit]; with_reducible refine KeepsData.poke ?_ (fun w => ?_); rotate_left; first | exact mark_wf _ _ _ w | exact fold_wf _ _ (fun m x hm => poison_wf _ _ hm) w | exact fold_wf _ _ (fun m x hm => by split; exact poison_wf _ _ hm; exact hm) w | exact write_wf _ _ w | exact mark_wf _ _ _ (write_wf _ _ w)) | intro s hs | split)
theorem keeps_bodyCaptureCancel' {a : State} (v0 : Sub) (v1 : State) (h0 : Keeps a v1) : Keeps a (bodyCaptureCancel v0 v1).s := keeps_bodyCaptureCancel v0 v1 h0

theorem keeps_prepare {a : State} (v0 : State) (v1 : CapRun) (h0 : Keeps a v0) : Keeps a (State.prepare v0 v1) := by
  unfold State.prepare
  try dsimp only
  repeat' (first | with_reducible assumption | with_reducible exact Keeps.refl _ | with_reducible apply Keeps.ite | with_reducible apply KeepsRes.ite | with_reducible apply KeepsFst.ite | with_reducible apply KeepsSnd.ite | with_reducible apply KeepsFst.mk | with_reducible apply KeepsSnd.mk | with_reducible apply KeepsRes.mk | with_reducible apply Keeps.id | with_reducible apply keeps_setGran | (with_reducible refine Keeps.foldl _ ?_ ?_; intro s x hs; try dsimp only) | (with_reducible refine Keeps.foldl1 _ ?_ ?_; (intro p x hs; replace hs := KeepsFst.fst hs; try dsimp only)) | (with_reducible refine Keeps.foldl2 _ ?_ ?_; (intro p x hs; replace hs := KeepsSnd.snd hs; try dsimp only)) | (with_reducible refine KeepsFst.foldl _ ?_ ?_; (intro p x hs; replace hs := KeepsFst.fst hs; try dsimp only)) | (with_reducible refine KeepsSnd.foldl _ ?_ ?_; (intro p x hs; replace hs := KeepsSnd.snd hs; try dsimp only)) | (simp only [Keeps.lit]; with_reducible apply KeepsData.of) | (simp only [Keeps.lit]; with_reducible refine KeepsData.poke ?_ (fun w => ?_); rotate_left; first | exact mark_wf _ _ _ w | exact fold_wf _ _ (fun m x hm => poison_wf _ _ hm) w | exact fold_wf _ _ (fun m x hm => by split; exact poison_wf _ _ hm; exact hm) w | exact write_wf _ _ w | exact mark_wf _ _ _ (write_wf _ _ w)) | intro s hs | split | (with_reducible apply KeepsSnd.eq; with_reducible assumption) | (with_reducible apply KeepsFst.eq; with_reducible assumption))

theorem keeps_takeSerial {a : State} (v0 : State) (v1 : ℕ) (h0 : Keeps a v0) : KeepsSnd a (State.takeSerial v0 v1) := by
  unfold State.takeSerial
  try dsimp only
  repeat' (first | with_reducible assumption | with_reducible exact Keeps.refl _ | with_reducible apply Keeps.ite | with_reducible apply KeepsRes.ite | with_reducible apply KeepsFst.ite | with_reducible apply KeepsSnd.ite | with_reducible apply KeepsSnd.mk | with_reducible apply keeps_onMedia | (simp only [Keeps.lit]; with_reducible apply KeepsData.of) | (simp only [Keeps.lit]; with_reducible refine KeepsData.poke ?_ (fun w => ?_); rotate_left; first | exact mark_wf _ _ _ w | exact fold_wf _ _ (fun m x hm => poison_wf _ _ hm) w | exact fold_wf _ _ (fun m x hm => by split; exact poison_wf _ _ hm; exact hm) w | exact write_wf _ _ w | exact mark_wf _ _ _ (write_wf _ _ w)) | intro s hs | split)
theorem keeps_takeSerial' {a : State} (v0 : State) (v1 : ℕ) (h0 : Keeps a v0) : Keeps a (State.takeSerial v0 v1).2 := keeps_takeSerial v0 v1 h0
theorem keeps_takeSerial_e {a t : State} {v0 : State} {v1 : ℕ} {b : _} (e : State.takeSerial v0 v1 = (b, t)) (h0 : Keeps a v0) : Keeps a t := KeepsSnd.eq e (keeps_takeSerial v0 v1 h0)

theorem keeps_capStart {a : State} (v0 : State) (v1 : CapWait) (h0 : Keeps a v0) : Keeps a (State.capStart v0 v1) := by
  unfold State.capStart
  try dsimp only
  repeat' (first | with_reducible assumption | with_reducible exact Keeps.refl _ | with_reducible apply Keeps.ite | with_reducible apply KeepsRes.ite | with_reducible apply KeepsFst.ite | with_reducible apply KeepsSnd.ite | with_reducible apply keeps_askFreeze | with_reducible apply keeps_onCapRegs | with_reducible apply keeps_useTime | with_reducible apply keeps_takeSerial | with_reducible apply keeps_takeSerial' | (with_reducible refine keeps_takeSerial_e (by with_reducible assumption) ?_) | with_reducible apply keeps_running | with_reducible apply keeps_running' | with_reducible apply keeps_capPhase | with_reducible apply keeps_prepare | (simp only [Keeps.lit]; with_reducible apply KeepsData.of) | (simp only [Keeps.lit]; with_reducible refine KeepsData.poke ?_ (fun w => ?_); rotate_left; first | exact mark_wf _ _ _ w | exact fold_wf _ _ (fun m x hm => poison_wf _ _ hm) w | exact fold_wf _ _ (fun m x hm => by split; exact poison_wf _ _ hm; exact hm) w | exact write_wf _ _ w | exact mark_wf _ _ _ (write_wf _ _ w)) | intro s hs | split)

theorem keeps_rescope {a : State} (v0 : State) (v1 : CapWait) (h0 : Keeps a v0) : KeepsExc Prod.fst a (State.rescope v0 v1) := by
  unfold State.rescope
  try dsimp only
  repeat' (first | with_reducible assumption | with_reducible exact Keeps.refl _ | with_reducible apply Keeps.ite | with_reducible apply KeepsRes.ite | with_reducible apply KeepsFst.ite | with_reducible apply KeepsSnd.ite | with_reducible apply KeepsFst.mk | with_reducible apply KeepsExc.ite | with_reducible exact KeepsExc.error | with_reducible apply KeepsExc.ok | with_reducible apply keeps_onKey | (simp only [Keeps.lit]; with_reducible apply KeepsData.of) | (simp only [Keeps.lit]; with_reducible refine KeepsData.poke ?_ (fun w => ?_); rotate_left; first | exact mark_wf _ _ _ w | exact fold_wf _ _ (fun m x hm => poison_wf _ _ hm) w | exact fold_wf _ _ (fun m x hm => by split; exact poison_wf _ _ hm; exact hm) w | exact write_wf _ _ w | exact mark_wf _ _ _ (write_wf _ _ w)) | split | intro s hs)
theorem keeps_rescope_e {a t : State} {v0 : State} {v1 : CapWait} {b : _} (e : State.rescope v0 v1 = .ok (t, b)) (h0 : Keeps a v0) : Keeps a t := KeepsExc.eq e (keeps_rescope v0 v1 h0)

theorem keeps_capGo {a : State} (v0 : State) (v1 : ℕ) (v2 : CapWait) (h0 : Keeps a v0) : Keeps a (State.capGo v0 v1 v2) := by
  unfold State.capGo
  try dsimp only
  repeat' (first | with_reducible assumption | with_reducible exact Keeps.refl _ | with_reducible apply Keeps.ite | with_reducible apply KeepsRes.ite | with_reducible apply KeepsFst.ite | with_reducible apply KeepsSnd.ite | with_reducible apply keeps_capStart | with_reducible apply keeps_wantDoms | (simp only [Keeps.lit]; with_reducible apply KeepsData.of) | (simp only [Keeps.lit]; with_reducible refine KeepsData.poke ?_ (fun w => ?_); rotate_left; first | exact mark_wf _ _ _ w | exact fold_wf _ _ (fun m x hm => poison_wf _ _ hm) w | exact fold_wf _ _ (fun m x hm => by split; exact poison_wf _ _ hm; exact hm) w | exact write_wf _ _ w | exact mark_wf _ _ _ (write_wf _ _ w)) | intro s hs | split)

theorem keeps_execCaptureStart {a : State} (v0 : ℕ) (v1 : State) (h0 : Keeps a v1) : KeepsOut a (execCaptureStart v0 v1) := by
  unfold execCaptureStart
  try dsimp only
  repeat' (first | with_reducible assumption | with_reducible exact Keeps.refl _ | with_reducible apply KeepsOut.next | with_reducible apply Keeps.ite | with_reducible apply KeepsRes.ite | with_reducible apply KeepsFst.ite | with_reducible apply KeepsSnd.ite | with_reducible apply keeps_waitEnd | with_reducible apply keeps_rescope | (with_reducible refine keeps_rescope_e (by with_reducible assumption) ?_) | with_reducible apply keeps_capGo | (simp only [Keeps.lit]; with_reducible apply KeepsData.of) | (simp only [Keeps.lit]; with_reducible refine KeepsData.poke ?_ (fun w => ?_); rotate_left; first | exact mark_wf _ _ _ w | exact fold_wf _ _ (fun m x hm => poison_wf _ _ hm) w | exact fold_wf _ _ (fun m x hm => by split; exact poison_wf _ _ hm; exact hm) w | exact write_wf _ _ w | exact mark_wf _ _ _ (write_wf _ _ w)) | intro s hs | split)

theorem keeps_capUnclamp {a : State} (v0 : State) (v1 : CapRun) (h0 : Keeps a v0) : Keeps a (State.capUnclamp v0 v1) := by
  unfold State.capUnclamp
  try dsimp only
  repeat' (first | with_reducible assumption | with_reducible exact Keeps.refl _ | with_reducible apply keeps_unclamp | (simp only [Keeps.lit]; with_reducible apply KeepsData.of))

theorem keeps_capWord {a : State} (v0 : State) (v1 : CapRun) (v2 : ℕ) (h0 : Keeps a v0) : Keeps a (State.capWord v0 v1 v2) := by
  unfold State.capWord
  try dsimp only
  repeat' (first | with_reducible assumption | with_reducible exact Keeps.refl _ | with_reducible apply Keeps.ite | with_reducible apply KeepsRes.ite | with_reducible apply KeepsFst.ite | with_reducible apply KeepsSnd.ite | with_reducible apply keeps_putStatus | with_reducible apply keeps_onCmd | (simp only [Keeps.lit]; with_reducible apply KeepsData.of) | (simp only [Keeps.lit]; with_reducible refine KeepsData.poke ?_ (fun w => ?_); rotate_left; first | exact mark_wf _ _ _ w | exact fold_wf _ _ (fun m x hm => poison_wf _ _ hm) w | exact fold_wf _ _ (fun m x hm => by split; exact poison_wf _ _ hm; exact hm) w | exact write_wf _ _ w | exact mark_wf _ _ _ (write_wf _ _ w)) | intro s hs | split)

theorem keeps_capCheck {a : State} (v0 : State) (h0 : Keeps a v0) : Keeps a (State.capCheck v0) := by
  unfold State.capCheck
  try dsimp only
  repeat' (first | with_reducible assumption | with_reducible exact Keeps.refl _ | with_reducible apply Keeps.ite | with_reducible apply KeepsRes.ite | with_reducible apply KeepsFst.ite | with_reducible apply KeepsSnd.ite | with_reducible apply keeps_capWord | with_reducible apply keeps_capPhase | (simp only [Keeps.lit]; with_reducible apply KeepsData.of) | (simp only [Keeps.lit]; with_reducible refine KeepsData.poke ?_ (fun w => ?_); rotate_left; first | exact mark_wf _ _ _ w | exact fold_wf _ _ (fun m x hm => poison_wf _ _ hm) w | exact fold_wf _ _ (fun m x hm => by split; exact poison_wf _ _ hm; exact hm) w | exact write_wf _ _ w | exact mark_wf _ _ _ (write_wf _ _ w)) | intro s hs | split)

theorem keeps_capFlip {a : State} (v0 : State) (v1 : CapRun) (h0 : Keeps a v0) : Keeps a (State.capFlip v0 v1) := by
  unfold State.capFlip
  try dsimp only
  repeat' (first | with_reducible assumption | with_reducible exact Keeps.refl _ | with_reducible apply Keeps.ite | with_reducible apply KeepsRes.ite | with_reducible apply KeepsFst.ite | with_reducible apply KeepsSnd.ite | with_reducible apply KeepsFst.mk | with_reducible apply KeepsSnd.mk | with_reducible apply KeepsRes.mk | with_reducible apply Keeps.id | with_reducible apply keeps_capUnclamp | with_reducible apply keeps_onSt | with_reducible apply keeps_onCapRegs | with_reducible apply keeps_useTime | with_reducible apply keeps_capPhase | with_reducible apply keeps_capCheck | (with_reducible refine Keeps.foldl _ ?_ ?_; intro s x hs; try dsimp only) | (with_reducible refine Keeps.foldl1 _ ?_ ?_; (intro p x hs; replace hs := KeepsFst.fst hs; try dsimp only)) | (with_reducible refine Keeps.foldl2 _ ?_ ?_; (intro p x hs; replace hs := KeepsSnd.snd hs; try dsimp only)) | (with_reducible refine KeepsFst.foldl _ ?_ ?_; (intro p x hs; replace hs := KeepsFst.fst hs; try dsimp only)) | (with_reducible refine KeepsSnd.foldl _ ?_ ?_; (intro p x hs; replace hs := KeepsSnd.snd hs; try dsimp only)) | (simp only [Keeps.lit]; with_reducible apply KeepsData.of) | (simp only [Keeps.lit]; with_reducible refine KeepsData.poke ?_ (fun w => ?_); rotate_left; first | exact mark_wf _ _ _ w | exact fold_wf _ _ (fun m x hm => poison_wf _ _ hm) w | exact fold_wf _ _ (fun m x hm => by split; exact poison_wf _ _ hm; exact hm) w | exact write_wf _ _ w | exact mark_wf _ _ _ (write_wf _ _ w)) | intro s hs | split | (with_reducible apply KeepsSnd.eq; with_reducible assumption) | (with_reducible apply KeepsFst.eq; with_reducible assumption))

theorem keeps_capFreezeTimeout {a : State} (v0 : State) (h0 : Keeps a v0) : Keeps a (State.capFreezeTimeout v0) := by
  unfold State.capFreezeTimeout
  try dsimp only
  repeat' (first | with_reducible assumption | with_reducible exact Keeps.refl _ | with_reducible apply Keeps.ite | with_reducible apply KeepsRes.ite | with_reducible apply KeepsFst.ite | with_reducible apply KeepsSnd.ite | with_reducible apply keeps_capUnclamp | with_reducible apply keeps_capFail | (simp only [Keeps.lit]; with_reducible apply KeepsData.of) | (simp only [Keeps.lit]; with_reducible refine KeepsData.poke ?_ (fun w => ?_); rotate_left; first | exact mark_wf _ _ _ w | exact fold_wf _ _ (fun m x hm => poison_wf _ _ hm) w | exact fold_wf _ _ (fun m x hm => by split; exact poison_wf _ _ hm; exact hm) w | exact write_wf _ _ w | exact mark_wf _ _ _ (write_wf _ _ w)) | intro s hs | split)

theorem keeps_capFreezeAck {a : State} (v0 : State) (h0 : Keeps a v0) : Keeps a (State.capFreezeAck v0) := by
  unfold State.capFreezeAck
  try dsimp only
  repeat' (first | with_reducible assumption | with_reducible exact Keeps.refl _ | with_reducible apply Keeps.ite | with_reducible apply KeepsRes.ite | with_reducible apply KeepsFst.ite | with_reducible apply KeepsSnd.ite | with_reducible apply keeps_capFlip | with_reducible apply keeps_capFail | (simp only [Keeps.lit]; with_reducible apply KeepsData.of) | (simp only [Keeps.lit]; with_reducible refine KeepsData.poke ?_ (fun w => ?_); rotate_left; first | exact mark_wf _ _ _ w | exact fold_wf _ _ (fun m x hm => poison_wf _ _ hm) w | exact fold_wf _ _ (fun m x hm => by split; exact poison_wf _ _ hm; exact hm) w | exact write_wf _ _ w | exact mark_wf _ _ _ (write_wf _ _ w)) | intro s hs | split)

theorem keeps_execBitmapRowSweep {a : State} (v0 : ℕ) (v1 : State) (h0 : Keeps a v1) : KeepsOut a (execBitmapRowSweep v0 v1) := by
  unfold execBitmapRowSweep
  try dsimp only
  repeat' (first | with_reducible assumption | with_reducible exact Keeps.refl _ | with_reducible apply KeepsOut.next | with_reducible apply Keeps.ite | with_reducible apply KeepsRes.ite | with_reducible apply KeepsFst.ite | with_reducible apply KeepsSnd.ite | with_reducible apply keeps_onSt | (simp only [Keeps.lit]; with_reducible apply KeepsData.of) | (simp only [Keeps.lit]; with_reducible refine KeepsData.poke ?_ (fun w => ?_); rotate_left; first | exact mark_wf _ _ _ w | exact fold_wf _ _ (fun m x hm => poison_wf _ _ hm) w | exact fold_wf _ _ (fun m x hm => by split; exact poison_wf _ _ hm; exact hm) w | exact write_wf _ _ w | exact mark_wf _ _ _ (write_wf _ _ w)) | intro s hs | split)

theorem keeps_withParked {a : State} (v0 : State) (h0 : Keeps a v0) : Keeps a (State.withParked v0) := by
  unfold State.withParked
  try dsimp only
  repeat' (first | with_reducible assumption | with_reducible exact Keeps.refl _ | with_reducible apply KeepsFst.mk | with_reducible apply KeepsSnd.mk | with_reducible apply KeepsRes.mk | (simp only [Keeps.lit]; with_reducible apply KeepsData.of))

theorem keeps_fireRule {a : State} (v0 : State) (v1 : ℕ) (v2 : Bool) (h0 : Keeps a v0) : Keeps a (State.fireRule v0 v1 v2) := by
  unfold State.fireRule
  try dsimp only
  repeat' (first | with_reducible assumption | with_reducible exact Keeps.refl _ | with_reducible apply Keeps.ite | with_reducible apply KeepsRes.ite | with_reducible apply KeepsFst.ite | with_reducible apply KeepsSnd.ite | with_reducible apply keeps_beginWake | with_reducible apply keeps_capEnter | with_reducible apply keeps_onCapRegs | with_reducible apply keeps_sendFrame | with_reducible apply keeps_useTime | with_reducible apply keeps_log | with_reducible apply keeps_withParked | (simp only [Keeps.lit]; with_reducible apply KeepsData.of) | (simp only [Keeps.lit]; with_reducible refine KeepsData.poke ?_ (fun w => ?_); rotate_left; first | exact mark_wf _ _ _ w | exact fold_wf _ _ (fun m x hm => poison_wf _ _ hm) w | exact fold_wf _ _ (fun m x hm => by split; exact poison_wf _ _ hm; exact hm) w | exact write_wf _ _ w | exact mark_wf _ _ _ (write_wf _ _ w)) | intro s hs | split)

theorem keeps_bodyTrigger {a : State} (v0 : Sub) (v1 : State) (h0 : Keeps a v1) : KeepsRes a (bodyTrigger v0 v1) := by
  unfold bodyTrigger
  try dsimp only
  repeat' (first | with_reducible assumption | with_reducible exact Keeps.refl _ | with_reducible apply Keeps.ite | with_reducible apply KeepsRes.ite | with_reducible apply KeepsFst.ite | with_reducible apply KeepsSnd.ite | with_reducible apply KeepsRes.mk | with_reducible apply keeps_done | with_reducible apply keeps_done' | with_reducible apply keeps_useTime | with_reducible apply keeps_badParam | with_reducible apply keeps_badParam' | with_reducible apply keeps_fail | with_reducible apply keeps_fail' | (simp only [Keeps.lit]; with_reducible apply KeepsData.of) | (simp only [Keeps.lit]; with_reducible refine KeepsData.poke ?_ (fun w => ?_); rotate_left; first | exact mark_wf _ _ _ w | exact fold_wf _ _ (fun m x hm => poison_wf _ _ hm) w | exact fold_wf _ _ (fun m x hm => by split; exact poison_wf _ _ hm; exact hm) w | exact write_wf _ _ w | exact mark_wf _ _ _ (write_wf _ _ w)) | intro s hs | split)
theorem keeps_bodyTrigger' {a : State} (v0 : Sub) (v1 : State) (h0 : Keeps a v1) : Keeps a (bodyTrigger v0 v1).s := keeps_bodyTrigger v0 v1 h0

theorem keeps_execEventPulse {a : State} (v0 : ℕ) (v1 : State) (h0 : Keeps a v1) : KeepsOut a (execEventPulse v0 v1) := by
  unfold execEventPulse
  try dsimp only
  repeat' (first | with_reducible assumption | with_reducible exact Keeps.refl _ | with_reducible apply KeepsOut.next | with_reducible apply Keeps.ite | with_reducible apply KeepsRes.ite | with_reducible apply KeepsFst.ite | with_reducible apply KeepsSnd.ite | with_reducible apply KeepsFst.mk | with_reducible apply KeepsSnd.mk | with_reducible apply KeepsRes.mk | with_reducible apply Keeps.id | with_reducible apply keeps_fireRule | (with_reducible refine Keeps.foldl _ ?_ ?_; intro s x hs; try dsimp only) | (with_reducible refine Keeps.foldl1 _ ?_ ?_; (intro p x hs; replace hs := KeepsFst.fst hs; try dsimp only)) | (with_reducible refine Keeps.foldl2 _ ?_ ?_; (intro p x hs; replace hs := KeepsSnd.snd hs; try dsimp only)) | (with_reducible refine KeepsFst.foldl _ ?_ ?_; (intro p x hs; replace hs := KeepsFst.fst hs; try dsimp only)) | (with_reducible refine KeepsSnd.foldl _ ?_ ?_; (intro p x hs; replace hs := KeepsSnd.snd hs; try dsimp only)) | (simp only [Keeps.lit]; with_reducible apply KeepsData.of) | (simp only [Keeps.lit]; with_reducible refine KeepsData.poke ?_ (fun w => ?_); rotate_left; first | exact mark_wf _ _ _ w | exact fold_wf _ _ (fun m x hm => poison_wf _ _ hm) w | exact fold_wf _ _ (fun m x hm => by split; exact poison_wf _ _ hm; exact hm) w | exact write_wf _ _ w | exact mark_wf _ _ _ (write_wf _ _ w)) | intro s hs | split | (with_reducible apply KeepsSnd.eq; with_reducible assumption) | (with_reducible apply KeepsFst.eq; with_reducible assumption))

theorem keeps_execEventLevel {a : State} (v0 : ℕ) (v1 : Bool) (v2 : State) (h0 : Keeps a v2) : KeepsOut a (execEventLevel v0 v1 v2) := by
  unfold execEventLevel
  try dsimp only
  repeat' (first | with_reducible assumption | with_reducible exact Keeps.refl _ | with_reducible apply KeepsOut.next | with_reducible apply Keeps.ite | with_reducible apply KeepsRes.ite | with_reducible apply KeepsFst.ite | with_reducible apply KeepsSnd.ite | (simp only [Keeps.lit]; with_reducible apply KeepsData.of) | (simp only [Keeps.lit]; with_reducible refine KeepsData.poke ?_ (fun w => ?_); rotate_left; first | exact mark_wf _ _ _ w | exact fold_wf _ _ (fun m x hm => poison_wf _ _ hm) w | exact fold_wf _ _ (fun m x hm => by split; exact poison_wf _ _ hm; exact hm) w | exact write_wf _ _ w | exact mark_wf _ _ _ (write_wf _ _ w)) | intro s hs | split)

theorem keeps_execLevelRuleTimer {a : State} (v0 : State) (h0 : Keeps a v0) : KeepsOut a (execLevelRuleTimer v0) := by
  unfold execLevelRuleTimer
  try dsimp only
  repeat' (first | with_reducible assumption | with_reducible exact Keeps.refl _ | with_reducible apply KeepsOut.next | with_reducible apply Keeps.ite | with_reducible apply KeepsRes.ite | with_reducible apply KeepsFst.ite | with_reducible apply KeepsSnd.ite | with_reducible apply KeepsFst.mk | with_reducible apply KeepsSnd.mk | with_reducible apply KeepsRes.mk | with_reducible apply Keeps.id | with_reducible apply keeps_fireRule | (with_reducible refine Keeps.foldl _ ?_ ?_; intro s x hs; try dsimp only) | (with_reducible refine Keeps.foldl1 _ ?_ ?_; (intro p x hs; replace hs := KeepsFst.fst hs; try dsimp only)) | (with_reducible refine Keeps.foldl2 _ ?_ ?_; (intro p x hs; replace hs := KeepsSnd.snd hs; try dsimp only)) | (with_reducible refine KeepsFst.foldl _ ?_ ?_; (intro p x hs; replace hs := KeepsFst.fst hs; try dsimp only)) | (with_reducible refine KeepsSnd.foldl _ ?_ ?_; (intro p x hs; replace hs := KeepsSnd.snd hs; try dsimp only)) | (simp only [Keeps.lit]; with_reducible apply KeepsData.of) | (simp only [Keeps.lit]; with_reducible refine KeepsData.poke ?_ (fun w => ?_); rotate_left; first | exact mark_wf _ _ _ w | exact fold_wf _ _ (fun m x hm => poison_wf _ _ hm) w | exact fold_wf _ _ (fun m x hm => by split; exact poison_wf _ _ hm; exact hm) w | exact write_wf _ _ w | exact mark_wf _ _ _ (write_wf _ _ w)) | intro s hs | split | (with_reducible apply KeepsSnd.eq; with_reducible assumption) | (with_reducible apply KeepsFst.eq; with_reducible assumption))

theorem keeps_execRegionDeclare {a : State} (v0 : Sub) (v1 : Ext) (v2 : State) (h0 : Keeps a v2) : KeepsOut a (execRegionDeclare v0 v1 v2) := by
  unfold execRegionDeclare
  try dsimp only
  repeat' (first | with_reducible assumption | with_reducible exact Keeps.refl _ | with_reducible apply KeepsOut.next | with_reducible apply keeps_bodyRegionDeclare | with_reducible apply keeps_bodyRegionDeclare' | with_reducible apply keeps_runOp | (simp only [Keeps.lit]; with_reducible apply KeepsData.of))

theorem keeps_execRegionRetire {a : State} (v0 : Sub) (v1 : Ext) (v2 : State) (h0 : Keeps a v2) : KeepsOut a (execRegionRetire v0 v1 v2) := by
  unfold execRegionRetire
  try dsimp only
  repeat' (first | with_reducible assumption | with_reducible exact Keeps.refl _ | with_reducible apply KeepsOut.next | with_reducible apply keeps_runOp | with_reducible apply keeps_bodyRegionRetire | with_reducible apply keeps_bodyRegionRetire' | (simp only [Keeps.lit]; with_reducible apply KeepsData.of))

theorem keeps_execCapture {a : State} (v0 : Sub) (v1 : Ext) (v2 : State) (h0 : Keeps a v2) : KeepsOut a (execCapture v0 v1 v2) := by
  unfold execCapture
  try dsimp only
  repeat' (first | with_reducible assumption | with_reducible exact Keeps.refl _ | with_reducible apply KeepsOut.next | with_reducible apply keeps_runOp | with_reducible apply keeps_bodyCapture | with_reducible apply keeps_bodyCapture' | (simp only [Keeps.lit]; with_reducible apply KeepsData.of))

theorem keeps_execDrainHint {a : State} (v0 : Sub) (v1 : Ext) (v2 : State) (h0 : Keeps a v2) : KeepsOut a (execDrainHint v0 v1 v2) := by
  unfold execDrainHint
  try dsimp only
  repeat' (first | with_reducible assumption | with_reducible exact Keeps.refl _ | with_reducible apply KeepsOut.next | with_reducible apply keeps_runOp | with_reducible apply keeps_bodyDrainHint | with_reducible apply keeps_bodyDrainHint' | (simp only [Keeps.lit]; with_reducible apply KeepsData.of))

theorem keeps_execCaptureCancel {a : State} (v0 : Sub) (v1 : Ext) (v2 : State) (h0 : Keeps a v2) : KeepsOut a (execCaptureCancel v0 v1 v2) := by
  unfold execCaptureCancel
  try dsimp only
  repeat' (first | with_reducible assumption | with_reducible exact Keeps.refl _ | with_reducible apply KeepsOut.next | with_reducible apply keeps_runOp | with_reducible apply keeps_bodyCaptureCancel | with_reducible apply keeps_bodyCaptureCancel' | (simp only [Keeps.lit]; with_reducible apply KeepsData.of))

theorem keeps_execReplicaSet {a : State} (v0 : Sub) (v1 : Ext) (v2 : State) (h0 : Keeps a v2) : KeepsOut a (execReplicaSet v0 v1 v2) := by
  unfold execReplicaSet
  try dsimp only
  repeat' (first | with_reducible assumption | with_reducible exact Keeps.refl _ | with_reducible apply KeepsOut.next | with_reducible apply keeps_runOp | with_reducible apply keeps_bodyReplicaSet | with_reducible apply keeps_bodyReplicaSet' | (simp only [Keeps.lit]; with_reducible apply KeepsData.of))

theorem keeps_execTriggerArm {a : State} (v0 : Sub) (v1 : Ext) (v2 : State) (h0 : Keeps a v2) : KeepsOut a (execTriggerArm v0 v1 v2) := by
  unfold execTriggerArm
  try dsimp only
  repeat' (first | with_reducible assumption | with_reducible exact Keeps.refl _ | with_reducible apply KeepsOut.next | with_reducible apply keeps_bodyTrigger | with_reducible apply keeps_bodyTrigger' | with_reducible apply keeps_runOp | (simp only [Keeps.lit]; with_reducible apply KeepsData.of))

theorem keeps_execTriggerDisarm {a : State} (v0 : Sub) (v1 : Ext) (v2 : State) (h0 : Keeps a v2) : KeepsOut a (execTriggerDisarm v0 v1 v2) := by
  unfold execTriggerDisarm
  try dsimp only
  repeat' (first | with_reducible assumption | with_reducible exact Keeps.refl _ | with_reducible apply KeepsOut.next | with_reducible apply keeps_bodyTrigger | with_reducible apply keeps_bodyTrigger' | with_reducible apply keeps_runOp | (simp only [Keeps.lit]; with_reducible apply KeepsData.of))

end Sys2Proof.Laws
end

