-- ==== Sys2Proof/Laws/KeepsDrain.lean ====
section
/-! SUPPORT. Every function of Machine/Drain.lean that answers a state keeps what no command may change. -/

namespace Sys2Proof.Laws
open Sys2Proof Sys2Proof.Machine
set_option linter.unreachableTactic false
set_option linter.unusedTactic false
set_option linter.unusedVariables false
set_option linter.unusedSimpArgs false
set_option maxRecDepth 4000

theorem keeps_onCell {a : State} (v0 : State) (v1 : ℕ) (v2 : ℕ) (v3 : Cell → Cell) (h0 : Keeps a v0) : Keeps a (State.onCell v0 v1 v2 v3) := by
  unfold State.onCell
  try dsimp only
  repeat' (first | with_reducible assumption | with_reducible exact Keeps.refl _ | with_reducible apply keeps_onSt | (simp only [Keeps.lit]; with_reducible apply KeepsData.of))

theorem keeps_onBlock {a : State} (v0 : State) (v1 : ℕ) (v2 : ℕ) (v3 : Block → Block) (h0 : Keeps a v0) : Keeps a (State.onBlock v0 v1 v2 v3) := by
  unfold State.onBlock
  try dsimp only
  repeat' (first | with_reducible assumption | with_reducible exact Keeps.refl _ | (simp only [Keeps.lit]; with_reducible apply KeepsData.of))

theorem keeps_postWrite {a : State} (v0 : State) (v1 : Block) (h0 : Keeps a v0) : Keeps a (State.postWrite v0 v1) := by
  unfold State.postWrite
  try dsimp only
  repeat' (first | with_reducible assumption | with_reducible exact Keeps.refl _ | with_reducible apply keeps_onNvme | with_reducible apply keeps_onBlock | (simp only [Keeps.lit]; with_reducible apply KeepsData.of))

theorem keeps_streamed {a : State} (v0 : State) (v1 : Block) (h0 : Keeps a v0) : Keeps a (State.streamed v0 v1) := by
  unfold State.streamed
  try dsimp only
  repeat' (first | with_reducible assumption | with_reducible exact Keeps.refl _ | with_reducible apply Keeps.ite | with_reducible apply KeepsRes.ite | with_reducible apply KeepsFst.ite | with_reducible apply KeepsSnd.ite | with_reducible apply keeps_onSt | (simp only [Keeps.lit]; with_reducible apply KeepsData.of) | (simp only [Keeps.lit]; with_reducible refine KeepsData.poke ?_ (fun w => ?_); rotate_left; first | exact mark_wf _ _ _ w | exact fold_wf _ _ (fun m x hm => poison_wf _ _ hm) w | exact fold_wf _ _ (fun m x hm => by split; exact poison_wf _ _ hm; exact hm) w | exact write_wf _ _ w | exact mark_wf _ _ _ (write_wf _ _ w)) | intro s hs | split)

theorem keeps_answerRead {a : State} (v0 : State) (v1 : Access) (v2 : List Byte) (h0 : Keeps a v0) : Keeps a (State.answerRead v0 v1 v2) := by
  unfold State.answerRead
  try dsimp only
  repeat' (first | with_reducible assumption | with_reducible exact Keeps.refl _ | with_reducible apply keeps_answer | (simp only [Keeps.lit]; with_reducible apply KeepsData.of))

theorem keeps_serveRead {a : State} (v0 : State) (v1 : StageBuf) (v2 : Block) (v3 : ℕ) (v4 : ℕ) (v5 : Access) (v6 : ℕ) (h0 : Keeps a v0) : Keeps a (State.serveRead v0 v1 v2 v3 v4 v5 v6) := by
  unfold State.serveRead
  try dsimp only
  repeat' (first | with_reducible assumption | with_reducible exact Keeps.refl _ | with_reducible apply Keeps.ite | with_reducible apply KeepsRes.ite | with_reducible apply KeepsFst.ite | with_reducible apply KeepsSnd.ite | with_reducible apply keeps_onBlock | with_reducible apply keeps_answerRead | with_reducible apply keeps_streamed | (simp only [Keeps.lit]; with_reducible apply KeepsData.of) | (simp only [Keeps.lit]; with_reducible refine KeepsData.poke ?_ (fun w => ?_); rotate_left; first | exact mark_wf _ _ _ w | exact fold_wf _ _ (fun m x hm => poison_wf _ _ hm) w | exact fold_wf _ _ (fun m x hm => by split; exact poison_wf _ _ hm; exact hm) w | exact write_wf _ _ w | exact mark_wf _ _ _ (write_wf _ _ w)) | intro s hs | split)

theorem keeps_serveHeld {a : State} (v0 : State) (v1 : ℕ) (h0 : Keeps a v0) : Keeps a (State.serveHeld v0 v1) := by
  unfold State.serveHeld
  try dsimp only
  repeat' (first | with_reducible assumption | with_reducible exact Keeps.refl _ | with_reducible apply Keeps.ite | with_reducible apply KeepsRes.ite | with_reducible apply KeepsFst.ite | with_reducible apply KeepsSnd.ite | with_reducible apply KeepsFst.mk | with_reducible apply KeepsSnd.mk | with_reducible apply KeepsRes.mk | with_reducible apply Keeps.id | with_reducible apply keeps_serveRead | (with_reducible refine Keeps.foldl _ ?_ ?_; intro s x hs; try dsimp only) | (with_reducible refine Keeps.foldl1 _ ?_ ?_; (intro p x hs; replace hs := KeepsFst.fst hs; try dsimp only)) | (with_reducible refine Keeps.foldl2 _ ?_ ?_; (intro p x hs; replace hs := KeepsSnd.snd hs; try dsimp only)) | (with_reducible refine KeepsFst.foldl _ ?_ ?_; (intro p x hs; replace hs := KeepsFst.fst hs; try dsimp only)) | (with_reducible refine KeepsSnd.foldl _ ?_ ?_; (intro p x hs; replace hs := KeepsSnd.snd hs; try dsimp only)) | (simp only [Keeps.lit]; with_reducible apply KeepsData.of) | (simp only [Keeps.lit]; with_reducible refine KeepsData.poke ?_ (fun w => ?_); rotate_left; first | exact mark_wf _ _ _ w | exact fold_wf _ _ (fun m x hm => poison_wf _ _ hm) w | exact fold_wf _ _ (fun m x hm => by split; exact poison_wf _ _ hm; exact hm) w | exact write_wf _ _ w | exact mark_wf _ _ _ (write_wf _ _ w)) | intro s hs | split | (with_reducible apply KeepsSnd.eq; with_reducible assumption) | (with_reducible apply KeepsFst.eq; with_reducible assumption))

theorem keeps_fillFrame {a : State} (v0 : State) (v1 : Block) (h0 : Keeps a v0) : Keeps a (State.fillFrame v0 v1) := by
  unfold State.fillFrame
  try dsimp only
  repeat' (first | with_reducible assumption | with_reducible exact Keeps.refl _ | with_reducible apply Keeps.ite | with_reducible apply KeepsRes.ite | with_reducible apply KeepsFst.ite | with_reducible apply KeepsSnd.ite | with_reducible apply keeps_serveHeld | with_reducible apply keeps_onBlock | with_reducible apply keeps_streamed | (simp only [Keeps.lit]; with_reducible apply KeepsData.of) | (simp only [Keeps.lit]; with_reducible refine KeepsData.poke ?_ (fun w => ?_); rotate_left; first | exact mark_wf _ _ _ w | exact fold_wf _ _ (fun m x hm => poison_wf _ _ hm) w | exact fold_wf _ _ (fun m x hm => by split; exact poison_wf _ _ hm; exact hm) w | exact write_wf _ _ w | exact mark_wf _ _ _ (write_wf _ _ w)) | intro s hs | split)

theorem keeps_emitBlock {a : State} (v0 : State) (v1 : Block) (h0 : Keeps a v0) : Keeps a (State.emitBlock v0 v1) := by
  unfold State.emitBlock
  try dsimp only
  repeat' (first | with_reducible assumption | with_reducible exact Keeps.refl _ | with_reducible apply Keeps.ite | with_reducible apply KeepsRes.ite | with_reducible apply KeepsFst.ite | with_reducible apply KeepsSnd.ite | with_reducible apply keeps_fillFrame | with_reducible apply keeps_onBlock | (simp only [Keeps.lit]; with_reducible apply KeepsData.of) | (simp only [Keeps.lit]; with_reducible refine KeepsData.poke ?_ (fun w => ?_); rotate_left; first | exact mark_wf _ _ _ w | exact fold_wf _ _ (fun m x hm => poison_wf _ _ hm) w | exact fold_wf _ _ (fun m x hm => by split; exact poison_wf _ _ hm; exact hm) w | exact write_wf _ _ w | exact mark_wf _ _ _ (write_wf _ _ w)) | intro s hs | split)

theorem keeps_startBlock {a : State} (v0 : State) (v1 : CapRun) (v2 : Block) (v3 : ℕ) (h0 : Keeps a v0) : Keeps a (State.startBlock v0 v1 v2 v3) := by
  unfold State.startBlock
  try dsimp only
  repeat' (first | with_reducible assumption | with_reducible exact Keeps.refl _ | with_reducible apply Keeps.ite | with_reducible apply KeepsRes.ite | with_reducible apply KeepsFst.ite | with_reducible apply KeepsSnd.ite | with_reducible apply keeps_onBlock | with_reducible apply keeps_emitBlock | with_reducible apply keeps_onMedia | with_reducible apply keeps_postWrite | (simp only [Keeps.lit]; with_reducible apply KeepsData.of) | (simp only [Keeps.lit]; with_reducible refine KeepsData.poke ?_ (fun w => ?_); rotate_left; first | exact mark_wf _ _ _ w | exact fold_wf _ _ (fun m x hm => poison_wf _ _ hm) w | exact fold_wf _ _ (fun m x hm => by split; exact poison_wf _ _ hm; exact hm) w | exact write_wf _ _ w | exact mark_wf _ _ _ (write_wf _ _ w)) | intro s hs | split)

theorem keeps_closeStile {a : State} (v0 : State) (v1 : CapRun) (v2 : ℕ) (h0 : Keeps a v0) : Keeps a (State.closeStile v0 v1 v2) := by
  unfold State.closeStile
  try dsimp only
  repeat' (first | with_reducible assumption | with_reducible exact Keeps.refl _ | with_reducible apply Keeps.ite | with_reducible apply KeepsRes.ite | with_reducible apply KeepsFst.ite | with_reducible apply KeepsSnd.ite | with_reducible apply keeps_onSt | (simp only [Keeps.lit]; with_reducible apply KeepsData.of) | (simp only [Keeps.lit]; with_reducible refine KeepsData.poke ?_ (fun w => ?_); rotate_left; first | exact mark_wf _ _ _ w | exact fold_wf _ _ (fun m x hm => poison_wf _ _ hm) w | exact fold_wf _ _ (fun m x hm => by split; exact poison_wf _ _ hm; exact hm) w | exact write_wf _ _ w | exact mark_wf _ _ _ (write_wf _ _ w)) | intro s hs | split)

theorem keeps_dispose {a : State} (v0 : State) (v1 : CapRun) (v2 : ℕ) (v3 : ℕ) (v4 : ℕ) (v5 : Bool) (v6 : Bool) (v7 : LeafRec) (h0 : Keeps a v0) : Keeps a (State.dispose v0 v1 v2 v3 v4 v5 v6 v7) := by
  unfold State.dispose
  try dsimp only
  repeat' (first | with_reducible assumption | with_reducible exact Keeps.refl _ | with_reducible apply Keeps.ite | with_reducible apply KeepsRes.ite | with_reducible apply KeepsFst.ite | with_reducible apply KeepsSnd.ite | with_reducible apply keeps_closeStile | with_reducible apply keeps_releaseGran | with_reducible apply keeps_onSt | with_reducible apply keeps_relevel | with_reducible apply keeps_capCheck | (simp only [Keeps.lit]; with_reducible apply KeepsData.of) | (simp only [Keeps.lit]; with_reducible refine KeepsData.poke ?_ (fun w => ?_); rotate_left; first | exact mark_wf _ _ _ w | exact fold_wf _ _ (fun m x hm => poison_wf _ _ hm) w | exact fold_wf _ _ (fun m x hm => by split; exact poison_wf _ _ hm; exact hm) w | exact write_wf _ _ w | exact mark_wf _ _ _ (write_wf _ _ w)) | intro s hs | split)

theorem keeps_notePoison {a : State} (v0 : State) (v1 : List ℕ) (v2 : ℕ) (v3 : ℕ) (h0 : Keeps a v0) : Keeps a (State.notePoison v0 v1 v2 v3) := by
  unfold State.notePoison
  try dsimp only
  repeat' (first | with_reducible assumption | with_reducible exact Keeps.refl _ | with_reducible apply Keeps.ite | with_reducible apply KeepsRes.ite | with_reducible apply KeepsFst.ite | with_reducible apply KeepsSnd.ite | with_reducible apply keeps_log | (simp only [Keeps.lit]; with_reducible apply KeepsData.of) | (simp only [Keeps.lit]; with_reducible refine KeepsData.poke ?_ (fun w => ?_); rotate_left; first | exact mark_wf _ _ _ w | exact fold_wf _ _ (fun m x hm => poison_wf _ _ hm) w | exact fold_wf _ _ (fun m x hm => by split; exact poison_wf _ _ hm; exact hm) w | exact write_wf _ _ w | exact mark_wf _ _ _ (write_wf _ _ w)) | intro s hs | split)

theorem keeps_blockDone {a : State} (v0 : State) (v1 : Block) (h0 : Keeps a v0) : Keeps a (State.blockDone v0 v1) := by
  unfold State.blockDone
  try dsimp only
  repeat' (first | with_reducible assumption | with_reducible exact Keeps.refl _ | with_reducible apply Keeps.ite | with_reducible apply KeepsRes.ite | with_reducible apply KeepsFst.ite | with_reducible apply KeepsSnd.ite | with_reducible apply keeps_onNvme | with_reducible apply keeps_dispose | with_reducible apply keeps_streamed | (simp only [Keeps.lit]; with_reducible apply KeepsData.of) | (simp only [Keeps.lit]; with_reducible refine KeepsData.poke ?_ (fun w => ?_); rotate_left; first | exact mark_wf _ _ _ w | exact fold_wf _ _ (fun m x hm => poison_wf _ _ hm) w | exact fold_wf _ _ (fun m x hm => by split; exact poison_wf _ _ hm; exact hm) w | exact write_wf _ _ w | exact mark_wf _ _ _ (write_wf _ _ w)) | intro s hs | split)

theorem keeps_blockFailed {a : State} (v0 : State) (v1 : Block) (h0 : Keeps a v0) : Keeps a (State.blockFailed v0 v1) := by
  unfold State.blockFailed
  try dsimp only
  repeat' (first | with_reducible assumption | with_reducible exact Keeps.refl _ | with_reducible apply Keeps.ite | with_reducible apply KeepsRes.ite | with_reducible apply KeepsFst.ite | with_reducible apply KeepsSnd.ite | with_reducible apply keeps_onNvme | with_reducible apply keeps_onBlock | with_reducible apply keeps_capFail | with_reducible apply keeps_streamed | (simp only [Keeps.lit]; with_reducible apply KeepsData.of) | (simp only [Keeps.lit]; with_reducible refine KeepsData.poke ?_ (fun w => ?_); rotate_left; first | exact mark_wf _ _ _ w | exact fold_wf _ _ (fun m x hm => poison_wf _ _ hm) w | exact fold_wf _ _ (fun m x hm => by split; exact poison_wf _ _ hm; exact hm) w | exact write_wf _ _ w | exact mark_wf _ _ _ (write_wf _ _ w)) | intro s hs | split)

theorem keeps_takeGranule {a : State} (v0 : State) (v1 : CapRun) (v2 : ℕ) (v3 : ℕ) (v4 : ℕ) (v5 : ℕ) (v6 : Bool) (h0 : Keeps a v0) : Keeps a (State.takeGranule v0 v1 v2 v3 v4 v5 v6) := by
  unfold State.takeGranule
  try dsimp only
  repeat' (first | with_reducible assumption | with_reducible exact Keeps.refl _ | with_reducible apply Keeps.ite | with_reducible apply KeepsRes.ite | with_reducible apply KeepsFst.ite | with_reducible apply KeepsSnd.ite | with_reducible apply keeps_startBlock | with_reducible apply keeps_notePoison | with_reducible apply keeps_onBlock | with_reducible apply keeps_dispose | with_reducible apply keeps_onCell | (simp only [Keeps.lit]; with_reducible apply KeepsData.of) | (simp only [Keeps.lit]; with_reducible refine KeepsData.poke ?_ (fun w => ?_); rotate_left; first | exact mark_wf _ _ _ w | exact fold_wf _ _ (fun m x hm => poison_wf _ _ hm) w | exact fold_wf _ _ (fun m x hm => by split; exact poison_wf _ _ hm; exact hm) w | exact write_wf _ _ w | exact mark_wf _ _ _ (write_wf _ _ w)) | intro s hs | split)

theorem keeps_takeNow {a : State} (v0 : State) (v1 : ℕ) (v2 : ℕ) (v3 : ℕ) (h0 : Keeps a v0) : Keeps a (State.takeNow v0 v1 v2 v3) := by
  unfold State.takeNow
  try dsimp only
  repeat' (first | with_reducible assumption | with_reducible exact Keeps.refl _ | with_reducible apply Keeps.ite | with_reducible apply KeepsRes.ite | with_reducible apply KeepsFst.ite | with_reducible apply KeepsSnd.ite | with_reducible apply keeps_releaseGran | with_reducible apply keeps_onSt | with_reducible apply keeps_takeGranule | (simp only [Keeps.lit]; with_reducible apply KeepsData.of) | (simp only [Keeps.lit]; with_reducible refine KeepsData.poke ?_ (fun w => ?_); rotate_left; first | exact mark_wf _ _ _ w | exact fold_wf _ _ (fun m x hm => poison_wf _ _ hm) w | exact fold_wf _ _ (fun m x hm => by split; exact poison_wf _ _ hm; exact hm) w | exact write_wf _ _ w | exact mark_wf _ _ _ (write_wf _ _ w)) | intro s hs | split)

theorem keeps_startAgain {a : State} (v0 : State) (v1 : Block) (h0 : Keeps a v0) : Keeps a (State.startAgain v0 v1) := by
  unfold State.startAgain
  try dsimp only
  repeat' (first | with_reducible assumption | with_reducible exact Keeps.refl _ | with_reducible apply Keeps.ite | with_reducible apply KeepsRes.ite | with_reducible apply KeepsFst.ite | with_reducible apply KeepsSnd.ite | with_reducible apply keeps_onBlock | with_reducible apply keeps_emitBlock | with_reducible apply keeps_postWrite | (simp only [Keeps.lit]; with_reducible apply KeepsData.of) | (simp only [Keeps.lit]; with_reducible refine KeepsData.poke ?_ (fun w => ?_); rotate_left; first | exact mark_wf _ _ _ w | exact fold_wf _ _ (fun m x hm => poison_wf _ _ hm) w | exact fold_wf _ _ (fun m x hm => by split; exact poison_wf _ _ hm; exact hm) w | exact write_wf _ _ w | exact mark_wf _ _ _ (write_wf _ _ w)) | intro s hs | split)

theorem keeps_cellTakes {a : State} (v0 : State) (v1 : CapRun) (v2 : ℕ) (v3 : ℕ) (h0 : Keeps a v0) : Keeps a (State.cellTakes v0 v1 v2 v3) := by
  unfold State.cellTakes
  try dsimp only
  repeat' (first | with_reducible assumption | with_reducible exact Keeps.refl _ | with_reducible apply Keeps.ite | with_reducible apply KeepsRes.ite | with_reducible apply KeepsFst.ite | with_reducible apply KeepsSnd.ite | with_reducible apply keeps_startAgain | with_reducible apply keeps_takeGranule | with_reducible apply keeps_onCell | with_reducible apply keeps_takeNow | (simp only [Keeps.lit]; with_reducible apply KeepsData.of) | (simp only [Keeps.lit]; with_reducible refine KeepsData.poke ?_ (fun w => ?_); rotate_left; first | exact mark_wf _ _ _ w | exact fold_wf _ _ (fun m x hm => poison_wf _ _ hm) w | exact fold_wf _ _ (fun m x hm => by split; exact poison_wf _ _ hm; exact hm) w | exact write_wf _ _ w | exact mark_wf _ _ _ (write_wf _ _ w)) | intro s hs | split)

theorem keeps_execCellTakeUnit {a : State} (v0 : ℕ) (v1 : ℕ) (v2 : Ext) (v3 : State) (h0 : Keeps a v3) : KeepsOut a (execCellTakeUnit v0 v1 v2 v3) := by
  unfold execCellTakeUnit
  try dsimp only
  repeat' (first | with_reducible assumption | with_reducible exact Keeps.refl _ | with_reducible apply KeepsOut.next | with_reducible apply Keeps.ite | with_reducible apply KeepsRes.ite | with_reducible apply KeepsFst.ite | with_reducible apply KeepsSnd.ite | with_reducible apply keeps_startAgain | with_reducible apply keeps_wantDom | with_reducible apply keeps_cellTakes | (simp only [Keeps.lit]; with_reducible apply KeepsData.of) | (simp only [Keeps.lit]; with_reducible refine KeepsData.poke ?_ (fun w => ?_); rotate_left; first | exact mark_wf _ _ _ w | exact fold_wf _ _ (fun m x hm => poison_wf _ _ hm) w | exact fold_wf _ _ (fun m x hm => by split; exact poison_wf _ _ hm; exact hm) w | exact write_wf _ _ w | exact mark_wf _ _ _ (write_wf _ _ w)) | intro s hs | split)

theorem keeps_execStallRelease {a : State} (v0 : ℕ) (v1 : ℕ) (v2 : State) (h0 : Keeps a v2) : KeepsOut a (execStallRelease v0 v1 v2) := by
  unfold execStallRelease
  try dsimp only
  repeat' (first | with_reducible assumption | with_reducible exact Keeps.refl _ | with_reducible apply KeepsOut.next | with_reducible apply Keeps.ite | with_reducible apply KeepsRes.ite | with_reducible apply KeepsFst.ite | with_reducible apply KeepsSnd.ite | with_reducible apply keeps_takeNow | (simp only [Keeps.lit]; with_reducible apply KeepsData.of) | (simp only [Keeps.lit]; with_reducible refine KeepsData.poke ?_ (fun w => ?_); rotate_left; first | exact mark_wf _ _ _ w | exact fold_wf _ _ (fun m x hm => poison_wf _ _ hm) w | exact fold_wf _ _ (fun m x hm => by split; exact poison_wf _ _ hm; exact hm) w | exact write_wf _ _ w | exact mark_wf _ _ _ (write_wf _ _ w)) | intro s hs | split)

theorem keeps_insertDir {a : State} (v0 : State) (v1 : CapRun) (v2 : Block) (h0 : Keeps a v0) : Keeps a (State.insertDir v0 v1 v2) := by
  unfold State.insertDir
  try dsimp only
  repeat' (first | with_reducible assumption | with_reducible exact Keeps.refl _ | with_reducible apply Keeps.ite | with_reducible apply KeepsRes.ite | with_reducible apply KeepsFst.ite | with_reducible apply KeepsSnd.ite | with_reducible apply keeps_onCell | (simp only [Keeps.lit]; with_reducible apply KeepsData.of) | (simp only [Keeps.lit]; with_reducible refine KeepsData.poke ?_ (fun w => ?_); rotate_left; first | exact mark_wf _ _ _ w | exact fold_wf _ _ (fun m x hm => poison_wf _ _ hm) w | exact fold_wf _ _ (fun m x hm => by split; exact poison_wf _ _ hm; exact hm) w | exact write_wf _ _ w | exact mark_wf _ _ _ (write_wf _ _ w)) | intro s hs | split)

theorem keeps_execDirectoryLookupAnswer {a : State} (v0 : ℕ) (v1 : ℕ) (v2 : Bool) (v3 : State) (h0 : Keeps a v3) : KeepsOut a (execDirectoryLookupAnswer v0 v1 v2 v3) := by
  unfold execDirectoryLookupAnswer
  try dsimp only
  repeat' (first | with_reducible assumption | with_reducible exact Keeps.refl _ | with_reducible apply KeepsOut.next | with_reducible apply Keeps.ite | with_reducible apply KeepsRes.ite | with_reducible apply KeepsFst.ite | with_reducible apply KeepsSnd.ite | with_reducible apply keeps_startBlock | with_reducible apply keeps_insertDir | with_reducible apply keeps_dispose | with_reducible apply keeps_streamed | (simp only [Keeps.lit]; with_reducible apply KeepsData.of) | (simp only [Keeps.lit]; with_reducible refine KeepsData.poke ?_ (fun w => ?_); rotate_left; first | exact mark_wf _ _ _ w | exact fold_wf _ _ (fun m x hm => poison_wf _ _ hm) w | exact fold_wf _ _ (fun m x hm => by split; exact poison_wf _ _ hm; exact hm) w | exact write_wf _ _ w | exact mark_wf _ _ _ (write_wf _ _ w)) | intro s hs | split)

theorem keeps_useKey {a : State} (v0 : State) (v1 : ℕ) (h0 : Keeps a v0) : Keeps a (State.useKey v0 v1) := by
  unfold State.useKey
  try dsimp only
  repeat' (first | with_reducible assumption | with_reducible exact Keeps.refl _ | with_reducible apply Keeps.ite | with_reducible apply KeepsRes.ite | with_reducible apply KeepsFst.ite | with_reducible apply KeepsSnd.ite | with_reducible apply keeps_log | with_reducible apply keeps_onKey | (simp only [Keeps.lit]; with_reducible apply KeepsData.of) | (simp only [Keeps.lit]; with_reducible refine KeepsData.poke ?_ (fun w => ?_); rotate_left; first | exact mark_wf _ _ _ w | exact fold_wf _ _ (fun m x hm => poison_wf _ _ hm) w | exact fold_wf _ _ (fun m x hm => by split; exact poison_wf _ _ hm; exact hm) w | exact write_wf _ _ w | exact mark_wf _ _ _ (write_wf _ _ w)) | intro s hs | split)

theorem keeps_sealOn {a : State} (v0 : State) (v1 : CapRun) (v2 : ℕ) (v3 : Block) (v4 : Region) (h0 : Keeps a v0) : Keeps a (State.sealOn v0 v1 v2 v3 v4) := by
  unfold State.sealOn
  try dsimp only
  repeat' (first | with_reducible assumption | with_reducible exact Keeps.refl _ | with_reducible apply Keeps.ite | with_reducible apply KeepsRes.ite | with_reducible apply KeepsFst.ite | with_reducible apply KeepsSnd.ite | with_reducible apply keeps_fillFrame | with_reducible apply keeps_onBlock | with_reducible apply keeps_onKey | with_reducible apply keeps_useKey | (simp only [Keeps.lit]; with_reducible apply KeepsData.of) | (simp only [Keeps.lit]; with_reducible refine KeepsData.poke ?_ (fun w => ?_); rotate_left; first | exact mark_wf _ _ _ w | exact fold_wf _ _ (fun m x hm => poison_wf _ _ hm) w | exact fold_wf _ _ (fun m x hm => by split; exact poison_wf _ _ hm; exact hm) w | exact write_wf _ _ w | exact mark_wf _ _ _ (write_wf _ _ w)) | intro s hs | split)

theorem keeps_execCipherAssign {a : State} (v0 : ℕ) (v1 : State) (h0 : Keeps a v1) : KeepsOut a (execCipherAssign v0 v1) := by
  unfold execCipherAssign
  try dsimp only
  repeat' (first | with_reducible assumption | with_reducible exact Keeps.refl _ | with_reducible apply KeepsOut.next | with_reducible apply Keeps.ite | with_reducible apply KeepsRes.ite | with_reducible apply KeepsFst.ite | with_reducible apply KeepsSnd.ite | with_reducible apply keeps_wantDom | with_reducible apply keeps_sealOn | (simp only [Keeps.lit]; with_reducible apply KeepsData.of) | (simp only [Keeps.lit]; with_reducible refine KeepsData.poke ?_ (fun w => ?_); rotate_left; first | exact mark_wf _ _ _ w | exact fold_wf _ _ (fun m x hm => poison_wf _ _ hm) w | exact fold_wf _ _ (fun m x hm => by split; exact poison_wf _ _ hm; exact hm) w | exact write_wf _ _ w | exact mark_wf _ _ _ (write_wf _ _ w)) | intro s hs | split)

theorem keeps_execSealWaitTimeout {a : State} (v0 : State) (h0 : Keeps a v0) : KeepsOut a (execSealWaitTimeout v0) := by
  unfold execSealWaitTimeout
  try dsimp only
  repeat' (first | with_reducible assumption | with_reducible exact Keeps.refl _ | with_reducible apply KeepsOut.next | with_reducible apply Keeps.ite | with_reducible apply KeepsRes.ite | with_reducible apply KeepsFst.ite | with_reducible apply KeepsSnd.ite | with_reducible apply keeps_capFail | (simp only [Keeps.lit]; with_reducible apply KeepsData.of) | (simp only [Keeps.lit]; with_reducible refine KeepsData.poke ?_ (fun w => ?_); rotate_left; first | exact mark_wf _ _ _ w | exact fold_wf _ _ (fun m x hm => poison_wf _ _ hm) w | exact fold_wf _ _ (fun m x hm => by split; exact poison_wf _ _ hm; exact hm) w | exact write_wf _ _ w | exact mark_wf _ _ _ (write_wf _ _ w)) | intro s hs | split)

theorem keeps_coreFailed {a : State} (v0 : State) (v1 : ℕ) (h0 : Keeps a v0) : Keeps a (State.coreFailed v0 v1) := by
  unfold State.coreFailed
  try dsimp only
  repeat' (first | with_reducible assumption | with_reducible exact Keeps.refl _ | with_reducible apply Keeps.ite | with_reducible apply KeepsRes.ite | with_reducible apply KeepsFst.ite | with_reducible apply KeepsSnd.ite | with_reducible apply keeps_log | with_reducible apply keeps_raise | with_reducible apply keeps_onBlock | (simp only [Keeps.lit]; with_reducible apply KeepsData.of) | (simp only [Keeps.lit]; with_reducible refine KeepsData.poke ?_ (fun w => ?_); rotate_left; first | exact mark_wf _ _ _ w | exact fold_wf _ _ (fun m x hm => poison_wf _ _ hm) w | exact fold_wf _ _ (fun m x hm => by split; exact poison_wf _ _ hm; exact hm) w | exact write_wf _ _ w | exact mark_wf _ _ _ (write_wf _ _ w)) | intro s hs | split)

theorem keeps_execCipherCoreFail {a : State} (v0 : ℕ) (v1 : State) (h0 : Keeps a v1) : KeepsOut a (execCipherCoreFail v0 v1) := by
  unfold execCipherCoreFail
  try dsimp only
  repeat' (first | with_reducible assumption | with_reducible exact Keeps.refl _ | with_reducible apply KeepsOut.next | with_reducible apply Keeps.ite | with_reducible apply KeepsRes.ite | with_reducible apply KeepsFst.ite | with_reducible apply KeepsSnd.ite | with_reducible apply keeps_coreFailed | (simp only [Keeps.lit]; with_reducible apply KeepsData.of) | (simp only [Keeps.lit]; with_reducible refine KeepsData.poke ?_ (fun w => ?_); rotate_left; first | exact mark_wf _ _ _ w | exact fold_wf _ _ (fun m x hm => poison_wf _ _ hm) w | exact fold_wf _ _ (fun m x hm => by split; exact poison_wf _ _ hm; exact hm) w | exact write_wf _ _ w | exact mark_wf _ _ _ (write_wf _ _ w)) | intro s hs | split)

theorem keeps_staging {a : State} (v0 : State) (v1 : Access) (v2 : ℕ) (v3 : ℕ) (v4 : ℕ) (v5 : State → State) (h0 : Keeps a v0) (h1 : ∀ s, Keeps a s → Keeps a (v5 s)) : Keeps a (State.staging v0 v1 v2 v3 v4 v5) := by
  unfold State.staging
  try dsimp only
  repeat' (first | with_reducible assumption | with_reducible exact Keeps.refl _ | with_reducible apply Keeps.ite | with_reducible apply KeepsRes.ite | with_reducible apply KeepsFst.ite | with_reducible apply KeepsSnd.ite | with_reducible apply h1 | with_reducible apply keeps_answer | with_reducible apply keeps_logStatus | with_reducible apply keeps_refuse | (simp only [Keeps.lit]; with_reducible apply KeepsData.of) | (simp only [Keeps.lit]; with_reducible refine KeepsData.poke ?_ (fun w => ?_); rotate_left; first | exact mark_wf _ _ _ w | exact fold_wf _ _ (fun m x hm => poison_wf _ _ hm) w | exact fold_wf _ _ (fun m x hm => by split; exact poison_wf _ _ hm; exact hm) w | exact write_wf _ _ w | exact mark_wf _ _ _ (write_wf _ _ w)) | intro s hs | split)

theorem keeps_stageViol {a : State} (v0 : State) (v1 : Access) (v2 : ℕ) (h0 : Keeps a v0) : Keeps a (State.stageViol v0 v1 v2) := by
  unfold State.stageViol
  try dsimp only
  repeat' (first | with_reducible assumption | with_reducible exact Keeps.refl _ | with_reducible apply keeps_answer | with_reducible apply keeps_logPartner | (simp only [Keeps.lit]; with_reducible apply KeepsData.of))

theorem keeps_execStagingRead {a : State} (v0 : Access) (v1 : ℕ) (v2 : ℕ) (v3 : State) (h0 : Keeps a v3) : KeepsOut a (execStagingRead v0 v1 v2 v3) := by
  unfold execStagingRead
  try dsimp only
  repeat' (first | with_reducible assumption | with_reducible exact Keeps.refl _ | with_reducible apply KeepsOut.next | with_reducible apply Keeps.ite | with_reducible apply KeepsRes.ite | with_reducible apply KeepsFst.ite | with_reducible apply KeepsSnd.ite | with_reducible apply keeps_staging | with_reducible apply keeps_stageViol | with_reducible apply keeps_useTime | with_reducible apply keeps_answerRead | with_reducible apply keeps_serveRead | (simp only [Keeps.lit]; with_reducible apply KeepsData.of) | (simp only [Keeps.lit]; with_reducible refine KeepsData.poke ?_ (fun w => ?_); rotate_left; first | exact mark_wf _ _ _ w | exact fold_wf _ _ (fun m x hm => poison_wf _ _ hm) w | exact fold_wf _ _ (fun m x hm => by split; exact poison_wf _ _ hm; exact hm) w | exact write_wf _ _ w | exact mark_wf _ _ _ (write_wf _ _ w)) | intro s hs | split)

theorem keeps_execStagingWrite {a : State} (v0 : Access) (v1 : ℕ) (v2 : List Byte) (v3 : State) (h0 : Keeps a v3) : KeepsOut a (execStagingWrite v0 v1 v2 v3) := by
  unfold execStagingWrite
  try dsimp only
  repeat' (first | with_reducible assumption | with_reducible exact Keeps.refl _ | with_reducible apply KeepsOut.next | with_reducible apply Keeps.ite | with_reducible apply KeepsRes.ite | with_reducible apply KeepsFst.ite | with_reducible apply KeepsSnd.ite | with_reducible apply keeps_answer | with_reducible apply keeps_staging | with_reducible apply keeps_stageViol | (simp only [Keeps.lit]; with_reducible apply KeepsData.of) | (simp only [Keeps.lit]; with_reducible refine KeepsData.poke ?_ (fun w => ?_); rotate_left; first | exact mark_wf _ _ _ w | exact fold_wf _ _ (fun m x hm => poison_wf _ _ hm) w | exact fold_wf _ _ (fun m x hm => by split; exact poison_wf _ _ hm; exact hm) w | exact write_wf _ _ w | exact mark_wf _ _ _ (write_wf _ _ w)) | intro s hs | split)

theorem keeps_execStagingReadTimeout {a : State} (v0 : ℕ) (v1 : State) (h0 : Keeps a v1) : KeepsOut a (execStagingReadTimeout v0 v1) := by
  unfold execStagingReadTimeout
  try dsimp only
  repeat' (first | with_reducible assumption | with_reducible exact Keeps.refl _ | with_reducible apply KeepsOut.next | with_reducible apply Keeps.ite | with_reducible apply KeepsRes.ite | with_reducible apply KeepsFst.ite | with_reducible apply KeepsSnd.ite | with_reducible apply keeps_answer | with_reducible apply keeps_logStatus | with_reducible apply keeps_blockFailed | (simp only [Keeps.lit]; with_reducible apply KeepsData.of) | (simp only [Keeps.lit]; with_reducible refine KeepsData.poke ?_ (fun w => ?_); rotate_left; first | exact mark_wf _ _ _ w | exact fold_wf _ _ (fun m x hm => poison_wf _ _ hm) w | exact fold_wf _ _ (fun m x hm => by split; exact poison_wf _ _ hm; exact hm) w | exact write_wf _ _ w | exact mark_wf _ _ _ (write_wf _ _ w)) | intro s hs | split)

theorem keeps_execBlockWriteComplete {a : State} (v0 : ℕ) (v1 : ℕ) (v2 : State) (h0 : Keeps a v2) : KeepsOut a (execBlockWriteComplete v0 v1 v2) := by
  unfold execBlockWriteComplete
  try dsimp only
  repeat' (first | with_reducible assumption | with_reducible exact Keeps.refl _ | with_reducible apply KeepsOut.next | with_reducible apply Keeps.ite | with_reducible apply KeepsRes.ite | with_reducible apply KeepsFst.ite | with_reducible apply KeepsSnd.ite | with_reducible apply keeps_blockDone | (simp only [Keeps.lit]; with_reducible apply KeepsData.of) | (simp only [Keeps.lit]; with_reducible refine KeepsData.poke ?_ (fun w => ?_); rotate_left; first | exact mark_wf _ _ _ w | exact fold_wf _ _ (fun m x hm => poison_wf _ _ hm) w | exact fold_wf _ _ (fun m x hm => by split; exact poison_wf _ _ hm; exact hm) w | exact write_wf _ _ w | exact mark_wf _ _ _ (write_wf _ _ w)) | intro s hs | split)

theorem keeps_execBlockWriteFailed {a : State} (v0 : ℕ) (v1 : ℕ) (v2 : State) (h0 : Keeps a v2) : KeepsOut a (execBlockWriteFailed v0 v1 v2) := by
  unfold execBlockWriteFailed
  try dsimp only
  repeat' (first | with_reducible assumption | with_reducible exact Keeps.refl _ | with_reducible apply KeepsOut.next | with_reducible apply Keeps.ite | with_reducible apply KeepsRes.ite | with_reducible apply KeepsFst.ite | with_reducible apply KeepsSnd.ite | with_reducible apply keeps_blockFailed | (simp only [Keeps.lit]; with_reducible apply KeepsData.of) | (simp only [Keeps.lit]; with_reducible refine KeepsData.poke ?_ (fun w => ?_); rotate_left; first | exact mark_wf _ _ _ w | exact fold_wf _ _ (fun m x hm => poison_wf _ _ hm) w | exact fold_wf _ _ (fun m x hm => by split; exact poison_wf _ _ hm; exact hm) w | exact write_wf _ _ w | exact mark_wf _ _ _ (write_wf _ _ w)) | intro s hs | split)

theorem keeps_execCopyComplete {a : State} (v0 : ℕ) (v1 : State) (h0 : Keeps a v1) : KeepsOut a (execCopyComplete v0 v1) := by
  unfold execCopyComplete
  try dsimp only
  repeat' (first | with_reducible assumption | with_reducible exact Keeps.refl _ | with_reducible apply KeepsOut.next | with_reducible apply Keeps.ite | with_reducible apply KeepsRes.ite | with_reducible apply KeepsFst.ite | with_reducible apply KeepsSnd.ite | with_reducible apply keeps_releaseGran | with_reducible apply keeps_onSt | (simp only [Keeps.lit]; with_reducible apply KeepsData.of) | (simp only [Keeps.lit]; with_reducible refine KeepsData.poke ?_ (fun w => ?_); rotate_left; first | exact mark_wf _ _ _ w | exact fold_wf _ _ (fun m x hm => poison_wf _ _ hm) w | exact fold_wf _ _ (fun m x hm => by split; exact poison_wf _ _ hm; exact hm) w | exact write_wf _ _ w | exact mark_wf _ _ _ (write_wf _ _ w)) | intro s hs | split)

theorem keeps_execHeldWriteLimit {a : State} (v0 : ℕ) (v1 : State) (h0 : Keeps a v1) : KeepsOut a (execHeldWriteLimit v0 v1) := by
  unfold execHeldWriteLimit
  try dsimp only
  repeat' (first | with_reducible assumption | with_reducible exact Keeps.refl _ | with_reducible apply KeepsOut.next | with_reducible apply Keeps.ite | with_reducible apply KeepsRes.ite | with_reducible apply KeepsFst.ite | with_reducible apply KeepsSnd.ite | with_reducible apply keeps_releaseAll | with_reducible apply keeps_capFail | (simp only [Keeps.lit]; with_reducible apply KeepsData.of) | (simp only [Keeps.lit]; with_reducible refine KeepsData.poke ?_ (fun w => ?_); rotate_left; first | exact mark_wf _ _ _ w | exact fold_wf _ _ (fun m x hm => poison_wf _ _ hm) w | exact fold_wf _ _ (fun m x hm => by split; exact poison_wf _ _ hm; exact hm) w | exact write_wf _ _ w | exact mark_wf _ _ _ (write_wf _ _ w)) | intro s hs | split)

theorem keeps_loseMover {a : State} (v0 : State) (v1 : ℕ) (h0 : Keeps a v0) : Keeps a (State.loseMover v0 v1) := by
  unfold State.loseMover
  try dsimp only
  repeat' (first | with_reducible assumption | with_reducible exact Keeps.refl _ | with_reducible apply Keeps.ite | with_reducible apply KeepsRes.ite | with_reducible apply KeepsFst.ite | with_reducible apply KeepsSnd.ite | with_reducible apply KeepsFst.mk | with_reducible apply KeepsSnd.mk | with_reducible apply KeepsRes.mk | with_reducible apply Keeps.id | with_reducible apply keeps_onSt | with_reducible apply keeps_releaseAll | with_reducible apply keeps_relevelAll | with_reducible apply keeps_loseGuard | with_reducible apply keeps_capFail | (with_reducible refine Keeps.foldl _ ?_ ?_; intro s x hs; try dsimp only) | (with_reducible refine Keeps.foldl1 _ ?_ ?_; (intro p x hs; replace hs := KeepsFst.fst hs; try dsimp only)) | (with_reducible refine Keeps.foldl2 _ ?_ ?_; (intro p x hs; replace hs := KeepsSnd.snd hs; try dsimp only)) | (with_reducible refine KeepsFst.foldl _ ?_ ?_; (intro p x hs; replace hs := KeepsFst.fst hs; try dsimp only)) | (with_reducible refine KeepsSnd.foldl _ ?_ ?_; (intro p x hs; replace hs := KeepsSnd.snd hs; try dsimp only)) | (simp only [Keeps.lit]; with_reducible apply KeepsData.of) | (simp only [Keeps.lit]; with_reducible refine KeepsData.poke ?_ (fun w => ?_); rotate_left; first | exact mark_wf _ _ _ w | exact fold_wf _ _ (fun m x hm => poison_wf _ _ hm) w | exact fold_wf _ _ (fun m x hm => by split; exact poison_wf _ _ hm; exact hm) w | exact write_wf _ _ w | exact mark_wf _ _ _ (write_wf _ _ w)) | intro s hs | split | (with_reducible apply KeepsSnd.eq; with_reducible assumption) | (with_reducible apply KeepsFst.eq; with_reducible assumption))

theorem keeps_execMoverLoss {a : State} (v0 : ℕ) (v1 : State) (h0 : Keeps a v1) : KeepsOut a (execMoverLoss v0 v1) := by
  unfold execMoverLoss
  try dsimp only
  repeat' (first | with_reducible assumption | with_reducible exact Keeps.refl _ | with_reducible apply KeepsOut.next | with_reducible apply Keeps.ite | with_reducible apply KeepsRes.ite | with_reducible apply KeepsFst.ite | with_reducible apply KeepsSnd.ite | with_reducible apply keeps_loseMover | (simp only [Keeps.lit]; with_reducible apply KeepsData.of) | (simp only [Keeps.lit]; with_reducible refine KeepsData.poke ?_ (fun w => ?_); rotate_left; first | exact mark_wf _ _ _ w | exact fold_wf _ _ (fun m x hm => poison_wf _ _ hm) w | exact fold_wf _ _ (fun m x hm => by split; exact poison_wf _ _ hm; exact hm) w | exact write_wf _ _ w | exact mark_wf _ _ _ (write_wf _ _ w)) | intro s hs | split)

theorem keeps_kWrite {a : State} (v0 : State) (v1 : ℕ) (v2 : ℕ) (v3 : List Byte) (h0 : Keeps a v0) : Keeps a (State.kWrite v0 v1 v2 v3) := by
  unfold State.kWrite
  try dsimp only
  repeat' (first | with_reducible assumption | with_reducible exact Keeps.refl _ | with_reducible apply Keeps.ite | with_reducible apply KeepsRes.ite | with_reducible apply KeepsFst.ite | with_reducible apply KeepsSnd.ite | with_reducible apply keeps_setGran | with_reducible apply keeps_poke | with_reducible apply keeps_track | with_reducible apply keeps_track' | (with_reducible refine keeps_track_e (by with_reducible assumption) ?_) | with_reducible apply keeps_takeNow | (simp only [Keeps.lit]; with_reducible apply KeepsData.of) | (simp only [Keeps.lit]; with_reducible refine KeepsData.poke ?_ (fun w => ?_); rotate_left; first | exact mark_wf _ _ _ w | exact fold_wf _ _ (fun m x hm => poison_wf _ _ hm) w | exact fold_wf _ _ (fun m x hm => by split; exact poison_wf _ _ hm; exact hm) w | exact write_wf _ _ w | exact mark_wf _ _ _ (write_wf _ _ w)) | intro s hs | split)

theorem keeps_kUndef {a : State} (v0 : State) (v1 : ℕ) (h0 : Keeps a v0) : Keeps a (State.kUndef v0 v1) := by
  unfold State.kUndef
  try dsimp only
  repeat' (first | with_reducible assumption | with_reducible exact Keeps.refl _ | with_reducible apply keeps_kWrite | (simp only [Keeps.lit]; with_reducible apply KeepsData.of))

theorem keeps_undefBuf {a : State} (v0 : State) (v1 : ℕ) (v2 : ℕ) (h0 : Keeps a v0) : Keeps a (State.undefBuf v0 v1 v2) := by
  unfold State.undefBuf
  try dsimp only
  repeat' (first | with_reducible assumption | with_reducible exact Keeps.refl _ | with_reducible apply keeps_poke | (simp only [Keeps.lit]; with_reducible apply KeepsData.of))

end Sys2Proof.Laws
end

