-- ==== Sys2Proof/Laws/KeepsStore.lean ====
section
/-! SUPPORT. Every function of Machine/Store.lean that answers a state keeps what no command may change. -/

namespace Sys2Proof.Laws
open Sys2Proof Sys2Proof.Machine
set_option linter.unreachableTactic false
set_option linter.unusedTactic false
set_option linter.unusedVariables false
set_option linter.unusedSimpArgs false
set_option maxRecDepth 4000

theorem keeps_extendSg {a : State} (v0 : State) (v1 : ℕ) (v2 : List Byte) (h0 : Keeps a v0) : Keeps a (State.extendSg v0 v1 v2) := by
  unfold State.extendSg
  try dsimp only
  repeat' (first | with_reducible assumption | with_reducible exact Keeps.refl _ | (simp only [Keeps.lit]; with_reducible apply KeepsData.of))

theorem keeps_execCaptureCommit {a : State} (v0 : Ext) (v1 : State) (h0 : Keeps a v1) : KeepsOut a (execCaptureCommit v0 v1) := by
  unfold execCaptureCommit
  try dsimp only
  repeat' (first | with_reducible assumption | with_reducible exact Keeps.refl _ | with_reducible apply KeepsOut.next | with_reducible apply Keeps.ite | with_reducible apply KeepsRes.ite | with_reducible apply KeepsFst.ite | with_reducible apply KeepsSnd.ite | with_reducible apply keeps_capReport | with_reducible apply keeps_extendSg | with_reducible apply keeps_onKey | with_reducible apply keeps_onMedia | with_reducible apply keeps_capFail | (simp only [Keeps.lit]; with_reducible apply KeepsData.of) | (simp only [Keeps.lit]; with_reducible refine KeepsData.poke ?_ (fun w => ?_); rotate_left; first | exact mark_wf _ _ _ w | exact fold_wf _ _ (fun m x hm => poison_wf _ _ hm) w | exact fold_wf _ _ (fun m x hm => by split; exact poison_wf _ _ hm; exact hm) w | exact write_wf _ _ w | exact mark_wf _ _ _ (write_wf _ _ w)) | intro s hs | split)

theorem keeps_storeRefuse {a : State} (v0 : State) (v1 : Sub) (v2 : Ext) (h0 : Keeps a v0) : KeepsOpt Res.s a (State.storeRefuse v0 v1 v2) := by
  unfold State.storeRefuse
  try dsimp only
  repeat' (first | with_reducible assumption | with_reducible exact Keeps.refl _ | with_reducible apply Keeps.ite | with_reducible apply KeepsRes.ite | with_reducible apply KeepsFst.ite | with_reducible apply KeepsSnd.ite | with_reducible apply KeepsRes.mk | (with_reducible refine KeepsOpt.map (k := Prod.snd) ?_ (fun _ h => h)) | with_reducible apply KeepsOpt.ite | with_reducible exact KeepsOpt.none | with_reducible apply KeepsOpt.some | with_reducible apply keeps_reject | with_reducible apply keeps_reject' | with_reducible apply keeps_fail | with_reducible apply keeps_fail' | (simp only [Keeps.lit]; with_reducible apply KeepsData.of) | (simp only [Keeps.lit]; with_reducible refine KeepsData.poke ?_ (fun w => ?_); rotate_left; first | exact mark_wf _ _ _ w | exact fold_wf _ _ (fun m x hm => poison_wf _ _ hm) w | exact fold_wf _ _ (fun m x hm => by split; exact poison_wf _ _ hm; exact hm) w | exact write_wf _ _ w | exact mark_wf _ _ _ (write_wf _ _ w)) | split | intro s hs)
theorem keeps_storeRefuse_e {a : State} {v0 : State} {v1 : Sub} {v2 : Ext} {b : _} (e : State.storeRefuse v0 v1 v2 = some b) (h0 : Keeps a v0) : Keeps a b.s := KeepsOpt.eq e (keeps_storeRefuse v0 v1 v2 h0)

theorem keeps_bodyStoreCreate {a : State} (v0 : Sub) (v1 : Ext) (v2 : State) (h0 : Keeps a v2) : KeepsRes a (bodyStoreCreate v0 v1 v2) := by
  unfold bodyStoreCreate
  try dsimp only
  repeat' (first | with_reducible assumption | with_reducible exact Keeps.refl _ | with_reducible apply Keeps.ite | with_reducible apply KeepsRes.ite | with_reducible apply KeepsFst.ite | with_reducible apply KeepsSnd.ite | with_reducible apply KeepsFst.mk | with_reducible apply KeepsSnd.mk | with_reducible apply KeepsRes.mk | with_reducible apply keeps_storeRefuse | (with_reducible refine keeps_storeRefuse_e (by with_reducible assumption) ?_) | with_reducible apply keeps_draw | with_reducible apply keeps_draw' | (with_reducible refine keeps_draw_e (by with_reducible assumption) ?_) | with_reducible apply keeps_badParam | with_reducible apply keeps_badParam' | with_reducible apply keeps_ended | with_reducible apply keeps_ended' | with_reducible apply keeps_fail | with_reducible apply keeps_fail' | (simp only [Keeps.lit]; with_reducible apply KeepsData.of) | (simp only [Keeps.lit]; with_reducible refine KeepsData.poke ?_ (fun w => ?_); rotate_left; first | exact mark_wf _ _ _ w | exact fold_wf _ _ (fun m x hm => poison_wf _ _ hm) w | exact fold_wf _ _ (fun m x hm => by split; exact poison_wf _ _ hm; exact hm) w | exact write_wf _ _ w | exact mark_wf _ _ _ (write_wf _ _ w)) | intro s hs | split)
theorem keeps_bodyStoreCreate' {a : State} (v0 : Sub) (v1 : Ext) (v2 : State) (h0 : Keeps a v2) : Keeps a (bodyStoreCreate v0 v1 v2).s := keeps_bodyStoreCreate v0 v1 v2 h0

theorem keeps_bodyStoreMount {a : State} (v0 : Sub) (v1 : Ext) (v2 : State) (h0 : Keeps a v2) : KeepsRes a (bodyStoreMount v0 v1 v2) := by
  unfold bodyStoreMount
  try dsimp only
  repeat' (first | with_reducible assumption | with_reducible exact Keeps.refl _ | with_reducible apply Keeps.ite | with_reducible apply KeepsRes.ite | with_reducible apply KeepsFst.ite | with_reducible apply KeepsSnd.ite | with_reducible apply KeepsRes.mk | with_reducible apply keeps_storeRefuse | (with_reducible refine keeps_storeRefuse_e (by with_reducible assumption) ?_) | with_reducible apply keeps_badParam | with_reducible apply keeps_badParam' | with_reducible apply keeps_ended | with_reducible apply keeps_ended' | with_reducible apply keeps_fail | with_reducible apply keeps_fail' | (simp only [Keeps.lit]; with_reducible apply KeepsData.of) | (simp only [Keeps.lit]; with_reducible refine KeepsData.poke ?_ (fun w => ?_); rotate_left; first | exact mark_wf _ _ _ w | exact fold_wf _ _ (fun m x hm => poison_wf _ _ hm) w | exact fold_wf _ _ (fun m x hm => by split; exact poison_wf _ _ hm; exact hm) w | exact write_wf _ _ w | exact mark_wf _ _ _ (write_wf _ _ w)) | intro s hs | split)
theorem keeps_bodyStoreMount' {a : State} (v0 : Sub) (v1 : Ext) (v2 : State) (h0 : Keeps a v2) : Keeps a (bodyStoreMount v0 v1 v2).s := keeps_bodyStoreMount v0 v1 v2 h0

theorem keeps_bodyStoreDelete {a : State} (v0 : Sub) (v1 : Ext) (v2 : State) (h0 : Keeps a v2) : KeepsRes a (bodyStoreDelete v0 v1 v2) := by
  unfold bodyStoreDelete
  try dsimp only
  repeat' (first | with_reducible assumption | with_reducible exact Keeps.refl _ | with_reducible apply Keeps.ite | with_reducible apply KeepsRes.ite | with_reducible apply KeepsFst.ite | with_reducible apply KeepsSnd.ite | with_reducible apply KeepsRes.mk | with_reducible apply keeps_done | with_reducible apply keeps_done' | with_reducible apply keeps_ended | with_reducible apply keeps_ended' | with_reducible apply keeps_fail | with_reducible apply keeps_fail' | with_reducible apply keeps_onMedia | (simp only [Keeps.lit]; with_reducible apply KeepsData.of) | (simp only [Keeps.lit]; with_reducible refine KeepsData.poke ?_ (fun w => ?_); rotate_left; first | exact mark_wf _ _ _ w | exact fold_wf _ _ (fun m x hm => poison_wf _ _ hm) w | exact fold_wf _ _ (fun m x hm => by split; exact poison_wf _ _ hm; exact hm) w | exact write_wf _ _ w | exact mark_wf _ _ _ (write_wf _ _ w)) | intro s hs | split)
theorem keeps_bodyStoreDelete' {a : State} (v0 : Sub) (v1 : Ext) (v2 : State) (h0 : Keeps a v2) : Keeps a (bodyStoreDelete v0 v1 v2).s := keeps_bodyStoreDelete v0 v1 v2 h0

theorem keeps_endStorage {a : State} (v0 : State) (v1 : List ℕ) (v2 : BitVec 16) (h0 : Keeps a v0) : Keeps a (State.endStorage v0 v1 v2) := by
  unfold State.endStorage
  try dsimp only
  repeat' (first | with_reducible assumption | with_reducible exact Keeps.refl _ | with_reducible apply Keeps.ite | with_reducible apply KeepsRes.ite | with_reducible apply KeepsFst.ite | with_reducible apply KeepsSnd.ite | with_reducible apply KeepsFst.mk | with_reducible apply KeepsSnd.mk | with_reducible apply KeepsRes.mk | with_reducible apply Keeps.id | with_reducible apply keeps_waitEnd | with_reducible apply keeps_capFail | (with_reducible refine Keeps.foldl _ ?_ ?_; intro s x hs; try dsimp only) | (with_reducible refine Keeps.foldl1 _ ?_ ?_; (intro p x hs; replace hs := KeepsFst.fst hs; try dsimp only)) | (with_reducible refine Keeps.foldl2 _ ?_ ?_; (intro p x hs; replace hs := KeepsSnd.snd hs; try dsimp only)) | (with_reducible refine KeepsFst.foldl _ ?_ ?_; (intro p x hs; replace hs := KeepsFst.fst hs; try dsimp only)) | (with_reducible refine KeepsSnd.foldl _ ?_ ?_; (intro p x hs; replace hs := KeepsSnd.snd hs; try dsimp only)) | (simp only [Keeps.lit]; with_reducible apply KeepsData.of) | (simp only [Keeps.lit]; with_reducible refine KeepsData.poke ?_ (fun w => ?_); rotate_left; first | exact mark_wf _ _ _ w | exact fold_wf _ _ (fun m x hm => poison_wf _ _ hm) w | exact fold_wf _ _ (fun m x hm => by split; exact poison_wf _ _ hm; exact hm) w | exact write_wf _ _ w | exact mark_wf _ _ _ (write_wf _ _ w)) | intro s hs | split | (with_reducible apply KeepsSnd.eq; with_reducible assumption) | (with_reducible apply KeepsFst.eq; with_reducible assumption))

theorem keeps_disableCtrl {a : State} (v0 : State) (v1 : ℕ) (h0 : Keeps a v0) : Keeps a (State.disableCtrl v0 v1) := by
  unfold State.disableCtrl
  try dsimp only
  repeat' (first | with_reducible assumption | with_reducible exact Keeps.refl _ | with_reducible apply keeps_onNvme | with_reducible apply keeps_endStorage | (simp only [Keeps.lit]; with_reducible apply KeepsData.of))

theorem keeps_violNvme {a : State} (v0 : State) (v1 : ℕ) (v2 : List Byte) (h0 : Keeps a v0) : Keeps a (State.violNvme v0 v1 v2) := by
  unfold State.violNvme
  try dsimp only
  repeat' (first | with_reducible assumption | with_reducible exact Keeps.refl _ | with_reducible apply Keeps.ite | with_reducible apply KeepsRes.ite | with_reducible apply KeepsFst.ite | with_reducible apply KeepsSnd.ite | with_reducible apply keeps_disableCtrl | with_reducible apply keeps_onNvme | with_reducible apply keeps_logPartner | (simp only [Keeps.lit]; with_reducible apply KeepsData.of) | (simp only [Keeps.lit]; with_reducible refine KeepsData.poke ?_ (fun w => ?_); rotate_left; first | exact mark_wf _ _ _ w | exact fold_wf _ _ (fun m x hm => poison_wf _ _ hm) w | exact fold_wf _ _ (fun m x hm => by split; exact poison_wf _ _ hm; exact hm) w | exact write_wf _ _ w | exact mark_wf _ _ _ (write_wf _ _ w)) | intro s hs | split)

theorem keeps_bodyStorageAttach {a : State} (v0 : Sub) (v1 : Ext) (v2 : CtrlInfo) (v3 : State) (h0 : Keeps a v3) : KeepsRes a (bodyStorageAttach v0 v1 v2 v3) := by
  unfold bodyStorageAttach
  try dsimp only
  repeat' (first | with_reducible assumption | with_reducible exact Keeps.refl _ | with_reducible apply Keeps.ite | with_reducible apply KeepsRes.ite | with_reducible apply KeepsFst.ite | with_reducible apply KeepsSnd.ite | with_reducible apply KeepsRes.mk | with_reducible apply keeps_disableCtrl | with_reducible apply keeps_onNvme | with_reducible apply keeps_ended | with_reducible apply keeps_ended' | with_reducible apply keeps_fail | with_reducible apply keeps_fail' | (simp only [Keeps.lit]; with_reducible apply KeepsData.of) | (simp only [Keeps.lit]; with_reducible refine KeepsData.poke ?_ (fun w => ?_); rotate_left; first | exact mark_wf _ _ _ w | exact fold_wf _ _ (fun m x hm => poison_wf _ _ hm) w | exact fold_wf _ _ (fun m x hm => by split; exact poison_wf _ _ hm; exact hm) w | exact write_wf _ _ w | exact mark_wf _ _ _ (write_wf _ _ w)) | intro s hs | split)
theorem keeps_bodyStorageAttach' {a : State} (v0 : Sub) (v1 : Ext) (v2 : CtrlInfo) (v3 : State) (h0 : Keeps a v3) : Keeps a (bodyStorageAttach v0 v1 v2 v3).s := keeps_bodyStorageAttach v0 v1 v2 v3 h0

theorem keeps_bodyStorageDetach {a : State} (v0 : Sub) (v1 : State) (h0 : Keeps a v1) : KeepsRes a (bodyStorageDetach v0 v1) := by
  unfold bodyStorageDetach
  try dsimp only
  repeat' (first | with_reducible assumption | with_reducible exact Keeps.refl _ | with_reducible apply Keeps.ite | with_reducible apply KeepsRes.ite | with_reducible apply KeepsFst.ite | with_reducible apply KeepsSnd.ite | with_reducible apply KeepsRes.mk | with_reducible apply keeps_done | with_reducible apply keeps_done' | with_reducible apply keeps_onNvme | with_reducible apply keeps_fail | with_reducible apply keeps_fail' | (simp only [Keeps.lit]; with_reducible apply KeepsData.of) | (simp only [Keeps.lit]; with_reducible refine KeepsData.poke ?_ (fun w => ?_); rotate_left; first | exact mark_wf _ _ _ w | exact fold_wf _ _ (fun m x hm => poison_wf _ _ hm) w | exact fold_wf _ _ (fun m x hm => by split; exact poison_wf _ _ hm; exact hm) w | exact write_wf _ _ w | exact mark_wf _ _ _ (write_wf _ _ w)) | intro s hs | split)
theorem keeps_bodyStorageDetach' {a : State} (v0 : Sub) (v1 : State) (h0 : Keeps a v1) : Keeps a (bodyStorageDetach v0 v1).s := keeps_bodyStorageDetach v0 v1 h0

theorem keeps_execNvmeCompletion {a : State} (v0 : ℕ) (v1 : Cqe) (v2 : State) (h0 : Keeps a v2) : KeepsOut a (execNvmeCompletion v0 v1 v2) := by
  unfold execNvmeCompletion
  try dsimp only
  repeat' (first | with_reducible assumption | with_reducible exact Keeps.refl _ | with_reducible apply KeepsOut.next | with_reducible apply Keeps.ite | with_reducible apply KeepsRes.ite | with_reducible apply KeepsFst.ite | with_reducible apply KeepsSnd.ite | with_reducible apply keeps_blockDone | with_reducible apply keeps_onNvme | with_reducible apply keeps_blockFailed | with_reducible apply keeps_violNvme | (simp only [Keeps.lit]; with_reducible apply KeepsData.of) | (simp only [Keeps.lit]; with_reducible refine KeepsData.poke ?_ (fun w => ?_); rotate_left; first | exact mark_wf _ _ _ w | exact fold_wf _ _ (fun m x hm => poison_wf _ _ hm) w | exact fold_wf _ _ (fun m x hm => by split; exact poison_wf _ _ hm; exact hm) w | exact write_wf _ _ w | exact mark_wf _ _ _ (write_wf _ _ w)) | intro s hs | split)

theorem keeps_execNvmeCommandTimeout {a : State} (v0 : ℕ) (v1 : ℕ) (v2 : State) (h0 : Keeps a v2) : KeepsOut a (execNvmeCommandTimeout v0 v1 v2) := by
  unfold execNvmeCommandTimeout
  try dsimp only
  repeat' (first | with_reducible assumption | with_reducible exact Keeps.refl _ | with_reducible apply KeepsOut.next | with_reducible apply Keeps.ite | with_reducible apply KeepsRes.ite | with_reducible apply KeepsFst.ite | with_reducible apply KeepsSnd.ite | with_reducible apply keeps_logStatus | with_reducible apply keeps_disableCtrl | with_reducible apply keeps_onNvme | with_reducible apply keeps_violNvme | (simp only [Keeps.lit]; with_reducible apply KeepsData.of) | (simp only [Keeps.lit]; with_reducible refine KeepsData.poke ?_ (fun w => ?_); rotate_left; first | exact mark_wf _ _ _ w | exact fold_wf _ _ (fun m x hm => poison_wf _ _ hm) w | exact fold_wf _ _ (fun m x hm => by split; exact poison_wf _ _ hm; exact hm) w | exact write_wf _ _ w | exact mark_wf _ _ _ (write_wf _ _ w)) | intro s hs | split)

theorem keeps_execNvmeSmartPoll {a : State} (v0 : ℕ) (v1 : List Byte) (v2 : BitVec 8) (v3 : State) (h0 : Keeps a v3) : KeepsOut a (execNvmeSmartPoll v0 v1 v2 v3) := by
  unfold execNvmeSmartPoll
  try dsimp only
  repeat' (first | with_reducible assumption | with_reducible exact Keeps.refl _ | with_reducible apply KeepsOut.next | with_reducible apply Keeps.ite | with_reducible apply KeepsRes.ite | with_reducible apply KeepsFst.ite | with_reducible apply KeepsSnd.ite | with_reducible apply keeps_onNvme | with_reducible apply keeps_log | (simp only [Keeps.lit]; with_reducible apply KeepsData.of) | (simp only [Keeps.lit]; with_reducible refine KeepsData.poke ?_ (fun w => ?_); rotate_left; first | exact mark_wf _ _ _ w | exact fold_wf _ _ (fun m x hm => poison_wf _ _ hm) w | exact fold_wf _ _ (fun m x hm => by split; exact poison_wf _ _ hm; exact hm) w | exact write_wf _ _ w | exact mark_wf _ _ _ (write_wf _ _ w)) | intro s hs | split)

theorem keeps_execJournalCheckpoint {a : State} (v0 : ℕ) (v1 : Ext) (v2 : State) (h0 : Keeps a v2) : KeepsOut a (execJournalCheckpoint v0 v1 v2) := by
  unfold execJournalCheckpoint
  try dsimp only
  repeat' (first | with_reducible assumption | with_reducible exact Keeps.refl _ | with_reducible apply KeepsOut.next | with_reducible apply Keeps.ite | with_reducible apply KeepsRes.ite | with_reducible apply KeepsFst.ite | with_reducible apply KeepsSnd.ite | with_reducible apply keeps_logStatus | with_reducible apply keeps_onMedia | (simp only [Keeps.lit]; with_reducible apply KeepsData.of) | (simp only [Keeps.lit]; with_reducible refine KeepsData.poke ?_ (fun w => ?_); rotate_left; first | exact mark_wf _ _ _ w | exact fold_wf _ _ (fun m x hm => poison_wf _ _ hm) w | exact fold_wf _ _ (fun m x hm => by split; exact poison_wf _ _ hm; exact hm) w | exact write_wf _ _ w | exact mark_wf _ _ _ (write_wf _ _ w)) | intro s hs | split)

theorem keeps_execGcCompact {a : State} (v0 : ℕ) (v1 : ℕ) (v2 : Ext) (v3 : State) (h0 : Keeps a v3) : KeepsOut a (execGcCompact v0 v1 v2 v3) := by
  unfold execGcCompact
  try dsimp only
  repeat' (first | with_reducible assumption | with_reducible exact Keeps.refl _ | with_reducible apply KeepsOut.next | with_reducible apply Keeps.ite | with_reducible apply KeepsRes.ite | with_reducible apply KeepsFst.ite | with_reducible apply KeepsSnd.ite | with_reducible apply keeps_onMedia | (simp only [Keeps.lit]; with_reducible apply KeepsData.of) | (simp only [Keeps.lit]; with_reducible refine KeepsData.poke ?_ (fun w => ?_); rotate_left; first | exact mark_wf _ _ _ w | exact fold_wf _ _ (fun m x hm => poison_wf _ _ hm) w | exact fold_wf _ _ (fun m x hm => by split; exact poison_wf _ _ hm; exact hm) w | exact write_wf _ _ w | exact mark_wf _ _ _ (write_wf _ _ w)) | intro s hs | split)

theorem keeps_execStoreCreate {a : State} (v0 : Sub) (v1 : Ext) (v2 : State) (h0 : Keeps a v2) : KeepsOut a (execStoreCreate v0 v1 v2) := by
  unfold execStoreCreate
  try dsimp only
  repeat' (first | with_reducible assumption | with_reducible exact Keeps.refl _ | with_reducible apply KeepsOut.next | with_reducible apply keeps_runOp | with_reducible apply keeps_bodyStoreCreate | with_reducible apply keeps_bodyStoreCreate' | (simp only [Keeps.lit]; with_reducible apply KeepsData.of))

theorem keeps_execStoreMount {a : State} (v0 : Sub) (v1 : Ext) (v2 : State) (h0 : Keeps a v2) : KeepsOut a (execStoreMount v0 v1 v2) := by
  unfold execStoreMount
  try dsimp only
  repeat' (first | with_reducible assumption | with_reducible exact Keeps.refl _ | with_reducible apply KeepsOut.next | with_reducible apply keeps_runOp | with_reducible apply keeps_bodyStoreMount | with_reducible apply keeps_bodyStoreMount' | (simp only [Keeps.lit]; with_reducible apply KeepsData.of))

theorem keeps_execStoreUnmount {a : State} (v0 : Sub) (v1 : Ext) (v2 : State) (h0 : Keeps a v2) : KeepsOut a (execStoreUnmount v0 v1 v2) := by
  unfold execStoreUnmount
  try dsimp only
  repeat' (first | with_reducible assumption | with_reducible exact Keeps.refl _ | with_reducible apply KeepsOut.next | with_reducible apply keeps_runOp | with_reducible apply keeps_bodyStoreDelete | with_reducible apply keeps_bodyStoreDelete' | (simp only [Keeps.lit]; with_reducible apply KeepsData.of))

theorem keeps_execStoreDelete {a : State} (v0 : Sub) (v1 : Ext) (v2 : State) (h0 : Keeps a v2) : KeepsOut a (execStoreDelete v0 v1 v2) := by
  unfold execStoreDelete
  try dsimp only
  repeat' (first | with_reducible assumption | with_reducible exact Keeps.refl _ | with_reducible apply KeepsOut.next | with_reducible apply keeps_runOp | with_reducible apply keeps_bodyStoreDelete | with_reducible apply keeps_bodyStoreDelete' | (simp only [Keeps.lit]; with_reducible apply KeepsData.of))

theorem keeps_execStorageAttach {a : State} (v0 : Sub) (v1 : Ext) (v2 : CtrlInfo) (v3 : State) (h0 : Keeps a v3) : KeepsOut a (execStorageAttach v0 v1 v2 v3) := by
  unfold execStorageAttach
  try dsimp only
  repeat' (first | with_reducible assumption | with_reducible exact Keeps.refl _ | with_reducible apply KeepsOut.next | with_reducible apply keeps_runOp | with_reducible apply keeps_bodyStorageAttach | with_reducible apply keeps_bodyStorageAttach' | (simp only [Keeps.lit]; with_reducible apply KeepsData.of))

theorem keeps_execStorageDetach {a : State} (v0 : Sub) (v1 : Ext) (v2 : State) (h0 : Keeps a v2) : KeepsOut a (execStorageDetach v0 v1 v2) := by
  unfold execStorageDetach
  try dsimp only
  repeat' (first | with_reducible assumption | with_reducible exact Keeps.refl _ | with_reducible apply KeepsOut.next | with_reducible apply keeps_runOp | with_reducible apply keeps_bodyStorageDetach | with_reducible apply keeps_bodyStorageDetach' | (simp only [Keeps.lit]; with_reducible apply KeepsData.of))

end Sys2Proof.Laws
end

