-- ==== Sys2Proof/Laws/KeepsRestore.lean ====
section
/-! SUPPORT. Every function of Machine/Restore.lean that answers a state keeps what no command may change. -/

namespace Sys2Proof.Laws
open Sys2Proof Sys2Proof.Machine
set_option linter.unreachableTactic false
set_option linter.unusedTactic false
set_option linter.unusedVariables false
set_option linter.unusedSimpArgs false
set_option maxRecDepth 4000

theorem keeps_objectSet {a : State} (v0 : State) (v1 : ℕ) (v2 : StoredObj) (h0 : Keeps a v0) : KeepsSnd a (State.objectSet v0 v1 v2) := by
  unfold State.objectSet
  try dsimp only
  repeat' (first | with_reducible assumption | with_reducible exact Keeps.refl _ | with_reducible apply Keeps.ite | with_reducible apply KeepsRes.ite | with_reducible apply KeepsFst.ite | with_reducible apply KeepsSnd.ite | with_reducible apply KeepsFst.mk | with_reducible apply KeepsSnd.mk | with_reducible apply KeepsRes.mk | with_reducible apply Keeps.id | with_reducible apply keeps_log | (with_reducible refine Keeps.foldl _ ?_ ?_; intro s x hs; try dsimp only) | (with_reducible refine Keeps.foldl1 _ ?_ ?_; (intro p x hs; replace hs := KeepsFst.fst hs; try dsimp only)) | (with_reducible refine Keeps.foldl2 _ ?_ ?_; (intro p x hs; replace hs := KeepsSnd.snd hs; try dsimp only)) | (with_reducible refine KeepsFst.foldl _ ?_ ?_; (intro p x hs; replace hs := KeepsFst.fst hs; try dsimp only)) | (with_reducible refine KeepsSnd.foldl _ ?_ ?_; (intro p x hs; replace hs := KeepsSnd.snd hs; try dsimp only)) | (simp only [Keeps.lit]; with_reducible apply KeepsData.of) | (simp only [Keeps.lit]; with_reducible refine KeepsData.poke ?_ (fun w => ?_); rotate_left; first | exact mark_wf _ _ _ w | exact fold_wf _ _ (fun m x hm => poison_wf _ _ hm) w | exact fold_wf _ _ (fun m x hm => by split; exact poison_wf _ _ hm; exact hm) w | exact write_wf _ _ w | exact mark_wf _ _ _ (write_wf _ _ w)) | intro s hs | split | (with_reducible apply KeepsSnd.eq; with_reducible assumption) | (with_reducible apply KeepsFst.eq; with_reducible assumption))
theorem keeps_objectSet' {a : State} (v0 : State) (v1 : ℕ) (v2 : StoredObj) (h0 : Keeps a v0) : Keeps a (State.objectSet v0 v1 v2).2 := keeps_objectSet v0 v1 v2 h0
theorem keeps_objectSet_e {a t : State} {v0 : State} {v1 : ℕ} {v2 : StoredObj} {b : _} (e : State.objectSet v0 v1 v2 = (b, t)) (h0 : Keeps a v0) : Keeps a t := KeepsSnd.eq e (keeps_objectSet v0 v1 v2 h0)

theorem keeps_countFault {a : State} (v0 : State) (v1 : BitVec 16) (h0 : Keeps a v0) : Keeps a (State.countFault v0 v1) := by
  unfold State.countFault
  try dsimp only
  repeat' (first | with_reducible assumption | with_reducible exact Keeps.refl _ | with_reducible apply Keeps.ite | with_reducible apply KeepsRes.ite | with_reducible apply KeepsFst.ite | with_reducible apply KeepsSnd.ite | (simp only [Keeps.lit]; with_reducible apply KeepsData.of) | (simp only [Keeps.lit]; with_reducible refine KeepsData.poke ?_ (fun w => ?_); rotate_left; first | exact mark_wf _ _ _ w | exact fold_wf _ _ (fun m x hm => poison_wf _ _ hm) w | exact fold_wf _ _ (fun m x hm => by split; exact poison_wf _ _ hm; exact hm) w | exact write_wf _ _ w | exact mark_wf _ _ _ (write_wf _ _ w)) | intro s hs | split)

theorem keeps_rechecked {a : State} (v0 : State) (v1 : Ext) (h0 : Keeps a v0) : Keeps a (State.rechecked v0 v1) := by
  unfold State.rechecked
  try dsimp only
  repeat' (first | with_reducible assumption | with_reducible exact Keeps.refl _ | with_reducible apply Keeps.ite | with_reducible apply KeepsRes.ite | with_reducible apply KeepsFst.ite | with_reducible apply KeepsSnd.ite | (simp only [Keeps.lit]; with_reducible apply KeepsData.of) | (simp only [Keeps.lit]; with_reducible refine KeepsData.poke ?_ (fun w => ?_); rotate_left; first | exact mark_wf _ _ _ w | exact fold_wf _ _ (fun m x hm => poison_wf _ _ hm) w | exact fold_wf _ _ (fun m x hm => by split; exact poison_wf _ _ hm; exact hm) w | exact write_wf _ _ w | exact mark_wf _ _ _ (write_wf _ _ w)) | intro s hs | split)

theorem keeps_writeRun {a : State} (v0 : State) (v1 : Dest) (v2 : Run) (v3 : List Byte) (h0 : Keeps a v0) : Keeps a (State.writeRun v0 v1 v2 v3) := by
  unfold State.writeRun
  try dsimp only
  repeat' (first | with_reducible assumption | with_reducible exact Keeps.refl _ | with_reducible apply keeps_kWrite | (simp only [Keeps.lit]; with_reducible apply KeepsData.of))

theorem keeps_flagRun {a : State} (v0 : State) (v1 : Dest) (v2 : Run) (v3 : List ℕ) (h0 : Keeps a v0) : Keeps a (State.flagRun v0 v1 v2 v3) := by
  unfold State.flagRun
  try dsimp only
  repeat' (first | with_reducible assumption | with_reducible exact Keeps.refl _ | with_reducible apply Keeps.ite | with_reducible apply KeepsRes.ite | with_reducible apply KeepsFst.ite | with_reducible apply KeepsSnd.ite | with_reducible apply KeepsFst.mk | with_reducible apply KeepsSnd.mk | with_reducible apply KeepsRes.mk | with_reducible apply Keeps.id | (with_reducible refine Keeps.foldl _ ?_ ?_; intro s x hs; try dsimp only) | (with_reducible refine Keeps.foldl1 _ ?_ ?_; (intro p x hs; replace hs := KeepsFst.fst hs; try dsimp only)) | (with_reducible refine Keeps.foldl2 _ ?_ ?_; (intro p x hs; replace hs := KeepsSnd.snd hs; try dsimp only)) | (with_reducible refine KeepsFst.foldl _ ?_ ?_; (intro p x hs; replace hs := KeepsFst.fst hs; try dsimp only)) | (with_reducible refine KeepsSnd.foldl _ ?_ ?_; (intro p x hs; replace hs := KeepsSnd.snd hs; try dsimp only)) | (simp only [Keeps.lit]; with_reducible apply KeepsData.of) | (simp only [Keeps.lit]; with_reducible refine KeepsData.poke ?_ (fun w => ?_); rotate_left; first | exact mark_wf _ _ _ w | exact fold_wf _ _ (fun m x hm => poison_wf _ _ hm) w | exact fold_wf _ _ (fun m x hm => by split; exact poison_wf _ _ hm; exact hm) w | exact write_wf _ _ w | exact mark_wf _ _ _ (write_wf _ _ w)) | intro s hs | split | (with_reducible apply KeepsSnd.eq; with_reducible assumption) | (with_reducible apply KeepsFst.eq; with_reducible assumption))

theorem keeps_restorePlan {a : State} (v0 : State) (v1 : Sub) (v2 : Ext) (v3 : StoredObj) (v4 : List StoredObj) (v5 : List Dest) (h0 : Keeps a v0) : KeepsRes a (State.restorePlan v0 v1 v2 v3 v4 v5) := by
  unfold State.restorePlan
  try dsimp only
  repeat' (first | with_reducible assumption | with_reducible exact Keeps.refl _ | with_reducible apply Keeps.ite | with_reducible apply KeepsRes.ite | with_reducible apply KeepsFst.ite | with_reducible apply KeepsSnd.ite | with_reducible apply KeepsFst.mk | with_reducible apply KeepsSnd.mk | with_reducible apply KeepsRes.mk | with_reducible apply Keeps.id | with_reducible apply keeps_writeRun | with_reducible apply keeps_countFault | with_reducible apply keeps_freeNat | with_reducible apply keeps_freeNat' | (with_reducible refine keeps_freeNat_e (by with_reducible assumption) ?_) | with_reducible apply keeps_rechecked | with_reducible apply keeps_ended | with_reducible apply keeps_ended' | with_reducible apply keeps_kUndef | with_reducible apply keeps_flagRun | (with_reducible refine Keeps.foldl _ ?_ ?_; intro s x hs; try dsimp only) | (with_reducible refine Keeps.foldl1 _ ?_ ?_; (intro p x hs; replace hs := KeepsFst.fst hs; try dsimp only)) | (with_reducible refine Keeps.foldl2 _ ?_ ?_; (intro p x hs; replace hs := KeepsSnd.snd hs; try dsimp only)) | (with_reducible refine KeepsFst.foldl _ ?_ ?_; (intro p x hs; replace hs := KeepsFst.fst hs; try dsimp only)) | (with_reducible refine KeepsSnd.foldl _ ?_ ?_; (intro p x hs; replace hs := KeepsSnd.snd hs; try dsimp only)) | (simp only [Keeps.lit]; with_reducible apply KeepsData.of) | (simp only [Keeps.lit]; with_reducible refine KeepsData.poke ?_ (fun w => ?_); rotate_left; first | exact mark_wf _ _ _ w | exact fold_wf _ _ (fun m x hm => poison_wf _ _ hm) w | exact fold_wf _ _ (fun m x hm => by split; exact poison_wf _ _ hm; exact hm) w | exact write_wf _ _ w | exact mark_wf _ _ _ (write_wf _ _ w)) | intro s hs | split | (with_reducible apply KeepsSnd.eq; with_reducible assumption) | (with_reducible apply KeepsFst.eq; with_reducible assumption))
theorem keeps_restorePlan' {a : State} (v0 : State) (v1 : Sub) (v2 : Ext) (v3 : StoredObj) (v4 : List StoredObj) (v5 : List Dest) (h0 : Keeps a v0) : Keeps a (State.restorePlan v0 v1 v2 v3 v4 v5).s := keeps_restorePlan v0 v1 v2 v3 v4 v5 h0

theorem keeps_endApplied {a : State} (v0 : State) (v1 : ℕ) (h0 : Keeps a v0) : Keeps a (State.endApplied v0 v1) := by
  unfold State.endApplied
  try dsimp only
  repeat' (first | with_reducible assumption | with_reducible exact Keeps.refl _ | with_reducible apply Keeps.ite | with_reducible apply KeepsRes.ite | with_reducible apply KeepsFst.ite | with_reducible apply KeepsSnd.ite | with_reducible apply keeps_freeStepCopies | with_reducible apply keeps_onStep | (simp only [Keeps.lit]; with_reducible apply KeepsData.of) | (simp only [Keeps.lit]; with_reducible refine KeepsData.poke ?_ (fun w => ?_); rotate_left; first | exact mark_wf _ _ _ w | exact fold_wf _ _ (fun m x hm => poison_wf _ _ hm) w | exact fold_wf _ _ (fun m x hm => by split; exact poison_wf _ _ hm; exact hm) w | exact write_wf _ _ w | exact mark_wf _ _ _ (write_wf _ _ w)) | intro s hs | split)

theorem keeps_restoreTo {a : State} (v0 : State) (v1 : Sub) (v2 : Ext) (v3 : StoredObj) (v4 : List (ℕ × Region × ℕ × BitVec 32)) (h0 : Keeps a v0) : KeepsRes a (State.restoreTo v0 v1 v2 v3 v4) := by
  unfold State.restoreTo
  try dsimp only
  repeat' (first | with_reducible assumption | with_reducible exact Keeps.refl _ | with_reducible apply Keeps.ite | with_reducible apply KeepsRes.ite | with_reducible apply KeepsFst.ite | with_reducible apply KeepsSnd.ite | with_reducible apply KeepsRes.mk | with_reducible apply keeps_objectSet | with_reducible apply keeps_objectSet' | (with_reducible refine keeps_objectSet_e (by with_reducible assumption) ?_) | with_reducible apply keeps_endApplied | with_reducible apply keeps_restorePlan | with_reducible apply keeps_restorePlan' | with_reducible apply keeps_ended | with_reducible apply keeps_ended' | (simp only [Keeps.lit]; with_reducible apply KeepsData.of) | (simp only [Keeps.lit]; with_reducible refine KeepsData.poke ?_ (fun w => ?_); rotate_left; first | exact mark_wf _ _ _ w | exact fold_wf _ _ (fun m x hm => poison_wf _ _ hm) w | exact fold_wf _ _ (fun m x hm => by split; exact poison_wf _ _ hm; exact hm) w | exact write_wf _ _ w | exact mark_wf _ _ _ (write_wf _ _ w)) | intro s hs | split)
theorem keeps_restoreTo' {a : State} (v0 : State) (v1 : Sub) (v2 : Ext) (v3 : StoredObj) (v4 : List (ℕ × Region × ℕ × BitVec 32)) (h0 : Keeps a v0) : Keeps a (State.restoreTo v0 v1 v2 v3 v4).s := keeps_restoreTo v0 v1 v2 v3 v4 h0

theorem keeps_bodyRestore {a : State} (v0 : Sub) (v1 : Ext) (v2 : State) (h0 : Keeps a v2) : KeepsRes a (bodyRestore v0 v1 v2) := by
  unfold bodyRestore
  try dsimp only
  repeat' (first | with_reducible assumption | with_reducible exact Keeps.refl _ | with_reducible apply Keeps.ite | with_reducible apply KeepsRes.ite | with_reducible apply KeepsFst.ite | with_reducible apply KeepsSnd.ite | with_reducible apply KeepsRes.mk | with_reducible apply keeps_restoreTo | with_reducible apply keeps_restoreTo' | with_reducible apply keeps_onStep | with_reducible apply keeps_badParam | with_reducible apply keeps_badParam' | with_reducible apply keeps_fail | with_reducible apply keeps_fail' | (simp only [Keeps.lit]; with_reducible apply KeepsData.of) | (simp only [Keeps.lit]; with_reducible refine KeepsData.poke ?_ (fun w => ?_); rotate_left; first | exact mark_wf _ _ _ w | exact fold_wf _ _ (fun m x hm => poison_wf _ _ hm) w | exact fold_wf _ _ (fun m x hm => by split; exact poison_wf _ _ hm; exact hm) w | exact write_wf _ _ w | exact mark_wf _ _ _ (write_wf _ _ w)) | intro s hs | split)
theorem keeps_bodyRestore' {a : State} (v0 : Sub) (v1 : Ext) (v2 : State) (h0 : Keeps a v2) : Keeps a (bodyRestore v0 v1 v2).s := keeps_bodyRestore v0 v1 v2 h0

theorem keeps_bodyRestoreSlice {a : State} (v0 : Sub) (v1 : Ext) (v2 : State) (h0 : Keeps a v2) : KeepsRes a (bodyRestoreSlice v0 v1 v2) := by
  unfold bodyRestoreSlice
  try dsimp only
  repeat' (first | with_reducible assumption | with_reducible exact Keeps.refl _ | with_reducible apply Keeps.ite | with_reducible apply KeepsRes.ite | with_reducible apply KeepsFst.ite | with_reducible apply KeepsSnd.ite | with_reducible apply KeepsRes.mk | with_reducible apply keeps_restoreTo | with_reducible apply keeps_restoreTo' | with_reducible apply keeps_badParam | with_reducible apply keeps_badParam' | with_reducible apply keeps_fail | with_reducible apply keeps_fail' | (simp only [Keeps.lit]; with_reducible apply KeepsData.of) | (simp only [Keeps.lit]; with_reducible refine KeepsData.poke ?_ (fun w => ?_); rotate_left; first | exact mark_wf _ _ _ w | exact fold_wf _ _ (fun m x hm => poison_wf _ _ hm) w | exact fold_wf _ _ (fun m x hm => by split; exact poison_wf _ _ hm; exact hm) w | exact write_wf _ _ w | exact mark_wf _ _ _ (write_wf _ _ w)) | intro s hs | split)
theorem keeps_bodyRestoreSlice' {a : State} (v0 : Sub) (v1 : Ext) (v2 : State) (h0 : Keeps a v2) : Keeps a (bodyRestoreSlice v0 v1 v2).s := keeps_bodyRestoreSlice v0 v1 v2 h0

theorem keeps_bodyVerify {a : State} (v0 : Sub) (v1 : Ext) (v2 : State) (h0 : Keeps a v2) : KeepsRes a (bodyVerify v0 v1 v2) := by
  unfold bodyVerify
  try dsimp only
  repeat' (first | with_reducible assumption | with_reducible exact Keeps.refl _ | with_reducible apply Keeps.ite | with_reducible apply KeepsRes.ite | with_reducible apply KeepsFst.ite | with_reducible apply KeepsSnd.ite | with_reducible apply KeepsRes.mk | with_reducible apply keeps_done | with_reducible apply keeps_done' | with_reducible apply keeps_countFault | with_reducible apply keeps_freeNat | with_reducible apply keeps_freeNat' | (with_reducible refine keeps_freeNat_e (by with_reducible assumption) ?_) | with_reducible apply keeps_rechecked | with_reducible apply keeps_badParam | with_reducible apply keeps_badParam' | with_reducible apply keeps_ended | with_reducible apply keeps_ended' | with_reducible apply keeps_fail | with_reducible apply keeps_fail' | (simp only [Keeps.lit]; with_reducible apply KeepsData.of) | (simp only [Keeps.lit]; with_reducible refine KeepsData.poke ?_ (fun w => ?_); rotate_left; first | exact mark_wf _ _ _ w | exact fold_wf _ _ (fun m x hm => poison_wf _ _ hm) w | exact fold_wf _ _ (fun m x hm => by split; exact poison_wf _ _ hm; exact hm) w | exact write_wf _ _ w | exact mark_wf _ _ _ (write_wf _ _ w)) | intro s hs | split)
theorem keeps_bodyVerify' {a : State} (v0 : Sub) (v1 : Ext) (v2 : State) (h0 : Keeps a v2) : Keeps a (bodyVerify v0 v1 v2).s := keeps_bodyVerify v0 v1 v2 h0

theorem keeps_bodyManifestRead {a : State} (v0 : Sub) (v1 : Ext) (v2 : State) (h0 : Keeps a v2) : KeepsRes a (bodyManifestRead v0 v1 v2) := by
  unfold bodyManifestRead
  try dsimp only
  repeat' (first | with_reducible assumption | with_reducible exact Keeps.refl _ | with_reducible apply Keeps.ite | with_reducible apply KeepsRes.ite | with_reducible apply KeepsFst.ite | with_reducible apply KeepsSnd.ite | with_reducible apply KeepsRes.mk | with_reducible apply keeps_countFault | with_reducible apply keeps_poke | with_reducible apply keeps_rechecked | with_reducible apply keeps_badParam | with_reducible apply keeps_badParam' | with_reducible apply keeps_ended | with_reducible apply keeps_ended' | with_reducible apply keeps_fail | with_reducible apply keeps_fail' | with_reducible apply keeps_undefBuf | (simp only [Keeps.lit]; with_reducible apply KeepsData.of) | (simp only [Keeps.lit]; with_reducible refine KeepsData.poke ?_ (fun w => ?_); rotate_left; first | exact mark_wf _ _ _ w | exact fold_wf _ _ (fun m x hm => poison_wf _ _ hm) w | exact fold_wf _ _ (fun m x hm => by split; exact poison_wf _ _ hm; exact hm) w | exact write_wf _ _ w | exact mark_wf _ _ _ (write_wf _ _ w)) | intro s hs | split)
theorem keeps_bodyManifestRead' {a : State} (v0 : Sub) (v1 : Ext) (v2 : State) (h0 : Keeps a v2) : Keeps a (bodyManifestRead v0 v1 v2).s := keeps_bodyManifestRead v0 v1 v2 h0

theorem keeps_execRestore {a : State} (v0 : Sub) (v1 : Ext) (v2 : State) (h0 : Keeps a v2) : KeepsOut a (execRestore v0 v1 v2) := by
  unfold execRestore
  try dsimp only
  repeat' (first | with_reducible assumption | with_reducible exact Keeps.refl _ | with_reducible apply KeepsOut.next | with_reducible apply keeps_runOp | with_reducible apply keeps_bodyRestore | with_reducible apply keeps_bodyRestore' | (simp only [Keeps.lit]; with_reducible apply KeepsData.of))

theorem keeps_execRestoreSlice {a : State} (v0 : Sub) (v1 : Ext) (v2 : State) (h0 : Keeps a v2) : KeepsOut a (execRestoreSlice v0 v1 v2) := by
  unfold execRestoreSlice
  try dsimp only
  repeat' (first | with_reducible assumption | with_reducible exact Keeps.refl _ | with_reducible apply KeepsOut.next | with_reducible apply keeps_runOp | with_reducible apply keeps_bodyRestoreSlice | with_reducible apply keeps_bodyRestoreSlice' | (simp only [Keeps.lit]; with_reducible apply KeepsData.of))

theorem keeps_execVerify {a : State} (v0 : Sub) (v1 : Ext) (v2 : State) (h0 : Keeps a v2) : KeepsOut a (execVerify v0 v1 v2) := by
  unfold execVerify
  try dsimp only
  repeat' (first | with_reducible assumption | with_reducible exact Keeps.refl _ | with_reducible apply KeepsOut.next | with_reducible apply keeps_runOp | with_reducible apply keeps_bodyVerify | with_reducible apply keeps_bodyVerify' | (simp only [Keeps.lit]; with_reducible apply KeepsData.of))

theorem keeps_execManifestRead {a : State} (v0 : Sub) (v1 : Ext) (v2 : State) (h0 : Keeps a v2) : KeepsOut a (execManifestRead v0 v1 v2) := by
  unfold execManifestRead
  try dsimp only
  repeat' (first | with_reducible assumption | with_reducible exact Keeps.refl _ | with_reducible apply KeepsOut.next | with_reducible apply keeps_runOp | with_reducible apply keeps_bodyManifestRead | with_reducible apply keeps_bodyManifestRead' | (simp only [Keeps.lit]; with_reducible apply KeepsData.of))

end Sys2Proof.Laws
end

