-- ==== Sys2Proof/Laws/KeepsSync.lean ====
section
/-! SUPPORT. Every function of Machine/Sync.lean that answers a state keeps what no command may change. -/

namespace Sys2Proof.Laws
open Sys2Proof Sys2Proof.Machine
set_option linter.unreachableTactic false
set_option linter.unusedTactic false
set_option linter.unusedVariables false
set_option linter.unusedSimpArgs false
set_option maxRecDepth 4000

theorem keeps_fireWatch {a : State} (v0 : State) (v1 : Bool) (v2 : ℕ) (h0 : Keeps a v0) : Keeps a (State.fireWatch v0 v1 v2) := by
  unfold State.fireWatch
  try dsimp only
  repeat' (first | with_reducible assumption | with_reducible exact Keeps.refl _ | with_reducible apply Keeps.ite | with_reducible apply KeepsRes.ite | with_reducible apply KeepsFst.ite | with_reducible apply KeepsSnd.ite | with_reducible apply keeps_wantDom | with_reducible apply keeps_poke | with_reducible apply keeps_log | with_reducible apply keeps_cause | with_reducible apply keeps_onUn | (simp only [Keeps.lit]; with_reducible apply KeepsData.of) | (simp only [Keeps.lit]; with_reducible refine KeepsData.poke ?_ (fun w => ?_); rotate_left; first | exact mark_wf _ _ _ w | exact fold_wf _ _ (fun m x hm => poison_wf _ _ hm) w | exact fold_wf _ _ (fun m x hm => by split; exact poison_wf _ _ hm; exact hm) w | exact write_wf _ _ w | exact mark_wf _ _ _ (write_wf _ _ w)) | intro s hs | split)

theorem keeps_evalWatches {a : State} (v0 : State) (v1 : ℕ) (v2 : Bool) (h0 : Keeps a v0) : Keeps a (State.evalWatches v0 v1 v2) := by
  unfold State.evalWatches
  try dsimp only
  repeat' (first | with_reducible assumption | with_reducible exact Keeps.refl _ | with_reducible apply Keeps.ite | with_reducible apply KeepsRes.ite | with_reducible apply KeepsFst.ite | with_reducible apply KeepsSnd.ite | with_reducible apply KeepsFst.mk | with_reducible apply KeepsSnd.mk | with_reducible apply KeepsRes.mk | with_reducible apply Keeps.id | with_reducible apply keeps_fireWatch | (with_reducible refine Keeps.foldl _ ?_ ?_; intro s x hs; try dsimp only) | (with_reducible refine Keeps.foldl1 _ ?_ ?_; (intro p x hs; replace hs := KeepsFst.fst hs; try dsimp only)) | (with_reducible refine Keeps.foldl2 _ ?_ ?_; (intro p x hs; replace hs := KeepsSnd.snd hs; try dsimp only)) | (with_reducible refine KeepsFst.foldl _ ?_ ?_; (intro p x hs; replace hs := KeepsFst.fst hs; try dsimp only)) | (with_reducible refine KeepsSnd.foldl _ ?_ ?_; (intro p x hs; replace hs := KeepsSnd.snd hs; try dsimp only)) | (simp only [Keeps.lit]; with_reducible apply KeepsData.of) | (simp only [Keeps.lit]; with_reducible refine KeepsData.poke ?_ (fun w => ?_); rotate_left; first | exact mark_wf _ _ _ w | exact fold_wf _ _ (fun m x hm => poison_wf _ _ hm) w | exact fold_wf _ _ (fun m x hm => by split; exact poison_wf _ _ hm; exact hm) w | exact write_wf _ _ w | exact mark_wf _ _ _ (write_wf _ _ w)) | intro s hs | split | (with_reducible apply KeepsSnd.eq; with_reducible assumption) | (with_reducible apply KeepsFst.eq; with_reducible assumption))

theorem keeps_overran {a : State} (v0 : State) (v1 : ℕ) (h0 : Keeps a v0) : Keeps a (State.overran v0 v1) := by
  unfold State.overran
  try dsimp only
  repeat' (first | with_reducible assumption | with_reducible exact Keeps.refl _ | with_reducible apply keeps_onObj | with_reducible apply keeps_log | with_reducible apply keeps_onUn | (simp only [Keeps.lit]; with_reducible apply KeepsData.of))

theorem keeps_signal {a : State} (v0 : State) (v1 : ℕ) (v2 : ℕ) (v3 : Bool) (h0 : Keeps a v0) : Keeps a (State.signal v0 v1 v2 v3) := by
  unfold State.signal
  try dsimp only
  repeat' (first | with_reducible assumption | with_reducible exact Keeps.refl _ | with_reducible apply Keeps.ite | with_reducible apply KeepsRes.ite | with_reducible apply KeepsFst.ite | with_reducible apply KeepsSnd.ite | with_reducible apply keeps_overran | with_reducible apply keeps_onObj | with_reducible apply keeps_log | with_reducible apply keeps_evalWatches | (simp only [Keeps.lit]; with_reducible apply KeepsData.of) | (simp only [Keeps.lit]; with_reducible refine KeepsData.poke ?_ (fun w => ?_); rotate_left; first | exact mark_wf _ _ _ w | exact fold_wf _ _ (fun m x hm => poison_wf _ _ hm) w | exact fold_wf _ _ (fun m x hm => by split; exact poison_wf _ _ hm; exact hm) w | exact write_wf _ _ w | exact mark_wf _ _ _ (write_wf _ _ w)) | intro s hs | split)

theorem keeps_bodySyncAlloc {a : State} (v0 : Sub) (v1 : State) (h0 : Keeps a v1) : KeepsRes a (bodySyncAlloc v0 v1) := by
  unfold bodySyncAlloc
  try dsimp only
  repeat' (first | with_reducible assumption | with_reducible exact Keeps.refl _ | with_reducible apply Keeps.ite | with_reducible apply KeepsRes.ite | with_reducible apply KeepsFst.ite | with_reducible apply KeepsSnd.ite | with_reducible apply KeepsFst.mk | with_reducible apply KeepsSnd.mk | with_reducible apply KeepsRes.mk | with_reducible apply Keeps.id | with_reducible apply keeps_done | with_reducible apply keeps_done' | with_reducible apply keeps_onObj | with_reducible apply keeps_fail | with_reducible apply keeps_fail' | (with_reducible refine Keeps.foldl _ ?_ ?_; intro s x hs; try dsimp only) | (with_reducible refine Keeps.foldl1 _ ?_ ?_; (intro p x hs; replace hs := KeepsFst.fst hs; try dsimp only)) | (with_reducible refine Keeps.foldl2 _ ?_ ?_; (intro p x hs; replace hs := KeepsSnd.snd hs; try dsimp only)) | (with_reducible refine KeepsFst.foldl _ ?_ ?_; (intro p x hs; replace hs := KeepsFst.fst hs; try dsimp only)) | (with_reducible refine KeepsSnd.foldl _ ?_ ?_; (intro p x hs; replace hs := KeepsSnd.snd hs; try dsimp only)) | (simp only [Keeps.lit]; with_reducible apply KeepsData.of) | (simp only [Keeps.lit]; with_reducible refine KeepsData.poke ?_ (fun w => ?_); rotate_left; first | exact mark_wf _ _ _ w | exact fold_wf _ _ (fun m x hm => poison_wf _ _ hm) w | exact fold_wf _ _ (fun m x hm => by split; exact poison_wf _ _ hm; exact hm) w | exact write_wf _ _ w | exact mark_wf _ _ _ (write_wf _ _ w)) | intro s hs | split | (with_reducible apply KeepsSnd.eq; with_reducible assumption) | (with_reducible apply KeepsFst.eq; with_reducible assumption))
theorem keeps_bodySyncAlloc' {a : State} (v0 : Sub) (v1 : State) (h0 : Keeps a v1) : Keeps a (bodySyncAlloc v0 v1).s := keeps_bodySyncAlloc v0 v1 h0

theorem keeps_unlink {a : State} (v0 : State) (v1 : ℕ) (h0 : Keeps a v0) : Keeps a (State.unlink v0 v1) := by
  unfold State.unlink
  try dsimp only
  repeat' (first | with_reducible assumption | with_reducible exact Keeps.refl _ | with_reducible apply Keeps.ite | with_reducible apply KeepsRes.ite | with_reducible apply KeepsFst.ite | with_reducible apply KeepsSnd.ite | with_reducible apply keeps_onObj | (simp only [Keeps.lit]; with_reducible apply KeepsData.of) | (simp only [Keeps.lit]; with_reducible refine KeepsData.poke ?_ (fun w => ?_); rotate_left; first | exact mark_wf _ _ _ w | exact fold_wf _ _ (fun m x hm => poison_wf _ _ hm) w | exact fold_wf _ _ (fun m x hm => by split; exact poison_wf _ _ hm; exact hm) w | exact write_wf _ _ w | exact mark_wf _ _ _ (write_wf _ _ w)) | intro s hs | split)

theorem keeps_freeObj {a : State} (v0 : State) (v1 : ℕ) (h0 : Keeps a v0) : Keeps a (State.freeObj v0 v1) := by
  unfold State.freeObj
  try dsimp only
  repeat' (first | with_reducible assumption | with_reducible exact Keeps.refl _ | with_reducible apply keeps_onObj | with_reducible apply keeps_unlink | (simp only [Keeps.lit]; with_reducible apply KeepsData.of))

theorem keeps_bodySyncFree {a : State} (v0 : Sub) (v1 : State) (h0 : Keeps a v1) : KeepsRes a (bodySyncFree v0 v1) := by
  unfold bodySyncFree
  try dsimp only
  repeat' (first | with_reducible assumption | with_reducible exact Keeps.refl _ | with_reducible apply Keeps.ite | with_reducible apply KeepsRes.ite | with_reducible apply KeepsFst.ite | with_reducible apply KeepsSnd.ite | with_reducible apply KeepsFst.mk | with_reducible apply KeepsSnd.mk | with_reducible apply KeepsRes.mk | with_reducible apply Keeps.id | with_reducible apply keeps_done | with_reducible apply keeps_done' | with_reducible apply keeps_freeObj | with_reducible apply keeps_fail | with_reducible apply keeps_fail' | (with_reducible refine Keeps.foldl _ ?_ ?_; intro s x hs; try dsimp only) | (with_reducible refine Keeps.foldl1 _ ?_ ?_; (intro p x hs; replace hs := KeepsFst.fst hs; try dsimp only)) | (with_reducible refine Keeps.foldl2 _ ?_ ?_; (intro p x hs; replace hs := KeepsSnd.snd hs; try dsimp only)) | (with_reducible refine KeepsFst.foldl _ ?_ ?_; (intro p x hs; replace hs := KeepsFst.fst hs; try dsimp only)) | (with_reducible refine KeepsSnd.foldl _ ?_ ?_; (intro p x hs; replace hs := KeepsSnd.snd hs; try dsimp only)) | (simp only [Keeps.lit]; with_reducible apply KeepsData.of) | (simp only [Keeps.lit]; with_reducible refine KeepsData.poke ?_ (fun w => ?_); rotate_left; first | exact mark_wf _ _ _ w | exact fold_wf _ _ (fun m x hm => poison_wf _ _ hm) w | exact fold_wf _ _ (fun m x hm => by split; exact poison_wf _ _ hm; exact hm) w | exact write_wf _ _ w | exact mark_wf _ _ _ (write_wf _ _ w)) | intro s hs | split | (with_reducible apply KeepsSnd.eq; with_reducible assumption) | (with_reducible apply KeepsFst.eq; with_reducible assumption))
theorem keeps_bodySyncFree' {a : State} (v0 : Sub) (v1 : State) (h0 : Keeps a v1) : Keeps a (bodySyncFree v0 v1).s := keeps_bodySyncFree v0 v1 h0

theorem keeps_sendSignal {a : State} (v0 : State) (v1 : RemoteSig) (h0 : Keeps a v0) : Keeps a (State.sendSignal v0 v1) := by
  unfold State.sendSignal
  try dsimp only
  repeat' (first | with_reducible assumption | with_reducible exact Keeps.refl _ | with_reducible apply Keeps.ite | with_reducible apply KeepsRes.ite | with_reducible apply KeepsFst.ite | with_reducible apply KeepsSnd.ite | with_reducible apply keeps_sendFrame | (simp only [Keeps.lit]; with_reducible apply KeepsData.of) | (simp only [Keeps.lit]; with_reducible refine KeepsData.poke ?_ (fun w => ?_); rotate_left; first | exact mark_wf _ _ _ w | exact fold_wf _ _ (fun m x hm => poison_wf _ _ hm) w | exact fold_wf _ _ (fun m x hm => by split; exact poison_wf _ _ hm; exact hm) w | exact write_wf _ _ w | exact mark_wf _ _ _ (write_wf _ _ w)) | intro s hs | split)

theorem keeps_endRemote {a : State} (v0 : State) (v1 : RemoteSig) (v2 : BitVec 16) (v3 : BitVec 64) (h0 : Keeps a v0) : Keeps a (State.endRemote v0 v1 v2 v3) := by
  unfold State.endRemote
  try dsimp only
  repeat' (first | with_reducible assumption | with_reducible exact Keeps.refl _ | with_reducible apply KeepsOut.next | with_reducible apply Keeps.ite | with_reducible apply KeepsRes.ite | with_reducible apply KeepsFst.ite | with_reducible apply KeepsSnd.ite | with_reducible apply KeepsFst.mk | with_reducible apply KeepsSnd.mk | with_reducible apply KeepsRes.mk | with_reducible apply Keeps.id | with_reducible apply keeps_conclude | with_reducible apply keeps_onCmd | (with_reducible refine Keeps.foldl _ ?_ ?_; intro s x hs; try dsimp only) | (with_reducible refine Keeps.foldl1 _ ?_ ?_; (intro p x hs; replace hs := KeepsFst.fst hs; try dsimp only)) | (with_reducible refine Keeps.foldl2 _ ?_ ?_; (intro p x hs; replace hs := KeepsSnd.snd hs; try dsimp only)) | (with_reducible refine KeepsFst.foldl _ ?_ ?_; (intro p x hs; replace hs := KeepsFst.fst hs; try dsimp only)) | (with_reducible refine KeepsSnd.foldl _ ?_ ?_; (intro p x hs; replace hs := KeepsSnd.snd hs; try dsimp only)) | (simp only [Keeps.lit]; with_reducible apply KeepsData.of) | (simp only [Keeps.lit]; with_reducible refine KeepsData.poke ?_ (fun w => ?_); rotate_left; first | exact mark_wf _ _ _ w | exact fold_wf _ _ (fun m x hm => poison_wf _ _ hm) w | exact fold_wf _ _ (fun m x hm => by split; exact poison_wf _ _ hm; exact hm) w | exact write_wf _ _ w | exact mark_wf _ _ _ (write_wf _ _ w)) | intro s hs | split | (with_reducible apply KeepsSnd.eq; with_reducible assumption) | (with_reducible apply KeepsFst.eq; with_reducible assumption))

theorem keeps_bodySyncSignal {a : State} (v0 : Sub) (v1 : Ext) (v2 : State) (h0 : Keeps a v2) : KeepsRes a (bodySyncSignal v0 v1 v2) := by
  unfold bodySyncSignal
  try dsimp only
  repeat' (first | with_reducible assumption | with_reducible exact Keeps.refl _ | with_reducible apply Keeps.ite | with_reducible apply KeepsRes.ite | with_reducible apply KeepsFst.ite | with_reducible apply KeepsSnd.ite | with_reducible apply KeepsRes.mk | with_reducible apply keeps_done | with_reducible apply keeps_done' | with_reducible apply keeps_wait | with_reducible apply keeps_wait' | with_reducible apply keeps_onCmd | with_reducible apply keeps_fail | with_reducible apply keeps_fail' | with_reducible apply keeps_signal | with_reducible apply keeps_sendSignal | (simp only [Keeps.lit]; with_reducible apply KeepsData.of) | (simp only [Keeps.lit]; with_reducible refine KeepsData.poke ?_ (fun w => ?_); rotate_left; first | exact mark_wf _ _ _ w | exact fold_wf _ _ (fun m x hm => poison_wf _ _ hm) w | exact fold_wf _ _ (fun m x hm => by split; exact poison_wf _ _ hm; exact hm) w | exact write_wf _ _ w | exact mark_wf _ _ _ (write_wf _ _ w)) | intro s hs | split)
theorem keeps_bodySyncSignal' {a : State} (v0 : Sub) (v1 : Ext) (v2 : State) (h0 : Keeps a v2) : Keeps a (bodySyncSignal v0 v1 v2).s := keeps_bodySyncSignal v0 v1 v2 h0

theorem keeps_recvSignal {a : State} (v0 : State) (v1 : DclFrame) (v2 : Bool) (h0 : Keeps a v0) : Keeps a (State.recvSignal v0 v1 v2) := by
  unfold State.recvSignal
  try dsimp only
  repeat' (first | with_reducible assumption | with_reducible exact Keeps.refl _ | with_reducible apply Keeps.ite | with_reducible apply KeepsRes.ite | with_reducible apply KeepsFst.ite | with_reducible apply KeepsSnd.ite | with_reducible apply keeps_logStatus | with_reducible apply keeps_sendFrame | with_reducible apply keeps_syncForbid | with_reducible apply keeps_signal | (simp only [Keeps.lit]; with_reducible apply KeepsData.of) | (simp only [Keeps.lit]; with_reducible refine KeepsData.poke ?_ (fun w => ?_); rotate_left; first | exact mark_wf _ _ _ w | exact fold_wf _ _ (fun m x hm => poison_wf _ _ hm) w | exact fold_wf _ _ (fun m x hm => by split; exact poison_wf _ _ hm; exact hm) w | exact write_wf _ _ w | exact mark_wf _ _ _ (write_wf _ _ w)) | intro s hs | split)

theorem keeps_bodyWatchSet {a : State} (v0 : Sub) (v1 : Ext) (v2 : State) (h0 : Keeps a v2) : KeepsRes a (bodyWatchSet v0 v1 v2) := by
  unfold bodyWatchSet
  try dsimp only
  repeat' (first | with_reducible assumption | with_reducible exact Keeps.refl _ | with_reducible apply Keeps.ite | with_reducible apply KeepsRes.ite | with_reducible apply KeepsFst.ite | with_reducible apply KeepsSnd.ite | with_reducible apply KeepsRes.mk | with_reducible apply keeps_done | with_reducible apply keeps_done' | with_reducible apply keeps_fireWatch | with_reducible apply keeps_fail | with_reducible apply keeps_fail' | (simp only [Keeps.lit]; with_reducible apply KeepsData.of) | (simp only [Keeps.lit]; with_reducible refine KeepsData.poke ?_ (fun w => ?_); rotate_left; first | exact mark_wf _ _ _ w | exact fold_wf _ _ (fun m x hm => poison_wf _ _ hm) w | exact fold_wf _ _ (fun m x hm => by split; exact poison_wf _ _ hm; exact hm) w | exact write_wf _ _ w | exact mark_wf _ _ _ (write_wf _ _ w)) | intro s hs | split)
theorem keeps_bodyWatchSet' {a : State} (v0 : Sub) (v1 : Ext) (v2 : State) (h0 : Keeps a v2) : Keeps a (bodyWatchSet v0 v1 v2).s := keeps_bodyWatchSet v0 v1 v2 h0

theorem keeps_bodyWatchClear {a : State} (v0 : Sub) (v1 : State) (h0 : Keeps a v1) : KeepsRes a (bodyWatchClear v0 v1) := by
  unfold bodyWatchClear
  try dsimp only
  repeat' (first | with_reducible assumption | with_reducible exact Keeps.refl _ | with_reducible apply Keeps.ite | with_reducible apply KeepsRes.ite | with_reducible apply KeepsFst.ite | with_reducible apply KeepsSnd.ite | with_reducible apply KeepsRes.mk | with_reducible apply keeps_done | with_reducible apply keeps_done' | with_reducible apply keeps_reject | with_reducible apply keeps_reject' | (simp only [Keeps.lit]; with_reducible apply KeepsData.of) | (simp only [Keeps.lit]; with_reducible refine KeepsData.poke ?_ (fun w => ?_); rotate_left; first | exact mark_wf _ _ _ w | exact fold_wf _ _ (fun m x hm => poison_wf _ _ hm) w | exact fold_wf _ _ (fun m x hm => by split; exact poison_wf _ _ hm; exact hm) w | exact write_wf _ _ w | exact mark_wf _ _ _ (write_wf _ _ w)) | intro s hs | split)
theorem keeps_bodyWatchClear' {a : State} (v0 : Sub) (v1 : State) (h0 : Keeps a v1) : Keeps a (bodyWatchClear v0 v1).s := keeps_bodyWatchClear v0 v1 h0

theorem keeps_onBar {a : State} (v0 : State) (v1 : ℕ) (v2 : Bar → Bar) (h0 : Keeps a v0) : Keeps a (State.onBar v0 v1 v2) := by
  unfold State.onBar
  try dsimp only
  repeat' (first | with_reducible assumption | with_reducible exact Keeps.refl _ | (simp only [Keeps.lit]; with_reducible apply KeepsData.of))

theorem keeps_endJoin {a : State} (v0 : State) (v1 : ℕ × ℕ × BitVec 16 × ℕ × Bool) (v2 : BitVec 16) (v3 : BitVec 32) (h0 : Keeps a v0) : Keeps a (State.endJoin v0 v1 v2 v3) := by
  unfold State.endJoin
  try dsimp only
  repeat' (first | with_reducible assumption | with_reducible exact Keeps.refl _ | with_reducible apply Keeps.ite | with_reducible apply KeepsRes.ite | with_reducible apply KeepsFst.ite | with_reducible apply KeepsSnd.ite | with_reducible apply keeps_finish | (simp only [Keeps.lit]; with_reducible apply KeepsData.of) | (simp only [Keeps.lit]; with_reducible refine KeepsData.poke ?_ (fun w => ?_); rotate_left; first | exact mark_wf _ _ _ w | exact fold_wf _ _ (fun m x hm => poison_wf _ _ hm) w | exact fold_wf _ _ (fun m x hm => by split; exact poison_wf _ _ hm; exact hm) w | exact write_wf _ _ w | exact mark_wf _ _ _ (write_wf _ _ w)) | intro s hs | split)

theorem keeps_releaseBar {a : State} (v0 : State) (v1 : ℕ) (v2 : BitVec 32) (h0 : Keeps a v0) : Keeps a (State.releaseBar v0 v1 v2) := by
  unfold State.releaseBar
  try dsimp only
  repeat' (first | with_reducible assumption | with_reducible exact Keeps.refl _ | with_reducible apply Keeps.ite | with_reducible apply KeepsRes.ite | with_reducible apply KeepsFst.ite | with_reducible apply KeepsSnd.ite | with_reducible apply KeepsFst.mk | with_reducible apply KeepsSnd.mk | with_reducible apply KeepsRes.mk | with_reducible apply Keeps.id | with_reducible apply keeps_endJoin | with_reducible apply keeps_onBar | (with_reducible refine Keeps.foldl _ ?_ ?_; intro s x hs; try dsimp only) | (with_reducible refine Keeps.foldl1 _ ?_ ?_; (intro p x hs; replace hs := KeepsFst.fst hs; try dsimp only)) | (with_reducible refine Keeps.foldl2 _ ?_ ?_; (intro p x hs; replace hs := KeepsSnd.snd hs; try dsimp only)) | (with_reducible refine KeepsFst.foldl _ ?_ ?_; (intro p x hs; replace hs := KeepsFst.fst hs; try dsimp only)) | (with_reducible refine KeepsSnd.foldl _ ?_ ?_; (intro p x hs; replace hs := KeepsSnd.snd hs; try dsimp only)) | (simp only [Keeps.lit]; with_reducible apply KeepsData.of) | (simp only [Keeps.lit]; with_reducible refine KeepsData.poke ?_ (fun w => ?_); rotate_left; first | exact mark_wf _ _ _ w | exact fold_wf _ _ (fun m x hm => poison_wf _ _ hm) w | exact fold_wf _ _ (fun m x hm => by split; exact poison_wf _ _ hm; exact hm) w | exact write_wf _ _ w | exact mark_wf _ _ _ (write_wf _ _ w)) | intro s hs | split | (with_reducible apply KeepsSnd.eq; with_reducible assumption) | (with_reducible apply KeepsFst.eq; with_reducible assumption))

theorem keeps_dropJoin {a : State} (v0 : State) (v1 : ℕ) (v2 : ℕ × ℕ × BitVec 16 × ℕ × Bool) (h0 : Keeps a v0) : Keeps a (State.dropJoin v0 v1 v2) := by
  unfold State.dropJoin
  try dsimp only
  repeat' (first | with_reducible assumption | with_reducible exact Keeps.refl _ | with_reducible apply keeps_onBar | (simp only [Keeps.lit]; with_reducible apply KeepsData.of))

theorem keeps_masterArrive {a : State} (v0 : State) (v1 : ℕ) (v2 : ℕ) (h0 : Keeps a v0) : Keeps a (State.masterArrive v0 v1 v2) := by
  unfold State.masterArrive
  try dsimp only
  repeat' (first | with_reducible assumption | with_reducible exact Keeps.refl _ | with_reducible apply Keeps.ite | with_reducible apply KeepsRes.ite | with_reducible apply KeepsFst.ite | with_reducible apply KeepsSnd.ite | with_reducible apply keeps_sendFrame | with_reducible apply keeps_onBar | with_reducible apply keeps_releaseBar | (simp only [Keeps.lit]; with_reducible apply KeepsData.of) | (simp only [Keeps.lit]; with_reducible refine KeepsData.poke ?_ (fun w => ?_); rotate_left; first | exact mark_wf _ _ _ w | exact fold_wf _ _ (fun m x hm => poison_wf _ _ hm) w | exact fold_wf _ _ (fun m x hm => by split; exact poison_wf _ _ hm; exact hm) w | exact write_wf _ _ w | exact mark_wf _ _ _ (write_wf _ _ w)) | intro s hs | split)

theorem keeps_masterWithdraw {a : State} (v0 : State) (v1 : ℕ) (h0 : Keeps a v0) : Keeps a (State.masterWithdraw v0 v1) := by
  unfold State.masterWithdraw
  try dsimp only
  repeat' (first | with_reducible assumption | with_reducible exact Keeps.refl _ | (simp only [Keeps.lit]; with_reducible apply KeepsData.of))

theorem keeps_withdraw {a : State} (v0 : State) (v1 : ℕ) (v2 : ℕ × ℕ × BitVec 16 × ℕ × Bool) (v3 : Bool) (h0 : Keeps a v0) : Keeps a (State.withdraw v0 v1 v2 v3) := by
  unfold State.withdraw
  try dsimp only
  repeat' (first | with_reducible assumption | with_reducible exact Keeps.refl _ | with_reducible apply Keeps.ite | with_reducible apply KeepsRes.ite | with_reducible apply KeepsFst.ite | with_reducible apply KeepsSnd.ite | with_reducible apply keeps_sendFrame | with_reducible apply keeps_dropJoin | with_reducible apply keeps_onBar | with_reducible apply keeps_masterWithdraw | (simp only [Keeps.lit]; with_reducible apply KeepsData.of) | (simp only [Keeps.lit]; with_reducible refine KeepsData.poke ?_ (fun w => ?_); rotate_left; first | exact mark_wf _ _ _ w | exact fold_wf _ _ (fun m x hm => poison_wf _ _ hm) w | exact fold_wf _ _ (fun m x hm => by split; exact poison_wf _ _ hm; exact hm) w | exact write_wf _ _ w | exact mark_wf _ _ _ (write_wf _ _ w)) | intro s hs | split)

theorem keeps_bodyBarrierJoin {a : State} (v0 : Sub) (v1 : State) (h0 : Keeps a v1) : KeepsRes a (bodyBarrierJoin v0 v1) := by
  unfold bodyBarrierJoin
  try dsimp only
  repeat' (first | with_reducible assumption | with_reducible exact Keeps.refl _ | with_reducible apply Keeps.ite | with_reducible apply KeepsRes.ite | with_reducible apply KeepsFst.ite | with_reducible apply KeepsSnd.ite | with_reducible apply KeepsRes.mk | with_reducible apply keeps_logStatus | with_reducible apply keeps_wait | with_reducible apply keeps_wait' | with_reducible apply keeps_sendFrame | with_reducible apply keeps_masterArrive | with_reducible apply keeps_reject | with_reducible apply keeps_reject' | with_reducible apply keeps_onBar | with_reducible apply keeps_running | with_reducible apply keeps_running' | with_reducible apply keeps_badParam | with_reducible apply keeps_badParam' | with_reducible apply keeps_syncForbid | with_reducible apply keeps_fail | with_reducible apply keeps_fail' | with_reducible apply keeps_releaseBar | (simp only [Keeps.lit]; with_reducible apply KeepsData.of) | (simp only [Keeps.lit]; with_reducible refine KeepsData.poke ?_ (fun w => ?_); rotate_left; first | exact mark_wf _ _ _ w | exact fold_wf _ _ (fun m x hm => poison_wf _ _ hm) w | exact fold_wf _ _ (fun m x hm => by split; exact poison_wf _ _ hm; exact hm) w | exact write_wf _ _ w | exact mark_wf _ _ _ (write_wf _ _ w)) | intro s hs | split)
theorem keeps_bodyBarrierJoin' {a : State} (v0 : Sub) (v1 : State) (h0 : Keeps a v1) : Keeps a (bodyBarrierJoin v0 v1).s := keeps_bodyBarrierJoin v0 v1 h0

theorem keeps_endChainJoins {a : State} (v0 : State) (h0 : Keeps a v0) : Keeps a (State.endChainJoins v0) := by
  unfold State.endChainJoins
  try dsimp only
  repeat' (first | with_reducible assumption | with_reducible exact Keeps.refl _ | with_reducible apply Keeps.ite | with_reducible apply KeepsRes.ite | with_reducible apply KeepsFst.ite | with_reducible apply KeepsSnd.ite | with_reducible apply KeepsFst.mk | with_reducible apply KeepsSnd.mk | with_reducible apply KeepsRes.mk | with_reducible apply Keeps.id | with_reducible apply keeps_endJoin | with_reducible apply keeps_onBar | (with_reducible refine Keeps.foldl _ ?_ ?_; intro s x hs; try dsimp only) | (with_reducible refine Keeps.foldl1 _ ?_ ?_; (intro p x hs; replace hs := KeepsFst.fst hs; try dsimp only)) | (with_reducible refine Keeps.foldl2 _ ?_ ?_; (intro p x hs; replace hs := KeepsSnd.snd hs; try dsimp only)) | (with_reducible refine KeepsFst.foldl _ ?_ ?_; (intro p x hs; replace hs := KeepsFst.fst hs; try dsimp only)) | (with_reducible refine KeepsSnd.foldl _ ?_ ?_; (intro p x hs; replace hs := KeepsSnd.snd hs; try dsimp only)) | (simp only [Keeps.lit]; with_reducible apply KeepsData.of) | (simp only [Keeps.lit]; with_reducible refine KeepsData.poke ?_ (fun w => ?_); rotate_left; first | exact mark_wf _ _ _ w | exact fold_wf _ _ (fun m x hm => poison_wf _ _ hm) w | exact fold_wf _ _ (fun m x hm => by split; exact poison_wf _ _ hm; exact hm) w | exact write_wf _ _ w | exact mark_wf _ _ _ (write_wf _ _ w)) | intro s hs | split | (with_reducible apply KeepsSnd.eq; with_reducible assumption) | (with_reducible apply KeepsFst.eq; with_reducible assumption))

theorem keeps_execBarrierTimeout {a : State} (v0 : ℕ) (v1 : ℕ) (v2 : BitVec 16) (v3 : State) (h0 : Keeps a v3) : KeepsOut a (execBarrierTimeout v0 v1 v2 v3) := by
  unfold execBarrierTimeout
  try dsimp only
  repeat' (first | with_reducible assumption | with_reducible exact Keeps.refl _ | with_reducible apply KeepsOut.next | with_reducible apply Keeps.ite | with_reducible apply KeepsRes.ite | with_reducible apply KeepsFst.ite | with_reducible apply KeepsSnd.ite | with_reducible apply keeps_endJoin | with_reducible apply keeps_withdraw | (simp only [Keeps.lit]; with_reducible apply KeepsData.of) | (simp only [Keeps.lit]; with_reducible refine KeepsData.poke ?_ (fun w => ?_); rotate_left; first | exact mark_wf _ _ _ w | exact fold_wf _ _ (fun m x hm => poison_wf _ _ hm) w | exact fold_wf _ _ (fun m x hm => by split; exact poison_wf _ _ hm; exact hm) w | exact write_wf _ _ w | exact mark_wf _ _ _ (write_wf _ _ w)) | intro s hs | split)

theorem keeps_execSyncRemoteHoldExpiry {a : State} (v0 : ℕ) (v1 : State) (h0 : Keeps a v1) : KeepsOut a (execSyncRemoteHoldExpiry v0 v1) := by
  unfold execSyncRemoteHoldExpiry
  try dsimp only
  repeat' (first | with_reducible assumption | with_reducible exact Keeps.refl _ | with_reducible apply KeepsOut.next | with_reducible apply keeps_onObj | (simp only [Keeps.lit]; with_reducible apply KeepsData.of))

theorem keeps_execRemoteSignalRetry {a : State} (v0 : ℕ) (v1 : BitVec 16) (v2 : State) (h0 : Keeps a v2) : KeepsOut a (execRemoteSignalRetry v0 v1 v2) := by
  unfold execRemoteSignalRetry
  try dsimp only
  repeat' (first | with_reducible assumption | with_reducible exact Keeps.refl _ | with_reducible apply KeepsOut.next | with_reducible apply Keeps.ite | with_reducible apply KeepsRes.ite | with_reducible apply KeepsFst.ite | with_reducible apply KeepsSnd.ite | with_reducible apply keeps_endRemote | with_reducible apply keeps_sendSignal | (simp only [Keeps.lit]; with_reducible apply KeepsData.of) | (simp only [Keeps.lit]; with_reducible refine KeepsData.poke ?_ (fun w => ?_); rotate_left; first | exact mark_wf _ _ _ w | exact fold_wf _ _ (fun m x hm => poison_wf _ _ hm) w | exact fold_wf _ _ (fun m x hm => by split; exact poison_wf _ _ hm; exact hm) w | exact write_wf _ _ w | exact mark_wf _ _ _ (write_wf _ _ w)) | intro s hs | split)

theorem keeps_linkWrite {a : State} (v0 : State) (v1 : ℕ) (v2 : BitVec 64) (h0 : Keeps a v0) : Keeps a (State.linkWrite v0 v1 v2) := by
  unfold State.linkWrite
  try dsimp only
  repeat' (first | with_reducible assumption | with_reducible exact Keeps.refl _ | with_reducible apply Keeps.ite | with_reducible apply KeepsRes.ite | with_reducible apply KeepsFst.ite | with_reducible apply KeepsSnd.ite | with_reducible apply keeps_logStatus | with_reducible apply keeps_onObj | with_reducible apply keeps_log | with_reducible apply keeps_syncForbid | with_reducible apply keeps_ignoredWrite | with_reducible apply keeps_unlink | (simp only [Keeps.lit]; with_reducible apply KeepsData.of) | (simp only [Keeps.lit]; with_reducible refine KeepsData.poke ?_ (fun w => ?_); rotate_left; first | exact mark_wf _ _ _ w | exact fold_wf _ _ (fun m x hm => poison_wf _ _ hm) w | exact fold_wf _ _ (fun m x hm => by split; exact poison_wf _ _ hm; exact hm) w | exact write_wf _ _ w | exact mark_wf _ _ _ (write_wf _ _ w)) | intro s hs | split)

theorem keeps_execSyncLinkWrite {a : State} (v0 : Access) (v1 : ℕ) (v2 : BitVec 64) (v3 : State) (h0 : Keeps a v3) : KeepsOut a (execSyncLinkWrite v0 v1 v2 v3) := by
  unfold execSyncLinkWrite
  try dsimp only
  repeat' (first | with_reducible assumption | with_reducible exact Keeps.refl _ | with_reducible apply KeepsOut.next | with_reducible apply Keeps.ite | with_reducible apply KeepsRes.ite | with_reducible apply KeepsFst.ite | with_reducible apply KeepsSnd.ite | with_reducible apply Keeps.id | with_reducible apply keeps_fabWrite | with_reducible apply keeps_linkWrite | with_reducible apply keeps_syncForbid | with_reducible apply keeps_ignoredWrite | (simp only [Keeps.lit]; with_reducible apply KeepsData.of) | (simp only [Keeps.lit]; with_reducible refine KeepsData.poke ?_ (fun w => ?_); rotate_left; first | exact mark_wf _ _ _ w | exact fold_wf _ _ (fun m x hm => poison_wf _ _ hm) w | exact fold_wf _ _ (fun m x hm => by split; exact poison_wf _ _ hm; exact hm) w | exact write_wf _ _ w | exact mark_wf _ _ _ (write_wf _ _ w)) | intro s hs | split | (with_reducible apply KeepsSnd.eq; with_reducible assumption) | (with_reducible apply KeepsFst.eq; with_reducible assumption))

theorem keeps_handWrite {a : State} (v0 : State) (v1 : Access) (v2 : ℕ) (v3 : BitVec 64) (v4 : Bool) (h0 : Keeps a v0) : Keeps a (State.handWrite v0 v1 v2 v3 v4) := by
  unfold State.handWrite
  try dsimp only
  repeat' (first | with_reducible assumption | with_reducible exact Keeps.refl _ | with_reducible apply Keeps.ite | with_reducible apply KeepsRes.ite | with_reducible apply KeepsFst.ite | with_reducible apply KeepsSnd.ite | with_reducible apply keeps_logStatus | with_reducible apply keeps_onObj | with_reducible apply keeps_log | with_reducible apply keeps_evalWatches | with_reducible apply keeps_ignoredWrite | (simp only [Keeps.lit]; with_reducible apply KeepsData.of) | (simp only [Keeps.lit]; with_reducible refine KeepsData.poke ?_ (fun w => ?_); rotate_left; first | exact mark_wf _ _ _ w | exact fold_wf _ _ (fun m x hm => poison_wf _ _ hm) w | exact fold_wf _ _ (fun m x hm => by split; exact poison_wf _ _ hm; exact hm) w | exact write_wf _ _ w | exact mark_wf _ _ _ (write_wf _ _ w)) | intro s hs | split)

theorem keeps_execSyncHandSet {a : State} (v0 : Access) (v1 : ℕ) (v2 : BitVec 64) (v3 : Ext) (v4 : State) (h0 : Keeps a v4) : KeepsOut a (execSyncHandSet v0 v1 v2 v3 v4) := by
  unfold execSyncHandSet
  try dsimp only
  repeat' (first | with_reducible assumption | with_reducible exact Keeps.refl _ | with_reducible apply KeepsOut.next | with_reducible apply Keeps.ite | with_reducible apply KeepsRes.ite | with_reducible apply KeepsFst.ite | with_reducible apply KeepsSnd.ite | with_reducible apply Keeps.id | with_reducible apply keeps_handWrite | with_reducible apply keeps_fabWrite | with_reducible apply keeps_syncForbid | (simp only [Keeps.lit]; with_reducible apply KeepsData.of) | (simp only [Keeps.lit]; with_reducible refine KeepsData.poke ?_ (fun w => ?_); rotate_left; first | exact mark_wf _ _ _ w | exact fold_wf _ _ (fun m x hm => poison_wf _ _ hm) w | exact fold_wf _ _ (fun m x hm => by split; exact poison_wf _ _ hm; exact hm) w | exact write_wf _ _ w | exact mark_wf _ _ _ (write_wf _ _ w)) | intro s hs | split | (with_reducible apply KeepsSnd.eq; with_reducible assumption) | (with_reducible apply KeepsFst.eq; with_reducible assumption))

theorem keeps_execSignalApertureWrite {a : State} (v0 : Access) (v1 : ℕ) (v2 : BitVec 64) (v3 : Bool) (v4 : Ext) (v5 : State) (h0 : Keeps a v5) : KeepsOut a (execSignalApertureWrite v0 v1 v2 v3 v4 v5) := by
  unfold execSignalApertureWrite
  try dsimp only
  repeat' (first | with_reducible assumption | with_reducible exact Keeps.refl _ | with_reducible apply KeepsOut.next | with_reducible apply Keeps.ite | with_reducible apply KeepsRes.ite | with_reducible apply KeepsFst.ite | with_reducible apply KeepsSnd.ite | with_reducible apply Keeps.id | with_reducible apply keeps_fabWrite | with_reducible apply keeps_logPartner | with_reducible apply keeps_syncForbid | with_reducible apply keeps_signal | (simp only [Keeps.lit]; with_reducible apply KeepsData.of) | (simp only [Keeps.lit]; with_reducible refine KeepsData.poke ?_ (fun w => ?_); rotate_left; first | exact mark_wf _ _ _ w | exact fold_wf _ _ (fun m x hm => poison_wf _ _ hm) w | exact fold_wf _ _ (fun m x hm => by split; exact poison_wf _ _ hm; exact hm) w | exact write_wf _ _ w | exact mark_wf _ _ _ (write_wf _ _ w)) | intro s hs | split | (with_reducible apply KeepsSnd.eq; with_reducible assumption) | (with_reducible apply KeepsFst.eq; with_reducible assumption))

theorem keeps_execSyncAlloc {a : State} (v0 : Sub) (v1 : Ext) (v2 : State) (h0 : Keeps a v2) : KeepsOut a (execSyncAlloc v0 v1 v2) := by
  unfold execSyncAlloc
  try dsimp only
  repeat' (first | with_reducible assumption | with_reducible exact Keeps.refl _ | with_reducible apply KeepsOut.next | with_reducible apply keeps_runOp | with_reducible apply keeps_bodySyncAlloc | with_reducible apply keeps_bodySyncAlloc' | (simp only [Keeps.lit]; with_reducible apply KeepsData.of))

theorem keeps_execSyncFree {a : State} (v0 : Sub) (v1 : Ext) (v2 : State) (h0 : Keeps a v2) : KeepsOut a (execSyncFree v0 v1 v2) := by
  unfold execSyncFree
  try dsimp only
  repeat' (first | with_reducible assumption | with_reducible exact Keeps.refl _ | with_reducible apply KeepsOut.next | with_reducible apply keeps_runOp | with_reducible apply keeps_bodySyncFree | with_reducible apply keeps_bodySyncFree' | (simp only [Keeps.lit]; with_reducible apply KeepsData.of))

theorem keeps_execSyncSignal {a : State} (v0 : Sub) (v1 : Ext) (v2 : State) (h0 : Keeps a v2) : KeepsOut a (execSyncSignal v0 v1 v2) := by
  unfold execSyncSignal
  try dsimp only
  repeat' (first | with_reducible assumption | with_reducible exact Keeps.refl _ | with_reducible apply KeepsOut.next | with_reducible apply keeps_bodySyncSignal | with_reducible apply keeps_bodySyncSignal' | with_reducible apply keeps_runOp | (simp only [Keeps.lit]; with_reducible apply KeepsData.of))

theorem keeps_execWatchSet {a : State} (v0 : Sub) (v1 : Ext) (v2 : State) (h0 : Keeps a v2) : KeepsOut a (execWatchSet v0 v1 v2) := by
  unfold execWatchSet
  try dsimp only
  repeat' (first | with_reducible assumption | with_reducible exact Keeps.refl _ | with_reducible apply KeepsOut.next | with_reducible apply keeps_runOp | with_reducible apply keeps_bodyWatchSet | with_reducible apply keeps_bodyWatchSet' | (simp only [Keeps.lit]; with_reducible apply KeepsData.of))

theorem keeps_execWatchClear {a : State} (v0 : Sub) (v1 : Ext) (v2 : State) (h0 : Keeps a v2) : KeepsOut a (execWatchClear v0 v1 v2) := by
  unfold execWatchClear
  try dsimp only
  repeat' (first | with_reducible assumption | with_reducible exact Keeps.refl _ | with_reducible apply KeepsOut.next | with_reducible apply keeps_runOp | with_reducible apply keeps_bodyWatchClear | with_reducible apply keeps_bodyWatchClear' | (simp only [Keeps.lit]; with_reducible apply KeepsData.of))

theorem keeps_execBarrierJoin {a : State} (v0 : Sub) (v1 : Ext) (v2 : State) (h0 : Keeps a v2) : KeepsOut a (execBarrierJoin v0 v1 v2) := by
  unfold execBarrierJoin
  try dsimp only
  repeat' (first | with_reducible assumption | with_reducible exact Keeps.refl _ | with_reducible apply KeepsOut.next | with_reducible apply keeps_runOp | with_reducible apply keeps_bodyBarrierJoin | with_reducible apply keeps_bodyBarrierJoin' | (simp only [Keeps.lit]; with_reducible apply KeepsData.of))

end Sys2Proof.Laws
end

