-- ==== Sys2Proof/Laws/KeepsStreams.lean ====
section
/-! SUPPORT. Every function of Machine/Streams.lean that answers a state keeps what no command may change. -/

namespace Sys2Proof.Laws
open Sys2Proof Sys2Proof.Machine
set_option linter.unreachableTactic false
set_option linter.unusedTactic false
set_option linter.unusedVariables false
set_option linter.unusedSimpArgs false
set_option maxRecDepth 4000

theorem keeps_onRun {a : State} (v0 : State) (v1 : ℕ) (v2 : StmRun → StmRun) (h0 : Keeps a v0) : Keeps a (State.onRun v0 v1 v2) := by
  unfold State.onRun
  try dsimp only
  repeat' (first | with_reducible assumption | with_reducible exact Keeps.refl _ | (simp only [Keeps.lit]; with_reducible apply KeepsData.of))

theorem keeps_onStm {a : State} (v0 : State) (v1 : ℕ) (v2 : Stm → Stm) (h0 : Keeps a v0) : Keeps a (State.onStm v0 v1 v2) := by
  unfold State.onStm
  try dsimp only
  repeat' (first | with_reducible assumption | with_reducible exact Keeps.refl _ | (simp only [Keeps.lit]; with_reducible apply KeepsData.of))

theorem keeps_discard {a : State} (v0 : State) (v1 : ℕ) (v2 : ℕ) (h0 : Keeps a v0) : Keeps a (State.discard v0 v1 v2) := by
  unfold State.discard
  try dsimp only
  repeat' (first | with_reducible assumption | with_reducible exact Keeps.refl _ | with_reducible apply keeps_onUn | (simp only [Keeps.lit]; with_reducible apply KeepsData.of))

theorem keeps_staleGen {a : State} (v0 : State) (v1 : ℕ) (h0 : Keeps a v0) : Keeps a (State.staleGen v0 v1) := by
  unfold State.staleGen
  try dsimp only
  repeat' (first | with_reducible assumption | with_reducible exact Keeps.refl _ | with_reducible apply keeps_log | (simp only [Keeps.lit]; with_reducible apply KeepsData.of))

theorem keeps_dropStreamClamp {a : State} (v0 : State) (v1 : ℕ) (h0 : Keeps a v0) : Keeps a (State.dropStreamClamp v0 v1) := by
  unfold State.dropStreamClamp
  try dsimp only
  repeat' (first | with_reducible assumption | with_reducible exact Keeps.refl _ | (simp only [Keeps.lit]; with_reducible apply KeepsData.of))

theorem keeps_freeStream {a : State} (v0 : State) (v1 : ℕ) (h0 : Keeps a v0) : Keeps a (State.freeStream v0 v1) := by
  unfold State.freeStream
  try dsimp only
  repeat' (first | with_reducible assumption | with_reducible exact Keeps.refl _ | with_reducible apply keeps_dropStreamClamp | (simp only [Keeps.lit]; with_reducible apply KeepsData.of))

theorem keeps_stopApply {a : State} (v0 : State) (v1 : ℕ) (h0 : Keeps a v0) : Keeps a (State.stopApply v0 v1) := by
  unfold State.stopApply
  try dsimp only
  repeat' (first | with_reducible assumption | with_reducible exact Keeps.refl _ | with_reducible apply keeps_onStep | (simp only [Keeps.lit]; with_reducible apply KeepsData.of))

theorem keeps_endRunning {a : State} (v0 : State) (v1 : Cmd) (v2 : BitVec 16) (h0 : Keeps a v0) : Keeps a (State.endRunning v0 v1 v2) := by
  unfold State.endRunning
  try dsimp only
  repeat' (first | with_reducible assumption | with_reducible exact Keeps.refl _ | with_reducible apply Keeps.ite | with_reducible apply KeepsRes.ite | with_reducible apply KeepsFst.ite | with_reducible apply KeepsSnd.ite | with_reducible apply keeps_finish | with_reducible apply keeps_stopApply | (simp only [Keeps.lit]; with_reducible apply KeepsData.of) | (simp only [Keeps.lit]; with_reducible refine KeepsData.poke ?_ (fun w => ?_); rotate_left; first | exact mark_wf _ _ _ w | exact fold_wf _ _ (fun m x hm => poison_wf _ _ hm) w | exact fold_wf _ _ (fun m x hm => by split; exact poison_wf _ _ hm; exact hm) w | exact write_wf _ _ w | exact mark_wf _ _ _ (write_wf _ _ w)) | intro s hs | split)

theorem keeps_endBound {a : State} (v0 : State) (v1 : ℕ) (v2 : BitVec 16) (h0 : Keeps a v0) : Keeps a (State.endBound v0 v1 v2) := by
  unfold State.endBound
  try dsimp only
  repeat' (first | with_reducible assumption | with_reducible exact Keeps.refl _ | with_reducible apply Keeps.ite | with_reducible apply KeepsRes.ite | with_reducible apply KeepsFst.ite | with_reducible apply KeepsSnd.ite | with_reducible apply keeps_endRunning | (simp only [Keeps.lit]; with_reducible apply KeepsData.of) | (simp only [Keeps.lit]; with_reducible refine KeepsData.poke ?_ (fun w => ?_); rotate_left; first | exact mark_wf _ _ _ w | exact fold_wf _ _ (fun m x hm => poison_wf _ _ hm) w | exact fold_wf _ _ (fun m x hm => by split; exact poison_wf _ _ hm; exact hm) w | exact write_wf _ _ w | exact mark_wf _ _ _ (write_wf _ _ w)) | intro s hs | split)

theorem keeps_faultStream {a : State} (v0 : State) (v1 : ℕ) (v2 : BitVec 16) (v3 : ℕ) (h0 : Keeps a v0) : Keeps a (State.faultStream v0 v1 v2 v3) := by
  unfold State.faultStream
  try dsimp only
  repeat' (first | with_reducible assumption | with_reducible exact Keeps.refl _ | with_reducible apply keeps_logStatus | with_reducible apply keeps_onRun | with_reducible apply keeps_endBound | (simp only [Keeps.lit]; with_reducible apply KeepsData.of))

theorem keeps_firePosts {a : State} (v0 : State) (v1 : ℕ) (h0 : Keeps a v0) : Keeps a (State.firePosts v0 v1) := by
  unfold State.firePosts
  try dsimp only
  repeat' (first | with_reducible assumption | with_reducible exact Keeps.refl _ | with_reducible apply Keeps.ite | with_reducible apply KeepsRes.ite | with_reducible apply KeepsFst.ite | with_reducible apply KeepsSnd.ite | with_reducible apply KeepsFst.mk | with_reducible apply KeepsSnd.mk | with_reducible apply KeepsRes.mk | with_reducible apply Keeps.id | with_reducible apply keeps_onRun | with_reducible apply keeps_signal | (with_reducible refine Keeps.foldl _ ?_ ?_; intro s x hs; try dsimp only) | (with_reducible refine Keeps.foldl1 _ ?_ ?_; (intro p x hs; replace hs := KeepsFst.fst hs; try dsimp only)) | (with_reducible refine Keeps.foldl2 _ ?_ ?_; (intro p x hs; replace hs := KeepsSnd.snd hs; try dsimp only)) | (with_reducible refine KeepsFst.foldl _ ?_ ?_; (intro p x hs; replace hs := KeepsFst.fst hs; try dsimp only)) | (with_reducible refine KeepsSnd.foldl _ ?_ ?_; (intro p x hs; replace hs := KeepsSnd.snd hs; try dsimp only)) | (simp only [Keeps.lit]; with_reducible apply KeepsData.of) | (simp only [Keeps.lit]; with_reducible refine KeepsData.poke ?_ (fun w => ?_); rotate_left; first | exact mark_wf _ _ _ w | exact fold_wf _ _ (fun m x hm => poison_wf _ _ hm) w | exact fold_wf _ _ (fun m x hm => by split; exact poison_wf _ _ hm; exact hm) w | exact write_wf _ _ w | exact mark_wf _ _ _ (write_wf _ _ w)) | intro s hs | split | (with_reducible apply KeepsSnd.eq; with_reducible assumption) | (with_reducible apply KeepsFst.eq; with_reducible assumption))

theorem keeps_returnCredits {a : State} (v0 : State) (v1 : ℕ) (h0 : Keeps a v0) : Keeps a (State.returnCredits v0 v1) := by
  unfold State.returnCredits
  try dsimp only
  repeat' (first | with_reducible assumption | with_reducible exact Keeps.refl _ | with_reducible apply keeps_onRun | (simp only [Keeps.lit]; with_reducible apply KeepsData.of))

theorem keeps_issueSpan {a : State} (v0 : State) (v1 : ℕ) (v2 : Stm) (v3 : StmRun) (v4 : ℕ) (v5 : ℕ) (h0 : Keeps a v0) : Keeps a (State.issueSpan v0 v1 v2 v3 v4 v5) := by
  unfold State.issueSpan
  try dsimp only
  repeat' (first | with_reducible assumption | with_reducible exact Keeps.refl _ | with_reducible apply Keeps.ite | with_reducible apply KeepsRes.ite | with_reducible apply KeepsFst.ite | with_reducible apply KeepsSnd.ite | with_reducible apply keeps_onSt | with_reducible apply keeps_onRun | (simp only [Keeps.lit]; with_reducible apply KeepsData.of) | (simp only [Keeps.lit]; with_reducible refine KeepsData.poke ?_ (fun w => ?_); rotate_left; first | exact mark_wf _ _ _ w | exact fold_wf _ _ (fun m x hm => poison_wf _ _ hm) w | exact fold_wf _ _ (fun m x hm => by split; exact poison_wf _ _ hm; exact hm) w | exact write_wf _ _ w | exact mark_wf _ _ _ (write_wf _ _ w)) | intro s hs | split)

theorem keeps_streamWrite {a : State} (v0 : State) (v1 : ℕ) (v2 : ℕ) (v3 : List (Byte × Bool)) (h0 : Keeps a v0) : Keeps a (State.streamWrite v0 v1 v2 v3) := by
  induction v1 generalizing v0 v2 v3 with
  | zero => cases v3 <;> (unfold State.streamWrite; try dsimp only); repeat' (first | with_reducible assumption | with_reducible exact Keeps.refl _ | with_reducible apply Keeps.ite | with_reducible apply KeepsRes.ite | with_reducible apply KeepsFst.ite | with_reducible apply KeepsSnd.ite | with_reducible apply KeepsFst.mk | with_reducible apply KeepsSnd.mk | with_reducible apply KeepsRes.mk | with_reducible apply keeps_poke | with_reducible apply keeps_kWrite | with_reducible apply ih | (with_reducible apply KeepsRes.fst; with_reducible apply ih) | (with_reducible apply KeepsFst.fst; with_reducible apply ih) | (simp only [Keeps.lit]; with_reducible apply KeepsData.of) | (simp only [Keeps.lit]; with_reducible refine KeepsData.poke ?_ (fun w => ?_); rotate_left; first | exact mark_wf _ _ _ w | exact fold_wf _ _ (fun m x hm => poison_wf _ _ hm) w | exact fold_wf _ _ (fun m x hm => by split; exact poison_wf _ _ hm; exact hm) w | exact write_wf _ _ w | exact mark_wf _ _ _ (write_wf _ _ w)) | intro s hs | split)
  | succ k ih => cases v3 <;> (unfold State.streamWrite; try dsimp only); repeat' (first | with_reducible assumption | with_reducible exact Keeps.refl _ | with_reducible apply Keeps.ite | with_reducible apply KeepsRes.ite | with_reducible apply KeepsFst.ite | with_reducible apply KeepsSnd.ite | with_reducible apply KeepsFst.mk | with_reducible apply KeepsSnd.mk | with_reducible apply KeepsRes.mk | with_reducible apply keeps_poke | with_reducible apply keeps_kWrite | with_reducible apply ih | (with_reducible apply KeepsRes.fst; with_reducible apply ih) | (with_reducible apply KeepsFst.fst; with_reducible apply ih) | (simp only [Keeps.lit]; with_reducible apply KeepsData.of) | (simp only [Keeps.lit]; with_reducible refine KeepsData.poke ?_ (fun w => ?_); rotate_left; first | exact mark_wf _ _ _ w | exact fold_wf _ _ (fun m x hm => poison_wf _ _ hm) w | exact fold_wf _ _ (fun m x hm => by split; exact poison_wf _ _ hm; exact hm) w | exact write_wf _ _ w | exact mark_wf _ _ _ (write_wf _ _ w)) | intro s hs | split)

theorem keeps_writeSpan {a : State} (v0 : State) (v1 : ℕ) (v2 : Stm) (v3 : StmRun) (v4 : TagRef × Option TagRef) (v5 : ℕ) (v6 : ℕ) (h0 : Keeps a v0) : Keeps a (State.writeSpan v0 v1 v2 v3 v4 v5 v6) := by
  unfold State.writeSpan
  try dsimp only
  repeat' (first | with_reducible assumption | with_reducible exact Keeps.refl _ | with_reducible apply Keeps.ite | with_reducible apply KeepsRes.ite | with_reducible apply KeepsFst.ite | with_reducible apply KeepsSnd.ite | with_reducible apply keeps_onSt | with_reducible apply keeps_streamWrite | (simp only [Keeps.lit]; with_reducible apply KeepsData.of) | (simp only [Keeps.lit]; with_reducible refine KeepsData.poke ?_ (fun w => ?_); rotate_left; first | exact mark_wf _ _ _ w | exact fold_wf _ _ (fun m x hm => poison_wf _ _ hm) w | exact fold_wf _ _ (fun m x hm => by split; exact poison_wf _ _ hm; exact hm) w | exact write_wf _ _ w | exact mark_wf _ _ _ (write_wf _ _ w)) | intro s hs | split)

theorem keeps_drainStream {a : State} (v0 : State) (v1 : ℕ) (v2 : Bool) (v3 : ℕ) (h0 : Keeps a v0) : Keeps a (State.drainStream v0 v1 v2 v3) := by
  induction v3 generalizing v0 with
  | zero => unfold State.drainStream; (try dsimp only); repeat' (first | with_reducible assumption | with_reducible exact Keeps.refl _ | with_reducible apply Keeps.ite | with_reducible apply KeepsRes.ite | with_reducible apply KeepsFst.ite | with_reducible apply KeepsSnd.ite | with_reducible apply keeps_wait | with_reducible apply keeps_wait' | with_reducible apply keeps_onRun | with_reducible apply keeps_discard | with_reducible apply keeps_faultStream | with_reducible apply keeps_firePosts | with_reducible apply keeps_writeSpan | with_reducible apply ih | (with_reducible apply KeepsRes.fst; with_reducible apply ih) | (with_reducible apply KeepsFst.fst; with_reducible apply ih) | (simp only [Keeps.lit]; with_reducible apply KeepsData.of) | (simp only [Keeps.lit]; with_reducible refine KeepsData.poke ?_ (fun w => ?_); rotate_left; first | exact mark_wf _ _ _ w | exact fold_wf _ _ (fun m x hm => poison_wf _ _ hm) w | exact fold_wf _ _ (fun m x hm => by split; exact poison_wf _ _ hm; exact hm) w | exact write_wf _ _ w | exact mark_wf _ _ _ (write_wf _ _ w)) | intro s hs | split)
  | succ k ih => unfold State.drainStream; (try dsimp only); repeat' (first | with_reducible assumption | with_reducible exact Keeps.refl _ | with_reducible apply Keeps.ite | with_reducible apply KeepsRes.ite | with_reducible apply KeepsFst.ite | with_reducible apply KeepsSnd.ite | with_reducible apply keeps_wait | with_reducible apply keeps_wait' | with_reducible apply keeps_onRun | with_reducible apply keeps_discard | with_reducible apply keeps_faultStream | with_reducible apply keeps_firePosts | with_reducible apply keeps_writeSpan | with_reducible apply ih | (with_reducible apply KeepsRes.fst; with_reducible apply ih) | (with_reducible apply KeepsFst.fst; with_reducible apply ih) | (simp only [Keeps.lit]; with_reducible apply KeepsData.of) | (simp only [Keeps.lit]; with_reducible refine KeepsData.poke ?_ (fun w => ?_); rotate_left; first | exact mark_wf _ _ _ w | exact fold_wf _ _ (fun m x hm => poison_wf _ _ hm) w | exact fold_wf _ _ (fun m x hm => by split; exact poison_wf _ _ hm; exact hm) w | exact write_wf _ _ w | exact mark_wf _ _ _ (write_wf _ _ w)) | intro s hs | split)

theorem keeps_execStreamIssue {a : State} (v0 : ℕ) (v1 : Ext) (v2 : State) (h0 : Keeps a v2) : KeepsOut a (execStreamIssue v0 v1 v2) := by
  unfold execStreamIssue
  try dsimp only
  repeat' (first | with_reducible assumption | with_reducible exact Keeps.refl _ | with_reducible apply KeepsOut.next | with_reducible apply Keeps.ite | with_reducible apply KeepsRes.ite | with_reducible apply KeepsFst.ite | with_reducible apply KeepsSnd.ite | with_reducible apply keeps_drainStream | with_reducible apply keeps_onRun | with_reducible apply keeps_issueSpan | with_reducible apply keeps_firePosts | with_reducible apply keeps_faultStream | (simp only [Keeps.lit]; with_reducible apply KeepsData.of) | (simp only [Keeps.lit]; with_reducible refine KeepsData.poke ?_ (fun w => ?_); rotate_left; first | exact mark_wf _ _ _ w | exact fold_wf _ _ (fun m x hm => poison_wf _ _ hm) w | exact fold_wf _ _ (fun m x hm => by split; exact poison_wf _ _ hm; exact hm) w | exact write_wf _ _ w | exact mark_wf _ _ _ (write_wf _ _ w)) | intro s hs | split)

theorem keeps_settleClose {a : State} (v0 : State) (v1 : ℕ) (h0 : Keeps a v0) : Keeps a (State.settleClose v0 v1) := by
  unfold State.settleClose
  try dsimp only
  repeat' (first | with_reducible assumption | with_reducible exact Keeps.refl _ | with_reducible apply Keeps.ite | with_reducible apply KeepsRes.ite | with_reducible apply KeepsFst.ite | with_reducible apply KeepsSnd.ite | with_reducible apply keeps_done | with_reducible apply keeps_done' | with_reducible apply keeps_conclude | with_reducible apply keeps_freeStream | (simp only [Keeps.lit]; with_reducible apply KeepsData.of) | (simp only [Keeps.lit]; with_reducible refine KeepsData.poke ?_ (fun w => ?_); rotate_left; first | exact mark_wf _ _ _ w | exact fold_wf _ _ (fun m x hm => poison_wf _ _ hm) w | exact fold_wf _ _ (fun m x hm => by split; exact poison_wf _ _ hm; exact hm) w | exact write_wf _ _ w | exact mark_wf _ _ _ (write_wf _ _ w)) | intro s hs | split)

theorem keeps_settleWrites {a : State} (v0 : State) (v1 : ℕ) (h0 : Keeps a v0) : Keeps a (State.settleWrites v0 v1) := by
  unfold State.settleWrites
  try dsimp only
  repeat' (first | with_reducible assumption | with_reducible exact Keeps.refl _ | with_reducible apply KeepsFst.mk | with_reducible apply KeepsSnd.mk | with_reducible apply KeepsRes.mk | with_reducible apply keeps_settleClose | with_reducible apply keeps_onRun | with_reducible apply keeps_firePosts | (simp only [Keeps.lit]; with_reducible apply KeepsData.of))

theorem keeps_writeFails {a : State} (v0 : State) (v1 : ℕ) (v2 : TagUse) (h0 : Keeps a v0) : Keeps a (State.writeFails v0 v1 v2) := by
  unfold State.writeFails
  try dsimp only
  repeat' (first | with_reducible assumption | with_reducible exact Keeps.refl _ | with_reducible apply Keeps.ite | with_reducible apply KeepsRes.ite | with_reducible apply KeepsFst.ite | with_reducible apply KeepsSnd.ite | with_reducible apply keeps_onRun | with_reducible apply keeps_undefBuf | with_reducible apply keeps_faultStream | (simp only [Keeps.lit]; with_reducible apply KeepsData.of) | (simp only [Keeps.lit]; with_reducible refine KeepsData.poke ?_ (fun w => ?_); rotate_left; first | exact mark_wf _ _ _ w | exact fold_wf _ _ (fun m x hm => poison_wf _ _ hm) w | exact fold_wf _ _ (fun m x hm => by split; exact poison_wf _ _ hm; exact hm) w | exact write_wf _ _ w | exact mark_wf _ _ _ (write_wf _ _ w)) | intro s hs | split)

theorem keeps_acked {a : State} (v0 : State) (v1 : TagUse) (v2 : Bool) (h0 : Keeps a v0) : Keeps a (State.acked v0 v1 v2) := by
  unfold State.acked
  try dsimp only
  repeat' (first | with_reducible assumption | with_reducible exact Keeps.refl _ | with_reducible apply Keeps.ite | with_reducible apply KeepsRes.ite | with_reducible apply KeepsFst.ite | with_reducible apply KeepsSnd.ite | with_reducible apply keeps_settleClose | with_reducible apply keeps_staleGen | with_reducible apply keeps_settleWrites | with_reducible apply keeps_onRun | with_reducible apply keeps_writeFails | with_reducible apply keeps_undefBuf | (simp only [Keeps.lit]; with_reducible apply KeepsData.of) | (simp only [Keeps.lit]; with_reducible refine KeepsData.poke ?_ (fun w => ?_); rotate_left; first | exact mark_wf _ _ _ w | exact fold_wf _ _ (fun m x hm => poison_wf _ _ hm) w | exact fold_wf _ _ (fun m x hm => by split; exact poison_wf _ _ hm; exact hm) w | exact write_wf _ _ w | exact mark_wf _ _ _ (write_wf _ _ w)) | intro s hs | split)

theorem keeps_land {a : State} (v0 : State) (v1 : ℕ) (v2 : Answer) (h0 : Keeps a v0) : Keeps a (State.land v0 v1 v2) := by
  unfold State.land
  try dsimp only
  repeat' (first | with_reducible assumption | with_reducible exact Keeps.refl _ | with_reducible apply Keeps.ite | with_reducible apply KeepsRes.ite | with_reducible apply KeepsFst.ite | with_reducible apply KeepsSnd.ite | with_reducible apply keeps_settleClose | with_reducible apply keeps_staleGen | with_reducible apply keeps_returnCredits | with_reducible apply keeps_discard | with_reducible apply keeps_onRun | with_reducible apply keeps_faultStream | (simp only [Keeps.lit]; with_reducible apply KeepsData.of) | (simp only [Keeps.lit]; with_reducible refine KeepsData.poke ?_ (fun w => ?_); rotate_left; first | exact mark_wf _ _ _ w | exact fold_wf _ _ (fun m x hm => poison_wf _ _ hm) w | exact fold_wf _ _ (fun m x hm => by split; exact poison_wf _ _ hm; exact hm) w | exact write_wf _ _ w | exact mark_wf _ _ _ (write_wf _ _ w)) | intro s hs | split)

theorem keeps_execStreamLanding {a : State} (v0 : ℕ) (v1 : Ext) (v2 : State) (h0 : Keeps a v2) : KeepsOut a (execStreamLanding v0 v1 v2) := by
  unfold execStreamLanding
  try dsimp only
  repeat' (first | with_reducible assumption | with_reducible exact Keeps.refl _ | with_reducible apply KeepsOut.next | with_reducible apply Keeps.ite | with_reducible apply KeepsRes.ite | with_reducible apply KeepsFst.ite | with_reducible apply KeepsSnd.ite | with_reducible apply keeps_land | (simp only [Keeps.lit]; with_reducible apply KeepsData.of) | (simp only [Keeps.lit]; with_reducible refine KeepsData.poke ?_ (fun w => ?_); rotate_left; first | exact mark_wf _ _ _ w | exact fold_wf _ _ (fun m x hm => poison_wf _ _ hm) w | exact fold_wf _ _ (fun m x hm => by split; exact poison_wf _ _ hm; exact hm) w | exact write_wf _ _ w | exact mark_wf _ _ _ (write_wf _ _ w)) | intro s hs | split)

theorem keeps_takeStream {a : State} (v0 : State) (v1 : ℕ) (v2 : ℕ) (h0 : Keeps a v0) : KeepsOpt Prod.snd a (State.takeStream v0 v1 v2) := by
  unfold State.takeStream
  try dsimp only
  repeat' (first | with_reducible assumption | with_reducible exact Keeps.refl _ | with_reducible apply Keeps.ite | with_reducible apply KeepsRes.ite | with_reducible apply KeepsFst.ite | with_reducible apply KeepsSnd.ite | with_reducible apply KeepsSnd.mk | (with_reducible refine KeepsOpt.map (k := Prod.snd) ?_ (fun _ h => h)) | with_reducible apply KeepsOpt.ite | with_reducible exact KeepsOpt.none | with_reducible apply KeepsOpt.some | with_reducible apply keeps_returnCredits | with_reducible apply keeps_onRun | with_reducible apply keeps_firePosts | (simp only [Keeps.lit]; with_reducible apply KeepsData.of) | (simp only [Keeps.lit]; with_reducible refine KeepsData.poke ?_ (fun w => ?_); rotate_left; first | exact mark_wf _ _ _ w | exact fold_wf _ _ (fun m x hm => poison_wf _ _ hm) w | exact fold_wf _ _ (fun m x hm => by split; exact poison_wf _ _ hm; exact hm) w | exact write_wf _ _ w | exact mark_wf _ _ _ (write_wf _ _ w)) | split | intro s hs)
theorem keeps_takeStream_e {a t : State} {v0 : State} {v1 : ℕ} {v2 : ℕ} {b : _} (e : State.takeStream v0 v1 v2 = some (b, t)) (h0 : Keeps a v0) : Keeps a t := KeepsOpt.eq e (keeps_takeStream v0 v1 v2 h0)

theorem keeps_giveStream {a : State} (v0 : State) (v1 : ℕ) (v2 : List (Byte × Bool)) (h0 : Keeps a v0) : Keeps a (State.giveStream v0 v1 v2) := by
  unfold State.giveStream
  try dsimp only
  repeat' (first | with_reducible assumption | with_reducible exact Keeps.refl _ | with_reducible apply keeps_drainStream | with_reducible apply keeps_onRun | (simp only [Keeps.lit]; with_reducible apply KeepsData.of))

theorem keeps_bodyStreamOpen {a : State} (v0 : Sub) (v1 : Ext) (v2 : Bool) (v3 : State) (h0 : Keeps a v3) : KeepsRes a (bodyStreamOpen v0 v1 v2 v3) := by
  unfold bodyStreamOpen
  try dsimp only
  repeat' (first | with_reducible assumption | with_reducible exact Keeps.refl _ | with_reducible apply Keeps.ite | with_reducible apply KeepsRes.ite | with_reducible apply KeepsFst.ite | with_reducible apply KeepsSnd.ite | with_reducible apply KeepsRes.mk | with_reducible apply keeps_done | with_reducible apply keeps_done' | with_reducible apply keeps_reject | with_reducible apply keeps_reject' | with_reducible apply keeps_fail | with_reducible apply keeps_fail' | (simp only [Keeps.lit]; with_reducible apply KeepsData.of) | (simp only [Keeps.lit]; with_reducible refine KeepsData.poke ?_ (fun w => ?_); rotate_left; first | exact mark_wf _ _ _ w | exact fold_wf _ _ (fun m x hm => poison_wf _ _ hm) w | exact fold_wf _ _ (fun m x hm => by split; exact poison_wf _ _ hm; exact hm) w | exact write_wf _ _ w | exact mark_wf _ _ _ (write_wf _ _ w)) | intro s hs | split)
theorem keeps_bodyStreamOpen' {a : State} (v0 : Sub) (v1 : Ext) (v2 : Bool) (v3 : State) (h0 : Keeps a v3) : Keeps a (bodyStreamOpen v0 v1 v2 v3).s := keeps_bodyStreamOpen v0 v1 v2 v3 h0

theorem keeps_bodyStreamClose {a : State} (v0 : Sub) (v1 : State) (h0 : Keeps a v1) : KeepsRes a (bodyStreamClose v0 v1) := by
  unfold bodyStreamClose
  try dsimp only
  repeat' (first | with_reducible assumption | with_reducible exact Keeps.refl _ | with_reducible apply Keeps.ite | with_reducible apply KeepsRes.ite | with_reducible apply KeepsFst.ite | with_reducible apply KeepsSnd.ite | with_reducible apply KeepsFst.mk | with_reducible apply KeepsSnd.mk | with_reducible apply KeepsRes.mk | with_reducible apply keeps_done | with_reducible apply keeps_done' | with_reducible apply keeps_wait | with_reducible apply keeps_wait' | with_reducible apply keeps_reject | with_reducible apply keeps_reject' | with_reducible apply keeps_discard | with_reducible apply keeps_onRun | with_reducible apply keeps_freeStream | with_reducible apply keeps_fail | with_reducible apply keeps_fail' | (simp only [Keeps.lit]; with_reducible apply KeepsData.of) | (simp only [Keeps.lit]; with_reducible refine KeepsData.poke ?_ (fun w => ?_); rotate_left; first | exact mark_wf _ _ _ w | exact fold_wf _ _ (fun m x hm => poison_wf _ _ hm) w | exact fold_wf _ _ (fun m x hm => by split; exact poison_wf _ _ hm; exact hm) w | exact write_wf _ _ w | exact mark_wf _ _ _ (write_wf _ _ w)) | intro s hs | split)
theorem keeps_bodyStreamClose' {a : State} (v0 : Sub) (v1 : State) (h0 : Keeps a v1) : Keeps a (bodyStreamClose v0 v1).s := keeps_bodyStreamClose v0 v1 h0

theorem keeps_markTags {a : State} (v0 : State) (v1 : ℕ) (v2 : ℕ) (v3 : ℕ) (h0 : Keeps a v0) : Keeps a (State.markTags v0 v1 v2 v3) := by
  unfold State.markTags
  try dsimp only
  repeat' (first | with_reducible assumption | with_reducible exact Keeps.refl _ | (simp only [Keeps.lit]; with_reducible apply KeepsData.of))

theorem keeps_bodyStreamSeek {a : State} (v0 : Sub) (v1 : State) (h0 : Keeps a v1) : KeepsRes a (bodyStreamSeek v0 v1) := by
  unfold bodyStreamSeek
  try dsimp only
  repeat' (first | with_reducible assumption | with_reducible exact Keeps.refl _ | with_reducible apply Keeps.ite | with_reducible apply KeepsRes.ite | with_reducible apply KeepsFst.ite | with_reducible apply KeepsSnd.ite | with_reducible apply KeepsFst.mk | with_reducible apply KeepsSnd.mk | with_reducible apply KeepsRes.mk | with_reducible apply keeps_done | with_reducible apply keeps_done' | with_reducible apply keeps_returnCredits | with_reducible apply keeps_markTags | with_reducible apply keeps_reject | with_reducible apply keeps_reject' | with_reducible apply keeps_discard | with_reducible apply keeps_onRun | with_reducible apply keeps_badParam | with_reducible apply keeps_badParam' | with_reducible apply keeps_fail | with_reducible apply keeps_fail' | (simp only [Keeps.lit]; with_reducible apply KeepsData.of) | (simp only [Keeps.lit]; with_reducible refine KeepsData.poke ?_ (fun w => ?_); rotate_left; first | exact mark_wf _ _ _ w | exact fold_wf _ _ (fun m x hm => poison_wf _ _ hm) w | exact fold_wf _ _ (fun m x hm => by split; exact poison_wf _ _ hm; exact hm) w | exact write_wf _ _ w | exact mark_wf _ _ _ (write_wf _ _ w)) | intro s hs | split)
theorem keeps_bodyStreamSeek' {a : State} (v0 : Sub) (v1 : State) (h0 : Keeps a v1) : Keeps a (bodyStreamSeek v0 v1).s := keeps_bodyStreamSeek v0 v1 h0

theorem keeps_bodyStreamCancel {a : State} (v0 : Sub) (v1 : State) (h0 : Keeps a v1) : KeepsRes a (bodyStreamCancel v0 v1) := by
  unfold bodyStreamCancel
  try dsimp only
  repeat' (first | with_reducible assumption | with_reducible exact Keeps.refl _ | with_reducible apply Keeps.ite | with_reducible apply KeepsRes.ite | with_reducible apply KeepsFst.ite | with_reducible apply KeepsSnd.ite | with_reducible apply KeepsFst.mk | with_reducible apply KeepsSnd.mk | with_reducible apply KeepsRes.mk | with_reducible apply keeps_done | with_reducible apply keeps_done' | with_reducible apply keeps_conclude | with_reducible apply keeps_reject | with_reducible apply keeps_reject' | with_reducible apply keeps_discard | with_reducible apply keeps_freeStream | with_reducible apply keeps_fail | with_reducible apply keeps_fail' | with_reducible apply keeps_endBound | (simp only [Keeps.lit]; with_reducible apply KeepsData.of) | (simp only [Keeps.lit]; with_reducible refine KeepsData.poke ?_ (fun w => ?_); rotate_left; first | exact mark_wf _ _ _ w | exact fold_wf _ _ (fun m x hm => poison_wf _ _ hm) w | exact fold_wf _ _ (fun m x hm => by split; exact poison_wf _ _ hm; exact hm) w | exact write_wf _ _ w | exact mark_wf _ _ _ (write_wf _ _ w)) | intro s hs | split)
theorem keeps_bodyStreamCancel' {a : State} (v0 : Sub) (v1 : State) (h0 : Keeps a v1) : Keeps a (bodyStreamCancel v0 v1).s := keeps_bodyStreamCancel v0 v1 h0

theorem keeps_bodyK2Credit {a : State} (v0 : Sub) (v1 : State) (h0 : Keeps a v1) : KeepsRes a (bodyK2Credit v0 v1) := by
  unfold bodyK2Credit
  try dsimp only
  repeat' (first | with_reducible assumption | with_reducible exact Keeps.refl _ | with_reducible apply Keeps.ite | with_reducible apply KeepsRes.ite | with_reducible apply KeepsFst.ite | with_reducible apply KeepsSnd.ite | with_reducible apply KeepsRes.mk | with_reducible apply keeps_done | with_reducible apply keeps_done' | with_reducible apply keeps_onCh | with_reducible apply keeps_badParam | with_reducible apply keeps_badParam' | with_reducible apply keeps_fail | with_reducible apply keeps_fail' | (simp only [Keeps.lit]; with_reducible apply KeepsData.of) | (simp only [Keeps.lit]; with_reducible refine KeepsData.poke ?_ (fun w => ?_); rotate_left; first | exact mark_wf _ _ _ w | exact fold_wf _ _ (fun m x hm => poison_wf _ _ hm) w | exact fold_wf _ _ (fun m x hm => by split; exact poison_wf _ _ hm; exact hm) w | exact write_wf _ _ w | exact mark_wf _ _ _ (write_wf _ _ w)) | intro s hs | split)
theorem keeps_bodyK2Credit' {a : State} (v0 : Sub) (v1 : State) (h0 : Keeps a v1) : Keeps a (bodyK2Credit v0 v1).s := keeps_bodyK2Credit v0 v1 h0

theorem keeps_execDependenceTimeout {a : State} (v0 : ℕ) (v1 : State) (h0 : Keeps a v1) : KeepsOut a (execDependenceTimeout v0 v1) := by
  unfold execDependenceTimeout
  try dsimp only
  repeat' (first | with_reducible assumption | with_reducible exact Keeps.refl _ | with_reducible apply KeepsOut.next | with_reducible apply Keeps.ite | with_reducible apply KeepsRes.ite | with_reducible apply KeepsFst.ite | with_reducible apply KeepsSnd.ite | with_reducible apply keeps_endBound | (simp only [Keeps.lit]; with_reducible apply KeepsData.of) | (simp only [Keeps.lit]; with_reducible refine KeepsData.poke ?_ (fun w => ?_); rotate_left; first | exact mark_wf _ _ _ w | exact fold_wf _ _ (fun m x hm => poison_wf _ _ hm) w | exact fold_wf _ _ (fun m x hm => by split; exact poison_wf _ _ hm; exact hm) w | exact write_wf _ _ w | exact mark_wf _ _ _ (write_wf _ _ w)) | intro s hs | split)

theorem keeps_execStreamOpen {a : State} (v0 : Sub) (v1 : Ext) (v2 : State) (h0 : Keeps a v2) : KeepsOut a (execStreamOpen v0 v1 v2) := by
  unfold execStreamOpen
  try dsimp only
  repeat' (first | with_reducible assumption | with_reducible exact Keeps.refl _ | with_reducible apply KeepsOut.next | with_reducible apply keeps_bodyStreamOpen | with_reducible apply keeps_bodyStreamOpen' | with_reducible apply keeps_runOp | (simp only [Keeps.lit]; with_reducible apply KeepsData.of))

theorem keeps_execStreamClose {a : State} (v0 : Sub) (v1 : Ext) (v2 : State) (h0 : Keeps a v2) : KeepsOut a (execStreamClose v0 v1 v2) := by
  unfold execStreamClose
  try dsimp only
  repeat' (first | with_reducible assumption | with_reducible exact Keeps.refl _ | with_reducible apply KeepsOut.next | with_reducible apply keeps_runOp | with_reducible apply keeps_bodyStreamClose | with_reducible apply keeps_bodyStreamClose' | (simp only [Keeps.lit]; with_reducible apply KeepsData.of))

theorem keeps_execStreamSeek {a : State} (v0 : Sub) (v1 : Ext) (v2 : State) (h0 : Keeps a v2) : KeepsOut a (execStreamSeek v0 v1 v2) := by
  unfold execStreamSeek
  try dsimp only
  repeat' (first | with_reducible assumption | with_reducible exact Keeps.refl _ | with_reducible apply KeepsOut.next | with_reducible apply keeps_runOp | with_reducible apply keeps_bodyStreamSeek | with_reducible apply keeps_bodyStreamSeek' | (simp only [Keeps.lit]; with_reducible apply KeepsData.of))

theorem keeps_execStreamCancel {a : State} (v0 : Sub) (v1 : Ext) (v2 : State) (h0 : Keeps a v2) : KeepsOut a (execStreamCancel v0 v1 v2) := by
  unfold execStreamCancel
  try dsimp only
  repeat' (first | with_reducible assumption | with_reducible exact Keeps.refl _ | with_reducible apply KeepsOut.next | with_reducible apply keeps_runOp | with_reducible apply keeps_bodyStreamCancel | with_reducible apply keeps_bodyStreamCancel' | (simp only [Keeps.lit]; with_reducible apply KeepsData.of))

theorem keeps_execK2Credit {a : State} (v0 : Twin) (v1 : Ext) (v2 : State) (h0 : Keeps a v2) : KeepsOut a (execK2Credit v0 v1 v2) := by
  unfold execK2Credit
  try dsimp only
  repeat' (first | with_reducible assumption | with_reducible exact Keeps.refl _ | with_reducible apply KeepsOut.next | with_reducible apply keeps_runTwin | with_reducible apply keeps_bodyK2Credit | with_reducible apply keeps_bodyK2Credit' | (simp only [Keeps.lit]; with_reducible apply KeepsData.of))

end Sys2Proof.Laws
end

