-- ==== Sys2Proof/Laws/KeepsSteps.lean ====
section
/-! SUPPORT. Every function of Machine/Steps.lean that answers a state keeps what no command may change. -/

namespace Sys2Proof.Laws
open Sys2Proof Sys2Proof.Machine
set_option linter.unreachableTactic false
set_option linter.unusedTactic false
set_option linter.unusedVariables false
set_option linter.unusedSimpArgs false
set_option maxRecDepth 4000

theorem keeps_bodyProgramLoad {a : State} (v0 : Sub) (v1 : Ext) (v2 : State) (h0 : Keeps a v2) : KeepsRes a (bodyProgramLoad v0 v1 v2) := by
  unfold bodyProgramLoad
  try dsimp only
  repeat' (first | with_reducible assumption | with_reducible exact Keeps.refl _ | with_reducible apply Keeps.ite | with_reducible apply KeepsRes.ite | with_reducible apply KeepsFst.ite | with_reducible apply KeepsSnd.ite | with_reducible apply KeepsRes.mk | with_reducible apply keeps_done | with_reducible apply keeps_done' | with_reducible apply keeps_reject | with_reducible apply keeps_reject' | with_reducible apply keeps_fail | with_reducible apply keeps_fail' | with_reducible apply keeps_onUn | (simp only [Keeps.lit]; with_reducible apply KeepsData.of) | (simp only [Keeps.lit]; with_reducible refine KeepsData.poke ?_ (fun w => ?_); rotate_left; first | exact mark_wf _ _ _ w | exact fold_wf _ _ (fun m x hm => poison_wf _ _ hm) w | exact fold_wf _ _ (fun m x hm => by split; exact poison_wf _ _ hm; exact hm) w | exact write_wf _ _ w | exact mark_wf _ _ _ (write_wf _ _ w)) | intro s hs | split)
theorem keeps_bodyProgramLoad' {a : State} (v0 : Sub) (v1 : Ext) (v2 : State) (h0 : Keeps a v2) : Keeps a (bodyProgramLoad v0 v1 v2).s := keeps_bodyProgramLoad v0 v1 v2 h0

theorem keeps_rejectStep {a : State} (v0 : State) (v1 : ℕ) (h0 : Keeps a v0) : Keeps a (State.rejectStep v0 v1) := by
  unfold State.rejectStep
  try dsimp only
  repeat' (first | with_reducible assumption | with_reducible exact Keeps.refl _ | with_reducible apply keeps_freeStepCopies | with_reducible apply keeps_onStep | (simp only [Keeps.lit]; with_reducible apply KeepsData.of))

theorem keeps_boundary {a : State} (v0 : State) (v1 : ℕ) (h0 : Keeps a v0) : Keeps a (State.boundary v0 v1) := by
  unfold State.boundary
  try dsimp only
  repeat' (first | with_reducible assumption | with_reducible exact Keeps.refl _ | with_reducible apply keeps_onStep | (simp only [Keeps.lit]; with_reducible apply KeepsData.of))

theorem keeps_enterStep {a : State} (v0 : State) (v1 : Sub) (h0 : Keeps a v0) : Keeps a (State.enterStep v0 v1) := by
  unfold State.enterStep
  try dsimp only
  repeat' (first | with_reducible assumption | with_reducible exact Keeps.refl _ | with_reducible apply keeps_onStep | (simp only [Keeps.lit]; with_reducible apply KeepsData.of))

theorem keeps_stepFlip {a : State} (v0 : State) (v1 : ℕ) (h0 : Keeps a v0) : Keeps a (State.stepFlip v0 v1) := by
  unfold State.stepFlip
  try dsimp only
  repeat' (first | with_reducible assumption | with_reducible exact Keeps.refl _ | with_reducible apply Keeps.ite | with_reducible apply KeepsRes.ite | with_reducible apply KeepsFst.ite | with_reducible apply KeepsSnd.ite | with_reducible apply keeps_done | with_reducible apply keeps_done' | with_reducible apply keeps_conclude | with_reducible apply keeps_onStep | with_reducible apply keeps_enterStep | with_reducible apply keeps_loseGuard | (simp only [Keeps.lit]; with_reducible apply KeepsData.of) | (simp only [Keeps.lit]; with_reducible refine KeepsData.poke ?_ (fun w => ?_); rotate_left; first | exact mark_wf _ _ _ w | exact fold_wf _ _ (fun m x hm => poison_wf _ _ hm) w | exact fold_wf _ _ (fun m x hm => by split; exact poison_wf _ _ hm; exact hm) w | exact write_wf _ _ w | exact mark_wf _ _ _ (write_wf _ _ w)) | intro s hs | split)

theorem keeps_bodyStepBegin {a : State} (v0 : Sub) (v1 : Ext) (v2 : State) (h0 : Keeps a v2) : KeepsRes a (bodyStepBegin v0 v1 v2) := by
  unfold bodyStepBegin
  try dsimp only
  repeat' (first | with_reducible assumption | with_reducible exact Keeps.refl _ | with_reducible apply Keeps.ite | with_reducible apply KeepsRes.ite | with_reducible apply KeepsFst.ite | with_reducible apply KeepsSnd.ite | with_reducible apply KeepsRes.mk | with_reducible apply keeps_done | with_reducible apply keeps_done' | with_reducible apply keeps_askFreeze | with_reducible apply keeps_wait | with_reducible apply keeps_wait' | with_reducible apply keeps_freeStepCopies | with_reducible apply keeps_wantDoms | with_reducible apply keeps_onStep | with_reducible apply keeps_log | with_reducible apply keeps_enterStep | with_reducible apply keeps_badParam | with_reducible apply keeps_badParam' | with_reducible apply keeps_fail | with_reducible apply keeps_fail' | (simp only [Keeps.lit]; with_reducible apply KeepsData.of) | (simp only [Keeps.lit]; with_reducible refine KeepsData.poke ?_ (fun w => ?_); rotate_left; first | exact mark_wf _ _ _ w | exact fold_wf _ _ (fun m x hm => poison_wf _ _ hm) w | exact fold_wf _ _ (fun m x hm => by split; exact poison_wf _ _ hm; exact hm) w | exact write_wf _ _ w | exact mark_wf _ _ _ (write_wf _ _ w)) | intro s hs | split)
theorem keeps_bodyStepBegin' {a : State} (v0 : Sub) (v1 : Ext) (v2 : State) (h0 : Keeps a v2) : Keeps a (bodyStepBegin v0 v1 v2).s := keeps_bodyStepBegin v0 v1 v2 h0

theorem keeps_regionWrite {a : State} (v0 : State) (v1 : Region) (v2 : ℕ) (v3 : ℕ) (v4 : ℕ) (v5 : List (ℕ × Bool)) (h0 : Keeps a v0) : Keeps a (State.regionWrite v0 v1 v2 v3 v4 v5) := by
  induction v3 generalizing v0 v4 v5 with
  | zero => cases v5 <;> (unfold State.regionWrite; try dsimp only); repeat' (first | with_reducible assumption | with_reducible exact Keeps.refl _ | with_reducible apply keeps_streamWrite | with_reducible apply ih | (with_reducible apply KeepsRes.fst; with_reducible apply ih) | (with_reducible apply KeepsFst.fst; with_reducible apply ih) | (simp only [Keeps.lit]; with_reducible apply KeepsData.of))
  | succ k ih => cases v5 <;> (unfold State.regionWrite; try dsimp only); repeat' (first | with_reducible assumption | with_reducible exact Keeps.refl _ | with_reducible apply keeps_streamWrite | with_reducible apply ih | (with_reducible apply KeepsRes.fst; with_reducible apply ih) | (with_reducible apply KeepsFst.fst; with_reducible apply ih) | (simp only [Keeps.lit]; with_reducible apply KeepsData.of))

theorem keeps_slotRead {a : State} (v0 : State) (v1 : ℕ × ℕ) (v2 : StepBlk) (v3 : ℕ) (h0 : Keeps a v0) : KeepsOpt Prod.snd a (State.slotRead v0 v1 v2 v3) := by
  unfold State.slotRead
  try dsimp only
  repeat' (first | with_reducible assumption | with_reducible exact Keeps.refl _ | with_reducible apply Keeps.ite | with_reducible apply KeepsRes.ite | with_reducible apply KeepsFst.ite | with_reducible apply KeepsSnd.ite | with_reducible apply KeepsSnd.mk | (with_reducible refine KeepsOpt.map (k := Prod.snd) ?_ (fun _ h => h)) | with_reducible apply KeepsOpt.ite | with_reducible exact KeepsOpt.none | with_reducible apply KeepsOpt.some | with_reducible apply keeps_takeStream | (with_reducible refine keeps_takeStream_e (by with_reducible assumption) ?_) | (simp only [Keeps.lit]; with_reducible apply KeepsData.of) | (simp only [Keeps.lit]; with_reducible refine KeepsData.poke ?_ (fun w => ?_); rotate_left; first | exact mark_wf _ _ _ w | exact fold_wf _ _ (fun m x hm => poison_wf _ _ hm) w | exact fold_wf _ _ (fun m x hm => by split; exact poison_wf _ _ hm; exact hm) w | exact write_wf _ _ w | exact mark_wf _ _ _ (write_wf _ _ w)) | split | intro s hs)
theorem keeps_slotRead_e {a t : State} {v0 : State} {v1 : ℕ × ℕ} {v2 : StepBlk} {v3 : ℕ} {b : _} (e : State.slotRead v0 v1 v2 v3 = some (b, t)) (h0 : Keeps a v0) : Keeps a t := KeepsOpt.eq e (keeps_slotRead v0 v1 v2 v3 h0)

theorem keeps_slotsRead {a : State} (v0 : State) (v1 : StepBlk) (v2 : ℕ) (v3 : List (ℕ × ℕ)) (h0 : Keeps a v0) : KeepsOpt Prod.snd a (State.slotsRead v0 v1 v2 v3) := by
  induction v3 generalizing v0 with
  | nil => unfold State.slotsRead; (try dsimp only); repeat' (first | with_reducible assumption | with_reducible exact Keeps.refl _ | with_reducible apply Keeps.ite | with_reducible apply KeepsRes.ite | with_reducible apply KeepsFst.ite | with_reducible apply KeepsSnd.ite | with_reducible apply KeepsSnd.mk | (with_reducible refine KeepsOpt.map (k := Prod.snd) ?_ (fun _ h => h)) | with_reducible apply KeepsOpt.ite | with_reducible exact KeepsOpt.none | with_reducible apply KeepsOpt.some | with_reducible apply keeps_slotRead | (with_reducible refine keeps_slotRead_e (by with_reducible assumption) ?_) | with_reducible apply ih | (with_reducible apply KeepsRes.fst; with_reducible apply ih) | (with_reducible apply KeepsFst.fst; with_reducible apply ih) | (simp only [Keeps.lit]; with_reducible apply KeepsData.of) | (simp only [Keeps.lit]; with_reducible refine KeepsData.poke ?_ (fun w => ?_); rotate_left; first | exact mark_wf _ _ _ w | exact fold_wf _ _ (fun m x hm => poison_wf _ _ hm) w | exact fold_wf _ _ (fun m x hm => by split; exact poison_wf _ _ hm; exact hm) w | exact write_wf _ _ w | exact mark_wf _ _ _ (write_wf _ _ w)) | split | intro s hs)
  | cons x r ih => unfold State.slotsRead; (try dsimp only); repeat' (first | with_reducible assumption | with_reducible exact Keeps.refl _ | with_reducible apply Keeps.ite | with_reducible apply KeepsRes.ite | with_reducible apply KeepsFst.ite | with_reducible apply KeepsSnd.ite | with_reducible apply KeepsSnd.mk | (with_reducible refine KeepsOpt.map (k := Prod.snd) ?_ (fun _ h => h)) | with_reducible apply KeepsOpt.ite | with_reducible exact KeepsOpt.none | with_reducible apply KeepsOpt.some | with_reducible apply keeps_slotRead | (with_reducible refine keeps_slotRead_e (by with_reducible assumption) ?_) | with_reducible apply ih | (with_reducible apply KeepsRes.fst; with_reducible apply ih) | (with_reducible apply KeepsFst.fst; with_reducible apply ih) | (simp only [Keeps.lit]; with_reducible apply KeepsData.of) | (simp only [Keeps.lit]; with_reducible refine KeepsData.poke ?_ (fun w => ?_); rotate_left; first | exact mark_wf _ _ _ w | exact fold_wf _ _ (fun m x hm => poison_wf _ _ hm) w | exact fold_wf _ _ (fun m x hm => by split; exact poison_wf _ _ hm; exact hm) w | exact write_wf _ _ w | exact mark_wf _ _ _ (write_wf _ _ w)) | split | intro s hs)
theorem keeps_slotsRead_e {a t : State} {v0 : State} {v1 : StepBlk} {v2 : ℕ} {v3 : List (ℕ × ℕ)} {b : _} (e : State.slotsRead v0 v1 v2 v3 = some (b, t)) (h0 : Keeps a v0) : Keeps a t := KeepsOpt.eq e (keeps_slotsRead v0 v1 v2 v3 h0)

theorem keeps_useProg {a : State} (v0 : State) (v1 : ℕ) (v2 : ℕ) (v3 : ℕ) (h0 : Keeps a v0) : Keeps a (State.useProg v0 v1 v2 v3) := by
  unfold State.useProg
  try dsimp only
  repeat' (first | with_reducible assumption | with_reducible exact Keeps.refl _ | with_reducible apply keeps_onCell | (simp only [Keeps.lit]; with_reducible apply KeepsData.of))

theorem keeps_bindStreams {a : State} (v0 : State) (v1 : Sub) (v2 : List (ℕ × ℕ × ℕ)) (h0 : Keeps a v0) : KeepsExc id a (State.bindStreams v0 v1 v2) := by
  unfold State.bindStreams
  try dsimp only
  repeat' (first | with_reducible assumption | with_reducible exact Keeps.refl _ | with_reducible apply Keeps.ite | with_reducible apply KeepsRes.ite | with_reducible apply KeepsFst.ite | with_reducible apply KeepsSnd.ite | with_reducible apply KeepsFst.mk | with_reducible apply KeepsSnd.mk | with_reducible apply KeepsRes.mk | with_reducible apply Keeps.id | with_reducible apply KeepsExc.ite | with_reducible exact KeepsExc.error | with_reducible apply KeepsExc.ok | with_reducible apply keeps_onRun | (with_reducible refine Keeps.foldl _ ?_ ?_; intro s x hs; try dsimp only) | (with_reducible refine Keeps.foldl1 _ ?_ ?_; (intro p x hs; replace hs := KeepsFst.fst hs; try dsimp only)) | (with_reducible refine Keeps.foldl2 _ ?_ ?_; (intro p x hs; replace hs := KeepsSnd.snd hs; try dsimp only)) | (with_reducible refine KeepsFst.foldl _ ?_ ?_; (intro p x hs; replace hs := KeepsFst.fst hs; try dsimp only)) | (with_reducible refine KeepsSnd.foldl _ ?_ ?_; (intro p x hs; replace hs := KeepsSnd.snd hs; try dsimp only)) | (simp only [Keeps.lit]; with_reducible apply KeepsData.of) | (simp only [Keeps.lit]; with_reducible refine KeepsData.poke ?_ (fun w => ?_); rotate_left; first | exact mark_wf _ _ _ w | exact fold_wf _ _ (fun m x hm => poison_wf _ _ hm) w | exact fold_wf _ _ (fun m x hm => by split; exact poison_wf _ _ hm; exact hm) w | exact write_wf _ _ w | exact mark_wf _ _ _ (write_wf _ _ w)) | split | intro s hs | (with_reducible apply KeepsSnd.eq; with_reducible assumption) | (with_reducible apply KeepsFst.eq; with_reducible assumption))
theorem keeps_bindStreams_e {a t : State} {v0 : State} {v1 : Sub} {v2 : List (ℕ × ℕ × ℕ)} (e : State.bindStreams v0 v1 v2 = .ok t) (h0 : Keeps a v0) : Keeps a t := KeepsExc.eq e (keeps_bindStreams v0 v1 v2 h0)

theorem keeps_goesOn {a : State} (v0 : State) (v1 : ℕ) (h0 : Keeps a v0) : KeepsRes a (goesOn v0 v1) := by
  unfold goesOn
  try dsimp only
  repeat' (first | with_reducible assumption | with_reducible exact Keeps.refl _ | with_reducible apply KeepsRes.mk | (simp only [Keeps.lit]; with_reducible apply KeepsData.of))
theorem keeps_goesOn' {a : State} (v0 : State) (v1 : ℕ) (h0 : Keeps a v0) : Keeps a (goesOn v0 v1).s := keeps_goesOn v0 v1 h0

theorem keeps_phased {a : State} (v0 : Sub) (v1 : Res) (h0 : KeepsRes a v1) : KeepsRes a (phased v0 v1) := by
  unfold phased
  try dsimp only
  repeat' (first | with_reducible assumption | with_reducible exact Keeps.refl _ | with_reducible apply Keeps.ite | with_reducible apply KeepsRes.ite | with_reducible apply KeepsFst.ite | with_reducible apply KeepsSnd.ite | with_reducible apply KeepsRes.mk | with_reducible exact KeepsRes.fst h0 | with_reducible apply keeps_running | with_reducible apply keeps_running' | (simp only [Keeps.lit]; with_reducible apply KeepsData.of) | (simp only [Keeps.lit]; with_reducible refine KeepsData.poke ?_ (fun w => ?_); rotate_left; first | exact mark_wf _ _ _ w | exact fold_wf _ _ (fun m x hm => poison_wf _ _ hm) w | exact fold_wf _ _ (fun m x hm => by split; exact poison_wf _ _ hm; exact hm) w | exact write_wf _ _ w | exact mark_wf _ _ _ (write_wf _ _ w)) | intro s hs | split)
theorem keeps_phased' {a : State} (v0 : Sub) (v1 : Res) (h0 : KeepsRes a v1) : Keeps a (phased v0 v1).s := keeps_phased v0 v1 h0

theorem keeps_noteProg {a : State} (v0 : State) (v1 : Sub) (v2 : ℕ) (v3 : List (BitVec 64)) (h0 : Keeps a v0) : Keeps a (State.noteProg v0 v1 v2 v3) := by
  unfold State.noteProg
  try dsimp only
  repeat' (first | with_reducible assumption | with_reducible exact Keeps.refl _ | with_reducible apply keeps_onCmd | (simp only [Keeps.lit]; with_reducible apply KeepsData.of))

theorem keeps_measureLoop {a : State} (v0 : State) (v1 : Sub) (v2 : List StepBlk) (v3 : ℕ) (v4 : BitVec 64) (v5 : ℕ) (v6 : Option ℕ) (h0 : Keeps a v0) : KeepsRes a (State.measureLoop v0 v1 v2 v3 v4 v5 v6) := by
  induction v2 generalizing v0 v3 v4 v5 v6 with
  | nil => unfold State.measureLoop; (try dsimp only); repeat' (first | with_reducible assumption | with_reducible exact Keeps.refl _ | with_reducible apply Keeps.ite | with_reducible apply KeepsRes.ite | with_reducible apply KeepsFst.ite | with_reducible apply KeepsSnd.ite | with_reducible apply KeepsRes.mk | with_reducible apply keeps_onStep | with_reducible apply keeps_ended | with_reducible apply keeps_ended' | with_reducible apply keeps_rejectStep | with_reducible apply keeps_slotRead | (with_reducible refine keeps_slotRead_e (by with_reducible assumption) ?_) | with_reducible apply keeps_goesOn | with_reducible apply keeps_goesOn' | with_reducible apply keeps_noteProg | with_reducible apply ih | (with_reducible apply KeepsRes.fst; with_reducible apply ih) | (with_reducible apply KeepsFst.fst; with_reducible apply ih) | (simp only [Keeps.lit]; with_reducible apply KeepsData.of) | (simp only [Keeps.lit]; with_reducible refine KeepsData.poke ?_ (fun w => ?_); rotate_left; first | exact mark_wf _ _ _ w | exact fold_wf _ _ (fun m x hm => poison_wf _ _ hm) w | exact fold_wf _ _ (fun m x hm => by split; exact poison_wf _ _ hm; exact hm) w | exact write_wf _ _ w | exact mark_wf _ _ _ (write_wf _ _ w)) | intro s hs | split)
  | cons x r ih => unfold State.measureLoop; (try dsimp only); repeat' (first | with_reducible assumption | with_reducible exact Keeps.refl _ | with_reducible apply Keeps.ite | with_reducible apply KeepsRes.ite | with_reducible apply KeepsFst.ite | with_reducible apply KeepsSnd.ite | with_reducible apply KeepsRes.mk | with_reducible apply keeps_onStep | with_reducible apply keeps_ended | with_reducible apply keeps_ended' | with_reducible apply keeps_rejectStep | with_reducible apply keeps_slotRead | (with_reducible refine keeps_slotRead_e (by with_reducible assumption) ?_) | with_reducible apply keeps_goesOn | with_reducible apply keeps_goesOn' | with_reducible apply keeps_noteProg | with_reducible apply ih | (with_reducible apply KeepsRes.fst; with_reducible apply ih) | (with_reducible apply KeepsFst.fst; with_reducible apply ih) | (simp only [Keeps.lit]; with_reducible apply KeepsData.of) | (simp only [Keeps.lit]; with_reducible refine KeepsData.poke ?_ (fun w => ?_); rotate_left; first | exact mark_wf _ _ _ w | exact fold_wf _ _ (fun m x hm => poison_wf _ _ hm) w | exact fold_wf _ _ (fun m x hm => by split; exact poison_wf _ _ hm; exact hm) w | exact write_wf _ _ w | exact mark_wf _ _ _ (write_wf _ _ w)) | intro s hs | split)
theorem keeps_measureLoop' {a : State} (v0 : State) (v1 : Sub) (v2 : List StepBlk) (v3 : ℕ) (v4 : BitVec 64) (v5 : ℕ) (v6 : Option ℕ) (h0 : Keeps a v0) : Keeps a (State.measureLoop v0 v1 v2 v3 v4 v5 v6).s := keeps_measureLoop v0 v1 v2 v3 v4 v5 v6 h0

theorem keeps_bodyStepMeasure {a : State} (v0 : Sub) (v1 : Ext) (v2 : State) (h0 : Keeps a v2) : KeepsRes a (bodyStepMeasure v0 v1 v2) := by
  unfold bodyStepMeasure
  try dsimp only
  repeat' (first | with_reducible assumption | with_reducible exact Keeps.refl _ | with_reducible apply Keeps.ite | with_reducible apply KeepsRes.ite | with_reducible apply KeepsFst.ite | with_reducible apply KeepsSnd.ite | with_reducible apply KeepsRes.mk | with_reducible apply keeps_wait | with_reducible apply keeps_wait' | with_reducible apply keeps_bindStreams | (with_reducible refine keeps_bindStreams_e (by with_reducible assumption) ?_) | with_reducible apply keeps_measureLoop | with_reducible apply keeps_measureLoop' | with_reducible apply keeps_fail | with_reducible apply keeps_fail' | (simp only [Keeps.lit]; with_reducible apply KeepsData.of) | (simp only [Keeps.lit]; with_reducible refine KeepsData.poke ?_ (fun w => ?_); rotate_left; first | exact mark_wf _ _ _ w | exact fold_wf _ _ (fun m x hm => poison_wf _ _ hm) w | exact fold_wf _ _ (fun m x hm => by split; exact poison_wf _ _ hm; exact hm) w | exact write_wf _ _ w | exact mark_wf _ _ _ (write_wf _ _ w)) | intro s hs | split)
theorem keeps_bodyStepMeasure' {a : State} (v0 : Sub) (v1 : Ext) (v2 : State) (h0 : Keeps a v2) : Keeps a (bodyStepMeasure v0 v1 v2).s := keeps_bodyStepMeasure v0 v1 v2 h0

theorem keeps_bodyStepNorm {a : State} (v0 : Sub) (v1 : State) (h0 : Keeps a v1) : KeepsRes a (bodyStepNorm v0 v1) := by
  unfold bodyStepNorm
  try dsimp only
  repeat' (first | with_reducible assumption | with_reducible exact Keeps.refl _ | with_reducible apply Keeps.ite | with_reducible apply KeepsRes.ite | with_reducible apply KeepsFst.ite | with_reducible apply KeepsSnd.ite | with_reducible apply KeepsRes.mk | with_reducible apply keeps_done | with_reducible apply keeps_done' | with_reducible apply keeps_onStep | with_reducible apply keeps_rejectStep | with_reducible apply keeps_badParam | with_reducible apply keeps_badParam' | with_reducible apply keeps_fail | with_reducible apply keeps_fail' | (simp only [Keeps.lit]; with_reducible apply KeepsData.of) | (simp only [Keeps.lit]; with_reducible refine KeepsData.poke ?_ (fun w => ?_); rotate_left; first | exact mark_wf _ _ _ w | exact fold_wf _ _ (fun m x hm => poison_wf _ _ hm) w | exact fold_wf _ _ (fun m x hm => by split; exact poison_wf _ _ hm; exact hm) w | exact write_wf _ _ w | exact mark_wf _ _ _ (write_wf _ _ w)) | intro s hs | split)
theorem keeps_bodyStepNorm' {a : State} (v0 : Sub) (v1 : State) (h0 : Keeps a v1) : Keeps a (bodyStepNorm v0 v1).s := keeps_bodyStepNorm v0 v1 h0

theorem keeps_bodyStepAbort {a : State} (v0 : Sub) (v1 : State) (h0 : Keeps a v1) : KeepsRes a (bodyStepAbort v0 v1) := by
  unfold bodyStepAbort
  try dsimp only
  repeat' (first | with_reducible assumption | with_reducible exact Keeps.refl _ | with_reducible apply Keeps.ite | with_reducible apply KeepsRes.ite | with_reducible apply KeepsFst.ite | with_reducible apply KeepsSnd.ite | with_reducible apply KeepsRes.mk | with_reducible apply keeps_done | with_reducible apply keeps_done' | with_reducible apply keeps_freeStepCopies | with_reducible apply keeps_boundary | with_reducible apply keeps_onStep | with_reducible apply keeps_fail | with_reducible apply keeps_fail' | (simp only [Keeps.lit]; with_reducible apply KeepsData.of) | (simp only [Keeps.lit]; with_reducible refine KeepsData.poke ?_ (fun w => ?_); rotate_left; first | exact mark_wf _ _ _ w | exact fold_wf _ _ (fun m x hm => poison_wf _ _ hm) w | exact fold_wf _ _ (fun m x hm => by split; exact poison_wf _ _ hm; exact hm) w | exact write_wf _ _ w | exact mark_wf _ _ _ (write_wf _ _ w)) | intro s hs | split)
theorem keeps_bodyStepAbort' {a : State} (v0 : Sub) (v1 : State) (h0 : Keeps a v1) : Keeps a (bodyStepAbort v0 v1).s := keeps_bodyStepAbort v0 v1 h0

theorem keeps_blockWrite {a : State} (v0 : State) (v1 : Sub) (v2 : PlanEntry) (v3 : StepBlk) (v4 : List (ℕ × List (ℕ × Bool))) (h0 : Keeps a v0) : Keeps a (State.blockWrite v0 v1 v2 v3 v4) := by
  unfold State.blockWrite
  try dsimp only
  repeat' (first | with_reducible assumption | with_reducible exact Keeps.refl _ | with_reducible apply Keeps.ite | with_reducible apply KeepsRes.ite | with_reducible apply KeepsFst.ite | with_reducible apply KeepsSnd.ite | with_reducible apply KeepsFst.mk | with_reducible apply KeepsSnd.mk | with_reducible apply KeepsRes.mk | with_reducible apply Keeps.id | with_reducible apply keeps_giveStream | with_reducible apply keeps_regionWrite | (with_reducible refine Keeps.foldl _ ?_ ?_; intro s x hs; try dsimp only) | (with_reducible refine Keeps.foldl1 _ ?_ ?_; (intro p x hs; replace hs := KeepsFst.fst hs; try dsimp only)) | (with_reducible refine Keeps.foldl2 _ ?_ ?_; (intro p x hs; replace hs := KeepsSnd.snd hs; try dsimp only)) | (with_reducible refine KeepsFst.foldl _ ?_ ?_; (intro p x hs; replace hs := KeepsFst.fst hs; try dsimp only)) | (with_reducible refine KeepsSnd.foldl _ ?_ ?_; (intro p x hs; replace hs := KeepsSnd.snd hs; try dsimp only)) | (simp only [Keeps.lit]; with_reducible apply KeepsData.of) | (simp only [Keeps.lit]; with_reducible refine KeepsData.poke ?_ (fun w => ?_); rotate_left; first | exact mark_wf _ _ _ w | exact fold_wf _ _ (fun m x hm => poison_wf _ _ hm) w | exact fold_wf _ _ (fun m x hm => by split; exact poison_wf _ _ hm; exact hm) w | exact write_wf _ _ w | exact mark_wf _ _ _ (write_wf _ _ w)) | intro s hs | split | (with_reducible apply KeepsSnd.eq; with_reducible assumption) | (with_reducible apply KeepsFst.eq; with_reducible assumption))

theorem keeps_applyEnd {a : State} (v0 : State) (v1 : Sub) (v2 : ℕ) (v3 : ℕ) (h0 : Keeps a v0) : KeepsRes a (State.applyEnd v0 v1 v2 v3) := by
  unfold State.applyEnd
  try dsimp only
  repeat' (first | with_reducible assumption | with_reducible exact Keeps.refl _ | with_reducible apply Keeps.ite | with_reducible apply KeepsRes.ite | with_reducible apply KeepsFst.ite | with_reducible apply KeepsSnd.ite | with_reducible apply KeepsRes.mk | with_reducible apply keeps_boundary | with_reducible apply keeps_freeNat | with_reducible apply keeps_freeNat' | (with_reducible refine keeps_freeNat_e (by with_reducible assumption) ?_) | with_reducible apply keeps_onStep | with_reducible apply keeps_ended | with_reducible apply keeps_ended' | (simp only [Keeps.lit]; with_reducible apply KeepsData.of) | (simp only [Keeps.lit]; with_reducible refine KeepsData.poke ?_ (fun w => ?_); rotate_left; first | exact mark_wf _ _ _ w | exact fold_wf _ _ (fun m x hm => poison_wf _ _ hm) w | exact fold_wf _ _ (fun m x hm => by split; exact poison_wf _ _ hm; exact hm) w | exact write_wf _ _ w | exact mark_wf _ _ _ (write_wf _ _ w)) | intro s hs | split)
theorem keeps_applyEnd' {a : State} (v0 : State) (v1 : Sub) (v2 : ℕ) (v3 : ℕ) (h0 : Keeps a v0) : Keeps a (State.applyEnd v0 v1 v2 v3).s := keeps_applyEnd v0 v1 v2 v3 h0

theorem keeps_applyLoop {a : State} (v0 : State) (v1 : Sub) (v2 : Option ℕ) (v3 : List StepBlk) (v4 : ℕ) (v5 : ℕ) (h0 : Keeps a v0) : KeepsRes a (State.applyLoop v0 v1 v2 v3 v4 v5) := by
  induction v3 generalizing v0 v4 v5 with
  | nil => unfold State.applyLoop; (try dsimp only); repeat' (first | with_reducible assumption | with_reducible exact Keeps.refl _ | with_reducible apply Keeps.ite | with_reducible apply KeepsRes.ite | with_reducible apply KeepsFst.ite | with_reducible apply KeepsSnd.ite | with_reducible apply KeepsRes.mk | with_reducible apply keeps_onStep | with_reducible apply keeps_poke | with_reducible apply keeps_wait | with_reducible apply keeps_wait' | with_reducible apply keeps_ended | with_reducible apply keeps_ended' | with_reducible apply keeps_stopApply | with_reducible apply keeps_slotsRead | (with_reducible refine keeps_slotsRead_e (by with_reducible assumption) ?_) | with_reducible apply keeps_useProg | with_reducible apply keeps_goesOn | with_reducible apply keeps_goesOn' | with_reducible apply keeps_noteProg | with_reducible apply keeps_blockWrite | with_reducible apply keeps_applyEnd | with_reducible apply keeps_applyEnd' | with_reducible apply ih | (with_reducible apply KeepsRes.fst; with_reducible apply ih) | (with_reducible apply KeepsFst.fst; with_reducible apply ih) | (simp only [Keeps.lit]; with_reducible apply KeepsData.of) | (simp only [Keeps.lit]; with_reducible refine KeepsData.poke ?_ (fun w => ?_); rotate_left; first | exact mark_wf _ _ _ w | exact fold_wf _ _ (fun m x hm => poison_wf _ _ hm) w | exact fold_wf _ _ (fun m x hm => by split; exact poison_wf _ _ hm; exact hm) w | exact write_wf _ _ w | exact mark_wf _ _ _ (write_wf _ _ w)) | intro s hs | split)
  | cons x r ih => unfold State.applyLoop; (try dsimp only); repeat' (first | with_reducible assumption | with_reducible exact Keeps.refl _ | with_reducible apply Keeps.ite | with_reducible apply KeepsRes.ite | with_reducible apply KeepsFst.ite | with_reducible apply KeepsSnd.ite | with_reducible apply KeepsRes.mk | with_reducible apply keeps_onStep | with_reducible apply keeps_poke | with_reducible apply keeps_wait | with_reducible apply keeps_wait' | with_reducible apply keeps_ended | with_reducible apply keeps_ended' | with_reducible apply keeps_stopApply | with_reducible apply keeps_slotsRead | (with_reducible refine keeps_slotsRead_e (by with_reducible assumption) ?_) | with_reducible apply keeps_useProg | with_reducible apply keeps_goesOn | with_reducible apply keeps_goesOn' | with_reducible apply keeps_noteProg | with_reducible apply keeps_blockWrite | with_reducible apply keeps_applyEnd | with_reducible apply keeps_applyEnd' | with_reducible apply ih | (with_reducible apply KeepsRes.fst; with_reducible apply ih) | (with_reducible apply KeepsFst.fst; with_reducible apply ih) | (simp only [Keeps.lit]; with_reducible apply KeepsData.of) | (simp only [Keeps.lit]; with_reducible refine KeepsData.poke ?_ (fun w => ?_); rotate_left; first | exact mark_wf _ _ _ w | exact fold_wf _ _ (fun m x hm => poison_wf _ _ hm) w | exact fold_wf _ _ (fun m x hm => by split; exact poison_wf _ _ hm; exact hm) w | exact write_wf _ _ w | exact mark_wf _ _ _ (write_wf _ _ w)) | intro s hs | split)
theorem keeps_applyLoop' {a : State} (v0 : State) (v1 : Sub) (v2 : Option ℕ) (v3 : List StepBlk) (v4 : ℕ) (v5 : ℕ) (h0 : Keeps a v0) : Keeps a (State.applyLoop v0 v1 v2 v3 v4 v5).s := keeps_applyLoop v0 v1 v2 v3 v4 v5 h0

theorem keeps_bodyStepApply {a : State} (v0 : Sub) (v1 : Ext) (v2 : State) (h0 : Keeps a v2) : KeepsRes a (bodyStepApply v0 v1 v2) := by
  unfold bodyStepApply
  try dsimp only
  repeat' (first | with_reducible assumption | with_reducible exact Keeps.refl _ | with_reducible apply Keeps.ite | with_reducible apply KeepsRes.ite | with_reducible apply KeepsFst.ite | with_reducible apply KeepsSnd.ite | with_reducible apply KeepsRes.mk | with_reducible apply keeps_wait | with_reducible apply keeps_wait' | with_reducible apply keeps_applyLoop | with_reducible apply keeps_applyLoop' | with_reducible apply keeps_freeNat | with_reducible apply keeps_freeNat' | (with_reducible refine keeps_freeNat_e (by with_reducible assumption) ?_) | with_reducible apply keeps_onStep | with_reducible apply keeps_bindStreams | (with_reducible refine keeps_bindStreams_e (by with_reducible assumption) ?_) | with_reducible apply keeps_fail | with_reducible apply keeps_fail' | (simp only [Keeps.lit]; with_reducible apply KeepsData.of) | (simp only [Keeps.lit]; with_reducible refine KeepsData.poke ?_ (fun w => ?_); rotate_left; first | exact mark_wf _ _ _ w | exact fold_wf _ _ (fun m x hm => poison_wf _ _ hm) w | exact fold_wf _ _ (fun m x hm => by split; exact poison_wf _ _ hm; exact hm) w | exact write_wf _ _ w | exact mark_wf _ _ _ (write_wf _ _ w)) | intro s hs | split)
theorem keeps_bodyStepApply' {a : State} (v0 : Sub) (v1 : Ext) (v2 : State) (h0 : Keeps a v2) : Keeps a (bodyStepApply v0 v1 v2).s := keeps_bodyStepApply v0 v1 v2 h0

theorem keeps_putBack {a : State} (v0 : State) (v1 : Copy) (h0 : Keeps a v0) : Keeps a (State.putBack v0 v1) := by
  unfold State.putBack
  try dsimp only
  repeat' (first | with_reducible assumption | with_reducible exact Keeps.refl _ | with_reducible apply Keeps.ite | with_reducible apply KeepsRes.ite | with_reducible apply KeepsFst.ite | with_reducible apply KeepsSnd.ite | with_reducible apply KeepsFst.mk | with_reducible apply KeepsSnd.mk | with_reducible apply KeepsRes.mk | with_reducible apply keeps_kWrite | (simp only [Keeps.lit]; with_reducible apply KeepsData.of) | (simp only [Keeps.lit]; with_reducible refine KeepsData.poke ?_ (fun w => ?_); rotate_left; first | exact mark_wf _ _ _ w | exact fold_wf _ _ (fun m x hm => poison_wf _ _ hm) w | exact fold_wf _ _ (fun m x hm => by split; exact poison_wf _ _ hm; exact hm) w | exact write_wf _ _ w | exact mark_wf _ _ _ (write_wf _ _ w)) | intro s hs | split)

theorem keeps_bodyStepRollback {a : State} (v0 : Sub) (v1 : Ext) (v2 : State) (h0 : Keeps a v2) : KeepsRes a (bodyStepRollback v0 v1 v2) := by
  unfold bodyStepRollback
  try dsimp only
  repeat' (first | with_reducible assumption | with_reducible exact Keeps.refl _ | with_reducible apply Keeps.ite | with_reducible apply KeepsRes.ite | with_reducible apply KeepsFst.ite | with_reducible apply KeepsSnd.ite | with_reducible apply KeepsFst.mk | with_reducible apply KeepsSnd.mk | with_reducible apply KeepsRes.mk | with_reducible apply Keeps.id | with_reducible apply keeps_freeStepCopies | with_reducible apply keeps_freeNat | with_reducible apply keeps_freeNat' | (with_reducible refine keeps_freeNat_e (by with_reducible assumption) ?_) | with_reducible apply keeps_onStep | with_reducible apply keeps_ended | with_reducible apply keeps_ended' | with_reducible apply keeps_kUndef | with_reducible apply keeps_fail | with_reducible apply keeps_fail' | with_reducible apply keeps_putBack | with_reducible apply keeps_dropShares | (with_reducible refine Keeps.foldl _ ?_ ?_; intro s x hs; try dsimp only) | (with_reducible refine Keeps.foldl1 _ ?_ ?_; (intro p x hs; replace hs := KeepsFst.fst hs; try dsimp only)) | (with_reducible refine Keeps.foldl2 _ ?_ ?_; (intro p x hs; replace hs := KeepsSnd.snd hs; try dsimp only)) | (with_reducible refine KeepsFst.foldl _ ?_ ?_; (intro p x hs; replace hs := KeepsFst.fst hs; try dsimp only)) | (with_reducible refine KeepsSnd.foldl _ ?_ ?_; (intro p x hs; replace hs := KeepsSnd.snd hs; try dsimp only)) | (simp only [Keeps.lit]; with_reducible apply KeepsData.of) | (simp only [Keeps.lit]; with_reducible refine KeepsData.poke ?_ (fun w => ?_); rotate_left; first | exact mark_wf _ _ _ w | exact fold_wf _ _ (fun m x hm => poison_wf _ _ hm) w | exact fold_wf _ _ (fun m x hm => by split; exact poison_wf _ _ hm; exact hm) w | exact write_wf _ _ w | exact mark_wf _ _ _ (write_wf _ _ w)) | intro s hs | split | (with_reducible apply KeepsSnd.eq; with_reducible assumption) | (with_reducible apply KeepsFst.eq; with_reducible assumption))
theorem keeps_bodyStepRollback' {a : State} (v0 : Sub) (v1 : Ext) (v2 : State) (h0 : Keeps a v2) : Keeps a (bodyStepRollback v0 v1 v2).s := keeps_bodyStepRollback v0 v1 v2 h0

theorem keeps_tierMove {a : State} (v0 : State) (v1 : ℕ) (v2 : Bool) (v3 : ℕ) (v4 : Bool) (h0 : Keeps a v0) : Keeps a (State.tierMove v0 v1 v2 v3 v4) := by
  unfold State.tierMove
  try dsimp only
  repeat' (first | with_reducible assumption | with_reducible exact Keeps.refl _ | with_reducible apply Keeps.ite | with_reducible apply KeepsRes.ite | with_reducible apply KeepsFst.ite | with_reducible apply KeepsSnd.ite | with_reducible apply KeepsFst.mk | with_reducible apply KeepsSnd.mk | with_reducible apply KeepsRes.mk | with_reducible apply keeps_onRegion | with_reducible apply keeps_setGran | with_reducible apply keeps_poke | with_reducible apply keeps_track | with_reducible apply keeps_track' | (with_reducible refine keeps_track_e (by with_reducible assumption) ?_) | with_reducible apply keeps_undefBuf | (simp only [Keeps.lit]; with_reducible apply KeepsData.of) | (simp only [Keeps.lit]; with_reducible refine KeepsData.poke ?_ (fun w => ?_); rotate_left; first | exact mark_wf _ _ _ w | exact fold_wf _ _ (fun m x hm => poison_wf _ _ hm) w | exact fold_wf _ _ (fun m x hm => by split; exact poison_wf _ _ hm; exact hm) w | exact write_wf _ _ w | exact mark_wf _ _ _ (write_wf _ _ w)) | intro s hs | split)

theorem keeps_bodyTierPlace {a : State} (v0 : Sub) (v1 : Ext) (v2 : State) (h0 : Keeps a v2) : KeepsRes a (bodyTierPlace v0 v1 v2) := by
  unfold bodyTierPlace
  try dsimp only
  repeat' (first | with_reducible assumption | with_reducible exact Keeps.refl _ | with_reducible apply Keeps.ite | with_reducible apply KeepsRes.ite | with_reducible apply KeepsFst.ite | with_reducible apply KeepsSnd.ite | with_reducible apply KeepsFst.mk | with_reducible apply KeepsSnd.mk | with_reducible apply KeepsRes.mk | with_reducible apply Keeps.id | with_reducible apply keeps_onRegion | with_reducible apply keeps_wait | with_reducible apply keeps_wait' | with_reducible apply keeps_freeNat | with_reducible apply keeps_freeNat' | (with_reducible refine keeps_freeNat_e (by with_reducible assumption) ?_) | with_reducible apply keeps_tierMove | with_reducible apply keeps_badParam | with_reducible apply keeps_badParam' | with_reducible apply keeps_ended | with_reducible apply keeps_ended' | with_reducible apply keeps_fail | with_reducible apply keeps_fail' | (with_reducible refine Keeps.foldl _ ?_ ?_; intro s x hs; try dsimp only) | (with_reducible refine Keeps.foldl1 _ ?_ ?_; (intro p x hs; replace hs := KeepsFst.fst hs; try dsimp only)) | (with_reducible refine Keeps.foldl2 _ ?_ ?_; (intro p x hs; replace hs := KeepsSnd.snd hs; try dsimp only)) | (with_reducible refine KeepsFst.foldl _ ?_ ?_; (intro p x hs; replace hs := KeepsFst.fst hs; try dsimp only)) | (with_reducible refine KeepsSnd.foldl _ ?_ ?_; (intro p x hs; replace hs := KeepsSnd.snd hs; try dsimp only)) | (simp only [Keeps.lit]; with_reducible apply KeepsData.of) | (simp only [Keeps.lit]; with_reducible refine KeepsData.poke ?_ (fun w => ?_); rotate_left; first | exact mark_wf _ _ _ w | exact fold_wf _ _ (fun m x hm => poison_wf _ _ hm) w | exact fold_wf _ _ (fun m x hm => by split; exact poison_wf _ _ hm; exact hm) w | exact write_wf _ _ w | exact mark_wf _ _ _ (write_wf _ _ w)) | intro s hs | split | (with_reducible apply KeepsSnd.eq; with_reducible assumption) | (with_reducible apply KeepsFst.eq; with_reducible assumption))
theorem keeps_bodyTierPlace' {a : State} (v0 : Sub) (v1 : Ext) (v2 : State) (h0 : Keeps a v2) : Keeps a (bodyTierPlace v0 v1 v2).s := keeps_bodyTierPlace v0 v1 v2 h0

theorem keeps_condenseLoop {a : State} (v0 : State) (v1 : Region) (v2 : Region) (v3 : Option ℕ) (v4 : List (ℕ × ℕ)) (v5 : ℕ) (v6 : List ℕ) (h0 : Keeps a v0) : KeepsRes a (State.condenseLoop v0 v1 v2 v3 v4 v5 v6) := by
  induction v4 generalizing v0 v5 v6 with
  | nil => unfold State.condenseLoop; (try dsimp only); repeat' (first | with_reducible assumption | with_reducible exact Keeps.refl _ | with_reducible apply Keeps.ite | with_reducible apply KeepsRes.ite | with_reducible apply KeepsFst.ite | with_reducible apply KeepsSnd.ite | with_reducible apply KeepsFst.mk | with_reducible apply KeepsSnd.mk | with_reducible apply KeepsRes.mk | with_reducible apply Keeps.id | with_reducible apply keeps_ended | with_reducible apply keeps_ended' | with_reducible apply keeps_kUndef | with_reducible apply keeps_regionWrite | (with_reducible refine Keeps.foldl _ ?_ ?_; intro s x hs; try dsimp only) | (with_reducible refine Keeps.foldl1 _ ?_ ?_; (intro p x hs; replace hs := KeepsFst.fst hs; try dsimp only)) | (with_reducible refine Keeps.foldl2 _ ?_ ?_; (intro p x hs; replace hs := KeepsSnd.snd hs; try dsimp only)) | (with_reducible refine KeepsFst.foldl _ ?_ ?_; (intro p x hs; replace hs := KeepsFst.fst hs; try dsimp only)) | (with_reducible refine KeepsSnd.foldl _ ?_ ?_; (intro p x hs; replace hs := KeepsSnd.snd hs; try dsimp only)) | with_reducible apply ih | (with_reducible apply KeepsRes.fst; with_reducible apply ih) | (with_reducible apply KeepsFst.fst; with_reducible apply ih) | (simp only [Keeps.lit]; with_reducible apply KeepsData.of) | (simp only [Keeps.lit]; with_reducible refine KeepsData.poke ?_ (fun w => ?_); rotate_left; first | exact mark_wf _ _ _ w | exact fold_wf _ _ (fun m x hm => poison_wf _ _ hm) w | exact fold_wf _ _ (fun m x hm => by split; exact poison_wf _ _ hm; exact hm) w | exact write_wf _ _ w | exact mark_wf _ _ _ (write_wf _ _ w)) | intro s hs | split | (with_reducible apply KeepsSnd.eq; with_reducible assumption) | (with_reducible apply KeepsFst.eq; with_reducible assumption))
  | cons x r ih => unfold State.condenseLoop; (try dsimp only); repeat' (first | with_reducible assumption | with_reducible exact Keeps.refl _ | with_reducible apply Keeps.ite | with_reducible apply KeepsRes.ite | with_reducible apply KeepsFst.ite | with_reducible apply KeepsSnd.ite | with_reducible apply KeepsFst.mk | with_reducible apply KeepsSnd.mk | with_reducible apply KeepsRes.mk | with_reducible apply Keeps.id | with_reducible apply keeps_ended | with_reducible apply keeps_ended' | with_reducible apply keeps_kUndef | with_reducible apply keeps_regionWrite | (with_reducible refine Keeps.foldl _ ?_ ?_; intro s x hs; try dsimp only) | (with_reducible refine Keeps.foldl1 _ ?_ ?_; (intro p x hs; replace hs := KeepsFst.fst hs; try dsimp only)) | (with_reducible refine Keeps.foldl2 _ ?_ ?_; (intro p x hs; replace hs := KeepsSnd.snd hs; try dsimp only)) | (with_reducible refine KeepsFst.foldl _ ?_ ?_; (intro p x hs; replace hs := KeepsFst.fst hs; try dsimp only)) | (with_reducible refine KeepsSnd.foldl _ ?_ ?_; (intro p x hs; replace hs := KeepsSnd.snd hs; try dsimp only)) | with_reducible apply ih | (with_reducible apply KeepsRes.fst; with_reducible apply ih) | (with_reducible apply KeepsFst.fst; with_reducible apply ih) | (simp only [Keeps.lit]; with_reducible apply KeepsData.of) | (simp only [Keeps.lit]; with_reducible refine KeepsData.poke ?_ (fun w => ?_); rotate_left; first | exact mark_wf _ _ _ w | exact fold_wf _ _ (fun m x hm => poison_wf _ _ hm) w | exact fold_wf _ _ (fun m x hm => by split; exact poison_wf _ _ hm; exact hm) w | exact write_wf _ _ w | exact mark_wf _ _ _ (write_wf _ _ w)) | intro s hs | split | (with_reducible apply KeepsSnd.eq; with_reducible assumption) | (with_reducible apply KeepsFst.eq; with_reducible assumption))
theorem keeps_condenseLoop' {a : State} (v0 : State) (v1 : Region) (v2 : Region) (v3 : Option ℕ) (v4 : List (ℕ × ℕ)) (v5 : ℕ) (v6 : List ℕ) (h0 : Keeps a v0) : Keeps a (State.condenseLoop v0 v1 v2 v3 v4 v5 v6).s := keeps_condenseLoop v0 v1 v2 v3 v4 v5 v6 h0

theorem keeps_bodyCondense {a : State} (v0 : Sub) (v1 : Ext) (v2 : State) (h0 : Keeps a v2) : KeepsRes a (bodyCondense v0 v1 v2) := by
  unfold bodyCondense
  try dsimp only
  repeat' (first | with_reducible assumption | with_reducible exact Keeps.refl _ | with_reducible apply Keeps.ite | with_reducible apply KeepsRes.ite | with_reducible apply KeepsFst.ite | with_reducible apply KeepsSnd.ite | with_reducible apply KeepsRes.mk | with_reducible apply keeps_condenseLoop | with_reducible apply keeps_condenseLoop' | with_reducible apply keeps_freeNat | with_reducible apply keeps_freeNat' | (with_reducible refine keeps_freeNat_e (by with_reducible assumption) ?_) | with_reducible apply keeps_badParam | with_reducible apply keeps_badParam' | (simp only [Keeps.lit]; with_reducible apply KeepsData.of) | (simp only [Keeps.lit]; with_reducible refine KeepsData.poke ?_ (fun w => ?_); rotate_left; first | exact mark_wf _ _ _ w | exact fold_wf _ _ (fun m x hm => poison_wf _ _ hm) w | exact fold_wf _ _ (fun m x hm => by split; exact poison_wf _ _ hm; exact hm) w | exact write_wf _ _ w | exact mark_wf _ _ _ (write_wf _ _ w)) | intro s hs | split)
theorem keeps_bodyCondense' {a : State} (v0 : Sub) (v1 : Ext) (v2 : State) (h0 : Keeps a v2) : Keeps a (bodyCondense v0 v1 v2).s := keeps_bodyCondense v0 v1 v2 h0

theorem keeps_execFreezeAck {a : State} (v0 : State) (h0 : Keeps a v0) : KeepsOut a (execFreezeAck v0) := by
  unfold execFreezeAck
  try dsimp only
  repeat' (first | with_reducible assumption | with_reducible exact Keeps.refl _ | with_reducible apply KeepsOut.next | with_reducible apply Keeps.ite | with_reducible apply KeepsRes.ite | with_reducible apply KeepsFst.ite | with_reducible apply KeepsSnd.ite | with_reducible apply keeps_capFreezeAck | with_reducible apply keeps_logPartner | with_reducible apply keeps_stepFlip | with_reducible apply keeps_lowerFreeze | (simp only [Keeps.lit]; with_reducible apply KeepsData.of) | (simp only [Keeps.lit]; with_reducible refine KeepsData.poke ?_ (fun w => ?_); rotate_left; first | exact mark_wf _ _ _ w | exact fold_wf _ _ (fun m x hm => poison_wf _ _ hm) w | exact fold_wf _ _ (fun m x hm => by split; exact poison_wf _ _ hm; exact hm) w | exact write_wf _ _ w | exact mark_wf _ _ _ (write_wf _ _ w)) | intro s hs | split)

theorem keeps_execFreezeAckFall {a : State} (v0 : State) (h0 : Keeps a v0) : KeepsOut a (execFreezeAckFall v0) := by
  unfold execFreezeAckFall
  try dsimp only
  repeat' (first | with_reducible assumption | with_reducible exact Keeps.refl _ | with_reducible apply KeepsOut.next | with_reducible apply keeps_nextFreeze | (simp only [Keeps.lit]; with_reducible apply KeepsData.of))

theorem keeps_execFreezeTimeout {a : State} (v0 : State) (h0 : Keeps a v0) : KeepsOut a (execFreezeTimeout v0) := by
  unfold execFreezeTimeout
  try dsimp only
  repeat' (first | with_reducible assumption | with_reducible exact Keeps.refl _ | with_reducible apply KeepsOut.next | with_reducible apply Keeps.ite | with_reducible apply KeepsRes.ite | with_reducible apply KeepsFst.ite | with_reducible apply KeepsSnd.ite | with_reducible apply keeps_capFreezeTimeout | with_reducible apply keeps_conclude | with_reducible apply keeps_onStep | with_reducible apply keeps_logPartner | with_reducible apply keeps_fail | with_reducible apply keeps_fail' | with_reducible apply keeps_lowerFreeze | (simp only [Keeps.lit]; with_reducible apply KeepsData.of) | (simp only [Keeps.lit]; with_reducible refine KeepsData.poke ?_ (fun w => ?_); rotate_left; first | exact mark_wf _ _ _ w | exact fold_wf _ _ (fun m x hm => poison_wf _ _ hm) w | exact fold_wf _ _ (fun m x hm => by split; exact poison_wf _ _ hm; exact hm) w | exact write_wf _ _ w | exact mark_wf _ _ _ (write_wf _ _ w)) | intro s hs | split)

theorem keeps_cellOut {a : State} (v0 : State) (v1 : ℕ) (v2 : ℕ) (h0 : Keeps a v0) : Keeps a (State.cellOut v0 v1 v2) := by
  unfold State.cellOut
  try dsimp only
  repeat' (first | with_reducible assumption | with_reducible exact Keeps.refl _ | with_reducible apply Keeps.ite | with_reducible apply KeepsRes.ite | with_reducible apply KeepsFst.ite | with_reducible apply KeepsSnd.ite | with_reducible apply keeps_onSt | with_reducible apply keeps_raise | with_reducible apply keeps_onCell | (simp only [Keeps.lit]; with_reducible apply KeepsData.of) | (simp only [Keeps.lit]; with_reducible refine KeepsData.poke ?_ (fun w => ?_); rotate_left; first | exact mark_wf _ _ _ w | exact fold_wf _ _ (fun m x hm => poison_wf _ _ hm) w | exact fold_wf _ _ (fun m x hm => by split; exact poison_wf _ _ hm; exact hm) w | exact write_wf _ _ w | exact mark_wf _ _ _ (write_wf _ _ w)) | intro s hs | split)

theorem keeps_execCellSelfCheckFail {a : State} (v0 : ℕ) (v1 : ℕ) (v2 : State) (h0 : Keeps a v2) : KeepsOut a (execCellSelfCheckFail v0 v1 v2) := by
  unfold execCellSelfCheckFail
  try dsimp only
  repeat' (first | with_reducible assumption | with_reducible exact Keeps.refl _ | with_reducible apply KeepsOut.next | with_reducible apply Keeps.ite | with_reducible apply KeepsRes.ite | with_reducible apply KeepsFst.ite | with_reducible apply KeepsSnd.ite | with_reducible apply keeps_cellOut | (simp only [Keeps.lit]; with_reducible apply KeepsData.of) | (simp only [Keeps.lit]; with_reducible refine KeepsData.poke ?_ (fun w => ?_); rotate_left; first | exact mark_wf _ _ _ w | exact fold_wf _ _ (fun m x hm => poison_wf _ _ hm) w | exact fold_wf _ _ (fun m x hm => by split; exact poison_wf _ _ hm; exact hm) w | exact write_wf _ _ w | exact mark_wf _ _ _ (write_wf _ _ w)) | intro s hs | split)

theorem keeps_execProgramLoad {a : State} (v0 : Sub) (v1 : Ext) (v2 : State) (h0 : Keeps a v2) : KeepsOut a (execProgramLoad v0 v1 v2) := by
  unfold execProgramLoad
  try dsimp only
  repeat' (first | with_reducible assumption | with_reducible exact Keeps.refl _ | with_reducible apply KeepsOut.next | with_reducible apply keeps_runOp | with_reducible apply keeps_bodyProgramLoad | with_reducible apply keeps_bodyProgramLoad' | (simp only [Keeps.lit]; with_reducible apply KeepsData.of))

theorem keeps_execStepBegin {a : State} (v0 : Sub) (v1 : Ext) (v2 : State) (h0 : Keeps a v2) : KeepsOut a (execStepBegin v0 v1 v2) := by
  unfold execStepBegin
  try dsimp only
  repeat' (first | with_reducible assumption | with_reducible exact Keeps.refl _ | with_reducible apply KeepsOut.next | with_reducible apply keeps_runOp | with_reducible apply keeps_bodyStepBegin | with_reducible apply keeps_bodyStepBegin' | (simp only [Keeps.lit]; with_reducible apply KeepsData.of))

theorem keeps_execStepMeasure {a : State} (v0 : Sub) (v1 : Ext) (v2 : State) (h0 : Keeps a v2) : KeepsOut a (execStepMeasure v0 v1 v2) := by
  unfold execStepMeasure
  try dsimp only
  repeat' (first | with_reducible assumption | with_reducible exact Keeps.refl _ | with_reducible apply KeepsOut.next | with_reducible apply Keeps.ite | with_reducible apply KeepsRes.ite | with_reducible apply KeepsFst.ite | with_reducible apply KeepsSnd.ite | with_reducible apply keeps_runOp | with_reducible apply keeps_bodyStepMeasure | with_reducible apply keeps_bodyStepMeasure' | with_reducible apply keeps_phased | with_reducible apply keeps_phased' | (simp only [Keeps.lit]; with_reducible apply KeepsData.of) | (simp only [Keeps.lit]; with_reducible refine KeepsData.poke ?_ (fun w => ?_); rotate_left; first | exact mark_wf _ _ _ w | exact fold_wf _ _ (fun m x hm => poison_wf _ _ hm) w | exact fold_wf _ _ (fun m x hm => by split; exact poison_wf _ _ hm; exact hm) w | exact write_wf _ _ w | exact mark_wf _ _ _ (write_wf _ _ w)) | intro s hs | split)

theorem keeps_execStepNorm {a : State} (v0 : Sub) (v1 : Ext) (v2 : State) (h0 : Keeps a v2) : KeepsOut a (execStepNorm v0 v1 v2) := by
  unfold execStepNorm
  try dsimp only
  repeat' (first | with_reducible assumption | with_reducible exact Keeps.refl _ | with_reducible apply KeepsOut.next | with_reducible apply keeps_runOp | with_reducible apply keeps_bodyStepNorm | with_reducible apply keeps_bodyStepNorm' | (simp only [Keeps.lit]; with_reducible apply KeepsData.of))

theorem keeps_execStepApply {a : State} (v0 : Sub) (v1 : Ext) (v2 : State) (h0 : Keeps a v2) : KeepsOut a (execStepApply v0 v1 v2) := by
  unfold execStepApply
  try dsimp only
  repeat' (first | with_reducible assumption | with_reducible exact Keeps.refl _ | with_reducible apply KeepsOut.next | with_reducible apply Keeps.ite | with_reducible apply KeepsRes.ite | with_reducible apply KeepsFst.ite | with_reducible apply KeepsSnd.ite | with_reducible apply keeps_runOp | with_reducible apply keeps_bodyStepApply | with_reducible apply keeps_bodyStepApply' | with_reducible apply keeps_phased | with_reducible apply keeps_phased' | (simp only [Keeps.lit]; with_reducible apply KeepsData.of) | (simp only [Keeps.lit]; with_reducible refine KeepsData.poke ?_ (fun w => ?_); rotate_left; first | exact mark_wf _ _ _ w | exact fold_wf _ _ (fun m x hm => poison_wf _ _ hm) w | exact fold_wf _ _ (fun m x hm => by split; exact poison_wf _ _ hm; exact hm) w | exact write_wf _ _ w | exact mark_wf _ _ _ (write_wf _ _ w)) | intro s hs | split)

theorem keeps_execStepAbort {a : State} (v0 : Sub) (v1 : Ext) (v2 : State) (h0 : Keeps a v2) : KeepsOut a (execStepAbort v0 v1 v2) := by
  unfold execStepAbort
  try dsimp only
  repeat' (first | with_reducible assumption | with_reducible exact Keeps.refl _ | with_reducible apply KeepsOut.next | with_reducible apply keeps_runOp | with_reducible apply keeps_bodyStepAbort | with_reducible apply keeps_bodyStepAbort' | (simp only [Keeps.lit]; with_reducible apply KeepsData.of))

theorem keeps_execStepRollback {a : State} (v0 : Sub) (v1 : Ext) (v2 : State) (h0 : Keeps a v2) : KeepsOut a (execStepRollback v0 v1 v2) := by
  unfold execStepRollback
  try dsimp only
  repeat' (first | with_reducible assumption | with_reducible exact Keeps.refl _ | with_reducible apply KeepsOut.next | with_reducible apply keeps_bodyStepRollback | with_reducible apply keeps_bodyStepRollback' | with_reducible apply keeps_runOp | (simp only [Keeps.lit]; with_reducible apply KeepsData.of))

theorem keeps_execTierPlace {a : State} (v0 : Sub) (v1 : Ext) (v2 : State) (h0 : Keeps a v2) : KeepsOut a (execTierPlace v0 v1 v2) := by
  unfold execTierPlace
  try dsimp only
  repeat' (first | with_reducible assumption | with_reducible exact Keeps.refl _ | with_reducible apply KeepsOut.next | with_reducible apply keeps_runOp | with_reducible apply keeps_bodyTierPlace | with_reducible apply keeps_bodyTierPlace' | (simp only [Keeps.lit]; with_reducible apply KeepsData.of))

theorem keeps_execCondense {a : State} (v0 : Sub) (v1 : Ext) (v2 : State) (h0 : Keeps a v2) : KeepsOut a (execCondense v0 v1 v2) := by
  unfold execCondense
  try dsimp only
  repeat' (first | with_reducible assumption | with_reducible exact Keeps.refl _ | with_reducible apply KeepsOut.next | with_reducible apply keeps_bodyCondense | with_reducible apply keeps_bodyCondense' | with_reducible apply keeps_runOp | (simp only [Keeps.lit]; with_reducible apply KeepsData.of))

end Sys2Proof.Laws
end

