-- ==== Sys2Proof/Laws/KeepsSites.lean ====
section
/-! SUPPORT. Every function of Machine/Sites.lean that answers a state keeps what no command may change. -/

namespace Sys2Proof.Laws
open Sys2Proof Sys2Proof.Machine
set_option linter.unreachableTactic false
set_option linter.unusedTactic false
set_option linter.unusedVariables false
set_option linter.unusedSimpArgs false
set_option maxRecDepth 4000

theorem keeps_onRec {a : State} (v0 : State) (v1 : ℕ) (v2 : ℕ) (v3 : BlkRec → BlkRec) (h0 : Keeps a v0) : Keeps a (State.onRec v0 v1 v2 v3) := by
  unfold State.onRec
  try dsimp only
  repeat' (first | with_reducible assumption | with_reducible exact Keeps.refl _ | with_reducible apply keeps_poke | (simp only [Keeps.lit]; with_reducible apply KeepsData.of))

theorem keeps_areaWrite {a : State} (v0 : State) (v1 : ℕ) (v2 : ℕ) (v3 : ℕ) (v4 : List (ℕ × Bool)) (h0 : Keeps a v0) : Keeps a (State.areaWrite v0 v1 v2 v3 v4) := by
  unfold State.areaWrite
  try dsimp only
  repeat' (first | with_reducible assumption | with_reducible exact Keeps.refl _ | with_reducible apply Keeps.ite | with_reducible apply KeepsRes.ite | with_reducible apply KeepsFst.ite | with_reducible apply KeepsSnd.ite | with_reducible apply KeepsFst.mk | with_reducible apply KeepsSnd.mk | with_reducible apply KeepsRes.mk | with_reducible apply keeps_poke | (simp only [Keeps.lit]; with_reducible apply KeepsData.of) | (simp only [Keeps.lit]; with_reducible refine KeepsData.poke ?_ (fun w => ?_); rotate_left; first | exact mark_wf _ _ _ w | exact fold_wf _ _ (fun m x hm => poison_wf _ _ hm) w | exact fold_wf _ _ (fun m x hm => by split; exact poison_wf _ _ hm; exact hm) w | exact write_wf _ _ w | exact mark_wf _ _ _ (write_wf _ _ w)) | intro s hs | split)

theorem keeps_onPeer {a : State} (v0 : State) (v1 : ℕ) (v2 : ℕ) (v3 : Peer → Peer) (h0 : Keeps a v0) : Keeps a (State.onPeer v0 v1 v2 v3) := by
  unfold State.onPeer
  try dsimp only
  repeat' (first | with_reducible assumption | with_reducible exact Keeps.refl _ | with_reducible apply keeps_onSite | (simp only [Keeps.lit]; with_reducible apply KeepsData.of))

theorem keeps_missBlock {a : State} (v0 : State) (v1 : ℕ) (v2 : ℕ) (v3 : ℕ) (h0 : Keeps a v0) : Keeps a (State.missBlock v0 v1 v2 v3) := by
  unfold State.missBlock
  try dsimp only
  repeat' (first | with_reducible assumption | with_reducible exact Keeps.refl _ | with_reducible apply keeps_onRec | (simp only [Keeps.lit]; with_reducible apply KeepsData.of))

theorem keeps_missSite {a : State} (v0 : State) (v1 : ℕ) (v2 : ℕ) (h0 : Keeps a v0) : Keeps a (State.missSite v0 v1 v2) := by
  unfold State.missSite
  try dsimp only
  repeat' (first | with_reducible assumption | with_reducible exact Keeps.refl _ | with_reducible apply Keeps.ite | with_reducible apply KeepsRes.ite | with_reducible apply KeepsFst.ite | with_reducible apply KeepsSnd.ite | with_reducible apply KeepsFst.mk | with_reducible apply KeepsSnd.mk | with_reducible apply KeepsRes.mk | with_reducible apply Keeps.id | with_reducible apply keeps_missBlock | (with_reducible refine Keeps.foldl _ ?_ ?_; intro s x hs; try dsimp only) | (with_reducible refine Keeps.foldl1 _ ?_ ?_; (intro p x hs; replace hs := KeepsFst.fst hs; try dsimp only)) | (with_reducible refine Keeps.foldl2 _ ?_ ?_; (intro p x hs; replace hs := KeepsSnd.snd hs; try dsimp only)) | (with_reducible refine KeepsFst.foldl _ ?_ ?_; (intro p x hs; replace hs := KeepsFst.fst hs; try dsimp only)) | (with_reducible refine KeepsSnd.foldl _ ?_ ?_; (intro p x hs; replace hs := KeepsSnd.snd hs; try dsimp only)) | (simp only [Keeps.lit]; with_reducible apply KeepsData.of) | (simp only [Keeps.lit]; with_reducible refine KeepsData.poke ?_ (fun w => ?_); rotate_left; first | exact mark_wf _ _ _ w | exact fold_wf _ _ (fun m x hm => poison_wf _ _ hm) w | exact fold_wf _ _ (fun m x hm => by split; exact poison_wf _ _ hm; exact hm) w | exact write_wf _ _ w | exact mark_wf _ _ _ (write_wf _ _ w)) | intro s hs | split | (with_reducible apply KeepsSnd.eq; with_reducible assumption) | (with_reducible apply KeepsFst.eq; with_reducible assumption))

theorem keeps_violSdx {a : State} (v0 : State) (v1 : ℕ) (v2 : ℕ) (h0 : Keeps a v0) : Keeps a (State.violSdx v0 v1 v2) := by
  unfold State.violSdx
  try dsimp only
  repeat' (first | with_reducible assumption | with_reducible exact Keeps.refl _ | with_reducible apply Keeps.ite | with_reducible apply KeepsRes.ite | with_reducible apply KeepsFst.ite | with_reducible apply KeepsSnd.ite | with_reducible apply keeps_onPeer | with_reducible apply keeps_logPartner | with_reducible apply keeps_missSite | (simp only [Keeps.lit]; with_reducible apply KeepsData.of) | (simp only [Keeps.lit]; with_reducible refine KeepsData.poke ?_ (fun w => ?_); rotate_left; first | exact mark_wf _ _ _ w | exact fold_wf _ _ (fun m x hm => poison_wf _ _ hm) w | exact fold_wf _ _ (fun m x hm => by split; exact poison_wf _ _ hm; exact hm) w | exact write_wf _ _ w | exact mark_wf _ _ _ (write_wf _ _ w)) | intro s hs | split)

theorem keeps_sdxSend {a : State} (v0 : State) (v1 : ℕ) (v2 : ℕ) (v3 : SdxFrame) (v4 : Bool) (h0 : Keeps a v0) : Keeps a (State.sdxSend v0 v1 v2 v3 v4) := by
  unfold State.sdxSend
  try dsimp only
  repeat' (first | with_reducible assumption | with_reducible exact Keeps.refl _ | with_reducible apply Keeps.ite | with_reducible apply KeepsRes.ite | with_reducible apply KeepsFst.ite | with_reducible apply KeepsSnd.ite | with_reducible apply keeps_onPeer | with_reducible apply keeps_poke | (simp only [Keeps.lit]; with_reducible apply KeepsData.of) | (simp only [Keeps.lit]; with_reducible refine KeepsData.poke ?_ (fun w => ?_); rotate_left; first | exact mark_wf _ _ _ w | exact fold_wf _ _ (fun m x hm => poison_wf _ _ hm) w | exact fold_wf _ _ (fun m x hm => by split; exact poison_wf _ _ hm; exact hm) w | exact write_wf _ _ w | exact mark_wf _ _ _ (write_wf _ _ w)) | intro s hs | split)

theorem keeps_takeInvocation {a : State} (v0 : State) (v1 : ℕ) (v2 : Bool) (h0 : Keeps a v0) : KeepsSnd a (State.takeInvocation v0 v1 v2) := by
  unfold State.takeInvocation
  try dsimp only
  repeat' (first | with_reducible assumption | with_reducible exact Keeps.refl _ | with_reducible apply Keeps.ite | with_reducible apply KeepsRes.ite | with_reducible apply KeepsFst.ite | with_reducible apply KeepsSnd.ite | with_reducible apply KeepsSnd.mk | with_reducible apply keeps_onKey | with_reducible apply keeps_useKey | (simp only [Keeps.lit]; with_reducible apply KeepsData.of) | (simp only [Keeps.lit]; with_reducible refine KeepsData.poke ?_ (fun w => ?_); rotate_left; first | exact mark_wf _ _ _ w | exact fold_wf _ _ (fun m x hm => poison_wf _ _ hm) w | exact fold_wf _ _ (fun m x hm => by split; exact poison_wf _ _ hm; exact hm) w | exact write_wf _ _ w | exact mark_wf _ _ _ (write_wf _ _ w)) | intro s hs | split)
theorem keeps_takeInvocation' {a : State} (v0 : State) (v1 : ℕ) (v2 : Bool) (h0 : Keeps a v0) : Keeps a (State.takeInvocation v0 v1 v2).2 := keeps_takeInvocation v0 v1 v2 h0
theorem keeps_takeInvocation_e {a t : State} {v0 : State} {v1 : ℕ} {v2 : Bool} {b : _} (e : State.takeInvocation v0 v1 v2 = (b, t)) (h0 : Keeps a v0) : Keeps a t := KeepsSnd.eq e (keeps_takeInvocation v0 v1 v2 h0)

theorem keeps_sdxControl {a : State} (v0 : State) (v1 : ℕ) (v2 : ℕ) (v3 : ℕ) (v4 : BitVec 32) (v5 : List Byte) (h0 : Keeps a v0) : Keeps a (State.sdxControl v0 v1 v2 v3 v4 v5) := by
  unfold State.sdxControl
  try dsimp only
  repeat' (first | with_reducible assumption | with_reducible exact Keeps.refl _ | with_reducible apply Keeps.ite | with_reducible apply KeepsRes.ite | with_reducible apply KeepsFst.ite | with_reducible apply KeepsSnd.ite | with_reducible apply keeps_takeInvocation | with_reducible apply keeps_takeInvocation' | (with_reducible refine keeps_takeInvocation_e (by with_reducible assumption) ?_) | with_reducible apply keeps_sdxSend | (simp only [Keeps.lit]; with_reducible apply KeepsData.of) | (simp only [Keeps.lit]; with_reducible refine KeepsData.poke ?_ (fun w => ?_); rotate_left; first | exact mark_wf _ _ _ w | exact fold_wf _ _ (fun m x hm => poison_wf _ _ hm) w | exact fold_wf _ _ (fun m x hm => by split; exact poison_wf _ _ hm; exact hm) w | exact write_wf _ _ w | exact mark_wf _ _ _ (write_wf _ _ w)) | intro s hs | split)

theorem keeps_anchorLoop {a : State} (v0 : State) (v1 : ℕ) (v2 : ℕ) (v3 : Option ℕ) (v4 : List (ℕ × SiteBlk)) (v5 : ℕ) (h0 : Keeps a v0) : KeepsFst a (State.anchorLoop v0 v1 v2 v3 v4 v5) := by
  induction v4 generalizing v0 v5 with
  | nil => unfold State.anchorLoop; (try dsimp only); repeat' (first | with_reducible assumption | with_reducible exact Keeps.refl _ | with_reducible apply Keeps.ite | with_reducible apply KeepsRes.ite | with_reducible apply KeepsFst.ite | with_reducible apply KeepsSnd.ite | with_reducible apply KeepsFst.mk | with_reducible apply keeps_undefBuf | with_reducible apply keeps_areaWrite | with_reducible apply ih | (with_reducible apply KeepsRes.fst; with_reducible apply ih) | (with_reducible apply KeepsFst.fst; with_reducible apply ih) | (simp only [Keeps.lit]; with_reducible apply KeepsData.of) | (simp only [Keeps.lit]; with_reducible refine KeepsData.poke ?_ (fun w => ?_); rotate_left; first | exact mark_wf _ _ _ w | exact fold_wf _ _ (fun m x hm => poison_wf _ _ hm) w | exact fold_wf _ _ (fun m x hm => by split; exact poison_wf _ _ hm; exact hm) w | exact write_wf _ _ w | exact mark_wf _ _ _ (write_wf _ _ w)) | intro s hs | split)
  | cons x r ih => unfold State.anchorLoop; (try dsimp only); repeat' (first | with_reducible assumption | with_reducible exact Keeps.refl _ | with_reducible apply Keeps.ite | with_reducible apply KeepsRes.ite | with_reducible apply KeepsFst.ite | with_reducible apply KeepsSnd.ite | with_reducible apply KeepsFst.mk | with_reducible apply keeps_undefBuf | with_reducible apply keeps_areaWrite | with_reducible apply ih | (with_reducible apply KeepsRes.fst; with_reducible apply ih) | (with_reducible apply KeepsFst.fst; with_reducible apply ih) | (simp only [Keeps.lit]; with_reducible apply KeepsData.of) | (simp only [Keeps.lit]; with_reducible refine KeepsData.poke ?_ (fun w => ?_); rotate_left; first | exact mark_wf _ _ _ w | exact fold_wf _ _ (fun m x hm => poison_wf _ _ hm) w | exact fold_wf _ _ (fun m x hm => by split; exact poison_wf _ _ hm; exact hm) w | exact write_wf _ _ w | exact mark_wf _ _ _ (write_wf _ _ w)) | intro s hs | split)
theorem keeps_anchorLoop' {a : State} (v0 : State) (v1 : ℕ) (v2 : ℕ) (v3 : Option ℕ) (v4 : List (ℕ × SiteBlk)) (v5 : ℕ) (h0 : Keeps a v0) : Keeps a (State.anchorLoop v0 v1 v2 v3 v4 v5).1 := keeps_anchorLoop v0 v1 v2 v3 v4 v5 h0
theorem keeps_anchorLoop_e {a t : State} {v0 : State} {v1 : ℕ} {v2 : ℕ} {v3 : Option ℕ} {v4 : List (ℕ × SiteBlk)} {v5 : ℕ} {b : _} (e : State.anchorLoop v0 v1 v2 v3 v4 v5 = (t, b)) (h0 : Keeps a v0) : Keeps a t := KeepsFst.eq e (keeps_anchorLoop v0 v1 v2 v3 v4 v5 h0)

theorem keeps_bodyAnchorSet {a : State} (v0 : Sub) (v1 : Ext) (v2 : State) (h0 : Keeps a v2) : KeepsRes a (bodyAnchorSet v0 v1 v2) := by
  unfold bodyAnchorSet
  try dsimp only
  repeat' (first | with_reducible assumption | with_reducible exact Keeps.refl _ | with_reducible apply Keeps.ite | with_reducible apply KeepsRes.ite | with_reducible apply KeepsFst.ite | with_reducible apply KeepsSnd.ite | with_reducible apply KeepsRes.mk | with_reducible apply keeps_freeNat | with_reducible apply keeps_freeNat' | (with_reducible refine keeps_freeNat_e (by with_reducible assumption) ?_) | with_reducible apply keeps_poke | with_reducible apply keeps_reject | with_reducible apply keeps_reject' | with_reducible apply keeps_onSite | with_reducible apply keeps_anchorLoop | with_reducible apply keeps_anchorLoop' | (with_reducible refine keeps_anchorLoop_e (by with_reducible assumption) ?_) | with_reducible apply keeps_ended | with_reducible apply keeps_ended' | with_reducible apply keeps_fail | with_reducible apply keeps_fail' | (simp only [Keeps.lit]; with_reducible apply KeepsData.of) | (simp only [Keeps.lit]; with_reducible refine KeepsData.poke ?_ (fun w => ?_); rotate_left; first | exact mark_wf _ _ _ w | exact fold_wf _ _ (fun m x hm => poison_wf _ _ hm) w | exact fold_wf _ _ (fun m x hm => by split; exact poison_wf _ _ hm; exact hm) w | exact write_wf _ _ w | exact mark_wf _ _ _ (write_wf _ _ w)) | intro s hs | split)
theorem keeps_bodyAnchorSet' {a : State} (v0 : Sub) (v1 : Ext) (v2 : State) (h0 : Keeps a v2) : Keeps a (bodyAnchorSet v0 v1 v2).s := keeps_bodyAnchorSet v0 v1 v2 h0

theorem keeps_contribute {a : State} (v0 : State) (v1 : ℕ) (v2 : ℕ) (v3 : ℕ) (v4 : List (BitVec 32 × Bool)) (h0 : Keeps a v0) : Keeps a (State.contribute v0 v1 v2 v3 v4) := by
  unfold State.contribute
  try dsimp only
  repeat' (first | with_reducible assumption | with_reducible exact Keeps.refl _ | with_reducible apply keeps_onRec | with_reducible apply keeps_areaWrite | (simp only [Keeps.lit]; with_reducible apply KeepsData.of))

theorem keeps_ownTurns {a : State} (v0 : State) (v1 : ℕ) (h0 : Keeps a v0) : KeepsFst a (State.ownTurns v0 v1) := by
  unfold State.ownTurns
  try dsimp only
  repeat' (first | with_reducible assumption | with_reducible exact Keeps.refl _ | with_reducible apply Keeps.ite | with_reducible apply KeepsRes.ite | with_reducible apply KeepsFst.ite | with_reducible apply KeepsSnd.ite | with_reducible apply KeepsFst.mk | with_reducible apply KeepsSnd.mk | with_reducible apply KeepsRes.mk | with_reducible apply Keeps.id | with_reducible apply keeps_missBlock | with_reducible apply keeps_contribute | (with_reducible refine Keeps.foldl _ ?_ ?_; intro s x hs; try dsimp only) | (with_reducible refine Keeps.foldl1 _ ?_ ?_; (intro p x hs; replace hs := KeepsFst.fst hs; try dsimp only)) | (with_reducible refine Keeps.foldl2 _ ?_ ?_; (intro p x hs; replace hs := KeepsSnd.snd hs; try dsimp only)) | (with_reducible refine KeepsFst.foldl _ ?_ ?_; (intro p x hs; replace hs := KeepsFst.fst hs; try dsimp only)) | (with_reducible refine KeepsSnd.foldl _ ?_ ?_; (intro p x hs; replace hs := KeepsSnd.snd hs; try dsimp only)) | (simp only [Keeps.lit]; with_reducible apply KeepsData.of) | (simp only [Keeps.lit]; with_reducible refine KeepsData.poke ?_ (fun w => ?_); rotate_left; first | exact mark_wf _ _ _ w | exact fold_wf _ _ (fun m x hm => poison_wf _ _ hm) w | exact fold_wf _ _ (fun m x hm => by split; exact poison_wf _ _ hm; exact hm) w | exact write_wf _ _ w | exact mark_wf _ _ _ (write_wf _ _ w)) | intro s hs | split | (with_reducible apply KeepsSnd.eq; with_reducible assumption) | (with_reducible apply KeepsFst.eq; with_reducible assumption))
theorem keeps_ownTurns' {a : State} (v0 : State) (v1 : ℕ) (h0 : Keeps a v0) : Keeps a (State.ownTurns v0 v1).1 := keeps_ownTurns v0 v1 h0
theorem keeps_ownTurns_e {a t : State} {v0 : State} {v1 : ℕ} {b : _} (e : State.ownTurns v0 v1 = (t, b)) (h0 : Keeps a v0) : Keeps a t := KeepsFst.eq e (keeps_ownTurns v0 v1 h0)

theorem keeps_sdxCount {a : State} (v0 : State) (v1 : ℕ) (v2 : SdxClass) (h0 : Keeps a v0) : Keeps a (State.sdxCount v0 v1 v2) := by
  unfold State.sdxCount
  try dsimp only
  repeat' (first | with_reducible assumption | with_reducible exact Keeps.refl _ | with_reducible apply keeps_onSite | (simp only [Keeps.lit]; with_reducible apply KeepsData.of))

theorem keeps_catchDone {a : State} (v0 : State) (v1 : ℕ) (v2 : ℕ) (h0 : Keeps a v0) : Keeps a (State.catchDone v0 v1 v2) := by
  unfold State.catchDone
  try dsimp only
  repeat' (first | with_reducible assumption | with_reducible exact Keeps.refl _ | with_reducible apply Keeps.ite | with_reducible apply KeepsRes.ite | with_reducible apply KeepsFst.ite | with_reducible apply KeepsSnd.ite | with_reducible apply keeps_onRec | with_reducible apply keeps_onSite | (simp only [Keeps.lit]; with_reducible apply KeepsData.of) | (simp only [Keeps.lit]; with_reducible refine KeepsData.poke ?_ (fun w => ?_); rotate_left; first | exact mark_wf _ _ _ w | exact fold_wf _ _ (fun m x hm => poison_wf _ _ hm) w | exact fold_wf _ _ (fun m x hm => by split; exact poison_wf _ _ hm; exact hm) w | exact write_wf _ _ w | exact mark_wf _ _ _ (write_wf _ _ w)) | intro s hs | split)

theorem keeps_sdxUse {a : State} (v0 : State) (v1 : ℕ) (v2 : SdxFrame) (v3 : ℕ) (v4 : SiteBlk) (v5 : ℕ) (v6 : List (BitVec 32 × Bool)) (h0 : Keeps a v0) : Keeps a (State.sdxUse v0 v1 v2 v3 v4 v5 v6) := by
  unfold State.sdxUse
  try dsimp only
  repeat' (first | with_reducible assumption | with_reducible exact Keeps.refl _ | with_reducible apply Keeps.ite | with_reducible apply KeepsRes.ite | with_reducible apply KeepsFst.ite | with_reducible apply KeepsSnd.ite | with_reducible apply keeps_onSite | with_reducible apply keeps_regionWrite | with_reducible apply keeps_areaWrite | with_reducible apply keeps_missBlock | with_reducible apply keeps_catchDone | with_reducible apply keeps_contribute | (simp only [Keeps.lit]; with_reducible apply KeepsData.of) | (simp only [Keeps.lit]; with_reducible refine KeepsData.poke ?_ (fun w => ?_); rotate_left; first | exact mark_wf _ _ _ w | exact fold_wf _ _ (fun m x hm => poison_wf _ _ hm) w | exact fold_wf _ _ (fun m x hm => by split; exact poison_wf _ _ hm; exact hm) w | exact write_wf _ _ w | exact mark_wf _ _ _ (write_wf _ _ w)) | intro s hs | split)

theorem keeps_sdxRebuild {a : State} (v0 : State) (v1 : ℕ) (v2 : ℕ) (v3 : List Byte) (h0 : Keeps a v0) : Keeps a (State.sdxRebuild v0 v1 v2 v3) := by
  unfold State.sdxRebuild
  try dsimp only
  repeat' (first | with_reducible assumption | with_reducible exact Keeps.refl _ | with_reducible apply Keeps.ite | with_reducible apply KeepsRes.ite | with_reducible apply KeepsFst.ite | with_reducible apply KeepsSnd.ite | with_reducible apply KeepsFst.mk | with_reducible apply KeepsSnd.mk | with_reducible apply KeepsRes.mk | with_reducible apply Keeps.id | with_reducible apply keeps_sdxSend | (with_reducible refine Keeps.foldl _ ?_ ?_; intro s x hs; try dsimp only) | (with_reducible refine Keeps.foldl1 _ ?_ ?_; (intro p x hs; replace hs := KeepsFst.fst hs; try dsimp only)) | (with_reducible refine Keeps.foldl2 _ ?_ ?_; (intro p x hs; replace hs := KeepsSnd.snd hs; try dsimp only)) | (with_reducible refine KeepsFst.foldl _ ?_ ?_; (intro p x hs; replace hs := KeepsFst.fst hs; try dsimp only)) | (with_reducible refine KeepsSnd.foldl _ ?_ ?_; (intro p x hs; replace hs := KeepsSnd.snd hs; try dsimp only)) | (simp only [Keeps.lit]; with_reducible apply KeepsData.of) | (simp only [Keeps.lit]; with_reducible refine KeepsData.poke ?_ (fun w => ?_); rotate_left; first | exact mark_wf _ _ _ w | exact fold_wf _ _ (fun m x hm => poison_wf _ _ hm) w | exact fold_wf _ _ (fun m x hm => by split; exact poison_wf _ _ hm; exact hm) w | exact write_wf _ _ w | exact mark_wf _ _ _ (write_wf _ _ w)) | intro s hs | split | (with_reducible apply KeepsSnd.eq; with_reducible assumption) | (with_reducible apply KeepsFst.eq; with_reducible assumption))

theorem keeps_nackIn {a : State} (v0 : State) (v1 : ℕ) (v2 : ℕ) (v3 : SdxFrame) (v4 : List Byte) (h0 : Keeps a v0) : Keeps a (State.nackIn v0 v1 v2 v3 v4) := by
  unfold State.nackIn
  try dsimp only
  repeat' (first | with_reducible assumption | with_reducible exact Keeps.refl _ | with_reducible apply Keeps.ite | with_reducible apply KeepsRes.ite | with_reducible apply KeepsFst.ite | with_reducible apply KeepsSnd.ite | with_reducible apply keeps_sdxRebuild | with_reducible apply keeps_onSite | (simp only [Keeps.lit]; with_reducible apply KeepsData.of) | (simp only [Keeps.lit]; with_reducible refine KeepsData.poke ?_ (fun w => ?_); rotate_left; first | exact mark_wf _ _ _ w | exact fold_wf _ _ (fun m x hm => poison_wf _ _ hm) w | exact fold_wf _ _ (fun m x hm => by split; exact poison_wf _ _ hm; exact hm) w | exact write_wf _ _ w | exact mark_wf _ _ _ (write_wf _ _ w)) | intro s hs | split)

theorem keeps_serveLoop {a : State} (v0 : State) (v1 : ℕ) (v2 : ℕ) (v3 : ℕ) (h0 : Keeps a v0) : KeepsFst a (State.serveLoop v0 v1 v2 v3) := by
  induction v3 generalizing v0 with
  | zero => unfold State.serveLoop; (try dsimp only); repeat' (first | with_reducible assumption | with_reducible exact Keeps.refl _ | with_reducible apply Keeps.ite | with_reducible apply KeepsRes.ite | with_reducible apply KeepsFst.ite | with_reducible apply KeepsSnd.ite | with_reducible apply KeepsFst.mk | with_reducible apply keeps_onSite | with_reducible apply keeps_sdxSend | with_reducible apply keeps_takeInvocation | with_reducible apply keeps_takeInvocation' | (with_reducible refine keeps_takeInvocation_e (by with_reducible assumption) ?_) | with_reducible apply ih | (with_reducible apply KeepsRes.fst; with_reducible apply ih) | (with_reducible apply KeepsFst.fst; with_reducible apply ih) | (simp only [Keeps.lit]; with_reducible apply KeepsData.of) | (simp only [Keeps.lit]; with_reducible refine KeepsData.poke ?_ (fun w => ?_); rotate_left; first | exact mark_wf _ _ _ w | exact fold_wf _ _ (fun m x hm => poison_wf _ _ hm) w | exact fold_wf _ _ (fun m x hm => by split; exact poison_wf _ _ hm; exact hm) w | exact write_wf _ _ w | exact mark_wf _ _ _ (write_wf _ _ w)) | intro s hs | split)
  | succ k ih => unfold State.serveLoop; (try dsimp only); repeat' (first | with_reducible assumption | with_reducible exact Keeps.refl _ | with_reducible apply Keeps.ite | with_reducible apply KeepsRes.ite | with_reducible apply KeepsFst.ite | with_reducible apply KeepsSnd.ite | with_reducible apply KeepsFst.mk | with_reducible apply keeps_onSite | with_reducible apply keeps_sdxSend | with_reducible apply keeps_takeInvocation | with_reducible apply keeps_takeInvocation' | (with_reducible refine keeps_takeInvocation_e (by with_reducible assumption) ?_) | with_reducible apply ih | (with_reducible apply KeepsRes.fst; with_reducible apply ih) | (with_reducible apply KeepsFst.fst; with_reducible apply ih) | (simp only [Keeps.lit]; with_reducible apply KeepsData.of) | (simp only [Keeps.lit]; with_reducible refine KeepsData.poke ?_ (fun w => ?_); rotate_left; first | exact mark_wf _ _ _ w | exact fold_wf _ _ (fun m x hm => poison_wf _ _ hm) w | exact fold_wf _ _ (fun m x hm => by split; exact poison_wf _ _ hm; exact hm) w | exact write_wf _ _ w | exact mark_wf _ _ _ (write_wf _ _ w)) | intro s hs | split)
theorem keeps_serveLoop' {a : State} (v0 : State) (v1 : ℕ) (v2 : ℕ) (v3 : ℕ) (h0 : Keeps a v0) : Keeps a (State.serveLoop v0 v1 v2 v3).1 := keeps_serveLoop v0 v1 v2 v3 h0
theorem keeps_serveLoop_e {a t : State} {v0 : State} {v1 : ℕ} {v2 : ℕ} {v3 : ℕ} {b : _} (e : State.serveLoop v0 v1 v2 v3 = (t, b)) (h0 : Keeps a v0) : Keeps a t := KeepsFst.eq e (keeps_serveLoop v0 v1 v2 v3 h0)

theorem keeps_serve {a : State} (v0 : State) (v1 : ℕ) (h0 : Keeps a v0) : Keeps a (State.serve v0 v1) := by
  unfold State.serve
  try dsimp only
  repeat' (first | with_reducible assumption | with_reducible exact Keeps.refl _ | with_reducible apply Keeps.ite | with_reducible apply KeepsRes.ite | with_reducible apply KeepsFst.ite | with_reducible apply KeepsSnd.ite | with_reducible apply keeps_onSite | with_reducible apply keeps_serveLoop | with_reducible apply keeps_serveLoop' | (with_reducible refine keeps_serveLoop_e (by with_reducible assumption) ?_) | (simp only [Keeps.lit]; with_reducible apply KeepsData.of) | (simp only [Keeps.lit]; with_reducible refine KeepsData.poke ?_ (fun w => ?_); rotate_left; first | exact mark_wf _ _ _ w | exact fold_wf _ _ (fun m x hm => poison_wf _ _ hm) w | exact fold_wf _ _ (fun m x hm => by split; exact poison_wf _ _ hm; exact hm) w | exact write_wf _ _ w | exact mark_wf _ _ _ (write_wf _ _ w)) | intro s hs | split)

theorem keeps_catchupIn {a : State} (v0 : State) (v1 : ℕ) (v2 : ℕ) (v3 : SdxFrame) (h0 : Keeps a v0) : Keeps a (State.catchupIn v0 v1 v2 v3) := by
  unfold State.catchupIn
  try dsimp only
  repeat' (first | with_reducible assumption | with_reducible exact Keeps.refl _ | with_reducible apply Keeps.ite | with_reducible apply KeepsRes.ite | with_reducible apply KeepsFst.ite | with_reducible apply KeepsSnd.ite | with_reducible apply keeps_serve | with_reducible apply keeps_onSite | (simp only [Keeps.lit]; with_reducible apply KeepsData.of) | (simp only [Keeps.lit]; with_reducible refine KeepsData.poke ?_ (fun w => ?_); rotate_left; first | exact mark_wf _ _ _ w | exact fold_wf _ _ (fun m x hm => poison_wf _ _ hm) w | exact fold_wf _ _ (fun m x hm => by split; exact poison_wf _ _ hm; exact hm) w | exact write_wf _ _ w | exact mark_wf _ _ _ (write_wf _ _ w)) | intro s hs | split)

theorem keeps_sdxHandle {a : State} (v0 : State) (v1 : ℕ) (v2 : ℕ) (v3 : ℕ) (v4 : Bool) (h0 : Keeps a v0) : KeepsFst a (State.sdxHandle v0 v1 v2 v3 v4) := by
  unfold State.sdxHandle
  try dsimp only
  repeat' (first | with_reducible assumption | with_reducible exact Keeps.refl _ | with_reducible apply Keeps.ite | with_reducible apply KeepsRes.ite | with_reducible apply KeepsFst.ite | with_reducible apply KeepsSnd.ite | with_reducible apply KeepsFst.mk | with_reducible apply keeps_violSdx | with_reducible apply keeps_logStatus | with_reducible apply keeps_sdxCount | with_reducible apply keeps_catchupIn | with_reducible apply keeps_nackIn | with_reducible apply keeps_sdxUse | (simp only [Keeps.lit]; with_reducible apply KeepsData.of) | (simp only [Keeps.lit]; with_reducible refine KeepsData.poke ?_ (fun w => ?_); rotate_left; first | exact mark_wf _ _ _ w | exact fold_wf _ _ (fun m x hm => poison_wf _ _ hm) w | exact fold_wf _ _ (fun m x hm => by split; exact poison_wf _ _ hm; exact hm) w | exact write_wf _ _ w | exact mark_wf _ _ _ (write_wf _ _ w)) | intro s hs | split)
theorem keeps_sdxHandle' {a : State} (v0 : State) (v1 : ℕ) (v2 : ℕ) (v3 : ℕ) (v4 : Bool) (h0 : Keeps a v0) : Keeps a (State.sdxHandle v0 v1 v2 v3 v4).1 := keeps_sdxHandle v0 v1 v2 v3 v4 h0
theorem keeps_sdxHandle_e {a t : State} {v0 : State} {v1 : ℕ} {v2 : ℕ} {v3 : ℕ} {v4 : Bool} {b : _} (e : State.sdxHandle v0 v1 v2 v3 v4 = (t, b)) (h0 : Keeps a v0) : Keeps a t := KeepsFst.eq e (keeps_sdxHandle v0 v1 v2 v3 v4 h0)

theorem keeps_sdxConsume {a : State} (v0 : State) (v1 : ℕ) (v2 : ℕ) (h0 : Keeps a v0) : Keeps a (State.sdxConsume v0 v1 v2) := by
  unfold State.sdxConsume
  try dsimp only
  repeat' (first | with_reducible assumption | with_reducible exact Keeps.refl _ | with_reducible apply keeps_onPeer | with_reducible apply keeps_poke | (simp only [Keeps.lit]; with_reducible apply KeepsData.of))

theorem keeps_rereadPeer {a : State} (v0 : State) (v1 : ℕ) (v2 : ℕ) (h0 : Keeps a v0) : Keeps a (State.rereadPeer v0 v1 v2) := by
  unfold State.rereadPeer
  try dsimp only
  repeat' (first | with_reducible assumption | with_reducible exact Keeps.refl _ | with_reducible apply Keeps.ite | with_reducible apply KeepsRes.ite | with_reducible apply KeepsFst.ite | with_reducible apply KeepsSnd.ite | with_reducible apply KeepsFst.mk | with_reducible apply KeepsSnd.mk | with_reducible apply KeepsRes.mk | with_reducible apply Keeps.id | with_reducible apply keeps_sdxConsume | with_reducible apply keeps_onPeer | with_reducible apply keeps_sdxHandle | with_reducible apply keeps_sdxHandle' | (with_reducible refine keeps_sdxHandle_e (by with_reducible assumption) ?_) | (with_reducible refine Keeps.foldl _ ?_ ?_; intro s x hs; try dsimp only) | (with_reducible refine Keeps.foldl1 _ ?_ ?_; (intro p x hs; replace hs := KeepsFst.fst hs; try dsimp only)) | (with_reducible refine Keeps.foldl2 _ ?_ ?_; (intro p x hs; replace hs := KeepsSnd.snd hs; try dsimp only)) | (with_reducible refine KeepsFst.foldl _ ?_ ?_; (intro p x hs; replace hs := KeepsFst.fst hs; try dsimp only)) | (with_reducible refine KeepsSnd.foldl _ ?_ ?_; (intro p x hs; replace hs := KeepsSnd.snd hs; try dsimp only)) | (simp only [Keeps.lit]; with_reducible apply KeepsData.of) | (simp only [Keeps.lit]; with_reducible refine KeepsData.poke ?_ (fun w => ?_); rotate_left; first | exact mark_wf _ _ _ w | exact fold_wf _ _ (fun m x hm => poison_wf _ _ hm) w | exact fold_wf _ _ (fun m x hm => by split; exact poison_wf _ _ hm; exact hm) w | exact write_wf _ _ w | exact mark_wf _ _ _ (write_wf _ _ w)) | intro s hs | split | (with_reducible apply KeepsSnd.eq; with_reducible assumption) | (with_reducible apply KeepsFst.eq; with_reducible assumption))

theorem keeps_reread {a : State} (v0 : State) (v1 : ℕ) (v2 : ℕ) (h0 : Keeps a v0) : Keeps a (State.reread v0 v1 v2) := by
  induction v2 generalizing v0 with
  | zero => unfold State.reread; (try dsimp only); repeat' (first | with_reducible assumption | with_reducible exact Keeps.refl _ | with_reducible apply Keeps.ite | with_reducible apply KeepsRes.ite | with_reducible apply KeepsFst.ite | with_reducible apply KeepsSnd.ite | with_reducible apply KeepsFst.mk | with_reducible apply KeepsSnd.mk | with_reducible apply KeepsRes.mk | with_reducible apply Keeps.id | with_reducible apply keeps_ownTurns | with_reducible apply keeps_ownTurns' | (with_reducible refine keeps_ownTurns_e (by with_reducible assumption) ?_) | with_reducible apply keeps_rereadPeer | (with_reducible refine Keeps.foldl _ ?_ ?_; intro s x hs; try dsimp only) | (with_reducible refine Keeps.foldl1 _ ?_ ?_; (intro p x hs; replace hs := KeepsFst.fst hs; try dsimp only)) | (with_reducible refine Keeps.foldl2 _ ?_ ?_; (intro p x hs; replace hs := KeepsSnd.snd hs; try dsimp only)) | (with_reducible refine KeepsFst.foldl _ ?_ ?_; (intro p x hs; replace hs := KeepsFst.fst hs; try dsimp only)) | (with_reducible refine KeepsSnd.foldl _ ?_ ?_; (intro p x hs; replace hs := KeepsSnd.snd hs; try dsimp only)) | with_reducible apply ih | (with_reducible apply KeepsRes.fst; with_reducible apply ih) | (with_reducible apply KeepsFst.fst; with_reducible apply ih) | (simp only [Keeps.lit]; with_reducible apply KeepsData.of) | (simp only [Keeps.lit]; with_reducible refine KeepsData.poke ?_ (fun w => ?_); rotate_left; first | exact mark_wf _ _ _ w | exact fold_wf _ _ (fun m x hm => poison_wf _ _ hm) w | exact fold_wf _ _ (fun m x hm => by split; exact poison_wf _ _ hm; exact hm) w | exact write_wf _ _ w | exact mark_wf _ _ _ (write_wf _ _ w)) | intro s hs | split | (with_reducible apply KeepsSnd.eq; with_reducible assumption) | (with_reducible apply KeepsFst.eq; with_reducible assumption))
  | succ k ih => unfold State.reread; (try dsimp only); repeat' (first | with_reducible assumption | with_reducible exact Keeps.refl _ | with_reducible apply Keeps.ite | with_reducible apply KeepsRes.ite | with_reducible apply KeepsFst.ite | with_reducible apply KeepsSnd.ite | with_reducible apply KeepsFst.mk | with_reducible apply KeepsSnd.mk | with_reducible apply KeepsRes.mk | with_reducible apply Keeps.id | with_reducible apply keeps_ownTurns | with_reducible apply keeps_ownTurns' | (with_reducible refine keeps_ownTurns_e (by with_reducible assumption) ?_) | with_reducible apply keeps_rereadPeer | (with_reducible refine Keeps.foldl _ ?_ ?_; intro s x hs; try dsimp only) | (with_reducible refine Keeps.foldl1 _ ?_ ?_; (intro p x hs; replace hs := KeepsFst.fst hs; try dsimp only)) | (with_reducible refine Keeps.foldl2 _ ?_ ?_; (intro p x hs; replace hs := KeepsSnd.snd hs; try dsimp only)) | (with_reducible refine KeepsFst.foldl _ ?_ ?_; (intro p x hs; replace hs := KeepsFst.fst hs; try dsimp only)) | (with_reducible refine KeepsSnd.foldl _ ?_ ?_; (intro p x hs; replace hs := KeepsSnd.snd hs; try dsimp only)) | with_reducible apply ih | (with_reducible apply KeepsRes.fst; with_reducible apply ih) | (with_reducible apply KeepsFst.fst; with_reducible apply ih) | (simp only [Keeps.lit]; with_reducible apply KeepsData.of) | (simp only [Keeps.lit]; with_reducible refine KeepsData.poke ?_ (fun w => ?_); rotate_left; first | exact mark_wf _ _ _ w | exact fold_wf _ _ (fun m x hm => poison_wf _ _ hm) w | exact fold_wf _ _ (fun m x hm => by split; exact poison_wf _ _ hm; exact hm) w | exact write_wf _ _ w | exact mark_wf _ _ _ (write_wf _ _ w)) | intro s hs | split | (with_reducible apply KeepsSnd.eq; with_reducible assumption) | (with_reducible apply KeepsFst.eq; with_reducible assumption))

theorem keeps_outerRun {a : State} (v0 : State) (v1 : ℕ) (v2 : ApplyRun) (v3 : ℕ) (v4 : SiteBlk) (v5 : ℕ) (v6 : ℕ) (h0 : Keeps a v0) : KeepsOpt id a (State.outerRun v0 v1 v2 v3 v4 v5 v6) := by
  unfold State.outerRun
  try dsimp only
  repeat' (first | with_reducible assumption | with_reducible exact Keeps.refl _ | with_reducible apply Keeps.ite | with_reducible apply KeepsRes.ite | with_reducible apply KeepsFst.ite | with_reducible apply KeepsSnd.ite | with_reducible apply Keeps.id | (with_reducible refine KeepsOpt.map (k := Prod.snd) ?_ (fun _ h => h)) | with_reducible apply KeepsOpt.ite | with_reducible exact KeepsOpt.none | with_reducible apply KeepsOpt.some | with_reducible apply keeps_regionWrite | with_reducible apply keeps_areaWrite | (simp only [Keeps.lit]; with_reducible apply KeepsData.of) | (simp only [Keeps.lit]; with_reducible refine KeepsData.poke ?_ (fun w => ?_); rotate_left; first | exact mark_wf _ _ _ w | exact fold_wf _ _ (fun m x hm => poison_wf _ _ hm) w | exact fold_wf _ _ (fun m x hm => by split; exact poison_wf _ _ hm; exact hm) w | exact write_wf _ _ w | exact mark_wf _ _ _ (write_wf _ _ w)) | split | intro s hs | (with_reducible apply KeepsSnd.eq; with_reducible assumption) | (with_reducible apply KeepsFst.eq; with_reducible assumption))
theorem keeps_outerRun_e {a t : State} {v0 : State} {v1 : ℕ} {v2 : ApplyRun} {v3 : ℕ} {v4 : SiteBlk} {v5 : ℕ} {v6 : ℕ} (e : State.outerRun v0 v1 v2 v3 v4 v5 v6 = some t) (h0 : Keeps a v0) : Keeps a t := KeepsOpt.eq e (keeps_outerRun v0 v1 v2 v3 v4 v5 v6 h0)

theorem keeps_applyBlock {a : State} (v0 : State) (v1 : ℕ) (v2 : ApplyRun) (v3 : ℕ) (v4 : SiteBlk) (h0 : Keeps a v0) : Keeps a (State.applyBlock v0 v1 v2 v3 v4) := by
  unfold State.applyBlock
  try dsimp only
  repeat' (first | with_reducible assumption | with_reducible exact Keeps.refl _ | with_reducible apply Keeps.ite | with_reducible apply KeepsRes.ite | with_reducible apply KeepsFst.ite | with_reducible apply KeepsSnd.ite | with_reducible apply keeps_onRec | with_reducible apply keeps_poke | with_reducible apply keeps_onSite | with_reducible apply keeps_outerRun | (with_reducible refine keeps_outerRun_e (by with_reducible assumption) ?_) | (simp only [Keeps.lit]; with_reducible apply KeepsData.of) | (simp only [Keeps.lit]; with_reducible refine KeepsData.poke ?_ (fun w => ?_); rotate_left; first | exact mark_wf _ _ _ w | exact fold_wf _ _ (fun m x hm => poison_wf _ _ hm) w | exact fold_wf _ _ (fun m x hm => by split; exact poison_wf _ _ hm; exact hm) w | exact write_wf _ _ w | exact mark_wf _ _ _ (write_wf _ _ w)) | intro s hs | split)

theorem keeps_applyOver {a : State} (v0 : State) (v1 : ℕ) (v2 : BitVec 16) (h0 : Keeps a v0) : Keeps a (State.applyOver v0 v1 v2) := by
  unfold State.applyOver
  try dsimp only
  repeat' (first | with_reducible assumption | with_reducible exact Keeps.refl _ | with_reducible apply Keeps.ite | with_reducible apply KeepsRes.ite | with_reducible apply KeepsFst.ite | with_reducible apply KeepsSnd.ite | with_reducible apply KeepsFst.mk | with_reducible apply KeepsSnd.mk | with_reducible apply KeepsRes.mk | with_reducible apply Keeps.id | with_reducible apply keeps_serve | with_reducible apply keeps_onRec | with_reducible apply keeps_conclude | with_reducible apply keeps_onSite | with_reducible apply keeps_ended | with_reducible apply keeps_ended' | with_reducible apply keeps_reread | (with_reducible refine Keeps.foldl _ ?_ ?_; intro s x hs; try dsimp only) | (with_reducible refine Keeps.foldl1 _ ?_ ?_; (intro p x hs; replace hs := KeepsFst.fst hs; try dsimp only)) | (with_reducible refine Keeps.foldl2 _ ?_ ?_; (intro p x hs; replace hs := KeepsSnd.snd hs; try dsimp only)) | (with_reducible refine KeepsFst.foldl _ ?_ ?_; (intro p x hs; replace hs := KeepsFst.fst hs; try dsimp only)) | (with_reducible refine KeepsSnd.foldl _ ?_ ?_; (intro p x hs; replace hs := KeepsSnd.snd hs; try dsimp only)) | (simp only [Keeps.lit]; with_reducible apply KeepsData.of) | (simp only [Keeps.lit]; with_reducible refine KeepsData.poke ?_ (fun w => ?_); rotate_left; first | exact mark_wf _ _ _ w | exact fold_wf _ _ (fun m x hm => poison_wf _ _ hm) w | exact fold_wf _ _ (fun m x hm => by split; exact poison_wf _ _ hm; exact hm) w | exact write_wf _ _ w | exact mark_wf _ _ _ (write_wf _ _ w)) | intro s hs | split | (with_reducible apply KeepsSnd.eq; with_reducible assumption) | (with_reducible apply KeepsFst.eq; with_reducible assumption))

theorem keeps_applyGo {a : State} (v0 : State) (v1 : ℕ) (v2 : Option ℕ) (h0 : Keeps a v0) : Keeps a (State.applyGo v0 v1 v2) := by
  unfold State.applyGo
  try dsimp only
  repeat' (first | with_reducible assumption | with_reducible exact Keeps.refl _ | with_reducible apply Keeps.ite | with_reducible apply KeepsRes.ite | with_reducible apply KeepsFst.ite | with_reducible apply KeepsSnd.ite | with_reducible apply KeepsFst.mk | with_reducible apply KeepsSnd.mk | with_reducible apply KeepsRes.mk | with_reducible apply Keeps.id | with_reducible apply keeps_applyBlock | with_reducible apply keeps_putStatus | with_reducible apply keeps_onCmd | with_reducible apply keeps_kUndef | with_reducible apply keeps_applyOver | with_reducible apply keeps_undefBuf | (with_reducible refine Keeps.foldl _ ?_ ?_; intro s x hs; try dsimp only) | (with_reducible refine Keeps.foldl1 _ ?_ ?_; (intro p x hs; replace hs := KeepsFst.fst hs; try dsimp only)) | (with_reducible refine Keeps.foldl2 _ ?_ ?_; (intro p x hs; replace hs := KeepsSnd.snd hs; try dsimp only)) | (with_reducible refine KeepsFst.foldl _ ?_ ?_; (intro p x hs; replace hs := KeepsFst.fst hs; try dsimp only)) | (with_reducible refine KeepsSnd.foldl _ ?_ ?_; (intro p x hs; replace hs := KeepsSnd.snd hs; try dsimp only)) | (simp only [Keeps.lit]; with_reducible apply KeepsData.of) | (simp only [Keeps.lit]; with_reducible refine KeepsData.poke ?_ (fun w => ?_); rotate_left; first | exact mark_wf _ _ _ w | exact fold_wf _ _ (fun m x hm => poison_wf _ _ hm) w | exact fold_wf _ _ (fun m x hm => by split; exact poison_wf _ _ hm; exact hm) w | exact write_wf _ _ w | exact mark_wf _ _ _ (write_wf _ _ w)) | intro s hs | split | (with_reducible apply KeepsSnd.eq; with_reducible assumption) | (with_reducible apply KeepsFst.eq; with_reducible assumption))

theorem keeps_siteSettle {a : State} (v0 : State) (v1 : ℕ) (v2 : Ext) (h0 : Keeps a v0) : Keeps a (State.siteSettle v0 v1 v2) := by
  unfold State.siteSettle
  try dsimp only
  repeat' (first | with_reducible assumption | with_reducible exact Keeps.refl _ | with_reducible apply keeps_applyGo | with_reducible apply keeps_freeNat | with_reducible apply keeps_freeNat' | (with_reducible refine keeps_freeNat_e (by with_reducible assumption) ?_) | with_reducible apply keeps_reread | (simp only [Keeps.lit]; with_reducible apply KeepsData.of))

theorem keeps_missAll {a : State} (v0 : State) (v1 : ℕ) (v2 : ℕ) (h0 : Keeps a v0) : Keeps a (State.missAll v0 v1 v2) := by
  induction v2 generalizing v0 with
  | zero => unfold State.missAll; (try dsimp only); repeat' (first | with_reducible assumption | with_reducible exact Keeps.refl _ | with_reducible apply Keeps.ite | with_reducible apply KeepsRes.ite | with_reducible apply KeepsFst.ite | with_reducible apply KeepsSnd.ite | with_reducible apply keeps_missBlock | with_reducible apply keeps_reread | with_reducible apply ih | (with_reducible apply KeepsRes.fst; with_reducible apply ih) | (with_reducible apply KeepsFst.fst; with_reducible apply ih) | (simp only [Keeps.lit]; with_reducible apply KeepsData.of) | (simp only [Keeps.lit]; with_reducible refine KeepsData.poke ?_ (fun w => ?_); rotate_left; first | exact mark_wf _ _ _ w | exact fold_wf _ _ (fun m x hm => poison_wf _ _ hm) w | exact fold_wf _ _ (fun m x hm => by split; exact poison_wf _ _ hm; exact hm) w | exact write_wf _ _ w | exact mark_wf _ _ _ (write_wf _ _ w)) | intro s hs | split)
  | succ k ih => unfold State.missAll; (try dsimp only); repeat' (first | with_reducible assumption | with_reducible exact Keeps.refl _ | with_reducible apply Keeps.ite | with_reducible apply KeepsRes.ite | with_reducible apply KeepsFst.ite | with_reducible apply KeepsSnd.ite | with_reducible apply keeps_missBlock | with_reducible apply keeps_reread | with_reducible apply ih | (with_reducible apply KeepsRes.fst; with_reducible apply ih) | (with_reducible apply KeepsFst.fst; with_reducible apply ih) | (simp only [Keeps.lit]; with_reducible apply KeepsData.of) | (simp only [Keeps.lit]; with_reducible refine KeepsData.poke ?_ (fun w => ?_); rotate_left; first | exact mark_wf _ _ _ w | exact fold_wf _ _ (fun m x hm => poison_wf _ _ hm) w | exact fold_wf _ _ (fun m x hm => by split; exact poison_wf _ _ hm; exact hm) w | exact write_wf _ _ w | exact mark_wf _ _ _ (write_wf _ _ w)) | intro s hs | split)

theorem keeps_atDeadline {a : State} (v0 : State) (v1 : ℕ) (v2 : Option ℕ) (h0 : Keeps a v0) : Keeps a (State.atDeadline v0 v1 v2) := by
  unfold State.atDeadline
  try dsimp only
  repeat' (first | with_reducible assumption | with_reducible exact Keeps.refl _ | with_reducible apply Keeps.ite | with_reducible apply KeepsRes.ite | with_reducible apply KeepsFst.ite | with_reducible apply KeepsSnd.ite | with_reducible apply keeps_applyGo | with_reducible apply keeps_missAll | with_reducible apply keeps_applyOver | (simp only [Keeps.lit]; with_reducible apply KeepsData.of) | (simp only [Keeps.lit]; with_reducible refine KeepsData.poke ?_ (fun w => ?_); rotate_left; first | exact mark_wf _ _ _ w | exact fold_wf _ _ (fun m x hm => poison_wf _ _ hm) w | exact fold_wf _ _ (fun m x hm => by split; exact poison_wf _ _ hm; exact hm) w | exact write_wf _ _ w | exact mark_wf _ _ _ (write_wf _ _ w)) | intro s hs | split)

theorem keeps_bodyDeltaApply {a : State} (v0 : Sub) (v1 : Ext) (v2 : State) (h0 : Keeps a v2) : KeepsRes a (bodyDeltaApply v0 v1 v2) := by
  unfold bodyDeltaApply
  try dsimp only
  repeat' (first | with_reducible assumption | with_reducible exact Keeps.refl _ | with_reducible apply Keeps.ite | with_reducible apply KeepsRes.ite | with_reducible apply KeepsFst.ite | with_reducible apply KeepsSnd.ite | with_reducible apply KeepsFst.mk | with_reducible apply KeepsSnd.mk | with_reducible apply KeepsRes.mk | with_reducible apply Keeps.id | with_reducible apply keeps_applyGo | with_reducible apply keeps_endApplied | with_reducible apply keeps_wait | with_reducible apply keeps_wait' | with_reducible apply keeps_atDeadline | with_reducible apply keeps_useTime | with_reducible apply keeps_freeNat | with_reducible apply keeps_freeNat' | (with_reducible refine keeps_freeNat_e (by with_reducible assumption) ?_) | with_reducible apply keeps_onSite | with_reducible apply keeps_sdxControl | with_reducible apply keeps_running | with_reducible apply keeps_running' | with_reducible apply keeps_badParam | with_reducible apply keeps_badParam' | with_reducible apply keeps_fail | with_reducible apply keeps_fail' | with_reducible apply keeps_reread | (with_reducible refine Keeps.foldl _ ?_ ?_; intro s x hs; try dsimp only) | (with_reducible refine Keeps.foldl1 _ ?_ ?_; (intro p x hs; replace hs := KeepsFst.fst hs; try dsimp only)) | (with_reducible refine Keeps.foldl2 _ ?_ ?_; (intro p x hs; replace hs := KeepsSnd.snd hs; try dsimp only)) | (with_reducible refine KeepsFst.foldl _ ?_ ?_; (intro p x hs; replace hs := KeepsFst.fst hs; try dsimp only)) | (with_reducible refine KeepsSnd.foldl _ ?_ ?_; (intro p x hs; replace hs := KeepsSnd.snd hs; try dsimp only)) | (simp only [Keeps.lit]; with_reducible apply KeepsData.of) | (simp only [Keeps.lit]; with_reducible refine KeepsData.poke ?_ (fun w => ?_); rotate_left; first | exact mark_wf _ _ _ w | exact fold_wf _ _ (fun m x hm => poison_wf _ _ hm) w | exact fold_wf _ _ (fun m x hm => by split; exact poison_wf _ _ hm; exact hm) w | exact write_wf _ _ w | exact mark_wf _ _ _ (write_wf _ _ w)) | intro s hs | split | (with_reducible apply KeepsSnd.eq; with_reducible assumption) | (with_reducible apply KeepsFst.eq; with_reducible assumption))
theorem keeps_bodyDeltaApply' {a : State} (v0 : Sub) (v1 : Ext) (v2 : State) (h0 : Keeps a v2) : Keeps a (bodyDeltaApply v0 v1 v2).s := keeps_bodyDeltaApply v0 v1 v2 h0

theorem keeps_emitRelease {a : State} (v0 : State) (v1 : Sub) (h0 : Keeps a v0) : Keeps a (State.emitRelease v0 v1) := by
  unfold State.emitRelease
  try dsimp only
  repeat' (first | with_reducible assumption | with_reducible exact Keeps.refl _ | with_reducible apply Keeps.ite | with_reducible apply KeepsRes.ite | with_reducible apply KeepsFst.ite | with_reducible apply KeepsSnd.ite | with_reducible apply keeps_onKey | (simp only [Keeps.lit]; with_reducible apply KeepsData.of) | (simp only [Keeps.lit]; with_reducible refine KeepsData.poke ?_ (fun w => ?_); rotate_left; first | exact mark_wf _ _ _ w | exact fold_wf _ _ (fun m x hm => poison_wf _ _ hm) w | exact fold_wf _ _ (fun m x hm => by split; exact poison_wf _ _ hm; exact hm) w | exact write_wf _ _ w | exact mark_wf _ _ _ (write_wf _ _ w)) | intro s hs | split)

theorem keeps_emitBlk {a : State} (v0 : State) (v1 : ℕ) (v2 : ℕ) (v3 : SiteBlk) (v4 : BitVec 32) (v5 : List (ℕ × Bool)) (v6 : Bool) (v7 : ℕ) (v8 : ℕ × ℕ × ℕ) (h0 : Keeps a v0) : KeepsFst a (State.emitBlk v0 v1 v2 v3 v4 v5 v6 v7 v8) := by
  unfold State.emitBlk
  try dsimp only
  repeat' (first | with_reducible assumption | with_reducible exact Keeps.refl _ | with_reducible apply Keeps.ite | with_reducible apply KeepsRes.ite | with_reducible apply KeepsFst.ite | with_reducible apply KeepsSnd.ite | with_reducible apply KeepsFst.mk | with_reducible apply KeepsSnd.mk | with_reducible apply KeepsRes.mk | with_reducible apply Keeps.id | with_reducible apply keeps_onRec | with_reducible apply keeps_takeInvocation | with_reducible apply keeps_takeInvocation' | (with_reducible refine keeps_takeInvocation_e (by with_reducible assumption) ?_) | with_reducible apply keeps_areaWrite | with_reducible apply keeps_sdxSend | (with_reducible refine Keeps.foldl _ ?_ ?_; intro s x hs; try dsimp only) | (with_reducible refine Keeps.foldl1 _ ?_ ?_; (intro p x hs; replace hs := KeepsFst.fst hs; try dsimp only)) | (with_reducible refine Keeps.foldl2 _ ?_ ?_; (intro p x hs; replace hs := KeepsSnd.snd hs; try dsimp only)) | (with_reducible refine KeepsFst.foldl _ ?_ ?_; (intro p x hs; replace hs := KeepsFst.fst hs; try dsimp only)) | (with_reducible refine KeepsSnd.foldl _ ?_ ?_; (intro p x hs; replace hs := KeepsSnd.snd hs; try dsimp only)) | (simp only [Keeps.lit]; with_reducible apply KeepsData.of) | (simp only [Keeps.lit]; with_reducible refine KeepsData.poke ?_ (fun w => ?_); rotate_left; first | exact mark_wf _ _ _ w | exact fold_wf _ _ (fun m x hm => poison_wf _ _ hm) w | exact fold_wf _ _ (fun m x hm => by split; exact poison_wf _ _ hm; exact hm) w | exact write_wf _ _ w | exact mark_wf _ _ _ (write_wf _ _ w)) | intro s hs | split | (with_reducible apply KeepsSnd.eq; with_reducible assumption) | (with_reducible apply KeepsFst.eq; with_reducible assumption))
theorem keeps_emitBlk' {a : State} (v0 : State) (v1 : ℕ) (v2 : ℕ) (v3 : SiteBlk) (v4 : BitVec 32) (v5 : List (ℕ × Bool)) (v6 : Bool) (v7 : ℕ) (v8 : ℕ × ℕ × ℕ) (h0 : Keeps a v0) : Keeps a (State.emitBlk v0 v1 v2 v3 v4 v5 v6 v7 v8).1 := keeps_emitBlk v0 v1 v2 v3 v4 v5 v6 v7 v8 h0
theorem keeps_emitBlk_e {a t : State} {v0 : State} {v1 : ℕ} {v2 : ℕ} {v3 : SiteBlk} {v4 : BitVec 32} {v5 : List (ℕ × Bool)} {v6 : Bool} {v7 : ℕ} {v8 : ℕ × ℕ × ℕ} {b : _} (e : State.emitBlk v0 v1 v2 v3 v4 v5 v6 v7 v8 = (t, b)) (h0 : Keeps a v0) : Keeps a t := KeepsFst.eq e (keeps_emitBlk v0 v1 v2 v3 v4 v5 v6 v7 v8 h0)

theorem keeps_emitLoop {a : State} (v0 : State) (v1 : Sub) (v2 : BitVec 32) (v3 : ℕ) (v4 : Option ℕ) (v5 : List (ℕ × SiteBlk)) (v6 : ℕ) (v7 : ℕ × ℕ × ℕ) (v8 : ℕ) (h0 : Keeps a v0) : KeepsRes a (State.emitLoop v0 v1 v2 v3 v4 v5 v6 v7 v8) := by
  induction v5 generalizing v0 v6 v7 v8 with
  | nil => unfold State.emitLoop; (try dsimp only); repeat' (first | with_reducible assumption | with_reducible exact Keeps.refl _ | with_reducible apply Keeps.ite | with_reducible apply KeepsRes.ite | with_reducible apply KeepsFst.ite | with_reducible apply KeepsSnd.ite | with_reducible apply KeepsRes.mk | with_reducible apply keeps_onSite | with_reducible apply keeps_onKey | with_reducible apply keeps_ended | with_reducible apply keeps_ended' | with_reducible apply keeps_undefBuf | with_reducible apply keeps_goesOn | with_reducible apply keeps_goesOn' | with_reducible apply keeps_noteProg | with_reducible apply keeps_reread | with_reducible apply keeps_emitRelease | with_reducible apply keeps_emitBlk | with_reducible apply keeps_emitBlk' | (with_reducible refine keeps_emitBlk_e (by with_reducible assumption) ?_) | with_reducible apply ih | (with_reducible apply KeepsRes.fst; with_reducible apply ih) | (with_reducible apply KeepsFst.fst; with_reducible apply ih) | (simp only [Keeps.lit]; with_reducible apply KeepsData.of) | (simp only [Keeps.lit]; with_reducible refine KeepsData.poke ?_ (fun w => ?_); rotate_left; first | exact mark_wf _ _ _ w | exact fold_wf _ _ (fun m x hm => poison_wf _ _ hm) w | exact fold_wf _ _ (fun m x hm => by split; exact poison_wf _ _ hm; exact hm) w | exact write_wf _ _ w | exact mark_wf _ _ _ (write_wf _ _ w)) | intro s hs | split)
  | cons x r ih => unfold State.emitLoop; (try dsimp only); repeat' (first | with_reducible assumption | with_reducible exact Keeps.refl _ | with_reducible apply Keeps.ite | with_reducible apply KeepsRes.ite | with_reducible apply KeepsFst.ite | with_reducible apply KeepsSnd.ite | with_reducible apply KeepsRes.mk | with_reducible apply keeps_onSite | with_reducible apply keeps_onKey | with_reducible apply keeps_ended | with_reducible apply keeps_ended' | with_reducible apply keeps_undefBuf | with_reducible apply keeps_goesOn | with_reducible apply keeps_goesOn' | with_reducible apply keeps_noteProg | with_reducible apply keeps_reread | with_reducible apply keeps_emitRelease | with_reducible apply keeps_emitBlk | with_reducible apply keeps_emitBlk' | (with_reducible refine keeps_emitBlk_e (by with_reducible assumption) ?_) | with_reducible apply ih | (with_reducible apply KeepsRes.fst; with_reducible apply ih) | (with_reducible apply KeepsFst.fst; with_reducible apply ih) | (simp only [Keeps.lit]; with_reducible apply KeepsData.of) | (simp only [Keeps.lit]; with_reducible refine KeepsData.poke ?_ (fun w => ?_); rotate_left; first | exact mark_wf _ _ _ w | exact fold_wf _ _ (fun m x hm => poison_wf _ _ hm) w | exact fold_wf _ _ (fun m x hm => by split; exact poison_wf _ _ hm; exact hm) w | exact write_wf _ _ w | exact mark_wf _ _ _ (write_wf _ _ w)) | intro s hs | split)
theorem keeps_emitLoop' {a : State} (v0 : State) (v1 : Sub) (v2 : BitVec 32) (v3 : ℕ) (v4 : Option ℕ) (v5 : List (ℕ × SiteBlk)) (v6 : ℕ) (v7 : ℕ × ℕ × ℕ) (v8 : ℕ) (h0 : Keeps a v0) : Keeps a (State.emitLoop v0 v1 v2 v3 v4 v5 v6 v7 v8).s := keeps_emitLoop v0 v1 v2 v3 v4 v5 v6 v7 v8 h0

theorem keeps_bodyDeltaEmit {a : State} (v0 : Sub) (v1 : Ext) (v2 : State) (h0 : Keeps a v2) : KeepsRes a (bodyDeltaEmit v0 v1 v2) := by
  unfold bodyDeltaEmit
  try dsimp only
  repeat' (first | with_reducible assumption | with_reducible exact Keeps.refl _ | with_reducible apply Keeps.ite | with_reducible apply KeepsRes.ite | with_reducible apply KeepsFst.ite | with_reducible apply KeepsSnd.ite | with_reducible apply KeepsFst.mk | with_reducible apply KeepsSnd.mk | with_reducible apply KeepsRes.mk | with_reducible apply Keeps.id | with_reducible apply keeps_onRec | with_reducible apply keeps_freeNat | with_reducible apply keeps_freeNat' | (with_reducible refine keeps_freeNat_e (by with_reducible assumption) ?_) | with_reducible apply keeps_noteProg | with_reducible apply keeps_onSite | with_reducible apply keeps_emitLoop | with_reducible apply keeps_emitLoop' | with_reducible apply keeps_onKey | with_reducible apply keeps_badParam | with_reducible apply keeps_badParam' | with_reducible apply keeps_fail | with_reducible apply keeps_fail' | (with_reducible refine Keeps.foldl _ ?_ ?_; intro s x hs; try dsimp only) | (with_reducible refine Keeps.foldl1 _ ?_ ?_; (intro p x hs; replace hs := KeepsFst.fst hs; try dsimp only)) | (with_reducible refine Keeps.foldl2 _ ?_ ?_; (intro p x hs; replace hs := KeepsSnd.snd hs; try dsimp only)) | (with_reducible refine KeepsFst.foldl _ ?_ ?_; (intro p x hs; replace hs := KeepsFst.fst hs; try dsimp only)) | (with_reducible refine KeepsSnd.foldl _ ?_ ?_; (intro p x hs; replace hs := KeepsSnd.snd hs; try dsimp only)) | (simp only [Keeps.lit]; with_reducible apply KeepsData.of) | (simp only [Keeps.lit]; with_reducible refine KeepsData.poke ?_ (fun w => ?_); rotate_left; first | exact mark_wf _ _ _ w | exact fold_wf _ _ (fun m x hm => poison_wf _ _ hm) w | exact fold_wf _ _ (fun m x hm => by split; exact poison_wf _ _ hm; exact hm) w | exact write_wf _ _ w | exact mark_wf _ _ _ (write_wf _ _ w)) | intro s hs | split | (with_reducible apply KeepsSnd.eq; with_reducible assumption) | (with_reducible apply KeepsFst.eq; with_reducible assumption))
theorem keeps_bodyDeltaEmit' {a : State} (v0 : Sub) (v1 : Ext) (v2 : State) (h0 : Keeps a v2) : Keeps a (bodyDeltaEmit v0 v1 v2).s := keeps_bodyDeltaEmit v0 v1 v2 h0

theorem keeps_bodyPeerConfig {a : State} (v0 : Sub) (v1 : State) (h0 : Keeps a v1) : KeepsRes a (bodyPeerConfig v0 v1) := by
  unfold bodyPeerConfig
  try dsimp only
  repeat' (first | with_reducible assumption | with_reducible exact Keeps.refl _ | with_reducible apply Keeps.ite | with_reducible apply KeepsRes.ite | with_reducible apply KeepsFst.ite | with_reducible apply KeepsSnd.ite | with_reducible apply KeepsRes.mk | with_reducible apply keeps_done | with_reducible apply keeps_done' | with_reducible apply keeps_onPeer | with_reducible apply keeps_poke | with_reducible apply keeps_onSite | with_reducible apply keeps_missSite | with_reducible apply keeps_badParam | with_reducible apply keeps_badParam' | with_reducible apply keeps_fail | with_reducible apply keeps_fail' | with_reducible apply keeps_reread | (simp only [Keeps.lit]; with_reducible apply KeepsData.of) | (simp only [Keeps.lit]; with_reducible refine KeepsData.poke ?_ (fun w => ?_); rotate_left; first | exact mark_wf _ _ _ w | exact fold_wf _ _ (fun m x hm => poison_wf _ _ hm) w | exact fold_wf _ _ (fun m x hm => by split; exact poison_wf _ _ hm; exact hm) w | exact write_wf _ _ w | exact mark_wf _ _ _ (write_wf _ _ w)) | intro s hs | split)
theorem keeps_bodyPeerConfig' {a : State} (v0 : Sub) (v1 : State) (h0 : Keeps a v1) : Keeps a (bodyPeerConfig v0 v1).s := keeps_bodyPeerConfig v0 v1 h0

theorem keeps_bodyReplicaDigest {a : State} (v0 : Sub) (v1 : Ext) (v2 : State) (h0 : Keeps a v2) : KeepsRes a (bodyReplicaDigest v0 v1 v2) := by
  unfold bodyReplicaDigest
  try dsimp only
  repeat' (first | with_reducible assumption | with_reducible exact Keeps.refl _ | with_reducible apply Keeps.ite | with_reducible apply KeepsRes.ite | with_reducible apply KeepsFst.ite | with_reducible apply KeepsSnd.ite | with_reducible apply KeepsFst.mk | with_reducible apply KeepsSnd.mk | with_reducible apply KeepsRes.mk | with_reducible apply keeps_poke | with_reducible apply keeps_ended | with_reducible apply keeps_ended' | with_reducible apply keeps_undefBuf | (simp only [Keeps.lit]; with_reducible apply KeepsData.of) | (simp only [Keeps.lit]; with_reducible refine KeepsData.poke ?_ (fun w => ?_); rotate_left; first | exact mark_wf _ _ _ w | exact fold_wf _ _ (fun m x hm => poison_wf _ _ hm) w | exact fold_wf _ _ (fun m x hm => by split; exact poison_wf _ _ hm; exact hm) w | exact write_wf _ _ w | exact mark_wf _ _ _ (write_wf _ _ w)) | intro s hs | split)
theorem keeps_bodyReplicaDigest' {a : State} (v0 : Sub) (v1 : Ext) (v2 : State) (h0 : Keeps a v2) : Keeps a (bodyReplicaDigest v0 v1 v2).s := keeps_bodyReplicaDigest v0 v1 v2 h0

theorem keeps_sdxPoll {a : State} (v0 : State) (v1 : ℕ) (v2 : ℕ) (v3 : Ext) (h0 : Keeps a v0) : Keeps a (State.sdxPoll v0 v1 v2 v3) := by
  unfold State.sdxPoll
  try dsimp only
  repeat' (first | with_reducible assumption | with_reducible exact Keeps.refl _ | with_reducible apply Keeps.ite | with_reducible apply KeepsRes.ite | with_reducible apply KeepsFst.ite | with_reducible apply KeepsSnd.ite | with_reducible apply keeps_violSdx | with_reducible apply keeps_sdxConsume | with_reducible apply keeps_serve | with_reducible apply keeps_onPeer | with_reducible apply keeps_siteSettle | (simp only [Keeps.lit]; with_reducible apply KeepsData.of) | (simp only [Keeps.lit]; with_reducible refine KeepsData.poke ?_ (fun w => ?_); rotate_left; first | exact mark_wf _ _ _ w | exact fold_wf _ _ (fun m x hm => poison_wf _ _ hm) w | exact fold_wf _ _ (fun m x hm => by split; exact poison_wf _ _ hm; exact hm) w | exact write_wf _ _ w | exact mark_wf _ _ _ (write_wf _ _ w)) | intro s hs | split)

theorem keeps_sdxReceive {a : State} (v0 : State) (v1 : ℕ) (v2 : ℕ) (v3 : Ext) (h0 : Keeps a v0) : Keeps a (State.sdxReceive v0 v1 v2 v3) := by
  unfold State.sdxReceive
  try dsimp only
  repeat' (first | with_reducible assumption | with_reducible exact Keeps.refl _ | with_reducible apply Keeps.ite | with_reducible apply KeepsRes.ite | with_reducible apply KeepsFst.ite | with_reducible apply KeepsSnd.ite | with_reducible apply KeepsFst.mk | with_reducible apply KeepsSnd.mk | with_reducible apply KeepsRes.mk | with_reducible apply keeps_violSdx | with_reducible apply keeps_sdxConsume | with_reducible apply keeps_onPeer | with_reducible apply keeps_sdxHandle | with_reducible apply keeps_sdxHandle' | (with_reducible refine keeps_sdxHandle_e (by with_reducible assumption) ?_) | with_reducible apply keeps_onSite | with_reducible apply keeps_siteSettle | (simp only [Keeps.lit]; with_reducible apply KeepsData.of) | (simp only [Keeps.lit]; with_reducible refine KeepsData.poke ?_ (fun w => ?_); rotate_left; first | exact mark_wf _ _ _ w | exact fold_wf _ _ (fun m x hm => poison_wf _ _ hm) w | exact fold_wf _ _ (fun m x hm => by split; exact poison_wf _ _ hm; exact hm) w | exact write_wf _ _ w | exact mark_wf _ _ _ (write_wf _ _ w)) | intro s hs | split)

theorem keeps_execSdxRingPoll {a : State} (v0 : ℕ) (v1 : ℕ) (v2 : Ext) (v3 : State) (h0 : Keeps a v3) : KeepsOut a (execSdxRingPoll v0 v1 v2 v3) := by
  unfold execSdxRingPoll
  try dsimp only
  repeat' (first | with_reducible assumption | with_reducible exact Keeps.refl _ | with_reducible apply KeepsOut.next | with_reducible apply keeps_sdxPoll | (simp only [Keeps.lit]; with_reducible apply KeepsData.of))

theorem keeps_execSdxKick {a : State} (v0 : Access) (v1 : ℕ) (v2 : BitVec 15) (v3 : State) (h0 : Keeps a v3) : KeepsOut a (execSdxKick v0 v1 v2 v3) := by
  unfold execSdxKick
  try dsimp only
  repeat' (first | with_reducible assumption | with_reducible exact Keeps.refl _ | with_reducible apply KeepsOut.next | with_reducible apply Keeps.ite | with_reducible apply KeepsRes.ite | with_reducible apply KeepsFst.ite | with_reducible apply KeepsSnd.ite | with_reducible apply KeepsFst.mk | with_reducible apply KeepsSnd.mk | with_reducible apply KeepsRes.mk | with_reducible apply Keeps.id | with_reducible apply keeps_sdxPoll | with_reducible apply keeps_pageWrite | (with_reducible refine Keeps.foldl _ ?_ ?_; intro s x hs; try dsimp only) | (with_reducible refine Keeps.foldl1 _ ?_ ?_; (intro p x hs; replace hs := KeepsFst.fst hs; try dsimp only)) | (with_reducible refine Keeps.foldl2 _ ?_ ?_; (intro p x hs; replace hs := KeepsSnd.snd hs; try dsimp only)) | (with_reducible refine KeepsFst.foldl _ ?_ ?_; (intro p x hs; replace hs := KeepsFst.fst hs; try dsimp only)) | (with_reducible refine KeepsSnd.foldl _ ?_ ?_; (intro p x hs; replace hs := KeepsSnd.snd hs; try dsimp only)) | (simp only [Keeps.lit]; with_reducible apply KeepsData.of) | (simp only [Keeps.lit]; with_reducible refine KeepsData.poke ?_ (fun w => ?_); rotate_left; first | exact mark_wf _ _ _ w | exact fold_wf _ _ (fun m x hm => poison_wf _ _ hm) w | exact fold_wf _ _ (fun m x hm => by split; exact poison_wf _ _ hm; exact hm) w | exact write_wf _ _ w | exact mark_wf _ _ _ (write_wf _ _ w)) | intro s hs | split | (with_reducible apply KeepsSnd.eq; with_reducible assumption) | (with_reducible apply KeepsFst.eq; with_reducible assumption))

theorem keeps_execSdxFrameReceive {a : State} (v0 : ℕ) (v1 : ℕ) (v2 : Ext) (v3 : State) (h0 : Keeps a v3) : KeepsOut a (execSdxFrameReceive v0 v1 v2 v3) := by
  unfold execSdxFrameReceive
  try dsimp only
  repeat' (first | with_reducible assumption | with_reducible exact Keeps.refl _ | with_reducible apply KeepsOut.next | with_reducible apply keeps_sdxReceive | (simp only [Keeps.lit]; with_reducible apply KeepsData.of))

theorem keeps_execSdxNack {a : State} (v0 : ℕ) (v1 : ℕ) (v2 : Ext) (v3 : State) (h0 : Keeps a v3) : KeepsOut a (execSdxNack v0 v1 v2 v3) := by
  unfold execSdxNack
  try dsimp only
  repeat' (first | with_reducible assumption | with_reducible exact Keeps.refl _ | with_reducible apply KeepsOut.next | with_reducible apply Keeps.ite | with_reducible apply KeepsRes.ite | with_reducible apply KeepsFst.ite | with_reducible apply KeepsSnd.ite | with_reducible apply keeps_sdxReceive | (simp only [Keeps.lit]; with_reducible apply KeepsData.of) | (simp only [Keeps.lit]; with_reducible refine KeepsData.poke ?_ (fun w => ?_); rotate_left; first | exact mark_wf _ _ _ w | exact fold_wf _ _ (fun m x hm => poison_wf _ _ hm) w | exact fold_wf _ _ (fun m x hm => by split; exact poison_wf _ _ hm; exact hm) w | exact write_wf _ _ w | exact mark_wf _ _ _ (write_wf _ _ w)) | intro s hs | split)

theorem keeps_execSdxCatchupReq {a : State} (v0 : ℕ) (v1 : ℕ) (v2 : Ext) (v3 : State) (h0 : Keeps a v3) : KeepsOut a (execSdxCatchupReq v0 v1 v2 v3) := by
  unfold execSdxCatchupReq
  try dsimp only
  repeat' (first | with_reducible assumption | with_reducible exact Keeps.refl _ | with_reducible apply KeepsOut.next | with_reducible apply Keeps.ite | with_reducible apply KeepsRes.ite | with_reducible apply KeepsFst.ite | with_reducible apply KeepsSnd.ite | with_reducible apply keeps_sdxReceive | (simp only [Keeps.lit]; with_reducible apply KeepsData.of) | (simp only [Keeps.lit]; with_reducible refine KeepsData.poke ?_ (fun w => ?_); rotate_left; first | exact mark_wf _ _ _ w | exact fold_wf _ _ (fun m x hm => poison_wf _ _ hm) w | exact fold_wf _ _ (fun m x hm => by split; exact poison_wf _ _ hm; exact hm) w | exact write_wf _ _ w | exact mark_wf _ _ _ (write_wf _ _ w)) | intro s hs | split)

theorem keeps_sendNacks {a : State} (v0 : State) (v1 : ℕ) (v2 : ℕ) (v3 : BitVec 32) (v4 : ℕ) (v5 : List (BitVec 32 × ℕ × ℕ)) (h0 : Keeps a v0) : Keeps a (State.sendNacks v0 v1 v2 v3 v4 v5) := by
  induction v4 generalizing v0 v5 with
  | zero => cases v5 <;> (unfold State.sendNacks; try dsimp only); repeat' (first | with_reducible assumption | with_reducible exact Keeps.refl _ | with_reducible apply keeps_sdxControl | with_reducible apply ih | (with_reducible apply KeepsRes.fst; with_reducible apply ih) | (with_reducible apply KeepsFst.fst; with_reducible apply ih) | (simp only [Keeps.lit]; with_reducible apply KeepsData.of))
  | succ k ih => cases v5 <;> (unfold State.sendNacks; try dsimp only); repeat' (first | with_reducible assumption | with_reducible exact Keeps.refl _ | with_reducible apply keeps_sdxControl | with_reducible apply ih | (with_reducible apply KeepsRes.fst; with_reducible apply ih) | (with_reducible apply KeepsFst.fst; with_reducible apply ih) | (simp only [Keeps.lit]; with_reducible apply KeepsData.of))

theorem keeps_execNackLeadTimer {a : State} (v0 : ℕ) (v1 : Ext) (v2 : State) (h0 : Keeps a v2) : KeepsOut a (execNackLeadTimer v0 v1 v2) := by
  unfold execNackLeadTimer
  try dsimp only
  repeat' (first | with_reducible assumption | with_reducible exact Keeps.refl _ | with_reducible apply KeepsOut.next | with_reducible apply Keeps.ite | with_reducible apply KeepsRes.ite | with_reducible apply KeepsFst.ite | with_reducible apply KeepsSnd.ite | with_reducible apply KeepsFst.mk | with_reducible apply KeepsSnd.mk | with_reducible apply KeepsRes.mk | with_reducible apply Keeps.id | with_reducible apply keeps_sendNacks | with_reducible apply keeps_onSite | (with_reducible refine Keeps.foldl _ ?_ ?_; intro s x hs; try dsimp only) | (with_reducible refine Keeps.foldl1 _ ?_ ?_; (intro p x hs; replace hs := KeepsFst.fst hs; try dsimp only)) | (with_reducible refine Keeps.foldl2 _ ?_ ?_; (intro p x hs; replace hs := KeepsSnd.snd hs; try dsimp only)) | (with_reducible refine KeepsFst.foldl _ ?_ ?_; (intro p x hs; replace hs := KeepsFst.fst hs; try dsimp only)) | (with_reducible refine KeepsSnd.foldl _ ?_ ?_; (intro p x hs; replace hs := KeepsSnd.snd hs; try dsimp only)) | (simp only [Keeps.lit]; with_reducible apply KeepsData.of) | (simp only [Keeps.lit]; with_reducible refine KeepsData.poke ?_ (fun w => ?_); rotate_left; first | exact mark_wf _ _ _ w | exact fold_wf _ _ (fun m x hm => poison_wf _ _ hm) w | exact fold_wf _ _ (fun m x hm => by split; exact poison_wf _ _ hm; exact hm) w | exact write_wf _ _ w | exact mark_wf _ _ _ (write_wf _ _ w)) | intro s hs | split | (with_reducible apply KeepsSnd.eq; with_reducible assumption) | (with_reducible apply KeepsFst.eq; with_reducible assumption))

theorem keeps_execDeltaDeadline {a : State} (v0 : ℕ) (v1 : Ext) (v2 : State) (h0 : Keeps a v2) : KeepsOut a (execDeltaDeadline v0 v1 v2) := by
  unfold execDeltaDeadline
  try dsimp only
  repeat' (first | with_reducible assumption | with_reducible exact Keeps.refl _ | with_reducible apply KeepsOut.next | with_reducible apply keeps_atDeadline | with_reducible apply keeps_freeNat | with_reducible apply keeps_freeNat' | (with_reducible refine keeps_freeNat_e (by with_reducible assumption) ?_) | (simp only [Keeps.lit]; with_reducible apply KeepsData.of))

theorem keeps_execAnchorSet {a : State} (v0 : Sub) (v1 : Ext) (v2 : State) (h0 : Keeps a v2) : KeepsOut a (execAnchorSet v0 v1 v2) := by
  unfold execAnchorSet
  try dsimp only
  repeat' (first | with_reducible assumption | with_reducible exact Keeps.refl _ | with_reducible apply KeepsOut.next | with_reducible apply keeps_runOp | with_reducible apply keeps_bodyAnchorSet | with_reducible apply keeps_bodyAnchorSet' | (simp only [Keeps.lit]; with_reducible apply KeepsData.of))

theorem keeps_execDeltaEmit {a : State} (v0 : Sub) (v1 : Ext) (v2 : State) (h0 : Keeps a v2) : KeepsOut a (execDeltaEmit v0 v1 v2) := by
  unfold execDeltaEmit
  try dsimp only
  repeat' (first | with_reducible assumption | with_reducible exact Keeps.refl _ | with_reducible apply KeepsOut.next | with_reducible apply Keeps.ite | with_reducible apply KeepsRes.ite | with_reducible apply KeepsFst.ite | with_reducible apply KeepsSnd.ite | with_reducible apply keeps_runOp | with_reducible apply keeps_siteSettle | with_reducible apply keeps_phased | with_reducible apply keeps_phased' | with_reducible apply keeps_bodyDeltaEmit | with_reducible apply keeps_bodyDeltaEmit' | (simp only [Keeps.lit]; with_reducible apply KeepsData.of) | (simp only [Keeps.lit]; with_reducible refine KeepsData.poke ?_ (fun w => ?_); rotate_left; first | exact mark_wf _ _ _ w | exact fold_wf _ _ (fun m x hm => poison_wf _ _ hm) w | exact fold_wf _ _ (fun m x hm => by split; exact poison_wf _ _ hm; exact hm) w | exact write_wf _ _ w | exact mark_wf _ _ _ (write_wf _ _ w)) | intro s hs | split)

theorem keeps_execDeltaApply {a : State} (v0 : Sub) (v1 : Ext) (v2 : State) (h0 : Keeps a v2) : KeepsOut a (execDeltaApply v0 v1 v2) := by
  unfold execDeltaApply
  try dsimp only
  repeat' (first | with_reducible assumption | with_reducible exact Keeps.refl _ | with_reducible apply KeepsOut.next | with_reducible apply keeps_runOp | with_reducible apply keeps_bodyDeltaApply | with_reducible apply keeps_bodyDeltaApply' | (simp only [Keeps.lit]; with_reducible apply KeepsData.of))

theorem keeps_execPeerEnable {a : State} (v0 : Sub) (v1 : Ext) (v2 : State) (h0 : Keeps a v2) : KeepsOut a (execPeerEnable v0 v1 v2) := by
  unfold execPeerEnable
  try dsimp only
  repeat' (first | with_reducible assumption | with_reducible exact Keeps.refl _ | with_reducible apply KeepsOut.next | with_reducible apply keeps_bodyPeerConfig | with_reducible apply keeps_bodyPeerConfig' | with_reducible apply keeps_runOp | (simp only [Keeps.lit]; with_reducible apply KeepsData.of))

theorem keeps_execPeerDisable {a : State} (v0 : Sub) (v1 : Ext) (v2 : State) (h0 : Keeps a v2) : KeepsOut a (execPeerDisable v0 v1 v2) := by
  unfold execPeerDisable
  try dsimp only
  repeat' (first | with_reducible assumption | with_reducible exact Keeps.refl _ | with_reducible apply KeepsOut.next | with_reducible apply keeps_bodyPeerConfig | with_reducible apply keeps_bodyPeerConfig' | with_reducible apply keeps_runOp | (simp only [Keeps.lit]; with_reducible apply KeepsData.of))

theorem keeps_execReplicaDigest {a : State} (v0 : Sub) (v1 : Ext) (v2 : State) (h0 : Keeps a v2) : KeepsOut a (execReplicaDigest v0 v1 v2) := by
  unfold execReplicaDigest
  try dsimp only
  repeat' (first | with_reducible assumption | with_reducible exact Keeps.refl _ | with_reducible apply KeepsOut.next | with_reducible apply keeps_runOp | with_reducible apply keeps_bodyReplicaDigest | with_reducible apply keeps_bodyReplicaDigest' | (simp only [Keeps.lit]; with_reducible apply KeepsData.of))

end Sys2Proof.Laws
end

