-- ==== Sys2Proof/Laws/KeepsDigest.lean ====
section
/-! SUPPORT. Every function of Machine/Digest.lean that answers a state keeps what no command may change. -/

namespace Sys2Proof.Laws
open Sys2Proof Sys2Proof.Machine
set_option linter.unreachableTactic false
set_option linter.unusedTactic false
set_option linter.unusedVariables false
set_option linter.unusedSimpArgs false
set_option maxRecDepth 4000

theorem keeps_digestTo {a : State} (v0 : State) (v1 : Sub) (v2 : Ext) (v3 : List Byte → List Byte) (h0 : Keeps a v0) : KeepsRes a (State.digestTo v0 v1 v2 v3) := by
  unfold State.digestTo
  try dsimp only
  repeat' (first | with_reducible assumption | with_reducible exact Keeps.refl _ | with_reducible apply Keeps.ite | with_reducible apply KeepsRes.ite | with_reducible apply KeepsFst.ite | with_reducible apply KeepsSnd.ite | with_reducible apply KeepsRes.mk | with_reducible apply keeps_wantDom | with_reducible apply keeps_wait | with_reducible apply keeps_wait' | with_reducible apply keeps_poke | with_reducible apply keeps_onCmd | with_reducible apply keeps_running | with_reducible apply keeps_running' | with_reducible apply keeps_ended | with_reducible apply keeps_ended' | with_reducible apply keeps_fail | with_reducible apply keeps_fail' | with_reducible apply keeps_undefBuf | (simp only [Keeps.lit]; with_reducible apply KeepsData.of) | (simp only [Keeps.lit]; with_reducible refine KeepsData.poke ?_ (fun w => ?_); rotate_left; first | exact mark_wf _ _ _ w | exact fold_wf _ _ (fun m x hm => poison_wf _ _ hm) w | exact fold_wf _ _ (fun m x hm => by split; exact poison_wf _ _ hm; exact hm) w | exact write_wf _ _ w | exact mark_wf _ _ _ (write_wf _ _ w)) | intro s hs | split)
theorem keeps_digestTo' {a : State} (v0 : State) (v1 : Sub) (v2 : Ext) (v3 : List Byte → List Byte) (h0 : Keeps a v0) : Keeps a (State.digestTo v0 v1 v2 v3).s := keeps_digestTo v0 v1 v2 v3 h0

theorem keeps_bodyDigest {a : State} (v0 : Sub) (v1 : Ext) (v2 : State) (h0 : Keeps a v2) : KeepsRes a (bodyDigest v0 v1 v2) := by
  unfold bodyDigest
  try dsimp only
  repeat' (first | with_reducible assumption | with_reducible exact Keeps.refl _ | with_reducible apply KeepsRes.mk | with_reducible apply keeps_digestTo | with_reducible apply keeps_digestTo' | (simp only [Keeps.lit]; with_reducible apply KeepsData.of))
theorem keeps_bodyDigest' {a : State} (v0 : Sub) (v1 : Ext) (v2 : State) (h0 : Keeps a v2) : Keeps a (bodyDigest v0 v1 v2).s := keeps_bodyDigest v0 v1 v2 h0

theorem keeps_bodyHmac {a : State} (v0 : Sub) (v1 : Ext) (v2 : State) (h0 : Keeps a v2) : KeepsRes a (bodyHmac v0 v1 v2) := by
  unfold bodyHmac
  try dsimp only
  repeat' (first | with_reducible assumption | with_reducible exact Keeps.refl _ | with_reducible apply Keeps.ite | with_reducible apply KeepsRes.ite | with_reducible apply KeepsFst.ite | with_reducible apply KeepsSnd.ite | with_reducible apply KeepsRes.mk | with_reducible apply keeps_digestTo | with_reducible apply keeps_digestTo' | with_reducible apply keeps_badParam | with_reducible apply keeps_badParam' | with_reducible apply keeps_fail | with_reducible apply keeps_fail' | (simp only [Keeps.lit]; with_reducible apply KeepsData.of) | (simp only [Keeps.lit]; with_reducible refine KeepsData.poke ?_ (fun w => ?_); rotate_left; first | exact mark_wf _ _ _ w | exact fold_wf _ _ (fun m x hm => poison_wf _ _ hm) w | exact fold_wf _ _ (fun m x hm => by split; exact poison_wf _ _ hm; exact hm) w | exact write_wf _ _ w | exact mark_wf _ _ _ (write_wf _ _ w)) | intro s hs | split)
theorem keeps_bodyHmac' {a : State} (v0 : Sub) (v1 : Ext) (v2 : State) (h0 : Keeps a v2) : Keeps a (bodyHmac v0 v1 v2).s := keeps_bodyHmac v0 v1 v2 h0

theorem keeps_bodyExtend {a : State} (v0 : Sub) (v1 : Ext) (v2 : State) (h0 : Keeps a v2) : KeepsRes a (bodyExtend v0 v1 v2) := by
  unfold bodyExtend
  try dsimp only
  repeat' (first | with_reducible assumption | with_reducible exact Keeps.refl _ | with_reducible apply Keeps.ite | with_reducible apply KeepsRes.ite | with_reducible apply KeepsFst.ite | with_reducible apply KeepsSnd.ite | with_reducible apply KeepsRes.mk | with_reducible apply keeps_done | with_reducible apply keeps_done' | with_reducible apply keeps_wantDom | with_reducible apply keeps_wait | with_reducible apply keeps_wait' | with_reducible apply keeps_extendSg | with_reducible apply keeps_fail | with_reducible apply keeps_fail' | (simp only [Keeps.lit]; with_reducible apply KeepsData.of) | (simp only [Keeps.lit]; with_reducible refine KeepsData.poke ?_ (fun w => ?_); rotate_left; first | exact mark_wf _ _ _ w | exact fold_wf _ _ (fun m x hm => poison_wf _ _ hm) w | exact fold_wf _ _ (fun m x hm => by split; exact poison_wf _ _ hm; exact hm) w | exact write_wf _ _ w | exact mark_wf _ _ _ (write_wf _ _ w)) | intro s hs | split)
theorem keeps_bodyExtend' {a : State} (v0 : Sub) (v1 : Ext) (v2 : State) (h0 : Keeps a v2) : Keeps a (bodyExtend v0 v1 v2).s := keeps_bodyExtend v0 v1 v2 h0

theorem keeps_execDigest {a : State} (v0 : Sub) (v1 : Ext) (v2 : State) (h0 : Keeps a v2) : KeepsOut a (execDigest v0 v1 v2) := by
  unfold execDigest
  try dsimp only
  repeat' (first | with_reducible assumption | with_reducible exact Keeps.refl _ | with_reducible apply KeepsOut.next | with_reducible apply keeps_bodyDigest | with_reducible apply keeps_bodyDigest' | with_reducible apply keeps_runOp | (simp only [Keeps.lit]; with_reducible apply KeepsData.of))

theorem keeps_execHmac {a : State} (v0 : Sub) (v1 : Ext) (v2 : State) (h0 : Keeps a v2) : KeepsOut a (execHmac v0 v1 v2) := by
  unfold execHmac
  try dsimp only
  repeat' (first | with_reducible assumption | with_reducible exact Keeps.refl _ | with_reducible apply KeepsOut.next | with_reducible apply keeps_bodyHmac | with_reducible apply keeps_bodyHmac' | with_reducible apply keeps_runOp | (simp only [Keeps.lit]; with_reducible apply KeepsData.of))

theorem keeps_execExtend {a : State} (v0 : Sub) (v1 : Ext) (v2 : State) (h0 : Keeps a v2) : KeepsOut a (execExtend v0 v1 v2) := by
  unfold execExtend
  try dsimp only
  repeat' (first | with_reducible assumption | with_reducible exact Keeps.refl _ | with_reducible apply KeepsOut.next | with_reducible apply keeps_runOp | with_reducible apply keeps_bodyExtend | with_reducible apply keeps_bodyExtend' | (simp only [Keeps.lit]; with_reducible apply KeepsData.of))

theorem keeps_onHslot {a : State} (v0 : State) (v1 : ℕ) (v2 : HSlot → HSlot) (h0 : Keeps a v0) : Keeps a (State.onHslot v0 v1 v2) := by
  unfold State.onHslot
  try dsimp only
  repeat' (first | with_reducible assumption | with_reducible exact Keeps.refl _ | (simp only [Keeps.lit]; with_reducible apply KeepsData.of))

theorem keeps_zeroHkey {a : State} (v0 : State) (v1 : ℕ) (h0 : Keeps a v0) : Keeps a (State.zeroHkey v0 v1) := by
  unfold State.zeroHkey
  try dsimp only
  repeat' (first | with_reducible assumption | with_reducible exact Keeps.refl _ | with_reducible apply KeepsFst.mk | with_reducible apply KeepsSnd.mk | with_reducible apply KeepsRes.mk | (simp only [Keeps.lit]; with_reducible apply KeepsData.of))

theorem keeps_loadHslot {a : State} (v0 : State) (v1 : ℕ) (v2 : BitVec 32) (h0 : Keeps a v0) : Keeps a (State.loadHslot v0 v1 v2) := by
  unfold State.loadHslot
  try dsimp only
  repeat' (first | with_reducible assumption | with_reducible exact Keeps.refl _ | with_reducible apply Keeps.ite | with_reducible apply KeepsRes.ite | with_reducible apply KeepsFst.ite | with_reducible apply KeepsSnd.ite | with_reducible apply keeps_zeroHkey | with_reducible apply keeps_onHslot | (simp only [Keeps.lit]; with_reducible apply KeepsData.of) | (simp only [Keeps.lit]; with_reducible refine KeepsData.poke ?_ (fun w => ?_); rotate_left; first | exact mark_wf _ _ _ w | exact fold_wf _ _ (fun m x hm => poison_wf _ _ hm) w | exact fold_wf _ _ (fun m x hm => by split; exact poison_wf _ _ hm; exact hm) w | exact write_wf _ _ w | exact mark_wf _ _ _ (write_wf _ _ w)) | intro s hs | split)

theorem keeps_clearHslot {a : State} (v0 : State) (v1 : ℕ) (h0 : Keeps a v0) : Keeps a (State.clearHslot v0 v1) := by
  unfold State.clearHslot
  try dsimp only
  repeat' (first | with_reducible assumption | with_reducible exact Keeps.refl _ | with_reducible apply Keeps.ite | with_reducible apply KeepsRes.ite | with_reducible apply KeepsFst.ite | with_reducible apply KeepsSnd.ite | with_reducible apply keeps_zeroHkey | with_reducible apply keeps_onHslot | (simp only [Keeps.lit]; with_reducible apply KeepsData.of) | (simp only [Keeps.lit]; with_reducible refine KeepsData.poke ?_ (fun w => ?_); rotate_left; first | exact mark_wf _ _ _ w | exact fold_wf _ _ (fun m x hm => poison_wf _ _ hm) w | exact fold_wf _ _ (fun m x hm => by split; exact poison_wf _ _ hm; exact hm) w | exact write_wf _ _ w | exact mark_wf _ _ _ (write_wf _ _ w)) | intro s hs | split)

theorem keeps_dgtWindow {a : State} (v0 : State) (v1 : Access) (v2 : ℕ) (v3 : ℕ) (v4 : State → State) (h0 : Keeps a v0) (h1 : ∀ s, Keeps a s → Keeps a (v4 s)) : Keeps a (State.dgtWindow v0 v1 v2 v3 v4) := by
  unfold State.dgtWindow
  try dsimp only
  repeat' (first | with_reducible assumption | with_reducible exact Keeps.refl _ | with_reducible apply Keeps.ite | with_reducible apply KeepsRes.ite | with_reducible apply KeepsFst.ite | with_reducible apply KeepsSnd.ite | with_reducible apply Keeps.id | with_reducible apply h1 | with_reducible apply keeps_wantDom | with_reducible apply keeps_fabWrite | (simp only [Keeps.lit]; with_reducible apply KeepsData.of) | (simp only [Keeps.lit]; with_reducible refine KeepsData.poke ?_ (fun w => ?_); rotate_left; first | exact mark_wf _ _ _ w | exact fold_wf _ _ (fun m x hm => poison_wf _ _ hm) w | exact fold_wf _ _ (fun m x hm => by split; exact poison_wf _ _ hm; exact hm) w | exact write_wf _ _ w | exact mark_wf _ _ _ (write_wf _ _ w)) | intro s hs | split | (with_reducible apply KeepsSnd.eq; with_reducible assumption) | (with_reducible apply KeepsFst.eq; with_reducible assumption))

theorem keeps_hslotCtl {a : State} (v0 : State) (v1 : ℕ) (v2 : BitVec 32) (h0 : Keeps a v0) : Keeps a (State.hslotCtl v0 v1 v2) := by
  unfold State.hslotCtl
  try dsimp only
  repeat' (first | with_reducible assumption | with_reducible exact Keeps.refl _ | with_reducible apply Keeps.ite | with_reducible apply KeepsRes.ite | with_reducible apply KeepsFst.ite | with_reducible apply KeepsSnd.ite | with_reducible apply keeps_ignoredWrite | with_reducible apply keeps_loadHslot | with_reducible apply keeps_clearHslot | (simp only [Keeps.lit]; with_reducible apply KeepsData.of) | (simp only [Keeps.lit]; with_reducible refine KeepsData.poke ?_ (fun w => ?_); rotate_left; first | exact mark_wf _ _ _ w | exact fold_wf _ _ (fun m x hm => poison_wf _ _ hm) w | exact fold_wf _ _ (fun m x hm => by split; exact poison_wf _ _ hm; exact hm) w | exact write_wf _ _ w | exact mark_wf _ _ _ (write_wf _ _ w)) | intro s hs | split)

theorem keeps_execHslotLoad {a : State} (v0 : Access) (v1 : ℕ) (v2 : BitVec 32) (v3 : State) (h0 : Keeps a v3) : KeepsOut a (execHslotLoad v0 v1 v2 v3) := by
  unfold execHslotLoad
  try dsimp only
  repeat' (first | with_reducible assumption | with_reducible exact Keeps.refl _ | with_reducible apply KeepsOut.next | with_reducible apply Keeps.ite | with_reducible apply KeepsRes.ite | with_reducible apply KeepsFst.ite | with_reducible apply KeepsSnd.ite | with_reducible apply keeps_hslotCtl | with_reducible apply keeps_dgtWindow | with_reducible apply keeps_fabWrite | with_reducible apply keeps_ignoredWrite | (simp only [Keeps.lit]; with_reducible apply KeepsData.of) | (simp only [Keeps.lit]; with_reducible refine KeepsData.poke ?_ (fun w => ?_); rotate_left; first | exact mark_wf _ _ _ w | exact fold_wf _ _ (fun m x hm => poison_wf _ _ hm) w | exact fold_wf _ _ (fun m x hm => by split; exact poison_wf _ _ hm; exact hm) w | exact write_wf _ _ w | exact mark_wf _ _ _ (write_wf _ _ w)) | intro s hs | split)

theorem keeps_execHslotClear {a : State} (v0 : Access) (v1 : ℕ) (v2 : State) (h0 : Keeps a v2) : KeepsOut a (execHslotClear v0 v1 v2) := by
  unfold execHslotClear
  try dsimp only
  repeat' (first | with_reducible assumption | with_reducible exact Keeps.refl _ | with_reducible apply KeepsOut.next | with_reducible apply Keeps.ite | with_reducible apply KeepsRes.ite | with_reducible apply KeepsFst.ite | with_reducible apply KeepsSnd.ite | with_reducible apply keeps_hslotCtl | with_reducible apply keeps_dgtWindow | with_reducible apply keeps_fabWrite | with_reducible apply keeps_ignoredWrite | (simp only [Keeps.lit]; with_reducible apply KeepsData.of) | (simp only [Keeps.lit]; with_reducible refine KeepsData.poke ?_ (fun w => ?_); rotate_left; first | exact mark_wf _ _ _ w | exact fold_wf _ _ (fun m x hm => poison_wf _ _ hm) w | exact fold_wf _ _ (fun m x hm => by split; exact poison_wf _ _ hm; exact hm) w | exact write_wf _ _ w | exact mark_wf _ _ _ (write_wf _ _ w)) | intro s hs | split)

theorem keeps_onCtx {a : State} (v0 : State) (v1 : ℕ) (v2 : DgtCtx → DgtCtx) (h0 : Keeps a v0) : Keeps a (State.onCtx v0 v1 v2) := by
  unfold State.onCtx
  try dsimp only
  repeat' (first | with_reducible assumption | with_reducible exact Keeps.refl _ | (simp only [Keeps.lit]; with_reducible apply KeepsData.of))

theorem keeps_ctxError {a : State} (v0 : State) (v1 : ℕ) (v2 : ℕ) (h0 : Keeps a v0) : Keeps a (State.ctxError v0 v1 v2) := by
  unfold State.ctxError
  try dsimp only
  repeat' (first | with_reducible assumption | with_reducible exact Keeps.refl _ | with_reducible apply keeps_logPartner | with_reducible apply keeps_onCtx | (simp only [Keeps.lit]; with_reducible apply KeepsData.of))

theorem keeps_ctxPut {a : State} (v0 : State) (v1 : ℕ) (v2 : ℕ) (v3 : BitVec 64) (h0 : Keeps a v0) : Keeps a (State.ctxPut v0 v1 v2 v3) := by
  unfold State.ctxPut
  try dsimp only
  repeat' (first | with_reducible assumption | with_reducible exact Keeps.refl _ | with_reducible apply Keeps.ite | with_reducible apply KeepsRes.ite | with_reducible apply KeepsFst.ite | with_reducible apply KeepsSnd.ite | with_reducible apply keeps_ctxError | with_reducible apply keeps_onCtx | with_reducible apply keeps_ignoredWrite | (simp only [Keeps.lit]; with_reducible apply KeepsData.of) | (simp only [Keeps.lit]; with_reducible refine KeepsData.poke ?_ (fun w => ?_); rotate_left; first | exact mark_wf _ _ _ w | exact fold_wf _ _ (fun m x hm => poison_wf _ _ hm) w | exact fold_wf _ _ (fun m x hm => by split; exact poison_wf _ _ hm; exact hm) w | exact write_wf _ _ w | exact mark_wf _ _ _ (write_wf _ _ w)) | intro s hs | split)

theorem keeps_ctxWrite {a : State} (v0 : State) (v1 : ℕ) (v2 : ℕ) (v3 : BitVec 64) (h0 : Keeps a v0) : Keeps a (State.ctxWrite v0 v1 v2 v3) := by
  unfold State.ctxWrite
  try dsimp only
  repeat' (first | with_reducible assumption | with_reducible exact Keeps.refl _ | with_reducible apply Keeps.ite | with_reducible apply KeepsRes.ite | with_reducible apply KeepsFst.ite | with_reducible apply KeepsSnd.ite | with_reducible apply keeps_ctxPut | with_reducible apply keeps_onCtx | (simp only [Keeps.lit]; with_reducible apply KeepsData.of) | (simp only [Keeps.lit]; with_reducible refine KeepsData.poke ?_ (fun w => ?_); rotate_left; first | exact mark_wf _ _ _ w | exact fold_wf _ _ (fun m x hm => poison_wf _ _ hm) w | exact fold_wf _ _ (fun m x hm => by split; exact poison_wf _ _ hm; exact hm) w | exact write_wf _ _ w | exact mark_wf _ _ _ (write_wf _ _ w)) | intro s hs | split)

theorem keeps_message {a : State} (v0 : State) (v1 : Access) (v2 : ℕ) (v3 : ℕ) (v4 : ℕ) (v5 : BitVec 64) (v6 : Bool) (h0 : Keeps a v0) : Keeps a (State.message v0 v1 v2 v3 v4 v5 v6) := by
  unfold State.message
  try dsimp only
  repeat' (first | with_reducible assumption | with_reducible exact Keeps.refl _ | with_reducible apply Keeps.ite | with_reducible apply KeepsRes.ite | with_reducible apply KeepsFst.ite | with_reducible apply KeepsSnd.ite | with_reducible apply keeps_dgtWindow | with_reducible apply keeps_fabWrite | with_reducible apply keeps_ignoredWrite | with_reducible apply keeps_ctxWrite | (simp only [Keeps.lit]; with_reducible apply KeepsData.of) | (simp only [Keeps.lit]; with_reducible refine KeepsData.poke ?_ (fun w => ?_); rotate_left; first | exact mark_wf _ _ _ w | exact fold_wf _ _ (fun m x hm => poison_wf _ _ hm) w | exact fold_wf _ _ (fun m x hm => by split; exact poison_wf _ _ hm; exact hm) w | exact write_wf _ _ w | exact mark_wf _ _ _ (write_wf _ _ w)) | intro s hs | split)

theorem keeps_execDgtData {a : State} (v0 : Access) (v1 : ℕ) (v2 : BitVec 64) (v3 : Bool) (v4 : State) (h0 : Keeps a v4) : KeepsOut a (execDgtData v0 v1 v2 v3 v4) := by
  unfold execDgtData
  try dsimp only
  repeat' (first | with_reducible assumption | with_reducible exact Keeps.refl _ | with_reducible apply KeepsOut.next | with_reducible apply keeps_message | (simp only [Keeps.lit]; with_reducible apply KeepsData.of))

theorem keeps_execDgtLast {a : State} (v0 : Access) (v1 : ℕ) (v2 : ℕ) (v3 : BitVec 64) (v4 : Bool) (v5 : State) (h0 : Keeps a v5) : KeepsOut a (execDgtLast v0 v1 v2 v3 v4 v5) := by
  unfold execDgtLast
  try dsimp only
  repeat' (first | with_reducible assumption | with_reducible exact Keeps.refl _ | with_reducible apply KeepsOut.next | with_reducible apply Keeps.ite | with_reducible apply KeepsRes.ite | with_reducible apply KeepsFst.ite | with_reducible apply KeepsSnd.ite | with_reducible apply keeps_message | (simp only [Keeps.lit]; with_reducible apply KeepsData.of) | (simp only [Keeps.lit]; with_reducible refine KeepsData.poke ?_ (fun w => ?_); rotate_left; first | exact mark_wf _ _ _ w | exact fold_wf _ _ (fun m x hm => poison_wf _ _ hm) w | exact fold_wf _ _ (fun m x hm => by split; exact poison_wf _ _ hm; exact hm) w | exact write_wf _ _ w | exact mark_wf _ _ _ (write_wf _ _ w)) | intro s hs | split)

theorem keeps_execDgtFinish {a : State} (v0 : Access) (v1 : ℕ) (v2 : Bool) (v3 : State) (h0 : Keeps a v3) : KeepsOut a (execDgtFinish v0 v1 v2 v3) := by
  unfold execDgtFinish
  try dsimp only
  repeat' (first | with_reducible assumption | with_reducible exact Keeps.refl _ | with_reducible apply KeepsOut.next | with_reducible apply keeps_message | (simp only [Keeps.lit]; with_reducible apply KeepsData.of))

theorem keeps_drainCtx {a : State} (v0 : State) (v1 : ℕ) (v2 : List (ℕ × BitVec 64)) (h0 : Keeps a v0) : Keeps a (State.drainCtx v0 v1 v2) := by
  induction v2 generalizing v0 with
  | nil => unfold State.drainCtx; (try dsimp only); repeat' (first | with_reducible assumption | with_reducible exact Keeps.refl _ | with_reducible apply Keeps.ite | with_reducible apply KeepsRes.ite | with_reducible apply KeepsFst.ite | with_reducible apply KeepsSnd.ite | with_reducible apply keeps_onCtx | with_reducible apply keeps_ctxPut | with_reducible apply ih | (with_reducible apply KeepsRes.fst; with_reducible apply ih) | (with_reducible apply KeepsFst.fst; with_reducible apply ih) | (simp only [Keeps.lit]; with_reducible apply KeepsData.of) | (simp only [Keeps.lit]; with_reducible refine KeepsData.poke ?_ (fun w => ?_); rotate_left; first | exact mark_wf _ _ _ w | exact fold_wf _ _ (fun m x hm => poison_wf _ _ hm) w | exact fold_wf _ _ (fun m x hm => by split; exact poison_wf _ _ hm; exact hm) w | exact write_wf _ _ w | exact mark_wf _ _ _ (write_wf _ _ w)) | intro s hs | split)
  | cons x r ih => unfold State.drainCtx; (try dsimp only); repeat' (first | with_reducible assumption | with_reducible exact Keeps.refl _ | with_reducible apply Keeps.ite | with_reducible apply KeepsRes.ite | with_reducible apply KeepsFst.ite | with_reducible apply KeepsSnd.ite | with_reducible apply keeps_onCtx | with_reducible apply keeps_ctxPut | with_reducible apply ih | (with_reducible apply KeepsRes.fst; with_reducible apply ih) | (with_reducible apply KeepsFst.fst; with_reducible apply ih) | (simp only [Keeps.lit]; with_reducible apply KeepsData.of) | (simp only [Keeps.lit]; with_reducible refine KeepsData.poke ?_ (fun w => ?_); rotate_left; first | exact mark_wf _ _ _ w | exact fold_wf _ _ (fun m x hm => poison_wf _ _ hm) w | exact fold_wf _ _ (fun m x hm => by split; exact poison_wf _ _ hm; exact hm) w | exact write_wf _ _ w | exact mark_wf _ _ _ (write_wf _ _ w)) | intro s hs | split)

theorem keeps_execDgtMessageDone {a : State} (v0 : ℕ) (v1 : State) (h0 : Keeps a v1) : KeepsOut a (execDgtMessageDone v0 v1) := by
  unfold execDgtMessageDone
  try dsimp only
  repeat' (first | with_reducible assumption | with_reducible exact Keeps.refl _ | with_reducible apply KeepsOut.next | with_reducible apply Keeps.ite | with_reducible apply KeepsRes.ite | with_reducible apply KeepsFst.ite | with_reducible apply KeepsSnd.ite | with_reducible apply keeps_drainCtx | with_reducible apply keeps_ctxError | with_reducible apply keeps_wantDom | with_reducible apply keeps_onCtx | (simp only [Keeps.lit]; with_reducible apply KeepsData.of) | (simp only [Keeps.lit]; with_reducible refine KeepsData.poke ?_ (fun w => ?_); rotate_left; first | exact mark_wf _ _ _ w | exact fold_wf _ _ (fun m x hm => poison_wf _ _ hm) w | exact fold_wf _ _ (fun m x hm => by split; exact poison_wf _ _ hm; exact hm) w | exact write_wf _ _ w | exact mark_wf _ _ _ (write_wf _ _ w)) | intro s hs | split)

theorem keeps_restoreCtx {a : State} (v0 : State) (v1 : ℕ) (h0 : Keeps a v0) : Keeps a (State.restoreCtx v0 v1) := by
  unfold State.restoreCtx
  try dsimp only
  repeat' (first | with_reducible assumption | with_reducible exact Keeps.refl _ | with_reducible apply Keeps.ite | with_reducible apply KeepsRes.ite | with_reducible apply KeepsFst.ite | with_reducible apply KeepsSnd.ite | with_reducible apply keeps_ctxError | with_reducible apply keeps_onCtx | (simp only [Keeps.lit]; with_reducible apply KeepsData.of) | (simp only [Keeps.lit]; with_reducible refine KeepsData.poke ?_ (fun w => ?_); rotate_left; first | exact mark_wf _ _ _ w | exact fold_wf _ _ (fun m x hm => poison_wf _ _ hm) w | exact fold_wf _ _ (fun m x hm => by split; exact poison_wf _ _ hm; exact hm) w | exact write_wf _ _ w | exact mark_wf _ _ _ (write_wf _ _ w)) | intro s hs | split)

theorem keeps_putState {a : State} (v0 : State) (v1 : ℕ) (v2 : ℕ) (v3 : BitVec 64) (h0 : Keeps a v0) : Keeps a (State.putState v0 v1 v2 v3) := by
  unfold State.putState
  try dsimp only
  repeat' (first | with_reducible assumption | with_reducible exact Keeps.refl _ | with_reducible apply Keeps.ite | with_reducible apply KeepsRes.ite | with_reducible apply KeepsFst.ite | with_reducible apply KeepsSnd.ite | with_reducible apply keeps_onCtx | with_reducible apply keeps_ignoredWrite | (simp only [Keeps.lit]; with_reducible apply KeepsData.of) | (simp only [Keeps.lit]; with_reducible refine KeepsData.poke ?_ (fun w => ?_); rotate_left; first | exact mark_wf _ _ _ w | exact fold_wf _ _ (fun m x hm => poison_wf _ _ hm) w | exact fold_wf _ _ (fun m x hm => by split; exact poison_wf _ _ hm; exact hm) w | exact write_wf _ _ w | exact mark_wf _ _ _ (write_wf _ _ w)) | intro s hs | split)

theorem keeps_readState {a : State} (v0 : State) (v1 : ℕ) (v2 : ℕ) (h0 : Keeps a v0) : KeepsSnd a (State.readState v0 v1 v2) := by
  unfold State.readState
  try dsimp only
  repeat' (first | with_reducible assumption | with_reducible exact Keeps.refl _ | with_reducible apply Keeps.ite | with_reducible apply KeepsRes.ite | with_reducible apply KeepsFst.ite | with_reducible apply KeepsSnd.ite | with_reducible apply KeepsSnd.mk | with_reducible apply keeps_onCtx | (simp only [Keeps.lit]; with_reducible apply KeepsData.of) | (simp only [Keeps.lit]; with_reducible refine KeepsData.poke ?_ (fun w => ?_); rotate_left; first | exact mark_wf _ _ _ w | exact fold_wf _ _ (fun m x hm => poison_wf _ _ hm) w | exact fold_wf _ _ (fun m x hm => by split; exact poison_wf _ _ hm; exact hm) w | exact write_wf _ _ w | exact mark_wf _ _ _ (write_wf _ _ w)) | intro s hs | split)
theorem keeps_readState' {a : State} (v0 : State) (v1 : ℕ) (v2 : ℕ) (h0 : Keeps a v0) : Keeps a (State.readState v0 v1 v2).2 := keeps_readState v0 v1 v2 h0
theorem keeps_readState_e {a t : State} {v0 : State} {v1 : ℕ} {v2 : ℕ} {b : _} (e : State.readState v0 v1 v2 = (b, t)) (h0 : Keeps a v0) : Keeps a t := KeepsSnd.eq e (keeps_readState v0 v1 v2 h0)

theorem keeps_dropStateHalf {a : State} (v0 : State) (v1 : ℕ) (h0 : Keeps a v0) : Keeps a (State.dropStateHalf v0 v1) := by
  unfold State.dropStateHalf
  try dsimp only
  repeat' (first | with_reducible assumption | with_reducible exact Keeps.refl _ | (simp only [Keeps.lit]; with_reducible apply KeepsData.of))

theorem keeps_ctxCtl {a : State} (v0 : State) (v1 : Access) (v2 : ℕ) (v3 : BitVec 32) (h0 : Keeps a v0) : Keeps a (State.ctxCtl v0 v1 v2 v3) := by
  unfold State.ctxCtl
  try dsimp only
  repeat' (first | with_reducible assumption | with_reducible exact Keeps.refl _ | with_reducible apply Keeps.ite | with_reducible apply KeepsRes.ite | with_reducible apply KeepsFst.ite | with_reducible apply KeepsSnd.ite | with_reducible apply keeps_ctxError | with_reducible apply keeps_restoreCtx | with_reducible apply keeps_dropStateHalf | with_reducible apply keeps_onCtx | with_reducible apply keeps_ignoredWrite | (simp only [Keeps.lit]; with_reducible apply KeepsData.of) | (simp only [Keeps.lit]; with_reducible refine KeepsData.poke ?_ (fun w => ?_); rotate_left; first | exact mark_wf _ _ _ w | exact fold_wf _ _ (fun m x hm => poison_wf _ _ hm) w | exact fold_wf _ _ (fun m x hm => by split; exact poison_wf _ _ hm; exact hm) w | exact write_wf _ _ w | exact mark_wf _ _ _ (write_wf _ _ w)) | intro s hs | split)

theorem keeps_ctlWrite {a : State} (v0 : State) (v1 : Access) (v2 : ℕ) (v3 : BitVec 32) (h0 : Keeps a v0) : Keeps a (State.ctlWrite v0 v1 v2 v3) := by
  unfold State.ctlWrite
  try dsimp only
  repeat' (first | with_reducible assumption | with_reducible exact Keeps.refl _ | with_reducible apply Keeps.ite | with_reducible apply KeepsRes.ite | with_reducible apply KeepsFst.ite | with_reducible apply KeepsSnd.ite | with_reducible apply keeps_dgtWindow | with_reducible apply keeps_fabWrite | with_reducible apply keeps_ctxCtl | with_reducible apply keeps_ignoredWrite | (simp only [Keeps.lit]; with_reducible apply KeepsData.of) | (simp only [Keeps.lit]; with_reducible refine KeepsData.poke ?_ (fun w => ?_); rotate_left; first | exact mark_wf _ _ _ w | exact fold_wf _ _ (fun m x hm => poison_wf _ _ hm) w | exact fold_wf _ _ (fun m x hm => by split; exact poison_wf _ _ hm; exact hm) w | exact write_wf _ _ w | exact mark_wf _ _ _ (write_wf _ _ w)) | intro s hs | split)

theorem keeps_execDgtContextClaim {a : State} (v0 : Access) (v1 : ℕ) (v2 : BitVec 32) (v3 : State) (h0 : Keeps a v3) : KeepsOut a (execDgtContextClaim v0 v1 v2 v3) := by
  unfold execDgtContextClaim
  try dsimp only
  repeat' (first | with_reducible assumption | with_reducible exact Keeps.refl _ | with_reducible apply KeepsOut.next | with_reducible apply keeps_ctlWrite | (simp only [Keeps.lit]; with_reducible apply KeepsData.of))

theorem keeps_execDgtContextRelease {a : State} (v0 : Access) (v1 : ℕ) (v2 : BitVec 32) (v3 : State) (h0 : Keeps a v3) : KeepsOut a (execDgtContextRelease v0 v1 v2 v3) := by
  unfold execDgtContextRelease
  try dsimp only
  repeat' (first | with_reducible assumption | with_reducible exact Keeps.refl _ | with_reducible apply KeepsOut.next | with_reducible apply keeps_ctlWrite | (simp only [Keeps.lit]; with_reducible apply KeepsData.of))

theorem keeps_execDgtContextAbort {a : State} (v0 : Access) (v1 : ℕ) (v2 : BitVec 32) (v3 : State) (h0 : Keeps a v3) : KeepsOut a (execDgtContextAbort v0 v1 v2 v3) := by
  unfold execDgtContextAbort
  try dsimp only
  repeat' (first | with_reducible assumption | with_reducible exact Keeps.refl _ | with_reducible apply KeepsOut.next | with_reducible apply keeps_ctlWrite | (simp only [Keeps.lit]; with_reducible apply KeepsData.of))

theorem keeps_execDgtContextRestore {a : State} (v0 : Access) (v1 : ℕ) (v2 : BitVec 32) (v3 : State) (h0 : Keeps a v3) : KeepsOut a (execDgtContextRestore v0 v1 v2 v3) := by
  unfold execDgtContextRestore
  try dsimp only
  repeat' (first | with_reducible assumption | with_reducible exact Keeps.refl _ | with_reducible apply KeepsOut.next | with_reducible apply keeps_ctlWrite | (simp only [Keeps.lit]; with_reducible apply KeepsData.of))

end Sys2Proof.Laws
end

