-- ==== Sys2Proof/Laws/KeepsChain.lean ====
section
/-! SUPPORT. Every function of Machine/Chain.lean that answers a state keeps what no command may change. -/

namespace Sys2Proof.Laws
open Sys2Proof Sys2Proof.Machine
set_option linter.unreachableTactic false
set_option linter.unusedTactic false
set_option linter.unusedVariables false
set_option linter.unusedSimpArgs false
set_option maxRecDepth 4000

theorem keeps_violChain {a : State} (v0 : State) (v1 : ℕ) (h0 : Keeps a v0) : Keeps a (State.violChain v0 v1) := by
  unfold State.violChain
  try dsimp only
  repeat' (first | with_reducible assumption | with_reducible exact Keeps.refl _ | with_reducible apply Keeps.ite | with_reducible apply KeepsRes.ite | with_reducible apply KeepsFst.ite | with_reducible apply KeepsSnd.ite | with_reducible apply keeps_logPartner | (simp only [Keeps.lit]; with_reducible apply KeepsData.of) | (simp only [Keeps.lit]; with_reducible refine KeepsData.poke ?_ (fun w => ?_); rotate_left; first | exact mark_wf _ _ _ w | exact fold_wf _ _ (fun m x hm => poison_wf _ _ hm) w | exact fold_wf _ _ (fun m x hm => by split; exact poison_wf _ _ hm; exact hm) w | exact write_wf _ _ w | exact mark_wf _ _ _ (write_wf _ _ w)) | intro s hs | split)

theorem keeps_newRing {a : State} (v0 : State) (h0 : Keeps a v0) : Keeps a (State.newRing v0) := by
  unfold State.newRing
  try dsimp only
  repeat' (first | with_reducible assumption | with_reducible exact Keeps.refl _ | with_reducible apply keeps_endChainJoins | (simp only [Keeps.lit]; with_reducible apply KeepsData.of))

theorem keeps_enumStart {a : State} (v0 : State) (v1 : Option Sub) (h0 : Keeps a v0) : Keeps a (State.enumStart v0 v1) := by
  unfold State.enumStart
  try dsimp only
  repeat' (first | with_reducible assumption | with_reducible exact Keeps.refl _ | with_reducible apply keeps_draw | with_reducible apply keeps_draw' | (with_reducible refine keeps_draw_e (by with_reducible assumption) ?_) | with_reducible apply keeps_sendFrame | with_reducible apply keeps_newRing | (simp only [Keeps.lit]; with_reducible apply KeepsData.of))

theorem keeps_enumEnd {a : State} (v0 : State) (v1 : BitVec 16) (h0 : Keeps a v0) : Keeps a (State.enumEnd v0 v1) := by
  unfold State.enumEnd
  try dsimp only
  repeat' (first | with_reducible assumption | with_reducible exact Keeps.refl _ | with_reducible apply Keeps.ite | with_reducible apply KeepsRes.ite | with_reducible apply KeepsFst.ite | with_reducible apply KeepsSnd.ite | with_reducible apply keeps_conclude | with_reducible apply keeps_ended | with_reducible apply keeps_ended' | with_reducible apply keeps_cause | (simp only [Keeps.lit]; with_reducible apply KeepsData.of) | (simp only [Keeps.lit]; with_reducible refine KeepsData.poke ?_ (fun w => ?_); rotate_left; first | exact mark_wf _ _ _ w | exact fold_wf _ _ (fun m x hm => poison_wf _ _ hm) w | exact fold_wf _ _ (fun m x hm => by split; exact poison_wf _ _ hm; exact hm) w | exact write_wf _ _ w | exact mark_wf _ _ _ (write_wf _ _ w)) | intro s hs | split)

theorem keeps_beacon {a : State} (v0 : State) (h0 : Keeps a v0) : Keeps a (State.beacon v0) := by
  unfold State.beacon
  try dsimp only
  repeat' (first | with_reducible assumption | with_reducible exact Keeps.refl _ | with_reducible apply keeps_sendFrame | (simp only [Keeps.lit]; with_reducible apply KeepsData.of))

theorem keeps_enumDone {a : State} (v0 : State) (v1 : DclFrame) (h0 : Keeps a v0) : Keeps a (State.enumDone v0 v1) := by
  unfold State.enumDone
  try dsimp only
  repeat' (first | with_reducible assumption | with_reducible exact Keeps.refl _ | with_reducible apply keeps_enumEnd | with_reducible apply keeps_beacon | (simp only [Keeps.lit]; with_reducible apply KeepsData.of))

theorem keeps_enumMember {a : State} (v0 : State) (v1 : DclFrame) (h0 : Keeps a v0) : KeepsFst a (State.enumMember v0 v1) := by
  unfold State.enumMember
  try dsimp only
  repeat' (first | with_reducible assumption | with_reducible exact Keeps.refl _ | with_reducible apply KeepsFst.mk | with_reducible apply keeps_newRing | (simp only [Keeps.lit]; with_reducible apply KeepsData.of))
theorem keeps_enumMember' {a : State} (v0 : State) (v1 : DclFrame) (h0 : Keeps a v0) : Keeps a (State.enumMember v0 v1).1 := keeps_enumMember v0 v1 h0
theorem keeps_enumMember_e {a t : State} {v0 : State} {v1 : DclFrame} {b : _} (e : State.enumMember v0 v1 = (t, b)) (h0 : Keeps a v0) : Keeps a t := KeepsFst.eq e (keeps_enumMember v0 v1 h0)

theorem keeps_enumIn {a : State} (v0 : State) (v1 : DclFrame) (h0 : Keeps a v0) : KeepsFst a (State.enumIn v0 v1) := by
  unfold State.enumIn
  try dsimp only
  repeat' (first | with_reducible assumption | with_reducible exact Keeps.refl _ | with_reducible apply Keeps.ite | with_reducible apply KeepsRes.ite | with_reducible apply KeepsFst.ite | with_reducible apply KeepsSnd.ite | with_reducible apply KeepsFst.mk | with_reducible apply keeps_enumStart | with_reducible apply keeps_enumDone | with_reducible apply keeps_enumEnd | with_reducible apply keeps_enumMember | with_reducible apply keeps_enumMember' | (with_reducible refine keeps_enumMember_e (by with_reducible assumption) ?_) | (simp only [Keeps.lit]; with_reducible apply KeepsData.of) | (simp only [Keeps.lit]; with_reducible refine KeepsData.poke ?_ (fun w => ?_); rotate_left; first | exact mark_wf _ _ _ w | exact fold_wf _ _ (fun m x hm => poison_wf _ _ hm) w | exact fold_wf _ _ (fun m x hm => by split; exact poison_wf _ _ hm; exact hm) w | exact write_wf _ _ w | exact mark_wf _ _ _ (write_wf _ _ w)) | intro s hs | split)
theorem keeps_enumIn' {a : State} (v0 : State) (v1 : DclFrame) (h0 : Keeps a v0) : Keeps a (State.enumIn v0 v1).1 := keeps_enumIn v0 v1 h0
theorem keeps_enumIn_e {a t : State} {v0 : State} {v1 : DclFrame} {b : _} (e : State.enumIn v0 v1 = (t, b)) (h0 : Keeps a v0) : Keeps a t := KeepsFst.eq e (keeps_enumIn v0 v1 h0)

theorem keeps_beaconIn {a : State} (v0 : State) (v1 : DclFrame) (h0 : Keeps a v0) : Keeps a (State.beaconIn v0 v1) := by
  unfold State.beaconIn
  try dsimp only
  repeat' (first | with_reducible assumption | with_reducible exact Keeps.refl _ | with_reducible apply Keeps.ite | with_reducible apply KeepsRes.ite | with_reducible apply KeepsFst.ite | with_reducible apply KeepsSnd.ite | with_reducible apply keeps_sendFrame | (simp only [Keeps.lit]; with_reducible apply KeepsData.of) | (simp only [Keeps.lit]; with_reducible refine KeepsData.poke ?_ (fun w => ?_); rotate_left; first | exact mark_wf _ _ _ w | exact fold_wf _ _ (fun m x hm => poison_wf _ _ hm) w | exact fold_wf _ _ (fun m x hm => by split; exact poison_wf _ _ hm; exact hm) w | exact write_wf _ _ w | exact mark_wf _ _ _ (write_wf _ _ w)) | intro s hs | split)

theorem keeps_reEnum {a : State} (v0 : State) (v1 : ℕ) (h0 : Keeps a v0) : Keeps a (State.reEnum v0 v1) := by
  unfold State.reEnum
  try dsimp only
  repeat' (first | with_reducible assumption | with_reducible exact Keeps.refl _ | with_reducible apply Keeps.ite | with_reducible apply KeepsRes.ite | with_reducible apply KeepsFst.ite | with_reducible apply KeepsSnd.ite | with_reducible apply keeps_enumStart | with_reducible apply keeps_log | with_reducible apply keeps_cause | (simp only [Keeps.lit]; with_reducible apply KeepsData.of) | (simp only [Keeps.lit]; with_reducible refine KeepsData.poke ?_ (fun w => ?_); rotate_left; first | exact mark_wf _ _ _ w | exact fold_wf _ _ (fun m x hm => poison_wf _ _ hm) w | exact fold_wf _ _ (fun m x hm => by split; exact poison_wf _ _ hm; exact hm) w | exact write_wf _ _ w | exact mark_wf _ _ _ (write_wf _ _ w)) | intro s hs | split)

theorem keeps_signalAnswer {a : State} (v0 : State) (v1 : DclFrame) (v2 : BitVec 16) (v3 : BitVec 64) (h0 : Keeps a v0) : Keeps a (State.signalAnswer v0 v1 v2 v3) := by
  unfold State.signalAnswer
  try dsimp only
  repeat' (first | with_reducible assumption | with_reducible exact Keeps.refl _ | with_reducible apply Keeps.ite | with_reducible apply KeepsRes.ite | with_reducible apply KeepsFst.ite | with_reducible apply KeepsSnd.ite | with_reducible apply keeps_violChain | with_reducible apply keeps_endRemote | (simp only [Keeps.lit]; with_reducible apply KeepsData.of) | (simp only [Keeps.lit]; with_reducible refine KeepsData.poke ?_ (fun w => ?_); rotate_left; first | exact mark_wf _ _ _ w | exact fold_wf _ _ (fun m x hm => poison_wf _ _ hm) w | exact fold_wf _ _ (fun m x hm => by split; exact poison_wf _ _ hm; exact hm) w | exact write_wf _ _ w | exact mark_wf _ _ _ (write_wf _ _ w)) | intro s hs | split)

theorem keeps_barArrive {a : State} (v0 : State) (v1 : DclFrame) (h0 : Keeps a v0) : Keeps a (State.barArrive v0 v1) := by
  unfold State.barArrive
  try dsimp only
  repeat' (first | with_reducible assumption | with_reducible exact Keeps.refl _ | with_reducible apply Keeps.ite | with_reducible apply KeepsRes.ite | with_reducible apply KeepsFst.ite | with_reducible apply KeepsSnd.ite | with_reducible apply keeps_sendFrame | with_reducible apply keeps_masterArrive | with_reducible apply keeps_logPartner | (simp only [Keeps.lit]; with_reducible apply KeepsData.of) | (simp only [Keeps.lit]; with_reducible refine KeepsData.poke ?_ (fun w => ?_); rotate_left; first | exact mark_wf _ _ _ w | exact fold_wf _ _ (fun m x hm => poison_wf _ _ hm) w | exact fold_wf _ _ (fun m x hm => by split; exact poison_wf _ _ hm; exact hm) w | exact write_wf _ _ w | exact mark_wf _ _ _ (write_wf _ _ w)) | intro s hs | split)

theorem keeps_barWithdraw {a : State} (v0 : State) (v1 : DclFrame) (h0 : Keeps a v0) : Keeps a (State.barWithdraw v0 v1) := by
  unfold State.barWithdraw
  try dsimp only
  repeat' (first | with_reducible assumption | with_reducible exact Keeps.refl _ | with_reducible apply Keeps.ite | with_reducible apply KeepsRes.ite | with_reducible apply KeepsFst.ite | with_reducible apply KeepsSnd.ite | with_reducible apply keeps_sendFrame | with_reducible apply keeps_masterWithdraw | (simp only [Keeps.lit]; with_reducible apply KeepsData.of) | (simp only [Keeps.lit]; with_reducible refine KeepsData.poke ?_ (fun w => ?_); rotate_left; first | exact mark_wf _ _ _ w | exact fold_wf _ _ (fun m x hm => poison_wf _ _ hm) w | exact fold_wf _ _ (fun m x hm => by split; exact poison_wf _ _ hm; exact hm) w | exact write_wf _ _ w | exact mark_wf _ _ _ (write_wf _ _ w)) | intro s hs | split)

theorem keeps_barAck {a : State} (v0 : State) (v1 : DclFrame) (h0 : Keeps a v0) : Keeps a (State.barAck v0 v1) := by
  unfold State.barAck
  try dsimp only
  repeat' (first | with_reducible assumption | with_reducible exact Keeps.refl _ | with_reducible apply Keeps.ite | with_reducible apply KeepsRes.ite | with_reducible apply KeepsFst.ite | with_reducible apply KeepsSnd.ite | with_reducible apply keeps_endJoin | with_reducible apply keeps_dropJoin | with_reducible apply keeps_logPartner | (simp only [Keeps.lit]; with_reducible apply KeepsData.of) | (simp only [Keeps.lit]; with_reducible refine KeepsData.poke ?_ (fun w => ?_); rotate_left; first | exact mark_wf _ _ _ w | exact fold_wf _ _ (fun m x hm => poison_wf _ _ hm) w | exact fold_wf _ _ (fun m x hm => by split; exact poison_wf _ _ hm; exact hm) w | exact write_wf _ _ w | exact mark_wf _ _ _ (write_wf _ _ w)) | intro s hs | split)

theorem keeps_barRelease {a : State} (v0 : State) (v1 : DclFrame) (h0 : Keeps a v0) : Keeps a (State.barRelease v0 v1) := by
  unfold State.barRelease
  try dsimp only
  repeat' (first | with_reducible assumption | with_reducible exact Keeps.refl _ | with_reducible apply Keeps.ite | with_reducible apply KeepsRes.ite | with_reducible apply KeepsFst.ite | with_reducible apply KeepsSnd.ite | with_reducible apply keeps_violChain | with_reducible apply keeps_onBar | with_reducible apply keeps_releaseBar | (simp only [Keeps.lit]; with_reducible apply KeepsData.of) | (simp only [Keeps.lit]; with_reducible refine KeepsData.poke ?_ (fun w => ?_); rotate_left; first | exact mark_wf _ _ _ w | exact fold_wf _ _ (fun m x hm => poison_wf _ _ hm) w | exact fold_wf _ _ (fun m x hm => by split; exact poison_wf _ _ hm; exact hm) w | exact write_wf _ _ w | exact mark_wf _ _ _ (write_wf _ _ w)) | intro s hs | split)

theorem keeps_actOn {a : State} (v0 : State) (v1 : DclFrame) (v2 : Ext) (h0 : Keeps a v0) : Keeps a (State.actOn v0 v1 v2) := by
  unfold State.actOn
  try dsimp only
  repeat' (first | with_reducible assumption | with_reducible exact Keeps.refl _ | with_reducible apply Keeps.ite | with_reducible apply KeepsRes.ite | with_reducible apply KeepsFst.ite | with_reducible apply KeepsSnd.ite | with_reducible apply keeps_barAck | with_reducible apply keeps_fireRule | with_reducible apply keeps_beaconIn | with_reducible apply keeps_barRelease | with_reducible apply keeps_barArrive | with_reducible apply keeps_recvSignal | with_reducible apply keeps_barWithdraw | with_reducible apply keeps_cause | with_reducible apply keeps_reEnum | with_reducible apply keeps_signalAnswer | (simp only [Keeps.lit]; with_reducible apply KeepsData.of) | (simp only [Keeps.lit]; with_reducible refine KeepsData.poke ?_ (fun w => ?_); rotate_left; first | exact mark_wf _ _ _ w | exact fold_wf _ _ (fun m x hm => poison_wf _ _ hm) w | exact fold_wf _ _ (fun m x hm => by split; exact poison_wf _ _ hm; exact hm) w | exact write_wf _ _ w | exact mark_wf _ _ _ (write_wf _ _ w)) | intro s hs | split)

theorem keeps_forwardFrame {a : State} (v0 : State) (v1 : DclFrame) (h0 : Keeps a v0) : Keeps a (State.forwardFrame v0 v1) := by
  unfold State.forwardFrame
  try dsimp only
  repeat' (first | with_reducible assumption | with_reducible exact Keeps.refl _ | (simp only [Keeps.lit]; with_reducible apply KeepsData.of))

theorem keeps_consume {a : State} (v0 : State) (v1 : DclFrame) (v2 : Ext) (h0 : Keeps a v0) : KeepsFst a (State.consume v0 v1 v2) := by
  unfold State.consume
  try dsimp only
  repeat' (first | with_reducible assumption | with_reducible exact Keeps.refl _ | with_reducible apply Keeps.ite | with_reducible apply KeepsRes.ite | with_reducible apply KeepsFst.ite | with_reducible apply KeepsSnd.ite | with_reducible apply KeepsFst.mk | with_reducible apply keeps_enumIn | with_reducible apply keeps_enumIn' | (with_reducible refine keeps_enumIn_e (by with_reducible assumption) ?_) | with_reducible apply keeps_violChain | with_reducible apply keeps_actOn | (simp only [Keeps.lit]; with_reducible apply KeepsData.of) | (simp only [Keeps.lit]; with_reducible refine KeepsData.poke ?_ (fun w => ?_); rotate_left; first | exact mark_wf _ _ _ w | exact fold_wf _ _ (fun m x hm => poison_wf _ _ hm) w | exact fold_wf _ _ (fun m x hm => by split; exact poison_wf _ _ hm; exact hm) w | exact write_wf _ _ w | exact mark_wf _ _ _ (write_wf _ _ w)) | intro s hs | split)
theorem keeps_consume' {a : State} (v0 : State) (v1 : DclFrame) (v2 : Ext) (h0 : Keeps a v0) : Keeps a (State.consume v0 v1 v2).1 := keeps_consume v0 v1 v2 h0
theorem keeps_consume_e {a t : State} {v0 : State} {v1 : DclFrame} {v2 : Ext} {b : _} (e : State.consume v0 v1 v2 = (t, b)) (h0 : Keeps a v0) : Keeps a t := KeepsFst.eq e (keeps_consume v0 v1 v2 h0)

theorem keeps_frameIn {a : State} (v0 : State) (v1 : DclFrame) (v2 : Ext) (h0 : Keeps a v0) : Keeps a (State.frameIn v0 v1 v2) := by
  unfold State.frameIn
  try dsimp only
  repeat' (first | with_reducible assumption | with_reducible exact Keeps.refl _ | with_reducible apply Keeps.ite | with_reducible apply KeepsRes.ite | with_reducible apply KeepsFst.ite | with_reducible apply KeepsSnd.ite | with_reducible apply keeps_consume | with_reducible apply keeps_consume' | (with_reducible refine keeps_consume_e (by with_reducible assumption) ?_) | with_reducible apply keeps_forwardFrame | with_reducible apply keeps_reEnum | (simp only [Keeps.lit]; with_reducible apply KeepsData.of) | (simp only [Keeps.lit]; with_reducible refine KeepsData.poke ?_ (fun w => ?_); rotate_left; first | exact mark_wf _ _ _ w | exact fold_wf _ _ (fun m x hm => poison_wf _ _ hm) w | exact fold_wf _ _ (fun m x hm => by split; exact poison_wf _ _ hm; exact hm) w | exact write_wf _ _ w | exact mark_wf _ _ _ (write_wf _ _ w)) | intro s hs | split)

theorem keeps_frameRow {a : State} (v0 : State) (v1 : BitVec 8) (v2 : DclFrame) (v3 : Ext) (h0 : Keeps a v0) : Keeps a (State.frameRow v0 v1 v2 v3) := by
  unfold State.frameRow
  try dsimp only
  repeat' (first | with_reducible assumption | with_reducible exact Keeps.refl _ | with_reducible apply Keeps.ite | with_reducible apply KeepsRes.ite | with_reducible apply KeepsFst.ite | with_reducible apply KeepsSnd.ite | with_reducible apply keeps_frameIn | (simp only [Keeps.lit]; with_reducible apply KeepsData.of) | (simp only [Keeps.lit]; with_reducible refine KeepsData.poke ?_ (fun w => ?_); rotate_left; first | exact mark_wf _ _ _ w | exact fold_wf _ _ (fun m x hm => poison_wf _ _ hm) w | exact fold_wf _ _ (fun m x hm => by split; exact poison_wf _ _ hm; exact hm) w | exact write_wf _ _ w | exact mark_wf _ _ _ (write_wf _ _ w)) | intro s hs | split)

theorem keeps_execChainFrameReceived {a : State} (v0 : List Byte) (v1 : Bool) (v2 : Ext) (v3 : State) (h0 : Keeps a v3) : KeepsOut a (execChainFrameReceived v0 v1 v2 v3) := by
  unfold execChainFrameReceived
  try dsimp only
  repeat' (first | with_reducible assumption | with_reducible exact Keeps.refl _ | with_reducible apply KeepsOut.next | with_reducible apply Keeps.ite | with_reducible apply KeepsRes.ite | with_reducible apply KeepsFst.ite | with_reducible apply KeepsSnd.ite | with_reducible apply keeps_frameIn | (simp only [Keeps.lit]; with_reducible apply KeepsData.of) | (simp only [Keeps.lit]; with_reducible refine KeepsData.poke ?_ (fun w => ?_); rotate_left; first | exact mark_wf _ _ _ w | exact fold_wf _ _ (fun m x hm => poison_wf _ _ hm) w | exact fold_wf _ _ (fun m x hm => by split; exact poison_wf _ _ hm; exact hm) w | exact write_wf _ _ w | exact mark_wf _ _ _ (write_wf _ _ w)) | intro s hs | split)

theorem keeps_execEnum {a : State} (v0 : DclFrame) (v1 : State) (h0 : Keeps a v1) : KeepsOut a (execEnum v0 v1) := by
  unfold execEnum
  try dsimp only
  repeat' (first | with_reducible assumption | with_reducible exact Keeps.refl _ | with_reducible apply KeepsOut.next | with_reducible apply keeps_frameRow | (simp only [Keeps.lit]; with_reducible apply KeepsData.of))

theorem keeps_execBeacon {a : State} (v0 : DclFrame) (v1 : State) (h0 : Keeps a v1) : KeepsOut a (execBeacon v0 v1) := by
  unfold execBeacon
  try dsimp only
  repeat' (first | with_reducible assumption | with_reducible exact Keeps.refl _ | with_reducible apply KeepsOut.next | with_reducible apply keeps_frameRow | (simp only [Keeps.lit]; with_reducible apply KeepsData.of))

theorem keeps_execTrigger {a : State} (v0 : DclFrame) (v1 : State) (h0 : Keeps a v1) : KeepsOut a (execTrigger v0 v1) := by
  unfold execTrigger
  try dsimp only
  repeat' (first | with_reducible assumption | with_reducible exact Keeps.refl _ | with_reducible apply KeepsOut.next | with_reducible apply keeps_frameRow | (simp only [Keeps.lit]; with_reducible apply KeepsData.of))

theorem keeps_execNotice {a : State} (v0 : DclFrame) (v1 : State) (h0 : Keeps a v1) : KeepsOut a (execNotice v0 v1) := by
  unfold execNotice
  try dsimp only
  repeat' (first | with_reducible assumption | with_reducible exact Keeps.refl _ | with_reducible apply KeepsOut.next | with_reducible apply keeps_frameRow | (simp only [Keeps.lit]; with_reducible apply KeepsData.of))

theorem keeps_execJoin {a : State} (v0 : DclFrame) (v1 : State) (h0 : Keeps a v1) : KeepsOut a (execJoin v0 v1) := by
  unfold execJoin
  try dsimp only
  repeat' (first | with_reducible assumption | with_reducible exact Keeps.refl _ | with_reducible apply KeepsOut.next | with_reducible apply keeps_frameRow | (simp only [Keeps.lit]; with_reducible apply KeepsData.of))

theorem keeps_execSignal {a : State} (v0 : DclFrame) (v1 : Ext) (v2 : State) (h0 : Keeps a v2) : KeepsOut a (execSignal v0 v1 v2) := by
  unfold execSignal
  try dsimp only
  repeat' (first | with_reducible assumption | with_reducible exact Keeps.refl _ | with_reducible apply KeepsOut.next | with_reducible apply keeps_frameRow | (simp only [Keeps.lit]; with_reducible apply KeepsData.of))

theorem keeps_execSignalAck {a : State} (v0 : DclFrame) (v1 : State) (h0 : Keeps a v1) : KeepsOut a (execSignalAck v0 v1) := by
  unfold execSignalAck
  try dsimp only
  repeat' (first | with_reducible assumption | with_reducible exact Keeps.refl _ | with_reducible apply KeepsOut.next | with_reducible apply keeps_frameRow | (simp only [Keeps.lit]; with_reducible apply KeepsData.of))

theorem keeps_execSignalRefuse {a : State} (v0 : DclFrame) (v1 : State) (h0 : Keeps a v1) : KeepsOut a (execSignalRefuse v0 v1) := by
  unfold execSignalRefuse
  try dsimp only
  repeat' (first | with_reducible assumption | with_reducible exact Keeps.refl _ | with_reducible apply KeepsOut.next | with_reducible apply keeps_frameRow | (simp only [Keeps.lit]; with_reducible apply KeepsData.of))

theorem keeps_execBarArrive {a : State} (v0 : DclFrame) (v1 : State) (h0 : Keeps a v1) : KeepsOut a (execBarArrive v0 v1) := by
  unfold execBarArrive
  try dsimp only
  repeat' (first | with_reducible assumption | with_reducible exact Keeps.refl _ | with_reducible apply KeepsOut.next | with_reducible apply keeps_frameRow | (simp only [Keeps.lit]; with_reducible apply KeepsData.of))

theorem keeps_execBarWithdraw {a : State} (v0 : DclFrame) (v1 : State) (h0 : Keeps a v1) : KeepsOut a (execBarWithdraw v0 v1) := by
  unfold execBarWithdraw
  try dsimp only
  repeat' (first | with_reducible assumption | with_reducible exact Keeps.refl _ | with_reducible apply KeepsOut.next | with_reducible apply keeps_frameRow | (simp only [Keeps.lit]; with_reducible apply KeepsData.of))

theorem keeps_execBarAck {a : State} (v0 : DclFrame) (v1 : State) (h0 : Keeps a v1) : KeepsOut a (execBarAck v0 v1) := by
  unfold execBarAck
  try dsimp only
  repeat' (first | with_reducible assumption | with_reducible exact Keeps.refl _ | with_reducible apply KeepsOut.next | with_reducible apply keeps_frameRow | (simp only [Keeps.lit]; with_reducible apply KeepsData.of))

theorem keeps_execBarRelease {a : State} (v0 : DclFrame) (v1 : Ext) (v2 : State) (h0 : Keeps a v2) : KeepsOut a (execBarRelease v0 v1 v2) := by
  unfold execBarRelease
  try dsimp only
  repeat' (first | with_reducible assumption | with_reducible exact Keeps.refl _ | with_reducible apply KeepsOut.next | with_reducible apply keeps_frameRow | (simp only [Keeps.lit]; with_reducible apply KeepsData.of))

theorem keeps_execChainTransmit {a : State} (v0 : State) (h0 : Keeps a v0) : KeepsOut a (execChainTransmit v0) := by
  unfold execChainTransmit
  try dsimp only
  repeat' (first | with_reducible assumption | with_reducible exact Keeps.refl _ | with_reducible apply KeepsOut.next | with_reducible apply Keeps.ite | with_reducible apply KeepsRes.ite | with_reducible apply KeepsFst.ite | with_reducible apply KeepsSnd.ite | (simp only [Keeps.lit]; with_reducible apply KeepsData.of) | (simp only [Keeps.lit]; with_reducible refine KeepsData.poke ?_ (fun w => ?_); rotate_left; first | exact mark_wf _ _ _ w | exact fold_wf _ _ (fun m x hm => poison_wf _ _ hm) w | exact fold_wf _ _ (fun m x hm => by split; exact poison_wf _ _ hm; exact hm) w | exact write_wf _ _ w | exact mark_wf _ _ _ (write_wf _ _ w)) | intro s hs | split)

theorem keeps_mustJoin {a : State} (v0 : State) (v1 : ℕ) (h0 : Keeps a v0) : Keeps a (State.mustJoin v0 v1) := by
  unfold State.mustJoin
  try dsimp only
  repeat' (first | with_reducible assumption | with_reducible exact Keeps.refl _ | (simp only [Keeps.lit]; with_reducible apply KeepsData.of))

theorem keeps_execChainLinkDown {a : State} (v0 : Bool) (v1 : State) (h0 : Keeps a v1) : KeepsOut a (execChainLinkDown v0 v1) := by
  unfold execChainLinkDown
  try dsimp only
  repeat' (first | with_reducible assumption | with_reducible exact Keeps.refl _ | with_reducible apply KeepsOut.next | with_reducible apply Keeps.ite | with_reducible apply KeepsRes.ite | with_reducible apply KeepsFst.ite | with_reducible apply KeepsSnd.ite | with_reducible apply keeps_mustJoin | with_reducible apply keeps_cause | (simp only [Keeps.lit]; with_reducible apply KeepsData.of) | (simp only [Keeps.lit]; with_reducible refine KeepsData.poke ?_ (fun w => ?_); rotate_left; first | exact mark_wf _ _ _ w | exact fold_wf _ _ (fun m x hm => poison_wf _ _ hm) w | exact fold_wf _ _ (fun m x hm => by split; exact poison_wf _ _ hm; exact hm) w | exact write_wf _ _ w | exact mark_wf _ _ _ (write_wf _ _ w)) | intro s hs | split)

theorem keeps_execBeaconTimer {a : State} (v0 : State) (h0 : Keeps a v0) : KeepsOut a (execBeaconTimer v0) := by
  unfold execBeaconTimer
  try dsimp only
  repeat' (first | with_reducible assumption | with_reducible exact Keeps.refl _ | with_reducible apply KeepsOut.next | with_reducible apply Keeps.ite | with_reducible apply KeepsRes.ite | with_reducible apply KeepsFst.ite | with_reducible apply KeepsSnd.ite | with_reducible apply keeps_beacon | (simp only [Keeps.lit]; with_reducible apply KeepsData.of) | (simp only [Keeps.lit]; with_reducible refine KeepsData.poke ?_ (fun w => ?_); rotate_left; first | exact mark_wf _ _ _ w | exact fold_wf _ _ (fun m x hm => poison_wf _ _ hm) w | exact fold_wf _ _ (fun m x hm => by split; exact poison_wf _ _ hm; exact hm) w | exact write_wf _ _ w | exact mark_wf _ _ _ (write_wf _ _ w)) | intro s hs | split)

theorem keeps_execEnumTimeout {a : State} (v0 : State) (h0 : Keeps a v0) : KeepsOut a (execEnumTimeout v0) := by
  unfold execEnumTimeout
  try dsimp only
  repeat' (first | with_reducible assumption | with_reducible exact Keeps.refl _ | with_reducible apply KeepsOut.next | with_reducible apply Keeps.ite | with_reducible apply KeepsRes.ite | with_reducible apply KeepsFst.ite | with_reducible apply KeepsSnd.ite | with_reducible apply keeps_logStatus | with_reducible apply keeps_enumEnd | (simp only [Keeps.lit]; with_reducible apply KeepsData.of) | (simp only [Keeps.lit]; with_reducible refine KeepsData.poke ?_ (fun w => ?_); rotate_left; first | exact mark_wf _ _ _ w | exact fold_wf _ _ (fun m x hm => poison_wf _ _ hm) w | exact fold_wf _ _ (fun m x hm => by split; exact poison_wf _ _ hm; exact hm) w | exact write_wf _ _ w | exact mark_wf _ _ _ (write_wf _ _ w)) | intro s hs | split)

theorem keeps_execMasterLoss {a : State} (v0 : State) (h0 : Keeps a v0) : KeepsOut a (execMasterLoss v0) := by
  unfold execMasterLoss
  try dsimp only
  repeat' (first | with_reducible assumption | with_reducible exact Keeps.refl _ | with_reducible apply KeepsOut.next | with_reducible apply Keeps.ite | with_reducible apply KeepsRes.ite | with_reducible apply KeepsFst.ite | with_reducible apply KeepsSnd.ite | with_reducible apply keeps_endChainJoins | with_reducible apply keeps_mustJoin | with_reducible apply keeps_cause | (simp only [Keeps.lit]; with_reducible apply KeepsData.of) | (simp only [Keeps.lit]; with_reducible refine KeepsData.poke ?_ (fun w => ?_); rotate_left; first | exact mark_wf _ _ _ w | exact fold_wf _ _ (fun m x hm => poison_wf _ _ hm) w | exact fold_wf _ _ (fun m x hm => by split; exact poison_wf _ _ hm; exact hm) w | exact write_wf _ _ w | exact mark_wf _ _ _ (write_wf _ _ w)) | intro s hs | split)

theorem keeps_execElectionTimer {a : State} (v0 : State) (h0 : Keeps a v0) : KeepsOut a (execElectionTimer v0) := by
  unfold execElectionTimer
  try dsimp only
  repeat' (first | with_reducible assumption | with_reducible exact Keeps.refl _ | with_reducible apply KeepsOut.next | with_reducible apply Keeps.ite | with_reducible apply KeepsRes.ite | with_reducible apply KeepsFst.ite | with_reducible apply KeepsSnd.ite | with_reducible apply keeps_enumStart | with_reducible apply keeps_log | (simp only [Keeps.lit]; with_reducible apply KeepsData.of) | (simp only [Keeps.lit]; with_reducible refine KeepsData.poke ?_ (fun w => ?_); rotate_left; first | exact mark_wf _ _ _ w | exact fold_wf _ _ (fun m x hm => poison_wf _ _ hm) w | exact fold_wf _ _ (fun m x hm => by split; exact poison_wf _ _ hm; exact hm) w | exact write_wf _ _ w | exact mark_wf _ _ _ (write_wf _ _ w)) | intro s hs | split)

theorem keeps_execNoticeRepeat {a : State} (v0 : State) (h0 : Keeps a v0) : KeepsOut a (execNoticeRepeat v0) := by
  unfold execNoticeRepeat
  try dsimp only
  repeat' (first | with_reducible assumption | with_reducible exact Keeps.refl _ | with_reducible apply KeepsOut.next | with_reducible apply Keeps.ite | with_reducible apply KeepsRes.ite | with_reducible apply KeepsFst.ite | with_reducible apply KeepsSnd.ite | with_reducible apply keeps_notice | (simp only [Keeps.lit]; with_reducible apply KeepsData.of) | (simp only [Keeps.lit]; with_reducible refine KeepsData.poke ?_ (fun w => ?_); rotate_left; first | exact mark_wf _ _ _ w | exact fold_wf _ _ (fun m x hm => poison_wf _ _ hm) w | exact fold_wf _ _ (fun m x hm => by split; exact poison_wf _ _ hm; exact hm) w | exact write_wf _ _ w | exact mark_wf _ _ _ (write_wf _ _ w)) | intro s hs | split)

theorem keeps_execNoticeToken {a : State} (v0 : State) (h0 : Keeps a v0) : KeepsOut a (execNoticeToken v0) := by
  unfold execNoticeToken
  try dsimp only
  repeat' (first | with_reducible assumption | with_reducible exact Keeps.refl _ | with_reducible apply KeepsOut.next | with_reducible apply Keeps.ite | with_reducible apply KeepsRes.ite | with_reducible apply KeepsFst.ite | with_reducible apply KeepsSnd.ite | with_reducible apply keeps_sendFrame | (simp only [Keeps.lit]; with_reducible apply KeepsData.of) | (simp only [Keeps.lit]; with_reducible refine KeepsData.poke ?_ (fun w => ?_); rotate_left; first | exact mark_wf _ _ _ w | exact fold_wf _ _ (fun m x hm => poison_wf _ _ hm) w | exact fold_wf _ _ (fun m x hm => by split; exact poison_wf _ _ hm; exact hm) w | exact write_wf _ _ w | exact mark_wf _ _ _ (write_wf _ _ w)) | intro s hs | split)

theorem keeps_bodyChainEnum {a : State} (v0 : Sub) (v1 : State) (h0 : Keeps a v1) : KeepsRes a (bodyChainEnum v0 v1) := by
  unfold bodyChainEnum
  try dsimp only
  repeat' (first | with_reducible assumption | with_reducible exact Keeps.refl _ | with_reducible apply Keeps.ite | with_reducible apply KeepsRes.ite | with_reducible apply KeepsFst.ite | with_reducible apply KeepsSnd.ite | with_reducible apply KeepsRes.mk | with_reducible apply keeps_enumStart | with_reducible apply keeps_wait | with_reducible apply keeps_wait' | with_reducible apply keeps_running | with_reducible apply keeps_running' | (simp only [Keeps.lit]; with_reducible apply KeepsData.of) | (simp only [Keeps.lit]; with_reducible refine KeepsData.poke ?_ (fun w => ?_); rotate_left; first | exact mark_wf _ _ _ w | exact fold_wf _ _ (fun m x hm => poison_wf _ _ hm) w | exact fold_wf _ _ (fun m x hm => by split; exact poison_wf _ _ hm; exact hm) w | exact write_wf _ _ w | exact mark_wf _ _ _ (write_wf _ _ w)) | intro s hs | split)
theorem keeps_bodyChainEnum' {a : State} (v0 : Sub) (v1 : State) (h0 : Keeps a v1) : Keeps a (bodyChainEnum v0 v1).s := keeps_bodyChainEnum v0 v1 h0

theorem keeps_leaveMaster {a : State} (v0 : State) (v1 : ℕ) (h0 : Keeps a v0) : Keeps a (State.leaveMaster v0 v1) := by
  unfold State.leaveMaster
  try dsimp only
  repeat' (first | with_reducible assumption | with_reducible exact Keeps.refl _ | with_reducible apply Keeps.ite | with_reducible apply KeepsRes.ite | with_reducible apply KeepsFst.ite | with_reducible apply KeepsSnd.ite | with_reducible apply keeps_enumEnd | with_reducible apply keeps_endChainJoins | with_reducible apply keeps_mustJoin | (simp only [Keeps.lit]; with_reducible apply KeepsData.of) | (simp only [Keeps.lit]; with_reducible refine KeepsData.poke ?_ (fun w => ?_); rotate_left; first | exact mark_wf _ _ _ w | exact fold_wf _ _ (fun m x hm => poison_wf _ _ hm) w | exact fold_wf _ _ (fun m x hm => by split; exact poison_wf _ _ hm; exact hm) w | exact write_wf _ _ w | exact mark_wf _ _ _ (write_wf _ _ w)) | intro s hs | split)

theorem keeps_bodyChainMember {a : State} (v0 : Sub) (v1 : State) (h0 : Keeps a v1) : KeepsRes a (bodyChainMember v0 v1) := by
  unfold bodyChainMember
  try dsimp only
  repeat' (first | with_reducible assumption | with_reducible exact Keeps.refl _ | with_reducible apply Keeps.ite | with_reducible apply KeepsRes.ite | with_reducible apply KeepsFst.ite | with_reducible apply KeepsSnd.ite | with_reducible apply KeepsRes.mk | with_reducible apply keeps_done | with_reducible apply keeps_done' | with_reducible apply keeps_leaveMaster | with_reducible apply keeps_fail | with_reducible apply keeps_fail' | (simp only [Keeps.lit]; with_reducible apply KeepsData.of) | (simp only [Keeps.lit]; with_reducible refine KeepsData.poke ?_ (fun w => ?_); rotate_left; first | exact mark_wf _ _ _ w | exact fold_wf _ _ (fun m x hm => poison_wf _ _ hm) w | exact fold_wf _ _ (fun m x hm => by split; exact poison_wf _ _ hm; exact hm) w | exact write_wf _ _ w | exact mark_wf _ _ _ (write_wf _ _ w)) | intro s hs | split)
theorem keeps_bodyChainMember' {a : State} (v0 : Sub) (v1 : State) (h0 : Keeps a v1) : Keeps a (bodyChainMember v0 v1).s := keeps_bodyChainMember v0 v1 h0

theorem keeps_bodyChainIsolated {a : State} (v0 : State) (h0 : Keeps a v0) : KeepsRes a (bodyChainIsolated v0) := by
  unfold bodyChainIsolated
  try dsimp only
  repeat' (first | with_reducible assumption | with_reducible exact Keeps.refl _ | with_reducible apply KeepsRes.mk | with_reducible apply keeps_done | with_reducible apply keeps_done' | with_reducible apply keeps_leaveMaster | (simp only [Keeps.lit]; with_reducible apply KeepsData.of))
theorem keeps_bodyChainIsolated' {a : State} (v0 : State) (h0 : Keeps a v0) : Keeps a (bodyChainIsolated v0).s := keeps_bodyChainIsolated v0 h0

theorem keeps_bodyChainStatus {a : State} (v0 : State) (h0 : Keeps a v0) : KeepsRes a (bodyChainStatus v0) := by
  unfold bodyChainStatus
  try dsimp only
  repeat' (first | with_reducible assumption | with_reducible exact Keeps.refl _ | with_reducible apply Keeps.ite | with_reducible apply KeepsRes.ite | with_reducible apply KeepsFst.ite | with_reducible apply KeepsSnd.ite | with_reducible apply KeepsRes.mk | with_reducible apply keeps_done | with_reducible apply keeps_done' | with_reducible apply keeps_fail | with_reducible apply keeps_fail' | (simp only [Keeps.lit]; with_reducible apply KeepsData.of) | (simp only [Keeps.lit]; with_reducible refine KeepsData.poke ?_ (fun w => ?_); rotate_left; first | exact mark_wf _ _ _ w | exact fold_wf _ _ (fun m x hm => poison_wf _ _ hm) w | exact fold_wf _ _ (fun m x hm => by split; exact poison_wf _ _ hm; exact hm) w | exact write_wf _ _ w | exact mark_wf _ _ _ (write_wf _ _ w)) | intro s hs | split)
theorem keeps_bodyChainStatus' {a : State} (v0 : State) (h0 : Keeps a v0) : Keeps a (bodyChainStatus v0).s := keeps_bodyChainStatus v0 h0

theorem keeps_execChainMasterEnumerate {a : State} (v0 : Sub) (v1 : Ext) (v2 : State) (h0 : Keeps a v2) : KeepsOut a (execChainMasterEnumerate v0 v1 v2) := by
  unfold execChainMasterEnumerate
  try dsimp only
  repeat' (first | with_reducible assumption | with_reducible exact Keeps.refl _ | with_reducible apply KeepsOut.next | with_reducible apply keeps_runOp | with_reducible apply keeps_bodyChainEnum | with_reducible apply keeps_bodyChainEnum' | (simp only [Keeps.lit]; with_reducible apply KeepsData.of))

theorem keeps_execChainSetMember {a : State} (v0 : Sub) (v1 : Ext) (v2 : State) (h0 : Keeps a v2) : KeepsOut a (execChainSetMember v0 v1 v2) := by
  unfold execChainSetMember
  try dsimp only
  repeat' (first | with_reducible assumption | with_reducible exact Keeps.refl _ | with_reducible apply KeepsOut.next | with_reducible apply keeps_runOp | with_reducible apply keeps_bodyChainMember | with_reducible apply keeps_bodyChainMember' | (simp only [Keeps.lit]; with_reducible apply KeepsData.of))

theorem keeps_execChainSetIsolated {a : State} (v0 : Sub) (v1 : Ext) (v2 : State) (h0 : Keeps a v2) : KeepsOut a (execChainSetIsolated v0 v1 v2) := by
  unfold execChainSetIsolated
  try dsimp only
  repeat' (first | with_reducible assumption | with_reducible exact Keeps.refl _ | with_reducible apply KeepsOut.next | with_reducible apply keeps_runOp | with_reducible apply keeps_bodyChainIsolated | with_reducible apply keeps_bodyChainIsolated' | (simp only [Keeps.lit]; with_reducible apply KeepsData.of))

theorem keeps_execChainReenumerate {a : State} (v0 : Sub) (v1 : Ext) (v2 : State) (h0 : Keeps a v2) : KeepsOut a (execChainReenumerate v0 v1 v2) := by
  unfold execChainReenumerate
  try dsimp only
  repeat' (first | with_reducible assumption | with_reducible exact Keeps.refl _ | with_reducible apply KeepsOut.next | with_reducible apply keeps_runOp | with_reducible apply keeps_bodyChainEnum | with_reducible apply keeps_bodyChainEnum' | (simp only [Keeps.lit]; with_reducible apply KeepsData.of))

theorem keeps_execChainStatus {a : State} (v0 : Sub) (v1 : Ext) (v2 : State) (h0 : Keeps a v2) : KeepsOut a (execChainStatus v0 v1 v2) := by
  unfold execChainStatus
  try dsimp only
  repeat' (first | with_reducible assumption | with_reducible exact Keeps.refl _ | with_reducible apply KeepsOut.next | with_reducible apply keeps_runOp | with_reducible apply keeps_bodyChainStatus | with_reducible apply keeps_bodyChainStatus' | (simp only [Keeps.lit]; with_reducible apply KeepsData.of))

end Sys2Proof.Laws
end

