-- ==== Sys2Proof/Laws/KeepsAdmin.lean ====
section
/-! SUPPORT. Every function of Machine/Admin.lean that answers a state keeps what no command may change. -/

namespace Sys2Proof.Laws
open Sys2Proof Sys2Proof.Machine
set_option linter.unreachableTactic false
set_option linter.unusedTactic false
set_option linter.unusedVariables false
set_option linter.unusedSimpArgs false
set_option maxRecDepth 4000

theorem keeps_stopCmd {a : State} (v0 : State) (v1 : Cmd) (h0 : Keeps a v0) : Keeps a (State.stopCmd v0 v1) := by
  unfold State.stopCmd
  try dsimp only
  repeat' (first | with_reducible assumption | with_reducible exact Keeps.refl _ | with_reducible apply Keeps.ite | with_reducible apply KeepsRes.ite | with_reducible apply KeepsFst.ite | with_reducible apply KeepsSnd.ite | with_reducible apply keeps_capCancel | (with_reducible refine keeps_capCancel_e (by with_reducible assumption) ?_) | with_reducible apply keeps_enumEnd | with_reducible apply keeps_finish | with_reducible apply keeps_withdraw | with_reducible apply keeps_stopStage | (simp only [Keeps.lit]; with_reducible apply KeepsData.of) | (simp only [Keeps.lit]; with_reducible refine KeepsData.poke ?_ (fun w => ?_); rotate_left; first | exact mark_wf _ _ _ w | exact fold_wf _ _ (fun m x hm => poison_wf _ _ hm) w | exact fold_wf _ _ (fun m x hm => by split; exact poison_wf _ _ hm; exact hm) w | exact write_wf _ _ w | exact mark_wf _ _ _ (write_wf _ _ w)) | intro s hs | split)

theorem keeps_abortFetched {a : State} (v0 : State) (v1 : Fetched) (v2 : Bool) (h0 : Keeps a v0) : Keeps a (State.abortFetched v0 v1 v2) := by
  unfold State.abortFetched
  try dsimp only
  repeat' (first | with_reducible assumption | with_reducible exact Keeps.refl _ | with_reducible apply Keeps.ite | with_reducible apply KeepsRes.ite | with_reducible apply KeepsFst.ite | with_reducible apply KeepsSnd.ite | with_reducible apply keeps_pushFin | with_reducible apply keeps_putStatus | with_reducible apply keeps_onCh | (simp only [Keeps.lit]; with_reducible apply KeepsData.of) | (simp only [Keeps.lit]; with_reducible refine KeepsData.poke ?_ (fun w => ?_); rotate_left; first | exact mark_wf _ _ _ w | exact fold_wf _ _ (fun m x hm => poison_wf _ _ hm) w | exact fold_wf _ _ (fun m x hm => by split; exact poison_wf _ _ hm; exact hm) w | exact write_wf _ _ w | exact mark_wf _ _ _ (write_wf _ _ w)) | intro s hs | split)

theorem keeps_abortAt {a : State} (v0 : State) (v1 : ℕ) (v2 : ℕ) (v3 : BitVec 16) (h0 : Keeps a v0) : KeepsSnd a (State.abortAt v0 v1 v2 v3) := by
  unfold State.abortAt
  try dsimp only
  repeat' (first | with_reducible assumption | with_reducible exact Keeps.refl _ | with_reducible apply Keeps.ite | with_reducible apply KeepsRes.ite | with_reducible apply KeepsFst.ite | with_reducible apply KeepsSnd.ite | with_reducible apply KeepsSnd.mk | with_reducible apply keeps_abortFetched | with_reducible apply keeps_stopCmd | (simp only [Keeps.lit]; with_reducible apply KeepsData.of) | (simp only [Keeps.lit]; with_reducible refine KeepsData.poke ?_ (fun w => ?_); rotate_left; first | exact mark_wf _ _ _ w | exact fold_wf _ _ (fun m x hm => poison_wf _ _ hm) w | exact fold_wf _ _ (fun m x hm => by split; exact poison_wf _ _ hm; exact hm) w | exact write_wf _ _ w | exact mark_wf _ _ _ (write_wf _ _ w)) | intro s hs | split)
theorem keeps_abortAt' {a : State} (v0 : State) (v1 : ℕ) (v2 : ℕ) (v3 : BitVec 16) (h0 : Keeps a v0) : Keeps a (State.abortAt v0 v1 v2 v3).2 := keeps_abortAt v0 v1 v2 v3 h0
theorem keeps_abortAt_e {a t : State} {v0 : State} {v1 : ℕ} {v2 : ℕ} {v3 : BitVec 16} {b : _} (e : State.abortAt v0 v1 v2 v3 = (b, t)) (h0 : Keeps a v0) : Keeps a t := KeepsSnd.eq e (keeps_abortAt v0 v1 v2 v3 h0)

theorem keeps_bodyAbort {a : State} (v0 : Sub) (v1 : State) (h0 : Keeps a v1) : KeepsRes a (bodyAbort v0 v1) := by
  unfold bodyAbort
  try dsimp only
  repeat' (first | with_reducible assumption | with_reducible exact Keeps.refl _ | with_reducible apply Keeps.ite | with_reducible apply KeepsRes.ite | with_reducible apply KeepsFst.ite | with_reducible apply KeepsSnd.ite | with_reducible apply KeepsRes.mk | with_reducible apply keeps_done | with_reducible apply keeps_done' | with_reducible apply keeps_abortAt | with_reducible apply keeps_abortAt' | (with_reducible refine keeps_abortAt_e (by with_reducible assumption) ?_) | with_reducible apply keeps_reject | with_reducible apply keeps_reject' | (simp only [Keeps.lit]; with_reducible apply KeepsData.of) | (simp only [Keeps.lit]; with_reducible refine KeepsData.poke ?_ (fun w => ?_); rotate_left; first | exact mark_wf _ _ _ w | exact fold_wf _ _ (fun m x hm => poison_wf _ _ hm) w | exact fold_wf _ _ (fun m x hm => by split; exact poison_wf _ _ hm; exact hm) w | exact write_wf _ _ w | exact mark_wf _ _ _ (write_wf _ _ w)) | intro s hs | split)
theorem keeps_bodyAbort' {a : State} (v0 : Sub) (v1 : State) (h0 : Keeps a v1) : Keeps a (bodyAbort v0 v1).s := keeps_bodyAbort v0 v1 h0

theorem keeps_endSq {a : State} (v0 : State) (v1 : ℕ) (v2 : ℕ) (v3 : Option Sub) (h0 : Keeps a v0) : KeepsSnd a (State.endSq v0 v1 v2 v3) := by
  unfold State.endSq
  try dsimp only
  repeat' (first | with_reducible assumption | with_reducible exact Keeps.refl _ | with_reducible apply Keeps.ite | with_reducible apply KeepsRes.ite | with_reducible apply KeepsFst.ite | with_reducible apply KeepsSnd.ite | with_reducible apply KeepsFst.mk | with_reducible apply KeepsSnd.mk | with_reducible apply KeepsRes.mk | with_reducible apply Keeps.id | with_reducible apply keeps_onSq | with_reducible apply keeps_settleSq | with_reducible apply keeps_onCh | with_reducible apply keeps_abortFetched | with_reducible apply keeps_stopCmd | (with_reducible refine Keeps.foldl _ ?_ ?_; intro s x hs; try dsimp only) | (with_reducible refine Keeps.foldl1 _ ?_ ?_; (intro p x hs; replace hs := KeepsFst.fst hs; try dsimp only)) | (with_reducible refine Keeps.foldl2 _ ?_ ?_; (intro p x hs; replace hs := KeepsSnd.snd hs; try dsimp only)) | (with_reducible refine KeepsFst.foldl _ ?_ ?_; (intro p x hs; replace hs := KeepsFst.fst hs; try dsimp only)) | (with_reducible refine KeepsSnd.foldl _ ?_ ?_; (intro p x hs; replace hs := KeepsSnd.snd hs; try dsimp only)) | (simp only [Keeps.lit]; with_reducible apply KeepsData.of) | (simp only [Keeps.lit]; with_reducible refine KeepsData.poke ?_ (fun w => ?_); rotate_left; first | exact mark_wf _ _ _ w | exact fold_wf _ _ (fun m x hm => poison_wf _ _ hm) w | exact fold_wf _ _ (fun m x hm => by split; exact poison_wf _ _ hm; exact hm) w | exact write_wf _ _ w | exact mark_wf _ _ _ (write_wf _ _ w)) | intro s hs | split | (with_reducible apply KeepsSnd.eq; with_reducible assumption) | (with_reducible apply KeepsFst.eq; with_reducible assumption))
theorem keeps_endSq' {a : State} (v0 : State) (v1 : ℕ) (v2 : ℕ) (v3 : Option Sub) (h0 : Keeps a v0) : Keeps a (State.endSq v0 v1 v2 v3).2 := keeps_endSq v0 v1 v2 v3 h0
theorem keeps_endSq_e {a t : State} {v0 : State} {v1 : ℕ} {v2 : ℕ} {v3 : Option Sub} {b : _} (e : State.endSq v0 v1 v2 v3 = (b, t)) (h0 : Keeps a v0) : Keeps a t := KeepsSnd.eq e (keeps_endSq v0 v1 v2 v3 h0)

theorem keeps_bodyNegotiate {a : State} (v0 : Sub) (v1 : State) (h0 : Keeps a v1) : KeepsRes a (bodyNegotiate v0 v1) := by
  unfold bodyNegotiate
  try dsimp only
  repeat' (first | with_reducible assumption | with_reducible exact Keeps.refl _ | with_reducible apply Keeps.ite | with_reducible apply KeepsRes.ite | with_reducible apply KeepsFst.ite | with_reducible apply KeepsSnd.ite | with_reducible apply KeepsRes.mk | with_reducible apply keeps_done | with_reducible apply keeps_done' | with_reducible apply keeps_onCh | with_reducible apply keeps_fail | with_reducible apply keeps_fail' | (simp only [Keeps.lit]; with_reducible apply KeepsData.of) | (simp only [Keeps.lit]; with_reducible refine KeepsData.poke ?_ (fun w => ?_); rotate_left; first | exact mark_wf _ _ _ w | exact fold_wf _ _ (fun m x hm => poison_wf _ _ hm) w | exact fold_wf _ _ (fun m x hm => by split; exact poison_wf _ _ hm; exact hm) w | exact write_wf _ _ w | exact mark_wf _ _ _ (write_wf _ _ w)) | intro s hs | split)
theorem keeps_bodyNegotiate' {a : State} (v0 : Sub) (v1 : State) (h0 : Keeps a v1) : Keeps a (bodyNegotiate v0 v1).s := keeps_bodyNegotiate v0 v1 h0

theorem keeps_bodyQueueCreate {a : State} (v0 : Sub) (v1 : State) (h0 : Keeps a v1) : KeepsRes a (bodyQueueCreate v0 v1) := by
  unfold bodyQueueCreate
  try dsimp only
  repeat' (first | with_reducible assumption | with_reducible exact Keeps.refl _ | with_reducible apply Keeps.ite | with_reducible apply KeepsRes.ite | with_reducible apply KeepsFst.ite | with_reducible apply KeepsSnd.ite | with_reducible apply KeepsRes.mk | with_reducible apply keeps_done | with_reducible apply keeps_done' | with_reducible apply keeps_onCq | with_reducible apply keeps_onSq | with_reducible apply keeps_onCh | with_reducible apply keeps_badParam | with_reducible apply keeps_badParam' | (simp only [Keeps.lit]; with_reducible apply KeepsData.of) | (simp only [Keeps.lit]; with_reducible refine KeepsData.poke ?_ (fun w => ?_); rotate_left; first | exact mark_wf _ _ _ w | exact fold_wf _ _ (fun m x hm => poison_wf _ _ hm) w | exact fold_wf _ _ (fun m x hm => by split; exact poison_wf _ _ hm; exact hm) w | exact write_wf _ _ w | exact mark_wf _ _ _ (write_wf _ _ w)) | intro s hs | split)
theorem keeps_bodyQueueCreate' {a : State} (v0 : Sub) (v1 : State) (h0 : Keeps a v1) : Keeps a (bodyQueueCreate v0 v1).s := keeps_bodyQueueCreate v0 v1 h0

theorem keeps_bodyQueueDelete {a : State} (v0 : Sub) (v1 : State) (h0 : Keeps a v1) : KeepsRes a (bodyQueueDelete v0 v1) := by
  unfold bodyQueueDelete
  try dsimp only
  repeat' (first | with_reducible assumption | with_reducible exact Keeps.refl _ | with_reducible apply Keeps.ite | with_reducible apply KeepsRes.ite | with_reducible apply KeepsFst.ite | with_reducible apply KeepsSnd.ite | with_reducible apply KeepsRes.mk | with_reducible apply keeps_done | with_reducible apply keeps_done' | with_reducible apply keeps_onCq | with_reducible apply keeps_onSq | with_reducible apply keeps_wait | with_reducible apply keeps_wait' | with_reducible apply keeps_onCmd | with_reducible apply keeps_badParam | with_reducible apply keeps_badParam' | with_reducible apply keeps_endSq | with_reducible apply keeps_endSq' | (with_reducible refine keeps_endSq_e (by with_reducible assumption) ?_) | (simp only [Keeps.lit]; with_reducible apply KeepsData.of) | (simp only [Keeps.lit]; with_reducible refine KeepsData.poke ?_ (fun w => ?_); rotate_left; first | exact mark_wf _ _ _ w | exact fold_wf _ _ (fun m x hm => poison_wf _ _ hm) w | exact fold_wf _ _ (fun m x hm => by split; exact poison_wf _ _ hm; exact hm) w | exact write_wf _ _ w | exact mark_wf _ _ _ (write_wf _ _ w)) | intro s hs | split)
theorem keeps_bodyQueueDelete' {a : State} (v0 : Sub) (v1 : State) (h0 : Keeps a v1) : Keeps a (bodyQueueDelete v0 v1).s := keeps_bodyQueueDelete v0 v1 h0

theorem keeps_disableSq0 {a : State} (v0 : State) (v1 : ℕ) (h0 : Keeps a v0) : Keeps a (State.disableSq0 v0 v1) := by
  unfold State.disableSq0
  try dsimp only
  repeat' (first | with_reducible assumption | with_reducible exact Keeps.refl _ | with_reducible apply Keeps.ite | with_reducible apply KeepsRes.ite | with_reducible apply KeepsFst.ite | with_reducible apply KeepsSnd.ite | with_reducible apply keeps_endSq | with_reducible apply keeps_endSq' | (with_reducible refine keeps_endSq_e (by with_reducible assumption) ?_) | (simp only [Keeps.lit]; with_reducible apply KeepsData.of) | (simp only [Keeps.lit]; with_reducible refine KeepsData.poke ?_ (fun w => ?_); rotate_left; first | exact mark_wf _ _ _ w | exact fold_wf _ _ (fun m x hm => poison_wf _ _ hm) w | exact fold_wf _ _ (fun m x hm => by split; exact poison_wf _ _ hm; exact hm) w | exact write_wf _ _ w | exact mark_wf _ _ _ (write_wf _ _ w)) | intro s hs | split)

theorem keeps_bodyFeatureGet {a : State} (v0 : Sub) (v1 : State) (h0 : Keeps a v1) : KeepsRes a (bodyFeatureGet v0 v1) := by
  unfold bodyFeatureGet
  try dsimp only
  repeat' (first | with_reducible assumption | with_reducible exact Keeps.refl _ | with_reducible apply KeepsRes.mk | with_reducible apply keeps_done | with_reducible apply keeps_done' | (simp only [Keeps.lit]; with_reducible apply KeepsData.of))
theorem keeps_bodyFeatureGet' {a : State} (v0 : Sub) (v1 : State) (h0 : Keeps a v1) : Keeps a (bodyFeatureGet v0 v1).s := keeps_bodyFeatureGet v0 v1 h0

theorem keeps_bodyStatusInterval {a : State} (v0 : Sub) (v1 : State) (h0 : Keeps a v1) : KeepsRes a (bodyStatusInterval v0 v1) := by
  unfold bodyStatusInterval
  try dsimp only
  repeat' (first | with_reducible assumption | with_reducible exact Keeps.refl _ | with_reducible apply Keeps.ite | with_reducible apply KeepsRes.ite | with_reducible apply KeepsFst.ite | with_reducible apply KeepsSnd.ite | with_reducible apply KeepsRes.mk | with_reducible apply keeps_done | with_reducible apply keeps_done' | with_reducible apply keeps_onCh | with_reducible apply keeps_badParam | with_reducible apply keeps_badParam' | (simp only [Keeps.lit]; with_reducible apply KeepsData.of) | (simp only [Keeps.lit]; with_reducible refine KeepsData.poke ?_ (fun w => ?_); rotate_left; first | exact mark_wf _ _ _ w | exact fold_wf _ _ (fun m x hm => poison_wf _ _ hm) w | exact fold_wf _ _ (fun m x hm => by split; exact poison_wf _ _ hm; exact hm) w | exact write_wf _ _ w | exact mark_wf _ _ _ (write_wf _ _ w)) | intro s hs | split)
theorem keeps_bodyStatusInterval' {a : State} (v0 : Sub) (v1 : State) (h0 : Keeps a v1) : Keeps a (bodyStatusInterval v0 v1).s := keeps_bodyStatusInterval v0 v1 h0

theorem keeps_bodyReserveWatermarks {a : State} (v0 : Sub) (v1 : State) (h0 : Keeps a v1) : KeepsRes a (bodyReserveWatermarks v0 v1) := by
  unfold bodyReserveWatermarks
  try dsimp only
  repeat' (first | with_reducible assumption | with_reducible exact Keeps.refl _ | with_reducible apply Keeps.ite | with_reducible apply KeepsRes.ite | with_reducible apply KeepsFst.ite | with_reducible apply KeepsSnd.ite | with_reducible apply KeepsRes.mk | with_reducible apply keeps_done | with_reducible apply keeps_done' | with_reducible apply keeps_onCh | with_reducible apply keeps_badParam | with_reducible apply keeps_badParam' | (simp only [Keeps.lit]; with_reducible apply KeepsData.of) | (simp only [Keeps.lit]; with_reducible refine KeepsData.poke ?_ (fun w => ?_); rotate_left; first | exact mark_wf _ _ _ w | exact fold_wf _ _ (fun m x hm => poison_wf _ _ hm) w | exact fold_wf _ _ (fun m x hm => by split; exact poison_wf _ _ hm; exact hm) w | exact write_wf _ _ w | exact mark_wf _ _ _ (write_wf _ _ w)) | intro s hs | split)
theorem keeps_bodyReserveWatermarks' {a : State} (v0 : Sub) (v1 : State) (h0 : Keeps a v1) : Keeps a (bodyReserveWatermarks v0 v1).s := keeps_bodyReserveWatermarks v0 v1 h0

theorem keeps_bodyChainNoticeRate {a : State} (v0 : Sub) (v1 : State) (h0 : Keeps a v1) : KeepsRes a (bodyChainNoticeRate v0 v1) := by
  unfold bodyChainNoticeRate
  try dsimp only
  repeat' (first | with_reducible assumption | with_reducible exact Keeps.refl _ | with_reducible apply Keeps.ite | with_reducible apply KeepsRes.ite | with_reducible apply KeepsFst.ite | with_reducible apply KeepsSnd.ite | with_reducible apply KeepsRes.mk | with_reducible apply keeps_done | with_reducible apply keeps_done' | with_reducible apply keeps_blockWide | with_reducible apply keeps_blockWide' | with_reducible apply keeps_badParam | with_reducible apply keeps_badParam' | (simp only [Keeps.lit]; with_reducible apply KeepsData.of) | (simp only [Keeps.lit]; with_reducible refine KeepsData.poke ?_ (fun w => ?_); rotate_left; first | exact mark_wf _ _ _ w | exact fold_wf _ _ (fun m x hm => poison_wf _ _ hm) w | exact fold_wf _ _ (fun m x hm => by split; exact poison_wf _ _ hm; exact hm) w | exact write_wf _ _ w | exact mark_wf _ _ _ (write_wf _ _ w)) | intro s hs | split)
theorem keeps_bodyChainNoticeRate' {a : State} (v0 : Sub) (v1 : State) (h0 : Keeps a v1) : Keeps a (bodyChainNoticeRate v0 v1).s := keeps_bodyChainNoticeRate v0 v1 h0

theorem keeps_deliver {a : State} (v0 : State) (v1 : ℕ) (v2 : List Byte) (v3 : Ext) (h0 : Keeps a v0) : KeepsRes a (State.deliver v0 v1 v2 v3) := by
  unfold State.deliver
  try dsimp only
  repeat' (first | with_reducible assumption | with_reducible exact Keeps.refl _ | with_reducible apply Keeps.ite | with_reducible apply KeepsRes.ite | with_reducible apply KeepsFst.ite | with_reducible apply KeepsSnd.ite | with_reducible apply KeepsRes.mk | with_reducible apply keeps_done | with_reducible apply keeps_done' | with_reducible apply keeps_poke | with_reducible apply keeps_fail | with_reducible apply keeps_fail' | with_reducible apply keeps_undefBuf | (simp only [Keeps.lit]; with_reducible apply KeepsData.of) | (simp only [Keeps.lit]; with_reducible refine KeepsData.poke ?_ (fun w => ?_); rotate_left; first | exact mark_wf _ _ _ w | exact fold_wf _ _ (fun m x hm => poison_wf _ _ hm) w | exact fold_wf _ _ (fun m x hm => by split; exact poison_wf _ _ hm; exact hm) w | exact write_wf _ _ w | exact mark_wf _ _ _ (write_wf _ _ w)) | intro s hs | split)
theorem keeps_deliver' {a : State} (v0 : State) (v1 : ℕ) (v2 : List Byte) (v3 : Ext) (h0 : Keeps a v0) : Keeps a (State.deliver v0 v1 v2 v3).s := keeps_deliver v0 v1 v2 v3 h0

theorem keeps_bodyIdentify {a : State} (v0 : Sub) (v1 : Ext) (v2 : State) (h0 : Keeps a v2) : KeepsRes a (bodyIdentify v0 v1 v2) := by
  unfold bodyIdentify
  try dsimp only
  repeat' (first | with_reducible assumption | with_reducible exact Keeps.refl _ | with_reducible apply Keeps.ite | with_reducible apply KeepsRes.ite | with_reducible apply KeepsFst.ite | with_reducible apply KeepsSnd.ite | with_reducible apply KeepsRes.mk | with_reducible apply keeps_done | with_reducible apply keeps_done' | with_reducible apply keeps_badParam | with_reducible apply keeps_badParam' | with_reducible apply keeps_fail | with_reducible apply keeps_fail' | with_reducible apply keeps_deliver | with_reducible apply keeps_deliver' | with_reducible apply keeps_undefBuf | (simp only [Keeps.lit]; with_reducible apply KeepsData.of) | (simp only [Keeps.lit]; with_reducible refine KeepsData.poke ?_ (fun w => ?_); rotate_left; first | exact mark_wf _ _ _ w | exact fold_wf _ _ (fun m x hm => poison_wf _ _ hm) w | exact fold_wf _ _ (fun m x hm => by split; exact poison_wf _ _ hm; exact hm) w | exact write_wf _ _ w | exact mark_wf _ _ _ (write_wf _ _ w)) | intro s hs | split)
theorem keeps_bodyIdentify' {a : State} (v0 : Sub) (v1 : Ext) (v2 : State) (h0 : Keeps a v2) : Keeps a (bodyIdentify v0 v1 v2).s := keeps_bodyIdentify v0 v1 v2 h0

theorem keeps_bodyLogRead {a : State} (v0 : Sub) (v1 : Ext) (v2 : State) (h0 : Keeps a v2) : KeepsRes a (bodyLogRead v0 v1 v2) := by
  unfold bodyLogRead
  try dsimp only
  repeat' (first | with_reducible assumption | with_reducible exact Keeps.refl _ | with_reducible apply Keeps.ite | with_reducible apply KeepsRes.ite | with_reducible apply KeepsFst.ite | with_reducible apply KeepsSnd.ite | with_reducible apply KeepsRes.mk | with_reducible apply keeps_done | with_reducible apply keeps_done' | with_reducible apply keeps_freeNat | with_reducible apply keeps_freeNat' | (with_reducible refine keeps_freeNat_e (by with_reducible assumption) ?_) | with_reducible apply keeps_badParam | with_reducible apply keeps_badParam' | with_reducible apply keeps_fail | with_reducible apply keeps_fail' | with_reducible apply keeps_deliver | with_reducible apply keeps_deliver' | with_reducible apply keeps_undefBuf | (simp only [Keeps.lit]; with_reducible apply KeepsData.of) | (simp only [Keeps.lit]; with_reducible refine KeepsData.poke ?_ (fun w => ?_); rotate_left; first | exact mark_wf _ _ _ w | exact fold_wf _ _ (fun m x hm => poison_wf _ _ hm) w | exact fold_wf _ _ (fun m x hm => by split; exact poison_wf _ _ hm; exact hm) w | exact write_wf _ _ w | exact mark_wf _ _ _ (write_wf _ _ w)) | intro s hs | split)
theorem keeps_bodyLogRead' {a : State} (v0 : Sub) (v1 : Ext) (v2 : State) (h0 : Keeps a v2) : Keeps a (bodyLogRead v0 v1 v2).s := keeps_bodyLogRead v0 v1 v2 h0

theorem keeps_bodyChamberConfig {a : State} (v0 : Sub) (v1 : Ext) (v2 : State) (h0 : Keeps a v2) : KeepsRes a (bodyChamberConfig v0 v1 v2) := by
  unfold bodyChamberConfig
  try dsimp only
  repeat' (first | with_reducible assumption | with_reducible exact Keeps.refl _ | with_reducible apply Keeps.ite | with_reducible apply KeepsRes.ite | with_reducible apply KeepsFst.ite | with_reducible apply KeepsSnd.ite | with_reducible apply KeepsFst.mk | with_reducible apply KeepsSnd.mk | with_reducible apply keeps_done | with_reducible apply keeps_done' | with_reducible apply keeps_reject | with_reducible apply keeps_reject' | with_reducible apply keeps_relevel | with_reducible apply keeps_onCh | with_reducible apply keeps_badParam | with_reducible apply keeps_badParam' | with_reducible apply keeps_fail | with_reducible apply keeps_fail' | with_reducible apply keeps_onUn | with_reducible apply keeps_dirtyChamber | (simp only [Keeps.lit]; with_reducible apply KeepsData.of) | (simp only [Keeps.lit]; with_reducible refine KeepsData.poke ?_ (fun w => ?_); rotate_left; first | exact mark_wf _ _ _ w | exact fold_wf _ _ (fun m x hm => poison_wf _ _ hm) w | exact fold_wf _ _ (fun m x hm => by split; exact poison_wf _ _ hm; exact hm) w | exact write_wf _ _ w | exact mark_wf _ _ _ (write_wf _ _ w)) | intro s hs | split | with_reducible apply KeepsRes.mk)
theorem keeps_bodyChamberConfig' {a : State} (v0 : Sub) (v1 : Ext) (v2 : State) (h0 : Keeps a v2) : Keeps a (bodyChamberConfig v0 v1 v2).s := keeps_bodyChamberConfig v0 v1 v2 h0

theorem keeps_logLeftovers {a : State} (v0 : State) (v1 : ℕ) (h0 : Keeps a v0) : Keeps a (State.logLeftovers v0 v1) := by
  unfold State.logLeftovers
  try dsimp only
  repeat' (first | with_reducible assumption | with_reducible exact Keeps.refl _ | with_reducible apply Keeps.ite | with_reducible apply KeepsRes.ite | with_reducible apply KeepsFst.ite | with_reducible apply KeepsSnd.ite | with_reducible apply KeepsFst.mk | with_reducible apply KeepsSnd.mk | with_reducible apply KeepsRes.mk | with_reducible apply Keeps.id | with_reducible apply keeps_logStatus | (with_reducible refine Keeps.foldl _ ?_ ?_; intro s x hs; try dsimp only) | (with_reducible refine Keeps.foldl1 _ ?_ ?_; (intro p x hs; replace hs := KeepsFst.fst hs; try dsimp only)) | (with_reducible refine Keeps.foldl2 _ ?_ ?_; (intro p x hs; replace hs := KeepsSnd.snd hs; try dsimp only)) | (with_reducible refine KeepsFst.foldl _ ?_ ?_; (intro p x hs; replace hs := KeepsFst.fst hs; try dsimp only)) | (with_reducible refine KeepsSnd.foldl _ ?_ ?_; (intro p x hs; replace hs := KeepsSnd.snd hs; try dsimp only)) | (simp only [Keeps.lit]; with_reducible apply KeepsData.of) | (simp only [Keeps.lit]; with_reducible refine KeepsData.poke ?_ (fun w => ?_); rotate_left; first | exact mark_wf _ _ _ w | exact fold_wf _ _ (fun m x hm => poison_wf _ _ hm) w | exact fold_wf _ _ (fun m x hm => by split; exact poison_wf _ _ hm; exact hm) w | exact write_wf _ _ w | exact mark_wf _ _ _ (write_wf _ _ w)) | intro s hs | split | (with_reducible apply KeepsSnd.eq; with_reducible assumption) | (with_reducible apply KeepsFst.eq; with_reducible assumption))

theorem keeps_bodyChamberQuiesce {a : State} (v0 : Sub) (v1 : State) (h0 : Keeps a v1) : KeepsRes a (bodyChamberQuiesce v0 v1) := by
  unfold bodyChamberQuiesce
  try dsimp only
  repeat' (first | with_reducible assumption | with_reducible exact Keeps.refl _ | with_reducible apply Keeps.ite | with_reducible apply KeepsRes.ite | with_reducible apply KeepsFst.ite | with_reducible apply KeepsSnd.ite | with_reducible apply KeepsFst.mk | with_reducible apply KeepsSnd.mk | with_reducible apply KeepsRes.mk | with_reducible apply Keeps.id | with_reducible apply keeps_logLeftovers | with_reducible apply keeps_onCh | with_reducible apply keeps_onCmd | with_reducible apply keeps_running | with_reducible apply keeps_running' | with_reducible apply keeps_ended | with_reducible apply keeps_ended' | with_reducible apply keeps_endSq | with_reducible apply keeps_endSq' | (with_reducible refine keeps_endSq_e (by with_reducible assumption) ?_) | (with_reducible refine Keeps.foldl _ ?_ ?_; intro s x hs; try dsimp only) | (with_reducible refine Keeps.foldl1 _ ?_ ?_; (intro p x hs; replace hs := KeepsFst.fst hs; try dsimp only)) | (with_reducible refine Keeps.foldl2 _ ?_ ?_; (intro p x hs; replace hs := KeepsSnd.snd hs; try dsimp only)) | (with_reducible refine KeepsFst.foldl _ ?_ ?_; (intro p x hs; replace hs := KeepsFst.fst hs; try dsimp only)) | (with_reducible refine KeepsSnd.foldl _ ?_ ?_; (intro p x hs; replace hs := KeepsSnd.snd hs; try dsimp only)) | (simp only [Keeps.lit]; with_reducible apply KeepsData.of) | (simp only [Keeps.lit]; with_reducible refine KeepsData.poke ?_ (fun w => ?_); rotate_left; first | exact mark_wf _ _ _ w | exact fold_wf _ _ (fun m x hm => poison_wf _ _ hm) w | exact fold_wf _ _ (fun m x hm => by split; exact poison_wf _ _ hm; exact hm) w | exact write_wf _ _ w | exact mark_wf _ _ _ (write_wf _ _ w)) | intro s hs | split | (with_reducible apply KeepsSnd.eq; with_reducible assumption) | (with_reducible apply KeepsFst.eq; with_reducible assumption))
theorem keeps_bodyChamberQuiesce' {a : State} (v0 : Sub) (v1 : State) (h0 : Keeps a v1) : Keeps a (bodyChamberQuiesce v0 v1).s := keeps_bodyChamberQuiesce v0 v1 h0

theorem keeps_bodyOf {a : State} (v0 : Sub) (v1 : Ext) (v2 : Bool) (v3 : State) (h0 : Keeps a v3) : KeepsRes a (bodyOf v0 v1 v2 v3) := by
  unfold bodyOf
  try dsimp only
  repeat' (first | with_reducible assumption | with_reducible exact Keeps.refl _ | with_reducible apply Keeps.ite | with_reducible apply KeepsRes.ite | with_reducible apply KeepsFst.ite | with_reducible apply KeepsSnd.ite | with_reducible apply KeepsRes.mk | with_reducible apply keeps_bodyStreamOpen | with_reducible apply keeps_bodyStreamOpen' | with_reducible apply keeps_bodySeal | with_reducible apply keeps_bodySeal' | with_reducible apply keeps_bodyDigest | with_reducible apply keeps_bodyDigest' | with_reducible apply keeps_bodyHmac | with_reducible apply keeps_bodyHmac' | with_reducible apply keeps_bodyLogRead | with_reducible apply keeps_bodyLogRead' | with_reducible apply keeps_bodyRegionDeclare | with_reducible apply keeps_bodyRegionDeclare' | with_reducible apply keeps_bodySyncSignal | with_reducible apply keeps_bodySyncSignal' | with_reducible apply keeps_bodyCondense | with_reducible apply keeps_bodyCondense' | with_reducible apply keeps_bodyVerify | with_reducible apply keeps_bodyVerify' | with_reducible apply keeps_bodyRegionRetire | with_reducible apply keeps_bodyRegionRetire' | with_reducible apply keeps_bodyStepMeasure | with_reducible apply keeps_bodyStepMeasure' | with_reducible apply keeps_bodyAbort | with_reducible apply keeps_bodyAbort' | with_reducible apply keeps_bodySyncAlloc | with_reducible apply keeps_bodySyncAlloc' | with_reducible apply keeps_bodySyncFree | with_reducible apply keeps_bodySyncFree' | with_reducible apply keeps_bodyWatchClear | with_reducible apply keeps_bodyWatchClear' | with_reducible apply keeps_bodyUnseal | with_reducible apply keeps_bodyUnseal' | with_reducible apply keeps_bodyWatchSet | with_reducible apply keeps_bodyWatchSet' | with_reducible apply keeps_bodyStreamSeek | with_reducible apply keeps_bodyStreamSeek' | with_reducible apply keeps_bodyBarrierJoin | with_reducible apply keeps_bodyBarrierJoin' | with_reducible apply keeps_bodyStreamCancel | with_reducible apply keeps_bodyStreamCancel' | with_reducible apply keeps_bodyStreamClose | with_reducible apply keeps_bodyStreamClose' | with_reducible apply keeps_bodyCapture | with_reducible apply keeps_bodyCapture' | with_reducible apply keeps_bodyK2Credit | with_reducible apply keeps_bodyK2Credit' | with_reducible apply keeps_bodyStepApply | with_reducible apply keeps_bodyStepApply' | with_reducible apply keeps_fail | with_reducible apply keeps_fail' | with_reducible apply keeps_bodyReplicaDigest | with_reducible apply keeps_bodyReplicaDigest' | with_reducible apply keeps_bodyAnchorSet | with_reducible apply keeps_bodyAnchorSet' | with_reducible apply keeps_bodyRestoreSlice | with_reducible apply keeps_bodyRestoreSlice' | with_reducible apply keeps_bodyIdentify | with_reducible apply keeps_bodyIdentify' | with_reducible apply keeps_bodyTierPlace | with_reducible apply keeps_bodyTierPlace' | with_reducible apply keeps_bodyRestore | with_reducible apply keeps_bodyRestore' | with_reducible apply keeps_bodyDeltaEmit | with_reducible apply keeps_bodyDeltaEmit' | (simp only [Keeps.lit]; with_reducible apply KeepsData.of) | (simp only [Keeps.lit]; with_reducible refine KeepsData.poke ?_ (fun w => ?_); rotate_left; first | exact mark_wf _ _ _ w | exact fold_wf _ _ (fun m x hm => poison_wf _ _ hm) w | exact fold_wf _ _ (fun m x hm => by split; exact poison_wf _ _ hm; exact hm) w | exact write_wf _ _ w | exact mark_wf _ _ _ (write_wf _ _ w)) | intro s hs | split)
theorem keeps_bodyOf' {a : State} (v0 : Sub) (v1 : Ext) (v2 : Bool) (v3 : State) (h0 : Keeps a v3) : Keeps a (bodyOf v0 v1 v2 v3).s := keeps_bodyOf v0 v1 v2 v3 h0

theorem keeps_partialStage {a : State} (v0 : State) (v1 : Sub) (h0 : Keeps a v0) : Keeps a (State.partialStage v0 v1) := by
  unfold State.partialStage
  try dsimp only
  repeat' (first | with_reducible assumption | with_reducible exact Keeps.refl _ | with_reducible apply Keeps.ite | with_reducible apply KeepsRes.ite | with_reducible apply KeepsFst.ite | with_reducible apply KeepsSnd.ite | with_reducible apply keeps_undefBuf | (simp only [Keeps.lit]; with_reducible apply KeepsData.of) | (simp only [Keeps.lit]; with_reducible refine KeepsData.poke ?_ (fun w => ?_); rotate_left; first | exact mark_wf _ _ _ w | exact fold_wf _ _ (fun m x hm => poison_wf _ _ hm) w | exact fold_wf _ _ (fun m x hm => by split; exact poison_wf _ _ hm; exact hm) w | exact write_wf _ _ w | exact mark_wf _ _ _ (write_wf _ _ w)) | intro s hs | split)

theorem keeps_stages {a : State} (v0 : State) (v1 : Sub) (v2 : Ext) (v3 : List Sub) (v4 : ℕ) (v5 : BitVec 64) (h0 : Keeps a v0) : KeepsRes a (State.stages v0 v1 v2 v3 v4 v5) := by
  induction v3 generalizing v0 v4 v5 with
  | nil => unfold State.stages; (try dsimp only); repeat' (first | with_reducible assumption | with_reducible exact Keeps.refl _ | with_reducible apply Keeps.ite | with_reducible apply KeepsRes.ite | with_reducible apply KeepsFst.ite | with_reducible apply KeepsSnd.ite | with_reducible apply KeepsFst.mk | with_reducible apply KeepsSnd.mk | with_reducible apply KeepsRes.mk | with_reducible apply Keeps.id | with_reducible apply keeps_onCmd | with_reducible apply keeps_ended | with_reducible apply keeps_ended' | with_reducible apply keeps_running | with_reducible apply keeps_running' | with_reducible apply keeps_bodyOf | with_reducible apply keeps_bodyOf' | with_reducible apply keeps_partialStage | (with_reducible refine Keeps.foldl _ ?_ ?_; intro s x hs; try dsimp only) | (with_reducible refine Keeps.foldl1 _ ?_ ?_; (intro p x hs; replace hs := KeepsFst.fst hs; try dsimp only)) | (with_reducible refine Keeps.foldl2 _ ?_ ?_; (intro p x hs; replace hs := KeepsSnd.snd hs; try dsimp only)) | (with_reducible refine KeepsFst.foldl _ ?_ ?_; (intro p x hs; replace hs := KeepsFst.fst hs; try dsimp only)) | (with_reducible refine KeepsSnd.foldl _ ?_ ?_; (intro p x hs; replace hs := KeepsSnd.snd hs; try dsimp only)) | with_reducible apply ih | (with_reducible apply KeepsRes.fst; with_reducible apply ih) | (with_reducible apply KeepsFst.fst; with_reducible apply ih) | (simp only [Keeps.lit]; with_reducible apply KeepsData.of) | (simp only [Keeps.lit]; with_reducible refine KeepsData.poke ?_ (fun w => ?_); rotate_left; first | exact mark_wf _ _ _ w | exact fold_wf _ _ (fun m x hm => poison_wf _ _ hm) w | exact fold_wf _ _ (fun m x hm => by split; exact poison_wf _ _ hm; exact hm) w | exact write_wf _ _ w | exact mark_wf _ _ _ (write_wf _ _ w)) | intro s hs | split | (with_reducible apply KeepsSnd.eq; with_reducible assumption) | (with_reducible apply KeepsFst.eq; with_reducible assumption))
  | cons x r ih => unfold State.stages; (try dsimp only); repeat' (first | with_reducible assumption | with_reducible exact Keeps.refl _ | with_reducible apply Keeps.ite | with_reducible apply KeepsRes.ite | with_reducible apply KeepsFst.ite | with_reducible apply KeepsSnd.ite | with_reducible apply KeepsFst.mk | with_reducible apply KeepsSnd.mk | with_reducible apply KeepsRes.mk | with_reducible apply Keeps.id | with_reducible apply keeps_onCmd | with_reducible apply keeps_ended | with_reducible apply keeps_ended' | with_reducible apply keeps_running | with_reducible apply keeps_running' | with_reducible apply keeps_bodyOf | with_reducible apply keeps_bodyOf' | with_reducible apply keeps_partialStage | (with_reducible refine Keeps.foldl _ ?_ ?_; intro s x hs; try dsimp only) | (with_reducible refine Keeps.foldl1 _ ?_ ?_; (intro p x hs; replace hs := KeepsFst.fst hs; try dsimp only)) | (with_reducible refine Keeps.foldl2 _ ?_ ?_; (intro p x hs; replace hs := KeepsSnd.snd hs; try dsimp only)) | (with_reducible refine KeepsFst.foldl _ ?_ ?_; (intro p x hs; replace hs := KeepsFst.fst hs; try dsimp only)) | (with_reducible refine KeepsSnd.foldl _ ?_ ?_; (intro p x hs; replace hs := KeepsSnd.snd hs; try dsimp only)) | with_reducible apply ih | (with_reducible apply KeepsRes.fst; with_reducible apply ih) | (with_reducible apply KeepsFst.fst; with_reducible apply ih) | (simp only [Keeps.lit]; with_reducible apply KeepsData.of) | (simp only [Keeps.lit]; with_reducible refine KeepsData.poke ?_ (fun w => ?_); rotate_left; first | exact mark_wf _ _ _ w | exact fold_wf _ _ (fun m x hm => poison_wf _ _ hm) w | exact fold_wf _ _ (fun m x hm => by split; exact poison_wf _ _ hm; exact hm) w | exact write_wf _ _ w | exact mark_wf _ _ _ (write_wf _ _ w)) | intro s hs | split | (with_reducible apply KeepsSnd.eq; with_reducible assumption) | (with_reducible apply KeepsFst.eq; with_reducible assumption))
theorem keeps_stages' {a : State} (v0 : State) (v1 : Sub) (v2 : Ext) (v3 : List Sub) (v4 : ℕ) (v5 : BitVec 64) (h0 : Keeps a v0) : Keeps a (State.stages v0 v1 v2 v3 v4 v5).s := keeps_stages v0 v1 v2 v3 v4 v5 h0

theorem keeps_bodyDovetail {a : State} (v0 : Sub) (v1 : Ext) (v2 : State) (h0 : Keeps a v2) : KeepsRes a (bodyDovetail v0 v1 v2) := by
  unfold bodyDovetail
  try dsimp only
  repeat' (first | with_reducible assumption | with_reducible exact Keeps.refl _ | with_reducible apply Keeps.ite | with_reducible apply KeepsRes.ite | with_reducible apply KeepsFst.ite | with_reducible apply KeepsSnd.ite | with_reducible apply KeepsRes.mk | with_reducible apply keeps_wait | with_reducible apply keeps_wait' | with_reducible apply keeps_onCmd | with_reducible apply keeps_stages | with_reducible apply keeps_stages' | (simp only [Keeps.lit]; with_reducible apply KeepsData.of) | (simp only [Keeps.lit]; with_reducible refine KeepsData.poke ?_ (fun w => ?_); rotate_left; first | exact mark_wf _ _ _ w | exact fold_wf _ _ (fun m x hm => poison_wf _ _ hm) w | exact fold_wf _ _ (fun m x hm => by split; exact poison_wf _ _ hm; exact hm) w | exact write_wf _ _ w | exact mark_wf _ _ _ (write_wf _ _ w)) | intro s hs | split)
theorem keeps_bodyDovetail' {a : State} (v0 : Sub) (v1 : Ext) (v2 : State) (h0 : Keeps a v2) : Keeps a (bodyDovetail v0 v1 v2).s := keeps_bodyDovetail v0 v1 v2 h0

theorem keeps_runDovetail {a : State} (v0 : State) (v1 : Sub) (v2 : List Sub) (v3 : Ext) (h0 : Keeps a v0) : Keeps a (State.runDovetail v0 v1 v2 v3) := by
  unfold State.runDovetail
  try dsimp only
  repeat' (first | with_reducible assumption | with_reducible exact Keeps.refl _ | with_reducible apply Keeps.ite | with_reducible apply KeepsRes.ite | with_reducible apply KeepsFst.ite | with_reducible apply KeepsSnd.ite | with_reducible apply keeps_bodyDovetail | with_reducible apply keeps_bodyDovetail' | with_reducible apply keeps_refuseSub | with_reducible apply keeps_accept | with_reducible apply keeps_runAccepted | (simp only [Keeps.lit]; with_reducible apply KeepsData.of) | (simp only [Keeps.lit]; with_reducible refine KeepsData.poke ?_ (fun w => ?_); rotate_left; first | exact mark_wf _ _ _ w | exact fold_wf _ _ (fun m x hm => poison_wf _ _ hm) w | exact fold_wf _ _ (fun m x hm => by split; exact poison_wf _ _ hm; exact hm) w | exact write_wf _ _ w | exact mark_wf _ _ _ (write_wf _ _ w)) | intro s hs | split)

theorem keeps_execIdentify {a : State} (v0 : Sub) (v1 : Ext) (v2 : State) (h0 : Keeps a v2) : KeepsOut a (execIdentify v0 v1 v2) := by
  unfold execIdentify
  try dsimp only
  repeat' (first | with_reducible assumption | with_reducible exact Keeps.refl _ | with_reducible apply KeepsOut.next | with_reducible apply keeps_runOp | with_reducible apply keeps_bodyIdentify | with_reducible apply keeps_bodyIdentify' | (simp only [Keeps.lit]; with_reducible apply KeepsData.of))

theorem keeps_execNegotiate {a : State} (v0 : Sub) (v1 : Ext) (v2 : State) (h0 : Keeps a v2) : KeepsOut a (execNegotiate v0 v1 v2) := by
  unfold execNegotiate
  try dsimp only
  repeat' (first | with_reducible assumption | with_reducible exact Keeps.refl _ | with_reducible apply KeepsOut.next | with_reducible apply keeps_runOp | with_reducible apply keeps_bodyNegotiate | with_reducible apply keeps_bodyNegotiate' | (simp only [Keeps.lit]; with_reducible apply KeepsData.of))

theorem keeps_execQueueCreate {a : State} (v0 : Sub) (v1 : Ext) (v2 : State) (h0 : Keeps a v2) : KeepsOut a (execQueueCreate v0 v1 v2) := by
  unfold execQueueCreate
  try dsimp only
  repeat' (first | with_reducible assumption | with_reducible exact Keeps.refl _ | with_reducible apply KeepsOut.next | with_reducible apply keeps_bodyQueueCreate | with_reducible apply keeps_bodyQueueCreate' | with_reducible apply keeps_runOp | (simp only [Keeps.lit]; with_reducible apply KeepsData.of))

theorem keeps_execQueueDelete {a : State} (v0 : Sub) (v1 : Ext) (v2 : State) (h0 : Keeps a v2) : KeepsOut a (execQueueDelete v0 v1 v2) := by
  unfold execQueueDelete
  try dsimp only
  repeat' (first | with_reducible assumption | with_reducible exact Keeps.refl _ | with_reducible apply KeepsOut.next | with_reducible apply keeps_runOp | with_reducible apply keeps_bodyQueueDelete | with_reducible apply keeps_bodyQueueDelete' | (simp only [Keeps.lit]; with_reducible apply KeepsData.of))

theorem keeps_execFeatureGet {a : State} (v0 : Sub) (v1 : Ext) (v2 : State) (h0 : Keeps a v2) : KeepsOut a (execFeatureGet v0 v1 v2) := by
  unfold execFeatureGet
  try dsimp only
  repeat' (first | with_reducible assumption | with_reducible exact Keeps.refl _ | with_reducible apply KeepsOut.next | with_reducible apply keeps_runOp | with_reducible apply keeps_bodyFeatureGet | with_reducible apply keeps_bodyFeatureGet' | (simp only [Keeps.lit]; with_reducible apply KeepsData.of))

theorem keeps_execStatusInterval {a : State} (v0 : Sub) (v1 : Ext) (v2 : State) (h0 : Keeps a v2) : KeepsOut a (execStatusInterval v0 v1 v2) := by
  unfold execStatusInterval
  try dsimp only
  repeat' (first | with_reducible assumption | with_reducible exact Keeps.refl _ | with_reducible apply KeepsOut.next | with_reducible apply keeps_runOp | with_reducible apply keeps_bodyStatusInterval | with_reducible apply keeps_bodyStatusInterval' | (simp only [Keeps.lit]; with_reducible apply KeepsData.of))

theorem keeps_execReserveWatermarks {a : State} (v0 : Sub) (v1 : Ext) (v2 : State) (h0 : Keeps a v2) : KeepsOut a (execReserveWatermarks v0 v1 v2) := by
  unfold execReserveWatermarks
  try dsimp only
  repeat' (first | with_reducible assumption | with_reducible exact Keeps.refl _ | with_reducible apply KeepsOut.next | with_reducible apply keeps_bodyReserveWatermarks | with_reducible apply keeps_bodyReserveWatermarks' | with_reducible apply keeps_runOp | (simp only [Keeps.lit]; with_reducible apply KeepsData.of))

theorem keeps_execChainNoticeRate {a : State} (v0 : Sub) (v1 : Ext) (v2 : State) (h0 : Keeps a v2) : KeepsOut a (execChainNoticeRate v0 v1 v2) := by
  unfold execChainNoticeRate
  try dsimp only
  repeat' (first | with_reducible assumption | with_reducible exact Keeps.refl _ | with_reducible apply KeepsOut.next | with_reducible apply keeps_bodyChainNoticeRate | with_reducible apply keeps_bodyChainNoticeRate' | with_reducible apply keeps_runOp | (simp only [Keeps.lit]; with_reducible apply KeepsData.of))

theorem keeps_execLogRead {a : State} (v0 : Sub) (v1 : Ext) (v2 : State) (h0 : Keeps a v2) : KeepsOut a (execLogRead v0 v1 v2) := by
  unfold execLogRead
  try dsimp only
  repeat' (first | with_reducible assumption | with_reducible exact Keeps.refl _ | with_reducible apply KeepsOut.next | with_reducible apply keeps_bodyLogRead | with_reducible apply keeps_bodyLogRead' | with_reducible apply keeps_runOp | (simp only [Keeps.lit]; with_reducible apply KeepsData.of))

theorem keeps_execChamberConfig {a : State} (v0 : Sub) (v1 : Ext) (v2 : State) (h0 : Keeps a v2) : KeepsOut a (execChamberConfig v0 v1 v2) := by
  unfold execChamberConfig
  try dsimp only
  repeat' (first | with_reducible assumption | with_reducible exact Keeps.refl _ | with_reducible apply KeepsOut.next | with_reducible apply keeps_bodyChamberConfig | with_reducible apply keeps_bodyChamberConfig' | with_reducible apply keeps_runOp | (simp only [Keeps.lit]; with_reducible apply KeepsData.of))

theorem keeps_execAbort {a : State} (v0 : Sub) (v1 : Ext) (v2 : State) (h0 : Keeps a v2) : KeepsOut a (execAbort v0 v1 v2) := by
  unfold execAbort
  try dsimp only
  repeat' (first | with_reducible assumption | with_reducible exact Keeps.refl _ | with_reducible apply KeepsOut.next | with_reducible apply keeps_runOp | with_reducible apply keeps_bodyAbort | with_reducible apply keeps_bodyAbort' | (simp only [Keeps.lit]; with_reducible apply KeepsData.of))

theorem keeps_execChamberQuiesce {a : State} (v0 : Sub) (v1 : Ext) (v2 : State) (h0 : Keeps a v2) : KeepsOut a (execChamberQuiesce v0 v1 v2) := by
  unfold execChamberQuiesce
  try dsimp only
  repeat' (first | with_reducible assumption | with_reducible exact Keeps.refl _ | with_reducible apply KeepsOut.next | with_reducible apply keeps_runOp | with_reducible apply keeps_bodyChamberQuiesce | with_reducible apply keeps_bodyChamberQuiesce' | (simp only [Keeps.lit]; with_reducible apply KeepsData.of))

theorem keeps_execTestOpcode {a : State} (v0 : Sub) (v1 : Ext) (v2 : State) (h0 : Keeps a v2) : KeepsOut a (execTestOpcode v0 v1 v2) := by
  unfold execTestOpcode
  split
  · exact KeepsOut.next h0
  · split
    · exact KeepsOut.next (keeps_refuseSub _ _ _ _ _ h0)
    · exact fun t e => by cases e

theorem keeps_execTwinEntry {a : State} (v0 : Twin) (v1 : Ext) (v2 : State) (h0 : Keeps a v2) : KeepsOut a (execTwinEntry v0 v1 v2) := by
  unfold execTwinEntry
  try dsimp only
  repeat' (first | with_reducible assumption | with_reducible exact Keeps.refl _ | with_reducible apply KeepsOut.next | with_reducible apply keeps_runTwin | with_reducible apply keeps_bodyOf | with_reducible apply keeps_bodyOf' | (simp only [Keeps.lit]; with_reducible apply KeepsData.of))

theorem keeps_execDovetail {a : State} (v0 : Sub) (v1 : Ext) (v2 : List Sub) (v3 : State) (h0 : Keeps a v3) : KeepsOut a (execDovetail v0 v1 v2 v3) := by
  unfold execDovetail
  try dsimp only
  repeat' (first | with_reducible assumption | with_reducible exact Keeps.refl _ | with_reducible apply KeepsOut.next | with_reducible apply keeps_runDovetail | (simp only [Keeps.lit]; with_reducible apply KeepsData.of))

theorem keeps_execAdminSqDisable {a : State} (v0 : Access) (v1 : ℕ) (v2 : State) (h0 : Keeps a v2) : KeepsOut a (execAdminSqDisable v0 v1 v2) := by
  unfold execAdminSqDisable
  try dsimp only
  repeat' (first | with_reducible assumption | with_reducible exact Keeps.refl _ | with_reducible apply KeepsOut.next | with_reducible apply Keeps.ite | with_reducible apply KeepsRes.ite | with_reducible apply KeepsFst.ite | with_reducible apply KeepsSnd.ite | with_reducible apply keeps_disableSq0 | with_reducible apply keeps_pageWrite | (simp only [Keeps.lit]; with_reducible apply KeepsData.of) | (simp only [Keeps.lit]; with_reducible refine KeepsData.poke ?_ (fun w => ?_); rotate_left; first | exact mark_wf _ _ _ w | exact fold_wf _ _ (fun m x hm => poison_wf _ _ hm) w | exact fold_wf _ _ (fun m x hm => by split; exact poison_wf _ _ hm; exact hm) w | exact write_wf _ _ w | exact mark_wf _ _ _ (write_wf _ _ w)) | intro s hs | split)

end Sys2Proof.Laws
end

