-- ==== Sys2Proof/Laws/KeepsRegs.lean ====
section
/-! SUPPORT. Every function of Machine/Regs.lean that answers a state keeps what no command may change. -/

namespace Sys2Proof.Laws
open Sys2Proof Sys2Proof.Machine
set_option linter.unreachableTactic false
set_option linter.unusedTactic false
set_option linter.unusedVariables false
set_option linter.unusedSimpArgs false
set_option maxRecDepth 4000

theorem keeps_clearGlobal {a : State} (v0 : State) (v1 : ℕ) (h0 : Keeps a v0) : Keeps a (State.clearGlobal v0 v1) := by
  unfold State.clearGlobal
  try dsimp only
  repeat' (first | with_reducible assumption | with_reducible exact Keeps.refl _ | with_reducible apply Keeps.ite | with_reducible apply KeepsRes.ite | with_reducible apply KeepsFst.ite | with_reducible apply KeepsSnd.ite | (simp only [Keeps.lit]; with_reducible apply KeepsData.of) | (simp only [Keeps.lit]; with_reducible refine KeepsData.poke ?_ (fun w => ?_); rotate_left; first | exact mark_wf _ _ _ w | exact fold_wf _ _ (fun m x hm => poison_wf _ _ hm) w | exact fold_wf _ _ (fun m x hm => by split; exact poison_wf _ _ hm; exact hm) w | exact write_wf _ _ w | exact mark_wf _ _ _ (write_wf _ _ w)) | intro s hs | split)

theorem keeps_clearPage {a : State} (v0 : State) (v1 : ℕ) (v2 : ℕ) (h0 : Keeps a v0) : Keeps a (State.clearPage v0 v1 v2) := by
  unfold State.clearPage
  try dsimp only
  repeat' (first | with_reducible assumption | with_reducible exact Keeps.refl _ | with_reducible apply Keeps.ite | with_reducible apply KeepsRes.ite | with_reducible apply KeepsFst.ite | with_reducible apply KeepsSnd.ite | with_reducible apply KeepsFst.mk | with_reducible apply KeepsSnd.mk | with_reducible apply KeepsRes.mk | with_reducible apply keeps_onCapRegs | with_reducible apply keeps_onSite | with_reducible apply keeps_onUn | (simp only [Keeps.lit]; with_reducible apply KeepsData.of) | (simp only [Keeps.lit]; with_reducible refine KeepsData.poke ?_ (fun w => ?_); rotate_left; first | exact mark_wf _ _ _ w | exact fold_wf _ _ (fun m x hm => poison_wf _ _ hm) w | exact fold_wf _ _ (fun m x hm => by split; exact poison_wf _ _ hm; exact hm) w | exact write_wf _ _ w | exact mark_wf _ _ _ (write_wf _ _ w)) | intro s hs | split)

theorem keeps_readEffects {a : State} (v0 : State) (v1 : ℕ) (h0 : Keeps a v0) : Keeps a (State.readEffects v0 v1) := by
  unfold State.readEffects
  try dsimp only
  repeat' (first | with_reducible assumption | with_reducible exact Keeps.refl _ | with_reducible apply Keeps.ite | with_reducible apply KeepsRes.ite | with_reducible apply KeepsFst.ite | with_reducible apply KeepsSnd.ite | with_reducible apply keeps_clearPage | with_reducible apply keeps_clearGlobal | with_reducible apply keeps_readState | with_reducible apply keeps_readState' | (with_reducible refine keeps_readState_e (by with_reducible assumption) ?_) | (simp only [Keeps.lit]; with_reducible apply KeepsData.of) | (simp only [Keeps.lit]; with_reducible refine KeepsData.poke ?_ (fun w => ?_); rotate_left; first | exact mark_wf _ _ _ w | exact fold_wf _ _ (fun m x hm => poison_wf _ _ hm) w | exact fold_wf _ _ (fun m x hm => by split; exact poison_wf _ _ hm; exact hm) w | exact write_wf _ _ w | exact mark_wf _ _ _ (write_wf _ _ w)) | intro s hs | split)

theorem keeps_setLatch {a : State} (v0 : State) (v1 : Access) (v2 : Option (ℕ × BitVec 32)) (h0 : Keeps a v0) : Keeps a (State.setLatch v0 v1 v2) := by
  unfold State.setLatch
  try dsimp only
  repeat' (first | with_reducible assumption | with_reducible exact Keeps.refl _ | (simp only [Keeps.lit]; with_reducible apply KeepsData.of))

theorem keeps_readDark {a : State} (v0 : State) (v1 : Access) (v2 : ℕ) (h0 : Keeps a v0) : Keeps a (State.readDark v0 v1 v2) := by
  unfold State.readDark
  try dsimp only
  repeat' (first | with_reducible assumption | with_reducible exact Keeps.refl _ | with_reducible apply keeps_answer | with_reducible apply keeps_lampDenied | with_reducible apply keeps_setLatch | (simp only [Keeps.lit]; with_reducible apply KeepsData.of))

theorem keeps_readWord {a : State} (v0 : State) (v1 : Access) (v2 : ℕ) (h0 : Keeps a v0) : Keeps a (State.readWord v0 v1 v2) := by
  unfold State.readWord
  try dsimp only
  repeat' (first | with_reducible assumption | with_reducible exact Keeps.refl _ | with_reducible apply Keeps.ite | with_reducible apply KeepsRes.ite | with_reducible apply KeepsFst.ite | with_reducible apply KeepsSnd.ite | with_reducible apply keeps_answer | with_reducible apply keeps_readEffects | with_reducible apply keeps_setLatch | (simp only [Keeps.lit]; with_reducible apply KeepsData.of) | (simp only [Keeps.lit]; with_reducible refine KeepsData.poke ?_ (fun w => ?_); rotate_left; first | exact mark_wf _ _ _ w | exact fold_wf _ _ (fun m x hm => poison_wf _ _ hm) w | exact fold_wf _ _ (fun m x hm => by split; exact poison_wf _ _ hm; exact hm) w | exact write_wf _ _ w | exact mark_wf _ _ _ (write_wf _ _ w)) | intro s hs | split)

theorem keeps_readSync {a : State} (v0 : State) (v1 : Access) (v2 : ℕ) (h0 : Keeps a v0) : Keeps a (State.readSync v0 v1 v2) := by
  unfold State.readSync
  try dsimp only
  repeat' (first | with_reducible assumption | with_reducible exact Keeps.refl _ | with_reducible apply Keeps.ite | with_reducible apply KeepsRes.ite | with_reducible apply KeepsFst.ite | with_reducible apply KeepsSnd.ite | with_reducible apply keeps_readDark | with_reducible apply keeps_refuse | with_reducible apply keeps_syncForbid | with_reducible apply keeps_setLatch | with_reducible apply keeps_readWord | (simp only [Keeps.lit]; with_reducible apply KeepsData.of) | (simp only [Keeps.lit]; with_reducible refine KeepsData.poke ?_ (fun w => ?_); rotate_left; first | exact mark_wf _ _ _ w | exact fold_wf _ _ (fun m x hm => poison_wf _ _ hm) w | exact fold_wf _ _ (fun m x hm => by split; exact poison_wf _ _ hm; exact hm) w | exact write_wf _ _ w | exact mark_wf _ _ _ (write_wf _ _ w)) | intro s hs | split)

theorem keeps_readDigest {a : State} (v0 : State) (v1 : Access) (v2 : ℕ) (h0 : Keeps a v0) : Keeps a (State.readDigest v0 v1 v2) := by
  unfold State.readDigest
  try dsimp only
  repeat' (first | with_reducible assumption | with_reducible exact Keeps.refl _ | with_reducible apply Keeps.ite | with_reducible apply KeepsRes.ite | with_reducible apply KeepsFst.ite | with_reducible apply KeepsSnd.ite | with_reducible apply keeps_wantDom | with_reducible apply keeps_refuse | with_reducible apply keeps_setLatch | with_reducible apply keeps_readWord | (simp only [Keeps.lit]; with_reducible apply KeepsData.of) | (simp only [Keeps.lit]; with_reducible refine KeepsData.poke ?_ (fun w => ?_); rotate_left; first | exact mark_wf _ _ _ w | exact fold_wf _ _ (fun m x hm => poison_wf _ _ hm) w | exact fold_wf _ _ (fun m x hm => by split; exact poison_wf _ _ hm; exact hm) w | exact write_wf _ _ w | exact mark_wf _ _ _ (write_wf _ _ w)) | intro s hs | split)

theorem keeps_readReg {a : State} (v0 : State) (v1 : Access) (v2 : ℕ) (h0 : Keeps a v0) : Keeps a (State.readReg v0 v1 v2) := by
  unfold State.readReg
  try dsimp only
  repeat' (first | with_reducible assumption | with_reducible exact Keeps.refl _ | with_reducible apply Keeps.ite | with_reducible apply KeepsRes.ite | with_reducible apply KeepsFst.ite | with_reducible apply KeepsSnd.ite | with_reducible apply keeps_answer | with_reducible apply keeps_readDark | with_reducible apply keeps_readSync | with_reducible apply keeps_refuse | with_reducible apply keeps_setLatch | with_reducible apply keeps_readWord | with_reducible apply keeps_readDigest | (simp only [Keeps.lit]; with_reducible apply KeepsData.of) | (simp only [Keeps.lit]; with_reducible refine KeepsData.poke ?_ (fun w => ?_); rotate_left; first | exact mark_wf _ _ _ w | exact fold_wf _ _ (fun m x hm => poison_wf _ _ hm) w | exact fold_wf _ _ (fun m x hm => by split; exact poison_wf _ _ hm; exact hm) w | exact write_wf _ _ w | exact mark_wf _ _ _ (write_wf _ _ w)) | intro s hs | split)

theorem keeps_execReadClearAccess {a : State} (v0 : Access) (v1 : ℕ) (v2 : State) (h0 : Keeps a v2) : KeepsOut a (execReadClearAccess v0 v1 v2) := by
  unfold execReadClearAccess
  try dsimp only
  repeat' (first | with_reducible assumption | with_reducible exact Keeps.refl _ | with_reducible apply KeepsOut.next | with_reducible apply keeps_readReg | (simp only [Keeps.lit]; with_reducible apply KeepsData.of))

theorem keeps_execHalfWordRead {a : State} (v0 : Access) (v1 : ℕ) (v2 : State) (h0 : Keeps a v2) : KeepsOut a (execHalfWordRead v0 v1 v2) := by
  unfold execHalfWordRead
  try dsimp only
  repeat' (first | with_reducible assumption | with_reducible exact Keeps.refl _ | with_reducible apply KeepsOut.next | with_reducible apply keeps_readReg | (simp only [Keeps.lit]; with_reducible apply KeepsData.of))

theorem keeps_execRsvWmRead {a : State} (v0 : Access) (v1 : ℕ) (v2 : State) (h0 : Keeps a v2) : KeepsOut a (execRsvWmRead v0 v1 v2) := by
  unfold execRsvWmRead
  try dsimp only
  repeat' (first | with_reducible assumption | with_reducible exact Keeps.refl _ | with_reducible apply KeepsOut.next | with_reducible apply Keeps.ite | with_reducible apply KeepsRes.ite | with_reducible apply KeepsFst.ite | with_reducible apply KeepsSnd.ite | with_reducible apply keeps_readReg | (simp only [Keeps.lit]; with_reducible apply KeepsData.of) | (simp only [Keeps.lit]; with_reducible refine KeepsData.poke ?_ (fun w => ?_); rotate_left; first | exact mark_wf _ _ _ w | exact fold_wf _ _ (fun m x hm => poison_wf _ _ hm) w | exact fold_wf _ _ (fun m x hm => by split; exact poison_wf _ _ hm; exact hm) w | exact write_wf _ _ w | exact mark_wf _ _ _ (write_wf _ _ w)) | intro s hs | split)

theorem keeps_execDgtStateRead {a : State} (v0 : Access) (v1 : ℕ) (v2 : State) (h0 : Keeps a v2) : KeepsOut a (execDgtStateRead v0 v1 v2) := by
  unfold execDgtStateRead
  try dsimp only
  repeat' (first | with_reducible assumption | with_reducible exact Keeps.refl _ | with_reducible apply KeepsOut.next | with_reducible apply Keeps.ite | with_reducible apply KeepsRes.ite | with_reducible apply KeepsFst.ite | with_reducible apply KeepsSnd.ite | with_reducible apply keeps_readReg | (simp only [Keeps.lit]; with_reducible apply KeepsData.of) | (simp only [Keeps.lit]; with_reducible refine KeepsData.poke ?_ (fun w => ?_); rotate_left; first | exact mark_wf _ _ _ w | exact fold_wf _ _ (fun m x hm => poison_wf _ _ hm) w | exact fold_wf _ _ (fun m x hm => by split; exact poison_wf _ _ hm; exact hm) w | exact write_wf _ _ w | exact mark_wf _ _ _ (write_wf _ _ w)) | intro s hs | split)

theorem keeps_onPort {a : State} (v0 : State) (v1 : PortRegs → PortRegs) (h0 : Keeps a v0) : Keeps a (State.onPort v0 v1) := by
  unfold State.onPort
  try dsimp only
  repeat' (first | with_reducible assumption | with_reducible exact Keeps.refl _ | (simp only [Keeps.lit]; with_reducible apply KeepsData.of))

theorem keeps_legal {a : State} (v0 : State) (v1 : Bool) (v2 : ℕ) (v3 : State → State) (h0 : Keeps a v0) (h1 : ∀ s, Keeps a s → Keeps a (v3 s)) : Keeps a (State.legal v0 v1 v2 v3) := by
  unfold State.legal
  try dsimp only
  repeat' (first | with_reducible assumption | with_reducible exact Keeps.refl _ | with_reducible apply Keeps.ite | with_reducible apply KeepsRes.ite | with_reducible apply KeepsFst.ite | with_reducible apply KeepsSnd.ite | with_reducible apply h1 | with_reducible apply keeps_ignoredWrite | (simp only [Keeps.lit]; with_reducible apply KeepsData.of) | (simp only [Keeps.lit]; with_reducible refine KeepsData.poke ?_ (fun w => ?_); rotate_left; first | exact mark_wf _ _ _ w | exact fold_wf _ _ (fun m x hm => poison_wf _ _ hm) w | exact fold_wf _ _ (fun m x hm => by split; exact poison_wf _ _ hm; exact hm) w | exact write_wf _ _ w | exact mark_wf _ _ _ (write_wf _ _ w)) | intro s hs | split)

theorem keeps_pwrCtl {a : State} (v0 : State) (v1 : Bool) (v2 : Bool) (h0 : Keeps a v0) : Keeps a (State.pwrCtl v0 v1 v2) := by
  unfold State.pwrCtl
  try dsimp only
  repeat' (first | with_reducible assumption | with_reducible exact Keeps.refl _ | with_reducible apply Keeps.ite | with_reducible apply KeepsRes.ite | with_reducible apply KeepsFst.ite | with_reducible apply KeepsSnd.ite | with_reducible apply keeps_offReq | with_reducible apply keeps_wakeReq | (simp only [Keeps.lit]; with_reducible apply KeepsData.of) | (simp only [Keeps.lit]; with_reducible refine KeepsData.poke ?_ (fun w => ?_); rotate_left; first | exact mark_wf _ _ _ w | exact fold_wf _ _ (fun m x hm => poison_wf _ _ hm) w | exact fold_wf _ _ (fun m x hm => by split; exact poison_wf _ _ hm; exact hm) w | exact write_wf _ _ w | exact mark_wf _ _ _ (write_wf _ _ w)) | intro s hs | split)

theorem keeps_smpCtl {a : State} (v0 : State) (v1 : BitVec 32) (h0 : Keeps a v0) : Keeps a (State.smpCtl v0 v1) := by
  unfold State.smpCtl
  try dsimp only
  repeat' (first | with_reducible assumption | with_reducible exact Keeps.refl _ | with_reducible apply Keeps.ite | with_reducible apply KeepsRes.ite | with_reducible apply KeepsFst.ite | with_reducible apply KeepsSnd.ite | with_reducible apply keeps_clearSump | with_reducible apply keeps_log | with_reducible apply keeps_cause | (simp only [Keeps.lit]; with_reducible apply KeepsData.of) | (simp only [Keeps.lit]; with_reducible refine KeepsData.poke ?_ (fun w => ?_); rotate_left; first | exact mark_wf _ _ _ w | exact fold_wf _ _ (fun m x hm => poison_wf _ _ hm) w | exact fold_wf _ _ (fun m x hm => by split; exact poison_wf _ _ hm; exact hm) w | exact write_wf _ _ w | exact mark_wf _ _ _ (write_wf _ _ w)) | intro s hs | split)

theorem keeps_putGlobal32 {a : State} (v0 : State) (v1 : ℕ) (v2 : BitVec 32) (v3 : Image) (h0 : Keeps a v0) : Keeps a (State.putGlobal32 v0 v1 v2 v3) := by
  unfold State.putGlobal32
  try dsimp only
  repeat' (first | with_reducible assumption | with_reducible exact Keeps.refl _ | with_reducible apply Keeps.ite | with_reducible apply KeepsRes.ite | with_reducible apply KeepsFst.ite | with_reducible apply KeepsSnd.ite | with_reducible apply keeps_haltCtl | with_reducible apply keeps_applyIlv | with_reducible apply keeps_pwrCtl | with_reducible apply keeps_lampCtl | with_reducible apply keeps_onPort | with_reducible apply keeps_legal | with_reducible apply keeps_loadFirmware | with_reducible apply keeps_smpCtl | with_reducible apply keeps_ignoredWrite | (simp only [Keeps.lit]; with_reducible apply KeepsData.of) | (simp only [Keeps.lit]; with_reducible refine KeepsData.poke ?_ (fun w => ?_); rotate_left; first | exact mark_wf _ _ _ w | exact fold_wf _ _ (fun m x hm => poison_wf _ _ hm) w | exact fold_wf _ _ (fun m x hm => by split; exact poison_wf _ _ hm; exact hm) w | exact write_wf _ _ w | exact mark_wf _ _ _ (write_wf _ _ w)) | intro s hs | split)

theorem keeps_putIlv {a : State} (v0 : State) (v1 : ℕ) (v2 : ℕ) (v3 : ℕ) (v4 : BitVec 64) (h0 : Keeps a v0) : Keeps a (State.putIlv v0 v1 v2 v3 v4) := by
  unfold State.putIlv
  try dsimp only
  repeat' (first | with_reducible assumption | with_reducible exact Keeps.refl _ | with_reducible apply Keeps.ite | with_reducible apply KeepsRes.ite | with_reducible apply KeepsFst.ite | with_reducible apply KeepsSnd.ite | with_reducible apply keeps_onPort | with_reducible apply keeps_legal | (simp only [Keeps.lit]; with_reducible apply KeepsData.of) | (simp only [Keeps.lit]; with_reducible refine KeepsData.poke ?_ (fun w => ?_); rotate_left; first | exact mark_wf _ _ _ w | exact fold_wf _ _ (fun m x hm => poison_wf _ _ hm) w | exact fold_wf _ _ (fun m x hm => by split; exact poison_wf _ _ hm; exact hm) w | exact write_wf _ _ w | exact mark_wf _ _ _ (write_wf _ _ w)) | intro s hs | split)

theorem keeps_putGlobal64 {a : State} (v0 : State) (v1 : ℕ) (v2 : BitVec 64) (h0 : Keeps a v0) : Keeps a (State.putGlobal64 v0 v1 v2) := by
  unfold State.putGlobal64
  try dsimp only
  repeat' (first | with_reducible assumption | with_reducible exact Keeps.refl _ | with_reducible apply Keeps.ite | with_reducible apply KeepsRes.ite | with_reducible apply KeepsFst.ite | with_reducible apply KeepsSnd.ite | with_reducible apply keeps_spillCons | with_reducible apply keeps_putIlv | with_reducible apply keeps_legal | with_reducible apply keeps_ignoredWrite | (simp only [Keeps.lit]; with_reducible apply KeepsData.of) | (simp only [Keeps.lit]; with_reducible refine KeepsData.poke ?_ (fun w => ?_); rotate_left; first | exact mark_wf _ _ _ w | exact fold_wf _ _ (fun m x hm => poison_wf _ _ hm) w | exact fold_wf _ _ (fun m x hm => by split; exact poison_wf _ _ hm; exact hm) w | exact write_wf _ _ w | exact mark_wf _ _ _ (write_wf _ _ w)) | intro s hs | split)

theorem keeps_sqCfg {a : State} (v0 : State) (v1 : ℕ) (v2 : BitVec 32) (h0 : Keeps a v0) : Keeps a (State.sqCfg v0 v1 v2) := by
  unfold State.sqCfg
  try dsimp only
  repeat' (first | with_reducible assumption | with_reducible exact Keeps.refl _ | with_reducible apply Keeps.ite | with_reducible apply KeepsRes.ite | with_reducible apply KeepsFst.ite | with_reducible apply KeepsSnd.ite | with_reducible apply keeps_onSq | with_reducible apply keeps_enableAdmin | with_reducible apply keeps_disableSq0 | with_reducible apply keeps_ignoredWrite | (simp only [Keeps.lit]; with_reducible apply KeepsData.of) | (simp only [Keeps.lit]; with_reducible refine KeepsData.poke ?_ (fun w => ?_); rotate_left; first | exact mark_wf _ _ _ w | exact fold_wf _ _ (fun m x hm => poison_wf _ _ hm) w | exact fold_wf _ _ (fun m x hm => by split; exact poison_wf _ _ hm; exact hm) w | exact write_wf _ _ w | exact mark_wf _ _ _ (write_wf _ _ w)) | intro s hs | split)

theorem keeps_cqCfg {a : State} (v0 : State) (v1 : ℕ) (v2 : ℕ) (v3 : BitVec 32) (h0 : Keeps a v0) : Keeps a (State.cqCfg v0 v1 v2 v3) := by
  unfold State.cqCfg
  try dsimp only
  repeat' (first | with_reducible assumption | with_reducible exact Keeps.refl _ | with_reducible apply Keeps.ite | with_reducible apply KeepsRes.ite | with_reducible apply KeepsFst.ite | with_reducible apply KeepsSnd.ite | with_reducible apply keeps_onCq | with_reducible apply keeps_enableAdmin | with_reducible apply keeps_disableCq0 | with_reducible apply keeps_ignoredWrite | (simp only [Keeps.lit]; with_reducible apply KeepsData.of) | (simp only [Keeps.lit]; with_reducible refine KeepsData.poke ?_ (fun w => ?_); rotate_left; first | exact mark_wf _ _ _ w | exact fold_wf _ _ (fun m x hm => poison_wf _ _ hm) w | exact fold_wf _ _ (fun m x hm => by split; exact poison_wf _ _ hm; exact hm) w | exact write_wf _ _ w | exact mark_wf _ _ _ (write_wf _ _ w)) | intro s hs | split)

theorem keeps_kick {a : State} (v0 : State) (v1 : ℕ) (v2 : BitVec 32) (v3 : Ext) (h0 : Keeps a v0) : Keeps a (State.kick v0 v1 v2 v3) := by
  unfold State.kick
  try dsimp only
  repeat' (first | with_reducible assumption | with_reducible exact Keeps.refl _ | with_reducible apply Keeps.ite | with_reducible apply KeepsRes.ite | with_reducible apply KeepsFst.ite | with_reducible apply KeepsSnd.ite | with_reducible apply KeepsFst.mk | with_reducible apply KeepsSnd.mk | with_reducible apply KeepsRes.mk | with_reducible apply Keeps.id | with_reducible apply keeps_sdxPoll | (with_reducible refine Keeps.foldl _ ?_ ?_; intro s x hs; try dsimp only) | (with_reducible refine Keeps.foldl1 _ ?_ ?_; (intro p x hs; replace hs := KeepsFst.fst hs; try dsimp only)) | (with_reducible refine Keeps.foldl2 _ ?_ ?_; (intro p x hs; replace hs := KeepsSnd.snd hs; try dsimp only)) | (with_reducible refine KeepsFst.foldl _ ?_ ?_; (intro p x hs; replace hs := KeepsFst.fst hs; try dsimp only)) | (with_reducible refine KeepsSnd.foldl _ ?_ ?_; (intro p x hs; replace hs := KeepsSnd.snd hs; try dsimp only)) | (simp only [Keeps.lit]; with_reducible apply KeepsData.of) | (simp only [Keeps.lit]; with_reducible refine KeepsData.poke ?_ (fun w => ?_); rotate_left; first | exact mark_wf _ _ _ w | exact fold_wf _ _ (fun m x hm => poison_wf _ _ hm) w | exact fold_wf _ _ (fun m x hm => by split; exact poison_wf _ _ hm; exact hm) w | exact write_wf _ _ w | exact mark_wf _ _ _ (write_wf _ _ w)) | intro s hs | split | (with_reducible apply KeepsSnd.eq; with_reducible assumption) | (with_reducible apply KeepsFst.eq; with_reducible assumption))

theorem keeps_putPage32 {a : State} (v0 : State) (v1 : ℕ) (v2 : ℕ) (v3 : BitVec 32) (v4 : Ext) (h0 : Keeps a v0) : Keeps a (State.putPage32 v0 v1 v2 v3 v4) := by
  unfold State.putPage32
  try dsimp only
  repeat' (first | with_reducible assumption | with_reducible exact Keeps.refl _ | with_reducible apply Keeps.ite | with_reducible apply KeepsRes.ite | with_reducible apply KeepsFst.ite | with_reducible apply KeepsSnd.ite | with_reducible apply keeps_kick | with_reducible apply keeps_headWrite | with_reducible apply keeps_tailWrite | with_reducible apply keeps_onCapRegs | with_reducible apply keeps_legal | with_reducible apply keeps_onSite | with_reducible apply keeps_onCh | with_reducible apply keeps_ignoredWrite | with_reducible apply keeps_sqCfg | with_reducible apply keeps_cqCfg | with_reducible apply keeps_onUn | (simp only [Keeps.lit]; with_reducible apply KeepsData.of) | (simp only [Keeps.lit]; with_reducible refine KeepsData.poke ?_ (fun w => ?_); rotate_left; first | exact mark_wf _ _ _ w | exact fold_wf _ _ (fun m x hm => poison_wf _ _ hm) w | exact fold_wf _ _ (fun m x hm => by split; exact poison_wf _ _ hm; exact hm) w | exact write_wf _ _ w | exact mark_wf _ _ _ (write_wf _ _ w)) | intro s hs | split)

theorem keeps_putPage64 {a : State} (v0 : State) (v1 : ℕ) (v2 : ℕ) (v3 : BitVec 64) (h0 : Keeps a v0) : Keeps a (State.putPage64 v0 v1 v2 v3) := by
  unfold State.putPage64
  try dsimp only
  repeat' (first | with_reducible assumption | with_reducible exact Keeps.refl _ | with_reducible apply Keeps.ite | with_reducible apply KeepsRes.ite | with_reducible apply KeepsFst.ite | with_reducible apply KeepsSnd.ite | with_reducible apply keeps_onCq | with_reducible apply keeps_onSq | with_reducible apply keeps_legal | with_reducible apply keeps_onSite | with_reducible apply keeps_ignoredWrite | (simp only [Keeps.lit]; with_reducible apply KeepsData.of) | (simp only [Keeps.lit]; with_reducible refine KeepsData.poke ?_ (fun w => ?_); rotate_left; first | exact mark_wf _ _ _ w | exact fold_wf _ _ (fun m x hm => poison_wf _ _ hm) w | exact fold_wf _ _ (fun m x hm => by split; exact poison_wf _ _ hm; exact hm) w | exact write_wf _ _ w | exact mark_wf _ _ _ (write_wf _ _ w)) | intro s hs | split)

theorem keeps_putSync {a : State} (v0 : State) (v1 : Access) (v2 : ℕ) (v3 : BitVec 64) (v4 : Ext) (h0 : Keeps a v0) : Keeps a (State.putSync v0 v1 v2 v3 v4) := by
  unfold State.putSync
  try dsimp only
  repeat' (first | with_reducible assumption | with_reducible exact Keeps.refl _ | with_reducible apply Keeps.ite | with_reducible apply KeepsRes.ite | with_reducible apply KeepsFst.ite | with_reducible apply KeepsSnd.ite | with_reducible apply keeps_handWrite | with_reducible apply keeps_linkWrite | with_reducible apply keeps_ignoredWrite | (simp only [Keeps.lit]; with_reducible apply KeepsData.of) | (simp only [Keeps.lit]; with_reducible refine KeepsData.poke ?_ (fun w => ?_); rotate_left; first | exact mark_wf _ _ _ w | exact fold_wf _ _ (fun m x hm => poison_wf _ _ hm) w | exact fold_wf _ _ (fun m x hm => by split; exact poison_wf _ _ hm; exact hm) w | exact write_wf _ _ w | exact mark_wf _ _ _ (write_wf _ _ w)) | intro s hs | split)

theorem keeps_putDgt32 {a : State} (v0 : State) (v1 : Access) (v2 : ℕ) (v3 : BitVec 32) (h0 : Keeps a v0) : Keeps a (State.putDgt32 v0 v1 v2 v3) := by
  unfold State.putDgt32
  try dsimp only
  repeat' (first | with_reducible assumption | with_reducible exact Keeps.refl _ | with_reducible apply Keeps.ite | with_reducible apply KeepsRes.ite | with_reducible apply KeepsFst.ite | with_reducible apply KeepsSnd.ite | with_reducible apply keeps_hslotCtl | with_reducible apply keeps_ctxCtl | with_reducible apply keeps_ignoredWrite | (simp only [Keeps.lit]; with_reducible apply KeepsData.of) | (simp only [Keeps.lit]; with_reducible refine KeepsData.poke ?_ (fun w => ?_); rotate_left; first | exact mark_wf _ _ _ w | exact fold_wf _ _ (fun m x hm => poison_wf _ _ hm) w | exact fold_wf _ _ (fun m x hm => by split; exact poison_wf _ _ hm; exact hm) w | exact write_wf _ _ w | exact mark_wf _ _ _ (write_wf _ _ w)) | intro s hs | split)

theorem keeps_putDgt64 {a : State} (v0 : State) (v1 : ℕ) (v2 : BitVec 64) (h0 : Keeps a v0) : Keeps a (State.putDgt64 v0 v1 v2) := by
  unfold State.putDgt64
  try dsimp only
  repeat' (first | with_reducible assumption | with_reducible exact Keeps.refl _ | with_reducible apply Keeps.ite | with_reducible apply KeepsRes.ite | with_reducible apply KeepsFst.ite | with_reducible apply KeepsSnd.ite | with_reducible apply keeps_ignoredWrite | with_reducible apply keeps_putState | with_reducible apply keeps_ctxWrite | (simp only [Keeps.lit]; with_reducible apply KeepsData.of) | (simp only [Keeps.lit]; with_reducible refine KeepsData.poke ?_ (fun w => ?_); rotate_left; first | exact mark_wf _ _ _ w | exact fold_wf _ _ (fun m x hm => poison_wf _ _ hm) w | exact fold_wf _ _ (fun m x hm => by split; exact poison_wf _ _ hm; exact hm) w | exact write_wf _ _ w | exact mark_wf _ _ _ (write_wf _ _ w)) | intro s hs | split)

theorem keeps_put32 {a : State} (v0 : State) (v1 : Access) (v2 : ℕ) (v3 : BitVec 32) (v4 : Ext) (v5 : Image) (h0 : Keeps a v0) : Keeps a (State.put32 v0 v1 v2 v3 v4 v5) := by
  unfold State.put32
  try dsimp only
  repeat' (first | with_reducible assumption | with_reducible exact Keeps.refl _ | with_reducible apply Keeps.ite | with_reducible apply KeepsRes.ite | with_reducible apply KeepsFst.ite | with_reducible apply KeepsSnd.ite | with_reducible apply keeps_putDgt32 | with_reducible apply keeps_putGlobal32 | with_reducible apply keeps_ignoredWrite | with_reducible apply keeps_putPage32 | (simp only [Keeps.lit]; with_reducible apply KeepsData.of) | (simp only [Keeps.lit]; with_reducible refine KeepsData.poke ?_ (fun w => ?_); rotate_left; first | exact mark_wf _ _ _ w | exact fold_wf _ _ (fun m x hm => poison_wf _ _ hm) w | exact fold_wf _ _ (fun m x hm => by split; exact poison_wf _ _ hm; exact hm) w | exact write_wf _ _ w | exact mark_wf _ _ _ (write_wf _ _ w)) | intro s hs | split)

theorem keeps_put64 {a : State} (v0 : State) (v1 : Access) (v2 : ℕ) (v3 : BitVec 64) (v4 : Ext) (h0 : Keeps a v0) : Keeps a (State.put64 v0 v1 v2 v3 v4) := by
  unfold State.put64
  try dsimp only
  repeat' (first | with_reducible assumption | with_reducible exact Keeps.refl _ | with_reducible apply Keeps.ite | with_reducible apply KeepsRes.ite | with_reducible apply KeepsFst.ite | with_reducible apply KeepsSnd.ite | with_reducible apply keeps_putSync | with_reducible apply keeps_putDgt64 | with_reducible apply keeps_putPage64 | with_reducible apply keeps_putGlobal64 | (simp only [Keeps.lit]; with_reducible apply KeepsData.of) | (simp only [Keeps.lit]; with_reducible refine KeepsData.poke ?_ (fun w => ?_); rotate_left; first | exact mark_wf _ _ _ w | exact fold_wf _ _ (fun m x hm => poison_wf _ _ hm) w | exact fold_wf _ _ (fun m x hm => by split; exact poison_wf _ _ hm; exact hm) w | exact write_wf _ _ w | exact mark_wf _ _ _ (write_wf _ _ w)) | intro s hs | split)

theorem keeps_writeGate {a : State} (v0 : State) (v1 : Access) (v2 : ℕ) (v3 : BitVec 32) (v4 : State → State) (h0 : Keeps a v0) (h1 : ∀ s, Keeps a s → Keeps a (v4 s)) : Keeps a (State.writeGate v0 v1 v2 v3 v4) := by
  unfold State.writeGate
  try dsimp only
  repeat' (first | with_reducible assumption | with_reducible exact Keeps.refl _ | with_reducible apply Keeps.ite | with_reducible apply KeepsRes.ite | with_reducible apply KeepsFst.ite | with_reducible apply KeepsSnd.ite | with_reducible apply h1 | with_reducible apply keeps_dgtWindow | with_reducible apply keeps_fabWrite | with_reducible apply keeps_syncForbid | (simp only [Keeps.lit]; with_reducible apply KeepsData.of) | (simp only [Keeps.lit]; with_reducible refine KeepsData.poke ?_ (fun w => ?_); rotate_left; first | exact mark_wf _ _ _ w | exact fold_wf _ _ (fun m x hm => poison_wf _ _ hm) w | exact fold_wf _ _ (fun m x hm => by split; exact poison_wf _ _ hm; exact hm) w | exact write_wf _ _ w | exact mark_wf _ _ _ (write_wf _ _ w)) | intro s hs | split)

theorem keeps_writeWide {a : State} (v0 : State) (v1 : Access) (v2 : ℕ) (v3 : BitVec 64) (v4 : Ext) (v5 : Image) (h0 : Keeps a v0) : Keeps a (State.writeWide v0 v1 v2 v3 v4 v5) := by
  unfold State.writeWide
  try dsimp only
  repeat' (first | with_reducible assumption | with_reducible exact Keeps.refl _ | with_reducible apply Keeps.ite | with_reducible apply KeepsRes.ite | with_reducible apply KeepsFst.ite | with_reducible apply KeepsSnd.ite | with_reducible apply keeps_put32 | with_reducible apply keeps_put64 | with_reducible apply keeps_writeGate | (simp only [Keeps.lit]; with_reducible apply KeepsData.of) | (simp only [Keeps.lit]; with_reducible refine KeepsData.poke ?_ (fun w => ?_); rotate_left; first | exact mark_wf _ _ _ w | exact fold_wf _ _ (fun m x hm => poison_wf _ _ hm) w | exact fold_wf _ _ (fun m x hm => by split; exact poison_wf _ _ hm; exact hm) w | exact write_wf _ _ w | exact mark_wf _ _ _ (write_wf _ _ w)) | intro s hs | split)

theorem keeps_writeHalf {a : State} (v0 : State) (v1 : Access) (v2 : ℕ) (v3 : BitVec 32) (v4 : Ext) (v5 : Image) (h0 : Keeps a v0) : Keeps a (State.writeHalf v0 v1 v2 v3 v4 v5) := by
  unfold State.writeHalf
  try dsimp only
  repeat' (first | with_reducible assumption | with_reducible exact Keeps.refl _ | with_reducible apply Keeps.ite | with_reducible apply KeepsRes.ite | with_reducible apply KeepsFst.ite | with_reducible apply KeepsSnd.ite | with_reducible apply keeps_put32 | with_reducible apply keeps_put64 | with_reducible apply keeps_ignoredWrite | with_reducible apply keeps_writeGate | with_reducible apply keeps_ctxWrite | (simp only [Keeps.lit]; with_reducible apply KeepsData.of) | (simp only [Keeps.lit]; with_reducible refine KeepsData.poke ?_ (fun w => ?_); rotate_left; first | exact mark_wf _ _ _ w | exact fold_wf _ _ (fun m x hm => poison_wf _ _ hm) w | exact fold_wf _ _ (fun m x hm => by split; exact poison_wf _ _ hm; exact hm) w | exact write_wf _ _ w | exact mark_wf _ _ _ (write_wf _ _ w)) | intro s hs | split)

theorem keeps_writeReg {a : State} (v0 : State) (v1 : Access) (v2 : ℕ) (v3 : Bool) (v4 : BitVec 64) (v5 : Ext) (v6 : Image) (h0 : Keeps a v0) : Keeps a (State.writeReg v0 v1 v2 v3 v4 v5 v6) := by
  unfold State.writeReg
  try dsimp only
  repeat' (first | with_reducible assumption | with_reducible exact Keeps.refl _ | with_reducible apply Keeps.ite | with_reducible apply KeepsRes.ite | with_reducible apply KeepsFst.ite | with_reducible apply KeepsSnd.ite | with_reducible apply Keeps.id | with_reducible apply keeps_writeHalf | with_reducible apply keeps_writeWide | with_reducible apply keeps_fabWrite | (simp only [Keeps.lit]; with_reducible apply KeepsData.of) | (simp only [Keeps.lit]; with_reducible refine KeepsData.poke ?_ (fun w => ?_); rotate_left; first | exact mark_wf _ _ _ w | exact fold_wf _ _ (fun m x hm => poison_wf _ _ hm) w | exact fold_wf _ _ (fun m x hm => by split; exact poison_wf _ _ hm; exact hm) w | exact write_wf _ _ w | exact mark_wf _ _ _ (write_wf _ _ w)) | intro s hs | split | (with_reducible apply KeepsSnd.eq; with_reducible assumption) | (with_reducible apply KeepsFst.eq; with_reducible assumption))

theorem keeps_execRegisterWrite {a : State} (v0 : Access) (v1 : ℕ) (v2 : Bool) (v3 : BitVec 64) (v4 : Ext) (v5 : Image) (v6 : State) (h0 : Keeps a v6) : KeepsOut a (execRegisterWrite v0 v1 v2 v3 v4 v5 v6) := by
  unfold execRegisterWrite
  try dsimp only
  repeat' (first | with_reducible assumption | with_reducible exact Keeps.refl _ | with_reducible apply KeepsOut.next | with_reducible apply keeps_writeReg | (simp only [Keeps.lit]; with_reducible apply KeepsData.of))

theorem keeps_execHalfWordWrite {a : State} (v0 : Access) (v1 : ℕ) (v2 : BitVec 32) (v3 : Ext) (v4 : Image) (v5 : State) (h0 : Keeps a v5) : KeepsOut a (execHalfWordWrite v0 v1 v2 v3 v4 v5) := by
  unfold execHalfWordWrite
  try dsimp only
  repeat' (first | with_reducible assumption | with_reducible exact Keeps.refl _ | with_reducible apply KeepsOut.next | with_reducible apply keeps_writeReg | (simp only [Keeps.lit]; with_reducible apply KeepsData.of))

end Sys2Proof.Laws
end

