-- ==== Sys2Proof/Laws/Rows.lean ====
section
/-! SUPPORT. One lemma per submission row: a row whose entry is in hand runs its body, the entry as the row has it. -/

namespace Sys2Proof.Laws
open Sys2Proof Sys2Proof.Machine

variable {s : State} {x0 x : Sub} {e : Ext}

theorem runs_identify (h : s.holdsCmd (.identify x0 e) x) : exec (.identify x0 e) s = .next (s.runOp x [] (bodyIdentify x e)) := by
  obtain ⟨h, _⟩ := h; cases h; rfl
theorem runs_negotiate (h : s.holdsCmd (.negotiate x0 e) x) : exec (.negotiate x0 e) s = .next (s.runOp x [] (bodyNegotiate x)) := by
  obtain ⟨h, _⟩ := h; cases h; rfl
theorem runs_queueCreate (h : s.holdsCmd (.queueCreate x0 e) x) : exec (.queueCreate x0 e) s = .next (s.runOp x [] (bodyQueueCreate x)) := by
  obtain ⟨h, _⟩ := h; cases h; rfl
theorem runs_queueDelete (h : s.holdsCmd (.queueDelete x0 e) x) : exec (.queueDelete x0 e) s = .next (s.runOp x [] (bodyQueueDelete x)) := by
  obtain ⟨h, _⟩ := h; cases h; rfl
theorem runs_featureGet (h : s.holdsCmd (.featureGet x0 e) x) : exec (.featureGet x0 e) s = .next (s.runOp x [] (bodyFeatureGet x)) := by
  obtain ⟨h, _⟩ := h; cases h; rfl
theorem runs_statusInterval (h : s.holdsCmd (.statusInterval x0 e) x) : exec (.statusInterval x0 e) s = .next (s.runOp x [] (bodyStatusInterval x)) := by
  obtain ⟨h, _⟩ := h; cases h; rfl
theorem runs_periodicSelfTest (h : s.holdsCmd (.periodicSelfTest x0 e) x) : exec (.periodicSelfTest x0 e) s = .next (s.runOp x [] (bodyPeriodicSelfTest x)) := by
  obtain ⟨h, _⟩ := h; cases h; rfl
theorem runs_sumpSpill (h : s.holdsCmd (.sumpSpill x0 e) x) : exec (.sumpSpill x0 e) s = .next (s.runOp x [] (bodySumpSpill x)) := by
  obtain ⟨h, _⟩ := h; cases h; rfl
theorem runs_reserveWatermarks (h : s.holdsCmd (.reserveWatermarks x0 e) x) : exec (.reserveWatermarks x0 e) s = .next (s.runOp x [] (bodyReserveWatermarks x)) := by
  obtain ⟨h, _⟩ := h; cases h; rfl
theorem runs_partnerThreshold (h : s.holdsCmd (.partnerThreshold x0 e) x) : exec (.partnerThreshold x0 e) s = .next (s.runOp x [] (bodyPartnerThreshold x)) := by
  obtain ⟨h, _⟩ := h; cases h; rfl
theorem runs_powerPolicy (h : s.holdsCmd (.powerPolicy x0 e) x) : exec (.powerPolicy x0 e) s = .next (s.runOp x [] (bodyPowerPolicy x)) := by
  obtain ⟨h, _⟩ := h; cases h; rfl
theorem runs_chainNoticeRate (h : s.holdsCmd (.chainNoticeRate x0 e) x) : exec (.chainNoticeRate x0 e) s = .next (s.runOp x [] (bodyChainNoticeRate x)) := by
  obtain ⟨h, _⟩ := h; cases h; rfl
theorem runs_logRead (h : s.holdsCmd (.logRead x0 e) x) : exec (.logRead x0 e) s = .next (s.runOp x [] (bodyLogRead x e)) := by
  obtain ⟨h, _⟩ := h; cases h; rfl
theorem runs_selfTest {o : SliceOutcomes} (h : s.holdsCmd (.selfTest x0 e o) x) : exec (.selfTest x0 e o) s = .next (s.runOp x [] (bodySelfTest x o)) := by
  obtain ⟨h, _⟩ := h; cases h; rfl
theorem runs_storeCreate (h : s.holdsCmd (.storeCreate x0 e) x) : exec (.storeCreate x0 e) s = .next (s.runOp x [] (bodyStoreCreate x e)) := by
  obtain ⟨h, _⟩ := h; cases h; rfl
theorem runs_storeMount (h : s.holdsCmd (.storeMount x0 e) x) : exec (.storeMount x0 e) s = .next (s.runOp x [] (bodyStoreMount x e)) := by
  obtain ⟨h, _⟩ := h; cases h; rfl
theorem runs_storeUnmount (h : s.holdsCmd (.storeUnmount x0 e) x) : exec (.storeUnmount x0 e) s = .next (s.runOp x [] (bodyStoreDelete x e)) := by
  obtain ⟨h, _⟩ := h; cases h; rfl
theorem runs_storeDelete (h : s.holdsCmd (.storeDelete x0 e) x) : exec (.storeDelete x0 e) s = .next (s.runOp x [] (bodyStoreDelete x e)) := by
  obtain ⟨h, _⟩ := h; cases h; rfl
theorem runs_chamberConfig (h : s.holdsCmd (.chamberConfig x0 e) x) : exec (.chamberConfig x0 e) s = .next (s.runOp x [] (bodyChamberConfig x e)) := by
  obtain ⟨h, _⟩ := h; cases h; rfl
theorem runs_keySlotLoad (h : s.holdsCmd (.keySlotLoad x0 e) x) : exec (.keySlotLoad x0 e) s = .next (s.runOp x [] (bodyKeySlotLoad x e)) := by
  obtain ⟨h, _⟩ := h; cases h; rfl
theorem runs_keySlotZeroise (h : s.holdsCmd (.keySlotZeroise x0 e) x) : exec (.keySlotZeroise x0 e) s = .next (s.runOp x [] (bodyKeySlotZeroise x)) := by
  obtain ⟨h, _⟩ := h; cases h; rfl
theorem runs_fwStage {img : Image} (h : s.holdsCmd (.fwStage x0 e img) x) : exec (.fwStage x0 e img) s = .next (s.runOp x [] (bodyFwStage x e img)) := by
  obtain ⟨h, _⟩ := h; cases h; rfl
theorem runs_fwActivate {img : Image} (h : s.holdsCmd (.fwActivate x0 e img) x) : exec (.fwActivate x0 e img) s = .next (s.runOp x [] (bodyFwActivate x e img)) := by
  obtain ⟨h, _⟩ := h; cases h; rfl
theorem runs_chainMasterEnumerate (h : s.holdsCmd (.chainMasterEnumerate x0 e) x) : exec (.chainMasterEnumerate x0 e) s = .next (s.runOp x [] (bodyChainEnum x)) := by
  obtain ⟨h, _⟩ := h; cases h; rfl
theorem runs_chainSetMember (h : s.holdsCmd (.chainSetMember x0 e) x) : exec (.chainSetMember x0 e) s = .next (s.runOp x [] (bodyChainMember x)) := by
  obtain ⟨h, _⟩ := h; cases h; rfl
theorem runs_chainSetIsolated (h : s.holdsCmd (.chainSetIsolated x0 e) x) : exec (.chainSetIsolated x0 e) s = .next (s.runOp x [] bodyChainIsolated) := by
  obtain ⟨h, _⟩ := h; cases h; rfl
theorem runs_chainReenumerate (h : s.holdsCmd (.chainReenumerate x0 e) x) : exec (.chainReenumerate x0 e) s = .next (s.runOp x [] (bodyChainEnum x)) := by
  obtain ⟨h, _⟩ := h; cases h; rfl
theorem runs_chainStatus (h : s.holdsCmd (.chainStatus x0 e) x) : exec (.chainStatus x0 e) s = .next (s.runOp x [] bodyChainStatus) := by
  obtain ⟨h, _⟩ := h; cases h; rfl
theorem runs_abort (h : s.holdsCmd (.abort x0 e) x) : exec (.abort x0 e) s = .next (s.runOp x [] (bodyAbort x)) := by
  obtain ⟨h, _⟩ := h; cases h; rfl
theorem runs_storageAttach {ci : CtrlInfo} (h : s.holdsCmd (.storageAttach x0 e ci) x) : exec (.storageAttach x0 e ci) s = .next (s.runOp x [] (bodyStorageAttach x e ci)) := by
  obtain ⟨h, _⟩ := h; cases h; rfl
theorem runs_storageDetach (h : s.holdsCmd (.storageDetach x0 e) x) : exec (.storageDetach x0 e) s = .next (s.runOp x [] (bodyStorageDetach x)) := by
  obtain ⟨h, _⟩ := h; cases h; rfl
theorem runs_chamberQuiesce (h : s.holdsCmd (.chamberQuiesce x0 e) x) : exec (.chamberQuiesce x0 e) s = .next (s.runOp x [] (bodyChamberQuiesce x)) := by
  obtain ⟨h, _⟩ := h; cases h; rfl
theorem runs_regionDeclare (h : s.holdsCmd (.regionDeclare x0 e) x) : exec (.regionDeclare x0 e) s = .next (s.runOp x [] (bodyRegionDeclare x e false)) := by
  obtain ⟨h, _⟩ := h; cases h; rfl
theorem runs_regionRetire (h : s.holdsCmd (.regionRetire x0 e) x) : exec (.regionRetire x0 e) s = .next (s.runOp x [] (bodyRegionRetire x)) := by
  obtain ⟨h, _⟩ := h; cases h; rfl
theorem runs_capture (h : s.holdsCmd (.capture x0 e) x) : exec (.capture x0 e) s = .next (s.runOp x [] (bodyCapture x e)) := by
  obtain ⟨h, _⟩ := h; cases h; rfl
theorem runs_drainHint (h : s.holdsCmd (.drainHint x0 e) x) : exec (.drainHint x0 e) s = .next (s.runOp x [] (bodyDrainHint x)) := by
  obtain ⟨h, _⟩ := h; cases h; rfl
theorem runs_captureCancel (h : s.holdsCmd (.captureCancel x0 e) x) : exec (.captureCancel x0 e) s = .next (s.runOp x [] (bodyCaptureCancel x)) := by
  obtain ⟨h, _⟩ := h; cases h; rfl
theorem runs_replicaSet (h : s.holdsCmd (.replicaSet x0 e) x) : exec (.replicaSet x0 e) s = .next (s.runOp x [] (bodyReplicaSet x)) := by
  obtain ⟨h, _⟩ := h; cases h; rfl
theorem runs_triggerArm (h : s.holdsCmd (.triggerArm x0 e) x) : exec (.triggerArm x0 e) s = .next (s.runOp x [] (bodyTrigger x)) := by
  obtain ⟨h, _⟩ := h; cases h; rfl
theorem runs_triggerDisarm (h : s.holdsCmd (.triggerDisarm x0 e) x) : exec (.triggerDisarm x0 e) s = .next (s.runOp x [] (bodyTrigger x)) := by
  obtain ⟨h, _⟩ := h; cases h; rfl
theorem runs_condense (h : s.holdsCmd (.condense x0 e) x) : exec (.condense x0 e) s = .next (s.runOp x [] (bodyCondense x e)) := by
  obtain ⟨h, _⟩ := h; cases h; rfl
theorem runs_restore (h : s.holdsCmd (.restore x0 e) x) : exec (.restore x0 e) s = .next (s.runOp x [] (bodyRestore x e)) := by
  obtain ⟨h, _⟩ := h; cases h; rfl
theorem runs_restoreSlice (h : s.holdsCmd (.restoreSlice x0 e) x) : exec (.restoreSlice x0 e) s = .next (s.runOp x [] (bodyRestoreSlice x e)) := by
  obtain ⟨h, _⟩ := h; cases h; rfl
theorem runs_verify (h : s.holdsCmd (.verify x0 e) x) : exec (.verify x0 e) s = .next (s.runOp x [] (bodyVerify x e)) := by
  obtain ⟨h, _⟩ := h; cases h; rfl
theorem runs_manifestRead (h : s.holdsCmd (.manifestRead x0 e) x) : exec (.manifestRead x0 e) s = .next (s.runOp x [] (bodyManifestRead x e)) := by
  obtain ⟨h, _⟩ := h; cases h; rfl
theorem runs_streamOpen (h : s.holdsCmd (.streamOpen x0 e) x) : exec (.streamOpen x0 e) s = .next (s.runOp x [] (bodyStreamOpen x e false)) := by
  obtain ⟨h, _⟩ := h; cases h; rfl
theorem runs_streamClose (h : s.holdsCmd (.streamClose x0 e) x) : exec (.streamClose x0 e) s = .next (s.runOp x [] (bodyStreamClose x)) := by
  obtain ⟨h, _⟩ := h; cases h; rfl
theorem runs_streamSeek (h : s.holdsCmd (.streamSeek x0 e) x) : exec (.streamSeek x0 e) s = .next (s.runOp x [] (bodyStreamSeek x)) := by
  obtain ⟨h, _⟩ := h; cases h; rfl
theorem runs_streamCancel (h : s.holdsCmd (.streamCancel x0 e) x) : exec (.streamCancel x0 e) s = .next (s.runOp x [] (bodyStreamCancel x)) := by
  obtain ⟨h, _⟩ := h; cases h; rfl
theorem runs_programLoad (h : s.holdsCmd (.programLoad x0 e) x) : exec (.programLoad x0 e) s = .next (s.runOp x [] (bodyProgramLoad x e)) := by
  obtain ⟨h, _⟩ := h; cases h; rfl
theorem runs_stepBegin (h : s.holdsCmd (.stepBegin x0 e) x) : exec (.stepBegin x0 e) s = .next (s.runOp x [] (bodyStepBegin x e)) := by
  obtain ⟨h, _⟩ := h; cases h; rfl
theorem runs_stepNorm (h : s.holdsCmd (.stepNorm x0 e) x) : exec (.stepNorm x0 e) s = .next (s.runOp x [] (bodyStepNorm x)) := by
  obtain ⟨h, _⟩ := h; cases h; rfl
theorem runs_stepAbort (h : s.holdsCmd (.stepAbort x0 e) x) : exec (.stepAbort x0 e) s = .next (s.runOp x [] (bodyStepAbort x)) := by
  obtain ⟨h, _⟩ := h; cases h; rfl
theorem runs_stepRollback (h : s.holdsCmd (.stepRollback x0 e) x) : exec (.stepRollback x0 e) s = .next (s.runOp x [] (bodyStepRollback x e)) := by
  obtain ⟨h, _⟩ := h; cases h; rfl
theorem runs_tierPlace (h : s.holdsCmd (.tierPlace x0 e) x) : exec (.tierPlace x0 e) s = .next (s.runOp x [] (bodyTierPlace x e)) := by
  obtain ⟨h, _⟩ := h; cases h; rfl
theorem runs_anchorSet (h : s.holdsCmd (.anchorSet x0 e) x) : exec (.anchorSet x0 e) s = .next (s.runOp x [] (bodyAnchorSet x e)) := by
  obtain ⟨h, _⟩ := h; cases h; rfl
theorem runs_deltaApply (h : s.holdsCmd (.deltaApply x0 e) x) : exec (.deltaApply x0 e) s = .next (s.runOp x [] (bodyDeltaApply x e)) := by
  obtain ⟨h, _⟩ := h; cases h; rfl
theorem runs_replicaDigest (h : s.holdsCmd (.replicaDigest x0 e) x) : exec (.replicaDigest x0 e) s = .next (s.runOp x [] (bodyReplicaDigest x e)) := by
  obtain ⟨h, _⟩ := h; cases h; rfl
theorem runs_digest (h : s.holdsCmd (.digest x0 e) x) : exec (.digest x0 e) s = .next (s.runOp x [] (bodyDigest x e)) := by
  obtain ⟨h, _⟩ := h; cases h; rfl
theorem runs_hmac (h : s.holdsCmd (.hmac x0 e) x) : exec (.hmac x0 e) s = .next (s.runOp x [] (bodyHmac x e)) := by
  obtain ⟨h, _⟩ := h; cases h; rfl
theorem runs_seal (h : s.holdsCmd (.seal x0 e) x) : exec (.seal x0 e) s = .next (s.runOp x [] (bodySeal x e)) := by
  obtain ⟨h, _⟩ := h; cases h; rfl
theorem runs_unseal (h : s.holdsCmd (.unseal x0 e) x) : exec (.unseal x0 e) s = .next (s.runOp x [] (bodyUnseal x e)) := by
  obtain ⟨h, _⟩ := h; cases h; rfl
theorem runs_extend (h : s.holdsCmd (.extend x0 e) x) : exec (.extend x0 e) s = .next (s.runOp x [] (bodyExtend x e)) := by
  obtain ⟨h, _⟩ := h; cases h; rfl
theorem runs_syncAlloc (h : s.holdsCmd (.syncAlloc x0 e) x) : exec (.syncAlloc x0 e) s = .next (s.runOp x [] (bodySyncAlloc x)) := by
  obtain ⟨h, _⟩ := h; cases h; rfl
theorem runs_syncFree (h : s.holdsCmd (.syncFree x0 e) x) : exec (.syncFree x0 e) s = .next (s.runOp x [] (bodySyncFree x)) := by
  obtain ⟨h, _⟩ := h; cases h; rfl
theorem runs_syncSignal (h : s.holdsCmd (.syncSignal x0 e) x) : exec (.syncSignal x0 e) s = .next (s.runOp x [] (bodySyncSignal x e)) := by
  obtain ⟨h, _⟩ := h; cases h; rfl
theorem runs_watchSet (h : s.holdsCmd (.watchSet x0 e) x) : exec (.watchSet x0 e) s = .next (s.runOp x [] (bodyWatchSet x e)) := by
  obtain ⟨h, _⟩ := h; cases h; rfl
theorem runs_watchClear (h : s.holdsCmd (.watchClear x0 e) x) : exec (.watchClear x0 e) s = .next (s.runOp x [] (bodyWatchClear x)) := by
  obtain ⟨h, _⟩ := h; cases h; rfl
theorem runs_barrierJoin (h : s.holdsCmd (.barrierJoin x0 e) x) : exec (.barrierJoin x0 e) s = .next (s.runOp x [] (bodyBarrierJoin x)) := by
  obtain ⟨h, _⟩ := h; cases h; rfl
theorem runs_stepMeasure (h : s.holdsCmd (.stepMeasure x0 e) x) : exec (.stepMeasure x0 e) s = .next (s.runOp x [] fun s => phased x (bodyStepMeasure x e s)) := by
  obtain ⟨h, _⟩ := h; cases h; rfl
theorem runs_stepApply (h : s.holdsCmd (.stepApply x0 e) x) : exec (.stepApply x0 e) s = .next (s.runOp x [] fun s => phased x (bodyStepApply x e s)) := by
  obtain ⟨h, _⟩ := h; cases h; rfl
theorem runs_peerEnable (h : s.holdsCmd (.peerEnable x0 e) x) : exec (.peerEnable x0 e) s = .next (s.runOp x [] (bodyPeerConfig x)) := by
  obtain ⟨h, _⟩ := h; cases h; rfl
theorem runs_peerDisable (h : s.holdsCmd (.peerDisable x0 e) x) : exec (.peerDisable x0 e) s = .next (s.runOp x [] (bodyPeerConfig x)) := by
  obtain ⟨h, _⟩ := h; cases h; rfl
theorem runs_lifecycleAdvance {burn : Burn} (h : s.holdsCmd (.lifecycleAdvance x0 e burn) x) : exec (.lifecycleAdvance x0 e burn) s =
    .next (let t := s.runOp x [] (bodyLifecycleAdvance x e burn); if t.life.life = .spent ∧ t.boot.stage = .ready then t.retire else t) := by
  obtain ⟨h, _⟩ := h; cases h; rfl
theorem runs_deltaEmit (h : s.holdsCmd (.deltaEmit x0 e) x) : exec (.deltaEmit x0 e) s =
    .next (let t := s.runOp x [] fun s => phased x (bodyDeltaEmit x e s)
      if (t.site x.chamber).run.isSome then t.siteSettle x.chamber .good else t) := by
  obtain ⟨h, _⟩ := h; cases h; rfl
theorem runs_dovetail {l : List Sub} (h : s.holdsCmd (.dovetail x0 e l) x) : exec (.dovetail x0 e l) s = .next (s.runDovetail x (chainOf x l) e) := by
  obtain ⟨h, _⟩ := h; cases h; rfl

end Sys2Proof.Laws
end

