-- ==== Sys2Proof/WellFormed.lean ====
section
/-! DEFINITION. Well-formed commands: operands that name something the block's ports and queues can carry. The machine is total on the others
too; statements do not assume these checks. -/

namespace Sys2Proof

/-- A lane of FAB_S: at most FAB_PORTS = 4 (Table 6 of chapter 02). -/
def Access.wf (a : Access) : Bool := decide (a.lane < 4)

/-- A submission entry comes from one of 16 queues of 32 chambers (R89). -/
def Sub.wf (x : Sub) : Bool := decide (x.chamber < 32) && decide (x.sq < 16)

/-- A twin entry comes from queue 1 to 15 of a chamber (R137). -/
def Twin.wf (x : Twin) : Bool := decide (x.chamber < 32) && decide (1 ≤ x.sq ∧ x.sq < 16)

/-- A host request has one or two beats of 128 bytes at its own alignment; a request with data has a byte enable for each byte and a poison mark
for each beat (Table 2 of chapter 02, R37). -/
def HReq.wf (r : HReq) : Bool :=
  let n := if r.two then 2 else 1
  r.addr.toNat % (n * 128) == 0 && (r.op == 0 || r.data.length == n * 128 && r.be.length == n * 128 && r.poison.length == n)

/-- A response carries one beat. -/
def MResp.wf (r : MResp) : Bool := r.data.length == 128

/-- One of a stile's 1,024 read and 512 write tags, or of a port's 12-bit tags (R39, R50). -/
def TagRef.wf : TagRef → Bool
  | .mreq st tag write => decide (st < 32) && decide (tag < (if write then 512 else 1024))
  | .fab port tag _ => decide (port < 4) && decide (tag < 4096)

/-- A partner whose violations are counted (Table 1 of chapter 18). -/
def Partner.wf : Partner → Bool
  | .sq ch q => decide (ch < 32) && decide (q < 16)
  | .cq ch q => decide (ch < 32) && decide (q < 16)
  | .nvme c => decide (c < 64)
  | .sdx ch p => decide (ch < 32) && decide (p < 15)
  | .chain source => decide (source < 256)

/-- An SRAM row of a unit (Table 10 of chapter 18). -/
def SramUnit.wf : SramUnit → Bool
  | .rebate st => decide (st < 32)
  | .streamRow i => decide (i < 262144)
  | .cell st n => decide (st < 32) && decide (n < 16)
  | .syncObject i => decide (i < 16384)
  | .sumpEntry => true

/-- A frame's payload fits its version (Table 1 of chapter 15). -/
def DclFrame.wf (f : DclFrame) : Bool := decide (f.payload.length ≤ (if f.version = 1 then 64 else 240))

/-- The checks of a command. -/
def Instr.wf : Instr → Bool
  | .identify x _ => x.wf
  | .negotiate x _ => x.wf
  | .queueCreate x _ => x.wf
  | .queueDelete x _ => x.wf
  | .featureGet x _ => x.wf
  | .statusInterval x _ => x.wf
  | .periodicSelfTest x _ => x.wf
  | .sumpSpill x _ => x.wf
  | .reserveWatermarks x _ => x.wf
  | .partnerThreshold x _ => x.wf
  | .powerPolicy x _ => x.wf
  | .chainNoticeRate x _ => x.wf
  | .logRead x _ => x.wf
  | .selfTest x _ _ => x.wf
  | .storeCreate x _ => x.wf
  | .storeMount x _ => x.wf
  | .storeUnmount x _ => x.wf
  | .storeDelete x _ => x.wf
  | .chamberConfig x _ => x.wf
  | .keySlotLoad x _ => x.wf
  | .keySlotZeroise x _ => x.wf
  | .fwStage x _ _ => x.wf
  | .fwActivate x _ _ => x.wf
  | .lifecycleAdvance x _ _ => x.wf
  | .chainMasterEnumerate x _ => x.wf
  | .chainSetMember x _ => x.wf
  | .chainSetIsolated x _ => x.wf
  | .chainReenumerate x _ => x.wf
  | .chainStatus x _ => x.wf
  | .abort x _ => x.wf
  | .storageAttach x _ _ => x.wf
  | .storageDetach x _ => x.wf
  | .chamberQuiesce x _ => x.wf
  | .testOpcode x _ => x.wf
  | .regionDeclare x _ => x.wf
  | .regionRetire x _ => x.wf
  | .capture x _ => x.wf
  | .drainHint x _ => x.wf
  | .captureCancel x _ => x.wf
  | .replicaSet x _ => x.wf
  | .triggerArm x _ => x.wf
  | .triggerDisarm x _ => x.wf
  | .condense x _ => x.wf
  | .restore x _ => x.wf
  | .restoreSlice x _ => x.wf
  | .verify x _ => x.wf
  | .manifestRead x _ => x.wf
  | .streamOpen x _ => x.wf
  | .streamClose x _ => x.wf
  | .streamSeek x _ => x.wf
  | .streamCancel x _ => x.wf
  | .dovetail x _ stages => x.wf && decide (1 ≤ stages.length ∧ stages.length ≤ 8)
  | .programLoad x _ => x.wf
  | .stepBegin x _ => x.wf
  | .stepMeasure x _ => x.wf
  | .stepNorm x _ => x.wf
  | .stepApply x _ => x.wf
  | .stepAbort x _ => x.wf
  | .stepRollback x _ => x.wf
  | .tierPlace x _ => x.wf
  | .anchorSet x _ => x.wf
  | .deltaEmit x _ => x.wf
  | .deltaApply x _ => x.wf
  | .peerEnable x _ => x.wf
  | .peerDisable x _ => x.wf
  | .replicaDigest x _ => x.wf
  | .digest x _ => x.wf
  | .hmac x _ => x.wf
  | .seal x _ => x.wf
  | .unseal x _ => x.wf
  | .extend x _ => x.wf
  | .syncAlloc x _ => x.wf
  | .syncFree x _ => x.wf
  | .syncSignal x _ => x.wf
  | .watchSet x _ => x.wf
  | .watchClear x _ => x.wf
  | .barrierJoin x _ => x.wf
  | .k2Credit x _ => x.wf
  | .twinEntry x _ => x.wf
  | .sqTailDoorbell a ch q _ => a.wf && decide (ch < 32) && decide (q < 16)
  | .cqHeadDoorbell a ch q _ => a.wf && decide (ch < 32) && decide (q < 16)
  | .commandDispatch ch _ => decide (ch < 32)
  | .statusWordUpdate ch sq _ _ => decide (ch < 32) && decide (sq < 16)
  | .adminQueueEnable a ch _ => a.wf && decide (ch < 32)
  | .adminSqDisable a ch => a.wf && decide (ch < 32)
  | .adminCqDisable a ch => a.wf && decide (ch < 32)
  | .ilvApply a => a.wf
  | .fwLoad a _ => a.wf
  | .syncLinkWrite a obj _ => a.wf && decide (obj < 16384)
  | .syncHandSet a obj _ _ => a.wf && decide (obj < 16384)
  | .signalApertureWrite a _ _ _ _ => a.wf
  | .stagingRead a off len => a.wf && decide (off < 2 ^ 28) && decide (len ≤ 256)
  | .stagingWrite a off data => a.wf && decide (off < 2 ^ 28) && decide (data.length ≤ 256)
  | .stagingReadTimeout off => decide (off < 2 ^ 28)
  | .readClearAccess a addr => a.wf && decide (addr < 2 ^ 28)
  | .rsvWmRead a ch => a.wf && decide (ch < 32)
  | .halfWordWrite a addr _ _ _ => a.wf && decide (addr < 2 ^ 28)
  | .registerWrite a addr _ _ _ _ => a.wf && decide (addr < 2 ^ 28)
  | .halfWordRead a addr => a.wf && decide (addr < 2 ^ 28)
  | .dgtContextClaim a c _ => a.wf && decide (32 ≤ c ∧ c < 64)
  | .dgtContextRelease a c _ => a.wf && decide (32 ≤ c ∧ c < 64)
  | .dgtContextAbort a c _ => a.wf && decide (32 ≤ c ∧ c < 64)
  | .dgtContextRestore a c _ => a.wf && decide (32 ≤ c ∧ c < 64)
  | .dgtData a c _ _ => a.wf && decide (32 ≤ c ∧ c < 64)
  | .dgtLast a c b _ _ => a.wf && decide (32 ≤ c ∧ c < 64) && decide (1 ≤ b ∧ b ≤ 8)
  | .dgtFinish a c _ => a.wf && decide (32 ≤ c ∧ c < 64)
  | .dgtMessageDone c => decide (32 ≤ c ∧ c < 64)
  | .dgtStateRead a c => a.wf && decide (32 ≤ c ∧ c < 64)
  | .hslotLoad a h _ => a.wf && decide (h < 32)
  | .hslotClear a h => a.wf && decide (h < 32)
  | .pwrWake a => a.wf
  | .pwrOffReq a => a.wf
  | .lampLower a level => a.wf && decide (level < 4)
  | .coreHalt a _ => a.wf
  | .coreResume a _ => a.wf
  | .sumpClear a => a.wf
  | .spillConsume a _ => a.wf
  | .sdxKick a ch _ => a.wf && decide (ch < 32)
  | .hreqRequest st r => decide (st < 32) && r.wf
  | .copyComplete st => decide (st < 32)
  | .stallRelease st cell => decide (st < 32) && decide (cell < 16)
  | .heldWriteLimit st => decide (st < 32)
  | .mrspResponse st r => decide (st < 32) && r.wf
  | .fabReadData port tag data _ _ => decide (port < 4) && decide (tag < 4096) && data.length == 128
  | .fabWriteAck port tag _ => decide (port < 4) && decide (tag < 4096)
  | .tagTimeout ref => ref.wf
  | .captureStart ch => decide (ch < 32)
  | .cellTakeUnit st cell _ => decide (st < 32) && decide (cell < 16)
  | .directoryLookupAnswer st cell _ => decide (st < 32) && decide (cell < 16)
  | .cipherAssign core => decide (core < 16)
  | .cipherCoreFail core => decide (core < 16)
  | .blockWriteComplete st _ => decide (st < 32)
  | .blockWriteFailed st _ => decide (st < 32)
  | .moverLoss st => decide (st < 32)
  | .eventPulse i => decide (i < 16)
  | .eventLevel i _ => decide (i < 16)
  | .keyLoadWord slot w _ _ => decide (slot < 64) && decide (w < 4)
  | .keyCommit slot => decide (slot < 64)
  | .keyZeroise slot => decide (slot < 64)
  | .keyLoadingTimeout slot => decide (slot < 64)
  | .domainWakeComplete d _ => decide (d < 115)
  | .idleTimer d => decide (d < 115)
  | .coldReset _ fuseErr => fuseErr.all fun r => decide (r < 1024)
  | .stileReset st => decide (st < 32)
  | .stileResetRelease st => decide (st < 32)
  | .timeInRegress t => decide (t < 2 ^ 64)
  | .chainFrameReceived bytes _ _ => decide (bytes.length ≤ 248)
  | .enum f => f.wf
  | .beacon f => f.wf
  | .trigger f => f.wf
  | .notice f => f.wf
  | .join f => f.wf
  | .signal f _ => f.wf
  | .signalAck f => f.wf
  | .signalRefuse f => f.wf
  | .barArrive f => f.wf
  | .barWithdraw f => f.wf
  | .barAck f => f.wf
  | .barRelease f _ => f.wf
  | .remoteSignalRetry dest _ => decide (dest < 256)
  | .syncRemoteHoldExpiry obj => decide (obj < 16384)
  | .barrierTimeout ch sq _ => decide (ch < 32) && decide (sq < 16)
  | .violationDecay p => p.wf
  | .streamIssue idx _ => decide (idx < 262144)
  | .streamLanding idx _ => decide (idx < 262144)
  | .dependenceTimeout idx => decide (idx < 262144)
  | .sdxRingPoll ch p _ => decide (ch < 32) && decide (p < 15)
  | .sdxFrameReceive ch p _ => decide (ch < 32) && decide (p < 15)
  | .sdxNack ch p _ => decide (ch < 32) && decide (p < 15)
  | .sdxCatchupReq ch p _ => decide (ch < 32) && decide (p < 15)
  | .nackLeadTimer ch _ => decide (ch < 32)
  | .deltaDeadline ch _ => decide (ch < 32)
  | .nvmeCompletion c _ => decide (c < 64)
  | .nvmeCommandTimeout c _ => decide (c < 64)
  | .nvmeSmartPoll c log _ => decide (c < 64) && decide (log.length ≤ 512)
  | .journalCheckpoint store _ => decide (store < 64)
  | .gcCompact store _ _ => decide (store < 64)
  | .bitmapRowSweep st => decide (st < 32)
  | .cellSelfCheckFail st cell => decide (st < 32) && decide (cell < 16)
  | .controlCoreFailure core _ => decide (1 ≤ core ∧ core ≤ 3)
  | .sramFault u _ => u.wf
  | .sqEntryFetch _ => true
  | .clampGrant => true
  | .completionPost _ => true
  | .lampUnlockRequest _ => true
  | .lampUnlockResponse _ _ => true
  | .scanEnter => true
  | .jigManualSession _ => true
  | .jigManualSlice _ _ => true
  | .tapInstruction _ => true
  | .freezeAck => true
  | .freezeAckFall => true
  | .freezeTimeout => true
  | .sealWaitTimeout => true
  | .captureCommit _ => true
  | .levelRuleTimer => true
  | .entropyWord _ _ => true
  | .drbgReseedDue => true
  | .drbgReseedTimeout => true
  | .wakeBudgetChange _ => true
  | .supplyWarn _ => true
  | .wakeStart => true
  | .passEntry _ => true
  | .kxRailDetect _ => true
  | .coldResetAssert => true
  | .warmResetAssert => true
  | .warmReset _ => true
  | .vddKaLoss => true
  | .chainTransmit => true
  | .chainLinkDown _ => true
  | .beaconTimer => true
  | .enumTimeout => true
  | .masterLoss => true
  | .electionTimer => true
  | .noticeRepeat => true
  | .sumpSpillEntry _ => true
  | .heartbeatTimeout => true
  | .slabCopy => true
  | .cc0Watchdog => true
  | .periodicSlice _ => true
  | .sliceYield => true
  | .sliceComplete _ => true
  | .vddKxRemoval => true
  | .lampBackoffExpiry => true
  | .jigWindowRegained _ _ => true
  | .noticeToken => true

end Sys2Proof
end

section
/-! PROOFS. Damaged sources (R382): a digest command whose source has a bad beat fails, and its body changes nothing. -/

namespace Sys2Proof.Proofs
open Sys2Proof Sys2Proof.Machine Sys2Proof.Laws

section
variable {s : State} {x0 x : Sub} {e : Ext} {c : Instr} {body : State → Res}

/-- A source with a beat answered with ERR or stored poisoned attests nothing (R382). -/
theorem attestable_eq_false {a n : Nat} (hbad : e.readErr = true ∨ n ≠ 0 ∧ s.mem.badBeats a n ≠ []) : s.attestable e a n = false := by
  obtain herr | ⟨hn, hbeats⟩ := hbad
  · simp [State.attestable, herr]
  · simp [State.attestable, hn, hbeats]

/-- The shared digest run with DGST up, a context free and an engine in service: a damaged source fails it before any output (R381, R382). -/
theorem digestTo_damaged {f : List Byte → List Byte} (hdom : s.dom 103 = true) (hctx : s.cmdContexts < 24) (hup : s.engineUp = true)
    (hsrc : s.attestable e x.b.toNat (fld x.c 39 0) = false) : s.digestTo x e f = fail s sMalformed := by
  simp [State.digestTo, hdom, Nat.not_le.mpr hctx, hup, hsrc]

/-- HMAC with a key of its algorithm in the slot fails on a damaged source as DIGEST does (R382, R391). -/
theorem bodyHmac_damaged (hdom : s.dom 103 = true) (hctx : s.cmdContexts < 24) (hup : s.engineUp = true)
    (hloaded : (s.dgt.hslots.get (fld x.a 12 8)).loaded = true) (halg : (s.dgt.hslots.get (fld x.a 12 8)).alg = fld x.a 1 0)
    (hsrc : s.attestable e x.b.toNat (fld x.c 39 0) = false) : bodyHmac x e s = fail s sMalformed := by
  simp [bodyHmac, hloaded, halg, digestTo_damaged hdom hctx hup hsrc]

/-- EXTEND fails on a damaged source before its register takes anything (R135, R382). -/
theorem bodyExtend_damaged (hdom : s.dom 103 = true) (hup : s.engineUp = true)
    (hsrc : s.attestable e x.a.toNat (fld x.b 15 0) = false) : bodyExtend x e s = fail s sMalformed := by
  simp [bodyExtend, hdom, hup, hsrc]

/-- A command in hand whose body fails in the state it found ends with PARTNER_MALFORMED there, memory and stalagmite registers as they were. -/
theorem ends_malformed_unchanged (hruns : exec c s = .next (s.runOp x [] body)) (hhand : s.inHand x = true)
    (hbody : body s = fail s sMalformed) :
    ∃ u, Ends c s x sMalformed 0 0 u ∧ u.mem = s.mem ∧ u.dgt.sg = s.dgt.sg ∧ u.dgt.sgCount = s.dgt.sgCount :=
  ⟨s, ends_runOp hruns hhand hbody rfl (by decide), rfl, rfl, rfl⟩

end

/-- Settles O50: each of the three bodies fails at its test of the source, before any change of state. -/
theorem damagedSourcesAreNotDigested : Obligations.DamagedSourcesAreNotDigested := by
  intro s x0 x e hdom hctx hup
  refine ⟨fun c hc hheld hbad => ?_, fun hheld hbad => ?_⟩
  · have hsrc := attestable_eq_false hbad
    obtain rfl | ⟨rfl, hloaded, halg⟩ := hc
    · exact ends_malformed_unchanged (runs_digest hheld) hheld.2 (digestTo_damaged hdom hctx hup hsrc)
    · exact ends_malformed_unchanged (runs_hmac hheld) hheld.2 (bodyHmac_damaged hdom hctx hup hloaded halg hsrc)
  · exact ends_malformed_unchanged (runs_extend hheld) hheld.2 (bodyExtend_damaged hdom hup (attestable_eq_false hbad))

/-! The statement's premises are met: commands in hand over a source of two bytes that straddles a beat's end, only its last byte in a poisoned beat. -/

/-- A digest command's entry: chamber 0, queue 1, SHA-256, its two source bytes at 127 (DIGEST and HMAC name them by B and C, EXTEND by A and B). -/
def straddlingEntry (op : BitVec 8) (cid : BitVec 16) (a b : BitVec 64) : Sub :=
  { chamber := 0, sq := 1, opcode := op, flags := 0, cid := cid, handle := 3, statusAddr := 0, a := a, b := b, c := 2, d := 4096, e := 0, f := 0 }

/-- The three commands' entries. -/
def digestEntry : Sub := straddlingEntry 0x80 0 0 127
def hmacEntry : Sub := straddlingEntry 0x81 1 0 127
def extendEntry : Sub := straddlingEntry 0x84 2 127 2

/-- An accepted command that waits for its first run. -/
def waitingCmd (x : Sub) : Cmd :=
  { sub := x, twin := false, stages := [], phase := 1, units := 0, granted := true, wants := [], res := [], prog := 0, acc := [], links := [], seen := 0 }

/-- A serving block with DGST up that holds the three commands, a key in HMAC slot 0 and the beat at 128 stored poisoned. -/
def damagedSourceState : State :=
  let r := State.reset
  { r with
    boot := { r.boot with stage := .ready, resetHeld := 0 }
    pwr := { r.pwr with state := .run, on := 1#128 <<< 103 }
    mem := r.mem.mark 128 128 true
    cmds := [digestEntry, hmacEntry, extendEntry].map waitingCmd
    dgt := { r.dgt with hslots := r.dgt.hslots.set 0 { HSlot.zero with loaded := true } } }

/-- A command whose opcode works through no domain, and which has no stages, waits for none (R446). -/
theorem needDoms_eq_nil {s : State} {x : Sub} {c : Cmd} (hc : s.cmd? x = some c) (hstages : c.stages = [])
    (hop : opDoms x.opcode.toNat = ([], false)) : s.needDoms x = [] := by
  simp [State.needDoms, hc, hstages, hop]

theorem damagedSourceState_inHand {x : Sub} (hx : x ∈ [digestEntry, hmacEntry, extendEntry]) : damagedSourceState.inHand x = true := by
  have hneed : damagedSourceState.needDoms x = [] := by
    refine needDoms_eq_nil (c := waitingCmd x) ?_ rfl ?_ <;> revert x <;> decide
  rw [State.inHand, hneed]
  revert x
  decide

/-- The premises of O50 hold in `damagedSourceState`: each of the three commands ends there as R382 says. -/
theorem damagedSourceState_ends :
    (∃ u, Ends (.digest digestEntry .good) damagedSourceState digestEntry sMalformed 0 0 u ∧ u.mem = damagedSourceState.mem) ∧
    (∃ u, Ends (.hmac hmacEntry .good) damagedSourceState hmacEntry sMalformed 0 0 u ∧ u.mem = damagedSourceState.mem) ∧
    (∃ u, Ends (.extend extendEntry .good) damagedSourceState extendEntry sMalformed 0 0 u ∧ u.dgt.sg = damagedSourceState.dgt.sg) := by
  have rule (x : Sub) := damagedSourcesAreNotDigested damagedSourceState x x .good (by decide) (by decide) (by decide)
  refine ⟨?_, ?_, ?_⟩
  · obtain ⟨u, hu, hmem, _⟩ := (rule digestEntry).1 _ (.inl rfl) ⟨rfl, damagedSourceState_inHand (by decide)⟩ (.inr (by decide))
    exact ⟨u, hu, hmem⟩
  · obtain ⟨u, hu, hmem, _⟩ := (rule hmacEntry).1 _ (.inr ⟨rfl, by decide⟩) ⟨rfl, damagedSourceState_inHand (by decide)⟩ (.inr (by decide))
    exact ⟨u, hu, hmem⟩
  · obtain ⟨u, hu, _, hsg, _⟩ := (rule extendEntry).2 ⟨rfl, damagedSourceState_inHand (by decide)⟩ (.inr (by decide))
    exact ⟨u, hu, hsg⟩

end Sys2Proof.Proofs
end

section
/-! PROOFS. The CRC of a chain frame (R408, R409): the register's recurrence, what `parseFrame` accepts, and why the hop count is outside the check. -/

namespace Sys2Proof.Proofs
open Sys2Proof Sys2Proof.Machine Sys2Proof.Laws

/-! The CRC register. -/

/-- One step of the register with the polynomial 0x1021, as R409 reads: shift, keep 16 bits, add the polynomial if a one went out. -/
def crc16Shift (c : Nat) : Nat := if c.testBit 15 then (c * 2 % 65536) ^^^ 0x1021 else c * 2 % 65536

/-- The model reduces after the polynomial is added, which is the same, as the polynomial has 16 bits. -/
theorem crc16Bits_succ (n c : Nat) : crc16Bits (n + 1) c = crc16Bits n (crc16Shift c) := by
  have hreduce : (c * 2 ^^^ 0x1021) % 65536 = (c * 2 % 65536) ^^^ 0x1021 := Nat.xor_mod_two_pow (n := 16)
  rw [crc16Bits, crc16Shift, hreduce]

theorem crc16Bits_length {α : Type} (l : List α) (c : Nat) : crc16Bits l.length c = l.foldl (fun c _ => crc16Shift c) c := by
  induction l generalizing c with
  | nil => rfl
  | cons a l ih => rw [List.length_cons, crc16Bits_succ, ih, List.foldl_cons]

theorem crc16From_append (c : Nat) (l r : List Byte) : crc16From c (l ++ r) = crc16From (crc16From c l) r := by
  induction l generalizing c with
  | nil => rfl
  | cons b l ih => exact ih _

/-- A byte more enters at the register's top, and eight steps follow (R409). -/
theorem crc16_concat (l : List Byte) (b : Byte) :
    crc16 (l ++ [b]) = (List.range 8).foldl (fun c _ => crc16Shift c) (crc16 l ^^^ b.toNat * 256) := by
  rw [crc16, crc16From_append, ← crc16Bits_length]
  rfl

/-! Fields of a list of bytes. -/

section
variable {l : List Byte} {o n i : Nat} {b : Byte}

theorem bytesAt_eq_take_drop (hin : o + n ≤ l.length) : bytesAt l o n = (l.drop o).take n := by
  have hlen : ((l.drop o).take n).length = n := by simp; omega
  simp [bytesAt, zeros, hlen]

/-- A byte outside a field does not touch it. -/
theorem bytesAt_set_of_outside (hout : i < o ∨ o + n ≤ i) : bytesAt (l.set i b) o n = bytesAt l o n := by
  have htake : ((l.set i b).drop o).take n = (l.drop o).take n := by
    rw [List.drop_set]
    split
    · rfl
    · exact List.take_set_of_le (by omega)
  simp only [bytesAt, htake]

theorem leAt_set_of_outside (hout : i < o ∨ o + n ≤ i) : leAt (l.set i b) o n = leAt l o n := by
  rw [leAt, bytesAt_set_of_outside hout, leAt]

theorem leAt_set_self (hin : i < l.length) : leAt (l.set i b) i 1 = b.toNat := by
  rw [leAt, bytesAt_eq_take_drop (by simpa using hin), List.drop_eq_getElem_cons (by simpa using hin)]
  simp [leNat]

theorem set_eq_take_append_bytesAt (hi : i < n) (hn : n ≤ l.length) :
    (l.take n).set i b = l.take i ++ [b] ++ bytesAt l (i + 1) (n - (i + 1)) := by
  rw [List.set_eq_take_append_cons_drop, if_pos (by simp; omega), bytesAt_eq_take_drop (by omega), List.drop_take, List.take_take,
    min_eq_left hi.le, List.append_assoc, List.singleton_append]

end

/-! What `parseFrame` accepts. -/

/-- The length of a frame agrees with its payload length, which its version allows (Table 1 of chapter 15). -/
def FrameSized (l : List Byte) : Prop :=
  8 ≤ l.length ∧ l.length = leAt l 5 1 + 8 ∧ leAt l 5 1 ≤ if leAt l 0 1 = 1 then 64 else 240

/-- The last two bytes are the CRC of the others with byte 4 taken as zero (R409). -/
def FrameChecks (l : List Byte) : Prop := beNat (l.drop (l.length - 2)) = crc16 ((l.take (l.length - 2)).set 4 0)

/-- The fields of a frame's bytes. -/
def frameOf (l : List Byte) : DclFrame where
  version := BitVec.ofNat 8 (leAt l 0 1)
  type := BitVec.ofNat 8 (leAt l 1 1)
  dest := BitVec.ofNat 8 (leAt l 2 1)
  source := BitVec.ofNat 8 (leAt l 3 1)
  hops := BitVec.ofNat 8 (leAt l 4 1)
  payload := bytesAt l 6 (leAt l 5 1)

/-- In a frame of its right size the model's cuts around byte 4 and at the CRC are those of `FrameChecks`. -/
theorem frameChecks_iff {l : List Byte} (hsized : FrameSized l) :
    FrameChecks l ↔ crc16 (l.take 4 ++ [0] ++ bytesAt l 5 (leAt l 5 1 + 1)) = beNat (bytesAt l (leAt l 5 1 + 6) 2) := by
  obtain ⟨-, hlen, -⟩ := hsized
  have hcut : l.length - 2 = leAt l 5 1 + 6 := by omega
  have hcovered := set_eq_take_append_bytesAt (l := l) (i := 4) (n := leAt l 5 1 + 6) (b := 0) (by omega) (by omega)
  have hstored : bytesAt l (leAt l 5 1 + 6) 2 = l.drop (leAt l 5 1 + 6) := by
    rw [bytesAt_eq_take_drop (by omega), List.take_of_length_le (by simp; omega)]
  rw [FrameChecks, hcut, hcovered, hstored]
  exact eq_comm

/-- What `parseFrame` accepts and answers: a frame of its right size whose CRC is right, and its fields. -/
theorem parseFrame_eq_ok_iff {l : List Byte} {f : DclFrame} : parseFrame l = .ok f ↔ FrameSized l ∧ FrameChecks l ∧ frameOf l = f := by
  have hrefused : (l.length < 8 ∨ l.length ≠ leAt l 5 1 + 8 ∨ (if leAt l 0 1 = 1 then 64 else 240) < leAt l 5 1) ↔ ¬FrameSized l := by
    simp only [FrameSized, not_and_or, not_le]
  by_cases hsized : FrameSized l
  · rw [parseFrame, if_neg (mt hrefused.mp (not_not.mpr hsized)), frameChecks_iff hsized]
    by_cases hcrc : crc16 (l.take 4 ++ [0] ++ bytesAt l 5 (leAt l 5 1 + 1)) = beNat (bytesAt l (leAt l 5 1 + 6) 2)
    · rw [if_neg (not_not.mpr hcrc)]
      simp only [hsized, hcrc, true_and, Except.ok.injEq]
      rfl
    · rw [if_pos hcrc]
      simp only [hcrc, false_and, and_false, reduceCtorEq]
  · rw [parseFrame, if_pos (hrefused.mpr hsized)]
    simp only [hsized, false_and, reduceCtorEq]

/-! Byte 4, the hop count: only the field `hops` comes from it. -/

section
variable {l : List Byte}

theorem frameSized_setHops (h : Byte) : FrameSized (l.set 4 h) ↔ FrameSized l := by
  simp [FrameSized, leAt_set_of_outside]

theorem frameChecks_setHops (hsized : FrameSized l) (h : Byte) : FrameChecks (l.set 4 h) ↔ FrameChecks l := by
  have hbefore : 4 < l.length - 2 := by have := hsized.1; omega
  rw [FrameChecks, FrameChecks, List.length_set, List.drop_set_of_lt hbefore, List.take_set, List.set_set]

theorem frameOf_setHops (hsized : FrameSized l) (h : Byte) : frameOf (l.set 4 h) = { frameOf l with hops := h } := by
  have hin : 4 < l.length := by have := hsized.1; omega
  simp [frameOf, leAt_set_of_outside, bytesAt_set_of_outside, leAt_set_self hin]

/-- A forwarder may raise the hop count and keep the CRC (R409). -/
theorem parseFrame_setHops {f : DclFrame} (hok : parseFrame l = .ok f) (h : Byte) : parseFrame (l.set 4 h) = .ok { f with hops := h } := by
  obtain ⟨hsized, hchecks, rfl⟩ := parseFrame_eq_ok_iff.mp hok
  exact parseFrame_eq_ok_iff.mpr
    ⟨(frameSized_setHops h).mpr hsized, (frameChecks_setHops hsized h).mpr hchecks, frameOf_setHops hsized h⟩

theorem frameChecks_of_parseFrame {f : DclFrame} (hok : parseFrame l = .ok f) : FrameChecks l := (parseFrame_eq_ok_iff.mp hok).2.1

end

theorem crc16_checkValue : crc16 [0x31, 0x32, 0x33, 0x34, 0x35, 0x36, 0x37, 0x38, 0x39] = 0x29B1 := by decide +kernel

/-- Settles O49: the register's recurrence, its check value, and `parseFrame` through the three conditions it accepts on. -/
theorem frameChecksCoverTheFrame : Obligations.FrameChecksCoverTheFrame :=
  ⟨rfl, crc16_concat, crc16_checkValue, fun _ _ h hok => ⟨frameChecks_of_parseFrame hok, parseFrame_setHops hok h⟩,
    fun _ _ hbad hok => hbad (frameChecks_of_parseFrame hok)⟩

/-! Frames that meet the statement's premises. -/

/-- A version 1 TRIGGER of a rule from unit 2 to all, after 7 hops, with the CRC that rule 5 has. -/
def triggerBytes (rule : Byte) : List Byte := [1, 3, 255, 2, 7, 4, rule, 0, 0, 0, 0x62, 0xD7]

theorem parseFrame_triggerBytes : parseFrame (triggerBytes 5) = .ok ⟨1, 3, 255, 2, 7, [5, 0, 0, 0]⟩ := by decide +kernel

/-- The next unit takes the frame after one more hop, its CRC as it was. -/
theorem parseFrame_triggerBytes_hop : parseFrame ((triggerBytes 5).set 4 8) = .ok ⟨1, 3, 255, 2, 8, [5, 0, 0, 0]⟩ := by
  obtain ⟨-, -, -, haccepted, -⟩ := frameChecksCoverTheFrame
  exact (haccepted _ _ 8 parseFrame_triggerBytes).2

/-- One bit of the payload turned over: no unit accepts the frame. -/
theorem parseFrame_triggerBytes_damaged (f : DclFrame) : parseFrame (triggerBytes 4) ≠ .ok f := by
  obtain ⟨-, -, -, -, hrejected⟩ := frameChecksCoverTheFrame
  exact hrejected _ f (by decide +kernel)

end Sys2Proof.Proofs
end

section
/-! PROOFS. What every command keeps, and what an entry in the sump's log leaves. -/

namespace Sys2Proof.Proofs
open Sys2Proof Sys2Proof.Machine Sys2Proof.Laws

/-- No command changes the queue, the build or the ports, breaks the memory's form or clears a blown fuse bit: the law of its row. -/
theorem keeps_exec (s : State) : ∀ c, KeepsOut s (exec c s)
  | .identify x e => keeps_execIdentify x e s (.refl s)
  | .negotiate x e => keeps_execNegotiate x e s (.refl s)
  | .queueCreate x e => keeps_execQueueCreate x e s (.refl s)
  | .queueDelete x e => keeps_execQueueDelete x e s (.refl s)
  | .featureGet x e => keeps_execFeatureGet x e s (.refl s)
  | .statusInterval x e => keeps_execStatusInterval x e s (.refl s)
  | .periodicSelfTest x e => keeps_execPeriodicSelfTest x e s (.refl s)
  | .sumpSpill x e => keeps_execSumpSpill x e s (.refl s)
  | .reserveWatermarks x e => keeps_execReserveWatermarks x e s (.refl s)
  | .partnerThreshold x e => keeps_execPartnerThreshold x e s (.refl s)
  | .powerPolicy x e => keeps_execPowerPolicy x e s (.refl s)
  | .chainNoticeRate x e => keeps_execChainNoticeRate x e s (.refl s)
  | .logRead x e => keeps_execLogRead x e s (.refl s)
  | .selfTest x e o => keeps_execSelfTest x e o s (.refl s)
  | .storeCreate x e => keeps_execStoreCreate x e s (.refl s)
  | .storeMount x e => keeps_execStoreMount x e s (.refl s)
  | .storeUnmount x e => keeps_execStoreUnmount x e s (.refl s)
  | .storeDelete x e => keeps_execStoreDelete x e s (.refl s)
  | .chamberConfig x e => keeps_execChamberConfig x e s (.refl s)
  | .keySlotLoad x e => keeps_execKeySlotLoad x e s (.refl s)
  | .keySlotZeroise x e => keeps_execKeySlotZeroise x e s (.refl s)
  | .fwStage x e img => keeps_execFwStage x e img s (.refl s)
  | .fwActivate x e img => keeps_execFwActivate x e img s (.refl s)
  | .lifecycleAdvance x e burn => keeps_execLifecycleAdvance x e burn s (.refl s)
  | .chainMasterEnumerate x e => keeps_execChainMasterEnumerate x e s (.refl s)
  | .chainSetMember x e => keeps_execChainSetMember x e s (.refl s)
  | .chainSetIsolated x e => keeps_execChainSetIsolated x e s (.refl s)
  | .chainReenumerate x e => keeps_execChainReenumerate x e s (.refl s)
  | .chainStatus x e => keeps_execChainStatus x e s (.refl s)
  | .abort x e => keeps_execAbort x e s (.refl s)
  | .storageAttach x e ci => keeps_execStorageAttach x e ci s (.refl s)
  | .storageDetach x e => keeps_execStorageDetach x e s (.refl s)
  | .chamberQuiesce x e => keeps_execChamberQuiesce x e s (.refl s)
  | .testOpcode x e => keeps_execTestOpcode x e s (.refl s)
  | .regionDeclare x e => keeps_execRegionDeclare x e s (.refl s)
  | .regionRetire x e => keeps_execRegionRetire x e s (.refl s)
  | .capture x e => keeps_execCapture x e s (.refl s)
  | .drainHint x e => keeps_execDrainHint x e s (.refl s)
  | .captureCancel x e => keeps_execCaptureCancel x e s (.refl s)
  | .replicaSet x e => keeps_execReplicaSet x e s (.refl s)
  | .triggerArm x e => keeps_execTriggerArm x e s (.refl s)
  | .triggerDisarm x e => keeps_execTriggerDisarm x e s (.refl s)
  | .condense x e => keeps_execCondense x e s (.refl s)
  | .restore x e => keeps_execRestore x e s (.refl s)
  | .restoreSlice x e => keeps_execRestoreSlice x e s (.refl s)
  | .verify x e => keeps_execVerify x e s (.refl s)
  | .manifestRead x e => keeps_execManifestRead x e s (.refl s)
  | .streamOpen x e => keeps_execStreamOpen x e s (.refl s)
  | .streamClose x e => keeps_execStreamClose x e s (.refl s)
  | .streamSeek x e => keeps_execStreamSeek x e s (.refl s)
  | .streamCancel x e => keeps_execStreamCancel x e s (.refl s)
  | .dovetail x e stages => keeps_execDovetail x e stages s (.refl s)
  | .programLoad x e => keeps_execProgramLoad x e s (.refl s)
  | .stepBegin x e => keeps_execStepBegin x e s (.refl s)
  | .stepMeasure x e => keeps_execStepMeasure x e s (.refl s)
  | .stepNorm x e => keeps_execStepNorm x e s (.refl s)
  | .stepApply x e => keeps_execStepApply x e s (.refl s)
  | .stepAbort x e => keeps_execStepAbort x e s (.refl s)
  | .stepRollback x e => keeps_execStepRollback x e s (.refl s)
  | .tierPlace x e => keeps_execTierPlace x e s (.refl s)
  | .anchorSet x e => keeps_execAnchorSet x e s (.refl s)
  | .deltaEmit x e => keeps_execDeltaEmit x e s (.refl s)
  | .deltaApply x e => keeps_execDeltaApply x e s (.refl s)
  | .peerEnable x e => keeps_execPeerEnable x e s (.refl s)
  | .peerDisable x e => keeps_execPeerDisable x e s (.refl s)
  | .replicaDigest x e => keeps_execReplicaDigest x e s (.refl s)
  | .digest x e => keeps_execDigest x e s (.refl s)
  | .hmac x e => keeps_execHmac x e s (.refl s)
  | .seal x e => keeps_execSeal x e s (.refl s)
  | .unseal x e => keeps_execUnseal x e s (.refl s)
  | .extend x e => keeps_execExtend x e s (.refl s)
  | .syncAlloc x e => keeps_execSyncAlloc x e s (.refl s)
  | .syncFree x e => keeps_execSyncFree x e s (.refl s)
  | .syncSignal x e => keeps_execSyncSignal x e s (.refl s)
  | .watchSet x e => keeps_execWatchSet x e s (.refl s)
  | .watchClear x e => keeps_execWatchClear x e s (.refl s)
  | .barrierJoin x e => keeps_execBarrierJoin x e s (.refl s)
  | .k2Credit x e => keeps_execK2Credit x e s (.refl s)
  | .twinEntry x e => keeps_execTwinEntry x e s (.refl s)
  | .sqTailDoorbell a ch q v => keeps_execSqTailDoorbell a ch q v s (.refl s)
  | .cqHeadDoorbell a ch q v => keeps_execCqHeadDoorbell a ch q v s (.refl s)
  | .sqEntryFetch ans => keeps_execSqEntryFetch ans s (.refl s)
  | .commandDispatch ch e => keeps_execCommandDispatch ch e s (.refl s)
  | .clampGrant => keeps_execClampGrant s (.refl s)
  | .completionPost e => keeps_execCompletionPost e s (.refl s)
  | .statusWordUpdate ch sq cid e => keeps_execStatusWordUpdate ch sq cid e s (.refl s)
  | .adminQueueEnable a ch cq => keeps_execAdminQueueEnable a ch cq s (.refl s)
  | .adminSqDisable a ch => keeps_execAdminSqDisable a ch s (.refl s)
  | .adminCqDisable a ch => keeps_execAdminCqDisable a ch s (.refl s)
  | .ilvApply a => keeps_execIlvApply a s (.refl s)
  | .fwLoad a img => keeps_execFwLoad a img s (.refl s)
  | .syncLinkWrite a obj v => keeps_execSyncLinkWrite a obj v s (.refl s)
  | .syncHandSet a obj v e => keeps_execSyncHandSet a obj v e s (.refl s)
  | .signalApertureWrite a off v sizeOk e => keeps_execSignalApertureWrite a off v sizeOk e s (.refl s)
  | .stagingRead a off len => keeps_execStagingRead a off len s (.refl s)
  | .stagingWrite a off data => keeps_execStagingWrite a off data s (.refl s)
  | .stagingReadTimeout off => keeps_execStagingReadTimeout off s (.refl s)
  | .readClearAccess a addr => keeps_execReadClearAccess a addr s (.refl s)
  | .rsvWmRead a ch => keeps_execRsvWmRead a ch s (.refl s)
  | .halfWordWrite a addr v e img => keeps_execHalfWordWrite a addr v e img s (.refl s)
  | .registerWrite a addr wide v e img => keeps_execRegisterWrite a addr wide v e img s (.refl s)
  | .dgtContextClaim a c v => keeps_execDgtContextClaim a c v s (.refl s)
  | .dgtContextRelease a c v => keeps_execDgtContextRelease a c v s (.refl s)
  | .dgtContextAbort a c v => keeps_execDgtContextAbort a c v s (.refl s)
  | .dgtContextRestore a c v => keeps_execDgtContextRestore a c v s (.refl s)
  | .dgtData a c w wide => keeps_execDgtData a c w wide s (.refl s)
  | .dgtLast a c b w wide => keeps_execDgtLast a c b w wide s (.refl s)
  | .dgtFinish a c wide => keeps_execDgtFinish a c wide s (.refl s)
  | .dgtMessageDone c => keeps_execDgtMessageDone c s (.refl s)
  | .dgtStateRead a c => keeps_execDgtStateRead a c s (.refl s)
  | .hslotLoad a h v => keeps_execHslotLoad a h v s (.refl s)
  | .hslotClear a h => keeps_execHslotClear a h s (.refl s)
  | .pwrWake a => keeps_execPwrWake a s (.refl s)
  | .pwrOffReq a => keeps_execPwrOffReq a s (.refl s)
  | .lampLower a level => keeps_execLampLower a level s (.refl s)
  | .coreHalt a mask => keeps_execCoreHalt a mask s (.refl s)
  | .coreResume a mask => keeps_execCoreResume a mask s (.refl s)
  | .sumpClear a => keeps_execSumpClear a s (.refl s)
  | .spillConsume a v => keeps_execSpillConsume a v s (.refl s)
  | .sdxKick a ch peers => keeps_execSdxKick a ch peers s (.refl s)
  | .lampUnlockRequest v => keeps_execLampUnlockRequest v s (.refl s)
  | .lampUnlockResponse r sg => keeps_execLampUnlockResponse r sg s (.refl s)
  | .scanEnter => keeps_execScanEnter s (.refl s)
  | .jigManualSession open_ => keeps_execJigManualSession open_ s (.refl s)
  | .jigManualSlice v o => keeps_execJigManualSlice v o s (.refl s)
  | .tapInstruction code => keeps_execTapInstruction code s (.refl s)
  | .hreqRequest st r => keeps_execHreqRequest st r s (.refl s)
  | .copyComplete st => keeps_execCopyComplete st s (.refl s)
  | .stallRelease st cell => keeps_execStallRelease st cell s (.refl s)
  | .heldWriteLimit st => keeps_execHeldWriteLimit st s (.refl s)
  | .mrspResponse st r => keeps_execMrspResponse st r s (.refl s)
  | .fabReadData port tag data poison err => keeps_execFabReadData port tag data poison err s (.refl s)
  | .fabWriteAck port tag err => keeps_execFabWriteAck port tag err s (.refl s)
  | .tagTimeout ref => keeps_execTagTimeout ref s (.refl s)
  | .captureStart ch => keeps_execCaptureStart ch s (.refl s)
  | .freezeAck => keeps_execFreezeAck s (.refl s)
  | .freezeAckFall => keeps_execFreezeAckFall s (.refl s)
  | .freezeTimeout => keeps_execFreezeTimeout s (.refl s)
  | .cellTakeUnit st cell e => keeps_execCellTakeUnit st cell e s (.refl s)
  | .directoryLookupAnswer st cell hit => keeps_execDirectoryLookupAnswer st cell hit s (.refl s)
  | .cipherAssign core => keeps_execCipherAssign core s (.refl s)
  | .cipherCoreFail core => keeps_execCipherCoreFail core s (.refl s)
  | .blockWriteComplete st granule => keeps_execBlockWriteComplete st granule s (.refl s)
  | .blockWriteFailed st granule => keeps_execBlockWriteFailed st granule s (.refl s)
  | .sealWaitTimeout => keeps_execSealWaitTimeout s (.refl s)
  | .captureCommit e => keeps_execCaptureCommit e s (.refl s)
  | .moverLoss st => keeps_execMoverLoss st s (.refl s)
  | .eventPulse k => keeps_execEventPulse k s (.refl s)
  | .eventLevel k v => keeps_execEventLevel k v s (.refl s)
  | .levelRuleTimer => keeps_execLevelRuleTimer s (.refl s)
  | .keyLoadWord slot w data par => keeps_execKeyLoadWord slot w data par s (.refl s)
  | .keyCommit slot => keeps_execKeyCommit slot s (.refl s)
  | .keyZeroise slot => keeps_execKeyZeroise slot s (.refl s)
  | .keyLoadingTimeout slot => keeps_execKeyLoadingTimeout slot s (.refl s)
  | .entropyWord w fail => keeps_execEntropyWord w fail s (.refl s)
  | .drbgReseedDue => keeps_execDrbgReseedDue s (.refl s)
  | .drbgReseedTimeout => keeps_execDrbgReseedTimeout s (.refl s)
  | .wakeBudgetChange v => keeps_execWakeBudgetChange v s (.refl s)
  | .supplyWarn v => keeps_execSupplyWarn v s (.refl s)
  | .wakeStart => keeps_execWakeStart s (.refl s)
  | .domainWakeComplete d img => keeps_execDomainWakeComplete d img s (.refl s)
  | .idleTimer d => keeps_execIdleTimer d s (.refl s)
  | .passEntry e => keeps_execPassEntry e s (.refl s)
  | .kxRailDetect up => keeps_execKxRailDetect up s (.refl s)
  | .coldResetAssert => keeps_execColdResetAssert s (.refl s)
  | .coldReset burn fuseErr => keeps_execColdReset burn fuseErr s (.refl s)
  | .warmResetAssert => keeps_execWarmResetAssert s (.refl s)
  | .warmReset img => keeps_execWarmReset img s (.refl s)
  | .stileReset st => keeps_execStileReset st s (.refl s)
  | .stileResetRelease st => keeps_execStileResetRelease st s (.refl s)
  | .vddKaLoss => keeps_execVddKaLoss s (.refl s)
  | .timeInRegress t => keeps_execTimeInRegress t s (.refl s)
  | .chainFrameReceived bytes damaged e => keeps_execChainFrameReceived bytes damaged e s (.refl s)
  | .chainTransmit => keeps_execChainTransmit s (.refl s)
  | .chainLinkDown up => keeps_execChainLinkDown up s (.refl s)
  | .enum f => keeps_execEnum f s (.refl s)
  | .beacon f => keeps_execBeacon f s (.refl s)
  | .trigger f => keeps_execTrigger f s (.refl s)
  | .notice f => keeps_execNotice f s (.refl s)
  | .join f => keeps_execJoin f s (.refl s)
  | .signal f e => keeps_execSignal f e s (.refl s)
  | .signalAck f => keeps_execSignalAck f s (.refl s)
  | .signalRefuse f => keeps_execSignalRefuse f s (.refl s)
  | .barArrive f => keeps_execBarArrive f s (.refl s)
  | .barWithdraw f => keeps_execBarWithdraw f s (.refl s)
  | .barAck f => keeps_execBarAck f s (.refl s)
  | .barRelease f e => keeps_execBarRelease f e s (.refl s)
  | .beaconTimer => keeps_execBeaconTimer s (.refl s)
  | .enumTimeout => keeps_execEnumTimeout s (.refl s)
  | .masterLoss => keeps_execMasterLoss s (.refl s)
  | .electionTimer => keeps_execElectionTimer s (.refl s)
  | .remoteSignalRetry dest seq => keeps_execRemoteSignalRetry dest seq s (.refl s)
  | .noticeRepeat => keeps_execNoticeRepeat s (.refl s)
  | .syncRemoteHoldExpiry obj => keeps_execSyncRemoteHoldExpiry obj s (.refl s)
  | .barrierTimeout ch sq cid => keeps_execBarrierTimeout ch sq cid s (.refl s)
  | .violationDecay p => keeps_execViolationDecay p s (.refl s)
  | .streamIssue idx e => keeps_execStreamIssue idx e s (.refl s)
  | .streamLanding idx e => keeps_execStreamLanding idx e s (.refl s)
  | .dependenceTimeout idx => keeps_execDependenceTimeout idx s (.refl s)
  | .sdxRingPoll ch p e => keeps_execSdxRingPoll ch p e s (.refl s)
  | .sdxFrameReceive ch p e => keeps_execSdxFrameReceive ch p e s (.refl s)
  | .sdxNack ch p e => keeps_execSdxNack ch p e s (.refl s)
  | .sdxCatchupReq ch p e => keeps_execSdxCatchupReq ch p e s (.refl s)
  | .nackLeadTimer ch e => keeps_execNackLeadTimer ch e s (.refl s)
  | .deltaDeadline ch e => keeps_execDeltaDeadline ch e s (.refl s)
  | .nvmeCompletion c cqe => keeps_execNvmeCompletion c cqe s (.refl s)
  | .nvmeCommandTimeout c cid => keeps_execNvmeCommandTimeout c cid s (.refl s)
  | .nvmeSmartPoll c log critical => keeps_execNvmeSmartPoll c log critical s (.refl s)
  | .journalCheckpoint store e => keeps_execJournalCheckpoint store e s (.refl s)
  | .gcCompact store zone e => keeps_execGcCompact store zone e s (.refl s)
  | .bitmapRowSweep st => keeps_execBitmapRowSweep st s (.refl s)
  | .sumpSpillEntry e => keeps_execSumpSpillEntry e s (.refl s)
  | .heartbeatTimeout => keeps_execHeartbeatTimeout s (.refl s)
  | .slabCopy => keeps_execSlabCopy s (.refl s)
  | .cc0Watchdog => keeps_execCc0Watchdog s (.refl s)
  | .periodicSlice o => keeps_execPeriodicSlice o s (.refl s)
  | .sliceYield => keeps_execSliceYield s (.refl s)
  | .sliceComplete o => keeps_execSliceComplete o s (.refl s)
  | .cellSelfCheckFail st cell => keeps_execCellSelfCheckFail st cell s (.refl s)
  | .controlCoreFailure core restartOk => keeps_execControlCoreFailure core restartOk s (.refl s)
  | .sramFault u spare => keeps_execSramFault u spare s (.refl s)
  | .vddKxRemoval => keeps_execVddKxRemoval s (.refl s)
  | .lampBackoffExpiry => keeps_execLampBackoffExpiry s (.refl s)
  | .jigWindowRegained vdd tj => keeps_execJigWindowRegained vdd tj s (.refl s)
  | .noticeToken => keeps_execNoticeToken s (.refl s)
  | .halfWordRead a addr => keeps_execHalfWordRead a addr s (.refl s)

/-- Logging moves only the time used, the interrupt causes, the sump and the chain's notices (R424, R479-R485). -/
theorem log_frame (s : State) (c : BitVec 16) (v k i : Nat) (ch : Option Nat) (d : List Byte) :
    s.log c v k i ch d = { s with
      timeUsed := (s.log c v k i ch d).timeUsed, port := (s.log c v k i ch d).port, sump := (s.log c v k i ch d).sump
      chain := (s.log c v k i ch d).chain, chainW := (s.log c v k i ch d).chainW } := by
  unfold State.log State.notice
  dsimp only
  (repeat' split) <;> rfl

end Sys2Proof.Proofs
end

section
/-! PROOFS. Pending transitions (R457): the pending target as the last index a search finds, the reading of a row, and the fuse bits along a step. -/

namespace Sys2Proof.Proofs
open Sys2Proof Sys2Proof.Machine Sys2Proof.Laws

/-- A search from the top of `0 … n - 1` finds the highest index that passes. -/
theorem find?_reverse_range_eq_some {n k : Nat} {p : Nat → Bool} :
    (List.range n).reverse.find? p = some k ↔ k < n ∧ p k = true ∧ ∀ j, k < j → j < n → p j = false := by
  induction n with
  | zero => simp
  | succ n ih =>
    rw [List.range_succ, List.reverse_append, List.reverse_singleton, List.singleton_append, List.find?_cons]
    cases hn : p n with
    | true =>
      constructor
      · rintro ⟨⟩
        exact ⟨by omega, hn, fun j _ _ => by omega⟩
      · rintro ⟨hk, -, hmax⟩
        obtain hlt | rfl : k < n ∨ k = n := by omega
        · simp [hmax n hlt (by omega)] at hn
        · rfl
    | false =>
      rw [ih]
      constructor
      · rintro ⟨hk, hpk, hmax⟩
        refine ⟨by omega, hpk, fun j hkj hj => ?_⟩
        obtain hlt | rfl : j < n ∨ j = n := by omega
        · exact hmax j hkj hlt
        · exact hn
      · rintro ⟨hk, hpk, hmax⟩
        have hne : k ≠ n := by rintro rfl; simp [hn] at hpk
        exact ⟨by omega, hpk, fun j hkj hj => hmax j hkj (by omega)⟩

/-- The pending target is the highest intent row above the present state that stands without its commit row (R457). -/
theorem pendingCode_eq_some_iff {b : Boot} {k : Nat} :
    b.pendingCode = some k ↔ b.lifeCode < k ∧ k < 6 ∧ b.burnt (2 * k) = true ∧ b.burnt (2 * k + 1) = false ∧
      ∀ j, k < j → j < 6 → b.burnt (2 * j) = true → b.burnt (2 * j + 1) = true := by
  rw [Boot.pendingCode, find?_reverse_range_eq_some]
  simp only [Bool.and_eq_true, decide_eq_true_eq, Bool.not_eq_true', Bool.and_eq_false_iff, decide_eq_false_iff_not, Bool.not_eq_false']
  constructor
  · rintro ⟨hk, ⟨⟨hlife, hintent⟩, hcommit⟩, hmax⟩
    refine ⟨hlife, hk, hintent, hcommit, fun j hkj hj hburnt => ?_⟩
    obtain (hlow | hintent) | hcommit := hmax j hkj hj
    · omega
    · simp [hburnt] at hintent
    · exact hcommit
  · rintro ⟨hlife, hk, hintent, hcommit, hmax⟩
    refine ⟨hk, ⟨⟨hlife, hintent⟩, hcommit⟩, fun j hkj hj => ?_⟩
    cases hburnt : b.burnt (2 * j) with
    | false => simp
    | true => exact .inr (hmax j hkj hj hburnt)

section
variable {s t : State} {b : Boot} {row i : Nat}

/-- A row that was read without FUSE_ERR reads as its fuses (R476). -/
theorem row_of_read (hread : row ∉ b.fuseErr) : b.row row = b.fuses.get row := by
  simp [Boot.row, hread]

theorem not_burnt_of_few (hread : row ∉ b.fuseErr) (hfew : ones (b.fuses.get row) < 24) : b.burnt row = false := by
  rw [Boot.burnt, row_of_read hread]
  exact decide_eq_false (by omega)

/-- Programming a row in full completes it, whatever of it was burnt before (R457). -/
theorem burnt_burnRow (hread : row ∉ s.boot.fuseErr) : (s.burnRow row).boot.burnt row = true := by
  have hrow : (s.burnRow row).boot.row row = 0xFFFFFFFF :=
    (row_of_read (b := (s.burnRow row).boot) hread).trans (get_set_self s.boot.fuses _ _)
  rw [Boot.burnt, hrow]
  decide

theorem bit_fuses_of_keeps (h : Keeps s t) (hbit : bit (s.boot.fuses.get row) i = true) :
    bit (t.boot.fuses.get row) i = true := by
  obtain ⟨-, -, -, -, hfuses⟩ := h
  rw [← hfuses row, bit, BitVec.getLsbD_and, Bool.and_eq_true] at hbit
  exact hbit.2

/-- A step is a nanosecond, which leaves start-up alone, or a command, which keeps the fuse bits. -/
theorem step_keeps_fuse_bit (hstep : step s = .next t) (hbit : bit (s.boot.fuses.get row) i = true) :
    bit (t.boot.fuses.get row) i = true := by
  rw [step] at hstep
  split at hstep
  · cases hstep
    exact hbit
  · next c rest _ => exact bit_fuses_of_keeps (keeps_exec (s.withPending rest) c t hstep) hbit

end

/-- Settles O48: the search for the target, the 24 ones a row needs, and the fuse bits kept by every row of `exec`. -/
theorem pendingTransitionsAreFound : Obligations.PendingTransitionsAreFound :=
  ⟨fun _ _ => pendingCode_eq_some_iff, fun _ _ => not_burnt_of_few, fun _ _ => burnt_burnRow, fun _ _ _ _ => step_keeps_fuse_bit⟩

/-! The statement's premises are met: PROV is committed, the intent of FIELD stands with the 24 ones it needs and that of FIELD_OPEN with one less. -/

/-- Both rows of PROV burnt in full, row 4 with 24 ones and row 6 with 23. -/
def interruptedBoot : Boot :=
  { Boot.reset with fuses := (((SMap.const 0).set 2 0xFFFFFFFF).set 3 0xFFFFFFFF |>.set 4 0x00FFFFFF).set 6 0x007FFFFF }

/-- FIELD is pending; FIELD_OPEN is not, for the want of one bit. -/
theorem interruptedBoot_pending : interruptedBoot.pendingCode = some 2 ∧ interruptedBoot.burnt 6 = false := by
  obtain ⟨-, hfew, -, -⟩ := pendingTransitionsAreFound
  exact ⟨by decide +kernel, hfew _ _ (by decide) (by decide +kernel)⟩

/-- The block with those fuses. -/
def interruptedState : State := { State.reset with boot := interruptedBoot }

/-- A burn of the partial row completes it, and FIELD_OPEN is the target. -/
theorem interruptedState_completed :
    (interruptedState.burnRow 6).boot.burnt 6 = true ∧ (interruptedState.burnRow 6).boot.pendingCode = some 3 := by
  obtain ⟨-, -, hcompletes, -⟩ := pendingTransitionsAreFound
  exact ⟨hcompletes _ _ (by decide), by decide +kernel⟩

end Sys2Proof.Proofs
end

section
/-! PROOFS. Two lifecycle states combined (R452): each of the four grants asks the present state and the pending target alike. -/

namespace Sys2Proof.Proofs
open Sys2Proof Sys2Proof.Machine Sys2Proof.Laws

section
variable {s : State} {b : Life} {v : BitVec 8} {d : List Byte} {x : Sub}

/-! A denial is logged and changes neither the lamp nor the jig (R461). -/

theorem lampDenied_life : (s.lampDenied d).life = s.life := by
  rw [State.lampDenied, State.logStatus, log_frame]

theorem lampDenied_jig : (s.lampDenied d).jig = s.jig := by
  rw [State.lampDenied, State.logStatus, log_frame]

/-! What two combined states grant. -/

/-- The lower of the two ceilings bounds what both bound. -/
theorem le_ceiling_iff (hpending : s.life.pending = some b) {n : Nat} :
    n ≤ s.life.ceiling ↔ n ≤ s.life.life.ceiling ∧ n ≤ b.ceiling := by
  rw [LifeLamp.ceiling, hpending]
  exact Nat.le_min

theorem testOps_iff (hpending : s.life.pending = some b) : s.testOps = true ↔ s.life.life.grants = true ∧ b.grants = true := by
  rw [State.testOps, hpending]
  exact Bool.and_eq_true_iff

theorem jigAllowed_eq (hpending : s.life.pending = some b) :
    s.jigAllowed = (s.life.life.jigAt s.life.level && b.jigAt s.life.level) := by
  rw [State.jigAllowed, hpending]

/-! The four uses of a grant. -/

/-- A request above the level is a challenge up to the ceiling, and denied above it (R462). -/
theorem lampRequest_higher (hhigher : s.life.level < v.toNat) (hlevel : v.toNat < 4) (hready : s.boot.stage = .ready)
    (hbackoff : s.life.backoff = false) :
    s.lampRequest v = if v.toNat ≤ s.life.ceiling then { s.draw.2 with life := { s.life with request := some (v.toNat, s.draw.1) } }
      else s.lampDenied [v] := by
  have hmod : v.toNat % 4 = v.toNat := Nat.mod_eq_of_lt hlevel
  rw [State.lampRequest, hmod, if_neg (by omega), if_neg (by omega), if_neg (by omega)]
  have hopen : (v.toNat ≤ s.life.ceiling ∧ s.boot.stage = .ready ∧ (!s.life.backoff) = true) ↔ v.toNat ≤ s.life.ceiling := by
    simp [hready, hbackoff]
  exact if_congr hopen rfl rfl

theorem lampRequest_combined (hpending : s.life.pending = some b) (hhigher : s.life.level < v.toNat) (hlevel : v.toNat < 4)
    (hready : s.boot.stage = .ready) (hbackoff : s.life.backoff = false) :
    (s.lampRequest v).life.level = s.life.level ∧ (s.lampRequest v).life.request =
      if v.toNat ≤ s.life.life.ceiling ∧ v.toNat ≤ b.ceiling then some (v.toNat, s.draw.1) else s.life.request := by
  rw [lampRequest_higher hhigher hlevel hready hbackoff]
  by_cases hle : v.toNat ≤ s.life.ceiling
  · rw [if_pos hle, if_pos ((le_ceiling_iff hpending).mp hle)]
    exact ⟨rfl, rfl⟩
  · rw [if_neg hle, if_neg (mt (le_ceiling_iff hpending).mpr hle), lampDenied_life]
    exact ⟨rfl, rfl⟩

theorem loadIr_tapIr (code : BitVec 6) : (s.loadIr code).life.tapIr = code := rfl

theorem loadIr_no_session (hmanual : s.jig.manual = false) (code : BitVec 6) : s.loadIr code = { s with life := { s.life with tapIr := code } } := by
  rw [State.loadIr, hmanual]
  rfl

theorem openJig_manual (hmanual : s.jig.manual = false) : s.openJig.jig.manual = s.jigAllowed := by
  rw [State.openJig, loadIr_no_session hmanual, loadIr_no_session hmanual, hmanual]
  cases hallowed : s.jigAllowed with
  | true => rfl
  | false =>
    rw [if_pos (by rfl), lampDenied_jig]
    exact hmanual

/-- An EXTEST load is BYPASS where the test opcodes are not granted (R70). -/
theorem exec_extest (hrelease : s.boot.resetHeld ≠ 2) :
    exec (.tapInstruction 0) s = .next (if s.testOps then s.loadIr 0 else (s.loadIr 0x3F).lampDenied [0]) :=
  congrArg Host.Outcome.next (if_neg hrelease)

theorem extest_tapIr : (if s.testOps then s.loadIr 0 else (s.loadIr 0x3F).lampDenied [0]).life.tapIr = if s.testOps then 0 else 0x3F := by
  cases s.testOps with
  | true => rfl
  | false => exact congrArg LifeLamp.tapIr lampDenied_life

/-- The opcodes from 0xF0 on are Table 2's row of test opcodes. -/
theorem opInfo_of_test (h : 0xF0 ≤ x.opcode.toNat) :
    opInfo x = some ⟨false, false, 30, 4, 0xFFFFFFFF, m64, m64, m64, m64, m64, m64⟩ := by
  rw [opInfo]
  split
  any_goals omega
  exact if_pos h

theorem testSub_opcode (x : Sub) : 0xF0 ≤ (testSub x).opcode.toNat := by
  rw [testSub, BitVec.toNat_or]
  exact Nat.right_le_or

/-- Only the lifecycle assigns a test opcode, so that one the checks let pass is granted (R108, R123). -/
theorem testOps_of_check (hcheck : s.check (testSub x) = none) : s.testOps = true := by
  rw [State.check] at hcheck
  split at hcheck
  · cases hcheck
  · rw [State.checkBody, opInfo_of_test (testSub_opcode x)] at hcheck
    cases htest : s.testOps with
    | true => rfl
    | false => simp [htest] at hcheck

end

/-- Settles O47: the ceiling, the manual jig and the test opcodes of the combined state, each split into what the two states grant. -/
theorem twoLifecycleStatesGrantTheLess : Obligations.TwoLifecycleStatesGrantTheLess := by
  rintro s a b hrelease rfl hpending
  refine ⟨fun v hhigher hlevel hready hbackoff => ?_, fun hmanual => ?_, ?_, fun x _ hcheck => ?_⟩
  · exact ⟨_, congrArg Host.Outcome.next (if_neg hrelease), lampRequest_combined hpending hhigher hlevel hready hbackoff⟩
  · exact ⟨_, congrArg Host.Outcome.next (if_neg hrelease), (openJig_manual hmanual).trans (jigAllowed_eq hpending)⟩
  · simp only [← testOps_iff hpending]
    exact ⟨_, exec_extest hrelease, extest_tapIr⟩
  · exact (testOps_iff hpending).mp (testOps_of_check hcheck)

/-! The statement's premises are met: MANUF with PROV pending grants less than MANUF, MANUF with RETURN pending grants the same. -/

/-- A block of fresh fuses in READY and RUN, on its way to another lifecycle state. -/
def advancingState (target : Life) : State :=
  let r := State.reset
  { r with
    boot := { r.boot with stage := .ready }
    pwr := { r.pwr with state := .run }
    life := { r.life with pending := some target } }

/-- PROV allows LAMP2: a request for LAMP3 is not taken, one for LAMP2 is; and an EXTEST load is BYPASS. -/
theorem advancingState_prov :
    (∃ u, exec (.lampUnlockRequest 3) (advancingState .prov) = .next u ∧ u.life.request = none) ∧
    (∃ u, exec (.lampUnlockRequest 2) (advancingState .prov) = .next u ∧ u.life.request = some (2, (advancingState .prov).draw.1)) ∧
    (∃ u, exec (.tapInstruction 0) (advancingState .prov) = .next u ∧ u.life.tapIr = 0x3F) := by
  obtain ⟨hrequest, -, hextest, -⟩ := twoLifecycleStatesGrantTheLess (advancingState .prov) .manuf .prov (by decide) rfl rfl
  obtain ⟨u, hu, -, hnot⟩ := hrequest 3 (by decide) (by decide) rfl rfl
  obtain ⟨w, hw, -, htaken⟩ := hrequest 2 (by decide) (by decide) rfl rfl
  exact ⟨⟨u, hu, hnot⟩, ⟨w, hw, htaken⟩, hextest⟩

/-- An entry in queue 1 of chamber 0 with nothing but its command ID. -/
def plainEntry : Sub :=
  { chamber := 0, sq := 1, opcode := 0, flags := 0, cid := 1, handle := 0, statusAddr := 0, a := 0, b := 0, c := 0, d := 0, e := 0, f := 0 }

/-- MANUF and RETURN both grant: a session opens and the checks let a test opcode pass. -/
theorem advancingState_ret :
    (∃ u, exec (.jigManualSession true) (advancingState .ret) = .next u ∧ u.jig.manual = true) ∧
    (advancingState .ret).serving = true ∧ (advancingState .ret).check (testSub plainEntry) = none := by
  obtain ⟨-, hjig, -, -⟩ := twoLifecycleStatesGrantTheLess (advancingState .ret) .manuf .ret (by decide) rfl rfl
  exact ⟨hjig rfl, by decide, by decide +kernel⟩

end Sys2Proof.Proofs
end

section
/-! PROOFS. SCAN_ENTER (R466) refuses later wakes, but a wake that ramps already still completes: the start-up goes on to READY, out of OFF. -/

namespace Sys2Proof.Proofs
open Sys2Proof Sys2Proof.Machine Sys2Proof.Laws

section
variable {s : State} {d : Nat} {img : Image}

/-- SCAN_ENTER in OFF at LAMP3 ends the queued wakes and leaves those that ramp. -/
theorem exec_scanEnter_takesEffect (hrelease : s.boot.resetHeld ≠ 2) (hoff : s.pwr.state = .off) (hlamp : s.life.level = 3) :
    exec .scanEnter s = .next { s with pwr := { s.pwr with scanned := true, waking := false, queue := [] } } :=
  congrArg Host.Outcome.next ((if_neg hrelease).trans (if_pos ⟨hoff, hlamp⟩))

/-- Domain `d` has come up: it ramps no longer (R472). -/
def rampEnds (s : State) (d : Nat) : State := { s with pwr := { s.pwr with ramping := s.pwr.ramping.filter (· != d) } }

/-- A hub domain that comes up in a start-up carries it on, and `scanned` is not asked (R75). -/
theorem exec_domainWakeComplete_startUp (hhub : 96 ≤ d) (hramps : d ∈ s.pwr.ramping) (hwaking : s.pwr.waking = false) :
    exec (.domainWakeComplete d img) s = .next ((rampEnds s d).wakeOn img).startWaiting := by
  have hup : (rampEnds s d).domainUp d = rampEnds s d := if_pos hhub
  have hstartUp : ¬(rampEnds s d).pwr.waking = true := by simp [rampEnds, hwaking]
  refine congrArg Host.Outcome.next ((if_neg (by simp [hramps])).trans ?_)
  show (if ((rampEnds s d).domainUp d).pwr.waking = true then _ else (((rampEnds s d).domainUp d).wakeOn img).startWaiting) = _
  rw [hup, if_neg hstartUp]

theorem wakeOn_allUp (hstage : s.boot.stage = .init) (hup : s.allUp = true) : s.wakeOn img = s.becomeReady := by
  simp [State.wakeOn, hstage, hup]

theorem zeroWindow_keeps (s : State) : s.zeroWindow.pwr = s.pwr ∧ s.zeroWindow.jig = s.jig := by
  rw [State.zeroWindow]
  split
  · exact ⟨rfl, rfl⟩
  · dsimp only
    split <;> exact ⟨rfl, rfl⟩

theorem becomeReady_state : s.becomeReady.pwr.state = .run := congrArg Pwr.state (zeroWindow_keeps _).1

theorem becomeReady_jig : s.becomeReady.jig = s.jig := (zeroWindow_keeps _).2

theorem startWaiting_of_none (hnone : s.jig.waitSlice = none) : s.startWaiting = s := by
  rw [State.startWaiting, hnone]

/-- The last domain of a start-up brings power state RUN. -/
theorem lastWake_runs (hhub : 96 ≤ d) (hramps : d ∈ s.pwr.ramping) (hwaking : s.pwr.waking = false) (hstage : s.boot.stage = .init)
    (hup : (rampEnds s d).allUp = true) (hslice : s.jig.waitSlice = none) :
    ∃ t, exec (.domainWakeComplete d img) s = .next t ∧ t.pwr.state = .run := by
  refine ⟨_, exec_domainWakeComplete_startUp hhub hramps hwaking, ?_⟩
  have hready : (rampEnds s d).wakeOn img = (rampEnds s d).becomeReady := wakeOn_allUp hstage hup
  have hnone : (rampEnds s d).becomeReady.jig.waitSlice = none := (congrArg Jig.waitSlice becomeReady_jig).trans hslice
  rw [hready, startWaiting_of_none hnone]
  exact becomeReady_state

end

/-! The counterexample. A warm reset keeps LAMP3 and returns the power state to OFF (R66), so that SCAN_ENTER is taken during the start-up that follows. -/

/-- Such a start-up: OFF, LAMP3, stage INIT, no wake queued, every domain switched on and the last fabric port's still ramping. -/
def lastWakeState : State :=
  let r := State.reset
  { r with
    boot := { r.boot with kxRail := true, stage := .init }
    life := { r.life with level := 3 }
    pwr := { r.pwr with on := BitVec.ofNat 128 (2 ^ 115 - 1), ramping := [114] } }

/-- The same block after SCAN_ENTER. -/
def scannedState : State := { lastWakeState with pwr := { lastWakeState.pwr with scanned := true, waking := false, queue := [] } }

theorem exec_scanEnter_lastWakeState : exec .scanEnter lastWakeState = .next scannedState :=
  exec_scanEnter_takesEffect (by decide) rfl rfl

theorem scannedState_runs (img : Image) : ∃ t, exec (.domainWakeComplete 114 img) scannedState = .next t ∧ t.pwr.state = .run :=
  lastWake_runs (by decide) (by decide) rfl rfl (by decide +kernel) rfl

/-- The image of the start-up, which the last wake does not look at. -/
def startedImage : Image :=
  { fetchErr := false, headerOk := true, version := 1, rollback := 0, pubKey := [], sigR := 0, sigS := 0, digest := 0, liveCompat := false }

/-- Refutes O52: its last clause fails in `scannedState`, which SCAN_ENTER leaves behind: DOMAIN_WAKE_COMPLETE takes the scanned block to RUN. -/
theorem not_scanIsFinal : ¬Obligations.ScanIsFinal := by
  rintro ⟨-, -, hfinal⟩
  obtain ⟨t, hrun, hstate⟩ := scannedState_runs startedImage
  obtain ⟨-, hoff⟩ := hfinal (.domainWakeComplete 114 startedImage) scannedState t nofun nofun (by decide) rfl rfl hrun
  rw [hstate] at hoff
  cases hoff

end Sys2Proof.Proofs
end

section
/-! PROOFS. Coalescing in the sump (R481): an occurrence either goes into an entry of the 32 newest or is placed as an entry of its own. -/

namespace Sys2Proof.Proofs
open Sys2Proof Sys2Proof.Machine Sys2Proof.Laws

/-- Entry `y` takes another occurrence of this code, source and chamber (R481). -/
def takesOccurrence (code : BitVec 16) (kind index : Nat) (ch : Option Nat) (y : SumpEntry) : Bool :=
  y.code == code && y.kind == kind && y.index == index && y.chamber == ch && decide (y.count < 2 ^ 32 - 1)

/-- Entry `z` with one more occurrence, at time `now` and of detail `d`. -/
def coalesceInto (now : Nat) (d : List Byte) (z : SumpEntry) : SumpEntry :=
  { z with count := z.count + 1, last := now, detailLast := padTo 14 d, coalesced := true }

/-- The entry of a first occurrence, under sequence number `seq`. -/
def firstOccurrence (seq now : Nat) (code : BitVec 16) (sev kind index : Nat) (ch : Option Nat) (d : List Byte) : SumpEntry :=
  { seq := seq, first := now, last := now, count := 1, code := code, severity := sev, kind := kind, index := index, chamber := ch,
    coalesced := false, spilled := false, fatalArea := false, detail := padTo 14 d, detailLast := padTo 14 d }

section
variable {u : Sump} {now sev kind index q : Nat} {code : BitVec 16} {ch : Option Nat} {d : List Byte} {e z : SumpEntry}

theorem match_eq_find : u.match code kind index ch =
    ((u.entries.reverse.take 32).find? (takesOccurrence code kind index ch)).map (·.seq) := rfl

theorem exists_of_match_eq_some (hmatch : u.match code kind index ch = some q) :
    ∃ y ∈ u.entries.reverse.take 32, takesOccurrence code kind index ch y = true ∧ y.seq = q := by
  rw [match_eq_find, Option.map_eq_some_iff] at hmatch
  obtain ⟨y, hfind, hseq⟩ := hmatch
  exact ⟨y, List.mem_of_find?_eq_some hfind, List.find?_some hfind, hseq⟩

theorem match_eq_none_iff : u.match code kind index ch = none ↔
    ∀ y ∈ u.entries.reverse.take 32, takesOccurrence code kind index ch y = false := by
  simp [match_eq_find]

/-! The two ways to record an occurrence that is not below the lowest severity. -/

theorem record_of_match_eq_some (hsev : u.minSev ≤ sev) (hmatch : u.match code kind index ch = some q) :
    u.record now code sev kind index ch d =
      { u with entries := u.entries.map fun z => if z.seq = q then coalesceInto now d z else z } := by
  rw [Sump.record, if_neg hsev.not_gt, hmatch]
  rfl

theorem record_of_match_eq_none (hsev : u.minSev ≤ sev) (hmatch : u.match code kind index ch = none) :
    u.record now code sev kind index ch d =
      ({ u with seq := u.seq + 1 } : Sump).place (firstOccurrence u.seq now code sev kind index ch d) := by
  rw [Sump.record, if_neg hsev.not_gt, hmatch]
  rfl

/-- Placing an entry changes no entry held: one may go, and the new one may come, to the general area or to a reserved place (R482). -/
theorem mem_place_entries (hz : z ∈ (u.place e).entries) : z ∈ u.entries ∨ z = e ∨ z = { e with fatalArea := true } := by
  unfold Sump.place at hz
  dsimp only at hz
  split at hz
  case isTrue => -- a free place of the general area
    exact (List.mem_append.mp hz).imp_right (.inl ∘ List.mem_singleton.mp)
  split at hz
  case isTrue => -- a free reserved place
    exact (List.mem_append.mp hz).imp_right (.inr ∘ List.mem_singleton.mp)
  split at hz
  case isFalse => exact .inl hz -- dropped
  split at hz
  next => -- the place of the oldest entry of the lowest severity
    exact (List.mem_append.mp hz).imp List.mem_of_mem_erase (.inl ∘ List.mem_singleton.mp)
  next => exact .inl hz

theorem record_coalesces (hsev : u.minSev ≤ sev) (htakes : ∃ y ∈ u.entries.reverse.take 32, takesOccurrence code kind index ch y = true) :
    ∃ y ∈ u.entries.reverse.take 32, takesOccurrence code kind index ch y = true ∧
      u.record now code sev kind index ch d =
        { u with entries := u.entries.map fun z => if z.seq = y.seq then coalesceInto now d z else z } := by
  cases hmatch : u.match code kind index ch with
  | none =>
    obtain ⟨y, hmem, hy⟩ := htakes
    exact absurd hy (by simp [match_eq_none_iff.mp hmatch y hmem])
  | some q =>
    obtain ⟨y, hmem, hy, rfl⟩ := exists_of_match_eq_some hmatch
    exact ⟨y, hmem, hy, record_of_match_eq_some hsev hmatch⟩

theorem mem_record_of_no_match (hsev : u.minSev ≤ sev) (hnone : ∀ y ∈ u.entries.reverse.take 32, takesOccurrence code kind index ch y = false)
    (hz : z ∈ (u.record now code sev kind index ch d).entries) :
    z ∈ u.entries ∨ z.count = 1 ∧ z.first = now ∧ z.last = now ∧ z.coalesced = false := by
  rw [record_of_match_eq_none hsev (match_eq_none_iff.mpr hnone)] at hz
  obtain hheld | rfl | rfl := mem_place_entries hz
  · exact .inl hheld
  · exact .inr ⟨rfl, rfl, rfl, rfl⟩
  · exact .inr ⟨rfl, rfl, rfl, rfl⟩

end

/-- Settles O51: the search of the 32 newest either finds an entry, which alone is rewritten, or finds none, and the occurrence is placed. -/
theorem occurrencesAreCoalesced : Obligations.OccurrencesAreCoalesced :=
  fun _ _ _ _ _ _ _ _ hsev => ⟨record_coalesces hsev, fun hnone _ => mem_record_of_no_match hsev hnone⟩

/-! The statement's two premises are met, on either side of the count's bound: an entry with a count of 2^32 - 2 takes one more occurrence, and no further one. -/

/-- A sump that holds one ignored write of chamber 3, which occurred `n` times. -/
def stormSump (n : Nat) : Sump :=
  { Sump.reset with seq := 1, entries := [{ firstOccurrence 0 10 eIgnoredWrite 0 0 0 (some 3) [7] with count := n, coalesced := true }] }

/-- The last occurrence the entry takes. -/
theorem stormSump_coalesces :
    (stormSump (2 ^ 32 - 2)).record 20 eIgnoredWrite 0 0 0 (some 3) [7] =
      { stormSump (2 ^ 32 - 2) with entries := (stormSump (2 ^ 32 - 1)).entries.map fun z => { z with last := 20 } } := by
  obtain ⟨hcoalesced, -⟩ := occurrencesAreCoalesced (stormSump (2 ^ 32 - 2)) 20 0 0 0 eIgnoredWrite (some 3) [7] (by decide)
  obtain ⟨y, hmem, -, hrecord⟩ := hcoalesced (by decide)
  obtain rfl : y = _ := List.mem_singleton.mp hmem
  exact hrecord

/-- At the bound the next occurrence leaves the entry as it is. -/
theorem stormSump_full {z : SumpEntry}
    (hz : z ∈ ((stormSump (2 ^ 32 - 1)).record 20 eIgnoredWrite 0 0 0 (some 3) [7]).entries) :
    z ∈ (stormSump (2 ^ 32 - 1)).entries ∨ z.count = 1 ∧ z.first = 20 ∧ z.last = 20 ∧ z.coalesced = false := by
  obtain ⟨-, hplaced⟩ := occurrencesAreCoalesced (stormSump (2 ^ 32 - 1)) 20 0 0 0 eIgnoredWrite (some 3) [7] (by decide)
  exact hplaced (by decide) z hz

end Sys2Proof.Proofs
end

section
/-! PROOFS. One step: what it runs, that it keeps the memory's form, and that every command completes (R123). -/

namespace Sys2Proof.Proofs
open Sys2Proof Sys2Proof.Machine Sys2Proof.Laws

section
variable {s t : State} {c : Instr} {l : List Instr}

theorem step_of_cons (h : s.pending = c :: l) : step s = exec c (s.withPending l) := by rw [step, h]

theorem step_of_nil (h : s.pending = []) : step s = .next s.tick := by rw [step, h]

end

/-- Settles O54: the queue's front is what `step` matches on. -/
theorem stepRunsTheFrontCommand : Obligations.StepRunsTheFrontCommand := fun _ _ _ => step_of_cons rfl

/-- Settles O55: the step is `State.tick`. -/
theorem stepOnAnEmptyQueueIsTime : Obligations.StepOnAnEmptyQueueIsTime :=
  fun _ hempty => ⟨_, step_of_nil hempty, rfl, rfl⟩

/-- At reset no chamber has an enabled queue: chamber 0 differs from the others in its quotas and its mode (R81, R517). -/
theorem reset_sqs (n q : Nat) : (State.reset.ch n).sqs.get q = Sq.zero := by
  have hch : State.reset.ch n = if n = 0 then Chamber.zeroth else Chamber.zero := get_set _ _ _ _
  rw [hch]
  split <;> rfl

/-- Settles O56: field by field. -/
theorem resetIsAsSpecified : Obligations.ResetIsAsSpecified :=
  ⟨rfl, rfl, rfl, rfl, rfl, rfl, fun _ => rfl, fun _ => rfl, fun n q => congrArg Sq.enable (reset_sqs n q), fun _ => rfl, rfl, rfl⟩

/-- Settles O57: a nanosecond leaves memory alone, and every command keeps its form. -/
theorem stepKeepsTheMemoryForm : Obligations.StepKeepsTheMemoryForm := by
  intro s t hform hstep
  cases hpending : s.pending with
  | nil =>
    rw [step_of_nil hpending] at hstep
    cases hstep
    exact hform
  | cons c rest =>
    rw [step_of_cons hpending] at hstep
    obtain ⟨-, -, -, hmem, -⟩ := keeps_exec _ c t hstep
    exact hmem hform

/-- The premises of O57 hold at reset, and a write keeps them: a byte other than zero is listed, one written back to zero is not. -/
theorem reset_inv : State.reset.Inv ∧ (State.reset.poke 5 [7]).Inv ∧ ((State.reset.poke 5 [7]).poke 5 [0]).mem = State.reset.mem := by
  decide

/-- TEST_OPCODE answers a next state unless the checks let it pass (R123). -/
theorem exec_testOpcode (s : State) (x : Sub) (e : Ext) :
    (∃ t, exec (.testOpcode x e) s = .next t) ∨
      s.serving = true ∧ s.check (testSub x) = none ∧ exec (.testOpcode x e) s = .refused .undescribedTestOpcode := by
  show (∃ t, execTestOpcode x e s = .next t) ∨ _ ∧ _ ∧ execTestOpcode x e s = _
  unfold execTestOpcode
  cases hserving : s.serving with
  | false => exact .inl ⟨s, rfl⟩
  | true =>
    cases hcheck : s.check (testSub x) with
    | some p => exact .inl ⟨_, rfl⟩
    | none => exact .inr ⟨rfl, rfl, rfl⟩

/-- Settles O58: every arm of `exec` but TEST_OPCODE's answers a next state, and `keeps_exec` has the rest. -/
theorem commandsCompleteAndKeepTheQueue : Obligations.CommandsCompleteAndKeepTheQueue := by
  intro c s
  constructor
  · cases c
    case testOpcode x e => exact (exec_testOpcode s x e).imp_right fun h => ⟨x, e, rfl, h⟩
    all_goals exact .inl ⟨_, rfl⟩
  · intro t hnext
    obtain ⟨hpending, hbuild, hports, -, -⟩ := keeps_exec s c t hnext
    exact ⟨hpending, hbuild, hports⟩

end Sys2Proof.Proofs
end

section
/-! PROOFS. IDENTIFY, LOG_READ and NEGOTIATE (R83, R112, R126): what the bodies answer, and the bits of an offer. -/

namespace Sys2Proof.Proofs
open Sys2Proof Sys2Proof.Machine Sys2Proof.Laws

/-! Fields and padding. -/

/-- A bit of a field that starts at bit 0 is the word's bit. -/
theorem fld_zero_bit {w : Nat} (v : BitVec w) {hi i : Nat} (h : i ≤ hi) : fld v hi 0 / 2 ^ i % 2 = 1 ↔ bit v i = true := by
  have htest : fld v hi 0 / 2 ^ i % 2 = 1 ↔ (fld v hi 0).testBit i = true := by
    rw [Nat.testBit_eq_decide_div_mod_eq, decide_eq_true_iff]
  rw [htest, fld, Nat.testBit_mod_two_pow, Nat.shiftRight_zero]
  simp [bit, BitVec.getLsbD, Nat.lt_succ_of_le h]

@[simp] theorem bytesAt_length (l : List Byte) (o n : Nat) : (bytesAt l o n).length = n := by
  simp only [bytesAt, zeros, List.length_append, List.length_replicate, List.length_take]
  omega

@[simp] theorem padTo_length (n : Nat) (l : List Byte) : (padTo n l).length = n := bytesAt_length l 0 n

section
variable {s : State} {x0 x : Sub} {e : Ext}

/-- Bytes delivered without a write error are in the buffer, and their number is the result. -/
theorem deliver_ok (hwrite : e.writeErr = false) (a : Nat) (l : List Byte) :
    s.deliver a l e = done (s.poke a l) (BitVec.ofNat 64 l.length) := if_neg (by simp [hwrite])

theorem deliver_padTo (hwrite : e.writeErr = false) (a : Nat) (l : List Byte) :
    s.deliver a (padTo 4096 l) e = done (s.poke a (padTo 4096 l)) 4096 := by
  rw [deliver_ok hwrite, padTo_length]; rfl

theorem bodyIdentify_block (hwrite : e.writeErr = false) (hkind : fld x.a 7 0 = 0) :
    bodyIdentify x e s = done (s.poke x.b.toNat (padTo 4096 s.identBlock)) 4096 := by
  simp [bodyIdentify, hkind, deliver_padTo hwrite]

theorem bodyIdentify_chamber (hwrite : e.writeErr = false) (hkind : fld x.a 7 0 = 1) :
    bodyIdentify x e s = done (s.undefBuf x.b.toNat 4096) 4096 := by
  simp [bodyIdentify, hkind, hwrite]

theorem bodyIdentify_controller (hwrite : e.writeErr = false) (hkind : fld x.a 7 0 = 2)
    (hattached : (s.sto.ctrls.get (fld x.a 21 16)).attached = true) :
    bodyIdentify x e s = done (s.poke x.b.toNat (padTo 4096 (s.sto.ctrls.get (fld x.a 21 16)).identify)) 4096 := by
  simp [bodyIdentify, hkind, hattached, deliver_padTo hwrite]

theorem bodyIdentify_store {m : Media} (hwrite : e.writeErr = false) (hkind : fld x.a 7 0 = 3)
    (hmounted : s.mounted (fld x.a 21 16) = some m) :
    bodyIdentify x e s = done (s.poke x.b.toNat (padTo 4096 (s.identStore m))) 4096 := by
  simp [bodyIdentify, hkind, hmounted, deliver_padTo hwrite]

theorem bodyLogRead_of_log {l : List Byte} (hwrite : e.writeErr = false)
    (hattached : fld x.a 7 0 = 2 ∨ fld x.a 7 0 = 3 → (s.sto.ctrls.get (fld x.a 21 16)).attached = true)
    (hlog : s.logBytes x.chamber (fld x.a 7 0) (fld x.a 21 16) = some l) :
    bodyLogRead x e s = done (s.poke x.b.toNat ((l.drop (fld x.c 63 32 * 4096)).take (fld x.c 31 0)))
      (BitVec.ofNat 64 ((l.drop (fld x.c 63 32 * 4096)).take (fld x.c 31 0)).length) := by
  have hhere : ¬((fld x.a 7 0 = 2 ∨ fld x.a 7 0 = 3) ∧ !(s.sto.ctrls.get (fld x.a 21 16)).attached) := by
    rintro ⟨hkind, hnot⟩
    simp [hattached hkind] at hnot
  rw [bodyLogRead, if_neg hhere, hlog]
  exact deliver_ok hwrite _ _

/-- NEGOTIATE in a chamber that is not busy takes what the offer selects (R112). -/
theorem bodyNegotiate_of_select {major minor : Nat} {veneer : Bool} (hidle : s.chamberBusy x = false)
    (hselect : selectKcq (fld x.a 3 0) = some (major, minor, veneer)) :
    bodyNegotiate x s = done (s.onCh x.chamber fun c => { c with negotiated := true, major := major, minor := minor, veneer := veneer })
      (BitVec.ofNat 64 (major * 2 ^ 8 + minor + b2n veneer * 2 ^ 16)) := by
  simp [bodyNegotiate, hidle, hselect]

/-- The highest version offered is selected (R83). -/
theorem selectKcq_fld (v : BitVec 64) : selectKcq (fld v 3 0) =
    if bit v 3 then some (3, 2, false) else if bit v 2 then some (3, 1, false) else if bit v 1 then some (3, 0, false)
    else if bit v 0 then some (2, 0, true) else none := by
  have h3 : fld v 3 0 / 8 % 2 = 1 ↔ bit v 3 = true := fld_zero_bit v (i := 3) (by omega)
  have h2 : fld v 3 0 / 4 % 2 = 1 ↔ bit v 2 = true := fld_zero_bit v (i := 2) (by omega)
  have h1 : fld v 3 0 / 2 % 2 = 1 ↔ bit v 1 = true := fld_zero_bit v (i := 1) (by omega)
  have h0 : fld v 3 0 % 2 = 1 ↔ bit v 0 = true := Nat.div_one (fld v 3 0) ▸ fld_zero_bit v (i := 0) (by omega)
  simp only [selectKcq, h3, h2, h1, h0]

theorem negotiate_ends {major minor : Nat} {veneer : Bool} (hheld : s.holdsCmd (.negotiate x0 e) x) (hidle : s.chamberBusy x = false)
    (hselect : selectKcq (fld x.a 3 0) = some (major, minor, veneer)) :
    Ends (.negotiate x0 e) s x sOk (BitVec.ofNat 64 (major * 2 ^ 8 + minor + b2n veneer * 2 ^ 16)) 0
      (s.onCh x.chamber fun c => { c with negotiated := true, major := major, minor := minor, veneer := veneer }) :=
  ends_runOp (runs_negotiate hheld) hheld.2 (bodyNegotiate_of_select hidle hselect) rfl (by decide)

end

/-- Settles O1: each clause is what the row's body answers there. -/
theorem identityLogsAndVersions : Obligations.IdentityLogsAndVersions := by
  refine ⟨fun s x0 x e hheld hwrite => ⟨fun hkind => ?_, fun hkind => ?_, fun hkind hattached => ?_, fun m hkind hmounted => ?_⟩,
    fun s x0 x e l hheld hwrite hattached hlog => ?_, fun s x0 x e hheld hidle => ⟨?_, ?_, ?_, ?_⟩⟩
  · exact ends_runOp (runs_identify hheld) hheld.2 (bodyIdentify_block hwrite hkind) (State.poke_cmds _ _ _) (by decide)
  · exact ⟨_, ends_runOp (runs_identify hheld) hheld.2 (bodyIdentify_chamber hwrite hkind) (undefBuf_cmds _ _ _) (by decide),
      undefBuf_frame _ _ _, undefBuf_out _ _ _⟩
  · exact ends_runOp (runs_identify hheld) hheld.2 (bodyIdentify_controller hwrite hkind hattached) (State.poke_cmds _ _ _) (by decide)
  · exact ends_runOp (runs_identify hheld) hheld.2 (bodyIdentify_store hwrite hkind hmounted) (State.poke_cmds _ _ _) (by decide)
  · exact ends_runOp (runs_logRead hheld) hheld.2 (bodyLogRead_of_log hwrite hattached hlog) (State.poke_cmds _ _ _) (by decide)
  · exact fun h3 => negotiate_ends hheld hidle (by rw [selectKcq_fld, h3]; rfl)
  · exact fun h3 h2 => negotiate_ends hheld hidle (by rw [selectKcq_fld, h3, h2]; rfl)
  · exact fun h3 h2 h1 => negotiate_ends hheld hidle (by rw [selectKcq_fld, h3, h2, h1]; rfl)
  · exact fun h3 h2 h1 h0 => negotiate_ends hheld hidle (by rw [selectKcq_fld, h3, h2, h1, h0]; rfl)

end Sys2Proof.Proofs
end

section
/-! PROOFS. Writes of the aperture that take effect (R55, R74), and the queues that come and go (R90, R91, R115, R521). -/

namespace Sys2Proof.Proofs
open Sys2Proof Sys2Proof.Machine Sys2Proof.Laws

/-! A write that reaches its register. -/

section
variable {s : State} {a : Access} {ch off addr : Nat} {page open_ : Bool} {f : State → State}

theorem laneFree_iff : s.laneFree a = true ↔ s.boot.resetHeld ≠ 2 ∧ (s.lanes.get a.lane).held = none := by
  simp [State.laneFree, Option.isNone_iff_eq_none]

/-- No held half waits on a free lane, so that nothing is dropped (R512). -/
theorem dropHalf_of_laneFree (hfree : s.laneFree a = true) : s.dropHalf a = s := by
  rw [State.dropHalf, (laneFree_iff.mp hfree).2]

theorem fabWrite_ok (hfree : s.laneFree a = true) (hready : page = true → s.boot.stage = .ready) :
    s.fabWrite a 0 page addr f = (f s).answer a 0 0 := by
  have hup : ¬(page && s.boot.stage != .ready) = true := by
    simp only [Bool.and_eq_true, bne_iff_ne, not_and, not_not]
    exact hready
  rw [State.fabWrite, if_neg (laneFree_iff.mp hfree).1, dropHalf_of_laneFree hfree, if_neg (by simp), if_neg hup]

theorem fabWrite_refused {err : Nat} (hfree : s.laneFree a = true) (herr : err ≠ 0) : s.fabWrite a err page addr f = s.refuse a err := by
  rw [State.fabWrite, if_neg (laneFree_iff.mp hfree).1, dropHalf_of_laneFree hfree, if_pos herr]

/-- A management write of a global register takes its effect and is answered with ERR 0 (R55). -/
theorem globalWrite_ok (hfree : s.laneFree a = true) (hmgmt : mgmt a = true) : s.globalWrite a addr f = (f s).answer a 0 0 := by
  rw [State.globalWrite, if_pos hmgmt]
  exact fabWrite_ok hfree nofun

theorem pageOpen_iff : s.pageOpen a ch = true ↔ s.laneFree a = true ∧ s.boot.stage = .ready ∧ privCh a = ch := by
  simp [State.pageOpen, and_assoc]

/-- A chamber's write of its own page takes its effect and is answered with ERR 0 (R55, R74). -/
theorem pageWrite_ok (hopen : s.pageOpen a ch = true) : s.pageWrite a ch off open_ f = (f s).answer a 0 0 := by
  obtain ⟨hfree, hready, hown⟩ := pageOpen_iff.mp hopen
  rw [State.pageWrite, if_pos (by simp [ownsPage, hown])]
  exact fabWrite_ok hfree fun _ => hready

/-- Another chamber's write of a page is refused with ERR 3 (R55). -/
theorem pageWrite_foreign (hfree : s.laneFree a = true) (hother : privCh a ≠ ch) : s.pageWrite a ch off false f = s.refuse a 3 := by
  rw [State.pageWrite, if_neg (by simp [ownsPage, hother])]
  exact fabWrite_refused hfree (by decide)

end

/-! Two changes of one part. -/

section
variable {V : Type} {s : State} {n q : Nat}

theorem smErase_erase (k : Nat) (l : List (Nat × V)) : smErase k (smErase k l) = smErase k l := by
  induction l with
  | nil => rfl
  | cons p r ih => simp only [smErase]; split <;> simp_all [smErase]

theorem smErase_insert (k : Nat) (v : V) (l : List (Nat × V)) : smErase k (smInsert k v l) = smErase k l := by
  induction l with
  | nil => simp [smInsert, smErase]
  | cons p r ih => simp only [smInsert]; split <;> simp_all [smErase]

/-- The last write of a key stays. -/
theorem set_set [DecidableEq V] (m : SMap V) (k : Nat) (v w : V) : (m.set k v).set k w = m.set k w := by
  rw [SMap.set, set_dflt, SMap.set.eq_1 m k w]
  have hentries : smErase k (m.set k v).entries = smErase k m.entries := by
    rw [SMap.set]
    split
    · exact smErase_erase k _
    · exact (smErase_insert k v _).trans (smErase_erase k _)
  rw [hentries]

theorem modify_modify [DecidableEq V] (m : SMap V) (k : Nat) (f g : V → V) : (m.modify k f).modify k g = m.modify k (g ∘ f) := by
  rw [SMap.modify, get_modify_self, SMap.modify, set_set, SMap.modify, Function.comp_apply]

theorem onCh_onCh (f g : Chamber → Chamber) : (s.onCh n f).onCh n g = s.onCh n (g ∘ f) := by
  simp only [State.onCh, modify_modify]

theorem onCh_congr {f g : Chamber → Chamber} (h : f (s.ch n) = g (s.ch n)) : s.onCh n f = s.onCh n g := by
  have hget : f (s.chambers.get n) = g (s.chambers.get n) := h
  simp only [State.onCh, SMap.modify, hget]

theorem onSq_onSq (f g : Sq → Sq) : (s.onSq n q f).onSq n q g = s.onSq n q (g ∘ f) := by
  rw [State.onSq, State.onSq, onCh_onCh]
  exact onCh_congr (by simp only [Function.comp_apply, modify_modify])

theorem onSq_congr {f g : Sq → Sq} (h : f ((s.ch n).sqs.get q) = g ((s.ch n).sqs.get q)) : s.onSq n q f = s.onSq n q g :=
  onCh_congr (by simp only [SMap.modify, h])

end

/-! Queues. -/

section
variable {s : State} {x0 x : Sub} {e : Ext} {ch q i : Nat} {me : Option Sub}

/-- Nothing fetched and no command accepted came from SQ `q` of the chamber, and no completion to it waits for posting. -/
structure QueueIdle (s : State) (ch q : Nat) : Prop where
  fetched : ∀ f ∈ (s.ch ch).fetched, f.sub.sq ≠ q
  cmds : ∀ c ∈ s.cmds, c.sub.chamber = ch → c.sub.sq ≠ q
  fins : ∀ c ∈ s.fins, c.chamber = ch → c.sq ≠ q

/-- An idle SQ that closes reads disabled at once (R521). -/
theorem settleSq_of_idle (hidle : QueueIdle s ch q) (hclosing : ((s.ch ch).sqs.get q).closing = true) :
    s.settleSq ch q = s.onSq ch q fun t => { t with enable := false, closing := false } := by
  have hcmds : (s.cmds.any fun c => c.sub.chamber == ch && c.sub.sq == q) = false := by
    simpa [List.any_eq_false] using hidle.cmds
  have hfins : (s.fins.any fun c => c.chamber == ch && c.sq == q) = false := by
    simpa [List.any_eq_false] using hidle.fins
  have hfetched : ((s.ch ch).fetched.any fun f => f.sub.sq == q) = false := by
    simpa [List.any_eq_false] using hidle.fetched
  simp [State.settleSq, hcmds, hfins, hfetched, hclosing]

/-- Ending an idle SQ stops no command and disables the queue at once (R115, R521). -/
theorem endSq_of_idle (hidle : QueueIdle s ch q) :
    s.endSq ch q me = (0, s.onSq ch q fun t => { t with enable := false, closing := false }) := by
  have hwaiting : ((s.ch ch).fetched.filter fun f => f.sub.sq == q && !f.dead) = [] := by
    simp only [List.filter_eq_nil_iff, Bool.and_eq_true, beq_iff_eq, not_and]
    exact fun f hf hq => absurd hq (hidle.fetched f hf)
  have hgoing : (s.cmds.filter fun c => c.sub.chamber == ch && c.sub.sq == q && isLong c.sub && some c.sub != me) = [] := by
    simp only [List.filter_eq_nil_iff, Bool.and_eq_true, beq_iff_eq, not_and]
    exact fun c hc hcq => absurd hcq.1.2 (hidle.cmds c hc hcq.1.1)
  have hfetched : (s.ch ch).fetched.filter (fun f => f.sub.sq != q) = (s.ch ch).fetched := by
    simpa [List.filter_eq_self] using hidle.fetched
  have hclose : ((s.onSq ch q fun t => { t with closing := t.enable }).onCh ch fun c =>
      { c with fetched := c.fetched.filter fun f => f.sub.sq != q }) = s.onSq ch q fun t => { t with closing := t.enable } := by
    rw [State.onSq, onCh_onCh]
    exact onCh_congr (by rw [Function.comp_apply, hfetched])
  have hstill : QueueIdle (s.onSq ch q fun t => { t with closing := t.enable }) ch q := by
    refine ⟨?_, hidle.cmds, hidle.fins⟩
    simpa [State.onSq] using hidle.fetched
  simp only [State.endSq, hwaiting, hgoing, List.foldl_nil, List.length_nil, hclose]
  congr 1
  cases henable : ((s.ch ch).sqs.get q).enable with
  | true =>
    rw [settleSq_of_idle hstill (by simp [henable]), onSq_onSq]
    rfl
  | false =>
    rw [State.settleSq, if_neg (by simp [henable])]
    exact onSq_congr (by rw [henable])

/-! The bodies. -/

theorem bodyQueueCreate_cq (hkind : bit x.a 0 = true) (hfree : ((s.ch x.chamber).cqs.get (fld x.a 11 8)).enable = false) :
    bodyQueueCreate x s = done (s.onCq x.chamber (fld x.a 11 8) fun _ =>
      { Cq.zero with enable := true, irqEn := bit x.a 48, base := x.b, sizeM1 := fld x.a 27 16 }) 0 := by
  rw [bodyQueueCreate, if_pos hkind, if_neg (by simp [hfree])]

theorem bodyQueueCreate_sq (hkind : bit x.a 0 = false) (hfree : ((s.ch x.chamber).sqs.get (fld x.a 11 8)).enable = false)
    (hcq : ((s.ch x.chamber).cqs.get (fld x.a 35 32)).enable = true) :
    bodyQueueCreate x s = done ((s.onSq x.chamber (fld x.a 11 8) fun _ =>
      { Sq.zero with enable := true, base := x.b, weight := fld x.a 43 40, cq := fld x.a 35 32, sizeM1 := fld x.a 27 16 }).onCh x.chamber
        fun c => { c with quiesced := false }) 0 := by
  rw [bodyQueueCreate, if_neg (ne_true_of_eq_false hkind), if_neg (by simp [hfree]), if_neg (by simp [hcq])]

theorem bodyQueueDelete_cq (hkind : bit x.a 0 = true)
    (hfree : ∀ i, i < 16 → ((s.ch x.chamber).sqs.get i).enable = true → ((s.ch x.chamber).sqs.get i).cq ≠ fld x.a 11 8) :
    bodyQueueDelete x s = done (s.onCq x.chamber (fld x.a 11 8) fun _ => Cq.zero) 0 := by
  rw [bodyQueueDelete, if_pos hkind, if_neg (by simpa using hfree)]

/-- QUEUE_DELETE of an idle SQ goes through in one run (R115). -/
theorem bodyQueueDelete_sq {c : Cmd} (hcmd : s.cmd? x = some c) (hfirst : c.prog = 0) (hkind : bit x.a 0 = false)
    (hidle : QueueIdle s x.chamber (fld x.a 11 8)) :
    bodyQueueDelete x s = done (((s.onSq x.chamber (fld x.a 11 8) fun t => { t with enable := false, closing := false }).onCmd x fun c =>
      { c with prog := 1 }).onSq x.chamber (fld x.a 11 8) fun _ => Sq.zero) 0 := by
  have hprog : (s.cmd? x).map (·.prog) = some 0 := by rw [hcmd, Option.map_some, hfirst]
  have hdisabled : (((s.onSq x.chamber (fld x.a 11 8) fun t => { t with enable := false, closing := false }).ch x.chamber).sqs.get
      (fld x.a 11 8)).enable = false := by simp
  rw [bodyQueueDelete, if_neg (ne_true_of_eq_false hkind), hprog]
  dsimp only
  rw [endSq_of_idle hidle]
  dsimp only
  exact if_neg (ne_true_of_eq_false hdisabled)

theorem enableAdmin_cq (hoff : ((s.ch ch).cqs.get 0).enable = false) (hsize : ((s.ch ch).cqs.get 0).sizeM1 ≠ 0) :
    s.enableAdmin ch true = s.onCh ch fun c => { c with
      setupError := false
      cqs := c.cqs.modify 0 fun k => { k with enable := true, head := 0, tail := 0, phase := true, posted := [], viol := 0, quar := false } } := by
  simp [State.enableAdmin, hoff, hsize]

theorem enableAdmin_sq (hoff : ((s.ch ch).sqs.get 0).enable = false) (hsize : ((s.ch ch).sqs.get 0).sizeM1 ≠ 0)
    (hcq : ((s.ch ch).cqs.get ((s.ch ch).sqs.get 0).cq).enable = true) :
    s.enableAdmin ch false = s.onCh ch fun c => { c with
      setupError := false
      quiesced := false
      sqs := c.sqs.modify 0 fun q => { q with enable := true, head := 0, tail := 0, closing := false, viol := 0, quar := false } } := by
  simp [State.enableAdmin, hoff, hsize, hcq]

theorem disableSq0_of_idle (hon : ((s.ch ch).sqs.get 0).enable = true) (hidle : QueueIdle s ch 0) :
    s.disableSq0 ch = s.onSq ch 0 fun t => { t with enable := false, closing := false } := by
  rw [State.disableSq0, if_pos hon, endSq_of_idle hidle]

theorem disableCq0_of_unbound (hunbound : ∀ i, i < 16 → ((s.ch ch).sqs.get i).cq = 0 → ((s.ch ch).sqs.get i).enable = false)
    (hposted : ∀ f ∈ s.fins, f.chamber ≠ ch) :
    s.disableCq0 ch = s.onCq ch 0 fun k =>
      { k with enable := false, head := 0, tail := 0, phase := true, posted := [], reserved := 0, viol := 0, quar := false } := by
  have hfins : s.fins.filter (fun f => !(f.chamber == ch && ((List.range 16).filter fun i => ((s.ch ch).sqs.get i).cq == 0).contains f.sq)) = s.fins := by
    refine List.filter_eq_self.mpr fun f hf => ?_
    simp [hposted f hf]
  have hbound : (((List.range 16).filter fun i => ((s.ch ch).sqs.get i).cq == 0).any fun i => ((s.ch ch).sqs.get i).enable ||
      (!((s.ch ch).cqs.get 0).quar && s.fins.any fun f => f.chamber == ch && f.sq == i)) = false := by
    have hnone (i : Nat) : (s.fins.any fun f => f.chamber == ch && f.sq == i) = false := by
      simp only [List.any_eq_false, Bool.and_eq_true, beq_iff_eq, not_and]
      exact fun f hf hch => absurd hch (hposted f hf)
    simp only [List.any_eq_false, List.mem_filter, List.mem_range, beq_iff_eq, hnone, Bool.and_false, Bool.or_false]
    rintro i ⟨hi, hcq⟩
    simp [hunbound i hi hcq]
  rw [State.disableCq0]
  dsimp only
  rw [hbound, if_neg (by simp), hfins]

end

/-- Settles O2: the clauses on commands are what their bodies answer, those on the admin pair writes of the chamber's own page. -/
theorem queuesComeAndGo : Obligations.QueuesComeAndGo := by
  refine ⟨fun s x0 x e => ⟨fun hheld hkind hfree => ?_, fun hheld hkind hfree hcq => ?_, fun hheld hkind hfree => ?_,
    fun hheld hkind _ hfetched hcmds hfins => ?_⟩,
    fun s a ch hopen => ⟨fun hoff hsize => ?_, fun hoff hsize hcq => ?_, fun hon hcmds hfins hfetched => ?_, fun hunbound hposted => ?_⟩⟩
  · exact ends_runOp (runs_queueCreate hheld) hheld.2 (bodyQueueCreate_cq hkind hfree) rfl (by decide)
  · exact ends_runOp (runs_queueCreate hheld) hheld.2 (bodyQueueCreate_sq hkind hfree hcq) rfl (by decide)
  · exact ends_runOp (runs_queueDelete hheld) hheld.2 (bodyQueueDelete_cq hkind hfree) rfl (by decide)
  · obtain ⟨c, hcmd, -, htwin, -, hunits, -, hprog, -⟩ := inHand_cmd hheld.2
    refine ⟨_, ends_runOp_of (runs_queueDelete hheld) hheld.2 (bodyQueueDelete_sq hcmd hprog hkind ⟨hfetched, hcmds, hfins⟩)
      (cmd_onCmd (f := fun c => { c with prog := 1 }) hcmd fun _ => rfl) htwin hunits.le (by decide), ?_, rfl⟩
    simp
  · exact congrArg Host.Outcome.next ((pageWrite_ok hopen).trans (congrArg (State.answer · a 0 0) (enableAdmin_cq hoff hsize)))
  · exact congrArg Host.Outcome.next ((pageWrite_ok hopen).trans (congrArg (State.answer · a 0 0) (enableAdmin_sq hoff hsize hcq)))
  · refine ⟨_, congrArg Host.Outcome.next ((pageWrite_ok hopen).trans
      (congrArg (State.answer · a 0 0) (disableSq0_of_idle hon ⟨hfetched, hcmds, hfins⟩))), ?_, fun i hi => ?_, rfl, rfl, rfl⟩
    · exact State.ch_onSq ..
    · simp [State.ch, State.onSq, get_modify_ne _ _ hi]
  · refine ⟨_, congrArg Host.Outcome.next ((pageWrite_ok hopen).trans
      (congrArg (State.answer · a 0 0) (disableCq0_of_unbound hunbound hposted))), ?_, ?_, ?_, fun i hi => ?_, rfl, rfl⟩
    · exact congrArg Cq.enable (State.ch_onCq ..)
    · exact congrArg Cq.posted (State.ch_onCq ..)
    · exact (congrArg Cq.base (State.ch_onCq (s := s) ..) :)
    · simp [State.ch, State.onCq, get_modify_ne _ _ hi]

end Sys2Proof.Proofs
end

section
/-! PROOFS. FEATURE_GET and FEATURE_SET (R124, R156, R424, R469, R476, R483, R504). -/

namespace Sys2Proof.Proofs
open Sys2Proof Sys2Proof.Machine Sys2Proof.Laws

/-! Asking for domains changes only the governor's queue. -/

theorem wantDom_frame (s : State) (d : Nat) : s.wantDom d = { s with pwr := { s.pwr with queue := (s.wantDom d).pwr.queue } } := by
  rw [State.wantDom]
  split <;> rfl

theorem wantDoms_frame (s : State) (l : List Nat) : s.wantDoms l = { s with pwr := { s.pwr with queue := (s.wantDoms l).pwr.queue } } := by
  induction l generalizing s with
  | nil => rfl
  | cons d l ih =>
    show (s.wantDom d).wantDoms l = { s with pwr := { s.pwr with queue := ((s.wantDom d).wantDoms l).pwr.queue } }
    rw [ih, wantDom_frame]

theorem beginWake_frame (s : State) : s.beginWake = { s with pwr := s.beginWake.pwr } := by
  unfold State.beginWake
  dsimp only
  split
  · split
    · rw [wantDoms_frame]
    · rfl
  · rfl

theorem policyMoves_frame (s : State) : s.policyMoves = { s with pwr := s.policyMoves.pwr } := by
  unfold State.policyMoves
  dsimp only
  split
  · rfl
  · split
    · rw [wantDoms_frame]
    · rfl

@[simp] theorem beginWake_cmds (s : State) : s.beginWake.cmds = s.cmds := by rw [beginWake_frame]

@[simp] theorem policyMoves_cmds (s : State) : s.policyMoves.cmds = s.cmds := by rw [policyMoves_frame]

section
variable {s : State} {x0 x : Sub} {e : Ext}

theorem featureGet_ends {id : Nat} (hheld : s.holdsCmd (.featureGet x0 e) x) (hid : fld x.a 15 0 = id) :
    Ends (.featureGet x0 e) s x sOk (BitVec.ofNat 64 (s.feature x.chamber id)) 0 s :=
  ends_runOp (runs_featureGet hheld) hheld.2 (by rw [bodyFeatureGet, hid]; rfl) rfl (by decide)

theorem bodyStatusInterval_ok (hlow : 10 ≤ fld x.b 15 0) (hhigh : fld x.b 15 0 ≤ 50) :
    bodyStatusInterval x s = done (s.onCh x.chamber fun c => { c with interval := fld x.b 15 0 }) 0 := by
  rw [bodyStatusInterval, if_neg (by omega)]

theorem bodyReserveWatermarks_ok (hbelow : fld x.b 7 0 < fld x.b 15 8) (hhigh : fld x.b 15 8 ≤ 100) :
    bodyReserveWatermarks x s = done (s.onCh x.chamber fun c => { c with rsvWarn := fld x.b 7 0, rsvStall := fld x.b 15 8 }) 0 := by
  rw [bodyReserveWatermarks, if_neg (by omega)]

/-- A block-wide feature is chamber 0's to set (Table 4 of chapter 05). -/
theorem blockWide_zero (hch : x.chamber = 0) (r : Res) : blockWide x s r = r := if_neg (not_not.mpr hch)

theorem bodyPeriodicSelfTest_ok (hch : x.chamber = 0) (hperiod : fld x.b 15 8 ≠ 0) : bodyPeriodicSelfTest x s =
    done { s with feat := { s.feat with selfTest := bit x.b 0, period := fld x.b 15 8 } } 0 :=
  (blockWide_zero hch _).trans (if_neg hperiod)

theorem bodySumpSpill_off (hch : x.chamber = 0) (hzero : fld x.c 24 0 = 0) : bodySumpSpill x s =
    done { s with sump := { s.sump with spillBase := 0, spillSize := 0, spillFault := false } } 0 :=
  (blockWide_zero hch _).trans (if_pos hzero)

theorem bodySumpSpill_ring (hch : x.chamber = 0) (hsize : fld x.c 24 0 ≠ 0) (hpages : fld x.c 24 0 % 4096 = 0) (hmax : fld x.c 24 0 ≤ 2 ^ 24)
    (halign : x.b.toNat % 4096 = 0) (hclear : s.clearOf x.b.toNat (fld x.c 24 0) false = true)
    (hpark : s.inPark x.b.toNat (fld x.c 24 0) = false) : bodySumpSpill x s =
      done { s with sump := { s.sump with spillBase := x.b.toNat, spillSize := fld x.c 24 0, spillFault := false } } 0 := by
  refine (blockWide_zero hch _).trans ((if_neg hsize).trans ((if_neg ?_).trans (if_neg ?_)))
  · omega
  · simp [halign, hclear, hpark]

theorem bodyPartnerThreshold_ok (hch : x.chamber = 0) (hnvme : fld x.b 7 0 ≠ 0) (hsdx : fld x.b 15 8 ≠ 0) (hchain : fld x.b 23 16 ≠ 0) :
    bodyPartnerThreshold x s =
      done { s with feat := { s.feat with thNvme := fld x.b 7 0, thSdx := fld x.b 15 8, thChain := fld x.b 23 16 } } 0 :=
  (blockWide_zero hch _).trans ((if_neg hnvme).trans ((if_neg hsdx).trans (if_neg hchain)))

theorem bodyChainNoticeRate_ok (hch : x.chamber = 0) (hlow : 1 ≤ fld x.b 15 0) (hhigh : fld x.b 15 0 ≤ 1000) :
    bodyChainNoticeRate x s = done { s with feat := { s.feat with noticeRate := fld x.b 15 0 } } 0 :=
  (blockWide_zero hch _).trans (if_neg (by omega))

/-- The policy that POWER_POLICY asks for (R469). -/
def policyOf (s : State) (x : Sub) : State :=
  { s with pwr := { s.pwr with
    target := if fld x.b 1 0 = 0 then .run else if fld x.b 1 0 = 1 then .lean else .pass
    idleMs := BitVec.ofNat 16 (fld x.b 31 16) } }

/-- Of the three targets only the last is PASS. -/
theorem target_ne_pass_iff {t : Nat} (ht : t < 3) :
    (if t = 0 then Power.run else if t = 1 then .lean else .pass) ≠ Power.pass ↔ t ≠ 2 := by
  obtain rfl | rfl | rfl : t = 0 ∨ t = 1 ∨ t = 2 := by omega
  all_goals decide

theorem bodyPowerPolicy_ok (hch : x.chamber = 0) (htarget : fld x.b 1 0 < 3) : bodyPowerPolicy x s =
    done (if s.pwr.state = .pass ∧ (policyOf s x).pwr.target ≠ .pass then (policyOf s x).beginWake else (policyOf s x).policyMoves) 0 := by
  refine (blockWide_zero hch _).trans ((if_neg (by omega)).trans (congrArg (done · 0) ?_))
  exact if_congr (and_congr_right fun _ => (target_ne_pass_iff htarget).symm) rfl rfl

end

/-- Settles O3: each clause is what the row's body answers there. -/
theorem featuresAreReadAndSet : Obligations.FeaturesAreReadAndSet := by
  refine ⟨fun s x0 x e hheld => ?_, fun s x0 x e => ⟨fun hheld hlow hhigh => ?_, fun hheld hbelow hhigh => ?_⟩,
    fun s x0 x e hch => ⟨fun hheld hperiod => ?_, fun hheld hzero => ?_, fun hheld hsize hpages hmax halign hclear hpark => ?_,
      fun hheld hnvme hsdx hchain => ?_, fun hheld hlow hhigh => ?_⟩, fun s x0 x e hheld hch htarget => ?_⟩
  · refine ⟨?_, ?_, ?_, ?_, ?_, ?_, ?_⟩ <;> exact featureGet_ends hheld
  · exact ends_runOp (runs_statusInterval hheld) hheld.2 (bodyStatusInterval_ok hlow hhigh) rfl (by decide)
  · exact ends_runOp (runs_reserveWatermarks hheld) hheld.2 (bodyReserveWatermarks_ok hbelow hhigh) rfl (by decide)
  · exact ends_runOp (runs_periodicSelfTest hheld) hheld.2 (bodyPeriodicSelfTest_ok hch hperiod) rfl (by decide)
  · exact ends_runOp (runs_sumpSpill hheld) hheld.2 (bodySumpSpill_off hch hzero) rfl (by decide)
  · exact ends_runOp (runs_sumpSpill hheld) hheld.2 (bodySumpSpill_ring hch hsize hpages hmax halign hclear hpark) rfl (by decide)
  · exact ends_runOp (runs_partnerThreshold hheld) hheld.2 (bodyPartnerThreshold_ok hch hnvme hsdx hchain) rfl (by decide)
  · exact ends_runOp (runs_chainNoticeRate hheld) hheld.2 (bodyChainNoticeRate_ok hch hlow hhigh) rfl (by decide)
  · refine ends_runOp (runs_powerPolicy hheld) hheld.2 (bodyPowerPolicy_ok hch htarget) ?_ (by decide)
    rw [apply_ite State.cmds, beginWake_cmds, policyMoves_cmds, ite_self]

end Sys2Proof.Proofs
end

section
/-! PROOFS. What the log, the granule states and the reserve level leave alone. -/

namespace Sys2Proof.Proofs
open Sys2Proof Sys2Proof.Machine Sys2Proof.Laws

/-! Logging (R479-R485): beyond the time used, the causes, the sump and the chain's notices nothing moves. -/

section
variable (s : State) (c : BitVec 16) (v k i : Nat) (ch : Option Nat) (d : List Byte)

@[simp] theorem log_mem : (s.log c v k i ch d).mem = s.mem := by rw [log_frame]
@[simp] theorem log_boot : (s.log c v k i ch d).boot = s.boot := by rw [log_frame]
@[simp] theorem log_life : (s.log c v k i ch d).life = s.life := by rw [log_frame]
@[simp] theorem log_pwr : (s.log c v k i ch d).pwr = s.pwr := by rw [log_frame]
@[simp] theorem log_lanes : (s.log c v k i ch d).lanes = s.lanes := by rw [log_frame]
@[simp] theorem log_chambers : (s.log c v k i ch d).chambers = s.chambers := by rw [log_frame]
@[simp] theorem log_units : (s.log c v k i ch d).units = s.units := by rw [log_frame]
@[simp] theorem log_cmds : (s.log c v k i ch d).cmds = s.cmds := by rw [log_frame]
@[simp] theorem log_fins : (s.log c v k i ch d).fins = s.fins := by rw [log_frame]
@[simp] theorem log_clamps : (s.log c v k i ch d).clamps = s.clamps := by rw [log_frame]
@[simp] theorem log_regions : (s.log c v k i ch d).regions = s.regions := by rw [log_frame]
@[simp] theorem log_stiles : (s.log c v k i ch d).stiles = s.stiles := by rw [log_frame]
@[simp] theorem log_cap : (s.log c v k i ch d).cap = s.cap := by rw [log_frame]
@[simp] theorem log_trigs : (s.log c v k i ch d).trigs = s.trigs := by rw [log_frame]
@[simp] theorem log_ciph : (s.log c v k i ch d).ciph = s.ciph := by rw [log_frame]
@[simp] theorem log_drbg : (s.log c v k i ch d).drbg = s.drbg := by rw [log_frame]
@[simp] theorem log_keys : (s.log c v k i ch d).keys = s.keys := by rw [log_frame]
@[simp] theorem log_stage : (s.log c v k i ch d).stage = s.stage := by rw [log_frame]
@[simp] theorem log_tags : (s.log c v k i ch d).tags = s.tags := by rw [log_frame]
@[simp] theorem log_trk : (s.log c v k i ch d).trk = s.trk := by rw [log_frame]
@[simp] theorem log_sync : (s.log c v k i ch d).sync = s.sync := by rw [log_frame]
@[simp] theorem log_dgt : (s.log c v k i ch d).dgt = s.dgt := by rw [log_frame]
@[simp] theorem log_sto : (s.log c v k i ch d).sto = s.sto := by rw [log_frame]
@[simp] theorem log_svc : (s.log c v k i ch d).svc = s.svc := by rw [log_frame]
@[simp] theorem log_jig : (s.log c v k i ch d).jig = s.jig := by rw [log_frame]
@[simp] theorem log_feat : (s.log c v k i ch d).feat = s.feat := by rw [log_frame]
@[simp] theorem log_free : (s.log c v k i ch d).free = s.free := by rw [log_frame]
@[simp] theorem log_frz : (s.log c v k i ch d).frz = s.frz := by rw [log_frame]

end

/-! Granule states. -/

theorem setGran_frame (s : State) (g : Nat) (b : GBits) : s.setGran g b = { s with stiles := (s.setGran g b).stiles } := by
  rw [State.setGran]
  split <;> rfl

theorem dirtyRange_frame (s : State) (lo n : Nat) : s.dirtyRange lo n = { s with stiles := (s.dirtyRange lo n).stiles } := by
  unfold State.dirtyRange
  induction List.range n generalizing s with
  | nil => rfl
  | cons i l ih => rw [List.foldl_cons, ih, setGran_frame]

theorem dirtyChamber_frame (s : State) (ch : Nat) : s.dirtyChamber ch = { s with stiles := (s.dirtyChamber ch).stiles } := by
  unfold State.dirtyChamber
  generalize s.regionsOf ch = l
  induction l generalizing s with
  | nil => rfl
  | cons p l ih => rw [List.foldl_cons, ih, dirtyRange_frame]

/-! The reserve level (R160). -/

/-- Of the chamber's units the level moves only capture registers; the running capture's peak, the causes and the log may move beside them. -/
theorem relevel_frame (s : State) (ch : Nat) : ∃ f cap tu po su cn cw, s.relevel ch =
    { s.onCapRegs ch f with cap := cap, timeUsed := tu, port := po, sump := su, chain := cn, chainW := cw } := by
  unfold State.relevel
  extract_lets c r n up warn stall s1 cap1 s2 s3
  obtain ⟨po, h3⟩ : ∃ po, s3 = { s1 with cap := s2.cap, port := po } := by
    unfold s3
    split <;> exact ⟨_, rfl⟩
  obtain ⟨f, h1⟩ : ∃ f, s1 = s.onCapRegs ch f := ⟨_, rfl⟩
  rw [h1] at h3
  split
  · rw [log_frame, h3]
    exact ⟨f, _, _, _, _, _, _, rfl⟩
  · rw [h3]
    exact ⟨f, _, _, _, _, _, _, rfl⟩

end Sys2Proof.Proofs
end

section
/-! PROOFS. CHAMBER_CONFIG, CHAMBER_QUIESCE and ABORT (R114, R115, R125, R126, R346, R428). -/

namespace Sys2Proof.Proofs
open Sys2Proof Sys2Proof.Machine Sys2Proof.Laws

section
variable {s : State} {x0 x : Sub} {e : Ext} {ws : List Win} {sb yb : Nat}

/-- The target chamber as an accepted CHAMBER_CONFIG leaves it. -/
def configured (x : Sub) (ws : List Win) (c : Chamber) : Chamber :=
  { c with
    configured := true
    mode := x.a
    credits := fld x.c 63 48
    rsvBase := fld x.d 51 16
    rsvSize := fld x.e 35 0
    quotaSync := fld x.b 46 32
    quotaWatch := fld x.b 60 48
    quotaClamp := fld x.c 44 32
    quotaRegion := fld x.b 16 0
    quotaStream := fld x.c 18 0
    wins := (List.range (fld x.f 3 0)).foldl (fun m w => m.set w (ws.getD w .zero)) (.const .zero) }

/-- The block with the target configured and its ranges placed. -/
def configuredState (s : State) (x : Sub) (ws : List Win) (sb yb : Nat) : State :=
  (s.onCh x.handle.toNat (configured x ws)).onUn x.handle.toNat fun u => { u with stmBase := sb, syncBase := yb }

/-- What a CHAMBER_CONFIG must pass besides its windows' list and the placing of its ranges (R125, R126, R428). -/
structure ConfigAccepted (s : State) (x : Sub) (ws : List Win) : Prop where
  mode : s.modeFault x.handle.toNat { s.ch x.handle.toNat with mode := x.a } = none
  regions : quotaOk (s.regionsOf x.handle.toNat).length 65536 (s.others x.handle.toNat (·.quotaRegion)) (fld x.b 16 0) = true
  syncs : quotaOk 0 16384 (s.others x.handle.toNat (·.quotaSync)) (fld x.b 46 32) = true
  watches : quotaOk (s.sync.watches.entries.filter fun p => p.2.used && p.2.chamber == x.handle.toNat).length 4096
    (s.others x.handle.toNat (·.quotaWatch)) (fld x.b 60 48) = true
  streams : quotaOk 0 262144 (s.others x.handle.toNat (·.quotaStream)) (fld x.c 18 0) = true
  clampsPos : fld x.c 44 32 ≠ 0
  clamps : quotaOk (s.clamps.filter fun k => k.chamber == x.handle.toNat).length 4096 (s.others x.handle.toNat (·.quotaClamp)) (fld x.c 44 32) = true
  credits : fld x.c 63 48 ≤ 64
  count : fld x.f 3 0 ≤ 8
  windows : s.winFault x.handle.toNat (ws.map some) = none
  reserve : fld x.e 35 0 ≠ 0 → coverFrom ws 9 (fld x.d 51 16) (fld x.d 51 16 + fld x.e 35 0) = true ∧
    s.meetsRegion (fld x.d 51 16) (fld x.d 51 16 + fld x.e 35 0) = false
  reserveSize : 8 * fld x.e 35 0 ≤ (ws.map fun w => w.limit - w.base).sum
  holds : (s.holds x.handle.toNat).all (fun r => coverFrom ws 9 r.1 r.2) = true
  noWork : s.inWork x.handle.toNat = false
  noCredit : s.creditOpen x.handle.toNat = false
  noStream : ∀ p ∈ s.trk.stm.entries, p.2.isOpen = true → p.2.chamber ≠ x.handle.toNat
  noObject : ∀ p ∈ s.sync.objs.entries, p.2.alloc = true → p.2.chamber ≠ x.handle.toNat

theorem bodyChamberConfig_ok (hok : ConfigAccepted s x ws)
    (hread : fld x.f 3 0 ≠ 0 → e.readErr = false ∧ s.mem.badBeats (fld x.f 51 7 * 128) (16 * fld x.f 3 0) = [])
    (hlist : (List.range (fld x.f 3 0)).map (winOf (s.peek (fld x.f 51 7 * 128) (16 * fld x.f 3 0))) = ws.map some)
    (hstm : (if fld x.c 18 0 = (s.ch x.handle.toNat).quotaStream then some (s.un x.handle.toNat).stmBase
      else placeRange ((s.chambers.entries.filter fun p => p.1 != x.handle.toNat).map fun p => ((s.un p.1).stmBase, p.2.quotaStream)) 262144
        (fld x.c 18 0) (s.un x.handle.toNat).stmBase) = some sb)
    (hsyn : (if fld x.b 46 32 = (s.ch x.handle.toNat).quotaSync then some (s.un x.handle.toNat).syncBase
      else placeRange ((s.chambers.entries.filter fun p => p.1 != x.handle.toNat).map fun p => ((s.un p.1).syncBase, p.2.quotaSync)) 16384
        (fld x.b 46 32) (s.un x.handle.toNat).syncBase) = some yb) :
    ∃ b : Bool, bodyChamberConfig x e s = done
      ((if b then (configuredState s x ws sb yb).dirtyChamber x.handle.toNat else configuredState s x ws sb yb).relevel x.handle.toNat) 0 := by
  have hwins : (ws.map some).filterMap id = ws := by simp
  have hstreams : (s.trk.stm.entries.filter fun p => p.2.isOpen && p.2.chamber == x.handle.toNat) = [] := by
    simpa [List.filter_eq_nil_iff] using fun a b hp => hok.noStream (a, b) hp
  have hobjects : (s.sync.objs.entries.filter fun p => p.2.alloc && p.2.chamber == x.handle.toNat) = [] := by
    simpa [List.filter_eq_nil_iff] using fun a b hp => hok.noObject (a, b) hp
  have hstreams' : (s.trk.stm.entries.any fun p => p.2.isOpen && p.2.chamber == x.handle.toNat &&
      !(decide (sb ≤ p.1) && decide (p.1 < sb + fld x.c 18 0))) = false := by
    simpa [List.any_eq_false] using fun a b hp hopen hch => absurd hch (hok.noStream (a, b) hp hopen)
  have hobjects' : (s.sync.objs.entries.any fun p => (p.2.alloc && p.2.chamber == x.handle.toNat) &&
      !(decide (yb ≤ p.1) && decide (p.1 < yb + fld x.b 46 32))) = false := by
    simpa [List.any_eq_false] using fun a b hp halloc hch => absurd hch (hok.noObject (a, b) hp halloc)
  have hbuffer : ¬(fld x.f 3 0 ≠ 0 ∧ (e.readErr = true ∨ !(s.mem.badBeats (fld x.f 51 7 * 128) (16 * fld x.f 3 0)).isEmpty)) := by
    rintro ⟨hn, herr⟩
    simp [hread hn] at herr
  have hreserve : ¬(fld x.e 35 0 ≠ 0 ∧ (!(coverFrom ws 9 (fld x.d 51 16) (fld x.d 51 16 + fld x.e 35 0)) ∨
      s.meetsRegion (fld x.d 51 16) (fld x.d 51 16 + fld x.e 35 0))) := by
    rintro ⟨hn, herr⟩
    simp [hok.reserve hn] at herr
  unfold bodyChamberConfig
  extract_lets t c n addr list wl ws' qr qs qw qt qc credits rb rs want owned useR useS useW useT useC rest stmAt synAt dirty target
  have hws : ws' = ws := by unfold ws' wl; rw [hlist, hwins]
  have htarget : target = s.onCh x.handle.toNat (configured x ws) := by
    simp only [target, hws]
    rfl
  have huseS : useS = 0 := by unfold useS owned; rw [hobjects]; rfl
  have huseT : useT = 0 := by unfold useT; rw [hstreams]; rfl
  rw [hws, huseS, huseT, show wl = ws.map some from hlist, show stmAt = some sb from hstm, show synAt = some yb from hsyn]
  rw [if_neg hbuffer, hok.mode]
  dsimp only
  have hquota {n total others v : Nat} (h : quotaOk n total others v = true) : ¬((!quotaOk n total others v) = true) := by simp [h]
  rw [if_neg (hquota hok.regions), if_neg (hquota hok.syncs), if_neg (hquota hok.watches), if_neg (hquota hok.streams),
    if_neg (not_or.mpr ⟨hok.clampsPos, hquota hok.clamps⟩), if_neg (Nat.not_lt.mpr hok.credits), if_neg (Nat.not_lt.mpr hok.count), hok.windows]
  dsimp only
  rw [if_neg hreserve, if_neg (Nat.not_lt.mpr hok.reserveSize), if_neg (by rw [hok.holds]; decide),
    if_neg fun h => ne_true_of_eq_false hok.noWork h.2, if_neg fun h => ne_true_of_eq_false hok.noCredit h.2,
    if_neg (by rw [hstreams', hobjects']; decide)]
  rw [htarget]
  exact ⟨dirty, rfl⟩

/-- What the end of CHAMBER_CONFIG leaves: the target configured, its ranges placed, other chambers, memory, regions and keys as they were. -/
theorem configuredState_end (b : Bool) (u : State) (hu : u =
    (if b then (configuredState s x ws sb yb).dirtyChamber x.handle.toNat else configuredState s x ws sb yb).relevel x.handle.toNat) :
    u.ch x.handle.toNat = configured x ws (s.ch x.handle.toNat) ∧ (u.un x.handle.toNat).stmBase = sb ∧ (u.un x.handle.toNat).syncBase = yb ∧
      (∀ m, m ≠ x.handle.toNat → u.ch m = s.ch m) ∧ u.mem = s.mem ∧ u.regions = s.regions ∧ u.keys = s.keys ∧ u.cmds = s.cmds := by
  obtain ⟨st, hst⟩ : ∃ st, (if b then (configuredState s x ws sb yb).dirtyChamber x.handle.toNat else configuredState s x ws sb yb) =
      { configuredState s x ws sb yb with stiles := st } := by
    split
    · exact ⟨_, dirtyChamber_frame _ _⟩
    · exact ⟨_, rfl⟩
  obtain ⟨f, cap, tu, po, su, cn, cw, hframe⟩ := relevel_frame { configuredState s x ws sb yb with stiles := st } x.handle.toNat
  rw [hst, hframe] at hu
  have hun : u.un x.handle.toNat = { s.un x.handle.toNat with stmBase := sb, syncBase := yb, cap := f (s.un x.handle.toNat).cap } := by
    rw [hu]
    simp only [State.un, State.onCapRegs, configuredState, State.onUn, State.onCh, get_modify_self]
  subst hu
  refine ⟨?_, ?_, ?_, fun m hm => ?_, rfl, rfl, rfl, rfl⟩
  · exact get_modify_self ..
  · rw [hun]
  · rw [hun]
  · exact get_modify_ne _ _ hm

/-! CHAMBER_QUIESCE. -/

/-- Changes of a table's keys one after another, by a change that holds once made. -/
theorem foldl_modify_get {V : Type} [DecidableEq V] {f : V → V} (hf : ∀ v, f (f v) = f v) (l : List Nat) (m : SMap V) (k : Nat) :
    (l.foldl (fun m i => m.modify i f) m).get k = if k ∈ l then f (m.get k) else m.get k := by
  induction l generalizing m with
  | nil => simp
  | cons i l ih =>
    rw [List.foldl_cons, ih]
    by_cases hki : k = i
    · subst hki
      simp [hf]
    · simp [get_modify_ne m f hki, hki]

/-- A queue that takes no more entries and has none reads disabled. -/
def closeSq (t : Sq) : Sq := { t with enable := false, closing := false }

/-- Ending every SQ of a chamber that has no work closes them all and stops nothing. -/
theorem foldl_endSq {t n : Nat} {me : Option Sub} {f : Chamber → Chamber} (hfetched : (f (s.ch t)).fetched = [])
    (hcmds : ∀ c ∈ s.cmds, c.sub.chamber ≠ t) (hfins : ∀ c ∈ s.fins, c.chamber ≠ t) (l : List Nat) :
    l.foldl (fun (a : Nat × State) q => let (k, s) := a.2.endSq t q me; (a.1 + k, s)) (n, s.onCh t f) =
      (n, s.onCh t fun c => { f c with sqs := l.foldl (fun m q => m.modify q closeSq) (f c).sqs }) := by
  induction l generalizing f with
  | nil => rfl
  | cons q l ih =>
    have hidle : QueueIdle (s.onCh t f) t q :=
      ⟨by simp [hfetched], fun c hc h => absurd h (hcmds c hc), fun c hc h => absurd h (hfins c hc)⟩
    have hone : (s.onCh t f).endSq t q me = (0, s.onCh t fun c => { f c with sqs := (f c).sqs.modify q closeSq }) := by
      rw [endSq_of_idle hidle, State.onSq, onCh_onCh]
      rfl
    simp only [List.foldl_cons, hone, Nat.add_zero]
    exact ih (f := fun c => { f c with sqs := (f c).sqs.modify q closeSq }) hfetched

/-- The completion queues of a quiesced chamber keep their place and size. -/
def quietCq (k : Cq) : Cq := { Cq.zero with irqEn := k.irqEn, base := k.base, sizeM1 := k.sizeM1 }

/-- A chamber whose idle SQs `l` CHAMBER_QUIESCE has closed. -/
def closedSqs (l : List Nat) (c : Chamber) : Chamber :=
  { c with quiescing := true, sqs := l.foldl (fun m q => m.modify q closeSq) c.sqs }

theorem closedSqs_disabled (c : Chamber) {l : List Nat} {q : Nat} (hq : q ∈ l) : ((closedSqs l c).sqs.get q).enable = false := by
  have hsq := foldl_modify_get (f := closeSq) (fun _ => rfl) l c.sqs q
  rw [if_pos hq] at hsq
  rw [closedSqs, hsq, closeSq]

/-- A chamber without work as CHAMBER_QUIESCE leaves it, its queues those of `l`. -/
def quiesced (l : List Nat) (c : Chamber) : Chamber :=
  { closedSqs l c with
    quiescing := false
    quiesced := true
    cqs := l.foldl (fun m q => m.modify q quietCq) c.cqs }

theorem quiesced_disabled (c : Chamber) {l : List Nat} {q : Nat} (hq : q ∈ l) :
    ((quiesced l c).sqs.get q).enable = false ∧ ((quiesced l c).cqs.get q).enable = false := by
  refine ⟨closedSqs_disabled c hq, ?_⟩
  have hcq := foldl_modify_get (f := quietCq) (fun _ => rfl) l c.cqs q
  rw [if_pos hq] at hcq
  rw [quiesced, hcq]
  rfl

/-- A completion queue as CHAMBER_QUIESCE leaves it: the entry's own stays. -/
def quietCqs (x : Sub) (l : List Nat) (c : Chamber) : Chamber :=
  { c with
    quiescing := false
    quiesced := true
    cqs := l.foldl (fun m q => if x.handle.toNat = x.chamber ∧ q = (c.sqs.get x.sq).cq then m else m.modify q quietCq) c.cqs }

/-- The part of CHAMBER_QUIESCE after the commands of its chamber are stopped. -/
def quiesceEnd (x : Sub) (n : Nat) (l : List Nat) (s : State) : Res :=
  if l.any fun q => ((s.ch x.handle.toNat).sqs.get q).enable && !(x.handle.toNat == 0 && q == x.sq) then running x s n
  else
    let u := s.onCh x.handle.toNat (quietCqs x l)
    let clean := (u.leftovers x.handle.toNat).isEmpty
    ended (if clean then u else u.logLeftovers x.handle.toNat) (if clean then sOk else sLeftover) (BitVec.ofNat 64 n) n []

theorem quiesceEnd_idle {l : List Nat} {n : Nat} {f : Chamber → Chamber} (hother : x.handle.toNat ≠ x.chamber)
    (hf : f (s.ch x.handle.toNat) = closedSqs l (s.ch x.handle.toNat)) (hleft : s.leftovers x.handle.toNat = []) :
    quiesceEnd x n l (s.onCh x.handle.toNat f) = ⟨s.onCh x.handle.toNat (quiesced l), some sOk, BitVec.ofNat 64 n, n, []⟩ := by
  have hquiet : (s.onCh x.handle.toNat (closedSqs l)).onCh x.handle.toNat (quietCqs x l) = s.onCh x.handle.toNat (quiesced l) := by
    rw [onCh_onCh]
    refine onCh_congr ?_
    simp only [quietCqs, hother, false_and, if_false, Function.comp_apply]
    rfl
  have hdone : ¬(l.any fun q => (((s.onCh x.handle.toNat (closedSqs l)).ch x.handle.toNat).sqs.get q).enable &&
      !(x.handle.toNat == 0 && q == x.sq)) = true := by
    rw [State.ch_onCh, List.any_eq_true]
    rintro ⟨q, hq, hopen⟩
    rw [closedSqs_disabled _ hq] at hopen
    exact Bool.false_ne_true hopen
  have hclean : (s.onCh x.handle.toNat (quiesced l)).leftovers x.handle.toNat = [] := hleft
  rw [onCh_congr hf, quiesceEnd, if_neg hdone, hquiet]
  dsimp only
  rw [hclean]
  rfl

theorem bodyChamberQuiesce_first {n : Nat} {u : State} (hfirst : (s.cmd? x).map (·.prog) = some 0)
    (hstop : (List.range 16).foldl (fun (a : Nat × State) q => let (k, s) := a.2.endSq x.handle.toNat q (some x); (a.1 + k, s))
      (0, s.onCh x.handle.toNat fun c => { c with quiescing := true }) = (n, u)) :
    bodyChamberQuiesce x s = quiesceEnd x n (List.range 16) (u.onCmd x fun c => { c with prog := n + 1 }) := by
  rw [bodyChamberQuiesce, hfirst]
  dsimp only
  rw [hstop]
  rfl

theorem bodyChamberQuiesce_idle {c : Cmd} (hcmd : s.cmd? x = some c) (hfirst : c.prog = 0) (hother : x.handle.toNat ≠ x.chamber)
    (hfetched : (s.ch x.handle.toNat).fetched = []) (hcmds : ∀ c ∈ s.cmds, c.sub.chamber ≠ x.handle.toNat)
    (hfins : ∀ c ∈ s.fins, c.chamber ≠ x.handle.toNat) (hleft : s.leftovers x.handle.toNat = []) :
    bodyChamberQuiesce x s =
      ⟨(s.onCmd x fun c => { c with prog := 1 }).onCh x.handle.toNat (quiesced (List.range 16)), some sOk, 0, 0, []⟩ :=
  (bodyChamberQuiesce_first (by rw [hcmd, Option.map_some, hfirst])
    (foldl_endSq (f := fun c => { c with quiescing := true }) hfetched hcmds hfins _)).trans
    (quiesceEnd_idle (s := s.onCmd x fun c => { c with prog := 1 }) hother rfl hleft)

/-! ABORT. -/

/-- A status word moves no more than memory or an internal slot of its chamber. -/
theorem putStatus_frame (s : State) (x : Sub) (twin : Bool) (ph : Nat) (st : BitVec 16) (n : Nat) (w : List (BitVec 64)) :
    s.putStatus x twin ph st n w = { s with
      chambers := (s.putStatus x twin ph st n w).chambers, mem := (s.putStatus x twin ph st n w).mem } := by
  apply State.ext_fields <;> simp

theorem putStatus_ch_fetched (s : State) (x : Sub) (twin : Bool) (ph : Nat) (st : BitVec 16) (n : Nat) (w : List (BitVec 64)) :
    ((s.putStatus x twin ph st n w).ch x.chamber).fetched = (s.ch x.chamber).fetched := by
  cases hl : isLong x with
  | false => rw [State.putStatus, hl]; rfl
  | true =>
    cases twin with
    | true => rw [State.putStatus, hl]; rfl
    | false =>
      cases he : extStatus x with
      | true => rw [putStatus_ext hl he, State.ch, State.poke_chambers, State.poke_chambers, State.ch]
      | false => rw [putStatus_slot hl he, State.ch_onCh]

theorem abortAt_gone {ch q : Nat} {id : BitVec 16} (hfetched : ∀ f ∈ (s.ch ch).fetched, f.sub.sq = q → f.sub.cid = id → f.dead = true)
    (hcmd : s.cmdAt ch q id = none) :
    s.abortAt ch q id = (if (s.fins.any fun f => f.chamber == ch && f.sq == q && f.cid == id) ||
      ((List.range 16).any fun k => ((s.ch ch).cqs.get k).posted.contains (q, id)) then 1 else 2, s) := by
  have hnone : ((s.ch ch).fetched.find? fun f => f.sub.sq == q && f.sub.cid == id && !f.dead) = none := by
    simpa [List.find?_eq_none] using hfetched
  rw [State.abortAt, hnone]
  dsimp only
  rw [hcmd]
  exact (apply_ite (·, s) ..).symm

/-- Stopping the one finished entry that waits for dispatch leaves its completion and, where it has one, its status word. -/
theorem abortFetched_only {f : Fetched} (hfetched : (s.ch f.sub.chamber).fetched = [f]) (hdone : f.done = true) (hraw : f.raw.length = 64) :
    ∃ u, s.abortFetched f true = u ∧ u.cmds = s.cmds ∧ (u.ch f.sub.chamber).fetched = [] ∧
      u.fins = s.fins ++ [⟨f.sub.chamber, f.sub.sq, f.sub.cid, sAborted, 0⟩] ∧
      u = { s with chambers := u.chambers, fins := u.fins, mem := u.mem } := by
  have hnative : (f.raw.length == 32) = false := by rw [hraw]; rfl
  unfold State.abortFetched
  extract_lets y twin s1 s2
  rw [show twin = false from hnative]
  have hgone : (s1.ch y.chamber).fetched = [] := by
    simp [s1, y, hfetched, hdone]
  have hword : (s2.ch y.chamber).fetched = [] ∧ ∃ cs m, s2 = { s with chambers := cs, mem := m } := by
    unfold s2
    split
    · exact ⟨(putStatus_ch_fetched ..).trans hgone, _, _, putStatus_frame ..⟩
    · exact ⟨hgone, _, _, rfl⟩
  obtain ⟨hempty, cs, m, hframe⟩ := hword
  rw [hframe] at hempty ⊢
  exact ⟨_, pushFin_eq .., rfl, hempty, rfl, rfl⟩

theorem bodyAbort_own (hown : x.chamber = 0 ∨ fld x.a 4 0 = x.chamber) {r : Nat} {u : State}
    (hat : s.abortAt (fld x.a 4 0) (fld x.a 11 8) (BitVec.ofNat 16 (fld x.a 31 16)) = (r, u)) :
    bodyAbort x s = ⟨u, some sOk, BitVec.ofNat 64 r, 0, []⟩ := by
  have hforeign : ¬(x.chamber ≠ 0 ∧ fld x.a 4 0 ≠ x.chamber) := by
    rintro ⟨hch, hne⟩
    exact hown.elim hch hne
  rw [bodyAbort, if_neg hforeign, hat]
  rfl

theorem abortAt_waiting {f : Fetched} (hfetched : (s.ch f.sub.chamber).fetched = [f]) (hlive : f.dead = false) :
    s.abortAt f.sub.chamber f.sub.sq f.sub.cid = (0, s.abortFetched f true) := by
  simp [State.abortAt, hfetched, hlive]

end
/-- Settles O4: a CHAMBER_CONFIG that passes ends in `configuredState` up to granule states and the reserve level, the SQs of a chamber without work
close at once, and ABORT finds its command among those that wait, those that finished, or nowhere. -/
theorem chambersAreConfiguredAndQuieted : Obligations.ChambersAreConfiguredAndQuieted := by
  refine ⟨?_, ?_, ?_⟩
  · intro s x0 x e ws sb yb hheld t c n addr rb rs rest hn hread hlist hwin hmode hqr hqs hqw hqt hpos hqc hcr hres hsize hholds hwork hcredit hstream
      hobject hstm hsyn
    obtain ⟨b, hb⟩ := bodyChamberConfig_ok
      ⟨hmode, hqr, hqs, hqw, hqt, hpos, hqc, hcr, hn, hwin, hres, hsize, hholds, hwork, hcredit, hstream, hobject⟩ hread hlist hstm hsyn
    obtain ⟨hch, hsb, hyb, hothers, hmem, hregions, hkeys, hcmds⟩ := configuredState_end b _ rfl
    exact ⟨_, ends_runOp (runs_chamberConfig hheld) hheld.2 hb hcmds (by decide), hch, hsb, hyb, hothers, hmem, hregions, hkeys⟩
  · intro s x0 x e hheld t hother hfetched hcmds hfins hleft
    obtain ⟨c, hcmd, -, htwin, -, hunits, -, hprog, -⟩ := inHand_cmd hheld.2
    refine ⟨_, ends_runOp_of (runs_chamberQuiesce hheld) hheld.2
      (bodyChamberQuiesce_idle hcmd hprog hother hfetched hcmds hfins hleft)
      (cmd_onCmd hcmd (fun c => { c with prog := 1 }) fun _ => rfl) htwin hunits.le (by decide), ?_, ?_, ?_, ?_, rfl⟩
    · rw [State.ch_onCh]; rfl
    · rw [State.ch_onCh]; rfl
    · intro q hq
      rw [State.ch_onCh]
      exact quiesced_disabled _ (List.mem_range.mpr hq)
    · intro m hm
      exact State.ch_onCh_ne _ _ _ _ hm
  · intro s x0 x e hheld hown ch q id finished
    constructor
    · intro hgone hnone
      have hb := bodyAbort_own hown (abortAt_gone hgone hnone)
      cases hfinished : finished with
      | true =>
        rw [if_pos hfinished] at hb
        exact ends_runOp (runs_abort hheld) hheld.2 hb rfl (by decide)
      | false =>
        rw [if_neg (ne_true_of_eq_false hfinished)] at hb
        exact ends_runOp (runs_abort hheld) hheld.2 hb rfl (by decide)
    · intro f hfetched hch hsq hcid hlive hdone hraw
      rw [← hch] at hfetched
      obtain ⟨u, hu, hcmds, hempty, hfins, hframe⟩ := abortFetched_only hfetched hdone hraw
      have hat := (abortAt_waiting hfetched hlive).trans (congrArg (Prod.mk 0) hu)
      rw [hch, hsq, hcid] at hat hfins
      rw [hch] at hempty
      exact ⟨u, ends_runOp (runs_abort hheld) hheld.2 (bodyAbort_own hown hat) hcmds (by decide), hempty, hfins, hframe⟩

end Sys2Proof.Proofs
end

section
/-! PROOFS. Stores, controllers and KEY_SLOT_LOAD (R84, R124, R210-R234, R400-R403). -/

namespace Sys2Proof.Proofs
open Sys2Proof Sys2Proof.Machine Sys2Proof.Laws

theorem bit_setBit {w : Nat} (v : BitVec w) {i : Nat} (hi : i < w) (b : Bool) : bit (setBit v i b) i = b := by
  cases b <;> simp [bit, setBit, hi]

section
variable {s : State} {x0 x : Sub} {e : Ext}

/-! STORE_CREATE. -/

theorem draw_eq (s : State) : s.draw = (Config.drbg s.drbg.draws, s.draw.2) := rfl

/-- The store a STORE_CREATE formats, from the words drawn for its identity. -/
def newStore (s : State) (x : Sub) (w : BitVec 128) : Media :=
  let l := s.nsList x.b.toNat (fld x.a 6 0)
  let infos := l.filterMap s.nsInfo
  let per := (infos.foldl (fun m i => min m i.size) ((infos.headD ⟨0, false, 0, []⟩).size)) / 2 ^ fld x.a 23 16 * 2 ^ fld x.a 23 16
  let m : Media := ⟨l, infos.map (·.ident), fld x.a 15 8, false, false, if fld x.a 15 8 = 2 then 0 else 4, w, fld x.a 23 16, per,
    l.length * per / 2 ^ 18, 1, 0, 1, 0, 0, 1, 1, s.boot.running, [], []⟩
  { m with ckptLen := 1 + m.zoneSectors }

/-- The block's media with what the namespaces held before made blank. -/
def clearedMedia (s : State) (x : Sub) : List Media :=
  s.sto.media.map fun m => if m.ns.any (s.nsList x.b.toNat (fld x.a 6 0)).contains then m.blank else m

theorem bodyStoreCreate_ok (hrefuse : s.storeRefuse x e = none) (hfault : storeFault e = none) (hzones : ∀ w, 4 ≤ (newStore s x w).zones) :
    ∃ w, bodyStoreCreate x e s = ⟨{ s with
      sto := { s.sto with media := clearedMedia s x ++ [newStore s x w], mount := s.sto.mount.set x.handle.toNat (some (clearedMedia s x).length) }
      drbg := s.draw.2.draw.2.drbg }, some sOk, BitVec.ofNat 64 (newStore s x w).capacity, (newStore s x w).zones, []⟩ := by
  refine ⟨BitVec.ofNat 128 (s.draw.1.toNat + s.draw.2.draw.1.toNat * 2 ^ 64), ?_⟩
  unfold bodyStoreCreate
  rw [hrefuse]
  dsimp only
  refine (if_neg (Nat.not_lt.mpr (hzones 0))).trans ?_
  rw [hfault]
  rfl

theorem mounted_new {media : List Media} {m : Media} {h : Nat} {mount : SMap (Option Nat)} {t : State}
    (hmedia : t.sto.media = media ++ [m]) (hmount : t.sto.mount = mount.set h (some media.length)) : t.mounted h = some m := by
  rw [State.mounted, hmedia, hmount, get_set_self]
  simp

/-! STORE_CREATE with A[24] = 1. -/

theorem bodyStoreMount_ok {i : Nat} {m : Media} (hrefuse : s.storeRefuse x e = none) (hfault : loadFault e = none) (hm : s.sto.media[i]? = some m)
    (hmeets : m.idents.any (((s.nsList x.b.toNat (fld x.a 6 0)).filterMap s.nsInfo).map (·.ident)).contains = true)
    (hfirst : ∀ j o, j < i → s.sto.media[j]? = some o →
      o.idents.any (((s.nsList x.b.toNat (fld x.a 6 0)).filterMap s.nsInfo).map (·.ident)).contains = false)
    (hgood : m.damaged = false) (hdel : m.deleting = false)
    (hin : (((s.nsList x.b.toNat (fld x.a 6 0)).filterMap s.nsInfo).map (·.ident)).all m.idents.contains = true)
    (hout : m.idents.all (((s.nsList x.b.toNat (fld x.a 6 0)).filterMap s.nsInfo).map (·.ident)).contains = true)
    (hlen : (((s.nsList x.b.toNat (fld x.a 6 0)).filterMap s.nsInfo).map (·.ident)).length = m.idents.length) :
    bodyStoreMount x e s =
      (let order := m.idents.map fun d => (((s.nsList x.b.toNat (fld x.a 6 0)).find? fun p =>
          match s.nsInfo p with | some n => n.ident == d | none => false).getD (0, 0))
       ended { s with sto := { s.sto with
          media := s.sto.media.set i { m.remount with ns := order }
          mount := s.sto.mount.set x.handle.toNat (some i) } } sOk (BitVec.ofNat 64 { m.remount with ns := order }.capacity) m.remount.zones []) := by
  have hwhole : ¬(!((((s.nsList x.b.toNat (fld x.a 6 0)).filterMap s.nsInfo).map (·.ident)).all m.idents.contains &&
      m.idents.all (((s.nsList x.b.toNat (fld x.a 6 0)).filterMap s.nsInfo).map (·.ident)).contains &&
      (((s.nsList x.b.toNat (fld x.a 6 0)).filterMap s.nsInfo).map (·.ident)).length == m.idents.length)) = true := by
    rw [hin, hout, hlen]
    simp
  unfold bodyStoreMount
  rw [hrefuse]
  dsimp only
  generalize hfind : List.find? _ (List.range s.sto.media.length) = o
  have ho : o = some i := by
    have hi : i < s.sto.media.length := (List.getElem?_eq_some_iff.mp hm).1
    rw [← hfind, List.find?_range_eq_some]
    refine ⟨by rw [hm]; exact hmeets, List.mem_range.mpr hi, fun j hj => ?_⟩
    have hj' : s.sto.media[j]? = some s.sto.media[j] := List.getElem?_eq_getElem (hj.trans hi)
    rw [hj']
    exact (Bool.not_eq_true' _).mpr (hfirst j _ hj hj')
  rw [ho]
  dsimp only
  rw [hm]
  dsimp only
  rw [if_neg (ne_true_of_eq_false hgood), if_neg hwhole, hfault]
  exact if_neg (ne_true_of_eq_false hdel)

/-! STORE_DELETE and its unmount. -/

theorem mounted_of {h i : Nat} {m : Media} (hmount : s.sto.mount.get h = some i) (hm : s.sto.media[i]? = some m) : s.mounted h = some m := by
  rw [State.mounted, hmount]
  exact hm

theorem onMedia_of {h i : Nat} {m : Media} (hmount : s.sto.mount.get h = some i) (hm : s.sto.media[i]? = some m) (f : Media → Media) :
    s.onMedia h f = { s with sto := { s.sto with media := s.sto.media.set i (f m) } } := by
  rw [State.onMedia, hmount]
  dsimp only
  rw [hm]

section
variable {i : Nat} {m : Media} (hmount : s.sto.mount.get x.handle.toNat = some i) (hm : s.sto.media[i]? = some m)
  (hnamed : s.storeNamed x.handle.toNat = false) (hdown : s.storeDown x.handle.toNat = none) (hfault : storeFault e = none)
include hmount hm hnamed hdown hfault

theorem bodyStoreDelete_unmount (hkind : bit x.a 0 = false) : bodyStoreDelete x e s = done { s with sto := { s.sto with
    media := s.sto.media.set i m.checkpoint, mount := s.sto.mount.set x.handle.toNat none } } 0 := by
  rw [bodyStoreDelete, mounted_of hmount hm]
  dsimp only
  rw [if_neg (ne_true_of_eq_false hnamed), hdown]
  refine (if_neg (ne_true_of_eq_false hkind)).trans ?_
  rw [hfault, onMedia_of hmount hm]

theorem bodyStoreDelete_blank (hkind : bit x.a 0 = true) : bodyStoreDelete x e s = ended { s with sto := { s.sto with
    media := s.sto.media.set i m.blank, mount := s.sto.mount.set x.handle.toNat none } } sOk (BitVec.ofNat 64 m.extents) m.extents [] := by
  rw [bodyStoreDelete, mounted_of hmount hm]
  dsimp only
  rw [if_neg (ne_true_of_eq_false hnamed), hdown]
  refine (if_pos hkind).trans ?_
  rw [hfault, onMedia_of hmount hm Media.blank]

end

theorem storeUnmount_kind (h : s.holdsCmd (.storeUnmount x0 e) x) : bit x.a 0 = false := by
  obtain ⟨h, -⟩ := h
  cases h
  exact bit_setBit _ (by decide) _

theorem storeDelete_kind (h : s.holdsCmd (.storeDelete x0 e) x) : bit x.a 0 = true := by
  obtain ⟨h, -⟩ := h
  cases h
  exact bit_setBit _ (by decide) _

/-! STORAGE_ATTACH. -/

/-- The controller of a STORAGE_ATTACH that goes well. -/
def attached (x : Sub) (ci : CtrlInfo) (n : Nvme) : Nvme :=
  { attached := true, base := x.b, pairs := fld x.c 4 0, depth := fld x.c 27 16 + 1, identify := ci.identify, spaces := ci.spaces,
    open_ := n.open_, timed := [], sqHead := .const 0, viol := 0, quar := false, health := n.health, errLog := n.errLog }

theorem bodyStorageAttach_ok {ci : CtrlInfo} (hup : s.sto.down = false) (hreg : ci.regErr = false) (hready : ci.notReady = false)
    (hcmd : ci.cmdErr = false) (hspaces : ci.spaces.filter (·.usable) ≠ []) :
    ∃ l, bodyStorageAttach x e ci s = ended { s with sto := { s.sto with
        ctrls := s.sto.ctrls.modify (fld x.a 5 0) (attached x ci), media := s.sto.media ++ l } } sOk
      (BitVec.ofNat 64 (ci.spaces.filter (·.usable)).length) (ci.spaces.filter (·.usable)).length [] := by
  refine ⟨ci.stores.filter fun m => !(s.sto.media.any fun o => !o.idents.isEmpty && o.identity == m.identity), ?_⟩
  rw [bodyStorageAttach]
  refine (if_neg (ne_true_of_eq_false hup)).trans ((if_neg (by simp [hreg, hready])).trans
    ((if_neg (ne_true_of_eq_false hcmd)).trans ((if_neg hspaces).trans ?_)))
  rfl

theorem bodyStorageDetach_ok (hfree : s.storesOn (fld x.a 5 0) = []) :
    bodyStorageDetach x s = done (s.onNvme (fld x.a 5 0) fun n => { Nvme.zero with health := n.health, errLog := n.errLog }) 0 := by
  rw [bodyStorageDetach, hfree]
  rfl

end

/-- Settles O5: each command passes its checks in turn; what remains is the change of the media, the mounts or the controllers alone. -/
theorem storesAreFormattedAndMounted : Obligations.StoresAreFormattedAndMounted := by
  refine ⟨?_, ?_, ?_, ?_⟩
  · intro s x0 x e hheld hrefuse hfault l infos unit per hzones
    obtain ⟨w, hb⟩ := bodyStoreCreate_ok hrefuse hfault fun _ => hzones
    exact ⟨_, newStore s x w, ends_runOp (runs_storeCreate hheld) hheld.2 hb rfl (by decide), mounted_new rfl rfl, rfl, rfl, rfl, rfl, rfl, rfl, rfl, rfl,
      rfl⟩
  · intro s x0 x e i m hheld hrefuse hfault l ids order hm hmeets hfirst hgood hdel hin hout hlen
    exact ends_runOp (runs_storeMount hheld) hheld.2 (bodyStoreMount_ok hrefuse hfault hm hmeets hfirst hgood hdel hin hout hlen) rfl (by decide)
  · intro s x0 x e i m hmount hm hnamed hdown hfault
    constructor
    · intro hheld
      exact ends_runOp (runs_storeUnmount hheld) hheld.2
        (bodyStoreDelete_unmount hmount hm hnamed hdown hfault (storeUnmount_kind hheld)) rfl (by decide)
    · intro hheld
      exact ends_runOp (runs_storeDelete hheld) hheld.2 (bodyStoreDelete_blank hmount hm hnamed hdown hfault (storeDelete_kind hheld)) rfl (by decide)
  · intro s x0 x e ci
    constructor
    · intro hheld hup hreg hready hcmd hspaces
      obtain ⟨l, hb⟩ := bodyStorageAttach_ok (x := x) (e := e) hup hreg hready hcmd hspaces
      have hctrl := get_modify_self s.sto.ctrls (fld x.a 5 0) (attached x ci)
      exact ⟨_, ends_runOp (runs_storageAttach hheld) hheld.2 hb rfl (by decide), congrArg Nvme.attached hctrl, congrArg Nvme.base hctrl,
        congrArg Nvme.pairs hctrl, congrArg Nvme.depth hctrl, congrArg Nvme.spaces hctrl, fun k hk => get_modify_ne _ _ hk, rfl⟩
    · intro hheld hfree
      exact ends_runOp (runs_storageDetach hheld) hheld.2 (bodyStorageDetach_ok hfree) rfl (by decide)

end Sys2Proof.Proofs
end

section
/-! PROOFS. KEY_SLOT_LOAD, FW_STAGE and FW_ACTIVATE (R86, R87, R124, R400-R403). -/

namespace Sys2Proof.Proofs
open Sys2Proof Sys2Proof.Machine Sys2Proof.Laws

section
variable {s : State} {x0 x : Sub} {e : Ext}

/-! KEY_SLOT_LOAD. -/

theorem bodyKeySlotLoad_ok {key : List Byte} (hlamp : s.life.level < 3) (hempty : (s.keys.get (x.handle.toNat % 64)).state = 0)
    (hwrap : (s.keys.get (fld x.a 5 0)).state = 2) (hcount : (s.keys.get (fld x.a 5 0)).count < 2 ^ 32) (hstop : s.drbg.stop = false)
    (hread : e.readErr = false) (hbeats : s.mem.badBeats x.b.toNat 60 = []) (hup : s.cipherUp = true)
    (hopen : gcmOpen (keyBytes (s.keys.get (fld x.a 5 0)).key) (bytesAt (s.peek x.b.toNat 60) 0 12)
      ([BitVec.ofNat 8 (x.handle.toNat % 64), BitVec.ofNat 8 x.chamber] ++ zeros 6) (bytesAt (s.peek x.b.toNat 60) 12 32)
      (bytesAt (s.peek x.b.toNat 60) 44 16) = some key) :
    bodyKeySlotLoad x e s = done (s.commitKey (x.handle.toNat % 64) 2 (BitVec.ofNat 256 (leNat key))) 0 := by
  have hlow : ¬(3 ≤ s.life.level ∨ (s.keys.get (x.handle.toNat % 64)).state ≠ 0) := by omega
  have husable : ¬((!(s.keys.get (fld x.a 5 0)).usable) = true) := by simp [KeySlot.usable, hwrap]
  have hgood : ¬(e.readErr = true ∨ s.mem.badBeats x.b.toNat 60 ≠ []) := by simp [hread, hbeats]
  have hcipher : ¬((!s.cipherUp) = true) := by simp [hup]
  rw [bodyKeySlotLoad]
  refine (if_neg hlow).trans ((if_neg husable).trans ((if_neg (Nat.not_le.mpr hcount)).trans ((if_neg (ne_true_of_eq_false hstop)).trans
    ((if_neg hgood).trans ((if_neg hcipher).trans ?_)))))
  dsimp only
  rw [hopen]

/-- Zeroising a slot ends no capture where there is none. -/
theorem zeroKey_idle (slot : Nat) (hrun : s.cap.run = none) (hwaits : s.cap.waits = []) : s.zeroKey slot = s.onKey slot fun _ => KeySlot.zero := by
  have hrun' : (s.onKey slot fun _ => KeySlot.zero).cap.run = none := hrun
  have hwaits' : (s.onKey slot fun _ => KeySlot.zero).cap.waits = [] := hwaits
  rw [State.zeroKey, State.capFailSlot, hrun']
  dsimp only
  rw [hwaits']
  rfl

end

/-- Settles O6: a blob that opens under its wrapping slot commits the key, and zeroising clears the slot where no capture uses it. -/
theorem keySlotCommandsLoadAndClear : Obligations.KeySlotCommandsLoadAndClear := by
  intro s x0 x e key slot w b
  constructor
  · intro hheld hlamp hempty hwrap hcount hstop hread hbeats hup hopen
    exact ends_runOp (runs_keySlotLoad hheld) hheld.2 (bodyKeySlotLoad_ok hlamp hempty hwrap hcount hstop hread hbeats hup hopen) rfl (by decide)
  · intro hheld hrun hwaits
    exact ends_runOp (runs_keySlotZeroise hheld) hheld.2 (congrArg (done · 0) (zeroKey_idle _ hrun hwaits)) rfl (by decide)

section
variable {s : State} {x0 x : Sub} {e : Ext} {img : Image} {key : Nat}

/-! FW_STAGE. -/

theorem bodyFwStage_ok (hread : e.readErr = false) (hfetch : img.fetchErr = false) (hcheck : s.checkImage x.b.toNat (fld x.c 31 0) img = .ok key) :
    bodyFwStage x e img s = ended { s with boot := { s.boot with staged := some ⟨x.b, BitVec.ofNat 32 (fld x.c 31 0), img⟩ } } sOk 0
      (fld x.c 31 0 / 4096) [] := by
  rw [bodyFwStage]
  refine (if_neg (by simp [hread, hfetch])).trans ?_
  rw [hcheck]

/-! FW_ACTIVATE. -/

/-- The block with a staged image measured, no anti-rollback row burned. -/
def measured (s : State) (g : Staged) : State :=
  { s with boot := { s.boot with fwAddr := g.addr, fwLen := g.len } }.extendSg 1 (leBytes 48 g.img.digest.toNat)

theorem bodyFwActivate_ok {g : Staged} (hstaged : s.boot.staged = some g) (hidle : s.activeWork = false) (hread : e.readErr = false)
    (hfetch : img.fetchErr = false) (hdigest : img.digest = g.img.digest) (hcheck : s.checkImage g.addr.toNat g.len.toNat g.img = .ok key)
    (hburn : bit x.a 0 = false) :
    bodyFwActivate x e img s =
      if g.img.liveCompat && (measured s g).svc.standbyOk then
        done { (measured s g).runImage g.img key with boot := { ((measured s g).runImage g.img key).boot with staged := none } } 0
      else wait ({ measured s g with boot := { (measured s g).boot with
        sg1Digest := some g.img.digest, imageKey := BitVec.ofNat 2 key } }.warmAssert.warmStart img) := by
  rw [bodyFwActivate, hstaged]
  dsimp only
  rw [if_neg (ne_true_of_eq_false hidle), if_neg (by simp [hread, hfetch]), if_neg (not_not.mpr hdigest), hcheck]
  dsimp only
  rw [hburn]
  rfl

end

/-- Settles O8: an image that passes is recorded, and a staged one is measured and then runs live or through a warm reset. -/
theorem firmwareIsStagedAndActivated : Obligations.FirmwareIsStagedAndActivated := by
  refine ⟨?_, ?_⟩
  · intro s x0 x e img key hheld hread hfetch hcheck
    exact ends_runOp (runs_fwStage hheld) hheld.2 (bodyFwStage_ok hread hfetch hcheck) rfl (by decide)
  · intro s x0 x e img g key hheld hstaged hidle hread hfetch hdigest hcheck hburn m
    have hb := bodyFwActivate_ok hstaged hidle hread hfetch hdigest hcheck hburn
    constructor
    · intro hlive hstandby
      have hlive' : (g.img.liveCompat && (measured s g).svc.standbyOk) = true := by
        rw [hlive]
        exact hstandby
      rw [if_pos hlive', State.runImage, hlive] at hb
      exact ends_runOp (runs_fwActivate hheld) hheld.2 hb rfl (by decide)
    · intro hreset
      have hreset' : ¬(g.img.liveCompat && (measured s g).svc.standbyOk) = true := by
        show ¬(g.img.liveCompat && s.svc.standbyOk) = true
        rcases hreset with h | h <;> simp [h]
      rw [if_neg hreset'] at hb
      rw [runs_fwActivate hheld, runOp_inHand hheld.2, hb]
      rfl

end Sys2Proof.Proofs
end

section
/-! PROOFS. LIFECYCLE_ADVANCE (R453, R455); what ends captures and posts completions leaves the lifecycle and the fuses alone. -/

namespace Sys2Proof.Proofs
open Sys2Proof Sys2Proof.Machine Sys2Proof.Laws

/-! The lifecycle state and the fuses, which the work that ends at a retirement leaves alone. -/

/-- The lifecycle and start-up registers. -/
def lifeBoot (s : State) : LifeLamp × Boot := (s.life, s.boot)

theorem boot_of_lifeBoot {u s : State} (h : lifeBoot u = lifeBoot s) : u.boot = s.boot := congrArg Prod.snd h

/-- A fold of steps that leave the lifecycle and start-up registers alone does so too. -/
theorem lifeBoot_foldl {α : Type} {f : State → α → State} (hf : ∀ s i, lifeBoot (f s i) = lifeBoot s) (l : List α) (s : State) :
    lifeBoot (l.foldl f s) = lifeBoot s := by
  induction l generalizing s with
  | nil => rfl
  | cons i l ih => rw [List.foldl_cons, ih, hf]

theorem lifeBoot_ite {c : Prop} [Decidable c] {u v s : State} (hu : lifeBoot u = lifeBoot s) (hv : lifeBoot v = lifeBoot s) :
    lifeBoot (if c then u else v) = lifeBoot s := by
  rw [apply_ite lifeBoot, hu, hv, ite_self]

section
variable (s : State)

theorem lifeBoot_log (c : BitVec 16) (v k i : Nat) (ch : Option Nat) (d : List Byte) : lifeBoot (s.log c v k i ch d) = lifeBoot s := by
  rw [log_frame]; rfl

theorem lifeBoot_logPartner (c : BitVec 16) (k i : Nat) (ch : Option Nat) (d : List Byte) : lifeBoot (s.logPartner c k i ch d) = lifeBoot s :=
  lifeBoot_log ..

theorem lifeBoot_putStatus (x : Sub) (b : Bool) (p : Nat) (st : BitVec 16) (n : Nat) (l : List (BitVec 64)) :
    lifeBoot (s.putStatus x b p st n l) = lifeBoot s := by
  rw [putStatus_frame]; rfl

theorem lifeBoot_pushFin (x : Sub) (b : Bool) (st : BitVec 16) (r : BitVec 64) : lifeBoot (s.pushFin x b st r) = lifeBoot s := by
  cases b
  · rfl
  · exact lifeBoot_log ..

theorem lifeBoot_quarSq (ch q : Nat) : lifeBoot (s.quarSq ch q) = lifeBoot s :=
  lifeBoot_ite rfl ((lifeBoot_logPartner ..).trans (lifeBoot_foldl (fun _ _ => lifeBoot_pushFin ..) ..))

theorem lifeBoot_violSq (ch q : Nat) : lifeBoot (s.violSq ch q) = lifeBoot s :=
  lifeBoot_ite (lifeBoot_quarSq ..) rfl

theorem lifeBoot_quarCq (ch q : Nat) (all : Bool) : lifeBoot (s.quarCq ch q all) = lifeBoot s :=
  lifeBoot_ite rfl (lifeBoot_ite
    ((lifeBoot_foldl (fun _ _ => lifeBoot_ite (lifeBoot_quarSq ..) rfl) ..).trans (lifeBoot_logPartner ..)) (lifeBoot_logPartner ..))

theorem lifeBoot_syncForbid (n : Nat) : lifeBoot (s.syncForbid n) = lifeBoot s := rfl

theorem lifeBoot_noteRefusal (x : Sub) (st : BitVec 16) : lifeBoot (s.noteRefusal x st) = lifeBoot s := by
  unfold State.noteRefusal
  refine lifeBoot_ite ?_ rfl
  generalize ht : ((s.logPartner _ _ _ _ _).violSq x.chamber x.sq) = t
  have hviol : lifeBoot t = lifeBoot s := by
    rw [← ht]
    exact (lifeBoot_violSq ..).trans (lifeBoot_logPartner ..)
  dsimp only
  split
  · exact lifeBoot_ite hviol ((lifeBoot_syncForbid ..).trans hviol)
  · exact hviol

theorem lifeBoot_finish (x : Sub) (p : Nat) (st : BitVec 16) (r : BitVec 64) (n : Nat) (l : List (BitVec 64)) :
    lifeBoot (s.finish x p st r n l) = lifeBoot s := by
  unfold State.finish
  split
  · rfl
  · exact (lifeBoot_noteRefusal ..).trans ((lifeBoot_pushFin ..).trans (lifeBoot_putStatus ..))

theorem lifeBoot_relevel (ch : Nat) : lifeBoot (s.relevel ch) = lifeBoot s := by
  obtain ⟨f, cap, tu, po, su, cn, cw, h⟩ := relevel_frame s ch
  rw [h]; rfl

theorem lifeBoot_dropShares (f g : Copy → Bool) : lifeBoot (s.dropShares f g) = lifeBoot s :=
  lifeBoot_foldl lifeBoot_relevel ..

theorem lifeBoot_memReq (r : HReq) : lifeBoot (s.memReq r) = lifeBoot s := by
  unfold State.memReq
  extract_lets a
  split <;> rfl

theorem lifeBoot_forward (st : Nat) (r : HReq) : lifeBoot (s.forward st r) = lifeBoot s := lifeBoot_memReq s r

theorem lifeBoot_releaseAll (st : Nat) : lifeBoot (s.releaseAll st) = lifeBoot s :=
  lifeBoot_foldl (fun _ _ => lifeBoot_forward ..) ..

theorem lifeBoot_setGran (g : Nat) (b : GBits) : lifeBoot (s.setGran g b) = lifeBoot s := by
  rw [setGran_frame]; rfl

theorem lifeBoot_capUndo (r : CapRun) : lifeBoot (s.capUndo r) = lifeBoot s :=
  lifeBoot_foldl (fun _ _ => lifeBoot_ite (lifeBoot_setGran ..) (lifeBoot_ite (lifeBoot_setGran ..) rfl)) ..

theorem lifeBoot_dropFreeze (who : Option Nat) : lifeBoot (s.dropFreeze who) = lifeBoot s := by
  refine lifeBoot_ite ?_ rfl
  unfold State.lowerFreeze State.nextFreeze
  split
  · exact lifeBoot_ite rfl (lifeBoot_ite rfl rfl)
  · rfl

theorem lifeBoot_capClear (r : CapRun) : lifeBoot (s.capClear r) = lifeBoot s := by
  have h := (lifeBoot_dropShares (s.stileList.foldl State.releaseAll s) (fun _ => true) (fun _ => false)).trans
    (lifeBoot_foldl lifeBoot_releaseAll ..)
  exact lifeBoot_ite ((lifeBoot_dropFreeze ..).trans h) ((lifeBoot_dropFreeze ..).trans h)

theorem lifeBoot_capReportAs (r : CapRun) (st : BitVec 16) (b : Bool) (p : Nat) : lifeBoot (s.capReportAs r st b p) = lifeBoot s := by
  refine lifeBoot_ite rfl ?_
  split
  · exact lifeBoot_finish ..
  · exact lifeBoot_log ..

theorem lifeBoot_waitEnd (r : CapRun) (st : BitVec 16) (b : Bool) : lifeBoot (s.waitEnd r st b) = lifeBoot s :=
  (lifeBoot_capReportAs ..).trans (lifeBoot_ite rfl rfl)

theorem lifeBoot_capFail (st : BitVec 16) (b : Bool) : lifeBoot (s.capFail st b) = lifeBoot s := by
  unfold State.capFail
  split
  · rfl
  · exact (lifeBoot_capReportAs ..).trans ((lifeBoot_capClear ..).trans (lifeBoot_capUndo ..))

theorem lifeBoot_capFailSlot (k : Nat) (st : BitVec 16) : lifeBoot (s.capFailSlot k st) = lifeBoot s := by
  refine (lifeBoot_foldl (fun _ _ => lifeBoot_waitEnd ..) ..).trans ?_
  split
  · exact lifeBoot_ite (lifeBoot_capFail ..) rfl
  · rfl

theorem lifeBoot_zeroAllKeys : lifeBoot s.zeroAllKeys = lifeBoot s :=
  lifeBoot_foldl (fun _ _ => lifeBoot_capFailSlot ..) ..

theorem lifeBoot_loseGuard (ch : Nat) : lifeBoot (s.loseGuard ch) = lifeBoot s :=
  lifeBoot_ite rfl ((lifeBoot_log ..).trans (lifeBoot_dropShares ..))

theorem lifeBoot_loseMover (st : Nat) : lifeBoot (s.loseMover st) = lifeBoot s := by
  refine (lifeBoot_foldl lifeBoot_relevel ..).trans ((lifeBoot_foldl lifeBoot_loseGuard ..).trans ?_)
  exact lifeBoot_ite ((lifeBoot_capFail ..).trans (lifeBoot_releaseAll ..)) (lifeBoot_releaseAll ..)

theorem lifeBoot_onCell (st c : Nat) (f : Cell → Cell) : lifeBoot (s.onCell st c f) = lifeBoot s := rfl

theorem lifeBoot_poke (a : Nat) (l : List Byte) : lifeBoot (s.poke a l) = lifeBoot s := by
  rw [lifeBoot, lifeBoot, State.poke_life, State.poke_boot]

theorem lifeBoot_domainOff (d : Nat) : lifeBoot (s.domainOff d) = lifeBoot s := by
  unfold State.domainOff
  extract_lets s1 s2 v s3
  have h1 : lifeBoot s1 = lifeBoot s := lifeBoot_ite (lifeBoot_loseMover ..) rfl
  have h2 : lifeBoot s2 = lifeBoot s1 := lifeBoot_ite (lifeBoot_foldl (fun _ _ => lifeBoot_onCell ..) ..) rfl
  have h3 : lifeBoot s3 = lifeBoot s2 := lifeBoot_ite rfl rfl
  exact h3.trans (h2.trans h1)

theorem lifeBoot_settleSq (ch q : Nat) : lifeBoot (s.settleSq ch q) = lifeBoot s := lifeBoot_ite rfl rfl

theorem lifeBoot_post (f : Fin) (err : Bool) : lifeBoot (s.post f err) = lifeBoot s := by
  unfold State.post
  extract_lets t k s1 s2 u wrap u1 s3
  have hcq : lifeBoot s2 = lifeBoot s := rfl
  have hput : lifeBoot u = lifeBoot s2 := lifeBoot_poke ..
  have hplace : lifeBoot u1 = lifeBoot u := rfl
  have h1 : lifeBoot u1 = lifeBoot s := hplace.trans (hput.trans hcq)
  have h2 : lifeBoot ((u1.onCh f.chamber fun c => { c with irqPend := setBit c.irqPend t.cq true }).cause 2) = lifeBoot u1 := rfl
  have h3 : lifeBoot s3 = lifeBoot s := lifeBoot_ite rfl (lifeBoot_ite (lifeBoot_quarCq ..) (lifeBoot_ite (h2.trans h1) h1))
  exact (lifeBoot_settleSq ..).trans h3

theorem lifeBoot_retire : s.retire.life = s.life ∧ s.retire.boot = { s.boot with stage := .passOnly } := by
  unfold State.retire
  extract_lets s1 s2 s3
  have h1 : lifeBoot s1 = lifeBoot s := lifeBoot_foldl (fun _ _ => lifeBoot_post ..) ..
  have h2 : lifeBoot s2 = lifeBoot s1 := (lifeBoot_foldl lifeBoot_releaseAll ..).trans ((lifeBoot_capFail ..).trans
    (lifeBoot_foldl (fun _ _ => lifeBoot_waitEnd ..) ..))
  have h3 : lifeBoot s3 = lifeBoot s2 := lifeBoot_foldl lifeBoot_domainOff ..
  have h : lifeBoot s3 = lifeBoot s := h3.trans (h2.trans h1)
  clear_value s3
  exact ⟨congrArg Prod.fst h, congrArg (fun p => { p.2 with stage := .passOnly }) h⟩

theorem conclude_life_boot (x : Sub) {b : Res} : (conclude x b).life = b.s.life ∧ (conclude x b).boot = b.s.boot := by
  have h : lifeBoot (conclude x b) = lifeBoot b.s := by
    unfold conclude
    split
    · rfl
    · exact (lifeBoot_finish ..).trans (lifeBoot_ite rfl rfl)
  exact ⟨congrArg Prod.fst h, congrArg Prod.snd h⟩

end

/-! LIFECYCLE_ADVANCE. -/

section
variable (s : State)

theorem log_frame_ex (c : BitVec 16) (v k i : Nat) (ch : Option Nat) (d : List Byte) : ∃ tu po su cn cw, s.log c v k i ch d =
    { s with timeUsed := tu, port := po, sump := su, chain := cn, chainW := cw } :=
  ⟨_, _, _, _, _, log_frame ..⟩

theorem extendSg_frame (n : Nat) (d : List Byte) : ∃ dg, s.extendSg n d = { s with dgt := dg } := ⟨_, rfl⟩

theorem noteChange_frame (k old new : Nat) (b : Bool) : ∃ dg tu po su cn cw, s.noteChange k old new b =
    { s with dgt := dg, timeUsed := tu, port := po, sump := su, chain := cn, chainW := cw } := by
  unfold State.noteChange
  obtain ⟨dg, hdg⟩ := extendSg_frame s 2 ([BitVec.ofNat 8 k, BitVec.ofNat 8 old, BitVec.ofNat 8 new, if b then 1 else 0] ++ zeros 4)
  obtain ⟨tu, po, su, cn, cw, h⟩ := log_frame_ex { s with dgt := dg } eLifeLamp 1 0 0 none [BitVec.ofNat 8 k, BitVec.ofNat 8 old, BitVec.ofNat 8 new]
  rw [hdg, h]
  exact ⟨_, _, _, _, _, _, rfl⟩

/-- A lamp lowered below LAMP3 moves the lamp's registers, the measurement and the log. -/
theorem setLamp_low {v : Nat} (hv : v ≠ 3) : ∃ (lf : LifeLamp), ∃ dg tu po su cn cw, lf.life = s.life.life ∧ lf.pending = s.life.pending ∧
    s.setLamp v = { s with life := lf, dgt := dg, timeUsed := tu, port := po, sump := su, chain := cn, chainW := cw } := by
  unfold State.setLamp
  extract_lets old s1 lf s2
  have h1 : s1 = s := if_neg hv
  split
  · exact ⟨s.life, s.dgt, s.timeUsed, s.port, s.sump, s.chain, s.chainW, rfl, rfl, rfl⟩
  · obtain ⟨dg, tu, po, su, cn, cw, h⟩ := noteChange_frame s2 2 old v false
    have h2 : s2 = { s with life := { s.life with
        level := v, halt := if v < 2 then 0 else s.life.halt, halted := if v < 2 then 0 else s.life.halted } } := by
      unfold s2 lf
      rw [h1]
    rw [h, h2]
    refine ⟨_, dg, tu, po, su, cn, cw, ?_, ?_, rfl⟩
    · rfl
    · rfl

/-- What a lifecycle change to a state whose ceiling is below LAMP3 leaves: the state, nothing pending, the fuses and the block's contents as they
were. -/
theorem enterLife_frame {t : Life} (ht : t.ceiling ≠ 3) : ∃ (lf : LifeLamp), ∃ dg tu po su cn cw, lf.life = t ∧ lf.pending = none ∧ s.enterLife t =
    { s with life := lf, dgt := dg, timeUsed := tu, port := po, sump := su, chain := cn, chainW := cw } := by
  unfold State.enterLife
  extract_lets old lf s1 s2 lf2 s3
  obtain ⟨dg, tu, po, su, cn, cw, h2⟩ : ∃ dg tu po su cn cw, s2 =
      { s1 with dgt := dg, timeUsed := tu, port := po, sump := su, chain := cn, chainW := cw } := noteChange_frame ..
  have hs2 : s2.life = { s.life with life := t, pending := none } := by rw [h2]
  obtain ⟨lf', hlife, hpend, h3⟩ : ∃ (lf : LifeLamp), lf.life = t ∧ lf.pending = none ∧ s3 =
      { s with life := lf, dgt := dg, timeUsed := tu, port := po, sump := su, chain := cn, chainW := cw } := by
    unfold s3
    split
    · split
      · refine ⟨{ s2.life with request := none }, congrArg LifeLamp.life hs2, congrArg LifeLamp.pending hs2, ?_⟩
        unfold lf2
        rw [h2]
      · exact ⟨_, rfl, rfl, h2⟩
    · exact ⟨_, rfl, rfl, h2⟩
  have hceil : s3.life.ceiling = t.ceiling := by
    rw [h3, LifeLamp.ceiling, hlife, hpend]
  split
  · obtain ⟨lf'', dg', tu', po', su', cn', cw', hlife', hpend', h⟩ := setLamp_low s3 (hceil ▸ ht)
    rw [h3] at hlife' hpend'
    rw [h, h3]
    exact ⟨lf'', dg', tu', po', su', cn', cw', hlife'.trans hlife, hpend'.trans hpend, rfl⟩
  · exact ⟨lf', dg, tu, po, su, cn, cw, hlife, hpend, h3⟩

theorem burnLife_low {t : Life} {burn : Burn} (hcode : t.code < 3) (hintent : burn.intentOk = true) (hcommit : burn.commitOk = true) :
    s.burnLife t burn = ended (((s.burnRow (2 * t.code)).burnRow (2 * t.code + 1)).enterLife t) sOk (BitVec.ofNat 64 t.code) 2 [] := by
  unfold State.burnLife
  extract_lets k s1 s2 s3
  have h1 : s1 = s := if_neg (Nat.not_le.mpr hcode)
  rw [hintent, hcommit]
  unfold s2
  rw [h1]
  rfl

theorem burnLife_spent {burn : Burn} (hintent : burn.intentOk = true) (hcommit : burn.commitOk = true) :
    s.burnLife .spent burn = ended (((s.zeroAllKeys.burnRow 10).burnRow 11).enterLife .spent) sOk 5 2 [] := by
  rw [State.burnLife, hintent, hcommit]
  rfl

end

section
variable {s : State} {x0 x : Sub} {e : Ext} {burn : Burn}

theorem bodyLifecycleAdvance_unsigned {t : Life} {k : Nat} (hk : fld x.a 2 0 = k) (ht : Life.ofCode k = some t) (hauth : ¬(k = 3 ∨ k = 4))
    (hok : s.advanceRefused x k = false) : bodyLifecycleAdvance x e burn s = s.burnLife t burn := by
  rw [bodyLifecycleAdvance, hk]
  dsimp only
  rw [ht]
  dsimp only
  rw [if_neg (ne_true_of_eq_false hok), if_neg hauth]

end

/-- The two rows of a lifecycle state are blown and no other row is touched. -/
theorem fuses_burnRows (s : State) (r : Nat) : ((s.burnRow r).burnRow (r + 1)).boot.fuses.get r = 0xFFFFFFFF ∧
    ((s.burnRow r).burnRow (r + 1)).boot.fuses.get (r + 1) = 0xFFFFFFFF ∧
    ∀ i, i ≠ r → i ≠ r + 1 → ((s.burnRow r).burnRow (r + 1)).boot.fuses.get i = s.boot.fuses.get i := by
  refine ⟨?_, get_set_self .., fun i hi hi' => ?_⟩
  · exact (get_set_ne _ _ (Nat.ne_of_lt (Nat.lt_succ_self r))).trans (get_set_self ..)
  · exact (get_set_ne _ _ hi').trans (get_set_ne _ _ hi)

/-- Settles O7: the rows are burned and the state entered; at SPENT everything that waits is ended, and what ends it leaves the state and the fuses. -/
theorem lifecycleMovesOn : Obligations.LifecycleMovesOn := by
  refine ⟨?_, ?_⟩
  · intro s x0 x e burn target hheld htarget hok hintent hcommit
    obtain ⟨hcode, hof, hceil, hlow, hspent⟩ : fld x.a 2 0 = target.code ∧ Life.ofCode target.code = some target ∧ target.ceiling ≠ 3 ∧ target.code < 3 ∧
        target ≠ .spent := by
      rcases htarget with ⟨h, rfl⟩ | ⟨h, rfl⟩
      · exact ⟨h, rfl, by decide, by decide, by decide⟩
      · exact ⟨h, rfl, by decide, by decide, by decide⟩
    rw [hcode] at hok ⊢
    obtain ⟨lf, dg, tu, po, su, cn, cw, hlife, hpend, hframe⟩ :=
      enterLife_frame ((s.burnRow (2 * target.code)).burnRow (2 * target.code + 1)) hceil
    have hb := (bodyLifecycleAdvance_unsigned (e := e) (burn := burn) hcode hof (by omega) hok).trans (burnLife_low s hlow hintent hcommit)
    rw [hframe] at hb
    obtain ⟨hintentRow, hcommitRow, hrest⟩ := fuses_burnRows s (2 * target.code)
    have hdone := completed_inHand (u := { (s.burnRow (2 * target.code)).burnRow (2 * target.code + 1) with
      life := lf, dgt := dg, timeUsed := tu, port := po, sump := su, chain := cn, chainW := cw }) (st := sOk) (r := BitVec.ofNat 64 target.code) (n := 2) (l := [])
      hheld.2 rfl (by decide)
    have hstays : (conclude x (bodyLifecycleAdvance x e burn s)).life.life ≠ .spent := by
      rw [(conclude_life_boot x).1, hb]
      exact fun h => hspent (hlife.symm.trans h)
    refine ⟨_, ⟨_, ?_, hdone⟩, hlife, hpend, hintentRow, hcommitRow, hrest, rfl, rfl, rfl, rfl⟩
    rw [runs_lifecycleAdvance hheld, runOp_inHand hheld.2]
    exact congrArg Host.Outcome.next ((if_neg fun h => hstays h.1).trans (congrArg (conclude x) hb))
  · intro s x0 x e burn hheld hk hok hintent hcommit
    have hb := (bodyLifecycleAdvance_unsigned (e := e) (burn := burn) (t := .spent) hk rfl (by decide) hok).trans (burnLife_spent s hintent hcommit)
    obtain ⟨lf, dg, tu, po, su, cn, cw, hlife, -, hframe⟩ := enterLife_frame ((s.zeroAllKeys.burnRow 10).burnRow 11) (t := .spent) (by decide)
    rw [hframe] at hb
    obtain ⟨hintentRow, hcommitRow, -⟩ := fuses_burnRows s.zeroAllKeys 10
    have hready : s.zeroAllKeys.boot.stage = .ready := by
      rw [boot_of_lifeBoot (lifeBoot_zeroAllKeys s)]
      have hserving := inHand_serving hheld.2
      simp only [State.serving, Bool.and_eq_true, beq_iff_eq] at hserving
      exact hserving.1.1.1
    obtain ⟨hlifeEnd, hbootEnd⟩ := conclude_life_boot x (b := bodyLifecycleAdvance x e burn s)
    rw [runs_lifecycleAdvance hheld, runOp_inHand hheld.2]
    generalize conclude x (bodyLifecycleAdvance x e burn s) = u at hlifeEnd hbootEnd ⊢
    rw [hb] at hlifeEnd hbootEnd
    clear hb
    generalize s.zeroAllKeys = z at *
    have hspent : u.life.life = .spent := (congrArg LifeLamp.life hlifeEnd).trans hlife
    have hboot : u.boot = ((z.burnRow 10).burnRow 11).boot := hbootEnd
    have hstage : u.boot.stage = .ready := (congrArg Boot.stage hboot).trans hready
    obtain ⟨hretired, hoff⟩ := lifeBoot_retire u
    refine ⟨_, congrArg Host.Outcome.next (if_pos ⟨hspent, hstage⟩), ?_, ?_, rfl, rfl, rfl, rfl, ?_, ?_, ?_⟩
    · rw [hretired, hspent]
    · rw [hoff]
    · rw [hoff, hboot]
      exact hintentRow
    · rw [hoff, hboot]
      exact hcommitRow
    · rw [State.serving, hoff]
      rfl

end Sys2Proof.Proofs
end

section
/-! PROOFS. Signals to sync objects (R54, R327, R331, R333). -/

namespace Sys2Proof.Proofs
open Sys2Proof Sys2Proof.Machine Sys2Proof.Laws

/-- An opcode row whose body leaves the command in hand waiting. -/
theorem waits_runOp {c : Instr} {s u : State} {x : Sub} {l : List Sub} {b : State → Res} (he : exec c s = .next (s.runOp x l b))
    (h : s.inHand x = true) (hb : b s = wait u) : exec c s = .next u := by
  rw [he, runOp_inHand h, hb]
  rfl

section
variable {s : State} {x0 x : Sub} {e : Ext} {a : Access} {i incr : Nat} {err : Bool}

/-- No watch is due where every one is free, has fired, is on another object or waits for more. -/
theorem evalWatches_none (h : ∀ p ∈ s.sync.watches.entries, p.2.used = true → p.2.fired = false → p.2.object = i →
    (s.sync.objs.get i).value.toNat < p.2.level.toNat) : s.evalWatches i err = s := by
  have hdue : (s.sync.watches.entries.filter fun p => p.2.used && !p.2.fired && p.2.object == i &&
      decide (p.2.level.toNat ≤ (s.sync.objs.get i).value.toNat)) = [] := by
    simp only [List.filter_eq_nil_iff, Bool.and_eq_true, Bool.not_eq_true', beq_iff_eq, decide_eq_true_eq, not_and, Nat.not_le]
    rintro p hp ⟨⟨hused, hfired⟩, hobject⟩
    exact h p hp hused hfired hobject
  rw [State.evalWatches, hdue]
  rfl

/-- A signal to an object that no link is on adds to it, saturating, and then the watches are evaluated. -/
theorem signal_unlinked (halloc : (s.sync.objs.get i).alloc = true) (hlink : (s.sync.objs.get i).link = false)
    (htenon : (s.sync.objs.get i).tenon = false) :
    s.signal i incr err =
      (let u := s.onObj i fun o => { o with value := BitVec.ofNat 64 (min ((s.sync.objs.get i).value.toNat + incr) vMax) }
       (if (s.sync.objs.get i).value.toNat + incr > vMax then u.overran i else u).evalWatches i err) := by
  rw [State.signal, halloc, hlink, htenon]
  rfl

theorem plainSignal_iff : s.plainSignal i incr = true ↔ (s.sync.objs.get i).alloc = true ∧ (s.sync.objs.get i).link = false ∧
    (s.sync.objs.get i).tenon = false ∧ (s.sync.objs.get i).value.toNat + incr < 2 ^ 64 ∧
    ∀ p ∈ s.sync.watches.entries, p.2.used = true → p.2.fired = false → p.2.object = i → (s.sync.objs.get i).value.toNat + incr < p.2.level.toNat := by
  simp only [State.plainSignal, Bool.and_eq_true, Bool.not_eq_true', decide_eq_true_eq, List.all_eq_true, Bool.and_eq_false_iff,
    Bool.not_eq_false', beq_eq_false_iff_ne, decide_eq_false_iff_not, Nat.not_le, and_assoc]
  refine and_congr_right fun _ => and_congr_right fun _ => and_congr_right fun _ => and_congr_right fun _ => forall₂_congr fun p _ => ?_
  cases p.2.used <;> cases p.2.fired <;> simp [imp_iff_not_or]

/-- A plain signal adds its increment and nothing else. -/
theorem signal_plain {v : BitVec 64} (h : s.plainSignal i v.toNat = true) :
    s.signal i v.toNat err = s.onObj i fun o => { o with value := o.value + v } := by
  obtain ⟨halloc, hlink, htenon, hfits, hwatches⟩ := plainSignal_iff.mp h
  have hle : (s.sync.objs.get i).value.toNat + v.toNat ≤ vMax := Nat.le_sub_one_of_lt hfits
  have hsum : BitVec.ofNat 64 (min ((s.sync.objs.get i).value.toNat + v.toNat) vMax) = (s.sync.objs.get i).value + v := by
    rw [Nat.min_eq_left hle]
    exact BitVec.eq_of_toNat_eq (by simp)
  have hset : (s.onObj i fun o => { o with value := BitVec.ofNat 64 (min ((s.sync.objs.get i).value.toNat + v.toNat) vMax) }) =
      s.onObj i fun o => { o with value := o.value + v } := by
    simp only [State.onObj, SMap.modify, hsum]
  rw [signal_unlinked halloc hlink htenon, hset]
  dsimp only
  rw [if_neg (Nat.not_lt.mpr hle)]
  refine evalWatches_none fun p hp hused hfired hobject => ?_
  have hvalue : (s.onObj i fun o => { o with value := o.value + v }).sync.objs.get i = { s.sync.objs.get i with value := (s.sync.objs.get i).value + v } :=
    get_modify_self ..
  rw [hvalue, BitVec.toNat_add, Nat.mod_eq_of_lt hfits]
  exact hwatches p hp hused hfired hobject

/-- A signal past the largest value saturates, with an overrun event. -/
theorem signal_overrun (halloc : (s.sync.objs.get i).alloc = true) (hlink : (s.sync.objs.get i).link = false)
    (htenon : (s.sync.objs.get i).tenon = false) (hover : 2 ^ 64 ≤ (s.sync.objs.get i).value.toNat + incr)
    (hwatches : ∀ p ∈ s.sync.watches.entries, p.2.object ≠ i) :
    s.signal i incr err = (s.onObj i fun o => { o with value := BitVec.ofNat 64 vMax }).overran i := by
  have hgt : (s.sync.objs.get i).value.toNat + incr > vMax := hover
  rw [signal_unlinked halloc hlink htenon, Nat.min_eq_right (Nat.le_of_lt hgt)]
  dsimp only
  rw [if_pos hgt]
  refine evalWatches_none fun p hp _ _ hobject => absurd hobject (hwatches p ?_)
  rw [State.overran, log_sync] at hp
  exact hp

/-- What an overrun event leaves: the object's bit, its chamber's count, the log. -/
theorem overran_frame : ∃ tu po su cn cw, s.overran i =
    { (s.onObj i fun o => { o with overrun := true }).onUn (s.sync.objs.get i).chamber fun u => { u with overruns := satAdd 16 u.overruns 1 } with
      timeUsed := tu, port := po, sump := su, chain := cn, chainW := cw } := by
  unfold State.overran
  extract_lets o s1 s2
  exact log_frame_ex s2 sNotInState 0 0 0 (some o.chamber) (leBytes 2 i ++ leBytes 8 o.value.toNat)

theorem bodySyncSignal_local (hdest : fld x.b 7 0 = 0 ∨ s.chain.address ≠ 0 ∧ fld x.b 7 0 = s.chain.address) {u : State}
    {r : BitVec 64} (hsignal : s.signal x.handle.toNat x.a.toNat e.writeErr = u) (hvalue : (u.sync.objs.get x.handle.toNat).value = r) :
    bodySyncSignal x e s = done u r := by
  rw [bodySyncSignal, if_pos hdest, hsignal]
  exact congrArg (done u) hvalue

/-- The remote signal a SYNC_SIGNAL keeps. -/
def remoteOf (s : State) (x : Sub) : RemoteSig :=
  ⟨fld x.b 7 0, s.sync.nextSeq.get (fld x.b 7 0), x.handle.toNat, x.chamber, x.a, 0, x.sq, x.cid⟩

/-- The bytes of a SIGNAL frame. -/
def signalBytes (r : RemoteSig) : List Byte :=
  [BitVec.ofNat 8 r.chamber, 0] ++ leBytes 2 r.object ++ leBytes 2 r.seq.toNat ++ zeros 2 ++ leBytes 4 (r.incr.toNat - 1)

theorem bodySyncSignal_remote (hzero : fld x.b 7 0 ≠ 0) (hother : fld x.b 7 0 ≠ s.chain.address) (haddr : s.chain.address ≠ 0)
    (hversion : s.chain.version ≠ 1) (hfirst : ∀ t ∈ s.sync.remote, ¬(t.chamber = x.chamber ∧ t.sq = x.sq ∧ t.cid = x.cid))
    (hon : s.onChain = true) (hhand : s.inHand x = true) :
    bodySyncSignal x e s = wait ({ s with sync := { s.sync with
      remote := s.sync.remote ++ [remoteOf s x]
      nextSeq := s.sync.nextSeq.set (fld x.b 7 0) (s.sync.nextSeq.get (fld x.b 7 0) + 1) } }.sendFrame 0x10 (fld x.b 7 0) (signalBytes (remoteOf s x))) := by
  obtain ⟨c, hcmd, -, -, -, -, -, -, hacc, -⟩ := inHand_cmd hhand
  have hpending : ¬(s.sync.remote.any fun r => r.chamber == x.chamber && r.sq == x.sq && r.cid == x.cid) = true := by
    simpa [List.any_eq_true, and_assoc] using hfirst
  rw [bodySyncSignal, if_neg (by tauto), if_neg hpending, hcmd]
  obtain ⟨sub, twin, stages, phase, units, granted, wants, res, prog, acc, links, seen⟩ := c
  cases hacc
  exact (if_neg (by tauto)).trans (congrArg wait (if_pos hon))

end

/-- Settles O10: a signal to an own object adds or saturates (`signal_plain`, `signal_overrun`); one to another unit is kept and its frame queued. -/
theorem signalsReachTheirObject : Obligations.SignalsReachTheirObject := by
  refine ⟨?_, ?_, ?_⟩
  · intro s e
    constructor
    · intro x0 x hheld hdest hplain
      have hvalue : ((s.onObj x.handle.toNat fun o => { o with value := o.value + x.a }).sync.objs.get x.handle.toNat).value =
          (s.sync.objs.get x.handle.toNat).value + x.a := congrArg SyncObj.value (get_modify_self ..)
      have hb := bodySyncSignal_local (e := e) hdest (signal_plain hplain) hvalue
      exact ends_runOp (runs_syncSignal hheld) hheld.2 hb rfl (by decide)
    · intro a off v hfree hready halign hoff hown hlow hhigh hplain
      refine congrArg Host.Outcome.next ((if_neg (by simp [halign]; omega)).trans ?_)
      rw [hown]
      refine (fabWrite_ok hfree fun _ => hready).trans (congrArg (State.answer · a 0 0) ?_)
      exact (if_pos ⟨hlow, hhigh⟩).trans (signal_plain hplain)
  · intro s x0 x e hheld hdest i o halloc hlink htenon hover hwatches
    obtain ⟨tu, po, su, cn, cw, hframe⟩ := overran_frame (s := s.onObj i fun o => { o with value := BitVec.ofNat 64 vMax }) (i := i)
    have hself : (s.onObj i fun o => { o with value := BitVec.ofNat 64 vMax }).sync.objs.get i = { o with value := BitVec.ofNat 64 vMax } :=
      get_modify_self ..
    have hset : ((s.onObj i fun o => { o with value := BitVec.ofNat 64 vMax }).onObj i fun o => { o with overrun := true }).sync.objs.get i =
        { o with value := BitVec.ofNat 64 vMax, overrun := true } := (get_modify_self ..).trans (congrArg (fun o => { o with overrun := true }) hself)
    rw [hself] at hframe
    have hb := bodySyncSignal_local (s := s) (e := e) (r := BitVec.ofNat 64 vMax) (Or.inl hdest)
      (signal_overrun halloc hlink htenon hover hwatches) (by rw [hframe]; exact congrArg SyncObj.value hset)
    rw [hframe] at hb
    refine ⟨_, ends_runOp (runs_syncSignal hheld) hheld.2 hb rfl (by decide), hset, fun j hj => ?_, ?_, rfl, rfl⟩
    · exact (get_modify_ne _ _ hj).trans (get_modify_ne _ _ hj)
    · exact congrArg ChUnit.overruns (State.un_onUn ..)
  · intro s x0 x e hheld dest seq r hzero hother haddr hversion hon hfirst
    have hb := bodySyncSignal_remote (e := e) hzero hother haddr hversion hfirst hon hheld.2
    refine ⟨_, waits_runOp (runs_syncSignal hheld) hheld.2 hb, rfl, get_set_self .., rfl, rfl, ?_, rfl⟩
    simp [State.sendFrame, dest]

end Sys2Proof.Proofs
end

section
/-! PROOFS. The rows of the sync unit that are no submission (R328, R329, R333, R336, R341, R345). -/

namespace Sys2Proof.Proofs
open Sys2Proof Sys2Proof.Machine Sys2Proof.Laws

section
variable {s : State} {a : Access} {i : Nat} {v : BitVec 64} {e : Ext} {err : Bool}

/-- What a fired watch moves: the watches, memory, the units of a chamber, the wakes and the log. -/
theorem fireWatch_frame (s : State) (err : Bool) (w : Nat) : ∃ ws pq m un tu po su cn cw, s.fireWatch err w =
    { s with sync := { s.sync with watches := ws }, pwr := { s.pwr with queue := pq }, mem := m, units := un, timeUsed := tu, port := po, sump := su,
             chain := cn, chainW := cw } := by
  unfold State.fireWatch
  extract_lets k sy s1 s2 s3
  obtain ⟨pq, h2⟩ : ∃ pq, s2 = { s1 with pwr := { s1.pwr with queue := pq } } := by
    unfold s2
    split
    · exact ⟨_, rfl⟩
    · exact ⟨_, wantDom_frame ..⟩
  obtain ⟨pq', m, tu, po, su, cn, cw, h3⟩ : ∃ pq m tu po su cn cw, s3 =
      { s1 with pwr := { s1.pwr with queue := pq }, mem := m, timeUsed := tu, port := po, sump := su, chain := cn, chainW := cw } := by
    unfold s3
    split
    · exact ⟨_, _, _, _, _, _, _, rfl⟩
    · split
      · obtain ⟨tu, po, su, cn, cw, h⟩ := log_frame_ex s2 sMalformed 2 0 0 (some k.chamber) (leBytes 8 k.addr.toNat)
        rw [h, h2]
        exact ⟨_, _, _, _, _, _, _, rfl⟩
      · rw [h2]
        exact ⟨_, _, _, _, _, _, _, rfl⟩
  split
  · rw [h3]
    exact ⟨_, _, _, _, _, _, _, _, _, rfl⟩
  · rw [h3]
    exact ⟨_, _, _, _, _, _, _, _, _, rfl⟩

theorem evalWatches_frame (s : State) (i : Nat) (err : Bool) : ∃ ws pq m un tu po su cn cw, s.evalWatches i err =
    { s with sync := { s.sync with watches := ws }, pwr := { s.pwr with queue := pq }, mem := m, units := un, timeUsed := tu, port := po, sump := su,
             chain := cn, chainW := cw } := by
  unfold State.evalWatches
  extract_lets v due
  generalize due.foldl (fun l p => insertWatch p l) [] = l
  clear due
  induction l generalizing s with
  | nil => exact ⟨_, _, _, _, _, _, _, _, _, rfl⟩
  | cons p l ih =>
    obtain ⟨ws, pq, m, un, tu, po, su, cn, cw, h⟩ := fireWatch_frame s err p.1
    rw [List.foldl_cons, h]
    exact ih _

/-- A control word with the link bit on objects that may be linked links them. -/
theorem linkWrite_links (hres : fld v 33 32 = 0) (hbit : bit v 60 = true) (hlink : (s.sync.objs.get i).link = false)
    (htenon : (s.sync.objs.get i).tenon = false) (hne : fld v 48 35 ≠ i) (halloc : (s.sync.objs.get (fld v 48 35)).alloc = true)
    (hch : (s.sync.objs.get (fld v 48 35)).chamber = (s.sync.objs.get i).chamber) (hplink : (s.sync.objs.get (fld v 48 35)).link = false)
    (hptenon : (s.sync.objs.get (fld v 48 35)).tenon = false) (hbound : fld v 31 0 ≠ 0)
    (hle : (s.sync.objs.get (fld v 48 35)).value.toNat ≤ (s.sync.objs.get i).value.toNat)
    (hin : (s.sync.objs.get i).value.toNat - (s.sync.objs.get (fld v 48 35)).value.toNat ≤ fld v 31 0) :
    s.linkWrite i v = ((s.onObj i fun o => { o with overrun := o.overrun && !bit v 61, remoteOk := bit v 59, remoteCh := BitVec.ofNat 5 (fld v 53 49) }).onObj i
      fun o => { o with link := true, linkTo := BitVec.ofNat 14 (fld v 48 35), bound := BitVec.ofNat 32 (fld v 31 0),
                        baseline := o.value - (s.sync.objs.get (fld v 48 35)).value }).onObj (fld v 48 35)
      fun p => { p with tenon := true } := by
  unfold State.linkWrite
  extract_lets o t p bound s1
  rw [if_neg (not_not.mpr hres), if_neg (ne_true_of_eq_false hlink), if_neg (by simp [hbit])]
  refine if_pos ?_
  simp [o, t, p, bound, halloc, hch, hne, htenon, hplink, hptenon, hbound, hle, hin]

/-- The two objects of a link just made. -/
theorem onObj_link_get {j : Nat} (hne : j ≠ i) (f g h : SyncObj → SyncObj) :
    (((s.onObj i f).onObj i g).onObj j h).sync.objs.get i = g (f (s.sync.objs.get i)) ∧
      (((s.onObj i f).onObj i g).onObj j h).sync.objs.get j = h (s.sync.objs.get j) := by
  constructor
  · exact (get_modify_ne _ _ hne.symm).trans ((get_modify_self ..).trans (congrArg g (get_modify_self ..)))
  · exact (get_modify_self ..).trans (congrArg h ((get_modify_ne _ _ hne).trans (get_modify_ne _ _ hne)))

/-- A hand-set value stands in its object, no other object moves, and the watches are evaluated. -/
theorem handWrite_ok (hmgmt : mgmt a = true) (hlamp : 2 ≤ s.life.level) (halloc : (s.sync.objs.get i).alloc = true)
    (hvalue : (s.sync.objs.get i).value.toNat ≤ v.toNat) :
    ((s.handWrite a i v err).sync.objs.get i).value = v ∧ ((s.handWrite a i v err).sync.objs.get i).handSet = true ∧
      (∀ j, j ≠ i → (s.handWrite a i v err).sync.objs.get j = s.sync.objs.get j) ∧ (s.handWrite a i v err).chambers = s.chambers := by
  unfold State.handWrite
  extract_lets o s1 sy s2
  rw [if_neg (Nat.not_lt.mpr hlamp), if_neg (by simp [hmgmt, o, halloc, hvalue])]
  obtain ⟨tu, po, su, cn, cw, hlog⟩ := log_frame_ex s2 eLifeLamp 1 0 0 (some o.chamber)
    (leBytes 1 o.chamber ++ leBytes 2 i ++ leBytes 8 o.value.toNat ++ leBytes 8 v.toNat)
  rw [hlog]
  obtain ⟨ws, pq, m, un, tu, po, su, cn, cw, heval⟩ := evalWatches_frame _ i err
  rw [heval]
  have hself : s2.sync.objs.get i = { o with value := v, handSet := true } := get_modify_self ..
  exact ⟨congrArg SyncObj.value hself, congrArg SyncObj.handSet hself, fun j hj => get_modify_ne _ _ hj, rfl⟩

/-! A join that times out. -/

theorem endJoin_eq {j : Nat × Nat × BitVec 16 × Nat × Bool} {c : Cmd} {st : BitVec 16} {gen : BitVec 32}
    (hcmd : s.cmdAt j.1 j.2.1 j.2.2.1 = some c) : s.endJoin j st gen =
      s.finish c.sub (termPhase st) st (if st = sOk then gen.zeroExtend 64 else 0) (b2n (st == sOk)) [] := by
  rw [State.endJoin, hcmd]

/-- The record a chamber, queue and ID name is the one its own entry names. -/
theorem cmdAt_sub {ch q : Nat} {cid : BitVec 16} {c : Cmd} (h : s.cmdAt ch q cid = some c) :
    c.sub.chamber = ch ∧ c.sub.sq = q ∧ c.sub.cid = cid ∧ s.cmd? c.sub = some c := by
  have hsome := List.find?_some h
  simp only [Bool.and_eq_true, beq_iff_eq] at hsome
  obtain ⟨⟨hch, hq⟩, hcid⟩ := hsome
  refine ⟨hch, hq, hcid, ?_⟩
  rw [State.cmd?, ← h, State.cmdAt, ← hch, ← hq, ← hcid]
  rfl

/-- The end of a command whose status is no refusal queues its completion and leaves the sync unit alone. -/
theorem finish_plain {x : Sub} {c : Cmd} {st : BitVec 16} {r : BitVec 64} {n ph : Nat} {l : List (BitVec 64)} (hc : s.cmd? x = some c)
    (htwin : c.twin = false) (hst : isRefusal st = false) :
    (s.finish x ph st r n l).fins = s.fins ++ [⟨x.chamber, x.sq, x.cid, st, r⟩] ∧ (s.finish x ph st r n l).sync = s.sync := by
  rw [finish_eq hc htwin hst, pushFin_eq]
  simp

theorem dropJoin_arrived (b : Nat) (j : Nat × Nat × BitVec 16 × Nat × Bool) :
    ((s.dropJoin b j).sync.bars.get b).arrived = (s.sync.bars.get b).arrived - 1 := by
  rw [State.dropJoin, State.onBar]
  rw [get_modify_self]
  dsimp only
  split
  · next h => rw [h]; rfl
  · rfl

end

/-- Settles O11: each row in turn; the write of a control word links two objects that may be linked, and a hand-set value evaluates the watches. -/
theorem syncRowsTakeEffect : Obligations.SyncRowsTakeEffect := by
  intro s a i v e
  refine ⟨?_, ?_, rfl, ?_, ?_⟩
  · intro hfree hi hown halloc hres
    constructor
    · refine congrArg Host.Outcome.next ?_
      rw [hown, if_pos hi]
      exact (fabWrite_ok (page := false) hfree nofun).trans (congrArg (State.answer · a 0 0) (if_pos halloc))
    · intro o t p hbit hlink htenon hne hpalloc hch hplink hptenon hbound hle hin
      rw [linkWrite_links hres hbit hlink htenon hne hpalloc hch hplink hptenon hbound hle hin]
      exact onObj_link_get hne ..
  · intro hfree hi hmgmt hlamp halloc hvalue
    obtain ⟨hset, hhand, hothers, hchambers⟩ := handWrite_ok (err := e.writeErr) hmgmt hlamp halloc hvalue
    refine ⟨(s.handWrite a i v e.writeErr).answer a 0 0, congrArg Host.Outcome.next ?_, hset, hhand, hothers, hchambers, ?_⟩
    · rw [hmgmt, if_pos hi]
      exact fabWrite_ok hfree nofun
    · exact congrArg Lane.ans (get_modify_self ..)
  · intro dest seq r hfind
    constructor
    · intro htries
      refine congrArg Host.Outcome.next ?_
      rw [hfind]
      exact if_pos htries
    · intro htries
      refine congrArg Host.Outcome.next ?_
      rw [hfind]
      exact if_neg (Nat.not_lt.mpr htries)
  · intro ch sq b cid j c hjoin hcmd htimeout hchain htwin hjch hjsq hjcid
    rw [← hjch, ← hjsq, ← hjcid] at hcmd
    obtain ⟨hsch, hssq, hscid, hrec⟩ := cmdAt_sub hcmd
    obtain ⟨hfins, hsync⟩ := finish_plain (s := s.dropJoin b j) (ph := termPhase sTimeout) (st := sTimeout) (r := 0) (n := 0) (l := []) hrec htwin (by decide)
    have hexec : exec (.barrierTimeout ch sq cid) s = .next ((s.dropJoin b j).finish c.sub (termPhase sTimeout) sTimeout 0 0 []) := by
      refine congrArg Host.Outcome.next ?_
      rw [hjoin, ← hjch, ← hjsq, ← hjcid, hcmd]
      refine (if_neg htimeout).trans ((if_neg (by simp [hchain])).trans ?_)
      rw [State.withdraw, hchain]
      exact endJoin_eq hcmd
    rw [hsch, hssq, hscid, hjch, hjsq, hjcid] at hfins
    refine ⟨_, hexec, hfins, ?_, fun k hk => ?_⟩
    · rw [hsync]
      exact dropJoin_arrived ..
    · rw [hsync]
      exact get_modify_ne _ _ hk

end Sys2Proof.Proofs
end

section
/-! PROOFS. CHAIN_CONTROL and ENUM (R411, R413-R420). -/

namespace Sys2Proof.Proofs
open Sys2Proof Sys2Proof.Machine Sys2Proof.Laws

/-! Bytes and logs. -/

theorem leNat_lt (l : List Byte) : leNat l < 2 ^ (8 * l.length) := by
  induction l with
  | nil => decide
  | cons b l ih =>
    have hb := b.isLt
    rw [leNat, List.length_cons, Nat.mul_succ, Nat.add_comm, pow_add]
    omega

theorem leAt_lt (l : List Byte) (o n : Nat) : leAt l o n < 2 ^ (8 * n) := by
  have h := leNat_lt (bytesAt l o n)
  rwa [bytesAt_length] at h

/-- A log that is not FATAL sends no notice. -/
theorem log_frame_quiet (s : State) (c : BitVec 16) {v : Nat} (hv : v ≠ 4) (k i : Nat) (ch : Option Nat) (d : List Byte) :
    ∃ tu po su, s.log c v k i ch d = { s with timeUsed := tu, port := po, sump := su } := by
  unfold State.log
  extract_lets s1 u first crossed u1 u2 s2 s3
  have hfatal : ¬(v = 4 ∧ u2.minSev ≤ 4) := fun h => hv h.1
  rw [if_neg hfatal]
  unfold s3
  split
  · exact ⟨_, _, _, rfl⟩
  · exact ⟨_, _, _, rfl⟩

section
variable {s : State} {f : DclFrame} {e : Ext}

/-! Frames that the unit acts on. -/

/-- What `heeds` says, condition by condition. -/
structure Heeded (s : State) (f : DclFrame) : Prop where
  listening : s.listening = true
  ready : s.boot.stage = .ready
  joined : s.chain.role ≠ 2
  address : s.chain.address ≤ 247
  source : f.source.toNat ≠ s.chain.address
  hops : f.hops.toNat ≠ 254
  good : s.malformedFrame f = false
  trusted : bit s.chain.quar f.source.toNat = false
  known : f.type = 5 ∨ s.isMaster = false ∨ f.source.toNat ≤ s.chain.units
  consumes : s.consumes f.type.toNat = true
  dest : f.dest = 255 ∨ s.chain.address ≠ 0 ∧ f.dest.toNat = s.chain.address

theorem heeds_iff : s.heeds f = true ↔ Heeded s f := by
  simp only [State.heeds, Bool.and_eq_true, Bool.or_eq_true, beq_iff_eq, bne_iff_ne, Bool.not_eq_true', decide_eq_true_eq]
  constructor
  · rintro ⟨⟨⟨⟨⟨⟨⟨⟨⟨⟨h1, h2⟩, h3⟩, h4⟩, h5⟩, h6⟩, h7⟩, h8⟩, h9⟩, h10⟩, h11⟩
    exact ⟨h1, h2, h3, h4, h5, h6, h7, h8, or_assoc.mp h9, h10, h11⟩
  · rintro ⟨h1, h2, h3, h4, h5, h6, h7, h8, h9, h10, h11⟩
    exact ⟨⟨⟨⟨⟨⟨⟨⟨⟨⟨h1, h2⟩, h3⟩, h4⟩, h5⟩, h6⟩, h7⟩, h8⟩, or_assoc.mpr h9⟩, h10⟩, h11⟩

/-- The unit handles a frame it heeds: a broadcast is consumed and goes on as the consumption answers, a frame for the unit is consumed alone. -/
theorem frameRow_heeded (h : Heeded s f) : s.frameRow f.type f e =
    if f.dest = 255 then (match s.consume f e with | (t, some g) => t.forwardFrame g | (t, none) => t) else (s.consume f e).1 := by
  have hown : ¬(!s.bystander && f.source.toNat == s.chain.address && !(f.type == 1 && s.chainW.enumNonce.isSome)) = true := by
    simp [h.source]
  have hknown : (s.isMaster && f.source != 0 && decide (s.chain.units < f.source.toNat) && s.chainW.enumNonce.isNone && f.type != 5) = false := by
    rcases h.known with hk | hk | hk
    · simp [hk]
    · simp [hk]
    · simp [Nat.not_lt.mpr hk]
  rw [State.frameRow, h.listening, beq_self_eq_true]
  refine (if_pos rfl).trans ?_
  unfold State.frameIn
  extract_lets own strange ch s1
  have hs1 : s1 = s := if_neg (ne_true_of_eq_false hknown)
  rw [if_neg hown, if_neg h.hops, hs1]
  by_cases hall : f.dest = 255
  · have hother : ¬(f.dest.toNat = own ∧ own ≠ 0 ∧ (!s.bystander) = true) := by
      rintro ⟨hd, -⟩
      have haddr := h.address
      rw [hall] at hd
      simp only [own] at hd
      simp at hd
      omega
    rw [if_neg hother, if_pos ⟨hall, h.consumes⟩, if_pos hall] <;> rfl
  · obtain ⟨hzero, hdest⟩ := h.dest.resolve_left hall
    have hmember : s.bystander = false := by
      simp [State.bystander, h.joined, hzero, h.ready]
    rw [if_pos ⟨hdest, hzero, by rw [hmember]; rfl⟩, if_neg hall]

/-- A heeded frame other than ENUM has its effect and a broadcast is passed on. -/
theorem frameRow_acts (h : Heeded s f) (htype : f.type ≠ 1) : s.frameRow f.type f e = (s.actOn f e).passOn f := by
  have hconsume : s.consume f e = (s.actOn f e, some f) := by
    rw [State.consume, if_neg (ne_true_of_eq_false h.good), if_neg fun hq => ne_true_of_eq_false h.trusted hq.1, if_neg htype]
  rw [frameRow_heeded h, hconsume]
  rfl

theorem consume_enum (h : Heeded s f) (htype : f.type = 1) : s.consume f e = s.enumIn f := by
  rw [State.consume, if_neg (ne_true_of_eq_false h.good), if_neg fun hq => ne_true_of_eq_false h.trusted hq.1, if_pos htype]

/-! Enumeration. -/

section
variable (hbars : ∀ p ∈ s.sync.bars.entries, p.2.chain = false)
include hbars

theorem endChainJoins_none : s.endChainJoins = { s with chainW := { s.chainW with masterBar := .const (0, 0), barTokens := [] } } := by
  have hnone : (s.sync.bars.entries.filter fun p => p.2.chain) = [] := by
    simpa [List.filter_eq_nil_iff] using fun a b hp => hbars (a, b) hp
  rw [State.endChainJoins, hnone]
  rfl

theorem newRing_none : s.newRing = { s with
    sync := { s.sync with nextSeq := .const 0, lastSeq := .const none }
    chain := { s.chain with quar := 0, viol := .const 0 }
    chainW := { s.chainW with masterBar := .const (0, 0), barTokens := [] } } := by
  rw [State.newRing, endChainJoins_none hbars]

/-- The ENUM frame a master sends. -/
def enumFrame (s : State) (cmd : Option Sub) : DclFrame :=
  ⟨1, 1, 255, 1, 0, leBytes 8 s.draw.1.toNat ++ [2, 1, 0, if s.offersV2 cmd then 3 else 1] ++ zeros 4⟩

theorem enumStart_eq (hidle : s.chainW.enumNonce = none) (cmd : Option Sub) : s.enumStart cmd = { s with
    drbg := s.draw.2.drbg
    sync := { s.sync with nextSeq := .const 0, lastSeq := .const none }
    chain := { s.chain with quar := 0, viol := .const 0, role := 1, address := 1, pendAddr := none, full := false }
    chainW := { s.chainW with
      masterBar := .const (0, 0), barTokens := [], enumNonce := some s.draw.1, enumCmd := cmd, prevRole := s.chain.role
      prevAddr := s.chain.address, needJoin := false, electing := false, ownQ := s.chainW.ownQ ++ [enumFrame s cmd] } } := by
  have hring : s.draw.2.newRing = _ := newRing_none (s := s.draw.2) hbars
  rw [State.enumStart, draw_eq]
  dsimp only
  rw [hring]
  dsimp only
  rw [show s.draw.2.chainW.enumNonce = none from hidle]
  rfl

end

end

section
variable {s : State} {x0 x : Sub} {e : Ext}

/-! CHAIN_CONTROL. -/

theorem enumFrame_some (s : State) (x : Sub) : enumFrame s (some x) =
    ⟨1, 1, 255, 1, 0, leBytes 8 s.draw.1.toNat ++ [2, 1, 0, if fld x.a 9 8 = 2 then 3 else 1] ++ zeros 4⟩ := by
  simp only [enumFrame, State.offersV2, beq_iff_eq]

theorem bodyChainEnum_idle (hidle : s.chainW.enumNonce = none) : bodyChainEnum x s = running x (s.enumStart (some x)) 0 := by
  rw [bodyChainEnum, hidle]
  rfl

/-- A command in hand that goes on: phase 2 in its record; its status word alone moves beside it. -/
theorem running_frame {c : Cmd} {n : Nat} (hcmd : s.cmd? x = some c) : ∃ ch m, running x s n =
    wait { (s.onCmd x fun c => { c with phase := 2, units := max c.units n }) with chambers := ch, mem := m } := by
  have hcmd' := cmd_onCmd hcmd (fun c => { c with phase := 2, units := max c.units n }) fun _ => rfl
  rw [running]
  dsimp only
  rw [hcmd']
  dsimp only
  rw [putStatus_frame]
  exact ⟨_, _, rfl⟩

theorem leaveMaster_member (hrole : s.chain.role = 0) (hidle : s.chainW.enumNonce = none) : s.leaveMaster 0 = s := by
  unfold State.leaveMaster
  extract_lets was ch s1 s2 s3
  have h1 : s1 = s := by
    have hch : ({ s.chain with
        role := 0, address := if 0 = 2 ∨ s.chain.role = 1 then 0 else s.chain.address
        pendAddr := if 0 = 2 then none else s.chain.pendAddr } : Chain) = s.chain := by
      cases hc : s.chain
      simp_all
    exact congrArg (fun c => { s with chain := c }) hch
  have h2 : s2 = s1 := if_neg (by simp [was, hrole])
  have h3 : s3 = s2 := if_neg (by simp [was, hrole])
  rw [h3, h2, h1, hidle]
  rfl

theorem leaveMaster_isolated (hbars : ∀ p ∈ s.sync.bars.entries, p.2.chain = false) (hidle : s.chainW.enumNonce = none) : s.leaveMaster 2 = { s with
    chain := { s.chain with role := 2, address := 0, pendAddr := none }
    chainW := { s.chainW with masterBar := .const (0, 0), barTokens := [] } } := by
  have hjoins : State.endChainJoins { s with chain := { s.chain with role := 2, address := 0, pendAddr := none } } = _ := endChainJoins_none hbars
  rw [State.leaveMaster]
  simp only [true_or, or_true, if_true]
  rw [hjoins]
  simp [hidle]

theorem bodyChainMember_ok (hrole : s.chain.role = 0) (hidle : s.chainW.enumNonce = none) (hfull : s.chain.full = false) :
    bodyChainMember x s = done { s with chain := { s.chain with dclMax := BitVec.ofNat 2 (fld x.a 9 8) } }
      (BitVec.ofNat 64 (s.chain.address + s.chain.units * 2 ^ 8 + s.chain.version * 2 ^ 18)) := by
  rw [bodyChainMember, if_neg (by simp [hfull]), leaveMaster_member hrole hidle]
  simp only [State.chainResult, hrole, Nat.zero_mul, Nat.add_zero]

theorem bodyChainIsolated_ok (hbars : ∀ p ∈ s.sync.bars.entries, p.2.chain = false) (hidle : s.chainW.enumNonce = none) : bodyChainIsolated s = done { s with
    chain := { s.chain with role := 2, address := 0, pendAddr := none }
    chainW := { s.chainW with masterBar := .const (0, 0), barTokens := [] } }
    (BitVec.ofNat 64 (s.chain.units * 2 ^ 8 + 2 * 2 ^ 16 + s.chain.version * 2 ^ 18)) := by
  rw [bodyChainIsolated, leaveMaster_isolated hbars hidle]
  simp only [State.chainResult, Nat.zero_add]

theorem bodyChainStatus_ok (hfull : s.chain.full = false) : bodyChainStatus s = done s s.chainResult := if_neg (by simp [hfull])

end

/-! ENUM at a member. -/

section
variable {s : State} {f : DclFrame}

/-- A byte of a payload counted up. -/
def upByte (i : Nat) (l : List Byte) : List Byte := setAt l i (BitVec.ofNat 8 (leAt l i 1 + 1))

theorem upByte_length (i : Nat) (l : List Byte) : (upByte i l).length = l.length := List.length_set

theorem leAt_upByte_self {i : Nat} {l : List Byte} (h : i < l.length) : leAt (upByte i l) i 1 = (leAt l i 1 + 1) % 256 :=
  (leAt_set_self h).trans (BitVec.toNat_ofNat ..)

theorem leAt_upByte_ne {i o n : Nat} {l : List Byte} (h : i < o ∨ o + n ≤ i) : leAt (upByte i l) o n = leAt l o n := leAt_set_of_outside h

/-- The payload of the ENUM a member passes on: its address or its lack of one counted, then the versions it allows. -/
def enumPayload (s : State) (f : DclFrame) : List Byte :=
  let p := if leAt f.payload 8 1 ≤ 247 then upByte 9 (upByte 8 f.payload) else upByte 10 f.payload
  if s.chain.dclMax = 1 then setAt p 11 (BitVec.ofNat 8 (leAt p 11 1) &&& 0xFD) else p

theorem enumMember_none (hbars : ∀ p ∈ s.sync.bars.entries, p.2.chain = false) : s.enumMember f = ({ s with
    sync := { s.sync with nextSeq := .const 0, lastSeq := .const none }
    chain := { s.chain with
      quar := 0, viol := .const 0, role := 0, pendAddr := some (if leAt f.payload 8 1 ≤ 247 then leAt f.payload 8 1 else 0)
      full := !decide (leAt f.payload 8 1 ≤ 247) }
    chainW := { s.chainW with masterBar := .const (0, 0), barTokens := [], needJoin := false, joined := false, electing := false } },
    { f with payload := enumPayload s f }) := by
  rw [State.enumMember, newRing_none hbars]
  simp only [decide_eq_true_eq]
  rfl

theorem enumIn_member (hidle : s.chainW.enumNonce = none) (hrole : s.chain.role ≠ 2) :
    s.enumIn f = ((s.enumMember f).1, some (s.enumMember f).2) := by
  rw [State.enumIn, hidle]
  exact if_neg hrole

/-- A well-formed ENUM has 16 bytes, and byte 11 names versions only. -/
theorem enum_payload (hgood : s.malformedFrame f = false) (htype : f.type = 1) : f.payload.length = 16 ∧ leAt f.payload 11 1 < 4 := by
  have hlen : f.payload.length = 16 ∧ leAt f.payload 11 1 &&& 0xFC = 0 := by
    rw [State.malformedFrame, htype] at hgood
    simp [frameType] at hgood
    obtain ⟨⟨⟨-, hlen⟩, hmask, -⟩, -⟩ := hgood
    exact ⟨hlen, hmask⟩
  have hversions : ∀ n < 256, n &&& 0xFC = 0 → n < 4 := by decide +kernel
  exact ⟨hlen.1, hversions _ (leAt_lt ..) hlen.2⟩

/-- The payload without the member's choice of versions. -/
def enumCounted (f : DclFrame) : List Byte :=
  if leAt f.payload 8 1 ≤ 247 then upByte 9 (upByte 8 f.payload) else upByte 10 f.payload

theorem enumPayload_eq : enumPayload s f =
    if s.chain.dclMax = 1 then setAt (enumCounted f) 11 (BitVec.ofNat 8 (leAt (enumCounted f) 11 1) &&& 0xFD) else enumCounted f := rfl

theorem enumCounted_length : (enumCounted f).length = f.payload.length := by
  unfold enumCounted
  split <;> simp only [upByte_length]

theorem enumPayload_length : (enumPayload s f).length = f.payload.length := by
  rw [enumPayload_eq]
  split
  · exact List.length_set.trans enumCounted_length
  · exact enumCounted_length

/-- Only byte 11 depends on the member's versions. -/
theorem leAt_enumPayload {o n : Nat} (h : o + n ≤ 11) : leAt (enumPayload s f) o n = leAt (enumCounted f) o n := by
  rw [enumPayload_eq]
  split
  · exact leAt_set_of_outside (Or.inr h)
  · rfl

theorem leAt_enumCounted {o n : Nat} (h : o + n ≤ 8 ∨ 11 ≤ o) : leAt (enumCounted f) o n = leAt f.payload o n := by
  unfold enumCounted
  split
  · rw [leAt_upByte_ne (by omega), leAt_upByte_ne (by omega)]
  · exact leAt_upByte_ne (by omega)

theorem enumCounted_given (hlen : f.payload.length = 16) (h : leAt f.payload 8 1 ≤ 247) : leAt (enumCounted f) 8 1 = leAt f.payload 8 1 + 1 ∧
    leAt (enumCounted f) 9 1 = (leAt f.payload 9 1 + 1) % 256 ∧ leAt (enumCounted f) 10 1 = leAt f.payload 10 1 := by
  rw [enumCounted, if_pos h]
  refine ⟨?_, ?_, ?_⟩
  · rw [leAt_upByte_ne (by omega), leAt_upByte_self (by omega), Nat.mod_eq_of_lt (by omega)]
  · rw [leAt_upByte_self (by rw [upByte_length]; omega), leAt_upByte_ne (by omega)]
  · rw [leAt_upByte_ne (by omega), leAt_upByte_ne (by omega)]

theorem enumCounted_full (hlen : f.payload.length = 16) (h : 247 < leAt f.payload 8 1) : leAt (enumCounted f) 8 1 = leAt f.payload 8 1 ∧
    leAt (enumCounted f) 9 1 = leAt f.payload 9 1 ∧ leAt (enumCounted f) 10 1 = (leAt f.payload 10 1 + 1) % 256 := by
  rw [enumCounted, if_neg (Nat.not_le.mpr h)]
  exact ⟨leAt_upByte_ne (by omega), leAt_upByte_ne (by omega), leAt_upByte_self (by omega)⟩

/-- The versions a member leaves in an ENUM: one that allows version 1 only clears the other. -/
theorem enumPayload_versions (hlen : f.payload.length = 16) (hmask : leAt f.payload 11 1 < 4) :
    leAt (enumPayload s f) 11 1 = if s.chain.dclMax = 1 then leAt f.payload 11 1 % 2 else leAt f.payload 11 1 := by
  have hclear : ∀ n < 4, (BitVec.ofNat 8 n &&& 0xFD).toNat = n % 2 := by decide
  rw [enumPayload_eq]
  split
  · rw [setAt, leAt_set_self (by rw [enumCounted_length]; omega), leAt_enumCounted (by omega), hclear _ hmask]
  · exact leAt_enumCounted (by omega)

end

theorem chainStart_sub {s : State} {x0 x : Sub} {e : Ext} {c : Instr} (hc : c = .chainMasterEnumerate x0 e ∨ c = .chainReenumerate x0 e)
    (hheld : s.holdsCmd c x) : exec c s = .next (s.runOp x [] (bodyChainEnum x)) := by
  rcases hc with rfl | rfl
  · exact runs_chainMasterEnumerate hheld
  · exact runs_chainReenumerate hheld

/-- Settles O12: the actions of CHAIN_CONTROL on a unit without chain-wide barriers, and the ENUM a member counts itself in and passes on. -/
theorem chainRolesAndAddresses : Obligations.ChainRolesAndAddresses := by
  refine ⟨?_, ?_⟩
  · intro s x0 x e hbars hidle
    refine ⟨?_, ?_, ?_, ?_⟩
    · intro c hc hheld
      obtain ⟨k, hcmd, -⟩ := inHand_cmd hheld.2
      have hstart := enumStart_eq hbars hidle (some x)
      obtain ⟨ch, m, hrun⟩ := running_frame (s := s.enumStart (some x)) (x := x) (n := 0) (c := k) (by rw [hstart]; exact hcmd)
      rw [hstart] at hrun
      have hb := bodyChainEnum_idle (x := x) hidle
      rw [hstart, hrun] at hb
      exact ⟨_, waits_runOp (chainStart_sub hc hheld) hheld.2 hb, rfl, rfl, rfl, rfl, rfl, congrArg (s.chainW.ownQ ++ [·]) (enumFrame_some s x),
        ⟨_, cmd_onCmd hcmd (fun c => { c with phase := 2, units := max c.units 0 }) (fun _ => rfl), rfl⟩, rfl, rfl, rfl⟩
    · intro hheld hrole hfull
      exact ends_runOp (runs_chainSetMember hheld) hheld.2 (bodyChainMember_ok hrole hidle hfull) rfl (by decide)
    · intro hheld
      exact ends_runOp (runs_chainSetIsolated hheld) hheld.2 (bodyChainIsolated_ok hbars hidle) rfl (by decide)
    · intro hheld hfull
      exact ends_runOp (runs_chainStatus hheld) hheld.2 (bodyChainStatus_ok hfull) rfl (by decide)
  · intro s f hheeds htype hdest hidle hbars next
    have h := heeds_iff.mp hheeds
    obtain ⟨hlen, hmask⟩ := enum_payload h.good htype
    have hexec : exec (.enum f) s = .next ((s.enumMember f).1.forwardFrame (s.enumMember f).2) := by
      refine congrArg Host.Outcome.next ?_
      rw [← htype, frameRow_heeded h, if_pos hdest, consume_enum h htype, enumIn_member hidle h.joined]
    rw [enumMember_none hbars] at hexec
    refine ⟨_, _, hexec, rfl, htype, rfl, rfl, enumPayload_length.trans hlen, ?_, fun hgiven => ?_, fun hnone => ?_,
      enumPayload_versions hlen hmask, rfl, rfl, rfl, rfl, rfl, rfl, rfl, rfl, rfl⟩
    · exact (leAt_enumPayload (by omega)).trans (leAt_enumCounted (by omega))
    · obtain ⟨h8, h9, h10⟩ := enumCounted_given hlen hgiven
      refine ⟨congrArg some (if_pos hgiven), ?_, (leAt_enumPayload (by omega)).trans h8, (leAt_enumPayload (by omega)).trans h9,
        (leAt_enumPayload (by omega)).trans h10⟩
      exact congrArg not (decide_eq_true hgiven)
    · obtain ⟨h8, h9, h10⟩ := enumCounted_full hlen hnone
      refine ⟨congrArg some (if_neg (Nat.not_le.mpr hnone)), ?_, (leAt_enumPayload (by omega)).trans h8, (leAt_enumPayload (by omega)).trans h9,
        (leAt_enumPayload (by omega)).trans h10⟩
      exact congrArg not (decide_eq_false (Nat.not_le.mpr hnone))

end Sys2Proof.Proofs
end

section
/-! PROOFS. Chain frames that a unit acts on (R411, R414, R419, R421, R422, R424, R334). -/

namespace Sys2Proof.Proofs
open Sys2Proof Sys2Proof.Machine Sys2Proof.Laws

section
variable {s : State} {f : DclFrame} {e : Ext}

/-- A frame event of a type other than ENUM that the unit heeds. -/
theorem frameRow_of {t : BitVec 8} {u : State} (h : s.heeds f = true) (htype : f.type = t) (hne : t ≠ 1) (hact : s.actOn f e = u) :
    s.frameRow t f e = u.passOn f := by
  rw [← hact, ← htype, frameRow_acts (heeds_iff.mp h) (htype ▸ hne)]

theorem passOn_own (hdest : f.dest ≠ 255) : s.passOn f = s := if_neg hdest

theorem beaconIn_joined (hjoined : s.chainW.needJoin = false) : s.beaconIn f = { s with
    chain := { s.chain with
      version := leAt f.payload 8 1, units := leAt f.payload 9 1, unassigned := leAt f.payload 10 1
      epoch := BitVec.ofNat 32 (leAt f.payload 12 4), stale := false, address := s.chain.pendAddr.getD s.chain.address, pendAddr := none }
    chainW := { s.chainW with electing := false } } := by
  rw [State.beaconIn]
  exact if_neg (by simp [hjoined])

theorem fireRule_unarmed {i : Nat} {send : Bool} (h : (s.trigs.get i).armed = none) : s.fireRule i send = s := by
  rw [State.fireRule]
  dsimp only
  rw [h]

/-- A master with automatic re-enumeration that meets a unit it did not enumerate sends ENUM. -/
theorem reEnum_auto {src : Nat} (hidle : s.chainW.enumNonce = none) (hauto : s.chain.autoReenum = true) : ∃ tu po su, s.reEnum src = State.enumStart { s with timeUsed := tu, port := po, sump := su } none := by
  obtain ⟨tu, po, su, hlog⟩ := log_frame_quiet s sDegraded (v := 1) (by decide) 8 src none []
  rw [State.reEnum, hidle, hlog]
  exact ⟨tu, po, su, if_pos hauto⟩

/-- A SIGNAL that its object admits, the first of its source, is applied and acknowledged. -/
theorem recvSignal_plain (hremote : (s.sync.objs.get (leAt f.payload 2 2 % 16384)).remoteOk = true)
    (hch : (s.sync.objs.get (leAt f.payload 2 2 % 16384)).remoteCh.toNat = leAt f.payload 0 1 % 32) (hfirst : s.sync.lastSeq.get f.source.toNat = none)
    (hplain : s.plainSignal (leAt f.payload 2 2 % 16384) (leAt f.payload 8 4 + 1) = true) (err : Bool) :
    s.recvSignal f err = (({ s with
      sync := { s.sync with lastSeq := s.sync.lastSeq.set f.source.toNat (some (BitVec.ofNat 16 (leAt f.payload 4 2))) } } : State).onObj
        (leAt f.payload 2 2 % 16384) fun o => { o with value := o.value + BitVec.ofNat 64 (leAt f.payload 8 4 + 1) }).sendFrame 0x11 f.source.toNat
          (leBytes 2 (leAt f.payload 4 2) ++ leBytes 2 (leAt f.payload 2 2 % 16384)) := by
  have hincr : (BitVec.ofNat 64 (leAt f.payload 8 4 + 1)).toNat = leAt f.payload 8 4 + 1 := by
    have := leAt_lt f.payload 8 4
    simp only [BitVec.toNat_ofNat]
    omega
  have hseq : (BitVec.ofNat 16 (leAt f.payload 4 2)).toNat = leAt f.payload 4 2 := Nat.mod_eq_of_lt (leAt_lt ..)
  have hsignal := signal_plain (err := err) (v := BitVec.ofNat 64 (leAt f.payload 8 4 + 1)) (s := { s with
    sync := { s.sync with lastSeq := s.sync.lastSeq.set f.source.toNat (some (BitVec.ofNat 16 (leAt f.payload 4 2))) } })
    (by rw [hincr]; exact hplain)
  rw [hincr] at hsignal
  have hadmits : ((s.sync.objs.get (leAt f.payload 2 2 % 16384)).alloc && (s.sync.objs.get (leAt f.payload 2 2 % 16384)).remoteOk &&
      (s.sync.objs.get (leAt f.payload 2 2 % 16384)).remoteCh.toNat == leAt f.payload 0 1 % 32) = true := by
    rw [(plainSignal_iff.mp hplain).1, hremote, hch]
    simp
  unfold State.recvSignal
  extract_lets src ch i seq o ack dup dupSync sy
  have hdup : dup = false := by
    unfold dup
    rw [hfirst]
  rw [hdup]
  refine (if_neg Bool.false_ne_true).trans ((if_pos hadmits).trans ?_)
  rw [show sy.signal i (leAt f.payload 8 4 + 1) err = _ from hsignal, show ack = _ from congrArg (leBytes 2 · ++ leBytes 2 i) hseq]

/-- The outcome of a remote signal ends its SYNC_SIGNAL. -/
theorem endRemote_signal {m : RemoteSig} {k : Cmd} {st : BitVec 16} {r : BitVec 64} (hcmd : s.cmdAt m.chamber m.sq m.cid = some k)
    (hop : k.sub.opcode = 0xA2) : s.endRemote m st r =
      conclude k.sub ⟨{ s with sync := { s.sync with remote := s.sync.remote.erase m } }, some st, r, 0, []⟩ := by
  have hcmd' : State.cmdAt { s with sync := { s.sync with remote := s.sync.remote.erase m } } m.chamber m.sq m.cid = some k := hcmd
  rw [State.endRemote]
  dsimp only
  rw [hcmd']
  exact if_pos hop

theorem signalAnswer_found {m : RemoteSig} {st : BitVec 16} {r : BitVec 64}
    (hfind : s.sync.remote.find? (fun t => t.dest == f.source.toNat && t.seq == BitVec.ofNat 16 (leAt f.payload 0 2)) = some m) :
    s.signalAnswer f st r = s.endRemote m st r := by
  rw [State.signalAnswer, hfind]

/-- The end of a command in flight whose status is no refusal: its completion, and its record gone. -/
theorem conclude_plain {u : State} {x : Sub} {c : Cmd} {st : BitVec 16} {r : BitVec 64} {n : Nat} {l : List (BitVec 64)} (hc : u.cmd? x = some c)
    (htwin : c.twin = false) (hst : isRefusal st = false) : let t := conclude x ⟨u, some st, r, n, l⟩
    t.fins = u.fins ++ [⟨x.chamber, x.sq, x.cid, st, r⟩] ∧ t.cmds = u.cmds.filter (fun d => !isCmd x d) ∧ t.sync = u.sync := by
  obtain ⟨hfins, hcmds, -, -, -, hrest⟩ := completed_conclude hc htwin hst rfl
  exact ⟨hfins, hcmds, (congrArg State.sync hrest).trans rfl⟩

end

/-- Settles O13: each frame's effect through `frameRow_of`, with the rules of the sync unit for signals. -/
theorem chainFramesTakeEffect : Obligations.ChainFramesTakeEffect := by
  intro s f e hheeds
  refine ⟨?_, ?_, ?_, ?_, ?_, ?_, ?_⟩
  · intro htype hjoined
    exact congrArg Host.Outcome.next (frameRow_of hheeds htype (by decide) (by rw [State.actOn, htype]; exact beaconIn_joined hjoined))
  · intro htype hadmit
    refine congrArg Host.Outcome.next (frameRow_of hheeds htype (by decide) ?_)
    rw [State.actOn, htype]
    rcases hadmit with hmask | hunarmed
    · exact if_neg (ne_true_of_eq_false hmask)
    · exact (congrArg (ite _ · s) (fireRule_unarmed hunarmed)).trans (ite_self s)
  · intro htype
    exact congrArg Host.Outcome.next (frameRow_of hheeds htype (by decide) (by rw [State.actOn, htype]; rfl))
  · intro htype hmaster
    exact congrArg Host.Outcome.next (frameRow_of hheeds htype (by decide)
      (by rw [State.actOn, htype]; exact if_neg (ne_true_of_eq_false hmaster)))
  · intro htype hdest hmaster hidle hauto hbars
    obtain ⟨tu, po, su, hreenum⟩ := reEnum_auto (src := f.source.toNat) hidle hauto
    have hact : s.actOn f .good = State.enumStart { s with timeUsed := tu, port := po, sump := su } none := by
      rw [State.actOn, htype]
      exact (if_pos hmaster).trans hreenum
    rw [enumStart_eq (s := { s with timeUsed := tu, port := po, sump := su }) hbars hidle] at hact
    refine ⟨_, congrArg Host.Outcome.next ((frameRow_of hheeds htype (by decide) hact).trans (passOn_own (by rw [hdest]; decide))), rfl, rfl, rfl, rfl, ?_, rfl⟩
    simp [enumFrame]
  · intro htype hdest hremote hch hfirst hplain
    exact congrArg Host.Outcome.next ((frameRow_of hheeds htype (by decide)
      (by rw [State.actOn, htype]; exact recvSignal_plain hremote hch hfirst hplain _)).trans (passOn_own hdest))
  · intro st r c hc m k hfind hcmd hop htwin hdest
    have hact : exec c s = .next (s.signalAnswer f st r) := by
      rcases hc with ⟨rfl, htype, rfl, rfl⟩ | ⟨rfl, htype, rfl, rfl⟩
      · exact congrArg Host.Outcome.next ((frameRow_of hheeds htype (by decide) (by rw [State.actOn, htype]; rfl)).trans (passOn_own hdest))
      · exact congrArg Host.Outcome.next ((frameRow_of hheeds htype (by decide) (by rw [State.actOn, htype]; rfl)).trans (passOn_own hdest))
    have hst : isRefusal st = false := by
      rcases hc with ⟨-, -, rfl, -⟩ | ⟨-, -, rfl, -⟩ <;> decide
    rw [signalAnswer_found hfind, endRemote_signal hcmd hop] at hact
    obtain ⟨hfins, hcmds, hsync⟩ := conclude_plain (u := { s with sync := { s.sync with remote := s.sync.remote.erase m } })
      (r := r) (n := 0) (l := []) (cmdAt_sub hcmd).2.2.2 htwin hst
    exact ⟨_, hact, (congrArg Sync.remote hsync).trans rfl, hfins, hcmds, (congrArg Sync.objs hsync).trans rfl⟩

end Sys2Proof.Proofs
end

section
/-! PROOFS. Chain-wide barriers, the link, the transmitter and the timers of the chain (R342, R407, R411, R412, R414, R416, R418, R424). -/

namespace Sys2Proof.Proofs
open Sys2Proof Sys2Proof.Machine Sys2Proof.Laws

section
variable {s : State} {f : DclFrame} {e : Ext}

/-! Barriers. -/

/-- The frame `sendFrame` makes, its version as a byte. -/
theorem sendFrame_ownQ {t d : Nat} {p : List Byte} (h : ¬(t = 1 ∨ t = 2 ∨ t = 5)) : (s.sendFrame t d p).chainW.ownQ = s.chainW.ownQ ++
    [⟨if s.chain.version = 1 then 1 else 2, BitVec.ofNat 8 t, BitVec.ofNat 8 d, BitVec.ofNat 8 s.chain.address, 0, p⟩] := by
  rw [State.sendFrame, if_neg h]
  by_cases hv : s.chain.version = 1
  · rw [if_pos hv, if_pos hv]; rfl
  · rw [if_neg hv, if_neg hv]; rfl

/-- The master counts an arrival it has not counted, of the number of units it waits for. -/
theorem barArrive_counts (hmaster : s.isMaster = true)
    (hnew : s.chainW.barTokens.contains (f.source.toNat, leAt f.payload 0 1, leAt f.payload 4 2) = false)
    (hn : (s.chainW.masterBar.get (leAt f.payload 0 1)).1 = 0 ∨ (s.chainW.masterBar.get (leAt f.payload 0 1)).1 = leAt f.payload 2 2) :
    s.barArrive f = State.masterArrive { s with chainW := { s.chainW with
      barTokens := s.chainW.barTokens ++ [(f.source.toNat, leAt f.payload 0 1, leAt f.payload 4 2)] } } (leAt f.payload 0 1) (leAt f.payload 2 2) := by
  have hcount : ¬((!s.isMaster) = true ∨ s.chainW.barTokens.contains (f.source.toNat, leAt f.payload 0 1, leAt f.payload 4 2) = true) := by
    rw [hmaster, hnew]
    decide
  exact (if_neg hcount).trans (if_neg fun h => hn.elim h.1 h.2)

/-- The last arrival releases the barrier, here one that is not in use on the master itself. -/
theorem masterArrive_releases {b n : Nat} (hn : n ≤ (s.chainW.masterBar.get b).2 + 1) (hchain : (s.sync.bars.get b).chain = false) :
    s.masterArrive b n = (State.sendFrame { s with chainW := { s.chainW with
      masterBar := s.chainW.masterBar.set b (0, 0), barTokens := s.chainW.barTokens.filter fun t => t.2.1 != b } } 0x1B 255
        ([BitVec.ofNat 8 b, 0, 0, 0] ++ leBytes 4 (s.sync.bars.get b).gen.toNat)).onBar b
          fun k => if k.claimed then k else { k with gen := (s.sync.bars.get b).gen + 1 } :=
  (if_neg (Nat.not_lt.mpr hn)).trans (if_neg (ne_true_of_eq_false hchain))

theorem barWithdraw_drops (hmaster : s.isMaster = true)
    (htoken : s.chainW.barTokens.contains (f.source.toNat, leAt f.payload 0 1, leAt f.payload 4 2) = true) :
    s.barWithdraw f = (State.masterWithdraw { s with chainW := { s.chainW with
      barTokens := s.chainW.barTokens.erase (f.source.toNat, leAt f.payload 0 1, leAt f.payload 4 2) } } (leAt f.payload 0 1)).sendFrame 0x1A f.source.toNat
        ([BitVec.ofNat 8 (leAt f.payload 0 1), 0] ++ leBytes 2 (leAt f.payload 4 2)) := by
  refine (if_neg (by rw [hmaster]; decide)).trans ?_
  dsimp only
  rw [if_pos htoken]

theorem passOn_fins : (s.passOn f).fins = s.fins := by
  rw [State.passOn]
  split <;> rfl

theorem passOn_sync : (s.passOn f).sync = s.sync := by
  rw [State.passOn]
  split <;> rfl

theorem barAck_ends {j : Nat × Nat × BitVec 16 × Nat × Bool} (hsource : f.source = 1) (hchain : (s.sync.bars.get (leAt f.payload 0 1)).chain = true)
    (hok : leAt f.payload 1 1 = 0) (hjoin : (s.sync.bars.get (leAt f.payload 0 1)).joins.find? (fun j => j.2.2.2.1 == leAt f.payload 2 2) = some j) :
    s.barAck f = (s.dropJoin (leAt f.payload 0 1) j).endJoin j sTimeout 0 := by
  rw [State.barAck]
  dsimp only
  rw [if_pos ⟨hsource, hchain⟩, hjoin, hok]
  rfl

theorem onBar_unclaimed {b : Nat} {g : BitVec 32} (hclaimed : (s.sync.bars.get b).claimed = false) :
    (s.onBar b fun k => if k.claimed then k else { k with gen := g }) = s.onBar b fun k => { k with gen := g } := by
  rw [State.onBar, State.onBar, SMap.modify, SMap.modify, hclaimed]
  rfl

/-- A BAR_RELEASE of the master at a barrier with one join: it ends OK with the generation, and the barrier is free. -/
theorem barRelease_ends {j : Nat × Nat × BitVec 16 × Nat × Bool} {c : Cmd} (hsource : f.source = 1)
    (hchain : (s.sync.bars.get (leAt f.payload 0 1)).chain = true) (hjoins : (s.sync.bars.get (leAt f.payload 0 1)).joins = [j])
    (hcmd : s.cmdAt j.1 j.2.1 j.2.2.1 = some c) : s.barRelease f =
      (s.onBar (leAt f.payload 0 1) fun _ => { Bar.zero with gen := BitVec.ofNat 32 (leAt f.payload 4 4) + 1 }).finish c.sub (termPhase sOk) sOk
        ((BitVec.ofNat 32 (leAt f.payload 4 4)).zeroExtend 64) 1 [] := by
  refine (if_neg (not_not.mpr hsource)).trans ((if_pos hchain).trans ?_)
  rw [State.releaseBar, hjoins]
  exact endJoin_eq hcmd

/-! The link and the timers. -/

/-- A frame for another unit is queued for the next one. -/
theorem frameIn_forward (hrole : s.chain.role = 0) (hsource : f.source.toNat ≠ s.chain.address) (hhops : f.hops ≠ 254)
    (hall : f.dest ≠ 255) (hdest : f.dest.toNat ≠ s.chain.address) : s.frameIn f e = s.forwardFrame f := by
  have hown : ¬(!s.bystander && f.source.toNat == s.chain.address && !(f.type == 1 && s.chainW.enumNonce.isSome)) = true := by
    simp [hsource]
  have hhops' : f.hops.toNat ≠ 254 := fun h => hhops (BitVec.eq_of_toNat_eq h)
  have hmaster : s.isMaster = false := by
    rw [State.isMaster, hrole]
    rfl
  unfold State.frameIn
  extract_lets own strange ch s1
  have hs1 : s1 = s := if_neg (by simp [strange, hmaster])
  rw [if_neg hown, if_neg hhops', hs1, if_neg fun h => hdest h.1, if_neg fun h => hall h.1]

/-- The end of an enumeration's command whose status is PARTNER_TIMEOUT. -/
theorem enumEnd_timeout {x : Sub} {c : Cmd} (hx : s.chainW.enumCmd = some x) (hc : s.cmd? x = some c) (htwin : c.twin = false) :
    let t := s.enumEnd sTimeout
    t.chain = s.chain ∧ t.chainW.enumNonce = none ∧ t.fins = s.fins ++ [⟨x.chamber, x.sq, x.cid, sTimeout, 0⟩] := by
  obtain ⟨hfins, -, -, -, -, hrest⟩ := completed_conclude (x := x) (r := 0) (n := 0) (m := max c.units 0) (l := [])
    (u := ({ s with chainW := { s.chainW with enumNonce := none, enumCmd := none } } : State).cause 5) hc htwin (st := sTimeout) (by decide) rfl
  have hend : s.enumEnd sTimeout = conclude x
      ⟨({ s with chainW := { s.chainW with enumNonce := none, enumCmd := none } } : State).cause 5, some sTimeout, 0, 0, []⟩ := by
    rw [State.enumEnd, hx]
    rfl
  rw [hend]
  exact ⟨(congrArg State.chain hrest).trans rfl, (congrArg (fun t => t.chainW.enumNonce) hrest).trans rfl, hfins⟩

/-- A unit that originates frames and has a token sends its notice at once. -/
theorem notice_sent {code : BitVec 16} (hon : s.onChain = true) (htoken : 0 < s.chainW.tokens) : ∃ g, g.type = 4 ∧ g.dest = 255 ∧
    leAt g.payload 0 2 = 1 ∧ s.notice 1 code = { s with
      chain := { s.chain with sent := satAdd 16 s.chain.sent 1 }
      chainW := { s.chainW with ownQ := s.chainW.ownQ ++ [g], tokens := s.chainW.tokens - 1 } } :=
  ⟨_, rfl, rfl, rfl, (if_neg (by rw [hon]; decide)).trans ((if_pos htoken).trans rfl)⟩

end

section
variable {s : State} {f : DclFrame} {e : Ext}

theorem actOn_barArrive (h : f.type = 0x18) : s.actOn f e = s.barArrive f := by rw [State.actOn, h]; rfl
theorem actOn_barWithdraw (h : f.type = 0x19) : s.actOn f e = s.barWithdraw f := by rw [State.actOn, h]; rfl
theorem actOn_barAck (h : f.type = 0x1A) : s.actOn f e = s.barAck f := by rw [State.actOn, h]; rfl
theorem actOn_barRelease (h : f.type = 0x1B) : s.actOn f e = s.barRelease f := by rw [State.actOn, h]; rfl

end

/-- Settles O14: each barrier frame through `frameRow_of`, then the link, the transmitter and each timer. -/
theorem chainBarriersAndTimers : Obligations.ChainBarriersAndTimers := by
  refine ⟨?_, ?_⟩
  · intro s f e hheeds b n token src
    refine ⟨fun htype hdest hmaster hnew hn => ⟨fun hlt => ?_, fun hle hclaimed hchain => ?_⟩, fun htype hdest hmaster htoken => ?_,
      fun htype hdest hsource hchain hok j c hjoin hcmd htwin => ?_, fun htype hsource hclaimed hchain => ?_,
      fun htype hsource hchain j c hjoins hcmd htwin => ?_⟩
    · exact congrArg Host.Outcome.next ((frameRow_of hheeds htype (by decide)
        ((actOn_barArrive htype).trans ((barArrive_counts hmaster hnew hn).trans (if_pos hlt)))).trans (passOn_own hdest))
    · have hact := (actOn_barArrive (e := .good) htype).trans ((barArrive_counts hmaster hnew hn).trans (masterArrive_releases hle hchain))
      refine ⟨_, congrArg Host.Outcome.next ((frameRow_of hheeds htype (by decide) hact).trans (passOn_own hdest)), rfl, fun p hp => ?_,
        sendFrame_ownQ (by decide), ?_, rfl, rfl⟩
      · simpa using (List.mem_filter.mp hp).2
      · refine (congrArg Bar.gen (get_modify_self ..)).trans ?_
        exact congrArg Bar.gen (if_neg (ne_true_of_eq_false hclaimed))
    · exact congrArg Host.Outcome.next ((frameRow_of hheeds htype (by decide)
        ((actOn_barWithdraw htype).trans (barWithdraw_drops hmaster htoken))).trans (passOn_own hdest))
    · obtain ⟨hfins, hsync⟩ := finish_plain (s := s.dropJoin b j) (ph := termPhase sTimeout) (st := sTimeout) (r := 0) (n := 0) (l := [])
        (cmdAt_sub hcmd).2.2.2 htwin (by decide)
      refine ⟨_, congrArg Host.Outcome.next ((frameRow_of hheeds htype (by decide)
        ((actOn_barAck htype).trans ((barAck_ends hsource hchain hok hjoin).trans (endJoin_eq hcmd)))).trans (passOn_own hdest)), hfins, ?_⟩
      exact (congrArg (fun y => (y.bars.get b).arrived) hsync).trans (dropJoin_arrived ..)
    · refine congrArg Host.Outcome.next (frameRow_of hheeds htype (by decide) ((actOn_barRelease htype).trans ?_))
      exact (if_neg (not_not.mpr hsource)).trans ((if_neg (ne_true_of_eq_false hchain)).trans (onBar_unclaimed hclaimed))
    · obtain ⟨hfins, hsync⟩ := finish_plain (s := s.onBar b fun _ => { Bar.zero with gen := BitVec.ofNat 32 (leAt f.payload 4 4) + 1 })
        (ph := termPhase sOk) (st := sOk) (r := (BitVec.ofNat 32 (leAt f.payload 4 4)).zeroExtend 64) (n := 1) (l := [])
        (cmdAt_sub hcmd).2.2.2 htwin (by decide)
      refine ⟨_, congrArg Host.Outcome.next (frameRow_of hheeds htype (by decide)
        ((actOn_barRelease htype).trans (barRelease_ends hsource hchain hjoins hcmd))), ?_, ?_⟩
      · have hgen : (BitVec.ofNat 32 (leAt f.payload 4 4)).zeroExtend 64 = BitVec.ofNat 64 (leAt f.payload 4 4 % 2 ^ 32) :=
          BitVec.eq_of_toNat_eq (by simp)
        rw [passOn_fins, hfins, hgen]
        rfl
      · rw [passOn_sync, hsync]
        exact get_modify_self ..
  · intro s
    refine ⟨fun l e hlisten => ?_, fun l e hlisten hparse => ?_, fun l e f hlisten hparse hready hrole hsource hhops hall hdest => ?_,
      fun f r g q hfwd hown => ?_, fun g q hfwd hown => ?_, fun hrole hlock => ?_, ?_, fun hrole hidle hversion hready => ?_,
      fun n x c hnonce hcmd hrec htwin => ?_, fun hrole hstale hready hbars => ?_, fun hrole hstale helect hcand hidle hbars => ?_,
      fun hreason hon htoken => ?_, fun hnone => ?_, fun k p r hon hnotices => ?_⟩
    · exact congrArg Host.Outcome.next (if_neg (by rw [hlisten]; decide))
    · refine congrArg Host.Outcome.next ((if_neg (by rw [hlisten]; decide)).trans ?_)
      rw [hparse]
      rfl
    · refine congrArg Host.Outcome.next ((if_neg (by rw [hlisten]; decide)).trans ?_)
      rw [hparse]
      exact frameIn_forward hrole hsource hhops hall hdest
    · refine congrArg Host.Outcome.next ?_
      dsimp only
      rw [hfwd, hown]
      dsimp only
      by_cases hpassed : s.chainW.passedBy < 8
      · rw [if_pos hpassed, if_pos hpassed]
      · rw [if_neg hpassed, if_neg hpassed]
    · refine congrArg Host.Outcome.next ?_
      dsimp only
      rw [hfwd, hown]
    · refine congrArg Host.Outcome.next (if_pos ?_)
      simp [hrole, hlock]
    · exact congrArg Host.Outcome.next (if_neg (by simp))
    · refine congrArg Host.Outcome.next (if_pos ?_)
      simp [State.isMaster, hrole, hidle, hversion, hready]
    · obtain ⟨tu, po, su, hlog⟩ := log_frame_quiet
        { s with chain := { s.chain with role := s.chainW.prevRole, address := s.chainW.prevAddr } } sTimeout (v := severityOf sTimeout) (by decide) 8 0 none []
      obtain ⟨hchain, hnone, hfins⟩ := enumEnd_timeout (c := c) (s := { s with
        timeUsed := tu, port := po, sump := su, chain := { s.chain with role := s.chainW.prevRole, address := s.chainW.prevAddr } }) hcmd hrec htwin
      have hexec : exec .enumTimeout s = .next (State.enumEnd (State.logStatus
          { s with chain := { s.chain with role := s.chainW.prevRole, address := s.chainW.prevAddr } } sTimeout 8 0 none []) sTimeout) :=
        congrArg Host.Outcome.next (if_neg (by rw [hnonce]; exact Bool.false_ne_true))
      refine ⟨_, hexec, ?_⟩
      rw [State.logStatus, hlog]
      exact ⟨congrArg Chain.role hchain, congrArg Chain.address hchain, hnone, hfins⟩
    · have hskip : ¬(s.chain.role ≠ 0 ∨ s.chain.stale = true ∨ s.boot.stage ≠ .ready) := by simp [hrole, hstale, hready]
      refine ⟨_, congrArg Host.Outcome.next (if_neg hskip), ?_⟩
      rw [endChainJoins_none hbars]
      exact ⟨rfl, rfl, rfl, rfl, rfl, bit_setBit _ (by decide) _⟩
    · obtain ⟨tu, po, su, hlog⟩ := log_frame_quiet s sDegraded (v := 1) (by decide) 8 s.chain.address none []
      refine ⟨_, congrArg Host.Outcome.next (if_pos ⟨hrole, hstale, helect, hcand, by rw [hidle]; rfl⟩), ?_⟩
      rw [hlog, enumStart_eq (s := { s with timeUsed := tu, port := po, sump := su }) hbars hidle]
      refine ⟨rfl, rfl, rfl, ?_⟩
      simp [enumFrame]
    · obtain ⟨g, htype, hdest, hkind, hnotice⟩ := notice_sent (code := eReplRaised) hon htoken
      exact ⟨_, g, congrArg Host.Outcome.next ((if_neg hreason).trans hnotice), rfl, htype, hdest, hkind, rfl, rfl, rfl⟩
    · refine congrArg Host.Outcome.next ?_
      rw [hnone, ite_self]
    · have hfirst : (if s.onChain = true then s.chainW.notices else []) = (k, p) :: r := by rw [if_pos hon, hnotices]
      have hexec : exec .noticeToken s = .next (State.sendFrame
          { s with chainW := { s.chainW with notices := r }, chain := { s.chain with sent := satAdd 16 s.chain.sent 1 } } 4 255 p) := by
        refine congrArg Host.Outcome.next ?_
        rw [hfirst]
      exact ⟨_, _, hexec, rfl, rfl, rfl, rfl, rfl, rfl⟩

end Sys2Proof.Proofs
end

section
/-! PROOFS. Refused submissions (R97, R107, R108) and the test opcodes (R123). -/

namespace Sys2Proof.Proofs
open Sys2Proof Sys2Proof.Machine Sys2Proof.Laws

section
variable {s : State} {x : Sub}

/-- A state and one that differs from it by its log, its chambers' queues and its units' counts; no entry more waits for dispatch. -/
def Noted (s t : State) : Prop := ∃ tu po su cn cw un chs,
  t = { s with timeUsed := tu, port := po, sump := su, chain := cn, chainW := cw, units := un, chambers := chs } ∧
    (∀ ch, (t.un ch).site = (s.un ch).site) ∧ ∀ ch f, f ∈ (t.ch ch).fetched → f ∈ (s.ch ch).fetched

theorem Noted.refl : Noted s s := ⟨_, _, _, _, _, _, _, rfl, fun _ => rfl, fun _ _ => id⟩

theorem Noted.trans {t u : State} (h : Noted s t) (k : Noted t u) : Noted s u := by
  obtain ⟨tu, po, su, cn, cw, un, chs, rfl, hsite, hfetched⟩ := h
  obtain ⟨tu', po', su', cn', cw', un', chs', rfl, hsite', hfetched'⟩ := k
  exact ⟨_, _, _, _, _, _, _, rfl, fun ch => (hsite' ch).trans (hsite ch), fun ch f hf => hfetched ch f (hfetched' ch f hf)⟩

theorem noted_logPartner (c : BitVec 16) (k i : Nat) (ch : Option Nat) (d : List Byte) : Noted s (s.logPartner c k i ch d) := by
  obtain ⟨tu, po, su, cn, cw, hlog⟩ := log_frame_ex (s := s) c (severityOf c) k i ch d
  rw [State.logPartner, State.logStatus, hlog]
  exact ⟨_, _, _, _, _, _, _, rfl, fun _ => rfl, fun _ _ => id⟩

theorem noted_onCh (n : Nat) (f : Chamber → Chamber) (hf : ∀ g, g ∈ (f (s.ch n)).fetched → g ∈ (s.ch n).fetched) : Noted s (s.onCh n f) := by
  refine ⟨_, _, _, _, _, _, _, rfl, fun _ => rfl, fun ch g hg => ?_⟩
  by_cases h : ch = n
  · rw [h] at hg ⊢
    exact hf g (by rwa [State.ch_onCh] at hg)
  · rwa [State.ch_onCh_ne _ _ _ _ h] at hg

/-- The quarantine of a queue of which no entry waits for dispatch completes no command. -/
theorem noted_quarSq {ch q : Nat} (hempty : ∀ f ∈ (s.ch ch).fetched, f.sub.sq ≠ q) : Noted s (s.quarSq ch q) := by
  have hdead : ((s.ch ch).fetched.filter fun f => f.sub.sq == q && !f.dead) = [] := by
    rw [List.filter_eq_nil_iff]
    intro f hf
    simp [hempty f hf]
  unfold State.quarSq
  split
  · exact .refl
  · rw [hdead]
    exact ((noted_onCh _ _ fun _ => id).trans (noted_onCh _ _ fun _ hg => List.mem_of_mem_filter hg)).trans (noted_logPartner ..)

theorem noted_violSq {ch q : Nat} (hempty : ∀ f ∈ (s.ch ch).fetched, f.sub.sq ≠ q) : Noted s (s.violSq ch q) := by
  have hcount : Noted s (s.onSq ch q fun t => { t with viol := t.viol + 1 }) := noted_onCh _ _ fun _ => id
  unfold State.violSq
  extract_lets u
  split
  · refine hcount.trans (noted_quarSq fun f hf => hempty f ?_)
    rwa [show (u.ch ch).fetched = (s.ch ch).fetched from (congrArg Chamber.fetched (State.ch_onCh ..)).trans rfl] at hf
  · exact hcount

theorem noted_syncForbid (o : Nat) : Noted s (s.syncForbid o) := by
  refine ⟨_, _, _, _, _, _, _, rfl, fun ch => ?_, fun _ _ => id⟩
  by_cases h : ch = o
  · rw [h]
    exact (congrArg ChUnit.site (State.un_onUn ..)).trans rfl
  · exact congrArg ChUnit.site (State.un_onUn_ne _ _ _ _ h)

theorem noted_noteRefusal {st : BitVec 16} (hempty : ∀ f ∈ (s.ch x.chamber).fetched, f.sub.sq ≠ x.sq) : Noted s (s.noteRefusal x st) := by
  unfold State.noteRefusal
  split
  · generalize hlog : s.logPartner _ _ _ _ _ = u
    have hu : Noted s u := hlog ▸ noted_logPartner ..
    have hch : u.ch x.chamber = s.ch x.chamber := by
      rw [← hlog, State.ch, State.logPartner, State.logStatus, State.cause_chambers, log_chambers, State.ch]
    have hviol : Noted s (u.violSq x.chamber x.sq) := hu.trans (noted_violSq (hch ▸ hempty))
    dsimp only
    split
    · split
      · exact hviol
      · exact hviol.trans (noted_syncForbid _)
    · exact hviol
  · exact .refl

/-- A refused entry: its completion, its log and its violation. -/
theorem refuseSub_frame {st : BitVec 16} {d : BitVec 64} (hempty : ∀ f ∈ (s.ch x.chamber).fetched, f.sub.sq ≠ x.sq) :
    Noted { s with fins := s.fins ++ [⟨x.chamber, x.sq, x.cid, st, if isRefusal st then d else 0⟩] } (s.refuseSub x false st d) :=
  noted_noteRefusal (s := { s with fins := s.fins ++ [⟨x.chamber, x.sq, x.cid, st, if isRefusal st then d else 0⟩] }) hempty

end

/-! The test opcodes. -/

theorem opInfo_test {x : Sub} (h : 0xF0 ≤ x.opcode.toNat) : opInfo x = some ⟨false, false, 30, 4, 0xFFFFFFFF, m64, m64, m64, m64, m64, m64⟩ := by
  unfold opInfo
  split
  any_goals omega
  exact if_pos h

/-- Where the test opcodes are not assigned, the checks refuse them as unassigned. -/
theorem check_test {s : State} {x : Sub} (h : 0xF0 ≤ x.opcode.toNat) (hneg : (s.ch x.chamber).negotiated = true) (htest : s.testOps = false) :
    s.check x = some (sInvalidOpcode, faultDesc 4 0 0 0 0) := by
  have hassigned : ¬(x.sq = 0 ∧ (!(s.ch x.chamber).negotiated) = true ∧ x.opcode ≠ 0x02) := by simp [hneg]
  refine (if_neg hassigned).trans ?_
  unfold State.checkBody
  rw [opInfo_test h]
  exact if_pos (.inr ⟨rfl, by rw [htest]; rfl⟩)

/-- Settles O15: outside its states `check_test` gives the refusal; where the checks pass the row is refused by name. -/
theorem testOpcodesAreAssignedInTwoStates : Obligations.TestOpcodesAreAssignedInTwoStates := by
  intro s x0 x e hentry hserving hsq hneg
  obtain rfl : testSub x0 = x := Option.some.inj hentry
  refine ⟨fun htest hempty => ?_, fun hnone => ?_⟩
  · obtain ⟨tu, po, su, cn, cw, un, chs, hframe, -⟩ := refuseSub_frame (st := sInvalidOpcode) (d := faultDesc 4 0 0 0 0) (hsq ▸ hempty)
    refine ⟨(s.refuseSub (testSub x0) false sInvalidOpcode (faultDesc 4 0 0 0 0)), ?_, ?_⟩
    · refine (if_neg (by rw [hserving]; decide)).trans ?_
      rw [check_test (testSub_opcode x0) hneg htest]
    · rw [hframe]
      exact ⟨rfl, rfl, rfl, rfl⟩
  · refine (if_neg (by rw [hserving]; decide)).trans ?_
    rw [hnone]

/-! Every submission row refuses what the checks refuse. -/

/-- How a submission row treats an entry that is not in hand: nothing while the service is down, and the refusal the checks give. -/
def Refuses (c : Instr) (s : State) (x : Sub) : Prop :=
  (s.serving = false → exec c s = .next s) ∧
  ∀ st d, s.serving = true → (∀ k ∈ s.cmds, k.sub ≠ x) → s.check x = some (st, d) → (∀ f ∈ (s.ch x.chamber).fetched, f.sub.sq ≠ x.sq) →
    exec c s = .next (s.refuseSub x false st d)

section
variable {s : State} {x : Sub} {l : List Sub} {b : State → Res}

theorem runOp_down (h : s.serving = false) : s.runOp x l b = s := by
  rw [State.runOp, h]
  rfl

/-- An entry of which no command is in flight. -/
theorem not_accepted (h : ∀ k ∈ s.cmds, k.sub ≠ x) : ¬s.cmds.any (fun c => c.sub == x) = true := by
  simpa using h

theorem runOp_refused {st : BitVec 16} {d : BitVec 64} (hserving : s.serving = true) (hnew : ∀ k ∈ s.cmds, k.sub ≠ x) (hcheck : s.check x = some (st, d)) :
    s.runOp x l b = s.refuseSub x false st d := by
  rw [State.runOp, hserving, if_neg (not_accepted hnew), hcheck]
  rfl

theorem runDovetail_refused {st : BitVec 16} {d : BitVec 64} {e : Ext} (hserving : s.serving = true) (hnew : ∀ k ∈ s.cmds, k.sub ≠ x)
    (hcheck : s.check x = some (st, d)) : s.runDovetail x l e = s.refuseSub x false st d := by
  rw [State.runDovetail, hserving, if_neg (not_accepted hnew), State.checkAll, hcheck]
  rfl

theorem refuses_runOp {c : Instr} (h : exec c s = .next (s.runOp x l b)) : Refuses c s x :=
  ⟨fun hdown => by rw [h, runOp_down hdown], fun st d hserving hnew hcheck _ => by rw [h, runOp_refused hserving hnew hcheck]⟩

theorem refuses_lifecycleAdvance {x0 : Sub} {e : Ext} {burn : Burn} (hspent : s.life.life ≠ .spent) :
    Refuses (.lifecycleAdvance x0 e burn) s { x0 with opcode := 0x0F } := by
  have hkeep : ∀ t : State, t.life.life ≠ .spent → (if t.life.life = .spent ∧ t.boot.stage = .ready then t.retire else t) = t :=
    fun t ht => if_neg fun h => ht h.1
  constructor
  · intro hdown
    refine congrArg Host.Outcome.next ?_
    rw [runOp_down hdown]
    exact hkeep s hspent
  · intro st d hserving hnew hcheck hempty
    refine congrArg Host.Outcome.next ?_
    rw [runOp_refused hserving hnew hcheck]
    obtain ⟨tu, po, su, cn, cw, un, chs, hframe, -⟩ := refuseSub_frame (st := st) (d := d) hempty
    refine hkeep _ ?_
    rw [hframe]
    exact hspent

theorem refuses_deltaEmit {x0 : Sub} {e : Ext} (hrun : ∀ ch, (s.site ch).run = none) : Refuses (.deltaEmit x0 e) s { x0 with opcode := 0x71 } := by
  have hkeep : ∀ (t : State) (ch : Nat), (t.site ch).run = none → (if (t.site ch).run.isSome then t.siteSettle ch .good else t) = t :=
    fun t ch ht => if_neg (by rw [ht]; exact Bool.false_ne_true)
  constructor
  · intro hdown
    refine congrArg Host.Outcome.next ?_
    dsimp only
    rw [runOp_down hdown]
    exact hkeep s _ (hrun _)
  · intro st d hserving hnew hcheck hempty
    refine congrArg Host.Outcome.next ?_
    dsimp only
    rw [runOp_refused hserving hnew hcheck]
    obtain ⟨tu, po, su, cn, cw, un, chs, -, hsite, -⟩ := refuseSub_frame (st := st) (d := d) hempty
    exact hkeep _ _ ((congrArg Site.run (hsite _)).trans (hrun _))

theorem refuses_dovetail {x0 : Sub} {e : Ext} {l : List Sub} : Refuses (.dovetail x0 e l) s { x0 with opcode := 0x54 } := by
  constructor
  · intro hdown
    refine congrArg Host.Outcome.next ?_
    dsimp only
    rw [State.runDovetail, hdown]
    rfl
  · intro st d hserving hnew hcheck _
    exact congrArg Host.Outcome.next (runDovetail_refused hserving hnew hcheck)

theorem refuses_testOpcode {x0 : Sub} {e : Ext} : Refuses (.testOpcode x0 e) s (testSub x0) := by
  constructor
  · intro hdown
    exact if_pos (by rw [hdown]; rfl)
  · intro st d hserving _ hcheck _
    refine (if_neg (by rw [hserving]; decide)).trans ?_
    rw [hcheck]

/-- Every row of a submission entry; all but four are `runOp` of their body and nothing else. -/
theorem refuses_entry {c : Instr} (hentry : c.entry = some x) (hspent : s.life.life ≠ .spent) (hrun : ∀ ch, (s.site ch).run = none) : Refuses c s x := by
  cases c with
  | lifecycleAdvance x0 e burn => cases hentry; exact refuses_lifecycleAdvance hspent
  | deltaEmit x0 e => cases hentry; exact refuses_deltaEmit hrun
  | dovetail x0 e l => cases hentry; exact refuses_dovetail
  | testOpcode x0 e => cases hentry; exact refuses_testOpcode
  | _ => cases hentry <;> exact refuses_runOp rfl

end

/-- Settles O59: every row refuses by `refuseSub`, whose frame is the log and the violation. -/
theorem submissionsAreChecked : Obligations.SubmissionsAreChecked := by
  intro c s x hentry hspent hrun
  obtain ⟨hdown, hrefused⟩ := refuses_entry hentry hspent hrun
  refine ⟨hdown, fun st d hserving hnew hcheck hempty => ⟨_, hrefused st d hserving hnew hcheck hempty, ?_⟩⟩
  obtain ⟨tu, po, su, cn, cw, un, chs, hframe, -⟩ := refuseSub_frame (st := st) (d := d) hempty
  rw [hframe]
  exact ⟨rfl, rfl, rfl, rfl, rfl, rfl, rfl, rfl, rfl⟩

end Sys2Proof.Proofs
end

section
/-! PROOFS. Doorbells, fetch, dispatch, clamp grants, completions and status words (R92-R110). -/

namespace Sys2Proof.Proofs
open Sys2Proof Sys2Proof.Machine Sys2Proof.Laws

section
variable {s : State} {ch q : Nat} {v : BitVec 32}

/-! Doorbells. -/

section
variable (hv : v.toNat < 4096) (hq : q < 16) (hch : ch < 32)
include hv hq hch

theorem tailWrite_ok (hon : ((s.ch ch).sqs.get q).enable = true) (hin : v.toNat ≤ ((s.ch ch).sqs.get q).sizeM1)
    (hroom : (v.toNat + (((s.ch ch).sqs.get q).sizeM1 + 1) - ((s.ch ch).sqs.get q).tail) % (((s.ch ch).sqs.get q).sizeM1 + 1) +
      (((s.ch ch).sqs.get q).tail + (((s.ch ch).sqs.get q).sizeM1 + 1) - ((s.ch ch).sqs.get q).head) % (((s.ch ch).sqs.get q).sizeM1 + 1) ≤
        ((s.ch ch).sqs.get q).sizeM1) : s.tailWrite ch q v = s.onSq ch q fun t => { t with tail := v.toNat } := by
  have hmod : v.toNat % 4096 = v.toNat := Nat.mod_eq_of_lt hv
  unfold State.tailWrite
  rw [hmod]
  refine (if_neg ?_).trans (if_neg ?_)
  · omega
  · rintro (h | h | h)
    · rw [hon] at h
      cases h
    · omega
    · omega

theorem headWrite_ok (hon : ((s.ch ch).cqs.get q).enable = true) (hin : v.toNat ≤ ((s.ch ch).cqs.get q).sizeM1)
    (hposted : (v.toNat + (((s.ch ch).cqs.get q).sizeM1 + 1) - ((s.ch ch).cqs.get q).head) % (((s.ch ch).cqs.get q).sizeM1 + 1) ≤
      ((s.ch ch).cqs.get q).posted.length) : s.headWrite ch q v = s.onCq ch q fun t => { t with
        head := v.toNat
        posted := t.posted.drop ((v.toNat + (((s.ch ch).cqs.get q).sizeM1 + 1) - ((s.ch ch).cqs.get q).head) % (((s.ch ch).cqs.get q).sizeM1 + 1)) } := by
  have hmod : v.toNat % 4096 = v.toNat := Nat.mod_eq_of_lt hv
  unfold State.headWrite
  rw [hmod]
  refine (if_neg ?_).trans ((if_neg ?_).trans ?_)
  · omega
  · rintro (h | h | h)
    · rw [hon] at h
      cases h
    · omega
    · omega
  · rw [State.onCq, State.onCq]
    refine onCh_congr ?_
    rw [SMap.modify, SMap.modify]

end

end

/-- Settles O17: the three writes of a doorbell, through the rules of a page. -/
theorem doorbellsMoveTheQueues : Obligations.DoorbellsMoveTheQueues := by
  intro s a ch q v hv hq hch sq cq n
  refine ⟨fun hopen hon hin hroom => ?_, fun hopen hon hin hposted => ?_, fun hfree hother => ?_⟩
  · exact congrArg Host.Outcome.next ((pageWrite_ok hopen).trans (congrArg (State.answer · a 0 0) (tailWrite_ok hv hq hch hon hin hroom)))
  · exact congrArg Host.Outcome.next ((pageWrite_ok hopen).trans (congrArg (State.answer · a 0 0) (headWrite_ok hv hq hch hon hin hposted)))
  · exact ⟨_, congrArg Host.Outcome.next (pageWrite_foreign hfree hother), log_chambers .., congrArg Lane.ans (get_modify_self ..)⟩

section
variable {s : State}

/-! Fetch. -/

/-- The SQ whose turn it is goes on with its turns. -/
theorem pickSq_turn {c : Chamber} (hleft : c.turnLeft ≠ 0) (hf : c.fetchable c.turnSq = true) :
    c.pickSq = some (c.turnSq, { c with turnLeft := c.turnLeft - 1 }) := if_pos ⟨hleft, hf⟩

theorem pickCh_turn (hleft : s.turnLeft ≠ 0) (hsq : (s.ch s.turnCh).turnSq < 16) (hf : (s.ch s.turnCh).fetchable (s.ch s.turnCh).turnSq = true) :
    s.pickCh = some (s.turnCh, s.turnLeft - 1) :=
  if_pos ⟨hleft, List.any_eq_true.mpr ⟨_, List.mem_range.mpr hsq, hf⟩⟩

theorem onSq_fetched (n m q : Nat) (f : Sq → Sq) : ((s.onSq n q f).ch m).fetched = (s.ch m).fetched := by
  by_cases h : m = n
  · rw [h, State.onSq, State.ch_onCh]
  · rw [State.onSq, State.ch_onCh_ne _ _ _ _ h]

theorem onCq_fetched (n m q : Nat) (f : Cq → Cq) : ((s.onCq n q f).ch m).fetched = (s.ch m).fetched := by
  by_cases h : m = n
  · rw [h, State.onCq, State.ch_onCh]
  · rw [State.onCq, State.ch_onCh_ne _ _ _ _ h]

theorem addFetched_nil {v32 : Bool} {x : Sub} {raw : List Byte} (hlinked : linked x = false) : addFetched v32 x raw [] = [⟨x, raw, [], true, 0, false⟩] := by
  rw [addFetched, hlinked, Bool.and_false]
  rfl

/-- The entry at the head of a queue of full-size entries, none of which waits. -/
theorem takeEntry_first {n q : Nat} {t : Sq} {x : Sub} (ht : (s.ch n).sqs.get q = t) (hempty : (s.ch n).fetched = []) (htwins : (s.ch n).twins q = false)
    (hx : subOfBytes n q (s.peek (t.base.toNat + t.head * 64) 64) = x) (hlinked : linked x = false) :
    s.takeEntry n q false = ((s.onSq n q fun t => { t with head := (t.head + 1) % (t.sizeM1 + 1) }).onCq n t.cq
      fun k => { k with reserved := k.reserved + 1 }).onCh n fun c => { c with fetched := [⟨x, s.peek (t.base.toNat + t.head * 64) 64, [], true, 0, false⟩] } := by
  unfold State.takeEntry
  extract_lets c t' a l second stage slots s1 s2 one bad1 bad2 x' v32
  have hstage : stage = false := by
    unfold stage c
    rw [hempty]
    rfl
  have hslots : slots = 1 := by
    unfold slots c
    rw [hstage, htwins]
    rfl
  have ht' : t' = t := ht
  have hl : l = s.peek (t.base.toNat + t.head * 64) 64 := by
    unfold l a
    rw [ht']
  have hx' : x' = x := by
    unfold x'
    rw [hl, hx]
  rw [if_neg Bool.false_ne_true, if_neg (by unfold c; rw [htwins]; decide)]
  unfold s2
  rw [hslots, ht', hx', hl]
  refine onCh_congr ?_
  rw [onCq_fetched, onSq_fetched, hempty, addFetched_nil hlinked]

/-- The chamber after that: the head of its SQ moved on, a completion slot reserved, the entry waiting. -/
theorem takeEntry_chamber {n q i : Nat} {l : List Fetched} :
    let u := ((s.onSq n q fun t => { t with head := (t.head + 1) % (t.sizeM1 + 1) }).onCq n i fun k => { k with reserved := k.reserved + 1 }).onCh n fun c =>
      { c with fetched := l }
    let t := (s.ch n).sqs.get q
    let k := (s.ch n).cqs.get i
    (u.ch n).fetched = l ∧ (u.ch n).sqs.get q = { t with head := (t.head + 1) % (t.sizeM1 + 1) } ∧ (u.ch n).cqs.get i = { k with reserved := k.reserved + 1 } := by
  simp [State.onSq, State.onCq]

/-- A fetch where the chamber's and the SQ's turn go on. -/
theorem fetch_turn {n q : Nat} {t : Sq} {x : Sub} (hn : s.turnCh = n) (hq : (s.ch n).turnSq = q) (ht : (s.ch n).sqs.get q = t)
    (hx : subOfBytes n q (s.peek (t.base.toNat + t.head * 64) 64) = x) (hserving : s.serving = true) (hleft : s.turnLeft ≠ 0)
    (hch : (s.ch n).turnLeft ≠ 0) (hsq : q < 16) (hf : (s.ch n).fetchable q = true) (htwins : (s.ch n).twins q = false) (hempty : (s.ch n).fetched = [])
    (hgood : s.mem.badBeats (t.base.toNat + t.head * 64) 64 = []) (hlinked : linked x = false) :
    ∃ u, exec (.sqEntryFetch .ok) s = .next u ∧ (u.ch n).fetched = [⟨x, s.peek (t.base.toNat + t.head * 64) 64, [], true, 0, false⟩] ∧
      (u.ch n).sqs.get q = { t with head := (t.head + 1) % (t.sizeM1 + 1) } ∧
      (u.ch n).cqs.get t.cq = { (s.ch n).cqs.get t.cq with reserved := ((s.ch n).cqs.get t.cq).reserved + 1 } ∧
      u = { s with chambers := u.chambers, turnLeft := s.turnLeft - 1 } := by
  subst hn hq
  obtain ⟨v, hv⟩ : ∃ v : State, v = { s.onCh s.turnCh (fun c => { c with turnLeft := c.turnLeft - 1 }) with turnLeft := s.turnLeft - 1 } := ⟨_, rfl⟩
  have hexec : exec (.sqEntryFetch .ok) s = .next (v.takeEntry s.turnCh (s.ch s.turnCh).turnSq false) := by
    refine congrArg Host.Outcome.next ((if_neg (by rw [hserving]; decide)).trans ?_)
    rw [pickCh_turn hleft hsq hf]
    dsimp only
    rw [pickSq_turn hch hf]
    dsimp only
    rw [ht, hgood, hv]
    rfl
  have hchamber : v.ch s.turnCh = { s.ch s.turnCh with turnLeft := (s.ch s.turnCh).turnLeft - 1 } := hv ▸ State.ch_onCh ..
  have hpeek : ∀ a, v.peek a 64 = s.peek a 64 := fun a => hv ▸ rfl
  rw [takeEntry_first (s := v) (t := t) (x := x) (by rw [hchamber]; exact ht) (by rw [hchamber]; exact hempty) (by rw [hchamber]; exact htwins)
    (by rw [hpeek]; exact hx) hlinked, hpeek] at hexec
  obtain ⟨hfetched, hsqs, hcqs⟩ := takeEntry_chamber (s := v) (n := s.turnCh) (q := (s.ch s.turnCh).turnSq) (i := t.cq)
    (l := [⟨x, s.peek (t.base.toNat + t.head * 64) 64, [], true, 0, false⟩])
  rw [hchamber] at hsqs hcqs
  dsimp only at hsqs hcqs
  rw [ht] at hsqs
  have hother : ∀ c, { v with chambers := c } = { s with chambers := c, turnLeft := s.turnLeft - 1 } := fun c => by rw [hv]; rfl
  exact ⟨_, hexec, hfetched, hsqs, hcqs, hother _⟩

/-! Dispatch. -/

/-- The only entry of a chamber, a complete one without a fence, is the next. -/
theorem nextEntry_only {ch : Nat} {f : Fetched} (hf : (s.ch ch).fetched = [f]) (hdone : f.done = true) (hfence : fence f.sub = false) :
    s.nextEntry ch = some (0, f) := by
  have hgo : s.mayGo [] f = true := by
    rw [State.mayGo, hdone, hfence]
    simp
  have hgoable : s.goable ch = [(0, f)] := by
    rw [State.goable, hf]
    simp [hgo]
  rw [State.nextEntry, hgoable]
  cases hfirst : priority f.sub with
  | true => simp [hfirst]
  | false => by_cases hlate : 16 ≤ f.passed <;> simp [hfirst, hlate]

section
variable {ch : Nat} {f : Fetched} (hf : (s.ch ch).fetched = [f]) (hstages : f.stages = []) (hraw : f.raw.length = 64) (hop : f.sub.opcode ≠ 0x54)
include hf

theorem dispatch_takes : (s.onCh ch fun c => { c with
    fetched := (c.fetched.take 0).map (fun g => if priority f.sub && !priority g.sub then { g with passed := g.passed + 1 } else g) ++
      c.fetched.drop (0 + 1) }) = s.onCh ch fun c => { c with fetched := [] } := by
  refine onCh_congr ?_
  rw [hf]
  rfl

include hraw

theorem dispatch_refused {st : BitVec 16} {d : BitVec 64} (hcheck : (s.onCh ch fun c => { c with fetched := [] }).check f.sub = some (st, d)) :
    s.dispatch ch 0 f = (s.onCh ch fun c => { c with fetched := [] }).refuseSub f.sub false st d := by
  unfold State.dispatch
  rw [dispatch_takes hf]
  refine (if_neg (by rw [hraw]; decide)).trans ?_
  rw [State.checkAll, hcheck]

include hop hstages

theorem dispatch_accepted (hcheck : (s.onCh ch fun c => { c with fetched := [] }).check f.sub = none) :
    s.dispatch ch 0 f = (s.onCh ch fun c => { c with fetched := [] }).accept f.sub false [] := by
  unfold State.dispatch
  rw [dispatch_takes hf]
  refine (if_neg (by rw [hraw]; decide)).trans ?_
  rw [State.checkAll, hcheck, hstages]
  dsimp only
  rw [if_pos hop]

end

/-! Clamps, completions and status words. -/

theorem grant_only {c : Cmd} (hcmds : s.cmds = [c]) (hwait : c.granted = false) (hfree : s.clamps = []) (hwants : s.squeeze c.sub.chamber c.wants = c.wants)
    (hroom : c.wants.length ≤ s.clampRoom c.sub.chamber) :
    s.tryGrant c.sub = ({ s with clamps := c.wants, cmds := [{ c with granted := true }] }, true) := by
  have hself : isCmd c.sub c = true := by simp [isCmd]
  have hcmd : s.cmd? c.sub = some c := by simp [State.cmd?, hcmds, hself]
  have hahead : s.ahead c.sub = [] := by simp [State.ahead, hcmds, hself]
  have hgrantable : s.grantable c.sub c.wants = true := by
    simp [State.grantable, hfree, hahead, hroom]
  rw [State.tryGrant, hcmd]
  dsimp only
  rw [if_neg (ne_true_of_eq_false hwait), hwants, if_pos hgrantable, State.onCmd, hfree, hcmds]
  simp [hself]

theorem finBytes_length (f : Fin) (n : Nat) (b : Bool) : (finBytes f n b).length = 16 := by
  simp [finBytes, leBytes_length]

theorem settleSq_open {ch q : Nat} (h : ((s.ch ch).sqs.get q).closing = false) : s.settleSq ch q = s := by
  rw [State.settleSq]
  exact if_neg (by rw [h]; exact Bool.false_ne_true)

theorem onCq_sqs (n m q : Nat) (g : Cq → Cq) : ((s.onCq n q g).ch m).sqs = (s.ch m).sqs := by
  by_cases h : m = n
  · rw [h, State.onCq, State.ch_onCh]
  · rw [State.onCq, State.ch_onCh_ne _ _ _ _ h]

theorem onCq_onCq (n q : Nat) (f g : Cq → Cq) : (s.onCq n q f).onCq n q g = s.onCq n q (g ∘ f) := by
  rw [State.onCq, State.onCq, onCh_onCh, State.onCq]
  refine onCh_congr ?_
  simp only [Function.comp_apply, modify_modify]

theorem onCq_congr {n q : Nat} {f g : Cq → Cq} (h : f ((s.ch n).cqs.get q) = g ((s.ch n).cqs.get q)) : s.onCq n q f = s.onCq n q g := by
  rw [State.onCq, State.onCq]
  refine onCh_congr ?_
  rw [SMap.modify, SMap.modify, h]

/-- The CQ after a completion was posted in it. -/
def postedCq (f : Fin) (k : Cq) : Cq := { k with
  reserved := k.reserved - 1
  tail := if k.sizeM1 ≤ k.tail then 0 else k.tail + 1
  phase := if k.sizeM1 ≤ k.tail then !k.phase else k.phase
  posted := k.posted ++ [(f.sq, f.cid)] }

/-- A completion posted in a CQ that is in use, of an SQ that is not closing. -/
theorem post_ok {f : Fin} (hquar : ((s.ch f.chamber).cqs.get ((s.ch f.chamber).sqs.get f.sq).cq).quar = false)
    (hclosing : ((s.ch f.chamber).sqs.get f.sq).closing = false) :
    let t := (s.ch f.chamber).sqs.get f.sq
    let k := (s.ch f.chamber).cqs.get t.cq
    let u := (({ s with fins := s.fins.erase f } : State).onCq f.chamber t.cq (postedCq f)).poke (k.base.toNat + k.tail * 16) (finBytes f t.head k.phase)
    s.post f false = (if k.irqEn then (u.onCh f.chamber fun c => { c with irqPend := setBit c.irqPend t.cq true }).cause 2 else u).jot
      f.chamber f.sq f.cid 2 := by
  intro t k u
  unfold State.post
  extract_lets s1 s2 s3 wrap s4 s5
  have hs4 : s4 = u := congrArg (fun r : State => r.poke _ _) ((onCq_onCq (s := s1) ..).trans (onCq_congr rfl))
  have hs5 : s5 = if k.irqEn then (u.onCh f.chamber fun c => { c with irqPend := setBit c.irqPend t.cq true }).cause 2 else u := by
    unfold s5
    rw [if_neg (ne_true_of_eq_false hquar), if_neg Bool.false_ne_true, hs4]
  have husq : (u.ch f.chamber).sqs = (s.ch f.chamber).sqs := onCq_sqs ..
  rw [hs5]
  refine settleSq_open ?_
  by_cases hirq : k.irqEn = true
  · rw [if_pos hirq]
    refine (congrArg (fun c => (c.sqs.get f.sq).closing) (State.ch_onCh (s := u) ..)).trans ?_
    rwa [husq]
  · rw [if_neg hirq]
    exact (congrArg (fun c => (c.get f.sq).closing) husq).trans hclosing

/-- What a posted completion changes: its entry and its CQ, and with the CQ's interrupt on the cause. -/
theorem post_effect {f : Fin} (hquar : ((s.ch f.chamber).cqs.get ((s.ch f.chamber).sqs.get f.sq).cq).quar = false)
    (hclosing : ((s.ch f.chamber).sqs.get f.sq).closing = false) :
    let t := (s.ch f.chamber).sqs.get f.sq
    let k := (s.ch f.chamber).cqs.get t.cq
    let u := s.post f false
    u.fins = s.fins.erase f ∧ u.peek (k.base.toNat + k.tail * 16) 16 = finBytes f t.head k.phase ∧
      (∀ p, p < k.base.toNat + k.tail * 16 ∨ k.base.toNat + k.tail * 16 + 16 ≤ p → u.mem.bytes.get p = s.mem.bytes.get p) ∧
      (u.ch f.chamber).cqs.get t.cq = postedCq f k ∧ bit u.port.irqStatus 2 = (bit s.port.irqStatus 2 || k.irqEn) ∧ u.cmds = s.cmds ∧ u.sync = s.sync := by
  intro t k u
  have hu : u = _ := post_ok hquar hclosing
  obtain ⟨v, hv⟩ : ∃ v, v = ({ s with fins := s.fins.erase f } : State).onCq f.chamber t.cq (postedCq f) := ⟨_, rfl⟩
  obtain ⟨w, hw⟩ : ∃ w, w = v.poke (k.base.toNat + k.tail * 16) (finBytes f t.head k.phase) := ⟨_, rfl⟩
  have hpeek : w.mem.read (k.base.toNat + k.tail * 16) 16 = finBytes f t.head k.phase := by
    have h := peek_poke v (k.base.toNat + k.tail * 16) (finBytes f t.head k.phase)
    rwa [finBytes_length, ← hw] at h
  have hout : ∀ p, p < k.base.toNat + k.tail * 16 ∨ k.base.toNat + k.tail * 16 + 16 ≤ p → w.mem.bytes.get p = s.mem.bytes.get p := by
    have h := poke_get_out v (k.base.toNat + k.tail * 16) (finBytes f t.head k.phase)
    rwa [finBytes_length, ← hw, show v.mem = s.mem by rw [hv]; rfl] at h
  have hcq : (w.ch f.chamber).cqs.get t.cq = postedCq f k := by
    rw [hw, hv]
    exact State.ch_onCq ..
  have hfins : w.fins = s.fins.erase f := by rw [hw, hv]; rfl
  have hport : w.port = s.port := by rw [hw, hv]; rfl
  have hcmds : w.cmds = s.cmds := by rw [hw, hv]; rfl
  have hsync : w.sync = s.sync := by rw [hw, hv]; rfl
  rw [← hv, ← hw] at hu
  clear_value u
  clear hw hv
  rw [hu]
  by_cases hirq : k.irqEn = true
  · rw [if_pos hirq, hirq, Bool.or_true]
    exact ⟨hfins, hpeek, hout, (congrArg (fun c => c.cqs.get t.cq) (State.ch_onCh (s := w) ..)).trans hcq, bit_setBit _ (by decide) _, hcmds, hsync⟩
  · rw [if_neg hirq, Bool.eq_false_iff.mpr hirq, Bool.or_false]
    exact ⟨hfins, hpeek, hout, hcq, congrArg (fun p => bit p.irqStatus 2) hport, hcmds, hsync⟩

/-- A command's external status block while it runs. -/
theorem putStatus_running {x : Sub} {n : Nat} {l : List (BitVec 64)} (hlong : isLong x = true) (hext : extStatus x = true) :
    let u := s.putStatus x false 2 0 n l
    u.peek x.statusAddr.toNat 8 = leBytes 8 (statusWord 2 0 n).toNat ∧
      (∀ p, p < x.statusAddr.toNat ∨ x.statusAddr.toNat + 64 ≤ p → u.mem.bytes.get p = s.mem.bytes.get p) ∧ u = { s with mem := u.mem } := by
  intro u
  have hu : u = _ := putStatus_ext hlong hext s 2 0 n l
  have hwords := words_length l
  refine ⟨?_, fun p hp => ?_, ?_⟩
  · have hpeek := peek_poke (s.poke (x.statusAddr.toNat + 8) ((l.take 7).flatMap fun w => leBytes 8 w.toNat)) x.statusAddr.toNat
      (leBytes 8 (statusWord 2 0 n).toNat)
    rw [leBytes_length] at hpeek
    rw [hu]
    exact hpeek
  · rw [hu, poke_get_out _ _ _ _ (by rw [leBytes_length]; omega), poke_get_out _ _ _ _ (by omega)]
  · rw [hu]
    rfl

end

/-- Settles O18: the two rows of the queues, then the three that answer. -/
theorem entriesAreFetchedAndAnswered : Obligations.EntriesAreFetchedAndAnswered := by
  refine ⟨fun s => ⟨?_, ?_⟩, fun s e herr => ⟨?_, ?_, ?_⟩⟩
  · intro hserving hleft hch hturn hsq hf htwins hempty n q t x hgood hlinked
    exact fetch_turn rfl rfl rfl rfl hserving hleft hturn hsq hf htwins hempty hgood hlinked
  · intro ch e f hserving hf hdone hstages hraw hsub hop hfence u
    have hnext : ∀ t, s.dispatch ch 0 f = t → exec (.commandDispatch ch e) s = .next t := by
      rintro t rfl
      refine congrArg Host.Outcome.next ((if_neg (by rw [hserving]; decide)).trans ?_)
      rw [nextEntry_only hf hdone hfence]
    have hempty : (u.ch ch).fetched = [] := congrArg Chamber.fetched (State.ch_onCh ..)
    constructor
    · intro hcheck
      have hstatus := fun v : State => putStatus_ch_fetched v f.sub false 1 0 0 (List.replicate 7 0)
      rw [hsub] at hstatus
      exact ⟨_, hnext _ (dispatch_accepted hf hstages hraw hop hcheck), (hstatus _).trans hempty, State.putStatus_fins .., _,
        State.putStatus_cmds .., rfl, rfl, rfl, rfl⟩
    · intro st d hcheck
      obtain ⟨tu, po, su, cn, cw, un, chs, hframe, -, hfetched⟩ := refuseSub_frame (s := u) (x := f.sub) (st := st) (d := d)
        (by rw [hsub, hempty]; exact nofun)
      refine ⟨_, hnext _ (dispatch_refused hf hraw hcheck), ?_, (congrArg State.cmds hframe).trans rfl, _, (congrArg State.fins hframe).trans rfl⟩
      exact List.eq_nil_iff_forall_not_mem.mpr fun g hg => List.not_mem_nil (hempty ▸ (hfetched ch g hg : g ∈ (u.ch ch).fetched))
  · intro c hcmds hwait hfree hwants hroom
    have hgrant := grant_only hcmds hwait hfree hwants hroom
    refine congrArg Host.Outcome.next ?_
    rw [hcmds]
    simp [hwait, hgrant]
  · intro f l hfins t k hon hquar hclosing
    have hexec : exec (.completionPost e) s = .next (s.post f false) := by
      refine congrArg Host.Outcome.next ?_
      rw [hfins, List.find?_cons_of_pos (by simp only [Bool.or_eq_true]; exact .inr hon), herr]
    obtain ⟨hfins', hpeek, hout, hcq, hirq, hcmds, hsync⟩ := post_effect (f := f) hquar hclosing
    refine ⟨_, hexec, hfins'.trans ?_, hpeek, hout, hcq, hirq, hcmds, hsync⟩
    rw [hfins, List.erase_cons_head]
  · intro ch q cid c hcmd hphase htwin hlong hext
    have hexec : exec (.statusWordUpdate ch q cid e) s = .next (s.putStatus c.sub false 2 0 c.units c.res) := by
      refine congrArg Host.Outcome.next ?_
      rw [hcmd]
      dsimp only
      rw [if_pos (.inl hphase), herr, htwin, hphase]
      rfl
    exact ⟨_, hexec, putStatus_running hlong hext⟩

end Sys2Proof.Proofs
end

section
/-! PROOFS. The bitmaps (R145-R148) and the regions (R140-R144, R163, R166). -/

namespace Sys2Proof.Proofs
open Sys2Proof Sys2Proof.Machine Sys2Proof.Laws

/-! The bits of a granule. -/

section
variable {t : Stile} {row loc l : Nat} {b : GBits}

/-- What the first access to a row after a flip makes of an entry of the row. -/
def absorbedBits (b : GBits) : GBits := if b = gTaken then gClean else b

theorem smLookup_absorbed (row l : Nat) (es : List (Nat × GBits)) :
    smLookup l (es.map fun p => if p.1 / 512 = row ∧ p.2 = gTaken then (p.1, gClean) else p) =
      if l / 512 = row then (smLookup l es).map absorbedBits else smLookup l es := by
  induction es with
  | nil => simp [smLookup]
  | cons p es ih =>
    obtain ⟨k, v⟩ := p
    by_cases hk : k = l
    · by_cases hrow : k / 512 = row ∧ v = gTaken
      · simp [smLookup, hk ▸ hrow, hk, absorbedBits]
      · rw [List.map_cons, if_neg hrow, smLookup, if_pos hk, smLookup, if_pos hk]
        split
        · next h => rw [Option.map_some, absorbedBits, if_neg fun hv => hrow ⟨hk ▸ h, hv⟩]
        · rfl
    · have hkey : (if k / 512 = row ∧ v = gTaken then (k, gClean) else (k, v)).1 = k := by split <;> rfl
      rw [List.map_cons, smLookup, if_neg (by rwa [hkey]), ih, smLookup, if_neg hk]

theorem absorb_fresh (h : t.rowFlip.get row = t.flips) : t.absorb row = t := if_pos h

theorem absorb_flips : (t.absorb row).flips = t.flips := by
  rw [Stile.absorb]
  split <;> rfl

theorem absorb_rowFlip_self : (t.absorb row).rowFlip.get row = t.flips := by
  rw [Stile.absorb]
  split
  · assumption
  · exact get_set_self ..

theorem absorb_rowFlip_ne {r : Nat} (h : r ≠ row) : (t.absorb row).rowFlip.get r = t.rowFlip.get r := by
  rw [Stile.absorb]
  split
  · rfl
  · exact get_set_ne _ _ h

theorem absorb_get_ne (h : l / 512 ≠ row) : (t.absorb row).gran.get l = t.gran.get l := by
  rw [Stile.absorb]
  split
  · rfl
  · rw [SMap.get, SMap.get]
    dsimp only
    rw [smLookup_absorbed, if_neg h]

theorem absorb_get_stale (h : t.rowFlip.get (l / 512) ≠ t.flips) :
    (t.absorb (l / 512)).gran.get l = ((smLookup l t.gran.entries).map absorbedBits).getD t.gran.dflt := by
  rw [Stile.absorb, if_neg h, SMap.get]
  dsimp only
  rw [smLookup_absorbed, if_pos rfl]

theorem absorb_lookup_ne (h : l / 512 ≠ row) : smLookup l (t.absorb row).gran.entries = smLookup l t.gran.entries := by
  rw [Stile.absorb]
  split
  · rfl
  · exact (smLookup_absorbed ..).trans (if_neg h)

theorem absorb_dflt : (t.absorb row).gran.dflt = t.gran.dflt := by
  rw [Stile.absorb]
  split <;> rfl

theorem lookup_set_ne {m : SMap GBits} (h : l ≠ loc) : smLookup l (m.set loc b).entries = smLookup l m.entries := by
  rw [SMap.set]
  split
  · exact smLookup_erase_ne h _
  · exact (smLookup_insert_ne _ h _).trans (smLookup_erase_ne h _)

theorem bits_setBits_self : (t.setBits loc b).bits loc = b := by
  have hfresh : (t.setBits loc b).rowFlip.get (loc / 512) = (t.setBits loc b).flips := absorb_rowFlip_self.trans absorb_flips.symm
  rw [Stile.bits, absorb_fresh hfresh]
  exact get_set_self ..

/-- The bits of another granule stay, also where its row was not read since the flip. -/
theorem bits_setBits_ne (h : l ≠ loc) : (t.setBits loc b).bits l = t.bits l := by
  rw [Stile.bits, Stile.bits]
  by_cases hrow : l / 512 = loc / 512
  · have hfresh : (t.setBits loc b).rowFlip.get (l / 512) = (t.setBits loc b).flips := hrow ▸ absorb_rowFlip_self.trans absorb_flips.symm
    rw [absorb_fresh hfresh, hrow]
    exact get_set_ne _ _ h
  · have hflip : (t.setBits loc b).rowFlip.get (l / 512) = t.rowFlip.get (l / 512) := absorb_rowFlip_ne hrow
    have hflips : (t.setBits loc b).flips = t.flips := absorb_flips
    have hlookup : smLookup l (t.setBits loc b).gran.entries = smLookup l t.gran.entries := (lookup_set_ne h).trans (absorb_lookup_ne hrow)
    have hdflt : (t.setBits loc b).gran.dflt = t.gran.dflt := (set_dflt ..).trans absorb_dflt
    by_cases hf : t.rowFlip.get (l / 512) = t.flips
    · rw [absorb_fresh (by rw [hflip, hf, hflips]), absorb_fresh hf, SMap.get, SMap.get, hlookup, hdflt]
    · rw [absorb_get_stale (by rwa [hflip, hflips]), absorb_get_stale hf, hlookup, hdflt]

end

section
variable {s : State} {g g' : Nat} {b : GBits} {p : Nat × Nat}

theorem place_setGran : (s.setGran g b).place g' = s.place g' := by
  rw [setGran_frame]
  rfl

/-- Setting a granule's bits changes the granules at its place alone. -/
theorem gran_setGran (h : s.place g = some p) : (s.setGran g b).gran g' = if s.place g' = some p then b else s.gran g' := by
  have hset : s.setGran g b = s.onSt p.1 fun t => t.setBits p.2 b := by rw [State.setGran, h]
  rw [State.gran, place_setGran, State.gran, hset]
  generalize s.place g' = q
  cases q with
  | none => rfl
  | some q =>
    obtain ⟨st, l⟩ := q
    obtain ⟨st0, loc⟩ := p
    dsimp only
    by_cases hst : st = st0
    · subst hst
      rw [State.st_onSt]
      by_cases hl : l = loc
      · subst hl
        rw [if_pos rfl, bits_setBits_self]
      · rw [bits_setBits_ne hl, if_neg (by simp [hl])]
    · rw [State.st_onSt_ne _ _ _ _ hst, if_neg (by simp [hst])]

theorem gran_setGran_self (h : (s.place g).isSome = true) : (s.setGran g b).gran g = b := by
  obtain ⟨p, hp⟩ := Option.isSome_iff_exists.mp h
  rw [gran_setGran hp, if_pos hp]

/-- A granule in state `b` stays so when another is set to `b`. -/
theorem gran_setGran_keep (h : s.gran g' = b) : (s.setGran g b).gran g' = b := by
  cases hp : s.place g with
  | none =>
    rw [State.setGran, hp]
    exact h
  | some p =>
    rw [gran_setGran hp]
    split
    · rfl
    · exact h

theorem place_dirtyRange {lo n : Nat} : (s.dirtyRange lo n).place g = s.place g := by
  rw [dirtyRange_frame]
  rfl

theorem gran_dirtyRange {lo n k : Nat} (hk : k < n) (hplaced : ∀ k, k < n → (s.place (lo + k)).isSome = true) : (s.dirtyRange lo n).gran (lo + k) = gDirty := by
  induction n with
  | zero => omega
  | succ n ih =>
    have hstep : s.dirtyRange lo (n + 1) = (s.dirtyRange lo n).setGran (lo + n) gDirty := by
      rw [State.dirtyRange, List.range_succ, List.foldl_append]
      rfl
    rw [hstep]
    by_cases hkn : k = n
    · rw [hkn]
      exact gran_setGran_self (by rw [place_dirtyRange]; exact hplaced n (Nat.lt_succ_self n))
    · exact gran_setGran_keep (ih (by omega) fun j hj => hplaced j (by omega))

end

section
variable {s : State} {x : Sub} {e : Ext} {i : Nat}

/-! The commands. -/

theorem declared_frame (s : State) (rs : SMap (Option Region)) (lo n : Nat) : let v := ({ s with regions := rs } : State).dirtyRange lo n
    v.regions = rs ∧ v = { s with regions := v.regions, stiles := v.stiles } := by
  intro v
  have hv : v = { s with regions := rs, stiles := v.stiles } := dirtyRange_frame ..
  have hregions : v.regions = rs := congrArg State.regions hv
  exact ⟨hregions, by rw [hregions]; exact hv⟩

theorem bodyRegionDeclare_ok (hread : e.readErr = false) (hcoord : coordFault (s.peek x.c.toNat 256) = none)
    (hfits : coordFits (coordOf (s.peek x.c.toNat 256)) x.b.toNat = true)
    (hplaced : ∀ k, k < x.b.toNat / 65536 → (s.place (x.a.toNat / 65536 + k)).isSome = true)
    (hregion : s.meetsRegion (x.a.toNat / 65536) (x.a.toNat / 65536 + x.b.toNat / 65536) = false)
    (hreserve : s.meetsReserve (x.a.toNat / 65536) (x.a.toNat / 65536 + x.b.toNat / 65536) = false)
    (hquota : (s.regionsOf x.chamber).length < (s.ch x.chamber).quotaRegion) (hfree : s.freeRegion = some i) :
    bodyRegionDeclare x e false s = done (State.dirtyRange { s with
      regions := s.regions.set i (some ⟨x.chamber, x.a.toNat / 65536, x.b.toNat, coordOf (s.peek x.c.toNat 256), 128, 0, 1, 0, 0, .const false⟩) }
        (x.a.toNat / 65536) (x.b.toNat / 65536)) (BitVec.ofNat 64 i) := by
  have hall : ((List.range (x.b.toNat / 65536)).any fun i => (s.place (x.a.toNat / 65536 + i)).isNone) = false := by
    rw [List.any_eq_false]
    intro k hk
    rw [Option.isNone_iff_eq_none]
    exact Option.isSome_iff_ne_none.mp (hplaced k (List.mem_range.mp hk))
  unfold bodyRegionDeclare
  extract_lets l base n c
  rw [if_neg (ne_true_of_eq_false hread), hcoord]
  dsimp only
  rw [if_neg fun h => Bool.false_ne_true h.1, if_neg (by unfold c l; rw [hfits]; decide), if_neg (ne_true_of_eq_false hall),
    if_neg (by unfold base n; rw [hregion, hreserve]; decide), if_neg (Nat.not_le.mpr hquota), hfree]

theorem bodyRegionRetire_ok {r : Region} (hr : s.region x.handle.toNat = some r) (hidle : s.regionBusy r = false) (hblocks : s.cap.blocks = []) :
    bodyRegionRetire x s = done { s with regions := s.regions.set x.handle.toNat none } 0 := by
  rw [bodyRegionRetire, hr]
  exact if_neg (by rw [hidle, hblocks]; exact Bool.false_ne_true)

end

/-- Settles O19: the four bodies, with the rule of `dirtyRange` for the granules of a new region. -/
theorem regionsAreDeclaredAndRetired : Obligations.RegionsAreDeclaredAndRetired := by
  intro s x0 x e
  refine ⟨fun i hheld hread => ?_, fun r hheld hr hidle hblocks => ?_, fun hheld => ?_, fun hheld => ?_⟩
  · intro l base n hcoord hfits hplaced hregion hreserve hquota hfree
    have hends := ends_runOp (runs_regionDeclare hheld) hheld.2 (bodyRegionDeclare_ok hread hcoord hfits hplaced hregion hreserve hquota hfree)
      ((congrArg State.cmds (dirtyRange_frame ..)).trans rfl) (by decide)
    obtain ⟨hregions, hframe⟩ := declared_frame s _ base n
    exact ⟨_, hends, hregions, fun k hk => gran_dirtyRange hk hplaced, hframe⟩
  · exact ends_runOp (runs_regionRetire hheld) hheld.2 (bodyRegionRetire_ok hr hidle hblocks) rfl (by decide)
  · exact ends_runOp (runs_drainHint hheld) hheld.2 rfl rfl (by decide)
  · exact ends_runOp (runs_replicaSet hheld) hheld.2 rfl rfl (by decide)

end Sys2Proof.Proofs
end

section
/-! PROOFS. Captures: their start, freeze, flip and end (R149-R152, R174, R175). -/

namespace Sys2Proof.Proofs
open Sys2Proof Sys2Proof.Machine Sys2Proof.Laws

/-! What the log, copies, granules and the requests that were held leave unchanged. -/

/-- A state without what they may change: the log and its notices, the units' registers, stiles, captures, keys and memory. -/
def steady (s : State) : State := { s with
  timeUsed := 0, port := State.reset.port, sump := State.reset.sump, chain := State.reset.chain, chainW := State.reset.chainW
  units := .const (State.reset.un 0), stiles := .const (State.reset.st 0), cap := State.reset.cap, mem := State.reset.mem, free := 0
  stage := State.reset.stage, ciph := State.reset.ciph, keys := State.reset.keys }

theorem steady_foldl {α : Type} {f : State → α → State} (hf : ∀ s a, steady (f s a) = steady s) (l : List α) (s : State) :
    steady (l.foldl f s) = steady s := by
  induction l generalizing s with
  | nil => rfl
  | cons i l ih => rw [List.foldl_cons, ih, hf]

theorem steady_ite {c : Prop} [Decidable c] {u v s : State} (hu : steady u = steady s) (hv : steady v = steady s) :
    steady (if c then u else v) = steady s := by
  rw [apply_ite steady, hu, hv, ite_self]

section
variable (s : State)

theorem steady_log (c : BitVec 16) (v k i : Nat) (ch : Option Nat) (d : List Byte) : steady (s.log c v k i ch d) = steady s := by
  rw [log_frame]; rfl

theorem steady_logPartner (c : BitVec 16) (k i : Nat) (ch : Option Nat) (d : List Byte) : steady (s.logPartner c k i ch d) = steady s :=
  steady_log ..

theorem steady_relevel (ch : Nat) : steady (s.relevel ch) = steady s := by
  obtain ⟨f, cap, tu, po, su, cn, cw, h⟩ := relevel_frame s ch
  rw [h]; rfl

theorem steady_dropShares (f g : Copy → Bool) : steady (s.dropShares f g) = steady s := steady_foldl steady_relevel ..

theorem steady_memReq (r : HReq) : steady (s.memReq r) = steady s := by
  unfold State.memReq
  extract_lets a
  split <;> rfl

theorem steady_forward (st : Nat) (r : HReq) : steady (s.forward st r) = steady s := steady_memReq s r

theorem steady_releaseAll (st : Nat) : steady (s.releaseAll st) = steady s := steady_foldl (fun _ _ => steady_forward ..) ..

theorem steady_setGran (g : Nat) (b : GBits) : steady (s.setGran g b) = steady s := by
  rw [setGran_frame]; rfl

theorem steady_capUndo (r : CapRun) : steady (s.capUndo r) = steady s :=
  steady_foldl (fun _ _ => steady_ite (steady_setGran ..) (steady_ite (steady_setGran ..) rfl)) ..

/-- Whose turn the freeze is changes nothing else. -/
theorem askFreeze_frame (who : Option Nat) : ∃ fz, s.askFreeze who = { s with frz := fz } := by
  unfold State.askFreeze
  split <;> exact ⟨_, rfl⟩

theorem nextFreeze_frame : ∃ fz, s.nextFreeze = { s with frz := fz } := by
  unfold State.nextFreeze
  split
  · split
    · exact ⟨_, rfl⟩
    · exact (askFreeze_frame ..).imp fun _ h => h
  · exact ⟨_, rfl⟩

theorem dropFreeze_frame (who : Option Nat) : ∃ fz, s.dropFreeze who = { s with frz := fz } := by
  unfold State.dropFreeze
  extract_lets fr s1
  split
  · exact (nextFreeze_frame ..).imp fun _ h => h
  · exact ⟨_, rfl⟩

theorem steady_capClear (r : CapRun) : ∃ fz, steady (s.capClear r) = { steady s with frz := fz } ∧ (s.frz.asker ≠ some none → fz.hold = s.frz.hold) := by
  have hs2 := (steady_dropShares (s.stileList.foldl State.releaseAll s) (fun _ => true) (fun _ => false)).trans (steady_foldl steady_releaseAll ..)
  unfold State.capClear
  extract_lets s1 s2 ca ci sg s3 s4
  have hs3 : steady s3 = steady s := hs2
  have hfrz : s3.frz = s.frz := (congrArg State.frz hs3).trans rfl
  obtain ⟨fz, h4⟩ := dropFreeze_frame s3 none
  have hsteady : steady s4 = { steady s with frz := fz } := by
    rw [← hs3, show s4 = _ from h4]
    rfl
  refine ⟨fz, ?_, fun hasker => ?_⟩
  · split
    · exact hsteady
    · exact hsteady
  · have hnot : s3.dropFreeze none = { s3 with frz := { s3.frz with waiting := s3.frz.waiting.filter (· != none) } } :=
      if_neg (fun h => hasker (hfrz ▸ h))
    have hfz := congrArg (fun t => t.frz.hold) (h4.symm.trans hnot)
    exact hfz.trans ((congrArg Freeze.hold hfrz :))

/-- After a capture was taken out none runs and no block is under way. -/
theorem capClear_cap (r : CapRun) : (s.capClear r).cap.run = none ∧ (s.capClear r).cap.blocks = [] := by
  unfold State.capClear
  extract_lets s1 s2 ca ci sg s3 s4
  have h : s4.cap = s3.cap := by
    obtain ⟨fz, h⟩ := dropFreeze_frame s3 none
    exact (congrArg State.cap h).trans rfl
  split
  · exact ⟨congrArg Cap.run h, congrArg Cap.blocks h⟩
  · exact ⟨congrArg Cap.run h, congrArg Cap.blocks h⟩

end

section
variable {s : State} {x y : Sub} {c : Cmd} {r : CapRun} {st : BitVec 16}

/-- The end of a command whose status is no refusal: its completion, and what it held is gone. -/
theorem finish_frame {ph n : Nat} {v : BitVec 64} {l : List (BitVec 64)} (hc : s.cmd? x = some c) (htwin : c.twin = false) (hst : isRefusal st = false) :
    ∃ cl ch m tr, s.finish x ph st v n l = { s with
      fins := s.fins ++ [⟨x.chamber, x.sq, x.cid, st, v⟩], cmds := s.cmds.filter (fun d => !isCmd x d), clamps := cl, chambers := ch, mem := m, trk := tr } := by
  rw [finish_eq hc htwin hst, pushFin_eq, putStatus_frame]
  exact ⟨_, _, _, _, rfl⟩

/-- The report of a capture of a command: its record, phase 0, and the command's completion. -/
theorem capReport_ends (hcmd : r.cmd = some x) (hc : s.cmd? x = some c) (htwin : c.twin = false) (hst : isRefusal st = false) :
    let t := s.capReport r st false
    t.fins = s.fins ++ [⟨x.chamber, x.sq, x.cid, st, r.id⟩] ∧ t.cmds = s.cmds.filter (fun d => !isCmd x d) ∧ t.cap = s.cap ∧ t.frz = s.frz ∧
      (t.un r.chamber).cap.phase = 0 := by
  intro t
  let u := (s.useTime.onCapRegs r.chamber fun c => { c with
    stats := keep64 (c.stats ++ [r.record st s.useTime.now false]), degraded := false }).capPhase r.chamber 0
  have ht : t = u.finish x (termPhase st) st r.id r.drained r.words := by
    unfold t State.capReport State.capReportAs
    rw [hcmd]
    rfl
  have hu : (u.un r.chamber).cap.phase = 0 := congrArg (fun u => u.cap.phase) (State.un_onUn ..)
  obtain ⟨cl, ch, m, tr, hframe⟩ := finish_frame (s := u) (ph := termPhase st) (n := r.drained) (v := r.id) (l := r.words) hc htwin hst
  rw [ht, hframe]
  exact ⟨rfl, rfl, rfl, rfl, hu⟩

/-- The running capture ends without an object. -/
theorem capFail_ends (hcap : s.capturing r x) (hst : isRefusal st = false) : CaptureEnded r x st s (s.capFail st false) ∧
    (s.frz.asker ≠ some none → (s.capFail st false).frz.hold = s.frz.hold) := by
  obtain ⟨hrun, hcmd, c, hc, htwin⟩ := hcap
  obtain ⟨hnone, hblocks⟩ := capClear_cap (s.capUndo r) r
  have hundo := steady_capUndo s r
  obtain ⟨fz, hsteady, hhold⟩ := steady_capClear (s.capUndo r) r
  rw [hundo] at hsteady
  have hcmds : ((s.capUndo r).capClear r).cmds = s.cmds := (congrArg State.cmds hsteady).trans rfl
  have hfins : ((s.capUndo r).capClear r).fins = s.fins := (congrArg State.fins hsteady).trans rfl
  have hfrz : ((s.capUndo r).capClear r).frz = fz := (congrArg State.frz hsteady).trans rfl
  have hundofrz : (s.capUndo r).frz = s.frz := (congrArg State.frz hundo).trans rfl
  rw [hundofrz] at hhold
  have hc' : ((s.capUndo r).capClear r).cmd? x = some c := by rw [State.cmd?, hcmds]; exact hc
  obtain ⟨tfins, tcmds, tcap, tfrz, tphase⟩ := capReport_ends hcmd hc' htwin hst
  have hfail : s.capFail st false = ((s.capUndo r).capClear r).capReport r st false := by rw [State.capFail, hrun]
  rw [hfail]
  refine ⟨⟨(congrArg Cap.run tcap).trans hnone, (congrArg Cap.blocks tcap).trans hblocks, tphase, tcmds.trans (by rw [hcmds]),
    tfins.trans (by rw [hfins])⟩, fun hasker => ?_⟩
  rw [tfrz, hfrz]
  exact hhold hasker

/-! Waiting captures. -/

/-- A capture entered as waiting. -/
def enteredWait (r : CapRun) : CapWait := ⟨{ r with reserved := if r.sealed then r.leaves.length else 0 }, false⟩

theorem capEnter_command (hcmd : r.cmd = some x) (hstep : (s.un r.chamber).step.phase ≠ .applied) : let t := s.capEnter r
    t.cap.waits = s.cap.waits ++ [enteredWait r] ∧ t.fins = s.fins ∧ t.cmds = s.cmds ∧ t.mem = s.mem ∧ (t.un r.chamber).cap.phase = 1 ∧
      (r.sealed = true → (t.keys.get r.slot).reserved = (s.keys.get r.slot).reserved + r.leaves.length) := by
  unfold State.capEnter
  extract_lets n s1 t s2 cap1 s3
  have hunits : s1.un r.chamber = s.un r.chamber := by
    unfold s1
    split <;> rfl
  have hs2 : s2 = s1 := by
    refine if_neg ?_
    unfold t
    rw [hunits]
    simp [hstep]
  have hs1 : s1.cap = s.cap ∧ s1.fins = s.fins ∧ s1.cmds = s.cmds ∧ s1.mem = s.mem := by
    unfold s1
    split <;> exact ⟨rfl, rfl, rfl, rfl⟩
  have hkey : r.sealed = true → (s1.keys.get r.slot).reserved = (s.keys.get r.slot).reserved + r.leaves.length := fun hsealed => by
    unfold s1 n
    rw [if_pos hsealed, if_pos hsealed]
    exact congrArg KeySlot.reserved (get_modify_self ..)
  have hwait : (⟨{ r with reserved := n }, r.cmd.isNone && t.rejected⟩ : CapWait) = enteredWait r := by
    rw [enteredWait, hcmd]
    rfl
  obtain ⟨hcap, hfins, hcmds, hmem⟩ := hs1
  have hwaits : cap1.waits = s.cap.waits := by
    unfold cap1
    rw [hs2, hcap]
  have hcap3 : s3.cap.waits = s.cap.waits ++ [enteredWait r] := by
    refine (congrArg (· ++ _) hwaits).trans ?_
    rw [hwait]
  have hs3 : s3.fins = s2.fins ∧ s3.cmds = s2.cmds ∧ s3.mem = s2.mem ∧ s3.keys = s2.keys := ⟨rfl, rfl, rfl, rfl⟩
  rw [hs2] at hs3
  obtain ⟨hfins3, hcmds3, hmem3, hkeys3⟩ := hs3
  clear_value s3
  exact ⟨hcap3, hfins3.trans hfins, hcmds3.trans hcmds, hmem3.trans hmem, congrArg (fun u => u.cap.phase) (State.un_onUn ..),
    fun hsealed => (congrArg (fun k => (k.get r.slot).reserved) hkeys3).trans (hkey hsealed)⟩

theorem bodyCapture_waits {e : Ext} (hread : e.readErr = false) (hstore : x.handle.toNat = (s.ch x.chamber).store)
    (hnew : ∀ w ∈ s.cap.waits, w.run.cmd ≠ some x) (hall : x.b = 0) (hpolicy : fld x.a 1 0 = 1)
    (hr : s.capNew x.chamber (some x) 0 x.d false (bit x.a 2 || (s.ch x.chamber).immediate) (s.regionsOf x.chamber) = r)
    (hrefuse : s.capRefuse r (bit x.a 2) = none) : bodyCapture x e s = wait (s.capEnter r) := by
  unfold bodyCapture
  extract_lets c inc ids regs r'
  have hr : r' = r := by
    rw [← hr]
    unfold r' inc regs c
    rw [hpolicy, if_pos hall]
    rfl
  rw [if_neg (by simpa using hnew), if_neg (by rw [hread]; exact Bool.false_ne_true), if_neg fun h => h.2 hstore, hpolicy, hr, show (bit x.a 2 || 1 == 2) = bit x.a 2 from Bool.or_false _,
    hrefuse]

/-- A waiting capture that is taken away: its command ends, nothing else waits. -/
theorem waitEnd_ends {w : CapWait} (hwaits : s.cap.waits = [w]) (hcmd : w.run.cmd = some x) (hc : s.cmd? x = some c) (htwin : c.twin = false)
    (hst : isRefusal st = false) : let t := s.waitEnd w.run st false
    t.cap.waits = [] ∧ t.fins = s.fins ++ [⟨x.chamber, x.sq, x.cid, st, w.run.id⟩] ∧ t.cmds = s.cmds.filter (fun d => !isCmd x d) ∧
      (t.un w.run.chamber).cap.phase = 0 := by
  intro t
  unfold t State.waitEnd
  extract_lets cap1 s1 s2
  have hs2 : s2.cap = s1.cap ∧ s2.fins = s.fins ∧ s2.cmds = s.cmds := by
    unfold s2
    split <;> exact ⟨rfl, rfl, rfl⟩
  have hnone : s1.cap.waits = [] := by
    unfold s1
    simp [hwaits]
  obtain ⟨hcap, hfins, hcmds⟩ := hs2
  clear_value s2
  obtain ⟨tfins, tcmds, tcap, -, tphase⟩ := capReport_ends (s := s2) hcmd (by rw [State.cmd?, hcmds]; exact hc) htwin hst
  exact ⟨(congrArg Cap.waits (tcap.trans hcap)).trans hnone, by rw [tfins, hfins], by rw [tcmds, hcmds], tphase⟩

theorem bodyCaptureCancel_waiting {w : CapWait} (hwaits : s.cap.waits = [w]) (hch : w.run.chamber = x.chamber) :
    bodyCaptureCancel x s = done (s.waitEnd w.run sAborted false) 0 := by
  rw [bodyCaptureCancel, State.capCancel, hwaits, List.find?_cons_of_pos (by simp [hch])]
  rfl

/-- Another command keeps its record when a command ends. -/
theorem cmd?_filter_other {u : State} {d : Cmd} (hcmds : u.cmds = s.cmds.filter fun d => !isCmd y d) (hc : s.cmd? x = some d) (hne : isCmd y d = false) :
    u.cmd? x = some d := by
  have hother : ∀ k, isCmd x k = true → isCmd y k = false := by
    intro k hk
    have hd := List.find?_some hc
    simp only [isCmd, Bool.and_eq_true, beq_iff_eq] at hk hd
    simp only [isCmd] at hne ⊢
    rw [hk.1.1, hk.1.2, hk.2, ← hd.1.1, ← hd.1.2, ← hd.2]
    exact hne
  rw [State.cmd?, hcmds, List.find?_filter, ← hc, State.cmd?]
  congr 1
  funext k
  cases hk : isCmd x k
  · simp
  · simp [hother k hk]

/-! The start of a capture. -/

theorem onMedia_frame (h : Nat) (f : Media → Media) : ∃ sto, s.onMedia h f = { s with sto := sto } := by
  unfold State.onMedia
  split
  · split <;> exact ⟨_, rfl⟩
  · exact ⟨_, rfl⟩

theorem takeSerial_frame {h : Nat} {m : Media} (hm : s.mounted h = some m) : ∃ sto, s.takeSerial h = (m.nextSerial, { s with sto := sto }) := by
  rw [State.takeSerial, hm]
  obtain ⟨sto, hframe⟩ := onMedia_frame (s := s) h fun m => { m with
      nextSerial := m.nextSerial + 1
      serialHigh := if m.serialHigh < m.nextSerial then m.serialHigh + 64 else m.serialHigh
      journalSeq := if m.serialHigh < m.nextSerial then m.journalSeq + 1 else m.journalSeq }
  exact ⟨sto, congrArg _ hframe⟩

theorem foldl_stiles {α β : Type} {F : State × β → α → State × β} (hF : ∀ a q, ∃ st, (F a q).1 = { a.1 with stiles := st }) (l : List α) (a : State × β) :
    ∃ st, (l.foldl F a).1 = { a.1 with stiles := st } := by
  induction l generalizing a with
  | nil => exact ⟨_, rfl⟩
  | cons q l ih =>
    obtain ⟨st, h⟩ := hF a q
    obtain ⟨st', h'⟩ := ih (F a q)
    exact ⟨st', by rw [List.foldl_cons, h', h]⟩

/-- The sweep sets granules and notes which are written in full. -/
theorem prepare_frame (s : State) (r : CapRun) : ∃ st full, s.prepare r = { s with
    stiles := st, cap := { s.cap with run := s.cap.run.map fun u => { u with full := full } } } := by
  unfold State.prepare
  generalize hfold : List.foldl _ _ _ = p
  obtain ⟨u, full⟩ := p
  have hframe : ∃ st, u = { s with stiles := st } := by
    rw [show u = (u, full).1 from rfl, ← hfold]
    refine foldl_stiles (fun a q => ?_) ..
    dsimp only
    split_ifs <;> exact ⟨_, setGran_frame ..⟩
  obtain ⟨st, rfl⟩ := hframe
  exact ⟨st, full, rfl⟩

theorem running_state_frame (s : State) (x : Sub) (n : Nat) : ∃ k ch m, (running x s n).s = { s with cmds := k, chambers := ch, mem := m } := by
  unfold running
  extract_lets s1
  split
  · refine (?_ : ∃ k ch m, s1.putStatus _ _ _ _ _ _ = _)
    rw [putStatus_frame]
    exact ⟨_, _, _, rfl⟩
  · exact ⟨_, _, _, rfl⟩

/-- What a capture that starts leaves: its object ID, phase 3, the hold asked for. -/
theorem capStart_starts {w : CapWait} {m : Media} (hm : s.mounted w.run.store = some m) (hhold : s.frz.hold = false) (hack : s.frz.ack = false) :
    let t := s.capStart w
    ∃ r, t.cap.run = some r ∧ r.id = objId w.run.chamber w.run.store m.nextSerial ∧ r.phase = 3 ∧ r.chamber = w.run.chamber ∧ r.cmd = w.run.cmd ∧
      r.regs = w.run.regs ∧ r.label = w.run.label ∧ t.frz.hold = true ∧ t.frz.asker = some none ∧ t.clamps = s.clamps ∧
      t.cap.waits = s.cap.waits.filter (·.run != w.run) ∧ t.fins = s.fins := by
  intro t
  unfold t State.capStart
  obtain ⟨sto, hserial⟩ := takeSerial_frame hm
  rw [hserial]
  dsimp -zeta only
  extract_lets deg s2 src r cap2 s3 s4 s5
  obtain ⟨k, ch, me, hs5⟩ : ∃ k ch me, s5 = { s4 with cmds := k, chambers := ch, mem := me } := by
    unfold s5
    split
    · exact running_state_frame ..
    · exact ⟨_, _, _, rfl⟩
  obtain ⟨st, full, hprep⟩ := prepare_frame s5 r
  have hrun : s5.cap.run = some r := congrArg (fun t => t.cap.run) hs5
  have hwaits : s5.cap.waits = s.cap.waits.filter (·.run != w.run) := congrArg (fun t => t.cap.waits) hs5
  have hfrz : s5.frz = s.frz := (congrArg State.frz hs5).trans rfl
  have hclamps : s5.clamps = s.clamps := (congrArg State.clamps hs5).trans rfl
  have hfins : s5.fins = s.fins := (congrArg State.fins hs5).trans rfl
  have hfree : ¬((((s5.prepare r).capPhase r.chamber 3).frz.hold || ((s5.prepare r).capPhase r.chamber 3).frz.ack) = true) := by
    rw [hprep]
    exact hfrz ▸ (by rw [hhold, hack]; exact Bool.false_ne_true)
  rw [State.askFreeze, if_neg hfree, hprep]
  refine ⟨{ r with full := full }, ?_, rfl, rfl, rfl, rfl, rfl, rfl, rfl, rfl, hclamps, hwaits, hfins⟩
  exact congrArg (Option.map fun u => { u with full := full }) hrun

/-- The head of the waiting captures starts where nothing keeps it. -/
theorem captureStart_goes {w : CapWait} {l : List CapWait} (hwaits : s.cap.waits = w :: l) (hserving : s.serving = true) (hpass : s.pwr.state ≠ .pass)
    (hrun : s.cap.run = none) (hbound : s.atBoundary w = true) (hscope : s.scopeNow w.run = w.run.regs) (haway : s.awayMovers w.run = [])
    (hgrant : s.grantable w.run.sub (s.squeeze w.run.chamber w.run.clamps) = true) :
    exec (.captureStart w.run.chamber) s = .next (State.capStart { s with clamps := s.clamps ++ s.squeeze w.run.chamber w.run.clamps } w) := by
  have hstop : ¬(w.run.chamber ≠ w.run.chamber ∨ (!s.serving) = true ∨ s.pwr.state = .pass ∨ s.cap.run.isSome = true ∨ (!s.atBoundary w) = true) := by
    rw [hserving, hrun, hbound]
    simp [hpass]
  have hsame : s.rescope w = .ok (s, w) := by
    rw [State.rescope, hscope]
    exact if_pos rfl
  refine congrArg Host.Outcome.next ?_
  rw [hwaits]
  refine (if_neg hstop).trans ?_
  rw [hsame]
  dsimp only
  rw [State.capGo, haway]
  exact (if_neg (by decide)).trans (if_pos hgrant)

/-! The flip. -/

theorem capWord_frame (s : State) (r : CapRun) (n : Nat) : ∃ k ch m, s.capWord r n = { s with cmds := k, chambers := ch, mem := m } := by
  unfold State.capWord
  split
  · extract_lets s1
    split
    · rw [putStatus_frame]
      exact ⟨_, _, _, rfl⟩
    · exact ⟨_, _, _, rfl⟩
  · exact ⟨_, _, _, rfl⟩

theorem capPhase_epoch (s : State) (n p ch : Nat) : ((s.capPhase n p).un ch).cap.epoch = (s.un ch).cap.epoch := by
  by_cases h : ch = n
  · rw [h]
    exact congrArg (fun u => u.cap.epoch) (State.un_onUn ..)
  · exact congrArg (fun u => u.cap.epoch) (State.un_onUn_ne _ _ _ _ h)

@[simp] theorem capPhase_cap (s : State) (n p : Nat) : (s.capPhase n p).cap = s.cap := rfl
@[simp] theorem capPhase_fins (s : State) (n p : Nat) : (s.capPhase n p).fins = s.fins := rfl
@[simp] theorem capPhase_frz (s : State) (n p : Nat) : (s.capPhase n p).frz = s.frz := rfl
@[simp] theorem capUnclamp_cap (s : State) (r : CapRun) : (s.capUnclamp r).cap = s.cap := rfl
@[simp] theorem capUnclamp_fins (s : State) (r : CapRun) : (s.capUnclamp r).fins = s.fins := rfl
@[simp] theorem capUnclamp_frz (s : State) (r : CapRun) : (s.capUnclamp r).frz = s.frz := rfl
theorem capUnclamp_un (s : State) (r : CapRun) (ch : Nat) : (s.capUnclamp r).un ch = s.un ch := rfl

/-- The check after a flip: the capture goes on, or begins to close. -/
theorem capCheck_keeps (hrun : s.cap.run = some r) : ∃ n, let t := s.capCheck
    t.cap.run = some { r with phase := n } ∧ t.cap.epoch = s.cap.epoch ∧ t.fins = s.fins ∧ t.frz = s.frz ∧
      ∀ ch, (t.un ch).cap.epoch = (s.un ch).cap.epoch := by
  unfold State.capCheck
  rw [hrun]
  dsimp only
  split
  · obtain ⟨k, ch, m, hw⟩ := capWord_frame (State.capPhase { s with
        cap := { s.cap with run := some { r with phase := 5 } }
        stiles := s.stiles.mapAll fun t => { t with isOpen := false } } r.chamber 5) { r with phase := 5 } 3
    rw [hw]
    exact ⟨5, rfl, rfl, rfl, rfl, fun c => capPhase_epoch ..⟩
  · obtain ⟨k, ch, m, hw⟩ := capWord_frame s r 2
    rw [hw]
    exact ⟨r.phase, hrun, rfl, rfl, rfl, fun _ => rfl⟩

theorem now_useTime (s : State) : s.useTime.now = s.now := by
  have hle : s.timeIn ≤ s.now := by
    unfold State.now
    split <;> omega
  change (if s.timeIn < s.now then s.now else s.timeIn) = s.now
  split <;> omega

theorem foldl_onSt (f : Stile → Stile) (l : List Nat) (s : State) : ∃ st, l.foldl (fun s n => s.onSt n f) s = { s with stiles := st } := by
  induction l generalizing s with
  | nil => exact ⟨_, rfl⟩
  | cons n l ih =>
    obtain ⟨st, h⟩ := ih (s.onSt n f)
    exact ⟨st, by rw [List.foldl_cons, h]; rfl⟩

/-- The flip before its check: the stiles in their next mode, the capture in the next epoch. -/
theorem capFlip_eq (s : State) (r : CapRun) : ∃ u q f, (q.flipped = true ∧ q.epoch = s.cap.epoch + 1 ∧ q.flipTime = s.now ∧ q.id = r.id ∧
    q.chamber = r.chamber) ∧ (∀ c, (f c : CapRegs).epoch = s.cap.epoch + 1) ∧
    (u.cap.run = some q ∧ u.cap.epoch = s.cap.epoch + 1 ∧ u.fins = s.fins ∧ u.frz = s.frz) ∧
    s.capFlip r = (((State.onCapRegs u q.chamber f).capUnclamp q).capPhase q.chamber 4).capCheck := by
  unfold State.capFlip
  extract_lets s1 step off mid ep owed n opens s2 s3 q src s4 s5
  obtain ⟨st, hs3⟩ : ∃ st, s3 = { s2 with stiles := st } := foldl_onSt ..
  have htime : q.flipTime = s.now := (congrArg State.now hs3).trans (now_useTime s)
  have hfins : s3.fins = s.fins := (congrArg State.fins hs3).trans rfl
  have hfrz : s3.frz = s.frz := (congrArg State.frz hs3).trans rfl
  exact ⟨s4, q, _, ⟨rfl, rfl, htime, rfl, rfl⟩, fun _ => rfl, ⟨rfl, rfl, hfins, hfrz⟩, rfl⟩

/-- The flip: the next epoch, in which the capture goes on. -/
theorem capFlip_flips : ∃ q, let t := s.capFlip r
    t.frz = s.frz ∧ t.cap.epoch = s.cap.epoch + 1 ∧ t.cap.run = some q ∧ q.flipped = true ∧ q.epoch = s.cap.epoch + 1 ∧ q.flipTime = s.now ∧ q.id = r.id ∧
      q.chamber = r.chamber ∧ (t.un r.chamber).cap.epoch = s.cap.epoch + 1 ∧ t.fins = s.fins := by
  obtain ⟨u, q, f, ⟨hflipped, hepoch, htime, hid, hch⟩, hf, ⟨hrun, hep, hfins, hfrz⟩, heq⟩ := capFlip_eq s r
  have hunit : ((u.onCapRegs q.chamber f).un q.chamber).cap.epoch = s.cap.epoch + 1 := (congrArg (fun u => u.cap.epoch) (State.un_onUn ..)).trans (hf _)
  obtain ⟨v, hv⟩ : ∃ v, v = ((u.onCapRegs q.chamber f).capUnclamp q).capPhase q.chamber 4 := ⟨_, rfl⟩
  have hvrun : v.cap.run = some q := by simpa [hv] using hrun
  have hvep : v.cap.epoch = s.cap.epoch + 1 := by simpa [hv] using hep
  have hvfins : v.fins = s.fins := by simpa [hv] using hfins
  have hvfrz : v.frz = s.frz := by simpa [hv] using hfrz
  have hvunit : (v.un q.chamber).cap.epoch = s.cap.epoch + 1 := by
    rw [hv, capPhase_epoch, capUnclamp_un, hunit]
  rw [← hv] at heq
  obtain ⟨p, hcrun, hcepoch, hcfins, hcfrz, hcunit⟩ := capCheck_keeps hvrun
  refine ⟨{ q with phase := p }, ?_⟩
  rw [heq, ← hch]
  exact ⟨hcfrz.trans hvfrz, hcepoch.trans hvep, hcrun, hflipped, hepoch, htime, hid, rfl, (hcunit _).trans hvunit, hcfins.trans hvfins⟩

/-- The acknowledge of the hold a capture asked for. -/
theorem freezeAck_capture (hreset : s.boot.resetHeld = 0) (hack : s.frz.ack = false) (hhold : s.frz.hold = true) (hasker : s.frz.asker = some none)
    (hrun : s.cap.run = some r) (hcancel : r.cancel = false) :
    exec .freezeAck s = .next (State.capFlip { s with frz := { s.frz with ack := true, hold := false, asker := none } } r) := by
  have hlower : State.lowerFreeze { s with frz := { s.frz with ack := true } } = { s with frz := { s.frz with ack := true, hold := false, asker := none } } := by
    unfold State.lowerFreeze State.nextFreeze
    split
    · exact if_pos (Bool.or_true _)
    · rfl
  refine congrArg Host.Outcome.next ((if_neg (by simp [hreset, hack])).trans ((if_neg (by rw [hhold]; decide)).trans ?_))
  rw [hasker, hlower]
  dsimp only
  unfold State.capFreezeAck
  rw [hrun]
  exact if_neg (ne_true_of_eq_false hcancel)

/-- A freeze of a capture that times out ends the capture. -/
theorem freezeTimeout_capture (hhold : s.frz.hold = true) (hasker : s.frz.asker = some none) (hwait : s.frz.waiting = []) (hcap : s.capturing r x) :
    ∃ t, exec .freezeTimeout s = .next t ∧ t.frz.hold = false ∧ CaptureEnded r x sTimeout s t := by
  have hlower : s.lowerFreeze = { s with frz := { s.frz with hold := false, asker := none } } := by
    unfold State.lowerFreeze State.nextFreeze
    dsimp only
    rw [hwait]
  obtain ⟨u, hu⟩ : ∃ u, u = s.lowerFreeze.logPartner sTimeout 0 0 none [] := ⟨_, rfl⟩
  obtain ⟨hcap', hfins, hcmds, hfrz⟩ : u.cap = s.cap ∧ u.fins = s.fins ∧ u.cmds = s.cmds ∧ u.frz = { s.frz with hold := false, asker := none } := by
    rw [hu, hlower, State.logPartner, State.logStatus, log_frame]
    exact ⟨rfl, rfl, rfl, rfl⟩
  have hexec : exec .freezeTimeout s = .next ((u.capUnclamp r).capFail sTimeout false) := by
    refine congrArg Host.Outcome.next ((if_neg (by rw [hhold]; decide)).trans ?_)
    rw [hasker, ← hu]
    dsimp only
    unfold State.capFreezeTimeout
    rw [hcap', hcap.1]
  have hcapu : (u.capUnclamp r).capturing r x := by
    obtain ⟨hrun, hcmd, c, hc, htwin⟩ := hcap
    exact ⟨(congrArg Cap.run hcap').trans hrun, hcmd, c, (congrArg (List.find? (isCmd x)) hcmds).trans hc, htwin⟩
  obtain ⟨⟨hrun, hblocks, hphase, tcmds, tfins⟩, thold⟩ := capFail_ends hcapu (st := sTimeout) (by decide)
  have hfrzu : (u.capUnclamp r).frz = { s.frz with hold := false, asker := none } := hfrz
  rw [hfrzu] at thold
  exact ⟨_, hexec, thold nofun, hrun, hblocks, hphase, tcmds.trans (congrArg _ hcmds), tfins.trans (congrArg (· ++ _) hfins)⟩

end

/-- Settles O20: each row through what it does to the captures. -/
theorem capturesWaitFreezeAndFlip : Obligations.CapturesWaitFreezeAndFlip := by
  refine ⟨fun s x0 x e => ⟨?_, ?_⟩, fun s => ⟨?_, ?_, ?_, ?_, ?_⟩⟩
  · intro hheld hread hvalid hstore hnew hstep hall hpolicy r hrefuse
    have hr : s.capNew x.chamber (some x) 0 x.d false (bit x.a 2 || (s.ch x.chamber).immediate) (s.regionsOf x.chamber) = r := rfl
    have hcmd : r.cmd = some x := rfl
    have hch : r.chamber = x.chamber := rfl
    clear_value r
    rw [← hch] at hstep
    obtain ⟨hwaits, hfins, hcmds, hmem, hphase, hkeys⟩ := capEnter_command (s := s) (r := r) hcmd hstep
    rw [hch] at hphase
    exact ⟨_, enteredWait r, waits_runOp (runs_capture hheld) hheld.2 (bodyCapture_waits hread hstore hnew hall hpolicy hr hrefuse), hwaits, rfl, rfl,
      hfins, hcmds, hmem, hphase, hkeys⟩
  · intro w y c hheld hwaits hch hcmd hc htwin hself hother
    obtain ⟨twaits, tfins, tcmds, tphase⟩ := waitEnd_ends (st := sAborted) hwaits hcmd hc htwin (by decide)
    obtain ⟨d, hd, hsub, hdtwin, hdphase, hdunits, -⟩ := inHand_cmd hheld.2
    have hne : isCmd y d = false := by
      cases hsame : isCmd y d with
      | false => rfl
      | true =>
        simp only [isCmd, hsub, Bool.and_eq_true, beq_iff_eq] at hsame hself
        simp only [isCmd, hself, hsame, beq_self_eq_true, Bool.and_self] at hother
        cases hother
    rw [← hch]
    exact ⟨_, ends_runOp_of (runs_captureCancel hheld) hheld.2 (bodyCaptureCancel_waiting hwaits hch) (cmd?_filter_other tcmds hd hne) hdtwin
      hdunits.le (by decide), twaits, tfins, tcmds, tphase⟩
  · intro w l m hwaits hserving hpass hrun hbound hscope haway hgrant hm hhold hack
    obtain ⟨r, hr, hid, hphase, hchamber, hcmd, hregs, hlabel, thold, tasker, tclamps, twaits, tfins⟩ :=
      capStart_starts (s := { s with clamps := s.clamps ++ s.squeeze w.run.chamber w.run.clamps }) hm hhold hack
    exact ⟨_, r, captureStart_goes hwaits hserving hpass hrun hbound hscope haway hgrant, hr, hid, hphase, hchamber, hcmd, hregs, hlabel, thold, tasker,
      tclamps, twaits, tfins⟩
  · intro r hreset hack hhold hasker hrun hcancel
    obtain ⟨q, tfrz, tepoch, trun, hflipped, hepoch, htime, hid, hchamber, tunit, tfins⟩ :=
      capFlip_flips (s := { s with frz := { s.frz with ack := true, hold := false, asker := none } }) (r := r)
    exact ⟨_, q, freezeAck_capture hreset hack hhold hasker hrun hcancel, tfrz, tepoch, trun, hflipped, hepoch, htime, hid, hchamber, tunit, tfins⟩
  · intro hwait
    refine congrArg Host.Outcome.next ?_
    unfold State.nextFreeze
    dsimp only
    rw [hwait]
  · intro w l hhold hwait
    refine congrArg Host.Outcome.next ?_
    unfold State.nextFreeze
    dsimp only
    rw [hwait]
    refine (if_neg (by simp [hhold])).trans ?_
    rw [State.askFreeze, if_neg (by simp [hhold])]
  · intro r x hhold hasker hwait hcap
    exact freezeTimeout_capture hhold hasker hwait hcap

end Sys2Proof.Proofs
end

section
/-! PROOFS. Early-warning rules: armed, disarmed and fired (R59, R169, R170). -/

namespace Sys2Proof.Proofs
open Sys2Proof Sys2Proof.Machine Sys2Proof.Laws

section
variable {s : State} {x0 x : Sub} {e : Ext}

/-- The chamber's store is mounted as the entry says and the rule is free or the chamber's own. -/
def RuleIsOurs (s : State) (x : Sub) : Prop :=
  (s.ch x.chamber).storeValid = true ∧ x.handle.toNat = (s.ch x.chamber).store ∧
    ((s.trigs.get (fld x.a 3 0)).armed = none ∨ (s.trigs.get (fld x.a 3 0)).armed = some x.chamber)

theorem bodyTrigger_ours (hours : RuleIsOurs s x) : bodyTrigger x s =
    if bit x.a 4 then
      done { s.useTime with trigs := s.trigs.set (fld x.a 3 0) ⟨some x.chamber, (s.ch x.chamber).store, fld x.a 14 8, BitVec.ofNat 32 (fld x.b 31 0),
        BitVec.ofNat 32 (fld x.c 31 0), s.port.evtCount.get (fld x.a 14 8), s.useTime.now, []⟩ } 0
    else done { s with trigs := s.trigs.set (fld x.a 3 0) { s.trigs.get (fld x.a 3 0) with armed := none } } 0 := by
  obtain ⟨hvalid, hstore, hfree⟩ := hours
  unfold bodyTrigger
  dsimp only
  rw [hvalid, if_neg (by decide), if_neg (not_not_intro hstore)]
  refine (if_neg ?_).trans rfl
  rcases hfree with h | h <;> simp [h]

theorem triggerArm_ends (hheld : s.holdsCmd (.triggerArm x0 e) x) (hours : RuleIsOurs s x) :
    Ends (.triggerArm x0 e) s x sOk 0 0
      { s.useTime with trigs := s.trigs.set (fld x.a 3 0) ⟨some x.chamber, (s.ch x.chamber).store, fld x.a 14 8, BitVec.ofNat 32 (fld x.b 31 0),
        BitVec.ofNat 32 (fld x.c 31 0), s.port.evtCount.get (fld x.a 14 8), s.now, []⟩ } := by
  have harm : bit x.a 4 = true := by
    obtain ⟨h, -⟩ := hheld
    cases h
    exact bit_setBit _ (by decide) true
  have hb := bodyTrigger_ours hours
  rw [if_pos harm, now_useTime] at hb
  exact ends_runOp (runs_triggerArm hheld) hheld.2 hb rfl (by decide)

theorem triggerDisarm_ends (hheld : s.holdsCmd (.triggerDisarm x0 e) x) (hours : RuleIsOurs s x) :
    Ends (.triggerDisarm x0 e) s x sOk 0 0 { s with trigs := s.trigs.set (fld x.a 3 0) { s.trigs.get (fld x.a 3 0) with armed := none } } := by
  have harm : bit x.a 4 = false := by
    obtain ⟨h, -⟩ := hheld
    cases h
    exact bit_setBit _ (by decide) false
  have hb := bodyTrigger_ours hours
  rw [harm, if_neg Bool.false_ne_true] at hb
  exact ends_runOp (runs_triggerDisarm hheld) hheld.2 hb rfl (by decide)

end

/-! ## What fires -/

/-- Rule `i` of chamber `ch` has fired: its trigger is disarmed, its bit in CHM_FIRED is set, and the event counts and the other rules stay. -/
structure Fired (i ch : Nat) (s t : State) : Prop where
  trigs : t.trigs = s.trigs.set i { s.trigs.get i with armed := none }
  counts : t.port.evtCount = s.port.evtCount
  bit : bit (t.un ch).cap.fired i = true

theorem Fired.kept {i ch : Nat} {s t u : State} (h : Fired i ch s t) (htrigs : u.trigs = t.trigs)
    (hcounts : u.port.evtCount = t.port.evtCount) (hfired : (u.un ch).cap.fired = (t.un ch).cap.fired) : Fired i ch s u :=
  ⟨htrigs.trans h.trigs, hcounts.trans h.counts, by rw [hfired]; exact h.bit⟩

theorem notice_evtCount (s : State) (k : Nat) (c : BitVec 16) : (s.notice k c).port.evtCount = s.port.evtCount := by
  unfold State.notice
  split_ifs <;> rfl

theorem log_evtCount (s : State) (c : BitVec 16) (v k i : Nat) (ch : Option Nat) (d : List Byte) :
    (s.log c v k i ch d).port.evtCount = s.port.evtCount := by
  unfold State.log
  extract_lets s1 u first crossed u1 u2 s2 s3
  have hs3 : s3.port.evtCount = s.port.evtCount := by
    unfold s3
    split <;> rfl
  split
  · exact (notice_evtCount _ _ _).trans hs3
  · exact hs3

theorem log_un (s : State) (c : BitVec 16) (v k i : Nat) (ch : Option Nat) (d : List Byte) (n : Nat) :
    (s.log c v k i ch d).un n = s.un n := by
  unfold State.un
  rw [log_units]

theorem capEnter_keeps (s : State) (r : CapRun) (hr : r.cmd = none) : (s.capEnter r).trigs = s.trigs ∧
    (s.capEnter r).port.evtCount = s.port.evtCount ∧ ((s.capEnter r).un r.chamber).cap.fired = (s.un r.chamber).cap.fired := by
  unfold State.capEnter State.capPhase
  rw [hr]
  cases r.sealed
  · exact ⟨rfl, rfl, by simp [State.onCapRegs, State.cause, State.un, State.onUn, get_modify_self]⟩
  · exact ⟨rfl, rfl, by simp [State.onCapRegs, State.cause, State.un, State.onUn, get_modify_self, State.onKey]⟩

theorem fireRule_fires {s : State} {i ch : Nat} (send : Bool) (hi : i < 16) (harmed : (s.trigs.get i).armed = some ch) :
    Fired i ch s (s.fireRule i send) := by
  unfold State.fireRule
  extract_lets rule s1 s2
  rw [show rule.armed = some ch from harmed]
  dsimp -zeta only
  extract_lets s3 s4 s5 r
  have h3 : Fired i ch s s3 := ⟨rfl, rfl, by
    unfold s3 State.un State.onCapRegs State.onUn
    dsimp only
    rw [get_modify_self]
    exact bit_setBit _ hi true⟩
  have h4 : Fired i ch s s4 := by
    unfold s4
    split
    · exact h3.kept rfl rfl rfl
    · exact h3
  have h5 : Fired i ch s s5 := by
    have hwake : s5 = { s4 with pwr := s5.pwr } := beginWake_frame s4
    rw [hwake]
    exact h4.kept rfl rfl rfl
  clear_value s5
  split
  · exact h5.kept (log_trigs ..) (log_evtCount ..) (congrArg (fun u => u.cap.fired) (log_un ..))
  · obtain ⟨htrigs, hcounts, hfired⟩ := capEnter_keeps s5 r rfl
    exact h5.kept htrigs hcounts hfired

/-! ## The two scans of the rules -/

theorem foldl_idle {α : Type} (l : List Nat) (f : α → Nat → α) (s : α) (h : ∀ q ∈ l, f s q = s) : l.foldl f s = s := by
  induction l with
  | nil => rfl
  | cons q l ih => rw [List.foldl_cons, h q (by simp)]; exact ih fun p hp => h p (by simp [hp])

/-- A scan of a list that acts at `r` alone, where every other entry leaves the state it meets before or after as it is. -/
theorem foldl_acts_once {l : List Nat} (hnodup : l.Nodup) {r : Nat} (hr : r ∈ l) (f : State → Nat → State) {s t : State} (hat : f s r = t)
    (hbefore : ∀ q ∈ l, q ≠ r → f s q = s) (hafter : ∀ q ∈ l, q ≠ r → f t q = t) : l.foldl f s = t := by
  induction l with
  | nil => simp at hr
  | cons q l ih =>
    obtain ⟨hq, hl⟩ := List.nodup_cons.mp hnodup
    by_cases hqr : q = r
    · subst hqr
      rw [List.foldl_cons, hat]
      exact foldl_idle l f t fun p hp => hafter p (by simp [hp]) fun h => hq (h ▸ hp)
    · rw [List.foldl_cons, hbefore q (by simp) hqr]
      have hrl : r ∈ l := (List.mem_cons.mp hr).resolve_left fun h => hqr h.symm
      exact ih hl hrl (fun p hp => hbefore p (by simp [hp])) fun p hp => hafter p (by simp [hp])

/-- What EVENT_PULSE does at one rule: an armed rule on the input takes the edge and may fire. -/
def pulseRule (i : Nat) (n : BitVec 32) (s : State) (r : Nat) : State :=
  let t := s.trigs.get r
  if t.armed.isNone || t.input != i then s
  else
    let edges := (t.edges ++ [s.now]).filter fun e => decide (s.now < e + t.window.toNat * 1000)
    let s := { s with trigs := s.trigs.set r { t with edges := edges } }
    let rise := if t.window = 0 then (n - t.base).toNat else edges.length
    if t.param.toNat ≤ rise then s.fireRule r true else s

theorem pulseRule_idle {s : State} {i r : Nat} {n : BitVec 32} (h : (s.trigs.get r).armed = none ∨ (s.trigs.get r).input ≠ i) :
    pulseRule i n s r = s := by
  unfold pulseRule
  exact if_pos (by rcases h with h | h <;> simp [h])

/-- EVENT_PULSE as the count and a scan of the rules. -/
theorem eventPulse_eq {s : State} {k : Nat} (hk : k < 64) (hreset : s.boot.resetHeld = 0) : exec (.eventPulse k) s = .next
    ((List.range 16).foldl (pulseRule k ((s.port.evtCount.modify k (· + 1)).get k))
      { s with port := { s.port with evtCount := s.port.evtCount.modify k (· + 1) } }) := by
  refine congrArg Host.Outcome.next ?_
  rw [if_neg (by simp [hreset, hk])]
  rfl

theorem eventPulse_counts {s : State} {k : Nat} (hk : k < 64) (hreset : s.boot.resetHeld = 0)
    (hidle : ∀ r, r < 16 → (s.trigs.get r).armed = none ∨ (s.trigs.get r).input ≠ k) :
    exec (.eventPulse k) s = .next { s with port := { s.port with evtCount := s.port.evtCount.modify k (· + 1) } } := by
  rw [eventPulse_eq hk hreset, foldl_idle]
  intro q hq
  exact pulseRule_idle (s := { s with port := _ }) (hidle q (List.mem_range.mp hq))

theorem pulseRule_fires {s : State} {k r ch : Nat} {n : BitVec 32} (hr : r < 16) (harmed : (s.trigs.get r).armed = some ch)
    (hinput : (s.trigs.get r).input = k) (hwindow : (s.trigs.get r).window = 0) (hcount : (s.trigs.get r).param.toNat ≤ (n - (s.trigs.get r).base).toNat) :
    ∃ edges, Fired r ch { s with trigs := s.trigs.set r { s.trigs.get r with edges := edges } } (pulseRule k n s r) := by
  have hat : pulseRule k n s r = ({ s with trigs := s.trigs.set r { s.trigs.get r with
      edges := ((s.trigs.get r).edges ++ [s.now]).filter fun e => decide (s.now < e + (s.trigs.get r).window.toNat * 1000) } }).fireRule r true := by
    unfold pulseRule
    extract_lets t edges s1 rise
    have hrise : rise = (n - t.base).toNat := if_pos hwindow
    rw [if_neg (by simp [t, harmed, hinput]), if_pos (by rw [hrise]; exact hcount)]
  rw [hat]
  exact ⟨_, fireRule_fires true hr ((congrArg Trig.armed (get_set_self ..)).trans harmed)⟩

theorem eventPulse_fires {s : State} {k r ch : Nat} (hk : k < 64) (hreset : s.boot.resetHeld = 0) (hr : r < 16)
    (harmed : (s.trigs.get r).armed = some ch) (hinput : (s.trigs.get r).input = k) (hwindow : (s.trigs.get r).window = 0)
    (hcount : (s.trigs.get r).param.toNat ≤ (s.port.evtCount.get k + 1 - (s.trigs.get r).base).toNat)
    (hothers : ∀ q, q < 16 → q ≠ r → (s.trigs.get q).armed = none ∨ (s.trigs.get q).input ≠ k) :
    ∃ t, exec (.eventPulse k) s = .next t ∧ t.port.evtCount.get k = s.port.evtCount.get k + 1 ∧ (t.trigs.get r).armed = none ∧
      bit (t.un ch).cap.fired r = true ∧ (∀ q, q ≠ r → t.trigs.get q = s.trigs.get q) := by
  obtain ⟨u, hu⟩ : ∃ u, u = { s with port := { s.port with evtCount := s.port.evtCount.modify k (· + 1) } } := ⟨_, rfl⟩
  have hutrigs : u.trigs = s.trigs := by rw [hu]
  have hucount : u.port.evtCount.get k = s.port.evtCount.get k + 1 := by rw [hu, get_modify_self]
  obtain ⟨edges, hfired⟩ := pulseRule_fires (s := u) (k := k) (n := s.port.evtCount.get k + 1) hr (by rw [hutrigs]; exact harmed)
    (by rw [hutrigs]; exact hinput) (by rw [hutrigs]; exact hwindow) (by rw [hutrigs]; exact hcount)
  obtain ⟨t, ht⟩ : ∃ t, t = pulseRule k (s.port.evtCount.get k + 1) u r := ⟨_, rfl⟩
  rw [← ht] at hfired
  have hothers' : ∀ q, q ≠ r → t.trigs.get q = s.trigs.get q := by
    intro q hq
    rw [hfired.trigs, get_set_ne _ _ hq]
    dsimp only
    rw [get_set_ne _ _ hq, hutrigs]
  have hscan : (List.range 16).foldl (pulseRule k (s.port.evtCount.get k + 1)) u = t := by
    refine foldl_acts_once List.nodup_range (List.mem_range.mpr hr) _ ht.symm (fun q hq hne => ?_) fun q hq hne => ?_
    · exact pulseRule_idle (by rw [hutrigs]; exact hothers q (List.mem_range.mp hq) hne)
    · exact pulseRule_idle (by rw [hothers' q hne]; exact hothers q (List.mem_range.mp hq) hne)
  have hexec : exec (.eventPulse k) s = .next t := by
    rw [eventPulse_eq hk hreset, get_modify_self, ← hu, hscan]
  refine ⟨t, hexec, ?_, ?_, hfired.bit, hothers'⟩
  · rw [hfired.counts]
    exact hucount
  · rw [hfired.trigs, get_set_self]

theorem eventLevel_seen {s : State} {k : Nat} {v : Bool} (hk : k < 16) (hreset : s.boot.resetHeld = 0) (hv : bit s.port.evtLevel k ≠ v) :
    exec (.eventLevel k v) s = .next { s with
      port := { s.port with evtLevel := setBit s.port.evtLevel k v }
      trigs := s.trigs.mapAll fun t => if t.input = 64 + k then { t with since := s.now } else t } := by
  refine congrArg Host.Outcome.next ?_
  have hseen : ¬(16 ≤ k ∨ s.boot.resetHeld ≠ 0 ∨ bit s.port.evtLevel k = v) := by
    rintro (h | h | h)
    · omega
    · exact h hreset
    · exact hv h
  rw [if_neg hseen]
  rfl

/-- What LEVEL_RULE_TIMER does at one rule. -/
def levelRule (s : State) (r : Nat) : State :=
  let t := s.trigs.get r
  if t.armed.isSome && decide (64 ≤ t.input) && (bit s.port.evtLevel (t.input - 64) == bit t.param 0) &&
      decide (t.since + t.window.toNat * 1000 ≤ s.now) then s.fireRule r true
  else s

theorem levelRule_idle {s : State} {r : Nat} (h : (s.trigs.get r).armed = none) : levelRule s r = s := by
  unfold levelRule
  exact if_neg (by simp [h])

theorem levelRuleTimer_fires {s : State} {r ch : Nat} (hr : r < 16) (harmed : (s.trigs.get r).armed = some ch) (hinput : 64 ≤ (s.trigs.get r).input)
    (hlevel : bit s.port.evtLevel ((s.trigs.get r).input - 64) = bit (s.trigs.get r).param 0)
    (hheld : (s.trigs.get r).since + (s.trigs.get r).window.toNat * 1000 ≤ s.now)
    (hothers : ∀ q, q < 16 → q ≠ r → (s.trigs.get q).armed = none) :
    ∃ t, exec .levelRuleTimer s = .next t ∧ (t.trigs.get r).armed = none ∧ bit (t.un ch).cap.fired r = true ∧
      (∀ q, q ≠ r → t.trigs.get q = s.trigs.get q) := by
  have hfire : levelRule s r = s.fireRule r true := by
    unfold levelRule
    exact if_pos (by simp [harmed, hinput, hlevel, hheld])
  have hfired := fireRule_fires (s := s) true hr harmed
  obtain ⟨t, ht⟩ : ∃ t, t = s.fireRule r true := ⟨_, rfl⟩
  rw [← ht] at hfired hfire
  have hothers' : ∀ q, q ≠ r → t.trigs.get q = s.trigs.get q := by
    intro q hq
    rw [hfired.trigs, get_set_ne _ _ hq]
  have hscan : (List.range 16).foldl levelRule s = t := by
    refine foldl_acts_once List.nodup_range (List.mem_range.mpr hr) _ hfire (fun q hq hne => ?_) fun q hq hne => ?_
    · exact levelRule_idle (hothers q (List.mem_range.mp hq) hne)
    · exact levelRule_idle (by rw [hothers' q hne]; exact hothers q (List.mem_range.mp hq) hne)
  have hexec : exec .levelRuleTimer s = .next t := congrArg Host.Outcome.next hscan
  refine ⟨t, hexec, ?_, hfired.bit, hothers'⟩
  rw [hfired.trigs, get_set_self]

/-- Settles O21: a rule that is free or the chamber's own is set as the entry says; a pulse or a level scan acts at the one rule it reaches, which it fires. -/
theorem rulesAreArmedAndFire : Obligations.RulesAreArmedAndFire := by
  unfold Obligations.RulesAreArmedAndFire
  refine ⟨fun s x0 x e hvalid hstore hfree => ?_, fun s hreset => ?_⟩
  · have hours : RuleIsOurs s x := ⟨hvalid, hstore, hfree⟩
    exact ⟨fun hheld => triggerArm_ends hheld hours, fun hheld => triggerDisarm_ends hheld hours⟩
  · exact ⟨fun k hk hidle => eventPulse_counts hk hreset hidle,
      fun k r ch hk hr harmed hinput hwindow hcount hothers => eventPulse_fires hk hreset hr harmed hinput hwindow hcount hothers,
      fun k v hk hv => eventLevel_seen hk hreset hv,
      fun r ch hr harmed hinput hlevel hheld hothers => levelRuleTimer_fires hr harmed hinput hlevel hheld hothers⟩

end Sys2Proof.Proofs
end

section
/-! PROOFS. Drain blocks: taken, looked up, sealed, written, rebuilt (R162, R167, R179, R180, R204, R206, R207). -/

namespace Sys2Proof.Proofs
open Sys2Proof Sys2Proof.Machine Sys2Proof.Laws

/-! What the steps of a drain move. -/

section
variable (s : State)

theorem memReq_frame (r : HReq) : ∃ m f, s.memReq r = { s with mem := m, free := f } := by
  unfold State.memReq
  extract_lets a
  split <;> exact ⟨_, _, rfl⟩

theorem forward_frame (st : Nat) (r : HReq) : ∃ m f sti, s.forward st r = { s with mem := m, free := f, stiles := sti } := by
  obtain ⟨m, f, h⟩ := memReq_frame s r
  unfold State.forward
  rw [h]
  exact ⟨_, _, _, rfl⟩

theorem forwards_frame (st : Nat) (l : List Held) : ∃ m f sti, l.foldl (fun s h => s.forward st h.req) s = { s with mem := m, free := f, stiles := sti } := by
  induction l generalizing s with
  | nil => exact ⟨_, _, _, rfl⟩
  | cons h l ih =>
    obtain ⟨m, f, sti, hf⟩ := forward_frame s st h.req
    obtain ⟨m', f', sti', hl⟩ := ih (s.forward st h.req)
    rw [List.foldl_cons, hl, hf]
    exact ⟨_, _, _, rfl⟩

theorem releaseGran_frame (st g : Nat) : ∃ m f sti, s.releaseGran st g = { s with mem := m, free := f, stiles := sti } := by
  unfold State.releaseGran
  extract_lets go t
  obtain ⟨m, f, sti, h⟩ := forwards_frame t st go
  exact ⟨m, f, sti, h⟩

theorem streamed_frame (b : Block) : ∃ a sti, s.streamed b = { s with ciph := { s.ciph with assigned := a }, stiles := sti } := by
  unfold State.streamed
  extract_lets ci t
  split <;> exact ⟨_, _, rfl⟩

theorem closeStile_frame (r : CapRun) (st : Nat) : ∃ sti, s.closeStile r st = { s with stiles := sti } := by
  unfold State.closeStile
  extract_lets owed held
  split <;> exact ⟨_, rfl⟩

theorem relevel_fins (ch : Nat) : (s.relevel ch).fins = s.fins := (congrArg State.fins (steady_relevel s ch)).trans rfl

end

section
variable {s : State} {r : CapRun} {b : Block}

theorem relevel_cap (hrun : s.cap.run = some r) (ch : Nat) : ∃ p, (s.relevel ch).cap = { s.cap with run := some { r with peak := p } } := by
  unfold State.relevel
  extract_lets c q n up warn stall s1 cap1 s2 s3
  have h3 : s3.cap = s2.cap := by
    unfold s3
    split <;> rfl
  have h2 : ∃ p, s2.cap = { s.cap with run := some { r with peak := p } } := by
    show ∃ p, { s.cap with run := s.cap.run.map fun (u : CapRun) => if u.chamber = ch then { u with peak := max u.peak n } else u } = _
    rw [hrun, Option.map_some]
    split <;> exact ⟨_, rfl⟩
  obtain ⟨p, h2⟩ := h2
  refine ⟨p, ?_⟩
  split
  · rw [log_cap, h3, h2]
  · rw [h3, h2]

theorem capCheck_cap (hrun : s.cap.run = some r) : ∃ n, s.capCheck.cap = { s.cap with run := some { r with phase := n } } ∧ s.capCheck.fins = s.fins := by
  unfold State.capCheck
  rw [hrun]
  dsimp only
  split
  · obtain ⟨k, ch, m, hw⟩ := capWord_frame (State.capPhase { s with
        cap := { s.cap with run := some { r with phase := 5 } }
        stiles := s.stiles.mapAll fun t => { t with isOpen := false } } r.chamber 5) { r with phase := 5 } 3
    rw [hw]
    exact ⟨5, rfl, rfl⟩
  · obtain ⟨k, ch, m, hw⟩ := capWord_frame s r 2
    rw [hw]
    exact ⟨r.phase, congrArg (fun q => ({ s.cap with run := q } : Cap)) hrun, rfl⟩

/-- What a disposal records: the leaf, the counts, and that the block is no longer under way. -/
theorem dispose_records (s : State) (r : CapRun) (st loc g : Nat) (stalled skip : Bool) (l : LeafRec) : ∃ p n,
    (s.dispose r st loc g stalled skip l).cap = { s.cap with
      recs := s.cap.recs ++ [l]
      blocks := s.cap.blocks.filter fun b => !(b.stile == st && b.granule == g)
      run := some { r with
        drained := r.drained + 1, skipped := r.skipped + b2n skip, bytes := r.bytes + (if skip then 0 else l.rec_.n), peak := p, phase := n } } ∧
    (s.dispose r st loc g stalled skip l).fins = s.fins := by
  unfold State.dispose
  extract_lets ca s1 sg s2 s3 s4 s5 s6 s7
  have h4 : s4.cap = s1.cap ∧ s4.fins = s.fins := by
    show s3.cap = s1.cap ∧ s3.fins = s.fins
    unfold s3
    split <;> exact ⟨rfl, rfl⟩
  obtain ⟨hcap4, hfins4⟩ := h4
  obtain ⟨p, h5⟩ := relevel_cap (hcap4 ▸ rfl : s4.cap.run = s1.cap.run) r.chamber
  have h6 : s6.cap = s5.cap ∧ s6.fins = s5.fins := by
    unfold s6
    split
    · obtain ⟨m, f, sti, h⟩ := releaseGran_frame s5 st g
      rw [h]
      exact ⟨rfl, rfl⟩
    · exact ⟨rfl, rfl⟩
  have h7 : s7.cap = s6.cap ∧ s7.fins = s6.fins := by
    unfold s7
    split
    · obtain ⟨sti, h⟩ := closeStile_frame s6 ‹_› st
      rw [h]
      exact ⟨rfl, rfl⟩
    · exact ⟨rfl, rfl⟩
  have hcap7 : s7.cap = { s1.cap with run := some { r with
      drained := r.drained + 1, skipped := r.skipped + b2n skip, bytes := r.bytes + (if skip then 0 else l.rec_.n), peak := p } } := by
    rw [h7.1, h6.1, h5, hcap4]
  obtain ⟨n, hcheck, hfins⟩ := capCheck_cap (s := s7) (congrArg Cap.run hcap7)
  refine ⟨p, n, ?_, ?_⟩
  · rw [hcheck, hcap7]
  · rw [hfins, h7.2, h6.2, show s5.fins = s4.fins from relevel_fins s4 r.chamber, hfins4]

/-! A block alone under way. -/

theorem onBlock_only {st g : Nat} (hblocks : s.cap.blocks = [b]) (hst : b.stile = st) (hg : b.granule = g) (f : Block → Block) :
    s.onBlock st g f = { s with cap := { s.cap with blocks := [f b] } } := by
  unfold State.onBlock
  rw [hblocks, List.map_singleton, if_pos ⟨hst, hg⟩]

theorem block?_only {st g : Nat} (hblocks : s.cap.blocks = [b]) (hst : b.stile = st) (hg : b.granule = g) : s.block? st g = some b := by
  unfold State.block?
  rw [hblocks, List.find?_cons_of_pos (by simp [hst, hg])]

theorem engineBlocks_only (hblocks : s.cap.blocks = [b]) (hstage : b.stage ≠ 3) : s.engineBlocks = 0 := by
  unfold State.engineBlocks
  rw [hblocks]
  simp [hstage]

theorem postWrite_only {d : Block} (hblocks : s.cap.blocks = [d]) (hst : d.stile = b.stile) (hg : d.granule = b.granule) : ∃ cid sto stage,
    s.postWrite b = { s with sto := sto, stage := stage, cap := { s.cap with blocks := [{ d with cid := cid }] } } ∧
      stage.heldReads = s.stage.heldReads := by
  unfold State.postWrite
  extract_lets cid u sg v
  refine ⟨cid, u.sto, v.stage, ?_, rfl⟩
  exact (onBlock_only (s := v) (b := d) hblocks hst hg _).trans rfl

/-- The start of the one block of a sealed capture: it is encoded, its Write posted, and it waits for a core. -/
theorem startBlock_only {q : CapRun} {d : Block} (hrun : s.cap.run = some q) (hsealed : q.sealed = true) (hblocks : s.cap.blocks = [d])
    (hst : d.stile = b.stile) (hg : d.granule = b.granule) (ty : Nat) : ∃ codec cid sto stage, s.startBlock r b ty =
      { s with sto := sto, stage := stage, cap := { s.cap with blocks := [{ b with
        codec := codec, bytes := if r.flow then (flowBlock ty b.content).2 else b.content, cid := cid, stage := 2 }] } } := by
  obtain ⟨codec, bytes, henc, hbytes⟩ : ∃ codec bytes, (if r.flow then flowBlock ty b.content else (0, b.content)) = (codec, bytes) ∧
      bytes = if r.flow then (flowBlock ty b.content).2 else b.content := by
    cases r.flow
    · exact ⟨_, _, rfl, rfl⟩
    · exact ⟨_, _, rfl, rfl⟩
  rw [← hbytes]
  unfold State.startBlock
  rw [henc]
  dsimp only
  obtain ⟨sto, hmedia⟩ := onMedia_frame (s := s) r.store (openZone b.place)
  obtain ⟨c, hc⟩ : ∃ c, c = { b with codec := codec, bytes := bytes } := ⟨_, rfl⟩
  obtain ⟨t, ht⟩ : ∃ t, t = { s with sto := sto } := ⟨_, rfl⟩
  rw [hmedia, ← hc, ← ht]
  have htb : t.cap.blocks = [d] := by rw [ht]; exact hblocks
  rw [onBlock_only htb hst hg]
  obtain ⟨cid, sto', stage, hpost, -⟩ := postWrite_only (s := { t with cap := { t.cap with blocks := [c] } }) (b := c) (d := c) rfl rfl rfl
  obtain ⟨v, hv⟩ : ∃ v, v = { t with sto := sto', stage := stage, cap := { t.cap with blocks := [{ c with cid := cid }] } } := ⟨_, rfl⟩
  have hvb : v.cap.blocks = [{ c with cid := cid }] := by rw [hv]
  have hvrun : v.cap.run = some q := by rw [hv, ht]; exact hrun
  have hfind : v.block? b.stile b.granule = some { c with cid := cid } := block?_only hvb (by rw [hc]) (by rw [hc])
  rw [hpost, ← hv, hfind]
  dsimp only
  unfold State.emitBlock
  rw [hvrun]
  dsimp only
  rw [if_pos hsealed, onBlock_only hvb rfl rfl, hv, ht, hc]
  exact ⟨codec, cid, sto', stage, rfl⟩

/-! Poison found while a leaf is read (R154) changes the count of the capture and the log. -/

theorem notePoison_frame (hrun : s.cap.run = some r) (beats : List Nat) (rid k : Nat) : ∃ tu po su cn cw p, s.notePoison beats rid k =
    { s with timeUsed := tu, port := po, sump := su, chain := cn, chainW := cw, cap := { s.cap with run := some { r with poisoned := p } } } := by
  unfold State.notePoison
  rw [hrun]
  dsimp -zeta only
  split
  · exact ⟨s.timeUsed, s.port, s.sump, s.chain, s.chainW, r.poisoned, congrArg (fun q => { s with cap := { s.cap with run := q } }) hrun⟩
  · extract_lets t
    have ht : ∃ tu po su cn cw, t = { s with timeUsed := tu, port := po, sump := su, chain := cn, chainW := cw } := by
      unfold t
      split
      · exact log_frame_ex ..
      · exact ⟨_, _, _, _, _, rfl⟩
    obtain ⟨tu, po, su, cn, cw, ht⟩ := ht
    clear_value t
    subst ht
    dsimp only
    rw [hrun]
    exact ⟨tu, po, su, cn, cw, r.poisoned + 1, rfl⟩

/-! CELL_TAKE_UNIT (R162, R179). -/

theorem takeGranule_starts {st cell g loc i rid m k : Nat} {reg : Region} (hrun : s.cap.run = some r) (hsealed : r.sealed = true)
    (hblocks : s.cap.blocks = []) (hserver : s.server st = st) (hleaf : r.leafOf g = some (i, rid, reg, m, k)) (hdedup : r.dedup = 0) :
    let content := leafContent reg.coord k (s.drainSource st g).1
    ∃ b, let t := s.takeGranule r st cell g loc false
      t.cap.blocks = [b] ∧ b.stile = st ∧ b.granule = g ∧ b.cell = cell ∧ b.stage = 2 ∧
         b.region = rid ∧ b.member = m ∧ b.leaf = k ∧ b.content = content ∧ b.digest = contentDigest reg.coord k (s.drainSource st g).1 ∧
         b.bytes = (if r.flow then (flowBlock reg.coord.elemType content).2 else content) ∧ b.iv = none ∧ b.place = r.places.getD i 0 ∧
         ((t.st st).cells.get cell).granule = some g ∧ t.fins = s.fins ∧ t.cmds = s.cmds := by
  intro content
  obtain ⟨d, beats, hsource⟩ : ∃ d beats, s.drainSource st g = (d, beats) := ⟨_, _, rfl⟩
  unfold content
  unfold State.takeGranule
  rw [hleaf, hsource]
  dsimp -zeta only
  extract_lets full q place ctrl b s1 s2 ca s3 t
  obtain ⟨tu, po, su, cn, cw, p, h1⟩ := notePoison_frame hrun beats rid k
  change s1 = _ at h1
  have hserver1 : s1.server st = st := by
    rw [h1]
    exact hserver
  have hblocks3 : s3.cap.blocks = [b] := by
    show s1.cap.blocks ++ [b] = [b]
    rw [h1]
    exact congrArg (· ++ [b]) hblocks
  have hrun3 : s3.cap.run = some { r with poisoned := p } := by
    show s1.cap.run = _
    rw [h1]
  have hcell : ((s3.st st).cells.get cell).granule = some g := by
    show ((s2.st st).cells.get cell).granule = some g
    unfold s2 State.onCell
    rw [hserver1, State.st_onSt, get_modify_self]
  have hkept : s3.fins = s.fins ∧ s3.cmds = s.cmds := by
    show s1.fins = s.fins ∧ s1.cmds = s.cmds
    rw [h1]
    exact ⟨rfl, rfl⟩
  obtain ⟨codec, cid, sto, stage, hstart⟩ := startBlock_only (s := s3) (r := r) (b := b) (d := b) hrun3 hsealed hblocks3 rfl rfl reg.coord.elemType
  have ht : t = s3.startBlock r b reg.coord.elemType := by
    unfold t
    rw [if_neg (by simp [hdedup]), if_neg (by simp [hdedup])]
  clear_value t s3
  rw [ht, hstart]
  exact ⟨_, rfl, rfl, rfl, rfl, rfl, rfl, rfl, rfl, rfl, rfl, rfl, rfl, rfl, hcell, hkept.1, hkept.2⟩

theorem server_of_serves {st : Nat} (hserves : s.serves st = [st]) : s.server st = st := by
  have hmem : st ∈ s.serves st := by rw [hserves]; exact List.mem_singleton_self st
  exact eq_of_beq (List.mem_filter.mp hmem).2

theorem stalledFor_none {st : Nat} (hserves : s.serves st = [st]) (hheld : (s.st st).held = []) : s.stalledFor st = none := by
  unfold State.stalledFor
  rw [hserves, List.findSome?_singleton, hheld]
  rfl

theorem cellTakeUnit_takes {st cell g loc : Nat} {e : Ext} (hrun : s.cap.run = some r) (hphase : r.phase = 4) (hblocks : s.cap.blocks = [])
    (hfree : s.cellFree st cell = true) (hserves : s.serves st = [st]) (hthin : s.thin st = false) (hheld : (s.st st).held = [])
    (hnext : s.nextGranule r st = some (g, loc)) : exec (.cellTakeUnit st cell e) s = .next (s.takeGranule r st cell g loc false) := by
  have hfree' := hfree
  simp only [State.cellFree, Bool.and_eq_true] at hfree'
  obtain ⟨⟨⟨hin, hdom⟩, -⟩, -⟩ := hfree'
  have hremoved : (s.st st).removed = false := by
    unfold State.thin at hthin
    exact (Bool.or_eq_false_iff.mp hthin).1
  have hengine : s.engineBlocks = 0 := by
    unfold State.engineBlocks
    rw [hblocks]
    rfl
  have htakes : s.cellTakes r st cell = s.takeGranule r st cell g loc false := by
    unfold State.cellTakes
    rw [stalledFor_none hserves hheld, hblocks, List.find?_nil, hengine, hserves, List.findSome?_singleton, hnext, Option.map_some]
    dsimp only
    rw [hremoved]
    rfl
  refine congrArg Host.Outcome.next ?_
  rw [hrun]
  dsimp only
  rw [if_neg (by simp [hphase, hin]), if_neg (by simp [hdom]), hblocks, List.find?_nil]
  dsimp only
  rw [if_pos hfree, htakes]

/-! The directory (R167). -/

theorem insertDir_frame (hrun : s.cap.run = some r) (b : Block) : ∃ f sti, s.insertDir r b =
    { s with stiles := sti, cap := { s.cap with run := some { r with dirFull := f } } } := by
  have hsame : s = { s with stiles := s.stiles, cap := { s.cap with run := some { r with dirFull := r.dirFull } } } :=
    congrArg (fun q => { s with cap := { s.cap with run := q } }) hrun
  obtain ⟨st, cell, set, tag, hhome⟩ : ∃ st cell set tag, s.home b.digest = (st, cell, set, tag) := ⟨_, _, _, _, rfl⟩
  unfold State.insertDir
  rw [hhome]
  dsimp only
  split
  · exact ⟨_, _, hsame⟩
  · split
    · exact ⟨_, _, rfl⟩
    · exact ⟨r.dirFull, _, congrArg (fun q => State.onCell { s with cap := { s.cap with run := q } } _ _ _) hrun⟩

theorem lookupBlock_only {st cell : Nat} (hblocks : s.cap.blocks = [b]) (hstage : b.stage = 1) (hserver : s.server b.stile = st)
    (hcell : b.cell = cell) : s.cap.blocks.find? (fun b => b.stage == 1 && s.server b.stile == st && b.cell == cell) = some b := by
  rw [hblocks, List.find?_cons_of_pos (by simp [hstage, hserver, hcell])]

theorem directoryMiss_encodes {st cell : Nat} {reg : Region} (hrun : s.cap.run = some r) (hsealed : r.sealed = true) (hblocks : s.cap.blocks = [b])
    (hstage : b.stage = 1) (hserver : s.server b.stile = st) (hcell : b.cell = cell) (hreg : r.reg b.region = some reg) :
    ∃ t q, exec (.directoryLookupAnswer st cell false) s = .next t ∧ t.cap.blocks = [q] ∧ q.stage = 2 ∧ q.granule = b.granule ∧
      q.content = b.content ∧ t.cap.recs = s.cap.recs := by
  obtain ⟨f, sti, hinsert⟩ := insertDir_frame hrun b
  obtain ⟨v, hv⟩ : ∃ v, v = s.insertDir r b := ⟨_, rfl⟩
  rw [← hv] at hinsert
  have hvrun : v.cap.run = some { r with dirFull := f } := by rw [hinsert]
  have hvblocks : v.cap.blocks = [b] := by rw [hinsert]; exact hblocks
  have hvrecs : v.cap.recs = s.cap.recs := by rw [hinsert]
  obtain ⟨codec, cid, sto, stage, hstart⟩ := startBlock_only (s := v) (r := { r with dirFull := f }) (b := b) hvrun hsealed hvblocks rfl rfl reg.coord.elemType
  have hexec : exec (.directoryLookupAnswer st cell false) s = .next (v.startBlock { r with dirFull := f } b reg.coord.elemType) := by
    refine congrArg Host.Outcome.next ?_
    rw [hrun, lookupBlock_only hblocks hstage hserver hcell]
    dsimp only
    rw [if_neg Bool.false_ne_true, hreg]
    dsimp only
    rw [← hv, hvrun]
  rw [hstart] at hexec
  exact ⟨_, _, hexec, rfl, rfl, rfl, rfl, hvrecs⟩

theorem directoryHit_disposes {st cell : Nat} {d : DirEntry} {q : IndexRec} (hrun : s.cap.run = some r) (hblocks : s.cap.blocks = [b])
    (hstage : b.stage = 1) (hserver : s.server b.stile = st) (hcell : b.cell = cell) (hhit : s.lookup r b.digest = some (d, q)) :
    ∃ t u, exec (.directoryLookupAnswer st cell true) s = .next t ∧ t.cap.blocks = [] ∧ t.cap.run = some u ∧
      u.drained = r.drained + 1 ∧ u.skipped = r.skipped + 1 ∧ u.bytes = r.bytes ∧
      t.cap.recs = s.cap.recs ++ [⟨b.region, b.member, b.leaf, { q with
        digest := b.digest, kind := 2, refLeaf := d.leaf, refObj := d.object, replica := 0, refShard := d.shard }, [], 0, []⟩] := by
  obtain ⟨v, hv⟩ : ∃ v, v = s.streamed { b with stalled := false } := ⟨_, rfl⟩
  have hvcap : v.cap = s.cap := by
    obtain ⟨a, sti, h⟩ := streamed_frame s { b with stalled := false }
    rw [hv, h]
  obtain ⟨rec_, hrec⟩ : ∃ l : LeafRec, l = ⟨b.region, b.member, b.leaf, { q with
    digest := b.digest, kind := 2, refLeaf := d.leaf, refObj := d.object, replica := 0, refShard := d.shard }, [], 0, []⟩ := ⟨_, rfl⟩
  have hexec : exec (.directoryLookupAnswer st cell true) s = .next (v.dispose r b.stile b.loc b.granule b.stalled true rec_) := by
    refine congrArg Host.Outcome.next ?_
    rw [hrun, lookupBlock_only hblocks hstage hserver hcell]
    dsimp only
    rw [if_pos rfl, hhit]
    dsimp only
    rw [hv, hrec]
  obtain ⟨p, n, hcap, -⟩ := dispose_records v r b.stile b.loc b.granule b.stalled true rec_
  rw [← hrec]
  refine ⟨_, _, hexec, ?_, congrArg Cap.run hcap, rfl, rfl, ?_, ?_⟩
  · rw [hcap, hvcap, hblocks]
    simp
  · exact congrArg (r.bytes + ·) (if_pos rfl)
  · rw [hcap, hvcap]

/-! CIPHER_ASSIGN (R192, R206). -/

theorem serveHeld_none (s : State) (hheld : s.stage.heldReads = []) (g : Nat) : s.serveHeld g = s := by
  unfold State.serveHeld
  split
  · rfl
  · rw [hheld]
    dsimp only [List.filter_nil, List.foldl_nil]
    rw [← hheld]

theorem fillFrame_only (hblocks : s.cap.blocks = [b]) (hheld : s.stage.heldReads = []) : ∃ ci sti stage, s.fillFrame b =
    { s with ciph := ci, stiles := sti, stage := stage, cap := { s.cap with blocks := [{ b with stage := 3 }] } } := by
  unfold State.fillFrame
  extract_lets frame sg s1 base n s2 s3 s4
  have h3 : s3 = { s2 with cap := { s2.cap with blocks := [{ b with stage := 3 }] } } := onBlock_only (s := s2) hblocks rfl rfl _
  have h4 : ∃ ci sti, s4 = { s3 with ciph := ci, stiles := sti } := by
    unfold s4
    split
    · obtain ⟨a, sti, h⟩ := streamed_frame s3 b
      exact ⟨_, sti, h⟩
    · exact ⟨_, _, rfl⟩
  obtain ⟨ci, sti, h4⟩ := h4
  rw [h3] at h4
  have hheld4 : s4.stage.heldReads = [] := by
    rw [h4]
    exact hheld
  rw [serveHeld_none s4 hheld4, h4]
  exact ⟨ci, sti, s2.stage, rfl⟩

theorem useKey_frame (s : State) (slot : Nat) : ∃ tu po su, s.useKey slot =
    { s.onKey slot fun k => { k with count := (s.keys.get slot).count + 1 } with timeUsed := tu, port := po, sump := su } := by
  unfold State.useKey
  extract_lets n t
  split
  · exact log_frame_quiet t eKeyWear (by decide) 10 slot none []
  · exact ⟨_, _, _, rfl⟩

theorem sealOn_fresh {core : Nat} {reg : Region} (hblocks : s.cap.blocks = [b]) (hiv : b.iv = none)
    (hheld : s.stage.heldReads = []) :
    let k := s.keys.get r.slot
    let sealing := gcmSeal (keyBytes k.key) (leBytes 12 k.iv.toNat)
      (aadOf r.id (reg.coord.tensor b.member) b.leaf b.codec reg.coord.elemType b.bytes.length 1) b.bytes
    ∃ q, let t := s.sealOn r core b reg
      t.cap.blocks = [q] ∧ q.stage = 3 ∧ q.iv = some k.iv ∧ q.bytes = sealing.1 ∧
         q.tag = BitVec.ofNat 128 (leNat sealing.2) ∧ (t.keys.get r.slot).count = k.count + 1 ∧ t.fins = s.fins := by
  intro k sealing
  obtain ⟨c, tag, hsealing⟩ : ∃ c tag, sealing = (c, tag) := ⟨_, _, rfl⟩
  unfold State.sealOn
  rw [hiv]
  extract_lets iv aad plain s1 ca s2 t
  have hseal : gcmSeal (keyBytes k.key) (leBytes 12 iv.toNat) aad plain = (c, tag) := hsealing
  obtain ⟨q, hq⟩ : ∃ q, q = { b with iv := some iv, tag := BitVec.ofNat 128 (leNat tag), bytes := c, core := core } := ⟨_, rfl⟩
  obtain ⟨u, hu⟩ : ∃ u, u = s2.onBlock b.stile b.granule fun _ => q := ⟨_, rfl⟩
  obtain ⟨v, hv⟩ : ∃ v, v = { u with ciph := { u.ciph with assigned := u.ciph.assigned.set core (some (b.stile, b.granule)) } } := ⟨_, rfl⟩
  have ht : t = v.fillFrame q := by
    unfold t
    rw [hseal, hv, hu, hq]
  have hs1 : s1.cap = s.cap ∧ s1.stage = s.stage ∧ s1.fins = s.fins ∧ (s1.keys.get r.slot).count = k.count + 1 := by
    obtain ⟨tu, po, su, h⟩ := useKey_frame s r.slot
    obtain ⟨f, h1, hf⟩ : ∃ f : KeySlot → KeySlot, s1 = (s.useKey r.slot).onKey r.slot f ∧ ∀ k, (f k).count = k.count := ⟨_, rfl, fun _ => rfl⟩
    rw [h1, h]
    refine ⟨rfl, rfl, rfl, ?_⟩
    simp only [State.onKey, get_modify_self, hf]
    rfl
  obtain ⟨hcap1, hstage1, hfins1, hcount1⟩ := hs1
  have hblocks2 : s2.cap.blocks = [b] := by
    show s1.cap.blocks = [b]
    rw [hcap1, hblocks]
  have hs2 : s2.stage = s.stage ∧ s2.fins = s.fins ∧ s2.keys = s1.keys := ⟨hstage1, hfins1, rfl⟩
  clear_value s2 t
  obtain ⟨hstage2, hfins2, hkeys2⟩ := hs2
  rw [onBlock_only hblocks2 rfl rfl] at hu
  have hvb : v.cap.blocks = [q] := by rw [hv, hu]
  have hvheld : v.stage.heldReads = [] := by
    rw [hv, hu]
    exact (congrArg Staging.heldReads hstage2).trans hheld
  have hvkept : v.fins = s.fins ∧ v.keys = s1.keys := by
    rw [hv, hu]
    exact ⟨hfins2, hkeys2⟩
  obtain ⟨ci, sti, stage, hfill⟩ := fillFrame_only hvb hvheld
  rw [ht, hfill]
  refine ⟨{ q with stage := 3 }, rfl, rfl, ?_, ?_, ?_, ?_, hvkept.1⟩
  · rw [hq]
    rfl
  · rw [hq, hsealing]
  · rw [hq, hsealing]
  · exact (congrArg (fun m => (m.get r.slot).count) hvkept.2).trans hcount1

theorem cipherAssign_seals {core : Nat} {reg : Region} (hrun : s.cap.run = some r) (hblocks : s.cap.blocks = [b]) (hstage : b.stage = 2)
    (hstop : s.drbg.stop = false) (hfree : s.coreFree core = true) (hreg : r.reg b.region = some reg) :
    exec (.cipherAssign core) s = .next (s.sealOn r core b reg) := by
  have hfree' := hfree
  simp only [State.coreFree, Bool.and_eq_true] at hfree'
  obtain ⟨⟨-, hdom⟩, -⟩ := hfree'
  refine congrArg Host.Outcome.next ?_
  rw [hrun, hblocks, List.find?_cons_of_pos (by simp [hstage])]
  dsimp only
  rw [engineBlocks_only hblocks (by omega), hstop, if_neg (by decide), hdom, if_neg (by simp), hfree, if_neg (by decide), hreg]

/-! The end of a Write (R180, R204). -/

theorem block?_place {st g : Nat} (hb : s.block? st g = some b) : b.stile = st ∧ b.granule = g := by
  have h := List.find?_some hb
  simpa using h

theorem block?_onBlock {st g : Nat} (hb : s.block? st g = some b) {f : Block → Block} (hf : ∀ c, (f c).stile = c.stile ∧ (f c).granule = c.granule) :
    (s.onBlock st g f).block? st g = some (f b) := by
  obtain ⟨hst, hg⟩ := block?_place hb
  have hfind : s.cap.blocks.find? (fun c => c.stile == st && c.granule == g) = some b := hb
  have hsame : ((fun c : Block => c.stile == st && c.granule == g) ∘ fun c : Block => if c.stile = st ∧ c.granule = g then f c else c) =
      fun c => c.stile == st && c.granule == g := by
    funext c
    dsimp only [Function.comp]
    split
    · rw [(hf c).1, (hf c).2]
    · rfl
  unfold State.onBlock State.block?
  dsimp only
  rw [List.find?_map, hsame, hfind, Option.map_some, if_pos ⟨hst, hg⟩]

theorem blockWriteComplete_records {st g : Nat} {reg : Region} (hb : s.block? st g = some b) (hstage : b.stage = 3) (hrun : s.cap.run = some r)
    (hreg : r.reg b.region = some reg) : ∃ t u, exec (.blockWriteComplete st g) s = .next t ∧ t.cap.run = some u ∧ u.drained = r.drained + 1 ∧
      u.bytes = r.bytes + b.bytes.length ∧ t.cap.blocks = s.cap.blocks.filter (fun q => !(q.stile == b.stile && q.granule == b.granule)) ∧
      t.cap.recs = s.cap.recs ++
        [⟨b.region, b.member, b.leaf, r.ownRec b reg (if r.sealed then kcvOf (s.keys.get r.slot).key else 0), b.beats, b.place, b.bytes⟩] ∧
      t.fins = s.fins := by
  obtain ⟨v, hv⟩ : ∃ v, v = (s.onNvme b.ctrl fun n => { n with open_ := n.open_.filter (· != b.cid) }).streamed { b with stalled := false } := ⟨_, rfl⟩
  have hkept : v.cap = s.cap ∧ v.fins = s.fins ∧ v.keys = s.keys := by
    obtain ⟨a, sti, h⟩ := streamed_frame (s.onNvme b.ctrl fun n => { n with open_ := n.open_.filter (· != b.cid) }) { b with stalled := false }
    rw [hv, h]
    exact ⟨rfl, rfl, rfl⟩
  obtain ⟨hcap, hfins, hkeys⟩ := hkept
  obtain ⟨l, hl⟩ : ∃ l : LeafRec, l = ⟨b.region, b.member, b.leaf,
    r.ownRec b reg (if r.sealed then kcvOf (s.keys.get r.slot).key else 0), b.beats, b.place, b.bytes⟩ := ⟨_, rfl⟩
  have hexec : exec (.blockWriteComplete st g) s = .next (v.dispose r b.stile b.loc b.granule b.stalled false l) := by
    refine congrArg Host.Outcome.next ?_
    rw [hb]
    dsimp only
    rw [if_pos hstage]
    unfold State.blockDone
    rw [hrun]
    dsimp only
    rw [hreg]
    dsimp only
    rw [← hv, hkeys, hl]
  obtain ⟨p, n, tcap, tfins⟩ := dispose_records v r b.stile b.loc b.granule b.stalled false l
  rw [← hl]
  refine ⟨_, _, hexec, congrArg Cap.run tcap, rfl, ?_, ?_, ?_, tfins.trans hfins⟩
  · exact congrArg (r.bytes + ·) (by rw [hl]; rfl)
  · rw [tcap, hcap]
  · rw [tcap, hcap]

/-- The state in which a block's Write has failed: its command is over, and it has left its cell and core. -/
def writeOver (s : State) (b : Block) : State := (s.onNvme b.ctrl fun n => { n with open_ := n.open_.filter (· != b.cid) }).streamed b

theorem writeOver_keeps (s : State) (b : Block) : (writeOver s b).cap = s.cap ∧ (writeOver s b).fins = s.fins ∧ (writeOver s b).cmds = s.cmds := by
  obtain ⟨a, sti, h⟩ := streamed_frame (s.onNvme b.ctrl fun n => { n with open_ := n.open_.filter (· != b.cid) }) b
  unfold writeOver
  rw [h]
  exact ⟨rfl, rfl, rfl⟩

theorem blockWriteFailed_eq {st g : Nat} (hb : s.block? st g = some b) (hstage : b.stage = 3) : exec (.blockWriteFailed st g) s = .next
    (if 2 ≤ b.fails then (writeOver s b).capFail sMediaError false
      else (writeOver s b).onBlock b.stile b.granule fun b => { b with fails := b.fails + 1, stage := 4 }) := by
  refine congrArg Host.Outcome.next ?_
  rw [hb]
  dsimp only
  rw [if_pos (Or.inr hstage)]
  exact if_neg (by omega)

theorem blockWriteFailed_again {st g : Nat} (hb : s.block? st g = some b) (hstage : b.stage = 3) (hfails : b.fails < 2) :
    ∃ t, exec (.blockWriteFailed st g) s = .next t ∧ t.block? st g = some { b with fails := b.fails + 1, stage := 4 } ∧ t.fins = s.fins := by
  obtain ⟨hcap, hfins, -⟩ := writeOver_keeps s b
  obtain ⟨rfl, rfl⟩ := block?_place hb
  refine ⟨_, (blockWriteFailed_eq hb hstage).trans (congrArg _ (if_neg (by omega))), ?_, hfins⟩
  have hover : (writeOver s b).block? b.stile b.granule = some b := by
    unfold State.block?
    rw [hcap]
    exact hb
  exact block?_onBlock hover (f := fun b => { b with fails := b.fails + 1, stage := 4 }) fun _ => ⟨rfl, rfl⟩

theorem blockWriteFailed_ends {st g : Nat} {x : Sub} (hb : s.block? st g = some b) (hstage : b.stage = 3) (hfails : 2 ≤ b.fails)
    (hcapturing : s.capturing r x) : ∃ t, exec (.blockWriteFailed st g) s = .next t ∧ CaptureEnded r x sMediaError s t := by
  obtain ⟨hcap, hfins, hcmds⟩ := writeOver_keeps s b
  obtain ⟨hrun, hcmd, c, hc, htwin⟩ := hcapturing
  have hover : (writeOver s b).capturing r x :=
    ⟨(congrArg Cap.run hcap).trans hrun, hcmd, c, (congrArg (List.find? (isCmd x)) hcmds).trans hc, htwin⟩
  obtain ⟨⟨trun, tblocks, tphase, tcmds, tfins⟩, -⟩ := capFail_ends hover (st := sMediaError) (by decide)
  exact ⟨_, (blockWriteFailed_eq hb hstage).trans (congrArg _ (if_pos hfails)), trun, tblocks, tphase, by rw [tcmds, hcmds], by rw [tfins, hfins]⟩

/-! A core that fails (R207). -/

theorem notice_frame (s : State) (k : Nat) (c : BitVec 16) : ∃ cn cw, s.notice k c = { s with chain := cn, chainW := cw } := by
  unfold State.notice
  split_ifs <;> exact ⟨_, _, rfl⟩

theorem setReasons_frame (s : State) (v : BitVec 16) : ∃ tu po su cn cw sv, s.setReasons v =
    { s with timeUsed := tu, port := po, sump := su, chain := cn, chainW := cw, svc := sv } := by
  unfold State.setReasons
  split
  · exact ⟨_, _, _, _, _, _, rfl⟩
  · extract_lets old sv s1 s2
    split
    · obtain ⟨tu, po, su, cn, cw, hlog⟩ := log_frame_ex (s := s2) eReplRaised 3 0 0 none (leBytes 2 v.toNat)
      obtain ⟨cn', cw', h⟩ := notice_frame (s2.log eReplRaised 3 0 0 none (leBytes 2 v.toNat)) 1 eReplRaised
      rw [h, hlog]
      exact ⟨_, _, _, _, _, _, rfl⟩
    · split
      · obtain ⟨tu, po, su, cn, cw, hlog⟩ := log_frame_ex (s := s2) eReplCleared 1 0 0 none []
        obtain ⟨cn', cw', h⟩ := notice_frame (s2.log eReplCleared 1 0 0 none []) 3 eReplCleared
        rw [h, hlog]
        exact ⟨_, _, _, _, _, _, rfl⟩
      · exact ⟨_, _, _, _, _, _, rfl⟩

theorem coreFail_out {core : Nat} (hcore : core < 16) (hok : bit s.ciph.failed core = false) : ∃ t, exec (.cipherCoreFail core) s = .next t ∧
    t.ciph.failed = setBit s.ciph.failed core true ∧ t.ciph.assigned.get core = none ∧
    (∀ st g, s.ciph.assigned.get core = some (st, g) → t.cap.blocks = s.cap.blocks.map fun b =>
      if b.stile = st ∧ b.granule = g then { b with stage := 2 } else b) ∧
    (s.ciph.assigned.get core = none → t.cap = s.cap) := by
  have hexec : exec (.cipherCoreFail core) s = .next (s.coreFailed core) := by
    refine congrArg Host.Outcome.next (if_neg ?_)
    rintro (h | h)
    · omega
    · exact Bool.false_ne_true (hok.symm.trans h)
  suffices h : (s.coreFailed core).ciph.failed = setBit s.ciph.failed core true ∧ (s.coreFailed core).ciph.assigned.get core = none ∧
      (s.coreFailed core).cap = (match s.ciph.assigned.get core with
        | some (st, g) => s.onBlock st g fun b => { b with stage := 2 }
        | none => s).cap by
    obtain ⟨hfailed, hassigned, hcap⟩ := h
    refine ⟨_, hexec, hfailed, hassigned, fun st g hget => ?_, fun hget => ?_⟩
    · rw [hcap, hget]
      rfl
    · rw [hcap, hget]
  unfold State.coreFailed
  extract_lets s1 ci s2 s3 up
  have hciph : s1.ciph = s.ciph := by
    unfold s1
    split <;> rfl
  have hlast : ∃ tu po su cn cw sv, (if up < 8 then s3.raise 2 else s3) =
      { s2 with timeUsed := tu, port := po, sump := su, chain := cn, chainW := cw, svc := sv } := by
    obtain ⟨tu, po, su, cn, cw, hlog⟩ := log_frame_ex (s := s2) sDegraded 0 4 core none []
    have h3 : s3 = _ := hlog
    split
    · obtain ⟨tu', po', su', cn', cw', sv, h⟩ := setReasons_frame s3 (setBit s3.svc.reasons 2 true)
      unfold State.raise
      rw [h, h3]
      exact ⟨_, _, _, _, _, _, rfl⟩
    · exact ⟨_, _, _, _, _, _, h3⟩
  obtain ⟨tu, po, su, cn, cw, sv, hlast⟩ := hlast
  rw [hlast]
  refine ⟨?_, get_set_self .., rfl⟩
  show setBit s1.ciph.failed core true = _
  rw [hciph]

end

/-- Settles O22: the one block under way is followed through its cell, the directory, a core and its Write; a failed core's block waits again. -/
theorem blocksAreMadeAndEnd : Obligations.BlocksAreMadeAndEnd := by
  unfold Obligations.BlocksAreMadeAndEnd
  refine ⟨fun s r hrun hsealed hheldReads => ⟨?_, ?_, ?_⟩, fun s => ⟨?_, ?_, ?_, fun core hcore hok => coreFail_out hcore hok⟩⟩
  · intro st cell g loc i rid reg m k e hphase hblocks hfree hserves hthin hheld hnext hleaf hdedup
    obtain ⟨b, htaken⟩ := takeGranule_starts (st := st) (cell := cell) (loc := loc) hrun hsealed hblocks (server_of_serves hserves) hleaf hdedup
    exact ⟨_, b, cellTakeUnit_takes hrun hphase hblocks hfree hserves hthin hheld hnext, htaken⟩
  · intro st cell b reg hblocks hstage hserver hcell hreg
    exact ⟨directoryMiss_encodes hrun hsealed hblocks hstage hserver hcell hreg,
      fun d q hhit => directoryHit_disposes hrun hblocks hstage hserver hcell hhit⟩
  · intro core b reg hblocks hstage hiv hstop hfree hreg
    obtain ⟨q, hsealedAs⟩ := sealOn_fresh (core := core) (r := r) (reg := reg) hblocks hiv hheldReads
    exact ⟨_, q, cipherAssign_seals hrun hblocks hstage hstop hfree hreg, hsealedAs⟩
  · exact fun st g b r reg hb hstage hrun hreg => blockWriteComplete_records hb hstage hrun hreg
  · exact fun st g b hb hstage hfails => blockWriteFailed_again hb hstage hfails
  · exact fun st g b r x hb hstage hfails hcapturing => blockWriteFailed_ends hb hstage hfails hcapturing

end Sys2Proof.Proofs
end

section
/-! PROOFS. Captures committed or ended, copies, stalls and staging (R46, R150, R155, R157, R159, R173, R176, R197, R203). -/

namespace Sys2Proof.Proofs
open Sys2Proof Sys2Proof.Machine Sys2Proof.Laws

/-! The commit. -/

section
variable {s : State} {x : Sub} {r : CapRun}

theorem onMedia_commits {h : Nat} {m : Media} (hm : s.mounted h = some m) (f : Media → Media) : ∃ sto, s.onMedia h f = { s with sto := sto } ∧
    ∀ t : State, t.sto = sto → t.mounted h = some (f m) := by
  obtain ⟨i, hmount⟩ : ∃ i, s.sto.mount.get h = some i := by
    unfold State.mounted at hm
    split at hm
    · exact ⟨_, ‹_›⟩
    · nomatch hm
  have hi : s.sto.media[i]? = some m := by
    rw [State.mounted, hmount] at hm
    exact hm
  obtain ⟨hlt, -⟩ := List.getElem?_eq_some_iff.mp hi
  refine ⟨_, onMedia_of hmount hi f, fun t ht => ?_⟩
  refine mounted_of (i := i) (by rw [ht]; exact hmount) ?_
  rw [ht]
  exact List.getElem?_set_self hlt

theorem capReport_sto {st : BitVec 16} {c : Cmd} (hcmd : r.cmd = some x) (hc : s.cmd? x = some c) (htwin : c.twin = false) (hst : isRefusal st = false) :
    (s.capReport r st false).sto = s.sto := by
  obtain ⟨u, hu, hkept⟩ : ∃ u : State, s.capReport r st false = u.finish x (termPhase st) st r.id r.drained r.words ∧ u.sto = s.sto ∧ u.cmd? x = some c := by
    unfold State.capReport State.capReportAs
    rw [hcmd]
    exact ⟨_, rfl, rfl, hc⟩
  obtain ⟨cl, ch, m, tr, hframe⟩ := finish_frame (s := u) (ph := termPhase st) (n := r.drained) (v := r.id) (l := r.words) hkept.2 htwin hst
  rw [hu, hframe]
  exact hkept.1

theorem captureCommit_commits {md : Media} {e : Ext} (hcap : s.capturing r x) (hphase : r.phase = 5) (hm : s.mounted r.store = some md)
    (hdown : s.storeDown r.store = none) (hfault : storeFault e = none) (hdeg : r.degraded = false) (hcores : s.fewCores = false) :
    ∃ t, exec (.captureCommit e) s = .next t ∧ t.cap.run = none ∧ t.mounted r.store = some (md.commit (s.objectOf r md)) ∧
      t.fins = s.fins ++ [⟨x.chamber, x.sq, x.cid, sOk, r.id⟩] ∧ t.cmds = s.cmds.filter (fun c => !isCmd x c) ∧ (t.un r.chamber).cap.phase = 0 := by
  obtain ⟨hrun, hcmd, c, hc, htwin⟩ := hcap
  obtain ⟨sto, hmedia, hmounted⟩ := onMedia_commits hm fun m => m.commit (s.objectOf r md)
  obtain ⟨dg, hsg⟩ := extendSg_frame { s with sto := sto } (s.ch r.chamber).sg (s.objectOf r md).manifest
  obtain ⟨u, hu⟩ : ∃ u, u = { s with sto := sto, dgt := dg, cap := { s.cap with run := none, recs := [] } } := ⟨_, rfl⟩
  obtain ⟨v, hv⟩ : ∃ v, v = if r.sealed then u.onKey r.slot fun k => { k with reserved := k.reserved - r.reserved } else u := ⟨_, rfl⟩
  have hkept : v.sto = sto ∧ v.fins = s.fins ∧ v.cmds = s.cmds ∧ v.cap.run = none ∧ v.fewCores = s.fewCores := by
    have huk : u.sto = sto ∧ u.fins = s.fins ∧ u.cmds = s.cmds ∧ u.cap.run = none ∧ u.fewCores = s.fewCores := by
      rw [hu]
      exact ⟨rfl, rfl, rfl, rfl, rfl⟩
    rw [hv]
    split
    · exact huk
    · exact huk
  obtain ⟨hsto, hfins, hcmds, hvrun, hfew⟩ := hkept
  have hexec : exec (.captureCommit e) s = .next (v.capReport r sOk false) := by
    refine congrArg Host.Outcome.next ?_
    rw [hrun]
    dsimp -zeta only
    rw [if_neg (not_not_intro hphase), hm]
    dsimp -zeta only
    rw [hdown]
    dsimp -zeta only
    rw [hfault]
    dsimp -zeta only
    extract_lets o s1 ca s2 s3
    have hs1 : s1 = { s with sto := sto, dgt := dg } := by
      unfold s1
      rw [hmedia]
      exact hsg
    have hs3 : s3 = v := by
      unfold s3 s2 ca
      rw [hs1, hv, hu]
    rw [hs3, hdeg, hfew, hcores]
    rfl
  have hc' : v.cmd? x = some c := (congrArg (List.find? (isCmd x)) hcmds).trans hc
  obtain ⟨tfins, tcmds, tcap, -, tphase⟩ := capReport_ends hcmd hc' htwin (st := sOk) (by decide)
  refine ⟨_, hexec, (congrArg Cap.run tcap).trans hvrun, hmounted _ ?_, tfins.trans (by rw [hfins]), tcmds.trans (by rw [hcmds]), tphase⟩
  rw [capReport_sto hcmd hc' htwin (by decide), hsto]

theorem sealWaitTimeout_ends {b : Block} (hcap : s.capturing r x) (hstop : s.drbg.stop = true) (hblocks : s.cap.blocks = [b]) (hstage : b.stage = 2) :
    ∃ t, exec .sealWaitTimeout s = .next t ∧ CaptureEnded r x sNotInState s t :=
  ⟨_, congrArg Host.Outcome.next (if_pos (by simp [hstop, hblocks, hstage])), (capFail_ends hcap (by decide)).1⟩

end

/-! ## Held requests that have gone on -/

/-- A stile's map holds no request at `st`, in whatever form the map is written. -/
def HeldGone (st : Nat) (m : SMap Stile) : Prop := (m.get st).held = [] ∧ ∀ p ∈ m.entries, p.1 = st → p.2.held = []

section
variable {st : Nat} {m : SMap Stile} {s : State}

theorem heldGone_set_self (v : Stile) (hv : v.held = []) : HeldGone st (m.set st v) := by
  refine ⟨by rw [get_set_self]; exact hv, fun p hp hst => ?_⟩
  unfold SMap.set at hp
  split at hp
  · exact absurd hst (smErase_mem hp).2
  · rcases smInsert_mem hp with h | h
    · rw [h]; exact hv
    · exact absurd hst (smErase_mem h).2

theorem heldGone_set_ne {j : Nat} (hj : st ≠ j) (v : Stile) (h : HeldGone st m) : HeldGone st (m.set j v) := by
  refine ⟨by rw [get_set_ne _ _ hj]; exact h.1, fun p hp hst => ?_⟩
  unfold SMap.set at hp
  split at hp
  · exact h.2 p (smErase_mem hp).1 hst
  · rcases smInsert_mem hp with hp | hp
    · exact absurd (by rw [← hst, hp]) hj
    · exact h.2 p (smErase_mem hp).1 hst

theorem heldGone_modify (j : Nat) (f : Stile → Stile) (hf : ∀ t, t.held = [] → (f t).held = []) (h : HeldGone st m) : HeldGone st (m.modify j f) := by
  by_cases hj : st = j
  · rw [← hj]
    exact heldGone_set_self _ (hf _ h.1)
  · exact heldGone_set_ne hj _ h

theorem smLookup_of_mem {V : Type} {k : Nat} {v : V} {l : List (Nat × V)} (h : smLookup k l = some v) : (k, v) ∈ l := by
  induction l with
  | nil => nomatch h
  | cons p l ih =>
    unfold smLookup at h
    split at h
    · rename_i hk
      rw [← hk, ← Option.some.inj h]
      exact List.mem_cons_self
    · exact List.mem_cons_of_mem _ (ih h)

theorem not_mem_of_smLookup {V : Type} {k : Nat} {l : List (Nat × V)} (h : smLookup k l = none) (v : V) : (k, v) ∉ l := by
  induction l with
  | nil => exact List.not_mem_nil
  | cons p l ih =>
    unfold smLookup at h
    split at h
    · nomatch h
    · rename_i hk
      intro hmem
      rcases List.mem_cons.mp hmem with rfl | hmem
      · exact hk rfl
      · exact ih h hmem

theorem heldGone_mapAll (f : Stile → Stile) (hf : ∀ t, t.held = [] → (f t).held = []) (h : HeldGone st m) : HeldGone st (m.mapAll f) := by
  have hentries : ∀ p ∈ (m.mapAll f).entries, p.1 = st → p.2.held = [] := by
    intro p hp hst
    obtain ⟨q, hq, rfl⟩ := List.mem_map.mp (List.mem_filter.mp hp).1
    exact hf _ (h.2 q hq hst)
  have hdflt : smLookup st (m.mapAll f).entries = none → (f m.dflt).held = [] := by
    intro hnone
    cases hlook : smLookup st m.entries with
    | none =>
      have h1 := h.1
      rw [SMap.get, hlook] at h1
      exact hf _ h1
    | some v =>
      have hmem := smLookup_of_mem hlook
      have hdropped : f v = f m.dflt := by
        by_contra hne
        exact not_mem_of_smLookup hnone (f v) (List.mem_filter.mpr ⟨List.mem_map.mpr ⟨_, hmem, rfl⟩, decide_eq_true hne⟩)
      rw [← hdropped]
      exact hf _ (h.2 _ hmem rfl)
  refine ⟨?_, hentries⟩
  unfold SMap.get
  cases hlook : smLookup st (m.mapAll f).entries with
  | none => exact hdflt hlook
  | some v => exact hentries _ (smLookup_of_mem hlook) rfl

/-! What keeps a stile without held requests. -/

theorem heldGone_setGran (g : Nat) (b : GBits) (h : HeldGone st s.stiles) : HeldGone st (s.setGran g b).stiles := by
  unfold State.setGran
  split
  · refine heldGone_modify _ _ (fun t ht => ?_) h
    unfold Stile.setBits Stile.absorb
    dsimp only
    split <;> exact ht
  · exact h

theorem heldGone_forward (n : Nat) (r : HReq) (h : HeldGone st s.stiles) : HeldGone st (s.forward n r).stiles := by
  obtain ⟨m, f, hreq⟩ := memReq_frame s r
  unfold State.forward
  rw [hreq]
  exact heldGone_modify _ _ (fun t ht => ht) h

theorem heldGone_foldl {α : Type} {f : State → α → State} (hf : ∀ s a, HeldGone st s.stiles → HeldGone st (f s a).stiles) (l : List α) (s : State)
    (h : HeldGone st s.stiles) : HeldGone st (l.foldl f s).stiles := by
  induction l generalizing s with
  | nil => exact h
  | cons a l ih => exact ih _ (hf s a h)

theorem heldGone_releaseAll (n : Nat) (h : HeldGone st s.stiles) : HeldGone st (s.releaseAll n).stiles :=
  heldGone_foldl (fun _ _ hs => heldGone_forward _ _ hs) _ _ (heldGone_modify _ _ (fun _ _ => rfl) h)

theorem heldGone_releaseAll_self (s : State) : HeldGone st (s.releaseAll st).stiles :=
  heldGone_foldl (fun _ _ hs => heldGone_forward _ _ hs) _ _ (heldGone_set_self _ rfl)

theorem relevel_stiles (s : State) (ch : Nat) : (s.relevel ch).stiles = s.stiles := by
  obtain ⟨f, cap, tu, po, su, cn, cw, h⟩ := relevel_frame s ch
  rw [h]
  rfl

theorem relevelAll_stiles (s : State) : s.relevelAll.stiles = s.stiles := by
  unfold State.relevelAll
  induction s.chambers.entries.map (·.1) generalizing s with
  | nil => rfl
  | cons ch l ih => rw [List.foldl_cons, ih, relevel_stiles]

theorem heldGone_dropShares (c d : Copy → Bool) (h : HeldGone st s.stiles) : HeldGone st (s.dropShares c d).stiles := by
  unfold State.dropShares
  extract_lets f t
  rw [relevelAll_stiles]
  exact heldGone_mapAll _ (fun _ ht => ht) h

theorem heldGone_loseGuard (ch : Nat) (h : HeldGone st s.stiles) : HeldGone st (s.loseGuard ch).stiles := by
  unfold State.loseGuard
  split
  · exact h
  · extract_lets t
    rw [log_stiles]
    exact heldGone_dropShares _ _ h

theorem heldGone_releaseEach {l : List Nat} (hst : st ∈ l) (s : State) : HeldGone st (l.foldl State.releaseAll s).stiles := by
  induction l generalizing s with
  | nil => simp at hst
  | cons n l ih =>
    by_cases h : st ∈ l
    · exact ih h _
    · have hn : st = n := (List.mem_cons.mp hst).resolve_right h
      rw [List.foldl_cons, ← hn]
      exact heldGone_foldl (fun s a hs => heldGone_releaseAll a hs) l _ (heldGone_releaseAll_self s)

theorem heldGone_capClear (r : CapRun) (hst : st < s.stileCount) : HeldGone st (s.capClear r).stiles := by
  unfold State.capClear
  extract_lets s1 s2 ca ci sg s3 s4
  have h2 : HeldGone st s2.stiles := heldGone_dropShares _ _ (heldGone_releaseEach (List.mem_range.mpr hst) s)
  have h3 : HeldGone st s3.stiles := heldGone_mapAll _ (fun _ ht => ht) h2
  have h4 : s4.stiles = s3.stiles := by
    obtain ⟨fz, h⟩ := dropFreeze_frame s3 none
    exact (congrArg State.stiles h).trans rfl
  split
  · show HeldGone st s4.stiles
    rw [h4]
    exact h3
  · rw [h4]
    exact h3

theorem stileCount_of_steady {t : State} (h : steady t = steady s) : t.stileCount = s.stileCount :=
  congrArg (fun b : Build => b.stiles) ((congrArg State.build h).trans rfl)

theorem capReport_stiles {x : Sub} {r : CapRun} {c : Cmd} {code : BitVec 16} (hcmd : r.cmd = some x) (hc : s.cmd? x = some c) (htwin : c.twin = false)
    (hcode : isRefusal code = false) : (s.capReport r code false).stiles = s.stiles := by
  obtain ⟨u, hu, hstiles, hcu⟩ : ∃ u : State, s.capReport r code false = u.finish x (termPhase code) code r.id r.drained r.words ∧
      u.stiles = s.stiles ∧ u.cmd? x = some c := by
    unfold State.capReport State.capReportAs
    rw [hcmd]
    exact ⟨_, rfl, rfl, hc⟩
  obtain ⟨cl, ch, m, tr, hframe⟩ := finish_frame (s := u) (ph := termPhase code) (n := r.drained) (v := r.id) (l := r.words) hcu htwin hcode
  rw [hu, hframe]
  exact hstiles

theorem capFail_held {x : Sub} {r : CapRun} {code : BitVec 16} (hcap : s.capturing r x) (hcode : isRefusal code = false) (hst : st < s.stileCount) :
    ((s.capFail code false).st st).held = [] := by
  obtain ⟨hrun, hcmd, c, hc, htwin⟩ := hcap
  have hundo := steady_capUndo s r
  obtain ⟨fz, hclear, -⟩ := steady_capClear (s.capUndo r) r
  rw [hundo] at hclear
  have hcmds : ((s.capUndo r).capClear r).cmds = s.cmds := (congrArg State.cmds hclear).trans rfl
  have hc' : ((s.capUndo r).capClear r).cmd? x = some c := (congrArg (List.find? (isCmd x)) hcmds).trans hc
  have hgone := heldGone_capClear (s := s.capUndo r) r (by rw [stileCount_of_steady hundo]; exact hst)
  unfold State.capFail
  rw [hrun]
  dsimp only
  unfold State.st
  rw [capReport_stiles hcmd hc' htwin hcode]
  exact hgone.1

end

section
variable {s : State} {x : Sub} {r : CapRun} {st : Nat}

theorem heldWriteLimit_ends (hcap : s.capturing r x) (hst : st < s.stileCount) (hheld : (s.st st).held ≠ []) :
    ∃ t, exec (.heldWriteLimit st) s = .next t ∧ CaptureEnded r x sReserveExhausted s t ∧ (t.st st).held = [] := by
  have hexec : exec (.heldWriteLimit st) s = .next (s.capFail sReserveExhausted false) := by
    refine congrArg Host.Outcome.next ((if_neg ?_).trans ?_)
    · rw [List.isEmpty_iff]
      exact hheld
    · rw [hcap.1]
  exact ⟨_, hexec, (capFail_ends hcap (by decide)).1, capFail_held hcap (by decide) hst⟩

theorem releaseAll_frame (s : State) (st : Nat) : ∃ m f sti, s.releaseAll st = { s with mem := m, free := f, stiles := sti } := by
  unfold State.releaseAll
  extract_lets go t
  obtain ⟨m, f, sti, h⟩ := forwards_frame t st go
  exact ⟨m, f, sti, h⟩

theorem heldWriteLimit_releases (hrun : s.cap.run = none) (hheld : (s.st st).held ≠ []) :
    ∃ t, exec (.heldWriteLimit st) s = .next t ∧ (t.st st).held = [] ∧ t.cap = s.cap ∧ t.fins = s.fins := by
  have hexec : exec (.heldWriteLimit st) s = .next (s.releaseAll st) := by
    refine congrArg Host.Outcome.next ((if_neg ?_).trans ?_)
    · rw [List.isEmpty_iff]
      exact hheld
    · rw [hrun]
  have hgone := (heldGone_releaseAll_self (st := st) s).1
  obtain ⟨m, f, sti, h⟩ := releaseAll_frame s st
  exact ⟨_, hexec, hgone, (congrArg State.cap h).trans rfl, (congrArg State.fins h).trans rfl⟩

/-! The loss of a mover (R46, R176). -/

/-- What the loss of a mover leaves alone of everything but its stile: the completions, the commands, the power state, no capture runs, and where
granules are placed. -/
structure LossKeeps (s t : State) : Prop where
  fins : t.fins = s.fins
  cmds : t.cmds = s.cmds
  pwr : t.pwr = s.pwr
  place : ∀ g, t.place g = s.place g

theorem LossKeeps.trans {s t u : State} (h : LossKeeps s t) (h' : LossKeeps t u) : LossKeeps s u :=
  ⟨h'.fins.trans h.fins, h'.cmds.trans h.cmds, h'.pwr.trans h.pwr, fun g => (h'.place g).trans (h.place g)⟩

theorem LossKeeps.foldl {α : Type} {f : State → α → State} (hf : ∀ s a, LossKeeps s (f s a)) (l : List α) (s : State) : LossKeeps s (l.foldl f s) := by
  induction l generalizing s with
  | nil => exact ⟨rfl, rfl, rfl, fun _ => rfl⟩
  | cons a l ih => exact (hf s a).trans (ih _)

theorem place_of_port {s t : State} {v : BitVec 8} (h : t.port = { s.port with irqStatus := v }) (g : Nat) : t.place g = s.place g := by
  unfold State.place
  rw [h]

theorem log_port (s : State) (c : BitVec 16) (v k i : Nat) (ch : Option Nat) (d : List Byte) :
    ∃ q, (s.log c v k i ch d).port = { s.port with irqStatus := q } := by
  unfold State.log
  extract_lets s1 u first crossed u1 u2 s2 s3
  have hs3 : ∃ q, s3.port = { s.port with irqStatus := q } := by
    unfold s3
    split
    · exact ⟨_, rfl⟩
    · exact ⟨s.port.irqStatus, rfl⟩
  obtain ⟨q, hs3⟩ := hs3
  split
  · obtain ⟨cn, cw, h⟩ := notice_frame (s3.cause 0) 2 c
    refine ⟨_, (congrArg State.port h).trans (show (s3.cause 0).port = { s.port with irqStatus := setBit q 0 true } from ?_)⟩
    show { s3.port with irqStatus := setBit s3.port.irqStatus 0 true } = _
    rw [hs3]
  · exact ⟨q, hs3⟩

theorem lossKeeps_log (s : State) (c : BitVec 16) (v k i : Nat) (ch : Option Nat) (d : List Byte) : LossKeeps s (s.log c v k i ch d) := by
  obtain ⟨q, hport⟩ := log_port s c v k i ch d
  exact ⟨log_fins .., log_cmds .., log_pwr .., place_of_port hport⟩

theorem lossKeeps_relevel (s : State) (ch : Nat) : LossKeeps s (s.relevel ch) := by
  unfold State.relevel
  extract_lets c r n up warn stall s1 cap1 s2 s3
  have h2 : LossKeeps s s2 := ⟨rfl, rfl, rfl, fun _ => rfl⟩
  have h3 : LossKeeps s s3 := by
    unfold s3
    split
    · exact h2.trans ⟨rfl, rfl, rfl, fun g => place_of_port (v := setBit s2.port.irqStatus 1 true) rfl g⟩
    · exact h2
  split
  · exact h3.trans (lossKeeps_log ..)
  · exact h3

theorem lossKeeps_relevelAll (s : State) : LossKeeps s s.relevelAll := LossKeeps.foldl lossKeeps_relevel _ s

theorem lossKeeps_dropShares (s : State) (c d : Copy → Bool) : LossKeeps s (s.dropShares c d) := by
  unfold State.dropShares
  extract_lets f t
  have ht : LossKeeps s t := ⟨rfl, rfl, rfl, fun _ => rfl⟩
  exact ht.trans (lossKeeps_relevelAll t)

theorem lossKeeps_loseGuard (s : State) (ch : Nat) : LossKeeps s (s.loseGuard ch) := by
  unfold State.loseGuard
  split
  · exact ⟨rfl, rfl, rfl, fun _ => rfl⟩
  · extract_lets t
    have ht : LossKeeps s t := lossKeeps_dropShares ..
    have hguard : LossKeeps t (t.onStep ch fun t => { t with guardLost := true }) := ⟨rfl, rfl, rfl, fun _ => rfl⟩
    exact (ht.trans hguard).trans (lossKeeps_log ..)

theorem lossKeeps_releaseAll (s : State) (st : Nat) : LossKeeps s (s.releaseAll st) := by
  obtain ⟨m, f, sti, h⟩ := releaseAll_frame s st
  rw [h]
  exact ⟨rfl, rfl, rfl, fun _ => rfl⟩

/-- A stile whose mover was lost: no copies, and every granule DIRTY. -/
def lostStile (t : Stile) : Stile :=
  { t with moverOn := false, isOpen := false, copies := [], gran := .const ⟨true, false⟩, rowFlip := .const 0, flips := t.flips }

theorem lostStile_bits (t : Stile) (loc : Nat) : (lostStile t).bits loc = gDirty := by
  unfold Stile.bits Stile.absorb
  split <;> rfl

theorem bit_setBit_off {w : Nat} (v : BitVec w) (i : Nat) : bit (setBit v i false) i = false := by
  by_cases hi : i < w
  · exact bit_setBit v hi false
  · exact BitVec.getLsbD_of_ge _ _ (Nat.le_of_not_lt hi)

theorem moverLoss_loses (hrun : s.cap.run = none) (hmover : (s.st st).moverOn = true) :
    ∃ t, exec (.moverLoss st) s = .next t ∧ (t.st st).moverOn = false ∧ (t.st st).held = [] ∧ (t.st st).copies = [] ∧
      (∀ g loc, s.place g = some (st, loc) → t.gran g = gDirty) ∧ bit t.pwr.on (3 * st) = false ∧ t.fins = s.fins ∧ t.cmds = s.cmds := by
  obtain ⟨u, hu⟩ : ∃ u, u = (((s.st st).copies.filterMap (·.forStep)).eraseDups).foldl State.loseGuard (s.releaseAll st) := ⟨_, rfl⟩
  have hkeeps : LossKeeps s u := by
    rw [hu]
    exact (lossKeeps_releaseAll s st).trans (LossKeeps.foldl lossKeeps_loseGuard _ _)
  have hheld : (u.st st).held = [] := by
    have hgone : HeldGone st u.stiles := by
      rw [hu]
      exact heldGone_foldl (fun s a hs => heldGone_loseGuard a hs) _ _ (heldGone_releaseAll_self s)
    exact hgone.1
  obtain ⟨v, hv⟩ : ∃ v, v = { u.onSt st lostStile with pwr := { u.pwr with on := setBit u.pwr.on (3 * st) false } } := ⟨_, rfl⟩
  have hexec : exec (.moverLoss st) s = .next v.relevelAll := by
    refine congrArg Host.Outcome.next ((if_pos hmover).trans ?_)
    unfold State.loseMover
    extract_lets steps s1 covered s2 s3 s4 pw s5
    have hcovered : covered = false := by
      obtain ⟨m, f, sti, h⟩ := releaseAll_frame s st
      have hs1 : s1.cap.run = none := (congrArg (fun t => t.cap.run) h).trans hrun
      unfold covered
      rw [hs1]
    have hs3 : s3 = u := by
      unfold s3 s2
      rw [hcovered, hu]
      rfl
    have hs5 : s5 = v := by
      unfold s5 pw s4
      rw [hs3, hv]
      rfl
    rw [hs5]
  have hst : v.relevelAll.st st = lostStile (u.st st) := by
    unfold State.st
    rw [relevelAll_stiles, hv]
    exact get_modify_self ..
  have hlast : LossKeeps v v.relevelAll := lossKeeps_relevelAll v
  refine ⟨_, hexec, by rw [hst]; rfl, by rw [hst]; exact hheld, by rw [hst]; rfl, fun g loc hplace => ?_, ?_, ?_, ?_⟩
  · have hpl : v.relevelAll.place g = some (st, loc) := by
      rw [hlast.place, hv]
      exact (hkeeps.place g).trans hplace
    unfold State.gran
    rw [hpl]
    dsimp only
    rw [hst]
    exact lostStile_bits ..
  · rw [hlast.pwr, hv]
    exact bit_setBit_off ..
  · rw [hlast.fins, hv]
    exact hkeeps.fins
  · rw [hlast.cmds, hv]
    exact hkeeps.cmds

/-! Staging (R203). -/

section
variable {a : Access} {off : Nat}

theorem staging_open {len dom : Nat} (hreset : s.boot.resetHeld ≠ 2) (hhub : s.dom 108 = true) (hdom : s.dom dom = true) (halign : off % 128 = 0)
    (hlen : len = 128) (hoff : off < 2 ^ 28) (f : State → State) : s.staging a off len dom f = f s := by
  unfold State.staging
  rw [if_neg hreset, if_neg (by omega), hhub, hdom]
  rfl

theorem stagingRead_reads {p : StageBuf} {l : List StageBuf} (hreset : s.boot.resetHeld ≠ 2) (hread : s.dom 106 = true) (hhub : s.dom 108 = true)
    (halign : off % 128 = 0) (hoff : off < 2 ^ 28) (hposted : s.stage.posted = p :: l) (hlo : p.off ≤ off) (hhi : off < p.off + p.len)
    (hssd : p.toSsd = false) : exec (.stagingRead a off 128) s = .next ({ s.answer a 0 (BitVec.ofNat 64 (leNat ((bytesAt p.data (off - p.off) 128).take 8))) with
      stage := { s.stage with last := bytesAt p.data (off - p.off) 128 } }) := by
  refine congrArg Host.Outcome.next ((staging_open hreset hhub hread halign rfl hoff _).trans ?_)
  rw [hposted, List.find?_cons_of_pos (by simp [hlo, hhi])]
  dsimp only
  rw [hssd]
  rfl

theorem stagingWrite_stores {p : StageBuf} {d : List Byte} (hreset : s.boot.resetHeld ≠ 2) (hwrite : s.dom 107 = true) (hhub : s.dom 108 = true)
    (halign : off % 128 = 0) (hoff : off < 2 ^ 28 - 4096) (hposted : s.stage.posted = [p]) (hlo : p.off ≤ off) (hhi : off + d.length ≤ p.off + p.len)
    (hdata : p.data.length = p.len) (hssd : p.toSsd = false) (hlen : d.length = 128) :
    exec (.stagingWrite a off d) s = .next { s.answer a 0 0 with stage := { s.stage with
      posted := [{ p with data := p.data.take (off - p.off) ++ d ++ p.data.drop (off - p.off + 128) }] } } := by
  refine congrArg Host.Outcome.next ((staging_open hreset hhub hwrite halign hlen (by omega) _).trans ?_)
  have hin : (!p.toSsd && decide (p.off ≤ off ∧ off < p.off + p.len)) = true := by
    simp only [hssd, Bool.not_false, Bool.true_and, decide_eq_true_eq]
    omega
  dsimp only
  rw [if_neg (by omega), hposted, List.find?_cons_of_pos (l := []) (by exact hin)]
  dsimp only
  rw [hdata, Nat.sub_self, List.map_singleton, if_pos rfl, hlen]
  have hz : p.data ++ zeros 0 = p.data := List.append_nil _
  rw [hz]

theorem stagingRead_outside (hreset : s.boot.resetHeld ≠ 2) (hread : s.dom 106 = true) (hhub : s.dom 108 = true) (halign : off % 128 = 0)
    (hoff : off < 2 ^ 28) (hposted : s.stage.posted = []) : ∃ t, exec (.stagingRead a off 128) s = .next t ∧
      t.stage.viol = s.stage.viol + 1 ∧ (t.lanes.get a.lane).ans = ⟨0, 0⟩ ∧ t.mem = s.mem := by
  have hexec : exec (.stagingRead a off 128) s = .next (s.stageViol a off) := by
    refine congrArg Host.Outcome.next ((staging_open hreset hhub hread halign rfl hoff _).trans ?_)
    rw [hposted, List.find?_nil]
  refine ⟨_, hexec, ?_, ?_, ?_⟩
  · unfold State.stageViol State.logPartner State.logStatus
    simp only [State.answer_stage, State.cause_stage, log_stage]
  · unfold State.stageViol State.answer
    dsimp only
    rw [get_modify_self]
  · unfold State.stageViol State.logPartner State.logStatus
    simp only [State.answer_mem, State.cause_mem, log_mem]

theorem stagingReadTimeout_rebuilds {p : StageBuf} {b : Block} {len since : Nat} (hheld : s.stage.heldReads = [(off, len, a, since)])
    (hposted : s.stage.posted = [p]) (hssd : p.toSsd = true) (hlo : p.off ≤ off) (hhi : off < p.off + p.len)
    (hb : s.block? p.stile p.granule = some b) (hfails : b.fails < 2) :
    ∃ t, exec (.stagingReadTimeout off) s = .next t ∧ t.stage.heldReads = [] ∧ (t.lanes.get a.lane).ans = ⟨1, 0⟩ ∧
      t.block? p.stile p.granule = some { b with fails := b.fails + 1, stage := 4 } := by
  obtain ⟨u, hu⟩ : ∃ u, u = ({ s with stage := { s.stage with heldReads := [] } }.logStatus sTimeout 9 a.lane none (leBytes 4 off)).answer a 1 0 :=
    ⟨_, rfl⟩
  have hkept : u.stage.heldReads = [] ∧ u.stage.posted = s.stage.posted ∧ u.cap = s.cap ∧ (u.lanes.get a.lane).ans = ⟨1, 0⟩ := by
    rw [hu]
    unfold State.logStatus
    refine ⟨?_, ?_, ?_, ?_⟩
    · rw [State.answer_stage, log_stage]
    · rw [State.answer_stage, log_stage]
    · rw [State.answer_cap, log_cap]
    · unfold State.answer
      dsimp only
      rw [get_modify_self]
  obtain ⟨hheldu, hpostedu, hcapu, hans⟩ := hkept
  have hbu : u.block? p.stile p.granule = some b := by
    unfold State.block?
    rw [hcapu]
    exact hb
  have hexec : exec (.stagingReadTimeout off) s = .next
      ((writeOver u { b with stage := 3 }).onBlock b.stile b.granule fun b => { b with fails := b.fails + 1, stage := 4 }) := by
    refine congrArg Host.Outcome.next ?_
    rw [hheld, List.find?_cons_of_pos (by simp)]
    dsimp -zeta only
    rw [List.erase_cons_head]
    extract_lets sg s1 s2
    have hs2 : s2 = u := by rw [hu]
    rw [hs2, hpostedu, hposted, List.find?_cons_of_pos (by simp [hssd, hlo, hhi])]
    dsimp only
    rw [hbu]
    exact (if_neg (show (3 : Nat) ≠ 4 by decide)).trans (if_neg (show ¬2 ≤ b.fails by omega))
  obtain ⟨a', sti, hover⟩ := streamed_frame (u.onNvme b.ctrl fun n => { n with open_ := n.open_.filter (· != b.cid) }) { b with stage := 3 }
  obtain ⟨v, hv⟩ : ∃ v, v = writeOver u { b with stage := 3 } := ⟨_, rfl⟩
  have hframe := hv.trans hover
  have hbv : v.block? p.stile p.granule = some b := by
    rw [hframe]
    exact hbu
  obtain ⟨hst, hg⟩ := block?_place hb
  have hagain := block?_onBlock hbv (f := fun b => { b with fails := b.fails + 1, stage := 4 }) fun _ => ⟨rfl, rfl⟩
  rw [← hv, hst, hg] at hexec
  refine ⟨_, hexec, ?_, ?_, hagain⟩
  · show v.stage.heldReads = []
    rw [hframe]
    exact hheldu
  · show (v.lanes.get a.lane).ans = ⟨1, 0⟩
    rw [hframe]
    exact hans

/-! Copies and stalled granules (R155, R157). -/

theorem copyComplete_safe {k : Copy} (hcopies : (s.st st).copies = [k]) (hready : k.ready = false) (hheld : ∀ h ∈ (s.st st).held, h.granule ≠ k.granule) :
    ∃ t, exec (.copyComplete st) s = .next t ∧ t.st st = { s.st st with copies := [{ k with ready := true }] } ∧ (∀ i, i ≠ st → t.st i = s.st i) ∧
      t.mem = s.mem ∧ t.cap = s.cap := by
  obtain ⟨u, hu⟩ : ∃ u, u = s.onSt st fun t => { t with copies := t.copies.map fun (q : Copy) =>
    if q.granule = k.granule ∧ q.ready = false then { q with ready := true } else q } := ⟨_, rfl⟩
  have hust : u.st st = { s.st st with copies := [{ k with ready := true }] } := by
    rw [hu, State.st_onSt, hcopies, List.map_singleton, if_pos ⟨rfl, hready⟩]
  have hheldu : (u.st st).held = (s.st st).held := by rw [hust]
  have hnone : (u.st st).held.filter (fun h => h.granule == k.granule) = [] := by
    rw [hheldu, List.filter_eq_nil_iff]
    intro h hh
    simpa using hheld h hh
  have hall : (u.st st).held.filter (fun h => h.granule != k.granule) = (u.st st).held := by
    rw [hheldu, List.filter_eq_self]
    intro h hh
    simpa using hheld h hh
  obtain ⟨v, hv⟩ : ∃ v, v = u.onSt st fun t => { t with held := t.held.filter fun h => h.granule != k.granule } := ⟨_, rfl⟩
  have hexec : exec (.copyComplete st) s = .next v := by
    refine congrArg Host.Outcome.next ?_
    rw [hcopies, List.find?_cons_of_pos (by simp [hready])]
    dsimp only
    rw [← hu]
    unfold State.releaseGran
    rw [hnone, ← hv]
    rfl
  refine ⟨v, hexec, ?_, fun i hi => ?_, by rw [hv, hu]; rfl, by rw [hv, hu]; rfl⟩
  · rw [hv, State.st_onSt, hall, hust]
  · rw [hv, State.st_onSt_ne _ _ _ _ hi, hu, State.st_onSt_ne _ _ _ _ hi]

/-- A block of granule `g` of stile `st` is under way, for a stalled granule or not. -/
def UnderWay (st g : Nat) (stalled : Bool) (s : State) : Prop := ∃ b ∈ s.cap.blocks, b.granule = g ∧ b.stile = st ∧ b.stalled = stalled

theorem underWay_onBlock {g i j : Nat} {stalled : Bool} {f : Block → Block}
    (hf : ∀ b, (f b).stile = b.stile ∧ (f b).granule = b.granule ∧ (f b).stalled = b.stalled) (h : UnderWay st g stalled s) :
    UnderWay st g stalled (s.onBlock i j f) := by
  obtain ⟨b, hb, hg, hst, hstalled⟩ := h
  refine ⟨_, List.mem_map.mpr ⟨b, hb, rfl⟩, ?_⟩
  obtain ⟨h1, h2, h3⟩ := hf b
  split
  · exact ⟨h2.trans hg, h1.trans hst, h3.trans hstalled⟩
  · exact ⟨hg, hst, hstalled⟩

theorem underWay_replaced {g : Nat} {b : Block} (hst : b.stile = st) (hg : b.granule = g) (h : ∃ d ∈ s.cap.blocks, d.stile = st ∧ d.granule = g) :
    UnderWay st g b.stalled (s.onBlock st g fun _ => b) := by
  obtain ⟨d, hd, hplace⟩ := h
  exact ⟨b, List.mem_map.mpr ⟨d, hd, if_pos hplace⟩, hg, hst, rfl⟩

/-- What the start of a block of a sealed capture keeps. -/
structure StartKeeps (st g : Nat) (stalled : Bool) (s t : State) : Prop where
  underWay : UnderWay st g stalled t
  run : t.cap.run = s.cap.run
  fins : t.fins = s.fins

theorem startKeeps_emit {q : CapRun} {g : Nat} {stalled : Bool} {u : State} (hrun : s.cap.run = some q) (hsealed : q.sealed = true)
    (h : StartKeeps st g stalled s u) (i j : Nat) : StartKeeps st g stalled s (match u.block? i j with
      | some b => u.emitBlock b
      | none => u) := by
  split
  · rename_i b _
    have hemit : u.emitBlock b = u.onBlock b.stile b.granule fun b => { b with stage := 2 } := by
      unfold State.emitBlock
      rw [h.run, hrun]
      dsimp only
      rw [if_pos hsealed]
    rw [hemit]
    exact ⟨underWay_onBlock (fun _ => ⟨rfl, rfl, rfl⟩) h.underWay, h.run, h.fins⟩
  · exact h

theorem startBlock_underWay {q : CapRun} {b : Block} (hrun : s.cap.run = some q) (hsealed : q.sealed = true)
    (h : ∃ d ∈ s.cap.blocks, d.stile = b.stile ∧ d.granule = b.granule) (ty : Nat) :
    StartKeeps b.stile b.granule b.stalled s (s.startBlock r b ty) := by
  obtain ⟨codec, bytes, henc⟩ : ∃ codec bytes, (if r.flow then flowBlock ty b.content else (0, b.content)) = (codec, bytes) := ⟨_, _, rfl⟩
  obtain ⟨sto, hmedia⟩ := onMedia_frame (s := s) r.store (openZone b.place)
  obtain ⟨c, hc⟩ : ∃ c, c = { b with codec := codec, bytes := bytes } := ⟨_, rfl⟩
  obtain ⟨t, ht⟩ : ∃ t, t = { s with sto := sto } := ⟨_, rfl⟩
  have hplaced : StartKeeps b.stile b.granule b.stalled s (t.onBlock b.stile b.granule fun _ => c) := by
    have hin : ∃ d ∈ t.cap.blocks, d.stile = b.stile ∧ d.granule = b.granule := by rw [ht]; exact h
    have hunder := underWay_replaced (b := c) (by rw [hc]) (by rw [hc]) hin
    rw [show c.stalled = b.stalled by rw [hc]] at hunder
    exact ⟨hunder, by rw [ht]; rfl, by rw [ht]; rfl⟩
  have hposted : StartKeeps b.stile b.granule b.stalled s ((t.onBlock b.stile b.granule fun _ => c).postWrite c) := by
    unfold State.postWrite
    extract_lets cid u sg v
    have hv : StartKeeps b.stile b.granule b.stalled s v := ⟨hplaced.underWay, hplaced.run, hplaced.fins⟩
    exact ⟨underWay_onBlock (fun _ => ⟨rfl, rfl, rfl⟩) hv.underWay, hv.run, hv.fins⟩
  unfold State.startBlock
  rw [henc]
  dsimp only
  rw [hmedia, ← hc, ← ht]
  exact startKeeps_emit hrun hsealed hposted b.stile b.granule

theorem takeGranule_underWay {cell g loc : Nat} {q : Nat × Nat × Region × Nat × Nat} (stalled : Bool) (hrun : s.cap.run = some r)
    (hsealed : r.sealed = true) (hleaf : r.leafOf g = some q) (hdedup : r.dedup = 0) :
    UnderWay st g stalled (s.takeGranule r st cell g loc stalled) ∧ (s.takeGranule r st cell g loc stalled).fins = s.fins := by
  obtain ⟨i, rid, reg, m, k⟩ := q
  obtain ⟨d, beats, hsource⟩ : ∃ d beats, s.drainSource st g = (d, beats) := ⟨_, _, rfl⟩
  unfold State.takeGranule
  rw [hleaf, hsource]
  dsimp -zeta only
  extract_lets full q place ctrl b s1 s2 ca s3
  rw [if_neg (by simp [hdedup]), if_neg (by simp [hdedup])]
  obtain ⟨tu, po, su, cn, cw, p, h1⟩ := notePoison_frame hrun beats rid k
  change s1 = _ at h1
  have hrun3 : s3.cap.run = some { r with poisoned := p } := by
    show s1.cap.run = _
    rw [h1]
  have hfins3 : s3.fins = s.fins := by
    show s1.fins = s.fins
    rw [h1]
  have hin : ∃ d ∈ s3.cap.blocks, d.stile = b.stile ∧ d.granule = b.granule :=
    ⟨b, List.mem_append_right _ (List.mem_singleton_self b), rfl, rfl⟩
  have hstart := startBlock_underWay (s := s3) (r := r) (b := b) hrun3 hsealed hin reg.coord.elemType
  exact ⟨hstart.underWay, hstart.fins.trans hfins3⟩

theorem releaseGran_released (s : State) (st g : Nat) : ∀ h ∈ ((s.releaseGran st g).st st).held, h.granule ≠ g := by
  unfold State.releaseGran
  extract_lets go t
  have ht : ∀ h ∈ (t.st st).held, h.granule ≠ g := by
    intro h hh
    have hheld : (t.st st).held = (s.st st).held.filter fun h => h.granule != g := congrArg Stile.held (State.st_onSt ..)
    rw [hheld] at hh
    simpa using (List.mem_filter.mp hh).2
  have hforward : ∀ (l : List Held) (u : State), ((l.foldl (fun s h => s.forward st h.req) u).st st).held = (u.st st).held := by
    intro l
    induction l with
    | nil => exact fun _ => rfl
    | cons h l ih =>
      intro u
      rw [List.foldl_cons, ih]
      obtain ⟨m, f, hreq⟩ := memReq_frame u h.req
      unfold State.forward
      rw [hreq, State.st_onSt]
      rfl
  rw [hforward]
  exact ht

theorem stallRelease_takes {cell u g loc : Nat} {q : Nat × Nat × Region × Nat × Nat} (hfree : s.cellFree st cell = true)
    (hstalled : s.stalledFor st = some (u, g)) (hrun : s.cap.run = some r) (hplace : s.place g = some (u, loc)) (hleaf : r.leafOf g = some q)
    (hdedup : r.dedup = 0) (hsealed : r.sealed = true) :
    ∃ t, exec (.stallRelease st cell) s = .next t ∧ (∀ h ∈ (t.st u).held, h.granule ≠ g) ∧
      (∃ b ∈ t.cap.blocks, b.granule = g ∧ b.stile = u ∧ b.stalled = true) ∧ t.fins = s.fins := by
  obtain ⟨v, hv⟩ : ∃ v, v = if (s.st u).held.any (fun h => h.granule == g) then
      (s.onSt u fun t => t.setBits loc gClean).onSt u fun t => t.setBits loc gDirty
    else s.onSt u fun t => t.setBits loc gClean := ⟨_, rfl⟩
  have hkept : v.cap = s.cap ∧ v.fins = s.fins := by
    rw [hv]
    split <;> exact ⟨rfl, rfl⟩
  obtain ⟨hunder, hfins⟩ := takeGranule_underWay (s := v) (st := u) (cell := cell) (loc := loc) true ((congrArg Cap.run hkept.1).trans hrun) hsealed hleaf hdedup
  have hexec : exec (.stallRelease st cell) s = .next ((v.takeGranule r u cell g loc true).releaseGran u g) := by
    refine congrArg Host.Outcome.next ?_
    rw [hfree, if_neg (by decide), hstalled]
    dsimp only
    unfold State.takeNow
    rw [hrun, hplace]
    dsimp only
    rw [← hv]
  obtain ⟨m, f, sti, hrel⟩ := releaseGran_frame (v.takeGranule r u cell g loc true) u g
  refine ⟨_, hexec, releaseGran_released _ u g, ?_, ?_⟩
  · rw [hrel]
    exact hunder
  · rw [hrel]
    exact hfins.trans hkept.2

end

end

/-- Settles O23: commit and ends through the capture's report, a mover's loss through what it leaves alone, staging and stalls row by row. -/
theorem capturesEndAndCopiesMoveOn : Obligations.CapturesEndAndCopiesMoveOn := by
  unfold Obligations.CapturesEndAndCopiesMoveOn
  refine ⟨fun s => ⟨?_, ?_, ?_, ?_, ?_⟩, fun s a off hreset hread hwrite hhub halign hoff => ⟨?_, ?_, ?_, ?_, ?_, ?_⟩⟩
  · exact fun r x md e hcap hphase hm hdown hfault hdeg hcores => captureCommit_commits hcap hphase hm hdown hfault hdeg hcores
  · exact fun r x b hcap hstop hblocks hstage => sealWaitTimeout_ends hcap hstop hblocks hstage
  · exact fun r x st hcap hst hheld => heldWriteLimit_ends hcap hst hheld
  · exact fun st hrun hheld => heldWriteLimit_releases hrun hheld
  · exact fun st hrun hmover => moverLoss_loses hrun hmover
  · exact fun p l hposted hlo hhi hssd => stagingRead_reads hreset hread hhub halign (by omega) hposted hlo hhi hssd
  · exact fun p d hposted hlo hhi hdata hssd hlen => stagingWrite_stores hreset hwrite hhub halign hoff hposted hlo hhi hdata hssd hlen
  · exact fun hposted => stagingRead_outside hreset hread hhub halign (by omega) hposted
  · exact fun p b len since hheld hposted hssd hlo hhi hb hfails => stagingReadTimeout_rebuilds hheld hposted hssd hlo hhi hb hfails
  · exact fun st k hcopies hready hheld => copyComplete_safe hcopies hready hheld
  · exact fun r st cell u g loc q hfree hstalled hrun hplace hleaf hdedup hsealed =>
      stallRelease_takes hfree hstalled hrun hplace hleaf hdedup hsealed

end Sys2Proof.Proofs
end

section
/-! PROOFS. CONDENSE on a stile map that is not in canonical form (R324, R497). -/

namespace Sys2Proof.Proofs
open Sys2Proof Sys2Proof.Machine Sys2Proof.Laws

/-! The obligation asks that no stile of the source is thin as the command begins; the command's status rests on none being thin as it ends. Where a
guarded step's copy finds no place, its guard is lost and every stile's copies are swept (R319, R439): the sweep drops an entry that equals the
map's default, and a second entry of the same stile, which only a map out of canonical form has, then shows. Such a map is the counterexample. -/

/-- A slice of one FP32 element. -/
def oneElement : Coord := ⟨0, 2, 1, false, [1], [0], [1], [], 1, 0, 65536⟩

/-- The source of the CONDENSE: granule 1, which stile 1 holds. -/
def condenseSrc : Region := ⟨1, 1, 65536, oneElement, 0, 0, 1, 0, 0, .const false⟩

/-- Its destination: granule 0, which stile 0 holds. -/
def condenseDst : Region := ⟨1, 0, 65536, oneElement, 0, 0, 1, 0, 0, .const false⟩

/-- CONDENSE of region 1 to region 2 in FP32. -/
def condenseSub : Sub := ⟨1, 1, 0x27, 0, 0, 1, 0, 0x20002, 0, 0, 0, 0, 0⟩

/-- The command in hand, granules alternating between two stiles, a guarded step whose scope is the destination, no place for its copies, and two
entries of stile 1: the one that is read is as at reset, the one behind it is of a removed mover. -/
def strayStiles : State := { State.reset with
  boot := { Boot.reset with stage := .ready }
  pwr := { Pwr.reset with state := .run, on := BitVec.allOnes 128 }
  cmds := [⟨condenseSub, false, [], 1, 0, true, [], [], 0, [], [], 0⟩]
  port := { PortRegs.reset with
    ilvLocked := true
    ilv := (SMap.const IlvEntry.zero).set 0 { IlvEntry.zero with valid := true, width := 1, log2Size := 1, mask0 := 1 } }
  regions := ⟨none, [(1, some condenseSrc), (2, some condenseDst)]⟩
  units := ⟨ChUnit.zero, [(1, { ChUnit.zero with step := { StepRec.zero with epochOpen := true, scope := [2] } })]⟩
  stiles := ⟨Stile.zero, [(0, { Stile.zero with moverOn := true, rebateLost := 32 }), (1, Stile.zero), (1, { Stile.zero with removed := true })]⟩ }

theorem strayStiles_held : strayStiles.holdsCmd (.condense condenseSub Ext.good) condenseSub := ⟨rfl, by decide +kernel⟩

theorem strayStiles_notThin (k st loc : Nat) (hk : k < condenseSrc.granules) (hplace : strayStiles.place (condenseSrc.base + k) = some (st, loc)) :
    strayStiles.thin st = false := by
  have hone : condenseSrc.granules = 1 := by decide +kernel
  obtain rfl : k = 0 := by omega
  have hat : strayStiles.place (condenseSrc.base + 0) = some (1, 0) := by decide +kernel
  obtain ⟨rfl, rfl⟩ := Prod.mk.inj (Option.some.inj (hat.symm.trans hplace))
  decide +kernel

/-- The element the CONDENSE writes. -/
def condenseOut : List (Nat × Bool) :=
  (strayStiles.regionRead condenseSrc 0 0 1).map fun p => (packOut (fmtOf 2) 0 0 (num (convertIn 2 p.1)), p.2)

theorem condenseOut_finite : ∀ p ∈ condenseOut, finiteBits (fmtOf 2) p.1 = true :=
  List.all_eq_true.mp (show (condenseOut.all fun p => finiteBits (fmtOf 2) p.1) = true by decide +kernel)

/-- The statuses of the completions that wait in the state an instruction goes to. -/
def finStatuses : Host.Outcome State Fault Refusal → List (BitVec 16)
  | .next t => t.fins.map Fin.status
  | _ => []

theorem condense_degraded : finStatuses (exec (.condense condenseSub Ext.good) strayStiles) = [sDegraded] := by decide +kernel

/-- Refutes O24: on a stile map with a second entry of the source's stile behind the one that is read, CONDENSE ends with DEGRADED_COMPLETED although
no stile of the source is thin as it begins. -/
theorem not_storedObjectsAreRestoredAndRead : ¬ Obligations.StoredObjectsAreRestoredAndRead := by
  unfold Obligations.StoredObjectsAreRestoredAndRead
  rintro ⟨-, hread⟩
  obtain ⟨-, -, -, hcondense⟩ := hread strayStiles condenseSub condenseSub Ext.good rfl rfl
  have hends := hcondense condenseSrc condenseDst 0 0 strayStiles_held rfl rfl rfl (by decide +kernel) rfl (by decide +kernel) (by decide +kernel)
    strayStiles_notThin condenseOut_finite
  obtain ⟨u, ⟨t, hexec, hfins, -⟩, -⟩ := hends
  have hstatuses := condense_degraded
  rw [hexec] at hstatuses
  have hlast : u.fins.map Fin.status ++ [sOk] = [sDegraded] := by
    rw [← hstatuses, finStatuses, hfins, List.map_append]
    rfl
  have hstatus : sOk = sDegraded := Option.some.inj (by rw [← List.getLast?_concat, hlast]; rfl)
  exact absurd hstatus (by decide)

end Sys2Proof.Proofs
end

section
/-! PROOFS. Streams opened, moved, cancelled and closed (R263-R267, R282-R284). -/

namespace Sys2Proof.Proofs
open Sys2Proof Sys2Proof.Machine Sys2Proof.Laws

/-! What the parts of the stream rows leave alone. -/

section
variable (s : State) (i : Nat)

@[simp] theorem discard_run (ch n : Nat) : (s.discard ch n).trk.run = s.trk.run := rfl
@[simp] theorem discard_stm (ch n : Nat) : (s.discard ch n).trk.stm = s.trk.stm := rfl
@[simp] theorem discard_tags (ch n : Nat) : (s.discard ch n).tags = s.tags := rfl
@[simp] theorem discard_mem (ch n : Nat) : (s.discard ch n).mem = s.mem := rfl
@[simp] theorem discard_cmds (ch n : Nat) : (s.discard ch n).cmds = s.cmds := rfl
@[simp] theorem discard_fins (ch n : Nat) : (s.discard ch n).fins = s.fins := rfl
@[simp] theorem discard_clamps (ch n : Nat) : (s.discard ch n).clamps = s.clamps := rfl

/-- What freeing a stream's slot does. -/
theorem freeStream_frees : let t := s.freeStream i
    t.trk.stm.get i = { Stm.zero with gen := (s.trk.stm.get i).gen, retired := (s.trk.stm.get i).gen == 63, lost := (s.trk.stm.get i).lost } ∧
      t.trk.run.get i = .zero ∧ (∀ j, j ≠ i → t.trk.stm.get j = s.trk.stm.get j) ∧
      t.clamps = s.clamps.filter (fun k => !(k.owner == none && k.stream == i)) ∧ t.mem = s.mem ∧ t.tags = s.tags ∧ t.cmds = s.cmds ∧ t.fins = s.fins :=
  ⟨get_set_self .., get_set_self .., fun _ hj => get_set_ne _ _ hj, rfl, rfl, rfl, rfl, rfl⟩

end

section
variable {s : State} {x0 x : Sub} {e : Ext} {i : Nat} {t : Stm}

theorem streamOf_slot {v : Nat} (h : streamOf s v = some (i, t)) : s.trk.stm.get i = t ∧ t.isOpen = true := by
  unfold streamOf at h
  dsimp only at h
  split at h
  · rename_i hopen
    obtain ⟨rfl, rfl⟩ := Prod.mk.inj (Option.some.inj h)
    exact ⟨rfl, (Bool.and_eq_true_iff.mp hopen).1⟩
  · nomatch h

/-! STREAM_OPEN (R263-R267). -/

/-- The state in which the slot `i` holds the stream `t` and the command's clamps are the stream's. -/
def streamOpened (s : State) (x : Sub) (i : Nat) (t : Stm) : State := { s with
  clamps := s.clamps.map fun k => if k.chamber = x.chamber ∧ k.owner = some (x.sq, x.cid) then { k with owner := none, stream := i } else k
  trk := { s.trk with stm := s.trk.stm.set i t, run := s.trk.run.set i .zero } }

theorem firstFree {base n k : Nat} (hk : k < n) (hfree : s.slotFree (base + k) = true) (hbefore : ∀ j, j < k → s.slotFree (base + j) = false) :
    (List.range n).find? (fun k => s.slotFree (base + k)) = some k :=
  List.find?_range_eq_some.mpr ⟨hfree, List.mem_range.mpr hk, fun j hj => by rw [hbefore j hj]; rfl⟩

theorem streamOpen_ends {k : Nat} (hheld : s.holdsCmd (.streamOpen x0 e) x) (hread : e.readErr = false)
    (ht : stmOf x.chamber (bit x.b 0) (s.ch x.chamber).creditMode (s.ch x.chamber).credits (s.peek x.a.toNat 32) = t)
    (houtside : s.stmOutside t = none) (hbad : s.stmBad t (s.peek x.a.toNat 32) = none) (hcredit : (s.ch x.chamber).creditMode = false)
    (hk : k < (s.ch x.chamber).quotaStream) (hfree : s.slotFree ((s.un x.chamber).stmBase + k) = true)
    (hbefore : ∀ j, j < k → s.slotFree ((s.un x.chamber).stmBase + j) = false) (hpool : s.poolUsed t.home + t.depth ≤ s.poolFrames t.home) :
    let i := (s.un x.chamber).stmBase + k
    let g := ((s.trk.stm.get i).gen + 1) % 64
    Ends (.streamOpen x0 e) s x sOk (BitVec.ofNat 64 (i + g * 2 ^ 18)) 0 (streamOpened s x i { t with gen := g }) := by
  intro i g
  have hnot : t.credit = false := by
    rw [← ht]
    exact hcredit
  have hb : bodyStreamOpen x e false s = ⟨streamOpened s x i { t with gen := g }, some sOk, BitVec.ofNat 64 (i + g * 2 ^ 18), 0, []⟩ := by
    unfold bodyStreamOpen
    dsimp only
    rw [if_neg (by simp), hread, if_neg Bool.false_ne_true, ht, houtside]
    dsimp only
    rw [hbad]
    dsimp only
    rw [hnot, if_neg (by simp), if_neg Bool.false_ne_true, firstFree hk hfree hbefore]
    dsimp only
    rw [if_neg (by omega)]
    rfl
  exact ends_runOp (runs_streamOpen hheld) hheld.2 hb rfl (by decide)

/-! STREAM_CLOSE (R283). -/

theorem streamClose_ends (hheld : s.holdsCmd (.streamClose x0 e) x) (hslot : streamOf s x.handle.toNat = some (i, t))
    (hclosing : (s.trk.run.get i).closing = none) (hbound : (s.trk.run.get i).bound = none) (htags : s.tagsOf i = []) :
    ∃ u, Ends (.streamClose x0 e) s x sOk (BitVec.ofNat 64 (s.trk.run.get i).bytes) 0 u ∧
      u.trk.stm.get i = { Stm.zero with gen := t.gen, retired := t.gen == 63, lost := t.lost } ∧ u.trk.run.get i = .zero ∧
      (∀ j, j ≠ i → u.trk.stm.get j = s.trk.stm.get j) ∧ u.clamps = s.clamps.filter (fun k => !(k.owner == none && k.stream == i)) ∧ u.mem = s.mem ∧
      u.tags = s.tags := by
  obtain ⟨hstm, -⟩ := streamOf_slot hslot
  obtain ⟨v, hv⟩ : ∃ v, v = s.discard t.chamber (((s.trk.run.get i).landed.map fun p => p.2.length).foldl (· + ·) 0 + (s.trk.run.get i).unused.length) :=
    ⟨_, rfl⟩
  have hvtags : v.tagsOf i = [] := by
    rw [hv]
    exact htags
  have hb : bodyStreamClose x s = ⟨v.freeStream i, some sOk, BitVec.ofNat 64 (s.trk.run.get i).bytes, 0, []⟩ := by
    unfold bodyStreamClose
    rw [hslot]
    dsimp only
    rw [hclosing, if_neg nofun, hbound, if_neg (by simp), ← hv, hvtags, List.any_nil, if_neg Bool.false_ne_true]
    rfl
  obtain ⟨hself, hrun, hothers, hclamps, hmem, htags', hcmds, -⟩ := freeStream_frees v i
  refine ⟨_, ends_runOp (runs_streamClose hheld) hheld.2 hb ?_ (by decide), ?_, hrun, fun j hj => ?_, ?_, ?_, ?_⟩
  · rw [hcmds, hv, discard_cmds]
  · rw [hself, hv, discard_stm, hstm]
  · rw [hothers j hj, hv, discard_stm]
  · rw [hclamps, hv, discard_clamps]
  · rw [hmem, hv, discard_mem]
  · rw [htags', hv, discard_tags]

/-! STREAM_SEEK (R282). -/

section
variable (hheld : s.holdsCmd (.streamSeek x0 e) x) (hslot : streamOf s x.handle.toNat = some (i, t)) (hlinear : t.indexed = false)
  (hfetch : t.writeBack = false) (hwithin : fld x.a 47 0 < t.extent) (hclosing : (s.trk.run.get i).closing = none)
  (hunused : (s.trk.run.get i).unused = [])

include hheld hslot hlinear hfetch hwithin hclosing hunused

theorem streamSeek_noted (hend : (s.trk.run.get i).ends.find? (fun b => decide ((s.trk.run.get i).delivered ≤ b)) = none) :
    ∃ u, Ends (.streamSeek x0 e) s x sOk 0 0 u ∧ u.trk.run.get i = { s.trk.run.get i with seek := some (fld x.a 47 0) } ∧ u.tags = s.tags ∧
      u.mem = s.mem := by
  have hb : bodyStreamSeek x s = ⟨(s.discard t.chamber 0).onRun i fun r => { r with seek := some (fld x.a 47 0), unused := r.unused.take 0 },
      some sOk, 0, 0, []⟩ := by
    unfold bodyStreamSeek
    rw [hslot]
    dsimp only
    rw [hlinear, if_neg Bool.false_ne_true, decide_eq_true hwithin, if_neg (by decide), hclosing, if_neg (by simp), hfetch,
      if_neg Bool.false_ne_true, hend, hunused]
    rfl
  refine ⟨_, ends_runOp (runs_streamSeek hheld) hheld.2 hb rfl (by decide), ?_, rfl, rfl⟩
  refine (get_modify_self ..).trans ?_
  rw [discard_run, List.take_zero, ← hunused]

theorem streamSeek_goes {b : Nat} (hlanded : (s.trk.run.get i).landed = [])
    (hend : (s.trk.run.get i).ends.find? (fun b => decide ((s.trk.run.get i).delivered ≤ b)) = some b) :
    ∃ u, Ends (.streamSeek x0 e) s x sOk 0 0 u ∧ (u.trk.run.get i).elem = fld x.a 47 0 ∧ (u.trk.run.get i).issued = b ∧
      (u.trk.run.get i).seek = none ∧ (u.trk.run.get i).ended = false ∧ (u.trk.run.get i).delivered = (s.trk.run.get i).delivered ∧
      u.mem = s.mem ∧ u.trk.stm = s.trk.stm := by
  obtain ⟨v, hv, hvrun, hvstm, hvmem, hvcmds⟩ : ∃ v : State, v = (s.discard t.chamber 0).markTags i t.gen b ∧ v.trk.run = s.trk.run ∧
      v.trk.stm = s.trk.stm ∧ v.mem = s.mem ∧ v.cmds = s.cmds := ⟨_, rfl, rfl, rfl, rfl, rfl⟩
  obtain ⟨f, hf, hjump⟩ : ∃ f : StmRun → StmRun, f = (fun r => t.jumpTo { r with
      issued := b, landed := [], unused := [], ends := r.ends.filter fun e => decide (e ≤ b)
      posts := r.posts.filter fun p => decide (p.2.2 ≤ b) } (fld x.a 47 0)) ∧
      ∀ r, (f r).elem = fld x.a 47 0 ∧ (f r).issued = b ∧ (f r).seek = none ∧ (f r).ended = false ∧ (f r).delivered = r.delivered := by
    refine ⟨_, rfl, fun r => ?_⟩
    unfold Stm.jumpTo
    rw [hlinear]
    exact ⟨rfl, rfl, rfl, rfl, rfl⟩
  have hb : bodyStreamSeek x s = ⟨(v.onRun i f).returnCredits i, some sOk, 0, 0, []⟩ := by
    unfold bodyStreamSeek
    rw [hslot]
    dsimp only
    rw [hlinear, if_neg Bool.false_ne_true, decide_eq_true hwithin, if_neg (by decide), hclosing, if_neg (by simp), hfetch,
      if_neg Bool.false_ne_true, hend, hunused, hlanded, hv, hf]
    rfl
  obtain ⟨k, hkeep⟩ : ∃ k : StmRun → Nat × Nat → Bool, (v.onRun i f).returnCredits i = (v.onRun i f).onRun i fun r => { r with frames := r.frames.filter (k r) } := ⟨_, rfl⟩
  rw [hkeep] at hb
  obtain ⟨helem, hissued, hseek, hended, hdelivered⟩ := hjump (v.trk.run.get i)
  have hrun : (((v.onRun i f).onRun i fun r => { r with frames := r.frames.filter (k r) }).trk.run.get i) =
      { f (v.trk.run.get i) with frames := (f (v.trk.run.get i)).frames.filter (k (f (v.trk.run.get i))) } := by
    unfold State.onRun
    rw [get_modify_self, get_modify_self]
  refine ⟨_, ends_runOp (runs_streamSeek hheld) hheld.2 hb hvcmds (by decide), ?_, ?_, ?_, ?_, ?_, hvmem, hvstm⟩
  · rw [hrun]; exact helem
  · rw [hrun]; exact hissued
  · rw [hrun]; exact hseek
  · rw [hrun]; exact hended
  · rw [hrun]; exact hdelivered.trans (by rw [hvrun])

end

theorem streamCancel_ends (hheld : s.holdsCmd (.streamCancel x0 e) x) (hslot : streamOf s x.handle.toNat = some (i, t))
    (hbound : (s.trk.run.get i).bound = none) (hclosing : (s.trk.run.get i).closing = none) :
    ∃ u, Ends (.streamCancel x0 e) s x sOk (BitVec.ofNat 64 (((s.trk.run.get i).landed.map fun p => p.2.length).foldl (· + ·) 0 +
        256 * (((s.tagsOf i).filter fun u => u.stream == some (i, (s.trk.stm.get i).gen)).filter fun u => isRead u.tag).length)) 0 u ∧
      (u.trk.stm.get i).isOpen = false ∧ u.trk.run.get i = .zero ∧ (∀ j, j ≠ i → u.trk.stm.get j = s.trk.stm.get j) ∧ u.mem = s.mem ∧
      u.fins = s.fins := by
  obtain ⟨hstm, -⟩ := streamOf_slot hslot
  obtain ⟨v, hv⟩ : ∃ v, v = s.discard t.chamber (((s.trk.run.get i).landed.map fun p => p.2.length).foldl (· + ·) 0 + (s.trk.run.get i).unused.length) :=
    ⟨_, rfl⟩
  have hend : s.endBound i sStreamCancelled = s := by
    unfold State.endBound
    rw [hbound]
  have hb : bodyStreamCancel x s = ⟨v.freeStream i, some sOk, BitVec.ofNat 64 (((s.trk.run.get i).landed.map fun p => p.2.length).foldl (· + ·) 0 +
      256 * (((s.tagsOf i).filter fun u => u.stream == some (i, (s.trk.stm.get i).gen)).filter fun u => isRead u.tag).length), 0, []⟩ := by
    unfold bodyStreamCancel
    rw [hslot]
    dsimp only
    rw [hend, hclosing, hstm, hv]
    rfl
  obtain ⟨hself, hrun, hothers, -, hmem, -, hcmds, hfins⟩ := freeStream_frees v i
  refine ⟨_, ends_runOp (runs_streamCancel hheld) hheld.2 hb ?_ (by decide), ?_, hrun, fun j hj => ?_, ?_, ?_⟩
  · rw [hcmds, hv, discard_cmds]
  · rw [hself]
    rfl
  · rw [hothers j hj, hv, discard_stm]
  · rw [hmem, hv, discard_mem]
  · rw [hfins, hv, discard_fins]

end

/-- Settles O25: each row's body on a stream with nothing outstanding, bound or held. -/
theorem streamsAreOpenedMovedAndClosed : Obligations.StreamsAreOpenedMovedAndClosed := by
  unfold Obligations.StreamsAreOpenedMovedAndClosed
  refine ⟨fun s x0 x e => ⟨?_, ?_⟩, fun s x0 x e i t hslot => ⟨?_, ?_⟩⟩
  · intro k hheld hread c l t i g houtside hbad hcredit hk hfree hbefore hpool
    have hopens := streamOpen_ends hheld hread (t := t) rfl houtside hbad hcredit hk hfree hbefore hpool
    exact ⟨_, hopens, get_set_self .., get_set_self .., fun j hj => get_set_ne _ _ hj, rfl⟩
  · exact fun i t hheld hslot hclosing hbound htags => streamClose_ends hheld hslot hclosing hbound htags
  · intro hheld hlinear hfetch _ hwithin hclosing hunused hlanded _
    exact ⟨fun hend => streamSeek_noted hheld hslot hlinear hfetch hwithin hclosing hunused hend,
      fun b hend => streamSeek_goes hheld hslot hlinear hfetch hwithin hclosing hunused hlanded hend⟩
  · exact fun hheld hbound hclosing => streamCancel_ends hheld hslot hbound hclosing

end Sys2Proof.Proofs
end

section
/-! PROOFS. Streams issue their spans and take what lands (R277-R286). -/

namespace Sys2Proof.Proofs
open Sys2Proof Sys2Proof.Machine Sys2Proof.Laws

section
variable {s : State} {i : Nat} {e : Ext}

/-! Issue (R274, R277, R278). -/

/-- An ungated linear fetch stream stands in its present segment. -/
theorem walk_linear {t : Stm} {r : StmRun} (hfetch : t.writeBack = false) (hlinear : t.indexed = false) (hgate : t.gated = false)
    (hwithin : r.elem < t.extent) (err : Bool) :
    s.walk t err r = (.seg r.elem (min t.extent ((r.elem / t.segLen + 1) * t.segLen) - r.elem), r) := by
  have hfrozen : s.frozenFor t = false := by
    unfold State.frozenFor
    rw [hfetch]
    rfl
  unfold State.walk State.walkLinear
  rw [hlinear, if_neg Bool.false_ne_true, if_neg (by omega), hgate, hfrozen]
  simp

theorem firePosts_none (hposts : (s.trk.run.get i).posts = []) : ∃ f : StmRun → StmRun, s.firePosts i = s.onRun i f ∧
    f (s.trk.run.get i) = s.trk.run.get i := by
  unfold State.firePosts
  dsimp only
  rw [hposts, List.filter_nil]
  refine ⟨_, rfl, ?_⟩
  rw [hposts, List.filter_nil, ← hposts]

/-- What an advance of an ungated stream does to its progress. -/
theorem advance_fetch {t : Stm} (hfetch : t.writeBack = false) (hlinear : t.indexed = false) (r : StmRun) (n left : Nat) : (t.advance r n left).issued = r.issued + n ∧
    (n < left → (t.advance r n left).elem = r.elem + n) ∧ (t.advance r n left).posts = r.posts := by
  unfold Stm.advance Stm.jumpTo
  dsimp only
  rw [hfetch, Bool.and_false, hlinear, if_neg Bool.false_ne_true, if_neg Bool.false_ne_true]
  by_cases h : n < left
  · rw [if_pos h]
    exact ⟨rfl, fun _ => rfl, rfl⟩
  · rw [if_neg h]
    cases r.seek <;> exact ⟨rfl, fun hlt => absurd hlt h, rfl⟩

/-- The issue of a span: its tags are taken, and the stream's progress is as after its elements. -/
theorem issueSpan_issues {t : Stm} {r : StmRun} {first left : Nat} {tag : TagRef} {also : Option TagRef} (hcredit : t.credit = false)
    (htags : s.spanTags t (t.base + first * t.size) false = some (tag, also)) :
    let addr := t.base + first * t.size
    let n := min left (((addr / 256 + 1) * 256 - addr) / t.size)
    let u := s.issueSpan i t r first left
    u.tags = s.tags ++ [⟨tag, also, some (i, t.gen), addr, n * t.size, r.issued, false, false, false⟩] ∧
      u.trk.run.get i = t.advance r n left ∧ u.mem = s.mem ∧ u.trk.stm = s.trk.stm ∧ u.sync = s.sync := by
  intro addr n u
  obtain ⟨sti, hu⟩ : ∃ sti, u = ({ s with
      tags := s.tags ++ [⟨tag, also, some (i, t.gen), addr, n * t.size, r.issued, false, false, false⟩], stiles := sti } : State).onRun i fun _ =>
        t.advance r n left := by
    unfold u State.issueSpan
    dsimp only
    rw [htags]
    dsimp only
    rw [hcredit, Bool.false_and, if_neg Bool.false_ne_true]
    cases tag with
    | mreq st m w => exact ⟨_, rfl⟩
    | fab p k w => exact ⟨_, rfl⟩
  rw [hu]
  exact ⟨rfl, get_modify_self .., rfl, rfl, rfl⟩

theorem streamIssue_issues {tag : TagRef} {also : Option TagRef} {t : Stm} {r : StmRun} (ht : s.trk.stm.get i = t) (hr : s.trk.run.get i = r)
    (hopen : t.isOpen = true) (hfault : r.fault = none) (hclosing : r.closing = none) (hfetch : t.writeBack = false) (hlinear : t.indexed = false)
    (hgate : t.gated = false) (hcredit : t.credit = false) (hwithin : r.elem < t.extent) (hposts : r.posts = []) (hroom : s.spanRoom i t r = true)
    (htags : s.spanTags t (t.base + r.elem * t.size) false = some (tag, also)) :
    let addr := t.base + r.elem * t.size
    let left := min t.extent ((r.elem / t.segLen + 1) * t.segLen) - r.elem
    let n := min left (((addr / 256 + 1) * 256 - addr) / t.size)
    ∃ u, exec (.streamIssue i e) s = .next u ∧ u.tags = s.tags ++ [⟨tag, also, some (i, t.gen), addr, n * t.size, r.issued, false, false, false⟩] ∧
      (u.trk.run.get i).issued = r.issued + n ∧ (n < left → (u.trk.run.get i).elem = r.elem + n) ∧ u.mem = s.mem ∧ u.trk.stm = s.trk.stm ∧
      u.sync = s.sync := by
  intro addr left n
  obtain ⟨v, hv⟩ : ∃ v, v = s.issueSpan i t r r.elem left := ⟨_, rfl⟩
  obtain ⟨vtags, vrun, vmem, vstm, vsync⟩ : v.tags = _ ∧ v.trk.run.get i = t.advance r n left ∧ v.mem = s.mem ∧ v.trk.stm = s.trk.stm ∧
      v.sync = s.sync := hv ▸ issueSpan_issues hcredit htags
  obtain ⟨hissued, helem, hkept⟩ := advance_fetch hfetch hlinear r n left
  obtain ⟨f, hfire, hsame⟩ := firePosts_none (s := v) (i := i) (by rw [vrun, hkept, hposts])
  have hexec : exec (.streamIssue i e) s = .next (v.onRun i f) := by
    refine congrArg Host.Outcome.next ?_
    rw [ht, hr, hopen, hfault, hclosing, if_neg (by decide), hfetch, if_neg Bool.false_ne_true, walk_linear hfetch hlinear hgate hwithin]
    dsimp only
    rw [if_pos hroom, ← hfire, hv]
  have hrun : (v.onRun i f).trk.run.get i = t.advance r n left := by
    rw [← vrun, ← hsame]
    exact get_modify_self ..
  refine ⟨_, hexec, vtags, ?_, fun h => ?_, vmem, vstm, vsync⟩
  · rw [hrun]
    exact hissued
  · rw [hrun]
    exact helem h

/-! Landing (R285, R286). -/

theorem returnCredits_none (hframes : (s.trk.run.get i).frames = []) : ∃ f : StmRun → StmRun, s.returnCredits i = s.onRun i f ∧
    f (s.trk.run.get i) = s.trk.run.get i := by
  refine ⟨_, rfl, ?_⟩
  dsimp only
  rw [hframes, List.filter_nil, ← hframes]

theorem settleClose_open (hclosing : (s.trk.run.get i).closing = none) : s.settleClose i = s := by
  unfold State.settleClose
  dsimp only
  rw [hclosing]

theorem land_lands {w : Answer} {k : Nat} (hstream : w.use.stream = some (i, k)) (hgen : (s.trk.stm.get i).gen = k)
    (hopen : (s.trk.stm.get i).isOpen = true) (hmark : w.use.mark = false) (hout : w.use.heldOut = false)
    (hclosing : (s.trk.run.get i).closing = none) (herr : w.err = false) (hframes : (s.trk.run.get i).frames = []) :
    let u := s.land i w
    u.trk.run.get i = { s.trk.run.get i with
      landed := insertLanded (w.use.elem, (w.data.drop (w.use.addr % 256)).take w.use.len) (s.trk.run.get i).landed } ∧
        u.tags = s.tags.erase w.use ∧ u.trk.answers = s.trk.answers.erase w ∧ u.mem = s.mem := by
  intro u
  obtain ⟨v, hv⟩ : ∃ v, v = ({ s with tags := s.tags.erase w.use, trk := { s.trk with answers := s.trk.answers.erase w } } : State).onRun i fun r =>
      { r with landed := insertLanded (w.use.elem, (w.data.drop (w.use.addr % 256)).take w.use.len) r.landed } := ⟨_, rfl⟩
  have hvrun : v.trk.run.get i = { s.trk.run.get i with
      landed := insertLanded (w.use.elem, (w.data.drop (w.use.addr % 256)).take w.use.len) (s.trk.run.get i).landed } := by
    rw [hv]
    exact get_modify_self ..
  obtain ⟨f, hreturn, hsame⟩ := returnCredits_none (s := v) (i := i) (by rw [hvrun]; exact hframes)
  have hrun : (v.onRun i f).trk.run.get i = v.trk.run.get i := (get_modify_self ..).trans hsame
  have hu : u = v.onRun i f := by
    rw [← settleClose_open (s := v.onRun i f) (i := i) (by rw [hrun, hvrun]; exact hclosing), ← hreturn, hv]
    unfold u State.land
    dsimp only
    rw [hout, hstream]
    dsimp only
    rw [if_neg (by simp [hgen]), if_neg (by simp [hopen, hmark, hclosing]), if_neg (by simp [herr])]
    rfl
  rw [hu, hrun, hvrun]
  refine ⟨rfl, ?_, ?_, ?_⟩
  · rw [hv]; rfl
  · rw [hv]; rfl
  · rw [hv]; rfl

/-! A consumer that has waited too long (R281). -/

theorem finish_stm {x : Sub} {c : Cmd} {st : BitVec 16} {r : BitVec 64} {n ph : Nat} {l : List (BitVec 64)} (hc : s.cmd? x = some c)
    (htwin : c.twin = false) (hst : isRefusal st = false) : (s.finish x ph st r n l).trk.stm = s.trk.stm ∧
      (s.finish x ph st r n l).cmds = s.cmds.filter (fun d => !isCmd x d) := by
  rw [finish_eq hc htwin hst, pushFin_eq, putStatus_frame]
  exact ⟨rfl, rfl⟩

theorem dependenceTimeout_ends {q : Nat} {id : BitVec 16} {c : Cmd} (hopen : (s.trk.stm.get i).isOpen = true)
    (hfetch : (s.trk.stm.get i).writeBack = false) (hbound : (s.trk.run.get i).bound = some (q, id))
    (htime : (s.un (s.trk.stm.get i).chamber).depTimeout ≠ 0) (hlanded : (s.trk.run.get i).landed = []) (hmarker : s.atMarker i = true)
    (hc : s.cmdAt (s.trk.stm.get i).chamber q id = some c) (hop : c.sub.opcode = 0x62) (htwin : c.twin = false) :
    ∃ u, exec (.dependenceTimeout i) s = .next u ∧ u.fins = s.fins ++ [⟨c.sub.chamber, c.sub.sq, c.sub.cid, sDepTimeout, 0⟩] ∧
      u.cmds = s.cmds.filter (fun d => !isCmd c.sub d) ∧ u.trk.stm = s.trk.stm := by
  obtain ⟨-, -, -, hcmd⟩ := cmdAt_sub hc
  have hexec : exec (.dependenceTimeout i) s = .next (s.finish c.sub (termPhase sDepTimeout) sDepTimeout 0 c.units c.res) := by
    refine congrArg Host.Outcome.next ((if_pos ?_).trans ?_)
    · rw [hopen, hfetch, hbound, hlanded, hmarker, bne_iff_ne.mpr htime]
      rfl
    · unfold State.endBound
      rw [hbound]
      dsimp only
      rw [hc]
      dsimp only
      unfold State.endRunning
      dsimp only
      rw [hop]
      rfl
  obtain ⟨hfins, -⟩ := finish_plain (ph := termPhase sDepTimeout) (r := 0) (n := c.units) (l := c.res) hcmd htwin (st := sDepTimeout) (by decide)
  obtain ⟨hstm, hcmds⟩ := finish_stm (ph := termPhase sDepTimeout) (r := 0) (n := c.units) (l := c.res) hcmd htwin (st := sDepTimeout) (by decide)
  exact ⟨_, hexec, hfins, hcmds, hstm⟩

end

/-- Settles O26: the walker of an ungated linear stream, the landing of an answer of its generation, and the end of the bound command. -/
theorem streamsIssueAndLand : Obligations.StreamsIssueAndLand := by
  unfold Obligations.StreamsIssueAndLand
  intro s i e t r
  refine ⟨?_, ?_, ?_⟩
  · intro tag also hopen hfault hclosing hfetch hlinear hgate hcredit hwithin _ hposts addr left n hroom htags
    exact streamIssue_issues rfl rfl hopen hfault hclosing hfetch hlinear hgate hcredit hwithin hposts hroom htags
  · intro w k hfind hstream hgen hopen hmark hout hclosing herr hframes
    have hexec : exec (.streamLanding i e) s = .next (s.land i w) := by
      refine congrArg Host.Outcome.next ?_
      split
      · next found hfound =>
        obtain rfl : found = w := Option.some.inj (hfound.symm.trans hfind)
        rfl
      · next hnone => exact nomatch hnone.symm.trans hfind
    exact ⟨_, hexec, land_lands hstream hgen hopen hmark hout hclosing herr hframes⟩
  · intro q id c hopen hfetch hbound htime hlanded hmarker hc hop htwin
    exact dependenceTimeout_ends hopen hfetch hbound htime hlanded hmarker hc hop htwin

end Sys2Proof.Proofs
end

section
/-! PROOFS. Programs loaded; steps begun, measured, normed and aborted (R306-R314). -/

namespace Sys2Proof.Proofs
open Sys2Proof Sys2Proof.Machine Sys2Proof.Laws

/-! Ending the step shares of copies leaves the steps alone. -/

/-- The steps, memory, the sync unit, the commands, the completions and the regions stay. -/
structure StepsStay (s t : State) : Prop where
  step : ∀ n, (t.un n).step = (s.un n).step
  mem : t.mem = s.mem
  sync : t.sync = s.sync
  cmds : t.cmds = s.cmds
  fins : t.fins = s.fins
  regions : t.regions = s.regions

theorem StepsStay.trans {s t u : State} (h : StepsStay s t) (h' : StepsStay t u) : StepsStay s u :=
  ⟨fun n => (h'.step n).trans (h.step n), h'.mem.trans h.mem, h'.sync.trans h.sync, h'.cmds.trans h.cmds, h'.fins.trans h.fins,
    h'.regions.trans h.regions⟩

theorem StepsStay.foldl {α : Type} {f : State → α → State} (hf : ∀ s a, StepsStay s (f s a)) (l : List α) (s : State) : StepsStay s (l.foldl f s) := by
  induction l generalizing s with
  | nil => exact ⟨fun _ => rfl, rfl, rfl, rfl, rfl, rfl⟩
  | cons a l ih => exact (hf s a).trans (ih _)

theorem onCapRegs_step (s : State) (n : Nat) (f : CapRegs → CapRegs) (m : Nat) : ((s.onCapRegs n f).un m).step = (s.un m).step := by
  by_cases h : m = n
  · rw [h]
    have hun : (s.onCapRegs n f).un n = { s.un n with cap := f (s.un n).cap } := State.un_onUn ..
    rw [hun]
  · have hun : (s.onCapRegs n f).un m = s.un m := State.un_onUn_ne _ _ _ _ h
    rw [hun]

theorem stepsStay_relevel (s : State) (ch : Nat) : StepsStay s (s.relevel ch) := by
  obtain ⟨f, cap, tu, po, su, cn, cw, h⟩ := relevel_frame s ch
  rw [h]
  exact ⟨onCapRegs_step s ch f, rfl, rfl, rfl, rfl, rfl⟩

theorem stepsStay_relevelAll (s : State) : StepsStay s s.relevelAll := StepsStay.foldl stepsStay_relevel _ s

theorem stepsStay_dropShares (s : State) (c d : Copy → Bool) : StepsStay s (s.dropShares c d) := by
  unfold State.dropShares
  extract_lets f t
  have ht : StepsStay s t := ⟨fun _ => rfl, rfl, rfl, rfl, rfl, rfl⟩
  exact ht.trans (stepsStay_relevelAll t)

/-- What the end of every step share of a chamber does. -/
theorem freeStepCopies_frees (s : State) (ch : Nat) : let t := s.freeStepCopies ch
    (t.un ch).step = { (s.un ch).step with epochOpen := false, scope := [] } ∧ t.mem = s.mem ∧ t.sync = s.sync ∧ t.cmds = s.cmds ∧ t.fins = s.fins ∧
      t.regions = s.regions := by
  obtain ⟨hstep, hmem, hsync, hcmds, hfins, hregions⟩ := stepsStay_dropShares s (fun _ => false) (fun k => k.forStep == some ch)
  refine ⟨?_, hmem, hsync, hcmds, hfins, hregions⟩
  rw [← hstep ch]
  exact congrArg ChUnit.step (State.un_onUn ..)

section
variable {s : State} {x0 x : Sub} {e : Ext}

/-! PROGRAM_LOAD (R306). -/

theorem programLoad_ends (hheld : s.holdsCmd (.programLoad x0 e) x) (hread : e.readErr = false) {w : List (BitVec 32)}
    (hw : (List.range (fld x.b 8 0)).map (fun i => BitVec.ofNat 32 (leNat (s.peek (x.a.toNat + 4 * i) 4))) = w)
    (huse : s.progInUse x.chamber x.handle.toNat = false) (hgood : programBad (fld x.b 13 12) w = none) :
    Ends (.programLoad x0 e) s x sOk 0 0 (s.onUn x.chamber fun u => { u with progs := u.progs.set x.handle.toNat ⟨true, fld x.b 13 12, w⟩ }) := by
  refine ends_runOp (runs_programLoad hheld) hheld.2 (w := []) ?_ rfl (by decide)
  unfold bodyProgramLoad
  dsimp only
  rw [huse, if_neg Bool.false_ne_true, hread, if_neg Bool.false_ne_true, hw, hgood]
  rfl

/-! STEP_BEGIN of an unguarded chamber (R311, R312). -/

theorem enterStep_enters (s : State) (x : Sub) : let t := s.enterStep x
    (t.un x.chamber).step = { (s.un x.chamber).step with
      phase := .begun, plan := some (x.b.toNat, fld x.c 15 0), saved := none, written := 0, guardLost := false, beginSub := none
      scale := if leAt (s.peek x.b.toNat 128) 1 1 % 2 = 1 then BitVec.ofNat 32 (leAt (s.peek x.b.toNat 128) 8 4)
        else clampScale (s.peek x.b.toNat 128) (s.un x.chamber).step.scale } ∧
      t.mem = s.mem ∧ t.sync = s.sync ∧ t.cmds = s.cmds := by
  intro t
  obtain ⟨v, hv⟩ : ∃ v, v = s.onStep x.chamber fun t =>
      { t with phase := .begun, plan := some (x.b.toNat, fld x.c 15 0), saved := none, written := 0, guardLost := false } := ⟨_, rfl⟩
  have hstep : (v.un x.chamber).step = { (s.un x.chamber).step with
      phase := .begun, plan := some (x.b.toNat, fld x.c 15 0), saved := none, written := 0, guardLost := false } := by
    rw [hv]
    exact congrArg ChUnit.step (State.un_onUn ..)
  have hhead : v.planHead x.chamber = s.peek x.b.toNat 128 := by
    unfold State.planHead
    rw [hstep, hv]
    rfl
  have ht : t = v.onStep x.chamber fun t => { t with
      scale := if leAt (s.peek x.b.toNat 128) 1 1 % 2 = 1 then BitVec.ofNat 32 (leAt (s.peek x.b.toNat 128) 8 4)
        else clampScale (s.peek x.b.toNat 128) t.scale
      beginSub := none } := by
    rw [← hhead, hv]
    rfl
  rw [ht]
  refine ⟨?_, ?_, ?_, ?_⟩
  · refine (congrArg ChUnit.step (State.un_onUn ..)).trans ?_
    dsimp only
    rw [hstep]
  · exact (congrArg State.mem hv).trans rfl
  · exact (congrArg State.sync hv).trans rfl
  · exact (congrArg State.cmds hv).trans rfl

theorem stepBegin_begins (hheld : s.holdsCmd (.stepBegin x0 e) x) (hread : e.readErr = false)
    (hcount : fld x.a 47 0 = (s.un x.chamber).step.count.toNat) (hout : s.stepOut x [.idle, .applied] = false)
    (hbegin : (s.un x.chamber).step.beginSub = none) (hhead : headFault (s.peek x.b.toNat 128) = none)
    (hentries : s.entriesFault x.chamber x.b.toNat (fld x.c 15 0) 0 [] = none) (hboundary : s.boundaryHeld x.chamber = false)
    (hguarded : (s.ch x.chamber).guarded = false) :
    let ch := x.chamber
    let t := (s.un ch).step
    let l := s.peek x.b.toNat 128
    ∃ u, Ends (.stepBegin x0 e) s x sOk (BitVec.ofNat 64 t.count.toNat) 0 u ∧ (u.un ch).step.phase = .begun ∧
      (u.un ch).step.plan = some (x.b.toNat, fld x.c 15 0) ∧ (u.un ch).step.count = t.count ∧ (u.un ch).step.written = 0 ∧
      (u.un ch).step.scale = (if leAt l 1 1 % 2 = 1 then BitVec.ofNat 32 (leAt l 8 4) else clampScale l t.scale) ∧ u.mem = s.mem ∧ u.sync = s.sync := by
  intro ch t l
  obtain ⟨v, hv⟩ : ∃ v, v = s.freeStepCopies ch := ⟨_, rfl⟩
  obtain ⟨vstep, vmem, vsync, vcmds, -, -⟩ : (v.un ch).step = { t with epochOpen := false, scope := [] } ∧ v.mem = s.mem ∧ v.sync = s.sync ∧
      v.cmds = s.cmds ∧ v.fins = s.fins ∧ v.regions = s.regions := hv ▸ freeStepCopies_frees s ch
  obtain ⟨u, hu⟩ : ∃ u, u = v.enterStep x := ⟨_, rfl⟩
  obtain ⟨ustep, umem, usync, ucmds⟩ := enterStep_enters v x
  rw [← hu] at ustep umem usync ucmds
  have hpeek : v.peek x.b.toNat 128 = l := by
    unfold State.peek
    rw [vmem]
    rfl
  rw [vstep, hpeek] at ustep
  have hb : bodyStepBegin x e s = ⟨u, some sOk, BitVec.ofNat 64 (u.un ch).step.count.toNat, 0, []⟩ := by
    unfold bodyStepBegin
    dsimp only
    rw [hbegin, if_neg nofun, if_neg (not_not_intro hcount), hout, if_neg (by simp), hread, if_neg Bool.false_ne_true, hhead]
    dsimp only
    rw [hentries]
    dsimp only
    rw [hboundary, if_neg Bool.false_ne_true, hguarded, if_neg Bool.false_ne_true, ← hv, ← hu]
    rfl
  have hcount' : (u.un ch).step.count = t.count := by rw [ustep]
  rw [hcount'] at hb
  refine ⟨u, ends_runOp (runs_stepBegin hheld) hheld.2 hb (ucmds.trans vcmds) (by decide), ?_, ?_, hcount', ?_, ?_, umem.trans vmem, usync.trans vsync⟩
  · rw [ustep]
  · rw [ustep]
  · rw [ustep]
  · rw [ustep]

/-! STEP_ABORT (R132). -/

theorem onStep_step (s : State) (ch : Nat) (f : StepRec → StepRec) : ((s.onStep ch f).un ch).step = f (s.un ch).step :=
  congrArg ChUnit.step (State.un_onUn ..)

theorem boundary_step (s : State) (ch : Nat) : ((s.boundary ch).un ch).step = { (s.un ch).step with rejected := false } :=
  onStep_step s ch fun t => { t with rejected := false }

theorem stepAbort_aborts (hheld : s.holdsCmd (.stepAbort x0 e) x) (hout : s.stepOut x [.begun, .measured, .normed] = false) :
    let ch := x.chamber
    ∃ u, Ends (.stepAbort x0 e) s x sOk 0 0 u ∧ (u.un ch).step.phase = .idle ∧ (u.un ch).step.plan = none ∧
      (u.un ch).step.count = (s.un ch).step.count ∧ (u.un ch).step.epochOpen = false ∧ u.mem = s.mem := by
  intro ch
  obtain ⟨v, hv⟩ : ∃ v, v = s.freeStepCopies ch := ⟨_, rfl⟩
  obtain ⟨vstep, vmem, -, vcmds, -, -⟩ : (v.un ch).step = { (s.un ch).step with epochOpen := false, scope := [] } ∧ v.mem = s.mem ∧ v.sync = s.sync ∧
      v.cmds = s.cmds ∧ v.fins = s.fins ∧ v.regions = s.regions := hv ▸ freeStepCopies_frees s ch
  obtain ⟨u, hu⟩ : ∃ u, u = (v.onStep ch fun t => { t with phase := .idle, plan := none }).boundary ch := ⟨_, rfl⟩
  have ustep : (u.un ch).step = { (v.un ch).step with phase := .idle, plan := none, rejected := false } := by
    rw [hu, boundary_step, onStep_step]
  rw [vstep] at ustep
  have hb : bodyStepAbort x s = ⟨u, some sOk, 0, 0, []⟩ := by
    unfold bodyStepAbort
    dsimp only
    rw [hout, if_neg Bool.false_ne_true, ← hv, ← hu]
    rfl
  have ukept : u.cmds = v.cmds ∧ u.mem = v.mem := by
    rw [hu]
    exact ⟨rfl, rfl⟩
  refine ⟨u, ends_runOp (runs_stepAbort hheld) hheld.2 hb (ukept.1.trans vcmds) (by decide), ?_, ?_, ?_, ?_, ukept.2.trans vmem⟩
  · rw [ustep]
  · rw [ustep]
  · rw [ustep]
  · rw [ustep]

/-! STEP_MEASURE of one block (R313). -/

theorem bindStreams_none (s : State) (x : Sub) : s.bindStreams x [] = .ok s := rfl

/-- A command in hand has made no progress. -/
theorem progress_inHand (h : s.inHand x = true) : s.progress x = (0, []) := by
  obtain ⟨c, hcmd, -, -, -, -, -, hprog, hacc, -⟩ := inHand_cmd h
  unfold State.progress
  rw [hcmd]
  dsimp only
  rw [hprog, hacc]

theorem measure_oneBlock {k : StepBlk} {r : Region} {p : Nat × Region} (hblocks : s.planBlocks x.chamber true = [k])
    (hgrad : s.slotRegion ((s.planEntry x.chamber k.entry).slot (s.planEntry x.chamber k.entry).grad) = some r)
    (hfirst : s.firstRegion (s.planEntry x.chamber k.entry) = some p)
    (hthin : s.thin (s.blockStile (s.planEntry x.chamber k.entry) k) = false) :
    let t := (s.un x.chamber).step
    let d := s.regionRead r k.m (4096 * k.b) (p.2.coord.blockElems k.b)
    (∀ q ∈ d, finiteBits (fmtOf r.coord.elemType) q.1 = true) →
    ∃ w, s.measureLoop x [k] 0 0 0 none = ⟨s.onStep x.chamber fun t => { t with phase := .measured }, some sOk,
      BitVec.ofNat 64 (add64 0 (blockSquares r.coord.elemType ((t.scale.toNat / 2 ^ 23 % 256 : Nat) - 127) (d.map (·.1)))), 1, w⟩ := by
  intro t d hfinite
  have hnf : d.filter (fun p => !finiteBits (fmtOf r.coord.elemType) p.1) = [] := by
    rw [List.filter_eq_nil_iff]
    intro q hq
    rw [hfinite q hq]
    decide
  have htype : s.slotType ((s.planEntry x.chamber k.entry).slot (s.planEntry x.chamber k.entry).grad) = some r.coord.elemType := by
    unfold State.slotType
    rw [hgrad]
  have hread : s.slotRead ((s.planEntry x.chamber k.entry).slot (s.planEntry x.chamber k.entry).grad) k (p.2.coord.blockElems k.b) = some (d, s) := by
    unfold State.slotRead
    rw [hgrad]
  have hok : s.stepOk x.chamber [k] = sOk := by
    unfold State.stepOk
    exact if_neg (by simp [hthin])
  unfold State.measureLoop
  dsimp only
  rw [hfirst]
  dsimp only
  rw [hread, htype]
  simp only [Option.getD_some, hnf, List.length_nil, if_pos]
  unfold State.measureLoop
  simp only [hblocks, hok]
  exact ⟨_, rfl⟩

theorem stepMeasure_ends {k : StepBlk} {r : Region} {p : Nat × Region} (hheld : s.holdsCmd (.stepMeasure x0 e) x) (hreadErr : e.readErr = false)
    (hout : s.stepOut x [.begun] = false) (hstreams : s.stepStreams x.chamber false = []) (hblocks : s.planBlocks x.chamber true = [k])
    (hgrad : s.slotRegion ((s.planEntry x.chamber k.entry).slot (s.planEntry x.chamber k.entry).grad) = some r)
    (hfirst : s.firstRegion (s.planEntry x.chamber k.entry) = some p)
    (hthin : s.thin (s.blockStile (s.planEntry x.chamber k.entry) k) = false)
    (hfinite : ∀ q ∈ s.regionRead r k.m (4096 * k.b) (p.2.coord.blockElems k.b), finiteBits (fmtOf r.coord.elemType) q.1 = true) :
    let t := (s.un x.chamber).step
    let d := s.regionRead r k.m (4096 * k.b) (p.2.coord.blockElems k.b)
    Ends (.stepMeasure x0 e) s x sOk (BitVec.ofNat 64 (add64 0 (blockSquares r.coord.elemType ((t.scale.toNat / 2 ^ 23 % 256 : Nat) - 127) (d.map (·.1))))) 1
      (s.onStep x.chamber fun t => { t with phase := .measured }) := by
  intro t d
  obtain ⟨w, hloop⟩ := measure_oneBlock hblocks hgrad hfirst hthin hfinite
  have hbody : bodyStepMeasure x e s = s.measureLoop x [k] 0 0 0 none := by
    unfold bodyStepMeasure
    dsimp only
    rw [hout, if_neg Bool.false_ne_true, hreadErr, if_neg Bool.false_ne_true, hstreams, bindStreams_none]
    dsimp only
    rw [progress_inHand hheld.2, hblocks]
    simp
  refine ends_runOp (runs_stepMeasure hheld) hheld.2 (w := w) ?_ rfl (by decide)
  rw [hbody, hloop]
  exact if_neg (by simp)

theorem stepNorm_ends (hheld : s.holdsCmd (.stepNorm x0 e) x) (hout : s.stepOut x [.measured] = false)
    (hnorm : isFin (BitVec.ofNat 32 (fld x.a 31 0)) = true) (hloss : isFin (BitVec.ofNat 32 (fld x.a 63 32)) = true)
    (hlimit : (BitVec.ofNat 32 (fld x.a 31 0)).toNat ≤ 0x80000000) :
    let ch := x.chamber
    let norm : BitVec 32 := BitVec.ofNat 32 (fld x.a 31 0)
    let loss : BitVec 32 := BitVec.ofNat 32 (fld x.a 63 32)
    let top : BitVec 32 := BitVec.ofNat 32 (leAt (s.planHead ch) 20 4)
    Ends (.stepNorm x0 e) s x sOk (BitVec.ofNat 64 (s.un ch).step.scale.toNat) 0 (s.onStep ch fun t =>
      { t with phase := .normed, norm := norm, loss := loss, clip := if leAt (s.planHead ch) 1 1 / 2 % 2 = 1 ∧ flCmp (num norm) (num top) = some .gt
        then re (flDiv (num top) (num norm)) else 0x3F800000 }) := by
  intro ch norm loss top
  refine ends_runOp (runs_stepNorm hheld) hheld.2 (w := []) ?_ rfl (by decide)
  unfold bodyStepNorm
  dsimp only
  rw [hnorm, hloss, if_neg (by simp only [Bool.true_and, decide_eq_true_eq]; omega), hout, if_neg Bool.false_ne_true, if_neg (by decide)]
  rfl

end

/-- Settles O27: the plan's one block is measured or refused as a whole, and what ends step copies leaves the steps alone. -/
theorem stepsBeginMeasureAndAbort : Obligations.StepsBeginMeasureAndAbort := by
  unfold Obligations.StepsBeginMeasureAndAbort
  constructor
  · intro s x0 x e hread ch t w
    exact ⟨fun hheld huse hgood => programLoad_ends hheld hread rfl huse hgood,
      fun hheld hcount hout hbegin hhead hentries hboundary hguarded =>
        stepBegin_begins hheld hread hcount hout hbegin hhead hentries hboundary hguarded,
      stepAbort_aborts⟩
  · intro s x0 x e ch t
    constructor
    · intro k r p hheld hread hout hstreams hblocks hgrad hfirst hthin d hfinite
      exact ⟨_, stepMeasure_ends hheld hread hout hstreams hblocks hgrad hfirst hthin hfinite, congrArg ChUnit.step (State.un_onUn ..), rfl, rfl⟩
    · intro hheld hout norm loss top hnorm hloss hlimit
      exact stepNorm_ends hheld hout hnorm hloss hlimit

end Sys2Proof.Proofs
end

section
/-! PROOFS. STEP_ROLLBACK on a stile map that is not in canonical form (R320, R497). -/

namespace Sys2Proof.Proofs
open Sys2Proof Sys2Proof.Machine Sys2Proof.Laws

/-! As for CONDENSE: the write that puts a copy back finds no place for a copy of its own granule, the guard is lost, and the sweep of the stiles' copies
shows the second entry of the copy's stile, whose mover is removed. -/

/-- STEP_ROLLBACK of chamber 1. -/
def rollbackSub : Sub := ⟨1, 1, 0x66, 0, 0, 0, 0, 0, 0, 0, 0, 0, 0⟩

/-- The one step copy: of granule 0, for chamber 1. -/
def strayCopy : Copy := ⟨0, 0, none, false, some 1, true, [], []⟩

/-- The command in hand, a guarded applied step whose scope holds the copy's granule, no place for copies, and two entries of stile 1: the one that is
read is as at reset, the one behind it has the step copy and its mover is removed. -/
def strayRollback : State := { strayStiles with
  cmds := [⟨rollbackSub, false, [], 1, 0, true, [], [], 0, [], [], 0⟩]
  chambers := (SMap.const Chamber.zero).set 1 { Chamber.zero with mode := 0xA0 }
  units := ⟨ChUnit.zero, [(1, { ChUnit.zero with step := { StepRec.zero with
    phase := .applied, epochOpen := true, scope := [2], saved := some (0, 0, 0, 0) } })]⟩
  stiles := ⟨Stile.zero, [(0, { Stile.zero with moverOn := true, rebateLost := 32 }), (1, Stile.zero),
    (1, { Stile.zero with removed := true, copies := [strayCopy] })]⟩ }

theorem strayRollback_held : strayRollback.holdsCmd (.stepRollback rollbackSub Ext.good) rollbackSub := ⟨rfl, by decide +kernel⟩

theorem strayRollback_copies : strayRollback.stepCopies 1 = [(1, strayCopy)] := by decide +kernel

theorem rollback_degraded : finStatuses (exec (.stepRollback rollbackSub Ext.good) strayRollback) = [sDegraded] := by decide +kernel

/-- The one completion of a command that ended from a state without completions has the status it ended with. -/
theorem finStatuses_ends {i : Instr} {s u : State} {x : Sub} {st : BitVec 16} {r : BitVec 64} {n : Nat} (h : Ends i s x st r n u) :
    finStatuses (exec i s) = u.fins.map Fin.status ++ [st] := by
  obtain ⟨t, hexec, hfins, -⟩ := h
  rw [hexec, finStatuses, hfins, List.map_append]
  rfl

/-- Refutes O28: on a stile map with a second entry of the copy's stile behind the one that is read, STEP_ROLLBACK ends with DEGRADED_COMPLETED although
the copy's stile is not thin as it begins. -/
theorem not_stepsApplyAndTiersMove : ¬ Obligations.StepsApplyAndTiersMove := by
  unfold Obligations.StepsApplyAndTiersMove
  rintro ⟨hsteps, -⟩
  obtain ⟨-, hrollback⟩ := hsteps strayRollback rollbackSub rollbackSub Ext.good rfl rfl rfl
  obtain ⟨u, hends, -⟩ := hrollback 1 strayCopy 0 0 0 0 strayRollback_held (by decide +kernel) (by decide +kernel) (by decide +kernel) (by decide +kernel)
    strayRollback_copies (by decide +kernel) (by decide +kernel)
  have hlast : u.fins.map Fin.status ++ [sOk] = [sDegraded] := (finStatuses_ends hends).symm.trans rollback_degraded
  have hstatus : sOk = sDegraded := Option.some.inj (by rw [← List.getLast?_concat, hlast]; rfl)
  exact absurd hstatus (by decide)

end Sys2Proof.Proofs
end

section
/-! PROOFS. Digests, MACs and sealed buffers of host memory (R134, R135, R195, R198, R381, R391, R397). -/

namespace Sys2Proof.Proofs
open Sys2Proof Sys2Proof.Machine Sys2Proof.Laws

section
variable {s : State} {x0 x : Sub} {e : Ext}

/-! Digests (R381, R391, R397). -/

/-- A good source is digested to the output. -/
theorem digestTo_writes (f : List Byte → List Byte) (hdom : s.dom 103 = true) (hctx : s.cmdContexts < 24) (hup : s.engineUp = true)
    (hwrite : e.writeErr = false) (hsrc : s.attestable e x.b.toNat (fld x.c 39 0) = true) :
    s.digestTo x e f = ended (s.poke x.d.toNat (f (s.peek x.b.toNat (fld x.c 39 0)))) sOk 0 (ceilDiv (fld x.c 39 0) 65536) [] := by
  simp [State.digestTo, hdom, Nat.not_le.mpr hctx, hup, hwrite, hsrc]

theorem digest_ends (hheld : s.holdsCmd (.digest x0 e) x) (hdom : s.dom 103 = true) (hctx : s.cmdContexts < 24) (hup : s.engineUp = true)
    (hwrite : e.writeErr = false) (hsrc : s.attestable e x.b.toNat (fld x.c 39 0) = true) :
    Ends (.digest x0 e) s x sOk 0 (ceilDiv (fld x.c 39 0) 65536) (s.poke x.d.toNat (sha (fld x.a 1 0) (s.peek x.b.toNat (fld x.c 39 0)))) :=
  ends_runOp (runs_digest hheld) hheld.2 (digestTo_writes _ hdom hctx hup hwrite hsrc) rfl (by decide)

theorem hmac_ends {key : List Byte} (hheld : s.holdsCmd (.hmac x0 e) x) (hdom : s.dom 103 = true) (hctx : s.cmdContexts < 24) (hup : s.engineUp = true)
    (hwrite : e.writeErr = false) (hsrc : s.attestable e x.b.toNat (fld x.c 39 0) = true) {h : HSlot} (hslot : s.dgt.hslots.get (fld x.a 12 8) = h)
    (hloaded : h.loaded = true) (halg : h.alg = fld x.a 1 0) (hinner : h.inner = hmacKey h.alg 0x36 (hmacFit h.alg key))
    (houter : h.outer = hmacKey h.alg 0x5C (hmacFit h.alg key)) :
    Ends (.hmac x0 e) s x sOk 0 (ceilDiv (fld x.c 39 0) 65536) (s.poke x.d.toNat (hmacOf (fld x.a 1 0) key (s.peek x.b.toNat (fld x.c 39 0)))) := by
  have hmac : hmacFrom h.alg h.inner h.outer = hmacOf (fld x.a 1 0) key := by
    rw [hinner, houter, halg]
    rfl
  have hb : bodyHmac x e s = s.digestTo x e (hmacOf (fld x.a 1 0) key) := by
    rw [← hmac]
    unfold bodyHmac
    dsimp only
    rw [hslot, hloaded, if_neg (by decide), if_neg (not_not_intro halg)]
  exact ends_runOp (runs_hmac hheld) hheld.2 (hb.trans (digestTo_writes _ hdom hctx hup hwrite hsrc)) rfl (by decide)

theorem extend_ends (hheld : s.holdsCmd (.extend x0 e) x) (hdom : s.dom 103 = true) (hup : s.engineUp = true)
    (hsrc : s.attestable e x.a.toNat (fld x.b 15 0) = true) :
    Ends (.extend x0 e) s x sOk 0 0 (s.extendSg (x.handle.toNat % 32) (s.peek x.a.toNat (fld x.b 15 0))) := by
  have hb : bodyExtend x e s = done (s.extendSg (x.handle.toNat % 32) (s.peek x.a.toNat (fld x.b 15 0))) 0 := by
    simp [bodyExtend, hdom, hup, hsrc]
  exact ends_runOp (runs_extend hheld) hheld.2 hb rfl (by decide)

/-! Sealing (R134, R192, R195, R198). -/

/-- A key that is not near its end of use is counted and nothing is logged (R195). -/
theorem useKey_counts {slot : Nat} (hused : (s.keys.get slot).used + 2 ^ 26 < 2 ^ 32) :
    s.useKey slot = s.onKey slot fun k => { k with count := k.count + 1 } := by
  have hcount : (s.keys.get slot).count ≤ (s.keys.get slot).used := Nat.le_add_right ..
  exact if_neg (by omega)

theorem seal_ends (hheld : s.holdsCmd (.seal x0 e) x) (hwrite : e.writeErr = false) (hstop : s.drbg.stop = false) (hup : s.cipherUp = true)
    (hlen : fld x.d 36 0 ≤ 2 ^ 36 - 32) (husable : (s.keys.get (x.handle.toNat % 64)).usable = true)
    (hused : (s.keys.get (x.handle.toNat % 64)).used + 2 ^ 26 < 2 ^ 32) :
    let slot := x.handle.toNat % 64
    let k := s.keys.get slot
    let iv := leBytes 12 k.iv.toNat
    let g := gcmSeal (keyBytes k.key) iv (s.cipherAad x) (s.peek x.b.toNat (fld x.d 36 0))
    Ends (.seal x0 e) s x sOk (BitVec.ofNat 64 (k.count + 1)) (ceilDiv (fld x.d 36 0) 65536)
      ((s.onKey slot fun k => { k with count := k.count + 1 }).poke x.c.toNat (iv ++ g.1 ++ g.2)) := by
  intro slot k iv g
  have hb : bodySeal x e s = ended ((s.onKey slot fun k => { k with count := k.count + 1 }).poke x.c.toNat (iv ++ g.1 ++ g.2)) sOk
      (BitVec.ofNat 64 (k.count + 1)) (ceilDiv (fld x.d 36 0) 65536) [] := by
    unfold bodySeal
    dsimp only
    rw [if_neg (by omega), husable, if_neg (by decide), if_neg (by omega), hstop, if_neg Bool.false_ne_true, hup, if_neg (by decide),
      useKey_counts hused, hwrite, if_neg Bool.false_ne_true]
  exact ends_runOp (runs_seal hheld) hheld.2 hb rfl (by decide)

/-- UNSEAL past its checks: the plain text, or zeros where the tag fails. -/
theorem bodyUnseal_opens (hwrite : e.writeErr = false) (hstop : s.drbg.stop = false) (hup : s.cipherUp = true)
    (hlen : fld x.d 36 0 ≤ 2 ^ 36 - 32) (husable : (s.keys.get (x.handle.toNat % 64)).usable = true) {g : Option (List Byte)}
    (hg : gcmOpen (keyBytes (s.keys.get (x.handle.toNat % 64)).key) (s.peek x.b.toNat 12) (s.cipherAad x) (s.peek (x.b.toNat + 12) (fld x.d 36 0))
      (s.peek (x.b.toNat + 12 + fld x.d 36 0) 16) = g) :
    bodyUnseal x e s = ended (s.poke x.c.toNat (g.getD (zeros (fld x.d 36 0)))) (if g.isSome then sOk else sAuthFailed) 0
      (ceilDiv (fld x.d 36 0) 65536) [] := by
  unfold bodyUnseal
  dsimp only
  rw [if_neg (by omega), husable, if_neg (by decide), hstop, if_neg Bool.false_ne_true, hup, if_neg (by decide), hwrite, if_neg Bool.false_ne_true, hg]
  cases g <;> rfl

end

/-- Settles O29: each command past its checks is one write of memory or one extension. -/
theorem digestsAndSealsOfMemory : Obligations.DigestsAndSealsOfMemory := by
  unfold Obligations.DigestsAndSealsOfMemory
  constructor
  · intro s x0 x e hdom hctx hup hwrite n src
    refine ⟨fun hheld hsrc => digest_ends hheld hdom hctx hup hwrite hsrc, ?_, fun hheld hsrc => extend_ends hheld hdom hup hsrc⟩
    intro key hheld hsrc h hloaded halg hinner houter
    exact hmac_ends hheld hdom hctx hup hwrite hsrc rfl hloaded halg hinner houter
  · intro s x0 x e hwrite hstop hup n slot k hlen husable
    refine ⟨fun hheld hused => seal_ends hheld hwrite hstop hup hlen husable hused, fun hheld => ⟨fun p hp => ?_, fun hnone => ?_⟩⟩
    · exact ends_runOp (runs_unseal hheld) hheld.2 (bodyUnseal_opens hwrite hstop hup hlen husable hp) rfl (by decide)
    · exact ends_runOp (runs_unseal hheld) hheld.2 (bodyUnseal_opens hwrite hstop hup hlen husable hnone) rfl (by decide)

end Sys2Proof.Proofs
end

section
/-! PROOFS. Digest contexts and HMAC slots of the register interface (R383-R393). -/

namespace Sys2Proof.Proofs
open Sys2Proof Sys2Proof.Machine Sys2Proof.Laws

/-! Fields of a word with another bit set. -/

section
variable {w : Nat} (v : BitVec w) {i : Nat} (b : Bool)

theorem getLsbD_setBit_ne {j : Nat} (h : j ≠ i) : (setBit v i b).getLsbD j = v.getLsbD j := by
  have hone : (1#w <<< i).getLsbD j = false := by
    rw [BitVec.getLsbD_shiftLeft, BitVec.getLsbD_one]
    by_cases hj : j < i
    · simp [hj]
    · simp [show j - i ≠ 0 by omega]
  cases b
  · show (v &&& ~~~(1#w <<< i)).getLsbD j = _
    rw [BitVec.getLsbD_and, BitVec.getLsbD_not, hone]
    by_cases hj : j < w
    · simp [hj]
    · simp [BitVec.getLsbD_of_ge v j (Nat.le_of_not_lt hj)]
  · show (v ||| 1#w <<< i).getLsbD j = _
    rw [BitVec.getLsbD_or, hone, Bool.or_false]

theorem bit_setBit_ne {j : Nat} (h : j ≠ i) : bit (setBit v i b) j = bit v j := getLsbD_setBit_ne v b h

theorem fld_setBit {hi : Nat} (lo : Nat) (h : hi < i) : fld (setBit v i b) hi lo = fld v hi lo := by
  refine Nat.eq_of_testBit_eq fun j => ?_
  simp only [fld, Nat.testBit_mod_two_pow, Nat.testBit_shiftRight, BitVec.testBit_toNat]
  by_cases hj : j < hi + 1 - lo
  · rw [getLsbD_setBit_ne v b (by omega)]
  · simp [hj]

theorem setBit_and {m : BitVec w} (h : m.getLsbD i = false) : setBit v i b &&& m = v &&& m := by
  refine BitVec.eq_of_getLsbD_eq fun j _ => ?_
  rw [BitVec.getLsbD_and, BitVec.getLsbD_and]
  by_cases hj : j = i
  · rw [hj, h, Bool.and_false, Bool.and_false]
  · rw [getLsbD_setBit_ne v b hj]

end

/-! A message digested in parts is digested as a whole. -/

theorem shaBlock_pos (alg : Nat) : 0 < shaBlock alg := by
  unfold shaBlock
  split <;> decide

theorem shaBlock_le (alg : Nat) : shaBlock alg ≤ 128 := by
  unfold shaBlock
  split <;> decide

theorem shaBlocks_add (alg m n : Nat) (h : List Nat) (l : List Byte) :
    shaBlocks alg (m + n) h l = shaBlocks alg n (shaBlocks alg m h l) (l.drop (m * shaBlock alg)) := by
  induction m generalizing h l with
  | zero => simp [shaBlocks]
  | succ m ih => rw [Nat.add_right_comm, shaBlocks, shaBlocks, ih, List.drop_drop, Nat.succ_mul, Nat.add_comm (shaBlock alg)]

theorem shaBlocks_append (alg : Nat) {n : Nat} (h : List Nat) {l : List Byte} (d : List Byte) (hlen : n * shaBlock alg ≤ l.length) :
    shaBlocks alg n h (l ++ d) = shaBlocks alg n h l := by
  induction n generalizing h l with
  | zero => rfl
  | succ n ih =>
    rw [Nat.succ_mul] at hlen
    rw [shaBlocks, shaBlocks, List.take_append_of_le_length (by omega), List.drop_append_of_le_length (by omega), ih]
    rw [List.length_drop]
    omega

/-- The whole blocks of a message with more behind it: those of the message, then those of what was left of it with the rest. -/
theorem shaBlocks_resume (alg : Nat) (h : List Nat) (m d : List Byte) :
    let k := m.length / shaBlock alg
    let r := m.drop (k * shaBlock alg) ++ d
    (m ++ d).length / shaBlock alg = k + r.length / shaBlock alg ∧
      shaBlocks alg ((m ++ d).length / shaBlock alg) h (m ++ d) = shaBlocks alg (r.length / shaBlock alg) (shaBlocks alg k h m) r ∧
      (m ++ d).drop ((m ++ d).length / shaBlock alg * shaBlock alg) = r.drop (r.length / shaBlock alg * shaBlock alg) := by
  intro k r
  have hk : k * shaBlock alg ≤ m.length := Nat.div_mul_le_self ..
  have hdrop : (m ++ d).drop (k * shaBlock alg) = r := List.drop_append_of_le_length hk
  have hlen : (m ++ d).length / shaBlock alg = k + r.length / shaBlock alg := by
    have : (m ++ d).length = r.length + shaBlock alg * k := by
      rw [← hdrop, List.length_drop, List.length_append, Nat.mul_comm (shaBlock alg)]
      omega
    rw [this, Nat.add_mul_div_left _ _ (shaBlock_pos alg), Nat.add_comm]
  refine ⟨hlen, ?_, ?_⟩
  · rw [hlen, shaBlocks_add, shaBlocks_append alg h d hk, hdrop]
  · rw [hlen, Nat.add_mul, ← List.drop_drop, hdrop]

/-- The digest of a message from the chaining value of its whole blocks. -/
theorem shaFinish_resume (alg : Nat) (m : List Byte) :
    let k := m.length / shaBlock alg
    shaFinish alg (shaBlocks alg k (shaInit alg) m) (m.drop (k * shaBlock alg)) m.length = sha alg m := by
  intro k
  obtain ⟨-, hblocks, -⟩ := shaBlocks_resume alg (shaInit alg) m (shaPad alg m.length)
  unfold sha shaFinish
  exact congrArg (shaOut alg) hblocks.symm

/-- What is absorbed is followed by what is written (R385, R387). -/
theorem absorbed_more {t : DgtCtx} {m : List Byte} (h : t.absorbed m) (d : List Byte) :
    ({ t with count := t.count + d.length, buf := t.buf ++ d } : DgtCtx).compress.absorbed (m ++ d) := by
  obtain ⟨hmac, hcount, hqueued, hchain, hbuf⟩ := h
  obtain ⟨-, hblocks, hrest⟩ := shaBlocks_resume t.mAlg (shaInit t.mAlg) m d
  refine ⟨hmac, ?_, hqueued, ?_, ?_⟩
  · show t.count + d.length = _
    rw [hcount, List.length_append]
  · show shaBlocks t.mAlg _ t.chain (t.buf ++ d) = _
    rw [hchain, hbuf]
    exact hblocks.symm
  · show (t.buf ++ d).drop _ = _
    rw [hbuf]
    exact hrest.symm

/-! Digest windows (R383, R396, R515). -/

section
variable {s : State} {a : Access} {c : Nat}

theorem windowOpen_iff : s.windowOpen a = true ↔ s.boot.resetHeld = 0 ∧ (s.lanes.get a.lane).held = none ∧ s.dom 103 = true := by
  simp [State.windowOpen, Option.isNone_iff_eq_none, and_assoc]

theorem laneFree_of_windowOpen (hopen : s.windowOpen a = true) : s.laneFree a = true := by
  obtain ⟨hreset, hheld, -⟩ := windowOpen_iff.mp hopen
  exact laneFree_iff.mpr ⟨by rw [hreset]; decide, hheld⟩

/-- An open digest window takes a write. -/
theorem dgtWindow_open (hopen : s.windowOpen a = true) (addr : Nat) (f : State → State) : s.dgtWindow a 0 addr f = (f s).answer a 0 0 := by
  obtain ⟨hreset, -, hdom⟩ := windowOpen_iff.mp hopen
  unfold State.dgtWindow
  rw [hreset, hdom, if_neg (by decide), if_neg (by simp), if_neg (by decide)]
  exact fabWrite_ok (laneFree_of_windowOpen hopen) nofun

/-- `u` is `s` with context `c` set to `n`, the access answered with ERR 0, and nothing changed outside the contexts and the lanes. -/
def CtxSet (s : State) (a : Access) (c : Nat) (n : DgtCtx) (u : State) : Prop :=
  u.ctx c = n ∧ (∀ k, k ≠ c → u.ctx k = s.ctx k) ∧ (u.lanes.get a.lane).ans = ⟨0, 0⟩ ∧
    u = { s with dgt := { s.dgt with ctx := u.dgt.ctx }, lanes := u.lanes }

theorem ctx_onCtx (f : DgtCtx → DgtCtx) : (s.onCtx c f).ctx c = f (s.ctx c) := get_modify_self ..

theorem ctx_onCtx_ne (f : DgtCtx → DgtCtx) {k : Nat} (h : k ≠ c) : (s.onCtx c f).ctx k = s.ctx k := get_modify_ne _ _ h

theorem answer_ans (s : State) (a : Access) (err : Nat) (d : BitVec 64) : ((s.answer a err d).lanes.get a.lane).ans = ⟨err, d⟩ :=
  congrArg Lane.ans (get_modify_self ..)

/-- A change of one context, of the lanes as well or not, that is answered. -/
theorem ctxSet_onCtx (l : SMap Lane) (f : DgtCtx → DgtCtx) :
    CtxSet s a c (f (s.ctx c)) ((({ s with lanes := l } : State).onCtx c f).answer a 0 0) :=
  ⟨ctx_onCtx (s := { s with lanes := l }) f, fun _ h => ctx_onCtx_ne (s := { s with lanes := l }) f h, answer_ans .., rfl⟩

/-! Message writes (R384-R387). -/

/-- A message write of its owner reaches the context. -/
theorem message_open (hlow : 32 ≤ c) (hhigh : c < 64) (hopen : s.windowOpen a = true) (hstate : (s.ctx c).state ≠ 0)
    (howner : (s.ctx c).owner = privCh a) (off op : Nat) (w : BitVec 64) : s.message a c off op w true = (s.ctxWrite c op w).answer a 0 0 := by
  have herr : s.ctxErr a c = 0 := if_neg (by simp [hstate, howner])
  unfold State.message
  rw [if_neg (by omega), herr]
  exact dgtWindow_open hopen ..

/-- What a context absorbs to as it stands or as its message begins. -/
def startedCtx (s : State) (c : Nat) : DgtCtx :=
  if (s.ctx c).state = 1 then (s.ctx c).begin (s.dgt.hslots.get (s.ctx c).hslot) else s.ctx c

/-- The context is in the middle of `m`, or before a message that is no HMAC, `m` empty. -/
def Takes (t : DgtCtx) (m : List Byte) : Prop :=
  t.state = 2 ∧ t.absorbed m ∨ t.state = 1 ∧ t.hmac = false ∧ t.queued = [] ∧ m = []

theorem started_absorbed {m : List Byte} (h : Takes (s.ctx c) m) : (startedCtx s c).absorbed m ∧ (startedCtx s c).state = 2 ∧
    (startedCtx s c).owner = (s.ctx c).owner ∧ (startedCtx s c).mAlg = if (s.ctx c).state = 1 then (s.ctx c).alg else (s.ctx c).mAlg := by
  unfold startedCtx
  obtain ⟨hstate, habs⟩ | ⟨hstate, hmac, hqueued, rfl⟩ := h
  · rw [if_neg (by omega), if_neg (by omega)]
    exact ⟨habs, hstate, rfl, rfl⟩
  · rw [if_pos hstate, if_pos hstate]
    refine ⟨⟨hmac, rfl, hqueued, ?_, List.drop_nil.symm⟩, rfl, rfl, rfl⟩
    show (if (s.ctx c).hmac then _ else _) = _
    rw [hmac]
    simp [shaBlocks, DgtCtx.begin]

/-- The bytes a message write adds. -/
def writtenBytes (op : Nat) (w : BitVec 64) : List Byte := if op = 9 then [] else (leBytes 8 w.toNat).take (if op = 0 then 8 else op)

/-- The context after a message write. -/
def putCtx (s : State) (c op : Nat) (w : BitVec 64) : DgtCtx :=
  let t := startedCtx s c
  let d := writtenBytes op w
  let u := ({ t with count := t.count + d.length, buf := t.buf ++ d } : DgtCtx).compress
  if op = 0 then u else { u with state := 3 }

theorem ctxWrite_puts {m : List Byte} {op : Nat} {w : BitVec 64} (hup : s.engineUp = true) (htakes : Takes (s.ctx c) m) (hop : op ≠ 10)
    (hlen : m.length + (writtenBytes op w).length < 2 ^ 40) : s.ctxWrite c op w = s.onCtx c fun _ => putCtx s c op w := by
  obtain ⟨habs, -, -, -⟩ := started_absorbed htakes
  have hcount : (startedCtx s c).count = m.length := habs.2.1
  have hput : s.ctxPut c op w = s.onCtx c fun _ => putCtx s c op w := by
    have hstate : (s.ctx c).state = 2 ∨ (s.ctx c).state = 1 ∧ (s.ctx c).hmac = false := by
      obtain ⟨hstate, -⟩ | ⟨hstate, hmac, -, -⟩ := htakes
      · exact .inl hstate
      · exact .inr ⟨hstate, hmac⟩
    have hfresh : (if ((s.ctx c).state == 1 || (s.ctx c).state == 4) = true then (s.ctx c).begin (s.dgt.hslots.get (s.ctx c).hslot) else s.ctx c) =
        startedCtx s c := by
      unfold startedCtx
      obtain hstate | ⟨hstate, -⟩ := hstate <;> simp [hstate]
    have hserved : ¬(((s.ctx c).state == 1 || (s.ctx c).state == 4) && (s.ctx c).hmac && !s.hslotServes (s.ctx c).hslot (s.ctx c).owner (s.ctx c).alg) =
        true := by
      obtain hstate | ⟨hstate, hmac⟩ := hstate
      · simp [hstate]
      · simp [hmac]
    unfold State.ctxPut
    dsimp only
    rw [if_neg (by omega), if_neg hop, if_neg hserved, hfresh]
    rw [if_neg (by rw [hcount]; exact Nat.not_le.mpr hlen), hup]
    rfl
  unfold State.ctxWrite
  dsimp only
  rw [if_neg ?_, hput]
  obtain ⟨hstate, -, -, hqueued, -, hbuf⟩ | ⟨hstate, -, hqueued, -⟩ := htakes
  · have hshort : (s.ctx c).buf.length < shaBlock (s.ctx c).mAlg := by
      rw [hbuf, List.length_drop, Nat.div_mul_self_eq_mod_sub_self]
      have := Nat.mod_lt m.length (shaBlock_pos (s.ctx c).mAlg)
      have := Nat.mod_le m.length (shaBlock (s.ctx c).mAlg)
      omega
    have := shaBlock_le (s.ctx c).mAlg
    simp only [hqueued, ne_eq, not_true_eq_false, false_or]
    omega
  · simp only [hqueued, ne_eq, not_true_eq_false, false_or]
    omega

theorem putCtx_absorbed {m : List Byte} {op : Nat} {w : BitVec 64} (htakes : Takes (s.ctx c) m) :
    (putCtx s c op w).absorbed (m ++ writtenBytes op w) ∧ (putCtx s c op w).state = (if op = 0 then 2 else 3) ∧
      (putCtx s c op w).owner = (s.ctx c).owner ∧ (putCtx s c op w).mAlg = if (s.ctx c).state = 1 then (s.ctx c).alg else (s.ctx c).mAlg := by
  obtain ⟨habs, hstate, howner, halg⟩ := started_absorbed htakes
  have hmore := absorbed_more habs (writtenBytes op w)
  unfold putCtx
  by_cases hop : op = 0
  · simp only [hop, if_true] at hmore ⊢
    exact ⟨hmore, hstate, howner, halg⟩
  · simp only [hop, if_false] at hmore ⊢
    exact ⟨hmore, trivial, howner, halg⟩

/-- What a message write that the context takes does. -/
theorem message_takes {i : Instr} {off op : Nat} {w : BitVec 64} {m : List Byte} (hexec : exec i s = .next (s.message a c off op w true)) (hop : op ≠ 10)
    (hlow : 32 ≤ c) (hhigh : c < 64) (hup : s.engineUp = true) (hopen : s.windowOpen a = true) (howner : (s.ctx c).owner = privCh a)
    (hlen : m.length + (writtenBytes op w).length < 2 ^ 40) (htakes : Takes (s.ctx c) m) :
    ∃ t, exec i s = .next t ∧ (t.ctx c).absorbed (m ++ writtenBytes op w) ∧ (t.ctx c).state = (if op = 0 then 2 else 3) ∧
      (t.ctx c).mAlg = (if (s.ctx c).state = 1 then (s.ctx c).alg else (s.ctx c).mAlg) ∧ (t.ctx c).owner = privCh a ∧
      (t.lanes.get a.lane).ans = ⟨0, 0⟩ ∧ (∀ k, k ≠ c → t.ctx k = s.ctx k) ∧ t = { s with dgt := { s.dgt with ctx := t.dgt.ctx }, lanes := t.lanes } := by
  have hstate : (s.ctx c).state ≠ 0 := by
    obtain ⟨hstate, -⟩ | ⟨hstate, -⟩ := htakes <;> omega
  obtain ⟨t, ht⟩ : ∃ t, t = s.message a c off op w true := ⟨_, rfl⟩
  have hset : CtxSet s a c (putCtx s c op w) t := by
    rw [ht, message_open hlow hhigh hopen hstate howner, ctxWrite_puts hup htakes hop hlen]
    exact ctxSet_onCtx s.lanes fun _ => putCtx s c op w
  obtain ⟨hctx, hothers, hans, hkept⟩ := hset
  obtain ⟨habs, hst, hown, halg⟩ := putCtx_absorbed (op := op) (w := w) htakes
  refine ⟨t, hexec.trans (congrArg _ ht.symm), ?_, ?_, ?_, ?_, hans, hothers, hkept⟩
  · rw [hctx]; exact habs
  · rw [hctx]; exact hst
  · rw [hctx]; exact halg
  · rw [hctx]; exact hown.trans howner

/-- The end of a message (R387). -/
theorem messageDone_ends {m : List Byte} (hup : s.engineUp = true) (hdom : s.dom 103 = true) (hstate : (s.ctx c).state = 3) (habs : (s.ctx c).absorbed m) :
    exec (.dgtMessageDone c) s = .next (s.onCtx c fun t =>
      { t with state := 4, out := padTo 64 (sha t.mAlg m), msgs := (t.msgs + 1) % 2 ^ 16, buf := [] }) := by
  obtain ⟨hmac, hcount, hqueued, hchain, hbuf⟩ := habs
  have hdigest (h : HSlot) : (s.ctx c).digest h = sha (s.ctx c).mAlg m := by
    unfold DgtCtx.digest
    dsimp only
    rw [hmac, hcount, hchain, hbuf]
    exact shaFinish_resume ..
  have hset (n : DgtCtx → DgtCtx) (n' : DgtCtx → DgtCtx) (h : n (s.ctx c) = n' (s.ctx c)) : s.onCtx c n = s.onCtx c n' := by
    have hm : s.dgt.ctx.modify c n = s.dgt.ctx.modify c n' := congrArg (s.dgt.ctx.set c) h
    unfold State.onCtx
    rw [hm]
  refine congrArg Host.Outcome.next ?_
  rw [if_neg (by simp [hstate, hup]), hdom, if_neg (by decide), hmac, hqueued, if_neg (by simp)]
  show s.onCtx c _ = _
  refine hset _ _ ?_
  rw [hdigest, hqueued]

/-! Contexts claimed, released, aborted and restored (R383, R386, R393). -/

theorem ctlWrite_open {v : BitVec 32} (hlow : 32 ≤ c) (hhigh : c < 64) (hopen : s.windowOpen a = true)
    (hown : (s.ctx c).state = 0 ∨ (s.ctx c).owner = privCh a) : s.ctlWrite a c v = (s.ctxCtl a c v).answer a 0 0 := by
  have herr : s.ctlErr a c v = 0 := if_pos hown
  unfold State.ctlWrite
  rw [if_neg (by omega), herr]
  exact dgtWindow_open hopen ..

/-- A word that CTL accepts. -/
def CtlGood (v : BitVec 32) : Prop := v &&& 0xFFF8E0F8 = 0 ∧ fld v 1 0 ≠ 3

/-- Open, restore and abort are no part of what makes a word good. -/
theorem ctlGood_setBit {v : BitVec 32} (h : CtlGood v) {i : Nat} (hi : i = 16 ∨ i = 17 ∨ i = 18) (b : Bool) : CtlGood (setBit v i b) := by
  obtain ⟨hbits, halg⟩ := h
  refine ⟨?_, ?_⟩
  · rw [setBit_and, hbits]
    obtain rfl | rfl | rfl := hi <;> decide
  · rwa [fld_setBit v b 0 (by omega)]

theorem claim_sets {v : BitVec 32} (hstate : (s.ctx c).state = 0) (hgood : CtlGood v) : s.ctxCtl a c (setBit (setBit (setBit v 16 true) 17 false) 18 false) =
    s.onCtx c fun _ => { DgtCtx.zero with state := 1, owner := privCh a, alg := fld v 1 0, hmac := bit v 2, hslot := fld v 12 8 } := by
  have hgood' := ctlGood_setBit (ctlGood_setBit (ctlGood_setBit hgood (.inl rfl) true) (.inr (.inl rfl)) false) (.inr (.inr rfl)) false
  unfold State.ctxCtl
  dsimp only
  rw [if_neg (not_or.mpr ⟨not_not_intro hgood'.1, hgood'.2⟩), if_pos hstate]
  have hopen : bit (setBit (setBit (setBit v 16 true) 17 false) 18 false) 16 = true := by
    rw [bit_setBit_ne _ _ (by decide), bit_setBit_ne _ _ (by decide), bit_setBit v (by decide)]
  rw [if_pos hopen]
  simp only [fld_setBit _ _ _ (show 1 < 18 by decide), fld_setBit _ _ _ (show 1 < 17 by decide), fld_setBit _ _ _ (show 1 < 16 by decide),
    fld_setBit _ _ _ (show 12 < 18 by decide), fld_setBit _ _ _ (show 12 < 17 by decide), fld_setBit _ _ _ (show 12 < 16 by decide),
    bit_setBit_ne _ _ (show 2 ≠ 18 by decide), bit_setBit_ne _ _ (show 2 ≠ 17 by decide), bit_setBit_ne _ _ (show 2 ≠ 16 by decide)]

theorem release_sets {v : BitVec 32} (hstate : (s.ctx c).state ≠ 0) (hgood : CtlGood v) :
    s.ctxCtl a c (setBit v 16 false) = (s.dropStateHalf c).onCtx c fun _ => DgtCtx.zero := by
  have hgood' := ctlGood_setBit hgood (.inl rfl) false
  unfold State.ctxCtl
  dsimp only
  rw [if_neg (not_or.mpr ⟨not_not_intro hgood'.1, hgood'.2⟩), if_neg hstate, bit_setBit v (by decide)]
  rfl

theorem abort_sets {v : BitVec 32} (hstate : (s.ctx c).state = 2 ∨ (s.ctx c).state = 3 ∨ (s.ctx c).state = 5) (hmgmt : mgmt a = false) (hgood : CtlGood v) :
    s.ctxCtl a c (setBit (setBit v 16 true) 18 true) = (s.dropStateHalf c).onCtx c fun t =>
      if t.state = 1 ∨ t.state = 4 then { t with
        state := 1, error := 0, count := 0, buf := [], queued := [], alg := fld (setBit (setBit v 16 true) 18 true) 1 0
        hmac := bit (setBit (setBit v 16 true) 18 true) 2, hslot := fld (setBit (setBit v 16 true) 18 true) 12 8 }
      else { t with state := 1, error := 0, count := 0, buf := [], queued := [] } := by
  have hgood' := ctlGood_setBit (ctlGood_setBit hgood (.inl rfl) true) (.inr (.inr rfl)) true
  unfold State.ctxCtl
  dsimp only
  rw [if_neg (not_or.mpr ⟨not_not_intro hgood'.1, hgood'.2⟩), if_neg (by omega), bit_setBit_ne _ _ (by decide), bit_setBit v (by decide),
    bit_setBit _ (by decide), hmgmt]
  rfl

theorem restore_sets {v : BitVec 32} (hstate : (s.ctx c).state = 1) (hgood : CtlGood v) :
    s.ctxCtl a c (setBit (setBit (setBit v 16 true) 17 true) 18 false) = s.restoreCtx c := by
  have hgood' := ctlGood_setBit (ctlGood_setBit (ctlGood_setBit hgood (.inl rfl) true) (.inr (.inl rfl)) true) (.inr (.inr rfl)) false
  unfold State.ctxCtl
  dsimp only
  rw [if_neg (not_or.mpr ⟨not_not_intro hgood'.1, hgood'.2⟩), if_neg (by omega), bit_setBit _ (show 18 < 32 by decide),
    bit_setBit_ne _ _ (show 16 ≠ 18 by decide), bit_setBit_ne _ _ (show 16 ≠ 17 by decide), bit_setBit v (by decide),
    bit_setBit_ne _ _ (show 17 ≠ 18 by decide), bit_setBit _ (show 17 < 32 by decide), if_pos hstate]
  rfl

end

/-! HMAC slots (R390, R391). -/

section
variable {s : State} {a : Access} {c h : Nat}

theorem zeroed_get (m : SMap (BitVec 64)) (k n : Nat) {i : Nat} (hi : i < n) : ((List.range n).foldl (fun m i => m.set (k + i) 0) m).get (k + i) = 0 := by
  induction n with
  | zero => omega
  | succ n ih =>
    rw [List.range_succ, List.foldl_append, List.foldl_cons, List.foldl_nil]
    by_cases hin : i = n
    · rw [hin, get_set_self]
    · rw [get_set_ne _ _ (by omega), ih (by omega)]

theorem hslotLoad_loads {v : BitVec 32} (hh : h < 32) (hopen : s.windowOpen a = true) (hown : h = privCh a) (hbusy : s.hslotBusy h = false)
    (hbits : v &&& 0xFC00C0F8 = 0) (hclear : bit v 25 = false) (hderive : bit v 2 = false) (halg : fld v 1 0 ≠ 3) (hlen : fld v 23 16 ≠ 0)
    (hfits : fld v 23 16 ≤ shaBlock (fld v 1 0)) :
    let key := s.hkeyBytes h (fld v 23 16)
    exec (.hslotLoad a h v) s = .next (((s.onHslot h fun t => ⟨true, fld v 1 0, false, (t.gen + 1) % 256, 0,
      hmacKey (fld v 1 0) 0x36 key, hmacKey (fld v 1 0) 0x5C key⟩).zeroHkey h).answer a 0 0) := by
  intro key
  have herr : hslotErr a h = 0 := if_pos (.inl hown.symm)
  have hctl : s.hslotCtl h (setBit v 24 true) = (s.onHslot h fun t => ⟨true, fld v 1 0, false, (t.gen + 1) % 256, 0,
      hmacKey (fld v 1 0) 0x36 key, hmacKey (fld v 1 0) 0x5C key⟩).zeroHkey h := by
    unfold State.hslotCtl State.loadHslot
    dsimp only
    rw [setBit_and v true (by decide), hbits, if_neg (not_not_intro rfl), bit_setBit_ne v true (by decide), hclear, if_neg Bool.false_ne_true,
      bit_setBit v (by decide), if_pos rfl, hbusy, bit_setBit_ne v true (by decide), hderive, fld_setBit v true 0 (by decide),
      fld_setBit v true 16 (by decide)]
    simp only [Bool.false_eq_true, if_false, if_neg halg, if_neg (not_or.mpr ⟨hlen, Nat.not_lt.mpr hfits⟩), ne_eq, not_true_eq_false]
    rfl
  refine congrArg Host.Outcome.next ?_
  rw [if_neg (by omega), herr, dgtWindow_open hopen, hctl]

theorem hslotClear_clears (hh : h < 32) (hopen : s.windowOpen a = true) (hown : h = privCh a) (hbusy : s.hslotBusy h = false) :
    exec (.hslotClear a h) s = .next (((s.onHslot h HSlot.clear).zeroHkey h).answer a 0 0) := by
  have herr : hslotErr a h = 0 := if_pos (.inl hown.symm)
  have hctl : s.hslotCtl h (setBit 0 25 true) = (s.onHslot h HSlot.clear).zeroHkey h := by
    unfold State.hslotCtl State.clearHslot
    rw [if_neg (by decide), if_pos (by decide), hbusy]
    rfl
  refine congrArg Host.Outcome.next ?_
  rw [if_neg (by omega), herr, dgtWindow_open hopen, hctl]

theorem zeroHkey_frame (s : State) (h : Nat) : ∃ m, s.zeroHkey h = { s with dgt := { s.dgt with hkeys := m } } ∧ ∀ i, i < 16 → m.get (16 * h + i) = 0 := by
  unfold State.zeroHkey
  exact ⟨_, rfl, fun i hi => zeroed_get _ _ _ hi⟩

theorem setLatch_ans (s : State) (err : Nat) (d : BitVec 64) (v : Option (Nat × BitVec 32)) :
    ((((s.answer a err d).setLatch a v)).lanes.get a.lane).ans = ⟨err, d⟩ :=
  (congrArg Lane.ans (get_modify_self ..)).trans (answer_ans ..)

/-- What stands after HMAC slot `h` changed, its key words zeroised and the access answered. -/
theorem hslot_effect (f : HSlot → HSlot) {u : State} (hu : u = ((s.onHslot h f).zeroHkey h).answer a 0 0) :
    u.dgt.hslots.get h = f (s.dgt.hslots.get h) ∧ (∀ i, i < 16 → u.dgt.hkeys.get (16 * h + i) = 0) ∧ u.dgt.ctx = s.dgt.ctx ∧ u.keys = s.keys := by
  obtain ⟨m, hm, hzero⟩ := zeroHkey_frame (s.onHslot h f) h
  rw [hu, hm]
  exact ⟨get_modify_self .., hzero, rfl, rfl⟩

/-! Saved states (R392). -/

theorem stateRead_latches (hlow : 32 ≤ c) (hhigh : c < 64) (hopen : s.windowOpen a = true) (hstate : 2 ≤ (s.ctx c).state)
    (hown : (s.ctx c).owner = privCh a) (hbound : (s.ctx c).atBoundary = true) :
    let l := (s.ctx c).saved (s.dgt.hslots.get (s.ctx c).mSlot)
    exec (.dgtStateRead a c) s = .next (((s.onCtx c fun t => { t with latch := l }).answer a 0 (l.getD 0 0)).setLatch a
      (some (ctxAddr c + 0x180, BitVec.ofNat 32 (fld (l.getD 0 0) 63 32)))) := by
  intro l
  obtain ⟨hreset, -, hdom⟩ := windowOpen_iff.mp hopen
  have haddr : ctxAddr c + 0x180 = 0x348000 + ((c - 32) * 0x400 + 0x180) := by
    unfold ctxAddr
    omega
  obtain ⟨k, hk⟩ : ∃ k, k = ctxAddr c + 0x180 := ⟨_, rfl⟩
  have hlo : 0x348000 ≤ k := by omega
  have hhi : k < 0x350000 := by omega
  have hctx : 32 + (k - 0x348000) / 0x400 = c := by omega
  have hoff : k % 0x400 = 0x180 := by omega
  have hword : k / 8 * 8 = k := by omega
  have hread : s.readState c 0 = (l.getD 0 0, s.onCtx c fun t => { t with latch := l }) := by
    unfold State.readState
    dsimp only
    rw [if_neg (by simp [hbound]; omega), if_pos rfl, if_neg (show ¬(s.ctx c).state = 1 by omega)]
  have hreg : s.reg64 k = some (l.getD 0 0).toNat := by
    unfold State.reg64 State.dgt64
    dsimp only
    rw [if_neg (by omega), if_neg (by omega), if_neg (by omega), if_pos (by omega), if_neg (by omega), if_pos ⟨hlo, hhi⟩, hctx, hoff, hread]
    rfl
  have hval : s.word k = l.getD 0 0 := by
    unfold State.word
    rw [hreg]
    simp
  have heff : s.readEffects k = s.onCtx c fun t => { t with latch := l } := by
    unfold State.readEffects
    rw [if_neg (by omega), if_pos ⟨hlo, hhi, hoff⟩, hctx, hread]
  refine congrArg Host.Outcome.next ?_
  rw [if_pos ⟨hlow, hhigh⟩, ← hk]
  unfold State.readReg State.readDigest State.readWord inWindowRange
  dsimp only
  rw [hreset, if_neg (by decide), if_neg (by omega), if_neg (by omega), if_neg (by omega), if_neg (by omega),
    if_pos (decide_eq_true (.inr ⟨hlo, hhi⟩)), hdom, if_neg (by decide), hctx, if_neg (by simp [hown]), hword, hreg, if_neg (by simp), if_pos (by omega), heff, hval]

end

/-- Settles O30: a message write is one put into the context's buffer, whose whole blocks are compressed as those of the whole message. -/
theorem digestContextsWork : Obligations.DigestContextsWork := by
  unfold Obligations.DigestContextsWork
  constructor
  · intro s a c w m hlow hhigh hup
    constructor
    · intro i d hi hopen howner hlen htakes
      obtain ⟨rfl, rfl⟩ | ⟨b, hb, hb', rfl, rfl⟩ | ⟨rfl, rfl⟩ := hi
      · have hbytes : writtenBytes 0 w = leBytes 8 w.toNat := List.take_of_length_le (leBytes_length ..).le
        have h := message_takes (off := 0x40) (op := 0) (w := w) (i := .dgtData a c w true) rfl (by decide) hlow hhigh hup hopen howner
          (by rw [hbytes]; exact hlen) htakes
        rw [hbytes] at h
        rw [if_pos rfl]
        exact h
      · have hbytes : writtenBytes b w = (leBytes 8 w.toNat).take b := by
          unfold writtenBytes
          rw [if_neg (by omega), if_neg (by omega)]
        have hexec : exec (.dgtLast a c b w true) s = .next (s.message a c (0x40 + 8 * b) b w true) :=
          congrArg Host.Outcome.next (if_neg (by omega))
        have h := message_takes hexec (by omega) hlow hhigh hup hopen howner (by rw [hbytes]; exact hlen) htakes
        rw [hbytes, if_neg (show b ≠ 0 by omega)] at h
        rw [if_neg nofun]
        exact h
      · have h := message_takes (off := 0x88) (op := 9) (w := 0) (i := .dgtFinish a c true) rfl (by decide) hlow hhigh hup hopen howner hlen htakes
        rw [if_neg nofun]
        exact h
    · intro hdom hstate habs
      exact ⟨_, messageDone_ends hup hdom hstate habs, ctx_onCtx _, fun _ hk => ctx_onCtx_ne _ hk, rfl⟩
  · intro s a c h v hlow hhigh hh hopen t ctxIs
    have hsets {i : Instr} {x : State} {n : DgtCtx} (hexec : exec i s = .next (x.answer a 0 0)) (l : SMap Lane) {f : DgtCtx → DgtCtx}
        (hx : x = ({ s with lanes := l } : State).onCtx c f) (hn : f (s.ctx c) = n) : ctxIs i n := by
      have hset := ctxSet_onCtx (s := s) (a := a) (c := c) l f
      rw [← hx, hn] at hset
      exact ⟨_, hexec, hset⟩
    have hctl {w : BitVec 32} (hown : t.state = 0 ∨ t.owner = privCh a) : s.ctlWrite a c w = (s.ctxCtl a c w).answer a 0 0 :=
      ctlWrite_open hlow hhigh hopen hown
    refine ⟨fun hstate hbits halg => ?_, fun hstate hown hbits halg => ?_, fun hstate hown hmgmt hbits halg => ?_,
      ?_, ?_, ?_, ?_⟩
    · exact hsets (congrArg Host.Outcome.next (hctl (.inl hstate))) s.lanes (claim_sets hstate ⟨hbits, halg⟩) rfl
    · exact hsets (congrArg Host.Outcome.next (hctl (.inr hown))) (s.dropStateHalf c).lanes (release_sets hstate ⟨hbits, halg⟩) rfl
    · exact hsets (congrArg Host.Outcome.next (hctl (.inr hown))) (s.dropStateHalf c).lanes (abort_sets hstate hmgmt ⟨hbits, halg⟩)
        (if_neg (by have : (s.ctx c).state = t.state := rfl; omega))
    · intro hstate hown hbits halg hfits l n alg
      have hrestore : s.restoreCtx c = s.onCtx c fun t => { t with
          state := if n = 0 then 1 else 2, alg := alg, hmac := bit (l.getD 0 0) 2, hslot := fld (l.getD 0 0) 12 8, mAlg := alg
          mHmac := bit (l.getD 0 0) 2, mSlot := fld (l.getD 0 0) 12 8, mGen := fld (l.getD 0 0) 23 16, count := n
          chain := wordsChain alg ((l.drop 2).take 8), buf := [], written := [] } := 
        if_neg (by rw [show s.stateFits (s.ctx c).owner (s.ctx c).written = true from hfits]; decide)
      exact hsets (congrArg Host.Outcome.next (hctl (.inr hown))) s.lanes ((restore_sets hstate ⟨hbits, halg⟩).trans hrestore) rfl
    · intro hstate hown hbound l
      exact ⟨_, stateRead_latches hlow hhigh hopen hstate hown hbound, ctx_onCtx _, setLatch_ans .., rfl⟩
    · intro hown hbusy hbits hclear hderive halg hlen hfits key n
      exact ⟨_, hslotLoad_loads hh hopen hown hbusy hbits hclear hderive halg hlen hfits, hslot_effect _ rfl⟩
    · intro hown hbusy
      obtain ⟨hslot, hkeys, hctx, hkept⟩ := hslot_effect (s := s) (a := a) (h := h) HSlot.clear rfl
      exact ⟨_, hslotClear_clears hh hopen hown hbusy, congrArg HSlot.loaded hslot, (congrArg HSlot.gen hslot).trans rfl, hkeys, hctx, hkept⟩

end Sys2Proof.Proofs
end

section
/-! PROOFS. The key port and the entropy port (R60, R61, R400, R401, R403). -/

namespace Sys2Proof.Proofs
open Sys2Proof Sys2Proof.Machine Sys2Proof.Laws

/-- A partner's violation moves the log, the notices on the chain and the port registers, and sets cause 6 (R67, R476). -/
theorem logPartner_frame (s : State) (c : BitVec 16) (k i : Nat) (ch : Option Nat) (d : List Byte) : ∃ tu po su cn cw, s.logPartner c k i ch d =
    { s with timeUsed := tu, port := po, sump := su, chain := cn, chainW := cw } ∧ bit po.irqStatus 6 = true := by
  obtain ⟨tu, po, su, cn, cw, h⟩ := log_frame_ex (s := s) c (severityOf c) k i ch d
  refine ⟨tu, { po with irqStatus := setBit po.irqStatus 6 true }, su, cn, cw, ?_, bit_setBit _ (by decide) _⟩
  unfold State.logPartner State.logStatus
  rw [h]
  rfl

section
variable {s : State} {slot : Nat}

theorem keyPortOpen_iff : s.keyPortOpen = true ↔ s.boot.resetHeld ≠ 2 ∧ s.portRefuses = false := by
  simp [State.keyPortOpen]

/-- The bits of a 256-bit key with its word `w` replaced. -/
theorem getLsbD_keyWord (key : BitVec 256) (data : BitVec 64) {w i : Nat} (hi : i < 256) :
    ((key &&& ~~~(0xFFFFFFFFFFFFFFFF#256 <<< (64 * w))) ||| ((data.zeroExtend 256) <<< (64 * w))).getLsbD i =
      if 64 * w ≤ i ∧ i < 64 * w + 64 then data.getLsbD (i - 64 * w) else key.getLsbD i := by
  have hones (j : Nat) : (0xFFFFFFFFFFFFFFFF#256).getLsbD j = decide (j < 64) := by
    rw [show (0xFFFFFFFFFFFFFFFF#256) = (BitVec.allOnes 64).zeroExtend 256 by decide, BitVec.getLsbD_setWidth, BitVec.getLsbD_allOnes]
    by_cases hj : j < 64
    · simp [hj, show j < 256 by omega]
    · simp [hj]
  rw [BitVec.getLsbD_or, BitVec.getLsbD_and, BitVec.getLsbD_not, BitVec.getLsbD_shiftLeft, BitVec.getLsbD_shiftLeft, hones, BitVec.getLsbD_setWidth]
  by_cases hlow : 64 * w ≤ i
  · by_cases hhigh : i < 64 * w + 64
    · rw [if_pos ⟨hlow, hhigh⟩]
      simp [hi, show ¬i < 64 * w by omega, show i - 64 * w < 64 by omega, show i - 64 * w < 256 by omega]
    · rw [if_neg (by omega)]
      simp [hi, show ¬i < 64 * w by omega, show ¬i - 64 * w < 64 by omega, BitVec.getLsbD_of_ge data (i - 64 * w) (by omega)]
  · rw [if_neg (by omega)]
    simp [hi, show i < 64 * w by omega]

/-- A word with odd parity goes into its place (R400). -/
theorem keyLoadWord_loads {w : Nat} {data : BitVec 64} {par : BitVec 8} (hslot : slot < 64) (hw : w < 4) (hopen : s.keyPortOpen = true)
    (hparity : oddParity data par = true) (hstate : (s.keys.get slot).state ≠ 2) :
    exec (.keyLoadWord slot w data par) s = .next { s with
      keys := s.keys.modify slot fun t => { t with
        state := 1, words := setBit t.words w true
        key := (t.key &&& ~~~(0xFFFFFFFFFFFFFFFF#256 <<< (64 * w))) ||| ((data.zeroExtend 256) <<< (64 * w)) }
      dgt := { s.dgt with lastKeyErr := 0 } } := by
  obtain ⟨hreset, hrefuse⟩ := keyPortOpen_iff.mp hopen
  refine congrArg Host.Outcome.next ?_
  rw [if_neg hreset, Nat.mod_eq_of_lt hslot, Nat.mod_eq_of_lt hw, hrefuse, if_neg Bool.false_ne_true, hparity, if_neg (by decide), if_neg hstate]
  rfl

theorem keyCommit_commits (hslot : slot < 64) (hopen : s.keyPortOpen = true) (hstate : (s.keys.get slot).state = 1) (hwords : (s.keys.get slot).words = 15)
    (hstop : s.drbg.stop = false) :
    exec (.keyCommit slot) s = .next ((s.commitKey slot 1 (s.keys.get slot).key).keyErr slot 0) := by
  obtain ⟨hreset, hrefuse⟩ := keyPortOpen_iff.mp hopen
  refine congrArg Host.Outcome.next ?_
  rw [if_neg hreset, Nat.mod_eq_of_lt hslot, hrefuse, if_neg Bool.false_ne_true, if_neg (by simp [hstate, hwords]), hstop, if_neg Bool.false_ne_true]

theorem keyZeroise_clears (hslot : slot < 64) (hopen : s.keyPortOpen = true) (hrun : s.cap.run = none) (hwaits : s.cap.waits = []) :
    exec (.keyZeroise slot) s = .next { s with keys := s.keys.set slot .zero, dgt := { s.dgt with lastKeyErr := 0 } } := by
  obtain ⟨hreset, hrefuse⟩ := keyPortOpen_iff.mp hopen
  refine congrArg Host.Outcome.next ?_
  rw [if_neg hreset, Nat.mod_eq_of_lt hslot, hrefuse, if_neg Bool.false_ne_true, zeroKey_idle slot hrun hwaits]
  rfl

theorem keyLoadingTimeout_clears (hstate : (s.keys.get slot).state = 1) :
    ∃ t, exec (.keyLoadingTimeout slot) s = .next t ∧ t.keys = s.keys.set slot .zero ∧ t.dgt = s.dgt ∧ t.cmds = s.cmds := by
  obtain ⟨tu, po, su, cn, cw, h⟩ := log_frame_ex (s := s.onKey slot fun _ => KeySlot.zero) sTimeout (severityOf sTimeout) 10 slot none []
  exact ⟨_, congrArg Host.Outcome.next ((if_pos hstate).trans h), rfl, rfl, rfl⟩

/-! The entropy port (R61). -/

theorem entropyWord_counts {word : BitVec 32} (hreset : s.boot.resetHeld ≠ 2) (hneeds : s.drbg.live = false ∨ s.drbg.due = true) :
    exec (.entropyWord word false) s = .next { s with drbg :=
      if s.drbg.words + 1 < (if s.drbg.live then 16 else 32) then { s.drbg with entFail := false, words := s.drbg.words + 1 }
      else { s.drbg with entFail := false, live := true, words := 0, due := false, stop := false, generates := 0 } } := by
  have hdue : ¬(s.drbg.live && !s.drbg.due) = true := by
    obtain h | h := hneeds <;> simp [h]
  refine congrArg Host.Outcome.next ?_
  rw [if_neg hreset]
  refine (if_neg hdue).trans ((if_neg Bool.false_ne_true).trans ?_)
  by_cases hfew : s.drbg.words + 1 < if s.drbg.live then 16 else 32
  · exact (if_pos hfew).trans (by rw [if_pos hfew])
  · exact (if_neg hfew).trans (by rw [if_neg hfew])

theorem drbgReseedTimeout_stops (hdue : s.drbg.due = true) :
    ∃ t, exec .drbgReseedTimeout s = .next t ∧ t.drbg = { s.drbg with stop := true, fails := satAdd 16 s.drbg.fails 1 } ∧
      bit t.port.irqStatus 6 = true ∧ t.keys = s.keys := by
  obtain ⟨tu, po, su, cn, cw, h, hbit⟩ := logPartner_frame ({ s with drbg := { s.drbg with stop := true, fails := satAdd 16 s.drbg.fails 1 } })
    sTimeout 10 0 none []
  exact ⟨_, congrArg Host.Outcome.next ((if_pos hdue).trans h), rfl, hbit, rfl⟩

end

/-- Settles O31: the key port changes one slot, the entropy port the generator alone. -/
theorem keyPortLoadsKeys : Obligations.KeyPortLoadsKeys := by
  unfold Obligations.KeyPortLoadsKeys
  intro s slot w data par word hslot hw k
  refine ⟨fun hopen hparity hstate => ?_, fun hopen hstate hwords hstop => ?_, keyZeroise_clears hslot, keyLoadingTimeout_clears, entropyWord_counts,
    fun hlive hdue => congrArg Host.Outcome.next (if_pos (by simp [hlive, hdue])), drbgReseedTimeout_stops⟩
  · refine ⟨_, keyLoadWord_loads hslot hw hopen hparity hstate, congrArg KeySlot.state (get_modify_self ..), congrArg KeySlot.words (get_modify_self ..),
      fun i hi => ?_, fun j hj => get_modify_ne _ _ hj, rfl⟩
    rw [← getLsbD_keyWord _ _ hi]
    exact congrArg (fun k : KeySlot => k.key.getLsbD i) (get_modify_self ..)
  · exact ⟨_, keyCommit_commits hslot hopen hstate hwords hstop, rfl, rfl, rfl, rfl⟩

end Sys2Proof.Proofs
end

section
/-! PROOFS. Reads and writes of the control aperture (R54, R55, R160, R511-R514). -/

namespace Sys2Proof.Proofs
open Sys2Proof Sys2Proof.Machine Sys2Proof.Laws

section
variable {s : State} {a : Access} {addr v : Nat}

/-! Reads (R511, R512). -/

/-- A global register below the debug windows is read as it stands. -/
theorem readReg_global (hreset : s.boot.resetHeld ≠ 2) (halign : addr % 4 = 0) (hlow : addr < 0xB000) : s.readReg a addr = s.readWord a addr := by
  have hwindow : inWindowRange addr = false := decide_eq_false (by omega)
  unfold State.readReg
  rw [if_neg hreset, if_neg (by omega), if_neg (by omega), if_neg (by omega), if_neg (by omega), hwindow, if_neg Bool.false_ne_true]

theorem readEffects_global (hlow : addr < 0xB000) : s.readEffects addr = s.clearGlobal addr := by
  unfold State.readEffects
  rw [if_neg (by omega), if_neg (by omega)]

/-- What a read clears is in the units and the counters. -/
theorem clearGlobal_frame (s : State) (w : Nat) :
    (s.clearGlobal w).chambers = s.chambers ∧ (s.clearGlobal w).mem = s.mem ∧ (s.clearGlobal w).cmds = s.cmds ∧ (s.clearGlobal w).lanes = s.lanes := by
  unfold State.clearGlobal
  split <;> exact ⟨rfl, rfl, rfl, rfl⟩

theorem word_of_reg64 (h : s.reg64 addr = some v) : s.word addr = BitVec.ofNat 64 v := by
  unfold State.word
  rw [h]

theorem word_of_pair {x y : Nat} (h : s.reg64 addr = none) (hx : s.reg32 addr = some x) (hy : s.reg32 (addr + 4) = some y) :
    s.word addr = BitVec.ofNat 64 (x + y * 2 ^ 32) := by
  unfold State.word
  rw [h, hx, hy]
  rfl

/-- A read of the lower half of an 8-byte register. -/
theorem readWord_lower (halign : addr % 8 = 0) (h : s.reg64 addr = some v) :
    s.readWord a addr = ((s.readEffects addr).answer a 0 (BitVec.ofNat 64 v)).setLatch a (some (addr, BitVec.ofNat 32 (v / 2 ^ 32))) := by
  have hword : addr / 8 * 8 = addr := by omega
  have hhigh : BitVec.ofNat 32 (fld (BitVec.ofNat 64 v) 63 32) = BitVec.ofNat 32 (v / 2 ^ 32) := by
    refine BitVec.eq_of_toNat_eq ?_
    simp only [fld, BitVec.toNat_ofNat, Nat.shiftRight_eq_div_pow]
    omega
  unfold State.readWord
  dsimp only
  rw [hword, h, if_neg (by simp), if_pos halign, word_of_reg64 h, hhigh]

/-- A read of the upper half after it. -/
theorem readWord_upper {l : BitVec 32} (halign : addr % 8 = 0) (h : s.reg64 addr = some v) (hlatch : (s.lanes.get a.lane).latch = some (addr, l)) :
    s.readWord a (addr + 4) = (s.answer a 0 (BitVec.ofNat 64 (v % 2 ^ 32 + l.toNat * 2 ^ 32))).setLatch a none := by
  have hword : (addr + 4) / 8 * 8 = addr := by omega
  have hlow : fld (BitVec.ofNat 64 v) 31 0 = v % 2 ^ 32 := by
    simp only [fld, BitVec.toNat_ofNat, Nat.shiftRight_zero]
    omega
  unfold State.readWord
  dsimp only
  rw [hword, h, if_neg (by simp), if_neg (by omega), word_of_reg64 h, hlow, hlatch]
  dsimp only
  rw [if_pos rfl]

/-- A read of two 4-byte registers in one word. -/
theorem readWord_pair (halign : addr % 8 = 0) (h : s.reg64 addr = none) :
    s.readWord a addr = ((s.readEffects addr).answer a 0 (s.word addr)).setLatch a none := by
  have hword : addr / 8 * 8 = addr := by omega
  unfold State.readWord
  dsimp only
  rw [hword, h, if_pos Option.isNone_none]

theorem lowerHalf_read (hreset : s.boot.resetHeld ≠ 2) (hlow : addr < 0xB000) (halign : addr % 8 = 0) (h : s.reg64 addr = some v) :
    ∃ t, exec (.halfWordRead a addr) s = .next t ∧ (t.lanes.get a.lane).ans = ⟨0, BitVec.ofNat 64 v⟩ ∧
      (t.lanes.get a.lane).latch = some (addr, BitVec.ofNat 32 (v / 2 ^ 32)) ∧ t.chambers = s.chambers ∧ t.mem = s.mem ∧ t.cmds = s.cmds := by
  obtain ⟨hchambers, hmem, hcmds, -⟩ := clearGlobal_frame s addr
  have hread := (readReg_global (a := a) hreset (by omega) hlow).trans (readWord_lower halign h)
  rw [readEffects_global hlow] at hread
  exact ⟨_, congrArg Host.Outcome.next hread, setLatch_ans .., congrArg Lane.latch (get_modify_self ..), hchambers, hmem, hcmds⟩

theorem upperHalf_read {l : BitVec 32} (hreset : s.boot.resetHeld ≠ 2) (hlow : addr < 0xB000) (halign : addr % 8 = 0) (h : s.reg64 addr = some v)
    (hlatch : (s.lanes.get a.lane).latch = some (addr, l)) :
    ∃ t, exec (.halfWordRead a (addr + 4)) s = .next t ∧ (t.lanes.get a.lane).ans = ⟨0, BitVec.ofNat 64 (v % 2 ^ 32 + l.toNat * 2 ^ 32)⟩ ∧
      (t.lanes.get a.lane).latch = none ∧ t = { s with lanes := t.lanes } :=
  ⟨_, congrArg Host.Outcome.next ((readReg_global hreset (by omega) (by omega)).trans (readWord_upper halign h hlatch)), setLatch_ans ..,
    congrArg Lane.latch (get_modify_self ..), rfl⟩

/-- A read of the wake counters (R511). -/
theorem wakeCounters_read (hreset : s.boot.resetHeld ≠ 2) : ∃ t, exec (.readClearAccess a 0xA030) s = .next t ∧
    (t.lanes.get a.lane).ans = ⟨0, BitVec.ofNat 64 (s.pwr.wakes + (s.pwr.warnLongest + s.pwr.warnEvents * 2 ^ 16) * 2 ^ 32)⟩ ∧
    t = { s with pwr := { s.pwr with wakes := 0, warnEvents := 0, warnLongest := 0 }, lanes := t.lanes } := by
  have hnone : s.reg64 0xA030 = none := rfl
  have hword : s.word 0xA030 = BitVec.ofNat 64 (s.pwr.wakes + (s.pwr.warnLongest + s.pwr.warnEvents * 2 ^ 16) * 2 ^ 32) := word_of_pair hnone rfl rfl
  have hread := (readReg_global (a := a) hreset (show 0xA030 % 4 = 0 by decide) (by decide)).trans (readWord_pair (by decide) hnone)
  rw [readEffects_global (by decide), hword] at hread
  exact ⟨_, congrArg Host.Outcome.next hread, setLatch_ans .., rfl⟩

/-- A read of CHM_RSV_WM (R160). -/
theorem reserve_read {ch : Nat} (hreset : s.boot.resetHeld ≠ 2) (hready : s.boot.stage = .ready) (hch : ch < 32) (hown : privCh a = ch) :
    let r := (s.un ch).cap
    ∃ t, exec (.rsvWmRead a ch) s = .next t ∧ (t.lanes.get a.lane).ans = ⟨0, BitVec.ofNat 64
        (b2n r.warnCross + b2n r.stallCross * 2 + r.warnCount * 2 ^ 8 + r.stallCount * 2 ^ 16 + r.peak * 2 ^ 32)⟩ ∧
      (t.un ch).cap = { r with stallCount := 0, warnCount := 0, stallCross := false, warnCross := false, peak := r.level } ∧
      t = { s with units := t.units, lanes := t.lanes } := by
  intro r
  obtain ⟨k, hk⟩ : ∃ k, k = pageAddr ch 0x610 := ⟨_, rfl⟩
  have hval : k = 0x100000 + ch * 0x10000 + 0x610 := by rw [hk, pageAddr]
  have hpage : (k - 0x100000) / 0x10000 = ch := by omega
  have hoff : k % 0x10000 = 0x610 := by omega
  have hfour : k + 4 - 0x100000 = 0x614 + 0x10000 * ch := by omega
  have hpage4 : (k + 4 - 0x100000) / 0x10000 = ch := by rw [hfour, Nat.add_mul_div_left _ _ (by decide), Nat.div_eq_of_lt (by decide), Nat.zero_add]
  have hoff4 : (k + 4) % 0x10000 = 0x614 := by omega
  have hnone : s.reg64 k = none := by
    unfold State.reg64
    rw [if_neg (by omega), if_pos (by omega), hpage, hoff]
    rfl
  have hlow : s.reg32 k = some (b2n r.warnCross + b2n r.stallCross * 2 + r.warnCount * 2 ^ 8 + r.stallCount * 2 ^ 16) := by
    unfold State.reg32
    rw [if_neg (by omega), if_pos (by omega), hpage, hoff]
    rfl
  have hhigh : s.reg32 (k + 4) = some r.peak := by
    unfold State.reg32
    rw [if_neg (by omega), if_pos (by omega), hpage4, hoff4]
    rfl
  have heff : s.readEffects k = s.onCapRegs ch fun r => { r with
      stallCount := 0, warnCount := 0, stallCross := false, warnCross := false, peak := r.level } := by
    unfold State.readEffects
    rw [if_pos (by omega), hpage, hoff]
    rfl
  have hread : s.readReg a k = ((s.readEffects k).answer a 0 (s.word k)).setLatch a none := by
    rw [← readWord_pair (by omega) hnone]
    unfold State.readReg
    rw [if_neg hreset, if_neg (by omega), if_pos (by omega), hpage, if_neg (by simp [ownsPage, hown]), if_neg (not_not_intro hready)]
  have hexec : exec (.rsvWmRead a ch) s = .next (s.readReg a k) := by
    rw [hk]
    exact congrArg Host.Outcome.next (if_pos hch)
  rw [hread, heff, word_of_pair hnone hlow hhigh] at hexec
  exact ⟨_, hexec, setLatch_ans .., congrArg ChUnit.cap (State.un_onUn ..), rfl⟩

/-- A misaligned read, or one beyond the aperture (R54). -/
theorem badAddress_read (hreset : s.boot.resetHeld ≠ 2) (hbad : addr % 4 ≠ 0 ∨ 0x800000 ≤ addr) : ∃ t, exec (.readClearAccess a addr) s = .next t ∧
    (t.lanes.get a.lane).ans = ⟨1, 0⟩ ∧ bit t.port.irqStatus 6 = true ∧ t.chambers = s.chambers ∧ t.pwr = s.pwr := by
  obtain ⟨tu, po, su, cn, cw, h, hbit⟩ := logPartner_frame s sMalformed 9 a.lane (some (privCh a)) (leBytes 2 a.src.toNat ++ leBytes 1 a.priv.toNat)
  have hrefuse : s.refuse a 1 = (s.logPartner sMalformed 9 a.lane (some (privCh a)) (leBytes 2 a.src.toNat ++ leBytes 1 a.priv.toNat)).answer a 1 0 := rfl
  have hread : s.readReg a addr = (s.refuse a 1).setLatch a none := by
    unfold State.readReg
    rw [if_neg hreset, if_pos hbad]
  rw [hrefuse, h] at hread
  exact ⟨_, congrArg Host.Outcome.next hread, setLatch_ans .., hbit, rfl, rfl⟩

/-! Writes (R55, R512, R514). -/

variable {e : Ext} {img : Image}

theorem writeErr_global (hlow : addr < 0x10000) (v : BitVec 32) : s.writeErr a addr v = (if mgmt a then 0 else 3, none) := by
  unfold State.writeErr
  rw [if_pos hlow]

/-- A write of a global register goes through the shared gate. -/
theorem writeGate_global (hlow : addr < 0x10000) (v : BitVec 32) (f : State → State) :
    s.writeGate a addr v f = s.fabWrite a (if mgmt a then 0 else 3) false addr fun s => if s.boot.resetHeld = 1 ∧ addr < 0x10000 ∧ !keptReg addr then s else f s := by
  have hwindow : inWindowRange addr = false := decide_eq_false (by omega)
  have hpage : decide (0x100000 ≤ addr ∧ addr < 0x300000) = false := decide_eq_false (by omega)
  unfold State.writeGate
  dsimp only
  rw [writeErr_global hlow, hwindow, hpage]
  rfl

/-- A management write of a global register takes its effect. -/
theorem writeGate_mgmt (hlow : addr < 0x10000) (v : BitVec 32) (f : State → State) (hreset : s.boot.resetHeld = 0) (hfree : s.laneFree a = true)
    (hmgmt : mgmt a = true) : s.writeGate a addr v f = (f s).answer a 0 0 := by
  rw [writeGate_global hlow v f, if_pos hmgmt, fabWrite_ok (page := false) hfree nofun, if_neg (by simp [hreset])]

theorem writeGate_refused (hlow : addr < 0x10000) (v : BitVec 32) (f : State → State) (hfree : s.laneFree a = true)
    (hmgmt : mgmt a = false) : s.writeGate a addr v f = s.refuse a 3 := by
  rw [writeGate_global hlow v f, hmgmt, if_neg Bool.false_ne_true, fabWrite_refused hfree (by decide)]

/-- A write of a 4-byte global register. -/
theorem registerWrite_narrow (hreset : s.boot.resetHeld = 0) (halign : addr % 4 = 0) (hlow : addr < 0x10000) (hnone : s.reg64 (addr / 8 * 8) = none)
    (v : BitVec 64) : exec (.registerWrite a addr false v e img) s =
      .next (s.writeGate a addr (BitVec.ofNat 32 (fld v 31 0)) fun s => s.put32 a addr (BitVec.ofNat 32 (fld v 31 0)) e img) := by
  refine congrArg Host.Outcome.next ?_
  unfold State.writeReg State.writeHalf
  dsimp only
  rw [if_neg (by rw [hreset]; decide), if_neg (by simp; omega), if_neg Bool.false_ne_true, hnone, if_pos Option.isNone_none]

theorem toNat_low (v : BitVec 64) : (BitVec.ofNat 32 (fld v 31 0)).toNat = v.toNat % 2 ^ 32 := by
  simp [fld]

theorem toNat_fld (v : BitVec 64) (hi lo : Nat) (h : hi + 1 - lo ≤ 32) : (BitVec.ofNat 32 (fld v hi lo)).toNat = fld v hi lo := by
  rw [BitVec.toNat_ofNat]
  refine Nat.mod_eq_of_lt (Nat.lt_of_lt_of_le (Nat.mod_lt _ (Nat.two_pow_pos _)) (Nat.pow_le_pow_right (by decide) h))

/-- What a write of the interrupt masks does. -/
theorem put32_mask (v : BitVec 32) : s.put32 a 0x20 v e img =
    s.legal (decide (v.toNat < 2 ^ 8)) 0x20 (·.onPort fun p => { p with irqMask := BitVec.ofNat 8 v.toNat }) := rfl

theorem put32_route (v : BitVec 32) : s.put32 a 0x18 v e img =
    s.legal (decide (v.toNat < 2 ^ 24)) 0x18 (·.onPort fun p => { p with irqRoute := BitVec.ofNat 24 v.toNat }) := rfl

theorem put32_status (v : BitVec 32) : s.put32 a 0x1C v e img =
    s.legal (decide (v.toNat < 2 ^ 8)) 0x1C (·.onPort fun p => { p with irqStatus := p.irqStatus &&& ~~~BitVec.ofNat 8 v.toNat }) := rfl

theorem mask_written {v : BitVec 64} (hreset : s.boot.resetHeld = 0) (hfree : s.laneFree a = true) (hmgmt : mgmt a = true) (hv : v.toNat < 2 ^ 8) :
    exec (.registerWrite a 0x20 false v e img) s = .next (({ s with port := { s.port with irqMask := BitVec.ofNat 8 v.toNat } } : State).answer a 0 0) := by
  have hn : (BitVec.ofNat 32 (fld v 31 0)).toNat = v.toNat := by
    rw [toNat_low]
    omega
  rw [registerWrite_narrow hreset (by decide) (by decide) rfl, writeGate_mgmt (by decide) _ _ hreset hfree hmgmt, put32_mask, hn, decide_eq_true hv]
  rfl

/-- A write that is ignored leaves all but the log and its causes. -/
theorem ignoredWrite_frame (s : State) (addr : Nat) : ∃ tu st su, s.ignoredWrite addr =
    { s with timeUsed := tu, port := { s.port with irqStatus := st }, sump := su } := by
  unfold State.ignoredWrite
  obtain ⟨tu, po, su, h⟩ := log_frame_quiet s eIgnoredWrite (v := 0) (by decide) 0 0
    (if 0x100000 ≤ addr ∧ addr < 0x300000 then some ((addr - 0x100000) / 0x10000) else none) (leBytes 4 addr)
  obtain ⟨st, hst⟩ := log_port s eIgnoredWrite 0 0 0 (if 0x100000 ≤ addr ∧ addr < 0x300000 then some ((addr - 0x100000) / 0x10000) else none) (leBytes 4 addr)
  rw [h] at hst ⊢
  have hpo : po = { s.port with irqStatus := st } := hst
  rw [hpo]
  exact ⟨tu, st, su, rfl⟩

theorem mask_ignored {v : BitVec 64} (hreset : s.boot.resetHeld = 0) (hfree : s.laneFree a = true) (hmgmt : mgmt a = true) (hv : 2 ^ 8 ≤ v.toNat)
    (hv' : v.toNat < 2 ^ 32) : ∃ t, exec (.registerWrite a 0x20 false v e img) s = .next t ∧ t.port.irqMask = s.port.irqMask ∧
      (t.lanes.get a.lane).ans = ⟨0, 0⟩ ∧ t.chambers = s.chambers ∧ t.pwr = s.pwr := by
  have hn : (BitVec.ofNat 32 (fld v 31 0)).toNat = v.toNat := by
    rw [toNat_low]
    omega
  obtain ⟨tu, st, su, hignored⟩ := ignoredWrite_frame s 0x20
  have hput : s.put32 a 0x20 (BitVec.ofNat 32 (fld v 31 0)) e img = s.ignoredWrite 0x20 := by
    rw [put32_mask, hn, decide_eq_false (by omega)]
    rfl
  have hexec := registerWrite_narrow (a := a) (e := e) (img := img) hreset (show 0x20 % 4 = 0 by decide) (by decide) rfl v
  rw [writeGate_mgmt (by decide) _ _ hreset hfree hmgmt, hput, hignored] at hexec
  exact ⟨_, hexec, rfl, answer_ans .., rfl, rfl⟩

/-- A refused access moves the log, the notices, the causes and the lane alone. -/
theorem refuse_frame (s : State) (a : Access) (err : Nat) : ∃ tu po su cn cw l, s.refuse a err =
    { s with timeUsed := tu, port := po, sump := su, chain := cn, chainW := cw, lanes := l } ∧ bit po.irqStatus 6 = true ∧
      po.irqMask = s.port.irqMask ∧ (l.get a.lane).ans = ⟨err, 0⟩ := by
  obtain ⟨tu, po, su, cn, cw, h, hbit⟩ := logPartner_frame s (if err = 1 then sMalformed else sForbidden) 9 a.lane (some (privCh a))
    (leBytes 2 a.src.toNat ++ leBytes 1 a.priv.toNat)
  have hmask : po.irqMask = s.port.irqMask := by
    obtain ⟨st, hst⟩ := log_port s (if err = 1 then sMalformed else sForbidden) (severityOf (if err = 1 then sMalformed else sForbidden)) 9 a.lane
      (some (privCh a)) (leBytes 2 a.src.toNat ++ leBytes 1 a.priv.toNat)
    have hpo := congrArg State.port h
    have hcause : (s.logPartner (if err = 1 then sMalformed else sForbidden) 9 a.lane (some (privCh a))
        (leBytes 2 a.src.toNat ++ leBytes 1 a.priv.toNat)).port.irqMask = s.port.irqMask := (congrArg PortRegs.irqMask hst).trans rfl
    rw [hpo] at hcause
    exact hcause
  unfold State.refuse
  rw [h]
  exact ⟨tu, po, su, cn, cw, _, rfl, hbit, hmask, answer_ans ..⟩

theorem mask_refused (v : BitVec 64) (hreset : s.boot.resetHeld = 0) (hfree : s.laneFree a = true) (hmgmt : mgmt a = false) :
    ∃ t, exec (.registerWrite a 0x20 false v e img) s = .next t ∧ t.port.irqMask = s.port.irqMask ∧ (t.lanes.get a.lane).ans = ⟨3, 0⟩ ∧
      bit t.port.irqStatus 6 = true := by
  obtain ⟨tu, po, su, cn, cw, l, h, hbit, hmask, hans⟩ := refuse_frame s a 3
  have hexec := registerWrite_narrow (a := a) (e := e) (img := img) hreset (show 0x20 % 4 = 0 by decide) (by decide) rfl v
  rw [writeGate_refused (by decide) _ _ hfree hmgmt, h] at hexec
  exact ⟨_, hexec, hmask, hans, hbit⟩

/-- An 8-byte write at a pair of 4-byte registers writes both. -/
theorem pair_written {v : BitVec 64} (hreset : s.boot.resetHeld = 0) (hfree : s.laneFree a = true) (hmgmt : mgmt a = true) (hlow : fld v 31 0 < 2 ^ 24)
    (hhigh : fld v 63 32 < 2 ^ 8) : exec (.registerWrite a 0x18 true v e img) s = .next (({ s with port := { s.port with
      irqRoute := BitVec.ofNat 24 (fld v 31 0)
      irqStatus := s.port.irqStatus &&& ~~~BitVec.ofNat 8 (fld v 63 32) } } : State).answer a 0 0) := by
  have hnone : s.reg64 0x18 = none := rfl
  have hlo : (BitVec.ofNat 32 (fld v 31 0)).toNat = fld v 31 0 := toNat_fld v 31 0 (by decide)
  have hhi : (BitVec.ofNat 32 (fld v 63 32)).toNat = fld v 63 32 := toNat_fld v 63 32 (by decide)
  refine congrArg Host.Outcome.next ?_
  unfold State.writeReg State.writeWide
  dsimp only
  rw [if_neg (by rw [hreset]; decide), if_neg (by decide), if_pos rfl, writeGate_mgmt (by decide) _ _ hreset hfree hmgmt, hnone, if_neg nofun,
    put32_route, hlo, decide_eq_true hlow, put32_status, hhi, decide_eq_true hhigh]
  rfl

theorem half_low (h : BitVec 32) : BitVec.ofNat 32 (fld (h.zeroExtend 64 : BitVec 64) 31 0) = h := by
  refine BitVec.eq_of_toNat_eq ?_
  rw [toNat_low, BitVec.toNat_setWidth]
  have := h.isLt
  omega

/-- The lower half of an 8-byte register waits on its lane. -/
theorem lowerHalf_waits (h : BitVec 32) (hreset : s.boot.resetHeld = 0) (hfree : s.laneFree a = true) (hmgmt : mgmt a = true) :
    ∃ t, exec (.halfWordWrite a 0xA008 h e img) s = .next t ∧ (t.lanes.get a.lane).held = some (0xA008, h) ∧ t.pwr = s.pwr ∧
      (t.lanes.get a.lane).ans = ⟨0, 0⟩ := by
  have hsome : s.reg64 (0xA008 / 8 * 8) = some s.pwr.parkBase.toNat := rfl
  have hexec : exec (.halfWordWrite a 0xA008 h e img) s =
      .next (({ s with lanes := s.lanes.modify a.lane fun l => { l with held := some (0xA008, h) } } : State).answer a 0 0) := by
    refine congrArg Host.Outcome.next ?_
    unfold State.writeReg State.writeHalf
    dsimp only
    rw [if_neg (by rw [hreset]; decide), if_neg (by decide), if_neg Bool.false_ne_true, half_low, hsome, if_neg nofun, if_neg (by decide), if_pos (by decide),
      writeGate_mgmt (by decide) _ _ hreset hfree hmgmt]
  refine ⟨_, hexec, ?_, rfl, answer_ans ..⟩
  exact (congrArg Lane.held (get_modify_self ..)).trans (congrArg Lane.held (get_modify_self ..))

/-- Its upper half writes both. -/
theorem upperHalf_writes {h lo : BitVec 32} (hreset : s.boot.resetHeld = 0) (hheld : (s.lanes.get a.lane).held = some (0xA008, lo)) (hmgmt : mgmt a = true)
    (hlegal : (h ++ lo : BitVec 64) &&& 0xFFF000000000FFFF = 0) :
    ∃ t, exec (.halfWordWrite a 0xA00C h e img) s = .next t ∧ t.pwr = { s.pwr with parkBase := h ++ lo } ∧ (t.lanes.get a.lane).held = none ∧
      (t.lanes.get a.lane).ans = ⟨0, 0⟩ ∧ t = { s with pwr := t.pwr, lanes := t.lanes } := by
  obtain ⟨u, hu⟩ : ∃ u : State, u = { s with lanes := s.lanes.modify a.lane fun l => { l with held := none } } := ⟨_, rfl⟩
  have hunheld : (u.lanes.get a.lane).held = none := by
    rw [hu]
    exact congrArg Lane.held (get_modify_self ..)
  have hureset : u.boot.resetHeld = 0 := by
    rw [hu]
    exact hreset
  have hfree : u.laneFree a = true := laneFree_iff.mpr ⟨by rw [hureset]; decide, hunheld⟩
  have hput : u.put64 a 0xA008 (h ++ lo) e = { u with pwr := { u.pwr with parkBase := h ++ lo } } :=
    if_pos (beq_iff_eq.mpr hlegal)
  have hglobal : inWindowRange 0xA00C = false := by decide
  have hsome : s.reg64 (0xA00C / 8 * 8) = some s.pwr.parkBase.toNat := rfl
  have hexec : exec (.halfWordWrite a 0xA00C h e img) s = .next (({ u with pwr := { u.pwr with parkBase := h ++ lo } } : State).answer a 0 0) := by
    refine congrArg Host.Outcome.next ?_
    unfold State.writeReg State.writeHalf
    dsimp only
    rw [if_neg (by rw [hreset]; decide), if_neg (by decide), if_neg Bool.false_ne_true, half_low, hsome, if_neg nofun, if_neg (by decide),
      if_neg (by decide), hheld]
    dsimp only
    rw [if_pos ⟨rfl, by rw [writeErr_global (by decide), if_pos hmgmt]⟩, if_neg (by rw [hglobal]; simp), ← hu, writeGate_mgmt (by decide) _ _ hureset hfree hmgmt, hput]
  rw [hu] at hexec
  refine ⟨_, hexec, rfl, ?_, answer_ans .., rfl⟩
  exact (congrArg Lane.held (get_modify_self ..)).trans (congrArg Lane.held (get_modify_self ..))

end

/-- Settles O32: a read of a word answers it and clears what it clears; a management write goes through the shared gate to its one register. -/
theorem registersAreReadAndWritten : Obligations.RegistersAreReadAndWritten := by
  unfold Obligations.RegistersAreReadAndWritten
  constructor
  · intro s a addr v hreset
    exact ⟨lowerHalf_read hreset, fun l hlow halign h hlatch => upperHalf_read hreset hlow halign h hlatch, wakeCounters_read hreset,
      fun ch hready hch hown => reserve_read hreset hready hch hown, badAddress_read hreset⟩
  · intro s a v h e img hreset
    exact ⟨mask_written hreset, mask_ignored hreset, mask_refused v hreset, pair_written hreset, lowerHalf_waits h hreset,
      fun lo hheld hmgmt hlegal => upperHalf_writes hreset hheld hmgmt hlegal⟩

end Sys2Proof.Proofs
end

section
/-! PROOFS. The control registers with behaviour of their own (R48, R77, R463, R465, R469, R471, R483, R484). -/

namespace Sys2Proof.Proofs
open Sys2Proof Sys2Proof.Machine Sys2Proof.Laws

/-! The wakes asked for (R472). -/

theorem mem_insertWake {d x : Nat} {l : List Nat} : x ∈ insertWake d l ↔ x = d ∨ x ∈ l := by
  induction l with
  | nil => simp [insertWake]
  | cons y r ih =>
    unfold insertWake
    split
    · simp
    · rw [List.mem_cons, ih, List.mem_cons]
      tauto

/-- A wake asked for once stays asked for. -/
theorem mem_wantDom {s : State} {d x : Nat} (h : x ∈ s.pwr.queue) : x ∈ (s.wantDom d).pwr.queue := by
  unfold State.wantDom
  split
  · exact h
  · exact mem_insertWake.mpr (.inr h)

/-- A domain that is asked for is on or queued, where it is built and nothing was scanned. -/
theorem wantDom_asks {s : State} {d : Nat} (hscan : s.pwr.scanned = false) (hbuilt : s.domBuilt d = true) :
    bit s.pwr.on d = true ∨ d ∈ (s.wantDom d).pwr.queue := by
  by_cases hon : bit s.pwr.on d = true
  · exact .inl hon
  refine .inr ?_
  unfold State.wantDom
  rw [hscan, hbuilt, Bool.eq_false_iff.mpr hon]
  split
  next h => simpa using h
  next h => exact mem_insertWake.mpr (.inl rfl)

theorem mem_wantDoms {s : State} {l : List Nat} {x : Nat} (h : x ∈ s.pwr.queue) : x ∈ (s.wantDoms l).pwr.queue := by
  induction l generalizing s with
  | nil => exact h
  | cons d l ih => exact ih (mem_wantDom h)

theorem wantDoms_asks {s : State} {l : List Nat} {d : Nat} (hscan : s.pwr.scanned = false) (hbuilt : s.domBuilt d = true) (hd : d ∈ l) :
    bit s.pwr.on d = true ∨ d ∈ (s.wantDoms l).pwr.queue := by
  induction l generalizing s with
  | nil => exact absurd hd List.not_mem_nil
  | cons y l ih =>
    show bit s.pwr.on d = true ∨ d ∈ ((s.wantDom y).wantDoms l).pwr.queue
    by_cases hdy : d = y
    · rw [← hdy]
      exact (wantDom_asks hscan hbuilt).imp_right mem_wantDoms
    · have hrest := wantDom_frame s y
      have hon : (s.wantDom y).pwr.on = s.pwr.on := congrArg (·.pwr.on) hrest
      have h := ih (s := s.wantDom y) (by rw [hrest]; exact hscan) (by rw [hrest]; exact hbuilt) ((List.mem_cons.mp hd).resolve_left hdy)
      rwa [hon] at h

section
variable {s : State} {a : Access} {img : Image} {level : Nat}

/-! The interleave table (R48). -/

theorem zeroWindow_frame (s : State) : ∃ ch, s.zeroWindow = { s with chambers := ch } := by
  unfold State.zeroWindow
  dsimp only
  split
  · exact ⟨_, rfl⟩
  · split
    · exact ⟨_, rfl⟩
    · exact ⟨_, rfl⟩

theorem ilvApply_locks (hfree : s.laneFree a = true) (hmgmt : mgmt a = true) (hopen : s.port.ilvLocked = false) (hready : s.boot.stage = .ready)
    (hgood : ilvFailure s.port.ilv s.stileCount = none) :
    ∃ t, exec (.ilvApply a) s = .next t ∧ t.port = { s.port with ilvLocked := true, ilvError := 0, ilvEntry := 0 } ∧
      t.dgt = (s.extendSg 3 (sha 1 (ilvBytes s.port.ilv))).dgt ∧ (t.lanes.get a.lane).ans = ⟨0, 0⟩ := by
  obtain ⟨v, hv⟩ : ∃ v : State, v = { s with port := { s.port with ilvLocked := true, ilvError := 0, ilvEntry := 0 } } := ⟨_, rfl⟩
  obtain ⟨d, hd⟩ : ∃ d, d = sha 1 (ilvBytes s.port.ilv) := ⟨_, rfl⟩
  have happly : s.applyIlv = (v.extendSg 3 (sha 1 (ilvBytes v.port.ilv))).zeroWindow := by
    unfold State.applyIlv
    rw [if_neg (by simp [hopen, hready]), hgood, hv]
  have hilv : v.port.ilv = s.port.ilv := by rw [hv]
  obtain ⟨ch, hwin⟩ := zeroWindow_frame (v.extendSg 3 d)
  rw [hilv, ← hd, hwin, hv] at happly
  have hexec : exec (.ilvApply a) s = .next (s.applyIlv.answer a 0 0) := congrArg Host.Outcome.next (globalWrite_ok hfree hmgmt)
  rw [happly] at hexec
  rw [← hd]
  exact ⟨_, hexec, rfl, rfl, answer_ans ..⟩

theorem ilvApply_fails {n k : Nat} (hfree : s.laneFree a = true) (hmgmt : mgmt a = true) (hopen : s.port.ilvLocked = false) (hready : s.boot.stage = .ready)
    (hbad : ilvFailure s.port.ilv s.stileCount = some (n, k)) : exec (.ilvApply a) s =
      .next (({ s with port := { s.port with ilvError := BitVec.ofNat 8 k, ilvEntry := BitVec.ofNat 4 n } } : State).answer a 0 0) := by
  have happly : s.applyIlv = { s with port := { s.port with ilvError := BitVec.ofNat 8 k, ilvEntry := BitVec.ofNat 4 n } } := by
    unfold State.applyIlv
    rw [if_neg (by simp [hopen, hready]), hbad]
  refine congrArg Host.Outcome.next ?_
  rw [globalWrite_ok hfree hmgmt, happly]

/-! A posted image (R77). -/

/-- The service cores are asked for, nothing but the stage and the queue of wakes moving (step 9 of R75). -/
theorem wakeCores_frame (s : State) : ∃ q, s.wakeCores = { s with boot := { s.boot with stage := .wake }, pwr := { s.pwr with queue := q } } :=
  ⟨_, wantDoms_frame ..⟩

theorem fwLoad_loads {key : Nat} (hfree : s.laneFree a = true) (hmgmt : mgmt a = true) (hstage : s.boot.stage = .waitImage) (hreset : s.boot.resetHeld = 0)
    (hwake : s.pwr.wakeError = false) (hfab : s.dom 111 = true) (hdgst : s.dom 103 = true) (hnew : s.boot.sg1Digest ≠ some img.digest)
    (hcheck : s.checkImage s.boot.fwAddr.toNat s.boot.fwLen.toNat img = .ok key) :
    ∃ t, exec (.fwLoad a img) s = .next t ∧ t.dgt = (s.measureImage img key).dgt ∧ t.boot = { s.boot with
        stage := .wake
        error := 0
        imageKey := BitVec.ofNat 2 key
        running := img.version
        imageIndex := img.rollback
        runKey := img.pubKey
        compat := img.liveCompat
        sg1Digest := some img.digest } ∧
      (t.lanes.get a.lane).ans = ⟨0, 0⟩ ∧ t.keys = s.keys := by
  obtain ⟨u, hu⟩ : ∃ u : State, u = { s with boot := { s.boot with stage := .verify } } := ⟨_, rfl⟩
  have hcheck' : u.checkImage u.boot.fwAddr.toNat u.boot.fwLen.toNat img = .ok key := by
    rw [hu]
    exact hcheck
  have htake : u.takeImage img State.wakeCores = ((u.measureImage img key).runImage img key).wakeCores := by
    unfold State.takeImage
    dsimp only
    rw [if_neg (by rw [hu]; exact fun h => hnew h.1), hcheck']
  have hload : s.loadFirmware img = ((u.measureImage img key).runImage img key).wakeCores := by
    unfold State.loadFirmware
    dsimp only
    rw [if_neg (by simp [hstage, hreset]), hwake, if_neg Bool.false_ne_true, ← hu, if_pos (by rw [hu]; exact Bool.and_eq_true_iff.mpr ⟨hfab, hdgst⟩), htake]
  obtain ⟨q, hq⟩ := wakeCores_frame ((u.measureImage img key).runImage img key)
  have hexec : exec (.fwLoad a img) s = .next ((s.loadFirmware img).answer a 0 0) := congrArg Host.Outcome.next (globalWrite_ok hfree hmgmt)
  rw [hload, hq, hu] at hexec
  exact ⟨_, hexec, rfl, rfl, answer_ans .., rfl⟩

/-! Power (R469, R471). -/

theorem pwrWake_wakes (hfree : s.laneFree a = true) (hmgmt : mgmt a = true) (hpass : s.pwr.state = .pass) (hready : s.boot.stage = .ready)
    (hwaking : s.pwr.waking = false) (hscan : s.pwr.scanned = false) (hrail : s.boot.kxRail = true) :
    ∃ t, exec (.pwrWake a) s = .next t ∧ t.pwr.state = .pass ∧ t.pwr.waking = true ∧ t.pwr.target = .run ∧ t.pwr.on = s.pwr.on ∧
      (∀ d, d < 115 → s.domBuilt d = true → bit s.pwr.on d = true ∨ d ∈ t.pwr.queue) ∧ t.boot = s.boot := by
  obtain ⟨u, hu⟩ : ∃ u : State, u = { s with pwr := { s.pwr with target := .run, waking := true } } := ⟨_, rfl⟩
  have hmoves : ({ s with pwr := { s.pwr with target := .run } } : State).policyMoves = { s with pwr := { s.pwr with target := .run } } := by
    unfold State.policyMoves
    dsimp only
    rw [hpass, if_neg (by simp), if_neg (by simp)]
  have hreq : s.wakeReq = u.wantDoms u.allDoms := by
    unfold State.wakeReq
    rw [hmoves]
    unfold State.beginWake
    dsimp only
    rw [if_pos (by simp [hpass, hready, hwaking, hscan]), if_pos hrail, hu]
  have hasks (d : Nat) (hd : d < 115) (hbuilt : s.domBuilt d = true) : bit s.pwr.on d = true ∨ d ∈ (u.wantDoms u.allDoms).pwr.queue := by
    have hbuilt' : u.domBuilt d = true := by rw [hu]; exact hbuilt
    have hon : u.pwr.on = s.pwr.on := by rw [hu]
    rw [← hon]
    exact wantDoms_asks (by rw [hu]; exact hscan) hbuilt' (List.mem_filter.mpr ⟨List.mem_range.mpr hd, hbuilt'⟩)
  have hexec : exec (.pwrWake a) s = .next (s.wakeReq.answer a 0 0) := congrArg Host.Outcome.next (globalWrite_ok hfree hmgmt)
  rw [hreq] at hexec
  obtain ⟨q, hq⟩ : ∃ q, u.wantDoms u.allDoms = { u with pwr := { u.pwr with queue := q } } := ⟨_, wantDoms_frame ..⟩
  rw [hq, hu] at hexec
  rw [hq] at hasks
  exact ⟨_, hexec, hpass, rfl, rfl, rfl, hasks, rfl⟩

theorem domainOff_hub {d : Nat} (hd : 96 ≤ d) : ∃ sv, s.domainOff d = { s with svc := sv, pwr := { s.pwr with
    on := setBit s.pwr.on d false, ramping := s.pwr.ramping.filter (· != d), queue := s.pwr.queue.filter (· != d) } } := by
  unfold State.domainOff
  dsimp only
  rw [if_neg (show ¬(d < 96 ∧ d % 3 = 0 ∧ (s.st (d / 3)).moverOn = true) by omega), if_neg (show ¬(d < 96 ∧ d % 3 ≠ 0) by omega)]
  split
  · exact ⟨_, rfl⟩
  · exact ⟨_, rfl⟩

theorem pwrOffReq_off (hfree : s.laneFree a = true) (hmgmt : mgmt a = true) (hpass : s.pwr.state = .pass) (hwaking : s.pwr.waking = false) :
    ∃ t, exec (.pwrOffReq a) s = .next t ∧ t.pwr.state = .off ∧ bit t.pwr.on 111 = false ∧ t.boot = s.boot ∧ t.mem = s.mem ∧ t.keys = s.keys := by
  obtain ⟨sv, hoff⟩ := domainOff_hub (s := s) (d := 111) (by decide)
  have hreq : s.offReq = { s.domainOff 111 with pwr := { (s.domainOff 111).pwr with state := .off } } := if_pos ⟨hpass, by rw [hwaking]; rfl⟩
  have hexec : exec (.pwrOffReq a) s = .next (s.offReq.answer a 0 0) := congrArg Host.Outcome.next (globalWrite_ok hfree hmgmt)
  rw [hreq, hoff] at hexec
  exact ⟨_, hexec, rfl, bit_setBit_off .., rfl, rfl, rfl⟩

/-! The lamp and the cores (R463, R465). -/

/-- A change below LAMP3 sets the level, clears what only LAMP2 keeps, and raises cause 7 (R460, R464, R465). -/
theorem setLamp_lowers {v : Nat} (hv : v ≠ 3) (hlow : v ≠ s.life.level) : (s.setLamp v).life = { s.life with
      level := v
      halt := if v < 2 then 0 else s.life.halt
      halted := if v < 2 then 0 else s.life.halted } ∧ bit (s.setLamp v).port.irqStatus 7 = true ∧ (s.setLamp v).keys = s.keys := by
  have hset : s.setLamp v = ({ s with life := { s.life with
      level := v, halt := if v < 2 then 0 else s.life.halt, halted := if v < 2 then 0 else s.life.halted } } : State).noteChange 2 s.life.level v false := by
    unfold State.setLamp
    dsimp only
    rw [if_neg hlow, if_neg hv]
  have hcause : bit (s.setLamp v).port.irqStatus 7 = true := by
    rw [hset]
    exact bit_setBit _ (by decide) true
  obtain ⟨dg, tu, po, su, cn, cw, hnote⟩ := noteChange_frame ({ s with life := { s.life with
      level := v, halt := if v < 2 then 0 else s.life.halt, halted := if v < 2 then 0 else s.life.halted } } : State) 2 s.life.level v false
  refine ⟨?_, hcause, ?_⟩
  · rw [hset, hnote]
  · rw [hset, hnote]

theorem lampLower_lowers (hfree : s.laneFree a = true) (hmgmt : mgmt a = true) (hlow : level < s.life.level) (hmax : s.life.level ≤ 3) :
    ∃ t, exec (.lampLower a level) s = .next t ∧ t.life = { s.life with
        level := level
        halt := if level < 2 then 0 else s.life.halt
        halted := if level < 2 then 0 else s.life.halted } ∧
      bit t.port.irqStatus 7 = true ∧ t.keys = s.keys := by
  obtain ⟨hlife, hcause, hkeys⟩ := setLamp_lowers (s := s) (v := level) (by omega) (by omega)
  have hctl : s.lampCtl true (level % 4) = s.setLamp level := by
    rw [Nat.mod_eq_of_lt (by omega)]
    exact if_pos hlow
  have hexec : exec (.lampLower a level) s = .next ((s.lampCtl true (level % 4)).answer a 0 0) := congrArg Host.Outcome.next (globalWrite_ok hfree hmgmt)
  rw [hctl] at hexec
  exact ⟨_, hexec, hlife, hcause, hkeys⟩

theorem haltCtl_lit (hlamp : 2 ≤ s.life.level) (mask : BitVec 3) : s.haltCtl mask = { s with life := { s.life with halt := mask, halted := mask } } :=
  if_neg (by omega)

end

/-- Settles O33: a management write of each register takes that register's effect. -/
theorem controlRegistersTakeEffect : Obligations.ControlRegistersTakeEffect := by
  unfold Obligations.ControlRegistersTakeEffect
  intro s a img mask v level hfree hmgmt
  refine ⟨ilvApply_locks hfree hmgmt, fun n k => ilvApply_fails hfree hmgmt, fun key => fwLoad_loads hfree hmgmt, pwrWake_wakes hfree hmgmt,
    pwrOffReq_off hfree hmgmt, lampLower_lowers hfree hmgmt, fun hlamp => ⟨?_, ?_⟩, congrArg Host.Outcome.next (globalWrite_ok hfree hmgmt),
    fun hlow hhigh => ?_⟩
  · exact congrArg Host.Outcome.next ((globalWrite_ok hfree hmgmt).trans (by rw [haltCtl_lit hlamp]))
  · exact congrArg Host.Outcome.next ((globalWrite_ok hfree hmgmt).trans (by rw [haltCtl_lit hlamp]))
  · have hcons : s.spillCons v.toNat = { s with sump := { s.sump with cons := v.toNat } } := if_neg (by omega)
    exact congrArg Host.Outcome.next ((globalWrite_ok hfree hmgmt).trans (by rw [hcons]))

end Sys2Proof.Proofs
end

section
/-! PROOFS. The inline ports: reads and writes that go on, writes that are held, responses, a stile's reset (R38-R46, R66, R147, R155). -/

namespace Sys2Proof.Proofs
open Sys2Proof Sys2Proof.Machine Sys2Proof.Laws

/-! The effect of a write on memory (R40). -/

/-- Byte `i` of a write's data goes to memory where it is enabled. -/
def putEnabled (r : HReq) (a : Nat) (m : Memory) (i : Nat) : Memory :=
  if r.be.getD i false then { m with bytes := m.bytes.set (a + i) (r.data.getD i 0) } else m

/-- Beat `i` of a write is marked where it has an enabled byte. -/
def markBeat (r : HReq) (a : Nat) (m : Memory) (i : Nat) : Memory :=
  if (r.be.drop (128 * i)).take 128 |>.any id then { m with poison := m.poison.set (a / 128 + i) (r.poison.getD i false) } else m

theorem putEnabled_out (r : HReq) (a : Nat) (m : Memory) (i : Nat) {k : Nat} (h : k ≠ a + i) : (putEnabled r a m i).bytes.get k = m.bytes.get k := by
  unfold putEnabled
  split
  · exact get_set_ne _ _ h
  · rfl

theorem putEnabled_in (r : HReq) (a : Nat) (m : Memory) (i : Nat) :
    (putEnabled r a m i).bytes.get (a + i) = if r.be.getD i false then r.data.getD i 0 else m.bytes.get (a + i) := by
  unfold putEnabled
  split
  · exact get_set_self ..
  · rfl

theorem putEnabledAll_out (r : HReq) (a n : Nat) (m : Memory) {k : Nat} (h : k < a ∨ a + n ≤ k) :
    ((List.range n).foldl (putEnabled r a) m).bytes.get k = m.bytes.get k := by
  induction n with
  | zero => rfl
  | succ n ih =>
    rw [List.range_succ, List.foldl_append, List.foldl_cons, List.foldl_nil, putEnabled_out r a _ _ (by omega), ih (by omega)]

theorem putEnabledAll_in (r : HReq) (a n : Nat) (m : Memory) {i : Nat} (h : i < n) :
    ((List.range n).foldl (putEnabled r a) m).bytes.get (a + i) = if r.be.getD i false then r.data.getD i 0 else m.bytes.get (a + i) := by
  induction n with
  | zero => omega
  | succ n ih =>
    rw [List.range_succ, List.foldl_append, List.foldl_cons, List.foldl_nil]
    by_cases hin : i = n
    · rw [hin, putEnabled_in, putEnabledAll_out r a n m (by omega)]
    · rw [putEnabled_out r a _ _ (by omega), ih (by omega)]

theorem markBeats_bytes (r : HReq) (a n : Nat) (m : Memory) : ((List.range n).foldl (markBeat r a) m).bytes = m.bytes := by
  induction n with
  | zero => rfl
  | succ n ih =>
    rw [List.range_succ, List.foldl_append, List.foldl_cons, List.foldl_nil, ← ih]
    unfold markBeat
    split <;> rfl

/-! Setting a granule's bits leaves the rest of its stile. -/

theorem bits_kept {t u : Stile} (hgran : t.gran = u.gran) (hrow : t.rowFlip = u.rowFlip) (hflips : t.flips = u.flips) (loc : Nat) :
    t.bits loc = u.bits loc := by
  unfold Stile.bits Stile.absorb
  rw [apply_ite Stile.gran, apply_ite Stile.gran, hgran, hrow, hflips]

theorem setBits_rest (t : Stile) (loc : Nat) (b : GBits) :
    (t.setBits loc b).held = t.held ∧ (t.setBits loc b).copies = t.copies ∧ (t.setBits loc b).lastMreq = t.lastMreq := by
  unfold Stile.setBits Stile.absorb
  split <;> exact ⟨rfl, rfl, rfl⟩

/-- A change of a stile is known by what it does to the stile as it is. -/
theorem onSt_congr {s : State} {st : Nat} {f g : Stile → Stile} (h : f (s.st st) = g (s.st st)) : s.onSt st f = s.onSt st g :=
  congrArg (fun m => ({ s with stiles := m } : State)) (congrArg (s.stiles.set st) h)

section
variable {s : State} {st : Nat} {r : HReq}

theorem memReq_read (hop : r.op = 0) : s.memReq r = s := by
  unfold State.memReq
  rw [hop]
  rfl

theorem memReq_write (hop : r.op = 1) : 
    s.memReq r = { s with mem := (List.range r.beats).foldl (markBeat r r.addr.toNat) ((List.range (128 * r.beats)).foldl (putEnabled r r.addr.toNat) s.mem) } := by
  unfold State.memReq
  rw [hop]
  rfl

/-- What a write that goes on leaves in memory. -/
theorem memReq_bytes (hop : r.op = 1) : ∃ m, s.memReq r = { s with mem := m } ∧
    (∀ i, i < 128 * r.beats → m.bytes.get (r.addr.toNat + i) = if r.be.getD i false then r.data.getD i 0 else s.mem.bytes.get (r.addr.toNat + i)) ∧
    ∀ k, k < r.addr.toNat ∨ r.addr.toNat + 128 * r.beats ≤ k → m.bytes.get k = s.mem.bytes.get k := by
  refine ⟨_, memReq_write hop, fun i hi => ?_, fun k hk => ?_⟩
  · rw [markBeats_bytes, putEnabledAll_in _ _ _ _ hi]
  · rw [markBeats_bytes, putEnabledAll_out _ _ _ _ hk]

/-! A request that a stile takes (R41, R42). -/

theorem noteOp_known (hop : r.op = 0 ∨ r.op = 1) : s.noteOp st r = s :=
  if_pos (hop.imp_right .inl)

theorem hreqRequest_takes (hready : s.hreqReady st = true) : exec (.hreqRequest st r) s = .next (s.hreq st r) :=
  congrArg Host.Outcome.next (if_pos hready)

theorem notBehind (h : ∀ h ∈ (s.st st).held, h.granule ≠ r.addr.toNat / 65536) :
    ¬((s.st st).held.any fun h => h.granule == r.addr.toNat / 65536) = true := by
  simp only [List.any_eq_true, beq_iff_eq, not_exists, not_and]
  exact h

theorem read_goesOn (hready : s.hreqReady st = true) (hfree : ∀ h ∈ (s.st st).held, h.granule ≠ r.addr.toNat / 65536) (hop : r.op = 0) :
    exec (.hreqRequest st r) s = .next (s.onSt st fun t => { t with lastMreq := some (r, false), passing := t.passing ++ [⟨r.tag, false, r.beats⟩] }) := by
  have hread : r.captureWrite = false := by
    unfold HReq.captureWrite
    rw [hop]
    rfl
  have hforward : s.forward st r = s.onSt st fun t => { t with lastMreq := some (r, false), passing := t.passing ++ [⟨r.tag, false, r.beats⟩] } := by
    unfold State.forward
    rw [memReq_read hop, hop]
    rfl
  rw [hreqRequest_takes hready]
  unfold State.hreq
  dsimp only
  rw [noteOp_known (.inl hop), if_neg (notBehind hfree), hread, if_pos (by rfl), hforward]

theorem captureWrite_of (hop : r.op = 1) (hbe : r.be.any id = true) : r.captureWrite = true := by
  unfold HReq.captureWrite
  rw [hop]
  exact hbe

/-- A capture write to a granule the stile has, none held before it, does what `track` says. -/
theorem hreq_tracked {loc : Nat} {u : State} {begun stalled : Bool} (hfree : ∀ h ∈ (s.st st).held, h.granule ≠ r.addr.toNat / 65536) (hop : r.op = 1)
    (hbe : r.be.any id = true) (hmover : (s.st st).moverOn = true) (hplace : s.place (r.addr.toNat / 65536) = some (st, loc))
    (htrack : s.track (r.addr.toNat / 65536) false = (u, begun, stalled)) : s.hreq st r =
      if begun || stalled then u.hold st ⟨r, r.addr.toNat / 65536, true, stalled⟩ else u.forward st r := by
  unfold State.hreq
  dsimp only
  rw [noteOp_known (.inr hop), if_neg (notBehind hfree), captureWrite_of hop hbe, hmover, if_neg (by simp), hplace]
  dsimp only
  rw [if_neg (not_not_intro rfl), htrack]

/-- Where no capture owes the granule and no step covers it, its bits change by Table 3 of chapter 06. -/
theorem track_closed {g loc : Nat} (hplace : s.place g = some (st, loc)) (hmover : (s.st st).moverOn = true) (hclosed : (s.st st).isOpen = false)
    (hstep : s.stepOf g = none) : s.track g false = (s.onSt st fun t => t.setBits loc
      (if (s.st st).bits loc = gClean then gDirty else if (s.st st).bits loc = gTaken then gOwed else (s.st st).bits loc), false, false) := by
  unfold State.track
  rw [hplace]
  dsimp only
  rw [hmover, if_neg (by simp), hclosed, if_neg (by simp), hstep, ite_self]
  refine congrArg (·, false, false) (onSt_congr ?_)
  rw [hclosed]
  simp

theorem write_goesOn {loc : Nat} (hready : s.hreqReady st = true) (hfree : ∀ h ∈ (s.st st).held, h.granule ≠ r.addr.toNat / 65536) (hop : r.op = 1)
    (hbe : r.be.any id = true) (hmover : (s.st st).moverOn = true) (hclosed : (s.st st).isOpen = false)
    (hplace : s.place (r.addr.toNat / 65536) = some (st, loc)) (hstep : s.stepOf (r.addr.toNat / 65536) = none) :
    ∃ u, exec (.hreqRequest st r) s = .next u ∧
      (∀ i, i < 128 * r.beats → u.mem.bytes.get (r.addr.toNat + i) = if r.be.getD i false then r.data.getD i 0 else s.mem.bytes.get (r.addr.toNat + i)) ∧
      (∀ k, k < r.addr.toNat ∨ r.addr.toNat + 128 * r.beats ≤ k → u.mem.bytes.get k = s.mem.bytes.get k) ∧
      (u.st st).bits loc = (if (s.st st).bits loc = gClean then gDirty else if (s.st st).bits loc = gTaken then gOwed else (s.st st).bits loc) ∧
      (u.st st).lastMreq = some (r, false) ∧ (∀ k, k ≠ st → u.st k = s.st k) ∧ u = { s with mem := u.mem, stiles := u.stiles } := by
  obtain ⟨b, hb⟩ : ∃ b, b = (if (s.st st).bits loc = gClean then gDirty else if (s.st st).bits loc = gTaken then gOwed else (s.st st).bits loc) := ⟨_, rfl⟩
  have htrack := track_closed hplace hmover hclosed hstep
  rw [← hb] at htrack ⊢
  obtain ⟨v, hv⟩ : ∃ v, v = s.onSt st fun t => t.setBits loc b := ⟨_, rfl⟩
  rw [← hv] at htrack
  obtain ⟨m, hm, hin, hout⟩ := memReq_bytes (s := v) hop
  have hvmem : v.mem = s.mem := by rw [hv]; rfl
  rw [hvmem] at hin hout
  have hexec : exec (.hreqRequest st r) s = .next (v.forward st r) := by
    rw [hreqRequest_takes hready, hreq_tracked hfree hop hbe hmover hplace htrack]
    rfl
  unfold State.forward at hexec
  rw [hm] at hexec
  have hvst : v.st st = (s.st st).setBits loc b := by
    rw [hv]
    exact State.st_onSt ..
  refine ⟨_, hexec, hin, hout, ?_, ?_, fun k hk => ?_, ?_⟩
  · have hst : ∀ f : Stile → Stile, (({ v with mem := m } : State).onSt st f).st st = f (v.st st) := fun f => State.st_onSt ..
    rw [hst]
    refine Eq.trans (b := (v.st st).bits loc) (bits_kept ?_ ?_ ?_ loc) ?_
    · rfl
    · rfl
    · rfl
    rw [hvst]
    exact bits_setBits_self
  · exact congrArg Stile.lastMreq (State.st_onSt ..)
  · rw [State.st_onSt_ne _ _ _ _ hk]
    show v.st k = s.st k
    rw [hv]
    exact State.st_onSt_ne _ _ _ _ hk
  · rw [hv]
    rfl

/-! A write that is held (R41, R155). -/

/-- A copy in the rebate buffer: the stile gets it, and what else moves is not the stiles, not memory. -/
theorem addCopy_rebate {loc g : Nat} : ∃ u k, s.addCopy st loc g none true none false = u ∧
    u.stiles = (s.onSt st fun t => { t with copies := t.copies ++ [k] }).stiles ∧ u.mem = s.mem ∧ k.granule = g ∧ k.data = (s.granRead g).1 ∧
    k.reserve = none ∧ k.ready = false := by
  obtain ⟨d, hd⟩ : ∃ d, s.granRead g = d := ⟨_, rfl⟩
  obtain ⟨k, hk⟩ : ∃ k : Copy, k = ⟨loc, g, none, true, none, false, d.1, d.2⟩ := ⟨_, rfl⟩
  obtain ⟨v, hv⟩ : ∃ v, v = s.onSt st fun t => { t with copies := t.copies ++ [k] } := ⟨_, rfl⟩
  have hadd : s.addCopy st loc g none true none false = v.relevelAll := by
    unfold State.addCopy
    rw [hd, hv, hk]
  refine ⟨v.relevelAll, k, hadd, ?_, ?_, ?_, ?_, ?_, ?_⟩
  · rw [relevelAll_stiles, hv]
  · rw [(stepsStay_relevelAll v).mem, hv]
    rfl
  · rw [hk]
  · rw [hk, hd]
  · rw [hk]
  · rw [hk]

theorem write_held {loc : Nat} {run : CapRun} (hready : s.hreqReady st = true) (hheld : (s.st st).held = []) (hop : r.op = 1) (hbe : r.be.any id = true)
    (hmover : (s.st st).moverOn = true) (hremoved : (s.st st).removed = false) (hopen : (s.st st).isOpen = true) (hrun : s.cap.run = some run)
    (hplace : s.place (r.addr.toNat / 65536) = some (st, loc)) (howed : (s.st st).bits loc = gOwed) (hroom : 0 < (s.st st).rebateFree)
    (hstep : s.stepOf (r.addr.toNat / 65536) = none) :
    let g := r.addr.toNat / 65536
    let t := s.st st
    ∃ u k, exec (.hreqRequest st r) s = .next u ∧ (u.st st).held = [⟨r, g, true, false⟩] ∧ (u.st st).copies = t.copies ++ [k] ∧ k.granule = g ∧
      k.data = (s.granRead g).1 ∧ k.reserve = none ∧ k.ready = false ∧ (u.st st).bits loc = gTaken ∧ (u.st st).lastMreq = t.lastMreq ∧ u.mem = s.mem := by
  intro g t
  obtain ⟨v, k, hadd, hstiles, hmem, hgran, hdata, hreserve, hready'⟩ := addCopy_rebate (s := s) (st := st) (loc := loc) (g := g)
  obtain ⟨w, hw⟩ : ∃ w, w = v.onSt st fun t => t.setBits loc gTaken := ⟨_, rfl⟩
  have hvst : v.st st = { t with copies := t.copies ++ [k] } := by
    unfold State.st
    rw [hstiles]
    exact State.st_onSt ..
  have hwst : w.st st = (v.st st).setBits loc gTaken := by
    rw [hw]
    exact State.st_onSt ..
  have htrack : s.track g false = (w, true, false) := by
    have hcap : s.capPlace run.chamber st = some none := if_pos hroom
    unfold State.track
    rw [hplace]
    dsimp only
    rw [hmover, if_neg (by simp), hopen, howed, if_pos (by decide), hrun]
    dsimp only
    rw [hremoved, if_neg Bool.false_ne_true, hcap]
    dsimp only
    rw [hstep, ite_self, hadd, ← hw]
  have hfree : ∀ h ∈ (s.st st).held, h.granule ≠ g := by
    rw [hheld]
    exact fun _ h => absurd h List.not_mem_nil
  have hexec : exec (.hreqRequest st r) s = .next (w.hold st ⟨r, g, true, false⟩) := by
    rw [hreqRequest_takes hready, hreq_tracked hfree hop hbe hmover hplace htrack]
    rfl
  obtain ⟨cap, hhold⟩ : ∃ cap, w.hold st ⟨r, g, true, false⟩ =
      ({ w with cap := cap } : State).onSt st fun t => { t with held := t.held ++ [⟨r, g, true, false⟩] } := by
    unfold State.hold
    dsimp only
    split
    · exact ⟨_, rfl⟩
    · exact ⟨w.cap, rfl⟩
  have hst' : (({ w with cap := cap } : State).onSt st fun t => { t with held := t.held ++ [⟨r, g, true, false⟩] }).st st =
      { w.st st with held := (w.st st).held ++ [⟨r, g, true, false⟩] } := State.st_onSt ..
  obtain ⟨hkept, hcopies, hlast⟩ := setBits_rest (v.st st) loc gTaken
  rw [hhold] at hexec
  refine ⟨_, k, hexec, ?_, ?_, hgran, hdata, hreserve, hready', ?_, ?_, ?_⟩
  · rw [hst', hwst, hkept, hvst]
    show t.held ++ _ = _
    rw [show t.held = [] from hheld]
    rfl
  · rw [hst', hwst]
    refine hcopies.trans ?_
    rw [hvst]
  · rw [hst', hwst]
    refine Eq.trans (b := ((v.st st).setBits loc gTaken).bits loc) (bits_kept ?_ ?_ ?_ loc) bits_setBits_self
    · rfl
    · rfl
    · rfl
  · rw [hst', hwst]
    refine hlast.trans ?_
    rw [hvst]
  · rw [← hmem, hw]
    rfl

/-! Responses and resets (R39, R66). -/

theorem response_goesOut {p : MResp} (hst : st < s.stileCount) (hreset : (s.st st).inReset = false) (hhost : bit p.tag 16 = false) :
    ∃ u, exec (.mrspResponse st p) s = .next u ∧ (u.st st).lastHrsp = some p ∧ (∀ k, k ≠ st → u.st k = s.st k) ∧ u = { s with stiles := u.stiles } := by
  refine ⟨_, congrArg Host.Outcome.next ((if_neg (by simp [hreset, hst])).trans (if_neg (by rw [hhost]; decide))), ?_, fun k hk => ?_, rfl⟩
  · exact congrArg Stile.lastHrsp (State.st_onSt ..)
  · exact State.st_onSt_ne _ _ _ _ hk

theorem stileReset_drops (hst : st < s.stileCount) (hrun : s.cap.run = none) (hout : ∀ u ∈ s.tags, ∀ n w, u.tag = .mreq st n w → u.heldOut = true) :
    ∃ u, exec (.stileReset st) s = .next u ∧ (u.st st).inReset = true ∧ (u.st st).held = [] ∧ (u.st st).passing = [] ∧
      (∀ loc, (u.st st).gran.get loc = gDirty) ∧ (∀ k, k ≠ st → u.st k = s.st k) ∧ u = { s with stiles := u.stiles } := by
  obtain ⟨v, hv⟩ : ∃ v, v = s.onSt st fun t => { t with inReset := true, held := [], passing := [] } := ⟨_, rfl⟩
  have hmine : v.tags.filter (fun u => !u.heldOut && match u.tag with | .mreq t _ _ => t == st | .fab _ _ _ => false) = [] := by
    have htags : v.tags = s.tags := by rw [hv]; rfl
    rw [htags, List.filter_eq_nil_iff]
    intro u hu
    cases htag : u.tag with
    | fab p n w => simp
    | mreq k n w =>
      by_cases hk : k = st
      · simp [hout u hu n w (by rw [htag, hk])]
      · simp [hk]
  have hdrop : v.dropOwn st = v.onSt st fun t => { t with copies := t.copies.map fun (k : Copy) =>
      if k.ready then k else { k with ready := true, beats := List.range 512 } } := by
    unfold State.dropOwn
    dsimp only
    exact congrArg (fun l => (l.foldl (fun s u => s.holdTag u true) v).onSt st fun t => { t with copies := t.copies.map fun (k : Copy) =>
      if k.ready then k else { k with ready := true, beats := List.range 512 } }) hmine
  have hreset : s.stileReset st = (v.dropOwn st).onSt st fun t => { t with gran := .const ⟨true, false⟩ } := by
    have hrun' : ((v.dropOwn st).onSt st fun t => { t with gran := .const ⟨true, false⟩ }).cap.run = none := by
      rw [hdrop, hv]
      exact hrun
    unfold State.stileReset
    dsimp only
    rw [← hv, hrun']
  have hexec : exec (.stileReset st) s = .next (s.stileReset st) := congrArg Host.Outcome.next (if_neg (Nat.not_le.mpr hst))
  rw [hreset, hdrop] at hexec
  have hvst : v.st st = { s.st st with inReset := true, held := [], passing := [] } := by
    rw [hv]
    exact State.st_onSt ..
  have hst' : (((v.onSt st fun t => { t with copies := t.copies.map fun (k : Copy) =>
      if k.ready then k else { k with ready := true, beats := List.range 512 } }).onSt st fun t => { t with gran := .const ⟨true, false⟩ }).st st) =
      { s.st st with
        inReset := true, held := [], passing := [], gran := .const ⟨true, false⟩
        copies := (s.st st).copies.map fun (k : Copy) => if k.ready then k else { k with ready := true, beats := List.range 512 } } := by
    rw [State.st_onSt, State.st_onSt, hvst]
  refine ⟨_, hexec, ?_, ?_, ?_, ?_, fun k hk => ?_, ?_⟩
  · rw [hst']
  · rw [hst']
  · rw [hst']
  · rw [hst']
    exact fun loc => get_const ..
  · rw [State.st_onSt_ne _ _ _ _ hk, State.st_onSt_ne _ _ _ _ hk, hv, State.st_onSt_ne _ _ _ _ hk]
  · rw [hv]
    rfl

end

/-- Settles O34: a request that nothing holds is one write of memory and one change of its stile. -/
theorem inlinePortsCarryRequests : Obligations.InlinePortsCarryRequests := by
  unfold Obligations.InlinePortsCarryRequests
  intro s st r t g
  exact ⟨read_goesOn, fun loc hready hfree hop hbe hmover hclosed hplace hstep => write_goesOn hready hfree hop hbe hmover hclosed hplace hstep,
    fun loc run hready hheld hop hbe hmover hremoved hopen hrun hplace howed hroom hstep =>
      write_held hready hheld hop hbe hmover hremoved hopen hrun hplace howed hroom hstep,
    fun p => response_goesOut, stileReset_drops, fun hst => congrArg Host.Outcome.next (if_neg (Nat.not_le.mpr hst))⟩

end Sys2Proof.Proofs
end

section
/-! PROOFS. Answers on the fabric and memory ports and their tags (R39, R50, R52, R476, R478). -/

namespace Sys2Proof.Proofs
open Sys2Proof Sys2Proof.Machine Sys2Proof.Laws

section
variable {s : State} {st port tag : Nat} {u : TagUse}

/-- The first beat of an answer is kept for its request (R44, R50). -/
theorem gather_first (data : List Byte) (hnone : ∀ w ∈ s.trk.answers, w.use ≠ u) : s.gather u data false false false =
    { s with trk := { s.trk with answers := s.trk.answers ++ [⟨u, (padTo 128 data).map fun b => (b, false), false, false⟩] } } := by
  have hfind : s.trk.answers.find? (fun (w : Answer) => w.use == u) = none := by
    rw [List.find?_eq_none]
    exact fun w hw => by simpa using hnone w hw
  have herase : s.trk.answers.erase ⟨u, [], false, false⟩ = s.trk.answers := List.erase_of_not_mem fun hmem => hnone _ hmem rfl
  have hlen : decide (256 ≤ ((padTo 128 data).map fun b : Byte => (b, false)).length) = false := by
    rw [List.length_map, padTo_length]
    decide
  unfold State.gather
  dsimp only
  rw [hfind, Option.getD_none, herase, List.nil_append, hlen]
  rfl

theorem acked_plain (hstream : u.stream = none) (err : Bool) : s.acked u err = { s with tags := s.tags.erase u } := by
  unfold State.acked
  rw [hstream]

/-- A fabric port that takes answers. -/
theorem fabOpen (hreset : s.boot.resetHeld ≠ 2) (hport : port < s.fabPorts) (hdom : s.dom (111 + port) = true) :
    ¬(s.boot.resetHeld = 2 ∨ s.fabPorts ≤ port ∨ (!s.dom (111 + port)) = true) := by
  simp [hreset, hport, hdom]

theorem readData_kept {data : List Byte} (hreset : s.boot.resetHeld ≠ 2) (hport : port < s.fabPorts) (hdom : s.dom (111 + port) = true)
    (hfind : s.tags.find? (fun u => u.tag == .fab port tag false) = some u) (hheld : u.heldOut = false) (hnone : ∀ w ∈ s.trk.answers, w.use ≠ u) :
    exec (.fabReadData port tag data false false) s = .next { s with trk := { s.trk with
      answers := s.trk.answers ++ [⟨u, (padTo 128 data).map fun b => (b, false), false, false⟩] } } := by
  refine congrArg Host.Outcome.next ?_
  rw [if_neg (fabOpen hreset hport hdom), hfind]
  dsimp only
  rw [hheld, if_neg Bool.false_ne_true, if_neg Bool.false_ne_true, gather_first data hnone]

theorem writeAck_frees (hreset : s.boot.resetHeld ≠ 2) (hport : port < s.fabPorts) (hdom : s.dom (111 + port) = true)
    (hfind : s.tags.find? (fun u => u.tag == .fab port tag true) = some u) (hstream : u.stream = none) :
    exec (.fabWriteAck port tag false) s = .next { s with tags := s.tags.erase u } := by
  refine congrArg Host.Outcome.next ?_
  rw [if_neg (fabOpen hreset hport hdom), hfind]
  exact acked_plain hstream false

theorem writeAck_unknown (hreset : s.boot.resetHeld ≠ 2) (hport : port < s.fabPorts) (hdom : s.dom (111 + port) = true)
    (hfind : s.tags.find? (fun u => u.tag == .fab port tag true) = none) :
    ∃ t, exec (.fabWriteAck port tag false) s = .next t ∧ bit t.port.irqStatus 6 = true ∧ t.tags = s.tags ∧ t.trk = s.trk ∧ t.mem = s.mem := by
  obtain ⟨tu, po, su, cn, cw, h, hbit⟩ := logPartner_frame s sMalformed 9 port none (leBytes 2 tag)
  have hexec : exec (.fabWriteAck port tag false) s = .next (s.logPartner sMalformed 9 port none (leBytes 2 tag)) := by
    refine congrArg Host.Outcome.next ?_
    rw [if_neg (fabOpen hreset hport hdom), hfind]
  rw [h] at hexec
  exact ⟨_, hexec, hbit, rfl, rfl, rfl⟩

/-! Krytra's own answers on the memory ports (R39). -/

theorem ownResponse_taken {r : MResp} (hst : st < s.stileCount) (hreset : (s.st st).inReset = false) (hown : bit r.tag 16 = true) :
    exec (.mrspResponse st r) s = .next (s.ownResponse st r) :=
  congrArg Host.Outcome.next ((if_neg (by simp [hreset, hst])).trans (if_pos hown))

theorem ownWrite_frees {r : MResp} (hst : st < s.stileCount) (hreset : (s.st st).inReset = false) (hown : bit r.tag 16 = true) (hkind : r.kind = true)
    (hfind : s.tags.find? (fun u => u.tag == .mreq st (r.tag.toNat % 65536) true) = some u) (hstream : u.stream = none) :
    exec (.mrspResponse st r) s = .next { s with tags := s.tags.erase u } := by
  have hresponse : s.ownResponse st r = { s with tags := s.tags.erase u } := by
    unfold State.ownResponse
    rw [hkind, hfind]
    exact acked_plain hstream r.err
  rw [ownResponse_taken hst hreset hown, hresponse]

theorem ownResponse_unknown {r : MResp} (hst : st < s.stileCount) (hreset : (s.st st).inReset = false) (hown : bit r.tag 16 = true)
    (hfind : s.tags.find? (fun u => u.tag == .mreq st (r.tag.toNat % 65536) r.kind) = none) :
    ∃ t, exec (.mrspResponse st r) s = .next t ∧ bit t.port.irqStatus 6 = true ∧ t.tags = s.tags ∧ t.trk = s.trk ∧ t.mem = s.mem := by
  obtain ⟨tu, po, su, cn, cw, h, hbit⟩ := logPartner_frame s sMalformed 2 st none (leBytes 3 r.tag.toNat ++ leBytes 1 (b2n r.kind))
  have hresponse : s.ownResponse st r = s.logPartner sMalformed 2 st none (leBytes 3 r.tag.toNat ++ leBytes 1 (b2n r.kind)) := by
    unfold State.ownResponse
    rw [hfind]
  have hexec := ownResponse_taken hst hreset hown
  rw [hresponse, h] at hexec
  exact ⟨_, hexec, hbit, rfl, rfl, rfl⟩

/-! A tag without an answer (R478). -/

theorem holdTag_plain (hstream : u.stream = none) : ∃ v tk, s.holdTag u false =
    { s with tags := s.tags.map (fun w => if w = u then v else w), trk := tk } ∧ v.heldOut = true ∧ v.tag = u.tag := by
  unfold State.holdTag
  extract_lets got held t answers
  split
  · exact ⟨held, _, rfl, rfl, rfl⟩
  · rw [hstream]
    exact ⟨held, s.trk, rfl, rfl, rfl⟩

/-- A log entry under a severity below FATAL with cause 6. -/
theorem log_cause_frame (s : State) (c : BitVec 16) {v : Nat} (hv : v ≠ 4) (k i : Nat) (ch : Option Nat) (d : List Byte) :
    ∃ tu po su, (s.log c v k i ch d).cause 6 = { s with timeUsed := tu, port := po, sump := su } ∧ bit po.irqStatus 6 = true := by
  obtain ⟨tu, po, su, h⟩ := log_frame_quiet s c hv k i ch d
  rw [h]
  exact ⟨tu, { po with irqStatus := setBit po.irqStatus 6 true }, su, rfl, bit_setBit _ (by decide) _⟩

theorem tagTimeout_holds {ref : TagRef} (hfind : s.tags.find? (fun u => u.tag == ref && !u.heldOut) = some u) (hstream : u.stream = none) :
    ∃ t v, exec (.tagTimeout ref) s = .next t ∧ t.tags = s.tags.map (fun w => if w = u then v else w) ∧ v.heldOut = true ∧ v.tag = u.tag ∧
      bit t.port.irqStatus 6 = true ∧ t.mem = s.mem ∧ t.stiles = s.stiles := by
  obtain ⟨v, tk, hhold, hheld, htag⟩ := holdTag_plain (s := s) hstream
  obtain ⟨w, hw⟩ : ∃ w : State, w = { s with tags := s.tags.map (fun w => if w = u then v else w), trk := tk } := ⟨_, rfl⟩
  rw [← hw] at hhold
  obtain ⟨k, i, hlog⟩ : ∃ k i, exec (.tagTimeout ref) s = .next ((w.log eTagHeld 3 k i none []).cause 6) := by
    cases ref with
    | mreq st n b =>
      refine ⟨2, st, congrArg Host.Outcome.next ?_⟩
      rw [hfind]
      dsimp only
      rw [hhold]
    | fab port n b =>
      refine ⟨9, port, congrArg Host.Outcome.next ?_⟩
      rw [hfind]
      dsimp only
      rw [hhold]
  obtain ⟨tu, po, su, h, hbit⟩ := log_cause_frame w eTagHeld (v := 3) (by decide) k i none []
  rw [h, hw] at hlog
  exact ⟨_, v, hlog, rfl, hheld, htag, hbit, rfl, rfl⟩

end

/-- Settles O35: an answer is matched by the first use of its tag. -/
theorem answersMatchTheirTags : Obligations.AnswersMatchTheirTags := by
  unfold Obligations.AnswersMatchTheirTags
  intro s st port tag data r u
  exact ⟨readData_kept, writeAck_frees, writeAck_unknown, ownWrite_frees, ownResponse_unknown, fun ref => tagTimeout_holds⟩

end Sys2Proof.Proofs
end

section
/-! PROOFS. The rules of the site unit's state, and sites, peers and replica digests (R355, R357, R358, R366, R373, R377). -/

namespace Sys2Proof.Proofs
open Sys2Proof Sys2Proof.Machine Sys2Proof.Laws

section
variable {s : State} {ch p : Nat}

/-! A chamber's site unit and its peers. -/

@[simp] theorem site_onSite (s : State) (ch : Nat) (f : Site → Site) : (s.onSite ch f).site ch = f (s.site ch) :=
  congrArg ChUnit.site (get_modify_self _ _ _)

@[simp] theorem site_onPeer (s : State) (ch p : Nat) (f : Peer → Peer) :
    (s.onPeer ch p f).site ch = { s.site ch with peers := (s.site ch).peers.modify p f } := site_onSite ..

theorem onSite_onSite (s : State) (ch : Nat) (f g : Site → Site) : (s.onSite ch f).onSite ch g = s.onSite ch fun u => g (f u) := by
  simp only [State.onSite, State.onUn, modify_modify, Function.comp_def]

theorem onPeer_onPeer (s : State) (ch p : Nat) (f g : Peer → Peer) : (s.onPeer ch p f).onPeer ch p g = s.onPeer ch p fun t => g (f t) := by
  refine (onSite_onSite ..).trans ?_
  simp only [modify_modify, Function.comp_def]
  rfl

/-- No peer has a parked frame. -/
def Unparked (u : Site) : Prop := ∀ p ∈ u.peers.entries, p.2.parkedAt = []

theorem siteStill_iff : s.siteStill ch = true ↔ (s.site ch).run = none ∧ (s.site ch).serveQ = [] ∧ Unparked (s.site ch) := by
  simp [State.siteStill, Unparked, and_assoc]

theorem get_unparked {u : Site} (h : Unparked u) {q : Peer} (hmem : (p, q) ∈ u.peers.entries) : (u.peers.get p).parkedAt = [] := by
  unfold SMap.get
  cases hlook : smLookup p u.peers.entries with
  | none => exact (not_mem_of_smLookup hlook _ hmem).elim
  | some t => exact h _ (smLookup_of_mem hlook)

theorem set_unparked {u : Site} (h : Unparked u) {q : Peer} (hq : q.parkedAt = []) : Unparked { u with peers := u.peers.set p q } := by
  have hrest : ∀ r ∈ smErase p u.peers.entries, r.2.parkedAt = [] := fun r hr => h r (smErase_mem hr).1
  intro r hr
  unfold SMap.set at hr
  split at hr
  · exact hrest r hr
  · rcases smInsert_mem hr with rfl | hr
    · exact hq
    · exact hrest r hr

/-! Reading again: contributions and parked frames (R366, R367). -/

/-- A contributor list without the own site gives the own contribution no turn. -/
theorem ownTurns_idle (hown : (s.site ch).contrib.contains (s.site ch).own = false) : s.ownTurns ch = (s, false) := by
  have hstep : ∀ (l : List (Nat × SiteBlk)), l.foldl (fun (a : State × Bool) k =>
      let s := a.1
      let u := s.site ch
      let r := s.siteRec ch k.1
      if !u.contrib.contains u.own || r.applied || !r.emitted || bit r.mask u.own || !u.ranked r u.own then a
      else if r.void_ then (s.missBlock ch k.1 u.own, true)
      else (s.contribute ch k.1 u.own (s.areaVals (u.ownAt k.1) u.anchorType (k.2.count u.anchorType)), true)) (s, false) = (s, false) := by
    intro l
    induction l with
    | nil => rfl
    | cons k l ih =>
      rw [List.foldl_cons]
      dsimp only
      rw [hown, if_pos (by simp)]
      exact ih
  exact hstep _

theorem rereadPeer_idle (h : ((s.site ch).peers.get p).parkedAt = []) : s.rereadPeer ch p = s := if_pos h

theorem rereadPeers_idle (h : Unparked (s.site ch)) : ((s.site ch).peers.entries.map (·.1)).foldl (fun s p => s.rereadPeer ch p) s = s := by
  refine foldl_idle _ _ _ fun p hp => rereadPeer_idle ?_
  obtain ⟨⟨p, q⟩, hmem, rfl⟩ := List.mem_map.mp hp
  exact get_unparked h hmem

/-- With nothing to add and nothing parked, reading again changes nothing. -/
theorem reread_idle (hown : (s.site ch).contrib.contains (s.site ch).own = false) (h : Unparked (s.site ch)) (fuel : Nat) :
    s.reread ch fuel = s := by
  cases fuel with
  | zero => rfl
  | succ fuel =>
    unfold State.reread
    dsimp only
    rw [ownTurns_idle hown]
    dsimp only
    rw [rereadPeers_idle h, if_neg (by simp)]

end

/-! Memory areas. -/

section
variable {s t : State}

theorem peek_congr (h : t.mem.bytes = s.mem.bytes) (a n : Nat) : t.peek a n = s.peek a n := by
  rw [State.peek, Memory.read, h]
  rfl

theorem peek_congr_at {a n : Nat} (h : ∀ k, a ≤ k → k < a + n → t.mem.bytes.get k = s.mem.bytes.get k) : t.peek a n = s.peek a n :=
  List.map_congr_left fun _ hi => h _ (Nat.le_add_right ..) (Nat.add_lt_add_left (List.mem_range.mp hi) a)

/-- Reading beside what was written. -/
theorem peek_poke_out (s : State) {a n b : Nat} {d : List Byte} (h : a + n ≤ b ∨ b + d.length ≤ a) : (s.poke b d).peek a n = s.peek a n :=
  peek_congr_at fun k hlo hhi => poke_get_out _ _ _ _ (by omega)

/-- An area is written as its bytes; beyond that only poison bits change. -/
theorem areaWrite_bytes (s : State) (a z len : Nat) (d : List (Nat × Bool)) :
    (s.areaWrite a z len d).mem.bytes = (s.poke a (padTo len (d.flatMap fun p => leBytes z p.1))).mem.bytes := by
  have hfold : ∀ (l : List Nat) (m : Memory), (l.foldl (fun m k =>
      if (d.getD k (0, false)).2 then { m with poison := m.poison.set ((a + k * z) / 128) true } else m) m).bytes = m.bytes := by
    intro l
    induction l with
    | nil => exact fun _ => rfl
    | cons k l ih =>
      intro m
      refine (ih _).trans ?_
      dsimp only
      split <;> rfl
  exact hfold _ _

theorem areaWrite_frame (s : State) (a z len : Nat) (d : List (Nat × Bool)) : ∃ m, s.areaWrite a z len d = { s with mem := m } := ⟨_, rfl⟩

theorem areaWrite_out (s : State) {a z len : Nat} (d : List (Nat × Bool)) {k : Nat} (h : k < a ∨ a + len ≤ k) :
    (s.areaWrite a z len d).mem.bytes.get k = s.mem.bytes.get k := by
  rw [areaWrite_bytes]
  exact poke_get_out _ _ _ _ (by rwa [padTo_length])

theorem peek_areaWrite (s : State) (a z len : Nat) (d : List (Nat × Bool)) :
    (s.areaWrite a z len d).peek a len = padTo len (d.flatMap fun p => leBytes z p.1) := by
  have hpoke := peek_poke s a (padTo len (d.flatMap fun p => leBytes z p.1))
  rw [padTo_length] at hpoke
  exact (peek_congr (areaWrite_bytes ..) _ _).trans hpoke

theorem memberRead_congr (h : t.mem = s.mem) (r : Region) (m : Nat) : ∀ fuel i n, t.memberRead r m fuel i n = s.memberRead r m fuel i n
  | 0, _, _ => rfl
  | fuel + 1, i, n => by
    have hhere : ∀ n, t.regionRead r m i n = s.regionRead r m i n := fun n => by
      unfold State.regionRead State.peek
      rw [h]
    unfold State.memberRead
    dsimp only
    rw [memberRead_congr h r m fuel, hhere]

theorem weights_congr (h : t.mem = s.mem) (k : SiteBlk) (ty : Nat) : t.weights k ty = s.weights k ty := by
  rw [State.weights, memberRead_congr h]
  rfl

end

/-! ANCHOR_SET (R355, R357, R358). -/

section
variable {s : State} {x0 x : Sub} {e : Ext} {ids : List Nat} {k : SiteBlk}

/-- The record ANCHOR_SET gives the site set before it writes the area. -/
def anchorStart (ids : List Nat) (n lo t : Nat) (acc : Bool) (u : Site) : Site :=
  { u with
    anchored := false, area := lo, blocks := n, regions := ids, anchorType := t, outerUse := u.outer, accUse := acc, contrib := []
    emitOpen := false }

/-- The anchor of a set of one block whose weights are finite in the anchor type. -/
theorem anchorLoop_one {ch t : Nat} (hfinite : ∀ p ∈ (s.weights k t).map fun p => (roundTo t p.1, p.2), finiteBits (fmtOf t) p.1 = true) :
    s.anchorLoop ch t none [(0, k)] 0 =
      (s.areaWrite ((s.site ch).anchorAt 0) (elemSize t) 65536 ((s.weights k t).map fun p => (roundTo t p.1, p.2)), 1, none) := by
  have hany : ((s.weights k t).map fun p => (roundTo t p.1, p.2)).any (fun p => !finiteBits (fmtOf t) p.1) = false :=
    List.any_eq_false.mpr fun p hp => by simp [hfinite p hp]
  unfold State.anchorLoop
  dsimp only
  rw [hany, if_neg Bool.false_ne_true, if_neg nofun]
  rfl

theorem blks_one {ch : Nat} (h : s.siteBlks (s.site ch).regions (s.site ch).anchorType = [k]) : s.blks ch = [(0, k)] := by
  unfold State.blks
  dsimp only
  rw [h]
  rfl

/-- ANCHOR_SET of one block: the site record is started, the anchor written, the rest of the area cleared. -/
theorem bodyAnchorSet_one {t lo hi : Nat} {acc : Bool} (ht : fld x.b 3 0 = t) (hlo : x.a.toNat / 65536 = lo)
    (hacc : ((s.ch x.chamber).siteMode == 2) = acc) (hhi : lo + areaGranules 1 t acc (s.site x.chamber).outer = hi)
    (hids : s.idList (s.site x.chamber).listAddr.toNat (s.site x.chamber).listLen = ids) (hread : e.readErr = false) (hwrite : e.writeErr = false)
    (hmode : (s.ch x.chamber).siteMode ≠ 0) (hphase : (s.un x.chamber).step.phase = .idle) (hbusy : s.siteBusy x = false)
    (hbad : s.siteListBad x.chamber ids = none) (hne : ids ≠ []) (hblk : s.siteBlks ids t = [k])
    (hsum : ((s.regionsNamed ids).map fun r => r.siteBlocks t).sum = 1) (hwin : s.inWin x.chamber (lo * 65536) ((hi - lo) * 65536) = true)
    (hregion : s.meetsRegion lo hi = false) (hreserve : s.meetsReserve lo hi = false) (hsite : s.meetsSite x.chamber lo hi = false)
    (hfinite : ∀ p ∈ (s.weights k t).map fun p => (roundTo t p.1, p.2), finiteBits (fmtOf t) p.1 = true) :
    let v := (s.onSite x.chamber (anchorStart ids 1 lo t acc)).freeNat.2
    let v := v.areaWrite (lo * 65536) (elemSize t) 65536 ((s.weights k t).map fun p => (roundTo t p.1, p.2))
    let a := (v.site x.chamber).accAt 0
    bodyAnchorSet x e s = ended ((v.poke a (zeros (hi * 65536 - a))).onSite x.chamber fun u => { u with anchored := true, seqSet := false })
      sOk 1 1 [] := by
  intro v0 v a
  have hv0 : v0.site x.chamber = anchorStart ids 1 lo t acc (s.site x.chamber) := site_onSite ..
  have hblks : v0.blks x.chamber = [(0, k)] := blks_one (by rw [hv0]; exact hblk)
  have hweights : v0.weights k t = s.weights k t := weights_congr rfl k t
  have hloop : v0.anchorLoop x.chamber t none [(0, k)] 0 = (v, 1, none) := by
    have hat : (v0.site x.chamber).anchorAt 0 = lo * 65536 := by
      rw [hv0]
      exact Nat.add_zero _
    rw [anchorLoop_one (by rwa [hweights]), hweights, hat]
  unfold bodyAnchorSet
  dsimp only
  rw [hids, ht, hsum, hlo, hacc, hhi, hphase, hbusy, if_neg (by simp [hmode]), hread, if_neg Bool.false_ne_true, hbad]
  dsimp only
  rw [if_neg hne, hwin, hregion, hreserve, hsite, if_neg (by decide), hwrite, if_neg Bool.false_ne_true]
  generalize hg : State.anchorLoop _ x.chamber t none _ 0 = g
  obtain rfl : (v, 1, none) = g := by
    rw [← hg, ← hloop, ← hblks]
    rfl
  rfl

theorem anchorSet_ends {t lo hi : Nat} {acc : Bool} (hheld : s.holdsCmd (.anchorSet x0 e) x) {v : State}
    (hv : v = (s.onSite x.chamber (anchorStart ids 1 lo t acc)).freeNat.2.areaWrite (lo * 65536) (elemSize t) 65536
      ((s.weights k t).map fun p => (roundTo t p.1, p.2)))
    (hb : bodyAnchorSet x e s = ended ((v.poke ((v.site x.chamber).accAt 0) (zeros (hi * 65536 - (v.site x.chamber).accAt 0))).onSite x.chamber
      fun u => { u with anchored := true, seqSet := false }) sOk 1 1 []) :
    let ch := x.chamber
    ∃ u, Ends (.anchorSet x0 e) s x sOk 1 1 u ∧ (u.site ch).anchored = true ∧ (u.site ch).area = lo ∧ (u.site ch).blocks = 1 ∧ (u.site ch).regions = ids ∧
      (u.site ch).anchorType = t ∧ (u.site ch).seqSet = false ∧ (u.site ch).contrib = [] ∧ (u.site ch).peers = (s.site ch).peers ∧
      u.peek (lo * 65536) 65536 = padTo 65536 (((s.weights k t).map fun p => (roundTo t p.1, p.2)).flatMap fun p => leBytes (elemSize t) p.1) ∧
      u.regions = s.regions ∧ u.sync = s.sync := by
  intro ch
  obtain ⟨m, hm⟩ := areaWrite_frame (s.onSite x.chamber (anchorStart ids 1 lo t acc)).freeNat.2 (lo * 65536) (elemSize t) 65536
    ((s.weights k t).map fun p => (roundTo t p.1, p.2))
  have hkept : v.cmds = s.cmds ∧ v.regions = s.regions ∧ v.sync = s.sync ∧ v.site ch = anchorStart ids 1 lo t acc (s.site ch) := by
    rw [hv, hm]
    exact ⟨rfl, rfl, rfl, site_onSite ..⟩
  obtain ⟨vcmds, vregions, vsync, vsite⟩ := hkept
  have vpeek : v.peek (lo * 65536) 65536 = padTo 65536 (((s.weights k t).map fun p => (roundTo t p.1, p.2)).flatMap fun p => leBytes (elemSize t) p.1) := by
    rw [hv]
    exact peek_areaWrite ..
  have hacc : lo * 65536 + 65536 ≤ (v.site ch).accAt 0 := by
    have hat : (v.site ch).accAt 0 = lo * 65536 + 2 * 1 * 65536 + 0 * (v.site ch).accBytes := by
      rw [Site.accAt, vsite]
      rfl
    omega
  clear hv hm
  obtain ⟨w, hw⟩ : ∃ w, w = v.poke ((v.site ch).accAt 0) (zeros (hi * 65536 - (v.site ch).accAt 0)) := ⟨_, rfl⟩
  have wpeek : w.peek (lo * 65536) 65536 = v.peek (lo * 65536) 65536 := by
    rw [hw]
    exact peek_poke_out _ (.inl hacc)
  have wsite : w.site ch = anchorStart ids 1 lo t acc (s.site ch) := by
    rw [hw]
    exact vsite
  have hkept : w.cmds = v.cmds ∧ w.regions = v.regions ∧ w.sync = v.sync := by
    rw [hw]
    exact ⟨rfl, rfl, rfl⟩
  obtain ⟨wcmds, wregions, wsync⟩ := hkept
  rw [← hw] at hb
  obtain ⟨u, hu⟩ : ∃ u, u = w.onSite ch fun u => { u with anchored := true, seqSet := false } := ⟨_, rfl⟩
  have usite : u.site ch = { anchorStart ids 1 lo t acc (s.site ch) with anchored := true, seqSet := false } := by
    rw [hu, site_onSite, wsite]
  have hkept : u.cmds = w.cmds ∧ u.regions = w.regions ∧ u.sync = w.sync ∧ u.mem = w.mem := by
    rw [hu]
    exact ⟨rfl, rfl, rfl, rfl⟩
  obtain ⟨ucmds, uregions, usync, umem⟩ := hkept
  rw [← hu] at hb
  refine ⟨u, ends_runOp (runs_anchorSet hheld) hheld.2 hb (ucmds.trans (wcmds.trans vcmds)) (by decide), ?_⟩
  rw [usite]
  exact ⟨rfl, rfl, rfl, rfl, rfl, rfl, rfl, rfl, (peek_congr (congrArg Memory.bytes umem) _ _).trans (wpeek.trans vpeek),
    uregions.trans (wregions.trans vregions), usync.trans (wsync.trans vsync)⟩

/-! REPLICA_DIGEST of a region of one member (R377). -/

theorem bodyReplicaDigest_one {r : Region} (hwrite : e.writeErr = false) (hhandle : x.handle ≠ 0) (hregion : s.region x.handle.toNat = some r)
    (hmembers : r.coord.members = 1) :
    let d := sha 1 ([0x10] ++ leBytes 8 x.a.toNat ++ leBytes 4 1 ++ (leBytes 4 (r.coord.tensor 0).toNat ++ padTo 48 (r.coord.starts.flatMap (leBytes 8)) ++
      digestBytes (s.memberDigest r 0)))
    bodyReplicaDigest x e s = ended (s.poke x.b.toNat d) sOk (BitVec.ofNat 64 (leNat (d.take 8))) r.coord.leaves [] := by
  intro d
  have hn : ([r].map fun r => r.coord.members * r.coord.leaves).sum = r.coord.leaves := by simp [hmembers]
  unfold bodyReplicaDigest
  dsimp only
  rw [if_neg hhandle, hregion, hwrite, if_neg Bool.false_ne_true, Option.toList_some, hn]
  simp only [List.flatMap_cons, List.flatMap_nil, List.append_nil, hmembers, List.range_one, List.map_cons, List.map_nil, List.foldl_cons,
    List.foldl_nil, insertShard, List.length_cons, List.length_nil, Nat.zero_add]
  rfl

theorem replicaDigest_ends {r : Region} (hheld : s.holdsCmd (.replicaDigest x0 e) x) (hwrite : e.writeErr = false) (hhandle : x.handle ≠ 0)
    (hregion : s.region x.handle.toNat = some r) (hmembers : r.coord.members = 1) :
    let d := sha 1 ([0x10] ++ leBytes 8 x.a.toNat ++ leBytes 4 1 ++ (leBytes 4 (r.coord.tensor 0).toNat ++ padTo 48 (r.coord.starts.flatMap (leBytes 8)) ++
      digestBytes (s.memberDigest r 0)))
    Ends (.replicaDigest x0 e) s x sOk (BitVec.ofNat 64 (leNat (d.take 8))) r.coord.leaves (s.poke x.b.toNat d) :=
  ends_runOp (runs_replicaDigest hheld) hheld.2 (bodyReplicaDigest_one hwrite hhandle hregion hmembers) rfl (by decide)

/-! PEER_CONFIG (R373). -/

/-- The enabled peer PEER_CONFIG makes: empty rings where B and C say. -/
def peerEnabled (x : Sub) : Peer :=
  { Peer.zero with
    used := true, enabled := true, v2 := bit x.a 1, site := x.handle.toNat, rxBase := x.b.toNat, txBase := x.c.toNat, pages := fld x.d 23 0 }

/-- The peer PEER_CONFIG leaves disabled. -/
def peerDisabled (x : Sub) (t : Peer) : Peer :=
  { t with
    used := true, enabled := false, v2 := bit x.a 1, site := x.handle.toNat, rxBase := x.b.toNat, txBase := x.c.toNat, pages := fld x.d 23 0
    parkedAt := [] }

theorem bit_of_peerEnable (h : s.holdsCmd (.peerEnable x0 e) x) : bit x.a 0 = true := by
  obtain ⟨h, -⟩ := h
  cases h
  exact bit_setBit _ (by decide) _

theorem bit_of_peerDisable (h : s.holdsCmd (.peerDisable x0 e) x) : bit x.a 0 = false := by
  obtain ⟨h, -⟩ := h
  cases h
  exact bit_setBit _ (by decide) _

theorem peerEnable_ends (hheld : s.holdsCmd (.peerEnable x0 e) x) (hmode : (s.ch x.chamber).siteMode ≠ 0) (hbusy : s.siteBusy x = false)
    {own pages : Nat} (hown : fld x.a 13 8 = own) (hpages : fld x.d 23 0 = pages) (hzero : own ≠ 0) (hself : own ≠ x.handle.toNat)
    (hsame : (s.site x.chamber).own = 0 ∨ (s.site x.chamber).own = own) (hpeers : (s.site x.chamber).peers = .const .zero) (h18 : 18 ≤ pages)
    (hrx : s.ringBad x.chamber 0 x.b.toNat pages x.c.toNat = false) (htx : s.ringBad x.chamber 0 x.c.toNat pages x.b.toNat = false) :
    ∃ u, Ends (.peerEnable x0 e) s x sOk 0 0 u ∧ (u.site x.chamber).own = own ∧ (u.site x.chamber).peers.get 0 = peerEnabled x ∧
      u.mem = ((s.poke x.b.toNat (zeros 4096)).poke x.c.toNat (zeros 4096)).mem ∧ u.sync = s.sync := by
  have hb : bodyPeerConfig x s = done (((((s.onSite x.chamber fun u => { u with own := own }).onPeer x.chamber 0 fun _ => peerEnabled x).poke x.b.toNat
      (zeros 4096)).poke x.c.toNat (zeros 4096))) 0 := by
    unfold bodyPeerConfig
    dsimp only
    rw [hown, if_neg (by simp [hmode, hbusy]), if_neg (by omega), hpeers]
    show (if fld x.d 23 0 < 18 then _ else _) = _
    rw [hpages, if_neg (by omega), hrx, if_neg Bool.false_ne_true, htx, if_neg Bool.false_ne_true, bit_of_peerEnable hheld, if_pos rfl, ← hpages]
    rfl
  have hsite : ((s.onSite x.chamber fun u => { u with own := own }).onPeer x.chamber 0 fun _ => peerEnabled x).site x.chamber =
      { s.site x.chamber with own := own, peers := (s.site x.chamber).peers.modify 0 fun _ => peerEnabled x } := by
    rw [site_onPeer, site_onSite]
  obtain ⟨v, hv⟩ : ∃ v, v = (s.onSite x.chamber fun u => { u with own := own }).onPeer x.chamber 0 fun _ => peerEnabled x := ⟨_, rfl⟩
  have hkept : v.cmds = s.cmds ∧ v.mem = s.mem ∧ v.sync = s.sync := by
    rw [hv]
    exact ⟨rfl, rfl, rfl⟩
  obtain ⟨vcmds, vmem, vsync⟩ := hkept
  rw [← hv] at hb hsite
  clear hv
  obtain ⟨d, hd⟩ : ∃ d, d = zeros 4096 := ⟨_, rfl⟩
  rw [← hd] at hb ⊢
  refine ⟨(v.poke x.b.toNat d).poke x.c.toNat d, ends_runOp (runs_peerEnable hheld) hheld.2 hb vcmds (by decide), ?_, ?_, ?_, vsync⟩
  · exact congrArg Site.own hsite
  · exact (congrArg (fun u => u.peers.get 0) hsite).trans (get_modify_self ..)
  · rw [State.poke_mem, State.poke_mem, vmem]
    rfl

theorem missSite_idle {ch c : Nat} (hcontrib : (s.site ch).contrib = []) : s.missSite ch c = s := by
  unfold State.missSite
  rw [hcontrib]
  rfl

theorem peerDisable_ends {p : Nat} {q : Peer} (hheld : s.holdsCmd (.peerDisable x0 e) x) (hmode : (s.ch x.chamber).siteMode ≠ 0)
    (hbusy : s.siteBusy x = false) {own pages : Nat} (hown : fld x.a 13 8 = own) (hpages : fld x.d 23 0 = pages) (hzero : own ≠ 0)
    (hself : own ≠ x.handle.toNat) (hsame : (s.site x.chamber).own = 0 ∨ (s.site x.chamber).own = own)
    (hfind : (s.site x.chamber).peers.entries.find? (fun p => p.2.used && p.2.site == x.handle.toNat) = some (p, q)) (h18 : 18 ≤ pages)
    (hrx : s.ringBad x.chamber p x.b.toNat pages x.c.toNat = false) (htx : s.ringBad x.chamber p x.c.toNat pages x.b.toNat = false)
    (hstill : s.siteStill x.chamber = true) (hcontrib : (s.site x.chamber).contrib = []) :
    ∃ u, Ends (.peerDisable x0 e) s x sOk 0 0 u ∧ ((u.site x.chamber).peers.get p).enabled = false ∧
      ((u.site x.chamber).peers.get p).site = x.handle.toNat ∧ u.mem = s.mem ∧ u.sync = s.sync := by
  obtain ⟨-, -, hparked⟩ := siteStill_iff.mp hstill
  obtain ⟨v, hv⟩ : ∃ v, v = (s.onSite x.chamber fun u => { u with own := own }).onPeer x.chamber p (peerDisabled x) := ⟨_, rfl⟩
  have vsite : v.site x.chamber = { s.site x.chamber with own := own, peers := (s.site x.chamber).peers.modify p (peerDisabled x) } := by
    rw [hv, site_onPeer, site_onSite]
  have vcontrib : (v.site x.chamber).contrib = [] := by rw [vsite]; exact hcontrib
  have vparked : Unparked (v.site x.chamber) := by
    rw [vsite]
    exact set_unparked hparked rfl
  have hconfigured : v = (s.onSite x.chamber fun u => { u with own := own }).onPeer x.chamber p fun t => { t with
      used := true, enabled := false, v2 := bit x.a 1, site := x.handle.toNat, rxBase := x.b.toNat, txBase := x.c.toNat, pages := pages
      parkedAt := [] } := by
    rw [hv, ← hpages]
    rfl
  have hb : bodyPeerConfig x s = done v 0 := by
    unfold bodyPeerConfig
    dsimp only
    rw [hown, if_neg (by simp [hmode, hbusy]), if_neg (by omega), hfind]
    dsimp only
    rw [hpages, if_neg (by omega), hrx, if_neg Bool.false_ne_true, htx, if_neg Bool.false_ne_true, bit_of_peerDisable hheld,
      if_neg Bool.false_ne_true, ← hconfigured, missSite_idle vcontrib, reread_idle (by rw [vcontrib]; rfl) vparked]
  have hkept : v.cmds = s.cmds ∧ v.mem = s.mem ∧ v.sync = s.sync := by
    rw [hv]
    exact ⟨rfl, rfl, rfl⟩
  obtain ⟨vcmds, vmem, vsync⟩ := hkept
  have hget : (v.site x.chamber).peers.get p = peerDisabled x ((s.site x.chamber).peers.get p) := by
    rw [vsite]
    exact get_modify_self ..
  refine ⟨v, ends_runOp (runs_peerDisable hheld) hheld.2 hb vcmds (by decide), ?_, ?_, vmem, vsync⟩
  · rw [hget]
    rfl
  · rw [hget]
    rfl

end

/-- Settles O36: the checks pass by hypothesis, then each body writes what its lemma says. -/
theorem sitesAreSetUp : Obligations.SitesAreSetUp := by
  intro s x0 x e hread hwrite ch z t ids lo acc hi own site pages
  refine ⟨?_, ?_, ?_, ?_⟩
  · intro k hheld hmode hphase hbusy hbad hne hblk hsum hwin hregion hreserve hsite w hfinite
    exact anchorSet_ends hheld rfl (bodyAnchorSet_one rfl rfl rfl rfl rfl hread hwrite hmode hphase hbusy hbad hne hblk hsum hwin hregion hreserve
      hsite hfinite)
  · intro r hheld hhandle hregion hmembers
    exact replicaDigest_ends hheld hwrite hhandle hregion hmembers
  · intro hheld hmode hbusy hzero hself hsame hpeers h18 hrx htx
    exact peerEnable_ends hheld hmode hbusy rfl rfl hzero hself hsame hpeers h18 hrx htx
  · intro p q hheld hmode hbusy hzero hself hsame hfind h18 hrx htx hstill hcontrib
    exact peerDisable_ends hheld hmode hbusy rfl rfl hzero hself hsame hfind h18 hrx htx hstill hcontrib

end Sys2Proof.Proofs
end

section
/-! PROOFS. Block records, and the rings of a site's peers (R364, R365, R366). -/

namespace Sys2Proof.Proofs
open Sys2Proof Sys2Proof.Machine Sys2Proof.Laws

/-! Block records (Table 2 of chapter 13). -/

theorem leNat_leBytes (n v : Nat) : leNat (leBytes n v) = v % 256 ^ n := by
  induction n generalizing v with
  | zero => exact (Nat.mod_one v).symm
  | succ n ih =>
    rw [leBytes, leNat, ih, BitVec.toNat_ofNat, pow_succ' 256 n]
    exact Nat.mod_mul.symm

/-- A number stored in `n` bytes at `o` of a list. -/
theorem leAt_stored {l p r : List Byte} {o n v : Nat} (hl : l = p ++ (leBytes n v ++ r)) (hp : p.length = o) : leAt l o n = v % 256 ^ n := by
  have hbytes : (l.drop o).take n = leBytes n v := by
    rw [hl, ← hp, List.drop_left, List.take_append_of_le_length (by rw [leBytes_length]), List.take_of_length_le (by rw [leBytes_length])]
  unfold leAt bytesAt
  dsimp only
  rw [hbytes, leBytes_length, Nat.sub_self]
  exact (congrArg leNat (List.append_nil _)).trans (leNat_leBytes n v)

theorem ofNat_toNat_mod {w : Nat} (v : BitVec w) (m : Nat) (h : 2 ^ w = m) : BitVec.ofNat w (v.toNat % m) = v := by
  rw [← h, Nat.mod_eq_of_lt v.isLt, BitVec.ofNat_toNat, BitVec.setWidth_eq]

section
variable {s t : State} {ch n : Nat}

theorem bytes_length (r : BlkRec) : r.bytes.length = 64 := by
  simp only [BlkRec.bytes, List.length_append, leBytes_length, zeros, List.length_replicate]

/-- The flag byte of a record. -/
def recFlags (r : BlkRec) : Nat := b2n r.emitted + 2 * b2n r.applied + 4 * b2n r.void_ + 8 * b2n r.caught

theorem flags_bits (r : BlkRec) : let f : BitVec 8 := BitVec.ofNat 8 (recFlags r % 256 ^ 1)
    bit f 0 = r.emitted ∧ bit f 1 = r.applied ∧ bit f 2 = r.void_ ∧ bit f 3 = r.caught := by
  have hbits : ∀ a b c d : Bool, let f : BitVec 8 := BitVec.ofNat 8 ((b2n a + 2 * b2n b + 4 * b2n c + 8 * b2n d) % 256 ^ 1)
      bit f 0 = a ∧ bit f 1 = b ∧ bit f 2 = c ∧ bit f 3 = d := by decide
  exact hbits ..

/-- The record 64 bytes spell. -/
def recOf (l : List Byte) : BlkRec :=
  let f : BitVec 8 := BitVec.ofNat 8 (leAt l 16 1)
  ⟨BitVec.ofNat 64 (leAt l 0 8), BitVec.ofNat 64 (leAt l 8 8), bit f 0, bit f 1, bit f 2, bit f 3, leAt l 20 4,
    BitVec.ofNat 96 (leAt l 24 12), BitVec.ofNat 96 (leAt l 36 12)⟩

theorem siteRec_eq (s : State) (ch n : Nat) : s.siteRec ch n = recOf (s.peek ((s.site ch).recAt n) 64) := rfl

/-- A record's bytes spell the record, its length below 2^32. -/
theorem recOf_bytes (r : BlkRec) : recOf r.bytes = { r with n := r.n % 256 ^ 4 } := by
  have hmask : leAt r.bytes 0 8 = r.mask.toNat % 256 ^ 8 :=
    leAt_stored (p := []) (by simp only [BlkRec.bytes, List.append_assoc, List.nil_append]; rfl) rfl
  have hmissing : leAt r.bytes 8 8 = r.missing.toNat % 256 ^ 8 :=
    leAt_stored (p := leBytes 8 r.mask.toNat) (by simp only [BlkRec.bytes, List.append_assoc]; rfl) (leBytes_length ..)
  have hflags : leAt r.bytes 16 1 = recFlags r % 256 ^ 1 :=
    leAt_stored (p := leBytes 8 r.mask.toNat ++ leBytes 8 r.missing.toNat) (by simp only [BlkRec.bytes, List.append_assoc]; rfl)
      (by simp only [List.length_append, leBytes_length])
  have hn : leAt r.bytes 20 4 = r.n % 256 ^ 4 :=
    leAt_stored (p := leBytes 8 r.mask.toNat ++ leBytes 8 r.missing.toNat ++ leBytes 1 (recFlags r) ++ zeros 3)
      (by simp only [BlkRec.bytes, List.append_assoc]; rfl) (by simp only [List.length_append, leBytes_length, zeros, List.length_replicate])
  have hiv2 : leAt r.bytes 24 12 = r.iv2.toNat % 256 ^ 12 :=
    leAt_stored (p := leBytes 8 r.mask.toNat ++ leBytes 8 r.missing.toNat ++ leBytes 1 (recFlags r) ++ zeros 3 ++ leBytes 4 r.n)
      (by simp only [BlkRec.bytes, List.append_assoc]; rfl) (by simp only [List.length_append, leBytes_length, zeros, List.length_replicate])
  have hiv1 : leAt r.bytes 36 12 = r.iv1.toNat % 256 ^ 12 :=
    leAt_stored (p := leBytes 8 r.mask.toNat ++ leBytes 8 r.missing.toNat ++ leBytes 1 (recFlags r) ++ zeros 3 ++ leBytes 4 r.n ++ leBytes 12 r.iv2.toNat)
      (by simp only [BlkRec.bytes, List.append_assoc]; rfl) (by simp only [List.length_append, leBytes_length, zeros, List.length_replicate])
  obtain ⟨hemitted, happlied, hvoid, hcaught⟩ := flags_bits r
  unfold recOf
  dsimp only
  rw [hmask, hmissing, hflags, hn, hiv2, hiv1, hemitted, happlied, hvoid, hcaught, ofNat_toNat_mod _ _ (by decide), ofNat_toNat_mod _ _ (by decide),
    ofNat_toNat_mod _ _ (by decide), ofNat_toNat_mod _ _ (by decide)]

theorem onRec_frame (s : State) (ch n : Nat) (f : BlkRec → BlkRec) : ∃ m, s.onRec ch n f = { s with mem := m } := ⟨_, rfl⟩

@[simp] theorem site_onRec (s : State) (ch n : Nat) (f : BlkRec → BlkRec) : (s.onRec ch n f).site ch = s.site ch := by
  obtain ⟨m, hm⟩ := onRec_frame s ch n f
  rw [hm]
  rfl

theorem siteRec_onRec (s : State) (ch n : Nat) (f : BlkRec → BlkRec) :
    (s.onRec ch n f).siteRec ch n = { f (s.siteRec ch n) with n := (f (s.siteRec ch n)).n % 256 ^ 4 } := by
  have hpeek := peek_poke s ((s.site ch).recAt n) (f (s.siteRec ch n)).bytes
  rw [bytes_length] at hpeek
  rw [siteRec_eq, site_onRec, State.onRec, hpeek, recOf_bytes]

/-- A block's record depends on the place of the records and on its bytes. -/
theorem siteRec_congr (hat : (t.site ch).recAt n = (s.site ch).recAt n)
    (hbytes : ∀ k, (s.site ch).recAt n ≤ k → k < (s.site ch).recAt n + 64 → t.mem.bytes.get k = s.mem.bytes.get k) :
    t.siteRec ch n = s.siteRec ch n := by
  rw [siteRec_eq, siteRec_eq, hat, peek_congr_at hbytes]

end

/-! Settling: with nothing to add, nothing parked, no apply and no catch-up, only the counter of free values moves. -/

section
variable {s : State} {ch p : Nat} {e : Ext}

theorem applyGo_none {stop : Option Nat} (hrun : (s.site ch).run = none) : s.applyGo ch stop = s := by
  unfold State.applyGo
  dsimp only
  rw [hrun]

theorem siteSettle_idle (hown : (s.site ch).contrib.contains (s.site ch).own = false) (hparked : Unparked (s.site ch))
    (hrun : (s.site ch).run = none) : s.siteSettle ch e = { s with free := s.free + 1 } := by
  unfold State.siteSettle
  rw [reread_idle hown hparked]
  exact applyGo_none hrun

theorem serve_none (hserve : (s.site ch).serveQ = []) : s.serve ch = s := by
  unfold State.serve
  dsimp only
  rw [hserve]

theorem peerUp_iff : s.peerUp ch p = true ↔ s.serving = true ∧ s.pwr.state ≠ .pass ∧ (s.ch ch).siteMode ≠ 0 ∧ ((s.site ch).peers.get p).used = true ∧
    ((s.site ch).peers.get p).enabled = true ∧ ((s.site ch).peers.get p).quar = false ∧ ((s.site ch).peers.get p).parkedAt = [] := by
  simp [State.peerUp, and_assoc]

theorem not_contains_of_nil {u : Site} (h : u.contrib = []) : u.contrib.contains u.own = false := by rw [h]; rfl

/-! Polls (R364). -/

/-- A peer whose host-written counts are `rx` and `tx`. -/
def polled (rx tx : Nat) (t : Peer) : Peer := { t with rxProd := rx, txCons := tx }

theorem sdxPoll_counts (hread : e.readErr = false) (hup : s.peerUp ch p = true) (hstill : s.siteStill ch = true)
    (hcontrib : (s.site ch).contrib = []) {t : Peer} (ht : (s.site ch).peers.get p = t) {rx tx : Nat} (hrx : leNat (s.peek t.rxBase 8) = rx)
    (htx : leNat (s.peek (t.txBase + 64) 8) = tx) (hrxlo : t.rxProd ≤ rx) (hrxhi : rx ≤ t.rxCons + (t.pages - 1)) (htxlo : t.txCons ≤ tx)
    (htxhi : tx ≤ t.txProd) : s.sdxPoll ch p e = { s.onPeer ch p (polled rx tx) with free := s.free + 1 } := by
  obtain ⟨hserving, hpass, hmode, hused, henabled, hquar, hnone⟩ := peerUp_iff.mp hup
  obtain ⟨hrun, hserve, hparked⟩ := siteStill_iff.mp hstill
  rw [ht] at hused henabled hquar hnone
  obtain ⟨v, hv⟩ : ∃ v, v = s.onPeer ch p (polled rx tx) := ⟨_, rfl⟩
  have vsite : v.site ch = { s.site ch with peers := (s.site ch).peers.modify p (polled rx tx) } := by rw [hv, site_onPeer]
  have vquar : ((v.site ch).peers.get p).quar = false := by
    rw [vsite]
    exact (congrArg Peer.quar (get_modify_self ..)).trans (by rw [ht]; exact hquar)
  have vparked : Unparked (v.site ch) := by
    rw [vsite]
    exact set_unparked hparked (by rw [ht]; exact hnone)
  have hboth : ((s.onPeer ch p fun t => { t with rxProd := rx }).onPeer ch p fun t => { t with txCons := tx }) = v := by
    rw [onPeer_onPeer, hv]
    rfl
  unfold State.sdxPoll
  dsimp only
  rw [ht, hused, henabled, hserving, hread, if_neg (by simp [hmode, hpass]), hrx, htx, if_neg (show ¬(rx < t.rxProd ∨ t.rxCons + (t.pages - 1) < rx) by omega),
    if_neg (show ¬(tx < t.txCons ∨ t.txProd < tx) by omega), hboth, if_neg (by rw [vquar]; decide),
    siteSettle_idle (by rw [vsite]; exact not_contains_of_nil hcontrib) vparked (by rw [vsite]; exact hrun), serve_none (s := { v with free := v.free + 1 }) ((congrArg Site.serveQ vsite).trans hserve), hv]
  rfl

theorem sdxKick_polls {a : Access} {m : BitVec 15} {t : State} (hp : p < 15) (hopen : s.pageOpen a ch = true)
    (hbits : ∀ j, j < 15 → bit m j = (j == p)) (hpoll : s.sdxPoll ch p .good = t) : exec (.sdxKick a ch m) s = .next (t.answer a 0 0) := by
  refine congrArg Host.Outcome.next ((pageWrite_ok hopen).trans ?_)
  refine congrArg (fun t : State => t.answer a 0 0) ?_
  have hbit : bit m p = true := by rw [hbits p hp]; exact beq_self_eq_true p
  have hother : ∀ (w : State), ∀ q ∈ List.range 15, q ≠ p → (if bit m q then w.sdxPoll ch q .good else w) = w := fun w q hq hqp =>
    if_neg (by rw [hbits q (List.mem_range.mp hq)]; simpa using hqp)
  exact foldl_acts_once List.nodup_range (List.mem_range.mpr hp) _ ((if_pos hbit).trans hpoll) (hother s) (hother t)

/-! Frames (R365, R366). -/

/-- A peer whose ring has been read, and given up, up to `n`. -/
def received (n : Nat) (t : Peer) : Peer := { t with rxNext := n, rxCons := n }

/-- Publishing the count of a peer without parked frames. -/
theorem sdxConsume_next {n : Nat} {t : Peer} (ht : (s.site ch).peers.get p = t) (hnone : t.parkedAt = []) :
    (s.onPeer ch p fun t => { t with rxNext := n }).sdxConsume ch p = (s.onPeer ch p (received n)).poke (t.rxBase + 64) (leBytes 8 n) := by
  have hget : ((s.onPeer ch p fun t => { t with rxNext := n }).site ch).peers.get p = { t with rxNext := n } := by
    rw [site_onPeer]
    exact (get_modify_self ..).trans (by rw [ht])
  unfold State.sdxConsume
  dsimp only
  rw [hget]
  dsimp only
  rw [hnone, onPeer_onPeer]
  rfl

/-- A peer that may be read, with a page below its producer count, in an anchored chamber, is read. -/
theorem sdxReceive_reads {t : Peer} (hup : s.peerUp ch p = true) (ht : (s.site ch).peers.get p = t) (hanchored : (s.site ch).anchored = true)
    (hnext : t.rxNext < t.rxProd) : ¬((!t.used || !t.enabled || t.quar || !(s.site ch).anchored || (s.ch ch).siteMode == 0 || !s.serving ||
      s.pwr.state == .pass || decide (t.rxProd ≤ t.rxNext)) = true) := by
  obtain ⟨hserving, hpass, hmode, hused, henabled, hquar, -⟩ := peerUp_iff.mp hup
  rw [ht] at hused henabled hquar
  simp [hserving, hpass, hmode, hused, henabled, hquar, hanchored, hnext]

/-- A PAD is consumed (R364). -/
theorem sdxReceive_pad {t : Peer} (hread : e.readErr = false) (hup : s.peerUp ch p = true) (ht : (s.site ch).peers.get p = t)
    (hanchored : (s.site ch).anchored = true) (hnext : t.rxNext < t.rxProd) {f : SdxFrame} (hf : (s.sdxAt t t.rxNext).1 = f) (hkind : f.kind = 0)
    (hpos : 0 < f.n) (hin : t.rxNext + f.n ≤ t.rxProd) (hmagic : bytesAt (s.peek (ringAt t.rxBase t.pages t.rxNext) 64) 0 2 = [0x53, 0x58]) :
    s.sdxReceive ch p e = (s.onPeer ch p (received (t.rxNext + f.n))).poke (t.rxBase + 64) (leBytes 8 (t.rxNext + f.n)) := by
  obtain ⟨-, -, -, -, -, -, hnone⟩ := peerUp_iff.mp hup
  rw [ht] at hnone
  have hpages : min (max f.n 1) (t.rxProd - t.rxNext) = f.n := by omega
  unfold State.sdxReceive
  dsimp only
  rw [ht, if_neg (sdxReceive_reads hup ht hanchored hnext), hf, hread, hkind, hmagic, if_pos (by decide), if_pos rfl, hpages,
    if_neg (show ¬(t.rxProd < t.rxNext + f.n ∨ f.n = 0) by omega)]
  exact sdxConsume_next ht hnone

/-- `u` is `s` after the frame of peer `p` up to ring count `n` has been given up. -/
def GivenUp (ch p n : Nat) (s u : State) : Prop :=
  (∃ k, u.site ch = { s.site ch with peers := (s.site ch).peers.modify p (received n), parkedPeak := max (s.site ch).parkedPeak k }) ∧
    u.mem = (s.poke (((s.site ch).peers.get p).rxBase + 64) (leBytes 8 n)).mem ∧ u = { s with units := u.units, mem := u.mem, free := u.free }

theorem GivenUp.peer {n : Nat} {u : State} (h : GivenUp ch p n s u) : (u.site ch).peers.get p = received n ((s.site ch).peers.get p) := by
  obtain ⟨⟨k, hsite⟩, -⟩ := h
  rw [hsite]
  exact get_modify_self ..

/-- Giving up a frame leaves a record that the consumer count does not lie in. -/
theorem GivenUp.siteRec {n b : Nat} {u : State} (h : GivenUp ch p n s u)
    (hapart : ((s.site ch).peers.get p).rxBase + 72 ≤ (s.site ch).recAt b ∨ (s.site ch).recAt b + 64 ≤ ((s.site ch).peers.get p).rxBase + 64) :
    u.siteRec ch b = s.siteRec ch b := by
  obtain ⟨⟨k, hsite⟩, hmem, -⟩ := h
  refine siteRec_congr (by rw [hsite]; rfl) fun j hlo hhi => ?_
  rw [hmem]
  exact poke_get_out _ _ _ _ (by rw [leBytes_length]; omega)

/-- A frame that is handled and not parked is consumed, and the chamber settles; nothing is to be added and nothing runs. -/
theorem sdxReceive_handled {t t2 : Peer} {f : SdxFrame} {n : Nat} {s2 : State} (hgood : e = .good) (hup : s.peerUp ch p = true)
    (ht : (s.site ch).peers.get p = t) (hanchored : (s.site ch).anchored = true) (hnext : t.rxNext < t.rxProd) (hf : (s.sdxAt t t.rxNext).1 = f)
    (hkind : f.kind ≠ 0) (hn : t.rxNext + min (max (sdxPages f.n) 1) (t.rxProd - t.rxNext) = n)
    (hhandle : s.sdxHandle ch p t.rxNext false = (s2, false)) (ht2 : (s2.site ch).peers.get p = t2) (hnone : t2.parkedAt = [])
    (hown : (s2.site ch).contrib.contains (s2.site ch).own = false) (hparked : Unparked (s2.site ch)) (hrun : (s2.site ch).run = none) :
    ∃ u, s.sdxReceive ch p e = u ∧ GivenUp ch p n s2 u := by
  have hnotpad : (!Ext.good.readErr && f.kind == 0 && (bytesAt (s.peek (ringAt t.rxBase t.pages t.rxNext) 64) 0 2 == [0x53, 0x58])) = false := by
    rw [beq_eq_false_iff_ne.mpr hkind]
    rfl
  obtain ⟨v, hv⟩ : ∃ v, v = (s2.onPeer ch p (received n)).poke (t2.rxBase + 64) (leBytes 8 n) := ⟨_, rfl⟩
  have vsite : v.site ch = { s2.site ch with peers := (s2.site ch).peers.modify p (received n) } := by
    rw [hv]
    exact site_onPeer ..
  have hconsume : (s2.onPeer ch p fun t => { t with rxNext := n }).sdxConsume ch p = v := (sdxConsume_next ht2 hnone).trans hv.symm
  have hsettle : ∀ k, (v.onSite ch fun u => { u with parkedPeak := max u.parkedPeak k }).siteSettle ch e = { (v.onSite ch fun u => { u with parkedPeak := max u.parkedPeak k }) with free := v.free + 1 } := fun k =>
    siteSettle_idle (by rw [site_onSite, vsite]; exact hown) (by rw [site_onSite, vsite]; exact set_unparked hparked (by rw [ht2]; exact hnone))
      (by rw [site_onSite, vsite]; exact hrun)
  have vframe : v.mem = (s2.poke (t2.rxBase + 64) (leBytes 8 n)).mem ∧ v = { s2 with units := v.units, mem := v.mem } := by
    rw [hv]
    exact ⟨rfl, rfl⟩
  obtain ⟨vmem, vkept⟩ := vframe
  clear hv
  have hgiven : ∀ k, GivenUp ch p n s2 { (v.onSite ch fun u => { u with parkedPeak := max u.parkedPeak k }) with free := v.free + 1 } := fun k => by
    have hpeak : (v.onSite ch fun u => { u with parkedPeak := max u.parkedPeak k }).site ch = { s2.site ch with
        peers := (s2.site ch).peers.modify p (received n), parkedPeak := max (s2.site ch).parkedPeak k } := by
      rw [site_onSite, vsite]
    refine ⟨⟨k, hpeak⟩, by rw [ht2]; exact vmem, ?_⟩
    rw [vkept]
    rfl
  unfold State.sdxReceive
  dsimp only
  rw [ht, if_neg (sdxReceive_reads hup ht hanchored hnext), hf, if_neg (show ¬_ by rw [hgood, hnotpad]; decide), hgood]
  rw [show Ext.good.readErr = false from rfl, hhandle, if_neg (fun h => Bool.false_ne_true h.1), if_neg hkind, hn]
  simp only [Bool.false_eq_true, if_false]
  rw [hconsume, ← hgood, hsettle]
  exact ⟨_, rfl, hgiven _⟩

theorem sdxHandle_damaged {c : Nat} {t : Peer} (ht : (s.site ch).peers.get p = t) (hbad : (s.sdxAt t c).2.2.1 = false) :
    s.sdxHandle ch p c false = ({ s with ciph := { s.ciph with sdxMis := satAdd 16 s.ciph.sdxMis 1 } }, false) := by
  unfold State.sdxHandle
  dsimp only
  rw [ht, hbad]
  exact if_pos (.inr rfl)

theorem sdxOpen_unsealed {f : SdxFrame} (h : f.sealed = false) : s.sdxOpen ch f = .ok f.payload := by
  unfold State.sdxOpen
  rw [h]
  rfl

/-- A usable contribution, whole and in order, is added (orders 2 to 9 of Table 5). -/
theorem sdxHandle_contributes {c n : Nat} {t : Peer} {f : SdxFrame} {h : List Byte} {k : SiteBlk} {l : List (BitVec 32 × Bool)}
    (ht : (s.site ch).peers.get p = t) (hat : s.sdxAt t c = (f, h, true, false)) (hhead : s.sdxHeadOk ch t f h = true) (hkind : f.kind = 1)
    (hsealed : f.sealed = false) (hblock : s.sdxBlock ch f = some (n, k, 0)) (hclass : s.classify ch f n 0 = .use)
    (helems : sdxElems f f.payload (k.count (s.site ch).anchorType) false = some l) :
    s.sdxHandle ch p c false = (s.contribute ch n f.source l, false) := by
  have huse : s.sdxUse ch f n k 0 l = s.contribute ch n f.source l := by
    unfold State.sdxUse
    dsimp only
    rw [hkind]
    rfl
  unfold State.sdxHandle
  dsimp only
  rw [ht, hat]
  dsimp only
  rw [if_neg (show ¬(false = true ∨ (!true) = true) by decide), hhead, if_neg (by decide), hkind, if_neg (by decide), hblock]
  dsimp only
  rw [hclass]
  dsimp only
  rw [sdxOpen_unsealed hsealed]
  dsimp only
  rw [if_neg (by decide), helems]
  exact congrArg (·, false) huse

theorem contribute_frame (s : State) (ch n c : Nat) (d : List (BitVec 32 × Bool)) : ∃ m, s.contribute ch n c d = { s with mem := m } := by
  unfold State.contribute
  dsimp only
  obtain ⟨m, hm⟩ := areaWrite_frame s ((s.site ch).accAt n) 4 (s.site ch).accBytes ((List.range d.length).map fun i =>
    ((addF (((s.areaVals ((s.site ch).accAt n) 2 d.length).getD i (0, false)).1) (d.getD i (0, false)).1).toNat,
      ((s.areaVals ((s.site ch).accAt n) 2 d.length).getD i (0, false)).2 || (d.getD i (0, false)).2))
  rw [hm]
  exact onRec_frame ..

/-- A contributor below 64 is set in the block's mask. -/
theorem contribute_mask (s : State) (ch n : Nat) {c : Nat} (hc : c < 64) (d : List (BitVec 32 × Bool)) :
    bit ((s.contribute ch n c d).siteRec ch n).mask c = true := by
  obtain ⟨w, hw⟩ : ∃ w, s.contribute ch n c d = State.onRec w ch n fun r => { r with mask := setBit r.mask c true } := ⟨_, rfl⟩
  rw [hw, siteRec_onRec]
  exact bit_setBit _ hc _

end

/-- Settles O38: a poll moves the two counts; a page of a ring is given up whatever stood there, and a usable contribution is added first. -/
theorem peerRingsAreRead : Obligations.PeerRingsAreRead := by
  intro s ch p e f hgood hup hstill z t rx tx
  obtain ⟨-, -, -, -, -, -, hnone⟩ := peerUp_iff.mp hup
  obtain ⟨hrun, -, hparked⟩ := siteStill_iff.mp hstill
  have hread : e.readErr = false := by rw [hgood]; rfl
  refine ⟨?_, ?_, ?_, ?_⟩
  · intro hcontrib hrxlo hrxhi htxlo htxhi i hi
    have hexec : ∃ u, exec i s = .next u ∧ ∃ lanes, u = { s.onPeer ch p (polled rx tx) with free := s.free + 1, lanes := lanes } := by
      rcases hi with rfl | ⟨a, m, rfl, -, hp, hopen, hbits⟩
      · exact ⟨_, congrArg Host.Outcome.next (sdxPoll_counts hread hup hstill hcontrib rfl rfl rfl hrxlo hrxhi htxlo htxhi), _, rfl⟩
      · exact ⟨_, sdxKick_polls hp hopen hbits (sdxPoll_counts rfl hup hstill hcontrib rfl rfl rfl hrxlo hrxhi htxlo htxhi), _, rfl⟩
    obtain ⟨u, hu, lanes, rfl⟩ := hexec
    have hsite := site_onPeer s ch p (polled rx tx)
    refine ⟨_, hu, ?_, fun j hj => ?_, rfl⟩
    · exact (congrArg (fun v => v.peers.get p) hsite).trans (get_modify_self ..)
    · exact (congrArg (fun v => v.peers.get j) hsite).trans (get_modify_ne _ _ hj)
  · intro hcontrib hanchored hnext hf hkind hpos hin hmagic
    have hexec := sdxReceive_pad hread hup rfl hanchored hnext hf.symm hkind hpos hin hmagic
    have hsite := site_onPeer s ch p (received (t.rxNext + f.n))
    have hpeek := peek_poke (s.onPeer ch p (received (t.rxNext + f.n))) (t.rxBase + 64) (leBytes 8 (t.rxNext + f.n))
    rw [leBytes_length] at hpeek
    exact ⟨_, congrArg Host.Outcome.next hexec, (congrArg (fun v => v.peers.get p) hsite).trans (get_modify_self ..), hpeek, rfl⟩
  · intro hcontrib hanchored hnext hf hkind hbad
    obtain ⟨n, hn⟩ : ∃ n, t.rxNext + min (max (sdxPages f.n) 1) (t.rxProd - t.rxNext) = n := ⟨_, rfl⟩
    obtain ⟨u, hexec, hgiven⟩ := sdxReceive_handled hgood hup rfl hanchored hnext hf.symm hkind hn (sdxHandle_damaged rfl hbad) rfl hnone
      (not_contains_of_nil hcontrib) hparked hrun
    have hpeer : (u.site ch).peers.get p = received n t := hgiven.peer
    obtain ⟨-, -, hkept⟩ := hgiven
    refine ⟨u, congrArg Host.Outcome.next hexec, (congrArg State.ciph hkept).trans rfl, ?_⟩
    rw [hpeer]
    exact ⟨show t.rxNext < n by omega, rfl, rfl⟩
  · intro n k l hframe hkind hsealed hsource hblock hclass hcontrib hown helems hapart
    obtain ⟨hanchored, hin, hat, hhead⟩ := hframe
    have hmask := contribute_mask s ch n hsource l
    obtain ⟨m, hm⟩ := contribute_frame s ch n f.source l
    have hhandle := sdxHandle_contributes rfl hat hhead hkind hsealed hblock hclass helems
    rw [hm] at hmask hhandle
    have hother : z.contrib.contains z.own = false := by
      rw [hcontrib]
      simpa using hown
    have hwhole : t.rxNext + max (sdxPages f.n) 1 ≤ t.rxProd := hin
    have hpages : t.rxNext + min (max (sdxPages f.n) 1) (t.rxProd - t.rxNext) = t.rxNext + max (sdxPages f.n) 1 := by omega
    have hf : (s.sdxAt t t.rxNext).1 = f := congrArg Prod.fst hat
    obtain ⟨u, hexec, hgiven⟩ := sdxReceive_handled hgood hup rfl hanchored (show t.rxNext < t.rxProd by omega) hf (by rw [hkind]; decide) hpages
      hhandle rfl hnone hother hparked hrun
    have hrec := hgiven.siteRec hapart
    have hpeer : (u.site ch).peers.get p = received _ t := hgiven.peer
    obtain ⟨⟨k, hsite⟩, -⟩ := hgiven
    refine ⟨u, congrArg Host.Outcome.next hexec, by rw [hrec]; exact hmask, ?_, ?_, ?_, ?_⟩
    · rw [hpeer]
      rfl
    · rw [hpeer]
      rfl
    · rw [hsite]
      rfl
    · rw [hsite]
      rfl

end Sys2Proof.Proofs
end

section
/-! PROOFS. Loss recovery: NACKs, catch-up and the deadline of an apply (R368, R370, R371, R372). -/

namespace Sys2Proof.Proofs
open Sys2Proof Sys2Proof.Machine Sys2Proof.Laws

/-! Sending frames (R364). -/

section
variable {s w : State} {ch p : Nat}

/-- `w` differs from `s` in memory alone. -/
def MemOnly (s w : State) : Prop := ∃ m, w = { s with mem := m }

theorem MemOnly.refl (s : State) : MemOnly s s := ⟨s.mem, rfl⟩

theorem MemOnly.trans {v : State} (h : MemOnly s w) (g : MemOnly w v) : MemOnly s v := by
  obtain ⟨m, rfl⟩ := h
  obtain ⟨n, rfl⟩ := g
  exact ⟨n, rfl⟩

theorem MemOnly.poke (h : MemOnly s w) (a : Nat) (d : List Byte) : MemOnly s (w.poke a d) := h.trans ⟨_, rfl⟩

theorem MemOnly.ite {v : State} {c : Prop} [Decidable c] (h : MemOnly s w) (g : MemOnly s v) : MemOnly s (if c then w else v) := by
  split <;> assumption

theorem MemOnly.onSite (h : MemOnly s w) (ch : Nat) (f : Site → Site) : MemOnly (s.onSite ch f) (w.onSite ch f) := by
  obtain ⟨m, rfl⟩ := h
  exact ⟨m, rfl⟩

theorem MemOnly.onPeer (h : MemOnly s w) (ch p : Nat) (f : Peer → Peer) : MemOnly (s.onPeer ch p f) (w.onPeer ch p f) := h.onSite ..

/-- A peer whose transmit ring has been filled up to `n`. -/
def sent (n : Nat) (t : Peer) : Peer := { t with txProd := n }

/-- A frame sent moves the producer count past the frame, and a PAD where one was needed; beyond that only memory changes. -/
theorem sdxSend_frame {t : Peer} (ht : (s.site ch).peers.get p = t) (f : SdxFrame) (bad : Bool) {left : Nat}
    (hleft : t.pages - 1 - t.txProd % (t.pages - 1) = left) :
    MemOnly (s.onPeer ch p (sent (t.txProd + (if left < sdxPages f.n then left else 0) + sdxPages f.n))) (s.sdxSend ch p f bad) := by
  unfold State.sdxSend
  dsimp only
  rw [ht, hleft]
  simp only [decide_eq_true_eq]
  exact .poke (.onPeer (.ite (.trans (.poke (.ite (.poke (.refl _) ..) (.refl _)) ..) ⟨_, rfl⟩) (.poke (.ite (.poke (.refl _) ..) (.refl _)) ..)) ..) ..

/-- Without a PAD the count moves by the frame's pages. -/
theorem sdxSend_fits {t : Peer} (ht : (s.site ch).peers.get p = t) {f : SdxFrame} {n : Nat} (hn : sdxPages f.n = n) (bad : Bool)
    (hleft : n ≤ t.pages - 1 - t.txProd % (t.pages - 1)) : MemOnly (s.onPeer ch p (sent (t.txProd + n))) (s.sdxSend ch p f bad) := by
  have hframe := sdxSend_frame ht f bad rfl
  rwa [hn, if_neg (Nat.not_lt.mpr hleft), Nat.add_zero] at hframe

/-- A frame that carries a block's bytes takes 17 pages. -/
theorem sdxPages_block : sdxPages 65536 = 17 := by decide

theorem sdxBuild_plain (u : Site) (version kind codec type : Nat) (seq tensor : BitVec 32) (block : Nat) (payload : List Byte) :
    (sdxBuild u version kind codec type seq tensor block payload none).n = payload.length := rfl

theorem sdxPayload_noflow (version t : Nat) (d : List Byte) : sdxPayload false version t d = (0, d) := rfl

/-! Control frames received (R370, R371). -/

/-- A NACK or a CATCHUP_REQ in order is taken to its service. -/
theorem sdxHandle_control {c : Nat} {t : Peer} {f : SdxFrame} {h : List Byte} (ht : (s.site ch).peers.get p = t)
    (hat : s.sdxAt t c = (f, h, true, false)) (hhead : s.sdxHeadOk ch t f h = true) (hkind : f.kind = 3 ∨ f.kind = 4) (hsealed : f.sealed = false) :
    s.sdxHandle ch p c false = (if f.kind = 3 then s.nackIn ch p f f.payload else s.catchupIn ch p f, false) := by
  unfold State.sdxHandle
  dsimp only
  rw [ht, hat]
  dsimp only
  rw [if_neg (show ¬(false = true ∨ (!true) = true) by decide), hhead, if_neg (by decide), if_pos hkind, sdxOpen_unsealed hsealed]

theorem sdxKind_next {t : Peer} {f : SdxFrame} (ht : (s.site ch).peers.get p = t) (hnext : t.rxNext < t.rxProd)
    (hf : (s.sdxAt t t.rxNext).1 = f) : s.sdxKind ch p = some f.kind := by
  unfold State.sdxKind
  dsimp only
  rw [ht, if_pos hnext, hf]

/-- A NACK of another sequence than the last emitted one is ignored. -/
theorem nackIn_ignored {f : SdxFrame} (hseq : f.seq ≠ (s.site ch).emitted) (d : List Byte) :
    s.nackIn ch p f d = s.onSite ch fun u => { u with ignored := satAdd 16 u.ignored 1 } := by
  unfold State.nackIn
  dsimp only
  rw [beq_eq_false_iff_ne.mpr hseq, Bool.and_false, if_neg Bool.false_ne_true]

/-- A catch-up request for another sequence than the applied one is ignored. -/
theorem catchupIn_ignored {f : SdxFrame} (hseq : f.seq ≠ (s.site ch).applied) :
    s.catchupIn ch p f = s.onSite ch fun u => { u with ignored := satAdd 16 u.ignored 1 } := by
  unfold State.catchupIn
  dsimp only
  rw [beq_eq_false_iff_ne.mpr hseq, Bool.and_false, if_neg Bool.false_ne_true]

/-- The NACK lists the block of a set of one block. -/
def NackNames (k : SiteBlk) (d : List Byte) : Prop :=
  d.length = 16 ∧ BitVec.ofNat 32 (leAt d 0 4) = k.reg.coord.tensor k.m ∧ leAt d 4 6 ≤ k.b ∧ k.b < leAt d 4 6 + leAt d 12 4

/-- The own delta of the block a NACK names is sent again. -/
theorem sdxRebuild_one {k : SiteBlk} {d : List Byte} {t : Peer} (hunsealed : (s.ch ch).sealed = false) (hflow : (s.ch ch).flow = false)
    (hblks : s.blks ch = [(0, k)]) (hnames : NackNames k d) (hemitted : (s.siteRec ch 0).emitted = true) (hvoid : (s.siteRec ch 0).void_ = false)
    (ht : (s.site ch).peers.get p = t) (hleft : 17 ≤ t.pages - 1 - t.txProd % (t.pages - 1)) (hroom : t.txRoom 17 = true) :
    MemOnly (s.onPeer ch p (sent (t.txProd + 17))) (s.sdxRebuild ch p d) := by
  obtain ⟨hlen, htensor, hlo, hhi⟩ := hnames
  have hnamed : ((List.range (d.length / 16)).any fun i => BitVec.ofNat 32 (leAt d (16 * i) 4) == k.reg.coord.tensor k.m &&
      decide (leAt d (16 * i + 4) 6 ≤ k.b ∧ k.b < leAt d (16 * i + 4) 6 + leAt d (16 * i + 12) 4)) = true := by
    rw [hlen]
    simp [htensor, hlo, hhi]
  have hlength : (s.peek ((s.site ch).ownAt 0) 65536).length = 65536 := by simp [State.peek, Memory.read]
  unfold State.sdxRebuild
  dsimp only
  rw [hblks, List.foldl_cons, List.foldl_nil]
  dsimp only
  rw [if_neg (by rw [hnamed, hemitted, hunsealed]; exact Bool.false_ne_true), hvoid, hunsealed, hflow, ht]
  generalize s.peek ((s.site ch).ownAt 0) 65536 = b at hlength
  have hpages : sdxPages (sdxBuild (s.site ch) 2 1 0 (s.site ch).anchorType (s.site ch).emitted (k.reg.coord.tensor k.m) k.b b none).n = 17 := by
    rw [sdxBuild_plain, hlength, sdxPages_block]
  simp only [Bool.false_eq_true, if_false, sdxPayload_noflow]
  rw [hpages, if_pos hroom]
  exact sdxSend_fits ht hpages _ hleft

theorem blks_congr (hregions : w.regions = s.regions) (hids : (w.site ch).regions = (s.site ch).regions)
    (htype : (w.site ch).anchorType = (s.site ch).anchorType) : w.blks ch = s.blks ch := by
  have hlist : ∀ ids t, w.siteBlks ids t = s.siteBlks ids t := fun ids t => by
    unfold State.siteBlks State.region
    rw [hregions]
  unfold State.blks
  rw [hids, htype, hlist]

/-- A control frame in order is taken to its service, given up, and the chamber settles. -/
theorem sdxReceive_control {e : Ext} {t : Peer} {f : SdxFrame} {s2 : State} (hgood : e = .good) (hup : s.peerUp ch p = true)
    (ht : (s.site ch).peers.get p = t) (hframe : s.nextFrame ch p f) (hkind : f.kind = 3 ∨ f.kind = 4) (hsealed : f.sealed = false)
    (hs2 : (if f.kind = 3 then s.nackIn ch p f f.payload else s.catchupIn ch p f) = s2) (hnone : ((s2.site ch).peers.get p).parkedAt = [])
    (hcontrib : (s2.site ch).contrib = []) (hparked : Unparked (s2.site ch)) (hrun : (s2.site ch).run = none) :
    s.sdxKind ch p = some f.kind ∧ ∃ u, s.sdxReceive ch p e = u ∧ GivenUp ch p (t.rxNext + max (sdxPages f.n) 1) s2 u := by
  obtain ⟨hanchored, hin, hat, hhead⟩ := hframe
  rw [ht] at hin hat hhead
  have hpages : t.rxNext + min (max (sdxPages f.n) 1) (t.rxProd - t.rxNext) = t.rxNext + max (sdxPages f.n) 1 := by omega
  have hf : (s.sdxAt t t.rxNext).1 = f := congrArg Prod.fst hat
  have hnext : t.rxNext < t.rxProd := by omega
  have hhandle := sdxHandle_control ht hat hhead hkind hsealed
  rw [hs2] at hhandle
  refine ⟨sdxKind_next ht hnext hf, ?_⟩
  exact sdxReceive_handled hgood hup ht hanchored hnext hf (by omega) hpages hhandle rfl hnone (not_contains_of_nil hcontrib) hparked hrun

/-! The catch-up service (R371). -/

section
variable {k : SiteBlk} (hflow : (s.ch ch).flow = false) (hblks : s.blks ch = [(0, k)]) (houter : (s.site ch).outerUse = false)
include hblks houter

include hflow in
/-- A set of one block without outer state is served by one frame: its anchor. -/
theorem serveFrame_anchor (key : Option (BitVec 256 × BitVec 96)) : s.serveFrame ch 0 key = some (sdxBuild (s.site ch) 2 5 0 (s.site ch).anchorType
    (s.site ch).applied (k.reg.coord.tensor k.m) k.b (s.peek ((s.site ch).anchorAt 0) 65536) key) := by
  unfold State.serveFrame
  dsimp only
  have hget : [(0, k)][0 / (1 + 0)]? = some (0, k) := rfl
  rw [hblks, houter, hflow, if_neg Bool.false_ne_true, hget]
  dsimp only
  rw [sdxPayload_noflow]

theorem serveFrame_end (key : Option (BitVec 256 × BitVec 96)) : s.serveFrame ch 1 key = none := by
  unfold State.serveFrame
  dsimp only
  rw [hblks, houter, if_neg Bool.false_ne_true]
  rfl

end

/-- A site unit whose catch-up service has sent the frame at hand. -/
def served (n : Nat) (p : Nat) (u : Site) : Site := { u with peers := u.peers.modify p (sent n), serveAt := u.serveAt + 1 }

theorem serveLoop_one {k : SiteBlk} {t : Peer} (hunsealed : (s.ch ch).sealed = false) (hflow : (s.ch ch).flow = false) (hblks : s.blks ch = [(0, k)])
    (houter : (s.site ch).outerUse = false) (hat : (s.site ch).serveAt = 0) (ht : (s.site ch).peers.get p = t)
    (hleft : 17 ≤ t.pages - 1 - t.txProd % (t.pages - 1)) (hroom : t.txRoom 17 = true) (fuel : Nat) :
    ∃ v, s.serveLoop ch p (fuel + 2) = (v, true) ∧ MemOnly (s.onSite ch (served (t.txProd + 17) p)) v := by
  obtain ⟨f, hf⟩ : ∃ f, sdxBuild (s.site ch) 2 5 0 (s.site ch).anchorType (s.site ch).applied (k.reg.coord.tensor k.m) k.b
    (s.peek ((s.site ch).anchorAt 0) 65536) none = f := ⟨_, rfl⟩
  have hpages : sdxPages f.n = 17 := by
    have hlength : (s.peek ((s.site ch).anchorAt 0) 65536).length = 65536 := by simp [State.peek, Memory.read]
    rw [← hf, sdxBuild_plain, hlength, sdxPages_block]
  have hframe : s.serveFrame ch 0 none = some f := (serveFrame_anchor hflow hblks houter none).trans (congrArg some hf)
  obtain ⟨v, hv⟩ : ∃ v, v = (s.sdxSend ch p f false).onSite ch fun u => { u with serveAt := u.serveAt + 1 } := ⟨_, rfl⟩
  have hmem : MemOnly (s.onSite ch (served (t.txProd + 17) p)) v := by
    have hboth : ((s.onPeer ch p (sent (t.txProd + 17))).onSite ch fun u => { u with serveAt := u.serveAt + 1 }) =
        s.onSite ch (served (t.txProd + 17) p) := onSite_onSite ..
    rw [hv, ← hboth]
    exact (sdxSend_fits ht hpages false hleft).onSite ..
  have hsite : v.site ch = served (t.txProd + 17) p (s.site ch) := by
    obtain ⟨n, hn⟩ := hmem
    rw [hn]
    exact site_onSite ..
  have vblks : v.blks ch = [(0, k)] := by
    obtain ⟨n, hn⟩ := hmem
    exact (blks_congr (by rw [hn]; rfl) (by rw [hsite]; rfl) (by rw [hsite]; rfl)).trans hblks
  have hend : v.serveLoop ch p (fuel + 1) = (v, true) := by
    rw [State.serveLoop]
    dsimp only
    rw [show (v.site ch).serveAt = 1 by rw [hsite]; exact congrArg (· + 1) hat, serveFrame_end vblks (by rw [hsite]; exact houter)]
  refine ⟨v, ?_, hmem⟩
  rw [State.serveLoop]
  dsimp only
  rw [hat, hframe]
  dsimp only
  rw [ht, hpages, hroom, hunsealed, if_neg (by decide), if_neg (show ¬(false && _) = true from Bool.false_ne_true), if_neg Bool.false_ne_true]
  dsimp only
  rw [hframe]
  dsimp only
  rw [← hend, ← hv]

/-- A unit whose catch-up service begins. -/
def serveBegun (slot : Nat) (u : Site) : Site := { u with serveAt := 0, serveSlot := slot }

/-- The first waiting request is served to its end where no clamp is held. -/
theorem serve_first {v : State} {rest : List Nat} (hq : (s.site ch).serveQ = p :: rest) (hclamps : s.clamps = [])
    (hloop : ({ s with clamps := [serveClamp ch (s.site ch)] }.onSite ch (serveBegun (s.ch ch).keyActive)).serveLoop ch p
      ((s.site ch).blocks * 3 + 1) = (v, true)) :
    s.serve ch = { v with clamps := v.clamps.erase (serveClamp ch (s.site ch)) }.onSite ch fun u => { u with serveQ := rest, serveAt := 0 } := by
  unfold State.serve
  dsimp only
  rw [hq]
  dsimp only
  simp only [hclamps, List.contains_nil, List.any_nil, Bool.and_false, Bool.false_eq_true, if_false, List.nil_append]
  generalize hg : State.serveLoop _ ch p _ = g
  obtain rfl : (v, true) = g := by
    rw [← hg, ← hloop]
    rfl
  rfl

/-- A site unit that has served the catch-up request of peer `p`. -/
def caughtUp (slot n p : Nat) (u : Site) : Site := { u with serveQ := [], serveAt := 0, serveSlot := slot, peers := u.peers.modify p (sent n) }

/-- A catch-up request of the applied sequence is served at once where nothing holds the area. -/
theorem catchupIn_serves {k : SiteBlk} {t : Peer} {f : SdxFrame} (hunsealed : (s.ch ch).sealed = false) (hflow : (s.ch ch).flow = false)
    (hblks : s.blks ch = [(0, k)]) (hanchored : (s.site ch).anchored = true) (hset : (s.site ch).seqSet = true) (hmode : (s.ch ch).siteMode = 2)
    (hseq : f.seq = (s.site ch).applied) (hserve : (s.site ch).serveQ = []) (houter : (s.site ch).outerUse = false) (hblocks : 1 ≤ (s.site ch).blocks)
    (hclamps : s.clamps = []) (ht : (s.site ch).peers.get p = t) (hleft : 17 ≤ t.pages - 1 - t.txProd % (t.pages - 1)) (hroom : t.txRoom 17 = true) :
    MemOnly (s.onSite ch (caughtUp (s.ch ch).keyActive (t.txProd + 17) p)) (s.catchupIn ch p f) := by
  obtain ⟨q, hq⟩ : ∃ q, q = s.onSite ch fun u => { u with serveQ := u.serveQ ++ [p] } := ⟨_, rfl⟩
  have qsite : q.site ch = { s.site ch with serveQ := [p] } := by
    rw [hq, site_onSite, hserve]
    rfl
  have qclamps : q.clamps = [] := by
    rw [hq]
    exact hclamps
  obtain ⟨c, hc⟩ : ∃ c, c = serveClamp ch (q.site ch) := ⟨_, rfl⟩
  obtain ⟨w, hw⟩ : ∃ w, w = { q with clamps := [c] }.onSite ch (serveBegun (q.ch ch).keyActive) := ⟨_, rfl⟩
  have wsite : w.site ch = serveBegun (s.ch ch).keyActive { s.site ch with serveQ := [p] } := by
    rw [hw, ← qsite, hq]
    exact site_onSite ..
  have wblks : w.blks ch = [(0, k)] :=
    (blks_congr (by rw [hw, hq]; rfl) (by rw [wsite]; rfl) (by rw [wsite]; rfl)).trans hblks
  obtain ⟨fuel, hfuel⟩ : ∃ n, (s.site ch).blocks * 3 + 1 = n + 2 := ⟨(s.site ch).blocks * 3 - 1, by omega⟩
  obtain ⟨v, hv, hmem⟩ := serveLoop_one (s := w) (ch := ch) (p := p) (by rw [hw, hq]; exact hunsealed) (by rw [hw, hq]; exact hflow) wblks
    (by rw [wsite]; exact houter) (by rw [wsite]; rfl) (by rw [wsite]; exact ht) hleft hroom fuel
  have hin : s.catchupIn ch p f = q.serve ch := by
    unfold State.catchupIn
    dsimp only
    rw [hanchored, hset, hmode, hseq, if_pos (by simp), hq]
  have hblocks' : (q.site ch).blocks * 3 + 1 = fuel + 2 := by rw [qsite]; exact hfuel
  rw [hin, serve_first (by rw [qsite]) qclamps (by rw [hblocks', ← hc, ← hw]; exact hv), ← hc]
  obtain ⟨m, hm⟩ := hmem
  have hclamps' : v.clamps.erase c = s.clamps := by
    rw [hm, hw, hclamps]
    exact List.erase_cons_head ..
  obtain ⟨z, hz⟩ : ∃ z, z = ((s.onSite ch fun u => { u with serveQ := u.serveQ ++ [p] }).onSite ch (serveBegun (s.ch ch).keyActive)).onSite ch
      (served (t.txProd + 17) p) := ⟨_, rfl⟩
  have hv' : { v with clamps := s.clamps } = { z with mem := m } := by
    rw [hm, hw, hz, hq]
    rfl
  have hsites : z.onSite ch (fun u => { u with serveQ := [], serveAt := 0 }) = s.onSite ch (caughtUp (s.ch ch).keyActive (t.txProd + 17) p) := by
    rw [hz, onSite_onSite, onSite_onSite, onSite_onSite]
    rfl
  rw [hclamps', hv', ← hsites]
  exact ⟨m, rfl⟩

end

/-! The timers of an apply (R368, R370, R372). -/

section
variable {s : State} {ch p : Nat} {k : SiteBlk} {e : Ext}

/-- The room for a control frame of 16 bytes is one page. -/
theorem sdxPages_control : sdxPages 16 = 1 := by decide

theorem sdxControl_sends {t : Peer} {kind : Nat} {q : BitVec 32} {d : List Byte} (hunsealed : (s.ch ch).sealed = false)
    (ht : (s.site ch).peers.get p = t) (hlen : d.length = 16) (hpages : 2 ≤ t.pages) (hroom : t.txRoom 1 = true) :
    MemOnly (s.onPeer ch p (sent (t.txProd + 1))) (s.sdxControl ch p kind q d) := by
  have hmod : t.txProd % (t.pages - 1) < t.pages - 1 := Nat.mod_lt _ (by omega)
  unfold State.sdxControl
  dsimp only
  rw [ht, hlen, sdxPages_control, hroom, if_neg (by decide), hunsealed, if_neg Bool.false_ne_true]
  exact sdxSend_fits ht ((congrArg sdxPages ((sdxBuild_plain ..).trans hlen)).trans sdxPages_control) _ (by omega)

/-- The NACK for one missing block. -/
theorem sendNacks_one {t : Peer} {q : BitVec 32} {b : Nat} {v : BitVec 32} (hunsealed : (s.ch ch).sealed = false)
    (ht : (s.site ch).peers.get p = t) (hpages : 2 ≤ t.pages) (hroom : t.txRoom 1 = true) (fuel : Nat) :
    MemOnly (s.onPeer ch p (sent (t.txProd + 1))) (s.sendNacks ch p q (fuel + 2) [(v, b, 1)]) := by
  have hdone : ∀ w : State, w.sendNacks ch p q (fuel + 1) ([(v, b, 1)].drop 250) = w := fun _ => rfl
  rw [State.sendNacks.eq_3 _ _ _ _ _ _ (by simp), hdone]
  exact sdxControl_sends hunsealed ht (by simp [leBytes_length, zeros]) hpages hroom

/-- The lead timer asks a contributor whose block is missing, once. -/
theorem nackLeadTimer_asks {r : ApplyRun} {t : Peer} (hunsealed : (s.ch ch).sealed = false) (hblks : s.blks ch = [(0, k)])
    (hrun : (s.site ch).run = some r) (hcatchup : r.catchup = false) (hnacked : r.nacked = false) (hlead : r.lead ≠ 0)
    (ht : (s.site ch).peers.get p = t) (hpeers : (s.site ch).enabledPeers = [(p, t)]) (hv2 : t.v2 = true) (hnone : t.parkedAt = [])
    (hcontrib : (s.site ch).contrib.contains t.site = true) (happlied : (s.siteRec ch 0).applied = false)
    (hmask : bit (s.siteRec ch 0).mask t.site = false) (hpages : 2 ≤ t.pages) (hroom : t.txRoom 1 = true) :
    ∃ u, exec (.nackLeadTimer ch e) s = .next u ∧ (u.site ch).run = some { r with nacked := true } ∧
      ((u.site ch).peers.get p).txProd = t.txProd + 1 ∧ u.cmds = s.cmds ∧ u.fins = s.fins := by
  obtain ⟨w, hw⟩ : ∃ w, w = s.onSite ch fun u => { u with run := u.run.map fun r => { r with nacked := true } } := ⟨_, rfl⟩
  have wsite : w.site ch = { s.site ch with run := some { r with nacked := true } } := by
    rw [hw, site_onSite, hrun]
    rfl
  have wblks : w.blks ch = [(0, k)] := (blks_congr (by rw [hw]; rfl) (by rw [wsite]) (by rw [wsite])).trans hblks
  have wrec : w.siteRec ch 0 = s.siteRec ch 0 := siteRec_congr (by rw [wsite]; rfl) fun _ _ _ => by rw [hw]; rfl
  have hsent := sendNacks_one (s := w) (ch := ch) (p := p) (q := BitVec.ofNat 32 (fld r.sub.a 31 0)) (b := k.b) (v := k.reg.coord.tensor k.m)
    (by rw [hw]; exact hunsealed) (by rw [wsite]; exact ht) hpages hroom 0
  have hexec : exec (.nackLeadTimer ch e) s =
      .next (w.sendNacks ch p (BitVec.ofNat 32 (fld r.sub.a 31 0)) 2 [(k.reg.coord.tensor k.m, k.b, 1)]) := by
    refine congrArg Host.Outcome.next ?_
    rw [hrun]
    dsimp only
    rw [hcatchup, hnacked, beq_eq_false_iff_ne.mpr hlead, if_neg (by decide), ← hw, hpeers, List.foldl_cons, List.foldl_nil]
    dsimp only
    rw [hv2, hcontrib, if_neg (by decide), hnone, wblks]
    simp only [List.filterMap_cons, List.filterMap_nil, wrec, happlied, hmask]
    rfl
  obtain ⟨m, hm⟩ := hsent
  rw [hm] at hexec
  have hsite := site_onPeer w ch p (sent (t.txProd + 1))
  refine ⟨_, hexec, ?_, ?_, ?_, ?_⟩
  · exact (congrArg Site.run hsite).trans (by rw [wsite])
  · exact (congrArg (fun u => (u.peers.get p).txProd) hsite).trans (congrArg Peer.txProd (get_modify_self ..))
  · rw [hw]
    rfl
  · rw [hw]
    rfl

end

/-! Reading again, where nothing is parked, changes memory alone. -/

section
variable {s w : State} {ch : Nat}

theorem MemOnly.foldl {α : Type} {l : List α} {f : State × Bool → α → State × Bool} (hf : ∀ a k, MemOnly s a.1 → MemOnly s (f a k).1)
    {a : State × Bool} (h : MemOnly s a.1) : MemOnly s (l.foldl f a).1 := by
  induction l generalizing a with
  | nil => exact h
  | cons k l ih => exact ih (hf a k h)

theorem memOnly_onRec (s : State) (ch n : Nat) (f : BlkRec → BlkRec) : MemOnly s (s.onRec ch n f) := onRec_frame ..

theorem memOnly_missBlock (s : State) (ch n c : Nat) : MemOnly s (s.missBlock ch n c) := memOnly_onRec ..

theorem memOnly_contribute (s : State) (ch n c : Nat) (d : List (BitVec 32 × Bool)) : MemOnly s (s.contribute ch n c d) := contribute_frame ..

theorem memOnly_ownTurns (s : State) (ch : Nat) : MemOnly s (s.ownTurns ch).1 := by
  unfold State.ownTurns
  refine MemOnly.foldl ?_ (.refl s)
  rintro ⟨w, b⟩ k h
  have hmiss := fun c => h.trans (memOnly_missBlock w ch k.1 c)
  have hadd := fun c d => h.trans (memOnly_contribute w ch k.1 c d)
  dsimp only
  split
  · exact h
  · split
    · exact hmiss _
    · exact hadd _ _

theorem MemOnly.site (h : MemOnly s w) (ch : Nat) : w.site ch = s.site ch := by
  obtain ⟨m, rfl⟩ := h
  rfl

theorem memOnly_reread (fuel : Nat) : ∀ s : State, Unparked (s.site ch) → MemOnly s (s.reread ch fuel) := by
  induction fuel with
  | zero => exact fun s _ => .refl s
  | succ fuel ih =>
    intro s hparked
    have hturns := memOnly_ownTurns s ch
    have hparked' : Unparked ((s.ownTurns ch).1.site ch) := by rwa [hturns.site]
    unfold State.reread
    dsimp only
    rw [rereadPeers_idle hparked']
    split
    · exact hturns.trans (ih _ hparked')
    · exact hturns

end

/-! The end of an apply (R359, R369). -/

section
variable {s : State} {ch : Nat} {k : SiteBlk} {r : ApplyRun} {c : Cmd} {st : BitVec 16} {x : Sub}

theorem unparked_of_nil {u : Site} (h : u.peers.entries = []) : Unparked u := by
  intro p hp
  rw [h] at hp
  nomatch hp

/-- The end of a command whose status word lies in its chamber leaves the site units, memory, the regions and the keys. -/
theorem conclude_inside {v : BitVec 64} {n : Nat} {l : List (BitVec 64)} (hc : s.cmd? x = some c) (htwin : c.twin = false) (hst : isRefusal st = false)
    (hext : extStatus x = false) : let t := conclude x (ended s st v n l)
    t.fins = s.fins ++ [⟨x.chamber, x.sq, x.cid, st, v⟩] ∧ t.cmds = s.cmds.filter (fun d => !isCmd x d) ∧ t.units = s.units ∧ t.mem = s.mem ∧
      t.regions = s.regions ∧ t.keys = s.keys := by
  obtain ⟨hfins, hcmds, -, hleft, -, hrest⟩ := completed_conclude (r := v) (n := n) (l := l) hc htwin hst rfl
  refine ⟨hfins, hcmds, (congrArg State.units hrest).trans rfl, ?_, (congrArg State.regions hrest).trans rfl, (congrArg State.keys hrest).trans rfl⟩
  unfold StatusLeft at hleft
  dsimp only at hleft
  split at hleft
  · exact hleft.2
  · rw [hext, if_neg Bool.false_ne_true] at hleft
    exact hleft.1

/-- A catch-up that is not whole ends with its status; what it has applied stays as it was. -/
theorem applyOver_catchup (hrun : (s.site ch).run = some r) (hcatchup : r.catchup = true) (hc : s.cmd? r.sub = some c) (htwin : c.twin = false)
    (hext : extStatus r.sub = false) (hserve : (s.site ch).serveQ = []) (hparked : Unparked (s.site ch)) : let t := s.applyOver ch sOkPartial
    t.fins = s.fins ++ [⟨r.sub.chamber, r.sub.sq, r.sub.cid, sOkPartial, r.sites⟩] ∧ t.site ch = { s.site ch with run := none } := by
  intro t
  obtain ⟨w, hw⟩ : ∃ w, w = s.onSite ch fun u => { u with run := none } := ⟨_, rfl⟩
  have wsite : w.site ch = { s.site ch with run := none } := by rw [hw, site_onSite]
  have hcw : w.cmd? r.sub = some c := by rw [hw]; exact hc
  obtain ⟨vfins, -, vunits, -⟩ := conclude_inside (v := r.sites) (n := r.done) (l := r.words) hcw htwin (st := sOkPartial) (by decide) hext
  obtain ⟨v, hv⟩ : ∃ v, v = conclude r.sub (ended w sOkPartial r.sites r.done r.words) := ⟨_, rfl⟩
  rw [← hv] at vfins vunits
  have vsite : v.site ch = { s.site ch with run := none } := by
    rw [← wsite]
    exact congrArg (fun m : SMap ChUnit => (m.get ch).site) vunits
  have ht : t = (v.reread ch (v.rereadFuel ch)).serve ch := by
    show s.applyOver ch sOkPartial = _
    unfold State.applyOver
    dsimp only
    rw [hrun]
    dsimp only
    rw [hcatchup, if_pos rfl, if_neg (show ¬sOkPartial = sOk by decide), if_pos rfl, if_pos (by decide), hv, hw]
  have hmem := memOnly_reread (v.rereadFuel ch) v (by rw [vsite]; exact hparked)
  have hq : ((v.reread ch (v.rereadFuel ch)).site ch).serveQ = [] := by
    rw [hmem.site, vsite]
    exact hserve
  rw [ht, serve_none hq, hmem.site]
  obtain ⟨m, hm⟩ := hmem
  refine ⟨?_, vsite⟩
  rw [hm]
  refine vfins.trans ?_
  rw [hw]
  rfl

/-- The sites whose contributions an apply counted: those of the set that missed no block. -/
def applied (u : Site) (r : ApplyRun) : BitVec 64 := (u.contrib.filter fun c => !bit r.sites c).foldl (fun v c => setBit v c true) (0 : BitVec 64)

/-- A unit whose apply is over. -/
def appliedTo (q : BitVec 32) (u : Site) : Site := { u with run := none, applied := q, contrib := [] }

/-- An apply of one block that has come to its end: the sequence is applied and the record free for the next. -/
theorem applyOver_applied (hblks : s.blks ch = [(0, k)]) (hrun : (s.site ch).run = some r) (hcatchup : r.catchup = false)
    (hst : (st == sOk || st == sOkPartial || st == sApplyNonfinite) = true) (hc : s.cmd? r.sub = some c) (htwin : c.twin = false)
    (hext : extStatus r.sub = false) (hserve : (s.site ch).serveQ = []) (hparked : Unparked (s.site ch)) : let t := s.applyOver ch st
    t.fins = s.fins ++ [⟨r.sub.chamber, r.sub.sq, r.sub.cid, st, applied (s.site ch) r⟩] ∧ t.cmds = s.cmds.filter (fun d => !isCmd r.sub d) ∧
      t.site ch = appliedTo (BitVec.ofNat 32 (fld r.sub.a 31 0)) (s.site ch) ∧ (t.siteRec ch 0).mask = (s.siteRec ch 0).mask ∧ t.keys = s.keys := by
  intro t
  have hrefusal : isRefusal st = false := by
    simp only [Bool.or_eq_true, beq_iff_eq] at hst
    rcases hst with (rfl | rfl) | rfl <;> decide
  obtain ⟨q, hq⟩ : ∃ q, q = BitVec.ofNat 32 (fld r.sub.a 31 0) := ⟨_, rfl⟩
  obtain ⟨w, hw⟩ : ∃ w, w = s.onSite ch fun u => { u with run := none } := ⟨_, rfl⟩
  have wsite : w.site ch = { s.site ch with run := none } := by rw [hw, site_onSite]
  have wblks : w.blks ch = [(0, k)] := (blks_congr (by rw [hw]; rfl) (by rw [wsite]) (by rw [wsite])).trans hblks
  have wrec : w.siteRec ch 0 = s.siteRec ch 0 := siteRec_congr (by rw [wsite]; rfl) fun _ _ _ => by rw [hw]; rfl
  obtain ⟨y, hy⟩ : ∃ y, y = w.onRec ch 0 fun r => { r with applied := false } := ⟨_, rfl⟩
  have ysite : y.site ch = w.site ch := by rw [hy, site_onRec]
  have yrec : (y.siteRec ch 0).mask = (s.siteRec ch 0).mask := by rw [hy, siteRec_onRec, wrec]
  obtain ⟨m, hm⟩ := onRec_frame w ch 0 fun r => { r with applied := false }
  rw [← hy] at hm
  have ykept : y.cmds = s.cmds ∧ y.fins = s.fins ∧ y.keys = s.keys := by
    rw [hm, hw]
    exact ⟨rfl, rfl, rfl⟩
  obtain ⟨ycmds, yfins, ykeys⟩ := ykept
  obtain ⟨z, hz⟩ : ∃ z, z = y.onSite ch fun u => { u with applied := q, contrib := [] } := ⟨_, rfl⟩
  have zsite : z.site ch = appliedTo q (s.site ch) := by
    rw [hz, site_onSite, ysite, wsite]
    rfl
  have zrec : z.siteRec ch 0 = y.siteRec ch 0 := siteRec_congr (by rw [zsite, ysite, wsite]; rfl) fun _ _ _ => by rw [hz]; rfl
  have zkept : z.cmds = y.cmds ∧ z.fins = y.fins ∧ z.keys = y.keys := by
    rw [hz]
    exact ⟨rfl, rfl, rfl⟩
  obtain ⟨zcmds, zfins, zkeys⟩ := zkept
  have hcz : z.cmd? r.sub = some c := by
    rw [State.cmd?, zcmds, ycmds]
    exact hc
  obtain ⟨vfins, vcmds, vunits, vmem, -, vkeys⟩ := conclude_inside (v := applied (s.site ch) r) (n := r.done) (l := r.words) hcz htwin hrefusal hext
  obtain ⟨v, hv⟩ : ∃ v, v = conclude r.sub (ended z st (applied (s.site ch) r) r.done r.words) := ⟨_, rfl⟩
  rw [← hv] at vfins vcmds vunits vmem vkeys
  have vsite : v.site ch = appliedTo q (s.site ch) := by
    rw [← zsite]
    exact congrArg (fun m : SMap ChUnit => (m.get ch).site) vunits
  have vrec : v.siteRec ch 0 = z.siteRec ch 0 := siteRec_congr (by rw [vsite, zsite]) fun _ _ _ => by rw [vmem]
  have ht : t = (v.reread ch (v.rereadFuel ch)).serve ch := by
    show s.applyOver ch st = _
    unfold State.applyOver
    dsimp only
    rw [hrun]
    dsimp only
    rw [hcatchup, hst, if_neg Bool.false_ne_true, if_neg Bool.false_ne_true, if_pos rfl, if_pos rfl, ← hw, wblks, List.foldl_cons, List.foldl_nil,
      ← hq, ← hy, ← hz, hv]
    rfl
  have hidle : t = v := by
    rw [ht, reread_idle (by rw [vsite]; rfl) (by rw [vsite]; exact hparked), serve_none (by rw [vsite]; exact hserve)]
  rw [hidle]
  refine ⟨vfins.trans (by rw [zfins, yfins]), vcmds.trans (by rw [zcmds, ycmds]), vsite.trans (by rw [hq]), ?_, vkeys.trans (zkeys.trans ykeys)⟩
  rw [vrec, zrec, yrec]

/-! Applying a block (R368). -/

/-- How many contributions of a block are in its accumulator. -/
def addedOf (s : State) (ch n : Nat) : Nat :=
  ((s.site ch).contrib.filter fun c => bit (s.siteRec ch n).mask c && !bit (s.siteRec ch n).missing c).length

/-- What an apply counts for a block. -/
def ApplyCounted (s : State) (ch n : Nat) (bad : Bool) (q : ApplyRun) : ApplyRun :=
  { q with
    done := q.done + 1, skippedBlocks := q.skippedBlocks + b2n (addedOf s ch n == 0)
    renorm := q.renorm + b2n (decide (0 < addedOf s ch n ∧ addedOf s ch n < (s.site ch).contrib.length))
    nonfinite := q.nonfinite + b2n bad, sites := q.sites ||| (s.siteRec ch n).missing }

/-- The outer program's effect on a block, or none where the block is skipped or an output is not finite. -/
def OuterDone (s : State) (ch : Nat) (run : ApplyRun) (n : Nat) (k : SiteBlk) (w : State) (bad : Bool) : Prop :=
  if addedOf s ch n = 0 then w = s ∧ bad = false
  else s.outerRun ch run n k (addedOf s ch n) (s.site ch).contrib.length = some w ∧ bad = false ∨
    s.outerRun ch run n k (addedOf s ch n) (s.site ch).contrib.length = none ∧ w = s ∧ bad = true

/-- A block that is applied: its accumulator is cleared, its record says so, the run counts it. -/
theorem applyBlock_counts {run : ApplyRun} {n : Nat} {w : State} {bad : Bool} (hdone : OuterDone s ch run n k w bad)
    (hsite : w.site ch = s.site ch) : let t := s.applyBlock ch run n k
    t.site ch = { s.site ch with run := (s.site ch).run.map (ApplyCounted s ch n bad) } ∧ (t.siteRec ch n).applied = true ∧ (t.siteRec ch n).mask = 0 ∧
      t = { w with units := t.units, mem := t.mem } := by
  intro t
  obtain ⟨p, hp⟩ : ∃ p, p = w.poke ((s.site ch).accAt n) (zeros (s.site ch).accBytes) := ⟨_, rfl⟩
  obtain ⟨y, hy⟩ : ∃ y, y = p.onRec ch n fun r => { r with mask := 0, missing := 0, applied := true } := ⟨_, rfl⟩
  have ht : t = y.onSite ch fun u => { u with run := u.run.map (ApplyCounted s ch n bad) } := by
    show s.applyBlock ch run n k = _
    unfold State.applyBlock
    dsimp only
    unfold OuterDone addedOf at hdone
    split at hdone
    · next h0 =>
      obtain ⟨rfl, rfl⟩ := hdone
      rw [if_pos h0, hy, hp]
      rfl
    · next h0 =>
      rcases hdone with ⟨hsome, rfl⟩ | ⟨hnone, rfl, rfl⟩
      · rw [if_neg h0, hsome, hy, hp]
        rfl
      · rw [if_neg h0, hnone, hy, hp]
        rfl
  have psite : p.site ch = s.site ch := by
    rw [hp]
    exact hsite
  have ysite : y.site ch = s.site ch := by rw [hy, site_onRec, psite]
  have yrec := siteRec_onRec p ch n fun r => { r with mask := 0, missing := 0, applied := true }
  rw [← hy] at yrec
  have tsite : t.site ch = { s.site ch with run := (s.site ch).run.map (ApplyCounted s ch n bad) } := by rw [ht, site_onSite, ysite]
  have trec : t.siteRec ch n = y.siteRec ch n := siteRec_congr (by rw [tsite, ysite]; rfl) fun _ _ _ => by rw [ht]; rfl
  obtain ⟨m, hm⟩ := onRec_frame p ch n fun r => { r with mask := 0, missing := 0, applied := true }
  refine ⟨tsite, by rw [trec, yrec], by rw [trec, yrec], ?_⟩
  rw [ht, hy, hm, hp]
  rfl

/-- The words an apply's end decides by: the status where every block has been applied. -/
def applyStatus (u : Site) (r : ApplyRun) : BitVec 16 :=
  if r.nonfinite ≠ 0 then sApplyNonfinite
  else if r.sites &&& ~~~(1#64 <<< u.own) ≠ 0 ∨ r.skippedBlocks ≠ 0 then sOkPartial else sOk

/-- With its one block ready, an apply applies it and ends. -/
theorem applyGo_ends {run : ApplyRun} {w : State} (hblks : s.blks ch = [(0, k)]) (hrun : (s.site ch).run = some run) (hcatchup : run.catchup = false)
    (hpending : (s.siteRec ch 0).applied = false) (hready : ((s.site ch).contrib.all fun c => bit (s.siteRec ch 0).mask c) = true)
    (hw : w = s.applyBlock ch run 0 k) (hwrun : (w.site ch).run = some r) (hwblks : w.blks ch = [(0, k)]) (happlied : (w.siteRec ch 0).applied = true) :
    s.applyGo ch none = w.applyOver ch (applyStatus (s.site ch) r) := by
  have hl : s.readyBlks ch = [(0, k)] := by
    unfold State.readyBlks
    dsimp only
    rw [hblks, List.filter_cons_of_pos, List.filter_nil]
    rw [hpending, hready]
    rfl
  unfold State.applyGo
  dsimp only
  rw [hrun]
  dsimp only
  rw [hcatchup, if_neg Bool.false_ne_true, hl]
  rw [List.foldl_cons, List.foldl_nil, ← hw, hwrun]
  dsimp only
  rw [hwblks]
  simp only [List.all_cons, List.all_nil, happlied, Bool.and_true, if_true]
  rfl

/-! The deadline (R368). -/

/-- The first unapplied block that a contributor misses. -/
def gapOf (s : State) (ch : Nat) : Option (Nat × Nat) :=
  (s.blks ch).findSome? fun k => if (s.siteRec ch k.1).applied then none
    else ((s.site ch).contrib.find? fun c => !bit (s.siteRec ch k.1).mask c).map fun c => (k.1, c)

theorem missAll_none {w : State} {fuel : Nat} (hreread : s.reread ch (s.rereadFuel ch) = w) (hgap : gapOf w ch = none) :
    s.missAll ch (fuel + 1) = w := by
  rw [State.missAll]
  dsimp only
  rw [hreread]
  unfold gapOf at hgap
  rw [hgap]

theorem missAll_some {w : State} {fuel n d : Nat} (hreread : s.reread ch (s.rereadFuel ch) = w) (hgap : gapOf w ch = some (n, d)) :
    s.missAll ch (fuel + 1) = (w.missBlock ch n d).missAll ch fuel := by
  rw [State.missAll]
  dsimp only
  rw [hreread]
  unfold gapOf at hgap
  rw [hgap]

theorem gapOf_one {d : Nat} (hblks : s.blks ch = [(0, k)]) (hcontrib : (s.site ch).contrib = [d]) (hpending : (s.siteRec ch 0).applied = false) :
    gapOf s ch = if bit (s.siteRec ch 0).mask d then none else some (0, d) := by
  unfold gapOf
  rw [hblks, hcontrib]
  cases hbit : bit (s.siteRec ch 0).mask d <;> simp [hpending, hbit]

theorem missBlock_rec (s : State) (ch n : Nat) {d : Nat} (hd : d < 64) : let r := (s.missBlock ch n d).siteRec ch n
    r.applied = (s.siteRec ch n).applied ∧ bit r.mask d = true ∧ bit r.missing d = true := by
  intro r
  have hr : r = _ := siteRec_onRec s ch n fun r => { r with mask := setBit r.mask d true, missing := setBit r.missing d true }
  rw [hr]
  exact ⟨rfl, bit_setBit _ hd _, bit_setBit _ hd _⟩

/-- The one contributor, another site's, whose block is missing is marked missing. -/
theorem missAll_one {d fuel : Nat} (hblks : s.blks ch = [(0, k)]) (hcontrib : (s.site ch).contrib = [d]) (hown : d ≠ (s.site ch).own) (hd : d < 64)
    (hparked : Unparked (s.site ch)) (hpending : (s.siteRec ch 0).applied = false) (hmask : bit (s.siteRec ch 0).mask d = false) :
    s.missAll ch (fuel + 2) = s.missBlock ch 0 d := by
  have hother : (s.site ch).contrib.contains (s.site ch).own = false := by
    rw [hcontrib]
    simpa using Ne.symm hown
  obtain ⟨happlied, hset, -⟩ := missBlock_rec s ch 0 hd
  have hmem := memOnly_missBlock s ch 0 d
  generalize hw : s.missBlock ch 0 d = w at happlied hset hmem ⊢
  have wsite := hmem.site ch
  have wblks : w.blks ch = [(0, k)] := by
    obtain ⟨m, hm⟩ := hmem
    rw [hm]
    exact hblks
  have hnext : w.missAll ch (fuel + 1) = w := by
    refine missAll_none (reread_idle (by rw [wsite]; exact hother) (by rw [wsite]; exact hparked) _) ?_
    rw [gapOf_one wblks (by rw [wsite]; exact hcontrib) (happlied.trans hpending), hset, if_pos rfl]
  have hgap : gapOf s ch = some (0, d) := by rw [gapOf_one hblks hcontrib hpending, hmask, if_neg Bool.false_ne_true]
  rw [missAll_some (reread_idle hother hparked _) hgap, hw]
  exact hnext

/-- The deadline acts on the state that has drawn a free value. -/
theorem exec_deltaDeadline (s : State) (ch : Nat) (e : Ext) : exec (.deltaDeadline ch e) s =
    .next ({ s with free := s.free + 1 }.atDeadline ch (if e.writeErr then some s.freeNat.1 else none)) := rfl

/-- A catch-up that is not whole at its deadline ends with OK_PARTIAL. -/
theorem deltaDeadline_catchup {e : Ext} (hblks : s.blks ch = [(0, k)]) (hrun : (s.site ch).run = some r) (hcatchup : r.catchup = true)
    (hpart : (s.siteRec ch 0).caught = false) (hc : s.cmd? r.sub = some c) (htwin : c.twin = false) (hext : extStatus r.sub = false)
    (hserve : (s.site ch).serveQ = []) (hparked : Unparked (s.site ch)) :
    ∃ u, exec (.deltaDeadline ch e) s = .next u ∧ u.fins = s.fins ++ [⟨r.sub.chamber, r.sub.sq, r.sub.cid, sOkPartial, r.sites⟩] ∧
      u.site ch = { s.site ch with run := none } := by
  obtain ⟨w, hw⟩ : ∃ w, w = { s with free := s.free + 1 } := ⟨_, rfl⟩
  have hexec := exec_deltaDeadline s ch e
  rw [← hw] at hexec
  have hkept : w.site ch = s.site ch ∧ w.blks ch = s.blks ch ∧ w.siteRec ch 0 = s.siteRec ch 0 ∧ w.cmd? r.sub = s.cmd? r.sub ∧ w.fins = s.fins := by
    rw [hw]
    exact ⟨rfl, rfl, rfl, rfl, rfl⟩
  obtain ⟨wsite, wblks, wrec, wcmd, wfins⟩ := hkept
  obtain ⟨hfins, hsite⟩ := applyOver_catchup (s := w) (by rw [wsite]; exact hrun) hcatchup (wcmd.trans hc) htwin hext (by rw [wsite]; exact hserve)
    (by rw [wsite]; exact hparked)
  have hover : w.atDeadline ch (if e.writeErr then some s.freeNat.1 else none) = w.applyOver ch sOkPartial := by
    unfold State.atDeadline
    dsimp only
    rw [wsite, hrun]
    dsimp only
    rw [hcatchup, if_pos rfl, wblks, hblks]
    simp only [List.all_cons, wrec, hpart, Bool.false_and, Bool.false_eq_true, if_false]
  rw [hover] at hexec
  exact ⟨_, hexec, hfins.trans (by rw [wfins]), hsite.trans (by rw [wsite])⟩

/-- An apply whose one contributor is marked missing skips the block and ends with OK_PARTIAL. -/
theorem applyGo_skips {d : Nat} (hblks : s.blks ch = [(0, k)]) (hrun : (s.site ch).run = some r) (hcatchup : r.catchup = false)
    (hcontrib : (s.site ch).contrib = [d]) (hpending : (s.siteRec ch 0).applied = false) (hmask : bit (s.siteRec ch 0).mask d = true)
    (hmissing : bit (s.siteRec ch 0).missing d = true) (hfinite : r.nonfinite = 0) (hc : s.cmd? r.sub = some c) (htwin : c.twin = false)
    (hext : extStatus r.sub = false) (hserve : (s.site ch).serveQ = []) (hparked : Unparked (s.site ch)) : let u := s.applyGo ch none
    u.fins = s.fins ++ [⟨r.sub.chamber, r.sub.sq, r.sub.cid, sOkPartial, 0⟩] ∧ (u.site ch).run = none ∧
      (u.site ch).applied = BitVec.ofNat 32 (fld r.sub.a 31 0) ∧ (u.siteRec ch 0).mask = 0 := by
  intro u
  have hnone : addedOf s ch 0 = 0 := by
    unfold addedOf
    rw [hcontrib]
    simp [hmissing]
  obtain ⟨q, hq⟩ : ∃ q, q = ApplyCounted s ch 0 false r := ⟨_, rfl⟩
  have hcounted : q.sub = r.sub ∧ q.catchup = false ∧ q.nonfinite = 0 ∧ q.skippedBlocks ≠ 0 ∧ bit q.sites d = true := by
    rw [hq]
    refine ⟨rfl, hcatchup, hfinite, ?_, ?_⟩
    · unfold ApplyCounted
      rw [hnone]
      exact Nat.succ_ne_zero _
    · simp [ApplyCounted, bit, show (s.siteRec ch 0).missing.getLsbD d = true from hmissing]
  obtain ⟨qsub, qcatchup, qfinite, qskipped, qsites⟩ := hcounted
  obtain ⟨t, ht⟩ : ∃ t, t = s.applyBlock ch r 0 k := ⟨_, rfl⟩
  obtain ⟨tsite, tapplied, tmask, tkept⟩ := applyBlock_counts (s := s) (run := r) (n := 0) (k := k) (w := s) (bad := false)
    ((if_pos hnone).mpr ⟨rfl, rfl⟩) rfl
  rw [← ht] at tsite tapplied tmask tkept
  rw [hrun, Option.map_some, ← hq] at tsite
  have tregions : t.regions = s.regions := (congrArg State.regions tkept).trans rfl
  have tblks : t.blks ch = [(0, k)] := (blks_congr tregions (by rw [tsite]) (by rw [tsite])).trans hblks
  have tcmds : t.cmds = s.cmds := (congrArg State.cmds tkept).trans rfl
  have tfins : t.fins = s.fins := (congrArg State.fins tkept).trans rfl
  have hstatus : applyStatus (s.site ch) q = sOkPartial := by
    unfold applyStatus
    rw [qfinite, if_neg (by decide), if_pos (.inr qskipped)]
  have hgo : u = t.applyOver ch sOkPartial := by
    rw [← hstatus]
    exact applyGo_ends hblks hrun hcatchup hpending (by rw [hcontrib]; simpa using hmask) ht (by rw [tsite]) tblks tapplied
  have hcq : t.cmd? q.sub = some c := by
    rw [State.cmd?, tcmds, qsub]
    exact hc
  obtain ⟨ufins, -, usite, umask, -⟩ := applyOver_applied (r := q) (st := sOkPartial) tblks (by rw [tsite]) qcatchup (by decide) hcq htwin
    (by rw [qsub]; exact hext) (by rw [tsite]; exact hserve) (by rw [tsite]; exact hparked)
  have hsites : Proofs.applied (t.site ch) q = 0 := by
    unfold Proofs.applied
    rw [tsite]
    simp [hcontrib, qsites]
  rw [hgo]
  refine ⟨?_, ?_, ?_, umask.trans tmask⟩
  · rw [ufins, tfins, hsites, qsub]
  · rw [usite]
    rfl
  · rw [usite, qsub]
    rfl

/-- At the deadline the absent contributor is marked missing first. -/
theorem atDeadline_skips {d : Nat} (hblks : s.blks ch = [(0, k)]) (hrun : (s.site ch).run = some r) (hcatchup : r.catchup = false)
    (hcontrib : (s.site ch).contrib = [d]) (hown : d ≠ (s.site ch).own) (hd : d < 64) (hblocks : 1 ≤ (s.site ch).blocks)
    (hpending : (s.siteRec ch 0).applied = false) (hmask : bit (s.siteRec ch 0).mask d = false) (hfinite : r.nonfinite = 0)
    (hc : s.cmd? r.sub = some c) (htwin : c.twin = false) (hext : extStatus r.sub = false) (hserve : (s.site ch).serveQ = [])
    (hparked : Unparked (s.site ch)) : let u := s.atDeadline ch none
    u.fins = s.fins ++ [⟨r.sub.chamber, r.sub.sq, r.sub.cid, sOkPartial, 0⟩] ∧ (u.site ch).run = none ∧
      (u.site ch).applied = BitVec.ofNat 32 (fld r.sub.a 31 0) ∧ (u.siteRec ch 0).mask = 0 := by
  intro u
  obtain ⟨happlied, hset, hmissing⟩ := missBlock_rec s ch 0 hd
  have hmem := memOnly_missBlock s ch 0 d
  obtain ⟨fuel, hfuel⟩ : ∃ n, (s.site ch).blocks * [d].length + 1 = n + 2 := ⟨(s.site ch).blocks - 1, by rw [List.length_singleton]; omega⟩
  have hmiss := missAll_one (fuel := fuel) hblks hcontrib hown hd hparked hpending hmask
  generalize s.missBlock ch 0 d = v at happlied hset hmissing hmem hmiss
  have hu : u = v.applyGo ch none := by
    show s.atDeadline ch none = _
    unfold State.atDeadline
    dsimp only
    rw [hrun]
    dsimp only
    rw [hcatchup, if_neg Bool.false_ne_true, hcontrib, hfuel, hmiss]
  have vsite : v.site ch = s.site ch := hmem.site ch
  have hkept : v.blks ch = s.blks ch ∧ v.cmd? r.sub = s.cmd? r.sub ∧ v.fins = s.fins := by
    obtain ⟨m, hm⟩ := hmem
    rw [hm]
    exact ⟨rfl, rfl, rfl⟩
  obtain ⟨vblks, vcmd, vfins⟩ := hkept
  rw [hu, ← vfins]
  exact applyGo_skips (vblks.trans hblks) (by rw [vsite]; exact hrun) hcatchup (by rw [vsite]; exact hcontrib) (happlied.trans hpending) hset hmissing
    hfinite (vcmd.trans hc) htwin hext (by rw [vsite]; exact hserve) (by rw [vsite]; exact hparked)

end

/-- Settles O39: control frames are ignored or served as they are received, and the two timers of an apply act on its one block. -/
theorem sitesRepairAndCatchUp : Obligations.SitesRepairAndCatchUp := by
  intro s ch p e f k hgood hunsealed hflow hblks z t lo
  refine ⟨?_, ?_, ?_, ?_, ?_⟩
  · intro i hi hup hstill hframe hsealed hcontrib
    obtain ⟨-, -, -, -, -, -, hnone⟩ := peerUp_iff.mp hup
    obtain ⟨hrun, -, hparked⟩ := siteStill_iff.mp hstill
    obtain ⟨w, hw⟩ : ∃ w, w = s.onSite ch fun u => { u with ignored := satAdd 16 u.ignored 1 } := ⟨_, rfl⟩
    have wsite : w.site ch = { z with ignored := satAdd 16 z.ignored 1 } := by rw [hw, site_onSite]
    have wkeys : w.keys = s.keys := by rw [hw]; rfl
    have hkind : f.kind = 3 ∨ f.kind = 4 := by
      rcases hi with ⟨-, h, -⟩ | ⟨-, h, -⟩
      · exact .inl h
      · exact .inr h
    have hs2 : (if f.kind = 3 then s.nackIn ch p f f.payload else s.catchupIn ch p f) = w := by
      rcases hi with ⟨-, h, hseq⟩ | ⟨-, h, hseq⟩
      · rw [if_pos h, nackIn_ignored hseq, hw]
      · rw [if_neg (by omega), catchupIn_ignored hseq, hw]
    obtain ⟨hnext, u, hreceive, hgiven⟩ := sdxReceive_control hgood hup rfl hframe hkind hsealed hs2 (by rw [wsite]; exact hnone)
      (by rw [wsite]; exact hcontrib) (by rw [wsite]; exact hparked) (by rw [wsite]; exact hrun)
    have hexec : exec i s = .next u := by
      rcases hi with ⟨rfl, h, -⟩ | ⟨rfl, h, -⟩
      · exact congrArg Host.Outcome.next ((if_pos (by rw [hnext, h])).trans hreceive)
      · exact congrArg Host.Outcome.next ((if_pos (by rw [hnext, h])).trans hreceive)
    have hpeer := hgiven.peer
    obtain ⟨⟨n, usite⟩, -, hkept⟩ := hgiven
    refine ⟨u, hexec, ?_, ?_, ((congrArg State.keys hkept).trans rfl).trans wkeys⟩
    · rw [usite, wsite]
    · rw [hpeer, wsite]
      rfl
  · intro hup hstill hframe hkind hsealed hcontrib hset hseq hlen htensor hlo hhi hemitted hvoid hleft hroom
    obtain ⟨-, -, -, -, -, -, hnone⟩ := peerUp_iff.mp hup
    obtain ⟨hrun, -, hparked⟩ := siteStill_iff.mp hstill
    have hin : (if f.kind = 3 then s.nackIn ch p f f.payload else s.catchupIn ch p f) = s.sdxRebuild ch p f.payload := by
      have hserved : (z.anchored && z.seqSet && f.seq == z.emitted) = true := by
        rw [show z.anchored = true from hframe.1, hset, hseq]
        exact beq_self_eq_true z.emitted
      exact (if_pos hkind).trans (if_pos hserved)
    have hmem := sdxRebuild_one hunsealed hflow hblks ⟨hlen, htensor, hlo, hhi⟩ hemitted hvoid rfl hleft hroom
    generalize s.sdxRebuild ch p f.payload = w at hin hmem
    have wsite : w.site ch = { z with peers := z.peers.modify p (sent (t.txProd + 17)) } := (hmem.site ch).trans (site_onPeer ..)
    have wkeys : w.keys = s.keys := by
      obtain ⟨m, hm⟩ := hmem
      rw [hm]
      rfl
    have wpeer : (w.site ch).peers.get p = sent (t.txProd + 17) t := by
      rw [wsite]
      exact get_modify_self ..
    obtain ⟨hnext, u, hreceive, hgiven⟩ := sdxReceive_control hgood hup rfl hframe (.inl hkind) hsealed hin (by rw [wpeer]; exact hnone)
      (by rw [wsite]; exact hcontrib) (by rw [wsite]; exact set_unparked hparked hnone) (by rw [wsite]; exact hrun)
    have hpeer := hgiven.peer
    obtain ⟨⟨n, usite⟩, -, hkept⟩ := hgiven
    refine ⟨u, congrArg Host.Outcome.next ((if_pos (by rw [hnext, hkind])).trans hreceive), ?_, ?_, ((congrArg State.keys hkept).trans rfl).trans wkeys⟩
    · rw [hpeer, wpeer]
      rfl
    · rw [usite, wsite]
  · intro hup hstill hframe hkind hsealed hcontrib hset hmode hseq houter hblocks hclamps hleft hroom
    obtain ⟨-, -, -, -, -, -, hnone⟩ := peerUp_iff.mp hup
    obtain ⟨hrun, hserve, hparked⟩ := siteStill_iff.mp hstill
    have hmem := catchupIn_serves hunsealed hflow hblks hframe.1 hset hmode hseq hserve houter hblocks hclamps rfl hleft hroom
    obtain ⟨w, hw⟩ : ∃ w, s.catchupIn ch p f = w := ⟨_, rfl⟩
    have hin : (if f.kind = 3 then s.nackIn ch p f f.payload else s.catchupIn ch p f) = w := (if_neg (by omega)).trans hw
    rw [hw] at hmem
    have wsite : w.site ch = caughtUp (s.ch ch).keyActive (t.txProd + 17) p z := (hmem.site ch).trans (site_onSite ..)
    have wkept : w.keys = s.keys ∧ w.clamps = s.clamps := by
      obtain ⟨m, hm⟩ := hmem
      rw [hm]
      exact ⟨rfl, rfl⟩
    have wpeer : (w.site ch).peers.get p = sent (t.txProd + 17) t := by
      rw [wsite]
      exact get_modify_self ..
    obtain ⟨hnext, u, hreceive, hgiven⟩ := sdxReceive_control hgood hup rfl hframe (.inr hkind) hsealed hin (by rw [wpeer]; exact hnone)
      (by rw [wsite]; exact hcontrib) (by rw [wsite]; exact set_unparked hparked hnone) (by rw [wsite]; exact hrun)
    have hpeer := hgiven.peer
    obtain ⟨⟨n, usite⟩, -, hkept⟩ := hgiven
    refine ⟨u, congrArg Host.Outcome.next ((if_pos (by rw [hnext, hkind])).trans hreceive), ?_, ?_, ?_, ?_,
      ((congrArg State.keys hkept).trans rfl).trans wkept.1⟩
    · rw [hpeer, wpeer]
      rfl
    · rw [usite, wsite]
      rfl
    · exact ((congrArg State.clamps hkept).trans rfl).trans (wkept.2.trans hclamps)
    · rw [usite, wsite]
      rfl
  · intro r hrun hcatchup hnacked hlead hpeers hv2 hnone hcontrib happlied hmask hpages hroom
    exact nackLeadTimer_asks hunsealed hblks hrun hcatchup hnacked hlead rfl hpeers hv2 hnone hcontrib happlied hmask hpages hroom
  · intro r c hrun hc htwin hch hext hserve hentries
    refine ⟨fun hcatchup hpart => ?_, fun d hcatchup hcontrib hown hd hblocks hpending hmask hfinite => ?_⟩
    · obtain ⟨u, hexec, hfins, hsite⟩ := deltaDeadline_catchup (e := e) hblks hrun hcatchup hpart hc htwin hext hserve (unparked_of_nil hentries)
      rw [hch] at hfins
      exact ⟨u, hexec, hfins, by rw [hsite], by rw [hsite]⟩
    · have hexec := exec_deltaDeadline s ch e
      rw [hgood] at hexec
      obtain ⟨hfins, hend⟩ := atDeadline_skips (s := { s with free := s.free + 1 }) hblks hrun hcatchup hcontrib hown hd hblocks hpending hmask hfinite hc
        htwin hext hserve (unparked_of_nil hentries)
      rw [hch] at hfins
      rw [hgood]
      exact ⟨_, hexec, hfins, hend⟩

end Sys2Proof.Proofs
end

section
/-! PROOFS. DELTA_APPLY beside a capture (R162, R177, R368). -/

namespace Sys2Proof.Proofs
open Sys2Proof Sys2Proof.Machine Sys2Proof.Laws

/-! The obligation says that the commands in flight after a DELTA_APPLY are those before it but its own, each as it was. The outer program writes the
weights: where a granule of them is owed to a running capture and there is no place for its copy, a cell takes the granule at once, the capture counts
it as disposed of, and the progress of the capture's command moves (R96, R157, R180). -/

/-- DELTA_APPLY of sequence 1 with the program of slot 0, at chamber 1. -/
def applySub : Sub := ⟨1, 1, 0x72, 0, 0, 0, 0, 1, 1000, 0, 0, 0, 0⟩

/-- The CAPTURE that runs beside it. -/
def captureSub : Sub := ⟨1, 1, 0x24, 0, 1, 0, 0, 0, 0, 0, 0, 0, 0⟩

/-- The region of the site set: one FP32 element, in granule 0, the second of two replicas. -/
def replicaRegion : Region := ⟨1, 0, 65536, oneElement, 0, 0, 2, 1, 0, .const false⟩

/-- The capture of that region, with election of replicas. -/
def replicaCapture : CapRun :=
  { chamber := 1, cmd := some captureSub, rule := 0, id := 0, store := 0, label := 0, policy := false, immediate := false, phase := 3
    regs := [(1, replicaRegion)], sealed := false, flow := false, dedup := 1, slot := 0, kcvs := [], mode := 0, reserved := 0, flipped := true
    epoch := 1, flipTime := 0, holdTime := 0, stepCount := 0, stepCode := 0, midstep := false, degraded := false, toDrain := 1, drained := 0
    skipped := 0, bytes := 0, freezeNs := 0, heldWrites := 0, peak := 0, poisoned := 0, dirFull := 0, full := [], places := [0], cancel := false }

/-- The outer program: the weight to the weight and to the anchor. -/
def copyProgram : List (BitVec 32) := [0x04610000, 0x04650000]

/-- The one block of the site set, anchored behind granule 16; site 5 is the own one. -/
def replicaSite : Site :=
  { Site.zero with
    emitted := 1, anchored := true, seqSet := true, area := 16, blocks := 1, own := 5, regions := [1], anchorType := 2, contrib := [5], accUse := true }

/-- Both commands in flight, the granule owed in an open stile without room for copies, the own contribution in the accumulator. -/
def applyBesideCapture : State := { strayStiles with
  cmds := [⟨applySub, false, [], 1, 0, true, [], [], 0, [], [], 0⟩, ⟨captureSub, false, [], 2, 0, true, [], [], 0, [], [], 0⟩]
  chambers := (SMap.const Chamber.zero).set 1 { Chamber.zero with mode := 0x800 }
  regions := ⟨none, [(1, some replicaRegion)]⟩
  units := ⟨ChUnit.zero, [(1, { ChUnit.zero with site := replicaSite, progs := (SMap.const Prog.zero).set 0 ⟨true, 0, copyProgram⟩ })]⟩
  stiles := ⟨Stile.zero, [(0, { Stile.zero with moverOn := true, isOpen := true, rebateLost := 32, gran := (SMap.const ⟨true, false⟩).set 0 gOwed })]⟩
  cap := { strayStiles.cap with run := some replicaCapture }
  mem := ⟨(SMap.const 0).set (19 * 65536) 0x20, .const false⟩ }

/-! An apply whose own contribution is in every block begins and goes on. -/

section
variable {s : State} {x : Sub} {e : Ext} {ch : Nat} {k : SiteBlk}

/-- The record of an apply as it begins. -/
def applyRun (u : Site) (x : Sub) : ApplyRun := ⟨x, false, false, (List.range 16).map u.ks.get, u.nackLead, 0, 0, 0, 0, 0, 0, []⟩

/-- The state in which an apply that is no catch-up has begun. -/
def applyBegun (s : State) (x : Sub) : State :=
  (running x (s.useTime.onSite x.chamber fun u => { u with run := some (applyRun (s.site x.chamber) x) }) 0).s.freeNat.2

/-- A block that has the own contribution gives it no turn. -/
theorem ownTurns_added (hblks : s.blks ch = [(0, k)]) (hmask : bit (s.siteRec ch 0).mask (s.site ch).own = true) : s.ownTurns ch = (s, false) := by
  unfold State.ownTurns
  rw [hblks, List.foldl_cons, List.foldl_nil]
  dsimp only
  rw [hmask, if_pos (by simp)]

theorem reread_added (hblks : s.blks ch = [(0, k)]) (hmask : bit (s.siteRec ch 0).mask (s.site ch).own = true) (hparked : Unparked (s.site ch))
    (fuel : Nat) : s.reread ch fuel = s := by
  cases fuel with
  | zero => rfl
  | succ fuel =>
    unfold State.reread
    dsimp only
    rw [ownTurns_added hblks hmask]
    dsimp only
    rw [rereadPeers_idle hparked, if_neg (by simp)]

theorem bodyDeltaApply_goes (hwrite : e.writeErr = false) (hmode : (s.ch x.chamber).siteMode = 2) (hanchored : (s.site x.chamber).anchored = true)
    (hacc : (s.site x.chamber).accUse = true) (hphase : (s.un x.chamber).step.phase = .idle) (hbusy : s.siteBusy x = false)
    (hset : (s.site x.chamber).seqSet = true) (hnext : BitVec.ofNat 32 (fld x.a 31 0) = seqNext (s.site x.chamber).applied)
    (hemitted : (s.site x.chamber).emitted = BitVec.ofNat 32 (fld x.a 31 0))
    (hprogram : outerBad ((s.un x.chamber).progs.get (fld x.c 2 0)) (s.site x.chamber).outerUse = false)
    (hreread : ∀ n, (applyBegun s x).reread x.chamber n = applyBegun s x) (htime : ¬x.b.toNat ≤ (applyBegun s x).now) :
    bodyDeltaApply x e s = wait ((applyBegun s x).applyGo x.chamber none) := by
  have hidle : s.endApplied x.chamber = s := if_neg (by rw [hphase]; decide)
  unfold bodyDeltaApply
  dsimp only
  rw [hmode, hanchored, hacc, hphase, hbusy, if_neg (by decide), hset, hnext, hemitted, hnext, if_neg (by simp), if_neg (by simp), hprogram,
    if_neg (show ¬(!!true && false) = true by decide), hidle, hwrite, if_neg Bool.false_ne_true]
  refine congrArg wait ?_
  rw [if_neg (show ¬(!true) = true by decide)]
  have hbegun := hreread ((applyBegun s x).rereadFuel x.chamber)
  exact (if_neg fun hle => htime ((congrArg (fun u : State => x.b.toNat ≤ u.now) hbegun).mp hle)).trans
    (congrArg (fun u : State => u.applyGo x.chamber none) hbegun)

end

/-! The run beside the capture. -/

/-- The one block of the site set. -/
def replicaBlk : SiteBlk := ⟨1, replicaRegion, 0, 0⟩

/-- The record of the apply. -/
def besideRun : ApplyRun := applyRun replicaSite applySub

/-- The apply begun beside the capture. -/
def begunBesideCapture : State := applyBegun applyBesideCapture applySub

theorem applyBesideCapture_blks : applyBesideCapture.blks 1 = [(0, replicaBlk)] := rfl

theorem begunBesideCapture_blks : begunBesideCapture.blks 1 = [(0, replicaBlk)] := rfl

theorem begunBesideCapture_site : begunBesideCapture.site 1 = { replicaSite with run := some besideRun } := by decide +kernel

theorem begunBesideCapture_record : (begunBesideCapture.siteRec 1 0).mask = setBit 0 5 true ∧ (begunBesideCapture.siteRec 1 0).applied = false := by
  decide +kernel

/-- The units of the commands in flight other than the apply. -/
def othersUnits (s : State) : List Nat := (s.cmds.filter fun c => !isCmd applySub c).map Cmd.units

/-- The write of the outer program disposes of the owed granule, and the capture's command counts it. -/
theorem outerRun_disposes : (begunBesideCapture.outerRun 1 besideRun 0 replicaBlk 1 1).map
    (fun v => (v.site 1, v.regions, othersUnits v, (v.cmd? applySub).map Cmd.twin)) =
    some (begunBesideCapture.site 1, begunBesideCapture.regions, [1], some false) := by
  decide +kernel

/-- The block is applied, and the apply is at its end, with the capture's progress moved on. -/
theorem besideCapture_applied : ∃ v : State, begunBesideCapture.applyGo 1 none = v.applyOver 1 sOk ∧ v.blks 1 = [(0, replicaBlk)] ∧
    (∃ r : ApplyRun, (v.site 1).run = some r ∧ r.sub = applySub ∧ r.catchup = false) ∧ v.site 1 = { replicaSite with run := (v.site 1).run } ∧
    othersUnits v = [1] ∧ (v.cmd? applySub).map Cmd.twin = some false := by
  obtain ⟨w, hw, hout⟩ := Option.map_eq_some_iff.mp outerRun_disposes
  simp only [Prod.mk.injEq] at hout
  obtain ⟨wsite, wregions, wunits, wtwin⟩ := hout
  have hadded : addedOf begunBesideCapture 1 0 = 1 := by decide +kernel
  have hdone : OuterDone begunBesideCapture 1 besideRun 0 replicaBlk w false := by
    unfold OuterDone
    rw [hadded, if_neg Nat.one_ne_zero]
    exact .inl ⟨by rw [begunBesideCapture_site]; exact hw, rfl⟩
  obtain ⟨v, hv⟩ : ∃ v, v = begunBesideCapture.applyBlock 1 besideRun 0 replicaBlk := ⟨_, rfl⟩
  obtain ⟨vsite, vapplied, -, vkept⟩ := applyBlock_counts hdone wsite
  rw [← hv] at vsite vapplied vkept
  rw [begunBesideCapture_site] at vsite
  have vregions : v.regions = begunBesideCapture.regions := ((congrArg State.regions vkept).trans rfl).trans wregions
  have vcmds : v.cmds = w.cmds := (congrArg State.cmds vkept).trans rfl
  have vblks : v.blks 1 = [(0, replicaBlk)] :=
    (blks_congr vregions (by rw [vsite, begunBesideCapture_site]) (by rw [vsite, begunBesideCapture_site])).trans begunBesideCapture_blks
  have hready : ((begunBesideCapture.site 1).contrib.all fun c => bit (begunBesideCapture.siteRec 1 0).mask c) = true := by
    rw [begunBesideCapture_site, begunBesideCapture_record.1]
    decide
  have hrun : (begunBesideCapture.site 1).run = some besideRun := by rw [begunBesideCapture_site]
  have vrun : (v.site 1).run = some (ApplyCounted begunBesideCapture 1 0 false besideRun) := by rw [vsite]; rfl
  have hstatus : applyStatus (begunBesideCapture.site 1) (ApplyCounted begunBesideCapture 1 0 false besideRun) = sOk := by decide +kernel
  refine ⟨v, ?_, vblks, ⟨_, vrun, rfl, rfl⟩, by rw [vsite], by unfold othersUnits; rw [vcmds]; exact wunits, ?_⟩
  · rw [← hstatus]
    exact applyGo_ends begunBesideCapture_blks hrun rfl begunBesideCapture_record.2 hready hv vrun vblks vapplied
  · unfold State.cmd?
    rw [vcmds]
    exact wtwin

/-- The end of the apply: the capture's command is left, one unit further. -/
theorem besideCapture_units : (begunBesideCapture.applyGo 1 none).cmds.map Cmd.units = [1] := by
  obtain ⟨v, hgo, vblks, ⟨r, vrun, hsub, hcatchup⟩, vsite, vunits, vtwin⟩ := besideCapture_applied
  obtain ⟨c, hc, htwin⟩ := Option.map_eq_some_iff.mp vtwin
  have hserve : (v.site 1).serveQ = [] := by rw [vsite]; rfl
  have hparked : Unparked (v.site 1) := unparked_of_nil (by rw [vsite]; rfl)
  obtain ⟨-, hcmds, -⟩ := applyOver_applied vblks vrun hcatchup (st := sOk) (by decide) (by rw [hsub]; exact hc) htwin (by rw [hsub]; decide) hserve hparked
  rw [hgo, hcmds, hsub]
  exact vunits

theorem besideCapture_body : bodyDeltaApply applySub Ext.good applyBesideCapture = wait (begunBesideCapture.applyGo 1 none) := by
  have hmask : bit (begunBesideCapture.siteRec 1 0).mask (begunBesideCapture.site 1).own = true := by
    rw [begunBesideCapture_site, begunBesideCapture_record.1]
    decide
  have hparked : Unparked (begunBesideCapture.site 1) := unparked_of_nil (by rw [begunBesideCapture_site]; rfl)
  exact bodyDeltaApply_goes rfl (by decide +kernel) rfl rfl rfl (by decide +kernel) rfl (by decide +kernel) (by decide +kernel) (by decide +kernel)
    (reread_added begunBesideCapture_blks hmask hparked) (by decide +kernel)

/-- Refutes O37: the outer program of a DELTA_APPLY writes a granule owed to a running capture, and the capture's command, which is to stay as it was,
counts one unit more. -/
theorem not_deltasAreEmittedAndApplied : ¬ Obligations.DeltasAreEmittedAndApplied := by
  unfold Obligations.DeltasAreEmittedAndApplied
  intro h
  have hheld : applyBesideCapture.holdsCmd (.deltaApply applySub Ext.good) applySub := by decide +kernel
  obtain ⟨-, happly⟩ := h applyBesideCapture applySub applySub Ext.good replicaBlk rfl rfl (by decide +kernel) (by decide +kernel)
    applyBesideCapture_blks rfl
  obtain ⟨t, st, hexec, -, -, hcmds, -⟩ := happly hheld (by decide) (by decide +kernel) rfl rfl (by decide +kernel) (by decide +kernel)
    (by decide +kernel) (by decide +kernel) rfl rfl (by decide) (by decide +kernel) (by decide +kernel) (by decide +kernel)
  have hgoes := waits_runOp (runs_deltaApply hheld) hheld.2 besideCapture_body
  obtain rfl : begunBesideCapture.applyGo 1 none = t := Host.Outcome.next.inj (hgoes.symm.trans hexec)
  have hleft : (begunBesideCapture.applyGo 1 none).cmds.map Cmd.units = [0] := by
    rw [hcmds]
    rfl
  exact absurd (besideCapture_units.symm.trans hleft) (by decide)

end Sys2Proof.Proofs
end

section
/-! PROOFS. The wakes of domains, the rail, LEAN and PASS (R64, R75, R445, R446, R468-R473). -/

namespace Sys2Proof.Proofs
open Sys2Proof Sys2Proof.Machine Sys2Proof.Laws

/-! What switching domains off leaves as it is, where no capture runs. -/

/-- From `s` to `t` no domain came on, and what is not a stile's or a log's stayed. -/
structure OffKeeps (s t : State) : Prop where
  boot : t.boot = s.boot
  life : t.life = s.life
  keys : t.keys = s.keys
  regions : t.regions = s.regions
  sync : t.sync = s.sync
  run : s.cap.run = none → t.cap.run = none
  on : ∀ k, bit s.pwr.on k = false → bit t.pwr.on k = false

theorem OffKeeps.refl (s : State) : OffKeeps s s := ⟨rfl, rfl, rfl, rfl, rfl, id, fun _ => id⟩

theorem OffKeeps.trans {s t u : State} (h : OffKeeps s t) (h' : OffKeeps t u) : OffKeeps s u :=
  ⟨h'.boot.trans h.boot, h'.life.trans h.life, h'.keys.trans h.keys, h'.regions.trans h.regions, h'.sync.trans h.sync, fun hr => h'.run (h.run hr),
    fun k hk => h'.on k (h.on k hk)⟩

theorem OffKeeps.foldl {α : Type} {f : State → α → State} (hf : ∀ s a, OffKeeps s (f s a)) (l : List α) (s : State) : OffKeeps s (l.foldl f s) := by
  induction l generalizing s with
  | nil => exact .refl s
  | cons a l ih => exact (hf s a).trans (ih _)

theorem bit_setBit_false {w : Nat} {v : BitVec w} {k : Nat} (i : Nat) (h : bit v k = false) : bit (setBit v i false) k = false := by
  by_cases hk : k = i
  · rw [hk]
    exact bit_setBit_off v i
  · rw [bit_setBit_ne v false hk, h]

section
variable (s : State)

theorem offKeeps_log (c : BitVec 16) (v k i : Nat) (ch : Option Nat) (d : List Byte) : OffKeeps s (s.log c v k i ch d) := by
  obtain ⟨tu, po, su, cn, cw, h⟩ := log_frame_ex (s := s) c v k i ch d
  rw [h]
  exact ⟨rfl, rfl, rfl, rfl, rfl, id, fun _ => id⟩

theorem offKeeps_relevel (ch : Nat) : OffKeeps s (s.relevel ch) := by
  unfold State.relevel
  extract_lets c r n up warn stall s1 cap1 s2 s3
  have h2 : OffKeeps s s2 := ⟨rfl, rfl, rfl, rfl, rfl, fun hr => by show s1.cap.run.map _ = none; rw [show s1.cap.run = none from hr]; rfl, fun _ => id⟩
  have h3 : OffKeeps s s3 := by
    unfold s3
    split
    · exact h2.trans ⟨rfl, rfl, rfl, rfl, rfl, id, fun _ => id⟩
    · exact h2
  split
  · exact h3.trans (offKeeps_log ..)
  · exact h3

theorem offKeeps_relevelAll : OffKeeps s s.relevelAll := .foldl offKeeps_relevel _ s

theorem offKeeps_loseGuard (ch : Nat) : OffKeeps s (s.loseGuard ch) := by
  unfold State.loseGuard State.dropShares
  split
  · exact .refl s
  · extract_lets f s1 t
    have h1 : OffKeeps s s1 := ⟨rfl, rfl, rfl, rfl, rfl, id, fun _ => id⟩
    have hguard : OffKeeps t (t.onStep ch fun t => { t with guardLost := true }) := ⟨rfl, rfl, rfl, rfl, rfl, id, fun _ => id⟩
    exact ((h1.trans (offKeeps_relevelAll s1)).trans hguard).trans (offKeeps_log ..)

theorem offKeeps_releaseAll (st : Nat) : OffKeeps s (s.releaseAll st) := by
  obtain ⟨m, f, sti, h⟩ := releaseAll_frame s st
  rw [h]
  exact ⟨rfl, rfl, rfl, rfl, rfl, id, fun _ => id⟩

end

theorem offKeeps_loseMover {s : State} (hrun : s.cap.run = none) (st : Nat) : OffKeeps s (s.loseMover st) := by
  unfold State.loseMover
  extract_lets steps s1 covered s2 s3 s4 pw s5
  have h1 : OffKeeps s s1 := offKeeps_releaseAll s st
  have hcovered : covered = false := by
    unfold covered
    rw [h1.run hrun]
  have h2 : s2 = s1 := by
    unfold s2
    rw [hcovered]
    exact if_neg Bool.false_ne_true
  have h3 : OffKeeps s s3 := by
    unfold s3
    rw [h2]
    exact h1.trans (.foldl offKeeps_loseGuard _ _)
  have h5 : OffKeeps s3 s5 := ⟨rfl, rfl, rfl, rfl, rfl, id, fun _ hk => bit_setBit_false _ hk⟩
  exact (h3.trans h5).trans (offKeeps_relevelAll s5)

theorem offKeeps_onCells (s : State) (st : Nat) (l : List Nat) : OffKeeps s (l.foldl (fun s c => s.onCell st c fun _ => .zero) s) :=
  .foldl (f := fun s c => s.onCell st c fun _ => .zero) (fun _ _ => ⟨rfl, rfl, rfl, rfl, rfl, id, fun _ => id⟩) l s

theorem offKeeps_domainOff {s : State} (hrun : s.cap.run = none) (d : Nat) :
    OffKeeps s (s.domainOff d) ∧ bit (s.domainOff d).pwr.on d = false := by
  unfold State.domainOff
  extract_lets s1 s2 sv s3
  have h1 : OffKeeps s s1 := by
    unfold s1
    split
    · exact offKeeps_loseMover hrun _
    · exact .refl s
  have h2 : OffKeeps s s2 := by
    unfold s2
    split
    · exact h1.trans (offKeeps_onCells ..)
    · exact h1
  have h3 : OffKeeps s s3 := by
    unfold s3
    split
    · exact h2.trans ⟨rfl, rfl, rfl, rfl, rfl, id, fun _ => id⟩
    · exact h2
  exact ⟨h3.trans ⟨rfl, rfl, rfl, rfl, rfl, id, fun _ hk => bit_setBit_false _ hk⟩, bit_setBit_off _ d⟩

/-- Switching off the domains of a list that `keep` does not name. -/
theorem offKeeps_domainsOff (keep : Nat → Prop) [DecidablePred keep] (l : List Nat) {s : State} (hrun : s.cap.run = none) :
    let t := l.foldl (fun s d => if keep d then s else s.domainOff d) s
    OffKeeps s t ∧ ∀ d ∈ l, ¬keep d → bit t.pwr.on d = false := by
  induction l generalizing s with
  | nil => exact ⟨.refl s, nofun⟩
  | cons a l ih =>
    have hstep : OffKeeps s (if keep a then s else s.domainOff a) ∧ (¬keep a → bit (if keep a then s else s.domainOff a).pwr.on a = false) := by
      split
      · next hk => exact ⟨.refl s, fun h => absurd hk h⟩
      · next hk => exact ⟨(offKeeps_domainOff hrun a).1, fun _ => (offKeeps_domainOff hrun a).2⟩
    obtain ⟨hkeeps, hoff⟩ := ih (hstep.1.run hrun)
    refine ⟨hstep.1.trans hkeeps, fun d hd hk => ?_⟩
    rcases List.mem_cons.mp hd with rfl | hd
    · exact hkeeps.on _ (hstep.2 hk)
    · exact hoff d hd hk

theorem offKeeps_allOff (l : List Nat) {s : State} (hrun : s.cap.run = none) :
    OffKeeps s (l.foldl State.domainOff s) ∧ ∀ d ∈ l, bit (l.foldl State.domainOff s).pwr.on d = false := by
  simpa using offKeeps_domainsOff (fun _ => False) l hrun

/-! The rail (R63, R75). -/

section
variable {s : State}

theorem railDown_offs (hrun : s.cap.run = none) :
    s.railDown.boot = { s.boot with kxRail := false } ∧ (∀ d, d < 115 → bit s.railDown.pwr.on d = false) ∧ s.railDown.keys = s.keys ∧
      s.railDown.life = s.life := by
  obtain ⟨hkeeps, hoff⟩ := offKeeps_allOff (List.range 115) hrun
  unfold State.railDown
  have hall : ∀ d, d < 115 → d ∈ List.range 115 := fun d => List.mem_range.mpr
  generalize List.range 115 = l at hkeeps hoff hall
  generalize l.foldl State.domainOff s = t at hkeeps hoff
  exact ⟨congrArg (fun b : Boot => { b with kxRail := false }) hkeeps.boot, fun d hd => hoff d (hall d hd), hkeeps.keys, hkeeps.life⟩

theorem exec_railLost {c : Instr} (hc : c = .kxRailDetect false ∨ c = .vddKxRemoval ∧ s.pwr.state = .off) (hreset : s.boot.resetHeld ≠ 2) :
    exec c s = .next s.railDown := by
  rcases hc with rfl | ⟨rfl, hoff⟩
  · exact congrArg Host.Outcome.next ((if_neg hreset).trans (if_neg Bool.false_ne_true))
  · exact congrArg Host.Outcome.next (if_neg fun h => h.elim hreset fun h => h hoff)

theorem domBuilt_hub {d : Nat} (hd : 96 ≤ d) (hports : d < 111 + s.fabPorts) : s.domBuilt d = true := by
  unfold State.domBuilt
  rw [if_neg (by omega)]
  exact decide_eq_true hports

theorem kxRailDetect_awaits (hreset : s.boot.resetHeld ≠ 2) (hstage : s.boot.stage = .fuses) (hwaking : s.pwr.waking = false) (hscan : s.pwr.scanned = false)
    (hports : 1 ≤ s.fabPorts) : ∃ t, exec (.kxRailDetect true) s = .next t ∧ t.boot = { s.boot with kxRail := true, stage := .waitImage } ∧
      (bit s.pwr.on 111 = true ∨ 111 ∈ t.pwr.queue) ∧ (bit s.pwr.on 103 = true ∨ 103 ∈ t.pwr.queue) ∧ t.mem = s.mem := by
  obtain ⟨u, hu⟩ : ∃ u, u = { s with boot := { s.boot with kxRail := true, stage := .waitImage } } := ⟨_, rfl⟩
  have hexec : exec (.kxRailDetect true) s = .next (u.wantDoms [111, 103]) := by
    rw [hu]
    refine congrArg Host.Outcome.next ((if_neg hreset).trans ((if_pos rfl).trans ((if_neg ?_).trans (if_pos ⟨hstage, rfl⟩))))
    show ¬s.pwr.waking = true
    rw [hwaking]
    exact Bool.false_ne_true
  have hon : u.pwr.on = s.pwr.on := by rw [hu]
  have hboot : u.boot = { s.boot with kxRail := true, stage := .waitImage } := by rw [hu]
  have hmem : u.mem = s.mem := by rw [hu]
  have hasks (d : Nat) (hd : d ∈ [111, 103]) (hhub : 96 ≤ d) (hlast : d ≤ 111) : bit s.pwr.on d = true ∨ d ∈ (u.wantDoms [111, 103]).pwr.queue := by
    rw [← hon]
    exact wantDoms_asks (by rw [hu]; exact hscan) (domBuilt_hub hhub (by rw [hu]; show d < 111 + s.fabPorts; omega)) hd
  have hkept := wantDoms_frame u [111, 103]
  exact ⟨_, hexec, (congrArg State.boot hkept).trans hboot, hasks 111 (by decide) (by decide) (by decide), hasks 103 (by decide) (by decide) (by decide),
    (congrArg State.mem hkept).trans hmem⟩

/-! The power inputs (R64, R473). -/

theorem supplyWarn_rises (hreset : s.boot.resetHeld ≠ 2) (hlow : s.port.supplyWarn = false) : exec (.supplyWarn true) s = .next { s with
    port := { s.port with supplyWarn := true }
    timeUsed := s.now
    pwr := { s.pwr with warnEvents := satAdd 16 s.pwr.warnEvents 1, warnSince := some s.now } } := by
  refine congrArg Host.Outcome.next ((if_neg (by rw [hlow]; exact Bool.false_ne_true)).trans ((if_neg hreset).trans ((if_pos rfl).trans ?_)))
  exact congrArg (fun n => { s with
    port := { s.port with supplyWarn := true }
    timeUsed := s.now
    pwr := { s.pwr with warnEvents := satAdd 16 s.pwr.warnEvents 1, warnSince := some n } }) (now_useTime s)

theorem supplyWarn_falls {n : Nat} (hreset : s.boot.resetHeld ≠ 2) (hhigh : s.port.supplyWarn = true) (hsince : s.pwr.warnSince = some n) :
    exec (.supplyWarn false) s = .next { s with
      port := { s.port with supplyWarn := false }
      timeUsed := s.now
      pwr := { s.pwr with warnLongest := max s.pwr.warnLongest (min ((s.now - n) / 1000) 65535), warnSince := none } } := by
  have hnow : (({ s with port := { s.port with supplyWarn := false } }).useTime).now = s.now := now_useTime s
  show execSupplyWarn false s = _
  unfold execSupplyWarn
  rw [if_neg (by rw [hhigh]; decide)]
  dsimp only
  rw [if_neg hreset, if_neg Bool.false_ne_true]
  dsimp only [State.useTime]
  rw [hsince]
  exact congrArg (fun k => Host.Outcome.next { s with
    port := { s.port with supplyWarn := false }
    timeUsed := s.now
    pwr := { s.pwr with warnLongest := max s.pwr.warnLongest (min ((k - n) / 1000) 65535), warnSince := none } }) hnow

/-! The wakes (R64, R75, R472). -/

theorem wakeStart_starts {d : Nat} {r : List Nat} (hqueue : s.pwr.queue = d :: r) (hscan : s.pwr.scanned = false) (hrail : s.boot.kxRail = true)
    (hcost : domCost d ≤ s.pwr.tokens) (hwarn : s.port.supplyWarn = false) : exec .wakeStart s = .next { s with pwr := { s.pwr with
      queue := r
      on := setBit s.pwr.on d true
      ramping := s.pwr.ramping ++ [d]
      tokens := s.pwr.tokens - domCost d
      wakes := satAdd 32 s.pwr.wakes 1 } } := by
  refine congrArg Host.Outcome.next ?_
  rw [hqueue]
  dsimp only
  rw [hwarn, hscan, hrail, decide_eq_false (by omega), Bool.and_false, if_neg (by decide), Nat.max_eq_left hcost]

theorem wakeStart_waits {d : Nat} {r : List Nat} (hqueue : s.pwr.queue = d :: r) (hwarn : s.port.supplyWarn = true) : exec .wakeStart s = .next s := by
  refine congrArg Host.Outcome.next ?_
  rw [hqueue]
  dsimp only
  rw [hwarn]
  exact if_pos rfl

section
variable {d : Nat} {img : Image}

theorem wakeOn_ready (hstage : s.boot.stage = .ready) : s.wakeOn img = s := by
  simp [State.wakeOn, hstage]

theorem domainWakeComplete_ready (hhub : 96 ≤ d) (hramps : d ∈ s.pwr.ramping) (hwaking : s.pwr.waking = false) (hslice : s.jig.waitSlice = none)
    (hstage : s.boot.stage = .ready) : exec (.domainWakeComplete d img) s = .next (rampEnds s d) := by
  rw [exec_domainWakeComplete_startUp hhub hramps hwaking, wakeOn_ready (s := rampEnds s d) hstage, startWaiting_of_none (s := rampEnds s d) hslice]

/-- Every built domain is up once the one that still ramps is. -/
theorem rampEnds_allUp (h : ∀ k ∈ s.allDoms, bit s.pwr.on k = true ∧ (k ∈ s.pwr.ramping → k = d)) : (rampEnds s d).allUp = true := by
  refine List.all_eq_true.mpr fun k hk => ?_
  obtain ⟨hon, hlast⟩ := h k hk
  have hnot : (s.pwr.ramping.filter (· != d)).contains k = false := by
    simpa using hlast
  show (bit s.pwr.on k && !(s.pwr.ramping.filter (· != d)).contains k) = true
  rw [hon, hnot]
  rfl

theorem becomeReady_starts : s.becomeReady.boot.stage = .ready ∧ s.becomeReady.pwr.state = .run ∧ s.becomeReady.life.nonce = s.draw.1 ∧
    s.becomeReady.cmds = s.cmds ∧ s.becomeReady.mem = s.mem := by
  unfold State.becomeReady
  dsimp only
  obtain ⟨ch, h⟩ := zeroWindow_frame { s.draw.2 with
    boot := { s.draw.2.boot with stage := .ready }
    pwr := { s.draw.2.pwr with state := .run }
    life := { s.draw.2.life with nonce := s.draw.1 } }
  rw [h]
  exact ⟨rfl, rfl, rfl, rfl, rfl⟩

theorem domainWakeComplete_last (hhub : 96 ≤ d) (hramps : d ∈ s.pwr.ramping) (hwaking : s.pwr.waking = false) (hslice : s.jig.waitSlice = none)
    (hstage : s.boot.stage = .init) (hup : ∀ k ∈ s.allDoms, bit s.pwr.on k = true ∧ (k ∈ s.pwr.ramping → k = d)) :
    ∃ t, exec (.domainWakeComplete d img) s = .next t ∧ t.boot.stage = .ready ∧ t.pwr.state = .run ∧ t.life.nonce = s.draw.1 ∧ t.cmds = s.cmds ∧
      t.mem = s.mem := by
  have hready : (rampEnds s d).wakeOn img = (rampEnds s d).becomeReady := wakeOn_allUp hstage (rampEnds_allUp hup)
  have hnone : (rampEnds s d).becomeReady.jig.waitSlice = none := (congrArg Jig.waitSlice becomeReady_jig).trans hslice
  refine ⟨_, exec_domainWakeComplete_startUp hhub hramps hwaking, ?_⟩
  rw [hready, startWaiting_of_none hnone]
  exact becomeReady_starts

end

end

/-- Settles O41: the power inputs, the wakes and the rail, row by row. -/
theorem domainsWake : Obligations.DomainsWake := by
  unfold Obligations.DomainsWake
  intro s v img
  refine ⟨rfl, supplyWarn_rises, fun t hreset hhigh hsince => supplyWarn_falls hreset hhigh hsince, fun d r hqueue hscan hrail hcost =>
      ⟨wakeStart_starts hqueue hscan hrail hcost, wakeStart_waits hqueue⟩, fun d hhub hramps hwaking hslice =>
      ⟨domainWakeComplete_ready hhub hramps hwaking hslice, domainWakeComplete_last hhub hramps hwaking hslice⟩,
    kxRailDetect_awaits, fun c hc hreset hrun => ⟨_, exec_railLost hc hreset, railDown_offs hrun⟩⟩

/-! LEAN and PASS (R445, R468, R470). -/

section
variable {s : State} {d : Nat} {e : Ext}

theorem idleTimer_gates (hlean : s.pwr.state = .lean) (hdom : s.dom d = true) (hbuilt : s.domBuilt d = true) (hidle : s.domIdle d = true) (hhub : 96 ≤ d)
    (hstandby : d ≠ 95 + s.svc.standby) : exec (.idleTimer d) s = .next { s with pwr := { s.pwr with
      on := setBit s.pwr.on d false
      ramping := s.pwr.ramping.filter (· != d)
      queue := s.pwr.queue.filter (· != d) } } := by
  refine congrArg Host.Outcome.next ((if_pos ⟨hlean, hdom, hbuilt, hidle⟩).trans ?_)
  unfold State.domainOff
  dsimp only
  rw [if_neg (show ¬(d < 96 ∧ d % 3 = 0 ∧ (s.st (d / 3)).moverOn = true) by omega), if_neg (show ¬(d < 96 ∧ d % 3 ≠ 0) by omega), if_neg hstandby]

/-- The stores a PASS entry parks. -/
def parkedStores (s : State) : List (Nat × Nat) := s.sto.mount.entries.filterMap fun p => p.2.map fun i => (p.1, i)

theorem checkpoints_frame (l : List (Nat × Nat)) (s : State) : ∃ sto, l.foldl (fun s p => s.onMedia p.1 Media.checkpoint) s = { s with sto := sto } := by
  induction l generalizing s with
  | nil => exact ⟨_, rfl⟩
  | cons p l ih =>
    obtain ⟨sto, h⟩ := onMedia_frame (s := s) p.1 Media.checkpoint
    rw [List.foldl_cons, h]
    exact ih _

theorem quiet_noCapture (hquiet : s.quiet = true) : s.cap.run = none := by
  unfold State.quiet at hquiet
  simp only [Bool.and_eq_true, Option.isNone_iff_eq_none] at hquiet
  exact hquiet.1.1.1.1.1

theorem passEntry_parks (hstate : s.pwr.state = .run ∨ s.pwr.state = .lean) (htarget : s.pwr.target = .pass) (hstage : s.boot.stage = .ready)
    (hreset : s.boot.resetHeld = 0) (hhalted : s.life.halted = 0) (hquiet : s.quiet = true) (hfits : s.parkFits = true) (hfault : storeFault e = none) :
    ∃ t, exec (.passEntry e) s = .next t ∧ t.pwr.state = .pass ∧ t.sto.mount = .const none ∧ t.pwr.parkStores = parkedStores s ∧
      (∀ k, k < 115 → k ≠ 111 → bit t.pwr.on k = false) ∧ t.keys = s.keys ∧ t.regions = s.regions ∧ t.sync = s.sync := by
  have hgoes : (s.pwr.state = .run ∨ s.pwr.state = .lean) ∧ s.pwr.target = .pass ∧ s.boot.stage = .ready ∧ s.boot.resetHeld = 0 ∧
      s.life.halted = 0 ∧ s.quiet = true ∧ s.parkFits = true ∧ (storeFault e).isNone = true :=
    ⟨hstate, htarget, hstage, hreset, hhalted, hquiet, hfits, by rw [hfault]; rfl⟩
  refine ⟨_, congrArg Host.Outcome.next (if_pos hgoes), rfl, rfl, rfl, ?_⟩
  dsimp only
  obtain ⟨sto, hsto⟩ := checkpoints_frame (parkedStores s) s
  obtain ⟨u, hu⟩ : ∃ u, u = ((parkedStores s).foldl (fun s p => s.onMedia p.1 Media.checkpoint) s).undefBuf
      (((parkedStores s).foldl (fun s p => s.onMedia p.1 Media.checkpoint) s).pwr.parkBase.toNat)
      (((parkedStores s).foldl (fun s p => s.onMedia p.1 Media.checkpoint) s).parkNeed * 65536) := ⟨_, rfl⟩
  have hkept : u.keys = s.keys ∧ u.regions = s.regions ∧ u.sync = s.sync ∧ u.cap = s.cap := by
    rw [hu, hsto]
    exact ⟨rfl, rfl, rfl, rfl⟩
  obtain ⟨ukeys, uregions, usync, ucap⟩ := hkept
  obtain ⟨hkeeps, hoff⟩ := offKeeps_domainsOff (· = 111) (List.range 115) (s := u) (by rw [ucap]; exact quiet_noCapture hquiet)
  rw [hu] at hkeeps hoff ukeys uregions usync
  have hall : ∀ k, k < 115 → k ∈ List.range 115 := fun k => List.mem_range.mpr
  generalize List.range 115 = l at hkeeps hoff hall ⊢
  exact ⟨fun k hk hne => hoff k (hall k hk) hne, hkeeps.keys.trans ukeys, hkeeps.regions.trans uregions, hkeeps.sync.trans usync⟩

end

/-- Settles O42: a gated hub domain, and the entry into PASS. -/
theorem powerStatesMove : Obligations.PowerStatesMove := by
  unfold Obligations.PowerStatesMove
  exact fun s d e => ⟨idleTimer_gates, passEntry_parks⟩

end Sys2Proof.Proofs
end

section
/-! PROOFS. The test port: the lamp's request and response scans and the manual jig (R70, R462, R463, R507). -/

namespace Sys2Proof.Proofs
open Sys2Proof Sys2Proof.Machine Sys2Proof.Laws

section
variable {s : State}

/-! The lamp (R462, R463, R464). -/

theorem clearDrbg_life (s : State) : s.clearDrbg.life = s.life := rfl

theorem life_of_lifeBoot {u : State} (h : lifeBoot u = lifeBoot s) : u.life = s.life := congrArg Prod.fst h

/-- A change of the level, a rise to LAMP3 too, moves in the lamp's registers the level and the halt bits. -/
theorem setLamp_life {v : Nat} (hv : v ≠ s.life.level) : (s.setLamp v).life = { s.life with
    level := v
    halt := if v < 2 then 0 else s.life.halt
    halted := if v < 2 then 0 else s.life.halted } := by
  unfold State.setLamp
  extract_lets old s1 lf s2
  have h1 : s1.life = s.life := by
    unfold s1
    split
    · exact (clearDrbg_life _).trans (life_of_lifeBoot (lifeBoot_zeroAllKeys s))
    · rfl
  have h2 : s2.life = { s.life with
      level := v
      halt := if v < 2 then 0 else s.life.halt
      halted := if v < 2 then 0 else s.life.halted } := by
    unfold s2 lf
    rw [h1]
  obtain ⟨dg, tu, po, su, cn, cw, hnote⟩ := noteChange_frame s2 2 old v false
  rw [if_neg hv, hnote]
  exact h2

/-- The level asked for is set, and what a change of the level does not move stays. -/
theorem setLamp_sets (v : Nat) : (s.setLamp v).life.level = v ∧ (s.setLamp v).life.fails = s.life.fails ∧ (s.setLamp v).life.life = s.life.life ∧
    (s.setLamp v).life.request = s.life.request := by
  by_cases hv : v = s.life.level
  · have hstays : s.setLamp v = s := if_pos hv
    rw [hstays]
    exact ⟨hv.symm, rfl, rfl, rfl⟩
  · rw [setLamp_life hv]
    exact ⟨rfl, rfl, rfl, rfl⟩

theorem lampRequest_lowers {v : BitVec 8} (hreset : s.boot.resetHeld ≠ 2) (hlow : v.toNat < s.life.level) (hmax : s.life.level ≤ 3) :
    ∃ u, exec (.lampUnlockRequest v) s = .next u ∧ u.life.level = v.toNat ∧ u.keys = s.keys ∧ bit u.port.irqStatus 7 = true := by
  have hmod : v.toNat % 4 = v.toNat := Nat.mod_eq_of_lt (by omega)
  have hset : s.lampRequest v = s.setLamp v.toNat := by
    unfold State.lampRequest
    dsimp only
    rw [hmod, if_neg (by omega), if_pos hlow]
  obtain ⟨hlife, hcause, hkeys⟩ := setLamp_lowers (s := s) (v := v.toNat) (by omega) (by omega)
  refine ⟨_, congrArg Host.Outcome.next ((if_neg hreset).trans hset), ?_, hkeys, hcause⟩
  rw [hlife]

theorem lampRequest_challenges {v : BitVec 8} (hreset : s.boot.resetHeld ≠ 2) (hv : v.toNat < 4) (hhigh : s.life.level < v.toNat)
    (hceiling : v.toNat ≤ s.life.ceiling) (hstage : s.boot.stage = .ready) (hbackoff : s.life.backoff = false) :
    ∃ u, exec (.lampUnlockRequest v) s = .next u ∧ u.life = { s.life with request := some (v.toNat, s.draw.1) } ∧ u.sump = s.sump ∧ u.dgt = s.dgt := by
  have hdraw : s.lampRequest v = { s.draw.2 with life := { s.draw.2.life with request := some (v.toNat, s.draw.1) } } := by
    unfold State.lampRequest
    dsimp only
    rw [Nat.mod_eq_of_lt hv, if_neg (by omega), if_neg (by omega), if_neg (by omega), if_pos ⟨hceiling, hstage, by rw [hbackoff]; rfl⟩]
  refine ⟨_, congrArg Host.Outcome.next ((if_neg hreset).trans hdraw), rfl, rfl, rfl⟩

theorem lampResponse_answers {r t : BitVec 384} {l : Nat} {n : BitVec 64} (hreset : s.boot.resetHeld ≠ 2) (hrequest : s.life.request = some (l, n))
    (hr : r ≠ 0) : ∃ u, exec (.lampUnlockResponse r t) s = .next u ∧ u.life.request = none ∧
      (if s.life.life = .manuf ∧ s.unsigned = true ∨ s.signedBy (s.challenge.take 48) r t = true
       then u.life.level = l ∧ u.life.fails = 0 ∧ u.life.life = s.life.life
       else u = { s with life := { s.life with request := none, fails := satAdd 8 s.life.fails 1, backoff := true } }) := by
  have hexec : exec (.lampUnlockResponse r t) s = .next (s.lampResponse r t) :=
    congrArg Host.Outcome.next ((if_neg hreset).trans (if_neg fun h => hr h.1))
  refine ⟨_, hexec, ?_⟩
  unfold State.lampResponse
  rw [hrequest]
  dsimp only
  by_cases hgood : s.life.life = .manuf ∧ s.unsigned = true ∨ s.signedBy (s.challenge.take 48) r t = true
  · rw [if_pos hgood, if_pos hgood]
    obtain ⟨hlevel, hfails, hlife, hreq⟩ := setLamp_sets (s := { s with life := { s.life with request := none, fails := 0, backoff := false } }) l
    exact ⟨hreq, hlevel, hfails, hlife⟩
  · rw [if_neg hgood, if_neg hgood]
    exact ⟨rfl, rfl⟩

/-! The manual jig (R507). -/

/-- A session just opened. -/
def openedJig (s : State) : State := { s with
  life := { s.life with tapIr := 0x21 }
  jig := { s.jig with manual := true, inSession := 0, lastRes := 0, lastClass := 0, lastUnit := 0, lastSeg := 0 } }

theorem openJig_opens (hallowed : s.jigAllowed = true) (hmanual : s.jig.manual = false) : s.openJig = openedJig s := by
  unfold State.openJig State.loadIr
  rw [hallowed, hmanual]
  rfl

theorem exec_jigOpen {c : Instr} (hreset : s.boot.resetHeld ≠ 2) (hc : c = .jigManualSession true ∨ c = .tapInstruction 0x21) :
    exec c s = .next s.openJig := by
  rcases hc with rfl | rfl
  · exact congrArg Host.Outcome.next ((if_neg hreset).trans (if_pos rfl))
  · exact congrArg Host.Outcome.next (if_neg hreset)

theorem exec_jigLeft {c : Instr} (hreset : s.boot.resetHeld ≠ 2) (hc : c = .jigManualSession false ∨ c = .tapInstruction 0x3F) :
    exec c s = .next (s.loadIr 0x3F) := by
  rcases hc with rfl | rfl
  · exact congrArg Host.Outcome.next ((if_neg hreset).trans (if_neg Bool.false_ne_true))
  · exact congrArg Host.Outcome.next (if_neg hreset)

theorem loadIr_bypass (hslice : s.jig.slice = none) : (s.loadIr 0x3F).jig.manual = false ∧ (s.loadIr 0x3F).life = { s.life with tapIr := 0x3F } ∧
    (s.loadIr 0x3F).jig.run = s.jig.run ∧ (s.loadIr 0x3F).cmds = s.cmds := by
  unfold State.loadIr
  rw [hslice]
  cases hmanual : s.jig.manual with
  | false => exact ⟨hmanual, rfl, rfl, rfl⟩
  | true => exact ⟨rfl, rfl, rfl, rfl⟩

/-- The slice that waits starts where the jig and its unit are free and the window holds (R501, R503). -/
theorem startWaiting_starts {w : Nat × Nat × Nat} (hwait : s.jig.waitSlice = some w) (hslice : s.jig.slice = none)
    (hwindow : inWindow s.jig.vdd s.jig.tj = true) (hjig : s.dom 110 = true) (hunit : s.dom (s.unitDom w.1) = true) (hfree : s.unitFree w.1 = true) :
    s.startWaiting = { s with jig := { s.jig with slice := some w, waitSlice := none, deferred := false } } := by
  unfold State.startWaiting
  rw [hwait]
  dsimp only
  rw [hslice, hwindow, hjig, hunit, hfree, if_neg (by decide), if_neg (by decide)]

/-- A manual slice without hold of a unit that is built: it waits, and starts as soon as it may. -/
theorem manualSlice_starts {w : BitVec 64} {o : SliceOutcome} {p : Nat} (hmanual : s.jig.manual = true) (hslice : s.jig.slice = none)
    (hgo : bit w 63 = true) (hhold : bit w 62 = false) (hp : s.posOf (fld w 59 58) (fld w 57 48) = some p) (hrest : fld w 47 0 = 0) (hpattern : fld w 61 60 ≠ 3)
    (hrun : s.pwr.state = .run) (hwindow : inWindow o.vdd o.tj = true) (hjig : s.dom 110 = true) (hunit : s.dom (s.unitDom p) = true)
    (hfree : s.unitFree p = true) : s.manualSlice w o = { s with jig := { s.jig with
      vdd := o.vdd
      tj := o.tj
      slice := some (p, fld w 61 60, 1)
      waitSlice := none
      deferred := false } } := by
  obtain ⟨u, hu⟩ : ∃ u, u = { s with jig := { s.jig with vdd := o.vdd, tj := o.tj, waitSlice := some (p, fld w 61 60, 1) } } := ⟨_, rfl⟩
  have hstarts : u.startWaiting = { u with jig := { u.jig with slice := some (p, fld w 61 60, 1), waitSlice := none, deferred := false } } := by
    rw [hu]
    exact startWaiting_starts rfl hslice hwindow hjig hunit hfree
  have hnone : [110, s.unitDom p].filter (fun d => !s.dom d) = [] := by simp [hjig, hunit]
  unfold State.manualSlice
  rw [hmanual, hgo, if_neg (by decide)]
  dsimp only
  rw [hp, hhold]
  dsimp only
  rw [if_neg (by rw [hrest, hrun]; simp [hpattern]), if_pos hwindow]
  have hoff : ([110, u.unitDom p].filter fun d => !u.dom d) = [] := by rw [hu]; exact hnone
  have hgoes : (u.wantDoms ([110, u.unitDom p].filter fun d => !u.dom d)).startWaiting = u.startWaiting := by rw [hoff]; rfl
  rw [hu] at hgoes hstarts
  exact hgoes.trans hstarts

end

/-- Settles O43: the scans of the lamp and of the manual jig, scan by scan. -/
theorem testPortIsHeard : Obligations.TestPortIsHeard := by
  unfold Obligations.TestPortIsHeard
  intro s v r t w o hreset
  refine ⟨lampRequest_lowers hreset, lampRequest_challenges hreset, fun l n hrequest hr => lampResponse_answers hreset hrequest hr, rfl,
    fun hallowed hmanual c hc => ?_, fun hslice c hc => ⟨_, exec_jigLeft hreset hc, loadIr_bypass hslice⟩,
    fun p hmanual hslice hgo hhold hp hrest hpattern hrun hwindow hjig hunit hfree => ?_⟩
  · exact (exec_jigOpen hreset hc).trans (congrArg Host.Outcome.next (openJig_opens hallowed hmanual))
  · exact congrArg Host.Outcome.next ((if_neg hreset).trans
      (manualSlice_starts hmanual hslice hgo hhold hp hrest hpattern hrun hwindow hjig hunit hfree))

end Sys2Proof.Proofs
end

section
/-! PROOFS. The self-test: SELF_TEST, periodic slices, their ends, and the cells that fail (R322, R501-R506). -/

namespace Sys2Proof.Proofs
open Sys2Proof Sys2Proof.Machine Sys2Proof.Laws

/-! The record of a slice that passes. -/

/-- What a slice of the self-test leaves as it is, a failure apart. -/
structure SliceKeeps (s t : State) : Prop where
  cmds : t.cmds = s.cmds
  mem : t.mem = s.mem
  chambers : t.chambers = s.chambers
  regions : t.regions = s.regions
  keys : t.keys = s.keys
  svc : t.svc = s.svc

theorem SliceKeeps.refl (s : State) : SliceKeeps s s := ⟨rfl, rfl, rfl, rfl, rfl, rfl⟩

theorem SliceKeeps.trans {s t u : State} (h : SliceKeeps s t) (h' : SliceKeeps t u) : SliceKeeps s u :=
  ⟨h'.cmds.trans h.cmds, h'.mem.trans h.mem, h'.chambers.trans h.chambers, h'.regions.trans h.regions, h'.keys.trans h.keys, h'.svc.trans h.svc⟩

theorem reinit_frame (s : State) (p : Nat) : ∃ sti, s.reinit p = { s with stiles := sti } := by
  unfold State.reinit
  split
  · split
    · split <;> exact ⟨_, rfl⟩
    · exact ⟨_, rfl⟩
  · exact ⟨_, rfl⟩

/-- The registers of the jig after a slice of unit `p` that did not fail. -/
def SlicePassed (s : State) (p : Nat) (j : Jig) : Prop :=
  (j.units.get p).passed = satAdd 32 (s.jig.units.get p).passed 1 ∧ (j.units.get p).failed = (s.jig.units.get p).failed ∧ j.run = s.jig.run + 1 ∧
    j.failures = s.jig.failures ∧ j.slice = s.jig.slice ∧ j.waitSlice = s.jig.waitSlice ∧ j.yieldAll = s.jig.yieldAll

/-- A slice of unit `p` without a failure, from `s` to `t`. -/
def PassedFrom (s t : State) (p : Nat) (miss : Bool) : Prop :=
  SliceKeeps s t ∧ SlicePassed s p t.jig ∧ (miss = false → t.sump = s.sump)

theorem PassedFrom.reinit {s v : State} {p : Nat} {miss : Bool} (h : PassedFrom s v p miss) : PassedFrom s (v.reinit p) p miss := by
  obtain ⟨sti, heq⟩ := reinit_frame v p
  rw [heq]
  exact ⟨h.1.trans ⟨rfl, rfl, rfl, rfl, rfl, rfl⟩, h.2⟩

theorem PassedFrom.log {s v : State} {p : Nat} {b : Bool} (h : PassedFrom s v p b) (c : BitVec 16) (k i : Nat) (ch : Option Nat) (d : List Byte) :
    PassedFrom s (v.log c 0 k i ch d) p true := by
  obtain ⟨tu, po, su, cn, cw, heq⟩ := log_frame_ex (s := v) c 0 k i ch d
  rw [heq]
  exact ⟨h.1.trans ⟨rfl, rfl, rfl, rfl, rfl, rfl⟩, h.2.1, nofun⟩

theorem sliceRecord_passes (s : State) (p pattern : Nat) (miss : Bool) (segment : Nat) :
    PassedFrom s (s.sliceRecord p pattern miss false segment) p miss := by
  rcases hunit : s.useTime.unitAt p with ⟨cls, i⟩
  unfold State.sliceRecord
  dsimp only
  rw [hunit]
  dsimp only
  cases miss with
  | false =>
    rw [if_neg (show ¬(false && false) = true from Bool.false_ne_true), if_neg Bool.false_ne_true]
    refine .reinit ⟨⟨rfl, rfl, rfl, rfl, rfl, rfl⟩, ⟨?_, ?_, rfl, rfl, rfl, rfl, rfl⟩, fun _ => rfl⟩
    · exact (congrArg JigUnit.passed (get_modify_self ..)).trans rfl
    · exact (congrArg JigUnit.failed (get_modify_self ..)).trans (Bool.or_false _)
  | true =>
    rw [if_neg (show ¬(true && false) = true from Bool.false_ne_true), if_pos rfl]
    refine .reinit (.log (b := false) ?_ ..)
    refine ⟨⟨rfl, rfl, rfl, rfl, rfl, rfl⟩, ⟨?_, ?_, rfl, rfl, rfl, rfl, rfl⟩, fun _ => rfl⟩
    · exact (congrArg JigUnit.passed (get_modify_self ..)).trans rfl
    · exact (congrArg JigUnit.failed (get_modify_self ..)).trans (Bool.or_false _)

/-! SELF_TEST (R506). -/

/-- The slices of a SELF_TEST in which no unit fails. -/
theorem testUnits_pass {o : SliceOutcomes} (hfailed : o.failed = []) (pattern : Nat) (l : List Nat) (s : State) :
    let t := l.foldl (fun s p => s.testUnit pattern o p) s
    SliceKeeps s t ∧ t.jig.run = s.jig.run + l.length ∧ t.jig.yieldAll = s.jig.yieldAll := by
  induction l generalizing s with
  | nil => exact ⟨.refl s, rfl, rfl⟩
  | cons p l ih =>
    have htest : s.testUnit pattern o p = s.sliceRecord p pattern (o.failed.contains p || o.transients.contains p) false o.segment := by
      unfold State.testUnit
      rw [hfailed]
      rfl
    obtain ⟨hkeeps, ⟨-, -, hrun, -, -, -, hyield⟩, -⟩ := sliceRecord_passes s p pattern (o.failed.contains p || o.transients.contains p) o.segment
    obtain ⟨lkeeps, lrun, lyield⟩ := ih (s.testUnit pattern o p)
    rw [htest] at lkeeps lrun lyield
    rw [List.foldl_cons, htest]
    exact ⟨hkeeps.trans lkeeps, by rw [lrun, hrun, List.length_cons]; omega, lyield.trans hyield⟩

section
variable {s : State} {x : Sub} {o : SliceOutcomes}

/-- The units in service. -/
def testedUnits (s : State) : List Nat := (List.range s.sweepLen).filter fun p => !s.unitFailed p

/-- The block after a SELF_TEST in which no unit fails. -/
def selfTested (s : State) (x : Sub) (o : SliceOutcomes) : State :=
  let t := (testedUnits s).foldl (fun s p => s.testUnit (if fld x.a 1 0 = 1 then 0 else 2) o p) s
  { t with jig := { t.jig with yields := satAdd 16 t.jig.yields o.yields, yieldAll := t.jig.yieldAll + o.yields, deferred := false } }

theorem bodySelfTest_tests (hmanual : s.jig.manual = false) (hslice : s.jig.slice = none) (hjig : s.dom 110 = true)
    (hunits : ∀ p ∈ testedUnits s, s.dom (s.unitDom p) = true) (hwindow : inWindow s.jig.vdd s.jig.tj = true) (hfailed : o.failed = []) :
    ∃ w, bodySelfTest x o s = ended (selfTested s x o) sOk 0 (testedUnits s).length w := by
  have hoff : ((110 :: (testedUnits s).map s.unitDom).eraseDups).filter (fun d => !s.dom d) = [] := by
    refine List.filter_eq_nil_iff.mpr fun d hd => ?_
    rcases List.mem_cons.mp (List.mem_eraseDups.mp hd) with rfl | hd
    · rw [hjig]
      exact Bool.false_ne_true
    · obtain ⟨p, hp, rfl⟩ := List.mem_map.mp hd
      rw [hunits p hp]
      exact Bool.false_ne_true
  have hbad : (testedUnits s).filter o.failed.contains = [] := by
    rw [hfailed]
    exact List.filter_eq_nil_iff.mpr fun _ _ => Bool.false_ne_true
  unfold bodySelfTest
  dsimp only
  have hoff' : ((110 :: ((List.range s.sweepLen).filter fun p => !s.unitFailed p).map s.unitDom).eraseDups).filter (fun d => !s.dom d) = [] := hoff
  have hbad' : ((List.range s.sweepLen).filter fun p => !s.unitFailed p).filter o.failed.contains = [] := hbad
  rw [hmanual, hslice, if_neg (by decide), hoff', if_neg (by decide), hwindow, if_neg (by decide), hbad']
  exact ⟨_, rfl⟩

theorem selfTest_ends {x0 : Sub} {e : Ext} (hheld : s.holdsCmd (.selfTest x0 e o) x) (hmanual : s.jig.manual = false) (hslice : s.jig.slice = none)
    (hjig : s.dom 110 = true) (hunits : ∀ p ∈ testedUnits s, s.dom (s.unitDom p) = true) (hwindow : inWindow s.jig.vdd s.jig.tj = true)
    (hfailed : o.failed = []) : ∃ u, Ends (.selfTest x0 e o) s x sOk 0 (testedUnits s).length u ∧ u.jig.run = s.jig.run + (testedUnits s).length ∧
      u.jig.yieldAll = s.jig.yieldAll + o.yields ∧ u.mem = s.mem ∧ u.chambers = s.chambers ∧ u.regions = s.regions ∧ u.keys = s.keys := by
  obtain ⟨w, hbody⟩ := bodySelfTest_tests (x := x) hmanual hslice hjig hunits hwindow hfailed
  obtain ⟨⟨hcmds, hmem, hchambers, hregions, hkeys, -⟩, hrun, hyield⟩ := testUnits_pass hfailed (if fld x.a 1 0 = 1 then 0 else 2) (testedUnits s) s
  exact ⟨_, ends_runOp (runs_selfTest hheld) hheld.2 hbody hcmds (by decide), hrun, congrArg (· + o.yields) hyield, hmem, hchambers, hregions, hkeys⟩

/-! Slices (R501, R503, R504, R505). -/

/-- The first unit tried takes the slice where it is in service, powered and free. -/
theorem tryUnits_first {u : State} {p : Nat} (l : List Nat) (hfailed : u.unitFailed p = false) (hdom : u.dom (u.unitDom p) = true)
    (hfree : u.unitFree p = true) : u.tryUnits (p :: l) = (u, some p) := by
  unfold State.tryUnits
  rw [hfailed, hdom, hfree, if_neg Bool.false_ne_true, if_neg (by decide), if_pos rfl]

theorem periodicSlice_takes {q : SliceOutcome} (hon : s.periodicOn = true) (hjig : s.dom 110 = true) (hwindow : inWindow q.vdd q.tj = true)
    (hpassed : s.jig.passedOver = []) (hsweep : s.jig.sweep + 1 < s.sweepLen) (hfailed : s.unitFailed s.jig.sweep = false)
    (hdom : s.dom (s.unitDom s.jig.sweep) = true) (hfree : s.unitFree s.jig.sweep = true) :
    exec (.periodicSlice q) s = .next { s with jig := { s.jig with
      vdd := q.vdd
      tj := q.tj
      slice := some (s.jig.sweep, 1, 0)
      sweep := s.jig.sweep + 1 } } := by
  obtain ⟨u, hu⟩ : ∃ u, u = { s with jig := { s.jig with vdd := q.vdd, tj := q.tj, passedOver := [] } } := ⟨_, rfl⟩
  have hlist : ∃ l, (List.range (min 9 (u.sweepLen - u.jig.sweep))).map (u.jig.sweep + ·) = s.jig.sweep :: l := by
    have hlen : u.sweepLen = s.sweepLen := by rw [hu]; rfl
    have hat : u.jig.sweep = s.jig.sweep := by rw [hu]
    obtain ⟨n, hn⟩ : ∃ n, min 9 (s.sweepLen - s.jig.sweep) = n + 1 := ⟨min 9 (s.sweepLen - s.jig.sweep) - 1, by omega⟩
    rw [hlen, hat, hn, List.range_succ_eq_map, List.map_cons]
    exact ⟨_, rfl⟩
  obtain ⟨l, hl⟩ := hlist
  have htry : u.tryUnits (s.jig.sweep :: l) = (u, some s.jig.sweep) := by
    rw [hu]
    exact tryUnits_first l hfailed hdom hfree
  have hpast : (u.sweepPast s.jig.sweep).takePeriodic s.jig.sweep = { s with jig := { s.jig with
      vdd := q.vdd
      tj := q.tj
      slice := some (s.jig.sweep, 1, 0)
      sweep := s.jig.sweep + 1 } } := by
    have hmore : ¬u.sweepLen ≤ s.jig.sweep + 1 := by
      rw [hu]
      exact Nat.not_le.mpr hsweep
    unfold State.sweepPast
    dsimp only
    rw [if_neg hmore, hu]
    dsimp only [State.takePeriodic]
    rw [← hpassed]
  refine congrArg Host.Outcome.next ?_
  rw [hon, if_neg (by decide), hjig, if_neg (by decide)]
  dsimp only
  rw [hwindow, if_neg (by decide)]
  have hempty : (s.monitor q.vdd q.tj).jig.passedOver = [] := hpassed
  have hover : u = { s.monitor q.vdd q.tj with jig := { (s.monitor q.vdd q.tj).jig with passedOver := [] } } := hu
  have hnil : u.tryUnits [] = (u, none) := rfl
  rw [hempty, ← hover, hnil]
  dsimp only
  rw [hl, htry]
  exact hpast

/-- The slice under way is dropped: the jig's registers keep the rest. -/
theorem dropSlice_frame {p k n : Nat} (hslice : s.jig.slice = some (p, k, n)) : ∃ sti, s.dropSlice = { s with stiles := sti, jig := { s.jig with slice := none } } := by
  obtain ⟨sti, h⟩ := reinit_frame { s with jig := { s.jig with slice := none } } p
  refine ⟨sti, ?_⟩
  unfold State.dropSlice
  rw [hslice]
  exact h

theorem sliceYield_yields {p : Nat} (hslice : s.jig.slice = some (p, 1, 0)) : ∃ u, exec .sliceYield s = .next u ∧ u.jig = { s.jig with
      slice := none
      passedOver := s.jig.passedOver ++ [p]
      yields := satAdd 16 s.jig.yields 1
      yieldAll := s.jig.yieldAll + 1 } ∧ u.cmds = s.cmds ∧ u.mem = s.mem := by
  obtain ⟨sti, h⟩ := dropSlice_frame hslice
  obtain ⟨u, hu⟩ : ∃ u, u = s.dropSlice.yielded := ⟨_, rfl⟩
  have hexec : exec .sliceYield s = .next { u with jig := { u.jig with passedOver := u.jig.passedOver ++ [p] } } := by
    refine congrArg Host.Outcome.next ?_
    rw [hslice]
    dsimp only
    rw [if_neg (by decide), if_pos rfl, ← hu]
  refine ⟨_, hexec, ?_⟩
  rw [hu, h]
  exact ⟨rfl, rfl, rfl⟩

theorem sliceComplete_counts {q : SliceOutcome} {p k : Nat} (hslice : s.jig.slice = some (p, k, 0)) (hwait : s.jig.waitSlice = none)
    (hmiss : q.miss = false) : ∃ u, exec (.sliceComplete q) s = .next u ∧ u.jig.slice = none ∧
      (u.jig.units.get p).passed = satAdd 32 (s.jig.units.get p).passed 1 ∧ (u.jig.units.get p).failed = (s.jig.units.get p).failed ∧
      u.jig.run = s.jig.run + 1 ∧ u.jig.failures = s.jig.failures ∧ u.sump = s.sump ∧ u.svc = s.svc ∧ u.mem = s.mem := by
  obtain ⟨v, hv⟩ : ∃ v, v = { s with jig := { s.jig with slice := none } } := ⟨_, rfl⟩
  have hrecord : v.sliceRecord p k false q.missAgain q.segment = v.sliceRecord p k false false q.segment := by
    unfold State.sliceRecord
    rfl
  obtain ⟨hkeeps, ⟨hpassed, hfailed, hrun, hfailures, hnone, hwaits, -⟩, hsump⟩ := sliceRecord_passes v p k false q.segment
  have hexec : exec (.sliceComplete q) s = .next (v.sliceRecord p k false false q.segment) := by
    refine congrArg Host.Outcome.next ?_
    rw [hslice]
    dsimp only
    rw [if_pos rfl, hmiss, ← hv, hrecord]
    exact startWaiting_of_none (hwaits.trans (by rw [hv]; exact hwait))
  have vkept : v.jig.slice = none ∧ v.jig.units = s.jig.units ∧ v.jig.run = s.jig.run ∧ v.jig.failures = s.jig.failures ∧ v.sump = s.sump ∧
      v.svc = s.svc ∧ v.mem = s.mem := by
    rw [hv]
    exact ⟨rfl, rfl, rfl, rfl, rfl, rfl, rfl⟩
  obtain ⟨vslice, vunits, vrun, vfailures, vsump, vsvc, vmem⟩ := vkept
  rw [vunits] at hpassed hfailed
  exact ⟨_, hexec, hnone.trans vslice, hpassed, hfailed, by rw [hrun, vrun], hfailures.trans vfailures, (hsump rfl).trans vsump, hkeeps.svc.trans vsvc,
    hkeeps.mem.trans vmem⟩

theorem jigWindowRegained_starts {q : SliceOutcome} {w : Nat × Nat × Nat} (hreset : s.boot.resetHeld ≠ 2) (hwindow : inWindow q.vdd q.tj = true)
    (hwait : s.jig.waitSlice = some w) (hslice : s.jig.slice = none) (hjig : s.dom 110 = true) (hunit : s.dom (s.unitDom w.1) = true)
    (hfree : s.unitFree w.1 = true) : exec (.jigWindowRegained q.vdd q.tj) s = .next { s with jig := { s.jig with
      vdd := q.vdd
      tj := q.tj
      slice := some w
      waitSlice := none
      deferred := false } } :=
  congrArg Host.Outcome.next ((if_neg hreset).trans ((if_pos hwindow).trans
    (startWaiting_starts (s := { s with jig := { s.jig with vdd := q.vdd, tj := q.tj, deferred := false } }) hwait hslice hwindow hjig hunit hfree)))

/-! A cell that fails its own check (R322). -/

theorem cellSelfCheckFail_spares {st cell : Nat} (hfree : s.cellFree st cell = true) (hspare : (s.st st).spareAt = none)
    (hgood : (s.st st).spareBad = false) : ∃ u, exec (.cellSelfCheckFail st cell) s = .next u ∧ (u.st st).spareAt = some cell ∧
      (u.st st).disabled = (s.st st).disabled ∧ (∀ k, k ≠ st → u.st k = s.st k) ∧ u = { s with stiles := u.stiles } := by
  have hout : s.cellOut st cell = (s.onCell st cell fun _ => .zero).onSt st fun t => { t with spareAt := some cell } := by
    unfold State.cellOut
    dsimp only
    rw [if_pos ⟨hspare, by rw [hgood]; rfl⟩]
  refine ⟨_, congrArg Host.Outcome.next ((if_pos hfree).trans hout), ?_, ?_, fun k hk => ?_, rfl⟩
  · rw [State.st_onSt]
  · rw [State.st_onSt]
    have hcell : (s.onCell st cell fun _ => .zero).st st = { s.st st with cells := (s.st st).cells.modify cell fun _ => .zero } := State.st_onSt ..
    rw [hcell]
  · rw [State.st_onSt_ne _ _ _ _ hk]
    exact State.st_onSt_ne _ _ _ _ hk

end

/-- Settles O44: the command, and the slices and cells one by one. -/
theorem selfTestsRun : Obligations.SelfTestsRun := by
  unfold Obligations.SelfTestsRun
  exact ⟨fun s x0 x e o hheld hmanual hslice => selfTest_ends hheld hmanual hslice, fun s o st cell =>
    ⟨periodicSlice_takes, fun p => sliceYield_yields, fun p k => sliceComplete_counts, fun w => jigWindowRegained_starts, cellSelfCheckFail_spares⟩⟩

end Sys2Proof.Proofs
end

section
/-! PROOFS. Storage and housekeeping events (R217, R229, R232, R233, R476, R483, R487). -/

namespace Sys2Proof.Proofs
open Sys2Proof Sys2Proof.Machine Sys2Proof.Laws

/-! A zone that is compacted (R229). -/

section
variable (m : Media) (z : Nat)

/-- The places of a zone. -/
def zonePlaces : List Nat := (m.objects.flatMap fun o => o.shards.flatMap fun s => s.places.map (·.2.1)).filter fun p => p / 2 ^ 18 == z

theorem zonePlaces_length : 16 * (zonePlaces m z).length = m.zoneMapped z := by
  unfold zonePlaces Media.zoneMapped
  rw [← List.countP_eq_length_filter, List.countP_flatMap]
  refine congrArg (fun l : List Nat => 16 * l.sum) (List.map_congr_left fun o _ => ?_)
  rw [Function.comp_apply, List.countP_flatMap]
  refine congrArg List.sum (List.map_congr_left fun s _ => ?_)
  rw [Function.comp_apply, List.countP_map, List.countP_eq_length_filter]
  rfl

/-- Where a place of the zone goes: behind the places before it, in the target. -/
def movedPlace (t p : Nat) : Nat := if p / 2 ^ 18 = z then t * 2 ^ 18 + 16 * ((zonePlaces m z).takeWhile (· != p)).length else p

variable {m z}

theorem movedPlace_zone {t : Nat} (hfits : m.zoneMapped z < 2 ^ 16) (ht : t ≠ z) (p : Nat) : movedPlace m z t p / 2 ^ 18 ≠ z := by
  unfold movedPlace
  split
  · have hle : ((zonePlaces m z).takeWhile (· != p)).length ≤ (zonePlaces m z).length := (List.takeWhile_sublist _).length_le
    have hlen := zonePlaces_length m z
    omega
  · assumption

theorem moveZone_unused {t : Nat} (hfits : m.zoneMapped z < 2 ^ 16) (ht : t ≠ z) : (m.moveZone z t).zoneUsed z = false := by
  unfold Media.zoneUsed Media.moveZone
  simp only [List.any_eq_false, List.mem_map]
  rintro o ⟨o', -, rfl⟩
  simp only [List.any_eq_true, List.mem_map, not_exists, not_and]
  rintro s ⟨s', -, rfl⟩ p hp
  obtain ⟨p', -, rfl⟩ := List.mem_map.mp hp
  exact fun h => movedPlace_zone hfits ht p'.2.1 (beq_iff_eq.mp h)

theorem moveZone_ids (t : Nat) : (m.moveZone z t).objects.map (·.id) = m.objects.map (·.id) := by
  unfold Media.moveZone
  dsimp only
  rw [List.map_map]
  rfl

end

section
variable {s : State} {c cid store zone i : Nat} {e : Ext} {m : Media}

/-! Controllers (R232, R233, R476). -/

theorem nvmeCompletion_frees {q : Cqe} (hattached : (s.sto.ctrls.get c).attached = true) (hup : s.sto.down = false)
    (hopen : (s.sto.ctrls.get c).open_.contains q.cid = true) (hsq : q.sqId ≠ 0) (hpairs : q.sqId ≤ (s.sto.ctrls.get c).pairs)
    (hhead : q.sqHead < (s.sto.ctrls.get c).depth) (hok : q.status = 0)
    (hcount : (q.sqHead + (s.sto.ctrls.get c).depth - (s.sto.ctrls.get c).sqHead.get q.sqId) % max (s.sto.ctrls.get c).depth 1 ≤
      (s.sto.ctrls.get c).open_.length) (hblocks : s.cap.blocks = []) :
    exec (.nvmeCompletion c q) s = .next (s.onNvme c fun n => { n with
      open_ := n.open_.filter (· != q.cid)
      timed := n.timed.filter (· != q.cid)
      sqHead := n.sqHead.set q.sqId q.sqHead }) := by
  refine congrArg Host.Outcome.next ?_
  dsimp only
  rw [hattached, hup, if_neg (by decide), hopen,
    if_neg (show ¬((!true) = true ∨ q.sqId = 0 ∨ _ < q.sqId ∨ _ ≤ q.sqHead ∨ _ < _) by simp only [Bool.not_true, Bool.false_eq_true, false_or]; omega),
    if_pos hok]
  rw [show ∀ f, (s.onNvme c f).cap.blocks = [] from fun _ => hblocks]
  rfl

theorem violNvme_counts {d : List Byte} (hfew : (s.sto.ctrls.get c).viol + 1 < s.feat.thNvme) : ∃ tu po su cn cw, s.violNvme c d =
    ({ s with timeUsed := tu, port := po, sump := su, chain := cn, chainW := cw }).onNvme c (fun n => { n with viol := n.viol + 1 }) ∧
      bit po.irqStatus 6 = true := by
  obtain ⟨tu, po, su, cn, cw, hlog, hbit⟩ := logPartner_frame s sMalformed 6 c none d
  obtain ⟨u, hu⟩ : ∃ u : State, u = { s with timeUsed := tu, port := po, sump := su, chain := cn, chainW := cw } := ⟨_, rfl⟩
  have hviol : ((u.onNvme c fun n => { n with viol := n.viol + 1 }).sto.ctrls.get c).viol = (s.sto.ctrls.get c).viol + 1 := by
    rw [hu]
    exact congrArg Nvme.viol (get_modify_self ..)
  have hfeat : (u.onNvme c fun n => { n with viol := n.viol + 1 }).feat = s.feat := by rw [hu]; rfl
  refine ⟨tu, po, su, cn, cw, ?_, hbit⟩
  unfold State.violNvme
  rw [hlog, ← hu]
  dsimp only
  rw [hviol, hfeat]
  exact if_neg fun h => absurd h.1 (by omega)

theorem nvmeCommandTimeout_again (hattached : (s.sto.ctrls.get c).attached = true) (hopen : (s.sto.ctrls.get c).open_.contains cid = true)
    (htimed : (s.sto.ctrls.get c).timed.contains cid = false) (hfew : (s.sto.ctrls.get c).viol + 1 < s.feat.thNvme) :
    ∃ t, exec (.nvmeCommandTimeout c cid) s = .next t ∧ t.sto.ctrls.get c = { s.sto.ctrls.get c with
        timed := (s.sto.ctrls.get c).timed ++ [cid]
        sqHead := .const 0
        viol := (s.sto.ctrls.get c).viol + 1 } ∧
      (∀ k, k ≠ c → t.sto.ctrls.get k = s.sto.ctrls.get k) ∧ bit t.port.irqStatus 6 = true ∧ t.cmds = s.cmds := by
  obtain ⟨tu, po, su, cn, cw, hviol, hbit⟩ := violNvme_counts (d := leBytes 2 cid) hfew
  obtain ⟨u, hu⟩ : ∃ u, u = s.violNvme c (leBytes 2 cid) := ⟨_, rfl⟩
  have hself : u.sto.ctrls.get c = { s.sto.ctrls.get c with viol := (s.sto.ctrls.get c).viol + 1 } := by
    rw [hu, hviol]
    exact get_modify_self ..
  have hother (k : Nat) (hk : k ≠ c) : u.sto.ctrls.get k = s.sto.ctrls.get k := by
    rw [hu, hviol]
    exact get_modify_ne _ _ hk
  have hkept : u.port = po ∧ u.cmds = s.cmds := by
    rw [hu, hviol]
    exact ⟨rfl, rfl⟩
  have hexec : exec (.nvmeCommandTimeout c cid) s = .next (u.onNvme c fun n => { n with timed := n.timed ++ [cid], sqHead := .const 0 }) := by
    refine congrArg Host.Outcome.next ?_
    dsimp only
    rw [hattached, hopen, htimed, if_neg (by decide), ← hu, hself]
    dsimp only
    rw [hattached, if_neg (by decide), if_neg Bool.false_ne_true]
  refine ⟨_, hexec, ?_, fun k hk => (get_modify_ne _ _ hk).trans (hother k hk), by rw [State.onNvme_port, hkept.1]; exact hbit, hkept.2⟩
  have hget : (u.onNvme c fun n => { n with timed := n.timed ++ [cid], sqHead := .const 0 }).sto.ctrls.get c =
      { u.sto.ctrls.get c with timed := (u.sto.ctrls.get c).timed ++ [cid], sqHead := .const 0 } := get_modify_self ..
  rw [hget, hself]

theorem nvmeSmartPoll_keeps {l : List Byte} (hattached : (s.sto.ctrls.get c).attached = true) (hup : s.sto.down = false) :
    exec (.nvmeSmartPoll c l 0) s = .next (s.onNvme c fun n => { n with health := padTo 512 l }) := by
  refine congrArg Host.Outcome.next ?_
  rw [hattached, hup, if_neg (by decide)]
  exact if_neg fun h => h rfl

/-! Checkpoints and compaction (R217, R229). -/

theorem media_lt (hm : s.sto.media[i]? = some m) : i < s.sto.media.length := (List.getElem?_eq_some_iff.mp hm).1

theorem journalCheckpoint_covers (hmount : s.sto.mount.get store = some i) (hm : s.sto.media[i]? = some m)
    (hring : 3 * m.ring < 4 * (m.journalSeq - m.ckptSeq)) (hup : s.storeDown store = none) (hfault : storeFault e = none) :
    ∃ t k, exec (.journalCheckpoint store e) s = .next t ∧ t.sto.media[i]? = some k ∧ k.ckptSeq = m.journalSeq ∧ k.ckptNo = m.ckptNo + 1 ∧
      k.objects = m.objects ∧ t = { s with sto := { s.sto with media := t.sto.media } } := by
  have hexec : exec (.journalCheckpoint store e) s = .next { s with sto := { s.sto with media := s.sto.media.set i m.checkpoint } } := by
    refine congrArg Host.Outcome.next ?_
    rw [mounted_of hmount hm]
    dsimp only
    rw [hup, hfault, if_neg (by simp only [Option.isSome_none, Bool.false_eq_true, or_false]; omega)]
    exact onMedia_of hmount hm Media.checkpoint
  exact ⟨_, m.checkpoint, hexec, List.getElem?_set_self (media_lt hm), rfl, rfl, rfl, rfl⟩

theorem gcCompact_moves {z : Nat} (hmount : s.sto.mount.get store = some i) (hm : s.sto.media[i]? = some m) (hmajor : m.major ≠ 2) (hdata : 3 ≤ zone)
    (hzone : zone < m.zones) (hfits : m.zoneMapped zone < 2 ^ 16) (hrun : s.cap.run = none) (hclamps : s.clamps = []) (hup : s.storeDown store = none)
    (hfault : loadFault e = none) (hz : 3 ≤ z) (hzin : z < m.zones) (hne : z ≠ zone) (hfree : m.zoneUsed z = false) :
    ∃ t k, exec (.gcCompact store zone e) s = .next t ∧ t.sto.media[i]? = some k ∧ k.zoneUsed zone = false ∧
      k.objects.map (·.id) = m.objects.map (·.id) ∧ t = { s with sto := { s.sto with media := t.sto.media } } := by
  obtain ⟨w, hw⟩ : ∃ w, ((List.range m.zones).find? fun z => decide (3 ≤ z ∧ z ≠ zone) && !m.zoneUsed z && !([] : List Nat).contains z) = some w := by
    refine Option.isSome_iff_exists.mp (List.find?_isSome.mpr ⟨z, List.mem_range.mpr hzin, ?_⟩)
    rw [hfree, decide_eq_true ⟨hz, hne⟩]
    rfl
  have hwne : w ≠ zone := by
    have h := List.find?_some hw
    simp only [Bool.and_eq_true, decide_eq_true_eq] at h
    exact h.1.1.2
  have hunclamped : ((m.zoneObjects zone).any fun o => s.clamps.any fun k => s.overlap k.on (.object o)) = false := by
    rw [hclamps]
    exact List.any_eq_false.mpr fun _ _ => Bool.false_ne_true
  have hexec : exec (.gcCompact store zone e) s = .next { s with sto := { s.sto with media := s.sto.media.set i (m.moveZone zone w) } } := by
    refine congrArg Host.Outcome.next ?_
    rw [mounted_of hmount hm]
    dsimp only
    rw [hrun, hup, hfault]
    dsimp only
    rw [hunclamped, if_neg (by simp [hmajor]; omega), hw]
    exact onMedia_of hmount hm fun m => m.moveZone zone w
  exact ⟨_, m.moveZone zone w, hexec, List.getElem?_set_self (media_lt hm), moveZone_unused hfits hwne, moveZone_ids w, rfl⟩

/-! The bitmap (R487). -/

theorem bits_absorb (t : Stile) (row loc : Nat) : (t.absorb row).bits loc = t.bits loc := by
  unfold Stile.bits
  by_cases hrow : loc / 512 = row
  · rw [hrow, absorb_fresh (by rw [absorb_rowFlip_self, absorb_flips])]
  · by_cases hfresh : t.rowFlip.get (loc / 512) = t.flips
    · rw [absorb_fresh (t := t.absorb row) (by rw [absorb_rowFlip_ne hrow, absorb_flips, hfresh]), absorb_fresh hfresh, absorb_get_ne hrow]
    · rw [absorb_get_stale (t := t.absorb row) (by rw [absorb_rowFlip_ne hrow, absorb_flips]; exact hfresh), absorb_get_stale hfresh,
        absorb_lookup_ne hrow, absorb_dflt]

theorem bitmapRowSweep_keeps : ∃ t, exec (.bitmapRowSweep c) s = .next t ∧ (∀ k loc, (t.st k).bits loc = (s.st k).bits loc) ∧
    t = { s with stiles := t.stiles } := by
  cases hrow : ((s.st c).gran.entries.map fun p => p.1 / 512).find? fun r => (s.st c).rowFlip.get r != (s.st c).flips with
  | none =>
    refine ⟨s, congrArg Host.Outcome.next ?_, fun _ _ => rfl, rfl⟩
    dsimp only
    rw [hrow]
  | some row =>
    have hexec : exec (.bitmapRowSweep c) s = .next (s.onSt c fun t => t.absorb row) := by
      refine congrArg Host.Outcome.next ?_
      dsimp only
      rw [hrow]
    refine ⟨_, hexec, fun k loc => ?_, rfl⟩
    by_cases hk : k = c
    · rw [hk, State.st_onSt, bits_absorb]
    · rw [State.st_onSt_ne _ _ _ _ hk]

/-! The spill ring (R483). -/

theorem sumpSpillEntry_spills {x : SumpEntry} (hsize : s.sump.spillSize ≠ 0) (hspill : s.sump.spillFault = false)
    (hroom : s.sump.prod - s.sump.cons < s.sump.ringSize) (hstage : s.boot.stage = .ready) (hport : s.dom 111 = true)
    (hx : s.sump.entries.find? (fun x => !x.spilled) = some x) (hsev : x.severity ≠ 4) (hwm : s.sump.ringAtWm = true) (hwrite : e.writeErr = false) :
    exec (.sumpSpillEntry e) s = .next { s.poke (s.sump.spillBase + s.sump.prod % s.sump.ringSize * 64) x.bytes with sump := { s.sump with
      entries := s.sump.entries.filter (fun y => y.seq != x.seq)
      prod := s.sump.prod + 1 } } := by
  have hleft : (s.sump.entries.filterMap fun y => if y.seq = x.seq then (if x.severity = 4 then some { y with spilled := true } else none) else some y) =
      s.sump.entries.filter fun y => y.seq != x.seq := by
    rw [← List.filterMap_eq_filter]
    refine List.filterMap_congr fun y _ => ?_
    rw [if_neg hsev]
    by_cases hy : y.seq = x.seq
    · rw [if_pos hy, Option.guard, if_neg (by rw [hy, bne_self_eq_false]; exact Bool.false_ne_true)]
    · rw [if_neg hy, Option.guard, if_pos (bne_iff_ne.mpr hy)]
  refine congrArg Host.Outcome.next ?_
  rw [hspill, if_neg (by simp [hsize, hstage]; omega), hx]
  dsimp only
  rw [hport, if_neg (by decide), hwrite]
  unfold State.spillOne
  dsimp only
  rw [if_neg Bool.false_ne_true, hwm]
  refine (if_pos rfl).trans ?_
  exact congrArg (fun l => { s.poke (s.sump.spillBase + s.sump.prod % s.sump.ringSize * 64) x.bytes with sump := { s.sump with
    entries := l
    prod := s.sump.prod + 1 } }) hleft

end

/-- Settles O45: each event in turn. -/
theorem storageEventsAreHandled : Obligations.StorageEventsAreHandled := by
  unfold Obligations.StorageEventsAreHandled
  intro s c cid store zone q log e
  refine ⟨?_, ?_, nvmeSmartPoll_keeps, fun i m hmount hm => journalCheckpoint_covers hmount hm, fun i m z hmount hm => gcCompact_moves hmount hm,
    bitmapRowSweep_keeps, fun x => sumpSpillEntry_spills, rfl, rfl, rfl⟩
  · rintro n rfl
    exact nvmeCompletion_frees
  · rintro n rfl
    exact nvmeCommandTimeout_again

end Sys2Proof.Proofs
end

section
/-! PROOFS. The service cores and SRAM faults (R489-R497). -/

namespace Sys2Proof.Proofs
open Sys2Proof Sys2Proof.Machine Sys2Proof.Laws

/-! What an entry of the log and a replacement reason leave. -/

section
variable (s : State)

theorem place_minSev (u : Sump) (e : SumpEntry) : (u.place e).minSev = u.minSev := by
  unfold Sump.place
  dsimp only
  split
  · rfl
  · split
    · rfl
    · split
      · split <;> rfl
      · rfl

theorem record_minSev (u : Sump) (now : Nat) (c : BitVec 16) (v k i : Nat) (ch : Option Nat) (d : List Byte) :
    (u.record now c v k i ch d).minSev = u.minSev := by
  unfold Sump.record
  split
  · rfl
  · split
    · rfl
    · exact place_minSev ..

/-- A FATAL entry that is not filtered sets cause 0 (R484). -/
theorem log_fatal_cause {c : BitVec 16} (k i : Nat) (ch : Option Nat) (d : List Byte) (hmin : s.sump.minSev ≤ 4) :
    bit (s.log c 4 k i ch d).port.irqStatus 0 = true := by
  unfold State.log
  extract_lets s1 u first crossed u1 u2 s2 s3
  have hminSev : u2.minSev ≤ 4 := by
    have hu : u.minSev ≤ 4 := by
      unfold u
      rw [record_minSev]
      exact hmin
    unfold u2
    split
    · rw [record_minSev]
      exact hu
    · exact hu
  rw [if_pos ⟨rfl, hminSev⟩]
  obtain ⟨cn, cw, h⟩ := notice_frame (s3.cause 0) 2 c
  rw [h]
  exact bit_setBit _ (by decide) true

theorem setReasons_sets (v : BitVec 16) : ∃ tu po su cn cw, s.setReasons v =
    { s with timeUsed := tu, port := po, sump := su, chain := cn, chainW := cw, svc := { s.svc with reasons := v } } := by
  unfold State.setReasons
  split
  · next h =>
    rw [h]
    exact ⟨_, _, _, _, _, rfl⟩
  · extract_lets old sv s1 s2
    split
    · obtain ⟨tu, po, su, cn, cw, hlog⟩ := log_frame_ex (s := s2) eReplRaised 3 0 0 none (leBytes 2 v.toNat)
      obtain ⟨cn', cw', h⟩ := notice_frame (s2.log eReplRaised 3 0 0 none (leBytes 2 v.toNat)) 1 eReplRaised
      rw [h, hlog]
      exact ⟨_, _, _, _, _, rfl⟩
    · split
      · obtain ⟨tu, po, su, cn, cw, hlog⟩ := log_frame_ex (s := s2) eReplCleared 1 0 0 none []
        obtain ⟨cn', cw', h⟩ := notice_frame (s2.log eReplCleared 1 0 0 none []) 3 eReplCleared
        rw [h, hlog]
        exact ⟨_, _, _, _, _, rfl⟩
      · exact ⟨_, _, _, _, _, rfl⟩

end

/-! The service cores (R489-R494). -/

section
variable {s : State}

theorem setBit_zero_false {w : Nat} (i : Nat) : setBit (0 : BitVec w) i false = 0 := by
  simp [setBit]

/-- A core that is restarted leaves no core dead, and reason 4 cleared (R494, R495). -/
theorem restarted_frame (hdead : s.svc.coreDead = 0) (core : Nat) : ∃ tu po su cn cw rs, s.restarted core true =
    { s with timeUsed := tu, port := po, sump := su, chain := cn, chainW := cw, svc := { s.svc with reasons := rs } } := by
  unfold State.restarted
  obtain ⟨tu, po, su, cn, cw, hlog⟩ := log_frame_ex (s := s) eCoreRestart 1 11 core none (leBytes 1 core ++ leBytes 1 (b2n true))
  rw [hlog]
  dsimp only
  rw [if_neg (by decide), show setBit s.svc.coreDead (core - 1) (!true) = s.svc.coreDead by rw [hdead]; exact setBit_zero_false _, if_pos hdead]
  obtain ⟨tu', po', su', cn', cw', h⟩ := setReasons_sets { s with timeUsed := tu, port := po, sump := su, chain := cn, chainW := cw }
    (setBit s.svc.reasons 4 false)
  exact ⟨tu', po', su', cn', cw', _, h⟩

theorem heartbeatTimeout_fails_over (hbeating : s.beating = true) (hslab : s.svc.standbyOk = true) (hother : s.coreRuns (3 - s.svc.active) = true)
    (hrun : s.cap.run = none) (hwaits : s.cap.waits = []) (hcmds : s.cmds = []) (hdead : s.svc.coreDead = 0) :
    ∃ t, exec .heartbeatTimeout s = .next t ∧ t.svc.active = 3 - s.svc.active ∧ t.svc.standby = s.svc.active ∧ t.svc.standbyOk = false ∧
      t.svc.failovers = satAdd 16 s.svc.failovers 1 ∧ t.svc.journal = [] ∧ t.svc.coreDead = 0 ∧ t.chambers = s.chambers ∧ t.fins = s.fins ∧
      t.mem = s.mem := by
  obtain ⟨tu, po, su, cn, cw, hlog⟩ := log_frame_ex (s := s) eFailover 3 11 s.svc.active none (leBytes 8 s.svc.slab ++ leBytes 4 0)
  obtain ⟨u, hu⟩ : ∃ u : State, u = { s with timeUsed := tu, port := po, sump := su, chain := cn, chainW := cw } := ⟨_, rfl⟩
  have urun : u.cap.run = none := by rw [hu]; exact hrun
  have uwaits : u.cap.waits = [] := by rw [hu]; exact hwaits
  have ucmds : u.cmds = [] := by rw [hu]; exact hcmds
  have unote : u.noteCaptures = u := by
    unfold State.noteCaptures
    rw [urun, uwaits]
    rfl
  have uend : u.capAllEnd = u := by
    unfold State.capAllEnd
    dsimp only
    rw [urun]
    dsimp only
    rw [uwaits]
    rfl
  obtain ⟨v, hv⟩ : ∃ v : State, v = { u.freeNat.2 with svc := { u.svc with
      active := 3 - s.svc.active, standby := s.svc.active, standbyOk := false, failovers := satAdd 16 u.svc.failovers 1
      pauseUs := min u.freeNat.1 65535, journal := [] } } := ⟨_, rfl⟩
  have hexec : exec .heartbeatTimeout s = .next (v.restarted s.svc.active true) := by
    refine congrArg Host.Outcome.next ((if_pos hbeating).trans ?_)
    unfold State.failover
    dsimp only
    rw [hslab, hother, if_pos rfl, hrun, hwaits, hcmds]
    rw [show (((none : Option CapRun).toList ++ [].map CapWait.run).length + (([] : List Cmd).filter fun c => c.sub.opcode == 0x54).length) = 0 from rfl,
      hlog, ← hu, unote, uend, ucmds]
    refine (if_pos rfl).trans ?_
    rw [hv]
    rfl
  have vkept : v.svc.coreDead = 0 ∧ v.svc.failovers = satAdd 16 s.svc.failovers 1 ∧ v.chambers = s.chambers ∧ v.fins = s.fins ∧ v.mem = s.mem := by
    rw [hv, hu]
    exact ⟨hdead, rfl, rfl, rfl, rfl⟩
  have vnew : v.svc.active = 3 - s.svc.active ∧ v.svc.standby = s.svc.active ∧ v.svc.standbyOk = false ∧ v.svc.journal = [] := by
    rw [hv]
    exact ⟨rfl, rfl, rfl, rfl⟩
  obtain ⟨vdead, vover, vchambers, vfins, vmem⟩ := vkept
  obtain ⟨vactive, vstandby, vslab, vjournal⟩ := vnew
  obtain ⟨tu', po', su', cn', cw', rs, hrestart⟩ := restarted_frame vdead s.svc.active
  refine ⟨_, hexec, ?_⟩
  rw [hrestart]
  exact ⟨vactive, vstandby, vslab, vover, vjournal, vdead, vchambers, vfins, vmem⟩

theorem standbyFailure_restarts {core : Nat} (hcore : core = 1 ∨ core = 2) (hother : core ≠ s.svc.active) (hstage : s.boot.stage = .ready)
    (hreset : s.boot.resetHeld = 0) (hdead : s.svc.coreDead = 0) : ∃ t, exec (.controlCoreFailure core true) s = .next t ∧
      t.svc.active = s.svc.active ∧ t.svc.standby = core ∧ t.svc.standbyOk = false ∧ t.svc.coreDead = 0 ∧ t.cmds = s.cmds ∧
      t.chambers = s.chambers ∧ t.mem = s.mem := by
  obtain ⟨v, hv⟩ : ∃ v : State, v = { s with svc := { s.svc with standby := core, standbyOk := false } } := ⟨_, rfl⟩
  have hexec : exec (.controlCoreFailure core true) s = .next (v.restarted core true) := by
    rw [hv]
    refine congrArg Host.Outcome.next ((if_neg ?_).trans ((if_neg (by omega)).trans ((if_neg hother).trans rfl)))
    simp only [hstage, hreset]
    simp
    omega
  obtain ⟨tu, po, su, cn, cw, rs, hrestart⟩ := restarted_frame (s := v) (by rw [hv]; exact hdead) core
  refine ⟨_, hexec, ?_⟩
  rw [hrestart, hv]
  exact ⟨rfl, rfl, rfl, hdead, rfl, rfl, rfl⟩

theorem cc0Watchdog_logs (hreset : s.boot.resetHeld ≠ 2) (hmin : s.sump.minSev ≤ 4) : ∃ t, exec .cc0Watchdog s = .next t ∧
    bit t.port.irqStatus 0 = true ∧ t.boot = s.boot ∧ t.cmds = s.cmds ∧ t.chambers = s.chambers ∧ t.mem = s.mem := by
  obtain ⟨tu, po, su, cn, cw, hlog⟩ := log_frame_ex (s := s) eCoreRestart 4 11 0 none (leBytes 1 0 ++ leBytes 1 1)
  refine ⟨_, congrArg Host.Outcome.next (if_neg hreset), log_fatal_cause s 11 0 none _ hmin, ?_⟩
  rw [hlog]
  exact ⟨rfl, rfl, rfl, rfl⟩

/-! SRAM faults (R495, R497). -/

theorem syncRow_retires {o : Nat} (hreset : s.boot.resetHeld ≠ 2) : ∃ t, exec (.sramFault (.syncObject o) false) s = .next t ∧
    (t.sync.objs.get o).retired = true ∧ bit t.svc.reasons 3 = true ∧ (∀ k, k ≠ o → t.sync.objs.get k = s.sync.objs.get k) ∧ t.mem = s.mem := by
  obtain ⟨u, hu⟩ : ∃ u, u = s.onObj o fun t => { t with retired := true } := ⟨_, rfl⟩
  obtain ⟨tu, po, su, cn, cw, hlog⟩ := log_frame_ex (s := u) sNotInState 4 0 (o % 65536) none []
  obtain ⟨v, hv⟩ : ∃ v : State, v = { u with timeUsed := tu, port := po, sump := su, chain := cn, chainW := cw } := ⟨_, rfl⟩
  have hexec : exec (.sramFault (.syncObject o) false) s = .next (v.raise 3) := by
    refine congrArg Host.Outcome.next ((if_neg (by simp [hreset])).trans ?_)
    rw [hv, ← hlog, hu]
    rfl
  obtain ⟨tu', po', su', cn', cw', hraise⟩ := setReasons_sets v (setBit v.svc.reasons 3 true)
  have hgoes : v.raise 3 = _ := hraise
  have hself : (u.sync.objs.get o).retired = true := by
    rw [hu]
    exact congrArg SyncObj.retired (get_modify_self ..)
  have hne (k : Nat) (hk : k ≠ o) : u.sync.objs.get k = s.sync.objs.get k := by
    rw [hu]
    exact get_modify_ne _ _ hk
  have hmem : u.mem = s.mem := by rw [hu]; rfl
  refine ⟨_, hexec, ?_⟩
  rw [hgoes, hv]
  exact ⟨hself, bit_setBit _ (by decide) true, hne, hmem⟩

end

/-- Settles O46: the cores and the rows, row by row. -/
theorem coresAndRowsFail : Obligations.CoresAndRowsFail := by
  unfold Obligations.CoresAndRowsFail
  intro s o u other
  exact ⟨fun hstage hreset hactive hother => congrArg Host.Outcome.next (if_pos ⟨hstage, hreset, hactive, hother⟩), heartbeatTimeout_fails_over,
    standbyFailure_restarts, cc0Watchdog_logs, congrArg Host.Outcome.next (if_pos (.inr rfl)), syncRow_retires⟩

end Sys2Proof.Proofs
end

section
/-! PROOFS. The rows that act on registers, keys, contexts, wakes, the lamp, the self-test, timers or counters. -/

namespace Sys2Proof.Proofs
open Sys2Proof Sys2Proof.Machine Sys2Proof.Laws

/-- What commands work with: memory, the commands in flight, their completions and clamps, regions, streams, sync objects and watches, the stores, the
captures, the rules. -/
def workedWith (s : State) : Memory × List Cmd × List Machine.Fin × List Clamp × SMap (Option Region) × SMap Stm × SMap StmRun × SMap SyncObj × SMap Watch ×
    List Media × Cap × SMap Trig :=
  (s.mem, s.cmds, s.fins, s.clamps, s.regions, s.trk.stm, s.trk.run, s.sync.objs, s.sync.watches, s.sto.media, s.cap, s.trigs)

theorem workedWith_ite {c : Prop} [Decidable c] {u v s : State} (hu : workedWith u = workedWith s) (hv : workedWith v = workedWith s) :
    workedWith (if c then u else v) = workedWith s := by
  rw [apply_ite workedWith, hu, hv, ite_self]

section
variable (s : State)

/-! Registers that commands do not work with. -/

theorem workedWith_dgt (d : Digest) : workedWith { s with dgt := d } = workedWith s := rfl

theorem workedWith_jig (j : Jig) : workedWith { s with jig := j } = workedWith s := rfl

theorem workedWith_life (l : LifeLamp) : workedWith { s with life := l } = workedWith s := rfl

theorem workedWith_pwr (p : Pwr) : workedWith { s with pwr := p } = workedWith s := rfl

theorem workedWith_drbg (d : Drbg) : workedWith { s with drbg := d } = workedWith s := rfl

theorem workedWith_onUn (n : Nat) (f : ChUnit → ChUnit) : workedWith (s.onUn n f) = workedWith s := rfl

theorem workedWith_onCh (n : Nat) (f : Chamber → Chamber) : workedWith (s.onCh n f) = workedWith s := rfl

theorem workedWith_onSt (n : Nat) (f : Stile → Stile) : workedWith (s.onSt n f) = workedWith s := rfl

theorem workedWith_onKey (n : Nat) (f : KeySlot → KeySlot) : workedWith (s.onKey n f) = workedWith s := rfl

theorem workedWith_setLatch (a : Access) (v : Option (Nat × BitVec 32)) : workedWith (s.setLatch a v) = workedWith s := rfl

theorem workedWith_answer (a : Access) (err : Nat) (v : BitVec 64) : workedWith (s.answer a err v) = workedWith s := rfl

/-! The log, the answers and the writes of the aperture. -/

theorem workedWith_log (c : BitVec 16) (v k i : Nat) (ch : Option Nat) (d : List Byte) : workedWith (s.log c v k i ch d) = workedWith s := by
  rw [log_frame]
  rfl

theorem workedWith_logPartner (c : BitVec 16) (k i : Nat) (ch : Option Nat) (d : List Byte) : workedWith (s.logPartner c k i ch d) = workedWith s :=
  workedWith_log ..

theorem workedWith_ignoredWrite (n : Nat) : workedWith (s.ignoredWrite n) = workedWith s := workedWith_log ..

theorem workedWith_lampDenied (d : List Byte) : workedWith (s.lampDenied d) = workedWith s := workedWith_log ..

theorem workedWith_refuse (a : Access) (err : Nat) : workedWith (s.refuse a err) = workedWith s := workedWith_log ..

theorem workedWith_wantDom (d : Nat) : workedWith (s.wantDom d) = workedWith s := (congrArg workedWith (wantDom_frame s d)).trans rfl

theorem workedWith_wantDoms (l : List Nat) : workedWith (s.wantDoms l) = workedWith s := (congrArg workedWith (wantDoms_frame s l)).trans rfl

theorem workedWith_dropHalf (a : Access) : workedWith (s.dropHalf a) = workedWith s := by
  unfold State.dropHalf
  split
  · exact workedWith_log ..
  · rfl

theorem workedWith_fabWrite (a : Access) (err : Nat) (page : Bool) (addr : Nat) {f : State → State} (hf : ∀ u, workedWith (f u) = workedWith u) :
    workedWith (s.fabWrite a err page addr f) = workedWith s := by
  have hdrop := workedWith_dropHalf s a
  exact workedWith_ite rfl (workedWith_ite ((workedWith_refuse ..).trans hdrop)
    (workedWith_ite ((workedWith_ignoredWrite ..).trans hdrop) ((hf _).trans hdrop)))

theorem workedWith_globalWrite (a : Access) (addr : Nat) {f : State → State} (hf : ∀ u, workedWith (f u) = workedWith u) :
    workedWith (s.globalWrite a addr f) = workedWith s := workedWith_fabWrite _ _ _ _ _ hf

theorem workedWith_dgtWindow (a : Access) (err addr : Nat) {f : State → State} (hf : ∀ u, workedWith (f u) = workedWith u) :
    workedWith (s.dgtWindow a err addr f) = workedWith s :=
  workedWith_ite rfl (workedWith_ite (workedWith_fabWrite _ _ _ _ _ fun _ => rfl) (workedWith_ite (workedWith_wantDom ..)
    (workedWith_fabWrite _ _ _ _ _ hf)))

/-! Digest contexts and HMAC slots. -/

theorem workedWith_ctxError (c code : Nat) : workedWith (s.ctxError c code) = workedWith s := workedWith_logPartner ..

theorem workedWith_ctxPut (c op : Nat) (w : BitVec 64) : workedWith (s.ctxPut c op w) = workedWith s :=
  workedWith_ite (workedWith_ignoredWrite ..) (workedWith_ite (workedWith_ctxError ..) (workedWith_ite (workedWith_ctxError ..)
    (workedWith_ite (workedWith_ctxError ..) rfl)))

theorem workedWith_ctxWrite (c op : Nat) (w : BitVec 64) : workedWith (s.ctxWrite c op w) = workedWith s := workedWith_ite rfl (workedWith_ctxPut ..)

theorem workedWith_drainCtx (c : Nat) (l : List (Nat × BitVec 64)) : workedWith (s.drainCtx c l) = workedWith s := by
  induction l generalizing s with
  | nil => rfl
  | cons p r ih => exact workedWith_ite rfl ((ih _).trans (workedWith_ctxPut ..))

theorem workedWith_message (a : Access) (c off op : Nat) (w : BitVec 64) (wide : Bool) : workedWith (s.message a c off op w wide) = workedWith s :=
  workedWith_ite (workedWith_fabWrite _ _ _ _ _ fun _ => workedWith_ignoredWrite ..) (workedWith_dgtWindow _ _ _ _ fun _ => workedWith_ctxWrite ..)

theorem workedWith_restoreCtx (c : Nat) : workedWith (s.restoreCtx c) = workedWith s := workedWith_ite (workedWith_ctxError ..) rfl

theorem workedWith_ctxCtl (a : Access) (c : Nat) (v : BitVec 32) : workedWith (s.ctxCtl a c v) = workedWith s :=
  workedWith_ite (workedWith_ignoredWrite ..) (workedWith_ite (workedWith_ite rfl rfl) (workedWith_ite rfl
    (workedWith_ite (workedWith_ite (workedWith_ctxError ..) rfl) (workedWith_ite (workedWith_ite (workedWith_restoreCtx ..) rfl)
      (workedWith_ite (workedWith_ite (workedWith_ignoredWrite ..) rfl) (workedWith_ite rfl (workedWith_ignoredWrite ..)))))))

theorem workedWith_ctlWrite (a : Access) (c : Nat) (v : BitVec 32) : workedWith (s.ctlWrite a c v) = workedWith s :=
  workedWith_ite (workedWith_fabWrite _ _ _ _ _ fun _ => workedWith_ignoredWrite ..) (workedWith_dgtWindow _ _ _ _ fun _ => workedWith_ctxCtl ..)

theorem workedWith_zeroHkey (h : Nat) : workedWith (s.zeroHkey h) = workedWith s := workedWith_dgt ..

theorem workedWith_loadHslot (h : Nat) (v : BitVec 32) : workedWith (s.loadHslot h v) = workedWith s :=
  (workedWith_zeroHkey ..).trans (workedWith_ite rfl rfl)

theorem workedWith_hslotCtl (h : Nat) (v : BitVec 32) : workedWith (s.hslotCtl h v) = workedWith s :=
  workedWith_ite (workedWith_ignoredWrite ..) (workedWith_ite (workedWith_ite rfl rfl) (workedWith_ite (workedWith_loadHslot ..) rfl))

/-! Reads of the aperture. -/

theorem workedWith_clearGlobal (w : Nat) : workedWith (s.clearGlobal w) = workedWith s := by
  unfold State.clearGlobal
  split <;> rfl

theorem workedWith_clearPage (ch o : Nat) : workedWith (s.clearPage ch o) = workedWith s := by
  unfold State.clearPage
  split <;> rfl

theorem workedWith_readState (c i : Nat) : workedWith (s.readState c i).2 = workedWith s := by
  unfold State.readState
  dsimp only
  split
  · rfl
  · split <;> rfl

theorem workedWith_readEffects (w : Nat) : workedWith (s.readEffects w) = workedWith s :=
  workedWith_ite (workedWith_clearPage ..) (workedWith_ite (workedWith_readState ..) (workedWith_clearGlobal ..))

theorem workedWith_readWord (a : Access) (addr : Nat) : workedWith (s.readWord a addr) = workedWith s := by
  unfold State.readWord
  dsimp only
  have heffects := workedWith_readEffects s (addr / 8 * 8)
  refine workedWith_ite ?_ (workedWith_ite ?_ ?_)
  · exact (workedWith_setLatch ..).trans ((workedWith_answer ..).trans heffects)
  · exact (workedWith_setLatch ..).trans ((workedWith_answer ..).trans heffects)
  · exact (workedWith_setLatch ..).trans (workedWith_answer ..)

theorem workedWith_refusedRead (a : Access) (err : Nat) : workedWith ((s.refuse a err).setLatch a none) = workedWith s :=
  (workedWith_setLatch ..).trans (workedWith_refuse ..)

theorem workedWith_readDark (a : Access) (addr : Nat) : workedWith (s.readDark a addr) = workedWith s :=
  (workedWith_setLatch ..).trans ((workedWith_answer ..).trans (workedWith_lampDenied ..))

theorem workedWith_readSync (a : Access) (addr : Nat) : workedWith (s.readSync a addr) = workedWith s := by
  unfold State.readSync
  split
  · exact workedWith_readWord ..
  · refine workedWith_ite ?_ (workedWith_ite ?_ ?_)
    · exact (workedWith_onUn ..).trans (workedWith_refusedRead ..)
    · exact workedWith_readDark ..
    · exact workedWith_readWord ..

theorem workedWith_readDigest (a : Access) (addr : Nat) : workedWith (s.readDigest a addr) = workedWith s := by
  unfold State.readDigest
  exact workedWith_ite (workedWith_wantDom ..) (workedWith_ite (workedWith_refusedRead ..) (workedWith_readWord ..))

theorem workedWith_readReg (a : Access) (addr : Nat) : workedWith (s.readReg a addr) = workedWith s := by
  have hword := workedWith_readWord s a addr
  unfold State.readReg
  refine workedWith_ite rfl (workedWith_ite (workedWith_refusedRead ..) (workedWith_ite ?_ (workedWith_ite ?_ ?_)))
  · exact workedWith_ite (workedWith_refusedRead ..) (workedWith_ite ((workedWith_setLatch ..).trans (workedWith_answer ..)) hword)
  · exact workedWith_ite (workedWith_readDark ..) hword
  · exact workedWith_ite (workedWith_readSync ..) (workedWith_ite (workedWith_readDigest ..) hword)

/-! The chain, the table, the power inputs, replacement reasons. -/

theorem workedWith_notice (k : Nat) (c : BitVec 16) : workedWith (s.notice k c) = workedWith s := by
  obtain ⟨cn, cw, h⟩ := notice_frame s k c
  rw [h]
  rfl

theorem workedWith_applyIlv : workedWith s.applyIlv = workedWith s := by
  unfold State.applyIlv
  split
  · exact workedWith_ignoredWrite ..
  · split
    · rfl
    · obtain ⟨ch, h⟩ := zeroWindow_frame (({ s with port := { s.port with ilvLocked := true, ilvError := 0, ilvEntry := 0 } }).extendSg 3
        (sha 1 (ilvBytes s.port.ilv)))
      exact (congrArg workedWith h).trans rfl

theorem workedWith_haltCtl (mask : BitVec 3) : workedWith (s.haltCtl mask) = workedWith s := workedWith_ite (workedWith_lampDenied ..) rfl

theorem workedWith_spillCons (v : Nat) : workedWith (s.spillCons v) = workedWith s := workedWith_ite (workedWith_ignoredWrite ..) rfl

theorem workedWith_raise (k : Nat) : workedWith (s.raise k) = workedWith s := by
  obtain ⟨tu, po, su, cn, cw, sv, h⟩ := setReasons_frame s (setBit s.svc.reasons k true)
  exact (congrArg workedWith h).trans rfl

theorem workedWith_cellOut (st cell : Nat) : workedWith (s.cellOut st cell) = workedWith s := workedWith_ite rfl (workedWith_raise ..)

/-! The jig. -/

theorem workedWith_dropSlice : workedWith s.dropSlice = workedWith s := by
  unfold State.dropSlice
  split
  · rfl
  · next p k _ =>
    obtain ⟨sti, h⟩ := reinit_frame { s with jig := { s.jig with slice := none } } p
    rw [h]
    rfl

theorem workedWith_startWaiting : workedWith s.startWaiting = workedWith s := by
  unfold State.startWaiting
  split
  · rfl
  · exact workedWith_ite rfl (workedWith_ite rfl rfl)

theorem workedWith_loadIr (code : BitVec 6) : workedWith (s.loadIr code) = workedWith s := by
  unfold State.loadIr
  dsimp only
  refine (workedWith_life ..).trans (workedWith_ite ?_ rfl)
  refine (workedWith_jig ..).trans ?_
  split
  · exact workedWith_ite rfl (workedWith_dropSlice s)
  · rfl

theorem workedWith_openJig : workedWith s.openJig = workedWith s :=
  workedWith_ite ((workedWith_lampDenied ..).trans (workedWith_loadIr ..)) (workedWith_ite rfl (workedWith_loadIr ..))

theorem workedWith_manualSlice (v : BitVec 64) (o : SliceOutcome) : workedWith (s.manualSlice v o) = workedWith s := by
  unfold State.manualSlice
  refine workedWith_ite rfl ?_
  dsimp only
  split
  · refine workedWith_ite (workedWith_jig ..) ((workedWith_startWaiting _).trans ((workedWith_wantDoms _ _).trans (workedWith_ite ?_ ?_)))
    · rfl
    · rfl
  · exact workedWith_jig ..

theorem workedWith_tryUnits (l : List Nat) : workedWith (s.tryUnits l).1 = workedWith s := by
  induction l generalizing s with
  | nil => rfl
  | cons p r ih =>
    unfold State.tryUnits
    split
    · exact ih s
    · split
      · exact ih _
      · split
        · rfl
        · exact ih _

theorem workedWith_sweepPast (p : Nat) : workedWith (s.sweepPast p) = workedWith s := workedWith_ite rfl rfl

theorem workedWith_takePeriodic (p : Nat) : workedWith (s.takePeriodic p) = workedWith s := rfl

/-! The rows. -/

section
variable {s} {t : State}

theorem workedWith_next {q : Instr} {u : State} (h : exec q s = .next t) (hu : exec q s = .next u) (hw : workedWith u = workedWith s) :
    workedWith t = workedWith s := by
  obtain rfl := Host.Outcome.next.inj (hu.symm.trans h)
  exact hw

theorem workedWith_dgtMessageDone {c : Nat} (h : exec (.dgtMessageDone c) s = .next t) : workedWith t = workedWith s := by
  refine workedWith_next h rfl (workedWith_ite rfl (workedWith_ite (workedWith_wantDom ..) (workedWith_ite (workedWith_ctxError ..) ?_)))
  exact (workedWith_drainCtx ..).trans (workedWith_dgt ..)

theorem workedWith_hslotWrite (a : Access) (i : Nat) (v : BitVec 32) :
    workedWith (if 32 ≤ i then s.fabWrite a 0 false (hslotAddr i) (·.ignoredWrite (hslotAddr i))
      else s.dgtWindow a (hslotErr a i) (hslotAddr i + 0x80) fun s => s.hslotCtl i v) = workedWith s :=
  workedWith_ite (workedWith_fabWrite _ _ _ _ _ fun _ => workedWith_ignoredWrite ..) (workedWith_dgtWindow _ _ _ _ fun _ => workedWith_hslotCtl ..)

theorem workedWith_keyErr (slot code : Nat) : workedWith (s.keyErr slot code) = workedWith s := by
  unfold State.keyErr
  exact workedWith_ite (workedWith_dgt ..) ((workedWith_logPartner ..).trans (workedWith_dgt ..))

theorem workedWith_keyLoadWord {slot w : Nat} {d : BitVec 64} {par : BitVec 8} (h : exec (.keyLoadWord slot w d par) s = .next t) :
    workedWith t = workedWith s :=
  workedWith_next h rfl (workedWith_ite rfl (workedWith_ite (workedWith_keyErr ..) (workedWith_ite (workedWith_keyErr ..)
    (workedWith_ite (workedWith_keyErr ..) ((workedWith_keyErr ..).trans (workedWith_onKey ..))))))

theorem workedWith_entropyWord {w : BitVec 32} {fail : Bool} (h : exec (.entropyWord w fail) s = .next t) : workedWith t = workedWith s := by
  have hport (d : Drbg) : workedWith { s with drbg := d } = workedWith s := workedWith_drbg ..
  refine workedWith_next h rfl (workedWith_ite rfl (workedWith_ite (hport _) (workedWith_ite ((workedWith_logPartner ..).trans (hport _))
    (workedWith_ite ?_ ?_))))
  · exact (workedWith_drbg ..).trans (hport _)
  · exact (workedWith_drbg ..).trans (hport _)

theorem workedWith_supplyWarn {v : Bool} (h : exec (.supplyWarn v) s = .next t) : workedWith t = workedWith s := by
  refine workedWith_next h rfl (workedWith_ite rfl (workedWith_ite rfl (workedWith_ite ((workedWith_pwr ..).trans rfl) ?_)))
  split
  · rfl
  · exact (workedWith_pwr ..).trans rfl

theorem workedWith_wakeStart (h : exec .wakeStart s = .next t) : workedWith t = workedWith s := by
  refine workedWith_next h rfl ?_
  split
  · rfl
  · exact workedWith_ite rfl (workedWith_pwr ..)

theorem workedWith_timeInRegress {n : Nat} (h : exec (.timeInRegress n) s = .next t) : workedWith t = workedWith s :=
  workedWith_next h rfl (workedWith_ite rfl (workedWith_ite ((workedWith_log ..).trans rfl) rfl))

theorem workedWith_jigWindowRegained {v : BitVec 10} {tj : BitVec 8} (h : exec (.jigWindowRegained v tj) s = .next t) : workedWith t = workedWith s :=
  workedWith_next h rfl (workedWith_ite rfl (workedWith_ite ((workedWith_startWaiting ..).trans (workedWith_jig ..)) (workedWith_jig ..)))

theorem workedWith_periodicSlice {o : SliceOutcome} (h : exec (.periodicSlice o) s = .next t) : workedWith t = workedWith s := by
  refine workedWith_next h rfl (workedWith_ite rfl (workedWith_ite (workedWith_wantDom ..) (workedWith_ite ((workedWith_jig ..).trans (workedWith_jig ..)) ?_)))
  have htry (u : State) (l : List Nat) {v : State} {r : Option Nat} (hu : u.tryUnits l = (v, r)) : workedWith v = workedWith u :=
    (congrArg (fun x => workedWith x.1) hu).symm.trans (workedWith_tryUnits u l)
  dsimp only
  split
  · next u p hold => exact (workedWith_jig ..).trans ((htry _ _ hold).trans rfl)
  · next u hold =>
    split
    · next v p hsweep => exact (workedWith_takePeriodic ..).trans ((workedWith_sweepPast ..).trans ((htry _ _ hsweep).trans ((htry _ _ hold).trans rfl)))
    · next v hsweep => exact (workedWith_sweepPast ..).trans ((htry _ _ hsweep).trans ((htry _ _ hold).trans rfl))

theorem workedWith_sliceYield (h : exec .sliceYield s = .next t) : workedWith t = workedWith s := by
  refine workedWith_next h rfl ?_
  have hdropped : workedWith s.dropSlice.yielded = workedWith s := (workedWith_jig ..).trans (workedWith_dropSlice s)
  split
  · rfl
  · exact workedWith_ite rfl (workedWith_ite ((workedWith_jig ..).trans hdropped) ((workedWith_jig ..).trans hdropped))

theorem workedWith_noticeToken (h : exec .noticeToken s = .next t) : workedWith t = workedWith s := by
  refine workedWith_next h rfl ?_
  split <;> rfl

theorem workedWith_chainTransmit (h : exec .chainTransmit s = .next t) : workedWith t = workedWith s := by
  refine workedWith_next h rfl ?_
  dsimp only
  split
  · rfl
  · rfl
  · rfl
  · exact workedWith_ite rfl rfl

theorem workedWith_violationDecay {p : Partner} (h : exec (.violationDecay p) s = .next t) : workedWith t = workedWith s := by
  refine workedWith_next h rfl ?_
  cases p <;> rfl

theorem workedWith_bitmapRowSweep {n : Nat} (h : exec (.bitmapRowSweep n) s = .next t) : workedWith t = workedWith s := by
  refine workedWith_next h rfl ?_
  dsimp only
  split
  · exact workedWith_onSt ..
  · rfl

theorem workedWith_nvmeSmartPoll {c : Nat} {l : List Byte} {v : BitVec 8} (h : exec (.nvmeSmartPoll c l v) s = .next t) :
    workedWith t = workedWith s :=
  workedWith_next h rfl (workedWith_ite rfl (workedWith_ite ((workedWith_log ..).trans rfl) rfl))

theorem quietRow_keeps {q : Instr} (hq : quietRow q = true) (h : exec q s = .next t) : workedWith t = workedWith s := by
  cases q with
  | readClearAccess a addr => exact workedWith_next h rfl (workedWith_readReg ..)
  | halfWordRead a addr => exact workedWith_next h rfl (workedWith_readReg ..)
  | rsvWmRead a ch => exact workedWith_next h rfl (workedWith_ite (workedWith_readReg ..) rfl)
  | dgtStateRead a c => exact workedWith_next h rfl (workedWith_ite (workedWith_readReg ..) rfl)
  | dgtContextClaim a c v => exact workedWith_next h rfl (workedWith_ctlWrite ..)
  | dgtContextRelease a c v => exact workedWith_next h rfl (workedWith_ctlWrite ..)
  | dgtContextAbort a c v => exact workedWith_next h rfl (workedWith_ctlWrite ..)
  | dgtContextRestore a c v => exact workedWith_next h rfl (workedWith_ctlWrite ..)
  | dgtData a c w wide => exact workedWith_next h rfl (workedWith_message ..)
  | dgtLast a c b w wide => exact workedWith_next h rfl (workedWith_ite rfl (workedWith_message ..))
  | dgtFinish a c wide => exact workedWith_next h rfl (workedWith_message ..)
  | dgtMessageDone c => exact workedWith_dgtMessageDone h
  | hslotLoad a i v => exact workedWith_next h rfl (workedWith_hslotWrite a i _)
  | hslotClear a i => exact workedWith_next h rfl (workedWith_hslotWrite a i _)
  | keyLoadWord slot w d par => exact workedWith_keyLoadWord h
  | keyLoadingTimeout slot => exact workedWith_next h rfl (workedWith_ite ((workedWith_log ..).trans (workedWith_onKey ..)) rfl)
  | entropyWord w fail => exact workedWith_entropyWord h
  | drbgReseedDue => exact workedWith_next h rfl (workedWith_ite (workedWith_drbg ..) rfl)
  | drbgReseedTimeout => exact workedWith_next h rfl (workedWith_ite ((workedWith_logPartner ..).trans (workedWith_drbg ..)) rfl)
  | ilvApply a => exact workedWith_next h rfl (workedWith_globalWrite _ _ _ workedWith_applyIlv)
  | coreHalt a m => exact workedWith_next h rfl (workedWith_globalWrite _ _ _ fun u => workedWith_haltCtl u _)
  | coreResume a m => exact workedWith_next h rfl (workedWith_globalWrite _ _ _ fun u => workedWith_haltCtl u _)
  | sumpClear a => exact workedWith_next h rfl (workedWith_globalWrite _ _ _ fun _ => rfl)
  | spillConsume a v => exact workedWith_next h rfl (workedWith_globalWrite _ _ _ fun u => workedWith_spillCons u _)
  | wakeBudgetChange v => exact workedWith_next h rfl rfl
  | supplyWarn v => exact workedWith_supplyWarn h
  | wakeStart => exact workedWith_wakeStart h
  | timeInRegress n => exact workedWith_timeInRegress h
  | lampBackoffExpiry => exact workedWith_next h rfl (workedWith_life ..)
  | scanEnter => exact workedWith_next h rfl (workedWith_ite rfl (workedWith_ite (workedWith_pwr ..) (workedWith_lampDenied ..)))
  | jigManualSession o => exact workedWith_next h rfl (workedWith_ite rfl (workedWith_ite (workedWith_openJig ..) (workedWith_loadIr ..)))
  | jigManualSlice v o => exact workedWith_next h rfl (workedWith_ite rfl (workedWith_manualSlice ..))
  | jigWindowRegained v tj => exact workedWith_jigWindowRegained h
  | periodicSlice o => exact workedWith_periodicSlice h
  | sliceYield => exact workedWith_sliceYield h
  | beaconTimer => exact workedWith_next h rfl (workedWith_ite rfl rfl)
  | noticeRepeat => exact workedWith_next h rfl (workedWith_ite rfl (workedWith_notice ..))
  | noticeToken => exact workedWith_noticeToken h
  | chainTransmit => exact workedWith_chainTransmit h
  | violationDecay p => exact workedWith_violationDecay h
  | bitmapRowSweep n => exact workedWith_bitmapRowSweep h
  | stileResetRelease n => exact workedWith_next h rfl (workedWith_ite rfl (workedWith_onSt ..))
  | slabCopy => exact workedWith_next h rfl (workedWith_ite rfl rfl)
  | cc0Watchdog => exact workedWith_next h rfl (workedWith_ite rfl (workedWith_log ..))
  | nvmeSmartPoll c l v => exact workedWith_nvmeSmartPoll h
  | cellSelfCheckFail n c => exact workedWith_next h rfl (workedWith_ite (workedWith_cellOut ..) rfl)
  | _ => exact absurd hq Bool.false_ne_true

end

end

/-- Settles O60: each row's parts leave `workedWith` alone, so the row does. -/
theorem eventsLeaveCommandsAndMemory : Obligations.EventsLeaveCommandsAndMemory := by
  unfold Obligations.EventsLeaveCommandsAndMemory
  intro c s t hq h
  have hkeep := quietRow_keeps hq h
  simpa only [workedWith, Prod.mk.injEq] using hkeep

end Sys2Proof.Proofs
end

section
/-! PROOFS. The time used (R68): no row but a cold reset takes it back. `since_f` says that what the function `f` of the model answers has used the
time `τ` or a later one where its argument has; its proof goes along the branches of `f`. -/

namespace Sys2Proof.Proofs
open Sys2Proof Sys2Proof.Machine Sys2Proof.Laws

/-- The time `s` used last is `τ` or a later one. -/
def Since (τ : Nat) (s : State) : Prop := τ ≤ s.timeUsed

section
variable {τ : Nat} {s : State}

/-! How the time passes through conditionals, updates of other fields, pairs and folds. -/

theorem since_ite {c : Prop} [Decidable c] {t u : State} (ht : Since τ t) (hu : Since τ u) : Since τ (if c then t else u) := by
  split <;> assumption

theorem since_ite_s {c : Prop} [Decidable c] {t u : Res} (ht : Since τ t.s) (hu : Since τ u.s) : Since τ (if c then t else u).s := by
  split <;> assumption

theorem since_ite_fst {α : Type} {c : Prop} [Decidable c] {t u : State × α} (ht : Since τ t.1) (hu : Since τ u.1) : Since τ (if c then t else u).1 := by
  split <;> assumption

theorem since_ite_snd {α : Type} {c : Prop} [Decidable c] {t u : α × State} (ht : Since τ t.2) (hu : Since τ u.2) : Since τ (if c then t else u).2 := by
  split <;> assumption

theorem since_mk {bd : Build} {fp : Nat} {pe : List Instr} {me : Memory} {ti tu : Nat} {tb : Bool} {fr : Nat} {po : PortRegs} {la : SMap Lane}
    {fz : Freeze} {bo : Boot} {lf : LifeLamp} {pw : Pwr} {chs : SMap Chamber} {un : SMap ChUnit} {tc tl : Nat} {cm : List Cmd} {fi : List Machine.Fin}
    {cl : List Clamp} {rg : SMap (Option Region)} {sts : SMap Stile} {cp : Cap} {tr : SMap Trig} {ci : Cipher} {dr : Drbg} {ke : SMap KeySlot}
    {sg : Staging} {tg : List TagUse} {tk : Trk} {sy : Sync} {cn : Chain} {cw : ChainWork} {dg : Digest} {so : Storage} {su : Sump} {sv : Svc} {jg : Jig}
    {ft : Feat} (h : τ ≤ tu) :
    Since τ { build := bd, fabPorts := fp, pending := pe, timeIn := ti, timeUsed := tu, timeBack := tb, free := fr, mem := me, port := po, lanes := la,
              frz := fz, boot := bo, life := lf, pwr := pw, chambers := chs, units := un, turnCh := tc, turnLeft := tl, cmds := cm, fins := fi,
              clamps := cl, regions := rg, stiles := sts, cap := cp, trigs := tr, ciph := ci, drbg := dr, keys := ke, stage := sg, tags := tg, trk := tk,
              sync := sy, chain := cn, chainW := cw, dgt := dg, sto := so, sump := su, svc := sv, jig := jg, feat := ft } := h

theorem since_fst {α : Type} {x : α} (h : Since τ s) : Since τ (s, x).1 := h

theorem since_of_fst {α : Type} {p : State × α} {t : State} {x : α} (hp : p = (t, x)) (h : Since τ p.1) : Since τ t := by
  subst hp
  exact h

theorem since_foldl {α : Type} {f : State → α → State} {l : List α} (hf : ∀ u x, Since τ u → Since τ (f u x)) (h : Since τ s) : Since τ (l.foldl f s) := by
  induction l generalizing s with
  | nil => exact h
  | cons x r ih => exact ih (hf s x h)

theorem since_foldl_fst {α β : Type} {f : State × β → α → State × β} {l : List α} {p : State × β} (hf : ∀ p x, Since τ p.1 → Since τ (f p x).1)
    (h : Since τ p.1) : Since τ (l.foldl f p).1 := by
  induction l generalizing p with
  | nil => exact h
  | cons x r ih => exact ih (hf p x h)

theorem since_foldl_snd {α β : Type} {f : β × State → α → β × State} {l : List α} {p : β × State} (hf : ∀ p x, Since τ p.2 → Since τ (f p x).2)
    (h : Since τ p.2) : Since τ (l.foldl f p).2 := by
  induction l generalizing p with
  | nil => exact h
  | cons x r ih => exact ih (hf p x h)

theorem since_id (h : Since τ s) : Since τ (id s) := h

theorem now_eq_max (s : State) : s.now = max s.timeIn s.timeUsed := by
  unfold State.now
  split <;> omega

theorem timeUsed_le_now (s : State) : s.timeUsed ≤ s.now := by
  rw [now_eq_max]
  exact Nat.le_max_right ..

theorem since_useTime (h : Since τ s) : Since τ s.useTime := since_mk (h.trans (timeUsed_le_now s))

/-! The parts of the state, the log, writes of the aperture. -/

theorem since_onCh {n : ℕ} {f : Chamber → Chamber} (h : Since τ s) : Since τ (s.onCh n f) := since_mk h

theorem since_onUn {n : ℕ} {f : ChUnit → ChUnit} (h : Since τ s) : Since τ (s.onUn n f) := since_mk h

theorem since_onCapRegs {n : ℕ} {f : CapRegs → CapRegs} (h : Since τ s) : Since τ (s.onCapRegs n f) := since_onUn h

theorem since_onStep {n : ℕ} {f : StepRec → StepRec} (h : Since τ s) : Since τ (s.onStep n f) := since_onUn h

theorem since_onSite {n : ℕ} {f : Site → Site} (h : Since τ s) : Since τ (s.onSite n f) := since_onUn h

theorem since_onSq {n q : ℕ} {f : Sq → Sq} (h : Since τ s) : Since τ (s.onSq n q f) := since_onCh h

theorem since_onCq {n q : ℕ} {f : Cq → Cq} (h : Since τ s) : Since τ (s.onCq n q f) := since_onCh h

theorem since_onSt {n : ℕ} {f : Stile → Stile} (h : Since τ s) : Since τ (s.onSt n f) := since_mk h

theorem since_onObj {i : ℕ} {f : SyncObj → SyncObj} (h : Since τ s) : Since τ (s.onObj i f) := since_mk h

theorem since_onKey {i : ℕ} {f : KeySlot → KeySlot} (h : Since τ s) : Since τ (s.onKey i f) := since_mk h

theorem since_onNvme {c : ℕ} {f : Nvme → Nvme} (h : Since τ s) : Since τ (s.onNvme c f) := since_mk h

theorem since_freeNat (h : Since τ s) : Since τ s.freeNat.2 := since_mk h

theorem since_draw (h : Since τ s) : Since τ s.draw.2 := since_mk h

theorem since_poke {a : ℕ} {d : List Byte} (h : Since τ s) : Since τ (s.poke a d) := since_mk h

theorem since_cause {c : ℕ} (h : Since τ s) : Since τ (s.cause c) := since_mk h

theorem since_sendFrame {type dest : ℕ} {payload : List Byte} (h : Since τ s) : Since τ (s.sendFrame type dest payload) := since_mk h

theorem since_notice {kind : ℕ} {code : BitVec 16} (h : Since τ s) :
    Since τ (s.notice kind code) := since_ite h (since_ite (since_mk (since_sendFrame h)) (since_ite (since_mk h) (since_mk h)))

theorem since_log {code : BitVec 16} {sev kind index : ℕ} {ch : Option ℕ} {d : List Byte} (h : Since τ s) :
    Since τ (s.log code sev kind index ch d) :=
  since_ite (since_notice (since_cause (since_ite (since_cause (since_mk (since_useTime h))) (since_mk (since_useTime h))))) (since_ite (since_cause
      (since_mk (since_useTime h))) (since_mk (since_useTime h)))

theorem since_logStatus {st : BitVec 16} {kind index : ℕ} {ch : Option ℕ} {d : List Byte} (h : Since τ s) :
    Since τ (s.logStatus st kind index ch d) := since_log h

theorem since_logPartner {st : BitVec 16} {kind index : ℕ} {ch : Option ℕ} {d : List Byte} (h : Since τ s) :
    Since τ (s.logPartner st kind index ch d) := since_cause (since_logStatus h)

theorem since_ignoredWrite {addr : ℕ} (h : Since τ s) : Since τ (s.ignoredWrite addr) := since_log h

theorem since_setReasons {v : BitVec 16} (h : Since τ s) : Since τ (s.setReasons v) :=
  since_ite h (since_ite (since_notice (since_log (since_cause (since_mk h)))) (since_ite (since_notice (since_log (since_cause (since_mk h))))
      (since_cause (since_mk h))))

theorem since_raise {r : ℕ} (h : Since τ s) : Since τ (s.raise r) := since_setReasons h

theorem since_unraise {r : ℕ} (h : Since τ s) : Since τ (s.unraise r) := since_setReasons h

theorem since_answer {a : Access} {err : ℕ} {data : BitVec 64} (h : Since τ s) : Since τ (s.answer a err data) := since_mk h

theorem since_refuse {a : Access} {err : ℕ} (h : Since τ s) : Since τ (s.refuse a err) := since_answer (since_logPartner h)

theorem since_dropHalf {a : Access} (h : Since τ s) : Since τ (s.dropHalf a) := by
  unfold State.dropHalf
  dsimp only
  split
  · exact since_mk (since_ignoredWrite h)
  · exact h

theorem since_fabWrite {a : Access} {err : ℕ} {page : Bool} {addr : ℕ} {f : State → State} (h : Since τ s) (hf : ∀ u1, Since τ u1 → Since τ (f u1)) :
    Since τ (s.fabWrite a err page addr f) :=
  since_ite h (since_ite (since_refuse (since_dropHalf h)) (since_ite (since_answer (since_ignoredWrite (since_dropHalf h))) (since_answer (hf _
      (since_dropHalf h)))))

theorem since_pageWrite {a : Access} {ch off : ℕ} {open_ : Bool} {f : State → State} (h : Since τ s) (hf : ∀ u1, Since τ u1 → Since τ (f u1)) :
    Since τ (s.pageWrite a ch off open_ f) := since_fabWrite h hf

theorem since_globalWrite {a : Access} {addr : ℕ} {f : State → State} (h : Since τ s) (hf : ∀ u1, Since τ u1 → Since τ (f u1)) :
    Since τ (s.globalWrite a addr f) := since_fabWrite h hf

theorem since_wantDom {d : ℕ} (h : Since τ s) : Since τ (s.wantDom d) := since_ite h (since_mk h)

theorem since_wantDoms {l : List ℕ} (h : Since τ s) : Since τ (s.wantDoms l) := since_foldl (fun _ _ => since_wantDom) h

theorem since_beginWake (h : Since τ s) : Since τ s.beginWake := since_ite (since_ite (since_wantDoms (since_mk h)) (since_mk h)) h

/-! Operands. -/

theorem since_onMedia {i : ℕ} {f : Media → Media} (h : Since τ s) : Since τ (s.onMedia i f) := by
  unfold State.onMedia
  dsimp only
  split
  · split
    · exact since_mk h
    · exact h
  · exact h

/-! The command engine: answers, ends, acceptance. -/

theorem since_onCmd {x : Sub} {f : Cmd → Cmd} (h : Since τ s) : Since τ (s.onCmd x f) := since_mk h

theorem since_putStatus {x : Sub} {twin : Bool} {phase : ℕ} {final : BitVec 16} {units : ℕ} {res : List (BitVec 64)} (h : Since τ s) :
    Since τ (s.putStatus x twin phase final units res) := since_ite h (since_ite (since_poke (since_poke h)) (since_onCh h))

theorem since_unclamp {x : Sub} (h : Since τ s) : Since τ (s.unclamp x) := since_mk h

theorem since_jot {ch q : ℕ} {cid : BitVec 16} {kind : ℕ} (h : Since τ s) : Since τ (s.jot ch q cid kind) := since_mk h

theorem since_pushFin {x : Sub} {twin : Bool} {st : BitVec 16} {result : BitVec 64} (h : Since τ s) :
    Since τ (s.pushFin x twin st result) := since_ite (since_mk (since_logStatus h)) (since_mk h)

theorem since_quarSq {ch q : ℕ} (h : Since τ s) :
    Since τ (s.quarSq ch q) := since_ite h (since_logPartner (since_foldl (fun _ _ => since_pushFin) (since_onCh (since_onSq h))))

theorem since_quarCq {ch q : ℕ} {all : Bool} (h : Since τ s) : Since τ (s.quarCq ch q all) :=
  since_ite h (since_ite (since_foldl (fun _ _ hu => since_ite (since_quarSq hu) hu) (since_logPartner (since_onCq h))) (since_logPartner (since_onCq
      h)))

theorem since_violSq {ch q : ℕ} (h : Since τ s) : Since τ (s.violSq ch q) := since_ite (since_quarSq (since_onSq h)) (since_onSq h)

theorem since_violCq {ch q : ℕ} (h : Since τ s) : Since τ (s.violCq ch q) := since_ite (since_quarCq (since_onCq h)) (since_onCq h)

theorem since_syncForbid {owner : ℕ} (h : Since τ s) : Since τ (s.syncForbid owner) := since_onUn h

theorem since_noteRefusal {x : Sub} {st : BitVec 16} (h : Since τ s) : Since τ (s.noteRefusal x st) := by
  unfold State.noteRefusal
  refine since_ite ?_ h
  dsimp only
  split
  · exact since_ite (since_violSq (since_logPartner h)) (since_syncForbid (since_violSq (since_logPartner h)))
  · exact since_violSq (since_logPartner h)

theorem since_refuseSub {x : Sub} {twin : Bool} {st : BitVec 16} {desc : BitVec 64} (h : Since τ s) :
    Since τ (s.refuseSub x twin st desc) := since_noteRefusal (since_pushFin h)

theorem since_unbind {x : Sub} (h : Since τ s) : Since τ (s.unbind x) := since_mk h

theorem since_finish {x : Sub} {phase : ℕ} {st : BitVec 16} {result : BitVec 64} {units : ℕ} {res : List (BitVec 64)} (h : Since τ s) :
    Since τ (s.finish x phase st result units res) := by
  unfold State.finish
  dsimp only
  split
  · exact h
  · exact since_noteRefusal (since_pushFin (since_putStatus (since_unbind (since_unclamp (since_mk h)))))

theorem since_tryGrant {x : Sub} (h : Since τ s) : Since τ (s.tryGrant x).1 := by
  unfold State.tryGrant
  dsimp only
  split
  · exact h
  · exact since_ite_fst h (since_ite_fst (since_mk (since_onCmd h)) h)

theorem since_accept {x : Sub} {twin : Bool} {stages : List Sub} (h : Since τ s) :
    Since τ (s.accept x twin stages) := since_putStatus (since_mk (since_jot h))

theorem since_done {r : BitVec 64} (h : Since τ s) : Since τ (done s r).s := h

theorem since_fail {st : BitVec 16} (h : Since τ s) : Since τ (fail s st).s := h

theorem since_reject {st : BitVec 16} {reason whr entry byteNo : ℕ} (h : Since τ s) : Since τ (reject s st reason whr entry byteNo).s := h

theorem since_badParam {byteNo : ℕ} (h : Since τ s) : Since τ (badParam s byteNo).s := since_reject h

theorem since_wait (h : Since τ s) : Since τ (wait s).s := h

theorem since_ended {st : BitVec 16} {r : BitVec 64} {units : ℕ} {res : List (BitVec 64)} (h : Since τ s) : Since τ (ended s st r units res).s := h

theorem since_conclude {x : Sub} {r : Res} (h : Since τ r.s) : Since τ (conclude x r) := by
  unfold conclude
  split
  · exact h
  · exact since_finish (since_ite h (since_jot h))

theorem since_running {x : Sub} {units : ℕ} (h : Since τ s) : Since τ (running x s units).s := by
  unfold running
  dsimp only
  split
  · exact since_wait (since_putStatus (since_onCmd h))
  · exact since_wait (since_onCmd h)

theorem since_runAccepted {x : Sub} {body : State → Res} (h : Since τ s) (hbody : ∀ u1, Since τ u1 → Since τ (body u1).s) :
    Since τ (s.runAccepted x body) := by
  unfold State.runAccepted
  refine since_ite h ?_
  dsimp only
  split
  · have ht := since_of_fst ‹_› (since_tryGrant h)
    exact since_ite (since_conclude (hbody _ ht)) (since_wantDoms ht)
  · exact since_of_fst ‹_› (since_tryGrant h)

theorem since_runOp {x : Sub} {stages : List Sub} {body : State → Res} (h : Since τ s) (hbody : ∀ u1, Since τ u1 → Since τ (body u1).s) :
    Since τ (s.runOp x stages body) := by
  unfold State.runOp
  refine since_ite h (since_ite (since_runAccepted h hbody) ?_)
  split
  · exact since_refuseSub h
  · exact since_runAccepted (since_accept h) hbody

theorem since_runTwin {t : Twin} {body : State → Res} (h : Since τ s) (hbody : ∀ u1, Since τ u1 → Since τ (body u1).s) :
    Since τ (s.runTwin t body) := by
  unfold State.runTwin
  refine since_ite h (since_ite (since_runAccepted h hbody) ?_)
  split
  · exact since_refuseSub h
  · exact since_runAccepted (since_accept h) hbody

/-! Granules and their copies. -/

theorem since_setGran {g : ℕ} {b : GBits} (h : Since τ s) : Since τ (s.setGran g b) := by
  unfold State.setGran
  split
  · exact since_onSt h
  · exact h

theorem since_dirtyRange {lo n : ℕ} (h : Since τ s) : Since τ (s.dirtyRange lo n) := since_foldl (fun _ _ => since_setGran) h

theorem since_dirtyChamber {ch : ℕ} (h : Since τ s) : Since τ (s.dirtyChamber ch) := since_foldl (fun _ _ => since_dirtyRange) h

theorem since_relevel {ch : ℕ} (h : Since τ s) : Since τ (s.relevel ch) :=
  since_ite (since_log (since_ite (since_cause (since_mk (since_onCapRegs h))) (since_mk (since_onCapRegs h)))) (since_ite (since_cause (since_mk
      (since_onCapRegs h))) (since_mk (since_onCapRegs h)))

theorem since_relevelAll (h : Since τ s) : Since τ s.relevelAll := since_foldl (fun _ _ => since_relevel) h

theorem since_dropShares {cap step : Copy → Bool} (h : Since τ s) : Since τ (s.dropShares cap step) := since_relevelAll (since_mk h)

theorem since_freeStepCopies {ch : ℕ} (h : Since τ s) : Since τ (s.freeStepCopies ch) := since_onStep (since_dropShares h)

theorem since_loseGuard {ch : ℕ} (h : Since τ s) : Since τ (s.loseGuard ch) := since_ite h (since_log (since_onStep (since_dropShares h)))

theorem since_addCopy {st loc g : ℕ} {place : Option ℕ} {cap : Bool} {step : Option ℕ} {ready : Bool} (h : Since τ s) :
    Since τ (s.addCopy st loc g place cap step ready) := by
  unfold State.addCopy
  refine since_relevelAll ?_
  split
  · exact since_mk (since_onSt h)
  · exact since_onSt h

theorem since_track {g : ℕ} {ready : Bool} (h : Since τ s) : Since τ (s.track g ready).1 := by
  unfold State.track
  dsimp only
  split
  · exact h
  · refine since_ite_fst h (since_ite_fst ?_ ?_)
    · split
      · exact since_onSt h
      · split
        · exact since_onSt (since_addCopy h)
        · split
          · exact since_loseGuard h
          · exact h
    · split
      · exact since_onSt h
      · split
        · exact since_onSt (since_addCopy h)
        · exact since_loseGuard (since_onSt h)

theorem since_memReq {r : HReq} (h : Since τ s) : Since τ (s.memReq r) := by
  unfold State.memReq
  dsimp only
  split
  · exact h
  · exact h
  · exact since_mk h
  · exact since_mk h

theorem since_forward {st : ℕ} {r : HReq} (h : Since τ s) : Since τ (s.forward st r) := since_onSt (since_memReq h)

theorem since_releaseGran {st g : ℕ} (h : Since τ s) : Since τ (s.releaseGran st g) := since_foldl (fun _ _ => since_forward) (since_onSt h)

theorem since_releaseAll {st : ℕ} (h : Since τ s) : Since τ (s.releaseAll st) := since_foldl (fun _ _ => since_forward) (since_onSt h)

/-! Regions, captures, rules. -/

theorem since_bodyRegionDeclare {x : Sub} {e : Ext} {twin : Bool} (h : Since τ s) : Since τ (bodyRegionDeclare x e twin s).s := by
  unfold bodyRegionDeclare
  refine since_ite_s (since_fail h) ?_
  dsimp only
  split
  · exact h
  · refine since_ite_s (since_reject h) (since_ite_s (since_badParam h) (since_ite_s (since_badParam h) (since_ite_s (since_fail h) (since_ite_s
      (since_fail h) ?_))))
    split
    · exact since_fail h
    · exact since_done (since_dirtyRange (since_mk h))

theorem since_onRegion {i : ℕ} {f : Region → Region} (h : Since τ s) : Since τ (s.onRegion i f) := since_mk h

theorem since_bodyRegionRetire {x : Sub} (h : Since τ s) : Since τ (bodyRegionRetire x s).s := by
  unfold bodyRegionRetire
  split
  · exact since_badParam h
  · exact since_ite_s (since_fail h) (since_done (since_mk h))

theorem since_bodyDrainHint {x : Sub} (h : Since τ s) : Since τ (bodyDrainHint x s).s := since_done (since_onRegion h)

theorem since_bodyReplicaSet {x : Sub} (h : Since τ s) : Since τ (bodyReplicaSet x s).s := since_done (since_onRegion h)

theorem since_askFreeze {who : Option ℕ} (h : Since τ s) : Since τ (s.askFreeze who) := since_ite (since_mk h) (since_mk h)

theorem since_nextFreeze (h : Since τ s) : Since τ s.nextFreeze := by
  unfold State.nextFreeze
  dsimp only
  split
  · exact since_ite h (since_askFreeze (since_mk h))
  · exact h

theorem since_lowerFreeze (h : Since τ s) : Since τ s.lowerFreeze := since_nextFreeze (since_mk h)

theorem since_dropFreeze {who : Option ℕ} (h : Since τ s) : Since τ (s.dropFreeze who) := since_ite (since_lowerFreeze (since_mk h)) (since_mk h)

theorem since_capPhase {ch n : ℕ} (h : Since τ s) : Since τ (s.capPhase ch n) := since_cause (since_onCapRegs h)

theorem since_capEnter {r : CapRun} (h : Since τ s) : Since τ (s.capEnter r) :=
  since_capPhase (since_onCapRegs (since_mk (since_ite (since_freeStepCopies (since_ite (since_onKey h) h)) (since_ite (since_onKey h) h))))

theorem since_bodyCapture {x : Sub} {e : Ext} (h : Since τ s) : Since τ (bodyCapture x e s).s := by
  unfold bodyCapture
  refine since_ite_s (since_wait h) (since_ite_s (since_fail h) (since_ite_s (since_badParam h) ?_))
  dsimp only
  split
  · exact since_ite_s (since_badParam h) (since_fail h)
  · exact since_wait (since_capEnter h)

theorem since_capUndo {r : CapRun} (h : Since τ s) :
    Since τ (s.capUndo r) := since_foldl (fun _ _ hu => since_ite (since_setGran hu) (since_ite (since_setGran hu) hu)) h

theorem since_capClear {r : CapRun} (h : Since τ s) : Since τ (s.capClear r) :=
  since_ite (since_onKey (since_dropFreeze (since_mk (since_dropShares (since_foldl (fun _ _ => since_releaseAll) h))))) (since_dropFreeze
      (since_mk (since_dropShares (since_foldl (fun _ _ => since_releaseAll) h))))

theorem since_capReportAs {r : CapRun} {st : BitVec 16} {byReset : Bool} {phase : ℕ} (h : Since τ s) :
    Since τ (s.capReportAs r st byReset phase) := by
  unfold State.capReportAs
  refine since_ite (since_capPhase (since_onCapRegs (since_useTime h))) ?_
  split
  · exact since_finish (since_capPhase (since_onCapRegs (since_useTime h)))
  · exact since_logStatus (since_capPhase (since_onCapRegs (since_useTime h)))

theorem since_capReport {r : CapRun} {st : BitVec 16} {byReset : Bool} (h : Since τ s) : Since τ (s.capReport r st byReset) := since_capReportAs h

theorem since_waitEnd {r : CapRun} {st : BitVec 16} {byReset : Bool} (h : Since τ s) :
    Since τ (s.waitEnd r st byReset) := since_capReport (since_ite (since_onKey (since_mk h)) (since_mk h))

theorem since_capFail {st : BitVec 16} {byReset : Bool} (h : Since τ s) : Since τ (s.capFail st byReset) := by
  unfold State.capFail
  split
  · exact h
  · exact since_capReport (since_capClear (since_capUndo h))

theorem since_capAllEnd (h : Since τ s) : Since τ s.capAllEnd := by
  unfold State.capAllEnd
  refine since_foldl (fun _ _ hu => since_capReportAs (since_ite (since_onKey (since_mk hu)) (since_mk hu))) ?_
  split
  · exact since_capReportAs (since_capClear (since_capUndo h))
  · exact h

theorem since_capFailSlot {slot : ℕ} {st : BitVec 16} (h : Since τ s) : Since τ (s.capFailSlot slot st) := by
  unfold State.capFailSlot
  refine since_foldl (fun _ _ => since_waitEnd) ?_
  split
  · exact since_ite (since_capFail h) h
  · exact h

theorem since_capCancel {ch k : ℕ} {t : State} (hc : s.capCancel ch = some (t, k)) (h : Since τ s) : Since τ t := by
  unfold State.capCancel at hc
  split at hc
  · cases hc
    exact since_waitEnd h
  · split at hc
    · cases hc
    · split at hc
      · cases hc
      · split at hc
        · cases hc
          exact since_capFail h
        · cases hc
          exact since_mk h

theorem since_bodyCaptureCancel {x : Sub} (h : Since τ s) : Since τ (bodyCaptureCancel x s).s := by
  unfold bodyCaptureCancel
  split
  · exact since_done (since_capCancel ‹_› h)
  · exact since_fail h

theorem since_prepare {r : CapRun} (h : Since τ s) : Since τ (s.prepare r) :=
  since_mk (since_foldl_fst (fun _ _ hu => since_ite_fst (since_ite_fst (since_setGran hu) (since_setGran hu)) (since_setGran hu)) h)

theorem since_takeSerial {i : ℕ} (h : Since τ s) : Since τ (s.takeSerial i).2 := by
  unfold State.takeSerial
  split
  · exact h
  · exact since_onMedia h

theorem since_capStart {w : CapWait} (h : Since τ s) : Since τ (s.capStart w) := by
  unfold State.capStart
  refine since_askFreeze (since_capPhase (since_prepare ?_))
  split
  · exact since_running (since_onCapRegs (since_mk (since_useTime (since_takeSerial h))))
  · exact since_onCapRegs (since_mk (since_useTime (since_takeSerial h)))

theorem since_rescope {w v : CapWait} {t : State} (ht : s.rescope w = .ok (t, v)) (h : Since τ s) : Since τ t := by
  unfold State.rescope at ht
  dsimp only at ht
  split at ht
  · cases ht
    exact h
  · split at ht
    · cases ht
    · cases ht
      exact since_mk (since_ite (since_onKey (since_ite (since_onKey (since_mk h)) (since_mk h))) (since_ite (since_onKey (since_mk h)) (since_mk h)))

theorem since_capGo {ch : ℕ} {w : CapWait} (h : Since τ s) :
    Since τ (s.capGo ch w) := since_ite (since_wantDoms h) (since_ite (since_capStart (since_mk h)) h)

theorem since_capUnclamp {r : CapRun} (h : Since τ s) : Since τ (s.capUnclamp r) := since_unclamp h

theorem since_capWord {r : CapRun} {phase : ℕ} (h : Since τ s) : Since τ (s.capWord r phase) := by
  unfold State.capWord
  dsimp only
  split
  · split
    · exact since_putStatus (since_onCmd h)
    · exact since_onCmd h
  · exact h

theorem since_capCheck (h : Since τ s) : Since τ s.capCheck := by
  unfold State.capCheck
  dsimp only
  split
  · exact since_ite (since_capWord (since_capPhase (since_mk h))) (since_capWord h)
  · exact h

theorem since_capFlip {r : CapRun} (h : Since τ s) : Since τ (s.capFlip r) :=
  since_capCheck (since_capPhase (since_capUnclamp (since_onCapRegs (since_mk (since_foldl (fun _ _ => since_onSt) (since_mk (since_useTime
      h)))))))

theorem since_capFreezeTimeout (h : Since τ s) : Since τ s.capFreezeTimeout := by
  unfold State.capFreezeTimeout
  split
  · exact since_capFail (since_capUnclamp h)
  · exact h

theorem since_capFreezeAck (h : Since τ s) : Since τ s.capFreezeAck := by
  unfold State.capFreezeAck
  dsimp only
  split
  · exact since_ite (since_capFail (since_capFlip h)) (since_capFlip h)
  · exact h

theorem since_withParked (h : Since τ s) : Since τ s.withParked := since_mk h

theorem since_fireRule {i : ℕ} {send : Bool} (h : Since τ s) : Since τ (s.fireRule i send) := by
  unfold State.fireRule
  dsimp only
  split
  · exact h
  · split
    · exact since_log (since_beginWake (since_ite (since_sendFrame (since_onCapRegs (since_mk (since_useTime h)))) (since_onCapRegs (since_mk
        (since_useTime h)))))
    · exact since_capEnter (since_beginWake (since_ite (since_sendFrame (since_onCapRegs (since_mk (since_useTime h)))) (since_onCapRegs (since_mk
        (since_useTime h)))))

theorem since_bodyTrigger {x : Sub} (h : Since τ s) : Since τ (bodyTrigger x s).s :=
  since_ite_s (since_fail h) (since_ite_s (since_badParam h) (since_ite_s (since_badParam h) (since_ite_s (since_done (since_mk (since_useTime h)))
      (since_done (since_mk h)))))

/-! The sync unit. -/

theorem since_fireWatch {err : Bool} {w : ℕ} (h : Since τ s) : Since τ (s.fireWatch err w) :=
  since_ite (since_cause (since_onUn (since_ite (since_mk h) (since_ite (since_log (since_ite (since_mk h) (since_wantDom (since_mk h)))) (since_poke
      (since_ite (since_mk h) (since_wantDom (since_mk h)))))))) (since_ite (since_mk h) (since_ite (since_log (since_ite (since_mk h) (since_wantDom
      (since_mk h)))) (since_poke (since_ite (since_mk h) (since_wantDom (since_mk h))))))

theorem since_evalWatches {i : ℕ} {err : Bool} (h : Since τ s) : Since τ (s.evalWatches i err) := since_foldl (fun _ _ => since_fireWatch) h

theorem since_overran {i : ℕ} (h : Since τ s) : Since τ (s.overran i) := since_log (since_onUn (since_onObj h))

theorem since_signal {i incr : ℕ} {err : Bool} (h : Since τ s) : Since τ (s.signal i incr err) := by
  unfold State.signal
  refine since_ite (since_log h) (since_evalWatches ?_)
  split
  · exact since_ite (since_overran (since_ite (since_overran (since_ite (since_overran (since_onObj h)) (since_onObj h))) (since_ite (since_overran
      (since_onObj h)) (since_onObj h)))) (since_ite (since_overran (since_ite (since_overran (since_onObj h)) (since_onObj h))) (since_ite
      (since_overran (since_onObj h)) (since_onObj h)))
  · exact since_ite (since_overran (since_ite (since_overran (since_onObj h)) (since_onObj h))) (since_ite (since_overran (since_onObj h))
      (since_onObj h))

theorem since_bodySyncAlloc {x : Sub} (h : Since τ s) : Since τ (bodySyncAlloc x s).s := by
  unfold bodySyncAlloc
  dsimp only
  split
  · exact since_fail h
  · exact since_done (since_foldl (fun _ _ => since_onObj) h)

theorem since_unlink {i : ℕ} (h : Since τ s) : Since τ (s.unlink i) := by
  unfold State.unlink
  dsimp only
  split
  · exact since_onObj (since_onObj (since_ite (since_onObj (since_onObj h)) h))
  · exact since_ite (since_onObj (since_onObj h)) h

theorem since_freeObj {i : ℕ} (h : Since τ s) : Since τ (s.freeObj i) := since_onObj (since_unlink h)

theorem since_bodySyncFree {x : Sub} (h : Since τ s) :
    Since τ (bodySyncFree x s).s := since_ite_s (since_fail h) (since_done (since_foldl (fun _ _ => since_freeObj) h))

theorem since_sendSignal {r : RemoteSig} (h : Since τ s) : Since τ (s.sendSignal r) := since_ite (since_sendFrame h) h

theorem since_endRemote {r : RemoteSig} {st : BitVec 16} {result : BitVec 64} (h : Since τ s) : Since τ (s.endRemote r st result) := by
  unfold State.endRemote
  dsimp only
  split
  · exact since_mk h
  · exact since_ite (since_conclude (since_mk h)) (since_onCmd (since_mk h))

theorem since_bodySyncSignal {x : Sub} {e : Ext} (h : Since τ s) : Since τ (bodySyncSignal x e s).s := by
  unfold bodySyncSignal
  refine since_ite_s (since_done (since_signal h)) (since_ite_s (since_wait h) ?_)
  dsimp only
  split
  · exact since_onCmd h
  · exact since_ite_s (since_fail h) (since_wait (since_sendSignal (since_mk h)))

theorem since_recvSignal {f : DclFrame} {err : Bool} (h : Since τ s) : Since τ (s.recvSignal f err) :=
  since_ite (since_sendFrame (since_mk h)) (since_ite (since_sendFrame (since_signal (since_mk h))) (since_sendFrame (since_logStatus (since_ite
      (since_syncForbid h) h))))

theorem since_bodyWatchSet {x : Sub} {e : Ext} (h : Since τ s) : Since τ (bodyWatchSet x e s).s := by
  unfold bodyWatchSet
  dsimp only
  split
  · exact since_fail h
  · exact since_done (since_ite (since_fireWatch (since_mk h)) (since_mk h))

theorem since_bodyWatchClear {x : Sub} (h : Since τ s) : Since τ (bodyWatchClear x s).s := since_ite_s (since_reject h) (since_done (since_mk h))

theorem since_onBar {b : ℕ} {f : Bar → Bar} (h : Since τ s) : Since τ (s.onBar b f) := since_mk h

theorem since_endJoin {j : ℕ × ℕ × BitVec 16 × ℕ × Bool} {st : BitVec 16} {gen : BitVec 32} (h : Since τ s) : Since τ (s.endJoin j st gen) := by
  unfold State.endJoin
  split
  · exact h
  · exact since_finish h

theorem since_releaseBar {b : ℕ} {gen : BitVec 32} (h : Since τ s) :
    Since τ (s.releaseBar b gen) := since_foldl (fun _ _ => since_endJoin) (since_onBar h)

theorem since_dropJoin {b : ℕ} {j : ℕ × ℕ × BitVec 16 × ℕ × Bool} (h : Since τ s) : Since τ (s.dropJoin b j) := since_onBar h

theorem since_masterArrive {b n : ℕ} (h : Since τ s) : Since τ (s.masterArrive b n) :=
  since_ite (since_mk h) (since_ite (since_releaseBar (since_sendFrame (since_mk h))) (since_onBar (since_sendFrame (since_mk h))))

theorem since_masterWithdraw {b : ℕ} (h : Since τ s) : Since τ (s.masterWithdraw b) := since_mk h

theorem since_withdraw {b : ℕ} {j : ℕ × ℕ × BitVec 16 × ℕ × Bool} {leave : Bool} (h : Since τ s) : Since τ (s.withdraw b j leave) :=
  since_ite (since_dropJoin h) (since_ite (since_dropJoin (since_masterWithdraw h)) (since_ite (since_dropJoin (since_ite h (since_sendFrame h)))
      (since_onBar (since_ite h (since_sendFrame h)))))

theorem since_bodyBarrierJoin {x : Sub} (h : Since τ s) : Since τ (bodyBarrierJoin x s).s :=
  since_ite_s (since_wait h) (since_ite_s (since_reject (since_logStatus (since_syncForbid h))) (since_ite_s (since_fail h) (since_ite_s
      (since_badParam h) (since_ite_s (since_ite_s (since_wait (since_masterArrive (since_running (since_onBar (since_ite (since_mk h) h)))))
      (since_wait (since_ite (since_sendFrame (since_running (since_onBar (since_ite (since_mk h) h)))) (since_running (since_onBar (since_ite
      (since_mk h) h)))))) (since_ite_s (since_wait (since_releaseBar (since_running (since_onBar (since_ite (since_mk h) h))))) (since_running
      (since_onBar (since_ite (since_mk h) h))))))))

theorem since_endChainJoins (h : Since τ s) :
    Since τ s.endChainJoins := since_mk (since_foldl (fun _ _ hu => since_foldl (fun _ _ => since_endJoin) (since_onBar hu)) h)

theorem since_linkWrite {i : ℕ} {v : BitVec 64} (h : Since τ s) : Since τ (s.linkWrite i v) :=
  since_ite (since_ignoredWrite h) (since_ite (since_ite (since_onObj h) (since_unlink (since_onObj h))) (since_ite (since_onObj (since_onObj h))
      (since_ite (since_onObj (since_onObj (since_onObj h))) (since_ite (since_logStatus (since_syncForbid (since_onObj h))) (since_log (since_onObj
      h))))))

theorem since_handWrite {a : Access} {i : ℕ} {v : BitVec 64} {err : Bool} (h : Since τ s) : Since τ (s.handWrite a i v err) :=
  since_ite (since_logStatus h) (since_ite (since_ignoredWrite h) (since_evalWatches (since_log (since_mk (since_onObj h)))))

/-! The chain. -/

theorem since_violChain {src : ℕ} (h : Since τ s) :
    Since τ (s.violChain src) := since_ite (since_mk (since_logPartner h)) (since_logPartner (since_mk (since_mk (since_logPartner h))))

theorem since_newRing (h : Since τ s) : Since τ s.newRing := since_mk (since_endChainJoins h)

theorem since_enumStart {cmd : Option Sub} (h : Since τ s) : Since τ (s.enumStart cmd) := since_sendFrame (since_mk (since_newRing (since_draw h)))

theorem since_enumEnd {st : BitVec 16} (h : Since τ s) : Since τ (s.enumEnd st) := by
  unfold State.enumEnd
  dsimp only
  split
  · exact since_conclude (since_ended (since_cause (since_mk h)))
  · exact since_cause (since_mk h)

theorem since_beacon (h : Since τ s) : Since τ s.beacon := since_sendFrame h

theorem since_enumDone {f : DclFrame} (h : Since τ s) : Since τ (s.enumDone f) := since_enumEnd (since_beacon (since_mk h))

theorem since_enumMember {f : DclFrame} (h : Since τ s) : Since τ (s.enumMember f).1 := since_mk (since_newRing h)

theorem since_enumIn {f : DclFrame} (h : Since τ s) : Since τ (s.enumIn f).1 := by
  unfold State.enumIn
  dsimp only
  split
  · exact since_ite_fst (since_ite (since_enumDone h) (since_enumStart h)) (since_ite_fst h (since_enumMember (since_enumEnd (since_mk h))))
  · exact since_ite_fst h (since_enumMember h)

theorem since_beaconIn {f : DclFrame} (h : Since τ s) : Since τ (s.beaconIn f) := since_ite (since_sendFrame (since_mk (since_mk h))) (since_mk h)

theorem since_reEnum {src : ℕ} (h : Since τ s) :
    Since τ (s.reEnum src) := since_ite h (since_ite (since_enumStart (since_log h)) (since_cause (since_log h)))

theorem since_signalAnswer {f : DclFrame} {st : BitVec 16} {r : BitVec 64} (h : Since τ s) : Since τ (s.signalAnswer f st r) := by
  unfold State.signalAnswer
  dsimp only
  split
  · exact since_endRemote h
  · exact since_violChain h

theorem since_barArrive {f : DclFrame} (h : Since τ s) :
    Since τ (s.barArrive f) := since_ite h (since_ite (since_sendFrame (since_logPartner h)) (since_masterArrive (since_mk h)))

theorem since_barWithdraw {f : DclFrame} (h : Since τ s) :
    Since τ (s.barWithdraw f) := since_ite h (since_sendFrame (since_ite (since_masterWithdraw (since_mk h)) h))

theorem since_barAck {f : DclFrame} (h : Since τ s) : Since τ (s.barAck f) := by
  unfold State.barAck
  dsimp only
  split
  · exact h
  · exact since_endJoin (since_dropJoin (since_ite (since_logPartner h) h))

theorem since_barRelease {f : DclFrame} (h : Since τ s) :
    Since τ (s.barRelease f) := since_ite (since_violChain h) (since_ite (since_releaseBar h) (since_onBar h))

theorem since_actOn {f : DclFrame} {e : Ext} (h : Since τ s) : Since τ (s.actOn f e) := by
  unfold State.actOn
  dsimp only
  split
  · exact since_beaconIn h
  · exact since_ite (since_fireRule h) h
  · exact since_cause h
  · exact since_ite (since_reEnum h) h
  · exact since_recvSignal h
  · exact since_signalAnswer h
  · exact since_signalAnswer h
  · exact since_barArrive h
  · exact since_barWithdraw h
  · exact since_barAck h
  · exact since_barRelease h
  · exact h

theorem since_forwardFrame {f : DclFrame} (h : Since τ s) : Since τ (s.forwardFrame f) := since_mk h

theorem since_consume {f : DclFrame} {e : Ext} (h : Since τ s) :
    Since τ (s.consume f e).1 := since_ite_fst (since_violChain h) (since_ite_fst h (since_ite_fst (since_enumIn h) (since_actOn h)))

theorem since_frameIn {f : DclFrame} {e : Ext} (h : Since τ s) : Since τ (s.frameIn f e) := by
  unfold State.frameIn
  refine since_ite (since_ite h (since_mk h)) (since_ite (since_mk h) (since_ite (since_consume (since_ite (since_reEnum h) h)) (since_ite ?_
      (since_forwardFrame (since_ite (since_reEnum h) h)))))
  split
  · exact since_forwardFrame (since_of_fst ‹_› (since_consume (since_ite (since_reEnum h) h)))
  · exact since_of_fst ‹_› (since_consume (since_ite (since_reEnum h) h))

theorem since_frameRow {type : BitVec 8} {f : DclFrame} {e : Ext} (h : Since τ s) : Since τ (s.frameRow type f e) := since_ite (since_frameIn h) h

theorem since_mustJoin {prev : ℕ} (h : Since τ s) : Since τ (s.mustJoin prev) := since_mk h

theorem since_bodyChainEnum {x : Sub} (h : Since τ s) :
    Since τ (bodyChainEnum x s).s := since_ite_s (since_wait h) (since_running (since_enumStart h))

theorem since_leaveMaster {role : ℕ} (h : Since τ s) : Since τ (s.leaveMaster role) :=
  since_ite (since_enumEnd (since_ite (since_mustJoin (since_ite (since_endChainJoins (since_mk h)) (since_mk h))) (since_ite (since_endChainJoins
      (since_mk h)) (since_mk h)))) (since_ite (since_mustJoin (since_ite (since_endChainJoins (since_mk h)) (since_mk h))) (since_ite
      (since_endChainJoins (since_mk h)) (since_mk h)))

theorem since_bodyChainMember {x : Sub} (h : Since τ s) :
    Since τ (bodyChainMember x s).s := since_ite_s (since_fail h) (since_done (since_mk (since_leaveMaster h)))

theorem since_bodyChainIsolated (h : Since τ s) : Since τ (bodyChainIsolated s).s := since_done (since_leaveMaster h)

theorem since_bodyChainStatus (h : Since τ s) : Since τ (bodyChainStatus s).s := since_ite_s (since_fail h) (since_done h)

/-! The drain. -/

theorem since_onCell {st cell : ℕ} {f : Cell → Cell} (h : Since τ s) : Since τ (s.onCell st cell f) := since_onSt h

theorem since_onBlock {st g : ℕ} {f : Block → Block} (h : Since τ s) : Since τ (s.onBlock st g f) := since_mk h

theorem since_postWrite {b : Block} (h : Since τ s) : Since τ (s.postWrite b) := since_onBlock (since_mk (since_onNvme h))

theorem since_streamed {b : Block} (h : Since τ s) : Since τ (s.streamed b) := since_ite (since_mk h) (since_onSt (since_mk h))

theorem since_answerRead {a : Access} {d : List Byte} (h : Since τ s) : Since τ (s.answerRead a d) := since_mk (since_answer h)

theorem since_serveRead {p : StageBuf} {b : Block} {off len : ℕ} {a : Access} {since : ℕ} (h : Since τ s) :
    Since τ (s.serveRead p b off len a since) :=
  since_ite (since_mk h) (since_ite (since_mk (since_onBlock (since_streamed h))) (since_ite (since_mk h) (since_ite (since_streamed
      (since_answerRead (since_mk h))) (since_answerRead (since_mk h)))))

theorem since_serveHeld {g : ℕ} (h : Since τ s) : Since τ (s.serveHeld g) := by
  unfold State.serveHeld
  dsimp only
  split
  · exact h
  · refine since_foldl ?_ (since_mk h)
    intro _ _ hu
    split
    · exact since_serveRead hu
    · exact hu

theorem since_fillFrame {b : Block} (h : Since τ s) : Since τ (s.fillFrame b) :=
  since_serveHeld (since_ite (since_streamed (since_onBlock (since_mk (since_mk h)))) (since_onBlock (since_mk (since_mk h))))

theorem since_emitBlock {b : Block} (h : Since τ s) : Since τ (s.emitBlock b) := by
  unfold State.emitBlock
  split
  · exact since_ite (since_onBlock h) (since_fillFrame h)
  · exact h

theorem since_startBlock {r : CapRun} {b : Block} {elemType : ℕ} (h : Since τ s) : Since τ (s.startBlock r b elemType) := by
  unfold State.startBlock
  dsimp only
  split
  · exact since_emitBlock (since_postWrite (since_onBlock (since_onMedia h)))
  · exact since_postWrite (since_onBlock (since_onMedia h))

theorem since_closeStile {r : CapRun} {st : ℕ} (h : Since τ s) : Since τ (s.closeStile r st) := since_ite h (since_onSt h)

theorem since_dispose {r : CapRun} {st loc g : ℕ} {stalled skip : Bool} {l : LeafRec} (h : Since τ s) :
    Since τ (s.dispose r st loc g stalled skip l) := by
  unfold State.dispose
  refine since_capCheck ?_
  dsimp only
  split
  · exact since_closeStile (since_ite (since_releaseGran (since_relevel (since_mk (since_ite (since_mk h) (since_onSt (since_mk h))))))
      (since_relevel (since_mk (since_ite (since_mk h) (since_onSt (since_mk h))))))
  · exact since_ite (since_releaseGran (since_relevel (since_mk (since_ite (since_mk h) (since_onSt (since_mk h)))))) (since_relevel (since_mk
      (since_ite (since_mk h) (since_onSt (since_mk h)))))

theorem since_notePoison {beats : List ℕ} {rid k : ℕ} (h : Since τ s) : Since τ (s.notePoison beats rid k) := by
  unfold State.notePoison
  dsimp only
  split
  · exact h
  · exact since_ite h (since_mk (since_ite (since_log h) h))

theorem since_blockDone {b : Block} (h : Since τ s) : Since τ (s.blockDone b) := by
  unfold State.blockDone
  dsimp only
  split
  · exact h
  · split
    · exact h
    · exact since_dispose (since_streamed (since_onNvme h))

theorem since_blockFailed {b : Block} (h : Since τ s) : Since τ (s.blockFailed b) :=
  since_ite h (since_ite (since_capFail (since_streamed (since_onNvme h))) (since_onBlock (since_streamed (since_onNvme h))))

theorem since_takeGranule {r : CapRun} {st cell g loc : ℕ} {stalled : Bool} (h : Since τ s) : Since τ (s.takeGranule r st cell g loc stalled) := by
  unfold State.takeGranule
  dsimp only
  split
  · exact h
  · exact since_ite (since_dispose h) (since_ite (since_onBlock (since_mk (since_onCell (since_notePoison h)))) (since_startBlock (since_mk
      (since_onCell (since_notePoison h)))))

theorem since_takeNow {st cell g : ℕ} (h : Since τ s) : Since τ (s.takeNow st cell g) := by
  unfold State.takeNow
  dsimp only
  split
  · exact since_releaseGran (since_takeGranule (since_ite (since_onSt (since_onSt h)) (since_onSt h)))
  · exact h

theorem since_startAgain {b : Block} (h : Since τ s) : Since τ (s.startAgain b) := by
  unfold State.startAgain
  dsimp only
  split
  · exact since_emitBlock (since_ite (since_onBlock (since_mk h)) (since_postWrite (since_onBlock (since_mk h))))
  · exact since_ite (since_onBlock (since_mk h)) (since_postWrite (since_onBlock (since_mk h)))

theorem since_cellTakes {r : CapRun} {st cell : ℕ} (h : Since τ s) : Since τ (s.cellTakes r st cell) := by
  unfold State.cellTakes
  split
  · exact since_takeNow h
  · split
    · exact since_startAgain (since_onCell h)
    · refine since_ite h ?_
      split
      · exact since_ite (since_takeNow h) (since_takeGranule h)
      · exact h

theorem since_insertDir {r : CapRun} {b : Block} (h : Since τ s) : Since τ (s.insertDir r b) := since_ite h (since_ite (since_mk h) (since_onCell h))

theorem since_useKey {slot : ℕ} (h : Since τ s) : Since τ (s.useKey slot) := since_ite (since_log (since_onKey h)) (since_onKey h)

theorem since_sealOn {r : CapRun} {core : ℕ} {b : Block} {reg : Region} (h : Since τ s) : Since τ (s.sealOn r core b reg) :=
  since_fillFrame (since_mk (since_onBlock (since_ite (since_ite h (since_onKey (since_useKey h))) (since_mk (since_ite h (since_onKey (since_useKey
      h)))))))

theorem since_coreFailed {core : ℕ} (h : Since τ s) : Since τ (s.coreFailed core) := by
  unfold State.coreFailed
  refine since_ite (since_raise (since_log (since_mk ?_))) (since_log (since_mk ?_))
  · split
    · exact since_onBlock h
    · exact h
  · split
    · exact since_onBlock h
    · exact h

theorem since_staging {a : Access} {off len dom : ℕ} {f : State → State} (h : Since τ s) (hf : ∀ u1, Since τ u1 → Since τ (f u1)) :
    Since τ (s.staging a off len dom f) := since_ite h (since_ite (since_refuse h) (since_ite (since_answer (since_logStatus h)) (hf _ h)))

theorem since_stageViol {a : Access} {off : ℕ} (h : Since τ s) : Since τ (s.stageViol a off) := since_answer (since_logPartner (since_mk h))

theorem since_loseMover {st : ℕ} (h : Since τ s) : Since τ (s.loseMover st) :=
  since_relevelAll (since_mk (since_onSt (since_foldl (fun _ _ => since_loseGuard) (since_ite (since_capFail (since_releaseAll h))
      (since_releaseAll h)))))

theorem since_kWrite {g off : ℕ} {d : List Byte} (h : Since τ s) : Since τ (s.kWrite g off d) := by
  unfold State.kWrite
  refine since_poke ?_
  split
  · exact since_setGran (since_takeNow (since_track h))
  · exact since_track h

theorem since_kUndef {g : ℕ} (h : Since τ s) : Since τ (s.kUndef g) := since_mk (since_kWrite h)

theorem since_undefBuf {a n : ℕ} (h : Since τ s) : Since τ (s.undefBuf a n) := since_mk (since_poke h)

/-! Stores and controllers. -/

theorem since_extendSg {n : ℕ} {data : List Byte} (h : Since τ s) : Since τ (s.extendSg n data) := since_mk h

theorem since_storeRefuse {x : Sub} {e : Ext} {r : Res} (hr : s.storeRefuse x e = some r) (h : Since τ s) : Since τ r.s := by
  have hsame : r.s = s := by
    unfold State.storeRefuse at hr
    dsimp only at hr
    repeat' split at hr
    all_goals cases hr
    all_goals rfl
  rw [hsame]
  exact h

theorem since_bodyStoreCreate {x : Sub} {e : Ext} (h : Since τ s) : Since τ (bodyStoreCreate x e s).s := by
  unfold bodyStoreCreate
  dsimp only
  split
  · exact since_storeRefuse ‹_› h
  · refine since_ite_s (since_badParam h) ?_
    split
    · exact since_fail (since_mk h)
    · exact since_ended (since_mk (since_draw (since_draw (since_mk h))))

theorem since_bodyStoreMount {x : Sub} {e : Ext} (h : Since τ s) : Since τ (bodyStoreMount x e s).s := by
  unfold bodyStoreMount
  dsimp only
  split
  · exact since_storeRefuse ‹_› h
  · split
    · exact since_fail h
    · split
      · exact since_fail h
      · refine since_ite_s (since_fail h) (since_ite_s (since_badParam h) ?_)
        split
        · exact since_fail h
        · exact since_ite_s (since_ended (since_mk h)) (since_ended (since_mk h))

theorem since_bodyStoreDelete {x : Sub} {e : Ext} (h : Since τ s) : Since τ (bodyStoreDelete x e s).s := by
  unfold bodyStoreDelete
  dsimp only
  split
  · exact since_fail h
  · refine since_ite_s (since_fail h) ?_
    split
    · exact since_fail h
    · refine since_ite_s ?_ ?_
      · split
        · exact since_fail (since_mk (since_onMedia h))
        · exact since_ended (since_mk (since_onMedia h))
      · split
        · exact since_fail h
        · exact since_done (since_mk (since_onMedia h))

theorem since_endStorage {handles : List ℕ} {st : BitVec 16} (h : Since τ s) : Since τ (s.endStorage handles st) := by
  unfold State.endStorage
  refine since_foldl (fun _ _ => since_waitEnd) ?_
  split
  · exact since_ite (since_capFail h) h
  · exact h

theorem since_disableCtrl {c : ℕ} (h : Since τ s) : Since τ (s.disableCtrl c) := since_onNvme (since_endStorage h)

theorem since_violNvme {c : ℕ} {d : List Byte} (h : Since τ s) : Since τ (s.violNvme c d) :=
  since_ite (since_logPartner (since_onNvme (since_disableCtrl (since_onNvme (since_logPartner h))))) (since_onNvme (since_logPartner h))

theorem since_bodyStorageAttach {x : Sub} {e : Ext} {ci : CtrlInfo} (h : Since τ s) : Since τ (bodyStorageAttach x e ci s).s :=
  since_ite_s (since_fail h) (since_ite_s (since_fail (since_disableCtrl h)) (since_ite_s (since_fail (since_disableCtrl h)) (since_ite_s
      (since_disableCtrl h) (since_ended (since_mk (since_onNvme h))))))

theorem since_bodyStorageDetach {x : Sub} (h : Since τ s) :
    Since τ (bodyStorageDetach x s).s := since_ite_s (since_fail h) (since_done (since_onNvme h))

/-! Key slots, the key port and the cipher commands. -/

theorem since_zeroKey {slot : ℕ} (h : Since τ s) : Since τ (s.zeroKey slot) := since_capFailSlot (since_onKey h)

theorem since_zeroAllKeys (h : Since τ s) : Since τ s.zeroAllKeys := since_foldl (fun _ _ => since_capFailSlot) (since_mk h)

theorem since_commitKey {slot source : ℕ} {key : BitVec 256} (h : Since τ s) : Since τ (s.commitKey slot source key) := since_onKey (since_draw h)

theorem since_keyErr {slot code : ℕ} (h : Since τ s) : Since τ (s.keyErr slot code) := since_ite (since_mk h) (since_logPartner (since_mk h))

theorem since_wantCipher (h : Since τ s) : Since τ s.wantCipher := since_wantDoms h

theorem since_bodySeal {x : Sub} {e : Ext} (h : Since τ s) : Since τ (bodySeal x e s).s :=
  since_ite_s (since_fail h) (since_ite_s (since_fail h) (since_ite_s (since_fail h) (since_ite_s (since_fail h) (since_ite_s (since_wait
      (since_wantCipher h)) (since_ite_s (since_fail (since_undefBuf (since_useKey h))) (since_ended (since_poke (since_useKey h))))))))

theorem since_bodyUnseal {x : Sub} {e : Ext} (h : Since τ s) : Since τ (bodyUnseal x e s).s := by
  unfold bodyUnseal
  refine since_ite_s (since_fail h) (since_ite_s (since_fail h) (since_ite_s (since_fail h) (since_ite_s (since_wait (since_wantCipher h))
      (since_ite_s (since_fail (since_undefBuf h)) ?_))))
  split
  · exact since_ended (since_poke h)
  · exact since_ended (since_poke h)

theorem since_bodyKeySlotLoad {x : Sub} {e : Ext} (h : Since τ s) : Since τ (bodyKeySlotLoad x e s).s := by
  unfold bodyKeySlotLoad
  refine since_ite_s (since_fail h) (since_ite_s (since_fail h) (since_ite_s (since_fail h) (since_ite_s (since_fail h) (since_ite_s (since_fail h)
      (since_ite_s (since_wait (since_wantCipher h)) ?_)))))
  dsimp only
  split
  · exact since_fail h
  · exact since_done (since_commitKey h)

theorem since_bodyKeySlotZeroise {x : Sub} (h : Since τ s) : Since τ (bodyKeySlotZeroise x s).s := since_done (since_zeroKey h)

/-! Digest contexts and HMAC slots. -/

theorem since_digestTo {x : Sub} {e : Ext} {f : List Byte → List Byte} (h : Since τ s) : Since τ (s.digestTo x e f).s := by
  unfold State.digestTo
  refine since_ite_s (since_wait (since_wantDom h)) (since_ite_s ?_ (since_ite_s (since_running h) (since_ite_s (since_fail h) (since_ite_s
      (since_fail (since_undefBuf h)) (since_ended (since_poke h))))))
  dsimp only
  split
  · exact since_ite_s (since_wait (since_mk (since_onCmd h))) (since_wait h)
  · exact since_wait h

theorem since_bodyDigest {x : Sub} {e : Ext} (h : Since τ s) : Since τ (bodyDigest x e s).s := since_digestTo h

theorem since_bodyHmac {x : Sub} {e : Ext} (h : Since τ s) :
    Since τ (bodyHmac x e s).s := since_ite_s (since_fail h) (since_ite_s (since_badParam h) (since_digestTo h))

theorem since_bodyExtend {x : Sub} {e : Ext} (h : Since τ s) : Since τ (bodyExtend x e s).s :=
  since_ite_s (since_wait (since_wantDom h)) (since_ite_s (since_wait h) (since_ite_s (since_fail h) (since_done (since_extendSg h))))

theorem since_onHslot {i : ℕ} {f : HSlot → HSlot} (h : Since τ s) : Since τ (s.onHslot i f) := since_mk h

theorem since_zeroHkey {i : ℕ} (h : Since τ s) : Since τ (s.zeroHkey i) := since_mk h

theorem since_loadHslot {i : ℕ} {v : BitVec 32} (h : Since τ s) :
    Since τ (s.loadHslot i v) := since_zeroHkey (since_ite (since_onHslot h) (since_onHslot h))

theorem since_clearHslot {i : ℕ} (h : Since τ s) : Since τ (s.clearHslot i) := since_ite (since_onHslot h) (since_zeroHkey (since_onHslot h))

theorem since_dgtWindow {a : Access} {err addr : ℕ} {f : State → State} (h : Since τ s) (hf : ∀ u1, Since τ u1 → Since τ (f u1)) :
    Since τ (s.dgtWindow a err addr f) :=
  since_ite h (since_ite (since_fabWrite h (fun _ => since_id)) (since_ite (since_wantDom h) (since_fabWrite h hf)))

theorem since_hslotCtl {i : ℕ} {v : BitVec 32} (h : Since τ s) :
    Since τ (s.hslotCtl i v) := since_ite (since_ignoredWrite h) (since_ite (since_clearHslot h) (since_ite (since_loadHslot h) h))

theorem since_onCtx {c : ℕ} {f : DgtCtx → DgtCtx} (h : Since τ s) : Since τ (s.onCtx c f) := since_mk h

theorem since_ctxError {c code : ℕ} (h : Since τ s) : Since τ (s.ctxError c code) := since_logPartner (since_mk (since_onCtx h))

theorem since_ctxPut {c op : ℕ} {w : BitVec 64} (h : Since τ s) : Since τ (s.ctxPut c op w) :=
  since_ite (since_ignoredWrite h) (since_ite (since_ctxError h) (since_ite (since_ctxError h) (since_ite (since_ctxError (since_onCtx h))
      (since_onCtx h))))

theorem since_ctxWrite {c op : ℕ} {w : BitVec 64} (h : Since τ s) : Since τ (s.ctxWrite c op w) := since_ite (since_onCtx h) (since_ctxPut h)

theorem since_message {a : Access} {c off op : ℕ} {w : BitVec 64} {wide : Bool} (h : Since τ s) : Since τ (s.message a c off op w wide) :=
  since_ite (since_fabWrite h (fun _ => since_ignoredWrite)) (since_dgtWindow h (fun _ => since_ctxWrite))

theorem since_drainCtx {c : ℕ} {l : List (ℕ × BitVec 64)} (h : Since τ s) : Since τ (s.drainCtx c l) := by
  induction l generalizing s with
  | nil => exact h
  | cons p r ih => exact since_ite (since_onCtx h) (ih (since_ctxPut h))

theorem since_restoreCtx {c : ℕ} (h : Since τ s) : Since τ (s.restoreCtx c) := since_ite (since_ctxError h) (since_onCtx h)

theorem since_putState {c i : ℕ} {v : BitVec 64} (h : Since τ s) : Since τ (s.putState c i v) := since_ite (since_ignoredWrite h) (since_onCtx h)

theorem since_readState {c i : ℕ} (h : Since τ s) : Since τ (s.readState c i).2 := since_ite_snd h (since_ite_snd (since_onCtx h) h)

theorem since_dropStateHalf {c : ℕ} (h : Since τ s) : Since τ (s.dropStateHalf c) := since_mk h

theorem since_ctxCtl {a : Access} {c : ℕ} {v : BitVec 32} (h : Since τ s) : Since τ (s.ctxCtl a c v) :=
  since_ite (since_ignoredWrite h) (since_ite (since_ite (since_onCtx h) h) (since_ite (since_dropStateHalf (since_onCtx h)) (since_ite (since_ite
      (since_ctxError (since_dropStateHalf h)) (since_onCtx (since_dropStateHalf h))) (since_ite (since_ite (since_restoreCtx h) (since_onCtx h))
      (since_ite (since_ite (since_ignoredWrite h) (since_onCtx h)) (since_ite h (since_ignoredWrite h)))))))

theorem since_ctlWrite {a : Access} {c : ℕ} {v : BitVec 32} (h : Since τ s) :
    Since τ (s.ctlWrite a c v) := since_ite (since_fabWrite h (fun _ => since_ignoredWrite)) (since_dgtWindow h (fun _ => since_ctxCtl))

/-! Restore and verification. -/

theorem since_objectSet {ch : ℕ} {o : StoredObj} (h : Since τ s) : Since τ (s.objectSet ch o).2 := since_foldl (fun _ _ => since_log) h

theorem since_countFault {st : BitVec 16} (h : Since τ s) : Since τ (s.countFault st) := since_ite (since_mk h) (since_ite (since_mk h) h)

theorem since_rechecked {e : Ext} (h : Since τ s) : Since τ (s.rechecked e) := since_ite (since_mk h) h

theorem since_writeRun {d : Dest} {r : Run} {data : List Byte} (h : Since τ s) : Since τ (s.writeRun d r data) := since_kWrite h

theorem since_flagRun {d : Dest} {r : Run} {beats : List ℕ} (h : Since τ s) :
    Since τ (s.flagRun d r beats) := since_foldl (fun _ _ hu => since_ite (since_mk hu) hu) h

theorem since_restorePlan {x : Sub} {e : Ext} {o : StoredObj} {set : List StoredObj} {ds : List Dest} (h : Since τ s) :
    Since τ (s.restorePlan x e o set ds).s := by
  unfold State.restorePlan
  dsimp only
  split
  · refine since_ended (since_countFault (since_foldl (fun _ _ => since_kUndef) (since_foldl ?_ (since_foldl ?_ (since_ite (since_freeNat h)
      (since_rechecked (since_freeNat h)))))))
    · intro _ _ hu
      refine since_ite ?_ hu
      split
      · exact since_flagRun hu
      · exact hu
    · intro _ _ hu
      refine since_ite ?_ hu
      split
      · exact since_writeRun hu
      · exact hu
  · refine since_ended (since_foldl ?_ (since_foldl ?_ (since_ite (since_freeNat h) (since_rechecked (since_freeNat h)))))
    · intro _ _ hu
      refine since_ite ?_ hu
      split
      · exact since_flagRun hu
      · exact hu
    · intro _ _ hu
      refine since_ite ?_ hu
      split
      · exact since_writeRun hu
      · exact hu

theorem since_endApplied {ch : ℕ} (h : Since τ s) : Since τ (s.endApplied ch) := since_ite (since_onStep (since_freeStepCopies h)) h

theorem since_restoreTo {x : Sub} {e : Ext} {o : StoredObj} {ds : List (ℕ × Region × ℕ × BitVec 32)} (h : Since τ s) :
    Since τ (s.restoreTo x e o ds).s := by
  unfold State.restoreTo
  dsimp only
  split
  · exact since_ended (since_objectSet (since_endApplied h))
  · split
    · exact since_ended (since_objectSet (since_endApplied h))
    · exact since_restorePlan (since_objectSet (since_endApplied h))

theorem since_bodyRestore {x : Sub} {e : Ext} (h : Since τ s) : Since τ (bodyRestore x e s).s := by
  unfold bodyRestore
  dsimp only
  split
  · exact since_ite_s (since_badParam h) (since_fail h)
  · exact since_ite_s (since_fail h) (since_ite_s (since_onStep (since_restoreTo h)) (since_restoreTo h))

theorem since_bodyRestoreSlice {x : Sub} {e : Ext} (h : Since τ s) : Since τ (bodyRestoreSlice x e s).s := by
  unfold bodyRestoreSlice
  split
  · exact since_ite_s (since_badParam h) (since_fail h)
  · exact since_restoreTo h
  · exact since_badParam h

theorem since_bodyVerify {x : Sub} {e : Ext} (h : Since τ s) : Since τ (bodyVerify x e s).s := by
  unfold bodyVerify
  dsimp only
  split
  · exact since_ite_s (since_badParam h) (since_fail h)
  · split
    · exact since_fail h
    · refine since_ite_s ?_ ?_
      · split
        · exact since_fail (since_countFault (since_freeNat (since_rechecked h)))
        · exact since_done (since_freeNat (since_rechecked h))
      · split
        · exact since_ended (since_freeNat (since_rechecked h))
        · exact since_ended (since_countFault (since_freeNat (since_rechecked h)))

theorem since_bodyManifestRead {x : Sub} {e : Ext} (h : Since τ s) : Since τ (bodyManifestRead x e s).s := by
  unfold bodyManifestRead
  dsimp only
  split
  · exact since_ite_s (since_badParam h) (since_fail h)
  · split
    · exact since_fail (since_countFault h)
    · split
      · exact since_fail h
      · exact since_ite_s (since_fail (since_undefBuf h)) (since_ended (since_poke (since_rechecked h)))

/-! Streams. -/

theorem since_onRun {i : ℕ} {f : StmRun → StmRun} (h : Since τ s) : Since τ (s.onRun i f) := since_mk h

theorem since_onStm {i : ℕ} {f : Stm → Stm} (h : Since τ s) : Since τ (s.onStm i f) := since_mk h

theorem since_discard {ch n : ℕ} (h : Since τ s) : Since τ (s.discard ch n) := since_mk (since_onUn h)

theorem since_staleGen {i : ℕ} (h : Since τ s) : Since τ (s.staleGen i) := since_log (since_mk h)

theorem since_dropStreamClamp {i : ℕ} (h : Since τ s) : Since τ (s.dropStreamClamp i) := since_mk h

theorem since_freeStream {i : ℕ} (h : Since τ s) : Since τ (s.freeStream i) := since_mk (since_dropStreamClamp h)

theorem since_stopApply {ch : ℕ} (h : Since τ s) : Since τ (s.stopApply ch) := since_onStep h

theorem since_endRunning {c : Cmd} {st : BitVec 16} (h : Since τ s) :
    Since τ (s.endRunning c st) := since_ite (since_finish (since_ite (since_stopApply h) h)) (since_finish (since_ite (since_stopApply h) h))

theorem since_endBound {i : ℕ} {st : BitVec 16} (h : Since τ s) : Since τ (s.endBound i st) := by
  unfold State.endBound
  split
  · exact h
  · split
    · exact since_endRunning h
    · exact h

theorem since_faultStream {i : ℕ} {st : BitVec 16} {whr : ℕ} (h : Since τ s) :
    Since τ (s.faultStream i st whr) := since_logStatus (since_onRun (since_endBound h))

theorem since_firePosts {i : ℕ} (h : Since τ s) : Since τ (s.firePosts i) := since_foldl (fun _ _ => since_signal) (since_onRun h)

theorem since_returnCredits {i : ℕ} (h : Since τ s) : Since τ (s.returnCredits i) := since_onRun h

theorem since_issueSpan {i : ℕ} {t : Stm} {r : StmRun} {first left : ℕ} (h : Since τ s) : Since τ (s.issueSpan i t r first left) := by
  unfold State.issueSpan
  dsimp only
  split
  · exact h
  · refine since_onRun ?_
    split
    · exact since_onSt (since_mk h)
    · exact since_mk h

theorem since_streamWrite {fuel addr : ℕ} {d : List (Byte × Bool)} (h : Since τ s) : Since τ (s.streamWrite fuel addr d) := by
  induction fuel generalizing s addr d with
  | zero => exact h
  | succ k ih =>
    cases d with
    | nil => exact h
    | cons b r =>
      unfold State.streamWrite
      exact ih (since_mk (since_ite (since_kWrite h) (since_poke h)))

theorem since_writeSpan {i : ℕ} {t : Stm} {r : StmRun} {tag : TagRef × Option TagRef} {addr n : ℕ} (h : Since τ s) :
    Since τ (s.writeSpan i t r tag addr n) := by
  unfold State.writeSpan
  refine since_streamWrite ?_
  split
  · exact since_onSt (since_mk h)
  · exact since_mk h

theorem since_drainStream {i : ℕ} {err : Bool} {fuel : ℕ} (h : Since τ s) : Since τ (s.drainStream i err fuel) := by
  induction fuel generalizing s with
  | zero => exact h
  | succ k ih =>
    unfold State.drainStream
    dsimp only
    refine since_ite h ?_
    split
    · exact since_faultStream (since_onRun h)
    · exact since_firePosts (since_onRun h)
    · exact since_firePosts (since_discard (since_onRun h))
    · split
      · exact since_firePosts (since_onRun h)
      · exact ih (since_onRun (since_writeSpan h))

theorem since_settleClose {i : ℕ} (h : Since τ s) : Since τ (s.settleClose i) := by
  unfold State.settleClose
  dsimp only
  split
  · exact h
  · refine since_ite h ?_
    split
    · exact since_conclude (since_done (since_freeStream h))
    · exact since_freeStream h

theorem since_settleWrites {i : ℕ} (h : Since τ s) : Since τ (s.settleWrites i) := since_settleClose (since_firePosts (since_onRun h))

theorem since_writeFails {i : ℕ} {u : TagUse} (h : Since τ s) :
    Since τ (s.writeFails i u) := since_ite (since_onRun (since_undefBuf h)) (since_faultStream (since_onRun (since_undefBuf h)))

theorem since_acked {u : TagUse} {err : Bool} (h : Since τ s) : Since τ (s.acked u err) := by
  unfold State.acked
  dsimp only
  split
  · exact since_mk h
  · exact since_ite (since_settleClose (since_mk h)) (since_ite (since_ite (since_staleGen (since_ite (since_undefBuf (since_mk h)) (since_mk h)))
      (since_ite (since_undefBuf (since_mk h)) (since_mk h))) (since_ite (since_settleClose (since_writeFails (since_mk h))) (since_settleWrites
      (since_onRun (since_mk h)))))

theorem since_land {i : ℕ} {w : Answer} (h : Since τ s) : Since τ (s.land i w) :=
  since_settleClose (since_returnCredits (since_ite (since_discard (since_staleGen (since_mk h))) (since_ite (since_discard (since_mk h)) (since_ite
      (since_faultStream (since_mk h)) (since_onRun (since_mk h))))))

theorem since_takeStream {i n : ℕ} {d : List (Byte × Bool)} {t : State} (ht : s.takeStream i n = some (d, t)) (h : Since τ s) : Since τ t := by
  unfold State.takeStream at ht
  dsimp only at ht
  split at ht
  · cases ht
    exact since_returnCredits (since_firePosts (since_onRun (since_mk h)))
  · cases ht

theorem since_giveStream {i : ℕ} {d : List (Byte × Bool)} (h : Since τ s) : Since τ (s.giveStream i d) := since_drainStream (since_onRun h)

theorem since_bodyStreamOpen {x : Sub} {e : Ext} {twin : Bool} (h : Since τ s) : Since τ (bodyStreamOpen x e twin s).s := by
  unfold bodyStreamOpen
  refine since_ite_s (since_fail h) (since_ite_s (since_fail h) ?_)
  dsimp only
  split
  · exact since_reject h
  · split
    · exact since_reject h
    · refine since_ite_s (since_fail h) ?_
      split
      · exact since_fail h
      · exact since_ite_s (since_fail h) (since_done (since_mk h))

theorem since_bodyStreamClose {x : Sub} (h : Since τ s) : Since τ (bodyStreamClose x s).s := by
  unfold bodyStreamClose
  dsimp only
  split
  · exact since_reject h
  · exact since_ite_s (since_wait h) (since_ite_s (since_fail h) (since_ite_s (since_wait (since_onRun (since_discard h))) (since_done
      (since_freeStream (since_discard h)))))

theorem since_markTags {i gen b : ℕ} (h : Since τ s) : Since τ (s.markTags i gen b) := since_mk h

theorem since_bodyStreamSeek {x : Sub} (h : Since τ s) : Since τ (bodyStreamSeek x s).s := by
  unfold bodyStreamSeek
  dsimp only
  split
  · exact since_reject h
  · refine since_ite_s (since_badParam h) (since_ite_s (since_fail h) ?_)
    split
    · exact since_done (since_onRun (since_discard h))
    · exact since_done (since_returnCredits (since_onRun (since_markTags (since_discard h))))

theorem since_bodyStreamCancel {x : Sub} (h : Since τ s) : Since τ (bodyStreamCancel x s).s := by
  unfold bodyStreamCancel
  dsimp only
  split
  · exact since_reject h
  · refine since_done (since_freeStream (since_discard ?_))
    split
    · split
      · exact since_conclude (since_fail (since_endBound h))
      · exact since_endBound h
    · exact since_endBound h

theorem since_bodyK2Credit {x : Sub} (h : Since τ s) :
    Since τ (bodyK2Credit x s).s := since_ite_s (since_badParam h) (since_ite_s (since_fail h) (since_done (since_onCh h)))

/-! Element programs and steps. -/

theorem since_bodyProgramLoad {x : Sub} {e : Ext} (h : Since τ s) : Since τ (bodyProgramLoad x e s).s := by
  unfold bodyProgramLoad
  refine since_ite_s (since_fail h) (since_ite_s (since_fail h) ?_)
  split
  · exact since_reject h
  · exact since_done (since_onUn h)

theorem since_rejectStep {ch : ℕ} (h : Since τ s) : Since τ (s.rejectStep ch) := since_mk (since_onStep (since_freeStepCopies h))

theorem since_boundary {ch : ℕ} (h : Since τ s) : Since τ (s.boundary ch) := since_mk (since_onStep h)

theorem since_enterStep {x : Sub} (h : Since τ s) : Since τ (s.enterStep x) := since_onStep (since_onStep h)

theorem since_stepFlip {ch : ℕ} (h : Since τ s) : Since τ (s.stepFlip ch) := by
  unfold State.stepFlip
  dsimp only
  split
  · exact h
  · exact since_conclude (since_done (since_ite (since_loseGuard (since_onStep (since_enterStep h))) (since_onStep (since_enterStep h))))

theorem since_bodyStepBegin {x : Sub} {e : Ext} (h : Since τ s) : Since τ (bodyStepBegin x e s).s := by
  unfold bodyStepBegin
  refine since_ite_s (since_wait h) (since_ite_s (since_badParam h) (since_ite_s (since_fail h) (since_ite_s (since_fail h) ?_)))
  dsimp only
  split
  · exact since_log h
  · split
    · exact since_log h
    · exact since_ite_s (since_wait h) (since_ite_s (since_ite_s (since_wait (since_wantDoms h)) (since_wait (since_askFreeze (since_onStep
        (since_freeStepCopies h))))) (since_done (since_enterStep (since_freeStepCopies h))))

theorem since_regionWrite {r : Region} {m fuel i : ℕ} {d : List (ℕ × Bool)} (h : Since τ s) : Since τ (s.regionWrite r m fuel i d) := by
  induction fuel generalizing s i d with
  | zero => exact h
  | succ k ih =>
    cases d with
    | nil => exact h
    | cons b l =>
      unfold State.regionWrite
      exact ih (since_streamWrite h)

theorem since_slotRead {v : ℕ × ℕ} {k : StepBlk} {n : ℕ} {d : List (ℕ × Bool)} {t : State} (ht : s.slotRead v k n = some (d, t)) (h : Since τ s) :
    Since τ t := by
  unfold State.slotRead at ht
  split at ht
  · cases ht
    exact h
  · obtain ⟨⟨d', t'⟩, htake, heq⟩ := Option.map_eq_some_iff.mp ht
    cases heq
    exact since_takeStream htake h
  · cases ht
    exact h

theorem since_slotsRead {k : StepBlk} {n : ℕ} {vs : List (ℕ × ℕ)} {d : List (List (ℕ × Bool))} {t : State} (ht : s.slotsRead k n vs = some (d, t))
    (h : Since τ s) : Since τ t := by
  induction vs generalizing s d t with
  | nil =>
    cases ht
    exact h
  | cons v r ih =>
    unfold State.slotsRead at ht
    split at ht
    · cases ht
    · next d₁ u hread =>
      obtain ⟨⟨d₂, t'⟩, hrest, heq⟩ := Option.map_eq_some_iff.mp ht
      cases heq
      exact ih hrest (since_slotRead hread h)

theorem since_useProg {st ch p : ℕ} (h : Since τ s) : Since τ (s.useProg st ch p) := since_onCell h

theorem since_bindStreams {x : Sub} {l : List (ℕ × ℕ × ℕ)} {t : State} (ht : s.bindStreams x l = .ok t) (h : Since τ s) : Since τ t := by
  unfold State.bindStreams at ht
  dsimp only at ht
  split at ht
  · cases ht
  · split at ht
    · cases ht
    · cases ht
      exact since_foldl (fun _ _ => since_onRun) h

theorem since_goesOn {units : ℕ} (h : Since τ s) : Since τ (goesOn s units).s := h

theorem since_phased {x : Sub} {r : Res} (h : Since τ r.s) : Since τ (phased x r).s := since_ite_s (since_running h) h

theorem since_noteProg {x : Sub} {n : ℕ} {acc : List (BitVec 64)} (h : Since τ s) : Since τ (s.noteProg x n acc) := since_onCmd h

theorem since_measureLoop {x : Sub} {l : List StepBlk} {n : ℕ} {sum : BitVec 64} {bad : ℕ} {loc : Option ℕ} (h : Since τ s) :
    Since τ (s.measureLoop x l n sum bad loc).s := by
  induction l generalizing s n sum bad loc with
  | nil => exact since_ite_s (since_ended (since_onStep h)) (since_ended (since_rejectStep h))
  | cons k r ih =>
    unfold State.measureLoop
    dsimp only
    split
    · exact since_goesOn (since_noteProg h)
    · exact ih (since_slotRead ‹_› h)

theorem since_bodyStepMeasure {x : Sub} {e : Ext} (h : Since τ s) : Since τ (bodyStepMeasure x e s).s := by
  unfold bodyStepMeasure
  refine since_ite_s (since_fail h) (since_ite_s (since_fail h) ?_)
  dsimp only
  split
  · exact since_wait h
  · exact h
  · exact since_measureLoop (since_bindStreams ‹_› h)

theorem since_bodyStepNorm {x : Sub} (h : Since τ s) : Since τ (bodyStepNorm x s).s :=
  since_ite_s (since_badParam h) (since_ite_s (since_fail h) (since_ite_s (since_rejectStep h) (since_done (since_onStep h))))

theorem since_bodyStepAbort {x : Sub} (h : Since τ s) :
    Since τ (bodyStepAbort x s).s := since_ite_s (since_fail h) (since_done (since_boundary (since_onStep (since_freeStepCopies h))))

theorem since_blockWrite {x : Sub} {e : PlanEntry} {k : StepBlk} {l : List (ℕ × List (ℕ × Bool))} (h : Since τ s) :
    Since τ (s.blockWrite x e k l) := by
  unfold State.blockWrite
  refine since_foldl ?_ h
  intro _ _ hu
  split
  · exact since_regionWrite hu
  · exact since_ite (since_giveStream hu) hu
  · exact hu

theorem since_applyEnd {x : Sub} {n bad : ℕ} (h : Since τ s) : Since τ (s.applyEnd x n bad).s :=
  since_ended (since_boundary (since_ite (since_onStep (since_freeNat h)) (since_onStep (since_onStep (since_freeNat h)))))

theorem since_applyLoop {x : Sub} {stop : Option ℕ} {l : List StepBlk} {n bad : ℕ} (h : Since τ s) : Since τ (s.applyLoop x stop l n bad).s := by
  induction l generalizing s n bad with
  | nil => exact since_ite_s (since_goesOn (since_noteProg h)) (since_applyEnd h)
  | cons k r ih =>
    unfold State.applyLoop
    dsimp only
    split
    · exact since_goesOn (since_noteProg h)
    · next d t hread =>
      have ht : Since τ t := since_slotsRead hread h
      refine since_ite_s (since_ite_s ?_ (since_ite_s ?_ ?_)) (ih (since_ite (since_poke (since_useProg ht)) (since_useProg ht)))
      · exact since_ended (since_stopApply (since_mk (since_blockWrite (since_useProg ht))))
      · exact since_wait (since_blockWrite (since_useProg ht))
      · exact ih (since_onStep (since_blockWrite (since_useProg ht)))

theorem since_bodyStepApply {x : Sub} {e : Ext} (h : Since τ s) : Since τ (bodyStepApply x e s).s := by
  unfold bodyStepApply
  refine since_ite_s (since_fail h) (since_ite_s (since_fail h) ?_)
  dsimp only
  split
  · exact since_wait h
  · exact h
  · exact since_applyLoop (since_freeNat (since_onStep (since_bindStreams ‹_› h)))

theorem since_putBack {k : Copy} (h : Since τ s) : Since τ (s.putBack k) := since_mk (since_kWrite h)

theorem since_bodyStepRollback {x : Sub} {e : Ext} (h : Since τ s) : Since τ (bodyStepRollback x e s).s := by
  unfold bodyStepRollback
  refine since_ite_s (since_fail h) (since_ite_s (since_ended (since_dropShares ?_)) (since_ended (since_onStep (since_freeStepCopies (since_foldl
      (fun _ _ => since_putBack) h)))))
  split
  · exact since_kUndef (since_foldl (fun _ _ => since_putBack) (since_freeNat h))
  · exact since_foldl (fun _ _ => since_putBack) (since_freeNat h)

theorem since_tierMove {i : ℕ} {toSlow : Bool} {k : ℕ} {ok : Bool} (h : Since τ s) : Since τ (s.tierMove i toSlow k ok) := by
  unfold State.tierMove
  dsimp only
  split
  · exact h
  · exact since_ite (since_onRegion (since_mk (since_poke (since_setGran (since_track h))))) (since_undefBuf (since_setGran (since_track h)))

theorem since_bodyTierPlace {x : Sub} {e : Ext} (h : Since τ s) : Since τ (bodyTierPlace x e s).s := by
  unfold bodyTierPlace
  dsimp only
  split
  · exact since_badParam h
  · exact since_ite_s (since_fail h) (since_ite_s (since_ended h) (since_ite_s (since_badParam h) (since_ite_s (since_wait h) (since_ite_s
      (since_ended (since_tierMove (since_foldl (fun _ _ => since_tierMove) (since_freeNat (since_ite (since_onRegion h) h))))) (since_ended
      (since_foldl (fun _ _ => since_tierMove) (since_ite (since_onRegion h) h)))))))

theorem since_condenseLoop {src dst : Region} {stop : Option ℕ} {l : List (ℕ × ℕ)} {n : ℕ} {gs : List ℕ} (h : Since τ s) :
    Since τ (s.condenseLoop src dst stop l n gs).s := by
  induction l generalizing s n gs with
  | nil => exact since_ended h
  | cons p r ih =>
    unfold State.condenseLoop
    exact since_ite_s (since_ended h) (since_ite_s (since_ended (since_foldl (fun _ _ => since_kUndef) h)) (ih (since_regionWrite h)))

theorem since_bodyCondense {x : Sub} {e : Ext} (h : Since τ s) : Since τ (bodyCondense x e s).s := by
  unfold bodyCondense
  dsimp only
  split
  · exact since_ite_s (since_badParam h) (since_ite_s (since_badParam h) (since_condenseLoop (since_freeNat h)))
  · exact since_badParam h

theorem since_cellOut {st cell : ℕ} (h : Since τ s) :
    Since τ (s.cellOut st cell) := since_ite (since_onSt (since_onCell h)) (since_raise (since_onSt (since_onCell h)))

/-! Start-up and resets. -/

theorem since_burnRow {row : ℕ} (h : Since τ s) : Since τ (s.burnRow row) := since_mk h

theorem since_burnRollback {n : ℕ} (h : Since τ s) : Since τ (s.burnRollback n) := since_mk (since_mk h)

theorem since_noteChange {kind old new : ℕ} {atBoot : Bool} (h : Since τ s) :
    Since τ (s.noteChange kind old new atBoot) := since_cause (since_log (since_extendSg h))

theorem since_burnFailed {row : ℕ} {commit : Bool} (h : Since τ s) : Since τ (s.burnFailed row commit) := since_log (since_ite (since_mk h) h)

theorem since_resolveLife {burn : Burn} (h : Since τ s) : Since τ (s.resolveLife burn) := by
  unfold State.resolveLife
  dsimp only
  split
  · exact h
  · exact since_ite (since_noteChange (since_mk (since_burnRow h))) (since_burnFailed (since_mk h))

theorem since_repairStile {st : ℕ} (h : Since τ s) :
    Since τ (s.repairStile st) := since_ite h (since_ite (since_raise (since_onSt (since_onSt h))) (since_onSt h))

theorem since_domainUp {d : ℕ} (h : Since τ s) :
    Since τ (s.domainUp d) := since_ite h (since_ite (since_mk (since_onSt h)) (since_foldl (fun _ _ => since_onCell) h))

theorem since_domainOff {d : ℕ} (h : Since τ s) : Since τ (s.domainOff d) :=
  since_mk (since_ite (since_mk (since_ite (since_foldl (fun _ _ => since_onCell) (since_ite (since_loseMover h) h)) (since_ite
      (since_loseMover h) h))) (since_ite (since_foldl (fun _ _ => since_onCell) (since_ite (since_loseMover h) h)) (since_ite (since_loseMover
      h) h)))

theorem since_zeroWindow (h : Since τ s) : Since τ s.zeroWindow := by
  unfold State.zeroWindow
  dsimp only
  split
  · exact h
  · exact since_ite (since_onCh h) h

theorem since_becomeReady (h : Since τ s) : Since τ s.becomeReady := since_zeroWindow (since_mk (since_draw h))

theorem since_rejectImage {code : ℕ} (h : Since τ s) : Since τ (s.rejectImage code) := since_mk (since_logStatus h)

theorem since_runImage {img : Image} {key : ℕ} (h : Since τ s) : Since τ (s.runImage img key) := since_mk h

theorem since_measureImage {img : Image} {key : ℕ} (h : Since τ s) : Since τ (s.measureImage img key) := since_extendSg (since_extendSg h)

theorem since_takeImage {img : Image} {onOk : State → State} (h : Since τ s) (honOk : ∀ u1, Since τ u1 → Since τ (onOk u1)) :
    Since τ (s.takeImage img onOk) := by
  unfold State.takeImage
  refine since_ite (honOk _ (since_runImage h)) ?_
  split
  · exact since_rejectImage h
  · exact honOk _ (since_runImage (since_measureImage h))

theorem since_wakeCores (h : Since τ s) : Since τ s.wakeCores := since_wantDoms (since_mk h)

theorem since_wakeRefused {was : State} (h : Since τ s) :
    Since τ (s.wakeRefused was) := since_ite (since_mk (since_foldl (fun _ _ hu => since_ite hu (since_domainOff hu)) h)) (since_mk h)

theorem since_dropParked (h : Since τ s) : Since τ s.dropParked := since_zeroWindow (since_mk h)

theorem since_policyMoves (h : Since τ s) : Since τ s.policyMoves := since_ite (since_mk h) (since_ite (since_wantDoms (since_mk h)) h)

theorem since_wakeDone (h : Since τ s) : Since τ s.wakeDone :=
  since_policyMoves (since_mk (since_ite (since_dropParked (since_log h)) (since_foldl (fun _ _ => since_onMedia) (since_withParked h))))

theorem since_wakeOn {img : Image} (h : Since τ s) : Since τ (s.wakeOn img) :=
  since_ite (since_becomeReady (since_ite (since_mk (since_ite (since_wantDoms (since_ite (since_takeImage h (fun _ => since_wakeCores)) h))
      (since_ite (since_takeImage h (fun _ => since_wakeCores)) h))) (since_ite (since_wantDoms (since_ite (since_takeImage h (fun _ hu =>
      since_wakeCores hu)) h)) (since_ite (since_takeImage h (fun _ => since_wakeCores)) h)))) (since_ite (since_mk (since_ite (since_wantDoms
      (since_ite (since_takeImage h (fun _ => since_wakeCores)) h)) (since_ite (since_takeImage h (fun _ => since_wakeCores)) h)))
      (since_ite (since_wantDoms (since_ite (since_takeImage h (fun _ => since_wakeCores)) h)) (since_ite (since_takeImage h (fun _ hu =>
      since_wakeCores hu)) h)))

theorem since_awaitRail (h : Since τ s) : Since τ s.awaitRail := since_ite (since_wantDoms (since_mk h)) h

theorem since_freeHeld (h : Since τ s) : Since τ s.freeHeld := since_foldl (fun _ _ => since_releaseAll) h

theorem since_coldStart {burn : Burn} {fuseErr : List ℕ} (h : Since τ s) : Since τ (s.coldStart burn fuseErr) :=
  since_ite (since_mk (since_extendSg (since_extendSg (since_foldl (fun _ _ => since_repairStile) (since_resolveLife (since_mk (since_mk
      (since_foldl (fun _ _ => since_log) (since_mk h))))))))) (since_awaitRail (since_extendSg (since_extendSg (since_foldl (fun _ _ hu =>
      since_repairStile hu) (since_resolveLife (since_mk (since_mk (since_foldl (fun _ _ => since_log) (since_mk h)))))))))

theorem since_capReset (h : Since τ s) : Since τ s.capReset := since_capFail (since_foldl (fun _ _ => since_waitEnd) h)

theorem since_warmAssert (h : Since τ s) : Since τ s.warmAssert := since_mk (since_freeHeld (since_capReset h))

theorem since_warmStart {img : Image} (h : Since τ s) : Since τ (s.warmStart img) :=
  since_ite (since_mk h) (since_ite (since_takeImage (since_mk h) (fun _ => since_wakeCores)) (since_wantDoms (since_mk h)))

theorem since_loadFirmware {img : Image} (h : Since τ s) : Since τ (s.loadFirmware img) :=
  since_ite h (since_ite (since_takeImage h (fun _ hu => since_beginWake (since_mk hu))) (since_ite (since_takeImage (since_mk h) (fun _ hu =>
      since_wakeCores hu)) (since_mk h)))

theorem since_railUp (h : Since τ s) : Since τ s.railUp := since_ite (since_wantDoms (since_mk h)) (since_awaitRail (since_mk h))

theorem since_railDown (h : Since τ s) : Since τ s.railDown := since_mk (since_foldl (fun _ _ => since_domainOff) h)

theorem since_bodyFwStage {x : Sub} {e : Ext} {img : Image} (h : Since τ s) : Since τ (bodyFwStage x e img s).s := by
  unfold bodyFwStage
  refine since_ite_s (since_fail h) ?_
  dsimp only
  split
  · exact since_badParam h
  · exact since_ended h
  · exact since_ended (since_mk h)

theorem since_bodyFwActivate {x : Sub} {e : Ext} {img : Image} (h : Since τ s) : Since τ (bodyFwActivate x e img s).s := by
  unfold bodyFwActivate
  dsimp only
  split
  · exact since_fail h
  · refine since_ite_s (since_fail h) (since_ite_s (since_fail h) (since_ite_s (since_fail (since_mk h)) ?_))
    split
    · exact since_fail (since_mk h)
    · exact since_ite_s (since_done (since_mk (since_runImage (since_extendSg (since_ite (since_burnRollback (since_mk h)) (since_mk h))))))
        (since_wait (since_warmStart (since_warmAssert (since_mk (since_extendSg (since_ite (since_burnRollback (since_mk h)) (since_mk h)))))))

/-! The rows of the queues. -/

theorem since_tailWrite {ch q : ℕ} {v : BitVec 32} (h : Since τ s) :
    Since τ (s.tailWrite ch q v) := since_ite (since_ignoredWrite h) (since_ite (since_violSq (since_logPartner h)) (since_onSq h))

theorem since_headWrite {ch q : ℕ} {v : BitVec 32} (h : Since τ s) :
    Since τ (s.headWrite ch q v) := since_ite (since_ignoredWrite h) (since_ite (since_violCq (since_logPartner h)) (since_onCq h))

theorem since_takeEntry {ch q : ℕ} {bad : Bool} (h : Since τ s) : Since τ (s.takeEntry ch q bad) :=
  since_ite (since_violSq (since_logPartner (since_mk (since_onCh (since_onCq (since_onSq h)))))) (since_ite (since_onCh (since_onCq (since_onSq h)))
      (since_onCh (since_onCq (since_onSq h))))

theorem since_dispatch {ch i : ℕ} {f : Fetched} (h : Since τ s) : Since τ (s.dispatch ch i f) := by
  unfold State.dispatch
  refine since_ite ?_ ?_
  · dsimp only
    split
    · exact since_refuseSub (since_onCh h)
    · exact since_accept (since_onCh h)
  · split
    · exact since_refuseSub (since_onCh h)
    · exact since_accept (since_onCh h)

theorem since_settleSq {ch q : ℕ} (h : Since τ s) : Since τ (s.settleSq ch q) := since_ite (since_onSq h) h

theorem since_post {f : Machine.Fin} {err : Bool} (h : Since τ s) : Since τ (s.post f err) :=
  since_settleSq (since_jot (since_ite (since_onCq (since_mk h)) (since_ite (since_quarCq (since_onCq (since_mk h))) (since_ite (since_cause
      (since_onCh (since_onCq (since_poke (since_onCq (since_mk h)))))) (since_onCq (since_poke (since_onCq (since_mk h))))))))

theorem since_enableAdmin {ch : ℕ} {cq : Bool} (h : Since τ s) : Since τ (s.enableAdmin ch cq) :=
  since_ite (since_ite h (since_ite (since_logPartner (since_onCh h)) (since_onCh h))) (since_ite h (since_ite (since_logPartner (since_onCh h))
      (since_onCh h)))

theorem since_disableCq0 {ch : ℕ} (h : Since τ s) : Since τ (s.disableCq0 ch) := since_ite (since_ignoredWrite h) (since_onCq (since_mk h))

/-! The lifecycle and the lamp. -/

theorem since_clearDrbg (h : Since τ s) : Since τ s.clearDrbg := since_mk h

theorem since_setLamp {v : ℕ} (h : Since τ s) :
    Since τ (s.setLamp v) := since_ite h (since_noteChange (since_mk (since_ite (since_clearDrbg (since_zeroAllKeys h)) h)))

theorem since_lampDenied {d : List Byte} (h : Since τ s) : Since τ (s.lampDenied d) := since_logStatus h

theorem since_lampRequest {v : BitVec 8} (h : Since τ s) : Since τ (s.lampRequest v) :=
  since_ite (since_lampDenied h) (since_ite (since_setLamp h) (since_ite h (since_ite (since_mk (since_draw h)) (since_lampDenied h))))

theorem since_lampResponse {r t : BitVec 384} (h : Since τ s) : Since τ (s.lampResponse r t) := by
  unfold State.lampResponse
  dsimp only
  split
  · exact h
  · exact since_ite (since_setLamp (since_mk h)) (since_mk h)

theorem since_lampCtl {lower : Bool} {v : ℕ} (h : Since τ s) :
    Since τ (s.lampCtl lower v) := since_ite h (since_ite (since_setLamp h) (since_ignoredWrite h))

theorem since_haltCtl {mask : BitVec 3} (h : Since τ s) : Since τ (s.haltCtl mask) := since_ite (since_lampDenied h) (since_mk h)

theorem since_scan (h : Since τ s) : Since τ s.scan := since_ite (since_mk h) (since_lampDenied h)

theorem since_enterLife {t : Life} (h : Since τ s) : Since τ (s.enterLife t) := by
  unfold State.enterLife
  refine since_ite (since_setLamp ?_) ?_
  · dsimp only
    split
    · exact since_ite (since_mk (since_noteChange (since_mk h))) (since_noteChange (since_mk h))
    · exact since_noteChange (since_mk h)
  · dsimp only
    split
    · exact since_ite (since_mk (since_noteChange (since_mk h))) (since_noteChange (since_mk h))
    · exact since_noteChange (since_mk h)

theorem since_burnLife {t : Life} {burn : Burn} (h : Since τ s) : Since τ (s.burnLife t burn).s :=
  since_ite_s (since_ended (since_burnFailed (since_ite (since_zeroAllKeys h) h))) (since_ite_s (since_ended (since_burnFailed (since_mk
      (since_burnRow (since_ite (since_zeroAllKeys h) h))))) (since_ended (since_enterLife (since_burnRow (since_burnRow (since_ite
      (since_zeroAllKeys h) h))))))

theorem since_bodyLifecycleAdvance {x : Sub} {e : Ext} {burn : Burn} (h : Since τ s) : Since τ (bodyLifecycleAdvance x e burn s).s := by
  unfold bodyLifecycleAdvance
  dsimp only
  split
  · exact since_badParam h
  · exact since_ite_s (since_fail h) (since_ite_s (since_ite_s (since_fail h) (since_ite_s (since_burnLife (since_mk (since_draw h))) (since_fail
      (since_mk (since_draw h))))) (since_burnLife h))

theorem since_retire (h : Since τ s) : Since τ s.retire :=
  since_mk (since_foldl (fun _ _ => since_domainOff) (since_freeHeld (since_capReset (since_foldl (fun _ _ => since_post) h))))

/-! Site exchange. -/

theorem since_onRec {ch n : ℕ} {f : BlkRec → BlkRec} (h : Since τ s) : Since τ (s.onRec ch n f) := since_poke h

theorem since_areaWrite {a z len : ℕ} {d : List (ℕ × Bool)} (h : Since τ s) : Since τ (s.areaWrite a z len d) := since_mk (since_poke h)

theorem since_onPeer {ch p : ℕ} {f : Peer → Peer} (h : Since τ s) : Since τ (s.onPeer ch p f) := since_onSite h

theorem since_missBlock {ch n c : ℕ} (h : Since τ s) : Since τ (s.missBlock ch n c) := since_onRec h

theorem since_missSite {ch c : ℕ} (h : Since τ s) :
    Since τ (s.missSite ch c) := since_ite h (since_foldl (fun _ _ hu => since_ite hu (since_missBlock hu)) h)

theorem since_violSdx {ch p : ℕ} (h : Since τ s) : Since τ (s.violSdx ch p) :=
  since_ite (since_onPeer (since_logPartner h)) (since_missSite (since_logPartner (since_onPeer (since_onPeer (since_logPartner h)))))

theorem since_sdxSend {ch p : ℕ} {f : SdxFrame} {bad : Bool} (h : Since τ s) : Since τ (s.sdxSend ch p f bad) :=
  since_poke (since_onPeer (since_ite (since_mk (since_poke (since_ite (since_poke h) h))) (since_poke (since_ite (since_poke h) h))))

theorem since_takeInvocation {slot : ℕ} {reserved : Bool} (h : Since τ s) :
    Since τ (s.takeInvocation slot reserved).2 := since_ite (since_onKey (since_useKey h)) (since_useKey h)

theorem since_sdxControl {ch p kind : ℕ} {seq : BitVec 32} {payload : List Byte} (h : Since τ s) :
    Since τ (s.sdxControl ch p kind seq payload) := since_ite h (since_ite (since_ite h (since_sdxSend (since_takeInvocation h))) (since_sdxSend h))

theorem since_anchorLoop {ch t : ℕ} {stop : Option ℕ} {l : List (ℕ × SiteBlk)} {n : ℕ} (h : Since τ s) : Since τ (s.anchorLoop ch t stop l n).1 := by
  induction l generalizing s n with
  | nil => exact h
  | cons p r ih =>
    unfold State.anchorLoop
    exact since_ite_fst h (since_ite_fst (since_undefBuf h) (ih (since_areaWrite h)))

theorem since_bodyAnchorSet {x : Sub} {e : Ext} (h : Since τ s) : Since τ (bodyAnchorSet x e s).s := by
  unfold bodyAnchorSet
  refine since_ite_s (since_fail h) (since_ite_s (since_fail h) ?_)
  dsimp only
  split
  · exact since_reject (since_onSite h)
  · refine since_ite_s (since_reject (since_onSite h)) (since_ite_s (since_reject (since_onSite h)) ?_)
    split
    · exact since_ended (since_of_fst ‹_› (since_anchorLoop (since_freeNat (since_onSite h))))
    · exact since_ended (since_onSite (since_poke (since_of_fst ‹_› (since_anchorLoop (since_freeNat (since_onSite h))))))

theorem since_contribute {ch n c : ℕ} {d : List (BitVec 32 × Bool)} (h : Since τ s) : Since τ (s.contribute ch n c d) := by
  unfold State.contribute
  exact since_onRec (since_areaWrite h)

theorem since_ownTurns {ch : ℕ} (h : Since τ s) :
    Since τ (s.ownTurns ch).1 := since_foldl_fst (fun _ _ hu => since_ite_fst hu (since_ite_fst (since_missBlock hu) (since_contribute hu))) h

theorem since_sdxCount {ch : ℕ} {k : SdxClass} (h : Since τ s) : Since τ (s.sdxCount ch k) := since_onSite h

theorem since_catchDone {ch n : ℕ} (h : Since τ s) : Since τ (s.catchDone ch n) := by
  unfold State.catchDone
  dsimp only
  split
  · exact h
  · split
    · exact h
    · exact since_ite h (since_onSite (since_onRec h))

theorem since_sdxUse {ch : ℕ} {f : SdxFrame} {n : ℕ} {k : SiteBlk} {part : ℕ} {d : List (BitVec 32 × Bool)} (h : Since τ s) :
    Since τ (s.sdxUse ch f n k part d) := by
  unfold State.sdxUse
  dsimp only
  split
  · exact since_contribute h
  · exact since_missBlock h
  · exact since_catchDone (since_onSite (since_regionWrite (since_areaWrite h)))
  · exact since_catchDone (since_onSite (since_areaWrite h))
  · exact h

theorem since_sdxRebuild {ch p : ℕ} {entries : List Byte} (h : Since τ s) :
    Since τ (s.sdxRebuild ch p entries) := since_foldl (fun _ _ hu => since_ite hu (since_ite (since_sdxSend hu) hu)) h

theorem since_nackIn {ch p : ℕ} {f : SdxFrame} {entries : List Byte} (h : Since τ s) :
    Since τ (s.nackIn ch p f entries) := since_ite (since_sdxRebuild h) (since_onSite h)

theorem since_serveLoop {ch p fuel : ℕ} (h : Since τ s) : Since τ (s.serveLoop ch p fuel).1 := by
  induction fuel generalizing s with
  | zero => exact h
  | succ k ih =>
    unfold State.serveLoop
    dsimp only
    split
    · exact h
    · refine since_ite_fst h (since_ite_fst h (ih (since_onSite ?_)))
      split
      · exact since_sdxSend (since_ite_snd (since_takeInvocation h) h)
      · exact since_ite_snd (since_takeInvocation h) h

theorem since_serve {ch : ℕ} (h : Since τ s) : Since τ (s.serve ch) := by
  unfold State.serve
  dsimp only
  split
  · exact h
  · refine since_ite h ?_
    split
    · exact since_onSite (since_mk (since_of_fst ‹_› (since_serveLoop (since_ite h (since_onSite (since_mk h))))))
    · exact since_of_fst ‹_› (since_serveLoop (since_ite h (since_onSite (since_mk h))))

theorem since_catchupIn {ch p : ℕ} {f : SdxFrame} (h : Since τ s) :
    Since τ (s.catchupIn ch p f) := since_ite (since_serve (since_onSite h)) (since_onSite h)

theorem since_sdxHandle {ch p c : ℕ} {err : Bool} (h : Since τ s) : Since τ (s.sdxHandle ch p c err).1 := by
  unfold State.sdxHandle
  obtain ⟨f, hd, ok, bad⟩ := s.sdxAt ((s.site ch).peers.get p) c
  dsimp only
  refine since_ite_fst (since_fst (since_mk h)) (since_ite_fst (since_fst (since_violSdx h)) (since_ite_fst ?_ ?_))
  · split
    · exact since_fst (since_violSdx (since_logStatus h))
    · exact since_fst (since_ite (since_nackIn h) (since_catchupIn h))
  · split
    · exact since_fst (since_violSdx h)
    · split
      · exact h
      · split
        · exact since_fst (since_violSdx (since_logStatus h))
        · split
          · exact since_fst (since_violSdx (since_logStatus h))
          · exact since_fst (since_sdxUse h)
      · exact since_fst (since_sdxCount h)

theorem since_sdxConsume {ch p : ℕ} (h : Since τ s) : Since τ (s.sdxConsume ch p) := since_poke (since_onPeer h)

theorem since_rereadPeer {ch p : ℕ} (h : Since τ s) : Since τ (s.rereadPeer ch p) := by
  unfold State.rereadPeer
  refine since_ite h (since_sdxConsume (since_foldl ?_ h))
  intro _ _ hu
  refine since_ite hu ?_
  split
  · exact since_of_fst ‹_› (since_sdxHandle hu)
  · exact since_onPeer (since_of_fst ‹_› (since_sdxHandle hu))

theorem since_reread {ch fuel : ℕ} (h : Since τ s) : Since τ (s.reread ch fuel) := by
  induction fuel generalizing s with
  | zero => exact h
  | succ k ih =>
    have hread {l : List ℕ} : Since τ (l.foldl (fun s p => s.rereadPeer ch p) (s.ownTurns ch).1) :=
      since_foldl (fun _ _ => since_rereadPeer) (since_ownTurns h)
    unfold State.reread
    exact since_ite (ih hread) hread

theorem since_outerRun {ch n : ℕ} {run : ApplyRun} {k : SiteBlk} {r cnt : ℕ} {t : State} (ht : s.outerRun ch run n k r cnt = some t) (h : Since τ s) :
    Since τ t := by
  unfold State.outerRun at ht
  obtain ⟨-, hout⟩ := Option.ite_none_right_eq_some.mp ht
  rw [← Option.some.inj hout]
  refine since_ite (since_areaWrite ?_) ?_
  · exact since_ite (since_areaWrite (since_ite (since_regionWrite h) h)) (since_ite (since_regionWrite h) h)
  · exact since_ite (since_areaWrite (since_ite (since_regionWrite h) h)) (since_ite (since_regionWrite h) h)

theorem since_applyBlock {ch : ℕ} {run : ApplyRun} {n : ℕ} {k : SiteBlk} (h : Since τ s) : Since τ (s.applyBlock ch run n k) := by
  unfold State.applyBlock
  refine since_onSite (since_onRec (since_poke (since_ite_fst h ?_)))
  split
  · exact since_outerRun ‹_› h
  · exact h

theorem since_applyOver {ch : ℕ} {st : BitVec 16} (h : Since τ s) : Since τ (s.applyOver ch st) := by
  unfold State.applyOver
  dsimp only
  split
  · exact h
  · exact since_serve (since_reread (since_conclude (since_ended (since_ite (since_ite (since_onSite (since_onSite h)) (since_onSite h)) (since_ite
      (since_onSite (since_foldl (fun _ _ => since_onRec) (since_onSite h))) (since_onSite h))))))

theorem since_applyGo {ch : ℕ} {stop : Option ℕ} (h : Since τ s) : Since τ (s.applyGo ch stop) := by
  unfold State.applyGo
  dsimp only
  split
  · exact h
  · refine since_ite (since_ite (since_applyOver h) (since_onCmd h)) ?_
    split
    · refine since_applyOver ?_
      split
      · exact since_undefBuf (since_foldl (fun _ _ => since_kUndef) (since_foldl (fun _ _ => since_applyBlock) h))
      · exact since_foldl (fun _ _ => since_applyBlock) h
    · split
      · exact since_foldl (fun _ _ => since_applyBlock) h
      · refine since_ite (since_applyOver (since_foldl (fun _ _ => since_applyBlock) h)) ?_
        split
        · exact since_putStatus (since_onCmd (since_foldl (fun _ _ => since_applyBlock) h))
        · exact since_onCmd (since_foldl (fun _ _ => since_applyBlock) h)

theorem since_siteSettle {ch : ℕ} {e : Ext} (h : Since τ s) : Since τ (s.siteSettle ch e) := since_applyGo (since_freeNat (since_reread h))

theorem since_missAll {ch fuel : ℕ} (h : Since τ s) : Since τ (s.missAll ch fuel) := by
  induction fuel generalizing s with
  | zero => exact h
  | succ k ih =>
    unfold State.missAll
    dsimp only
    split
    · exact ih (since_missBlock (since_reread h))
    · exact since_reread h

theorem since_atDeadline {ch : ℕ} {stop : Option ℕ} (h : Since τ s) : Since τ (s.atDeadline ch stop) := by
  unfold State.atDeadline
  dsimp only
  split
  · exact h
  · exact since_ite (since_ite (since_applyOver h) (since_applyOver h)) (since_applyGo (since_missAll h))

theorem since_bodyDeltaApply {x : Sub} {e : Ext} (h : Since τ s) : Since τ (bodyDeltaApply x e s).s :=
  since_ite_s (since_fail h) (since_ite_s (since_badParam h) (since_ite_s (since_fail h) (since_ite_s (since_badParam h) (since_wait (since_ite
      (since_atDeadline (since_reread (since_freeNat (since_ite (since_foldl (fun _ _ hu => since_ite (since_sdxControl hu) hu) (since_running
      (since_onSite (since_useTime (since_endApplied h))))) (since_running (since_onSite (since_useTime (since_endApplied h)))))))) (since_applyGo
      (since_reread (since_freeNat (since_ite (since_foldl (fun _ _ hu => since_ite (since_sdxControl hu) hu) (since_running (since_onSite
      (since_useTime (since_endApplied h))))) (since_running (since_onSite (since_useTime (since_endApplied h)))))))))))))

theorem since_emitRelease {x : Sub} (h : Since τ s) : Since τ (s.emitRelease x) := by
  unfold State.emitRelease
  split
  · exact since_onKey h
  · exact h

theorem since_emitBlk {ch n : ℕ} {k : SiteBlk} {q : BitVec 32} {d : List (ℕ × Bool)} {void_ : Bool} {slot : ℕ} {acc : ℕ × ℕ × ℕ} (h : Since τ s) :
    Since τ (s.emitBlk ch n k q d void_ slot acc).1 := by
  unfold State.emitBlk
  dsimp only
  refine since_onRec (since_foldl_fst ?_ (since_areaWrite h))
  intro _ _ hu
  exact since_foldl (fun _ _ => since_sdxSend) (since_onRec (since_ite_snd (since_takeInvocation hu) hu))

theorem since_emitLoop {x : Sub} {q : BitVec 32} {slot : ℕ} {stop : Option ℕ} {l : List (ℕ × SiteBlk)} {n : ℕ} {acc : ℕ × ℕ × ℕ} {voids : ℕ}
    (h : Since τ s) : Since τ (s.emitLoop x q slot stop l n acc voids).s := by
  induction l generalizing s n acc voids with
  | nil =>
    unfold State.emitLoop
    exact since_ended (since_reread (since_onSite (since_onKey h)))
  | cons p r ih =>
    unfold State.emitLoop
    exact since_ite_s (since_ended (since_emitRelease h)) (since_ite_s (since_goesOn (since_noteProg h))
      (since_ite_s (since_ended (since_onKey (since_undefBuf h))) (ih (since_emitBlk h))))

theorem since_bodyDeltaEmit {x : Sub} {e : Ext} (h : Since τ s) : Since τ (bodyDeltaEmit x e s).s := by
  unfold bodyDeltaEmit
  dsimp only
  split
  · exact since_emitLoop (since_freeNat h)
  · exact since_ite_s (since_fail (since_freeNat h)) (since_ite_s (since_badParam (since_freeNat h)) (since_ite_s (since_fail (since_freeNat h))
      (since_ite_s (since_fail (since_freeNat h)) (since_ite_s (since_fail (since_freeNat h)) (since_emitLoop (since_noteProg (since_onSite
      (since_ite (since_ite (since_freeNat h) (since_foldl (fun _ _ => since_onRec) (since_freeNat h))) (since_onKey (since_ite (since_freeNat
      h) (since_foldl (fun _ _ => since_onRec) (since_freeNat h))))))))))))

theorem since_bodyPeerConfig {x : Sub} (h : Since τ s) : Since τ (bodyPeerConfig x s).s := by
  unfold bodyPeerConfig
  refine since_ite_s (since_fail h) (since_ite_s (since_badParam h) ?_)
  dsimp only
  split
  · exact since_badParam h
  · exact since_ite_s (since_badParam h) (since_ite_s (since_badParam h) (since_ite_s (since_badParam h) (since_ite_s (since_done (since_poke
      (since_poke (since_onPeer (since_onSite h))))) (since_done (since_reread (since_missSite (since_onPeer (since_onSite h))))))))

theorem since_bodyReplicaDigest {x : Sub} {e : Ext} (h : Since τ s) :
    Since τ (bodyReplicaDigest x e s).s := since_ite_s (since_ended (since_undefBuf h)) (since_ended (since_poke h))

theorem since_sdxPoll {ch p : ℕ} {e : Ext} (h : Since τ s) : Since τ (s.sdxPoll ch p e) :=
  since_ite h (since_serve (since_siteSettle (since_ite (since_sdxConsume (since_onPeer (since_ite (since_violSdx (since_ite (since_violSdx h)
      (since_onPeer h))) (since_onPeer (since_ite (since_violSdx h) (since_onPeer h)))))) (since_ite (since_violSdx (since_ite (since_violSdx h)
      (since_onPeer h))) (since_onPeer (since_ite (since_violSdx h) (since_onPeer h)))))))

theorem since_sdxReceive {ch p : ℕ} {e : Ext} (h : Since τ s) : Since τ (s.sdxReceive ch p e) :=
  since_ite h (since_ite (since_sdxConsume (since_onPeer (since_ite (since_violSdx h) h))) (since_ite h (since_siteSettle (since_onSite
      (since_sdxConsume (since_onPeer (since_sdxHandle h)))))))

theorem since_sendNacks {ch p : ℕ} {q : BitVec 32} {fuel : ℕ} {l : List (BitVec 32 × ℕ × ℕ)} (h : Since τ s) :
    Since τ (s.sendNacks ch p q fuel l) := by
  induction fuel generalizing s l with
  | zero => exact h
  | succ k ih =>
    cases l with
    | nil => exact h
    | cons b r => exact ih (since_sdxControl h)

/-! Power states. -/

theorem since_blockWide {x : Sub} {r : Res} (h : Since τ s) (h1 : Since τ r.s) : Since τ (blockWide x s r).s := since_ite_s (since_reject h) h1

theorem since_bodyPowerPolicy {x : Sub} (h : Since τ s) : Since τ (bodyPowerPolicy x s).s :=
  since_blockWide h (since_ite_s (since_badParam h) (since_done (since_ite (since_beginWake (since_mk h)) (since_policyMoves (since_mk h)))))

theorem since_wakeReq (h : Since τ s) : Since τ s.wakeReq := since_beginWake (since_policyMoves (since_mk h))

theorem since_offReq (h : Since τ s) : Since τ s.offReq := since_ite (since_mk (since_domainOff h)) (since_ignoredWrite h)

/-! The self-test and the test port. -/

theorem since_monitor {vdd : BitVec 10} {tj : BitVec 8} (h : Since τ s) : Since τ (s.monitor vdd tj) := since_mk h

theorem since_deferWindow (h : Since τ s) : Since τ s.deferWindow := since_mk h

theorem since_yielded (h : Since τ s) : Since τ s.yielded := since_mk h

theorem since_reinit {p : ℕ} (h : Since τ s) : Since τ (s.reinit p) := by
  unfold State.reinit
  split
  · split
    · exact since_ite (since_onCell h) h
    · exact h
  · exact h

theorem since_unitFail {p : ℕ} (h : Since τ s) : Since τ (s.unitFail p) := by
  unfold State.unitFail
  dsimp only
  split
  · refine since_ite (since_onSt ?_) ?_
    · split
      · exact since_cellOut h
      · exact h
    · split
      · exact since_cellOut h
      · exact h
  · exact since_raise (since_onSt (since_ite (since_loseMover h) h))
  · exact since_ite h (since_coreFailed h)
  · exact since_ite (since_raise (since_mk h)) (since_mk h)

theorem since_sliceRecord {p pattern : ℕ} {miss again : Bool} {segment : ℕ} (h : Since τ s) : Since τ (s.sliceRecord p pattern miss again segment) :=
  since_ite (since_unitFail (since_ite (since_log (since_mk (since_useTime h))) (since_mk (since_useTime h)))) (since_reinit (since_ite (since_log
      (since_mk (since_useTime h))) (since_mk (since_useTime h))))

theorem since_startWaiting (h : Since τ s) : Since τ s.startWaiting := by
  unfold State.startWaiting
  dsimp only
  split
  · exact h
  · exact since_ite h (since_ite (since_yielded h) (since_mk h))

theorem since_dropSlice (h : Since τ s) : Since τ s.dropSlice := by
  unfold State.dropSlice
  dsimp only
  split
  · exact h
  · exact since_reinit (since_mk h)

theorem since_tryUnits {l : List ℕ} (h : Since τ s) : Since τ (s.tryUnits l).1 := by
  induction l generalizing s with
  | nil => exact h
  | cons p r ih => exact since_ite_fst (ih h) (since_ite_fst (ih (since_mk h)) (since_ite_fst h (ih (since_yielded (since_mk h)))))

theorem since_sweepPast {p : ℕ} (h : Since τ s) : Since τ (s.sweepPast p) := since_ite (since_mk h) (since_mk h)

theorem since_takePeriodic {p : ℕ} (h : Since τ s) : Since τ (s.takePeriodic p) := since_mk h

theorem since_manualResult {p : ℕ} {bad : Bool} {segment : ℕ} (h : Since τ s) : Since τ (s.manualResult p bad segment) := since_mk h

theorem since_testUnit {pattern : ℕ} {o : SliceOutcomes} {p : ℕ} (h : Since τ s) : Since τ (s.testUnit pattern o p) := since_sliceRecord h

theorem since_bodySelfTest {x : Sub} {o : SliceOutcomes} (h : Since τ s) : Since τ (bodySelfTest x o s).s :=
  since_ite_s (since_wait h) (since_ite_s (since_wait (since_wantDoms h)) (since_ite_s (since_wait (since_ite h (since_mk (since_deferWindow h))))
      (since_ended (since_mk (since_foldl (fun _ _ => since_testUnit) h)))))

theorem since_bodyPeriodicSelfTest {x : Sub} (h : Since τ s) :
    Since τ (bodyPeriodicSelfTest x s).s := since_blockWide h (since_ite_s (since_badParam h) (since_done (since_mk h)))

theorem since_loadIr {code : BitVec 6} (h : Since τ s) : Since τ (s.loadIr code) := by
  unfold State.loadIr
  refine since_mk (since_ite (since_mk ?_) h)
  split
  · exact since_ite h (since_dropSlice h)
  · exact h

theorem since_openJig (h : Since τ s) : Since τ s.openJig := since_ite (since_lampDenied (since_loadIr h)) (since_ite h (since_mk (since_loadIr h)))

theorem since_manualSlice {v : BitVec 64} {o : SliceOutcome} (h : Since τ s) : Since τ (s.manualSlice v o) := by
  unfold State.manualSlice
  refine since_ite h ?_
  dsimp only
  split
  · exact since_ite (since_mk h) (since_startWaiting (since_wantDoms (since_ite (since_mk (since_monitor h)) (since_mk (since_deferWindow (since_mk
      (since_monitor h)))))))
  · exact since_mk h

/-! Faults and degraded service. -/

theorem since_clearSump (h : Since τ s) : Since τ s.clearSump := since_mk h

theorem since_spillCons {v : ℕ} (h : Since τ s) : Since τ (s.spillCons v) := since_ite (since_ignoredWrite h) (since_mk h)

theorem since_ringCheck {was : Bool} (h : Since τ s) :
    Since τ (s.ringCheck was) := since_ite h (since_ite (since_cause (since_log (since_mk h))) (since_log (since_mk h)))

theorem since_spillOne {x : SumpEntry} {err : Bool} (h : Since τ s) :
    Since τ (s.spillOne x err) := since_ite (since_mk (since_undefBuf h)) (since_ringCheck (since_mk (since_poke h)))

theorem since_bodySumpSpill {x : Sub} (h : Since τ s) : Since τ (bodySumpSpill x s).s :=
  since_blockWide h (since_ite_s (since_done (since_mk h)) (since_ite_s (since_badParam h) (since_ite_s (since_badParam h) (since_done (since_mk
      h)))))

theorem since_bodyPartnerThreshold {x : Sub} (h : Since τ s) : Since τ (bodyPartnerThreshold x s).s :=
  since_blockWide h (since_ite_s (since_badParam h) (since_ite_s (since_badParam h) (since_ite_s (since_badParam h) (since_done (since_mk h)))))

theorem since_holdTag {u : TagUse} {dropped : Bool} (h : Since τ s) : Since τ (s.holdTag u dropped) := by
  unfold State.holdTag
  refine since_ite (since_mk (since_mk h)) ?_
  dsimp only
  split
  · exact since_ite (since_settleClose (since_writeFails (since_mk h))) (since_mk h)
  · exact since_mk h

theorem since_restarted {core : ℕ} {ok : Bool} (h : Since τ s) : Since τ (s.restarted core ok) :=
  since_ite (since_raise (since_mk (since_log h))) (since_ite (since_unraise (since_mk (since_log h))) (since_mk (since_log h)))

theorem since_stopStage {c : Cmd} (h : Since τ s) :
    Since τ (s.stopStage c) := since_ite h (since_ite (since_stopApply h) (since_ite (since_emitRelease h) (since_ite (since_onSite h) h)))

theorem since_settleCmd {c : Cmd} (h : Since τ s) :
    Since τ (s.settleCmd c) := since_ite (since_finish (since_log (since_stopStage h))) (since_ite (since_onCmd h) (since_ite (since_enumStart h) h))

theorem since_noteCaptures (h : Since τ s) : Since τ s.noteCaptures := since_foldl (fun _ _ => since_log) h

theorem since_failover {restartOk : Bool} (h : Since τ s) : Since τ (s.failover restartOk) :=
  since_ite (since_restarted (since_mk (since_freeNat (since_foldl (fun _ _ => since_settleCmd) (since_capAllEnd (since_noteCaptures (since_log
      h))))))) (since_warmStart (since_warmAssert (since_log h)))

theorem since_storageCore {ok : Bool} (h : Since τ s) : Since τ (s.storageCore ok) :=
  since_restarted (since_mk (since_ite (since_foldl (fun _ _ => since_onMedia) (since_capAllEnd (since_noteCaptures h))) (since_capAllEnd
      (since_noteCaptures h))))

theorem since_retireRow {u : SramUnit} (h : Since τ s) : Since τ (s.retireRow u) := by
  unfold State.retireRow
  dsimp only
  split
  · exact since_onSt h
  · exact since_onStm h
  · exact since_ite (since_cellOut h) h
  · exact since_log (since_onObj h)
  · exact since_log (since_mk h)

/-! The inline and fabric ports. -/

theorem since_noteOp {st : ℕ} {r : HReq} (h : Since τ s) : Since τ (s.noteOp st r) := since_ite h (since_log (since_onSt h))

theorem since_hold {st : ℕ} {w : Held} (h : Since τ s) : Since τ (s.hold st w) := since_onSt (since_ite (since_mk h) h)

theorem since_hreq {st : ℕ} {r : HReq} (h : Since τ s) : Since τ (s.hreq st r) := by
  unfold State.hreq
  refine since_ite (since_hold (since_noteOp h)) (since_ite (since_forward (since_noteOp h)) ?_)
  dsimp only
  split
  · exact since_forward (since_noteOp h)
  · exact since_ite (since_forward (since_mk (since_noteOp h))) (since_ite (since_hold (since_track (since_noteOp h))) (since_forward (since_track
      (since_noteOp h))))

theorem since_gather {u : TagUse} {data : List Byte} {poison err last : Bool} (h : Since τ s) :
    Since τ (s.gather u data poison err last) := since_mk h

theorem since_lateAnswer {u : TagUse} {last : Bool} (h : Since τ s) : Since τ (s.lateAnswer u last) := since_ite (since_mk h) (since_mk h)

theorem since_ownResponse {st : ℕ} {r : MResp} (h : Since τ s) : Since τ (s.ownResponse st r) := by
  unfold State.ownResponse
  split
  · exact since_logPartner h
  · exact since_ite (since_acked h) (since_ite (since_lateAnswer h) (since_gather h))

theorem since_logFab {u : TagUse} {port tag : ℕ} (h : Since τ s) : Since τ (s.logFab u port tag) := since_logPartner h

theorem since_dropOwn {st : ℕ} (h : Since τ s) : Since τ (s.dropOwn st) := since_onSt (since_foldl (fun _ _ => since_holdTag) h)

theorem since_stileReset {st : ℕ} (h : Since τ s) : Since τ (s.stileReset st) := by
  unfold State.stileReset
  dsimp only
  split
  · exact since_ite (since_onSt (since_capFail (since_onSt (since_dropOwn (since_onSt h))))) (since_onSt (since_dropOwn (since_onSt h)))
  · exact since_onSt (since_dropOwn (since_onSt h))

theorem since_applyIlv (h : Since τ s) : Since τ s.applyIlv := by
  unfold State.applyIlv
  refine since_ite (since_ignoredWrite h) ?_
  dsimp only
  split
  · exact since_mk h
  · exact since_zeroWindow (since_extendSg (since_mk h))

/-! The admin commands. -/

theorem since_stopCmd {c : Cmd} (h : Since τ s) : Since τ (s.stopCmd c) := by
  unfold State.stopCmd
  refine since_ite ?_ (since_ite (since_enumEnd (since_mk h)) (since_finish (since_stopStage ?_)))
  · split
    · exact since_capCancel ‹_› h
    · exact h
  · split
    · exact since_withdraw h
    · exact h

theorem since_abortFetched {f : Fetched} {keep : Bool} (h : Since τ s) :
    Since τ (s.abortFetched f keep) := since_pushFin (since_ite (since_putStatus (since_onCh h)) (since_onCh h))

theorem since_abortAt {ch q : ℕ} {cid : BitVec 16} (h : Since τ s) : Since τ (s.abortAt ch q cid).2 := by
  unfold State.abortAt
  split
  · exact since_abortFetched h
  · split
    · exact since_ite_snd (since_stopCmd h) h
    · exact since_ite_snd h h

theorem since_bodyAbort {x : Sub} (h : Since τ s) : Since τ (bodyAbort x s).s := since_ite_s (since_reject h) (since_done (since_abortAt h))

theorem since_endSq {ch q : ℕ} {me : Option Sub} (h : Since τ s) : Since τ (s.endSq ch q me).2 :=
  since_settleSq (since_foldl (fun _ _ => since_stopCmd) (since_onCh (since_foldl (fun _ _ => since_abortFetched) (since_onSq h))))

theorem since_bodyNegotiate {x : Sub} (h : Since τ s) : Since τ (bodyNegotiate x s).s := by
  unfold bodyNegotiate
  refine since_ite_s (since_fail h) ?_
  split
  · exact since_fail h
  · exact since_done (since_onCh h)

theorem since_bodyQueueCreate {x : Sub} (h : Since τ s) : Since τ (bodyQueueCreate x s).s :=
  since_ite_s (since_ite_s (since_badParam h) (since_done (since_onCq h))) (since_ite_s (since_badParam h) (since_ite_s (since_badParam h)
      (since_done (since_onCh (since_onSq h)))))

theorem since_bodyQueueDelete {x : Sub} (h : Since τ s) : Since τ (bodyQueueDelete x s).s := by
  unfold bodyQueueDelete
  refine since_ite_s (since_ite_s (since_badParam h) (since_done (since_onCq h))) (since_ite_s (since_wait ?_) (since_done (since_onSq ?_)))
  · split
    · exact h
    · exact since_onCmd (since_endSq h)
  · split
    · exact h
    · exact since_onCmd (since_endSq h)

theorem since_disableSq0 {ch : ℕ} (h : Since τ s) : Since τ (s.disableSq0 ch) := since_ite (since_endSq h) h

theorem since_bodyFeatureGet {x : Sub} (h : Since τ s) : Since τ (bodyFeatureGet x s).s := since_done h

theorem since_bodyStatusInterval {x : Sub} (h : Since τ s) :
    Since τ (bodyStatusInterval x s).s := since_ite_s (since_badParam h) (since_done (since_onCh h))

theorem since_bodyReserveWatermarks {x : Sub} (h : Since τ s) :
    Since τ (bodyReserveWatermarks x s).s := since_ite_s (since_badParam h) (since_done (since_onCh h))

theorem since_bodyChainNoticeRate {x : Sub} (h : Since τ s) :
    Since τ (bodyChainNoticeRate x s).s := since_blockWide h (since_ite_s (since_badParam h) (since_done (since_mk h)))

theorem since_deliver {a : ℕ} {l : List Byte} {e : Ext} (h : Since τ s) :
    Since τ (s.deliver a l e).s := since_ite_s (since_fail (since_undefBuf h)) (since_done (since_poke h))

theorem since_bodyIdentify {x : Sub} {e : Ext} (h : Since τ s) : Since τ (bodyIdentify x e s).s := by
  unfold bodyIdentify
  dsimp only
  split
  · exact since_deliver h
  · exact since_ite_s (since_fail (since_undefBuf h)) (since_done (since_undefBuf h))
  · exact since_ite_s (since_deliver h) (since_badParam h)
  · split
    · exact since_deliver h
    · exact since_badParam h

theorem since_bodyLogRead {x : Sub} {e : Ext} (h : Since τ s) : Since τ (bodyLogRead x e s).s := by
  unfold bodyLogRead
  refine since_ite_s (since_badParam h) ?_
  dsimp only
  split
  · exact since_deliver h
  · exact since_ite_s (since_fail (since_undefBuf (since_freeNat h))) (since_done (since_undefBuf (since_freeNat h)))

theorem since_bodyChamberConfig {x : Sub} {e : Ext} (h : Since τ s) : Since τ (bodyChamberConfig x e s).s := by
  unfold bodyChamberConfig
  refine since_ite_s (since_fail h) ?_
  dsimp only
  split
  · exact since_badParam h
  · refine since_ite_s (since_badParam h) (since_ite_s (since_badParam h) (since_ite_s (since_badParam h) (since_ite_s (since_badParam h)
      (since_ite_s (since_badParam h) (since_ite_s (since_badParam h) (since_ite_s (since_badParam h) ?_))))))
    split
    · exact since_reject h
    · refine since_ite_s (since_badParam h) (since_ite_s (since_badParam h) (since_ite_s (since_reject h) (since_ite_s (since_fail h) (since_ite_s
        (since_fail h) ?_))))
      split
      · exact since_ite_s (since_fail h) (since_done (since_relevel (since_ite (since_dirtyChamber (since_onUn (since_onCh h))) (since_onUn
          (since_onCh h)))))
      · exact since_fail h

theorem since_logLeftovers {ch : ℕ} (h : Since τ s) : Since τ (s.logLeftovers ch) := since_logStatus (since_foldl (fun _ _ => since_logStatus) h)

theorem since_bodyChamberQuiesce {x : Sub} (h : Since τ s) : Since τ (bodyChamberQuiesce x s).s := by
  unfold bodyChamberQuiesce
  refine since_ite_s (since_running ?_) (since_ended (since_ite (since_onCh ?_) (since_logLeftovers (since_onCh ?_))))
  · split
    · exact h
    · exact since_onCmd (since_foldl_snd (fun _ _ => since_endSq) (since_onCh h))
  · split
    · exact h
    · exact since_onCmd (since_foldl_snd (fun _ _ => since_endSq) (since_onCh h))
  · split
    · exact h
    · exact since_onCmd (since_foldl_snd (fun _ _ => since_endSq) (since_onCh h))

theorem since_bodyOf {x : Sub} {e : Ext} {twin : Bool} (h : Since τ s) : Since τ (bodyOf x e twin s).s := by
  unfold bodyOf
  split
  · exact since_bodyIdentify h
  · exact since_bodyLogRead h
  · exact since_bodyAbort h
  · exact since_bodyRegionDeclare h
  · exact since_bodyRegionRetire h
  · exact since_bodyCapture h
  · exact since_bodyCondense h
  · exact since_bodyRestore h
  · exact since_bodyRestoreSlice h
  · exact since_bodyVerify h
  · exact since_bodyStreamOpen h
  · exact since_bodyStreamClose h
  · exact since_bodyStreamSeek h
  · exact since_bodyStreamCancel h
  · exact since_bodyStepMeasure h
  · exact since_bodyStepApply h
  · exact since_bodyTierPlace h
  · exact since_bodyAnchorSet h
  · exact since_bodyDeltaEmit h
  · exact since_bodyReplicaDigest h
  · exact since_bodyDigest h
  · exact since_bodyHmac h
  · exact since_bodySeal h
  · exact since_bodyUnseal h
  · exact since_bodySyncAlloc h
  · exact since_bodySyncFree h
  · exact since_bodySyncSignal h
  · exact since_bodyWatchSet h
  · exact since_bodyWatchClear h
  · exact since_bodyBarrierJoin h
  · exact since_bodyK2Credit h
  · exact since_fail h

theorem since_partialStage {y : Sub} (h : Since τ s) : Since τ (s.partialStage y) := since_ite (since_undefBuf h) (since_ite (since_undefBuf h) h)

theorem since_stages {x : Sub} {e : Ext} {l : List Sub} {k : ℕ} {last : BitVec 64} (h : Since τ s) : Since τ (s.stages x e l k last).s := by
  induction l generalizing s k last with
  | nil => exact since_ended h
  | cons y r ih =>
    unfold State.stages
    dsimp only
    split
    · exact since_running (since_onCmd (since_bodyOf h))
    · exact since_ite_s (ih (since_onCmd (since_bodyOf h))) (since_ended (since_foldl (fun _ _ => since_partialStage) (since_bodyOf h)))

theorem since_bodyDovetail {x : Sub} {e : Ext} (h : Since τ s) : Since τ (bodyDovetail x e s).s := by
  unfold bodyDovetail
  dsimp only
  split
  · exact since_wait h
  · exact since_ite_s (since_wait h) (since_stages (since_ite (since_onCmd h) h))

theorem since_runDovetail {x : Sub} {l : List Sub} {e : Ext} (h : Since τ s) : Since τ (s.runDovetail x l e) := by
  unfold State.runDovetail
  refine since_ite h (since_ite (since_runAccepted h (fun _ => since_bodyDovetail)) ?_)
  split
  · exact since_refuseSub h
  · exact since_runAccepted (since_accept h) (fun _ => since_bodyDovetail)

/-! The register map. -/

theorem since_clearGlobal {w : ℕ} (h : Since τ s) : Since τ (s.clearGlobal w) := by
  unfold State.clearGlobal
  dsimp only
  split
  · exact since_mk h
  · exact since_mk h
  · exact since_mk h
  · exact since_mk h
  · exact since_mk h
  · exact since_mk h
  · exact since_mk h
  · exact since_mk h
  · exact since_mk h
  · exact since_mk h
  · exact since_mk h
  · exact since_mk h
  · exact since_mk h
  · exact since_mk h
  · exact since_mk h
  · exact since_mk h
  · exact since_mk h
  · exact since_mk h
  · exact h

theorem since_clearPage {ch o : ℕ} (h : Since τ s) : Since τ (s.clearPage ch o) := by
  unfold State.clearPage
  split
  · exact since_onCapRegs h
  · exact since_onUn h
  · exact since_onUn h
  · exact since_onSite h
  · exact h

theorem since_readEffects {w : ℕ} (h : Since τ s) :
    Since τ (s.readEffects w) := since_ite (since_clearPage h) (since_ite (since_readState h) (since_clearGlobal h))

theorem since_setLatch {a : Access} {v : Option (ℕ × BitVec 32)} (h : Since τ s) : Since τ (s.setLatch a v) := since_mk h

theorem since_readDark {a : Access} {addr : ℕ} (h : Since τ s) : Since τ (s.readDark a addr) := since_setLatch (since_answer (since_lampDenied h))

theorem since_readWord {a : Access} {addr : ℕ} (h : Since τ s) : Since τ (s.readWord a addr) :=
  since_ite (since_setLatch (since_answer (since_readEffects h))) (since_ite (since_setLatch (since_answer (since_readEffects h))) (since_setLatch
      (since_answer h)))

theorem since_readSync {a : Access} {addr : ℕ} (h : Since τ s) : Since τ (s.readSync a addr) := by
  unfold State.readSync
  split
  · exact since_readWord h
  · exact since_ite (since_syncForbid (since_setLatch (since_refuse h))) (since_ite (since_readDark h) (since_readWord h))

theorem since_readDigest {a : Access} {addr : ℕ} (h : Since τ s) :
    Since τ (s.readDigest a addr) := since_ite (since_wantDom h) (since_ite (since_setLatch (since_refuse h)) (since_readWord h))

theorem since_readReg {a : Access} {addr : ℕ} (h : Since τ s) : Since τ (s.readReg a addr) :=
  since_ite h (since_ite (since_setLatch (since_refuse h)) (since_ite (since_ite (since_setLatch (since_refuse h)) (since_ite (since_setLatch
      (since_answer h)) (since_readWord h))) (since_ite (since_ite (since_readDark h) (since_readWord h)) (since_ite (since_readSync h) (since_ite
      (since_readDigest h) (since_readWord h))))))

theorem since_onPort {f : PortRegs → PortRegs} (h : Since τ s) : Since τ (s.onPort f) := since_mk h

theorem since_legal {ok : Bool} {addr : ℕ} {f : State → State} (h : Since τ s) (hf : ∀ u1, Since τ u1 → Since τ (f u1)) :
    Since τ (s.legal ok addr f) := since_ite (hf _ h) (since_ignoredWrite h)

theorem since_pwrCtl {wake off : Bool} (h : Since τ s) :
    Since τ (s.pwrCtl wake off) := since_ite (since_offReq (since_ite (since_wakeReq h) h)) (since_ite (since_wakeReq h) h)

theorem since_smpCtl {v : BitVec 32} (h : Since τ s) : Since τ (s.smpCtl v) :=
  since_ite (since_clearSump (since_ite (since_cause (since_ite (since_log (since_mk (since_mk h))) (since_mk h))) (since_ite (since_log (since_mk
      (since_mk h))) (since_mk h)))) (since_ite (since_cause (since_ite (since_log (since_mk (since_mk h))) (since_mk h))) (since_ite (since_log
      (since_mk (since_mk h))) (since_mk h)))

theorem since_putGlobal32 {addr : ℕ} {v : BitVec 32} {img : Image} (h : Since τ s) : Since τ (s.putGlobal32 addr v img) := by
  unfold State.putGlobal32
  dsimp only
  split
  · exact since_legal h (fun _ => since_onPort)
  · exact since_legal h (fun _ => since_onPort)
  · exact since_legal h (fun _ => since_onPort)
  · exact since_legal h (fun _ => since_onPort)
  · exact since_legal h (fun _ => since_onPort)
  · exact since_mk h
  · exact since_legal h (fun _ hu => since_ite (since_loadFirmware hu) hu)
  · exact since_legal h (fun _ => since_onPort)
  · exact since_legal h (fun _ hu => since_ite (since_applyIlv hu) hu)
  · exact since_onPort h
  · exact since_legal h (fun _ => since_mk)
  · exact since_legal h (fun _ => since_mk)
  · exact since_legal h (fun _ => since_mk)
  · exact since_mk h
  · exact since_legal h (fun _ => since_pwrCtl)
  · exact since_legal h (fun _ => since_mk)
  · exact since_legal h (fun _ => since_lampCtl)
  · exact since_legal h (fun _ => since_haltCtl)
  · exact since_legal h (fun _ => since_smpCtl)
  · exact since_ite h (since_ignoredWrite h)

theorem since_putIlv {addr n i : ℕ} {v : BitVec 64} (h : Since τ s) : Since τ (s.putIlv addr n i v) := by
  unfold State.putIlv
  dsimp only
  split
  · exact since_legal h (fun _ => since_onPort)
  · exact since_legal h (fun _ => since_onPort)
  · exact since_legal h (fun _ => since_onPort)
  · exact since_legal h (fun _ => since_onPort)
  · exact since_legal h (fun _ => since_onPort)
  · exact since_legal h (fun _ => since_onPort)
  · exact since_legal h (fun _ => since_onPort)
  · exact since_legal h (fun _ => since_onPort)
  · exact since_legal h (fun _ => since_onPort)

theorem since_putGlobal64 {addr : ℕ} {v : BitVec 64} (h : Since τ s) : Since τ (s.putGlobal64 addr v) := by
  unfold State.putGlobal64
  refine since_ite (since_putIlv h) ?_
  dsimp only
  split
  · exact since_legal h (fun _ => since_mk)
  · exact since_legal h (fun _ => since_mk)
  · exact since_spillCons h
  · exact since_ignoredWrite h

theorem since_sqCfg {ch : ℕ} {v : BitVec 32} (h : Since τ s) : Since τ (s.sqCfg ch v) :=
  since_ite (since_ignoredWrite h) (since_ite (since_ite (since_ite h (since_ignoredWrite h)) (since_disableSq0 (since_ite h (since_ignoredWrite
      h)))) (since_ite (since_ignoredWrite h) (since_ite (since_enableAdmin (since_onSq h)) (since_onSq h))))

theorem since_cqCfg {ch q : ℕ} {v : BitVec 32} (h : Since τ s) : Since τ (s.cqCfg ch q v) :=
  since_ite (since_ignoredWrite h) (since_ite (since_onCq (since_ite (since_ignoredWrite h) h)) (since_ite (since_ite (since_onCq (since_ite h
      (since_ignoredWrite h))) (since_disableCq0 (since_onCq (since_ite h (since_ignoredWrite h))))) (since_ite (since_ignoredWrite h) (since_ite
      (since_enableAdmin (since_onCq (since_onCq h))) (since_onCq (since_onCq h))))))

theorem since_kick {ch : ℕ} {peers : BitVec 32} {e : Ext} (h : Since τ s) :
    Since τ (s.kick ch peers e) := since_foldl (fun _ _ hu => since_ite (since_sdxPoll hu) hu) h

theorem since_putPage32 {ch o : ℕ} {v : BitVec 32} {e : Ext} (h : Since τ s) : Since τ (s.putPage32 ch o v e) := by
  unfold State.putPage32
  refine since_ite (since_tailWrite h) (since_ite (since_headWrite h) (since_ite (since_cqCfg h) (since_ite (since_onSite h) ?_)))
  split
  · exact since_legal h (fun _ => since_onCh)
  · exact since_legal h (fun _ => since_onCh)
  · exact since_sqCfg h
  · exact since_onCapRegs h
  · exact since_legal h (fun _ => since_onUn)
  · exact since_legal h (fun _ => since_onSite)
  · exact since_legal h (fun _ => since_onSite)
  · exact since_legal h (fun _ => since_kick)
  · exact since_ignoredWrite h

theorem since_putPage64 {ch o : ℕ} {v : BitVec 64} (h : Since τ s) : Since τ (s.putPage64 ch o v) := by
  unfold State.putPage64
  dsimp only
  split
  · exact since_legal h (fun _ => since_onSq)
  · exact since_legal h (fun _ => since_onCq)
  · exact since_legal h (fun _ => since_onSite)
  · exact since_onSite h
  · exact since_ignoredWrite h

theorem since_putSync {a : Access} {addr : ℕ} {v : BitVec 64} {e : Ext} (h : Since τ s) :
    Since τ (s.putSync a addr v e) := since_ite (since_handWrite h) (since_ite (since_linkWrite h) (since_ignoredWrite h))

theorem since_putDgt32 {a : Access} {addr : ℕ} {v : BitVec 32} (h : Since τ s) :
    Since τ (s.putDgt32 a addr v) := since_ite (since_hslotCtl h) (since_ite (since_ctxCtl h) (since_ignoredWrite h))

theorem since_putDgt64 {addr : ℕ} {v : BitVec 64} (h : Since τ s) : Since τ (s.putDgt64 addr v) := by
  unfold State.putDgt64
  refine since_ite (since_mk h) ?_
  dsimp only
  split
  · exact since_ctxWrite h
  · exact since_ite (since_putState h) (since_ignoredWrite h)

theorem since_put32 {a : Access} {addr : ℕ} {v : BitVec 32} {e : Ext} {img : Image} (h : Since τ s) : Since τ (s.put32 a addr v e img) :=
  since_ite (since_putGlobal32 h) (since_ite (since_putPage32 h) (since_ite (since_putDgt32 h) (since_ignoredWrite h)))

theorem since_put64 {a : Access} {addr : ℕ} {v : BitVec 64} {e : Ext} (h : Since τ s) :
    Since τ (s.put64 a addr v e) := since_ite (since_putGlobal64 h) (since_ite (since_putPage64 h) (since_ite (since_putSync h) (since_putDgt64 h)))

theorem since_writeGate {a : Access} {addr : ℕ} {v : BitVec 32} {f : State → State} (h : Since τ s) (hf : ∀ u1, Since τ u1 → Since τ (f u1)) :
    Since τ (s.writeGate a addr v f) := by
  unfold State.writeGate
  dsimp only
  split
  · exact since_syncForbid (since_ite (since_dgtWindow h hf) (since_fabWrite h (fun _ hu => since_ite hu (hf _ hu))))
  · exact since_ite (since_dgtWindow h hf) (since_fabWrite h (fun _ hu => since_ite hu (hf _ hu)))

theorem since_writeWide {a : Access} {addr : ℕ} {v : BitVec 64} {e : Ext} {img : Image} (h : Since τ s) :
    Since τ (s.writeWide a addr v e img) := since_writeGate h (fun _ hu => since_ite (since_put64 hu) (since_put32 (since_put32 hu)))

theorem since_writeHalf {a : Access} {addr : ℕ} {v : BitVec 32} {e : Ext} {img : Image} (h : Since τ s) : Since τ (s.writeHalf a addr v e img) := by
  unfold State.writeHalf
  refine since_ite (since_writeGate h (fun _ => since_put32)) (since_ite (since_writeGate h (fun _ => since_ctxWrite)) (since_ite
      (since_writeGate h (fun _ => since_mk)) ?_))
  dsimp only
  split
  · exact since_ite (since_writeGate (since_ite h (since_mk h)) (fun _ => since_put64)) (since_writeGate h (fun _ => since_ignoredWrite))
  · exact since_writeGate h (fun _ => since_ignoredWrite)

theorem since_writeReg {a : Access} {addr : ℕ} {wide : Bool} {v : BitVec 64} {e : Ext} {img : Image} (h : Since τ s) :
    Since τ (s.writeReg a addr wide v e img) :=
  since_ite h (since_ite (since_fabWrite h (fun _ => since_id)) (since_ite (since_writeWide h) (since_writeHalf h)))

/-! The rows. -/

/-- The state a row leads to, where it leads to one, has used the time `τ` or a later one. -/
def NextSince (τ : Nat) (o : Host.Outcome State Fault Refusal) : Prop := ∀ t, o = .next t → Since τ t

theorem since_next (h : Since τ s) : NextSince τ (.next s) := by
  intro t ht
  obtain rfl := Host.Outcome.next.inj ht
  exact h

theorem since_execCaptureStart {ch : ℕ} (h : Since τ s) : NextSince τ (execCaptureStart ch s) := by
  refine since_next ?_
  split
  · exact h
  · refine since_ite h ?_
    split
    · exact since_waitEnd h
    · exact since_capGo (since_rescope ‹_› h)

theorem since_execBitmapRowSweep {st : ℕ} (h : Since τ s) : NextSince τ (execBitmapRowSweep st s) := by
  refine since_next ?_
  dsimp only
  split
  · exact since_onSt h
  · exact h

theorem since_execBarrierTimeout {ch sq : ℕ} {cid : BitVec 16} (h : Since τ s) : NextSince τ (execBarrierTimeout ch sq cid s) := by
  refine since_next ?_
  split
  · exact since_ite h (since_ite (since_withdraw h) (since_endJoin (since_withdraw h)))
  · exact h

theorem since_execRemoteSignalRetry {dest : ℕ} {seq : BitVec 16} (h : Since τ s) : NextSince τ (execRemoteSignalRetry dest seq s) := by
  refine since_next ?_
  dsimp only
  split
  · exact h
  · exact since_ite (since_sendSignal (since_mk h)) (since_endRemote h)

theorem since_execSyncLinkWrite {a : Access} {obj : ℕ} {v : BitVec 64} (h : Since τ s) : NextSince τ (execSyncLinkWrite a obj v s) := by
  refine since_next ?_
  split
  · exact since_syncForbid (since_fabWrite h (fun _ => since_id))
  · exact since_fabWrite h (fun _ hu => since_ite (since_linkWrite hu) (since_ignoredWrite hu))

theorem since_execSyncHandSet {a : Access} {obj : ℕ} {v : BitVec 64} {e : Ext} (h : Since τ s) : NextSince τ (execSyncHandSet a obj v e s) := by
  refine since_next ?_
  split
  · exact since_syncForbid (since_fabWrite h (fun _ => since_id))
  · exact since_fabWrite h (fun _ => since_handWrite)

theorem since_execSignalApertureWrite {a : Access} {off : ℕ} {v : BitVec 64} {sizeOk : Bool} {e : Ext} (h : Since τ s) : NextSince τ
    (execSignalApertureWrite a off v sizeOk e s) := by
  refine since_next (since_ite (since_fabWrite h (fun _ => since_id)) ?_)
  split
  · exact since_syncForbid (since_fabWrite h (fun _ => since_id))
  · exact since_fabWrite h (fun _ hu => since_ite (since_signal hu) (since_logPartner hu))

theorem since_execChainFrameReceived {bytes : List Byte} {damaged : Bool} {e : Ext} (h : Since τ s) : NextSince τ (execChainFrameReceived bytes
    damaged e s) := by
  refine since_next (since_ite h (since_ite (since_mk h) ?_))
  dsimp only
  split
  · exact since_frameIn h
  · exact since_mk h
  · exact since_mk h

theorem since_execChainTransmit (h : Since τ s) : NextSince τ (execChainTransmit s) := by
  refine since_next ?_
  dsimp only
  split
  · exact h
  · exact since_mk h
  · exact since_mk h
  · exact since_ite (since_mk h) (since_mk h)

theorem since_execNoticeToken (h : Since τ s) : NextSince τ (execNoticeToken s) := by
  refine since_next ?_
  dsimp only
  split
  · exact since_mk h
  · exact since_sendFrame (since_mk h)

theorem since_execCellTakeUnit {st cell : ℕ} {e : Ext} (h : Since τ s) : NextSince τ (execCellTakeUnit st cell e s) := by
  refine since_next ?_
  split
  · exact h
  · refine since_ite h (since_ite (since_wantDom h) ?_)
    split
    · exact since_startAgain h
    · exact since_ite (since_cellTakes h) h

theorem since_execStallRelease {st cell : ℕ} (h : Since τ s) : NextSince τ (execStallRelease st cell s) := by
  refine since_next (since_ite h ?_)
  split
  · exact since_takeNow h
  · exact h

theorem since_execDirectoryLookupAnswer {st cell : ℕ} {hit : Bool} (h : Since τ s) : NextSince τ (execDirectoryLookupAnswer st cell hit s) := by
  refine since_next ?_
  dsimp only
  split
  · split
    · exact since_dispose (since_streamed h)
    · split
      · exact since_startBlock (since_insertDir h)
      · exact since_insertDir h
    · exact h
  · exact h

theorem since_execCipherAssign {core : ℕ} (h : Since τ s) : NextSince τ (execCipherAssign core s) := by
  refine since_next ?_
  split
  · refine since_ite h (since_ite (since_wantDom h) (since_ite h ?_))
    split
    · exact since_sealOn h
    · exact h
  · exact h

theorem since_execStagingRead {a : Access} {off len : ℕ} (h : Since τ s) : NextSince τ (execStagingRead a off len s) := by
  refine since_next (since_staging h ?_)
  intro _ hu
  split
  · refine since_ite ?_ (since_answerRead hu)
    split
    · exact since_serveRead (since_useTime hu)
    · exact since_stageViol hu
  · exact since_stageViol hu

theorem since_execStagingWrite {a : Access} {off : ℕ} {data : List Byte} (h : Since τ s) : NextSince τ (execStagingWrite a off data s) := by
  refine since_next (since_staging h ?_)
  intro _ hu
  refine since_ite (since_answer hu) ?_
  dsimp only
  split
  · exact since_mk (since_answer hu)
  · exact since_stageViol hu

theorem since_execStagingReadTimeout {off : ℕ} (h : Since τ s) : NextSince τ (execStagingReadTimeout off s) := by
  refine since_next ?_
  dsimp only
  split
  · exact h
  · split
    · split
      · exact since_blockFailed (since_answer (since_logStatus (since_mk h)))
      · exact since_answer (since_logStatus (since_mk h))
    · exact since_answer (since_logStatus (since_mk h))

theorem since_execBlockWriteComplete {st granule : ℕ} (h : Since τ s) : NextSince τ (execBlockWriteComplete st granule s) := by
  refine since_next ?_
  split
  · exact since_ite (since_blockDone h) h
  · exact h

theorem since_execBlockWriteFailed {st granule : ℕ} (h : Since τ s) : NextSince τ (execBlockWriteFailed st granule s) := by
  refine since_next ?_
  split
  · exact since_ite (since_blockFailed h) h
  · exact h

theorem since_execCopyComplete {st : ℕ} (h : Since τ s) : NextSince τ (execCopyComplete st s) := by
  refine since_next ?_
  split
  · exact since_releaseGran (since_onSt h)
  · exact h

theorem since_execHeldWriteLimit {st : ℕ} (h : Since τ s) : NextSince τ (execHeldWriteLimit st s) := by
  refine since_next (since_ite h ?_)
  split
  · exact since_capFail h
  · exact since_releaseAll h

theorem since_execCaptureCommit {e : Ext} (h : Since τ s) : NextSince τ (execCaptureCommit e s) := by
  refine since_next ?_
  dsimp only
  split
  · exact h
  · refine since_ite h ?_
    split
    · exact since_capFail h
    · split
      · exact since_capFail h
      · exact since_capReport (since_ite (since_onKey (since_mk (since_extendSg (since_onMedia h)))) (since_mk (since_extendSg (since_onMedia h))))

theorem since_execNvmeCompletion {c : ℕ} {cqe : Cqe} (h : Since τ s) : NextSince τ (execNvmeCompletion c cqe s) := by
  refine since_next (since_ite h (since_ite (since_violNvme h) ?_))
  dsimp only
  split
  · exact since_ite (since_ite (since_blockDone (since_ite (since_onNvme h) (since_mk (since_onNvme (since_onNvme h))))) (since_ite (since_onNvme h)
      (since_mk (since_onNvme (since_onNvme h))))) (since_blockFailed (since_ite (since_onNvme h) (since_mk (since_onNvme (since_onNvme h)))))
  · exact since_ite (since_onNvme h) (since_mk (since_onNvme (since_onNvme h)))

theorem since_execJournalCheckpoint {store : ℕ} {e : Ext} (h : Since τ s) : NextSince τ (execJournalCheckpoint store e s) := by
  refine since_next ?_
  split
  · exact h
  · refine since_ite h ?_
    split
    · exact since_logStatus h
    · exact since_onMedia h

theorem since_execGcCompact {store zone : ℕ} {e : Ext} (h : Since τ s) : NextSince τ (execGcCompact store zone e s) := by
  refine since_next ?_
  dsimp only
  split
  · exact h
  · refine since_ite h ?_
    split
    · exact since_onMedia h
    · exact h

theorem since_execStreamIssue {idx : ℕ} {e : Ext} (h : Since τ s) : NextSince τ (execStreamIssue idx e s) := by
  refine since_next (since_ite h (since_ite (since_drainStream h) ?_))
  split
  · exact since_faultStream (since_onRun h)
  · exact since_ite (since_firePosts (since_issueSpan h)) (since_firePosts (since_onRun h))
  · exact since_firePosts (since_onRun h)

theorem since_execStreamLanding {idx : ℕ} {e : Ext} (h : Since τ s) : NextSince τ (execStreamLanding idx e s) := by
  refine since_next ?_
  split
  · exact since_land h
  · exact h

theorem since_execFreezeAck (h : Since τ s) : NextSince τ (execFreezeAck s) := by
  refine since_next (since_ite h (since_ite (since_logPartner (since_mk h)) ?_))
  dsimp only
  split
  · exact since_capFreezeAck (since_lowerFreeze (since_mk h))
  · exact since_stepFlip (since_lowerFreeze (since_mk h))
  · exact since_lowerFreeze (since_mk h)

theorem since_execFreezeTimeout (h : Since τ s) : NextSince τ (execFreezeTimeout s) := by
  refine since_next (since_ite h ?_)
  dsimp only
  split
  · exact since_capFreezeTimeout (since_logPartner (since_lowerFreeze h))
  · split
    · exact since_conclude (since_fail (since_onStep (since_logPartner (since_lowerFreeze h))))
    · exact since_logPartner (since_lowerFreeze h)
  · exact since_logPartner (since_lowerFreeze h)

theorem since_execWakeStart (h : Since τ s) : NextSince τ (execWakeStart s) := by
  refine since_next ?_
  dsimp only
  split
  · exact h
  · exact since_ite h (since_mk h)

theorem since_execSqEntryFetch {ans : FetchAns} (h : Since τ s) : NextSince τ (execSqEntryFetch ans s) := by
  refine since_next (since_ite h ?_)
  dsimp only
  split
  · exact h
  · split
    · exact h
    · exact since_takeEntry (since_mk (since_onCh h))

theorem since_execCommandDispatch {ch : ℕ} {e : Ext} (h : Since τ s) : NextSince τ (execCommandDispatch ch e s) := by
  refine since_next (since_ite h ?_)
  split
  · exact since_dispatch h
  · exact h

theorem since_execClampGrant (h : Since τ s) : NextSince τ (execClampGrant s) := by
  refine since_next ?_
  split
  · exact since_tryGrant h
  · exact h

theorem since_execCompletionPost {e : Ext} (h : Since τ s) : NextSince τ (execCompletionPost e s) := by
  refine since_next ?_
  dsimp only
  split
  · exact since_post h
  · exact h

theorem since_execStatusWordUpdate {ch sq : ℕ} {cid : BitVec 16} {e : Ext} (h : Since τ s) : NextSince τ (execStatusWordUpdate ch sq cid e s) := by
  refine since_next ?_
  split
  · exact since_ite (since_ite (since_quarCq h) (since_putStatus h)) h
  · exact h

theorem since_execNackLeadTimer {ch : ℕ} {e : Ext} (h : Since τ s) : NextSince τ (execNackLeadTimer ch e s) := by
  refine since_next ?_
  dsimp only
  split
  · exact h
  · exact since_ite h (since_foldl (fun _ _ hu => since_ite hu (since_sendNacks hu)) (since_onSite h))

theorem since_execSupplyWarn {v : Bool} (h : Since τ s) : NextSince τ (execSupplyWarn v s) := by
  refine since_next (since_ite h (since_ite (since_mk h) (since_ite (since_mk (since_useTime (since_mk h))) ?_)))
  dsimp only
  split
  · exact since_useTime (since_mk h)
  · exact since_mk (since_useTime (since_mk h))

theorem since_execPeriodicSlice {o : SliceOutcome} (h : Since τ s) : NextSince τ (execPeriodicSlice o s) := by
  refine since_next (since_ite h (since_ite (since_wantDom h) (since_ite (since_deferWindow (since_monitor h)) ?_)))
  dsimp only
  split
  · exact since_takePeriodic (since_mk (since_of_fst ‹_› (since_tryUnits (since_mk (since_monitor h)))))
  · have ht := since_of_fst ‹_› (since_tryUnits (since_mk (since_monitor h)))
    split
    · exact since_takePeriodic (since_sweepPast (since_of_fst ‹_› (since_tryUnits ht)))
    · exact since_sweepPast (since_of_fst ‹_› (since_tryUnits ht))

theorem since_execSliceYield (h : Since τ s) : NextSince τ (execSliceYield s) := by
  refine since_next ?_
  dsimp only
  split
  · exact h
  · exact since_ite h (since_ite (since_mk (since_yielded (since_dropSlice h))) (since_mk (since_yielded (since_dropSlice h))))

theorem since_execSliceComplete {o : SliceOutcome} (h : Since τ s) : NextSince τ (execSliceComplete o s) := by
  refine since_next ?_
  dsimp only
  split
  · exact h
  · exact since_startWaiting (since_ite (since_sliceRecord (since_mk h)) (since_manualResult (since_sliceRecord (since_mk h))))

theorem since_execTapInstruction {code : BitVec 6} (h : Since τ s) : NextSince τ (execTapInstruction code s) := by
  refine since_next (since_ite (since_mk h) ?_)
  split
  · exact since_ite (since_loadIr h) (since_lampDenied (since_loadIr h))
  · exact since_loadIr h
  · exact since_loadIr h
  · exact since_loadIr h
  · exact since_ite (since_scan (since_loadIr h)) (since_scan (since_loadIr h))
  · exact since_openJig h
  · exact since_loadIr h

theorem since_execSumpSpillEntry {e : Ext} (h : Since τ s) : NextSince τ (execSumpSpillEntry e s) := by
  refine since_next (since_ite h ?_)
  split
  · exact h
  · exact since_ite (since_wantDom h) (since_spillOne h)

theorem since_execViolationDecay {p : Partner} (h : Since τ s) : NextSince τ (execViolationDecay p s) := by
  refine since_next ?_
  dsimp only
  split
  · exact since_onSq h
  · exact since_onCq h
  · exact since_onNvme h
  · exact since_onSite h
  · exact since_mk h

theorem since_execTagTimeout {ref : TagRef} (h : Since τ s) : NextSince τ (execTagTimeout ref s) := by
  refine since_next ?_
  dsimp only
  split
  · exact h
  · split
    · exact since_cause (since_log (since_holdTag h))
    · exact since_cause (since_log (since_holdTag h))

theorem since_execFabReadData {port tag : ℕ} {data : List Byte} {poison err : Bool} (h : Since τ s) : NextSince τ (execFabReadData port tag data
    poison err s) := by
  refine since_next (since_ite h ?_)
  dsimp only
  split
  · exact since_logPartner h
  · exact since_ite (since_lateAnswer h) (since_gather (since_ite (since_logFab h) h))

theorem since_execFabWriteAck {port tag : ℕ} {err : Bool} (h : Since τ s) : NextSince τ (execFabWriteAck port tag err s) := by
  refine since_next (since_ite h ?_)
  split
  · exact since_logPartner h
  · exact since_acked (since_ite (since_logFab h) h)

theorem since_execTestOpcode {x : Sub} {e : Ext} (h : Since τ s) : NextSince τ (execTestOpcode x e s) := by
  unfold execTestOpcode
  split
  · exact since_next h
  · split
    · exact since_next (since_refuseSub h)
    · intro t ht
      cases ht

/-- A row other than the asserted cold resets uses no time before one used already. -/
theorem since_exec (h : Since τ s) : ∀ c, c ≠ .coldResetAssert → c ≠ .vddKaLoss → NextSince τ (exec c s)
  | .identify .., _, _ => since_next (since_runOp h (fun _ => since_bodyIdentify))
  | .negotiate .., _, _ => since_next (since_runOp h (fun _ => since_bodyNegotiate))
  | .queueCreate .., _, _ => since_next (since_runOp h (fun _ => since_bodyQueueCreate))
  | .queueDelete .., _, _ => since_next (since_runOp h (fun _ => since_bodyQueueDelete))
  | .featureGet .., _, _ => since_next (since_runOp h (fun _ => since_bodyFeatureGet))
  | .statusInterval .., _, _ => since_next (since_runOp h (fun _ => since_bodyStatusInterval))
  | .periodicSelfTest .., _, _ => since_next (since_runOp h (fun _ => since_bodyPeriodicSelfTest))
  | .sumpSpill .., _, _ => since_next (since_runOp h (fun _ => since_bodySumpSpill))
  | .reserveWatermarks .., _, _ => since_next (since_runOp h (fun _ => since_bodyReserveWatermarks))
  | .partnerThreshold .., _, _ => since_next (since_runOp h (fun _ => since_bodyPartnerThreshold))
  | .powerPolicy .., _, _ => since_next (since_runOp h (fun _ => since_bodyPowerPolicy))
  | .chainNoticeRate .., _, _ => since_next (since_runOp h (fun _ => since_bodyChainNoticeRate))
  | .logRead .., _, _ => since_next (since_runOp h (fun _ => since_bodyLogRead))
  | .selfTest .., _, _ => since_next (since_runOp h (fun _ => since_bodySelfTest))
  | .storeCreate .., _, _ => since_next (since_runOp h (fun _ => since_bodyStoreCreate))
  | .storeMount .., _, _ => since_next (since_runOp h (fun _ => since_bodyStoreMount))
  | .storeUnmount .., _, _ => since_next (since_runOp h (fun _ => since_bodyStoreDelete))
  | .storeDelete .., _, _ => since_next (since_runOp h (fun _ => since_bodyStoreDelete))
  | .chamberConfig .., _, _ => since_next (since_runOp h (fun _ => since_bodyChamberConfig))
  | .keySlotLoad .., _, _ => since_next (since_runOp h (fun _ => since_bodyKeySlotLoad))
  | .keySlotZeroise .., _, _ => since_next (since_runOp h (fun _ => since_bodyKeySlotZeroise))
  | .fwStage .., _, _ => since_next (since_runOp h (fun _ => since_bodyFwStage))
  | .fwActivate .., _, _ => since_next (since_runOp h (fun _ => since_bodyFwActivate))
  | .lifecycleAdvance .., _, _ => since_next (since_ite (since_retire (since_runOp h (fun _ => since_bodyLifecycleAdvance))) (since_runOp h
      (fun _ => since_bodyLifecycleAdvance)))
  | .chainMasterEnumerate .., _, _ => since_next (since_runOp h (fun _ => since_bodyChainEnum))
  | .chainSetMember .., _, _ => since_next (since_runOp h (fun _ => since_bodyChainMember))
  | .chainSetIsolated .., _, _ => since_next (since_runOp h (fun _ => since_bodyChainIsolated))
  | .chainReenumerate .., _, _ => since_next (since_runOp h (fun _ => since_bodyChainEnum))
  | .chainStatus .., _, _ => since_next (since_runOp h (fun _ => since_bodyChainStatus))
  | .abort .., _, _ => since_next (since_runOp h (fun _ => since_bodyAbort))
  | .storageAttach .., _, _ => since_next (since_runOp h (fun _ => since_bodyStorageAttach))
  | .storageDetach .., _, _ => since_next (since_runOp h (fun _ => since_bodyStorageDetach))
  | .chamberQuiesce .., _, _ => since_next (since_runOp h (fun _ => since_bodyChamberQuiesce))
  | .testOpcode _ e, _, _ => since_execTestOpcode (e := e) h
  | .regionDeclare .., _, _ => since_next (since_runOp h (fun _ => since_bodyRegionDeclare))
  | .regionRetire .., _, _ => since_next (since_runOp h (fun _ => since_bodyRegionRetire))
  | .capture .., _, _ => since_next (since_runOp h (fun _ => since_bodyCapture))
  | .drainHint .., _, _ => since_next (since_runOp h (fun _ => since_bodyDrainHint))
  | .captureCancel .., _, _ => since_next (since_runOp h (fun _ => since_bodyCaptureCancel))
  | .replicaSet .., _, _ => since_next (since_runOp h (fun _ => since_bodyReplicaSet))
  | .triggerArm .., _, _ => since_next (since_runOp h (fun _ => since_bodyTrigger))
  | .triggerDisarm .., _, _ => since_next (since_runOp h (fun _ => since_bodyTrigger))
  | .condense .., _, _ => since_next (since_runOp h (fun _ => since_bodyCondense))
  | .restore .., _, _ => since_next (since_runOp h (fun _ => since_bodyRestore))
  | .restoreSlice .., _, _ => since_next (since_runOp h (fun _ => since_bodyRestoreSlice))
  | .verify .., _, _ => since_next (since_runOp h (fun _ => since_bodyVerify))
  | .manifestRead .., _, _ => since_next (since_runOp h (fun _ => since_bodyManifestRead))
  | .streamOpen .., _, _ => since_next (since_runOp h (fun _ => since_bodyStreamOpen))
  | .streamClose .., _, _ => since_next (since_runOp h (fun _ => since_bodyStreamClose))
  | .streamSeek .., _, _ => since_next (since_runOp h (fun _ => since_bodyStreamSeek))
  | .streamCancel .., _, _ => since_next (since_runOp h (fun _ => since_bodyStreamCancel))
  | .dovetail .., _, _ => since_next (since_runDovetail h)
  | .programLoad .., _, _ => since_next (since_runOp h (fun _ => since_bodyProgramLoad))
  | .stepBegin .., _, _ => since_next (since_runOp h (fun _ => since_bodyStepBegin))
  | .stepMeasure .., _, _ => since_next (since_runOp h (fun _ hu => since_phased (since_bodyStepMeasure hu)))
  | .stepNorm .., _, _ => since_next (since_runOp h (fun _ => since_bodyStepNorm))
  | .stepApply .., _, _ => since_next (since_runOp h (fun _ hu => since_phased (since_bodyStepApply hu)))
  | .stepAbort .., _, _ => since_next (since_runOp h (fun _ => since_bodyStepAbort))
  | .stepRollback .., _, _ => since_next (since_runOp h (fun _ => since_bodyStepRollback))
  | .tierPlace .., _, _ => since_next (since_runOp h (fun _ => since_bodyTierPlace))
  | .anchorSet .., _, _ => since_next (since_runOp h (fun _ => since_bodyAnchorSet))
  | .deltaEmit .., _, _ => since_next (since_ite (since_siteSettle (since_runOp h (fun _ hu => since_phased (since_bodyDeltaEmit hu)))) (since_runOp
      h (fun _ hu => since_phased (since_bodyDeltaEmit hu))))
  | .deltaApply .., _, _ => since_next (since_runOp h (fun _ => since_bodyDeltaApply))
  | .peerEnable .., _, _ => since_next (since_runOp h (fun _ => since_bodyPeerConfig))
  | .peerDisable .., _, _ => since_next (since_runOp h (fun _ => since_bodyPeerConfig))
  | .replicaDigest .., _, _ => since_next (since_runOp h (fun _ => since_bodyReplicaDigest))
  | .digest .., _, _ => since_next (since_runOp h (fun _ => since_bodyDigest))
  | .hmac .., _, _ => since_next (since_runOp h (fun _ => since_bodyHmac))
  | .seal .., _, _ => since_next (since_runOp h (fun _ => since_bodySeal))
  | .unseal .., _, _ => since_next (since_runOp h (fun _ => since_bodyUnseal))
  | .extend .., _, _ => since_next (since_runOp h (fun _ => since_bodyExtend))
  | .syncAlloc .., _, _ => since_next (since_runOp h (fun _ => since_bodySyncAlloc))
  | .syncFree .., _, _ => since_next (since_runOp h (fun _ => since_bodySyncFree))
  | .syncSignal .., _, _ => since_next (since_runOp h (fun _ => since_bodySyncSignal))
  | .watchSet .., _, _ => since_next (since_runOp h (fun _ => since_bodyWatchSet))
  | .watchClear .., _, _ => since_next (since_runOp h (fun _ => since_bodyWatchClear))
  | .barrierJoin .., _, _ => since_next (since_runOp h (fun _ => since_bodyBarrierJoin))
  | .k2Credit .., _, _ => since_next (since_runTwin h (fun _ => since_bodyK2Credit))
  | .twinEntry .., _, _ => since_next (since_runTwin h (fun _ => since_bodyOf))
  | .sqTailDoorbell .., _, _ => since_next (since_pageWrite h (fun _ => since_tailWrite))
  | .cqHeadDoorbell .., _, _ => since_next (since_pageWrite h (fun _ => since_headWrite))
  | .sqEntryFetch .., _, _ => since_execSqEntryFetch h
  | .commandDispatch _ e, _, _ => since_execCommandDispatch (e := e) h
  | .clampGrant .., _, _ => since_execClampGrant h
  | .completionPost .., _, _ => since_execCompletionPost h
  | .statusWordUpdate .., _, _ => since_execStatusWordUpdate h
  | .adminQueueEnable .., _, _ => since_next (since_pageWrite h (fun _ => since_enableAdmin))
  | .adminSqDisable .., _, _ => since_next (since_pageWrite h (fun _ => since_disableSq0))
  | .adminCqDisable .., _, _ => since_next (since_pageWrite h (fun _ => since_disableCq0))
  | .ilvApply .., _, _ => since_next (since_globalWrite h (fun _ => since_applyIlv))
  | .fwLoad .., _, _ => since_next (since_globalWrite h (fun _ => since_loadFirmware))
  | .syncLinkWrite .., _, _ => since_execSyncLinkWrite h
  | .syncHandSet .., _, _ => since_execSyncHandSet h
  | .signalApertureWrite .., _, _ => since_execSignalApertureWrite h
  | .stagingRead .., _, _ => since_execStagingRead h
  | .stagingWrite .., _, _ => since_execStagingWrite h
  | .stagingReadTimeout .., _, _ => since_execStagingReadTimeout h
  | .readClearAccess .., _, _ => since_next (since_readReg h)
  | .rsvWmRead .., _, _ => since_next (since_ite (since_readReg h) h)
  | .halfWordWrite .., _, _ => since_next (since_writeReg h)
  | .registerWrite .., _, _ => since_next (since_writeReg h)
  | .dgtContextClaim .., _, _ => since_next (since_ctlWrite h)
  | .dgtContextRelease .., _, _ => since_next (since_ctlWrite h)
  | .dgtContextAbort .., _, _ => since_next (since_ctlWrite h)
  | .dgtContextRestore .., _, _ => since_next (since_ctlWrite h)
  | .dgtData .., _, _ => since_next (since_message h)
  | .dgtLast .., _, _ => since_next (since_ite h (since_message h))
  | .dgtFinish .., _, _ => since_next (since_message h)
  | .dgtMessageDone .., _, _ => since_next (since_ite h (since_ite (since_wantDom h) (since_ite (since_ctxError h) (since_drainCtx (since_onCtx h)))))
  | .dgtStateRead .., _, _ => since_next (since_ite (since_readReg h) h)
  | .hslotLoad .., _, _ => since_next (since_ite (since_fabWrite h (fun _ => since_ignoredWrite)) (since_dgtWindow h (fun _ hu =>
      since_hslotCtl hu)))
  | .hslotClear .., _, _ => since_next (since_ite (since_fabWrite h (fun _ => since_ignoredWrite)) (since_dgtWindow h (fun _ hu =>
      since_hslotCtl hu)))
  | .pwrWake .., _, _ => since_next (since_globalWrite h (fun _ => since_wakeReq))
  | .pwrOffReq .., _, _ => since_next (since_globalWrite h (fun _ => since_offReq))
  | .lampLower .., _, _ => since_next (since_globalWrite h (fun _ => since_lampCtl))
  | .coreHalt .., _, _ => since_next (since_globalWrite h (fun _ => since_haltCtl))
  | .coreResume .., _, _ => since_next (since_globalWrite h (fun _ => since_haltCtl))
  | .sumpClear .., _, _ => since_next (since_globalWrite h (fun _ => since_clearSump))
  | .spillConsume .., _, _ => since_next (since_globalWrite h (fun _ => since_spillCons))
  | .sdxKick .., _, _ => since_next (since_pageWrite h (fun _ hu => since_foldl (fun _ _ hu1 => since_ite (since_sdxPoll hu1) hu1) hu))
  | .lampUnlockRequest .., _, _ => since_next (since_ite h (since_lampRequest h))
  | .lampUnlockResponse .., _, _ => since_next (since_ite h (since_ite (since_lampRequest h) (since_lampResponse h)))
  | .scanEnter .., _, _ => since_next (since_ite h (since_scan h))
  | .jigManualSession .., _, _ => since_next (since_ite h (since_ite (since_openJig h) (since_loadIr h)))
  | .jigManualSlice .., _, _ => since_next (since_ite h (since_manualSlice h))
  | .tapInstruction .., _, _ => since_execTapInstruction h
  | .hreqRequest .., _, _ => since_next (since_ite (since_hreq h) h)
  | .copyComplete .., _, _ => since_execCopyComplete h
  | .stallRelease .., _, _ => since_execStallRelease h
  | .heldWriteLimit .., _, _ => since_execHeldWriteLimit h
  | .mrspResponse .., _, _ => since_next (since_ite h (since_ite (since_ownResponse h) (since_onSt h)))
  | .fabReadData .., _, _ => since_execFabReadData h
  | .fabWriteAck .., _, _ => since_execFabWriteAck h
  | .tagTimeout .., _, _ => since_execTagTimeout h
  | .captureStart .., _, _ => since_execCaptureStart h
  | .freezeAck .., _, _ => since_execFreezeAck h
  | .freezeAckFall .., _, _ => since_next (since_nextFreeze (since_mk h))
  | .freezeTimeout .., _, _ => since_execFreezeTimeout h
  | .cellTakeUnit _ _ e, _, _ => since_execCellTakeUnit (e := e) h
  | .directoryLookupAnswer .., _, _ => since_execDirectoryLookupAnswer h
  | .cipherAssign .., _, _ => since_execCipherAssign h
  | .cipherCoreFail .., _, _ => since_next (since_ite h (since_coreFailed h))
  | .blockWriteComplete .., _, _ => since_execBlockWriteComplete h
  | .blockWriteFailed .., _, _ => since_execBlockWriteFailed h
  | .sealWaitTimeout .., _, _ => since_next (since_ite (since_capFail h) h)
  | .captureCommit .., _, _ => since_execCaptureCommit h
  | .moverLoss .., _, _ => since_next (since_ite (since_loseMover h) h)
  | .eventPulse .., _, _ => since_next (since_ite h (since_foldl (fun _ _ hu => since_ite hu (since_ite (since_fireRule (since_mk hu)) (since_mk
      hu))) (since_mk h)))
  | .eventLevel .., _, _ => since_next (since_ite h (since_mk (since_mk h)))
  | .levelRuleTimer .., _, _ => since_next (since_foldl (fun _ _ hu => since_ite (since_fireRule hu) hu) h)
  | .keyLoadWord .., _, _ => since_next (since_ite h (since_ite (since_keyErr h) (since_ite (since_keyErr h) (since_ite (since_keyErr h)
      (since_keyErr (since_onKey h))))))
  | .keyCommit .., _, _ => since_next (since_ite h (since_ite (since_keyErr h) (since_ite (since_keyErr (since_zeroKey h)) (since_ite (since_keyErr
      h) (since_keyErr (since_commitKey h))))))
  | .keyZeroise .., _, _ => since_next (since_ite h (since_ite (since_keyErr h) (since_keyErr (since_zeroKey h))))
  | .keyLoadingTimeout .., _, _ => since_next (since_ite (since_logStatus (since_onKey h)) h)
  | .entropyWord .., _, _ => since_next (since_ite h (since_ite (since_mk h) (since_ite (since_logPartner (since_mk h)) (since_ite (since_mk
      (since_mk h)) (since_mk (since_mk h))))))
  | .drbgReseedDue .., _, _ => since_next (since_ite (since_mk h) h)
  | .drbgReseedTimeout .., _, _ => since_next (since_ite (since_logPartner (since_mk h)) h)
  | .wakeBudgetChange .., _, _ => since_next (since_mk h)
  | .supplyWarn .., _, _ => since_execSupplyWarn h
  | .wakeStart .., _, _ => since_execWakeStart h
  | .domainWakeComplete .., _, _ => since_next (since_ite h (since_ite (since_startWaiting (since_ite
      (since_wakeDone (since_ite (since_wakeRefused (since_takeImage (since_domainUp (since_mk h)) (fun _ => since_id))) (since_domainUp (since_mk h))))
      (since_ite (since_wakeRefused (since_takeImage (since_domainUp (since_mk h)) (fun _ => since_id))) (since_domainUp (since_mk h)))))
      (since_startWaiting (since_wakeOn (since_domainUp (since_mk h))))))
  | .idleTimer .., _, _ => since_next (since_ite (since_domainOff h) h)
  | .passEntry .., _, _ => since_next (since_ite (since_mk (since_foldl (fun _ _ hu => since_ite hu (since_domainOff hu)) (since_undefBuf
      (since_foldl (fun _ _ => since_onMedia) h)))) h)
  | .kxRailDetect .., _, _ => since_next (since_ite h (since_ite (since_railUp h) (since_railDown h)))
  | .coldReset .., _, _ => since_next (since_ite (since_coldStart h) h)
  | .warmResetAssert .., _, _ => since_next (since_ite h (since_warmAssert h))
  | .warmReset .., _, _ => since_next (since_ite (since_warmStart h) h)
  | .stileReset .., _, _ => since_next (since_ite h (since_stileReset h))
  | .stileResetRelease .., _, _ => since_next (since_ite h (since_onSt h))
  | .timeInRegress .., _, _ => since_next (since_ite h (since_ite (since_logStatus (since_mk h)) (since_mk h)))
  | .chainFrameReceived .., _, _ => since_execChainFrameReceived h
  | .chainTransmit .., _, _ => since_execChainTransmit h
  | .chainLinkDown .., _, _ => since_next (since_ite (since_cause (since_mustJoin (since_mk h))) (since_mk h))
  | .enum .., _, _ => since_next (since_frameRow h)
  | .beacon .., _, _ => since_next (since_frameRow h)
  | .trigger .., _, _ => since_next (since_frameRow h)
  | .notice .., _, _ => since_next (since_frameRow h)
  | .join .., _, _ => since_next (since_frameRow h)
  | .signal .., _, _ => since_next (since_frameRow h)
  | .signalAck .., _, _ => since_next (since_frameRow h)
  | .signalRefuse .., _, _ => since_next (since_frameRow h)
  | .barArrive .., _, _ => since_next (since_frameRow h)
  | .barWithdraw .., _, _ => since_next (since_frameRow h)
  | .barAck .., _, _ => since_next (since_frameRow h)
  | .barRelease .., _, _ => since_next (since_frameRow h)
  | .beaconTimer .., _, _ => since_next (since_ite (since_beacon h) h)
  | .enumTimeout .., _, _ => since_next (since_ite h (since_enumEnd (since_logStatus (since_mk h))))
  | .masterLoss .., _, _ => since_next (since_ite h (since_cause (since_mustJoin (since_mk (since_endChainJoins h)))))
  | .electionTimer .., _, _ => since_next (since_ite (since_enumStart (since_log h)) h)
  | .remoteSignalRetry .., _, _ => since_execRemoteSignalRetry h
  | .noticeRepeat .., _, _ => since_next (since_ite h (since_notice h))
  | .syncRemoteHoldExpiry .., _, _ => since_next (since_onObj h)
  | .barrierTimeout .., _, _ => since_execBarrierTimeout h
  | .violationDecay .., _, _ => since_execViolationDecay h
  | .streamIssue .., _, _ => since_execStreamIssue h
  | .streamLanding _ e, _, _ => since_execStreamLanding (e := e) h
  | .dependenceTimeout .., _, _ => since_next (since_ite (since_endBound h) h)
  | .sdxRingPoll .., _, _ => since_next (since_sdxPoll h)
  | .sdxFrameReceive .., _, _ => since_next (since_sdxReceive h)
  | .sdxNack .., _, _ => since_next (since_ite (since_sdxReceive h) h)
  | .sdxCatchupReq .., _, _ => since_next (since_ite (since_sdxReceive h) h)
  | .nackLeadTimer _ e, _, _ => since_execNackLeadTimer (e := e) h
  | .deltaDeadline .., _, _ => since_next (since_atDeadline (since_freeNat h))
  | .nvmeCompletion .., _, _ => since_execNvmeCompletion h
  | .nvmeCommandTimeout .., _, _ => since_next (since_ite h (since_ite (since_violNvme h) (since_ite (since_disableCtrl (since_logStatus
      (since_violNvme h))) (since_onNvme (since_violNvme h)))))
  | .nvmeSmartPoll .., _, _ => since_next (since_ite h (since_ite (since_log (since_onNvme h)) (since_onNvme h)))
  | .journalCheckpoint .., _, _ => since_execJournalCheckpoint h
  | .gcCompact .., _, _ => since_execGcCompact h
  | .bitmapRowSweep .., _, _ => since_execBitmapRowSweep h
  | .sumpSpillEntry .., _, _ => since_execSumpSpillEntry h
  | .heartbeatTimeout .., _, _ => since_next (since_ite (since_failover h) h)
  | .slabCopy .., _, _ => since_next (since_ite (since_mk h) h)
  | .cc0Watchdog .., _, _ => since_next (since_ite h (since_log h))
  | .periodicSlice .., _, _ => since_execPeriodicSlice h
  | .sliceYield .., _, _ => since_execSliceYield h
  | .sliceComplete .., _, _ => since_execSliceComplete h
  | .cellSelfCheckFail .., _, _ => since_next (since_ite (since_cellOut h) h)
  | .controlCoreFailure .., _, _ => since_next (since_ite h (since_ite (since_storageCore h) (since_ite (since_ite (since_failover h) h)
      (since_restarted (since_mk h)))))
  | .sramFault .., _, _ => since_next (since_ite h (since_raise (since_retireRow h)))
  | .vddKxRemoval .., _, _ => since_next (since_ite h (since_railDown h))
  | .lampBackoffExpiry .., _, _ => since_next (since_mk h)
  | .jigWindowRegained .., _, _ => since_next (since_ite h (since_ite (since_startWaiting (since_mk (since_monitor h))) (since_monitor h)))
  | .noticeToken .., _, _ => since_execNoticeToken h
  | .halfWordRead .., _, _ => since_next (since_readReg h)
  | .coldResetAssert, hcold, _ => absurd rfl hcold
  | .vddKaLoss, _, hrail => absurd rfl hrail

end

/-! A regress of TIME_IN, and an idle step. -/

/-- An entry of the log is stamped with the time, which is then the time used. -/
theorem timeUsed_log (s : State) (c : BitVec 16) (v k i : Nat) (ch : Option Nat) (d : List Byte) : (s.log c v k i ch d).timeUsed = s.now := by
  unfold State.log State.notice
  dsimp only
  (repeat' split) <;> rfl

theorem now_log (s : State) (c : BitVec 16) (v k i : Nat) (ch : Option Nat) (d : List Byte) : (s.log c v k i ch d).now = s.now := by
  have hin : (s.log c v k i ch d).timeIn = s.timeIn := by rw [log_frame]
  rw [now_eq_max (s.log c v k i ch d), hin, timeUsed_log, now_eq_max]
  exact (Nat.max_assoc ..).symm.trans (congrArg (max · s.timeUsed) (Nat.max_self _))

/-- The state in which TIME_IN reads `n` below the last value used. -/
def regressed (s : State) (n : Nat) : State := { s with timeIn := n, timeBack := true }

theorem now_regressed {s : State} {n : Nat} (hback : n < s.timeUsed) : (regressed s n).now = s.timeUsed := if_pos hback

theorem exec_timeInRegress {s : State} {n : Nat} (hheld : s.boot.resetHeld ≠ 2) (hback : n < s.timeUsed) : exec (.timeInRegress n) s =
    .next (if !s.timeBack then (regressed s n).logStatus sNotInState 0 0 none (leBytes 8 n) else regressed s n) := by
  have hread : ¬(s.boot.resetHeld = 2 ∨ s.timeUsed ≤ n) := by
    rintro (hx | hx)
    · exact hheld hx
    · omega
  exact congrArg Host.Outcome.next (if_neg hread)

theorem timeInRegress_logsOnce {s : State} {n : Nat} (hheld : s.boot.resetHeld ≠ 2) (hback : n < s.timeUsed) :
    ∃ t, exec (.timeInRegress n) s = .next t ∧ t.now = s.timeUsed ∧ (s.timeBack = true → t = regressed s n) ∧
      (s.timeBack = false → ∃ c v d, t = (regressed s n).log c v 0 0 none d) := by
  rw [exec_timeInRegress hheld hback]
  cases hseen : s.timeBack with
  | true => exact ⟨regressed s n, rfl, now_regressed hback, fun _ => rfl, nofun⟩
  | false =>
    exact ⟨(regressed s n).logStatus sNotInState 0 0 none (leBytes 8 n), rfl, (now_log ..).trans (now_regressed hback), nofun,
      fun _ => ⟨_, _, _, rfl⟩⟩

/-- Settles O53: a regress is logged once and leaves the time, an idle step adds one nanosecond, and no row but a cold reset goes back. -/
theorem timeNeverRunsBack : Obligations.TimeNeverRunsBack := by
  unfold Obligations.TimeNeverRunsBack
  refine ⟨?_, ?_, ?_⟩
  · intro s n hheld hback
    exact timeInRegress_logsOnce hheld hback
  · intro s hidle
    exact ⟨s.tick, step_of_nil hidle, rfl, rfl, rfl, now_eq_max s.tick⟩
  · intro c s t hcold hrail hexec
    have hsince : s.timeUsed ≤ t.timeUsed := since_exec (Nat.le_refl s.timeUsed) c hcold hrail t hexec
    exact ⟨hsince, timeUsed_le_now t⟩

end Sys2Proof.Proofs
end
